-- ==== Sys2Proof/Word.lean ====
section
/-! DEFINITION. Word.lean: the machine's words (R7, R10): bytes, 64-bit words, FP32 patterns, and the keyed
table in which State keeps things that exist many times. -/
namespace Sys2Proof

/-- One byte. -/
abbrev Byte := BitVec 8

/-- A register, a command word, a memory word: 64 bits, bit 0 least significant (R7, R10). -/
abbrev W64 := BitVec 64

/-- A 32-bit lane: an FP32 or INT32 pattern (R79, R244). -/
abbrev W32 := BitVec 32

/-- A table of `α` by key, in which a key that is not listed holds a default that the reader names.
The first entry of a key counts; `Machine.Tbl.set` keeps one entry for each key. -/
abbrev Tbl (κ α : Type) := List (κ × α)

end Sys2Proof
end

