-- ==== Sys2Proof/Syntax.lean ====
section
/-! DEFINITION. Syntax.lean: the commands of the block, one constructor for each row of the table of operations and
events, with the operands that come with it from outside. A row that is a mailbox command carries the request's
words; a row that is an event carries what the event brings; an instruction of the vector engine carries its word. -/
namespace Sys2Proof

/-- The units of the module (R3, R19): the module itself, I/O dies (0 is IOD-N, 1 is IOD-S), compute dies,
regions, clusters, cores, caddies, links, and the contexts that a context hop names (R29). -/
inductive UnitId where
  | module
  | iod (n : Nat)
  | die (n : Nat)
  | region (n : Nat)
  | cluster (n : Nat)
  | core (n : Nat)
  | caddy (n : Nat)
  | link (n : Nat)
  | ctx (n : Nat)
deriving DecidableEq, Repr

/-- Which part of a register an access reaches (R15). -/
inductive Half where
  | full
  | low
  | high
deriving DecidableEq, Repr

/-- A register access from the host: the function (0 the physical function, k virtual function k), the byte offset
in that function's register space, the width in bits, and for a write its data (R16). -/
structure Access where
  fn : Nat
  off : Nat
  width : Nat
  value : W64
deriving DecidableEq, Repr

/-- A mailbox request (R379): the mailbox, the bits [63:16] of word 0 (TAG, PATH_WORDS and the reserved bits), and
the words after it. Bits [15:0] are the row's own command code. -/
structure Req where
  mb : Nat
  top : BitVec 48
  rest : List W64
deriving DecidableEq, Repr

/-- What the host's memory gives when a command reads it: the words, or how the access failed, with the codes 1 to
4 of HOST_DMA_FAULT (R779, R844). -/
inductive HostRead where
  | ok (ws : List W64)
  | fail (kind : Nat)
deriving DecidableEq, Repr

/-- A timing word taken from a link, with the delay and the offset measured from it (R49, R75). -/
structure TimingWord where
  count : Nat
  phase : Nat
  periodQ : Nat
  hops : Nat
  offsetNs : Int
  delayNs : Nat
  /-- the far end's counters of each virtual channel: sent, received, credits granted -/
  sent : List Nat
  received : List Nat
  granted : List Nat
deriving DecidableEq, Repr

/-- Work that a DEADLINE_XFER record names: a core's transfer, a collective operation, an infuser load (R64, R715). -/
inductive XferRef where
  | core (k : Nat)
  | coll (ctx op : Nat)
  | load (ctx loadId : Nat)
deriving DecidableEq, Repr

/-- One 10 µs sample (R77, R664, R800): input voltage and current, the share of the
stacks', caddies' and links' cycles each context held, the temperatures and rail voltages, and the margins. -/
structure PowerSample where
  mv : Nat
  ma : Nat
  /-- cycles each context held each shared part in the sample: part (0 to 15 stacks, 16 to 19 caddies, 20 to 67
  links), context, cycles held; and the sample's cycles of the part -/
  held : List (Nat × Nat × Nat)
  cycles : Nat
  /-- per region: junction temperature in 1/16 °C, rail in mV, voltage margin in mV, timing margin in 0.125 % -/
  regions : List (Int × Nat × Int × Nat)
  /-- I/O dies 0 and 1, then caddies 0 to 3: temperature in 1/16 °C, rail in mV -/
  others : List (Int × Nat)
  /-- stacks 0 to 15: temperature in °C -/
  stackTemps : List Int
  /-- per link: weakest wavelength, its received power in 0.1 dBm, optical margin in 0.1 dB -/
  optics : List (Nat × Int × Int)
  /-- coolant: inlet and outlet temperature in 1/16 °C -/
  inlet : Int
  outlet : Int
deriving DecidableEq, Repr

/-- A commit message taken from the fabric (R594): its sender's DN and the fields of its words; the row gives the
message kind. -/
structure CommitMsg where
  src : Nat
  /-- EPOCH_LOW of its packet (R498) -/
  epoch : Nat
  cause : Nat
  rank : Nat
  job : W64
  step : Nat
  arg : W64
deriving DecidableEq, Repr

/-- A heartbeat frame's payload (R624). -/
structure Beat where
  dn : Nat
  health : Nat
  state : Nat
  watch : Bool
  votedOut : Bool
  links : Nat
  count : Nat
  masterDn : Nat
  deputyDn : Nat
  mver : Nat
deriving DecidableEq, Repr

/-- A frame taken from a link (R478): its two header words, 32 payload words and check word; whether a codeword with a
bit of it was uncorrectable (R477); and symbols corrected and codewords lost since the frame before (R541). -/
structure Frame where
  h0 : W64
  h1 : W64
  payload : List W64
  check : W64
  uncorr : Bool
  symbols : Nat
  lost : Nat
  /-- bits of payload words, as word and bit of the 72, that turn over on the payload path behind the link code (R313) -/
  upset : List (Nat × Nat) := []
deriving DecidableEq, Repr

/-- A fabric packet as its engine takes it (R498): its route word, and the words after its destination path. -/
structure Pkt where
  route : W64
  body : List W64
deriving DecidableEq, Repr

/-- A message of the outer round (R570, R573, R575, R581): the round's OUTER_ID, its sender's DN, and its words. The row
gives its kind; the layout of the words is the model's own. -/
structure OuterMsg where
  id : Nat
  src : Nat
  words : List W64
deriving DecidableEq, Repr

/-- A frame taken from a far link (R548): its 36 words, header, sealed payload and tag; whether a codeword with a bit of
it was uncorrectable (R477); symbols corrected and codewords lost since the frame before. -/
structure FarFrame where
  words : List W64
  uncorr : Bool
  symbols : Nat
  lost : Nat
deriving DecidableEq, Repr

/-- What a boot stage finds in the flash (R741, R744, R747, R755): the recovered seed (ROM only); whether the images
that the stage loads are well formed in the bank tried first and in the other bank; their digests in the order of
the table of R741; and whether the configuration record's signature verifies. -/
structure BootLoad where
  seed : Option (List Byte)
  firstOk : Bool
  otherOk : Bool
  digests : List (List Byte)
  sigOk : Bool
deriving DecidableEq, Repr

/-- A KEY_DELIVER request (R761): its fields. -/
structure KeyDelivery where
  kind : Nat
  ctx : Nat
  reserved : Nat
  key : List W64
deriving DecidableEq, Repr

/-- Bits of a pass's accumulator set that turned over: `stored` in its stored words before the additions of the run read
them (R837), `cells` in cells that the adders got wrong. -/
structure PassUpset where
  stored : List (Nat × Nat)
  cells : List (Nat × Nat)
deriving DecidableEq, Repr

/-- The end of a sweep (R362 to R364): the pool, and the pairs of queues whose chains the sweep found to reach one cell. -/
structure Sweep where
  pool : Nat
  crossed : List (Nat × Nat)
deriving DecidableEq, Repr

/-- The end of a die's context switch (R419). `upset` names bits of HELD sets that the save found turned over: word
4,096 × core of the die + 64 × row + pair (R837). -/
structure SwitchEnd where
  die : Nat
  upset : List (Nat × Nat)
deriving DecidableEq, Repr

/-- The end of a caddy's tile (R447): its cycles, and words of the granules read with bits of theirs that turned over on the
way to the caddy. -/
structure TileDone where
  cycles : Nat
  upset : List (Nat × Nat)
deriving DecidableEq, Repr

/-- The commands of the block: the rows of the table, in its order. -/
inductive Instr where
  /-- REG_WRITE (R11). -/
  | regWrite (a : Access)
  /-- RC_REGISTER_READ (R11). -/
  | rcRegisterRead (a : Access)
  /-- UNMAPPED_ACCESS (R16). -/
  | unmappedAccess (a : Access) (write : Bool)
  /-- STEEP_PERIOD_WRITE (R43). -/
  | steepPeriodWrite (h : Half) (v : W64)
  /-- STEEP_SWITCH_AT_WRITE (R44). -/
  | steepSwitchAtWrite (h : Half) (v : W64)
  /-- STEEP_PHASE_READ (R47). -/
  | steepPhaseRead (h : Half)
  /-- STEEP_COUNT_READ (R47). -/
  | steepCountRead (h : Half)
  /-- STEEP_LATCH_RELEASE (R47). -/
  | steepLatchRelease
  /-- STEEP_BOUNDARY (R56). -/
  | steepBoundary
  /-- TIMING (R49). -/
  | timing (link : Nat) (w : TimingWord)
  /-- TIME_LOST_CLEAR (R53). -/
  | timeLostClear
  /-- TIME_HOLDOVER (R53). -/
  | timeHoldover
  /-- COMPOSITE_MEMBER_TIMEOUT (R24). -/
  | compositeMemberTimeout (fan : Nat)
  /-- FENCE_DRAIN_COMPLETE (R35). -/
  | fenceDrainComplete (u : UnitId)
  /-- FENCE_TERMINATIONS_DONE (R36). -/
  | fenceTerminationsDone (u : UnitId)
  /-- FENCE_ESCALATED (R37). -/
  | fenceEscalated (u : UnitId)
  /-- FENCE_RESET_DUE (R38). -/
  | fenceResetDue (u : UnitId)
  /-- DEADLINE_BOUNDARY (R59). -/
  | deadlineBoundary
  /-- DEADLINE_SLICE_CE (R63). -/
  | deadlineSliceCe (ctx slot : Nat)
  /-- DEADLINE_SLICE_UC (R64). -/
  | deadlineSliceUc (ctx slot : Nat)
  /-- DEADLINE_XFER_CE (R63). -/
  | deadlineXferCe (w : XferRef)
  /-- DEADLINE_XFER_UC (R64). -/
  | deadlineXferUc (w : XferRef)
  /-- DEADLINE_POUR (R231). -/
  | deadlinePour (core : Nat)
  /-- DEADLINE_CADDY (R472). -/
  | deadlineCaddy (caddy : Nat)
  /-- DEADLINE_AUDIT (R64). -/
  | deadlineAudit
  /-- AUDIT_COMPLETE (R74). -/
  | auditComplete
  /-- POWER_SAMPLE (R800). -/
  | powerSample (p : PowerSample)
  /-- MT_FWD (R156). -/
  | mtFwd (core : Nat) (cmd : List W64)
  /-- MT_DGRAD (R191). -/
  | mtDgrad (core : Nat) (cmd : List W64)
  /-- MT_WGRAD (R192). -/
  | mtWgrad (core : Nat) (cmd : List W64)
  /-- TILE_START (R221). -/
  | tileStart (core : Nat)
  /-- PASS_SETTLE_END (R204). -/
  | passSettleEnd (core cycles : Nat) (upset : PassUpset)
  /-- POUR_COMPLETE (R204). -/
  | pourComplete (core : Nat) (bad : Bool) (upset : List (Nat × Nat))
  /-- STRAINER_INJECT_ARM (R189). -/
  | strainerInjectArm (core : Nat) (h : Half) (v : W64)
  /-- SLICE_COMPLETE (R172). -/
  | sliceComplete (ctx slot cycles waited : Nat)
  /-- GRAD_GATHER (R200). -/
  | gradGather (core : Nat) (cmd : List W64)
  /-- GRAD_GATHER_COMPLETE (R201). -/
  | gradGatherComplete (core : Nat)
  /-- VEC_RUN (R252). -/
  | vecRun (core : Nat) (cmd : List W64)
  /-- VEC_RUN_COMPLETE (R253). -/
  | vecRunComplete (core cycles : Nat)
  /-- NOP (R263). -/
  | nop (core : Nat) (w : W64)
  /-- VSETVL (R263). -/
  | vsetvl (core : Nat) (w : W64)
  /-- SLI (R263). -/
  | sli (core : Nat) (w : W64)
  /-- SSHLI (R263). -/
  | sshli (core : Nat) (w : W64)
  /-- SADD (R263). -/
  | sadd (core : Nat) (w : W64)
  /-- SMUL (R263). -/
  | smul (core : Nat) (w : W64)
  /-- SLD (R263). -/
  | sld (core : Nat) (w : W64)
  /-- SST (R263). -/
  | sst (core : Nat) (w : W64)
  /-- VEXT (R277). -/
  | vext (core : Nat) (w : W64)
  /-- VBCST (R263). -/
  | vbcst (core : Nat) (w : W64)
  /-- VMSET (R263). -/
  | vmset (core : Nat) (w : W64)
  /-- VMGET (R263). -/
  | vmget (core : Nat) (w : W64)
  /-- VMOP (R263). -/
  | vmop (core : Nat) (w : W64)
  /-- VIDX (R263). -/
  | vidx (core : Nat) (w : W64)
  /-- SGETF (R263). -/
  | sgetf (core : Nat) (w : W64)
  /-- SCLRF (R251). -/
  | sclrf (core : Nat) (w : W64)
  /-- VLD (R263). -/
  | vld (core : Nat) (w : W64)
  /-- VST (R263). -/
  | vst (core : Nat) (w : W64)
  /-- VLDS (R263). -/
  | vlds (core : Nat) (w : W64)
  /-- VSTS (R263). -/
  | vsts (core : Nat) (w : W64)
  /-- VUNPK (R274). -/
  | vunpk (core : Nat) (w : W64)
  /-- VPACK (R275). -/
  | vpack (core : Nat) (w : W64)
  /-- VCVT (R273). -/
  | vcvt (core : Nat) (w : W64)
  /-- VFADD (R265). -/
  | vfadd (core : Nat) (w : W64)
  /-- VFSUB (R265). -/
  | vfsub (core : Nat) (w : W64)
  /-- VFMUL (R265). -/
  | vfmul (core : Nat) (w : W64)
  /-- VFMA (R265). -/
  | vfma (core : Nat) (w : W64)
  /-- VFDIV (R267). -/
  | vfdiv (core : Nat) (w : W64)
  /-- VFSQRT (R267). -/
  | vfsqrt (core : Nat) (w : W64)
  /-- VFRSQRT (R267). -/
  | vfrsqrt (core : Nat) (w : W64)
  /-- VFMAX (R266). -/
  | vfmax (core : Nat) (w : W64)
  /-- VFMIN (R266). -/
  | vfmin (core : Nat) (w : W64)
  /-- VFABS (R266). -/
  | vfabs (core : Nat) (w : W64)
  /-- VFNEG (R266). -/
  | vfneg (core : Nat) (w : W64)
  /-- VFEXP (R267). -/
  | vfexp (core : Nat) (w : W64)
  /-- VFLOG (R267). -/
  | vflog (core : Nat) (w : W64)
  /-- VFTANH (R267). -/
  | vftanh (core : Nat) (w : W64)
  /-- VFSIG (R267). -/
  | vfsig (core : Nat) (w : W64)
  /-- VFCMP (R266). -/
  | vfcmp (core : Nat) (w : W64)
  /-- VBADD (R265). -/
  | vbadd (core : Nat) (w : W64)
  /-- VBMUL (R265). -/
  | vbmul (core : Nat) (w : W64)
  /-- VBFMA (R265). -/
  | vbfma (core : Nat) (w : W64)
  /-- VBPACK (R263). -/
  | vbpack (core : Nat) (w : W64)
  /-- VIADD (R268). -/
  | viadd (core : Nat) (w : W64)
  /-- VISUB (R268). -/
  | visub (core : Nat) (w : W64)
  /-- VIADDS (R269). -/
  | viadds (core : Nat) (w : W64)
  /-- VISUBS (R269). -/
  | visubs (core : Nat) (w : W64)
  /-- VIMUL (R268). -/
  | vimul (core : Nat) (w : W64)
  /-- VIMULS (R269). -/
  | vimuls (core : Nat) (w : W64)
  /-- VIMAX (R263). -/
  | vimax (core : Nat) (w : W64)
  /-- VIMIN (R263). -/
  | vimin (core : Nat) (w : W64)
  /-- VIABS (R269). -/
  | viabs (core : Nat) (w : W64)
  /-- VSHL (R270). -/
  | vshl (core : Nat) (w : W64)
  /-- VSHLS (R270). -/
  | vshls (core : Nat) (w : W64)
  /-- VSHR (R270). -/
  | vshr (core : Nat) (w : W64)
  /-- VSRA (R270). -/
  | vsra (core : Nat) (w : W64)
  /-- VSRAR (R271). -/
  | vsrar (core : Nat) (w : W64)
  /-- VICMP (R263). -/
  | vicmp (core : Nat) (w : W64)
  /-- VAND (R271). -/
  | vand (core : Nat) (w : W64)
  /-- VOR (R271). -/
  | vor (core : Nat) (w : W64)
  /-- VXOR (R271). -/
  | vxor (core : Nat) (w : W64)
  /-- VNOT (R271). -/
  | vnot (core : Nat) (w : W64)
  /-- VPERM (R276). -/
  | vperm (core : Nat) (w : W64)
  /-- VROT (R263). -/
  | vrot (core : Nat) (w : W64)
  /-- VSEL (R263). -/
  | vsel (core : Nat) (w : W64)
  /-- VFREDSUM (R279). -/
  | vfredsum (core : Nat) (w : W64)
  /-- VFREDMAX (R279). -/
  | vfredmax (core : Nat) (w : W64)
  /-- VIREDSUM (R279). -/
  | viredsum (core : Nat) (w : W64)
  /-- VSMRST (R280). -/
  | vsmrst (core : Nat) (w : W64)
  /-- VSMMAX (R281). -/
  | vsmmax (core : Nat) (w : W64)
  /-- VSMSUM (R282). -/
  | vsmsum (core : Nat) (w : W64)
  /-- VSMNRM (R283). -/
  | vsmnrm (core : Nat) (w : W64)
  /-- VXENT (R290). -/
  | vxent (core : Nat) (w : W64)
  /-- VNACC (R287). -/
  | vnacc (core : Nat) (w : W64)
  /-- VNFIN (R288). -/
  | vnfin (core : Nat) (w : W64)
  /-- VFNORM (R289). -/
  | vfnorm (core : Nat) (w : W64)
  /-- XFER (R302). -/
  | xfer (core : Nat) (cmd : List W64) (upset : List (Nat × Nat))
  /-- XFER_COMPLETE (R309). -/
  | xferComplete (core : Nat)
  /-- SCRUB_READ (R320). -/
  | scrubRead (tier : Nat) (upset : List Nat)
  /-- REPAIR_LIST_ADD (R322). -/
  | repairListAdd (place row : Nat)
  /-- ECC_INJECT_ARM (R329). -/
  | eccInjectArm (h : Half) (v : W64)
  /-- MEMORY_TRAINING_STEP_DONE (R323). -/
  | memoryTrainingStepDone (part : Nat) (ok : Bool)
  /-- PERIODIC_CALIBRATION (R326). -/
  | periodicCalibration (stack package : Nat)
  /-- QUEUE_OPEN (R337). -/
  | queueOpen (pool qid port ty : Nat) (ctx : Option Nat)
  /-- QUEUE_APPEND (R337). -/
  | queueAppend (pool qid port : Nat) (ws : List W64) (inputUe : Bool)
  /-- QUEUE_COMMIT (R338). -/
  | queueCommit (pool qid port : Nat)
  /-- QUEUE_ABORT (R337). -/
  | queueAbort (pool qid port : Nat)
  /-- QUEUE_READ (R348). -/
  | queueRead (pool qid n : Nat) (upset links : List (Nat × Nat))
  /-- QUEUE_NEXT (R348). -/
  | queueNext (pool qid : Nat)
  /-- QUEUE_MARK (R348). -/
  | queueMark (pool qid m : Nat)
  /-- QUEUE_CURSOR_REWIND (R348). -/
  | queueCursorRewind (pool qid m : Nat)
  /-- QUEUE_RELEASE (R348). -/
  | queueRelease (pool qid n : Nat)
  /-- QUEUE_PURGE (R348). -/
  | queuePurge (pool qid seq : Nat)
  /-- PRODUCER_CELL_GRANT (R343). -/
  | producerCellGrant (pool qid port : Nat)
  /-- QUEUE_NO_CELL (R344). -/
  | queueNoCell (pool qid port : Nat)
  /-- QUEUE_DRAINED (R356). -/
  | queueDrained (pool qid : Nat)
  /-- POOL_SWEEP_COMPLETE (R363). -/
  | poolSweepComplete (pool : Sweep)
  /-- HELD_EVENT_WRITE (R843). -/
  | heldEventWrite (ctx : Nat)
  /-- MB_DOORBELL (R371). -/
  | mbDoorbell (fn mb : Nat) (v : W64)
  /-- MB_COMP_ACK (R375). -/
  | mbCompAck (fn mb : Nat) (v : W64)
  /-- MB_CFG_RESET (R376). -/
  | mbCfgReset (fn mb : Nat) (v : W64)
  /-- GET_VERSION (R382). -/
  | getVersion (r : Req)
  /-- UNIT_QUERY (R32). -/
  | unitQuery (r : Req)
  /-- UNIT_FENCE (R839). -/
  | unitFence (r : Req)
  /-- UNIT_RELEASE (R840). -/
  | unitRelease (r : Req)
  /-- UNIT_ENABLE (R384). -/
  | unitEnable (r : Req)
  /-- UNIT_DISABLE (R386). -/
  | unitDisable (r : Req)
  /-- UNIT_RESET (R688). -/
  | unitReset (r : Req)
  /-- CONTEXT_CREATE (R407). -/
  | contextCreate (r : Req)
  /-- CONTEXT_DESTROY (R410). -/
  | contextDestroy (r : Req)
  /-- CONTEXT_PARTITION (R411). -/
  | contextPartition (r : Req)
  /-- DIE_SCHEDULE (R413). -/
  | dieSchedule (r : Req)
  /-- CONTEXT_INFO (R382). -/
  | contextInfo (r : Req)
  /-- STREAM_SUBMIT (R390). -/
  | streamSubmit (r : Req) (host : HostRead)
  /-- STREAM_CANCEL (R403). -/
  | streamCancel (r : Req)
  /-- SLOT_RESUME (R402). -/
  | slotResume (r : Req)
  /-- STAGE_MAP (R420). -/
  | stageMap (r : Req)
  /-- INTERFERENCE_SET (R424). -/
  | interferenceSet (r : Req)
  /-- DOMAIN_PERIOD (R45). -/
  | domainPeriod (r : Req)
  /-- COMPOSITE_DECLARE (R23). -/
  | compositeDeclare (r : Req)
  /-- COMPOSITE_DISSOLVE (R382). -/
  | compositeDissolve (r : Req)
  /-- STREAM (R393). -/
  | stream (ctx slot : Nat) (cmd : List W64)
  /-- SLICE (R393). -/
  | slice (ctx slot : Nat) (cmd : List W64)
  /-- SECTION (R393). -/
  | sectionCmd (ctx slot : Nat) (cmd : List W64)
  /-- LITERALS (R399). -/
  | literals (ctx slot : Nat) (cmd : List W64)
  /-- KEEP_LIVE (R398). -/
  | keepLive (ctx slot : Nat) (cmd : List W64)
  /-- MARK (R393). -/
  | mark (ctx slot : Nat) (cmd : List W64)
  /-- CONTEXT_SWITCH_COMPLETE (R419). -/
  | contextSwitchComplete (die : SwitchEnd)
  /-- INTERFERENCE_WINDOW_END (R424). -/
  | interferenceWindowEnd (ctx : Nat)
  /-- UPD_STEP (R449). -/
  | updStep (ctx slot : Nat) (cmd : List W64)
  /-- UPD_INIT (R467). -/
  | updInit (ctx slot : Nat) (cmd : List W64)
  /-- UPD_CARRY (R467). -/
  | updCarry (ctx slot : Nat) (cmd : List W64)
  /-- UPD_COPY (R467). -/
  | updCopy (ctx slot : Nat) (cmd : List W64)
  /-- UPD_OUTER_DIFF (R468). -/
  | updOuterDiff (ctx slot : Nat) (cmd : List W64)
  /-- UPD_OUTER_APPLY (R469). -/
  | updOuterApply (ctx slot : Nat) (cmd : List W64)
  /-- UPD_RETIRE (R467). -/
  | updRetire (ctx slot : Nat) (cmd : List W64)
  /-- CADDY_TILE_DONE (R447). -/
  | caddyTileDone (caddy : Nat) (cycles : TileDone)
  /-- FABRIC_IDENTITY (R495). -/
  | fabricIdentity (r : Req)
  /-- FABRIC_NEIGHBOURS (R510). -/
  | fabricNeighbours (r : Req)
  /-- ROUTE_LOAD (R505). -/
  | routeLoad (r : Req)
  /-- ROUTE_DEPTHS (R502). -/
  | routeDepths (r : Req)
  /-- ROUTE_COMMIT (R506). -/
  | routeCommit (r : Req)
  /-- LINK_ALLOC (R484). -/
  | linkAlloc (r : Req)
  /-- LINK_RETRAIN (R510). -/
  | linkRetrain (r : Req)
  /-- COLL_GROUP (R512). -/
  | collGroup (r : Req)
  /-- INFUSE_CHAIN (R538). -/
  | infuseChain (r : Req)
  /-- DATA_FRAME (R488). -/
  | dataFrame (link : Nat) (f : Frame)
  /-- IDLE (R479). -/
  | idle (link : Nat) (f : Frame)
  /-- CREDIT_INIT (R491). -/
  | creditInit (link vc cells : Nat)
  /-- DISCOVERY (R496). -/
  | discovery (link : Nat) (f : Frame)
  /-- HEARTBEAT (R624). -/
  | heartbeat (link : Nat) (b : Beat)
  /-- NAK_REPEAT (R488). -/
  | nakRepeat (link : Nat)
  /-- ACK_TIMEOUT_REPLAY (R488). -/
  | ackTimeoutReplay (link : Nat)
  /-- ACK_STALL (R489). -/
  | ackStall (link : Nat)
  /-- FRAME_REPLAY_LIMIT (R489). -/
  | frameReplayLimit (link : Nat)
  /-- CODEWORD_LOCK_LOST (R489). -/
  | codewordLockLost (link : Nat)
  /-- LINK_TRAINING_DONE (R491). -/
  | linkTrainingDone (link : Nat)
  /-- LINK_TRAINING_FAILED (R493). -/
  | linkTrainingFailed (link : Nat)
  /-- PACKET_SEND (R503). -/
  | packetSend (link : Nat)
  /-- CREDIT_STALL (R486). -/
  | creditStall (link vc : Nat)
  /-- ROUTE_GENERATION_RETIRE (R507). -/
  | routeGenerationRetire
  /-- KETTLE_PACKET (R23). -/
  | kettlePacket (p : Pkt)
  /-- COLL_RS (R514). -/
  | collRs (ctx slot : Nat) (cmd : List W64)
  /-- COLL_AG (R514). -/
  | collAg (ctx slot : Nat) (cmd : List W64)
  /-- COLL_AR (R514). -/
  | collAr (ctx slot : Nat) (cmd : List W64)
  /-- COLL_CODEC_AR (R535). -/
  | collCodecAr (ctx slot : Nat) (cmd : List W64)
  /-- COLL_BCAST (R525). -/
  | collBcast (ctx slot : Nat) (cmd : List W64)
  /-- COLL_BARRIER (R525). -/
  | collBarrier (ctx slot : Nat) (cmd : List W64)
  /-- COLL_SEND (R526). -/
  | collSend (ctx slot : Nat) (cmd : List W64)
  /-- COLL_RECV (R526). -/
  | collRecv (ctx slot : Nat) (cmd : List W64)
  /-- COLLECTIVE_PACKET (R528). -/
  | collectivePacket (p : Pkt)
  /-- COLLECTIVE_COMPLETE (R524). -/
  | collectiveComplete (ctx opId : Nat)
  /-- COLL_TIMEOUT (R529). -/
  | collTimeout (ctx opId : Nat)
  /-- INFUSER_PACKET (R539). -/
  | infuserPacket (p : Pkt)
  /-- MIRROR_PACKET (R639). -/
  | mirrorPacket (p : Pkt)
  /-- DECANT_PACKET (R653). -/
  | decantPacket (p : Pkt)
  /-- FAR_ENABLE (R544). -/
  | farEnable (r : Req)
  /-- FAR_DISABLE (R547). -/
  | farDisable (r : Req)
  /-- FAR_KEY_LOAD (R550). -/
  | farKeyLoad (r : Req)
  /-- FAR_KEY_SWITCH (R554). -/
  | farKeySwitch (r : Req)
  /-- OUTER_CONFIG (R567). -/
  | outerConfig (r : Req)
  /-- OUTER_JOIN (R586). -/
  | outerJoin (r : Req)
  /-- OUTER_REANCHOR (R586). -/
  | outerReanchor (r : Req)
  /-- FAR_TRAINING_DONE (R545). -/
  | farTrainingDone (link rtt : Nat)
  /-- FAR_DATA_FRAME (R560). -/
  | farDataFrame (link : Nat) (f : FarFrame)
  /-- FAR_IDLE (R549). -/
  | farIdle (link : Nat) (f : FarFrame)
  /-- FAR_DISCOVERY (R545). -/
  | farDiscovery (link : Nat) (f : FarFrame)
  /-- FAR_TIME (R556). -/
  | farTime (link : Nat) (f : FarFrame)
  /-- FAR_ACK (R560). -/
  | farAck (link : Nat) (f : FarFrame)
  /-- FAR_RESTART_FRAME (R564). -/
  | farRestartFrame (link : Nat) (f : FarFrame)
  /-- FAR_ACK_SEND (R549). -/
  | farAckSend (link : Nat)
  /-- FAR_HOLD_EXPIRY (R561). -/
  | farHoldExpiry (link : Nat)
  /-- FAR_REPLAY_TIMEOUT (R560). -/
  | farReplayTimeout (link : Nat)
  /-- FAR_ACK_STALL (R564). -/
  | farAckStall (link : Nat)
  /-- FAR_CODEWORD_LOCK_LOST (R563). -/
  | farCodewordLockLost (link : Nat)
  /-- FAR_RETRAIN_TIMEOUT (R563). -/
  | farRetrainTimeout (link : Nat)
  /-- FAR_AUTH (R553). -/
  | farAuth (link : Nat)
  /-- FAR_KEY_AGE (R554). -/
  | farKeyAge (link : Nat)
  /-- FAR_PACKET_ENTER (R562). -/
  | farPacketEnter (link : Nat)
  /-- TOUCH_REPORT (R570). -/
  | touchReport (m : OuterMsg)
  /-- TOUCH_EXPIRY (R570). -/
  | touchExpiry (ctx site : Nat)
  /-- OUTER_SEND_DONE (R571). -/
  | outerSendDone (ctx : Nat)
  /-- OUTER_HAVE (R573). -/
  | outerHave (m : OuterMsg)
  /-- OUTER_RESEND_REQUEST (R573). -/
  | outerResendRequest (m : OuterMsg)
  /-- OUTER_DEADLINE (R575). -/
  | outerDeadline (ctx : Nat)
  /-- OUTER_DECIDE (R576). -/
  | outerDecide (m : OuterMsg)
  /-- OUTER_MERGE_DONE (R576). -/
  | outerMergeDone (ctx : Nat)
  /-- OUTER_HELLO (R581). -/
  | outerHello (m : OuterMsg)
  /-- SEAL (R597). -/
  | sealMsg (m : CommitMsg)
  /-- EPOCH_SEAL (R598). -/
  | epochSeal (ctx epoch : Nat)
  /-- SEAL_LATE (R601). -/
  | sealLate (ctx epoch : Nat)
  /-- SEAL_MISSING (R601). -/
  | sealMissing (ctx src epoch : Nat)
  /-- STEP_FAIL (R605). -/
  | stepFail (m : CommitMsg)
  /-- READY_SEND (R609). -/
  | readySend (ctx : Nat)
  /-- READY (R609). -/
  | ready (m : CommitMsg)
  /-- COMMIT (R610). -/
  | commit (m : CommitMsg)
  /-- ABORT (R606). -/
  | abort (m : CommitMsg)
  /-- QUERY (R614). -/
  | query (m : CommitMsg)
  /-- DECISION (R614). -/
  | decision (m : CommitMsg)
  /-- MIRROR_DONE (R608). -/
  | mirrorDone (m : CommitMsg)
  /-- QUERY_TIMEOUT (R614). -/
  | queryTimeout (ctx : Nat)
  /-- COMMIT_TIMEOUT (R618). -/
  | commitTimeout (ctx : Nat)
  /-- HEARTBEAT_MISSED (R625). -/
  | heartbeatMissed (link : Nat)
  /-- VOTE (R626). -/
  | vote (m : CommitMsg)
  /-- EXPEL (R628). -/
  | expel (m : CommitMsg)
  /-- MEMBER_SYNC (R629). -/
  | memberSync (m : CommitMsg)
  /-- HEALTH_ASK (R635). -/
  | healthAsk (m : CommitMsg)
  /-- HEALTH_REPLY (R636). -/
  | healthReply (m : CommitMsg)
  /-- HEALTH_SCORE_FORM (R633). -/
  | healthScoreForm
  /-- HEALTH_BUDGET_ROOM (R636). -/
  | healthBudgetRoom
  /-- JOB_CONFIG (R590). -/
  | jobConfig (r : Req)
  /-- JOB_MEMBERS (R646). -/
  | jobMembers (r : Req)
  /-- STEP_CAPTURE (R620). -/
  | stepCapture (r : Req)
  /-- STEP_REPLAY (R621). -/
  | stepReplay (r : Req)
  /-- REPLAY_COMPLETE (R622). -/
  | replayComplete (ctx : Nat)
  /-- JOB_JOIN (R651). -/
  | jobJoin (r : Req)
  /-- JOIN_COMPLETE (R651). -/
  | joinComplete (ctx : Nat)
  /-- SPARE_TAKEOVER (R649). -/
  | spareTakeover (r : Req)
  /-- TAKEOVER_COMPLETE (R649). -/
  | takeoverComplete (ctx : Nat)
  /-- DECANT (R653). -/
  | decant (r : Req)
  /-- DECANT_COMPLETE (R653). -/
  | decantComplete (ctx : Nat)
  /-- READMIT (R631). -/
  | readmit (r : Req)
  /-- HEALTH_CONFIG (R655). -/
  | healthConfig (r : Req)
  /-- WATCHDOG_EXPIRY (R681). -/
  | watchdogExpiry (u : UnitId) (engine : Nat)
  /-- KETTLE_WATCHDOG_EXPIRY (R681). -/
  | kettleWatchdogExpiry
  /-- RESET_RUNG_COMPLETE (R685). -/
  | resetRungComplete (u : UnitId) (engine us : Nat)
  /-- RESET_TIMEOUT (R686). -/
  | resetTimeout (u : UnitId) (engine : Nat)
  /-- MODULE_RESET_TIMEOUT (R689). -/
  | moduleResetTimeout
  /-- FA_WARM_RESET (R662). -/
  | faWarmReset
  /-- RECORDS_LOST (R673). -/
  | recordsLost
  /-- RECORD_AGE_RELEASE (R676). -/
  | recordAgeRelease
  /-- ERR_READ (R667). -/
  | errRead (r : Req)
  /-- ERR_CLEAR (R674). -/
  | errClear (r : Req)
  /-- ERR_CRASH_LOG (R693). -/
  | errCrashLog (r : Req)
  /-- RESET_LIMITS (R690). -/
  | resetLimits (r : Req)
  /-- SERVICE_RESTORE (R692). -/
  | serviceRestore (r : Req)
  /-- BLEND_LOAD (R702). -/
  | blendLoad (r : Req) (host : HostRead)
  /-- BLEND_RUN (R697). -/
  | blendRun (r : Req)
  /-- BLEND_ABORT (R698). -/
  | blendAbort (r : Req)
  /-- BLEND_ITEM_COMPLETE (R697). -/
  | blendItemComplete (u : UnitId) (pass : Bool)
  /-- BLEND_ITEM_SKIP (R697). -/
  | blendItemSkip (u : UnitId)
  /-- MARGIN_LOW (R700). -/
  | marginLow (u : UnitId)
  /-- MARGIN_CRITICAL (R700). -/
  | marginCritical (region : Nat)
  /-- INF_LOAD (R713). -/
  | infLoad (ctx slot : Nat) (cmd : List W64) (host : HostRead)
  /-- INF_GATE (R717). -/
  | infGate (ctx slot : Nat) (cmd : List W64)
  /-- INF_DROP (R720). -/
  | infDrop (ctx slot : Nat) (cmd : List W64)
  /-- SHARD_COMPLETE (R723). -/
  | shardComplete (ctx model layer shard : Nat) (host : HostRead)
  /-- SHARD_TIMEOUT (R727). -/
  | shardTimeout (ctx model layer shard : Nat)
  /-- LAYER_COPY_DONE (R724). -/
  | layerCopyDone (ctx model : Nat)
  /-- MODEL_DEFINE (R706). -/
  | modelDefine (r : Req)
  /-- MODEL_RELEASE (R736). -/
  | modelRelease (r : Req)
  /-- REPLACE_START (R722). -/
  | replaceStart (r : Req)
  /-- REPLACE_RESUME (R729). -/
  | replaceResume (r : Req)
  /-- REPLACE_ROLLBACK (R729). -/
  | replaceRollback (r : Req)
  /-- KV_CONFIG (R730). -/
  | kvConfig (r : Req)
  /-- KV_JOIN (R731). -/
  | kvJoin (r : Req)
  /-- KV_GROW (R731). -/
  | kvGrow (r : Req)
  /-- KV_LEAVE (R731). -/
  | kvLeave (r : Req)
  /-- BOOT_STAGE_COMPLETE (R741). -/
  | bootStageComplete (b : BootLoad)
  /-- ATTEST_REPORT (R757). -/
  | attestReport (r : Req) (host : HostRead)
  /-- CERT_READ (R753). -/
  | certRead (r : Req) (host : HostRead)
  /-- SPDM_TRANSFER (R759). -/
  | spdmTransfer (r : Req) (host : HostRead)
  /-- KEY_LIST (R765). -/
  | keyList (r : Req)
  /-- KEY_DESTROY (R764). -/
  | keyDestroy (r : Req)
  /-- FW_WRITE (R752). -/
  | fwWrite (r : Req) (host : HostRead)
  /-- FW_ACTIVATE (R752). -/
  | fwActivate (r : Req)
  /-- CONFIG_WRITE (R756). -/
  | configWrite (r : Req) (host : HostRead)
  /-- SPDM_GET_CERTIFICATE (R759). -/
  | spdmGetCertificate (oob : Bool) (index offset len : Nat)
  /-- SPDM_CHALLENGE (R759). -/
  | spdmChallenge (oob : Bool) (nonce : List W64)
  /-- SPDM_GET_MEASUREMENTS (R758). -/
  | spdmGetMeasurements (oob : Bool) (index : Nat) (nonce : List W64)
  /-- SPDM_KEY_EXCHANGE (R760). -/
  | spdmKeyExchange (oob all : Bool)
  /-- SPDM_HEARTBEAT (R760). -/
  | spdmHeartbeat (oob : Bool) (session : Nat)
  /-- SPDM_END_SESSION (R760). -/
  | spdmEndSession (oob : Bool) (session : Nat)
  /-- SPDM_SESSION_TIMEOUT (R760). -/
  | spdmSessionTimeout (session : Nat)
  /-- KEY_DELIVER (R761). -/
  | keyDeliver (oob : Bool) (session : Nat) (d : KeyDelivery)
  /-- IDE_KM (R771). -/
  | ideKm (oob : Bool) (session : Nat) (key : List W64) (go : Bool)
  /-- FLR_VF (R784). -/
  | flrVf (fn : Nat)
  /-- FLR_PF (R784). -/
  | flrPf
  /-- HOT_RESET (R784). -/
  | hotReset
  /-- D3HOT_ENTRY (R784). -/
  | d3hotEntry
  /-- HOST_DMA_FAULT (R779). -/
  | hostDmaFault (ctx fn addr kind : Nat) (write : Bool) (code : Nat)
  /-- MOD_RESET_N_ASSERT (R784). -/
  | modResetNAssert
  /-- MOD_RESET_N_RELEASE (R791). -/
  | modResetNRelease
  /-- PPS_EDGE (R793). -/
  | ppsEdge
  /-- PPS_LOST (R793). -/
  | ppsLost
  /-- I3C_SETDASA (R787). -/
  | i3cSetdasa (static_ addr : Nat)
  /-- I3C_ENTDAA (R787). -/
  | i3cEntdaa (addr : Nat)
  /-- MCTP_SET_ENDPOINT_ID (R788). -/
  | mctpSetEndpointId (eid : Nat)
  /-- PLDM_GET_SENSOR_READING (R789). -/
  | pldmGetSensorReading (sensor : Nat)
  /-- PLDM_SENSOR_UPDATE (R789). -/
  | pldmSensorUpdate
  /-- INPUT_POWER_RISE (R806). -/
  | inputPowerRise
  /-- INPUT_SAG (R797). -/
  | inputSag
  /-- INPUT_LOW (R798). -/
  | inputLow
  /-- INPUT_SAG_TIMEOUT (R797). -/
  | inputSagTimeout
  /-- INPUT_BELOW_40V (R797). -/
  | inputBelow40v
  /-- INPUT_HIGH (R797). -/
  | inputHigh
  /-- INPUT_OVERVOLTAGE (R797). -/
  | inputOvervoltage
  /-- RAIL_FAULT (R807). -/
  | railFault
  /-- REFCLK_LOSS (R808). -/
  | refclkLoss
  /-- REFCLK_RETURN (R808). -/
  | refclkReturn
  /-- POWER_CAP_RELEASE (R801). -/
  | powerCapRelease
  /-- THERMAL_RELEASE (R815). -/
  | thermalRelease (region : Nat)
  /-- JUNCTION_CRITICAL (R817). -/
  | junctionCritical (region : Nat)
  /-- JUNCTION_TRIP (R817). -/
  | junctionTrip (region : Nat)
  /-- COOLANT_HOT (R822). -/
  | coolantHot
  /-- REGION_SET (R813). -/
  | regionSet (r : Req)
  /-- POWER_STATE (R804). -/
  | powerState (r : Req)
  /-- POWER_STATE_DONE (R804). -/
  | powerStateDone
  /-- VF_ENABLE (R773). -/
  | vfEnable (num : Nat) (on : Bool)
  /-- D0_ENTRY (R784). -/
  | d0Entry
  /-- FLR_COMPLETE (R784). -/
  | flrComplete (fn : Nat)
  /-- HOST_LINK_RETURN (R784). -/
  | hostLinkReturn (speed width : Nat) (flit : Bool)
  /-- PLDM_EVENTS_ENABLE (R790). -/
  | pldmEventsEnable
deriving DecidableEq, Repr

end Sys2Proof
end

