-- ==== Sys2Proof/Decode.lean ====
section
/-! DEFINITION. Decode.lean: the command that a word spells by the table's bits. No row of spec/opcode_table.json gives
bits (every row's list of fields is empty): commands reach the block as register accesses, mailbox requests, frames,
packets and events, so no word spells one. -/
namespace Sys2Proof

/-- The command a word spells by the bits of the table of operations and events. -/
def decodeTableWord (_nbits _w : Nat) : Option Instr := none

end Sys2Proof
end

