-- ==== Sys2Proof/Config.lean ====
section
/-! DEFINITION. Config.lean: what the spec leaves open: constants with no body, so that nothing proved of the
machine can rest on a value the spec does not give. -/
namespace Sys2Proof.Config

/-- A free 64-bit value; the argument is the count of free values taken before (State.fresh). -/
opaque freeWord : Nat → BitVec 64

/-- The TYPE of a completion packet: R335 leaves the code to the queue's user and no rule gives it. -/
opaque completionType : BitVec 8

/-- The TYPE of an event packet: R335 leaves the code to the queue's user and no rule gives it. -/
opaque eventType : BitVec 8

/-- The TYPE of a command-stream packet: R335 leaves the code to the queue's user and no rule gives it. -/
opaque commandType : BitVec 8

/-- Which of a pool's free cells is taken next: no rule says it (R331, R337). Arguments: the pool, and the count of cells that
it has given. -/
opaque cellPick : Nat → Nat → Nat

/-- A dword of a function's configuration space, where R769 and R770 give no value: the function and the dword's index. -/
opaque cfgDword : Nat → Nat → BitVec 32

/-- The dword of configuration space that holds the MSI-X capability's message control, which no rule places. -/
opaque msixCap : Nat

/-- The minor interface version that GET_VERSION returns: no rule gives it (R382). -/
opaque minorVersion : BitVec 64

/-- The firmware build that GET_VERSION returns: no rule gives it (R382). -/
opaque firmwareBuild : BitVec 64

/-- Digest of the ROM's own code (R741): a constant of the part that no rule gives. -/
opaque romDigest : List (BitVec 8)

/-- Digest of the vendor certificate chain and the helper data (R741), written at manufacture. -/
opaque vendorDigest : List (BitVec 8)

/-- Digest of the calibration table (R741, R750), written at manufacture. -/
opaque calibrationDigest : List (BitVec 8)

/-- The certificates of the chain in DER, by index (R753), written at manufacture. -/
opaque certificate : Nat → List (BitVec 8)

/-- The 132 bytes r ‖ s that the signing unit forms of a hash under the private key (R757): ECDSA draws a secret
number for each, which no rule gives. -/
opaque signature : Nat → List (BitVec 8) → List (BitVec 8)

/-- The words of an SPDM message whose encoding the spec leaves to the DMTF standard (R759): message kind, and the
values that it carries. -/
opaque spdmMessage : Nat → List (BitVec 64) → List (BitVec 64)

/-- The signature of a test blend verifies (R694, R702): the key and the encoding of its signer stand in no rule. -/
opaque blendSigned : List (BitVec 8) → Bool

/-- The least voltage of a region for a clock, in mV, in the calibration table (R699, R810), written at manufacture. -/
opaque leastVoltage : Nat → Nat → Nat

/-- The measured one-way delay in ns along the route between two modules that share no link (R530): the measures of
the other modules' links stand in no register of this one. -/
opaque pathDelay : Nat → Nat → Nat

end Sys2Proof.Config
end

