-- ==== Sys2Proof/Machine/Bits.lean ====
section
/-! DEFINITION. Machine/Bits.lean: bit fields, sign extension, byte order, saturation, and the operations on
keyed tables. Every later file goes through these, so that a bit order is decided once (R7). -/
namespace Sys2Proof.Machine

/-- Bits `[hi:lo]` of a word, unsigned (R7). -/
def fld (w : W64) (hi lo : Nat) : Nat := (w.toNat / 2 ^ lo) % 2 ^ (hi + 1 - lo)

/-- Bit `i` of a word. -/
def bitAt (w : W64) (i : Nat) : Bool := w.getLsbD i

/-- A word built from fields `(lo, width, value)`; a value is cut to its width. -/
def mkWord : List (Nat × Nat × Nat) → W64
  | [] => 0#64
  | (lo, width, v) :: rest => BitVec.ofNat 64 ((v % 2 ^ width) * 2 ^ lo) ||| mkWord rest

/-- A Boolean as a bit. -/
def b2n (b : Bool) : Nat := if b then 1 else 0

/-- Saturation at `2 ^ width − 1`. -/
def satN (width v : Nat) : Nat := if v < 2 ^ width then v else 2 ^ width - 1

/-- A signed number as an unsigned field of `width` bits, two's complement (R7). -/
def sbits (width : Nat) (v : Int) : Nat := (v % (2 ^ width : Nat)).toNat

/-- Signed value of an `n`-bit pattern (R7). -/
def signed (n v : Nat) : Int := if v % 2 ^ n < 2 ^ (n - 1) then ((v % 2 ^ n : Nat) : Int) else ((v % 2 ^ n : Nat) : Int) - (2 ^ n : Nat)

/-- The low half of a word. -/
def lo32 (w : W64) : W32 := w.truncate 32
/-- The high half of a word. -/
def hi32 (w : W64) : W32 := (w >>> 32).truncate 32
/-- A word from its two halves. -/
def join32 (hi lo : W32) : W64 := hi ++ lo

/-- `ceil (a / b)`. -/
def cdiv (a b : Nat) : Nat := (a + b - 1) / b

/-- The eight bytes of a word, least significant first (R7). -/
def wordBytes (w : W64) : List Byte :=
  (List.range 8).map fun i => BitVec.ofNat 8 (w.toNat / 2 ^ (8 * i))

/-- The number that a little-endian run of bytes spells (R7). -/
def leNat : List Byte → Nat
  | [] => 0
  | b :: bs => b.toNat + 256 * leNat bs

/-- A word from its bytes, least significant first (R7). -/
def bytesWord (bs : List Byte) : W64 := BitVec.ofNat 64 (leNat bs)

/-- Number of ones of `v` among its low `n` bits. -/
def popN (n v : Nat) : Nat := ((List.range n).filter fun i => Nat.testBit v i).length

end Sys2Proof.Machine

namespace Sys2Proof

/-- The entry of a key, or the default. -/
def Tbl.get {κ α : Type} [DecidableEq κ] (t : Tbl κ α) (d : α) (k : κ) : α :=
  match t with
  | [] => d
  | (k', v) :: rest => if k' = k then v else Tbl.get rest d k

/-- Puts an entry: replaced in place where the key is listed, else appended. -/
def Tbl.set {κ α : Type} [DecidableEq κ] (t : Tbl κ α) (k : κ) (v : α) : Tbl κ α :=
  match t with
  | [] => [(k, v)]
  | (k', v') :: rest => if k' = k then (k', v) :: rest else (k', v') :: Tbl.set rest k v

/-- Drops every entry of a key, so that it reads as the default. -/
def Tbl.drop {κ α : Type} [DecidableEq κ] (t : Tbl κ α) (k : κ) : Tbl κ α := t.filter fun e => decide (e.1 ≠ k)

/-- The entry of a key, if one is listed. -/
def Tbl.find {κ α : Type} [DecidableEq κ] (t : Tbl κ α) (k : κ) : Option α :=
  (t.find? fun e => decide (e.1 = k)).map (·.2)

end Sys2Proof

namespace Sys2Proof.Machine

/-- `f` applied once for each number below `n`, in rising order. -/
def forN {σ : Type} (n : Nat) (f : Nat → σ → σ) (s : σ) : σ := (List.range n).foldl (fun s i => f i s) s

/-- `f` applied to each element of a list, first to last. -/
def forL {α σ : Type} (l : List α) (f : α → σ → σ) (s : σ) : σ := l.foldl (fun s a => f a s) s

/-- A list cut into pieces of n elements, the last with what remains. -/
def chunksOf {α : Type} (n : Nat) (l : List α) : List (List α) :=
  if n = 0 then [l] else (List.range (cdiv l.length n)).map fun i => (l.drop (i * n)).take n

/-- Changes one place of a list; a place beyond its end changes nothing. -/
def updAt {α : Type} (l : List α) (i : Nat) (f : α → α) : List α :=
  match l, i with
  | [], _ => []
  | a :: r, 0 => f a :: r
  | a :: r, i + 1 => a :: updAt r i f

end Sys2Proof.Machine
end

