-- ==== Sys2Proof/Machine/State.lean ====
section
/-! DEFINITION. Machine/State.lean: every piece of state the spec gives the module, as plain data, grouped by
chapter; the stop reasons; and the state right after reset. Things that exist many times (cores, contexts,
queues, links) stand in keyed tables whose unlisted keys hold the reset value named beside the table. -/
namespace Sys2Proof.Machine

/-- The modes of a fence (R35, R36). -/
inductive FenceMode where
  | drain
  | err
deriving DecidableEq, Repr

/-- The request whose events report its effect: mailbox, TAG, command code (R404). -/
structure CmdRef where
  mb : Nat
  tag : Nat
  code : Nat
deriving DecidableEq, Repr

/-- What an accepted, not yet applied request on a fenced unit will do (R384, R840). -/
structure Accepted where
  by_ : Option CmdRef
  enable : Bool
deriving DecidableEq, Repr

/-- The fence of one unit and what is held against its release (R34 to R42, R384 to R387, R839, R840). -/
structure UnitSt where
  /-- the unit's own fence, none when it holds none -/
  fence : Option FenceMode := none
  /-- steep counter when the fence was applied -/
  fencedAt : Nat := 0
  /-- the drain or the terminations are complete: the unit is FENCED -/
  complete : Bool := false
  /-- R37's escalation has been made for this fence -/
  escalated : Bool := false
  /-- UNIT_DISABLE marked the fence to stay (R386) -/
  shutdown : Bool := false
  /-- PENDING_ENABLE of the status word -/
  pendingEnable : Option Accepted := none
  /-- an enable or release accepted and not yet applied -/
  accepted : Option Accepted := none
  /-- the UNIT_DISABLE whose COMMAND_DONE is due when the drain completes -/
  disableBy : Option CmdRef := none
  /-- the unit is held after a reset rung until step 9 of the next boundary (R685) -/
  afterReset : Bool := false
deriving DecidableEq, Repr

/-! ### The steep (R43 to R78) -/

/-- What the last timing word of one link showed (R49). -/
structure LinkTime where
  /-- steep counter when the last timing word arrived -/
  at_ : Nat := 0
  /-- estimated offset from the neighbour, in ns -/
  offsetNs : Int := 0
  hops : Nat := 0xFF
  /-- the far end's sent and received counters of each virtual channel, from its timing word (R75) -/
  farSent : List Nat := []
  farReceived : List Nat := []
  farReturns : List Nat := []
deriving DecidableEq, Repr

/-- The conserved quantities of one I/O die at a snapshot (R74, R361). -/
structure CellSnap where
  free : Nat := 262144
  queued : Nat := 0
  opened : Nat := 0
  held : Nat := 0
deriving DecidableEq, Repr

/-- Link credits of one link and virtual channel at a snapshot (R74). -/
structure CreditSnap where
  link : Nat
  vc : Nat
  available : Int
  sent : Int
  returned : Int
  allocation : Int
  received : Int
  granted : Int
deriving DecidableEq, Repr

/-- The snapshot of step 3 of R56 that an audit checks. -/
structure AuditSnap where
  steep : Nat
  /-- the oldest boundary whose audit this one has taken over; its own when it has taken over none (R64) -/
  first : Nat := 0
  credits : List CreditSnap := []
  cells : List CellSnap := []
  /-- per context: tokens received, tokens forwarded, HOLDING (R612) -/
  tokens : List (Nat × Nat × Nat × Nat) := []
  /-- per mailbox: free, pending, unread (R370) -/
  mailboxes : List (Nat × Nat × Nat × Nat) := []
  /-- metered energy, energy charged to X0 to X7 in order, idle energy, in µJ (R77) -/
  metered : Nat := 0
  charged : List Nat := []
  idle : Nat := 0
  /-- far-link slots: link, free slots, held slots (R566) -/
  far : List (Nat × Nat × Nat) := []
deriving DecidableEq, Repr

/-- The steep, the time registers and the audits. -/
structure Steep where
  count : Nat := 0
  currentQ : Nat := 4
  nextQ : Nat := 4
  atCount : Nat := 0xFFFFFFFFFFFFFFFF
  /-- the DOMAIN_PERIOD whose COMMAND_DONE is due at the switch -/
  periodBy : Option CmdRef := none
  phase : Nat := 0
  /-- a latched count, and the boundaries that have passed since (R47) -/
  latch : Option (Nat × Nat) := none
  /-- the module has joined a steep domain, whose count it follows (R46, R48) -/
  joined : Bool := false
  /-- the model's measure of reference-clock time, in 10 ns ticks -/
  ticks : Nat := 0
  offsetNs : Int := 0
  hops : Nat := 0xFF
  upstream : Nat := 0xFF
  master : Bool := false
  lost : Bool := false
  /-- TIME_LOST stands, whatever software cleared in the W1C bit (R53) -/
  lostStands : Bool := false
  holdover : Bool := false
  /-- steep counter when the last timing word arrived on any link (R53) -/
  lastTiming : Nat := 0
  /-- what the steering of one timing word has left below one tick, in ns (R51) -/
  steerNs : Int := 0
  /-- lengths of the steeps that ran before a change of the period, as the first steep of the next length and the
  length that ended before it, newest first (R44, R65) -/
  pastQ : List (Nat × Nat) := []
  /-- consecutive steeps with the offset within 2 µs (R53) -/
  within2us : Nat := 0
  linkTimes : Tbl Nat LinkTime := []
  /-- DN of the time master and of the deputy (R50) -/
  masterDn : Nat := 0
  deputyDn : Nat := 0
  /-- steep counter when the module chose its present time master -/
  masterSince : Nat := 0
  snap : Option AuditSnap := none
  /-- the snapshot of the steep before, which the cross-link check reads (R75) -/
  snapBefore : Option AuditSnap := none
  auditLast : Nat := 0
  auditMismatches : Nat := 0
  auditEnergy : Bool := false
  auditMailbox : Bool := false
  auditCommit : Bool := false
  auditCells : Bool := false
  auditCredits : Bool := false
  auditOverrun : Bool := false
  /-- the audit of the last boundary missed its deadline, so the next covers both steeps (R64) -/
  auditLate : Bool := false
  sliceCe : Nat := 0
  sliceUc : Nat := 0
  otherDeadlines : Nat := 0
  worstUs : Nat := 0
  /-- the boundary actions 1 to 9 of the present boundary have overrun its window (R59) -/
  boundaryLate : Bool := false
  /-- energy of the running steep in µJ: metered, per context, idle; and the fraction below 1 µJ carried, in
  units of 1/100,000 µJ (R77) -/
  metered : Nat := 0
  charged : Tbl Nat Nat := []
  idleEnergy : Nat := 0
  energyFraction : Nat := 0
deriving DecidableEq, Repr

/-! ### Error records, resets, watchdogs, blends, margins (R660 to R705) -/

/-- The class of a record (R660). -/
inductive Cls where
  | ce
  | uc
  | fa
deriving DecidableEq, Repr

/-- What the collector keeps beside the record queue: the SEQ, the class, the path and the context of each
record, the steep of its raising, and when a UC record was cleared (R669, R674, R676). -/
structure RecMeta where
  seq : Nat
  code : Nat
  cls : Cls
  ctx : Option Nat
  /-- hops from the module down (R665) -/
  path : List Nat
  steep : Nat
  clearedAt : Option Nat := none
  /-- the payload words of the record, kept also for the crash log (R693) -/
  words : List W64 := []
deriving DecidableEq, Repr

/-- Duplicates of one record in the running steep (R669). -/
structure Merge where
  code : Nat
  path : List Nat
  ctx : Option Nat
  cls : Cls
  count : Nat
  detailA : W64
  detailB : W64
  opcode : Nat := 0
  opRef : Nat := 0
deriving DecidableEq, Repr

/-- A rung of the reset ladder in progress (R684 to R688). -/
structure Rung where
  /-- the unit reset; a core's engine keeps its engine code in `engine` -/
  unit : UnitId
  /-- rung code of R684; 0 stands for the Link rung, which has none -/
  code : Nat
  engine : Nat := 0
  /-- steep counter at the start -/
  started : Nat
  requester : Option CmdRef := none
  /-- UNIT_RESET requests that this rung has absorbed (R671, R688) -/
  joined : List CmdRef := []
  ctx : Option Nat := none
  escalated : Bool := false
deriving DecidableEq, Repr

/-- The state of a loaded test blend (R694 to R698). -/
structure BlendItem where
  kind : Nat
  params : List W64
  repeats : Nat
  expect_ : Nat
deriving DecidableEq, Repr

structure Blend where
  id : Nat := 0
  version : Nat := 0
  steepsMax : Nat := 0
  items : List BlendItem := []
  /-- 0 none loaded, 1 loaded, 2 running -/
  state : Nat := 0
  /-- item in progress, and its repetition -/
  item : Nat := 0
  startedAt : Nat := 0
  /-- the compute dies that no context held at the last boundary (R696) -/
  idle : List Nat := []
  by_ : Option CmdRef := none
  abortDue : Bool := false
  passed : Nat := 0
  failed : Nat := 0
  skipped : Nat := 0
  /-- parts that have run an item of a kind that covers them, without a skip: compute dies 0 to 7, stacks from 8, packages
  from 24, caddies from 32, links from 36 (R697) -/
  covered : List Nat := []
  /-- units that have completed or skipped the item in progress -/
  doneUnits : List UnitId := []
  full : Bool := false
  /-- 0 none, 1 passed, 2 failed, 3 aborted -/
  result : Nat := 0
  /-- second of reference-clock time at which a blend last counted as run (R697) -/
  ranAt : Option Nat := none
  lastFailed : Bool := false
  /-- a passed and full blend has run since the last expulsion (R631) -/
  passedSinceExpulsion : Bool := false
deriving DecidableEq, Repr

/-- One crash-log entry: the length slot and the payload words (R693). -/
structure CrashEntry where
  slot : W64
  words : List W64
deriving DecidableEq, Repr

/-- Margins of one region (R699, R704). -/
structure Margin where
  temp : Int := 0
  timing : Nat := 0
  voltage : Int := 0
  /-- the supply sample, in mV (R664) -/
  volt : Nat := 0
  /-- the next sample starts a new window of 64 steeps -/
  fresh : Bool := true
deriving DecidableEq, Repr

/-- Margins of one link (R699, R704). -/
structure LinkMargin where
  worstWave : Nat := 0
  rxPower : Int := 0
  optical : Int := 0
  fresh : Bool := true
deriving DecidableEq, Repr

/-- The watchdog of one engine that holds work (R681): what the engine has shown of its progress by the last boundary,
and the boundaries in a row that have found it unchanged. -/
structure WatchDog where
  unit : UnitId
  engine : Nat
  sign : List Nat
  idle : Nat := 0
deriving DecidableEq, Repr

/-- The collector, the ladder, the watchdogs and the blends. -/
structure Faults where
  records : List RecMeta := []
  /-- records raised in the running steep, by code, path and context, with their duplicates so far (R669) -/
  merges : List Merge := []
  lost : Nat := 0
  lostPending : Nat := 0
  ceCount : Nat := 0
  ucCount : Nat := 0
  faCount : Nat := 0
  minClass : Nat := 1
  vectorEn : Bool := false
  vector : Nat := 0
  lastFa : W64 := 0#64
  lastFaSteep : W64 := 0#64
  /-- an FA record with FA_JOB 0 whose warm module reset is due (R662) -/
  faDue : Bool := false
  crashLog : List (Option CrashEntry) := []
  /-- the last 32 records raised since the module came up, newest first (R693) -/
  recent : List CrashEntry := []
  rungs : List Rung := []
  resets : Nat := 0
  timeouts : Nat := 0
  outOfService : Bool := false
  /-- OUT_OF_SERVICE stands under R689 or R691, and under R689 until a cold boot -/
  oosReset : Bool := false
  oosCold : Bool := false
  /-- a warm module reset whose boot has not ended, and whether SERVICE_RESTORE caused it (R689, R691) -/
  moduleReset : Option Bool := none
  /-- limits by rung code 1 to 7 (R690) -/
  limits : List Nat := [8, 8, 4, 4, 4, 3, 4]
  /-- resets counted in the last 60 minutes: unit, rung code, engine, second of reference-clock time (R690) -/
  counts : List (UnitId × Nat × Nat) := []
  watchdogLog : W64 := 0#64
  /-- the watchdogs of the engines that hold work; the kettle's is engine 9 of IOD-N -/
  watch : List WatchDog := []
  /-- records limited to one per steep or per 64 steeps: key (code, place), steep of the last (R317, R340, R700) -/
  limited : Tbl (Nat × Nat) Nat := []
  /-- CE records raised in the last hour: steep, second of reference-clock time, path (R32, R632) -/
  ceLog : List (Nat × Nat × List Nat) := []
  /-- last samples of IOD-N, IOD-S and CY0 to CY3: temperature in 1/16 °C, rail in mV (R664) -/
  samples : Tbl Nat (Int × Nat) := []
  blend : Blend := {}
  marginG : Tbl Nat Margin := []
  marginL : Tbl Nat LinkMargin := []
deriving DecidableEq, Repr

/-! ### Memory (R294 to R330) -/

/-- Byte memory in one canonical form: cells at rising addresses, none of them zero, since an unlisted byte
reads 0 (the fill of R323 and the zeroed core stores of R745). `syn` lists the words, by word address, whose
stored check bits disagree with their data, with the syndrome that a reader forms (R312). -/
structure Mem where
  cells : List Host.Cell := []
  syn : List (Nat × Byte) := []
deriving DecidableEq, Repr

/-- Training of one stack or package (R323, R325). -/
structure Training where
  /-- which column of R323 is run: 0 a cold boot, 1 a warm module reset, 2 the return from M1 -/
  kind : Nat := 0
  phase : Nat := 0
  tries : Nat := 0
  ready : Bool := false
deriving DecidableEq, Repr

/-- Counters of one place (R328). -/
structure EccCount where
  ce : Nat := 0
  ue : Nat := 0
  lastSyndrome : Nat := 0
deriving DecidableEq, Repr

/-- A row found with CEs: its place and row, and the steeps in which it gave them (R322). -/
structure RowCe where
  place : Nat
  row : Nat
  steeps : List Nat
deriving DecidableEq, Repr

/-- The memory tiers and their registers. -/
structure MemUnit where
  /-- the module address space (R294) -/
  space : Mem := {}
  trainings : Tbl Nat Training := []
  trainFail : Bool := false
  ecc : Tbl Nat EccCount := []
  ueLog : W64 := 0#64
  fastPasses : Nat := 0
  slowPasses : Nat := 0
  /-- next word of each patrol, by tier: 0 fast, 1 slow, 2 core stores (R320) -/
  patrol : Tbl Nat Nat := []
  injPlace : Nat := 0
  injDouble : Bool := false
  injBitB : Nat := 0
  injBitA : Nat := 0
  injArm : Bool := false
  /-- words, as (place, word address), whose error an injection made (R329) -/
  injected : List (Nat × Nat) := []
  rowCes : List RowCe := []
  repair : List (Nat × Nat) := []
  /-- rows, as (place, row), whose spare-row repair the last training has applied (R322, R323) -/
  spared : List (Nat × Nat) := []
  /-- steep counter of the last calibration of each stack (0 to 15) and package (16 to 23) (R326) -/
  calibrated : Tbl Nat Nat := []
  /-- far-link buffers: buffer index and the link that holds it (R299) -/
  farBuffers : List (Nat × Nat) := []
  /-- 64 KiB fast-tier granules with a UE logged since the last committed step (R318) -/
  ueGranules : List Nat := []
deriving DecidableEq, Repr

/-! ### Cell queues (R331 to R369) -/

/-- A committed packet: its length slot's fields and its payload words (R335). -/
structure Packet where
  seq : Nat
  ctx : Option Nat
  ty : Nat
  words : List W64
  /-- syndromes of words that are not clean, by word of the chain, of which the length slot is word 0 (R353) -/
  syn : List (Nat × Byte) := []
  /-- the chain: the packet's cells in order (R331, R332) -/
  chain : List Nat := []
  /-- its consumer has done with it, while older packets of the queue are still to be released (R350) -/
  done : Bool := false
deriving DecidableEq, Repr

/-- An open packet of a producer port, or an OPEN that waits for its first cell (R337, R344). -/
structure OpenPacket where
  ty : Nat
  ctx : Option Nat
  words : List W64 := []
  /-- false while the OPEN itself waits for its first cell -/
  started : Bool := true
  /-- words of an APPEND that waits for a cell -/
  waiting : Option (List W64) := none
  /-- steep counter when the OPEN or APPEND began to wait (R344) -/
  since : Nat := 0
  /-- its cells in order (R331) -/
  chain : List Nat := []
deriving DecidableEq, Repr

/-- Why a packet was rewound (R340). -/
inductive Cause where
  | producer
  | inputUe
  | tooLong
  | empty
  | noCell
  | fence
deriving DecidableEq, Repr

/-- The answer of a queue operation to the unit that issued it (R337, R348). -/
inductive QStatus where
  | ok
  | portBusy
  | queueFenced
  | wait
  | rewound (why : Cause)
  | noPacket
  | empty
  | atEnd
  | markGone
  | releaseRange
  | purgeRange
deriving DecidableEq, Repr

/-- Where a queue's notices go (R346). -/
inductive Sink where
  | none
  | kettle
  | engine (n : Nat)
  | msix (v : Nat)
deriving DecidableEq, Repr

/-- A unit that feeds or reads a queue (R334). -/
inductive Party where
  | kettle
  | mailbox (n : Nat)
  | ctx (n : Nat)
  | link (n : Nat)
  | fabric
  | infuser
deriving DecidableEq, Repr

/-- One queue (R332 to R359, R368). Positions count packets committed since the queue's start: packet `base + i`
is element `i` of `packets`. -/
structure Queue where
  enabled : Bool := false
  /-- none, draining, fenced in drain mode, fenced in error mode -/
  fence : Option FenceMode := none
  fenced : Bool := false
  sink : Sink := .none
  /-- the unit bound to the queue's producer ports, and the one bound as its consumer (R334) -/
  producer : Option Party := none
  consumer : Option Party := none
  ctx : Option Nat := none
  guarantee : Nat := 0
  quota : Nat := 0
  seqNext : Nat := 0
  base : Nat := 0
  packets : List Packet := []
  cursor : Nat := 0
  offset : Nat := 0
  marks : Tbl Nat (Nat × Nat) := []
  ports : Tbl Nat OpenPacket := []
  notices : Nat := 0
  badPackets : Nat := 0
  waits : Nat := 0
  /-- cells freed while the queue was fenced, whose credits are still to be returned (R359) -/
  withheld : Nat := 0
deriving DecidableEq, Repr

/-- One pool (R331, R342, R360 to R367). -/
structure Pool where
  free : Nat := 262144
  queues : Tbl Nat Queue := []
  snap : CellSnap := {}
  snapSteep : Nat := 0
  sweeping : Bool := false
  fencedAudit : Bool := false
  /-- a sweep has completed and the fences of R362 go at the next step 9 -/
  releaseDue : Bool := false
  /-- a link-table UE asks for a sweep at the next boundary (R355) -/
  sweepDue : Bool := false
  mismatch : Bool := false
  lowWater : Nat := 262144
  ce : Nat := 0
  ue : Nat := 0
  lastSyndrome : Nat := 0
  sweepSteep : Nat := 0
  recovered : Nat := 0
  resetQueues : Nat := 0
  /-- cells given to producers so far -/
  given : Nat := 0
  /-- syndromes of link-table entries that are not clean, by cell (R331, R355) -/
  links : Tbl Nat Byte := []
deriving DecidableEq, Repr

/-! ### Mailboxes, streams, contexts (R370 to R426) -/

/-- One mailbox (R370 to R377). Requests and completions stand in its two queues. -/
structure Mailbox where
  request : Tbl Nat W64 := []
  free : Nat := 16
  pending : Nat := 0
  unread : Nat := 0
  doorbellError : Bool := false
  resetting : Bool := false
  /-- requests pending at a reset that still await their MAILBOX_RESET completion: COMMAND and TAG -/
  resetTags : List (Nat × Nat) := []
  vectorEn : Bool := false
  vector : Nat := 0
  /-- second completions held for a token: TAG, STATUS, the event's four words (R370, R404) -/
  heldEvents : List (Nat × Nat × List W64) := []
  /-- words of completions that the completion queue has not taken yet, whose requests stay pending (R370) -/
  due : List (List W64) := []
deriving DecidableEq, Repr

/-- A stream in a command slot (R389 to R403): its header values, its words, and how far it has run. -/
structure Stream where
  id : Nat
  tag : Nat
  step : Nat
  startAt : Nat
  sliceEvents : Bool
  words : List W64
  slices : Nat
  /-- slices completed -/
  done : Nat := 0
  started : Bool := false
  /-- steep counter at which the running slice was issued; none between slices -/
  running : Option Nat := none
  /-- deadline records already raised for the running slice: 0, 1 (CE) or 2 (UC) (R63) -/
  overruns : Nat := 0
  /-- MARK values of the running slice that wait for its completion (R393) -/
  marks : List Nat := []
  /-- PASS values whose INF_DROP waits for the slice's completion: model, pass (R720) -/
  drops : List (Nat × Nat) := []
  gates : List (Nat × Nat × Nat) := []
  /-- first error status of a command of the running slice (R402) -/
  failed : Option Nat := none
  cancelled : Bool := false
  /-- cancelled before it started; its words leave the queue when it is the oldest (R403) -/
  gone : Bool := false
  /-- the stream ends STEP_ABORTED when its running slice completes (R606) -/
  aborted : Bool := false
  /-- literal slots in force (R399) -/
  literals : Option (List W32) := none
  /-- a replayed capture, which sends and commits nothing (R621) -/
  replay : Bool := false
  /-- the steeps the running slice has been measured to take, in cycles of the slowest region's clock -/
  cycles : Nat := 0
  /-- commands of the running slice outside the lanes of cores that have not been taken yet, each behind the kind of its
  section, in stream order (R394) -/
  todo : List (Nat × List W64) := []
deriving DecidableEq, Repr

/-- One command slot: held after a failure, and its streams, oldest first (R400 to R402). -/
structure Slot where
  held : Bool := false
  streams : List Stream := []
deriving DecidableEq, Repr

/-- The states of a context (R409). -/
inductive CtxState where
  | free
  | stopped
  | active
  | draining
  | fenced
deriving DecidableEq, Repr

/-- An event packet of a context (R404): its four words. -/
structure Event where
  kind : Nat
  status : Nat := 0
  slice : Nat := 0
  stream : Nat := 0
  value : Nat := 0
  detail : W64 := 0#64
deriving DecidableEq, Repr

/-- A virtual stage of a context (R420). -/
structure Stage where
  stage : Nat
  first : Bool
  last : Bool
  prev : List W64
  next : List W64
deriving DecidableEq, Repr
/-! ### Cores (R126, R143, R203 to R242, R243, R292) -/

/-- The states of an accumulator set (R203). -/
inductive SetState where
  | empty
  | live
  | settling
  | held
  | pouring
  | clearing
deriving DecidableEq, Repr

/-- One accumulator set: cell (r, c) stands at 128 r + c; a cell beyond the list holds +0 (R203). -/
structure AccSet where
  state : SetState := .empty
  cells : List W32 := []
deriving DecidableEq, Repr

/-- What the strainer knows of a set of accumulators: for each of the 64 rows a residue modulo 255, for each of the 128
columns one modulo 127, and the non-finite accumulators of each row and column (R176 to R178). -/
structure Lines where
  rows : List Nat := List.replicate 64 0
  cols : List Nat := List.replicate 128 0
  rowBad : List Nat := List.replicate 64 0
  colBad : List Nat := List.replicate 128 0
deriving DecidableEq, Repr

/-- The open chain whose partial sums ACC-L holds (R838), with the k it has reached, its K_CHAIN (R168), the slot of its
stream (R167), and the strainer's running predictions (R179). -/
structure Chain where
  tileId : Nat
  step : W64
  ctx : Option Nat
  slot : Nat
  k : Nat
  kChain : Nat
  pred : Lines := {}
deriving DecidableEq, Repr

/-- A matrix tile command in the matrix lane (R170, R171). -/
structure Tile where
  cmd : List W64
  ctx : Option Nat
  /-- its first pass has started -/
  started : Bool := false
  pass : Nat := 0
  /-- repeats of the present pass (R214) -/
  repeats : Nat := 0
  /-- the epilogue descriptor as read at the start (R219) -/
  desc : List W64 := []
  /-- k of the chain before this command, and the reduction length (R168, R210) -/
  kBase : Nat := 0
  kTotal : Nat := 0
  /-- the pass has settled and waits for a pouring ACC-S (R206) -/
  stalled : Bool := false
  /-- the running predictions of the chain before this command, less the accumulators it starts from (R179) -/
  base : Lines := {}
  /-- what the comparison of the settled pass holds its accumulators against (R177) -/
  want : Lines := {}
  /-- steep counter at the start of the first pass, and of the present one -/
  begun : Nat := 0
  passAt : Nat := 0
  /-- slot of its stream -/
  slot : Nat := 0
  /-- steep counter at the end of the SETTLING of a pass that waits for ACC-S (R206, R231) -/
  lastMac : Nat := 0
deriving DecidableEq, Repr

/-- A pour of one pass from ACC-S (R204, R229). -/
structure Pour where
  cmd : List W64
  ctx : Option Nat
  desc : List W64
  pass : Nat
  repeats : Nat
  /-- the tile's last pass, and the steep counter at its last MAC (R231) -/
  last : Bool
  started : Nat
  late : Bool := false
  /-- steep counter at the start of the pass's k-steps, and reference-clock ticks at the start of the pour -/
  begun : Nat
  tick : Nat
  /-- steep counter at the pass's last MAC, the end of its SETTLING (R231) -/
  lastMac : Nat := 0
deriving DecidableEq, Repr

/-- A statistics record in the making (R232 to R236). -/
structure StatRun where
  count : Nat := 0
  sumsq : W32 := 0#32
  mean : W32 := 0#32
  m2 : W32 := 0#32
  nonfinite : Bool := false
deriving DecidableEq, Repr

/-- The vector registers of a core (R243): registers that are not listed read zero. -/
structure VecState where
  v : Tbl Nat (List W32) := []
  m : Tbl Nat W64 := []
  sc : Tbl Nat W64 := []
  vl : Nat := 64
  flags : Nat := 0
deriving DecidableEq, Repr

/-- A vector program in its run (R252, R253): the program as decoded at the start, and how far it has run. -/
structure VRun where
  cmd : List W64
  ctx : Option Nat
  prog : List W64
  pc : Nat := 0
  iter : Nat := 0
  taken : Nat := 0
deriving DecidableEq, Repr

/-- An XFER or GRAD_GATHER in progress (R302, R200). -/
structure XRun where
  cmd : List W64
  ctx : Option Nat
  taken : Nat := 0
  tick : Nat := 0
  /-- deadline records raised: 0, 1 (CE), 2 (UC) (R64) -/
  overruns : Nat := 0
deriving DecidableEq, Repr

/-- How far a command of a core stream has come: not taken by its lane yet; taken; a tile whose last k-step is over and
whose pours are not (R149, R170). -/
inductive WorkPhase where
  | waiting
  | taken
  | pouring
deriving DecidableEq, Repr

/-- A command of a core stream, as rank and MEM_STRIDE make it (R396), with its context and slot; a test blend's command has
no context (R695). -/
structure Work where
  cmd : List W64
  ctx : Option Nat
  slot : Nat
  phase : WorkPhase := .waiting
deriving DecidableEq, Repr

/-- One core: its store, its accumulator sets, its two lanes and their registers. -/
structure Core where
  /-- the core stream of the running slice: its lane commands that have not completed, in stream order (R170, R172) -/
  work : List Work := []
  store : Mem := {}
  setA : AccSet := {}
  setB : AccSet := {}
  /-- SET_SELECT: the physical set that serves as ACC-L -/
  select : Nat := 0
  tile : Option Tile := none
  pour : Option Pour := none
  chain : Option Chain := none
  /-- statistics of the tile that pours, by row or 0 (R232); its first block that saturated at H = 15 (R116) -/
  stats : Tbl Nat StatRun := []
  limitBlock : Option Nat := none
  vec : VecState := {}
  vrun : Option VRun := none
  /-- the last run was stopped under R255 or R256 -/
  vxStopped : Bool := false
  xfer : Option XRun := none
  mxCycles : Nat := 0
  cellMacs : Nat := 0
  rowFails : Nat := 0
  colFails : Nat := 0
  pourFails : Nat := 0
  injectSeen : Bool := false
  fail : Bool := false
  log : W64 := 0#64
  injRow : Nat := 0
  injCol : Nat := 0
  injBit : Nat := 0
  injArm : Bool := false
  repeated : Nat := 0
  overflows : Nat := 0
  pourStalls : Nat := 0
  longPasses : Nat := 0
  vxCycles : Nat := 0
  /-- VX_FAULT: iteration, pc, address, kind -/
  vxFault : Nat × Nat × Nat × Nat := (0, 0, 0, 0)
deriving DecidableEq, Repr

/-- What a context switch saves of one core (R209, R248, R417): live bytes, a HELD set with its chain, and the
vector state. -/
structure Image where
  live : Mem := {}
  liveBytes : Nat := 0
  /-- saved words whose error an injection made (R329) -/
  injected : List Nat := []
  acc : Option (AccSet × Chain) := none
  vec : VecState := {}
deriving DecidableEq, Repr


/-! ### Seals, step commit, membership (R590 to R659) -/

/-- The phase of the step in progress (COMMIT_STATUS PHASE, R658). -/
inductive Phase where
  | idle
  | running
  | readySent
  | commitPending
  | aborting
deriving DecidableEq, Repr

/-- One open epoch of a context (R596 to R599). -/
structure Epoch where
  n : Nat
  /-- ledger entries not yet sealed: sender's DN and sender's epoch (R597) -/
  ledger : List (Nat × Nat) := []
  /-- a check failed, a UE was read or work failed in the epoch (R598, R40) -/
  dirty : Bool := false
  /-- work of the epoch whose check has not completed yet: passes that ran k-steps or poured (R179) -/
  unchecked : Nat := 0
  sealed_ : Bool := false
  /-- DNs to which the context sent data in the epoch (R599) -/
  sentTo : List Nat := []
deriving DecidableEq, Repr

/-- A step in progress on the module (R608 to R610). -/
structure StepSt where
  step : Nat
  phase : Phase := .running
  /-- the epochs of the step: of its first slice, and in which its last command completed -/
  firstEpoch : Nat
  lastEpoch : Option Nat := none
  /-- its stream has ended OK; the caddies report the update prepared; the buddy has sent MIRROR_DONE -/
  streamOk : Bool := false
  prepared : Bool := false
  mirrorDone : Bool := false
  /-- READY of children, as (child rank, ranks covered) -/
  readyFrom : List (Nat × Nat) := []
  /-- steep counter when READY left, or at the lead when it became ready itself -/
  readySteep : Option Nat := none
  /-- steep counter of the last QUERY -/
  querySteep : Option Nat := none
  /-- cause of the first STEP_FAIL sent or received -/
  failed : Option Nat := none
  /-- the step's stream carries caddy sections, so that an update must be prepared (R461) -/
  hasUpdate : Bool := false
deriving DecidableEq, Repr

/-- A staged membership change (R646, R648). -/
structure StagedMembers where
  table : List Nat
  jver : Nat
  atStep : Nat
  atCount : Nat
  by_ : CmdRef
deriving DecidableEq, Repr

/-- A registered state set (R444). -/
structure SetReg where
  base : Nat
  t : Nat
  outer : Bool
deriving DecidableEq, Repr

/-- What the metadata packets of one step tell the buddy (R639): V, CURRENT_SLOT and STEP of the committed state, whether
the step's update writes shadow state, the packets of granules sent, and the words of the registry, by their place in it,
with their count. -/
structure MirrorMeta where
  /-- the step that the packets belong to -/
  forStep : Nat
  version : Nat
  slot : Nat
  step : Nat
  wrote : Bool
  parts : Nat
  total : Nat
  words : Tbl Nat (List W64) := []
deriving DecidableEq, Repr

/-- The mirror of the context's source in this module's mirror half, and of this context at its buddy
(R638 to R644). -/
structure Mirror where
  /-- 0 EMPTY, 1 FILLING, 2 COMPLETE -/
  state : Nat := 0
  /-- MIRROR_SLOT, and V, STEP and the registry of the source's committed state (R641) -/
  slot : Nat := 0
  version : Nat := 0
  step : Nat := 0
  sets : List SetReg := []
  stale : List Nat := []
  /-- the step whose packets arrive, as its low 16 bits; packets of granules written in it; its metadata; and what a
  whole step has left to be taken at its commit -/
  tag : Nat := 0
  received : Nat := 0
  /-- addresses and numbers of those packets, by which a second copy is known (R494) -/
  seen : List Nat := []
  metadata : Option MirrorMeta := none
  staged : List (Nat × MirrorMeta) := []
  /-- as a source: packets of granules sent, and the step they belong to; and the next step sends the committed slot as well (R642) -/
  sent : Nat := 0
  sentStep : Nat := 0
  fullDue : Bool := false
  /-- as a source: granules the buddy must be sent again (R643) -/
  resend : List Nat := []
  /-- granules of COMMITTED_UE that the buddy sends back before READY (R644), and their parts that have come -/
  repairDue : List Nat := []
  repaired : List Nat := []
deriving DecidableEq, Repr

/-- A capture armed or running (R620). -/
structure Capture where
  addr : Nat
  bytes : Nat
  spans : List (Nat × Nat)
  by_ : CmdRef
  running : Bool := false
  /-- stream, version, spans and scale history; then payloads received; then the trace -/
  words : List W64 := []
  payloads : List (List W64) := []
  trace : List (W64 × W64) := []
deriving DecidableEq, Repr

/-- A replay in progress (R621, R622): payloads still to be taken, captured trace, entries written so far. -/
structure Replay where
  traceAddr : Nat
  /-- the captured V, and the stream's STEP -/
  version : Nat
  by_ : CmdRef
  payloads : List (List W64) := []
  trace : List (W64 × W64) := []
  entry : Nat := 0
  mismatches : Nat := 0
  first : Nat := 0
deriving DecidableEq, Repr

/-- A transfer of whole state into or out of the context (R649, R651, R653). -/
inductive TransferKind where
  | takeover
  | join
  | decantSource
  | decantTarget
deriving DecidableEq, Repr

structure Transfer where
  kind : TransferKind
  by_ : Option CmdRef
  /-- the other side has agreed -/
  agreed : Bool := false
  parts : Nat := 0
  planeMask : Nat := 0
  peer : List W64 := []
  /-- the context at the other side -/
  targetCtx : Nat := 0
  rank : Nat := 0
  chain : Nat := 0
  /-- number of the state stream, its packets in all, those taken, and their bytes of data -/
  stream : Nat := 0
  packets : Nat := 0
  taken : Nat := 0
  bytes : Nat := 0
  /-- parts and keys of the packets taken, by which a second copy is known (R494) -/
  keys : List (Nat × Nat) := []
  /-- V, CURRENT_SLOT, STEP and the words of the registry in all; its words by their place; the words of each core's
  part by theirs -/
  head : Option (List W64) := none
  registry : Tbl Nat (List W64) := []
  cores : Tbl (Nat × Nat) (List W64) := []
deriving DecidableEq, Repr

/-- The job of a context (R590 to R623). -/
structure Job where
  member : Bool := false
  spare : Bool := false
  rank : Nat := 0
  /-- DN by rank; 0x10000 marks a rank whose member has left the tree -/
  table : List Nat := []
  live : List Nat := []
  stride : Nat := 0
  commitWait : Nat := 1024
  jver : Nat := 0
  /-- steps in progress, oldest first: a later step may run before the one before it commits (R619) -/
  steps : List StepSt := []
  committed : Nat := 0
  /-- the lead's decisions of its last 16 steps: step, 1 committed or 2 aborted (R614) -/
  decisions : List (Nat × Nat) := []
  /-- COMMIT received in the closed steep, to be applied at the next boundary: step, JVER, steep of arrival -/
  commitDue : Option (Nat × Nat × Nat) := none
  received : Nat := 0
  forwarded : Nat := 0
  holding : Nat := 0
  epochs : List Epoch := []
  commits : Nat := 0
  aborts : Nat := 0
  breaches : Nat := 0
  queries : Nat := 0
  /-- a new lead gathers DECISION for the step in progress (R615): ranks still to answer -/
  takeover : Option (List Nat) := none
  staged : Option StagedMembers := none
  mirror : Mirror := {}
  capture : Option Capture := none
  replay : Option Replay := none
  transfer : Option Transfer := none
  /-- as a donor: chains along which the committed state leaves at the next boundary (R651) -/
  joinsDue : List Nat := []
deriving DecidableEq, Repr

/-- What the heartbeats of one link have shown (R624, R625). -/
structure LinkBeat where
  /-- steep counter when the last heartbeat arrived -/
  at_ : Nat := 0
  missed : Nat := 0
  /-- boundary at which a miss was last counted -/
  counted : Nat := 0
  silent : Bool := false
  dn : Nat := 0
  links : Nat := 0
  mver : Nat := 0
deriving DecidableEq, Repr

/-- A vote in the master's tally (R626). -/
structure Vote where
  voter : Nat
  target : Nat
  lost : Nat
deriving DecidableEq, Repr

/-- An EXPEL received, applied at step 5 of the next boundary (R628). -/
structure Expel where
  dn : Nat
  reason : Nat
  mver : Nat
  at_ : Nat
deriving DecidableEq, Repr

/-- Domain membership, the tally, the health score and the expulsion budget (R624 to R637). -/
structure Members where
  mver : Nat := 0
  votedOut : Bool := false
  expelled : List Nat := []
  pendingExpels : List Expel := []
  /-- EXPEL messages sent by this master, for MEMBER_SYNC (R629) -/
  sentExpels : List Expel := []
  votes : List Vote := []
  beats : Tbl Nat LinkBeat := []
  /-- LINKS in each module's last heartbeat, by DN (R626) -/
  lastLinks : Tbl Nat Nat := []
  threshold : Nat := 96
  per256 : Nat := 1
  /-- HEALTH_CONFIG waiting for its boundary: AT_COUNT, THRESHOLD, PER_256, the command -/
  configDue : Option (Nat × Nat × Nat × Option CmdRef) := none
  /-- health expulsions granted, by second of reference-clock time (R635) -/
  grants : List Nat := []
  /-- watching candidates known to the master: DN, score (R636) -/
  watching : List (Nat × Nat) := []
  health : Nat := 0
  penalties : List Nat := [0, 0, 0, 0, 0, 0, 0]
  /-- units that a rung has reset since the last score (R33) -/
  unscored : List UnitId := []
  candidate : Bool := false
  watch : Bool := false
  granted : Bool := false
  /-- at the master: modules granted whose EXPEL has not left yet (R637) -/
  grantsStanding : List Nat := []
  /-- modules in the domain, by DN, with their module paths (R50, R635) -/
  modules : Tbl Nat (List Nat) := []
  ppsModules : List Nat := []
  /-- parent and children in the timing tree, by link -/
  treeChildren : List Nat := []
deriving DecidableEq, Repr

/-! ### Serving (R706 to R740) -/

/-- The states of a model slot (R711). -/
inductive ModelState where
  | free
  | empty
  | ready
  | replacing
  | mixed
deriving DecidableEq, Repr

/-- A shard that a wave fetches (R723, R727). -/
structure Shard where
  layer : Nat
  index : Nat
  due : Nat
  complete : Bool := false
  /-- CE SHARD_TIMEOUT already raised; times asked upstream and from the host -/
  recorded : Bool := false
  upTries : Nat := 0
  hostTries : Nat := 0
  packets : List Nat := []
deriving DecidableEq, Repr

/-- The source of a wave (R722, R727, R736). -/
structure Wave where
  source : Nat
  chain : Nat
  srcCtx : Nat
  loadId : Nat
  srcAddr : Nat
  hostAddr : Nat
  nonce : Nat
  timeout : Nat := 2
  retryUp : Nat := 2
  retryHost : Nat := 2
  rollback : Bool := false
  by_ : Option CmdRef := none
  shards : List Shard := []
  /-- layers whose fetch has started and not been copied out, oldest first (at most two), and layers fetched so far -/
  fetching : List Nat := []
  fetched : Nat := 0
  /-- FRONT at the start of the wave's present run, from which `fetched` counts -/
  origin : Nat := 0
  /-- DN of the module that the packets came from last, asked again first (R727) -/
  upstream : Option Nat := none
  /-- layers that R724 has let rewrite and whose copies run, in order -/
  copying : List Nat := []
deriving DecidableEq, Repr

/-- A live pass (R718, R720). -/
structure Pass where
  version : Nat
  nextLayer : Nat
  /-- a rollback has ended it; its next gate ends its stream (R729) -/
  aborted : Bool := false
deriving DecidableEq, Repr

/-- A model slot (R706 to R729). -/
structure Model where
  state : ModelState := .free
  streamed : Bool := false
  layers : Nat := 0
  tableAddr : Nat := 0
  stageAddr : Nat := 0
  key : Nat := 0
  nonce : Nat := 0
  oldVersion : Nat := 0
  newVersion : Nat := 0
  front : Nat := 0
  /-- FRONT as it stood at step 9 of the last boundary, which the barriers go by (R724) -/
  openFront : Nat := 0
  /-- layers loaded into place while EMPTY (R714), as layer and shard -/
  loaded : List (Nat × Nat) := []
  passes : Tbl Nat Pass := []
  /-- LOAD_ID and NONCE of the last wave that ended, for modules further down its chain -/
  lastLoad : Nat := 0
  lastNonce : Nat := 0
  /-- MODEL_STATUS as it shows, which changes only at boundaries (R740) -/
  shown : W64 := 0#64
  wave : Option Wave := none
deriving DecidableEq, Repr

/-- A load in progress (R713 to R715). -/
structure Load where
  ctx : Nat
  slot : Nat
  model : Nat
  layer : Nat
  loadId : Nat
  /-- the staging buffer, or none for the layer's place -/
  stage : Option Nat
  nonce : Nat
  chain : Nat
  started : Nat
  streamId : Nat
  /-- deadline records raised: 0, 1 (CE) or 2 (UC) -/
  recorded : Nat := 0
  upstream : Option Nat := none
  /-- 1 a chain, 0 the host, whose first access failed (R779); and the host address of image byte 0 -/
  source : Nat := 1
  srcAddr : Nat := 0
  shards : List Shard
deriving DecidableEq, Repr

/-- KV requests held for the next boundary (R731). -/
structure KvAsk where
  slot : Nat
  pages : Nat
  by_ : CmdRef
deriving DecidableEq, Repr

/-- The KV pool of a context (R730 to R733). -/
structure Kv where
  configured : Bool := false
  firstPage : Nat := 0
  pool : Nat := 0
  headroom : Nat := 0
  listAddr : Nat := 0
  /-- pages of each admitted slot, oldest first -/
  slots : Tbl Nat (List Nat) := []
  leaves : List KvAsk := []
  grows : List KvAsk := []
  joins : List KvAsk := []
  /-- KV_STATUS as the last boundary window left it (R740) -/
  shown : W64 := 0#64
deriving DecidableEq, Repr

/-! ### Versions and the set registry (R427 to R473) -/

/-- The versions of a context, its set registry, and the update of the step whose stream runs (R444, R459 to R463). -/
structure Upd where
  /-- CURRENT_SLOT, V, and STEP of the committed state -/
  slot : Nat := 0
  version : Nat := 0
  step : Nat := 0
  /-- STEP of the previous version, while it stays readable (R68, R460) -/
  prevStep : Option Nat := none
  sets : List SetReg := []
  /-- the update commands of the running stream's step: PREPARED, and the caddy parts of its commands still to
  complete; an error, GRAD_STALE or DEADLINE_CADDY among them -/
  prepared : Bool := false
  left : Nat := 0
  bad : Bool := false
  /-- sets that the stream has initialised and retired, and whether a command writes shadow state -/
  inits : List SetReg := []
  retires : List SetReg := []
  wrote : Bool := false
  /-- commands whose first kept tile, and whose first skewed block, have been recorded (R451, R452) -/
  keptCmds : List Nat := []
  skewCmds : List Nat := []
  /-- commands of the stream, and of committed steps, that wrote the copies that stand (R318, R465) -/
  copies : List (List W64) := []
  copiesOld : List (List W64) := []
deriving DecidableEq, Repr

/-- One update command on one caddy (R447): its own tiles from `next` on are still to do. -/
structure CaddyJob where
  id : Nat
  ctx : Nat
  slot : Nat
  cmd : List W64
  lits : List W32
  next : Nat
  /-- steep counter and reference-clock ticks at the start -/
  started : Nat
  tick : Nat
  late : Bool := false
  /-- the caddy finishes the tile in hand and takes no further tile (R463) -/
  stop : Bool := false
deriving DecidableEq, Repr

/-- One caddy (R427, R447, R474). -/
structure Caddy where
  jobs : List CaddyJob := []
  /-- the job whose tile is in hand -/
  hand : Option Nat := none
  /-- context of the tile finished last, for the turns of R473 -/
  last : Nat := 7
  tiles : Nat := 0
  refreshes : Nat := 0
  rootsFailed : Nat := 0
  skewBlocks : Nat := 0
  nonfinite : Nat := 0
  stale : Nat := 0
  iterMax : Nat := 0
  cycles : Nat := 0
  skewLog : W64 := 0#64
  /-- the steep in which a section was last issued (R696) -/
  issuedAt : Option Nat := none
deriving DecidableEq, Repr
/-! ### Groups (R512, R513) -/

/-- A collective group (R512, R513). -/
structure Group where
  lanes : Nat
  n : Nat
  g : Nat
  table : List Nat
  orders : List (List Nat)
  check : Nat
deriving DecidableEq, Repr

/-! ### Outer rounds (R567 to R586) -/

/-- The configuration of a context's outer round (R567). -/
structure OuterCfg where
  id : Nat
  h : Nat
  lag : Nat
  staleLimit : Nat
  sign : Bool
  sender : Bool
  fmt : Nat
  kBlk : Nat
  chain : Nat
  sites : Nat
  touchSteeps : Nat
  share : Nat
  diff : Nat
  diffHdr : Nat
  resid : Nat
  merge : Nat
  mergeHdr : Nat
  count : Nat
  peers : List (List W64)
  lead : List W64
deriving DecidableEq, Repr

/-- The states of a module in a round (R571). -/
inductive OuterState where
  | none
  | local_
  | sending
  | waiting
  | merging
  | ready
deriving DecidableEq, Repr

/-- What has come of one site's difference of one round: codec blocks by index, and n (R572, R573). -/
structure OuterDiff where
  site : Nat
  round : Nat
  merge : Bool
  n : Nat
  /-- words by OFFSET: a codec block's first half at its first element, a second half one above (R527) -/
  blocks : Tbl Nat (List W64) := []
  /-- HAVE has been reported -/
  told : Bool := false
deriving DecidableEq, Repr

/-- The coordinator's decision of a round (R575). -/
structure OuterDecision where
  round : Nat
  skip : Bool
  merge : Bool
  onTime : Nat
  carry : List (Nat × Nat)
deriving DecidableEq, Repr

/-- HELLO of a site (R581): last round applied, skipped rounds, last committed step, steps since the anchor. -/
structure OuterHello where
  applied : Nat
  skipped : Nat
  step : Nat
  sinceAnchor : Nat
deriving DecidableEq, Repr

/-- The outer round of a context (R567 to R586). -/
structure Outer where
  cfg : Option OuterCfg := .none
  s0 : Nat := 0
  state : OuterState := .none
  round : Nat := 0
  skipped : Nat := 0
  touchMask : Nat := 0
  /-- sites in touch with this module's own links, and at the coordinator with each gateway, by DN (R570) -/
  gateMask : Nat := 0
  gates : Tbl Nat Nat := []
  /-- E of R574 as each module of the site job has reported it, by DN -/
  reports : Tbl Nat Nat := []
  /-- steep counter of the round's deadline (R574) -/
  deadline : Option Nat := .none
  /-- the encoded round kept for sending again (R572), as this site's own difference -/
  kept : List OuterDiff := []
  diffs : List OuterDiff := []
  /-- HAVE as the coordinator knows it: site, round, merge, DN of the module -/
  have_ : List (Nat × Nat × Bool × Nat) := []
  /-- rounds of sites decided LATE and not yet in CARRY -/
  late : List (Nat × Nat) := []
  decision : Option OuterDecision := .none
  /-- decision of the round before -/
  prev : Option OuterDecision := .none
  /-- differences discarded as too late: site, round (R575) -/
  gone : List (Nat × Nat) := []
  hellos : Tbl Nat OuterHello := []
  /-- a merge round is held: the step that ends it once known (R582) -/
  merging : Bool := false
  mergeStep : Option Nat := .none
  /-- last round applied, and the step of the present anchor -/
  applied : Nat := 0
  anchor : Nat := 0
  /-- a re-anchor under way: donor site, command (R585, R586) -/
  reanchor : Option (Nat × Option CmdRef) := .none
  /-- its words so far: outer set, plane (0 W, 1 AN, 2 B), tile and piece of a granule; the packets of its stream in
  all, and its number -/
  moved : Tbl (Nat × Nat × Nat × Nat) (List W64) := []
  movedAll : Nat := 0
  movedStream : Nat := 0
  /-- the donor's next round, and the step whose update writes the planes into the shadow slot -/
  movedRound : Nat := 0
  movedStep : Option Nat := .none
  /-- round that starts at S0: 0, or the round at which a late joiner enters (R585) -/
  firstRound : Nat := 0
  /-- as a donor: sites whose PEER asks for the committed planes -/
  asked : List Nat := []
  lates : Nat := 0
  tooLate : Nat := 0
  skips : Nat := 0
  reanchors : Nat := 0
deriving DecidableEq, Repr


/-! ### Contexts (R407 to R426) and what hangs under them -/

/-- What an accepted request on a context will do at its boundary (R387). -/
inductive CtxDue where
  | enable (by_ : CmdRef)
  | disable (by_ : CmdRef)
deriving DecidableEq, Repr

/-- A context. A FREE context holds the reset values, but for JOBS (R425). -/
structure Ctx where
  state : CtxState := .free
  dieMask : Nat := 0
  fastBase : Nat := 0
  fastPages : Nat := 0
  slowBase : Nat := 0
  slowGib : Nat := 0
  /-- windows that CONTEXT_CREATE gave, shown and in force from step 7 of the next boundary (R300, R330) -/
  windowDue : Option (Nat × Nat × Nat × Nat) := none
  jobId : W64 := 0#64
  jobs : Nat := 0
  pendingEnable : Option CmdRef := none
  due : Option CtxDue := none
  /-- the UNIT_DISABLE that set DRAINING, whose COMMAND_DONE follows at STOPPED -/
  disableBy : Option CmdRef := none
  /-- terminations of R36 still being written -/
  terminating : Bool := false
  fencedAt : Nat := 0
  maskDue : Option (Nat × CmdRef) := none
  slots : Tbl Nat Slot := []
  nextStream : Nat := 1
  /-- LIVE_BYTES of each core that a KEEP_LIVE has set (R398) -/
  keepLive : Tbl Nat Nat := []
  threshold : Nat := 0
  ratio : Nat := 0x0100
  window : Nat := 0
  held : List Event := []
  eventsLost : Nat := 0
  /-- A and W of the running window (R423) -/
  cyclesHeld : Nat := 0
  cyclesWaited : Nat := 0
  stages : Tbl Nat Stage := []
  switching : Bool := false
  /-- low-precision copies in granules with a logged UE are rewritten before the next slice (R318) -/
  rewriteDue : Bool := false
  satBlocks : Nat := 0
  nanBlocks : Nat := 0
  limitHits : Nat := 0
  underflowSeen : Bool := false
  historyValid : Bool := false
  /-- scale-history records written since the last reset of R122, as TILE_ID and block; every other record stands at its
  reset value -/
  measured : List (Nat × Nat) := []
  /-- what switches have saved, by core (R417) -/
  images : Tbl Nat Image := []
  job : Job := {}
  upd : Upd := {}
  groups : Tbl Nat Group := []
  /-- forwarding chains (R538): NEXT paths -/
  chains : Tbl Nat (List (List W64)) := []
  outer : Outer := {}
  models : Tbl Nat Model := []
  kv : Kv := {}
  eventVectorEn : Bool := false
  eventVector : Nat := 0
deriving DecidableEq, Repr

/-- The rotation of one compute die (R413, R414): entries of a context and its RUN, from boundary `start` on. -/
structure Rotation where
  entries : List (Nat × Nat) := []
  start : Nat := 0
  /-- a rotation that starts at step 7 of the next boundary -/
  due : Option (List (Nat × Nat) × CmdRef) := none
deriving DecidableEq, Repr

/-- A switch of a die from one context to another (R417 to R419). -/
structure Switch where
  die : Nat
  from_ : Option Nat
  to_ : Nat
  started : Nat
  /-- waits for an overrunning slice (R209, R419) -/
  waiting : Bool := false
  /-- t_switch of R418 in ns -/
  ns : Nat := 0
deriving DecidableEq, Repr

/-- A composite unit led by this module (R23 to R26): its members' paths. -/
structure Composite where
  members : List (List W64)
deriving DecidableEq, Repr

/-- A request fanned out to other modules, and the replies so far: member, STATUS and reply words (R23, R24). -/
structure Fan where
  id : Nat
  cmd : CmdRef
  composite : Bool
  members : List (List W64)
  replies : List (Nat × Nat × List W64) := []
  started : Nat
  request : List W64 := []
  /-- steeps that its replies may take: more at a module that sends a composite's request to its lead -/
  wait : Nat := 4
deriving DecidableEq, Repr

/-- What the block sends out, in order. -/
inductive Out where
  /-- an MSI-X message (R347, R782) -/
  | msix (vector : Nat)
  /-- a notice word to the kettle or an engine (R346) -/
  | notice (engine : Option Nat) (word : W64)
  /-- a rewind reported to the producer of a queue (R341) -/
  | rewound (pool qid port : Nat) (toward : Option Party) (why : Cause)
  /-- a write to host memory through PCIe -/
  | hostWrite (addr : Nat) (bytes : List Byte)
  /-- a frame on a link: header, payload and check word (R478), or a far frame's header and payload (R548) -/
  | frame (link : Nat) (words : List W64)
  /-- a message on the management bus (R788 to R790) -/
  | mctp (type : Nat) (words : List W64)
  /-- the provisional ID in dynamic address assignment (R787) -/
  | i3c (id : W64)
deriving DecidableEq, Repr

/-! ### Fabric (R476 to R543) -/

/-- The states of a link (R490). -/
inductive LinkState where
  | down
  | training
  | trained
  | far
  | failed
deriving DecidableEq, Repr

/-- Credits of one channel of a link: as its sender (available, sent, returns received, allocation) and as its
receiver (cells received, credits granted) (R74, R482, R483). -/
structure Credit where
  available : Nat := 0
  sent : Nat := 0
  returned : Nat := 0
  allocation : Nat := 0
  received : Nat := 0
  granted : Nat := 0
  /-- steep counter at the last credit return (R486) -/
  lastReturn : Nat := 0
deriving DecidableEq, Repr

/-- A packet on its way out: its payload words as they stand before this module's hop (R498), where it may go
(R501, R503), and the receive-queue packet that it forwards (R504). -/
structure TxPacket where
  id : Nat
  ctx : Option Nat
  ty : Nat
  vc : Nat
  words : List W64
  ports : List Nat
  ordered : Bool
  /-- it goes to another site, over a FAR link (R501, R503) -/
  far : Bool := false
  rset : Nat
  rgen : Nat
  /-- pool, queue and SEQ of the packet it forwards -/
  src : Option (Nat × Nat × Nat) := none
  /-- the link that lost it, which it avoids (R492) -/
  avoid : Option Nat := none
  /-- steep counter when it became ready -/
  since : Nat
deriving DecidableEq, Repr

/-- A data frame in the replay buffer (R487). -/
structure TxFrame where
  fseq : Nat
  words : List W64
  packet : Nat
  last : Bool
  replays : Nat := 0
deriving DecidableEq, Repr

/-- A key slot of a far link (R550, R552, R554). -/
structure FarKey where
  handle : Nat
  salt : Nat
  /-- the words of the key, which the link keeps (R763) -/
  key : List W64
  /-- steep counter when a frame under the slot was last accepted -/
  accepted : Option Nat := none
  /-- frames sent under the slot; its FAR_KEY_AGE has been raised -/
  sent : Nat := 0
  aged : Bool := false
deriving DecidableEq, Repr

/-- A held frame of a far link: its frame count, its packet, and the words of header and payload (R552, R562). -/
structure FarHeld where
  count : Nat
  packet : Nat
  last : Bool
  words : List W64
  /-- it has been sent; an entered frame waits for the window (R557) -/
  sent : Bool := false
deriving DecidableEq, Repr

/-- A link in far-link mode (R544 to R566, R589). -/
structure Far where
  /-- far-link mode is enabled -/
  on : Bool := false
  site : Nat := 0
  /-- FAR_STATE: 0 off, 1 training, 2 up, 3 restarting -/
  state : Nat := 0
  keys : Tbl Nat FarKey := []
  sendSlot : Nat := 0
  switch : Option (Nat × Nat × CmdRef) := none
  /-- next frame count and control count to send, next frame count expected, next control count expected -/
  txCount : Nat := 0
  ctlCount : Nat := 0
  rxCount : Nat := 0
  rxCtl : Nat := 0
  /-- frame count of the first frame of the receiver's open packet, or of the next packet -/
  rxStart : Nat := 0
  /-- a DISCOVERY frame of the far end has been taken in this training -/
  discovered : Bool := false
  /-- FAR_RESTART is sent until the next frame count is acknowledged (R564) -/
  restartDue : Bool := false
  held : List FarHeld := []
  freeSlots : Nat := 1519104
  w : Nat := 0
  /-- round trips in 10 ns ticks: RTT_REF and the last measured -/
  rttRef : Nat := 0
  rtt : Nat := 0
  rttLimit : Bool := false
  /-- the receiver has refused a frame and repeats NAK; the sender waits under HOLD (R560, R561) -/
  nak : Bool := false
  nakHold : Bool := false
  holding : Bool := false
  remoteDn : Nat := 0
  /-- steep counter at the last FAR_TIME accepted, its TX_STAMP, and the ticks at its arrival (R555, R570) -/
  lastTime : Option Nat := none
  lastStamp : Nat := 0
  lastArrival : Nat := 0
  remoteCount : Nat := 0
  remotePhase : Nat := 0
  /-- a word of its buffer was found uncorrectable: a far restart is due (R317) -/
  ueDue : Bool := false
  /-- tags failed in the running steep -/
  tagFails : Nat := 0
  authFails : Nat := 0
  naks : Nat := 0
  restarts : Nat := 0
  resizes : Nat := 0
  /-- frames accepted since the last FAR_ACK -/
  sinceAck : Nat := 0
  /-- packets lost in restarts -/
  nextPacket : Nat := 0
  /-- free slots and HELD at the last snapshot (R566) -/
  snap : Nat × Nat := (1519104, 0)
deriving DecidableEq, Repr

/-- One link (R476 to R497, R541 to R543). -/
structure Link where
  state : LinkState := .down
  nbDn : Nat := 0
  nbDnValid : Bool := false
  nbLink : Nat := 0
  nbSite : Nat := 0
  nbPeriod : Nat := 0
  nbPath : List Nat := []
  nbIdentity : Nat := 0
  periodOk : Bool := false
  jobTraffic : Bool := false
  /-- failed trainings, by second of reference-clock time (R493) -/
  trainFails : List Nat := []
  /-- LINK_RETRAIN whose event is due at the end of training -/
  retrainBy : Option CmdRef := none
  /-- the allocation set for the next training and the one in force (R484, R542) -/
  allocNext : W64 := 0x030C0C1818404002#64
  alloc : W64 := 0x030C0C1818404002#64
  credits : Tbl Nat Credit := []
  rttNs : Nat := 0
  oneWayNs : Nat := 0
  fecSymbols : Nat := 0
  fecUncorr : Nat := 0
  replays : Nat := 0
  /-- replays in the running health window (R632) -/
  replays64 : Nat := 0
  /-- FSEQ of the next data frame, and of the frame that the receiver expects (R487, R488) -/
  nextFseq : Nat := 0
  rxNext : Nat := 0
  nak : Bool := false
  frames : List TxFrame := []
  inflight : List TxPacket := []
  /-- the channel that sent last, for the turns of R480 -/
  lastVc : Nat := 0
  far : Far := {}
deriving DecidableEq, Repr

/-- One generation of a route set: BASE and COUNT by depth, and the entries (R502). -/
structure RouteGen where
  depths : List (Nat × Nat) := []
  entries : Tbl Nat Nat := []
deriving DecidableEq, Repr

/-- A route set (R505 to R507). -/
structure RouteSet where
  gens : Tbl Nat RouteGen := []
  live : Nat := 0
  loaded : Bool := false
  /-- steep counter of the commit whose old generation is still kept -/
  keptSince : Option Nat := none
deriving DecidableEq, Repr

/-- A collective operation of a context (R514 to R537). Units are runs of U elements counted from the first; a unit's
words are as they travel. -/
structure CollOp where
  ctx : Nat
  slot : Nat
  cmd : List W64
  started : Nat
  tick : Nat
  overruns : Nat := 0
  /-- a replayed capture sends nothing (R621) -/
  mute : Bool := false
  /-- rank and group; for COLL_SEND and COLL_RECV a group of this module alone -/
  rank : Nat
  group : Group
  /-- identity of each packet taken: both header words without TABLE_CHECK (R528) -/
  seen : List (Nat × Nat) := []
  /-- first halves and second halves of split codec blocks: (unit, level, phase, half) -/
  halves : Tbl (Nat × Nat × Nat × Nat) (List W64) := []
  /-- level-1 values that wait for their level-2 input, and level-2 inputs that wait for the value (R521) -/
  own : Tbl Nat (List W32) := []
  waiting : Tbl Nat (List W32) := []
  results : Tbl Nat (List W64) := []
  residual : Tbl Nat (List W32) := []
  /-- LOCAL_SQ, the squares of owned chunks, and the non-finite flag, by rank (R537) -/
  stats : Tbl Nat (Nat × Nat × Bool) := []
  /-- the barrier's second pass has reached this rank (R525); the receive has its packets -/
  finished : Bool := false
deriving DecidableEq, Repr

/-- The fabric of the module. -/
structure Fabric where
  /-- domain number, and the module's domain-relative path of group hops and the module hop (R495) -/
  dn : Nat := 0
  dnValid : Bool := false
  path : List Nat := []
  site : Nat := 0
  links : Tbl Nat Link := []
  routes : Tbl Nat RouteSet := []
  /-- ROUTE_COMMIT not yet applied: set mask, AT_COUNT, the command (R506) -/
  commit : Option (Nat × Nat × Option CmdRef) := none
  misses : Nat := 0
  loops : Nat := 0
  stale : Nat := 0
  rerouted : Nat := 0
  /-- packets that wait for a port and its credits, oldest first -/
  waiting : List TxPacket := []
  nextPacket : Nat := 0
  ops : List CollOp := []
  /-- operations that have ended: context, STEP, OP_ID -/
  ended : List (Nat × Nat × Nat) := []
  /-- requests of other modules that have been taken: the steep, the sender, bits of its steep counter, and the request's first
  word, by which a second copy is known (R494) -/
  asked : List (Nat × Nat × Nat × W64) := []
  /-- the operation that ended with COLL_TIMEOUT last: context, opcode, OP_ID -/
  timedOut : Option (Nat × Nat × Nat) := none
  collOps : Nat := 0
  collTimeouts : Nat := 0
  duplicates : Nat := 0
  mismatches : Nat := 0
deriving DecidableEq, Repr

/-! ### Power, clocks, thermal (R796 to R835) -/

/-- One region's clock and its throttles (R809 to R818). -/
structure Region where
  /-- effective and set clock, in units of 12.5 MHz -/
  eff : Nat := 128
  set_ : Nat := 128
  /-- present supply in mV -/
  volt : Nat := 0
  /-- steps of 100 MHz that stand under each cause of R815 -/
  thermal : Nat := 0
  tempDiff : Nat := 0
  adjacent : Nat := 0
  power : Nat := 0
  margin : Nat := 0
  /-- MARGIN_CRITICAL records whose step is due at the next boundary (R700) -/
  marginDue : Nat := 0
  /-- steeps in a row below 90 °C, and with every adjacent region within 12 °C -/
  cool : Nat := 0
  calm : Nat := 0
  /-- steep counter at the last step of a thermal release -/
  released : Nat := 0
  /-- a reset of the region returns its clock to the set value at step 7 of the next boundary (R684, R835) -/
  restoreDue : Bool := false
deriving DecidableEq, Repr

/-- Input power, the power state, the clocks and what the sensors show (R797 to R823). -/
structure Power where
  regions : Tbl Nat Region := []
  /-- REGION_SET not yet in force on every region: the regions left, the clock, the command -/
  sets : List (List Nat × Nat × CmdRef) := []
  /-- M0 to M3, the state requested, and the command whose COMMAND_DONE is due -/
  state : Nat := 0
  target : Nat := 0
  stateBy : Option CmdRef := none
  /-- the transition has started at its boundary -/
  moving : Bool := false
  /-- the converters are off, or every rail is -/
  off : Bool := false
  pwrgd : Bool := true
  /-- the next start is a cold boot (R798, R806) -/
  cold : Bool := false
  refLost : Bool := false
  /-- the input lies between 40 V and 44 V -/
  sag : Bool := false
  inputLow : Bool := false
  /-- reference-clock second of the last INPUT_HIGH -/
  lastHigh : Option Nat := none
  /-- last sample: 10 mV, W; and the average of the last steep in W -/
  volts : Nat := 0
  sampleW : Nat := 0
  avgW : Nat := 0
  lastEnergy : Nat := 0
  lastSteep : Nat := 0
  peakGate : Bool := false
  /-- steeps in a row at or below 95 % of the limit; steep counter at the last release of the cap -/
  below : Nat := 0
  capReleased : Nat := 0
  inlet : Int := 0
  outlet : Int := 0
  tripSeen : Bool := false
  critical : Bool := false
  warn : Bool := false
  /-- the ROM waits for every sensor below 85 °C (R817) -/
  tripHold : Bool := false
  evThermal : Nat := 0
  evAdjacent : Nat := 0
  evPower : Nat := 0
  evPeak : Nat := 0
  /-- stack temperatures in °C -/
  stackTemps : Tbl Nat Int := []
  /-- PLDM sensors as last updated, and the level of each threshold sensor: 0 to 3 (R789, R790, R823) -/
  sensors : Tbl Nat Int := []
  levels : Tbl Nat Nat := []
deriving DecidableEq, Repr

/-! ### Host and management interfaces (R769 to R796) -/

/-- The host side and the management side. -/
structure HostIf where
  /-- Revision ID of the PCIe configuration header (R1) -/
  revision : BitVec 8 := 0xA1#8
  /-- functions whose Bus Master Enable and whose MSI-X Enable are set (R778, R782) -/
  busMaster : List Nat := []
  msixEnabled : List Nat := []
  /-- the MSI-X tables: words 2v and 2v + 1 of vector v without its mask bit, the vectors whose mask bit is clear, the
  functions with Function Mask set, and the vectors pending while masked (R347, R774, R780, R782) -/
  msixTable : Tbl Nat W64 := []
  unmasked : List Nat := []
  fnMasked : List Nat := []
  msixPending : List Nat := []
  numVfs : Nat := 0
  vfEnable : Bool := false
  /-- functions in FLR; 0 is the physical function (R784, R785) -/
  flr : List Nat := []
  d3hot : Bool := false
  /-- the host link is down after a hot reset or a link-down event (R784) -/
  linkDown : Bool := false
  ideActive : Bool := false
  flit : Bool := false
  width : Nat := 0
  speed : Nat := 0
  dmaErrors : Nat := 0
  msiDropped : Nat := 0
  flrs : Nat := 0
  linkDowns : Nat := 0
  alertMask : Nat := 9
  alertPps : Bool := false
  alertOos : Bool := false
  alertThermal : Bool := false
  alertUc : Bool := false
  alertFa : Bool := false
  ppsSteep : Nat := 0
  ppsPhase : Nat := 0
  ppsEn : Bool := false
  /-- tick of the last edge, or of the setting of PPS_EN; none when the loss has been told (R793) -/
  ppsAt : Option Nat := none
  i3cAddr : Option Nat := none
  eid : Option Nat := none
  pldmReady : Bool := false
  pldmEvents : Bool := false
  /-- MOD_RESET_N is held low -/
  resetHeld : Bool := false
deriving DecidableEq, Repr

/-! ### Boot, measurement and keys (R741 to R768) -/

/-- An SPDM session (R759, R760): its identifier, whether its exchange asked for the summary of all measurements, its
path, and the ticks at its last heartbeat. -/
structure Session where
  id : Nat
  summary : Bool
  oob : Bool
  beat : Nat
deriving DecidableEq, Repr

/-- An installed key (R761, R762). -/
structure KeyEntry where
  kind : Nat
  ctx : Nat
  gen : Nat
  key : List W64
deriving DecidableEq, Repr

/-- Boot, the module flash, measurement, sessions and keys (R741 to R768). -/
structure Trust where
  stage : Nat := 0
  /-- BANK and NEXT_BANK; the boot counter -/
  bank : Nat := 0
  nextBank : Nat := 0
  bootCount : Nat := 0
  /-- the seed that the ROM recovered, held in its signing unit, and the identity digest -/
  seed : Option (List Byte) := none
  identity : List Byte := []
  /-- measurement slots: digest and extension count; a slot that is not listed is 64 zero bytes and 0 -/
  slots : Tbl Nat (List Byte × Nat) := []
  /-- firmware banks A and B, at 0 and at 64 MiB -/
  banks : Mem := {}
  /-- the configuration record in force and the staged one, 236 bytes each -/
  config : Option (List Byte) := none
  staged : Option (List Byte) := none
  sigOk : Bool := false
  isDefault : Bool := false
  /-- bank fallbacks of this boot, whose records wait for the record path -/
  fallbacks : Nat := 0
  /-- F, SITE, POWER_LIMIT_W and the subsystem IDs in force (R754) -/
  farBuffers : Nat := 0
  site : Nat := 0
  powerLimit : Nat := 3000
  subVendor : Nat := 0
  subId : Nat := 0
  sessions : List Session := []
  nextSession : Nat := 1
  keys : Tbl Nat KeyEntry := []
  /-- generation of the last use of each entry -/
  gens : Tbl Nat Nat := []
  delivered : Nat := 0
  /-- the key of the link IDE stream -/
  ideKey : Option (List W64) := none
  /-- response to the last in-band SPDM request -/
  reply : Option (List W64) := none
deriving DecidableEq, Repr


/-- Why a step stops the machine. -/
inductive Fault where
  /-- An access to a module address that holds no memory (R294), or beyond a core store. Raised by the commands
  that name tier or core-store addresses; safe: the spec gives no effect there. -/
  | noMemory (addr : Nat)
deriving DecidableEq, Repr

/-- Why a command has no meaning. -/
inductive Refusal where
  /-- No meaning is written for the command. Raised only by the dispatch arms that say so; safe. -/
  | notModelled (mnemonic : String)
deriving DecidableEq, Repr

/-- A message held for the next steep (R55): a heartbeat of a link, a packet with its KIND, a commit message with its MSG. -/
inductive EarlyMsg where
  | beat (link : Nat) (b : Beat)
  | packet (kind : Nat) (p : Pkt)
  | msg (msg : Nat) (m : CommitMsg)
deriving DecidableEq, Repr

/-- The whole block. -/
structure State where
  /-- commands that wait, first in, first out -/
  pending : List Instr := []
  /-- messages stamped for the next steep, with that steep, which wait for its boundary (R55) -/
  early : List (Nat × EarlyMsg) := []
  steep : Steep := {}
  units : Tbl UnitId UnitSt := []
  faults : Faults := {}
  mem : MemUnit := {}
  cores : Tbl Nat Core := []
  caddies : Tbl Nat Caddy := []
  /-- number of the next update command taken by the caddies -/
  nextUpd : Nat := 0
  pools : Tbl Nat Pool := []
  mailboxes : Tbl Nat Mailbox := []
  ctxs : Tbl Nat Ctx := []
  rotations : Tbl Nat Rotation := []
  switches : List Switch := []
  composites : Tbl Nat Composite := []
  fans : List Fan := []
  nextFan : Nat := 0
  /-- the kettle's answer to a request of another module, until its packet leaves in the same command: STATUS and reply words -/
  kettleAnswer : Option (Nat × List W64) := none
  /-- events of requests that came from other modules, still to be sent there: stand-in mailbox, TAG, STATUS, words -/
  remoteEvents : List (Nat × Nat × Nat × List W64) := []
  members : Members := {}
  host : HostIf := {}
  power : Power := {}
  trust : Trust := {}
  fabric : Fabric := {}
  loads : List Load := []
  infMib : Nat := 0
  infBytes : Nat := 0
  infRetries : Nat := 0
  infDuplicates : Nat := 0
  /-- the answer of the last queue operation, to the unit that issued it -/
  queueStatus : QStatus := .ok
  queueData : List W64 := []
  /-- data of the last register read -/
  readData : W64 := 0#64
  /-- what the block has sent, oldest first -/
  out : List Out := []
  /-- the model's own counter of free values taken -/
  fresh : Nat := 0
deriving DecidableEq, Repr

/-- The state right after reset. -/
def State.reset : State := {}

end Sys2Proof.Machine
end

