-- ==== Sys2Proof/Machine/Ops.lean ====
section
/-! DEFINITION. Machine/Ops.lean: the named operations over State: accessors of the tables, byte memory and its
check code (R294 to R316), cells and packets of the queue pools (R331 to R364), and what the block sends out. -/
namespace Sys2Proof.Machine

/-! ### Accessors -/

def State.unit (s : State) (u : UnitId) : UnitSt := s.units.get {} u
def State.setUnit (s : State) (u : UnitId) (v : UnitSt) : State := { s with units := s.units.set u v }
def State.pool (s : State) (p : Nat) : Pool := s.pools.get {} p
def State.setPool (s : State) (p : Nat) (v : Pool) : State := { s with pools := s.pools.set p v }
def State.mailbox (s : State) (n : Nat) : Mailbox := s.mailboxes.get {} n
def State.setMailbox (s : State) (n : Nat) (v : Mailbox) : State := { s with mailboxes := s.mailboxes.set n v }
def State.ctx (s : State) (n : Nat) : Ctx := s.ctxs.get {} n
def State.setCtx (s : State) (n : Nat) (v : Ctx) : State := { s with ctxs := s.ctxs.set n v }
def State.updCtx (s : State) (n : Nat) (f : Ctx → Ctx) : State := s.setCtx n (f (s.ctx n))
def State.updJob (s : State) (n : Nat) (f : Job → Job) : State := s.updCtx n fun c => { c with job := f c.job }
def Pool.queue (p : Pool) (q : Nat) : Queue := p.queues.get {} q
def Pool.setQueue (p : Pool) (q : Nat) (v : Queue) : Pool := { p with queues := p.queues.set q v }
def State.queue (s : State) (p q : Nat) : Queue := (s.pool p).queue q
def State.updQueue (s : State) (p q : Nat) (f : Queue → Queue) : State :=
  s.setPool p ((s.pool p).setQueue q (f (s.queue p q)))
def Ctx.slot (c : Ctx) (n : Nat) : Slot := c.slots.get {} n
def Ctx.setSlot (c : Ctx) (n : Nat) (v : Slot) : Ctx := { c with slots := c.slots.set n v }
def Ctx.model (c : Ctx) (n : Nat) : Model := c.models.get {} n
def State.updModel (s : State) (n m : Nat) (f : Model → Model) : State :=
  s.updCtx n fun c => { c with models := c.models.set m (f (c.model m)) }

/-- The block sends something out. -/
def State.emit (s : State) (o : Out) : State := { s with out := s.out ++ [o] }

/-- The steep counter as a word. -/
def State.now (s : State) : Nat := s.steep.count

/-! ### Byte memory in canonical form -/

/-- The byte at an address; a byte that is not listed reads 0 (R323, R745). -/
def cellAt : List Host.Cell → Nat → Byte
  | [], _ => 0#8
  | (a, b) :: rest, x => if a = x then b else cellAt rest x

/-- Puts a byte in its place among rising addresses. -/
def insertCell : List Host.Cell → Nat → Byte → List Host.Cell
  | [], x, v => [(x, v)]
  | (a, b) :: rest, x, v =>
    if x < a then (x, v) :: (a, b) :: rest
    else if x = a then (x, v) :: rest
    else (a, b) :: insertCell rest x v

/-- Writes a byte and keeps the form: addresses rise, no listed byte is 0. -/
def putCell (m : List Host.Cell) (x : Nat) (v : Byte) : List Host.Cell :=
  if v = 0#8 then m.filter fun c => decide (c.1 ≠ x) else insertCell m x v

/-- The form of a cell list whose addresses must all exceed `lo` when it is given. -/
def cellsWf : Option Nat → List Host.Cell → Bool
  | _, [] => true
  | lo, (a, b) :: rest => (match lo with | none => true | some l => decide (l < a)) && decide (b ≠ 0#8) && cellsWf (some a) rest

/-- The canonical form of a memory. -/
def Mem.wf (m : Mem) : Bool := cellsWf none m.cells

/-- One byte. -/
def Mem.byte (m : Mem) (a : Nat) : Byte := cellAt m.cells a

/-- Writes one byte. -/
def Mem.setByte (m : Mem) (a : Nat) (v : Byte) : Mem := { m with cells := putCell m.cells a v }

/-- Writes bytes from an address upward. -/
def Mem.setBytes (m : Mem) (a : Nat) : List Byte → Mem
  | [] => m
  | b :: bs => (m.setByte a b).setBytes (a + 1) bs

/-- The syndrome that a reader of a word forms (R312); 0 when it is clean. -/
def Mem.syndrome (m : Mem) (wa : Nat) : Byte := Tbl.get m.syn 0#8 wa

/-- Sets the syndrome of a word. -/
def Mem.setSyn (m : Mem) (wa : Nat) (v : Byte) : Mem :=
  { m with syn := if v = 0#8 then Tbl.drop m.syn wa else Tbl.set m.syn wa v }

/-- The stored data of the word at word address `wa`. -/
def Mem.raw (m : Mem) (wa : Nat) : W64 := bytesWord ((List.range 8).map fun i => m.byte (8 * wa + i))

/-- Stores a word with fresh check bits. -/
def Mem.store (m : Mem) (wa : Nat) (v : W64) : Mem := (m.setBytes (8 * wa) (wordBytes v)).setSyn wa 0#8

/-! ### The check code (R310 to R312) -/

/-- Bytes with exactly three bits set, in rising order. -/
def weight3 : List Nat := (List.range 256).filter fun v => popN 8 v == 3

/-- The column h(i) of data bit i (R310). -/
def hcol (i : Nat) : Nat :=
  if i < 56 then weight3.getD i 0 else [0x1F, 0x2F, 0x37, 0x3B, 0x3D, 0x3E, 0x4F, 0x57].getD (i - 56) 0

/-- The check bits of a word (R311). -/
def checkBits (w : W64) : Byte :=
  (List.range 64).foldl (fun c i => if w.getLsbD i then c ^^^ BitVec.ofNat 8 (hcol i) else c) 0#8

/-- What a syndrome means (R312). -/
inductive Ecc where
  | clean
  | dataBit (i : Nat)
  | checkBit
  | ue
deriving DecidableEq, Repr

/-- The reader's decision on a syndrome (R312). -/
def eccOf (syn : Byte) : Ecc :=
  if syn = 0#8 then .clean
  else if popN 8 syn.toNat = 1 then .checkBit
  else match (List.range 64).find? fun i => hcol i == syn.toNat with
    | some i => .dataBit i
    | none => .ue

/-- A word as a reader delivers it: corrected where the syndrome names a data bit, as stored otherwise (R316, R317). -/
def eccFix (syn : Byte) (w : W64) : W64 :=
  match eccOf syn with
  | .dataBit i => w ^^^ BitVec.ofNat 64 (2 ^ i)
  | _ => w

/-- The word a reader of a memory is given. -/
def Mem.word (m : Mem) (wa : Nat) : W64 := eccFix (m.syndrome wa) (m.raw wa)

/-- Consecutive words. -/
def Mem.words (m : Mem) (wa n : Nat) : List W64 := (List.range n).map fun i => m.word (wa + i)

/-- Stores consecutive words. -/
def Mem.storeWords (m : Mem) (wa : Nat) : List W64 → Mem
  | [] => m
  | w :: ws => (m.store wa w).storeWords (wa + 1) ws

/-- The syndrome that inverting bits of the 72-bit word makes: data bit i moves it by h(i), check bit j by `2^j`
(R310, R311). -/
def flipSyn (bit : Nat) : Byte := if bit < 64 then BitVec.ofNat 8 (hcol bit) else BitVec.ofNat 8 (2 ^ (bit - 64))

/-- A word with one of its 72 bits inverted. -/
def Mem.flip (m : Mem) (wa bit : Nat) : Mem :=
  let syn := m.syndrome wa ^^^ flipSyn bit
  let m := if bit < 64 then m.setBytes (8 * wa) (wordBytes (m.raw wa ^^^ BitVec.ofNat 64 (2 ^ bit))) else m
  m.setSyn wa syn

/-! ### The module address space (R294 to R301) -/

/-- First byte after the fast tier, and the bounds of the slow tier. -/
def fastEnd : Nat := 0x00C000000000
def ownBase : Nat := 0x010000000000
def mirrorBase : Nat := 0x018000000000
def slowEnd : Nat := 0x020000000000
def firmwareBase : Nat := 0x00BF00000000
/-- Bytes of a core store. -/
def coreBytes : Nat := 0x600000
/-- Words of a core store. -/
def coreWords : Nat := 786432

/-- A run of bytes that lies in one tier of the map (R294). -/
def spanOk (a n : Nat) : Bool := (a + n ≤ fastEnd) || (ownBase ≤ a && a + n ≤ slowEnd)

/-- The place index of a module address: its stack or its package (R295, R296, R328). -/
def placeOf (a : Nat) : Nat := if a < fastEnd then a / 4096 % 16 else 16 + (a - ownBase) / 65536 % 8

/-- The byte of a fast-tier address within its stack (R295). -/
def stackByte (a : Nat) : Nat := a / 65536 * 4096 + a % 4096

/-- The byte of a slow-tier address within its package (R296). -/
def packageByte (a : Nat) : Nat := (a - ownBase) / 524288 * 65536 + (a - ownBase) % 65536

/-- The caddy that serves a slow-tier address (R296). -/
def caddyOf (a : Nat) : Nat := (a - ownBase) / 65536 % 8 / 2

/-- The row of a place that holds an address, for the repair list (R322): its 4 KiB of a stack or 64 KiB of a
package. DESIGN CHOICE: the spec gives the rows no size. -/
def rowOf (a : Nat) : Nat := if a < fastEnd then stackByte a / 4096 else packageByte a / 65536

/-- A fast-tier span lies in the context's window (R300, R304). -/
def Ctx.fastSpan (c : Ctx) (a n : Nat) : Bool :=
  decide (c.fastBase * 0x200000 ≤ a) && decide (a + n ≤ (c.fastBase + c.fastPages) * 0x200000)

/-- A slow-tier span lies in the context's own-half window (R300, R304). -/
def Ctx.slowSpan (c : Ctx) (a n : Nat) : Bool :=
  decide (ownBase + c.slowBase * 0x40000000 ≤ a) && decide (a + n ≤ ownBase + (c.slowBase + c.slowGib) * 0x40000000)

/-! ### Packets and cells (R331 to R364) -/

/-- Cells of a packet of w payload words (R336). -/
def cellsFor (w : Nat) : Nat := cdiv (w + 1) 32

/-- Cells of a committed packet, and of an open one; an OPEN that still waits holds none (R332, R337, R344). -/
def Packet.cells (p : Packet) : Nat := p.chain.length
def OpenPacket.cells (p : OpenPacket) : Nat := p.chain.length

def sumCells (ps : List Packet) : Nat := ps.foldl (fun n p => n + p.cells) 0

/-- Packets that the cursor has passed and that are not released (R349). -/
def Queue.heldPackets (q : Queue) : List Packet := q.packets.take (q.cursor - q.base)
/-- The cursor's packet and the packets after it (R349). -/
def Queue.queuedPackets (q : Queue) : List Packet := q.packets.drop (q.cursor - q.base)
def Queue.heldCells (q : Queue) : Nat := sumCells q.heldPackets
def Queue.queuedCells (q : Queue) : Nat := sumCells q.queuedPackets
def Queue.openCells (q : Queue) : Nat := q.ports.foldl (fun n p => n + p.2.cells) 0
/-- The cells a queue holds (R342). -/
def Queue.cells (q : Queue) : Nat := q.openCells + sumCells q.packets

/-- Sums over a pool's queues (R360). -/
def Pool.sum (p : Pool) (f : Queue → Nat) : Nat := p.queues.foldl (fun n e => n + f e.2) 0

/-- The four counters of a pool (R360, R361). -/
def Pool.snapshot (p : Pool) : CellSnap :=
  { free := p.free, queued := p.sum Queue.queuedCells, opened := p.sum Queue.openCells, held := p.sum Queue.heldCells }

/-- The unmet guarantees of the other enabled queues (R343). -/
def Pool.owed (p : Pool) (q : Nat) : Nat :=
  p.queues.foldl (fun n e => if e.1 ≠ q && e.2.enabled then n + (e.2.guarantee - e.2.cells) else n) 0

/-- A producer of queue q may take n cells now, the last of them under R343. -/
def Pool.mayTake (p : Pool) (q n : Nat) : Bool :=
  let h := (p.queue q).cells
  n = 0 || (n ≤ p.free &&
    (h + n ≤ (p.queue q).guarantee || (h + n ≤ (p.queue q).quota && p.owed q < p.free + 1 - n)))

/-- The cells of a pool's chains: those that are not free (R332, R360). -/
def Queue.chains (q : Queue) : List Nat := q.packets.flatMap (·.chain) ++ q.ports.flatMap fun e => e.2.chain
def Pool.inUse (p : Pool) : List Nat := p.queues.flatMap fun e => e.2.chains

/-- The n-th cell, from 0, that a list does not hold. -/
def nthFree : Nat → List Nat → Nat → Nat → Nat
  | 0, _, _, i => i
  | fuel + 1, used, n, i =>
    let j := n + used.countP (· ≤ i)
    if j = i then i else nthFree fuel used n j

/-- n free cells for a producer, whose link entries are written (R331, R337). Which they are is open (Config.cellPick). -/
def Pool.pick (p : Pool) (pool n : Nat) : List Nat :=
  (List.range n).foldl (fun l i =>
    let used := p.inUse ++ l
    l ++ [nthFree (used.length + 1) used (Config.cellPick pool (p.given + i) % max 1 (262144 - used.length)) 0]) []

/-- A producer takes the cells of a list, keeping LOW_WATER (R366, R367). -/
def Pool.take (p : Pool) (cs : List Nat) : Pool :=
  let n := p.free - cs.length
  { p with free := n, lowWater := min p.lowWater n, given := p.given + cs.length, links := p.links.filter fun e => !(cs.contains e.1) }

/-- The length slot of a packet (R335). -/
def lengthSlot (seq : Nat) (ctx : Option Nat) (ty words : Nat) : W64 :=
  mkWord [(32, 32, seq), (27, 1, b2n ctx.isSome), (24, 3, ctx.getD 0), (16, 8, ty), (0, 16, words)]

/-- The notice word of a packet (R346). -/
def noticeWord (pool qid seq words : Nat) : W64 :=
  mkWord [(32, 32, seq), (16, 16, words), (9, 1, pool), (0, 9, qid)]

/-- Links a packet at a queue's tail: SEQ is SEQ_NEXT, which rises modulo 2^32 (R338, R339). The cells are the
caller's. -/
def Queue.link (q : Queue) (ctx : Option Nat) (ty : Nat) (ws : List W64) (chain : List Nat) : Queue :=
  { q with packets := q.packets ++ [{ seq := q.seqNext, ctx := ctx, ty := ty, words := ws, chain := chain }],
           seqNext := (q.seqNext + 1) % 2 ^ 32, notices := satN 32 (q.notices + 1) }

/-- The function whose table holds a vector (R780). -/
def vectorFn (v : Nat) : Nat := if v < 1024 then 0 else (v - 1024) / 128 + 1

/-- Virtual function k is present and enabled (R773). -/
def HostIf.fnOn (h : HostIf) (fn : Nat) : Bool := fn = 0 || (h.vfEnable && fn ≤ h.numVfs)

/-- A vector is masked, by its own mask bit or its function's (R347). -/
def HostIf.holdsBack (h : HostIf) (v : Nat) : Bool := !(h.unmasked.contains v) || h.fnMasked.contains (vectorFn v)

/-- The data word of a vector's entry, with its mask bit in vector control (R774). -/
def HostIf.msixWord (h : HostIf) (v : Nat) : W64 :=
  h.msixTable.get 0#64 (2 * v + 1) ||| BitVec.ofNat 64 (if h.unmasked.contains v then 0 else 2 ^ 32)

/-- An MSI-X message of a vector goes out, waits while the vector is masked (R347), or is dropped and counted when
its function is absent, disabled or has MSI-X Enable 0 (R782). -/
def State.msix (s : State) (v : Nat) : State :=
  let h := s.host
  if !(h.fnOn (vectorFn v)) || !(h.msixEnabled.contains (vectorFn v)) then
    { s with host := { h with msiDropped := satN 16 (h.msiDropped + 1) } }
  else if h.holdsBack v then
    (if h.msixPending.contains v then s else { s with host := { h with msixPending := h.msixPending ++ [v] } })
  else s.emit (.msix v)

/-- The one notice of a commit (R346). -/
def State.notify (s : State) (sink : Sink) (w : W64) : State :=
  match sink with
  | .none => s
  | .kettle => s.emit (.notice none w)
  | .engine n => s.emit (.notice (some n) w)
  | .msix v => s.msix v

/-- The kettle or an engine puts a whole packet (R843): every cell is taken at once, and the packet is committed
with its notice, or the put is refused. -/
def State.put (s : State) (pool qid : Nat) (ctx : Option Nat) (ty : Nat) (ws : List W64) : Option State :=
  let p := s.pool pool
  let q := p.queue qid
  let n := cellsFor ws.length
  let cs := p.pick pool n
  if q.enabled && q.fence.isNone && p.mayTake qid n && 0 < ws.length then
    some ((s.setPool pool ((p.take cs).setQueue qid (q.link ctx ty ws cs))).notify q.sink
      (noticeWord pool qid q.seqNext ws.length))
  else none

/-- A queue that drains becomes fenced when it has no open packet (R356). -/
def Queue.settle (q : Queue) : Queue :=
  if q.fence == some .drain && q.ports.isEmpty then { q with fenced := true } else q

/-- Empties a queue (R358): open packets are rewound, every cell is freed, marks go, SEQ_NEXT stays. An error-mode fence ends
with the reset; while the pool is fenced for a sweep, a drain-mode fence takes its place (R362). -/
def Pool.resetQueue (p : Pool) (qid : Nat) : Pool :=
  let q := p.queue qid
  let fence := if q.fence == some .err then (if p.fencedAudit then some .drain else none) else q.fence
  let q' : Queue := { q with
    packets := []
    ports := []
    marks := []
    offset := 0
    base := q.base + q.packets.length
    cursor := q.base + q.packets.length
    fence := fence
    fenced := fence.isSome
    badPackets := satN 16 (q.badPackets + q.ports.length) }
  let p' := p.setQueue qid q'
  { p' with free := p.free + q.cells }

/-- A queue reset; each open packet's rewind is reported to its producer, cause FENCE (R341, R358). -/
def State.resetQueue (s : State) (pool qid : Nat) : State :=
  let q := s.queue pool qid
  let s' := s.setPool pool ((s.pool pool).resetQueue qid)
  { s' with out := s'.out ++ q.ports.map fun e => .rewound pool qid e.1 q.producer .fence }

/-- Drops the n oldest packets of a queue and frees their cells; marks in them are cleared (R348, R351). -/
def Pool.release (p : Pool) (qid n : Nat) : Pool :=
  let q := p.queue qid
  let freed := sumCells (q.packets.take n)
  let q' : Queue := { q with
    packets := q.packets.drop n
    base := q.base + min n q.packets.length
    marks := q.marks.filter fun e => decide (q.base + n ≤ e.2.1) }
  let p' := p.setQueue qid q'
  { p' with free := p.free + freed }

/-- Unlinks the packet with SEQ s wherever it stands (R348): later positions move down by one, marks in it go, and
a cursor in it moves to the next packet. -/
def Pool.purge (p : Pool) (qid seq : Nat) : Pool :=
  let q := p.queue qid
  match q.packets.findIdx? fun k => k.seq == seq with
  | none => p
  | some i =>
    let pos := q.base + i
    let freed := sumCells ((q.packets.drop i).take 1)
    let q' : Queue := { q with
      packets := q.packets.take i ++ q.packets.drop (i + 1)
      cursor := if pos < q.cursor then q.cursor - 1 else q.cursor
      offset := if pos = q.cursor then 0 else q.offset
      marks := (q.marks.filter fun e => decide (e.2.1 ≠ pos)).map fun e =>
        (e.1, (if pos < e.2.1 then e.2.1 - 1 else e.2.1), e.2.2) }
    let p' := p.setQueue qid q'
    { p' with free := p.free + freed }

/-- A packet whose consumer has done with it; the packets at the queue's head that are done are released, whose cells count in
the answer (R350). -/
def Pool.consume (p : Pool) (qid seq : Nat) : Pool × Nat :=
  let q := p.queue qid
  let ps := q.packets.map fun k => if k.seq = seq then { k with done := true } else k
  let n := (ps.takeWhile fun k => k.done).length
  let p := p.setQueue qid { q with packets := ps, cursor := max q.cursor (q.base + n), offset := if q.cursor < q.base + n then 0 else q.offset }
  (p.release qid n, sumCells (ps.take n))

/-- Takes the oldest packet of a queue, for a consumer that reads it whole and releases it. -/
def State.takeOldest (s : State) (pool qid : Nat) : State :=
  match (s.queue pool qid).packets with
  | [] => s
  | k :: _ => s.setPool pool ((s.pool pool).consume qid k.seq).1

/-! ### Words of the tiers as they are stored (R312, R329) -/

/-- The two bits that the armed injection inverts. -/
def MemUnit.invert (m : MemUnit) (mem : Mem) (wa : Nat) : Mem :=
  let mem := mem.flip wa m.injBitA
  if m.injDouble then mem.flip wa m.injBitB else mem

/-- Stores words into a tier with fresh check bits. An armed injection changes the first of them that lies at its
place, and is then made (R329). -/
def State.storeTier (s : State) (wa : Nat) (ws : List W64) : State :=
  let m := s.mem
  let sp := m.space.storeWords wa ws
  let inj := m.injected.filter fun e => 64 ≤ e.1 || !(wa ≤ e.2 && e.2 < wa + ws.length)
  let hit := if m.injArm then (List.range ws.length).find? fun i => placeOf (8 * (wa + i)) == m.injPlace else none
  match hit with
  | some i => { s with mem := { m with space := m.invert sp (wa + i), injArm := false, injected := inj ++ [(m.injPlace, wa + i)] } }
  | none => { s with mem := { m with space := sp, injected := inj } }

end Sys2Proof.Machine
end

