-- ==== Sys2Proof/Machine/Records.lean ====
section
/-! DEFINITION. Machine/Records.lean: unit paths (R27 to R31), error records (R660 to R677), events (R404 to R406,
R843) and completions (R375, R380). -/
namespace Sys2Proof.Machine

/-! ### Unit paths -/

/-- The hops of a unit, relative to the module (R27, R31). -/
def hopsOf : UnitId → List Nat
  | .module => []
  | .iod n => [0x7000 + n]
  | .die n => [0x3000 + n]
  | .region n => [0x3000 + n / 4, 0x4000 + n % 4]
  | .cluster n => [0x3000 + n / 16, 0x4000 + n / 4 % 4, 0x5000 + n % 4]
  | .core n => [0x3000 + n / 64, 0x4000 + n / 16 % 4, 0x5000 + n / 4 % 4, 0x6000 + n % 4]
  | .caddy n => [0x7010 + n]
  | .link n => [0x7100 + n]
  | .ctx n => [0x9000 + n]

/-- The words of a path of hops (R28): the count in [3:0] of word 0, hops 0 to 2 above it, then four a word. -/
def pathWords (hops : List Nat) : List W64 :=
  let w0 := mkWord [(0, 4, hops.length), (16, 16, hops.getD 0 0), (32, 16, hops.getD 1 0), (48, 16, hops.getD 2 0)]
  let more := (List.range (cdiv (hops.length + 1) 4 - 1)).map fun i =>
    mkWord [(0, 16, hops.getD (4 * i + 3) 0), (16, 16, hops.getD (4 * i + 4) 0),
            (32, 16, hops.getD (4 * i + 5) 0), (48, 16, hops.getD (4 * i + 6) 0)]
  w0 :: more

/-- Words that a path of n hops occupies (R28). -/
def pathWordCount (n : Nat) : Nat := cdiv (n + 1) 4

/-- Hop slot i of a path's words. -/
def hopAt (ws : List W64) (i : Nat) : Nat :=
  let j := i + 1
  fld (ws.getD (j / 4) 0#64) (16 * (j % 4) + 15) (16 * (j % 4))

/-- The hops that path words hold. -/
def pathHops (ws : List W64) : List Nat :=
  (List.range (fld (ws.getD 0 0#64) 3 0)).map (hopAt ws)

/-- The units that contain a unit, from the unit itself up to the module (R19, R20). -/
def upward : UnitId → List UnitId
  | .module => [.module]
  | .iod n => [.iod n, .module]
  | .die n => [.die n, .module]
  | .region n => [.region n, .die (n / 4), .module]
  | .cluster n => [.cluster n, .region (n / 4), .die (n / 16), .module]
  | .core n => [.core n, .cluster (n / 4), .region (n / 16), .die (n / 64), .module]
  | .caddy n => [.caddy n, .module]
  | .link n => [.link n, .module]
  | .ctx n => [.ctx n]

/-- Unit `u` is, or contains, unit `v` (R20). -/
def covers (u v : UnitId) : Bool := (upward v).contains u

/-! ### Samples in a record (R664) -/

def State.region (s : State) (g : Nat) : Region := s.power.regions.get {} g
def State.marginG (s : State) (g : Nat) : Margin := s.faults.marginG.get {} g

/-- The hottest region of a die, the lowest numbered of equals. -/
def State.hottest (s : State) (d : Nat) : Nat :=
  (List.range 4).foldl (fun b i => if (s.marginG b).temp < (s.marginG (4 * d + i)).temp then 4 * d + i else b) (4 * d)

/-- TEMP, VOLT and CLOCK of a record about a unit (R664). -/
def State.sampleOf (s : State) (u : UnitId) : Int × Nat × Nat :=
  let ofRegion (g : Nat) : Int × Nat × Nat := ((s.marginG g).temp, (s.marginG g).volt, (s.region g).eff)
  let other (i clk : Nat) : Int × Nat × Nat :=
    let v := s.faults.samples.get (0, 0) i
    (v.1, v.2, clk)
  match u with
  | .core n => ofRegion (n / 16)
  | .cluster n => ofRegion (n / 4)
  | .region n => ofRegion n
  | .die n => ofRegion (s.hottest n)
  | .caddy n => other (2 + n) 96
  | .iod n => other n 0
  | .link n => other (if n < 24 then 0 else 1) 0
  | .module => other 0 0
  | .ctx _ => other 0 0

/-! ### Record codes (R666, R737, R766, R794, R833) -/

namespace Rec
def regAccess : Nat := 0x0100
def fenceEscalated : Nat := 0x0101
def steepMismatch : Nat := 0x0102
def steepBehind : Nat := 0x0103
def timeHoldover : Nat := 0x0104
def timeLost : Nat := 0x0105
def deadlineSlice : Nat := 0x0106
def deadlineXfer : Nat := 0x0107
def deadlinePour : Nat := 0x0108
def deadlineCaddy : Nat := 0x0109
def deadlineAudit : Nat := 0x010A
def deadlineBoundary : Nat := 0x010B
def auditMismatch : Nat := 0x010C
def scaleLimit : Nat := 0x0200
def strainerMismatch : Nat := 0x0201
def strainerInjected : Nat := 0x0202
def accOverflow : Nat := 0x0203
def vectorEncoding : Nat := 0x0204
def vectorCost : Nat := 0x0205
def vectorSpan : Nat := 0x0206
def memCe : Nat := 0x0300
def memUe : Nat := 0x0301
def committedUe : Nat := 0x0302
def mirrorUe : Nat := 0x0303
def repairFull : Nat := 0x0304
def memTrainFail : Nat := 0x0305
def eccInjected : Nat := 0x0306
def queueRewind : Nat := 0x0400
def queueNoCell : Nat := 0x0401
def queueLinkUe : Nat := 0x0402
def queueCrosslink : Nat := 0x0403
def mailboxDoorbell : Nat := 0x0404
def eventLost : Nat := 0x0405
def updNonfinite : Nat := 0x0500
def stepSkew : Nat := 0x0501
def gradStale : Nat := 0x0502
def rootStale : Nat := 0x0503
def creditStall : Nat := 0x0600
def linkDown : Nat := 0x0601
def linkDrop : Nat := 0x0602
def linkFailed : Nat := 0x0603
def dnClash : Nat := 0x0604
def fabricBadPacket : Nat := 0x0605
def routeMiss : Nat := 0x0606
def routeLoop : Nat := 0x0607
def routeStale : Nat := 0x0608
def collTimeout : Nat := 0x0609
def groupMismatch : Nat := 0x060A
def farSiteMismatch : Nat := 0x0700
def farAuth : Nat := 0x0701
def farKeyAge : Nat := 0x0702
def farRttLimit : Nat := 0x0703
def farRestart : Nat := 0x0704
def outerTooLate : Nat := 0x0705
def watchdog : Nat := 0x0900
def kettleWatchdog : Nat := 0x0901
def resetTimeout : Nat := 0x0902
def outOfService : Nat := 0x0903
def blendFail : Nat := 0x0904
def marginLow : Nat := 0x0905
def marginCritical : Nat := 0x0906
def recordsLost : Nat := 0x0907
def shardTimeout : Nat := 0x0A00
def modelMixed : Nat := 0x0A01
def kvGrowRefused : Nat := 0x0A02
def identityFail : Nat := 0x0B00
def configDefault : Nat := 0x0B01
def bootBankFallback : Nat := 0x0B02
def keyTableFull : Nat := 0x0B03
def hostDmaFault : Nat := 0x0C00
def hostLinkDown : Nat := 0x0C01
def ppsLost : Nat := 0x0C02
def inputHigh : Nat := 0x0D00
def inputLow : Nat := 0x0D01
def powerCap : Nat := 0x0D02
def powerPeak : Nat := 0x0D03
def regionThrottle : Nat := 0x0D04
def thermalWarn : Nat := 0x0D05
def thermalCritical : Nat := 0x0D06
def thermalTrip : Nat := 0x0D07
def coolantHot : Nat := 0x0D08
end Rec

/-- What a rule gives the record it raises. -/
structure RecSpec where
  code : Nat
  cls : Cls
  unit : UnitId := .module
  ctx : Option Nat := none
  faJob : Bool := false
  injected : Bool := false
  opcode : Nat := 0
  opRef : Nat := 0
  a : W64 := 0#64
  b : W64 := 0#64
  /-- the rule sets its own limit, which replaces R669 -/
  ownLimit : Bool := false
  rpt : Bool := false
  merged : Nat := 0
  steep : Option Nat := none
deriving DecidableEq, Repr

/-- The class code (R660). -/
def Cls.code : Cls → Nat
  | .ce => 0
  | .uc => 1
  | .fa => 2

/-- A fence or a reset of the unit, of a unit above it, or of the context in error mode is in progress (R670). -/
def State.handling (s : State) (u : UnitId) (ctx : Option Nat) : Bool :=
  (upward u).any (fun v => ((s.unit v).fence.isSome && !(s.unit v).complete) || s.faults.rungs.any fun r => r.unit == v) ||
  (match ctx with
    | some x => (s.ctx x).state == .fenced && (s.ctx x).terminating
    | none => false)

/-- The payload words of a record (R663). -/
def State.recWords (s : State) (r : RecSpec) : List W64 :=
  let path := pathWords (hopsOf r.unit)
  let smp := s.sampleOf r.unit
  [ mkWord [(0, 16, r.code), (16, 2, r.cls.code), (18, 1, b2n r.faJob), (19, 1, b2n r.ctx.isSome), (20, 3, r.ctx.getD 0),
      (23, 3, path.length), (26, 1, b2n (s.handling r.unit r.ctx)), (27, 1, b2n r.rpt), (28, 1, b2n r.injected),
      (32, 8, r.opcode), (48, 16, satN 16 r.merged)],
    BitVec.ofNat 64 (r.steep.getD s.now),
    mkWord [(0, 20, s.steep.phase), (32, 32, r.opRef)],
    mkWord [(0, 16, sbits 16 smp.1), (16, 16, smp.2.1), (32, 12, smp.2.2)],
    r.a, r.b ] ++ path

/-- The reference-clock time in seconds, of which 10^8 ticks of 10 ns make one. -/
def State.seconds (s : State) : Nat := s.steep.ticks / 100000000

/-- AGE_HOURS (R704): hours since the last blend counted as run. -/
def Blend.ageHours (b : Blend) (seconds : Nat) : Nat :=
  match b.ranAt with
  | some t => min 255 ((seconds - t) / 3600)
  | none => 255

/-- Makes room in the record queue, one record at a time: cleared UC records, then CE records, oldest first; for an
FA then open UC records, which count in LOST (R676). `fuel` bounds the records released. -/
def roomLoop : Nat → Bool → Nat → State → State
  | 0, _, _, s => s
  | fuel + 1, fa, need, s =>
    let p := s.pool 0
    if p.mayTake 0x180 need then s
    else
      let recs := s.faults.records
      let cleared := recs.find? fun r => r.cls == .uc && r.clearedAt.isSome
      let ce := recs.find? fun r => r.cls == .ce
      let open_ := if fa then recs.find? fun r => r.cls == .uc else none
      match cleared.or (ce.or open_) with
      | none => s
      | some v =>
        let lost := if v.cls == .uc && v.clearedAt.isNone then 1 else 0
        let s := s.setPool 0 (p.purge 0x180 v.seq)
        roomLoop fuel fa need { s with faults := { s.faults with
          records := recs.filter (fun r => r.seq ≠ v.seq),
          lost := satN 16 (s.faults.lost + lost), lostPending := s.faults.lostPending + lost } }

/-- The crash log: the FA record if there is one, then the 32 records raised before it, newest first (R693). -/
def crashEntries (fa : Option CrashEntry) (before : List CrashEntry) : List (Option CrashEntry) := fa :: before.map some

/-- Writes a record, without its event: counts, room, the queue, ERR_LAST_FA, the crash log and the platform event of an
FA (R663, R673, R676, R790). -/
def State.writeRecord (s : State) (r : RecSpec) : State × Option Nat :=
  let ws := s.recWords r
  let f := s.faults
  let hops := hopsOf r.unit
  let f := match r.cls with
    | .ce => { f with ceCount := satN 32 (f.ceCount + 1), ceLog := f.ceLog ++ [(s.now, s.seconds, hops)] }
    | .uc => { f with ucCount := satN 16 (f.ucCount + 1) }
    | .fa => { f with faCount := satN 16 (f.faCount + 1), lastFa := ws.getD 0 0#64, lastFaSteep := ws.getD 1 0#64 }
  let s := { s with faults := f, host := { s.host with
    alertUc := s.host.alertUc || r.cls == .uc, alertFa := s.host.alertFa || r.cls == .fa } }
  let before := s.faults.recent
  let s := roomLoop 17000 (r.cls == .fa) (cellsFor ws.length) s
  let q := s.queue 0 0x180
  let sink := q.sink
  let s : State × Option Nat := match s.put 0 0x180 r.ctx 0x20 ws with
    | none => ({ s with faults := { s.faults with
        lost := satN 16 (s.faults.lost + 1), lostPending := s.faults.lostPending + 1 } }, none)
    | some s' =>
      let m : RecMeta := {
        seq := q.seqNext, code := r.code, cls := r.cls, ctx := r.ctx, path := hops,
        steep := r.steep.getD s.now, words := ws }
      let s' := { s' with faults := { s'.faults with records := s'.faults.records ++ [m] } }
      let s' := if s'.faults.vectorEn && sink == .kettle && s'.faults.minClass ≤ r.cls.code
        then s'.msix s'.faults.vector else s'
      (s', some q.seqNext)
  let entry : CrashEntry := { slot := lengthSlot (s.2.getD 0) r.ctx 0x20 ws.length, words := ws }
  let s := ({ s.1 with faults := { s.1.faults with recent := (entry :: before).take 32 } }, s.2)
  if r.cls == .fa then
    let s := (if s.1.host.pldmEvents then s.1.emit (.mctp 0x01 [0xFA#64, ws.getD 0 0#64]) else s.1, s.2)
    let log := crashEntries (some entry) before
    ({ s.1 with faults := { s.1.faults with
        crashLog := log,
        faDue := s.1.faults.faDue || (!r.faJob && r.code ≠ Rec.outOfService && r.code ≠ Rec.memTrainFail) } }, s.2)
  else s

/-! ### Events (R404 to R406, R843) -/

/-- The four words of an event (R404). -/
def State.eventWords (s : State) (e : Event) : List W64 :=
  [mkWord [(0, 16, e.kind), (32, 16, e.status), (48, 16, e.slice)], BitVec.ofNat 64 s.now,
   mkWord [(0, 32, e.stream), (32, 32, e.value)], e.detail]

/-- Writes an event of a context, or holds it behind those already held; beyond 4,096 it is discarded and counted for the
steep's EVENT_LOST (R843). -/
def State.event (s : State) (x : Nat) (e : Event) : State :=
  let c := s.ctx x
  let tryPut := if c.held.isEmpty then s.put 0 (0x181 + x) (some x) Config.eventType.toNat (s.eventWords e) else none
  match tryPut with
  | some s' => s'
  | none =>
    if c.held.length < 4096 then s.setCtx x { c with held := c.held ++ [e] }
    else
      s.setCtx x { c with eventsLost := c.eventsLost + 1 }

/-- The closed steep's discarded events: one CE record EVENT_LOST for each context, with their number (R843, R844). -/
def State.tellLost (s : State) : State :=
  forN 8 (fun x s =>
    let n := (s.ctx x).eventsLost
    if n = 0 then s
    else ((s.updCtx x fun c => { c with eventsLost := 0 }).writeRecord {
      code := Rec.eventLost, cls := .ce, ctx := some x, a := BitVec.ofNat 64 n, ownLimit := true }).1) s

/-- A record enters: a duplicate of one raised in the same steep is only counted (R669); a new one is written and
announced to the context it names (R668). -/
def State.enter (s : State) (r : RecSpec) : State :=
  let path := hopsOf r.unit
  let dup := s.faults.merges.any fun m => m.code == r.code && m.path == path && m.ctx == r.ctx
  if dup && !r.ownLimit then
    { s with faults := { s.faults with merges := s.faults.merges.map fun m =>
        if m.code == r.code && m.path == path && m.ctx == r.ctx then
          { m with count := m.count + 1, detailA := r.a, detailB := r.b, opcode := r.opcode, opRef := r.opRef } else m } }
  else
    let w := s.writeRecord r
    let s := w.1
    let s := if r.ownLimit then s else
      { s with faults := { s.faults with merges := s.faults.merges ++
        [{ code := r.code, path := path, ctx := r.ctx, cls := r.cls, count := 0, detailA := r.a, detailB := r.b }] } }
    match r.ctx, w.2 with
    | some x, some seq =>
      if r.code = Rec.eventLost then s
      else s.event x { kind := 0x0400, detail := mkWord [(0, 32, seq), (32, 16, r.code), (48, 2, r.cls.code)] }
    | _, _ => s

/-- Counts an error at its place (R328). -/
def State.countEcc (s : State) (place : Nat) (syn : Byte) : State :=
  let e := s.mem.ecc.get {} place
  let ue := eccOf syn == .ue
  let e' : EccCount := {
    ce := if ue then e.ce else satN 32 (e.ce + 1)
    ue := if ue then satN 16 (e.ue + 1) else e.ue
    lastSyndrome := syn.toNat }
  { s with mem := { s.mem with ecc := s.mem.ecc.set place e' } }

/-- The bits that the armed injection inverts, where it waits for a word of this place (R329). -/
def MemUnit.injBits (m : MemUnit) (place : Nat) : List Nat :=
  if m.injArm && m.injPlace = place then m.injBitA :: (if m.injDouble then [m.injBitB] else []) else []

/-- Place 37 of R328: an armed injection strikes the next word written to the mailboxes or the error records, and is found
at that word's next check, here at once; the word is left as written. -/
def State.wroteKettle (s : State) : State :=
  let bits := s.mem.injBits 37
  if bits.isEmpty then s
  else
    let s := { s with mem := { s.mem with injArm := false } }
    let syn := bits.foldl (fun v b => v ^^^ flipSyn b) 0#8
    if syn = 0#8 then s
    else
      let s := s.countEcc 37 syn
      if s.faults.limited.find (Rec.eccInjected, 37) = some s.now then s
      else ({ s with faults := { s.faults with limited := s.faults.limited.set (Rec.eccInjected, 37) s.now } }).enter {
        code := Rec.eccInjected, cls := .ce, ownLimit := true, injected := true, a := mkWord [(48, 6, 37)]
        b := mkWord [(0, 8, syn.toNat), (9, 1, b2n (eccOf syn == Ecc.ue))] }

/-- Raises a record (R662 to R669). -/
def State.raise (s : State) (r : RecSpec) : State := (s.enter r).wroteKettle

/-- A CE record REG_ACCESS naming the offset of a register (R16, R666). -/
def State.regAccess (s : State) (off : Nat) : State :=
  s.raise { code := Rec.regAccess, cls := .ce, a := BitVec.ofNat 64 off }

/-- Ticks of the steeps from n up to m, the last of which has period q and earlier ones the periods that `past` holds. -/
def spanTicks : List (Nat × Nat) → Nat → Nat → Nat → Nat
  | [], n, m, q => (m - n) * 25000 * q
  | (k, p) :: past, n, m, q => (m - max n k) * 25000 * q + (if n < k then spanTicks past n k p else 0)

/-- Time since boundary n of the steep counter, in 10 ns ticks, each steep at the period it had (R43, R44, R65). -/
def State.lateBy (s : State) (n : Nat) : Nat := spanTicks s.steep.pastQ n s.now s.steep.currentQ + s.steep.phase

/-- The final overrun of work whose deadline was boundary n enters WORST_US (R65). -/
def State.worst (s : State) (n : Nat) : State :=
  { s with steep := { s.steep with worstUs := max s.steep.worstUs (satN 16 (s.lateBy n / 100)) } }

/-- A record under a limit of its own: raised only when none of its key has been raised since steep `since`. -/
def State.raiseLimited (s : State) (key : Nat × Nat) (steeps : Nat) (r : RecSpec) : State :=
  match s.faults.limited.find key with
  | some last => if s.now < last + steeps then s else
      ({ s with faults := { s.faults with limited := s.faults.limited.set key s.now } }).raise { r with ownLimit := true }
  | none => ({ s with faults := { s.faults with limited := s.faults.limited.set key s.now } }).raise { r with ownLimit := true }

/-! ### Completions (R370, R375, R380, R404) -/

/-- The words of a completion (R380). -/
def State.completionWords (s : State) (code tag status : Nat) (reply : List W64) : List W64 :=
  mkWord [(0, 16, code), (16, 16, tag), (32, 16, status), (48, 5, reply.length)] :: BitVec.ofNat 64 s.now :: reply

/-- Writes a completion into a mailbox's completion queue (R375); none while the queue takes no packet. -/
def State.putCompletion (s : State) (mb : Nat) (ws : List W64) : Option State :=
  (s.put 0 (0x101 + 2 * mb) (some (mb / 4)) Config.completionType.toNat ws).map fun s' =>
    s'.setMailbox mb { s'.mailbox mb with unread := (s'.mailbox mb).unread + 1 }

/-- The completion of a pending request is written, whose token passes from pending to unread; behind one that the queue has
not taken yet, or while it takes none, the request stays pending and its completion waits (R370, R373). -/
def State.settleRequest (s : State) (mb : Nat) (ws : List W64) : State :=
  let m := s.mailbox mb
  let wait := s.setMailbox mb { m with due := m.due ++ [ws] }
  if !m.due.isEmpty then wait
  else ((s.setMailbox mb { m with pending := m.pending - 1 }).putCompletion mb ws).getD wait

/-- Completes a pending request (R370). -/
def State.complete (s : State) (mb code tag status : Nat) (reply : List W64) : State :=
  s.settleRequest mb (s.completionWords code tag status reply)

/-- Writes a second completion that a free token allows, or holds it (R370, R404). One for a request of another module waits
for the kettle to send it there (R22). -/
def State.secondCompletion (s : State) (mb tag status : Nat) (ws : List W64) : State :=
  if 256 ≤ mb then { s with remoteEvents := s.remoteEvents ++ [(mb, tag, status, ws)] }
  else
  let m := s.mailbox mb
  let hold := s.setMailbox mb { m with heldEvents := m.heldEvents ++ [(tag, status, ws)] }
  if m.heldEvents.isEmpty && 0 < m.free then
    ((s.setMailbox mb { m with free := m.free - 1 }).putCompletion mb (s.completionWords 0xFFFF tag status ws)).getD hold
  else hold

/-- Writes held second completions while tokens are free and the queue takes them, in order (R370). -/
def heldLoop : Nat → Nat → State → State
  | 0, _, s => s
  | fuel + 1, mb, s =>
    let m := s.mailbox mb
    match m.heldEvents with
    | [] => s
    | (tag, status, ws) :: rest =>
      if m.free = 0 then s
      else match (s.setMailbox mb { m with free := m.free - 1, heldEvents := rest }).putCompletion mb (s.completionWords 0xFFFF tag status ws) with
        | some s' => heldLoop fuel mb s'
        | none => s

/-- Writes completions that the queue has not taken yet, in order. -/
def dueLoop : Nat → Nat → State → State
  | 0, _, s => s
  | fuel + 1, mb, s =>
    let m := s.mailbox mb
    match m.due with
    | [] => s
    | ws :: rest => match (s.setMailbox mb { m with due := rest, pending := m.pending - 1 }).putCompletion mb ws with
      | some s' => dueLoop fuel mb s'
      | none => s

/-- What a mailbox still has to write: MAILBOX_RESET completions of a reset, which ends with the last of them (R376),
completions that the queue had no room for, and second completions that wait for a token (R370). -/
def State.flushMailbox (s : State) (mb : Nat) : State :=
  let m := s.mailbox mb
  let s := forL m.resetTags (fun r s => s.complete mb r.1 r.2 0x0017 []) (s.setMailbox mb { m with resetTags := [] })
  let s := heldLoop 16 mb (dueLoop 16 mb s)
  let m := s.mailbox mb
  if m.resetting && m.due.isEmpty then s.setMailbox mb { m with resetting := false } else s

/-- An event of a command: to the context's event queue when it names one, else as a second completion to the
mailbox of the request (R404). -/
def State.cmdEvent (s : State) (by_ : CmdRef) (ctx : Option Nat) (e : Event) : State :=
  let e := { e with value := by_.tag % 65536 + by_.mb % 32 * 65536 }
  match ctx with
  | some x => s.event x e
  | none => s.secondCompletion by_.mb by_.tag e.status (s.eventWords e)

/-- COMMAND_DONE of a request (R405): its DETAIL is the command code. -/
def State.commandDone (s : State) (by_ : CmdRef) (ctx : Option Nat) : State :=
  s.cmdEvent by_ ctx { kind := 0x0004, detail := BitVec.ofNat 64 by_.code }

end Sys2Proof.Machine
end

