-- ==== Sys2Proof/Machine/Inject.lean ====
section
/-! DEFINITION. Machine/Inject.lean: frames and their check word, credits returned, routing, and the injection of a
packet by an engine of the module (R478 to R508). -/
namespace Sys2Proof.Machine

def State.link (s : State) (n : Nat) : Link := s.fabric.links.get {} n
def State.setLink (s : State) (n : Nat) (l : Link) : State :=
  { s with fabric := { s.fabric with links := s.fabric.links.set n l } }
def State.updLink (s : State) (n : Nat) (f : Link → Link) : State := s.setLink n (f (s.link n))
def Link.credit (l : Link) (vc : Nat) : Credit := l.credits.get {} vc
def Link.updCredit (l : Link) (vc : Nat) (f : Credit → Credit) : Link := { l with credits := l.credits.set vc (f (l.credit vc)) }

/-- The unit, or one that contains it, holds a fence (R20, R34). -/
def State.fencedUnit (s : State) (u : UnitId) : Bool := (upward u).any fun v => (s.unit v).fence.isSome

/-- An I/O die is fenced: the collective, infuser and mirror engines take no new operation (R34). The model takes each of their
operations for work of both dies (log 74). -/
def State.enginesFenced (s : State) : Bool := s.fencedUnit (.iod 0) || s.fencedUnit (.iod 1)

/-! ### Frames (R478, R479) -/

/-- Generator of R478 with its bits reversed, for bytes taken from bit 0. -/
def crcPoly : Nat := 0xC96C5795D7870F42

def crcBits : Nat → Nat → Nat
  | 0, c => c
  | n + 1, c => crcBits n (if c % 2 = 1 then Nat.xor (c / 2) crcPoly else c / 2)

/-- The 64-bit CRC of R478 over bytes. -/
def crc64 (bs : List Byte) : W64 :=
  BitVec.ofNat 64 (Nat.xor (bs.foldl (fun c b => crcBits 8 (Nat.xor c b.toNat)) (2 ^ 64 - 1)) (2 ^ 64 - 1))

/-- Pads a payload to 32 words. -/
def pad32 (ws : List W64) : List W64 := ws ++ List.replicate (32 - ws.length) 0#64

/-- The check word of a header and payload. -/
def frameCheck (h0 h1 : W64) (payload : List W64) : W64 := crc64 ((h0 :: h1 :: payload).flatMap wordBytes)

/-- A whole frame. -/
def frameOf (h0 h1 : W64) (ws : List W64) : List W64 :=
  let p := pad32 ws
  (h0 :: h1 :: p) ++ [frameCheck h0 h1 p]

/-- ACK as the module's frames carry it: the last data frame received in order (R478). -/
def Link.ack (l : Link) : Nat := (l.rxNext + 65535) % 65536

/-- Sends a control frame (R479) with ACK, NAK and one credit return. -/
def State.control (s : State) (link kind : Nat) (nak : Bool) (vc count : Nat) (ws : List W64) : State :=
  s.emit (.frame link (frameOf (mkWord [(16, 16, (s.link link).ack), (32, 1, b2n nak), (33, 1, 1), (40, 3, vc), (43, 12, count)])
    (mkWord [(8, 8, kind)]) ws))

/-- Credit returns leave at once in IDLE frames, at most 4,095 in each (R483). -/
def returnLoop : Nat → Nat → Nat → Nat → State → State
  | 0, _, _, _, s => s
  | fuel + 1, link, vc, n, s => if n = 0 then s else returnLoop fuel link vc (n - min n 4095) (s.control link 0x01 false vc (min n 4095) [])

/-- The receiver frees n cells of a link receive queue (R483). -/
def State.freedCells (s : State) (link vc n : Nat) : State :=
  if n = 0 || (s.link link).state != LinkState.trained then s
  else returnLoop (n / 4095 + 1) link vc n (s.updLink link fun l => l.updCredit vc fun c => { c with granted := c.granted + n })

/-- Cells freed in a queue; only link receive queues return credits, and a fenced one returns none until its fence has gone
(R333, R359, R483). -/
def State.freedIn (s : State) (pool qid n : Nat) : State :=
  if 0xC0 ≤ qid then s
  else if (s.queue pool qid).fenced then s.updQueue pool qid fun q => { q with withheld := q.withheld + n }
  else s.freedCells (24 * pool + qid / 8) (qid % 8) n

/-- The credits withheld while a queue was fenced are returned (R359). -/
def State.payWithheld (s : State) (pool qid : Nat) : State :=
  let q := s.queue pool qid
  if q.fenced || q.withheld = 0 then s
  else (s.updQueue pool qid fun q => { q with withheld := 0 }).freedIn pool qid q.withheld

/-- The consumer of a queue has done with a packet: the packets at the head that are done are released, and their credits
return (R350, R483). -/
def State.consume (s : State) (pool qid seq : Nat) : State :=
  let r := (s.pool pool).consume qid seq
  (s.setPool pool r.1).freedIn pool qid r.2

/-- Pool and QID of a link's receive queue (R333). -/
def linkQueue (link vc : Nat) : Nat × Nat := (link / 24, 8 * (link % 24) + vc)

/-! ### Packets (R498 to R500) -/

/-- Words of a packet's header: the route word and the destination path. -/
def headWords (ws : List W64) : Nat := 1 + fld (ws.getD 0 0#64) 7 5
def packetKind (ws : List W64) : Nat := fld (ws.getD 0 0#64) 15 8
def packetBody (ws : List W64) : List W64 := ws.drop (headWords ws)
def packetPath (ws : List W64) : List Nat := pathHops ((ws.drop 1).take (fld (ws.getD 0 0#64) 7 5))

/-- KIND and channel agree, and the packet holds the path it announces (R498, R500). -/
def packetOk (ws : List W64) (vc : Nat) : Bool :=
  let k := packetKind ws
  let n := fld (ws.getD 0 0#64) 7 5
  1 ≤ n && n ≤ 4 && headWords ws ≤ ws.length &&
    ((k = 1 && (vc = 1 || vc = 2)) || (k = 2 && vc = 3) || (k = 3 && vc = 4) || ((k = 4 || k = 5) && vc = 5) ||
     (k = 6 && vc = 0) || (k = 7 && vc = 7) || (k = 8 && vc = 6))

/-- The epoch nearest the module's counter with these low bits (R596). -/
def State.nearEpoch (s : State) (low : Nat) : Nat :=
  let d := (low + 65536 - s.now % 65536) % 65536
  if d < 32768 then s.now + d else s.now - (65536 - d)

/-- A message that carries these low bits of its steep is stamped for the steep after this module's (R55). -/
def State.isEarly (s : State) (low : Nat) : Bool := s.nearEpoch low == s.now + 1

/-- A message stamped for the next steep is held until its boundary (R55). -/
def State.holdEarly (s : State) (m : EarlyMsg) : State := { s with early := s.early ++ [(s.now + 1, m)] }

/-! ### Routing (R501 to R507) -/

/-- Where a packet goes. -/
inductive Route where
  | deliver
  | ports (ports : List Nat) (far : Bool)
  | loop
  | miss
  | stale
deriving DecidableEq, Repr

def State.routeSet (s : State) (n : Nat) : RouteSet := s.fabric.routes.get {} n
def RouteSet.gen (r : RouteSet) (g : Nat) : RouteGen := r.gens.get {} g

/-- The set's commit is pending. -/
def State.routePending (s : State) (n : Nat) : Bool := match s.fabric.commit with
  | some c => Nat.testBit c.1 n
  | none => false

/-- Ports of an entry, up to the first 0x3F (R502). -/
def entryPorts (e : Nat) : List Nat :=
  ((List.range 4).map fun i => e / 2 ^ (6 * i) % 64).takeWhile fun p => p ≠ 0x3F

/-- Depth and index of R501, or none when the packet is at its destination. -/
def Fabric.depthOf (f : Fabric) (hops : List Nat) : Option (Nat × Nat) :=
  let dom := match hops with
    | a :: _ => if a / 4096 = 8 then some (a % 4096) else none
    | [] => none
  match dom with
  | some d => if d ≠ f.site then some (9, d) else go f (hops.drop 1)
  | none => go f hops
where
  go (f : Fabric) (hops : List Nat) : Option (Nat × Nat) :=
    let p := hops.takeWhile fun h => h / 4096 = 1 || h / 4096 = 2
    ((List.range p.length).find? fun i => f.path[i]? ≠ p[i]?).map fun i => (i, p.getD i 0 % 4096)

/-- route(pkt) of R501, with the generation that the packet carries (R505, R507). -/
def State.route (s : State) (ws : List W64) : Route :=
  let w := ws.getD 0 0#64
  let r := s.routeSet (fld w 2 0)
  let g := fld w 3 3
  match s.fabric.depthOf (packetPath ws) with
  | none => .deliver
  | some (d, i) =>
    if g ≠ r.live && r.keptSince.isNone && !(s.routePending (fld w 2 0)) then .stale
    else if fld w 25 20 = 63 then .loop
    else
      let t := (r.gen g).depths.getD d (0, 0)
      if t.2 ≤ i then .miss
      else
        let ps := entryPorts ((r.gen g).entries.get 0x3F (t.1 + i))
        if ps.isEmpty then .miss else .ports ps (d == 9)

/-- Counts and records a packet that routing releases: at most one record of each kind per route set and steep
(R504, R507). -/
def State.routeLost (s : State) (k : Route) (rset : Nat) : State :=
  let f := s.fabric
  match k with
  | .loop => ({ s with fabric := { f with loops := satN 16 (f.loops + 1) } }).raiseLimited (Rec.routeLoop, rset) 1 {
      code := Rec.routeLoop, cls := .uc, ownLimit := true, a := BitVec.ofNat 64 rset }
  | .miss => ({ s with fabric := { f with misses := satN 16 (f.misses + 1) } }).raiseLimited (Rec.routeMiss, rset) 1 {
      code := Rec.routeMiss, cls := .uc, ownLimit := true, a := BitVec.ofNat 64 rset }
  | .stale => ({ s with fabric := { f with stale := satN 16 (f.stale + 1) } }).raiseLimited (Rec.routeStale, rset) 1 {
      code := Rec.routeStale, cls := .uc, ownLimit := true, a := BitVec.ofNat 64 rset }
  | _ => s

/-- A packet with a wrong KIND or channel (R500, R546, R595): one record per link and steep. -/
def State.badPacket (s : State) (link : Option Nat) : State :=
  s.raiseLimited (Rec.fabricBadPacket, link.getD 48) 1 {
    code := Rec.fabricBadPacket, cls := .uc, unit := (match link with | some l => .link l | none => .module), ownLimit := true }

/-- A packet that is to leave is held until a port and its credits are free (R503). -/
def State.hold (s : State) (ctx : Option Nat) (ty vc : Nat) (ws : List W64) (ports : List Nat) (far : Bool)
    (src : Option (Nat × Nat × Nat)) : State :=
  let w := ws.getD 0 0#64
  let p : TxPacket := {
    id := s.fabric.nextPacket, ctx := ctx, ty := ty, vc := vc, words := ws, ports := ports, ordered := bitAt w 4, far := far
    rset := fld w 2 0, rgen := fld w 3 3, src := src, since := s.now }
  { s with fabric := { s.fabric with waiting := s.fabric.waiting ++ [p], nextPacket := s.fabric.nextPacket + 1 } }

/-- The channel of a KIND; the collective engine names its own (R500). -/
def kindVc (kind : Nat) : Nat :=
  if kind = 6 then 0 else if kind = 2 then 3 else if kind = 3 then 4 else if kind = 4 || kind = 5 then 5 else if kind = 8 then 6 else 7

/-- An engine of the module injects a packet (R499, R501, R505, R508). A packet for the module itself is delivered to
its engine at once. -/
def State.inject (s : State) (kind vc : Nat) (dst : List W64) (ctx : Option Nat) (rset : Nat) (body : List W64) : State :=
  let w := mkWord [(0, 3, rset), (3, 1, (s.routeSet rset).live), (5, 3, dst.length), (8, 8, kind), (16, 3, ctx.getD 0),
    (19, 1, b2n ctx.isSome), (32, 16, s.fabric.dn), (48, 16, s.now)]
  let ws := w :: dst ++ body
  match s.route ws with
  | .deliver => s
  | .ports ps far => if far && kind ≠ 8 then s.badPacket none else s.hold ctx 0 vc ws ps far none
  | r => s.routeLost r rset

/-- Path of the module with a DN, where the module knows it. -/
def State.pathOfDn (s : State) (dn : Nat) : Option (List W64) := (s.members.modules.find dn).map pathWords

/-- Injects a packet to the module with a DN; nothing leaves for a DN that the module does not know. -/
def State.injectDn (s : State) (kind vc dn : Nat) (ctx : Option Nat) (rset : Nat) (body : List W64) : State :=
  match s.pathOfDn dn with
  | some p => s.inject kind vc p ctx rset body
  | none => s

/-- The receive queues in which packets of a KIND stand. -/
def kindQueues (kind : Nat) : List (Nat × Nat) :=
  (List.range 48).flatMap fun l => (if kind = 1 then [1, 2] else [kindVc kind]).map fun vc => linkQueue l vc

/-- The oldest delivered packet of a receive queue, not one to be forwarded. -/
def State.delivered (s : State) (pool qid : Nat) : Option Packet :=
  (s.queue pool qid).queuedPackets.find? fun k => !k.done &&
    !(s.fabric.waiting.any fun t => t.src == some (pool, qid, k.seq)) &&
    !(s.fabric.links.any fun e => e.2.inflight.any fun t => t.src == some (pool, qid, k.seq))

/-- An engine has taken a packet of a KIND with this body: when one stands delivered in a link receive queue, it is
released there and its credits return (R350, R483). -/
def State.tookPacket (s : State) (kind : Nat) (body : List W64) : State :=
  match (kindQueues kind).find? fun q => match s.delivered q.1 q.2 with
    | some k => packetKind k.words = kind && packetBody k.words = body
    | none => false with
  | none => s
  | some q => match s.delivered q.1 q.2 with
    | none => s
    | some k => s.consume q.1 q.2 k.seq

/-- Packets of an expelled module are released on arrival (R628). -/
def State.shuns (s : State) (dn : Nat) : Bool := dn ≠ s.fabric.dn && s.members.expelled.contains dn

/-! ### Link states (R490, R511) -/

def LinkState.code : LinkState → Nat
  | .down => 0
  | .training => 1
  | .trained => 2
  | .far => 3
  | .failed => 4

/-- Contexts with traffic on a link: packets in flight on it, or in its receive queues. -/
def State.linkCtxs (s : State) (link : Nat) : List Nat :=
  let held (x : Nat) : Bool := (List.range 8).any fun vc =>
    let q := s.queue (linkQueue link vc).1 (linkQueue link vc).2
    q.packets.any (fun k => k.ctx == some x) || q.ports.any fun e => e.2.ctx == some x
  (List.range 8).filter fun x => (s.link link).inflight.any (fun t => t.ctx == some x) || held x

/-- A link in a new state; training in far-link mode starts its exchange again (R547, R563). -/
def Link.toward (l : Link) (new : LinkState) : Link :=
  { l with
    state := new
    far := if new == .training && l.far.on then { l.far with state := 1, discovered := false, holding := false, rxCount := l.far.rxStart } else l.far }

/-- A link changes its state, with a LINK_STATE event to each context with traffic on it, and to the mailbox of the
command that awaits it when training ends (R510, R511). -/
def State.linkTo (s : State) (link : Nat) (new : LinkState) : State :=
  let l := s.link link
  let e : Event := { kind := 0x0100, detail := mkWord [(0, 6, link), (8, 3, l.state.code), (12, 3, new.code)] }
  let s := forL (s.linkCtxs link) (fun x s => s.event x e) (s.setLink link (l.toward new))
  match l.retrainBy with
  | some by_ =>
    if new = .trained || new = .far || new = .failed then
      (s.updLink link fun l => { l with retrainBy := none }).secondCompletion by_.mb by_.tag 0 (s.eventWords e)
    else s
  | none => s

end Sys2Proof.Machine
end

