-- ==== Sys2Proof/Machine/Kettle.lean ====
section
/-! DEFINITION. Machine/Kettle.lean: mailboxes (R370 to R378), and how the kettle takes a request, checks it in the
order of R841 and completes it (R379 to R381). -/
namespace Sys2Proof.Machine

/-! ### Completion statuses (R381, R656, R702, R737, R766, R794, R833) -/
namespace St
def ok : Nat := 0x0000
def accepted : Nat := 0x0001
def noEffect : Nat := 0x0002
def pending : Nat := 0x0003
def reserved : Nat := 0x0010
def notAdmin : Nat := 0x0011
def badPath : Nat := 0x0012
def badContext : Nat := 0x0013
def noResource : Nat := 0x0014
def busy : Nat := 0x0015
def outOfService : Nat := 0x0016
def mailboxReset : Nat := 0x0017
def scheduleConflict : Nat := 0x0018
def unitFenced : Nat := 0x0020
def fencedAbort : Nat := 0x0021
def sliceTooLong : Nat := 0x0030
def formatPair : Nat := 0x0031
def operandRange : Nat := 0x0032
def chainBroken : Nat := 0x0033
def chainLength : Nat := 0x0034
def memoryRange : Nat := 0x0035
def partitionRange : Nat := 0x0036
def noLiterals : Nat := 0x0037
def streamFormat : Nat := 0x0038
def slotHeld : Nat := 0x0039
def vectorEncoding : Nat := 0x0040
def vectorCost : Nat := 0x0041
def vectorSpan : Nat := 0x0042
def versionGone : Nat := 0x0050
def farlinkNoBuffer : Nat := 0x0051
def deadline : Nat := 0x0060
def cancelled : Nat := 0x0061
def stepAborted : Nat := 0x0062
def collTimeout : Nat := 0x0100
def routeBusy : Nat := 0x0101
def groupRange : Nat := 0x0102
def farNoKey : Nat := 0x0200
def farKeyBusy : Nat := 0x0201
def outerConflict : Nat := 0x0202
def siteUnknown : Nat := 0x0203
def notMember : Nat := 0x0300
def blendRequired : Nat := 0x0301
def mirrorIncomplete : Nat := 0x0302
def windowMismatch : Nat := 0x0303
def votedOut : Nat := 0x0304
def blendSignature : Nat := 0x0400
def blendFormat : Nat := 0x0401
def blendBusy : Nat := 0x0402
def noBlend : Nat := 0x0403
def modelState : Nat := 0x0500
def passOrder : Nat := 0x0501
def passAborted : Nat := 0x0502
def kvRange : Nat := 0x0503
def modelKey : Nat := 0x0504
def keyUnknown : Nat := 0x0600
def keyInUse : Nat := 0x0601
def noIdentity : Nat := 0x0602
def bankActive : Nat := 0x0603
def fwImage : Nat := 0x0604
def adjacency : Nat := 0x0700
def stateBusy : Nat := 0x0701
def hostAccess : Nat := 0x0C00
end St

/-! ### Mailboxes -/

/-- The function that owns a mailbox: the context's virtual function while it is enabled, else the physical
function (R377, R773). -/
def State.owner (s : State) (mb : Nat) : Nat := if s.host.fnOn (mb / 4 + 1) then mb / 4 + 1 else 0

/-- Requests through this mailbox are Admin (R378). -/
def State.isAdmin (s : State) (mb : Nat) : Bool := s.owner mb == 0

/-- The module is off, held in reset or without its clock, or in M3: nothing reaches it (R791, R797, R803, R808). -/
def State.dark (s : State) : Bool := s.host.resetHeld || s.power.off || s.power.refLost || s.power.state = 3

/-- FREE as MB_STATUS shows it: 0 until the module has booted, but for MB0 in recovery (R786). -/
def State.shownFree (s : State) (mb : Nat) : Nat :=
  if s.trust.stage = 0x0F || (s.trust.stage = 0xFE && mb = 0) then (s.mailbox mb).free else 0

/-- A request mailbox takes no doorbell: it is fenced or being reset (R372). -/
def State.mailboxShut (s : State) (mb : Nat) : Bool :=
  (s.mailbox mb).resetting || (s.queue 0 (0x100 + 2 * mb)).fence.isSome || !(s.queue 0 (0x100 + 2 * mb)).enabled

/-- Commits a request's words, or refuses the doorbell: DOORBELL_ERROR and a CE record, no token (R371, R372). -/
def State.doorbell (s : State) (mb : Nat) (ws : List W64) : State × Bool :=
  let m := s.mailbox mb
  let refuse : State × Bool :=
    ((s.setMailbox mb { m with doorbellError := true }).raise { code := Rec.mailboxDoorbell, cls := .ce, a := BitVec.ofNat 64 mb }, false)
  if s.shownFree mb = 0 || ws.length = 0 || 31 < ws.length || s.mailboxShut mb then refuse
  else match s.put 0 (0x100 + 2 * mb) (some (mb / 4)) 0x01 ws with
    | none => refuse
    | some s' => (s'.setMailbox mb { m with free := m.free - 1, pending := m.pending + 1 }, true)

/-- The command codes that a chapter defines (R382, R541, R588, R655, R701, R737, R767, R833). -/
def definedCodes : List Nat :=
  [0x0001, 0x0002, 0x0003, 0x0004, 0x0005, 0x0006, 0x0007, 0x0010, 0x0011, 0x0012, 0x0013, 0x0014, 0x0020, 0x0021, 0x0022, 0x0023, 0x0024,
   0x0030, 0x0031, 0x0032] ++ (List.range 9).map (0x0100 + ·) ++ (List.range 7).map (0x0200 + ·) ++ (List.range 9).map (0x0300 + ·) ++
  (List.range 5).map (0x0400 + ·) ++ [0x0410, 0x0411, 0x0412] ++ (List.range 9).map (0x0500 + ·) ++ (List.range 8).map (0x0600 + ·) ++
  [0x0700, 0x0701]

/-- A request of the mailbox still waits for other modules: the next is not taken before it, since completions leave in
SEQ order (R373). -/
def State.waitsFan (s : State) (mb : Nat) : Bool := s.fans.any fun f => f.cmd.mb == mb

/-- Requests with a code that no chapter defines, oldest of a mailbox, are completed with RESERVED_ENCODING (R17, R382, R841). -/
def undefinedLoop : Nat → Nat → State → State
  | 0, _, s => s
  | fuel + 1, mb, s =>
    if s.waitsFan mb then s
    else match (s.queue 0 (0x100 + 2 * mb)).packets with
      | [] => s
      | k :: _ =>
        let h := k.words.getD 0 0#64
        if definedCodes.contains (fld h 15 0) then s
        else undefinedLoop fuel mb ((s.takeOldest 0 (0x100 + 2 * mb)).complete mb (fld h 15 0) (fld h 31 16) St.reserved [])

/-- The mailbox has 16 tokens, so no more requests wait. -/
def State.answerUndefined (s : State) (mb : Nat) : State := undefinedLoop 16 mb s

/-- The request words in a mailbox's buffer. -/
def State.bufferWords (s : State) (mb n : Nat) : List W64 :=
  (List.range n).map fun i => (s.mailbox mb).request.get 0#64 i

/-- An access through a function that does not own the mailbox, or while BARs are not served: what R377 and R784
say. `off` is the register's offset in the physical function's space. -/
def State.guardMailbox (s : State) (fn mb off : Nat) (act : State → State) : State :=
  if s.host.d3hot || s.dark then s
  else if 32 ≤ mb then s.regAccess off
  else if s.owner mb ≠ fn then s.regAccess off
  else if s.host.flr.contains fn then s
  else act s

/-- Offset of a mailbox register (R426, R775). -/
def mbOff (mb off : Nat) : Nat := 0x18000 + 0x400 * mb + off

/-- MB_DOORBELL (R371, R372, R785). -/
def execMbDoorbell (fn mb : Nat) (v : W64) (s : State) : Host.Outcome State Fault Refusal :=
  .next (s.guardMailbox fn mb (mbOff mb 0x100) fun s => ((s.doorbell mb (s.bufferWords mb (fld v 4 0))).1).answerUndefined mb)

/-- MB_COMP_ACK (R370, R375): the oldest completion is released and its token returns; held second completions may
follow. A write of 0, and one with no completion unread, does nothing. -/
def execMbCompAck (fn mb : Nat) (v : W64) (s : State) : Host.Outcome State Fault Refusal :=
  .next (s.guardMailbox fn mb (mbOff mb 0x300) fun s =>
    let m := s.mailbox mb
    if !bitAt v 0 || m.unread = 0 then s
    else
      let s := s.takeOldest 0 (0x101 + 2 * mb)
      let s := s.setMailbox mb { m with unread := m.unread - 1, free := m.free + 1 }
      s.flushMailbox mb)

/-- A mailbox reset (R376): both queues are emptied, unread completions and held events go, and each pending
request is to get its MAILBOX_RESET completion, which the kettle writes at the next boundary, within the bound of R374; until
then RESETTING stands. -/
def State.resetMailbox (s : State) (mb : Nat) : State :=
  let m := s.mailbox mb
  let reqs := (s.queue 0 (0x100 + 2 * mb)).packets.map fun k =>
    (fld (k.words.getD 0 0#64) 15 0, fld (k.words.getD 0 0#64) 31 16)
  let fanned := (s.fans.filter fun f => f.cmd.mb == mb).map fun f => (f.cmd.code, f.cmd.tag)
  let unwritten := m.due.map fun ws => (fld (ws.getD 0 0#64) 15 0, fld (ws.getD 0 0#64) 31 16)
  let s := (s.resetQueue 0 (0x100 + 2 * mb)).resetQueue 0 (0x101 + 2 * mb)
  let s := { s with fans := s.fans.filter fun f => f.cmd.mb ≠ mb }
  let all := (m.resetTags ++ unwritten ++ fanned ++ reqs).take 16
  s.setMailbox mb { m with
    free := 16 - all.length, pending := all.length, unread := 0, heldEvents := [], due := [], resetTags := all, resetting := !all.isEmpty }

/-- A vector field as a function writes it (R781): none when the write is to be ignored whole. -/
def vectorIn (fn v : Nat) : Option Nat :=
  if fn = 0 then some v else if v ≤ 127 then some (1024 + 128 * (fn - 1) + v) else none

/-- A vector field as a function reads it (R781). -/
def vectorOut (fn v : Nat) : Nat := if fn = 0 then v else v - (1024 + 128 * (fn - 1))

/-- The sink of a completion queue follows MB_CFG (R375). -/
def State.mailboxSink (s : State) (mb : Nat) : State :=
  let m := s.mailbox mb
  s.updQueue 0 (0x101 + 2 * mb) fun q => { q with sink := if m.vectorEn then .msix m.vector else .none }

/-- MB_CFG with RESET (R376, R781): the vector fields are taken and the mailbox is reset. A write without RESET
only takes the fields. -/
def execMbCfgReset (fn mb : Nat) (v : W64) (s : State) : Host.Outcome State Fault Refusal :=
  .next (s.guardMailbox fn mb (mbOff mb 0x308) fun s =>
    match vectorIn fn (fld v 10 0) with
    | none => s.regAccess (mbOff mb 0x308)
    | some n =>
      let m := s.mailbox mb
      let s := (s.setMailbox mb { m with vectorEn := bitAt v 16, vector := n }).mailboxSink mb
      if bitAt v 32 then s.resetMailbox mb else s)

/-! ### Paths in requests (R27 to R31, R378, R841) -/

/-- A parsed path: the domain, the group hops, the module hop, and the unit below it. -/
structure Path where
  domain : Option Nat
  groups : List Nat
  module : Option Nat
  below : UnitId
deriving DecidableEq, Repr

/-- The unit that the hops below a module name (R27, R29, R31). -/
def belowOf : List Nat → Option UnitId
  | [] => some .module
  | [a] =>
    if 0x3000 ≤ a && a ≤ 0x3007 then some (.die (a - 0x3000))
    else if a = 0x7000 || a = 0x7001 then some (.iod (a - 0x7000))
    else if 0x7010 ≤ a && a ≤ 0x7013 then some (.caddy (a - 0x7010))
    else if 0x7100 ≤ a && a ≤ 0x712F then some (.link (a - 0x7100))
    else if 0x9000 ≤ a && a ≤ 0x9007 then some (.ctx (a - 0x9000))
    else none
  | [a, b] =>
    if 0x3000 ≤ a && a ≤ 0x3007 && 0x4000 ≤ b && b ≤ 0x4003 then some (.region (4 * (a - 0x3000) + (b - 0x4000))) else none
  | [a, b, c] =>
    if 0x3000 ≤ a && a ≤ 0x3007 && 0x4000 ≤ b && b ≤ 0x4003 && 0x5000 ≤ c && c ≤ 0x5003 then
      some (.cluster (16 * (a - 0x3000) + 4 * (b - 0x4000) + (c - 0x5000))) else none
  | [a, b, c, d] =>
    if 0x3000 ≤ a && a ≤ 0x3007 && 0x4000 ≤ b && b ≤ 0x4003 && 0x5000 ≤ c && c ≤ 0x5003 && 0x6000 ≤ d && d ≤ 0x6003 then
      some (.core (64 * (a - 0x3000) + 16 * (b - 0x4000) + 4 * (c - 0x5000) + (d - 0x6000))) else none
  | _ => none

/-- Hops in the order and ranges of R27 and R29, or none for a reserved encoding. -/
def parsePath (hops : List Nat) : Option Path :=
  let dom := match hops with
    | a :: _ => if 0x8000 ≤ a && a ≤ 0x800F then some (a - 0x8000) else none
    | [] => none
  let rest := if dom.isSome then hops.drop 1 else hops
  let groups := rest.takeWhile fun a => a / 4096 == 1
  let rest := rest.drop groups.length
  let mod_ := match rest with
    | a :: _ => if a / 4096 = 2 then some (a % 4096) else none
    | [] => none
  let rest := if mod_.isSome then rest.drop 1 else rest
  if 8 < groups.length then none
  else if mod_.isNone && (dom.isSome || !groups.isEmpty) && !rest.isEmpty then none
  else (belowOf rest).map fun u => { domain := dom, groups := groups, module := mod_, below := u }

/-- Path words whose reserved bits and unused hop slots are zero (R28). -/
def pathWordsOk (ws : List W64) : Bool :=
  match ws with
  | [] => true
  | w :: _ =>
    let n := fld w 3 0
    ws.length = pathWordCount n && fld w 15 4 = 0 &&
      (List.range (4 * ws.length - 1)).all fun i => i < n || hopAt ws i = 0

/-- A path in the order and ranges of R28 and R29, as an argument may hold one. -/
def argPathOk (ws : List W64) : Bool := pathWordsOk ws && (parsePath (pathHops ws)).isSome

/-- A path that ends in a context hop, which only UNIT_ENABLE, UNIT_DISABLE and UNIT_RELEASE accept (R29). -/
def namesCtx (ws : List W64) : Bool := match parsePath (pathHops ws) with
  | some p => (match p.below with | .ctx _ => true | _ => false)
  | none => false

/-- What a request's path names. -/
inductive Target where
  | unit (u : UnitId)
  | remote (hops : List Nat)
  | composite (g : Nat)
deriving DecidableEq, Repr

/-- The module hop path of a parsed path. -/
def Path.moduleHops (p : Path) : List Nat := p.groups ++ (p.module.map (0x2000 + ·)).toList

/-- The unit, module or composite that a path names (R30); none when it names none. -/
def State.resolve (s : State) (hops : List Nat) : Option Target :=
  match parsePath hops with
  | none => none
  | some p =>
    let own := p.domain.isNone || p.domain == some s.fabric.site
    if p.module.isNone && p.groups.isEmpty then (if p.domain.isNone then some (.unit p.below) else none)
    else if p.module.isNone then
      (match p.groups.reverse with
        | g :: _ => if own && (s.composites.find (g % 4096)).isSome then some (.composite (g % 4096)) else none
        | [] => none)
    else if own && p.moduleHops = s.fabric.path then some (.unit p.below)
    else if !own || s.members.modules.any (fun e => e.2 = p.moduleHops) then some (.remote hops)
    else none

/-- The mailbox may name the target (R378). -/
def State.mayName (s : State) (mb : Nat) (t : Target) : Bool :=
  if s.isAdmin mb then true
  else
    let own (d : Nat) : Bool := Nat.testBit (s.ctx (mb / 4)).dieMask d
    match t with
    | .composite _ => true
    | .remote _ => false
    | .unit .module => true
    | .unit (.ctx n) => n == mb / 4
    | .unit (.die d) => own d
    | .unit (.region g) => own (g / 4)
    | .unit (.cluster c) => own (c / 16)
    | .unit (.core k) => own (k / 64)
    | .unit _ => false

/-! ### Handling a request -/

/-- A request as its command's meaning sees it. -/
structure KReq where
  mb : Nat
  tag : Nat
  code : Nat
  unit : UnitId
  args : List W64
deriving DecidableEq, Repr

/-- The context whose mailbox the request came through, on this module or on the one that sent it on (R370, R378). -/
def KReq.x (k : KReq) : Nat := k.mb % 32 / 4
def KReq.ref (k : KReq) : CmdRef := ⟨k.mb, k.tag, k.code⟩
/-- Argument word i. -/
def KReq.arg (k : KReq) (i : Nat) : W64 := k.args.getD i 0#64

/-- What a command's meaning gives: a completion's status and reply words, or nothing yet. -/
abbrev KResult := State × Option (Nat × List W64)

/-- A completion with no reply words. -/
def done (s : State) (status : Nat) : KResult := (s, some (status, []))

/-- The words of a request whose row gives the command code (R379). -/
def reqWords (r : Req) (code : Nat) : List W64 := (r.top ++ BitVec.ofNat 16 code) :: r.rest

/-! ### Requests sent on to other modules (R22 to R26)

A kettle packet of KIND 0x07 holds the type of its content in [7:0] of its first word: 1 a request, with the
mailbox in [31:16] and the number of the request in [63:32]; 2 a reply, with the status in [31:16] and that number; 3 a
domain command; 4 a request for state; 5 an event, with the mailbox in [13:9], the TAG in [31:16] and the status in
[47:32]; 6 a message of the outer round; 7 a request on a composite for its lead, with the mailbox and number as in 1, the
words of the members' paths counted in [15:8], then those paths and the request; 8 a shard asked for again (R727), with its header
words. The spec gives these packets no layout: it is the
model's own (log 50). -/

/-- The stand-in for a mailbox that a request from another module carries: its mailbox there, the DN and the number. -/
def remoteMb (mb dn fan : Nat) : Nat := mb % 32 + 256 * (1 + dn + 65536 * fan)
def remoteDn (mb : Nat) : Nat := (mb / 256 - 1) % 65536
def remoteFan (mb : Nat) : Nat := (mb / 256 - 1) / 65536

/-- First word of a domain command as another module takes it. -/
def domainWord (code : Nat) : W64 := mkWord [(0, 8, 3), (16, 16, code)]

/-- The word of a member that has not replied (R24): ABSENT. -/
def absentWord : W64 := mkWord [(8, 3, 5), (16, 4, 2)]

/-- A composite unit's word from its members' words (R25). DESIGN CHOICE (log 75): R25 gives no LEVEL, STEEP_LOW, FENCE_MODE,
PENDING_ENABLE or WATCH; the model takes LEVEL 2, as of one module (R23), STEEP_LOW of the first member, and 0 for the others. -/
def compositeWord (ws : List W64) : W64 :=
  let rank (c : Nat) : Nat := [4, 5, 3, 2, 1, 0].findIdx fun v => v == c
  let st := ws.foldl (fun b w => if rank (fld w 10 8) < rank b then fld w 10 8 else b) 0
  let sum (hi lo : Nat) : Nat := satN 8 (ws.foldl (fun n w => n + fld w hi lo) 0)
  let mask := ws.foldl (fun n w => Nat.lor n (fld w 39 32)) 0
  mkWord [(0, 8, ws.foldl (fun n w => min n (fld w 7 0)) 255), (8, 3, st), (13, 1, 1), (16, 4, 2), (24, 8, sum 31 24),
    (32, 8, mask), (40, 8, sum 47 40), (48, 16, fld (ws.getD 0 0#64) 63 48)]

/-- Status and words of member i. -/
def Fan.replyOf (f : Fan) (i : Nat) : Option (Nat × List W64) := (f.replies.find? fun r => r.1 == i).map (·.2)

/-- The members' words, in their order, as many whole answers as a completion holds (R380). -/
def fitting : Nat → List (List W64) → List W64
  | _, [] => []
  | room, ws :: rest => if ws.length ≤ room then ws ++ fitting (room - ws.length) rest else []

/-- The one reply that a fanned-out request gets (R23 to R25): a query of a composite gives the composite's word; any other
request the first status that is not OK, and the words of every member in the order of the declaration, a member that has not
replied standing as the word of an ABSENT unit. DESIGN CHOICE (log 75): R23 does not say how replies with words are joined. -/
def Fan.gather (f : Fan) : Nat × List W64 :=
  let rs := (List.range f.members.length).map f.replyOf
  let words (r : Option (Nat × List W64)) : List W64 := match r with
    | some q => q.2
    | none => [absentWord]
  if f.cmd.code = 0x0002 && f.composite then (St.ok, [compositeWord (rs.map fun r => (words r).getD 0 absentWord)])
  else ((((rs.filterMap fun r => r).map (·.1)).find? fun t => t ≠ St.ok).getD St.ok, fitting 29 (rs.map words))

def Fan.full (f : Fan) : Bool := (List.range f.members.length).all fun i => (f.replyOf i).isSome

/-- The modules that the members of a composite name: a member that is a composite declared here stands for its members, and a
group that is none for its modules (R23, R382). `fuel` bounds the nesting. -/
def State.expand (s : State) : Nat → List (List W64) → List (List W64)
  | 0, _ => []
  | fuel + 1, ms => ms.flatMap fun m => match parsePath (pathHops m) with
    | some p =>
      if p.module.isSome then [m]
      else match p.groups.reverse with
        | g :: _ => match s.composites.find (g % 4096) with
          | some c => s.expand fuel c.members
          | none => (s.members.modules.filter fun e => p.groups.isPrefixOf e.2).map fun e => pathWords e.2
        | [] => []
    | none => []

/-- The module's own path. -/
def State.ownPath (s : State) (m : List W64) : Bool := match parsePath (pathHops m) with
  | some p => p.moduleHops == s.fabric.path
  | none => false

/-- Sends a request on and waits for the replies; to the members of a composite with each member's path, and to a composite's
lead with those of all its members. `own` is the answer of this module, where it is a member. -/
def State.fanOut (s : State) (ref : CmdRef) (composite : Bool) (members : List (List W64)) (ws : List W64) (args : List W64)
    (own : Option (Nat × List W64)) : State :=
  let mine := (List.range members.length).filter fun i => s.ownPath (members.getD i [])
  let f : Fan := {
    id := s.nextFan, cmd := ref, composite := composite, members := members, started := s.now, request := ws
    replies := match own with
      | some r => mine.map fun i => (i, r)
      | none => [] }
  let s := { s with
    fans := s.fans ++ [f]
    nextFan := s.nextFan + 1 }
  let head := mkWord [(0, 8, 1), (8, 1, b2n composite), (16, 16, ref.mb % 32), (32, 32, f.id)]
  forN members.length (fun i s =>
    let m := members.getD i []
    if composite && mine.contains i then s
    else s.inject 0x07 7 m none 0 (head :: (if composite then mkWord [(0, 16, ref.code), (16, 16, ref.tag), (32, 3, m.length)] :: m ++ args else ws))) s

/-- A request on a composite goes to the composite's lead (R23), whose one reply answers it. The lead's own wait is that of
R24; this module waits as long again. -/
def State.askLead (s : State) (ref : CmdRef) (lead : List W64) (ms : List (List W64)) (ws : List W64) : State :=
  let f : Fan := { id := s.nextFan, cmd := ref, composite := false, members := [lead], started := s.now, request := ws, wait := 8 }
  let paths := ms.flatten
  let s := { s with
    fans := s.fans ++ [f]
    nextFan := s.nextFan + 1 }
  s.inject 0x07 7 lead none 0 (mkWord [(0, 8, 7), (8, 8, paths.length), (16, 16, ref.mb % 32), (32, 32, f.id)] :: (paths ++ ws))

/-- The lead handles a request on a composite (R23, R24, R688): the members get it, and the lead's own part follows. A
UNIT_RESET of the lead itself waits for the others' replies, since it ends every wait. -/
def State.lead (s : State) (ref : CmdRef) (ms : List (List W64)) (ws args : List W64) (body : KReq → State → KResult) : KResult :=
  let req : KReq := ⟨ref.mb, ref.tag, ref.code, .module, args⟩
  let mine := ms.any s.ownPath
  if ms.all s.ownPath && ref.code ≠ 0x0002 then body req s
  else
    let r : KResult :=
      if !mine then (s, none)
      else if ref.code = 0x0007 then (s, some (if args.isEmpty then St.ok else St.reserved, []))
      else body req s
    let s := r.1.fanOut ref true ms ws args r.2
    match s.fans.reverse with
    | f :: _ => if f.full then ({ s with fans := s.fans.filter fun q => q.id ≠ f.id }, some f.gather) else (s, none)
    | [] => (s, none)

/-- The checks 1 to 4 of R841, then the command. `ctxHop` says that the command accepts a path ending in a context
hop (R29); `admin` that its class is Admin for the named unit (R378, R382). -/
def State.handle (s : State) (mb code : Nat) (ws : List W64) (ctxHop : Bool) (admin : UnitId → Bool)
    (body : KReq → State → KResult) : KResult :=
  let h := ws.getD 0 0#64
  let n := fld h 34 32
  let tag := fld h 31 16
  let path := (ws.drop 1).take n
  if fld h 63 35 ≠ 0 || 4 < n || ws.length < 1 + n || !pathWordsOk path then done s St.reserved
  else
    let hops := pathHops path
    match parsePath hops with
    | none => done s St.reserved
    | some p =>
      if admin p.below && !s.isAdmin mb then done s St.notAdmin
      else match s.resolve hops with
        | none => done s St.badPath
        | some t =>
          if !s.mayName mb t then done s St.badPath
          else match t with
            | .composite g =>
              let ms := s.expand 8 (s.composites.get ⟨[]⟩ g).members
              (match ms with
                | l :: _ => if s.ownPath l then s.lead ⟨mb, tag, code⟩ ms ws (ws.drop (1 + n)) body else (s.askLead ⟨mb, tag, code⟩ l ms ws, none)
                | [] => done s St.badPath)
            | .remote hops => (s.fanOut ⟨mb, tag, code⟩ false [pathWords hops] ws [] none, none)
            | .unit u =>
              let isCtx := match u with | .ctx _ => true | _ => false
              if isCtx && !ctxHop then done s St.badPath
              else body ⟨mb, tag, code, u, ws.drop (1 + n)⟩ s

/-- The commands that MB0 answers in recovery (R744). -/
def recoveryCode (code : Nat) : Bool := code = 0x0001 || code = 0x0600 || code = 0x0605 || code = 0x0606

/-- The kettle takes one request of a mailbox. When the oldest pending request is the row's, it is that one that is
taken; when none is pending the request is rung in and taken at once; behind another pending request, or one that waits for other
modules, it is only rung in, since requests of one mailbox are taken in SEQ order (R373). The completion follows (R374). A
request that another module sent on is answered in a reply packet. -/
def State.kettle (s : State) (r : Req) (code : Nat) (ctxHop : Bool) (admin : UnitId → Bool)
    (body : KReq → State → KResult) : State :=
  let ws := reqWords r code
  let run (s : State) : State :=
    let s := s.takeOldest 0 (0x100 + 2 * r.mb)
    let res := if s.trust.stage = 0xFE && !recoveryCode code then done s St.outOfService else s.handle r.mb code ws ctxHop admin body
    match res.2 with
    | none => res.1
    | some (st, reply) => (res.1.complete r.mb code (fld (ws.getD 0 0#64) 31 16) st reply).answerUndefined r.mb
  if 256 ≤ r.mb then
    let res := if s.trust.stage ≠ 0x0F then done s St.outOfService else s.handle r.mb code ws ctxHop admin body
    { res.1 with kettleAnswer := res.2 }
  else if s.host.d3hot || s.dark || 32 ≤ r.mb || s.host.flr.contains (s.owner r.mb) then s
  else match (s.queue 0 (0x100 + 2 * r.mb)).packets with
    | k :: _ => if k.words ≠ ws then (s.doorbell r.mb ws).1 else if s.waitsFan r.mb then s else run s
    | [] =>
      let d := s.doorbell r.mb ws
      if d.2 && !(d.1.waitsFan r.mb) then run d.1 else d.1

/-- A failed host access (R779, R844): counted, with a UC record naming the context and the host address. -/
def State.dmaFault (s : State) (ctx fn addr kind : Nat) (write : Bool) (code : Nat) : State :=
  ({ s with host := { s.host with dmaErrors := satN 16 (s.host.dmaErrors + 1) } }).raise {
    code := Rec.hostDmaFault, cls := .uc, ctx := some ctx, a := BitVec.ofNat 64 addr
    b := mkWord [(0, 4, fn), (4, 4, kind), (8, 1, b2n write), (16, 16, code)] }

/-- A command's access to host memory through the function of its mailbox (R778, R779): nothing happens without Bus
Master Enable, nor for a request of another module, and none of the data of a failed access is used. -/
def State.dma (s : State) (k : KReq) (host : HostRead) (addr : Nat) (write : Bool) (go : List W64 → KResult) : KResult :=
  if 256 ≤ k.mb || !(s.host.busMaster.contains (s.owner k.mb)) then done s St.hostAccess
  else match host with
    | .fail kind => done (s.dmaFault (k.mb / 4) (s.owner k.mb) addr kind write k.code) St.hostAccess
    | .ok ws => go ws

/-- A command of class Any. -/
def anyClass : UnitId → Bool := fun _ => false
/-- A command of class Admin. -/
def adminClass : UnitId → Bool := fun _ => true

/-- A context that a command may name: it exists, and a context's own mailbox names only itself (R378). -/
def State.ctxNamed (s : State) (mb x : Nat) : Bool := (s.ctx x).state ≠ .free && (s.isAdmin mb || mb / 4 == x)

end Sys2Proof.Machine
end

