-- ==== Sys2Proof/Machine/Commit.lean ====
section
/-! DEFINITION. Machine/Commit.lean: seals, step failure, two-phase commit (R590 to R619), and the end of a stream,
which every failure and every commit bears on (R402 to R406, R606). -/
namespace Sys2Proof.Machine

/-! ### The member table and the commit tree (R590, R591) -/

/-- The DN at a rank. -/
def Job.dnOf (j : Job) (r : Nat) : Nat := j.table.getD r 0
/-- Position of a rank among the live members. -/
def Job.position (j : Job) (r : Nat) : Option Nat := j.live.findIdx? fun x => x == r
/-- The commit lead: the lowest-ranked live member. -/
def Job.lead (j : Job) : Nat := j.live.getD 0 0
def Job.isLead (j : Job) : Bool := j.member && j.live.head? == some j.rank
/-- The parent in the tree of fan-out 8; the lead has none. -/
def Job.parent (j : Job) : Option Nat :=
  match j.position j.rank with
  | some 0 => none
  | some i => j.live[(i - 1) / 8]?
  | none => none
/-- The children in the tree. -/
def Job.children (j : Job) : List Nat :=
  match j.position j.rank with
  | some i => (j.live.drop (8 * i + 1)).take 8
  | none => []
/-- The rank whose DN this is, among the live members. -/
def Job.rankOfDn (j : Job) (dn : Nat) : Option Nat := j.live.find? fun r => j.dnOf r == dn
/-- The buddy and the mirror source of the context's rank (R592). -/
def Job.buddy (j : Job) : Option Nat := if j.stride = 0 then none else some ((j.rank + j.stride) % j.table.length)
def Job.mirrorSource (j : Job) : Option Nat :=
  if j.stride = 0 then none else some ((j.rank + j.table.length - j.stride) % j.table.length)

/-! ### Messages (R594, R595) -/

namespace Msg
def seal_ : Nat := 0x01
def stepFail : Nat := 0x02
def ready : Nat := 0x03
def commit : Nat := 0x04
def abort : Nat := 0x05
def query : Nat := 0x06
def decision : Nat := 0x07
def mirrorDone : Nat := 0x08
def vote : Nat := 0x10
def expel : Nat := 0x11
def healthAsk : Nat := 0x12
def healthReply : Nat := 0x13
def memberSync : Nat := 0x14
end Msg

/-! Causes of a step failure (R603). -/
namespace CauseOf
def breach : Nat := 0x01
def local_ : Nat := 0x02
def stream : Nat := 0x03
def caddy : Nat := 0x04
def sealLate : Nat := 0x05
def sealMissing : Nat := 0x06
def ledgerFull : Nat := 0x07
def mirror : Nat := 0x08
def memberLost : Nat := 0x09
def commitTimeout : Nat := 0x0A
def time : Nat := 0x0B
end CauseOf

/-- Sends a job message of a context to the member with a DN (R594). -/
def State.jobMsg (s : State) (x dn msg cause step : Nat) (arg : Nat) : State :=
  let c := s.ctx x
  s.injectDn 0x06 0 dn (some x) 0 [mkWord [(0, 8, msg), (8, 8, cause), (16, 17, c.job.rank)], c.jobId, BitVec.ofNat 64 step, BitVec.ofNat 64 arg]

/-- Sends a domain message (R594). -/
def State.domainMsg (s : State) (dn msg : Nat) (arg : W64) : State :=
  s.injectDn 0x06 0 dn none 0 [mkWord [(0, 8, msg)], 0#64, BitVec.ofNat 64 s.now, arg]

/-- The commit engine takes a message: its packet leaves the receive queue it stands in (R483). -/
def State.tookMsg (s : State) (m : CommitMsg) (msg : Nat) : State :=
  s.tookPacket 0x06 [mkWord [(0, 8, msg), (8, 8, m.cause), (16, 17, m.rank)], m.job, BitVec.ofNat 64 m.step, m.arg]

/-- The context whose job a message names; only a member takes one. -/
def State.ctxOfJob (s : State) (job : W64) : Option Nat :=
  (List.range 8).find? fun x => (s.ctx x).job.member && (s.ctx x).jobId == job && (s.ctx x).state ≠ .free

/-! ### Steps and epochs -/

def Job.stepOf (j : Job) (n : Nat) : Option StepSt := j.steps.find? fun t => t.step == n
def Job.updStep (j : Job) (n : Nat) (f : StepSt → StepSt) : Job :=
  { j with steps := j.steps.map fun t => if t.step = n then f t else t }
def Job.epoch (j : Job) (n : Nat) : Epoch := (j.epochs.find? fun e => e.n == n).getD { n := n }
/-- Changes an epoch of the context, opening it when it is not listed. -/
def Job.updEpoch (j : Job) (n : Nat) (f : Epoch → Epoch) : Job :=
  if j.epochs.any fun e => e.n == n then { j with epochs := j.epochs.map fun e => if e.n = n then f e else e }
  else { j with epochs := j.epochs ++ [f { n := n }] }

/-- Marks the running epoch of a context dirty: it is never sealed (R40, R598). -/
def State.taint (s : State) (x : Nat) : State := s.updJob x fun j => j.updEpoch s.now fun e => { e with dirty := true }

/-- The epochs from `from_` to the running one, oldest first: those in which work that began in epoch `from_` has run.
Epochs that closed 16 steeps ago or more have passed their deadlines (R601). -/
def State.epochsSince (s : State) (from_ : Nat) : List Nat :=
  (List.range (min 16 (s.now + 1 - from_))).reverse.map fun i => s.now - i

/-- Marks every epoch in which an operation has run dirty (R40, R598). -/
def State.taintFrom (s : State) (x from_ : Nat) : State :=
  forL (s.epochsSince from_) (fun n s => s.updJob x fun j => j.updEpoch n fun e => { e with dirty := true }) s

/-- Steps in progress that hold an epoch. -/
def Job.stepsOfEpoch (j : Job) (n : Nat) : List StepSt :=
  j.steps.filter fun t => t.firstEpoch ≤ n && (match t.lastEpoch with | some l => n ≤ l | none => true)

/-- DNs that received data of an epoch, or of a later epoch of the context, which may have taken data from it. -/
def Job.receivers (j : Job) (n : Nat) : List Nat :=
  ((j.epochs.filter fun e => n ≤ e.n).map (·.sentTo)).flatten.eraseDups

/-! ### The end of a stream -/

/-- Command queue of a slot (R333, R390). -/
def slotQueue (x slot : Nat) : Nat × Nat := if slot < 8 then (0, 0x140 + 8 * x + slot) else (1, 0x140 + 8 * x + (slot - 8))

/-- Statuses after which a slot is not held (R403, R606). -/
def endsFree (status : Nat) : Bool := status = St.ok || status = St.cancelled || status = St.stepAborted

/-- The words of a slot's oldest stream leave its queue, and with them those of cancelled streams behind it. -/
def goneLoop : Nat → Nat → Nat → State → State
  | 0, _, _, s => s
  | fuel + 1, x, slot, s =>
    let sl := (s.ctx x).slot slot
    match sl.streams with
    | t :: rest =>
      if t.gone then
        let q := slotQueue x slot
        goneLoop fuel x slot ((s.updCtx x fun c => c.setSlot slot { sl with streams := rest }).takeOldest q.1 q.2)
      else s
    | [] => s

def State.dropOldest (s : State) (x slot : Nat) : State :=
  let q := slotQueue x slot
  let s := s.takeOldest q.1 q.2
  goneLoop ((s.ctx x).slot slot).streams.length x slot s

/-! ### Captures (R620 to R622) -/

/-- A capture begins at the first boundary of its step: the stream, the versions and the spans, and which records of the
scale history hold a measured value (R124, R620). -/
def State.startCapture (s : State) (x : Nat) (t : Stream) : State :=
  let c := s.ctx x
  match c.job.capture with
  | none => s
  | some k =>
    let v := c.upd
    let spans := k.spans.flatMap fun p =>
      [BitVec.ofNat 64 (p.1 - c.fastBase * 0x200000), BitVec.ofNat 64 (p.2 / 8)] ++ s.mem.space.words (p.1 / 8) (p.2 / 8)
    let seen := BitVec.ofNat 64 c.measured.length :: c.measured.map fun e => mkWord [(0, 32, e.1), (32, 32, e.2)]
    let ws := BitVec.ofNat 64 t.words.length :: t.words ++ [BitVec.ofNat 64 v.version, BitVec.ofNat 64 v.slot, BitVec.ofNat 64 v.step,
      BitVec.ofNat 64 k.spans.length] ++ spans ++ seen
    s.updJob x fun j => { j with capture := some { k with running := true, words := ws } }

/-- All words of a capture, in the layout that STEP_REPLAY reads. -/
def Capture.all (k : Capture) : List W64 :=
  k.words ++ [BitVec.ofNat 64 k.payloads.length] ++ (k.payloads.flatMap fun p => BitVec.ofNat 64 p.length :: p) ++
    [BitVec.ofNat 64 k.trace.length] ++ k.trace.flatMap fun e => [e.1, e.2]

/-- A running capture ends with its stream: what fits is written, and CAPTURE_DONE reports it (R620). -/
def State.endCapture (s : State) (x : Nat) : State :=
  match (s.ctx x).job.capture with
  | none => s
  | some k =>
    if !k.running then s
    else
      let n := min k.all.length (k.bytes / 8)
      let s := s.storeTier (k.addr / 8) (k.all.take n)
      (s.updJob x fun j => { j with capture := none }).cmdEvent k.by_ (some x) {
        kind := 0x0307, detail := mkWord [(0, 63, 8 * n), (63, 1, b2n (decide (n < k.all.length)))] }

/-- A collective packet delivered to the context enters a running capture (R620). -/
def State.capturePayload (s : State) (x : Nat) (ws : List W64) : State :=
  s.updJob x fun j => { j with capture := j.capture.map fun k => if k.running then { k with payloads := k.payloads ++ [ws] } else k }

/-- A pass poured enters a running capture; in a replay it is written and compared (R620, R622). -/
def State.tracePass (s : State) (x : Nat) (e : W64 × W64) : State :=
  let s := s.updJob x fun j => { j with capture := j.capture.map fun k => if k.running then { k with trace := k.trace ++ [e] } else k }
  match (s.ctx x).job.replay with
  | none => s
  | some r =>
    let bad := r.trace[r.entry]? ≠ some e
    let s := if (s.ctx x).fastSpan (r.traceAddr + 16 * r.entry) 16 then s.storeTier (r.traceAddr / 8 + 2 * r.entry) [e.1, e.2] else s
    s.updJob x fun j => { j with replay := some { r with
      entry := r.entry + 1
      mismatches := if bad then r.mismatches + 1 else r.mismatches
      first := if bad && r.mismatches = 0 then r.entry else r.first } }

/-- The chain belongs to a stream: its context's slot, and the stream's STEP. -/
def Chain.of (h : Chain) (slot step : Nat) : Bool := h.slot = slot && h.step.toNat = step

/-- A chain of a stream that is still open when the stream ends is lost: ACC-L of its core goes to EMPTY (R167). -/
def Core.dropChain (c : Core) (x slot step : Nat) : Core :=
  match c.chain with
  | some h =>
    if h.ctx = some x && h.of slot step then
      { c with
        chain := none
        setA := if c.select = 0 then {} else c.setA
        setB := if c.select = 0 then c.setB else {} }
    else c
  | none => c

def Image.dropChain (i : Image) (slot step : Nat) : Image :=
  match i.acc with
  | some a => if a.2.of slot step then { i with acc := none } else i
  | none => i

/-- Every open chain of a stream is lost, on its cores and where a switch has saved it. -/
def State.dropChains (s : State) (x slot step : Nat) : State :=
  let s := { s with cores := s.cores.map fun (e : Nat × Core) => (e.1, e.2.dropChain x slot step) }
  s.updCtx x fun c => { c with images := c.images.map fun (e : Nat × Image) => (e.1, e.2.dropChain slot step) }

/-- The running capture holds this stream. -/
def Capture.holds (k : Capture) (t : Stream) : Bool := k.running && (k.words.drop 1).take t.words.length == t.words

/-- The oldest stream of a slot ends: it leaves its queue, STREAM_DONE follows its other events (R402, R405, R406), its open
chains are lost (R167), and an armed capture that ran with it is reported (R620). The slot is held after an error status. -/
def State.endStream (s : State) (x slot status : Nat) : State :=
  match ((s.ctx x).slot slot).streams with
  | [] => s
  | t :: rest =>
    let held := ((s.ctx x).slot slot).held || !endsFree status
    let s := s.updCtx x fun c => c.setSlot slot { held := held, streams := rest }
    let s := s.dropOldest x slot
    let s := if status = St.ok then s.updCtx x fun c => { c with
        historyValid := true
        job := c.job.updStep t.step fun p => { p with streamOk := true, lastEpoch := some s.now } } else s.dropChains x slot t.step
    let s := s.event x { kind := 0x0001, status := status, slice := t.done, stream := t.id, value := t.tag, detail := BitVec.ofNat 64 t.done }
    if ((s.ctx x).job.capture.map fun k => k.holds t) == some true then s.endCapture x else s

/-- What an abort does to the streams of a context from step n on: running slices complete first, streams between
slices end at once, and streams that have not started stay queued (R606). -/
def State.abortStreams (s : State) (x n : Nat) : State :=
  forN 16 (fun slot s =>
    match ((s.ctx x).slot slot).streams with
    | t :: rest =>
      if t.started && n ≤ t.step then
        (if t.running.isSome then s.updCtx x fun c => c.setSlot slot { (c.slot slot) with streams := { t with aborted := true } :: rest }
         else s.endStream x slot St.stepAborted)
      else s
    | [] => s) s

/-- Every scale-history record of a context returns to its reset value (R122, R123). -/
def Ctx.resetHistory (c : Ctx) : Ctx := { c with historyValid := false, measured := [] }

/-- R318: before the replayed step's first slice the caddies rewrite the weight copies in granules with a UE logged. -/
def State.rewriteCopies (s : State) (x : Nat) : State :=
  s.updCtx x fun c => { c with rewriteDue := true }

/-- The caddies stop for steps from n on (R463): each finishes the tile it holds and takes no further one; nothing that
R462 would change stays staged. -/
def State.discardShadow (s : State) (x n : Nat) : State :=
  let mine (j : CaddyJob) : Bool := j.ctx == x && n ≤ (j.cmd.getD 1 0#64).toNat
  let halt (j : CaddyJob) : CaddyJob := bif mine j then { j with stop := true } else j
  let off (c : Caddy) : Caddy :=
    let left := c.jobs.filter fun j => !(mine j) || c.hand == some j.id
    { c with jobs := left.map halt }
  let s := { s with caddies := s.caddies.map fun (e : Nat × Caddy) => (e.1, off e.2) }
  s.updCtx x fun c => { c with upd := { c.upd with
    prepared := false
    left := 0
    bad := false
    inits := []
    retires := []
    wrote := false
    copies := [] } }

/-- The module acts on an abort of step n of a context, its own or the lead's (R606, R607). -/
def State.abortStep (s : State) (x n cause : Nat) : State :=
  match (s.ctx x).job.stepOf n with
  | none => s
  | some t =>
    if t.phase == .aborting then s
    else
      let s := s.updJob x fun j => { j with
        steps := j.steps.map fun t => if n ≤ t.step then { t with phase := .aborting } else t
        aborts := satN 16 (j.aborts + 1) }
      let s := s.updCtx x fun c => (c.resetHistory)
      let s := (s.rewriteCopies x).discardShadow x n
      let s := s.event x { kind := 0x0301, detail := mkWord [(0, 56, n), (56, 8, cause)] }
      let s := s.abortStreams x n
      let busy := (List.range 16).any fun sl => ((s.ctx x).slot sl).streams.any fun t => t.aborted
      if busy then s else s.updJob x fun j => { j with steps := j.steps.filter fun t => t.step < n }

/-- The lead aborts: ABORT to its children, the decision kept, and its own abort (R605, R614). -/
def State.leadAbort (s : State) (x n cause : Nat) : State :=
  let j := (s.ctx x).job
  match j.stepOf n with
  | none => s
  | some t =>
    if t.phase == .aborting || t.phase == .commitPending then s
    else
      let s := forL j.children (fun r s => s.jobMsg x (j.dnOf r) Msg.abort cause n 0) s
      let s := s.updJob x fun j => { j with decisions := ((n, 2) :: j.decisions).take 16 }
      s.abortStep x n cause

/-- The module fails a step (R603): STEP_FAIL to the lead, a breach also to every member that has received data of
the failed epoch; the lead aborts at once. A step already failed sends no second STEP_FAIL to the lead. BREACHES counts
each STEP_FAIL with cause BREACH that leaves (R658). -/
def State.failStep (s : State) (x n cause epoch : Nat) : State :=
  let j := (s.ctx x).job
  match j.stepOf n with
  | none => s
  | some t =>
    if !j.member || t.failed.isSome || t.phase == .aborting || t.phase == .commitPending then s
    else
      let out := (j.receivers epoch).filter fun d => d ≠ s.fabric.dn
      let breach := !out.isEmpty
      let own := if cause = CauseOf.local_ && breach then CauseOf.breach else cause
      let s := s.updJob x fun j => { (j.updStep n fun t => { t with failed := some own }) with
        breaches := satN 16 (j.breaches + out.length + b2n (own = CauseOf.breach && !j.isLead)) }
      let s := if breach then forL out (fun d s => s.jobMsg x d Msg.stepFail CauseOf.breach n epoch) s else s
      if j.isLead then s.leadAbort x n own
      else (s.jobMsg x (j.dnOf j.lead) Msg.stepFail own n epoch).abortStep x n own

/-- Every step in progress that holds the epoch fails. -/
def State.failEpoch (s : State) (x cause epoch : Nat) : State :=
  forL ((s.ctx x).job.stepsOfEpoch epoch) (fun t s => s.failStep x t.step cause epoch) s

/-- A check failed on work that the context began in epoch `from_`: none of the epochs in which the work has run is ever
sealed, and their steps fail with LOCAL, or BREACH when data has left (R185, R238, R603). -/
def State.checkFailed (s : State) (x from_ : Nat) : State :=
  forL (s.epochsSince from_) (fun n s => s.failEpoch x CauseOf.local_ n) (s.taintFrom x from_)

/-! ### Seals (R597 to R602) -/

/-- A packet of the context's job came from another member: its entry joins the ledger of the present epoch; a full
ledger fails the step (R597, R602). -/
def State.ledgerAdd (s : State) (x src epoch : Nat) : State :=
  let j := (s.ctx x).job
  if (j.rankOfDn src).isNone || src = s.fabric.dn then s
  else
    let n : Nat := j.epochs.foldl (fun k e => k + e.ledger.length) 0
    if (j.epoch s.now).ledger.contains (src, epoch) then s
    else if 16384 ≤ n then s.failEpoch x CauseOf.ledgerFull s.now
    else s.updJob x fun j => j.updEpoch s.now fun e => { e with ledger := e.ledger ++ [(src, epoch)] }

/-- The context sent data to a member in the present epoch (R599); when its step has already failed, the receiver is
told of the breach as the data leaves (R603). -/
def State.dataLeft (s : State) (x dn : Nat) : State :=
  let s := s.updJob x fun j => j.updEpoch s.now fun e => { e with sentTo := if e.sentTo.contains dn then e.sentTo else e.sentTo ++ [dn] }
  let j := (s.ctx x).job
  match (j.stepsOfEpoch s.now).find? fun t => t.failed.isSome with
  | some t => if j.member && dn ≠ s.fabric.dn then
      (s.jobMsg x dn Msg.stepFail CauseOf.breach t.step s.now).updJob x fun j => { j with breaches := satN 16 (j.breaches + 1) }
      else s
  | none => s

/-- SEAL (R597, R599): clears the sender's entry; one with no entry is discarded. -/
def execSeal (m : CommitMsg) (s : State) : Host.Outcome State Fault Refusal :=
  if s.isEarly m.epoch then .next (s.holdEarly (.msg Msg.seal_ m)) else
  let s := s.tookMsg m Msg.seal_
  if s.shuns m.src then .next s else
  match s.ctxOfJob m.job with
  | none => .next s
  | some x => .next (s.updJob x fun j => { j with
      epochs := j.epochs.map fun e => { e with ledger := e.ledger.filter fun p => p ≠ (m.src, m.arg.toNat) } })

/-- The conditions of R598 for an epoch. -/
def Job.maySeal (j : Job) (now n : Nat) : Bool :=
  let e := j.epoch n
  n < now && !e.dirty && e.unchecked = 0 && e.ledger.isEmpty && !e.sealed_

/-- A module seals an epoch: SEAL goes once to each member it sent data to in it (R598, R599). -/
def execEpochSeal (ctx epoch : Nat) (s : State) : Host.Outcome State Fault Refusal :=
  let j := (s.ctx ctx).job
  if !j.member || j.replay.isSome || !j.maySeal s.now epoch then .next s
  else
    let s := forL (j.epoch epoch).sentTo (fun d s => s.jobMsg ctx d Msg.seal_ 0 0 epoch) s
    .next (s.updJob ctx fun j => j.updEpoch epoch fun e => { e with sealed_ := true })

/-- At boundary n + 4 an own epoch not sealed for a reason inside the module fails the step (R601). -/
def execSealLate (ctx epoch : Nat) (s : State) : Host.Outcome State Fault Refusal :=
  let e := (s.ctx ctx).job.epoch epoch
  if epoch + 4 ≤ s.now && !e.sealed_ && (e.dirty || e.unchecked ≠ 0) then .next (s.failEpoch ctx CauseOf.sealLate epoch) else .next s

/-- At boundary e + 4 a ledger entry still unsealed fails the step (R601). -/
def execSealMissing (ctx src epoch : Nat) (s : State) : Host.Outcome State Fault Refusal :=
  match (s.ctx ctx).job.epochs.find? fun e => e.ledger.contains (src, epoch) with
  | some e => if epoch + 4 ≤ s.now then .next (s.failEpoch ctx CauseOf.sealMissing e.n) else .next s
  | none => .next s

/-! ### Step failure and abort messages -/

/-- STEP_FAIL (R604, R605): the lead aborts a step it has not committed; a member that a breach reaches for an epoch
in its ledger fails the step at once with SEAL_MISSING. -/
def execStepFail (m : CommitMsg) (s : State) : Host.Outcome State Fault Refusal :=
  if s.isEarly m.epoch then .next (s.holdEarly (.msg Msg.stepFail m)) else
  let s := s.tookMsg m Msg.stepFail
  if s.shuns m.src then .next s else
  match s.ctxOfJob m.job with
  | none => .next s
  | some x =>
    let s := if m.cause = CauseOf.breach then s.updJob x fun j => { j with breaches := satN 16 (j.breaches + 1) } else s
    let j := (s.ctx x).job
    if j.isLead then .next (s.leadAbort x m.step m.cause)
    else if m.cause = CauseOf.breach then
      (match j.epochs.find? fun e => e.ledger.contains (m.src, m.arg.toNat) with
        | some e => .next (s.failEpoch x CauseOf.sealMissing e.n)
        | none => .next s)
    else .next s

/-- An ABORT goes on to the children, and is acted on (R605 to R607). -/
def State.takeAbort (s : State) (x step cause : Nat) : State :=
  let j := (s.ctx x).job
  (forL j.children (fun r s => s.jobMsg x (j.dnOf r) Msg.abort cause step 0) s).abortStep x step cause

/-- ABORT (R605 to R607). -/
def execAbort (m : CommitMsg) (s : State) : Host.Outcome State Fault Refusal :=
  if s.isEarly m.epoch then .next (s.holdEarly (.msg Msg.abort m)) else
  let s := s.tookMsg m Msg.abort
  if s.shuns m.src then .next s else
  match s.ctxOfJob m.job with
  | none => .next s
  | some x => .next (s.takeAbort x m.step m.cause)

/-! ### Two-phase commit (R608 to R614) -/

/-- Every epoch of the step is sealed (R608). -/
def Job.stepSealed (j : Job) (t : StepSt) : Bool :=
  match t.lastEpoch with
  | none => false
  | some l => (List.range (l + 1 - t.firstEpoch)).all fun i => (j.epoch (t.firstEpoch + i)).sealed_

/-- The module is ready for the step (R608, R644). -/
def State.ready (s : State) (x : Nat) (t : StepSt) : Bool :=
  let j := (s.ctx x).job
  t.streamOk && j.stepSealed t && (t.prepared || !t.hasUpdate) && (t.mirrorDone || j.stride = 0) &&
    !s.steep.lostStands && t.failed.isNone && j.mirror.repairDue.isEmpty

/-- Ranks that the children's READY cover, with the module's own. -/
def StepSt.covered (t : StepSt) : Nat := 1 + t.readyFrom.foldl (fun n p => n + p.2) 0

/-- READY has come from every child. -/
def Job.childrenReady (j : Job) (t : StepSt) : Bool := j.children.all fun r => t.readyFrom.any fun p => p.1 == r

/-- The lead commits a step (R610, R612): COMMIT to every child, and its own application at the next boundary. -/
def State.leadCommit (s : State) (x : Nat) (t : StepSt) : State :=
  let j := (s.ctx x).job
  let jver := match j.staged with | some g => if g.atStep = t.step && g.atCount = 0 then g.jver else j.jver | none => j.jver
  let s := forL j.children (fun r s => s.jobMsg x (j.dnOf r) Msg.commit 0 t.step jver) s
  s.updJob x fun j => { (j.updStep t.step fun t => { t with phase := .commitPending }) with
    commitDue := some (t.step, jver, s.now), received := j.received + 1, forwarded := j.forwarded + 1,
    decisions := ((t.step, 1) :: j.decisions).take 16 }

/-- The lead commits when it is ready itself and its children's READY cover every live member (R610). -/
def State.tryLead (s : State) (x n : Nat) : State :=
  let j := (s.ctx x).job
  match j.stepOf n with
  | none => s
  | some t =>
    if j.isLead && t.phase == .running && s.ready x t && j.childrenReady t && t.covered = j.live.length then s.leadCommit x t
    else if j.isLead && t.phase == .running && s.ready x t && t.readySteep.isNone then
      s.updJob x fun j => j.updStep n fun t => { t with readySteep := some s.now }
    else s

/-- READY_SEND (R608, R609): when the oldest step is ready and every child has sent READY, READY goes to the
parent; at the lead the step commits when every live member is covered. -/
def execReadySend (ctx : Nat) (s : State) : Host.Outcome State Fault Refusal :=
  let j := (s.ctx ctx).job
  match j.steps with
  | [] => .next s
  | t :: _ =>
    if !j.member || j.replay.isSome || t.phase != .running || !s.ready ctx t then .next s
    else match j.parent with
      | none => .next (s.tryLead ctx t.step)
      | some p =>
        if !j.childrenReady t then .next s
        else .next ((s.jobMsg ctx (j.dnOf p) Msg.ready 0 t.step t.covered).updJob ctx fun j =>
          j.updStep t.step fun t => { t with phase := .readySent, readySteep := some s.now })

/-- READY (R609, R610) from a child; at the lead, full coverage commits the step. -/
def execReady (m : CommitMsg) (s : State) : Host.Outcome State Fault Refusal :=
  if s.isEarly m.epoch then .next (s.holdEarly (.msg Msg.ready m)) else
  let s := s.tookMsg m Msg.ready
  if s.shuns m.src then .next s else
  match s.ctxOfJob m.job with
  | none => .next s
  | some x =>
    if !((s.ctx x).job.children.contains m.rank) then .next s
    else
      let s := s.updJob x fun j => j.updStep m.step fun t => { t with
        readyFrom := (t.readyFrom.filter fun p => p.1 ≠ m.rank) ++ [(m.rank, m.arg.toNat)] }
      .next (s.tryLead x m.step)

/-- Takes a COMMIT for a step whose READY has left: it is forwarded and staged for the next boundary (R610, R612).
One for another step only counts in RECEIVED (R613). -/
def State.takeCommit (s : State) (x step jver : Nat) : State :=
  let j := (s.ctx x).job
  match j.stepOf step with
  | some t =>
    if t.phase == .readySent then
      let s := forL j.children (fun r s => s.jobMsg x (j.dnOf r) Msg.commit 0 step jver) s
      s.updJob x fun j => { (j.updStep step fun t => { t with phase := .commitPending }) with
        commitDue := some (step, jver, s.now), received := j.received + 1, forwarded := j.forwarded + 1,
        decisions := ((step, 1) :: j.decisions).take 16 }
    else s.updJob x fun j => { j with received := j.received + 1 }
  | none => s.updJob x fun j => { j with received := j.received + 1 }

/-- COMMIT (R610, R612, R613). -/
def execCommit (m : CommitMsg) (s : State) : Host.Outcome State Fault Refusal :=
  if s.isEarly m.epoch then .next (s.holdEarly (.msg Msg.commit m)) else
  let s := s.tookMsg m Msg.commit
  if s.shuns m.src then .next s else
  match s.ctxOfJob m.job with
  | none => .next s
  | some x => .next (s.takeCommit x m.step m.arg.toNat)

/-- QUERY (R614, R615): the lead answers with its decision of the step, 0 when it keeps none; a member answers a new
lead with 1 when it has received COMMIT for the step. -/
def execQuery (m : CommitMsg) (s : State) : Host.Outcome State Fault Refusal :=
  if s.isEarly m.epoch then .next (s.holdEarly (.msg Msg.query m)) else
  let s := s.tookMsg m Msg.query
  if s.shuns m.src then .next s else
  match s.ctxOfJob m.job with
  | none => .next s
  | some x =>
    let j := (s.ctx x).job
    let has : Bool := j.committed = m.step || (match j.stepOf m.step with | some t => t.phase == .commitPending | none => false)
    let a := if j.isLead then ((j.decisions.find? fun d => d.1 == m.step).map (·.2)).getD 0 else b2n has
    if !j.isLead && j.parent == some m.rank then
      let s := forL j.children (fun r s => s.jobMsg x (j.dnOf r) Msg.query 0 m.step 0) s
      .next (s.jobMsg x (j.dnOf j.lead) Msg.decision 0 m.step a)
    else .next (s.jobMsg x m.src Msg.decision 0 m.step a)

/-- A new lead that has every answer commits when one of them is 1, else aborts with MEMBER_LOST (R615). -/
def State.settleTakeover (s : State) (x : Nat) (step : Nat) (committed : Bool) : State :=
  let j := (s.ctx x).job
  match j.takeover with
  | none => s
  | some waiting =>
    let s := if committed then
        (match j.stepOf step with
          | some t => (s.updJob x fun j => { j with takeover := none }).leadCommit x t
          | none => s.updJob x fun j => { j with takeover := none })
      else s
    if !committed && waiting.isEmpty then (s.updJob x fun j => { j with takeover := none }).leadAbort x step CauseOf.memberLost
    else s

/-- DECISION (R614, R615): 1 acts as COMMIT, 2 as ABORT, 0 leads to another query at each boundary. DESIGN CHOICE (log 89): a
DECISION names no cause (R594), and the abort that it brings has the cause MEMBER_LOST. -/
def execDecision (m : CommitMsg) (s : State) : Host.Outcome State Fault Refusal :=
  if s.isEarly m.epoch then .next (s.holdEarly (.msg Msg.decision m)) else
  let s := s.tookMsg m Msg.decision
  if s.shuns m.src then .next s else
  match s.ctxOfJob m.job with
  | none => .next s
  | some x =>
    let j := (s.ctx x).job
    match j.takeover with
    | some waiting =>
      let s := s.updJob x fun j => { j with takeover := some (waiting.filter fun r => r ≠ m.rank) }
      .next (s.settleTakeover x m.step (decide (m.arg = 1#64)))
    | none =>
      if m.arg = 1#64 then
        (match j.stepOf m.step with
          | some t => if t.phase == .readySent then .next (s.takeCommit x m.step j.jver) else .next s
          | none => .next s)
      else if m.arg = 2#64 then .next (s.takeAbort x m.step CauseOf.memberLost)
      else .next s

/-- MIRROR_DONE from the buddy (R608, R640). -/
def execMirrorDone (m : CommitMsg) (s : State) : Host.Outcome State Fault Refusal :=
  if s.isEarly m.epoch then .next (s.holdEarly (.msg Msg.mirrorDone m)) else
  let s := s.tookMsg m Msg.mirrorDone
  if s.shuns m.src then .next s else
  match s.ctxOfJob m.job with
  | none => .next s
  | some x =>
    let j := (s.ctx x).job
    if (j.buddy.map j.dnOf) == some m.src then
      .next (s.updJob x fun j => { (j.updStep m.step fun t => { t with mirrorDone := true }) with
        mirror := { j.mirror with fullDue := false, resend := [] } })
    else .next s

/-- QUERY_TIMEOUT (R614): 4 steeps after READY without a decision, and again at each boundary, QUERY to the lead. -/
def execQueryTimeout (ctx : Nat) (s : State) : Host.Outcome State Fault Refusal :=
  let j := (s.ctx ctx).job
  match j.steps.find? fun t => t.phase == .readySent with
  | none => .next s
  | some t =>
    let due := match t.readySteep, t.querySteep with
      | some r, none => r + 4 ≤ s.now
      | some _, some q => q < s.now
      | none, _ => false
    if !due then .next s
    else .next ((s.jobMsg ctx (j.dnOf j.lead) Msg.query 0 t.step 0).updJob ctx fun j =>
      { (j.updStep t.step fun t => { t with querySteep := some s.now }) with queries := satN 16 (j.queries + 1) })

/-- COMMIT_TIMEOUT (R618): a lead ready for COMMIT_WAIT steeps without READY from every member aborts the step. -/
def execCommitTimeout (ctx : Nat) (s : State) : Host.Outcome State Fault Refusal :=
  let j := (s.ctx ctx).job
  match j.steps with
  | [] => .next s
  | t :: _ =>
    match t.readySteep with
    | some r => if j.isLead && t.phase == .running && r + j.commitWait ≤ s.now then .next (s.leadAbort ctx t.step CauseOf.commitTimeout) else .next s
    | none => .next s

/-! ### Packets between the mirror engines (R638 to R644) -/

/-- Puts the state of a mirror packet into its first word: the step's low 16 bits above an own-half address, or above a
marker that no address equals. The words of these packets are the model's own. -/
def mirrorWord (step addr : Nat) : W64 := mkWord [(0, 48, addr), (48, 16, step)]

/-! Markers of mirror packets that hold no granule of the step: its metadata; a granule found stale, asked for again
(R643); a granule with a COMMITTED_UE, asked for from the buddy (R644); and the buddy's answer. -/
namespace MirrorMark
def metadata : Nat := 0xFFFFFFFFFFFF
def stale : Nat := 0xFFFFFFFFFFFE
def repair : Nat := 0xFFFFFFFFFFFD
def answer : Nat := 0xFFFFFFFFFFFC
end MirrorMark

/-- The DN of the context's buddy, while the context is a member with one (R592). -/
def Job.buddyDn (j : Job) : Option Nat := if j.member then j.buddy.map j.dnOf else none

/-- The DN of the member whose mirror this module holds (R592). -/
def Job.sourceDn (j : Job) : Option Nat := if j.member then j.mirrorSource.map j.dnOf else none

/-- A mirror packet to a DN, when there is one. -/
def State.toMirror (s : State) (x : Nat) (dn : Option Nat) (ws : List W64) : State := match dn with
  | some d => s.injectDn 0x04 5 d (some x) 0 ws
  | none => s

end Sys2Proof.Machine
end

