-- ==== Sys2Proof/Machine/Election.lean ====
section
/-! DEFINITION. Machine/Election.lean: the choice of the time master and its deputy (R50). -/
namespace Sys2Proof.Machine

/-- A path lies before another (R50): compared hop by hop. -/
def pathLt : List Nat → List Nat → Bool
  | a :: as, b :: bs => a < b || (a = b && pathLt as bs)
  | [], _ :: _ => true
  | _, [] => false

/-- The module with the lowest path. -/
def lowest (ms : List (Nat × List Nat)) : Option (Nat × List Nat) :=
  match ms with
  | [] => none
  | m :: rest => some (rest.foldl (fun a b => if pathLt b.2 a.2 then b else a) m)

/-- The choice of R50 among modules, of which those with 1PPS enabled come first. -/
def chooseMaster (pps : List Nat) (ms : List (Nat × List Nat)) : Option (Nat × List Nat) :=
  match lowest (ms.filter fun m => pps.contains m.1) with
  | some m => some m
  | none => lowest ms

/-- The choice of R50 in the domain as this module knows it, with one module left out. -/
def State.chosen (s : State) (but : Option Nat) : Option Nat :=
  let ms := s.members.modules.filter fun m => !(s.members.expelled.contains m.1) && some m.1 != but
  let pps := (if s.host.ppsEn then [s.fabric.dn] else []) ++ s.members.ppsModules
  (chooseMaster pps ms).map (·.1)

/-- Chooses the deputy again (R50): the module that would be chosen with the master left out. DESIGN CHOICE (log 77): R50 names
no deputy of a domain that holds a single module; the model names the master itself. -/
def State.deputise (s : State) : State :=
  let m := s.steep.masterDn
  { s with steep := { s.steep with deputyDn := (s.chosen (some m)).getD m } }

/-- Chooses the time master and the deputy again (R50). -/
def State.elect (s : State) : State :=
  match s.chosen none with
  | none => s
  | some m =>
    ({ s with steep := { s.steep with
      masterDn := m, master := decide (m = s.fabric.dn) && s.fabric.dnValid
      masterSince := if m = s.steep.masterDn then s.steep.masterSince else s.now } } : State).deputise

/-- A module has left the domain: a new master is chosen when it was the master (R50). -/
def State.leftDomain (s : State) (dn : Nat) : State := if s.steep.masterDn = dn then s.elect else s.deputise

/-- What a neighbour's heartbeat of steep `count` shows of 1PPS in the domain (R50, R624): a MASTER_DN that is not the module with
the lowest path has 1PPS enabled; and a neighbour that still names the lowest path two steeps after this module chose another,
because of the other's 1PPS, has heard so, and the lowest path has 1PPS as well. -/
def State.heardMaster (s : State) (dn count : Nat) : State :=
  let ms := s.members.modules.filter fun m => !(s.members.expelled.contains m.1)
  let low := (lowest ms).map fun m => m.1
  let shows := low != some dn || (s.steep.masterDn ≠ dn && s.steep.masterSince + 2 ≤ count)
  if dn = s.fabric.dn || !(ms.any fun m => m.1 == dn) || !shows || s.members.ppsModules.contains dn then s
  else ({ s with members := { s.members with ppsModules := s.members.ppsModules ++ [dn] } }).elect

end Sys2Proof.Machine
end

