-- ==== Sys2Proof/Machine/Membership.lean ====
section
/-! DEFINITION. Machine/Membership.lean: heartbeats, votes, expulsion and the health score (R624 to R637). -/
namespace Sys2Proof.Machine

def State.beat (s : State) (n : Nat) : LinkBeat := s.members.beats.get {} n
def State.setBeat (s : State) (n : Nat) (b : LinkBeat) : State :=
  { s with members := { s.members with beats := s.members.beats.set n b } }

/-- This module keeps the tally and the budget (R625, R658): it is the time master. -/
def State.isMaster (s : State) : Bool := s.steep.masterDn == s.fabric.dn

/-- The argument word of an EXPEL (R595). -/
def expelArg (dn reason mver : Nat) : W64 := mkWord [(0, 16, dn), (16, 4, reason), (32, 32, mver)]

/-- Sends EXPEL down the timing tree and to the deputy, and takes it itself (R626, R628). -/
def State.expel (s : State) (dn reason : Nat) : State :=
  let m := s.members
  let mver := (m.mver + 1) % 2 ^ 32
  let e : Expel := { dn := dn, reason := reason, mver := mver, at_ := s.now }
  let s := { s with members := { m with
    mver := mver, pendingExpels := m.pendingExpels ++ [e], sentExpels := m.sentExpels ++ [e],
    votes := m.votes.filter fun (v : Vote) => decide (v.target ≠ dn) } }
  let toward := (m.treeChildren.map fun l => (s.link l).nbDn) ++ (if s.steep.deputyDn = s.fabric.dn then [] else [s.steep.deputyDn])
  forL toward.eraseDups (fun d s => s.domainMsg d Msg.expel (expelArg dn reason mver)) s

/-- The tally takes a vote; more than half of the target's links lost expels it (R626, R627). -/
def State.tally (s : State) (voter target lost : Nat) : State :=
  let m := s.members
  let votes := m.votes.filter fun v => !(v.voter == voter && v.target == target)
  let votes := if lost = 0 then votes else votes ++ [{ voter := voter, target := target, lost := lost }]
  let s := { s with members := { m with votes := votes } }
  let sum : Nat := (votes.filter fun v => v.target == target).foldl (fun n v => n + v.lost) 0
  let gone := m.expelled.contains target || m.pendingExpels.any fun e => e.dn == target
  if !gone && m.lastLinks.get 0 target < 2 * sum then s.expel target 1 else s

/-- Sends a VOTE to the master, or to the deputy about the master; a vote to itself is tallied at once (R625). -/
def State.vote (s : State) (target lost : Nat) : State :=
  let toward := if target = s.steep.masterDn then s.steep.deputyDn else s.steep.masterDn
  if toward = s.fabric.dn then s.tally s.fabric.dn target lost
  else s.domainMsg toward Msg.vote (mkWord [(0, 16, target), (16, 6, lost)])

/-- Silent links to a neighbour (R625). -/
def State.silentLinks (s : State) (dn : Nat) : Nat :=
  ((List.range 48).filter fun l => (s.beat l).silent && (s.beat l).dn == dn).length

/-- A heartbeat of an earlier steep that comes after step 2 of the boundary at which it has been counted as missed (R55, R625).
Only in a domain do the counters of two modules agree. -/
def State.lateBeat (s : State) (b : Beat) : Bool :=
  (s.steep.joined || s.steep.master) && (b.count + 1 < s.now || (b.count + 1 = s.now && 1000 ≤ s.steep.phase))

/-- A heartbeat frame (R624, R625, R627, R629). A link that was silent speaks again: its voter takes its vote back. A late
heartbeat stays counted as missed. An MVER above the module's own is answered with MEMBER_SYNC. -/
def execHeartbeat (link : Nat) (b : Beat) (s : State) : Host.Outcome State Fault Refusal :=
  if 48 ≤ link then .next s
  else if b.count = s.now + 1 then .next (s.holdEarly (.beat link b))
  else
    let old := s.beat link
    let late := s.lateBeat b
    let s := s.setBeat link (if late then { old with dn := b.dn, links := b.links, mver := b.mver }
      else { at_ := s.now, missed := 0, silent := false, dn := b.dn, links := b.links, mver := b.mver })
    let s := { s with members := { s.members with lastLinks := s.members.lastLinks.set b.dn b.links } }
    let s := (if old.silent && !late then s.vote b.dn 0 else s).heardMaster b.masterDn b.count
    if s.members.mver < b.mver && !s.isMaster then
      .next (s.domainMsg s.steep.masterDn Msg.memberSync (mkWord [(32, 32, s.members.mver)]))
    else .next s

/-- HEARTBEAT_MISSED (R625, R630): a heartbeat that has not come by step 2 of the boundary is counted once; at 3 in
a row the link is silent, and VOTE leaves at that and every later boundary. A link that has lost its lock brings no heartbeats
either, while it is known whose it is. A FAR link counts in nothing (R546). -/
def execHeartbeatMissed (link : Nat) (s : State) : Host.Outcome State Fault Refusal :=
  let b := s.beat link
  let l := s.link link
  let counts := l.state == .trained || (l.nbDnValid && l.state != .far && !l.far.on)
  if 48 ≤ link || !counts || s.now - 1 - b.at_ ≤ b.missed || s.now ≤ b.counted then .next s
  else
    let b := { b with missed := b.missed + 1, counted := s.now, silent := decide (3 ≤ b.missed + 1), dn := (s.link link).nbDn }
    let s := s.setBeat link b
    if b.silent then .next (s.vote b.dn (s.silentLinks b.dn)) else .next s

/-- VOTE (R626). Only the module that keeps the tally, or the deputy about the master, takes it. -/
def execVote (m : CommitMsg) (s : State) : Host.Outcome State Fault Refusal :=
  if s.isEarly m.epoch then .next (s.holdEarly (.msg Msg.vote m)) else
  let s := s.tookMsg m Msg.vote
  if s.shuns m.src then .next s else
  let target := fld m.arg 15 0
  if s.isMaster || (s.steep.deputyDn == s.fabric.dn && target == s.steep.masterDn) then
    .next (s.tally m.src target (fld m.arg 21 16))
  else .next s

/-- EXPEL (R626, R628): forwarded down the timing tree and staged for the next boundary. -/
def execExpel (m : CommitMsg) (s : State) : Host.Outcome State Fault Refusal :=
  if s.isEarly m.epoch then .next (s.holdEarly (.msg Msg.expel m)) else
  let s := s.tookMsg m Msg.expel
  if s.shuns m.src then .next s else
  let e : Expel := { dn := fld m.arg 15 0, reason := fld m.arg 19 16, mver := fld m.arg 63 32, at_ := s.now }
  if s.members.pendingExpels.any (fun p => p.dn == e.dn) || s.members.expelled.contains e.dn then .next s
  else
    let s := { s with members := { s.members with pendingExpels := s.members.pendingExpels ++ [e] } }
    .next (forL (s.members.treeChildren.map fun l => (s.link l).nbDn).eraseDups (fun d s => s.domainMsg d Msg.expel m.arg) s)

/-- MEMBER_SYNC (R629): the master answers with the EXPEL messages the sender lacks. -/
def execMemberSync (m : CommitMsg) (s : State) : Host.Outcome State Fault Refusal :=
  if s.isEarly m.epoch then .next (s.holdEarly (.msg Msg.memberSync m)) else
  let s := s.tookMsg m Msg.memberSync
  if !s.isMaster then .next s
  else .next (forL (s.members.sentExpels.filter fun e => fld m.arg 63 32 < e.mver)
    (fun e s => s.domainMsg m.src Msg.expel (expelArg e.dn e.reason e.mver)) s)

/-! ### The health score (R632 to R637) -/

/-- Penalty of a quantity `per` each for what it lies below `floor`, at most `most`. -/
def shortfall (per floor most : Nat) (v : Int) : Nat := min most (per * ((floor : Int) - v).toNat)

/-- Least of a list, or `d` when it is empty. -/
def leastOr (d : Int) (l : List Int) : Int := l.foldl min d

/-- CE records of a unit's stream raised in the last hour (R632). -/
def State.ceHour (s : State) (u : UnitId) : Nat :=
  (s.faults.ceLog.filter fun e => s.seconds < e.2.1 + 3600 && underPath' u e.2.2).length
where underPath' (u : UnitId) (path : List Nat) : Bool := (hopsOf u).isPrefixOf path

/-- The penalties of R632, in the order of HEALTH_DETAIL from bit 8 up: voltage, timing, optical, CE, repair rows,
link replays, blend, each over the parts that the table names for the unit. -/
def State.penaltiesOf (s : State) (u : UnitId) : List Nat :=
  let regions : List Nat := match u with
    | .module => List.range 32
    | .die d => (List.range 4).map (4 * d + ·)
    | .region g => [g]
    | .cluster c => [c / 4]
    | .core k => [k / 16]
    | _ => []
  let links : List Nat := match u with
    | .module => List.range 48
    | .iod n => (List.range 24).map (24 * n + ·)
    | .link l => [l]
    | _ => []
  let gs := regions.filter fun g => (s.faults.marginG.find g).isSome
  let ls := links.filter fun l => (s.link l).state != .down && (s.faults.marginL.find l).isSome
  let rows := s.mem.repair.filter fun r => match u with
    | .module => true
    | .die d => r.1 == 2 * d || r.1 == 2 * d + 1
    | .caddy c => r.1 == 16 + 2 * c || r.1 == 17 + 2 * c
    | _ => false
  let blend : Nat := if u == .module then
    (if s.faults.blend.lastFailed then 128 else if 24 ≤ s.faults.blend.ageHours s.seconds then 8 else 0) else 0
  [ shortfall 2 30 60 (leastOr 30 (gs.map fun g => (s.marginG g).voltage)),
    shortfall 1 64 64 (leastOr 64 (gs.map fun g => ((s.marginG g).timing : Int))),
    shortfall 2 30 60 (leastOr 30 (ls.map fun l => (s.faults.marginL.get {} l).optical)),
    min 40 (s.ceHour u / 64), min 20 rows.length,
    min 32 (2 * (links.filter fun l => 64 < (s.link l).replays64).length), blend ]

/-- 255 less the penalties, limited to 0 to 255 (R632). -/
def scoreOf (ps : List Nat) : Nat := 255 - ps.foldl (· + ·) 0

/-- Forms the module's score: candidacy with its hysteresis of 16 points, and HEALTH_ASK while a candidate
(R632 to R635). -/
def State.formScore (s : State) : State :=
  let ps := s.penaltiesOf .module
  let sc := scoreOf ps
  let m := s.members
  let cand := if sc < m.threshold then true else if m.threshold + 16 ≤ sc then false else m.candidate
  let s := { s with members := { m with
    unscored := [], health := sc, penalties := ps, candidate := cand, watch := m.watch && decide (sc < m.threshold + 16) } }
  if cand then s.domainMsg s.steep.masterDn Msg.healthAsk (mkWord [(0, 16, s.fabric.dn), (16, 8, sc)]) else s

/-- HEALTH_SCORE_FORM (R633): at a boundary whose counter is a multiple of 64. The replay counts and margins of a
new window start. -/
def execHealthScoreForm (s : State) : Host.Outcome State Fault Refusal :=
  if s.now % 64 ≠ 0 then .next s
  else
    let s := s.formScore
    let g := s.faults.marginG.map fun (e : Nat × Margin) => (e.1, { e.2 with fresh := true })
    let l := s.faults.marginL.map fun (e : Nat × LinkMargin) => (e.1, { e.2 with fresh := true })
    .next { s with
      faults := { s.faults with marginG := g, marginL := l }
      fabric := { s.fabric with links := s.fabric.links.map fun e => (e.1, { e.2 with replays64 := 0 }) } }

/-- Health expulsions the master may still grant (R635). -/
def State.budgetLeft (s : State) : Nat :=
  let d := s.members.modules.length
  let used := (s.members.grants.filter fun t => s.seconds < t + 3600).length
  s.members.per256 * max 1 (d / 256) - used

/-- The master grants a candidate's expulsion (R636, R637). -/
def State.grant (s : State) (dn : Nat) : State :=
  let m := s.members
  let s := { s with members := { m with
    grants := m.grants ++ [s.seconds], watching := m.watching.filter fun (w : Nat × Nat) => decide (w.1 ≠ dn),
    grantsStanding := m.grantsStanding ++ [dn] } }
  s.domainMsg dn Msg.healthReply (mkWord [(0, 16, dn), (16, 1, 1)])

/-- HEALTH_ASK (R635, R636): a grant while the budget has room, else watch. -/
def execHealthAsk (m : CommitMsg) (s : State) : Host.Outcome State Fault Refusal :=
  if s.isEarly m.epoch then .next (s.holdEarly (.msg Msg.healthAsk m)) else
  let s := s.tookMsg m Msg.healthAsk
  if s.shuns m.src then .next s else
  let dn := fld m.arg 15 0
  if !s.isMaster || s.members.grantsStanding.contains dn then .next s
  else if 0 < s.budgetLeft then .next (s.grant dn)
  else
    let s := { s with members := { s.members with
      watching := (s.members.watching.filter fun (w : Nat × Nat) => decide (w.1 ≠ dn)) ++ [(dn, fld m.arg 23 16)] } }
    .next (s.domainMsg dn Msg.healthReply (mkWord [(0, 16, dn)]))

/-- HEALTH_REPLY (R636, R637): a grant makes the module leave at its next commit, with MEMBER_EXPELLING in each job
context; otherwise it sets WATCH and stays. -/
def execHealthReply (m : CommitMsg) (s : State) : Host.Outcome State Fault Refusal :=
  if s.isEarly m.epoch then .next (s.holdEarly (.msg Msg.healthReply m)) else
  let s := s.tookMsg m Msg.healthReply
  if s.shuns m.src then .next s else
  if fld m.arg 15 0 ≠ s.fabric.dn || !s.members.candidate then .next s
  else if bitAt m.arg 16 then
    let s := { s with members := { s.members with granted := true } }
    .next (forN 8 (fun x s =>
      let j := (s.ctx x).job
      if !j.member then s
      else
        let step := match j.steps with | t :: _ => t.step | [] => j.committed + 1
        s.event x { kind := 0x0303, detail := BitVec.ofNat 64 step }) s)
  else .next { s with members := { s.members with watch := true } }

/-- HEALTH_BUDGET_ROOM (R636): the watching candidate with the lowest score is granted, the lower DN on equal
scores. -/
def execHealthBudgetRoom (s : State) : Host.Outcome State Fault Refusal :=
  if !s.isMaster || s.budgetLeft = 0 then .next s
  else match s.members.watching with
    | [] => .next s
    | w :: ws =>
      let best := ws.foldl (fun b c => if c.2 < b.2 || (c.2 = b.2 && c.1 < b.1) then c else b) w
      .next (s.grant best.1)

end Sys2Proof.Machine
end

