-- ==== Sys2Proof/Machine/Num.lean ====
section
/-! DEFINITION. Machine/Num.lean: exact dyadic arithmetic and its rounding into a format (R79 to R82, R98, R105).
A finite value is a sign, a magnitude and a power of two. A result that is not a dyadic number (a quotient, a root,
an exponential) is carried far below the last place of every format with its last bit set, so that one rounding
of it is the correct rounding. -/
namespace Sys2Proof.Machine

/-- A value: NaN, an infinity, or `(−1)^neg × m × 2^e`; a zero keeps its sign (R82). -/
inductive Val where
  | nan
  | inf (neg : Bool)
  | fin (neg : Bool) (m : Nat) (e : Int)
deriving DecidableEq, Repr

/-- How a value becomes narrower: to nearest with ties to even (R98), or stochastically with the draw r (R105). -/
inductive Rnd where
  | nearest
  | stoch (r : Nat)
deriving DecidableEq, Repr

/-- `2 ^ i` for a signed exponent that is known not to be negative. -/
def p2 (i : Int) : Nat := 2 ^ i.toNat

/-- Exponent of the binade of `m × 2^e`, for `m` not 0. -/
def binade (m : Nat) (e : Int) : Int := e + (Nat.log2 m : Nat)

/-- `m × 2^e` in whole units of `2^q`, rounded. -/
def roundUnits (rnd : Rnd) (m : Nat) (e q : Int) : Nat :=
  if q ≤ e then m * p2 (e - q)
  else
    let d := p2 (q - e)
    let t := m / d
    let rem := m % d
    match rnd with
    | .nearest => if 2 * rem > d then t + 1 else if 2 * rem = d then (if t % 2 = 1 then t + 1 else t) else t
    | .stoch r => if rem * 65536 / d + r ≥ 65536 then t + 1 else t

/-- The special codes that a format has (R81). -/
inductive Specials where
  /-- every code is finite -/
  | none
  /-- FP8-F: only the all-ones codes are NaN -/
  | nanOnly
  /-- exponent all ones: infinity or NaN -/
  | ieee
deriving DecidableEq, Repr

/-- A floating-point format: exponent bits, fraction bits, bias, special codes (R79, R81). -/
structure Fmt where
  ebits : Nat
  mbits : Nat
  bias : Nat
  specials : Specials
deriving DecidableEq, Repr

namespace Fmts
def fp4 : Fmt := ⟨2, 1, 1, .none⟩
def fp6g : Fmt := ⟨3, 2, 3, .none⟩
def fp6f : Fmt := ⟨2, 3, 1, .none⟩
def fp8f : Fmt := ⟨4, 3, 7, .nanOnly⟩
def fp8g : Fmt := ⟨5, 2, 15, .ieee⟩
def bf16 : Fmt := ⟨8, 7, 127, .ieee⟩
def fp32 : Fmt := ⟨8, 23, 127, .ieee⟩
end Fmts

/-- Bits of a code. -/
def Fmt.bits (f : Fmt) : Nat := 1 + f.ebits + f.mbits

/-- Exponent of the unit in the last place of the smallest normal and of every subnormal. -/
def Fmt.qmin (f : Fmt) : Int := 1 - (f.bias : Int) - (f.mbits : Int)

/-- The magnitude code of the largest finite value (R79, R81). -/
def Fmt.maxCode (f : Fmt) : Nat :=
  match f.specials with
  | .none => 2 ^ (f.ebits + f.mbits) - 1
  | .nanOnly => 2 ^ (f.ebits + f.mbits) - 2
  | .ieee => (2 ^ f.ebits - 1) * 2 ^ f.mbits - 1

/-- The value of a code (R80, R81). -/
def Fmt.decode (f : Fmt) (code : Nat) : Val :=
  let mag := code % 2 ^ (f.ebits + f.mbits)
  let neg := Nat.testBit code (f.ebits + f.mbits)
  let ex := mag / 2 ^ f.mbits
  let fr := mag % 2 ^ f.mbits
  let special : Bool := match f.specials with
    | .none => false
    | .nanOnly => mag = 2 ^ (f.ebits + f.mbits) - 1
    | .ieee => ex = 2 ^ f.ebits - 1
  if special then
    (match f.specials with
      | .ieee => if fr = 0 then .inf neg else .nan
      | _ => .nan)
  else if ex = 0 then .fin neg fr f.qmin
  else .fin neg (2 ^ f.mbits + fr) (f.qmin + (ex : Int) - 1)

/-- The magnitude code that a rounded finite magnitude takes before any limit: codes of one format count its
finite values in rising order. -/
def Fmt.magCode (f : Fmt) (rnd : Rnd) (m : Nat) (e : Int) : Nat :=
  if m = 0 then 0
  else
    let q := max (binade m e - f.mbits) f.qmin
    let n := roundUnits rnd m e q
    (q - f.qmin).toNat * 2 ^ f.mbits + n

/-- The conditions of R99 and R101. -/
structure Flags where
  invalid : Bool := false
  divzero : Bool := false
  overflow : Bool := false
  underflow : Bool := false
  sat : Bool := false
  index : Bool := false
deriving DecidableEq, Repr

/-- Two conditions together. -/
def Flags.or (a b : Flags) : Flags :=
  ⟨a.invalid || b.invalid, a.divzero || b.divzero, a.overflow || b.overflow, a.underflow || b.underflow,
   a.sat || b.sat, a.index || b.index⟩

/-- The canonical NaN code of a format that has one (R99). -/
def Fmt.nanCode (f : Fmt) : Nat :=
  match f.specials with
  | .none => 0
  | .nanOnly => 2 ^ (f.ebits + f.mbits) - 1
  | .ieee => (2 ^ f.ebits - 1) * 2 ^ f.mbits + 2 ^ (f.mbits - 1)

/-- The sign bit of a code. -/
def Fmt.signBit (f : Fmt) (neg : Bool) : Nat := if neg then 2 ^ (f.ebits + f.mbits) else 0

/-- Conversion of a value to a code of a format that keeps infinities and NaN, with the conditions of R99 for
BF16 and FP32. -/
def Fmt.encodeIeee (f : Fmt) (rnd : Rnd) (v : Val) : Nat × Flags :=
  match v with
  | .nan => (f.nanCode, {})
  | .inf neg => (f.signBit neg + (f.maxCode + 1), {})
  | .fin neg m e =>
    if m = 0 then (f.signBit neg, {})
    else
      let c := f.magCode rnd m e
      if c > f.maxCode then (f.signBit neg + (f.maxCode + 1), { overflow := true })
      else if c = 0 then (f.signBit neg, { underflow := true })
      else (f.signBit neg + c, {})

/-- The order of two values that are not NaN: less than. -/
def Val.lt (a b : Val) : Bool :=
  match a, b with
  | .nan, _ => false
  | _, .nan => false
  | .inf x, .inf y => x && !y
  | .inf x, .fin .. => x
  | .fin .., .inf y => !y
  | .fin x m e, .fin y n f =>
    let q := min e f
    let u : Int := if x then -((m * p2 (e - q) : Nat) : Int) else ((m * p2 (e - q) : Nat) : Int)
    let v : Int := if y then -((n * p2 (f - q) : Nat) : Int) else ((n * p2 (f - q) : Nat) : Int)
    decide (u < v)

/-- A magnitude lies beyond the largest finite value of the format (R99). -/
def Fmt.beyond (f : Fmt) (m : Nat) (e : Int) : Bool := (f.decode f.maxCode).lt (.fin false m e)

/-- Conversion of a value to a code of a narrow block-scaled format, the value already divided by its scale
(R98, R99): a magnitude beyond the largest clamps with SAT, whether the value itself lies beyond or its stochastic rounding
(R105); FP8-G keeps infinities. A NaN gives the format's NaN
code; for FP4 and FP6 the caller makes the whole block a NaN block. -/
def Fmt.encodeSat (f : Fmt) (rnd : Rnd) (v : Val) : Nat × Flags :=
  match v with
  | .nan => (f.nanCode, {})
  | .inf neg => if f.specials = .ieee then (f.signBit neg + (f.maxCode + 1), {}) else (f.signBit neg + f.maxCode, { sat := true })
  | .fin neg m e =>
    if m = 0 then (f.signBit neg, {})
    else
      let c := f.magCode rnd m e
      if f.maxCode < c || f.beyond m e then (f.signBit neg + f.maxCode, { sat := true })
      else if c = 0 then (f.signBit neg, { underflow := true })
      else (f.signBit neg + c, {})

/-- Conversion to an n-bit two's-complement integer (R99, R100); the result is its signed value. -/
def encodeInt (n : Nat) (rnd : Rnd) (v : Val) : Int × Flags :=
  let hi : Int := (2 ^ (n - 1) : Nat) - 1
  let lo : Int := -(2 ^ (n - 1) : Nat)
  match v with
  | .nan => (0, { invalid := true })
  | .inf neg => (if neg then lo else hi, { invalid := true })
  | .fin neg m e =>
    let u : Int := (roundUnits rnd m e 0 : Nat)
    let x : Int := if neg then -u else u
    if x > hi then (hi, { sat := true }) else if x < lo then (lo, { sat := true }) else (x, {})

/-- A value times `2^k`, exactly (R90, R98). -/
def Val.scale (v : Val) (k : Int) : Val :=
  match v with
  | .fin neg m e => .fin neg m (e + k)
  | w => w

/-- Sign change. -/
def Val.neg : Val → Val
  | .nan => .nan
  | .inf n => .inf (!n)
  | .fin n m e => .fin (!n) m e

/-- Sum of signed units, as a sign and a magnitude. -/
def addUnits (na : Bool) (a : Nat) (nb : Bool) (b : Nat) : Bool × Nat :=
  if na = nb then (na, a + b) else if b ≤ a then (na, a - b) else (nb, b - a)

/-- Exact sum. Opposite infinities give NaN; a sum of zero is +0 unless both terms are −0 (IEEE 754, to nearest). -/
def Val.add (a b : Val) : Val :=
  match a, b with
  | .nan, _ => .nan
  | _, .nan => .nan
  | .inf x, .inf y => if x = y then .inf x else .nan
  | .inf x, _ => .inf x
  | _, .inf y => .inf y
  | .fin x m e, .fin y n f =>
    let q := min e f
    let r := addUnits x (m * p2 (e - q)) y (n * p2 (f - q))
    if r.2 = 0 then .fin (x && y && decide (m = 0)) 0 q else .fin r.1 r.2 q

/-- Exact product. Zero times infinity gives NaN. -/
def Val.mul (a b : Val) : Val :=
  match a, b with
  | .nan, _ => .nan
  | _, .nan => .nan
  | .inf x, .inf y => .inf (x != y)
  | .inf x, .fin y m _ => if m = 0 then .nan else .inf (x != y)
  | .fin x m _, .inf y => if m = 0 then .nan else .inf (x != y)
  | .fin x m e, .fin y n f => .fin (x != y) (m * n) (e + f)

/-- A zero value. -/
def Val.isZero : Val → Bool
  | .fin _ m _ => m = 0
  | _ => false
/-- A NaN. -/
def Val.isNan : Val → Bool
  | .nan => true
  | _ => false
/-- A finite value. -/
def Val.isFin : Val → Bool
  | .fin .. => true
  | _ => false

/-- Equality of values that are not NaN; the two zeros are equal. -/
def Val.eqv (a b : Val) : Bool := !a.isNan && !b.isNan && !(Val.lt a b) && !(Val.lt b a)

/-- Extra bits carried below every result that is not dyadic. -/
def extra : Nat := 320

/-- Quotient of finite values with a non-zero divisor, truncated far below the last place, the last bit set when
something was cut. -/
def Val.quot (x : Bool) (m : Nat) (e : Int) (y : Bool) (n : Nat) (f : Int) : Val :=
  let num := m * 2 ^ (extra + Nat.log2 n)
  let q := num / n
  let st := if num % n = 0 then 0 else 1
  .fin (x != y) (2 * q + st) (e - f - ((extra + Nat.log2 n : Nat) : Int) - 1)

/-- Integer square root by Newton's steps from above; `fuel` bounds the steps. -/
def isqrtLoop : Nat → Nat → Nat → Nat
  | 0, _, x => x
  | fuel + 1, n, x =>
    let y := (x + n / x) / 2
    if y < x then isqrtLoop fuel n y else x

/-- The largest whole number whose square is at most n. -/
def isqrt (n : Nat) : Nat := if n = 0 then 0 else isqrtLoop (Nat.log2 n + 8) n (2 ^ (Nat.log2 n / 2 + 1))

/-- Square root of a positive finite value. -/
def Val.sqrtPos (m : Nat) (e : Int) : Val :=
  let m' := if e % 2 = 0 then m else 2 * m
  let e' := if e % 2 = 0 then e else e - 1
  let n := m' * 2 ^ (2 * extra)
  let r := isqrt n
  .fin false (2 * r + (if r * r = n then 0 else 1)) (e' / 2 - (extra : Int) - 1)

/-- Reciprocal square root of a positive finite value: the root of the reciprocal, cut far below. -/
def Val.rsqrtPos (m : Nat) (e : Int) : Val :=
  let e' := if e % 2 = 0 then e else e - 1
  let m' := if e % 2 = 0 then m else 2 * m
  let num := 2 ^ (2 * (extra + Nat.log2 m'))
  let q := num / m'
  let r := isqrt q
  let exact : Bool := decide (num % m' = 0) && decide (r * r = q)
  .fin false (2 * r + (if exact then 0 else 1)) (-(e' / 2) - ((extra + Nat.log2 m' : Nat) : Int) - 1)

/-! ### Elementary functions in fixed point, `fx` bits below the point -/

/-- Bits below the point of the fixed-point work. -/
def fx : Nat := 400

/-- floor (ln 2 × 2^400). -/
def ln2fx : Nat := 1789879222497203190815761498240779176894896805856420935579692301363062920687047601279850318367644315849030039181347319086

/-- The series of the exponential: `term` is the present term; the sum of all later ones is added. -/
def expSeries : Nat → Nat → Nat → Nat → Nat
  | 0, _, _, _ => 0
  | fuel + 1, i, r, term => term + expSeries fuel (i + 1) r (term * r / 2 ^ fx / (i + 1))

/-- `e^(sign × u / 2^fx)` as a magnitude and a power of two, cut far below its last place: the argument is
brought into [0, ln 2) by whole multiples of ln 2. -/
def expFx (neg : Bool) (u : Nat) : Nat × Int :=
  let k0 := u / ln2fx
  let r0 := u % ln2fx
  let k : Int := if neg then (if r0 = 0 then -(k0 : Int) else -(k0 : Int) - 1) else (k0 : Int)
  let r := if neg then (if r0 = 0 then 0 else ln2fx - r0) else r0
  (expSeries 120 0 r (2 ^ fx), k - (fx : Int))

/-- A magnitude in fixed point, exact for every FP32 value; values at and above 512 are held at 512, beyond which
every function below has reached its limit in every format. -/
def toFx (m : Nat) (e : Int) : Nat :=
  if m = 0 then 0 else
  if binade m e ≥ 9 then 512 * 2 ^ fx else if e + fx ≥ 0 then m * p2 (e + fx) else m / p2 (-(e + fx))

/-- e^x of a finite value. -/
def Val.exp (x : Bool) (m : Nat) (e : Int) : Val :=
  if m = 0 then .fin false 1 0
  else
    let r := expFx x (toFx m e)
    .fin false (2 * r.1 + 1) (r.2 - 1)

/-- The series of the inverse hyperbolic tangent: `pow` is t to the present odd power. -/
def atanhSeries : Nat → Nat → Nat → Nat → Nat
  | 0, _, _, _ => 0
  | fuel + 1, i, t2, pow => pow / (2 * i + 1) + atanhSeries fuel (i + 1) t2 (pow * t2 / 2 ^ fx)

/-- ln of a positive finite value, from `ln z = 2 atanh ((z − 1) / (z + 1))` with z brought into [1, 2) and the
exponent added as a multiple of ln 2. -/
def Val.ln (m : Nat) (e : Int) : Val :=
  let k := binade m e
  let l := Nat.log2 m
  if m = 2 ^ l && k = 0 then .fin false 0 0
  else
    let z := m * 2 ^ fx / 2 ^ l
    let t := (z - 2 ^ fx) * 2 ^ fx / (z + 2 ^ fx)
    let lnz := 2 * atanhSeries 140 0 (t * t / 2 ^ fx) t
    let s : Int := (lnz : Int) + k * (ln2fx : Int)
    .fin (decide (s < 0)) (2 * s.natAbs + 1) (-(fx : Int) - 1)

/-- tanh of a finite non-zero value, from `(1 − e^(−2x)) / (1 + e^(−2x))`. -/
def Val.tanhPos (x : Bool) (m : Nat) (e : Int) : Val :=
  if m = 0 then .fin x 0 0
  else
    let r := expFx true (toFx m (e + 1))
    let p := if r.2 + fx ≥ 0 then r.1 * p2 (r.2 + fx) else r.1 / p2 (-(r.2 + fx))
    let one := 2 ^ fx
    if one ≤ p then .fin x m e
    else
      let q := (one - p) * 2 ^ fx / (one + p)
      .fin x (2 * q + 1) (-(fx : Int) - 1)

/-- The sigmoid of a finite value, `1 / (1 + e^(−x))`, formed from the exponential of −|x|. -/
def Val.sigmoid (x : Bool) (m : Nat) (e : Int) : Val :=
  if m = 0 then .fin false 1 (-1)
  else
    let r := expFx true (toFx m e)
    let p := if r.2 + fx ≥ 0 then r.1 * p2 (r.2 + fx) else r.1 / p2 (-(r.2 + fx))
    let one := 2 ^ fx
    let num := if x then p else one
    .fin false (2 * (num * 2 ^ fx / (one + p)) + 1) (-(fx : Int) - 1)

end Sys2Proof.Machine
end

