-- ==== Sys2Proof/Machine/Flags.lean ====
section
/-! DEFINITION. Machine/Flags.lean: arithmetic with its conditions, as the vector engine, the pour and the caddies use
it (R222, R234, R249, R265 to R271): each operation forms the exact result, rounds once, and names the flags. -/
namespace Sys2Proof.Machine

/-- A code of a format and the conditions that its forming raised. -/
abbrev Res := Nat × Flags

/-- Bits of VFLAGS (R249); bit 6 is MASKED_ROW, which only row operations raise. -/
def Flags.bits (f : Flags) : Nat :=
  b2n f.invalid + 2 * b2n f.divzero + 4 * b2n f.overflow + 8 * b2n f.underflow + 16 * b2n f.sat + 32 * b2n f.index

/-- The canonical FP32 NaN (R265). -/
def nan32 : W32 := 0x7FC00000#32

/-- The value of an FP32 pattern. -/
def v32 (w : W32) : Val := Fmts.fp32.decode w.toNat

/-- One rounding of an exact result; INVALID when a NaN came of operands that were none, OVERFLOW when all operands
were finite (R249, R265). -/
def roundTo (f : Fmt) (ins : List Val) (exact : Val) : Res :=
  let r := f.encodeIeee .nearest exact
  (r.1, { r.2 with
    invalid := exact.isNan && !(ins.any Val.isNan)
    overflow := r.2.overflow && ins.all Val.isFin })

def fadd (f : Fmt) (a b : Nat) : Res :=
  let x := f.decode a
  let y := f.decode b
  roundTo f [x, y] (x.add y)

def fsub (f : Fmt) (a b : Nat) : Res :=
  let x := f.decode a
  let y := f.decode b
  roundTo f [x, y] (x.add y.neg)

def fmul (f : Fmt) (a b : Nat) : Res :=
  let x := f.decode a
  let y := f.decode b
  roundTo f [x, y] (x.mul y)

/-- `a × b + c` with one rounding. -/
def ffma (f : Fmt) (a b c : Nat) : Res :=
  let x := f.decode a
  let y := f.decode b
  let z := f.decode c
  roundTo f [x, y, z] ((x.mul y).add z)

/-- Quotient of two values (R267). -/
def Val.div (a b : Val) : Val :=
  match a, b with
  | .nan, _ => .nan
  | _, .nan => .nan
  | .inf _, .inf _ => .nan
  | .inf x, .fin y _ _ => .inf (x != y)
  | .fin x _ _, .inf y => .fin (x != y) 0 0
  | .fin x m e, .fin y n f =>
    if n = 0 then (if m = 0 then .nan else .inf (x != y))
    else if m = 0 then .fin (x != y) 0 0
    else Val.quot x m e y n f

def fdiv (f : Fmt) (a b : Nat) : Res :=
  let x := f.decode a
  let y := f.decode b
  let r := roundTo f [x, y] (x.div y)
  (r.1, { r.2 with divzero := y.isZero && x.isFin && !x.isZero })

/-- Square root (R267). -/
def fsqrt (f : Fmt) (a : Nat) : Res :=
  match f.decode a with
  | .nan => (f.nanCode, {})
  | .inf neg => if neg then (f.nanCode, { invalid := true }) else (a, {})
  | .fin neg m e =>
    if m = 0 then (a, {})
    else if neg then (f.nanCode, { invalid := true })
    else roundTo f [.fin neg m e] (Val.sqrtPos m e)

/-- Reciprocal square root (R267). -/
def frsqrt (f : Fmt) (a : Nat) : Res :=
  match f.decode a with
  | .nan => (f.nanCode, {})
  | .inf neg => if neg then (f.nanCode, { invalid := true }) else (0, {})
  | .fin neg m e =>
    if m = 0 then (f.signBit neg + (f.maxCode + 1), { divzero := true })
    else if neg then (f.nanCode, { invalid := true })
    else roundTo f [.fin neg m e] (Val.rsqrtPos m e)

/-- `e^a` (R267). -/
def fexp (f : Fmt) (a : Nat) : Res :=
  match f.decode a with
  | .nan => (f.nanCode, {})
  | .inf neg => if neg then (0, {}) else (a, {})
  | .fin neg m e => roundTo f [.fin neg m e] (Val.exp neg m e)

/-- `ln a` (R267). -/
def fln (f : Fmt) (a : Nat) : Res :=
  match f.decode a with
  | .nan => (f.nanCode, {})
  | .inf neg => if neg then (f.nanCode, { invalid := true }) else (a, {})
  | .fin neg m e =>
    if m = 0 then (f.signBit true + (f.maxCode + 1), { divzero := true })
    else if neg then (f.nanCode, { invalid := true })
    else roundTo f [.fin neg m e] (Val.ln m e)

/-- The value 1. -/
def Val.one : Val := .fin false 1 0

/-- `tanh` of a value (R224, R267). -/
def Val.tanh (v : Val) : Val :=
  match v with
  | .nan => .nan
  | .inf neg => .fin neg 1 0
  | .fin neg m e => Val.tanhPos neg m e

/-- `1 / (1 + e^(−v))` (R224, R267). -/
def Val.sigm (v : Val) : Val :=
  match v with
  | .nan => .nan
  | .inf neg => if neg then .fin false 0 0 else .one
  | .fin neg m e => Val.sigmoid neg m e

/-- The FP32 pattern nearest to a value. -/
def near32 (v : Val) : W32 := BitVec.ofNat 32 (Fmts.fp32.encodeIeee .nearest v).1

def add32 (a b : W32) : W32 := near32 ((v32 a).add (v32 b))
def sub32 (a b : W32) : W32 := near32 ((v32 a).add (v32 b).neg)
def mul32 (a b : W32) : W32 := near32 ((v32 a).mul (v32 b))
def div32 (a b : W32) : W32 := near32 ((v32 a).div (v32 b))
/-- A count as FP32, rounded to nearest. -/
def count32 (n : Nat) : W32 := near32 (.fin false n 0)

/-- Adjacent elements of a level joined, a last one without a partner carried up (R234, R278). -/
def pairUp {α : Type} (f : α → α → α) : List α → List α
  | a :: b :: r => f a b :: pairUp f r
  | l => l

/-- Levels of the fixed tree, at most `fuel` of them. -/
def treeFold {α : Type} (f : α → α → α) : Nat → List α → List α
  | 0, l => l
  | fuel + 1, l => match l with
    | [] => []
    | [a] => [a]
    | l => treeFold f fuel (pairUp f l)

/-- Nodes of R278, where lanes may be absent: an absent child leaves the other's value. -/
def joinOpt {α : Type} (f : α → α → α) (a b : Option α) : Option α :=
  match a, b with
  | some x, some y => some (f x y)
  | some x, none => some x
  | none, some y => some y
  | none, none => none

/-- The tree of R278 over lanes, some of them absent. -/
def laneTree {α : Type} (f : α → α → α) (l : List (Option α)) : Option α :=
  match treeFold (joinOpt f) 8 l with
  | a :: _ => a
  | [] => none

/-! ### Integers (R268 to R271) -/

/-- The pattern of the low n bits of an integer. -/
def wrapInt (n : Nat) (v : Int) : Nat := sbits n v

/-- Clamped to the range of n bits, and whether it was (R269). -/
def satInt (n : Nat) (v : Int) : Nat × Bool :=
  let hi : Int := (2 ^ (n - 1) : Nat) - 1
  let lo : Int := -(2 ^ (n - 1) : Nat)
  if hi < v then (sbits n hi, true) else if v < lo then (sbits n lo, true) else (sbits n v, false)

/-- A quotient by `2^c`, rounded to nearest with ties to even (R271). -/
def shiftRound (v : Int) (c : Nat) : Int :=
  let u : Int := (roundUnits .nearest v.natAbs 0 c : Nat)
  if v < 0 then -u else u

end Sys2Proof.Machine
end

