-- ==== Sys2Proof/Machine/Formats.lean ====
section
/-! DEFINITION. Machine/Formats.lean: block scales, packing, scale selection, scale-history records and the draw of
stochastic rounding (R86 to R121). -/
namespace Sys2Proof.Machine

/-- The formats an operand or an output can have (R79, R84). -/
inductive Format where
  | fp4
  | fp6g
  | fp6f
  | fp8f
  | fp8g
  | bf16
  | fp32
  | int8
  | int16
  | int32
deriving DecidableEq, Repr

/-- The floating-point parameters of a format; integers have none. -/
def Format.fmt? : Format → Option Fmt
  | .fp4 => some Fmts.fp4
  | .fp6g => some Fmts.fp6g
  | .fp6f => some Fmts.fp6f
  | .fp8f => some Fmts.fp8f
  | .fp8g => some Fmts.fp8g
  | .bf16 => some Fmts.bf16
  | .fp32 => some Fmts.fp32
  | .int8 => none
  | .int16 => none
  | .int32 => none

/-- Bits of one element. -/
def Format.bits : Format → Nat
  | .fp4 => 4
  | .fp6g => 6
  | .fp6f => 6
  | .fp8f => 8
  | .fp8g => 8
  | .bf16 => 16
  | .fp32 => 32
  | .int8 => 8
  | .int16 => 16
  | .int32 => 32

/-- Formats that carry a BS8 for each 32 elements of a matrix operand (R91). -/
def Format.scaled : Format → Bool
  | .fp4 => true
  | .fp6g => true
  | .fp6f => true
  | .fp8f => true
  | .fp8g => true
  | _ => false

/-- The value of one element's code (R80, R81, R84). -/
def Format.value (f : Format) (code : Nat) : Val :=
  match f.fmt? with
  | some p => p.decode code
  | none =>
    let v := signed f.bits code
    .fin (decide (v < 0)) v.natAbs 0

/-- The value of a code under the scale byte of its block (R89, R90). -/
def Format.scaledValue (f : Format) (bs8 code : Nat) : Val :=
  if bs8 = 0xFF then .nan else (f.value code).scale ((bs8 : Int) - 127)

/-- The codes of a run of elements, packed from bit 0 upward in a little-endian run of words (R93). -/
def unpackAt (bits i : Nat) (ws : List W64) : Nat :=
  let p := bits * i
  let w0 := (ws.getD (p / 64) 0#64).toNat
  let w1 := (ws.getD (p / 64 + 1) 0#64).toNat
  ((w0 + w1 * 2 ^ 64) / 2 ^ (p % 64)) % 2 ^ bits

/-- A list of codes as one number, element 0 lowest. -/
def packNat (bits : Nat) : List Nat → Nat
  | [] => 0
  | c :: cs => c % 2 ^ bits + 2 ^ bits * packNat bits cs

/-- The words that a list of codes packs into (R93). -/
def packWords (bits : Nat) (cs : List Nat) : List W64 :=
  let v := packNat bits cs
  (List.range (cdiv (bits * cs.length) 64)).map fun i => BitVec.ofNat 64 (v / 2 ^ (64 * i))

/-- The gradient formats that pair with a forward format; `weight` names weight-gradient tensors (R86). -/
def gradPermitted (fwd : Format) (weight : Bool) (g : Format) : Bool :=
  match fwd with
  | .fp4 => g = .fp6g || g = .bf16 || (weight && g = .fp32)
  | .fp6f => g = .fp6g || g = .bf16 || (weight && g = .fp32)
  | .fp8f => g = .fp8g || g = .bf16 || (weight && g = .fp32)
  | .bf16 => g = .bf16 || (weight && g = .fp32)
  | _ => false

/-- The operand pairs of one array product (R88, R133). -/
def pairPermitted (a b : Format) : Bool :=
  let mixed (x y : Format) : Bool := (x = .fp4 && y = .fp6g) || (x = .fp6f && y = .fp6g) || (x = .fp8f && y = .fp8g)
  (a = b && (a.scaled || a = .bf16 || a = .fp32 || a = .int8)) || mixed a b || mixed b a

/-! ### Scale selection (R110, R111, R114 to R119) -/

/-- The largest magnitude among the finite values of a block. -/
def blockMax (vs : List Val) : Val :=
  vs.foldl (fun a v => match v with
    | .fin _ m e => if a.lt (.fin false m e) then .fin false m e else a
    | _ => a) (.fin false 0 0)

/-- The smallest k with `m × 2^e ≤ L × 2^k` (R110), where the largest finite value of the format is `L`. -/
def neededScale (f : Fmt) (m : Nat) (e : Int) : Int :=
  match f.decode f.maxCode with
  | .fin _ lm le =>
    let k0 := binade m e - binade lm le
    if Val.lt (.fin false lm (le + k0)) (.fin false m e) then k0 + 1 else k0
  | _ => 0

/-- The scale exponent that a block needs, held to −127 to 127 (R110, R111). -/
def presentScale (f : Fmt) (vs : List Val) : Int :=
  match blockMax vs with
  | .fin _ m e => if m = 0 then 0 else max (-127) (min 127 (neededScale f m e))
  | _ => 0

/-- One converted block: its codes, its scale byte, its conditions and its bitmap bit (R99, R102, R120). -/
structure Block where
  codes : List Nat
  bs8 : Nat
  flags : Flags
  sat : Bool
  nanBlock : Bool
deriving DecidableEq, Repr

/-- Converts a block at scale exponent k; `rnds` gives each element's rounding. A NaN makes a NaN block in FP4 and
FP6, and stays an element in FP8 (R98, R99, R102). -/
def convertBlock (f : Fmt) (k : Int) (vs : List Val) (rnds : List Rnd) : Block :=
  if f.ebits + f.mbits < 7 && vs.any Val.isNan then
    { codes := vs.map fun _ => 0, bs8 := 0xFF, flags := {}, sat := false, nanBlock := true }
  else
    let rs := (vs.zip rnds).map fun p => f.encodeSat p.2 (p.1.scale (-k))
    let fl := rs.foldl (fun a r => a.or r.2) {}
    { codes := rs.map (·.1), bs8 := (k + 127).toNat, flags := fl, sat := fl.sat, nanBlock := false }

/-- A scale-history record (R113). -/
structure History where
  kObs : Nat
  h : Nat
  cleanRun : Nat
  valid : Bool
  sat : Bool
deriving DecidableEq, Repr

/-- The fields of a stored record; bits [10:0] are reserved. -/
def History.ofNat (v : Nat) : History :=
  { kObs := v / 2 ^ 24 % 256, h := v / 2 ^ 20 % 16, cleanRun := v / 2 ^ 13 % 128,
    valid := Nat.testBit v 12, sat := Nat.testBit v 11 }

/-- The stored record of the fields. -/
def History.toNat (r : History) : Nat :=
  r.kObs % 256 * 2 ^ 24 + r.h % 16 * 2 ^ 20 + r.cleanRun % 128 * 2 ^ 13 + b2n r.valid * 2 ^ 12 + b2n r.sat * 2 ^ 11

/-- The reset value of a record (R113, R122): K_OBS 0x7F, H 2, the rest 0. -/
def History.reset : History := { kObs := 0x7F, h := 2, cleanRun := 0, valid := false, sat := false }

/-- The scale exponent of a gradient block: predicted from a valid record, else the present-tensor one
(R109, R114, R119). -/
def History.scale (r : History) (f : Fmt) (vs : List Val) : Int :=
  if r.valid then max (-127) (min 127 ((r.kObs : Int) - 127 + (r.h : Int))) else presentScale f vs

/-- The record after a step: the observed exponent, then saturation or a clean run (R114 to R119). -/
def History.update (r : History) (f : Fmt) (vs : List Val) (sat : Bool) : History :=
  let k := (presentScale f vs + 127).toNat
  if !r.valid then { r with kObs := k, valid := true, sat := false, cleanRun := 0 }
  else if sat then { r with kObs := k, sat := true, cleanRun := 0, h := min 15 (r.h + 1) }
  else if r.cleanRun + 1 ≥ 64 then { r with kObs := k, sat := false, cleanRun := 0, h := max 1 (r.h - 1) }
  else { r with kObs := k, sat := false, cleanRun := r.cleanRun + 1 }

/-! ### The generator (R106) -/

/-- The mixing function of R106, in wrapping 64-bit arithmetic. -/
def mix (z : W64) : W64 :=
  let z := z ^^^ (z >>> 29)
  let z := z * 0xA3B195C4D72E6F0B#64
  let z := z ^^^ (z >>> 31)
  let z := z * 0x5F1CE0A73B96D42D#64
  z ^^^ (z >>> 30)

/-- The 16-bit draw of a step, a tile identifier, a purpose and an index (R106). -/
def draw (step : W64) (tile purpose index : Nat) : Nat :=
  let key := mix step ^^^ mix (BitVec.ofNat 64 (tile % 2 ^ 32 * 256 + purpose % 256))
  let word := mix (key + BitVec.ofNat 64 (index / 4))
  word.toNat / 2 ^ (16 * (index % 4)) % 65536

end Sys2Proof.Machine
end

