-- ==== Sys2Proof/Machine/MemErrors.lean ====
section
/-! DEFINITION. Machine/MemErrors.lean: cores as the memory sees them, words found in error by a reader (R312 to R322),
and writes that an armed injection changes (R329). -/
namespace Sys2Proof.Machine

def State.core (s : State) (k : Nat) : Core := s.cores.get {} k
def State.setCore (s : State) (k : Nat) (c : Core) : State := { s with cores := s.cores.set k c }
def State.updCore (s : State) (k : Nat) (f : Core → Core) : State := s.setCore k (f (s.core k))

/-- A word that its reader finds in error: its place (R328), its byte address there, its syndrome, and what an
injection made. -/
structure BadWord where
  place : Nat
  addr : Nat
  syn : Byte
  injected : Bool := false
  core : Option Nat := none
  /-- DETAIL_A as R844 lays it out for an accumulator word -/
  acc : Option Nat := none
deriving DecidableEq, Repr

/-- A list with one more element, unless it holds it already. -/
def addOnce (l : List Nat) (a : Nat) : List Nat := if l.contains a then l else l ++ [a]

/-- The unit of a place of R328: the die that carries the stack, the caddy that carries the package (R295, R296). -/
def placeUnit (p : Nat) : UnitId :=
  if p < 16 then .die (p / 2)
  else if p < 24 then .caddy ((p - 16) / 2)
  else if p < 32 then .die (p - 24)
  else if 33 ≤ p && p ≤ 36 then .caddy (p - 33)
  else if p = 38 then .iod 0
  else if p = 39 then .iod 1
  else .module

/-- The unit whose path a record of a place names: that of the place, or the core whose store it is (R665). -/
def BadWord.unit (w : BadWord) : UnitId :=
  match w.core with
  | some k => .core k
  | none => placeUnit w.place

/-- The context whose slow window holds an own-half address (R300). -/
def State.slowOwner (s : State) (a : Nat) : Option Nat :=
  (List.range 8).find? fun x => 0 < (s.ctx x).slowGib && (s.ctx x).slowSpan a 1

/-- MEM_UE_LOG takes the first UE since VALID was cleared, never an injected one (R327, R329). -/
def State.logUe (s : State) (w : BadWord) (ctx : Option Nat) (scrub : Bool) : State :=
  if bitAt s.mem.ueLog 63 || w.injected then s
  else
    let word := mkWord [(63, 1, 1), (60, 3, ctx.getD 0), (59, 1, b2n ctx.isSome), (58, 1, b2n scrub), (48, 6, w.place), (0, 48, w.addr)]
    { s with mem := { s.mem with ueLog := word } }

/-- A CE at a row of a tier enters the row's steeps, which the repair list reads (R322). -/
def State.rowCe (s : State) (w : BadWord) : State :=
  if 24 ≤ w.place then s
  else
    let row := rowOf w.addr
    let rs := s.mem.rowCes
    let mine (r : RowCe) : Bool := r.place == w.place && r.row == row
    let add (r : RowCe) : RowCe := if mine r && !(r.steeps.contains s.now) then { r with steeps := r.steeps ++ [s.now] } else r
    let rs' := if rs.any mine then rs.map add else rs ++ [{ place := w.place, row := row, steeps := [s.now] }]
    { s with mem := { s.mem with rowCes := rs' } }

/-- A UE in the far-link pool: the link that holds the buffer is to start again (R299, R317). -/
def State.farPoolUe (s : State) (a : Nat) : State :=
  let base := firmwareBase - s.trust.farBuffers * 402653184
  if a < base then s
  else match s.mem.farBuffers.find? fun e => e.1 == (a - base) / 402653184 with
    | some e => s.updLink e.2 fun l => { l with far := { l.far with ueDue := true } }
    | none => s

/-- What a detected error does (R317, R319, R329): its count, its record under the limits of those rules, and for a
UE its further action. `ctx` is the context whose work read the word. -/
def State.badWord (s : State) (w : BadWord) (ctx : Option Nat) (scrub : Bool) (opcode opRef : Nat) : State :=
  let ue := eccOf w.syn == .ue
  let s := s.countEcc w.place w.syn
  let spec (code : Nat) (cls : Cls) (x : Option Nat) : RecSpec := {
    code := code, cls := cls, unit := w.unit, ctx := x, injected := w.injected, opcode := opcode, opRef := opRef
    a := mkWord [(0, 48, w.acc.getD w.addr), (48, 6, w.place)]
    b := mkWord [(0, 8, w.syn.toNat), (8, 1, b2n scrub), (9, 1, b2n ue)] }
  if w.injected then s.raiseLimited (Rec.eccInjected, w.place) 1 (spec Rec.eccInjected .ce ctx)
  else if !ue then (s.rowCe w).raiseLimited (Rec.memCe, w.place) 1 (spec Rec.memCe .ce ctx)
  else
    let owner := match w.core with | some k => k + 1 | none => 0
    let once (code : Nat) : Nat × Nat := (code + 65536 * (w.place + 1), w.addr + 2 ^ 48 * owner)
    let slow := 16 ≤ w.place && w.place < 24
    if slow && mirrorBase ≤ w.addr then
      let s := (s.logUe w none scrub).raiseLimited (once Rec.mirrorUe) 1 (spec Rec.mirrorUe .uc none)
      match s.slowOwner (w.addr - (mirrorBase - ownBase)) with
      | some x =>
        let g := w.addr / 65536 * 65536
        let own := BitVec.ofNat 64 (g - (mirrorBase - ownBase))
        (s.updJob x fun j => { j with mirror := { j.mirror with stale := addOnce j.mirror.stale g } }).toMirror x
          (s.ctx x).job.sourceDn [mirrorWord 0 MirrorMark.stale, own]
      | none => s
    else if slow then
      match s.slowOwner w.addr with
      | none => (s.logUe w none scrub).raiseLimited (once Rec.memUe) 1 (spec Rec.memUe .uc none)
      | some x =>
        let s := (s.logUe w (some x) scrub).raiseLimited (once Rec.committedUe) 1 (spec Rec.committedUe .uc (some x))
        let g := w.addr / 65536 * 65536
        let s := (s.updJob x fun j => { j with mirror := { j.mirror with repairDue := addOnce j.mirror.repairDue g } }).toMirror x
          (s.ctx x).job.buddyDn [mirrorWord 0 MirrorMark.repair, BitVec.ofNat 64 g]
        forL (s.ctx x).job.steps (fun t s => s.failStep x t.step CauseOf.local_ s.now) s
    else if w.core.isNone && w.place < 16 && firmwareBase ≤ w.addr then
      (s.logUe w none scrub).raiseLimited (once Rec.memUe) 1 (spec Rec.memUe .fa none)
    else
      let s := (s.logUe w ctx scrub).raiseLimited (once Rec.memUe) 1 (spec Rec.memUe .uc ctx)
      let s := if w.core.isNone && w.place < 16 then
          { s with mem := { s.mem with ueGranules := addOnce s.mem.ueGranules (w.addr / 65536) } }
        else s
      let s := if w.core.isNone && w.place < 16 then s.farPoolUe w.addr else s
      match ctx with
      | some x => s.checkFailed x s.now
      | none => s

/-- A corrected word goes back (R316); an uncorrectable one stays as stored. -/
def Mem.writeBack (m : Mem) (wa : Nat) : Mem :=
  if m.syndrome wa = 0#8 || eccOf (m.syndrome wa) == .ue then m else m.store wa (m.word wa)

/-- An injection's mark on a word goes once the word is corrected and written back (R316, R329). -/
def MemUnit.unmark (m : MemUnit) (key : Nat × Nat) (syn : Byte) : MemUnit :=
  if eccOf syn == .ue then m else { m with injected := m.injected.filter fun e => e ≠ key }

/-- The key of a word of a core store among the words that injections changed. -/
def coreMark (k wa : Nat) : Nat × Nat := (24 + k / 64 + 64 * (k + 1), wa)

/-- What reading words of a tier finds, and the write-backs of those corrected. -/
def State.noteTier (s : State) (wa n : Nat) (ctx : Option Nat) (scrub : Bool) (opcode opRef : Nat) : State :=
  forL (s.mem.space.syn.filter fun e => wa ≤ e.1 && e.1 < wa + n) (fun e s =>
    let a := 8 * e.1
    let w : BadWord := { place := placeOf a, addr := a, syn := e.2, injected := s.mem.injected.contains (placeOf a, e.1) }
    let s := s.badWord w ctx scrub opcode opRef
    let m := s.mem.unmark (placeOf a, e.1) e.2
    { s with mem := { m with space := m.space.writeBack e.1 } }) s

/-- What reading bytes of a tier finds: the words that hold them. -/
def State.noteBytes (s : State) (a n : Nat) (ctx : Option Nat) (opcode opRef : Nat) : State :=
  if n = 0 then s else s.noteTier (a / 8) ((a + n - 1) / 8 + 1 - a / 8) ctx false opcode opRef

/-- What reading the words of a core store that pass `p` finds, and the write-backs of those corrected (R313, R321). -/
def State.noteCoreWords (s : State) (k : Nat) (p : Nat → Bool) (ctx : Option Nat) (scrub : Bool) (opcode opRef : Nat) : State :=
  forL ((s.core k).store.syn.filter fun e => p e.1) (fun e s =>
    let w : BadWord := {
      place := 24 + k / 64, addr := 8 * e.1, syn := e.2, core := some k
      injected := s.mem.injected.contains (coreMark k e.1) }
    let s := s.badWord w ctx scrub opcode opRef
    let s := { s with mem := s.mem.unmark (coreMark k e.1) e.2 }
    s.updCore k fun c => { c with store := c.store.writeBack e.1 }) s

/-- What reading a run of words of a core store finds. -/
def State.noteCore (s : State) (k wa n : Nat) (ctx : Option Nat) (scrub : Bool) (opcode opRef : Nat) : State :=
  s.noteCoreWords k (fun a => wa ≤ a && a < wa + n) ctx scrub opcode opRef

/-- Stores words into a core store, as `State.storeTier` does into a tier. -/
def State.storeCore (s : State) (k wa : Nat) (ws : List W64) : State :=
  let m := s.mem
  let st := (s.core k).store.storeWords wa ws
  let key := (coreMark k 0).1
  let inj := m.injected.filter fun e => e.1 ≠ key || !(wa ≤ e.2 && e.2 < wa + ws.length)
  if m.injArm && m.injPlace = 24 + k / 64 && !ws.isEmpty then
    ({ s with mem := { m with injArm := false, injected := inj ++ [(key, wa)] } }).updCore k fun c => { c with store := m.invert st wa }
  else ({ s with mem := { m with injected := inj } }).updCore k fun c => { c with store := st }

/-- Writes bytes of a memory, word by word, merging each partly written word (R315). -/
def mergeBytes (m : Mem) (wa : Nat) (off : Nat) (bs : List Byte) : W64 :=
  let old := wordBytes (m.word wa)
  bytesWord ((List.range 8).map fun i =>
    if off ≤ 8 * wa + i && 8 * wa + i < off + bs.length then bs.getD (8 * wa + i - off) 0#8 else old.getD i 0#8)

/-- Writes bytes into a core store from byte address `a` on. Words written in part are read first (R315). -/
def State.storeCoreBytes (s : State) (k a : Nat) (bs : List Byte) (ctx : Option Nat) : State :=
  if bs.isEmpty then s
  else
    let w0 := a / 8
    let n := (a + bs.length - 1) / 8 + 1 - w0
    let s := if a % 8 ≠ 0 then s.noteCore k w0 1 ctx false 0 0 else s
    let s := if (a + bs.length) % 8 ≠ 0 then s.noteCore k (w0 + n - 1) 1 ctx false 0 0 else s
    let st := (s.core k).store
    s.storeCore k w0 ((List.range n).map fun i => mergeBytes st (w0 + i) a bs)

/-- Writes bytes into a tier, merging words written in part (R315). -/
def State.storeTierBytes (s : State) (a : Nat) (bs : List Byte) (ctx : Option Nat) : State :=
  if bs.isEmpty then s
  else
    let w0 := a / 8
    let n := (a + bs.length - 1) / 8 + 1 - w0
    let s := if a % 8 ≠ 0 then s.noteTier w0 1 ctx false 0 0 else s
    let s := if (a + bs.length) % 8 ≠ 0 then s.noteTier (w0 + n - 1) 1 ctx false 0 0 else s
    let m := s.mem.space
    s.storeTier w0 ((List.range n).map fun i => mergeBytes m (w0 + i) a bs)

/-! ### Words in motion (R313, R314) -/

/-- A word on its way, with the syndrome it carries. -/
abbrev Moving := W64 × Byte

/-- A word as it leaves its memory: corrected, or as stored with its check bits (R314, R316). -/
def Mem.leave (m : Mem) (wa : Nat) : Moving :=
  let syn := m.syndrome wa
  if eccOf syn == .ue then (m.raw wa, syn) else (m.word wa, 0#8)

/-- Bits of a word in motion that an upset inverts. -/
def Moving.hit (w : Moving) (bits : List Nat) : Moving :=
  bits.foldl (fun w b => ((if b < 64 then w.1 ^^^ BitVec.ofNat 64 (2 ^ b) else w.1), w.2 ^^^ flipSyn b)) w

/-- The check of a word that arrives over one of the places 24 to 39 (R313, R328): an upset on the way is corrected, or the
word is delivered as it stands. An injection armed for the place takes the first word that arrives (R329). -/
def State.arrive (s : State) (place : Nat) (ctx : Option Nat) (op ref addr : Nat) (w : Moving) (bits : List Nat) : State × Moving :=
  let inj := s.mem.injBits place
  let bits := (bits.filter (· < 72)) ++ inj
  if bits.isEmpty then (s, w)
  else
    let s := if inj.isEmpty then s else { s with mem := { s.mem with injArm := false } }
    let w := Moving.hit w bits
    if w.2 = 0#8 then (s, w)
    else
      let s := s.badWord { place := place, addr := addr, syn := w.2, injected := !inj.isEmpty } ctx false op ref
      (s, if eccOf w.2 == .ue then w else (eccFix w.2 w.1, 0#8))

/-- Words of one run that arrive over a place; `upset` names bits by the word's number in the run. -/
def State.arriveAll (s : State) (place : Nat) (ctx : Option Nat) (op ref : Nat) (upset : List (Nat × Nat)) (ws : List (Nat × Moving)) :
    State × List Moving :=
  ((List.range ws.length).zip ws).foldl (fun (acc : State × List Moving) w =>
    let a := acc.1.arrive place ctx op ref w.2.1 w.2.2 ((upset.filter fun u => u.1 == w.1).map (·.2))
    (a.1, acc.2 ++ [a.2])) (s, [])

end Sys2Proof.Machine
end

