-- ==== Sys2Proof/Machine/JobCmds.lean ====
section
/-! DEFINITION. Machine/JobCmds.lean: the job commands (R590 to R593, R618, R620 to R622, R631, R645 to R656). -/
namespace Sys2Proof.Machine

/-- A stream of the context is running or queued (R656). -/
def Ctx.busy (c : Ctx) : Bool := c.slots.any fun e => !e.2.streams.isEmpty

/-- The member table at a byte address: the DN of rank r at byte 2r (R590). -/
def State.readTable (s : State) (addr n : Nat) : List Nat :=
  (List.range n).map fun r => let a := addr + 2 * r
    (s.mem.space.word (a / 8)).toNat / 2 ^ (8 * (a % 8)) % 256 +
      256 * ((s.mem.space.word ((a + 1) / 8)).toNat / 2 ^ (8 * ((a + 1) % 8)) % 256)

/-- JOB_CONFIG (R590 to R593, R618, R642, R656). -/
def execJobConfig (r : Req) (s : State) : Host.Outcome State Fault Refusal :=
  .next (s.kettle r 0x0300 false adminClass fun k s =>
    let a := k.arg 0
    let b := k.arg 1
    let w := k.arg 2
    let x := fld a 2 0
    let n := fld a 49 33
    let rank := fld a 32 16
    let stride := fld w 16 0
    let wait := fld w 47 32
    let c := s.ctx x
    if k.args.length ≠ 3 || fld a 15 4 ≠ 0 || fld a 63 50 ≠ 0 || fld b 63 48 ≠ 0 || fld w 31 17 ≠ 0 || fld w 63 48 ≠ 0 ||
       n = 0 || n ≤ rank || (if n = 1 then stride ≠ 0 else (stride = 0 || n ≤ stride)) || (0 < wait && wait < 8) then done s St.reserved
    else if c.state == .free then done s St.badContext
    else if !(c.fastSpan (fld b 47 0) (2 * n)) then done s St.memoryRange
    else if c.busy then done s St.busy
    else
      let table := s.readTable (fld b 47 0) n
      let s := s.noteBytes (fld b 47 0) (2 * n) (some x) 0x0300 0
      if !bitAt a 3 && table.getD rank 0 ≠ s.fabric.dn then done s St.notMember
      else done (s.updJob x fun j => {
        member := !bitAt a 3, spare := bitAt a 3, rank := rank, table := table, live := List.range n, stride := stride,
        commitWait := if wait = 0 then 1024 else wait, committed := (s.ctx x).upd.step,
        mirror := { fullDue := decide (stride ≠ 0) }, commits := j.commits, aborts := j.aborts, breaches := j.breaches,
        queries := j.queries }) St.ok)

/-- Puts a staged member table in force (R646, R648): the tree is formed again, and where the buddy or the mirror
source has changed a new relation begins (R642). -/
def State.applyMembers (s : State) (x : Nat) (g : StagedMembers) : State :=
  let j := (s.ctx x).job
  let own := g.table.findIdx? fun d => d == s.fabric.dn
  let rank := own.getD j.rank
  let j' : Job := { j with
    table := g.table, live := (List.range g.table.length).filter fun r => g.table.getD r 0 < 0x10000, jver := g.jver, rank := rank,
    member := own.isSome, spare := own.isNone && j.spare, staged := none }
  let changed := (j.buddy.map j.dnOf) ≠ (j'.buddy.map j'.dnOf) || (j.mirrorSource.map j.dnOf) ≠ (j'.mirrorSource.map j'.dnOf)
  let j' := if changed then { j' with mirror := { fullDue := decide (j'.stride ≠ 0) } } else j'
  (s.updJob x fun _ => j').commandDone g.by_ (some x)

/-- JOB_MEMBERS (R646, R648, R656): stages the table for the commit of AT_STEP, or for boundary AT_COUNT. -/
def execJobMembers (r : Req) (s : State) : Host.Outcome State Fault Refusal :=
  .next (s.kettle r 0x0301 false adminClass fun k s =>
    let a := k.arg 0
    let x := fld a 2 0
    let n := fld a 32 16
    let addr := (k.arg 1).toNat
    let at_ := (k.arg 3).toNat
    let c := s.ctx x
    if k.args.length ≠ 4 || fld a 15 3 ≠ 0 || n = 0 || (0 < at_ && at_ ≤ s.now) then done s St.reserved
    else if c.state == .free then done s St.badContext
    else if !(c.fastSpan addr (2 * n)) then done s St.memoryRange
    else if c.busy then done s St.busy
    else done ((s.noteBytes addr (2 * n) (some x) 0x0301 0).updJob x fun j => { j with staged := some {
        table := s.readTable addr n, jver := fld a 63 33, atStep := (k.arg 2).toNat, atCount := at_, by_ := k.ref } }) St.accepted)

/-- STEP_CAPTURE (R620, R655): arms the capture of the next step. -/
def execStepCapture (r : Req) (s : State) : Host.Outcome State Fault Refusal :=
  .next (s.kettle r 0x0302 false anyClass fun k s =>
    let a := k.arg 0
    let x := fld a 2 0
    let n := fld a 7 4 + 1
    let cap := (k.arg 1).toNat
    let bytes := (k.arg 2).toNat
    let table := (k.arg 3).toNat
    let c := s.ctx x
    if k.args.length ≠ 4 || bitAt a 3 || fld a 63 8 ≠ 0 || cap % 8 ≠ 0 || table % 8 ≠ 0 then done s St.reserved
    else if !s.ctxNamed k.mb x then done s St.badContext
    else
      let spans := (List.range n).map fun i =>
        ((s.mem.space.word (table / 8 + 2 * i)).toNat, (s.mem.space.word (table / 8 + 2 * i + 1)).toNat)
      if !(c.fastSpan cap bytes) || !(c.fastSpan table (16 * n)) || spans.any (fun p => !(c.fastSpan p.1 p.2)) then done s St.memoryRange
      else done ((s.noteTier (table / 8) (2 * n) (some x) false 0x0302 0).updJob x fun j => { j with capture := some { addr := cap, bytes := bytes, spans := spans, by_ := k.ref } }) St.accepted)

/-- The captured stream's words, and where they end (R620, R621). The layout of a capture is the model's own: the count of
stream words and those words; then V, CURRENT_SLOT and STEP; then the count of spans and for each its offset in the window,
its length in words and its words; then the count of scale-history records that hold a measured value and each as TILE_ID
and block (R124); then the counts and words of received payloads; then the trace. -/
def State.captureStream (s : State) (addr : Nat) : List W64 × Nat :=
  let n := (s.mem.space.word (addr / 8)).toNat
  (s.mem.space.words (addr / 8 + 1) n, addr / 8 + 1 + n)

/-- Captured spans from word address `p`: the byte offset and the words of each, and where they end. -/
def readSpans (m : Mem) : Nat → Nat → List (Nat × List W64) × Nat
  | 0, p => ([], p)
  | k + 1, p =>
    let n := (m.word (p + 1)).toNat
    let r := readSpans m k (p + 2 + n)
    (((m.word p).toNat, m.words (p + 2) n) :: r.1, r.2)

/-- Writes captured spans at their offsets in the window of the replaying context (R621). -/
def State.restoreSpans (s : State) (base : Nat) (sp : List (Nat × List W64)) : State :=
  forL sp (fun e s => s.storeTier ((base + e.1) / 8) e.2) s

/-- Lists of words, each behind its length, from word address `p`. -/
def readLists (m : Mem) : Nat → Nat → List (List W64) × Nat
  | 0, p => ([], p)
  | k + 1, p =>
    let n := (m.word p).toNat
    let r := readLists m k (p + 1 + n)
    (m.words (p + 1) n :: r.1, r.2)

/-- What a capture in memory holds. -/
structure Captured where
  stream : List W64
  version : Nat
  spans : List (Nat × List W64)
  measured : List (Nat × Nat)
  payloads : List (List W64)
  trace : List (W64 × W64)
  /-- words of the whole capture -/
  size : Nat
deriving DecidableEq, Repr

/-- The capture at an address. -/
def State.captured (s : State) (cap : Nat) : Captured :=
  let m := s.mem.space
  let st := s.captureStream cap
  let sp := readSpans m (min (m.word (st.2 + 3)).toNat 16) (st.2 + 4)
  let n := (m.word sp.2).toNat
  let ps := readLists m (m.word (sp.2 + 1 + n)).toNat (sp.2 + 2 + n)
  { stream := st.1, version := (m.word st.2).toNat, spans := sp.1
    measured := (m.words (sp.2 + 1) n).map fun w => (fld w 31 0, fld w 63 32)
    payloads := ps.1
    trace := (List.range (m.word ps.2).toNat).map fun i => (m.word (ps.2 + 1 + 2 * i), m.word (ps.2 + 2 + 2 * i))
    size := ps.2 + 1 + 2 * (m.word ps.2).toNat - cap / 8 }

/-- STEP_REPLAY (R621, R622, R655): spans and scale history restored, and the captured stream queued as a replay in slot 0. A
capture, a span or a trace that leaves the context's window completes with MEMORY_RANGE (R300). -/
def execStepReplay (r : Req) (s : State) : Host.Outcome State Fault Refusal :=
  .next (s.kettle r 0x0303 false anyClass fun k s =>
    let a := k.arg 0
    let x := fld a 2 0
    let cap := (k.arg 1).toNat
    let trace := (k.arg 2).toNat
    let c := s.ctx x
    if k.args.length ≠ 3 || fld a 63 3 ≠ 0 || cap % 8 ≠ 0 || trace % 8 ≠ 0 then done s St.reserved
    else if !s.ctxNamed k.mb x then done s St.badContext
    else if !(c.fastSpan cap 8) then done s St.memoryRange
    else if c.busy || c.job.replay.isSome then done s St.busy
    else
      let d := s.captured cap
      let s := s.noteTier (cap / 8) d.size (some x) false 0x0303 0
      let base := c.fastBase * 0x200000
      let q := slotQueue x 0
      if !(c.fastSpan trace (16 * d.trace.length)) || d.spans.any (fun e => !(c.fastSpan (base + e.1) (8 * e.2.length))) then
        done s St.memoryRange
      else match (s.restoreSpans base d.spans).put q.1 q.2 (some x) Config.commandType.toNat d.stream with
      | none => done s St.noResource
      | some s' =>
        let w0 := d.stream.getD 0 0#64
        let stream : Stream := {
          id := c.nextStream % 2 ^ 32, tag := fld w0 63 32, step := (d.stream.getD 1 0#64).toNat, startAt := 0
          sliceEvents := false, words := d.stream, slices := fld w0 31 16, replay := true }
        done (s'.updCtx x fun c => { (c.setSlot 0 { (c.slot 0) with streams := [stream] }) with
          nextStream := (c.nextStream + 1) % 2 ^ 32
          measured := d.measured
          job := { c.job with replay := some {
            traceAddr := trace, version := d.version, by_ := k.ref, payloads := d.payloads, trace := d.trace } } }) St.accepted)

/-- REPLAY_COMPLETE (R622): the replay's stream has ended; REPLAY_DONE reports the mismatches. -/
def execReplayComplete (ctx : Nat) (s : State) : Host.Outcome State Fault Refusal :=
  match (s.ctx ctx).job.replay with
  | none => .next s
  | some p =>
    if (s.ctx ctx).busy then .next s
    else .next ((s.updJob ctx fun j => { j with replay := none }).cmdEvent p.by_ (some ctx) {
      kind := 0x0308, detail := mkWord [(0, 32, p.mismatches), (32, 32, p.first)] })

/-- A module path that the arguments of a command hold (R28, R29): its words are well formed and it ends in a
module hop. -/
def modulePathOk (ws : List W64) : Bool :=
  pathWordsOk ws && !ws.isEmpty && (match parsePath (pathHops ws) with
    | some p => p.module.isSome && p.below == .module
    | none => false)

/-- Asks another module for a transfer of state: a kettle packet of type 4, whose reply completes the command. Its words
after the head are the model's own: contexts, chain, rank and parts; JOB_ID; the windows. -/
def State.askMove (s : State) (k : KReq) (path : List W64) (x other chain rank parts : Nat) : State :=
  let c := s.ctx x
  let f : Fan := { id := s.nextFan, cmd := k.ref, composite := false, members := [path], started := s.now }
  let s := { s with
    fans := s.fans ++ [f]
    nextFan := s.nextFan + 1 }
  s.inject 0x07 7 path none 0 [mkWord [(0, 8, 4), (16, 16, k.code), (32, 32, f.id)],
    mkWord [(0, 3, other), (4, 3, chain), (8, 3, x), (16, 17, rank), (36, 3, parts)], c.jobId,
    mkWord [(0, 19, c.fastPages), (32, 10, c.slowGib), (48, 9, c.slowBase)]]

/-- A path to another module that this one knows. -/
def State.otherModule (s : State) (path : List W64) : Bool :=
  modulePathOk path && (match s.resolve (pathHops path) with
    | some (.remote _) => true
    | _ => false)

/-- JOB_JOIN (R651, R655): asks the donor for its committed state, which comes along the chain. -/
def execJobJoin (r : Req) (s : State) : Host.Outcome State Fault Refusal :=
  .next (s.kettle r 0x0304 false adminClass fun k s =>
    let a := k.arg 0
    let x := fld a 2 0
    let path := k.args.drop 1
    if k.args.length < 2 || bitAt a 3 || fld a 63 7 ≠ 0 || !argPathOk path then done s St.reserved
    else if !s.otherModule path then done s St.badPath
    else if (s.ctx x).state == .free then done s St.badContext
    else if (s.ctx x).busy || (s.ctx x).job.transfer.isSome then done s St.busy
    else
      let s := s.updJob x fun j => { j with transfer := some { kind := .join, by_ := some k.ref, peer := path, chain := fld a 6 4 } }
      (s.askMove k path x 0 (fld a 6 4) 0 0, none))

/-- SPARE_TAKEOVER (R649, R655, R656): asks the failed rank's buddy for the committed slot of its mirror. -/
def execSpareTakeover (r : Req) (s : State) : Host.Outcome State Fault Refusal :=
  .next (s.kettle r 0x0305 false adminClass fun k s =>
    let a := k.arg 0
    let x := fld a 2 0
    let path := k.args.drop 1
    if k.args.length < 2 || fld a 15 3 ≠ 0 || fld a 63 33 ≠ 0 || !argPathOk path then done s St.reserved
    else if !s.otherModule path then done s St.badPath
    else if (s.ctx x).state == .free then done s St.badContext
    else if !(s.ctx x).job.spare then done s St.notMember
    else if (s.ctx x).busy || (s.ctx x).job.transfer.isSome then done s St.busy
    else
      let s := s.updJob x fun j => { j with transfer := some {
        kind := .takeover, by_ := some k.ref, peer := path, rank := fld a 32 16 } }
      (s.askMove k path x 0 0 (fld a 32 16) 0, none))

/-- DECANT (R653, R655): asks the target to take the state. Once it agrees, the context is set STOPPED at the next
boundary at which it runs no stream, and then sends the parts named. -/
def execDecant (r : Req) (s : State) : Host.Outcome State Fault Refusal :=
  .next (s.kettle r 0x0306 false adminClass fun k s =>
    let a := k.arg 0
    let b := k.arg 1
    let x := fld a 2 0
    let path := k.args.drop 2
    if k.args.length < 3 || bitAt a 3 || bitAt a 7 || fld a 63 24 ≠ 0 || fld b 63 3 ≠ 0 || !argPathOk path then done s St.reserved
    else if !s.otherModule path then done s St.badPath
    else if (s.ctx x).state == .free then done s St.badContext
    else if (s.ctx x).job.transfer.isSome then done s St.busy
    else
      let s := s.updJob x fun j => { j with transfer := some {
        kind := .decantSource, by_ := some k.ref, parts := fld a 6 4, planeMask := fld a 23 8, peer := path, targetCtx := fld b 2 0 } }
      (s.askMove k path x (fld b 2 0) 0 0 (fld a 6 4), none))

/-- READMIT (R631, R656): the voted-out module clears VOTED_OUT when it has passed a full blend after its expulsion;
another module takes it back among its neighbours. MVER rises by one. -/
def execReadmit (r : Req) (s : State) : Host.Outcome State Fault Refusal :=
  .next (s.kettle r 0x0307 false adminClass fun k s =>
    let dn := fld (k.arg 0) 15 0
    let m := s.members
    if k.args.length ≠ 1 || fld (k.arg 0) 63 16 ≠ 0 then done s St.reserved
    else if dn = s.fabric.dn then
      (if !m.votedOut then done s St.votedOut
       else if !s.faults.blend.passedSinceExpulsion then done s St.blendRequired
       else done ({ s with members := { m with votedOut := false, mver := (m.mver + 1) % 2 ^ 32, expelled := m.expelled.filter fun d => d ≠ dn } } : State).deputise St.ok)
    else if !m.expelled.contains dn then done s St.votedOut
    else
      let s := { s with members := { m with mver := (m.mver + 1) % 2 ^ 32, expelled := m.expelled.filter fun d => d ≠ dn } }
      let s := { s with fabric := { s.fabric with links := s.fabric.links.map fun (e : Nat × Link) =>
        (e.1, if e.2.nbDn = dn && e.2.state == LinkState.trained then { e.2 with jobTraffic := true } else e.2) } }
      done s.deputise St.ok)

/-- HEALTH_CONFIG (R655): written into every module of the domain for one boundary, 8 steeps ahead (R45). -/
def execHealthConfig (r : Req) (s : State) : Host.Outcome State Fault Refusal :=
  .next (s.kettle r 0x0308 false adminClass fun k s =>
    let a := k.arg 0
    if k.args.length ≠ 1 || fld a 63 16 ≠ 0 then done s St.reserved
    else
      let s := { s with members := { s.members with configDue := some (s.now + 8, fld a 7 0, fld a 15 8, some k.ref) } }
      done (forL (s.members.modules.filter fun e => e.1 ≠ s.fabric.dn) (fun e s =>
        s.inject 0x07 7 (pathWords e.2) none 0 [domainWord k.code, a, BitVec.ofNat 64 (s.now + 8)]) s) St.accepted)

end Sys2Proof.Machine
end

