-- ==== Sys2Proof/Machine/Reset.lean ====
section
/-! DEFINITION. Machine/Reset.lean: the warm module reset and the cold boot as one operation each: what is kept and
what returns to its reset value (R324, R425, R633, R662, R675, R684 to R693, R704, R746, R750, R784, R805, R834). -/
namespace Sys2Proof.Machine

/-- Only the slow tier of the module's memory (R324). -/
def Mem.slowOnly (m : Mem) : Mem :=
  { cells := m.cells.filter fun c => ownBase ≤ c.1, syn := m.syn.filter fun e => ownBase ≤ 8 * e.1 }

/-- Every stack and package starts its training, under a column of R323. -/
def MemUnit.train (m : MemUnit) (kind : Nat) : MemUnit :=
  { m with trainings := (List.range 24).map fun i => (i, { kind := kind, phase := 1 : Training }) }

/-- No part is still training: each is trained, or has failed for good (R325). -/
def MemUnit.settled (m : MemUnit) : Bool :=
  (List.range 24).all fun i => (m.trainings.get {} i).ready || decide (3 ≤ (m.trainings.get {} i).tries)

/-- Core stores lose what they hold, and with it the marks of injections. -/
def MemUnit.coresGone (m : MemUnit) : MemUnit := { m with injected := m.injected.filter fun e => e.1 < 64 }

/-- The module flash, and what the ROM keeps beside it (R750, R762). -/
def Trust.flashOnly (t : Trust) : Trust :=
  { nextBank := t.nextBank, bootCount := t.bootCount, banks := t.banks, config := t.config, staged := t.staged, gens := t.gens }

/-- What a region keeps through a warm module reset: its set clock, with every throttle gone (R684, R809). -/
def Region.restored (r : Region) : Region := { eff := r.set_, set_ := r.set_, volt := r.volt }

/-- Margins keep the present temperature and supply only. -/
def Margin.restored (m : Margin) : Margin := { temp := m.temp, volt := m.volt }

/-- The counts of a unit's resets in the last 60 minutes (R690). -/
def State.resetCount (s : State) (u : UnitId) (key : Nat) : Nat :=
  (s.faults.counts.filter fun c => c.1 == u && c.2.1 == key && s.seconds < c.2.2 + 3600).length

/-- Rung code and engine as one key of the counts. -/
def rungKey (code engine : Nat) : Nat := code + 16 * engine

/-- What the fault unit keeps (R675, R690, R693, R704, and the blend's standing for R631 and R633). -/
def Faults.kept (f : Faults) (service : Bool) : Faults :=
  let b : Blend := { ranAt := f.blend.ranAt, lastFailed := f.blend.lastFailed, passedSinceExpulsion := f.blend.passedSinceExpulsion }
  { lastFa := f.lastFa, lastFaSteep := f.lastFaSteep, limits := f.limits, counts := if service then [] else f.counts,
    crashLog := if f.faDue then f.crashLog else crashEntries none f.recent,
    outOfService := if service then f.oosCold else f.outOfService, oosReset := if service then f.oosCold else f.oosReset,
    oosCold := f.oosCold, moduleReset := some service, blend := b
    marginG := f.marginG.map fun (e : Nat × Margin) => (e.1, e.2.restored), samples := f.samples }

/-- The warm module reset (R662, R684, R746). Everything returns to its reset value but what the rules keep: the slow
tier, the flash, the counts and limits of the ladder, ERR_LAST_FA, the alert of an FA, TRIP_SEEN, the set clocks, the
jobs counted, the steep counter, and the standing of a module that has been voted out. `service`: caused by
SERVICE_RESTORE, which counts in no escalation and returns voted out (R691, R692). -/
def State.warmReset (s : State) (service : Bool) : State :=
  let faults := s.faults.kept service
  let count := faults.counts ++ (if service then [] else [(UnitId.module, rungKey 6 0, s.seconds)])
  let steep : Steep := { count := s.steep.count, phase := min s.steep.phase 99999, ticks := s.steep.ticks }
  let jobs (e : Nat × Ctx) : Nat × Ctx := (e.1, { jobs := e.2.jobs })
  let p := s.power
  let power : Power := {
    regions := p.regions.map fun (e : Nat × Region) => (e.1, e.2.restored), tripSeen := p.tripSeen, tripHold := p.tripHold
    pwrgd := p.pwrgd, off := p.off, cold := p.cold, refLost := p.refLost, volts := p.volts, sag := p.sag, lastHigh := p.lastHigh
    inlet := p.inlet, outlet := p.outlet, stackTemps := p.stackTemps }
  { pending := s.pending
    steep := steep
    faults := { faults with counts := count }
    mem := { space := s.mem.space.slowOnly, repair := s.mem.repair, spared := s.mem.spared,
             injected := s.mem.injected.filter fun e => 16 ≤ e.1 && e.1 < 24 }
    ctxs := s.ctxs.map jobs
    members := { votedOut := s.members.votedOut || service, expelled := [] }
    host := { alertFa := s.host.alertFa, resetHeld := s.host.resetHeld, i3cAddr := none }
    power := power
    trust := s.trust.flashOnly
    out := s.out
    fresh := s.fresh }

/-- The cold boot keeps the module flash alone (R324, R750): the repair lists and the crash log stand in it. -/
def State.coldReset (s : State) : State :=
  let p := s.power
  { pending := s.pending
    steep := { ticks := s.steep.ticks }
    faults := { crashLog := s.faults.crashLog }
    mem := { repair := s.mem.repair }
    host := { resetHeld := s.host.resetHeld }
    power := { pwrgd := p.pwrgd, off := p.off, cold := p.cold, refLost := p.refLost, volts := p.volts, sag := p.sag }
    trust := s.trust.flashOnly
    out := s.out
    fresh := s.fresh }

/-- The reset that the release of MOD_RESET_N, or the return of the clock, starts (R784, R791, R806). -/
def State.bootUp (s : State) : State :=
  if s.power.cold || s.power.state = 3 then
    { s.coldReset with power := { s.coldReset.power with cold := false } }
  else s.warmReset false

/-- MODULE_RESET_TIMEOUT (R689): not ready 4 s after the warm module reset started. -/
def execModuleResetTimeout (s : State) : Host.Outcome State Fault Refusal :=
  if s.faults.moduleReset.isNone || s.trust.stage = 0x0F || s.faults.oosCold then .next s
  else
    let f := { s.faults with outOfService := true, oosReset := true, oosCold := true }
    let s := { s with faults := f, host := { s.host with alertOos := true } }
    .next (s.raise { code := Rec.outOfService, cls := .fa })

/-- The end of the boot that a warm module reset started (R691): at the Module limit's count within 60 minutes the
module comes up OUT_OF_SERVICE. -/
def State.resetDone (s : State) : State :=
  match s.faults.moduleReset with
  | none => s
  | some service =>
    let s := { s with faults := { s.faults with moduleReset := none, resets := satN 32 (s.faults.resets + 1) } }
    if service || s.resetCount .module (rungKey 6 0) < s.faults.limits.getD 5 3 then s
    else
      let f := { s.faults with outOfService := true, oosReset := true }
      let s := { s with faults := f, host := { s.host with alertOos := true } }
      s.raise { code := Rec.outOfService, cls := .fa }

end Sys2Proof.Machine
end

