-- ==== Sys2Proof/Machine/Sha.lean ====
section
/-! DEFINITION. Machine/Sha.lean: the hash and the identity key of the module: SHA-512, HKDF-SHA-512 and the point
multiplication on P-521 that R742, R747 and R748 name. PRESUMED: the algorithms are those of the standards that the
spec names (FIPS 180-4, RFC 2104, RFC 5869, FIPS 186-5), which it does not restate. -/
namespace Sys2Proof.Machine

/-- Round constants of SHA-512. -/
def shaK : List Nat :=
  [0x428a2f98d728ae22, 0x7137449123ef65cd, 0xb5c0fbcfec4d3b2f, 0xe9b5dba58189dbbc,
   0x3956c25bf348b538, 0x59f111f1b605d019, 0x923f82a4af194f9b, 0xab1c5ed5da6d8118] ++
  [0xd807aa98a3030242, 0x12835b0145706fbe, 0x243185be4ee4b28c, 0x550c7dc3d5ffb4e2,
   0x72be5d74f27b896f, 0x80deb1fe3b1696b1, 0x9bdc06a725c71235, 0xc19bf174cf692694] ++
  [0xe49b69c19ef14ad2, 0xefbe4786384f25e3, 0x0fc19dc68b8cd5b5, 0x240ca1cc77ac9c65,
   0x2de92c6f592b0275, 0x4a7484aa6ea6e483, 0x5cb0a9dcbd41fbd4, 0x76f988da831153b5] ++
  [0x983e5152ee66dfab, 0xa831c66d2db43210, 0xb00327c898fb213f, 0xbf597fc7beef0ee4,
   0xc6e00bf33da88fc2, 0xd5a79147930aa725, 0x06ca6351e003826f, 0x142929670a0e6e70] ++
  [0x27b70a8546d22ffc, 0x2e1b21385c26c926, 0x4d2c6dfc5ac42aed, 0x53380d139d95b3df,
   0x650a73548baf63de, 0x766a0abb3c77b2a8, 0x81c2c92e47edaee6, 0x92722c851482353b] ++
  [0xa2bfe8a14cf10364, 0xa81a664bbc423001, 0xc24b8b70d0f89791, 0xc76c51a30654be30,
   0xd192e819d6ef5218, 0xd69906245565a910, 0xf40e35855771202a, 0x106aa07032bbd1b8] ++
  [0x19a4c116b8d2d0c8, 0x1e376c085141ab53, 0x2748774cdf8eeb99, 0x34b0bcb5e19b48a8,
   0x391c0cb3c5c95a63, 0x4ed8aa4ae3418acb, 0x5b9cca4f7763e373, 0x682e6ff3d6b2b8a3] ++
  [0x748f82ee5defb2fc, 0x78a5636f43172f60, 0x84c87814a1f0ab72, 0x8cc702081a6439ec,
   0x90befffa23631e28, 0xa4506cebde82bde9, 0xbef9a3f7b2c67915, 0xc67178f2e372532b] ++
  [0xca273eceea26619c, 0xd186b8c721c0c207, 0xeada7dd6cde0eb1e, 0xf57d4f7fee6ed178,
   0x06f067aa72176fba, 0x0a637dc5a2c898a6, 0x113f9804bef90dae, 0x1b710b35131c471b] ++
  [0x28db77f523047d84, 0x32caab7b40c72493, 0x3c9ebe0a15c9bebc, 0x431d67c49c100d4c,
   0x4cc5d4becb3e42b6, 0x597f299cfc657e2a, 0x5fcb6fab3ad6faec, 0x6c44198c4a475817]

/-- Initial value of SHA-512. -/
def shaInit : List Nat :=
  [0x6a09e667f3bcc908, 0xbb67ae8584caa73b, 0x3c6ef372fe94f82b, 0xa54ff53a5f1d36f1,
   0x510e527fade682d1, 0x9b05688c2b3e6c1f, 0x1f83d9abfb41bd6b, 0x5be0cd19137e2179]

def rotr (n : Nat) (w : W64) : W64 := w.rotateRight n

/-- The 80 words of the schedule from the 16 of a block, newest first. -/
def shaSchedule : Nat → List W64 → List W64
  | 0, ws => ws
  | n + 1, ws =>
    let a := ws.getD 14 0#64
    let b := ws.getD 1 0#64
    let s0 := rotr 1 a ^^^ rotr 8 a ^^^ (a >>> 7)
    let s1 := rotr 19 b ^^^ rotr 61 b ^^^ (b >>> 6)
    shaSchedule n ((ws.getD 15 0#64 + s0 + ws.getD 6 0#64 + s1) :: ws)

/-- One round on the eight working words a to h. -/
def shaRound (v : List W64) (kw : W64) : List W64 :=
  match v with
  | [a, b, c, d, e, f, g, h] =>
    let t1 := h + (rotr 14 e ^^^ rotr 18 e ^^^ rotr 41 e) + ((e &&& f) ^^^ (~~~e &&& g)) + kw
    let t2 := (rotr 28 a ^^^ rotr 34 a ^^^ rotr 39 a) + ((a &&& b) ^^^ (a &&& c) ^^^ (b &&& c))
    [t1 + t2, a, b, c, d + t1, e, f, g]
  | _ => v

/-- The number that bytes spell, most significant first. -/
def beNat (bs : List Byte) : Nat := bs.foldl (fun n b => 256 * n + b.toNat) 0

/-- A number as n bytes, most significant first. -/
def beBytes (n v : Nat) : List Byte := (List.range n).map fun i => BitVec.ofNat 8 (v / 256 ^ (n - 1 - i))

/-- One block of 128 bytes. -/
def shaBlock (h : List W64) (block : List Byte) : List W64 :=
  let ws := (chunksOf 8 block).map fun c => BitVec.ofNat 64 (beNat c)
  let w := (shaSchedule 64 ws.reverse).reverse
  let kw := List.zipWith (fun k (x : W64) => BitVec.ofNat 64 k + x) shaK w
  List.zipWith (· + ·) h (kw.foldl shaRound h)

/-- SHA-512 of bytes: 64 bytes. -/
def sha512 (m : List Byte) : List Byte :=
  let n := m.length
  let zeros := (239 - n % 128) % 128
  let padded := m ++ [0x80#8] ++ List.replicate zeros 0#8 ++ beBytes 16 (8 * n)
  ((chunksOf 128 padded).foldl shaBlock (shaInit.map (BitVec.ofNat 64))).flatMap fun w => beBytes 8 w.toNat

/-- HMAC-SHA-512. -/
def hmac512 (key msg : List Byte) : List Byte :=
  let k := if 128 < key.length then sha512 key else key
  let k := k ++ List.replicate (128 - k.length) 0#8
  sha512 (k.map (· ^^^ 0x5C#8) ++ sha512 (k.map (· ^^^ 0x36#8) ++ msg))

/-- The salt of R747, in ASCII. -/
def identitySalt : List Byte := "TXD-512L identity".toList.map fun c => BitVec.ofNat 8 c.toNat

/-- Step 1 of R747: HKDF-SHA-512 with that salt, no info and 80 bytes. -/
def identityBytes (seed : List Byte) : List Byte :=
  let prk := hmac512 identitySalt seed
  let t1 := hmac512 prk [0x01#8]
  let t2 := hmac512 prk (t1 ++ [0x02#8])
  (t1 ++ t2).take 80

/-! ### P-521 -/

def pP : Nat := 2 ^ 521 - 1
/-- Order of P-521. -/
def pN : Nat := 0x1FFFFFFFFFFFFFFFFFFFFFFFFFFFFFFFFFFFFFFFFFFFFFFFFFFFFFFFFFFFFFFFFFA51868783BF2F966B7FCC0148F709A5D03BB5C9B8899C47AEBB6FB71E91386409
def pGx : Nat := 0x00C6858E06B70404E9CD9E3ECB662395B4429C648139053FB521F828AF606B4D3DBAA14B5E77EFE75928FE1DC127A2FFA8DE3348B3C1856A429BF97E7E31C2E5BD66
def pGy : Nat := 0x011839296A789A3BC0045C8A5FB42C7D1BD998F54449579B446817AFBD17273E662C97EE72995EF42640C550B9013FAD0761353C7086A272C24088BE94769FD16650

/-- `b ^ e` modulo the field's prime, on the low `fuel` bits of e. -/
def powP : Nat → Nat → Nat → Nat
  | 0, _, _ => 1
  | fuel + 1, b, e => (if e % 2 = 1 then b else 1) * powP fuel (b * b % pP) (e / 2) % pP

def invP (a : Nat) : Nat := powP 521 a (pP - 2)

/-- Sum of two points; none is the point at infinity. -/
def addPt : Option (Nat × Nat) → Option (Nat × Nat) → Option (Nat × Nat)
  | none, q => q
  | p, none => p
  | some (x, y), some (u, v) =>
    if x = u ∧ (y + v) % pP = 0 then none
    else
      let l := if x = u then (3 * x * x + (pP - 3)) * invP (2 * y % pP) % pP else (v + pP - y) * invP ((u + pP - x) % pP) % pP
      let r := (l * l + 2 * pP - x - u) % pP
      some (r, (l * (x + pP - r) + pP - y) % pP)

/-- `k · p` on the low `fuel` bits of k. -/
def mulPt : Nat → Nat → Option (Nat × Nat) → Option (Nat × Nat)
  | 0, _, _ => none
  | fuel + 1, k, p => addPt (if k % 2 = 1 then p else none) (mulPt fuel (k / 2) (addPt p p))

/-- The private key of R747. -/
def identityKey (seed : List Byte) : Nat := beNat (identityBytes seed) % (pN - 1) + 1

/-- The public key as an uncompressed point of 133 bytes (R747). -/
def identityPoint (seed : List Byte) : List Byte :=
  match mulPt 521 (identityKey seed) (some (pGx, pGy)) with
  | some (x, y) => 0x04#8 :: (beBytes 66 x ++ beBytes 66 y)
  | none => []

/-- The identity digest (R748). -/
def identityDigest (seed : List Byte) : List Byte := sha512 (identityPoint seed)

end Sys2Proof.Machine
end

