-- ==== Sys2Proof/Machine/Trust.lean ====
section
/-! DEFINITION. Machine/Trust.lean: boot, measurement, the module flash, reports, sessions and keys (R741 to R768). -/
namespace Sys2Proof.Machine

/-! ### Measurement slots (R742) -/

def zeros64 : List Byte := List.replicate 64 0#8

/-- Slot i: its digest and its extension count. -/
def Trust.slot (t : Trust) (i : Nat) : List Byte × Nat := t.slots.get (zeros64, 0) i

/-- An extension of a slot by a digest. -/
def Trust.extend (t : Trust) (i : Nat) (d : List Byte) : Trust :=
  { t with slots := t.slots.set i (sha512 ((t.slot i).1 ++ d), (t.slot i).2 + 1) }

/-! ### The configuration record (R754 to R756) -/

/-- Word i of the record. -/
def recWord (bs : List Byte) (i : Nat) : W64 := bytesWord ((bs.drop (8 * i)).take 8)

/-- The record may be used (R755). -/
def configOk (bs identity : List Byte) : Bool :=
  let w0 := recWord bs 0
  let w10 := recWord bs 10
  bs.length = 236 && fld w0 15 0 = 1 && fld w0 31 16 = 236 && (bs.drop 16).take 64 = identity &&
    fld w10 5 0 ≤ 48 && fld w10 7 6 = 0 && fld w10 15 12 = 0 && 1500 ≤ fld w10 31 16 && fld w10 31 16 ≤ 3000 &&
    fld w10 63 32 = 0 && fld (recWord bs 11) 63 32 = 0 && recWord bs 12 = 0#64

/-- SEQ of a record; 0 where there is none. -/
def recSeq (c : Option (List Byte)) : Nat := match c with
  | some bs => fld (recWord bs 0) 63 32
  | none => 0

/-- The staged record becomes the record in force when its SEQ is higher, and is discarded otherwise (R756); the
values of the record in force, or the defaults, are taken (R754, R755). -/
def Trust.configure (t : Trust) (sigOk : Bool) : Trust :=
  let cfg := if t.staged.isSome && recSeq t.config < recSeq t.staged then t.staged else t.config
  let bs := cfg.getD []
  let use := t.seed.isSome && configOk bs t.identity
  let w := if use then recWord bs 10 else mkWord [(16, 16, 3000)]
  let v := if use then recWord bs 11 else 0#64
  { t with
    config := cfg, staged := none, sigOk := sigOk && cfg.isSome, isDefault := !use,
    farBuffers := fld w 5 0, site := fld w 11 8, powerLimit := fld w 31 16, subVendor := fld v 15 0, subId := fld v 31 16 }

/-! ### Boot (R741 to R749) -/

/-- The bank that a stage takes its images from, and whether it fell back; none when both are malformed (R744). -/
def bankOf (b : BootLoad) (first : Nat) : Option (Nat × Bool) :=
  if b.firstOk then some (first, false) else if b.otherOk then some (1 - first, true) else none

/-- The ROM completes: the boot counter rises, the identity is derived, slots 0 and 1 are extended. -/
def Trust.romDone (t : Trust) (b : BootLoad) : Trust :=
  let t := { t with
    bootCount := t.bootCount + 1, seed := b.seed, slots := [],
    identity := (b.seed.map identityDigest).getD zeros64 }
  match bankOf b t.nextBank with
  | none => { t with stage := 0xFE }
  | some (k, fell) => ({ t with
      bank := k, fallbacks := b2n fell, stage := 1 }.extend 0 Config.romDigest).extend 1 (b.digests.getD 0 zeros64)

/-- Stage 1 completes: slots 2 to 6, and the configuration record before the measurement of slot 4. -/
def Trust.stage1Done (t : Trust) (b : BootLoad) : Trust :=
  match bankOf b t.bank with
  | none => { t with stage := 0xFE }
  | some (_, fell) =>
    let t := { t with fallbacks := t.fallbacks + b2n fell, stage := 2 }.configure b.sigOk
    ((((t.extend 2 (b.digests.getD 0 zeros64)).extend 3 (b.digests.getD 1 zeros64)).extend 4 (sha512 (t.config.getD []))).extend 5
      (b.digests.getD 2 zeros64)).extend 6 Config.vendorDigest

/-- Enables a queue with the kettle's values, and binds its producer and its consumer (R334, R342, R843). Who the parties of a
queue are follows from its use in R333. -/
def State.enableQueue (s : State) (pool qid guarantee quota : Nat) (ctx : Option Nat) (sink : Sink) (from_ toward : Party) : State :=
  s.updQueue pool qid fun q => { q with
    enabled := true, guarantee := guarantee, quota := quota, ctx := ctx, sink := sink, producer := some from_, consumer := some toward }

/-- The kettle enables the queues of a mailbox. -/
def State.enableMailbox (s : State) (mb : Nat) : State :=
  (s.enableQueue 0 (0x100 + 2 * mb) 16 16 (some (mb / 4)) .kettle (.mailbox mb) .kettle).enableQueue 0 (0x101 + 2 * mb) 16 16 (some (mb / 4)) .none
    .kettle (.mailbox mb)

/-- The kettle enables every queue that R333 assigns it, with the values of R843; the infuser's and its own queues, for
which the rule leaves the values to the firmware, take none guaranteed and 16,384 at most. -/
def State.startQueues (s : State) : State :=
  let s := forN 32 (fun mb s => s.enableMailbox mb) s
  let s := forN 64 (fun i s =>
    (s.enableQueue 0 (0x140 + i) 0 16384 (some (i / 8)) .kettle .kettle (.ctx (i / 8))).enableQueue 1 (0x140 + i) 0 16384 (some (i / 8)) .kettle
      .kettle (.ctx (i / 8))) s
  let s := forN 8 (fun x s => s.enableQueue 0 (0x181 + x) 64 1024 (some x) .none .kettle (.ctx x)) s
  let own (i : Nat) : Nat := if i < 32 then 0x190 + i else 0x1C0 + (i - 32)
  let by_ (i : Nat) : Party := if i < 32 then .infuser else .kettle
  forN 96 (fun i s => (s.enableQueue 0 (own i) 0 16384 none .none (by_ i) (by_ i)).enableQueue 1 (own i) 0 16384 none .none (by_ i) (by_ i)) s

/-- BOOT_STAGE_COMPLETE (R741): the running stage has loaded and measured the next. Stage 2 ends with the core
stores zeroed and the module ready, and with the records that had to wait (R744, R749, R755). After a thermal trip the ROM waits for
every sensor below 85 °C (R817); with the ROM's end the memories start their training, and stage 1 ends when none is still
training (R323, R745). -/
def execBootStageComplete (b : BootLoad) (s : State) : Host.Outcome State Fault Refusal :=
  let hot := s.power.tripHold && s.faults.marginG.any fun e => 1360 ≤ e.2.temp
  if s.host.resetHeld || s.power.off || s.power.refLost || (s.trust.stage = 0 && hot) || (s.trust.stage = 1 && !s.mem.settled) then .next s
  else if s.trust.stage = 0 then
    let t := s.trust.romDone b
    let s : State := { s with
      trust := t
      power := { s.power with tripHold := false }
      host := { s.host with alertOos := s.host.alertOos || t.stage == 0xFE }
      mem := if t.stage = 1 then s.mem.train (b2n s.faults.moduleReset.isSome) else s.mem }
    let s := s.enableQueue 0 0x180 1024 16384 none .kettle .kettle .kettle
    .next (if t.stage = 0xFE then s.enableMailbox 0 else s)
  else if s.trust.stage = 1 then
    let t := s.trust.stage1Done b
    let up := t.stage = 2
    let s : State := { s with
      trust := t
      fabric := { s.fabric with site := if up then t.site else s.fabric.site }
      host := { s.host with pldmReady := decide up, alertOos := s.host.alertOos || !up } }
    .next (if up then s else s.enableMailbox 0)
  else if s.trust.stage = 2 then
    let t := { s.trust with stage := 0x0F }.extend 7 Config.calibrationDigest
    let s := { s with trust := t, mem := s.mem.coresGone, cores := s.cores.map fun (e : Nat × Core) => (e.1, { e.2 with store := {} }) }
    let s := s.startQueues
    let s := if t.seed.isNone then s.raise { code := Rec.identityFail, cls := .uc } else s
    let s := if t.isDefault then s.raise { code := Rec.configDefault, cls := .ce } else s
    .next (forN t.fallbacks (fun _ s => s.raise { code := Rec.bootBankFallback, cls := .ce }) s).resetDone
  else .next s

/-! ### Reports (R757, R758) -/

def leBytes (n v : Nat) : List Byte := (List.range n).map fun i => BitVec.ofNat 8 (v / 256 ^ i)

/-- FLAGS of a report. -/
def Trust.flags (t : Trust) : Nat :=
  b2n t.seed.isSome + 2 * b2n t.config.isSome + 4 * b2n t.sigOk + 8 * b2n t.isDefault + 16 * t.bank + 32 * b2n (decide (t.stage = 0xFE))

/-- Bytes 0 to 767 of a report. -/
def State.reportBody (s : State) (nonce : List W64) : List Byte :=
  let t := s.trust
  leBytes 2 1 ++ [s.host.revision, 9#8] ++ leBytes 4 t.flags ++ leBytes 8 t.bootCount ++ (nonce.flatMap wordBytes).take 32 ++
    t.identity.take 64 ++ ((List.range 9).flatMap fun i => (t.slot i).1 ++ leBytes 4 (t.slot i).2 ++ leBytes 4 0) ++ leBytes 8 s.now

/-- A signature by the identity key over the hash of bytes; zero bytes without an identity (R749). -/
def Trust.sign (t : Trust) (bs : List Byte) : List Byte := match t.seed with
  | some seed => Config.signature (identityKey seed) (sha512 bs)
  | none => List.replicate 132 0#8

/-- ATTEST_REPORT (R758, R765). -/
def execAttestReport (r : Req) (host : HostRead) (s : State) : Host.Outcome State Fault Refusal :=
  .next (s.kettle r 0x0600 false anyClass fun k s =>
    let addr := (k.arg 4).toNat
    if k.args.length ≠ 5 then done s St.reserved
    else s.dma k host addr true fun _ =>
      let body := s.reportBody (k.args.take 4)
      done (s.emit (.hostWrite addr (body ++ s.trust.sign body))) St.ok)

/-- CERT_READ (R753, R765). -/
def execCertRead (r : Req) (host : HostRead) (s : State) : Host.Outcome State Fault Refusal :=
  .next (s.kettle r 0x0601 false anyClass fun k s =>
    let addr := (k.arg 1).toNat
    if k.args.length ≠ 3 || fld (k.arg 0) 63 2 ≠ 0 then done s St.reserved
    else s.dma k host addr true fun _ =>
      let bs := (Config.certificate (fld (k.arg 0) 1 0)).take (k.arg 2).toNat
      (s.emit (.hostWrite addr bs), some (St.ok, [BitVec.ofNat 64 bs.length])))

/-! ### Module flash (R750 to R752, R756) -/

def bankBytes : Nat := 0x4000000

/-- FW_WRITE (R752, R765, R766). -/
def execFwWrite (r : Req) (host : HostRead) (s : State) : Host.Outcome State Fault Refusal :=
  .next (s.kettle r 0x0605 false adminClass fun k s =>
    let b := fld (k.arg 0) 0 0
    let off := fld (k.arg 0) 63 32
    let n := fld (k.arg 2) 31 0
    if k.args.length ≠ 3 || fld (k.arg 0) 31 1 ≠ 0 || fld (k.arg 2) 63 32 ≠ 0 then done s St.reserved
    else if b = s.trust.bank || b = s.trust.nextBank then done s St.bankActive
    else if bankBytes < off + n then done s St.fwImage
    else s.dma k host (k.arg 1).toNat false fun ws =>
      let m := s.trust.banks.setBytes (b * bankBytes + off) ((ws.flatMap wordBytes).take n)
      done { s with trust := { s.trust with banks := m } } St.ok)

/-- FW_ACTIVATE (R752, R765): the selector takes effect at the next boot. -/
def execFwActivate (r : Req) (s : State) : Host.Outcome State Fault Refusal :=
  .next (s.kettle r 0x0606 false adminClass fun k s =>
    if k.args.length ≠ 1 || fld (k.arg 0) 63 1 ≠ 0 then done s St.reserved
    else done { s with trust := { s.trust with nextBank := fld (k.arg 0) 0 0 } } St.ok)

/-- CONFIG_WRITE (R756, R765). -/
def execConfigWrite (r : Req) (host : HostRead) (s : State) : Host.Outcome State Fault Refusal :=
  .next (s.kettle r 0x0607 false adminClass fun k s =>
    if k.args.length ≠ 1 then done s St.reserved
    else s.dma k host (k.arg 0).toNat false fun ws =>
      done { s with trust := { s.trust with staged := some ((ws.flatMap wordBytes).take 236) } } St.ok)

/-! ### Handles (R762 to R764) -/

def handleOf (e : KeyEntry) (entry : Nat) : Nat := e.kind * 0x1000000 + e.ctx * 0x200000 + e.gen * 64 + entry

/-- The entry that a handle resolves to. -/
def Trust.resolve (t : Trust) (h : Nat) : Option (Nat × KeyEntry) :=
  match t.keys.find (h % 64) with
  | some e => if handleOf e (h % 64) = h then some (h % 64, e) else none
  | none => none

/-- A defined model slot names the handle. -/
def State.modelUses (s : State) (h : Nat) : Bool :=
  s.ctxs.any fun e => e.2.models.any fun m => m.2.state != .free && m.2.key == h

/-- KEY_LIST (R765): at most the 56 handles that 28 reply words hold (R380). -/
def execKeyList (r : Req) (s : State) : Host.Outcome State Fault Refusal :=
  .next (s.kettle r 0x0603 false anyClass fun k s =>
    let all := (List.range 64).filterMap fun i => match s.trust.keys.find i with
      | some e => if s.isAdmin k.mb || (e.kind = 1 && e.ctx = k.x) then some (handleOf e i) else none
      | none => none
    let shown := all.take 56
    if !k.args.isEmpty then done s St.reserved
    else (s, some (St.ok, BitVec.ofNat 64 all.length :: (chunksOf 2 shown).map fun p => mkWord [(0, 32, p.getD 0 0), (32, 32, p.getD 1 0)])))

/-- KEY_DESTROY (R764, R765). -/
def execKeyDestroy (r : Req) (s : State) : Host.Outcome State Fault Refusal :=
  .next (s.kettle r 0x0604 false anyClass fun k s =>
    let h := fld (k.arg 0) 31 0
    if k.args.length ≠ 1 || fld (k.arg 0) 63 32 ≠ 0 then done s St.reserved
    else if !s.isAdmin k.mb && !(h / 0x1000000 = 1 && h / 0x200000 % 8 = k.x) then done s St.notAdmin
    else match s.trust.resolve h with
      | none => done s St.keyUnknown
      | some (i, _) =>
        if s.modelUses h then done s St.keyInUse
        else done { s with trust := { s.trust with keys := s.trust.keys.drop i } } St.ok)

/-! ### Sessions (R759 to R761, R771) -/

/-- SPDM answers on a path: in band once the mailboxes do, out of band from stage 1 (R788). -/
def State.spdmUp (s : State) (oob : Bool) : Bool :=
  if oob then s.trust.stage ≠ 0 else s.trust.stage = 0x0F

/-- The response to a request: over MCTP, or kept for SPDM_TRANSFER. -/
def State.spdmReply (s : State) (oob : Bool) (kind : Nat) (ws : List W64) : State :=
  let m := Config.spdmMessage kind ws
  if oob then s.emit (.mctp 0x05 m) else { s with trust := { s.trust with reply := some m } }

/-- Bytes as words. -/
def digestWords (bs : List Byte) : List W64 := (chunksOf 8 bs).map bytesWord

/-- SPDM_GET_CERTIFICATE (R753, R759). -/
def execSpdmGetCertificate (oob : Bool) (index offset len : Nat) (s : State) : Host.Outcome State Fault Refusal :=
  if !s.spdmUp oob then .next s
  else .next (s.spdmReply oob 0x02 (digestWords (((Config.certificate (index % 4)).drop offset).take len)))

/-- SPDM_CHALLENGE (R759): the answer carries the digest of every measurement and a signature. -/
def execSpdmChallenge (oob : Bool) (nonce : List W64) (s : State) : Host.Outcome State Fault Refusal :=
  if !s.spdmUp oob then .next s
  else
    let body := nonce ++ digestWords (sha512 ((List.range 9).flatMap fun i => (s.trust.slot i).1))
    .next (s.spdmReply oob 0x03 (body ++ digestWords (s.trust.sign (body.flatMap wordBytes))))

/-- SPDM_GET_MEASUREMENTS (R758): block i + 1 carries slot i; 0xFF asks for all. -/
def execSpdmGetMeasurements (oob : Bool) (index : Nat) (nonce : List W64) (s : State) : Host.Outcome State Fault Refusal :=
  if !s.spdmUp oob then .next s
  else
    let is := (List.range 9).filter fun i => index = 0xFF || index = i + 1
    let body := nonce ++ is.flatMap fun i => BitVec.ofNat 64 (i + 1) :: digestWords (s.trust.slot i).1
    .next (s.spdmReply oob 0x60 (body ++ digestWords (s.trust.sign (body.flatMap wordBytes))))

/-- SPDM_KEY_EXCHANGE (R749, R759, R760): at most 8 sessions, and none without an identity. -/
def execSpdmKeyExchange (oob all : Bool) (s : State) : Host.Outcome State Fault Refusal :=
  if !s.spdmUp oob then .next s
  else if s.trust.seed.isNone || 8 ≤ s.trust.sessions.length then .next (s.spdmReply oob 0x7F [])
  else
    let id := s.trust.nextSession
    let sum := if all then digestWords (sha512 ((List.range 9).flatMap fun i => (s.trust.slot i).1)) else []
    let s := { s with trust := { s.trust with
      sessions := s.trust.sessions ++ [({ id := id, summary := all, oob := oob, beat := s.steep.ticks } : Session)]
      nextSession := id + 1 } }
    .next (s.spdmReply oob 0x64 (BitVec.ofNat 64 id :: sum))

/-- Drops a session. -/
def State.endSession (s : State) (id : Nat) : State :=
  { s with trust := { s.trust with sessions := s.trust.sessions.filter fun x => x.id ≠ id } }

/-- SPDM_HEARTBEAT (R760). -/
def execSpdmHeartbeat (oob : Bool) (session : Nat) (s : State) : Host.Outcome State Fault Refusal :=
  if !s.spdmUp oob then .next s
  else if !(s.trust.sessions.any fun x => x.id == session) then .next (s.spdmReply oob 0x7F [])
  else
    let t := { s.trust with sessions := s.trust.sessions.map fun x => if x.id = session then { x with beat := s.steep.ticks } else x }
    let s : State := { s with trust := t }
    .next (s.spdmReply oob 0x68 [BitVec.ofNat 64 session])

/-- SPDM_END_SESSION (R760). -/
def execSpdmEndSession (oob : Bool) (session : Nat) (s : State) : Host.Outcome State Fault Refusal :=
  if !s.spdmUp oob then .next s
  else if !(s.trust.sessions.any fun x => x.id == session) then .next (s.spdmReply oob 0x7F [])
  else .next ((s.endSession session).spdmReply oob 0x6C [BitVec.ofNat 64 session])

/-- SPDM_SESSION_TIMEOUT (R760): 60 s without a heartbeat. -/
def execSpdmSessionTimeout (session : Nat) (s : State) : Host.Outcome State Fault Refusal :=
  if s.trust.sessions.any fun x => x.id == session && x.beat + 6000000000 ≤ s.steep.ticks then .next (s.endSession session) else .next s

/-- SPDM_TRANSFER (R759, R765): the response to the request that the responder has handled, up to the length given;
NO_IDENTITY without an identity (R766). -/
def execSpdmTransfer (r : Req) (host : HostRead) (s : State) : Host.Outcome State Fault Refusal :=
  .next (s.kettle r 0x0602 false anyClass fun k s =>
    if k.args.length ≠ 4 || fld (k.arg 0) 63 16 ≠ 0 || fld (k.arg 3) 63 16 ≠ 0 then done s St.reserved
    else if s.trust.seed.isNone then done s St.noIdentity
    else s.dma k host (k.arg 1).toNat false fun ws =>
      let resp := s.trust.reply.getD (Config.spdmMessage 0x7F ws)
      let bs := (resp.flatMap wordBytes).take (fld (k.arg 3) 15 0)
      let s := { s with trust := { s.trust with reply := none } }
      (s.emit (.hostWrite (k.arg 2).toNat bs), some (St.ok, [BitVec.ofNat 64 bs.length])))

/-- The entry that a new key takes: the lowest free one. -/
def Trust.freeEntry (t : Trust) : Option Nat := (List.range 64).find? fun i => (t.keys.find i).isNone

/-- The next generation of an entry: modulo 1,024, skipping 0 (R762). -/
def Trust.nextGen (t : Trust) (i : Nat) : Nat := let g := t.gens.get 0 i; if 1023 ≤ g then 1 else g + 1

/-- The answer to KEY_DELIVER: STATUS and HANDLE (R761). -/
def State.deliverReply (s : State) (oob : Bool) (status handle : Nat) : State :=
  s.spdmReply oob 0x7E [mkWord [(0, 8, status), (8, 32, handle)]]

/-- KEY_DELIVER (R760 to R762): only inside a session whose exchange asked for the summary. -/
def execKeyDeliver (oob : Bool) (session : Nat) (d : KeyDelivery) (s : State) : Host.Outcome State Fault Refusal :=
  if !s.spdmUp oob then .next s
  else if !(s.trust.sessions.any fun x => x.id == session && x.summary) then .next (s.spdmReply oob 0x7F [])
  else if !(d.kind = 1 || d.kind = 2) || 7 < d.ctx || (d.kind = 2 && d.ctx ≠ 0) || d.reserved ≠ 0 || d.key.length ≠ 4 then
    .next (s.deliverReply oob 2 0)
  else match s.trust.freeEntry with
    | none => .next ((s.raise { code := Rec.keyTableFull, cls := .ce }).deliverReply oob 1 0)
    | some i =>
      let t := s.trust
      let e : KeyEntry := { kind := d.kind, ctx := d.ctx, gen := t.nextGen i, key := d.key }
      let t := { t with keys := t.keys.set i e, gens := t.gens.set i e.gen, delivered := satN 32 (t.delivered + 1) }
      let s : State := { s with trust := t }
      .next (s.deliverReply oob 0 (handleOf e i))

/-- IDE_KM (R771): the keys of the link IDE stream, and its start or stop, inside a session. -/
def execIdeKm (oob : Bool) (session : Nat) (key : List W64) (go : Bool) (s : State) : Host.Outcome State Fault Refusal :=
  if !s.spdmUp oob then .next s
  else if !(s.trust.sessions.any fun x => x.id == session) then .next (s.spdmReply oob 0x7F [])
  else
    let s := { s with trust := { s.trust with ideKey := some key }, host := { s.host with ideActive := go } }
    .next (s.spdmReply oob 0x7E [BitVec.ofNat 64 session])

/-- CONTEXT_DESTROY erases the model keys of the context (R764). -/
def Trust.dropCtxKeys (t : Trust) (x : Nat) : Trust :=
  { t with keys := t.keys.filter fun e => !(e.2.kind == 1 && e.2.ctx == x) }

end Sys2Proof.Machine
end

