-- ==== Sys2Proof/Machine/Contexts.lean ====
section
/-! DEFINITION. Machine/Contexts.lean: the module's own commands, contexts, die schedules, virtual stages and the
handling of streams by command (R23 to R26, R45, R382, R383, R403, R407 to R424). -/
namespace Sys2Proof.Machine

/-! ### Words of the context registers (R327, R426) -/

/-- The slots mask of CTX_STATE: bit s a stream queued or running, bit 16 + s a held slot. -/
def Ctx.slotsMask (c : Ctx) : Nat :=
  c.slots.foldl (fun n e => n + (if e.2.streams.any (fun t => !t.gone) then 2 ^ e.1 else 0) + (if e.2.held then 2 ^ (16 + e.1) else 0)) 0

def CtxState.code : CtxState → Nat
  | .free => 0
  | .stopped => 1
  | .active => 2
  | .draining => 3
  | .fenced => 4

/-- The rotation in force on a die, if one is. -/
def State.rotation (s : State) (d : Nat) : Rotation := s.rotations.get {} d

/-- A die of the context has a rotation (R426). -/
def State.timeShared (s : State) (x : Nat) : Bool :=
  (List.range 8).any fun d => Nat.testBit (s.ctx x).dieMask d && !(s.rotation d).entries.isEmpty

def State.ctxStateWord (s : State) (x : Nat) : W64 :=
  let c := s.ctx x
  mkWord [(0, 3, c.state.code), (3, 1, b2n c.pendingEnable.isSome), (8, 8, c.dieMask), (16, 1, b2n (s.timeShared x)),
    (17, 1, b2n c.switching), (32, 32, c.slotsMask)]

def Ctx.windowWord (c : Ctx) : W64 :=
  mkWord [(0, 19, c.fastBase), (20, 19, c.fastPages), (40, 9, c.slowBase), (50, 10, c.slowGib)]

/-! ### The module's own commands -/

/-- GET_VERSION (R2, R382): major version 1; the minor version and the build are the firmware's. -/
def execGetVersion (r : Req) (s : State) : Host.Outcome State Fault Refusal :=
  .next (s.kettle r 0x0001 false anyClass fun k s =>
    if !k.args.isEmpty then done s St.reserved
    else (s, some (St.ok, [1#64, Config.minorVersion, Config.firmwareBuild])))

/-- CONTEXT_INFO (R378, R382, R383): a context's mailbox names its own context only. -/
def execContextInfo (r : Req) (s : State) : Host.Outcome State Fault Refusal :=
  .next (s.kettle r 0x0014 false anyClass fun k s =>
    let x := fld (k.arg 0) 2 0
    if k.args.length ≠ 1 || fld (k.arg 0) 63 3 ≠ 0 then done s St.reserved
    else if !(s.isAdmin k.mb || k.mb / 4 == x) then done s St.badContext
    else (s, some (St.ok, [s.ctxStateWord x, (s.ctx x).windowWord])))

/-- DOMAIN_PERIOD (R45, R382): the same NEXT_Q and AT_COUNT go into every module of the domain, at least 8 steeps
ahead. -/
def execDomainPeriod (r : Req) (s : State) : Host.Outcome State Fault Refusal :=
  .next (s.kettle r 0x0030 false adminClass fun k s =>
    let q := (k.arg 0).toNat
    let at_ := (k.arg 1).toNat
    if k.args.length ≠ 2 || q = 0 || 32 < q || at_ < s.now + 8 then done s St.reserved
    else
      let s := { s with steep := { s.steep with nextQ := q, atCount := at_, periodBy := some k.ref } }
      done (forL (s.members.modules.filter fun e => e.1 ≠ s.fabric.dn) (fun e s =>
        s.inject 0x07 7 (pathWords e.2) none 0 [domainWord k.code, k.arg 0, k.arg 1]) s) St.accepted)

/-- Splits argument words into paths, each as long as its own hop count says. -/
def splitPaths : Nat → List W64 → Option (List (List W64))
  | _, [] => some []
  | 0, _ => none
  | fuel + 1, w :: ws =>
    let n := pathWordCount (fld w 3 0)
    if (w :: ws).length < n then none
    else (splitPaths fuel ((w :: ws).drop n)).map fun ps => (w :: ws).take n :: ps

/-- COMPOSITE_DECLARE (R23, R26, R382): members lead first; each names a module or a group of this steep domain. -/
def execCompositeDeclare (r : Req) (s : State) : Host.Outcome State Fault Refusal :=
  .next (s.kettle r 0x0031 false adminClass fun k s =>
    match splitPaths 28 k.args with
    | none => done s St.reserved
    | some ps =>
      let okWords := ps.all fun p => pathWordsOk p && (parsePath (pathHops p)).isSome
      let okUnits := ps.all fun p => match parsePath (pathHops p) with
        | some q => (q.domain.isNone || q.domain == some s.fabric.site) && q.below == .module && (q.module.isSome || !q.groups.isEmpty)
        | none => false
      if ps.isEmpty || 28 < k.args.length || !okWords then done s St.reserved
      else if !okUnits then done s St.badPath
      else
        let g := ((List.range 4096).find? fun g => (s.composites.find g).isNone).getD 0
        ({ s with composites := s.composites.set g { members := ps } }, some (St.ok, [BitVec.ofNat 64 g])))

/-- COMPOSITE_DISSOLVE (R382). -/
def execCompositeDissolve (r : Req) (s : State) : Host.Outcome State Fault Refusal :=
  .next (s.kettle r 0x0032 false adminClass fun k s =>
    let g := (k.arg 0).toNat
    if k.args.length ≠ 1 || 4095 < g then done s St.reserved
    else if (s.composites.find g).isNone then done s St.badPath
    else done { s with composites := s.composites.drop g } St.ok)

/-! ### Contexts (R407 to R412) -/

/-- Two intervals share a point. -/
def overlap (a n b m : Nat) : Bool := decide (0 < n) && decide (0 < m) && decide (a < b + m) && decide (b < a + n)

/-- First context page above which the far-link pool and the firmware area lie (R297). -/
def State.contextPages (s : State) : Nat := (firmwareBase - s.trust.farBuffers * 402653184) / 0x200000

/-- The windows a context holds or is about to hold. -/
def Ctx.windows (c : Ctx) : Nat × Nat × Nat × Nat :=
  c.windowDue.getD (c.fastBase, c.fastPages, c.slowBase, c.slowGib)

/-- Windows lie in the context pages and the own half and overlap no other context's (R300, R408). -/
def State.windowsOk (s : State) (x fb fp sb sg : Nat) : Bool :=
  fb + fp ≤ s.contextPages && sb + sg ≤ 512 && (List.range 8).all fun y =>
    let c := s.ctx y
    let w := c.windows
    y = x || !(overlap fb fp w.1 w.2.1 || overlap sb sg w.2.2.1 w.2.2.2 ||
      overlap fb fp c.fastBase c.fastPages || overlap sb sg c.slowBase c.slowGib)

/-- A die of the mask belongs to another context and no die schedule shares it (R412). -/
def State.dieConflict (s : State) (x mask : Nat) : Bool :=
  (List.range 8).any fun d => Nat.testBit mask d && (s.rotation d).entries.isEmpty && (s.rotation d).due.isNone &&
    (List.range 8).any fun y => y ≠ x && (s.ctx y).state != .free &&
      (Nat.testBit (s.ctx y).dieMask d || (match (s.ctx y).maskDue with | some m => Nat.testBit m.1 d | none => false))

/-- CONTEXT_CREATE (R407, R408, R412, R425): the context is STOPPED with its dies at once and its windows from step 7
of the next boundary (R300); a module that is OUT_OF_SERVICE creates none (R691). The context's scale status starts at zero
(R125, log 85). -/
def execContextCreate (r : Req) (s : State) : Host.Outcome State Fault Refusal :=
  .next (s.kettle r 0x0010 false adminClass fun k s =>
    let a := k.arg 0
    let b := k.arg 1
    let x := fld a 2 0
    let mask := fld a 15 8
    let fp := fld a 34 16
    let fb := fld a 53 35
    let sg := fld a 63 54
    let sb := fld b 8 0
    if k.args.length ≠ 3 || fld a 7 3 ≠ 0 || mask = 0 || 512 < sg || fld b 63 9 ≠ 0 then done s St.reserved
    else if s.faults.outOfService then done s St.outOfService
    else if (s.ctx x).state != .free then done s St.badContext
    else if !s.windowsOk x fb fp sb sg then done s St.noResource
    else if s.dieConflict x mask then done s St.scheduleConflict
    else
      let c := s.ctx x
      done (s.setCtx x {
        state := .stopped, dieMask := mask, fastBase := c.fastBase, fastPages := c.fastPages, slowBase := c.slowBase,
        slowGib := c.slowGib, windowDue := some (fb, fp, sb, sg), jobId := k.arg 2, jobs := (c.jobs + 1) % 2 ^ 32,
        held := c.held, ratio := c.ratio, window := c.window,
        eventVectorEn := c.eventVectorEn, eventVector := c.eventVector }) St.ok)

/-- A destroyed context leaves its entries of a rotation, as context 8, until the next boundary takes them out (R410). -/
def Rotation.forget (r : Rotation) (x : Nat) : Rotation :=
  let out (es : List (Nat × Nat)) : List (Nat × Nat) := es.map fun p => if p.1 = x then (8, p.2) else p
  { r with entries := out r.entries, due := r.due.map fun d => (out d.1, d.2) }

/-- The queues of a context's command slots and its events are reset (R410). -/
def State.resetCtxQueues (s : State) (x : Nat) : State :=
  let s := forN 16 (fun slot s =>
    let q := slotQueue x slot
    s.resetQueue q.1 q.2) s
  s.resetQueue 0 (0x181 + x)

/-- CONTEXT_DESTROY (R410): queued streams are cancelled, queues and mailboxes reset; the windows are freed at step
7 of the next boundary. Its completion is written before its own mailbox is reset. The context's scale status is zeroed, which
no rule says of a create or destroy (R125, log 85). -/
def execContextDestroy (r : Req) (s : State) : Host.Outcome State Fault Refusal :=
  .next (s.kettle r 0x0011 false adminClass fun k s =>
    let x := fld (k.arg 0) 2 0
    if k.args.length ≠ 1 || fld (k.arg 0) 63 3 ≠ 0 then done s St.reserved
    else if (s.ctx x).state != .stopped then done s St.badContext
    else
      let c := s.ctx x
      let s := s.resetCtxQueues x
      let s := s.setCtx x {
        fastBase := c.fastBase, fastPages := c.fastPages, slowBase := c.slowBase, slowGib := c.slowGib,
        windowDue := some (0, 0, 0, 0), jobs := c.jobs, ratio := c.ratio, window := c.window,
        eventVectorEn := c.eventVectorEn, eventVector := c.eventVector }
      let s := { s with
        rotations := s.rotations.map fun (e : Nat × Rotation) => (e.1, e.2.forget x)
        loads := s.loads.filter fun l => l.ctx ≠ x
        trust := s.trust.dropCtxKeys x }
      let s := if k.mb / 4 = x then s.complete k.mb k.code k.tag St.ok [] else s
      let s := forN 4 (fun j s => s.resetMailbox (4 * x + j)) s
      if k.mb / 4 = x then (s, none) else done s St.ok)

/-- CONTEXT_PARTITION (R411, R412, R416). -/
def execContextPartition (r : Req) (s : State) : Host.Outcome State Fault Refusal :=
  .next (s.kettle r 0x0012 false adminClass fun k s =>
    let a := k.arg 0
    let x := fld a 2 0
    let mask := fld a 15 8
    let left := (List.range 8).any fun d => !(Nat.testBit mask d) && (s.rotation d).entries.any fun p => p.1 == x
    let shared := (List.range 8).any fun d => Nat.testBit mask d && (s.rotation d).entries.any fun p => p.1 == x
    if k.args.length ≠ 1 || fld a 7 3 ≠ 0 || fld a 63 16 ≠ 0 || mask = 0 then done s St.reserved
    else if (s.ctx x).state == .free then done s St.badContext
    else if (s.ctx x).busy then done s St.busy
    else if s.dieConflict x mask || left then done s St.scheduleConflict
    else if shared && (s.ctx x).windows.2.1 < 194 * popN 8 mask then done s St.noResource
    else done (s.updCtx x fun c => { c with maskDue := some (mask, k.ref) }) St.accepted)

/-! ### Time sharing (R413 to R416) -/

/-- The context that a rotation gives steep t; none without entries. -/
def entryAt : List (Nat × Nat) → Nat → Option Nat
  | [], _ => none
  | (x, run) :: rest, i => if i < run then some x else entryAt rest (i - run)

def runSum (es : List (Nat × Nat)) : Nat := es.foldl (fun n e => n + e.2) 0

/-- The context that a die's rotation, or its mask where it has none, gives in steep t. -/
def State.dieHolder (s : State) (d t : Nat) : Option Nat :=
  let r := s.rotation d
  if r.entries.isEmpty then (List.range 8).find? fun x => (s.ctx x).state != .free && Nat.testBit (s.ctx x).dieMask d
  else entryAt r.entries ((t - r.start) % runSum r.entries)

/-- Two dies give a context the same steeps over the given number of steeps (R415). -/
def sameSteeps (s : State) (x d e t n : Nat) : Bool :=
  (List.range n).all fun i => (s.dieHolder d (t + i) == some x) == (s.dieHolder e (t + i) == some x)

/-- The entries would give an enabled context of the die different steeps on another of its dies (R415). -/
def State.scheduleClash (s : State) (d : Nat) (es : List (Nat × Nat)) : Bool :=
  let s' := { s with rotations := s.rotations.set d { entries := es, start := s.now + 1 } }
  (List.range 8).any fun x => (s.ctx x).state != .free && (s.ctx x).state != .stopped && Nat.testBit (s.ctx x).dieMask d &&
    (List.range 8).any fun e => e ≠ d && Nat.testBit (s.ctx x).dieMask e &&
      !(sameSteeps s' x d e (s.now + 1) (runSum es * max 1 (runSum (s.rotation e).entries)))

/-- Several contexts share the die and the window of one of them cannot hold the save area of its dies (R416). -/
def State.saveAreaShort (s : State) (es : List (Nat × Nat)) : Bool :=
  let ctxs := (es.map (·.1)).eraseDups
  1 < ctxs.length && ctxs.any (fun x => (s.ctx x).windows.2.1 < 194 * popN 8 (s.ctx x).dieMask)

/-- DIE_SCHEDULE (R413, R415, R416): refused when a context of the rotation does not hold the die, when its dies
would give an enabled context different steeps, or when a window cannot hold the save area. -/
def execDieSchedule (r : Req) (s : State) : Host.Outcome State Fault Refusal :=
  .next (s.kettle r 0x0013 false adminClass fun k s =>
    let a := k.arg 0
    let d := fld a 2 0
    let n := fld a 11 8
    let es := (k.args.drop 1).map fun w => (fld w 2 0, fld w 15 8)
    let bad := (k.args.drop 1).any fun w => fld w 7 3 ≠ 0 || fld w 63 16 ≠ 0 || fld w 15 8 = 0
    if k.args.isEmpty || fld a 7 3 ≠ 0 || fld a 63 12 ≠ 0 || n = 0 || 8 < n || es.length ≠ n || bad then done s St.reserved
    else if es.any (fun e => (s.ctx e.1).state == .free) then done s St.badContext
    else if es.any (fun e => !(Nat.testBit (s.ctx e.1).dieMask d)) then done s St.scheduleConflict
    else if s.scheduleClash d es then done s St.scheduleConflict
    else if s.saveAreaShort es then done s St.noResource
    else done { s with rotations := s.rotations.set d { s.rotation d with due := some (es, k.ref) } } St.accepted)

/-! ### Streams, stages, interference -/

/-- STREAM_CANCEL (R403): a stream that has not started is removed; one that runs issues no further slice. -/
def execStreamCancel (r : Req) (s : State) : Host.Outcome State Fault Refusal :=
  .next (s.kettle r 0x0021 false anyClass fun k s =>
    let id := fld (k.arg 0) 31 0
    let x := k.x
    let c := s.ctx x
    if k.args.length ≠ 1 || fld (k.arg 0) 63 32 ≠ 0 then done s St.reserved
    else match (List.range 16).find? fun sl => (c.slot sl).streams.any fun t => t.id == id && !t.gone with
      | none => done s St.noEffect
      | some sl =>
        match (c.slot sl).streams with
        | [] => done s St.noEffect
        | t :: rest =>
          if t.id = id then
            (if t.started && t.running.isSome then
              done (s.setCtx x (c.setSlot sl { (c.slot sl) with streams := { t with cancelled := true } :: rest })) St.ok
            else done (s.endStream x sl St.cancelled) St.ok)
          else
            let tag := ((rest.find? fun t => t.id == id).map (·.tag)).getD 0
            let s := s.setCtx x (c.setSlot sl { (c.slot sl) with
              streams := t :: rest.map fun t => if t.id = id then { t with gone := true } else t })
            done (s.event x { kind := 0x0001, status := St.cancelled, stream := id, value := tag }) St.ok)

/-- SLOT_RESUME (R402). -/
def execSlotResume (r : Req) (s : State) : Host.Outcome State Fault Refusal :=
  .next (s.kettle r 0x0022 false anyClass fun k s =>
    let sl := fld (k.arg 0) 3 0
    let x := k.x
    if k.args.length ≠ 1 || fld (k.arg 0) 63 4 ≠ 0 then done s St.reserved
    else if !((s.ctx x).slot sl).held then done s St.noEffect
    else done (s.updCtx x fun c => c.setSlot sl { (c.slot sl) with held := false }) St.ok)

/-- A stage path (R421): it ends in a module hop and holds no domain hop. -/
def stagePathOk (ws : List W64) : Bool :=
  match parsePath (pathHops ws) with
  | some p => p.domain.isNone && p.module.isSome && p.below == .module
  | none => false

/-- STAGE_MAP (R420 to R422). -/
def execStageMap (r : Req) (s : State) : Host.Outcome State Fault Refusal :=
  .next (s.kettle r 0x0023 false anyClass fun k s =>
    let a := k.arg 0
    let x := k.x
    let v := fld a 2 0
    let np := fld a 22 20
    let nn := fld a 25 23
    let prev := (k.args.drop 1).take np
    let next := (k.args.drop (1 + np)).take nn
    let c := s.ctx x
    let total : Nat := (List.range 8).foldl (fun n y => n + (s.ctx y).stages.length) 0
    let same := (List.range 8).any fun y => (s.ctx y).jobId == c.jobId && (s.ctx y).stages.any fun e =>
      !(y == x && e.1 == v) && e.2.stage == fld a 15 4
    let clear := bitAt a 3
    if k.args.isEmpty || fld a 19 18 ≠ 0 || fld a 63 26 ≠ 0 || 4 < np || 4 < nn || k.args.length ≠ 1 + np + nn ||
       (clear && (fld a 63 4 ≠ 0)) || (!clear && ((bitAt a 16 && np ≠ 0) || (bitAt a 17 && nn ≠ 0) ||
         (!bitAt a 16 && np = 0) || (!bitAt a 17 && nn = 0))) ||
       !pathWordsOk prev || !pathWordsOk next then done s St.reserved
    else if c.state == .free then done s St.badContext
    else if c.busy then done s St.busy
    else if clear then done (s.setCtx x { c with stages := c.stages.drop v }) St.ok
    else if (np ≠ 0 && !stagePathOk prev) || (nn ≠ 0 && !stagePathOk next) then done s St.badPath
    else if ((c.stages.find v).isNone && 8 ≤ total) || same then done s St.noResource
    else done (s.setCtx x { c with stages := c.stages.set v {
      stage := fld a 15 4, first := bitAt a 16, last := bitAt a 17, prev := prev, next := next } }) St.ok)

/-- INTERFERENCE_SET (R383, R424). -/
def execInterferenceSet (r : Req) (s : State) : Host.Outcome State Fault Refusal :=
  .next (s.kettle r 0x0024 false anyClass fun k s =>
    if k.args.length ≠ 1 || fld (k.arg 0) 63 16 ≠ 0 then done s St.reserved
    else if (s.ctx k.x).state == .free then done s St.badContext
    else done (s.updCtx k.x fun c => { c with threshold := fld (k.arg 0) 15 0 }) St.ok)

/-- The ratio A / (A − W) in 8.8 fixed point, rounded down and saturated; 0x0100 when A is 0 (R424). -/
def interferenceRatio (a w : Nat) : Nat := if a = 0 then 0x0100 else if a ≤ w then 0xFFFF else min 0xFFFF (a * 256 / (a - w))

/-- INTERFERENCE_WINDOW_END (R423, R424): at a counter divisible by 64, the window that ends there is written with its ratio.
DEDUCED: WINDOW names the window that RATIO belongs to (log 86). -/
def execInterferenceWindowEnd (ctx : Nat) (s : State) : Host.Outcome State Fault Refusal :=
  if s.now % 64 ≠ 0 || 8 ≤ ctx then .next s
  else
    let c := s.ctx ctx
    let ratio := interferenceRatio c.cyclesHeld c.cyclesWaited
    let s := s.setCtx ctx { c with ratio := ratio, window := (s.now / 64 - 1) % 2 ^ 32, cyclesHeld := 0, cyclesWaited := 0 }
    if c.threshold ≠ 0 && c.threshold ≤ ratio then
      .next (s.event ctx { kind := 0x0005, detail := BitVec.ofNat 64 ratio })
    else .next s

end Sys2Proof.Machine
end

