-- ==== Sys2Proof/Machine/Streams.lean ====
section
/-! DEFINITION. Machine/Streams.lean: the structure of a command stream (R392 to R396): commands, sections, slices, the
cores a section names, and which stream a core's command belongs to. -/
namespace Sys2Proof.Machine

/-- One command: its words. -/
abbrev Cmd := List W64

/-- Word i of a command. -/
def Cmd.w (c : Cmd) (i : Nat) : W64 := c.getD i 0#64
/-- OPCODE of a command (R392). -/
def Cmd.op (c : Cmd) : Nat := fld (c.w 0) 7 0

/-- Words that a command of an opcode has, 0 for an opcode no table lists (R156, R200, R252, R302, R393, R441, R515,
R713, R717, R720). -/
def opWords (op : Nat) : Nat :=
  if op = 0x01 then 2 else if op = 0x02 then 2 else if op = 0x03 then 3 else if op = 0x04 then 8
  else if op = 0x05 then 2 else if op = 0x06 then 1
  else if 0x10 ≤ op && op ≤ 0x12 then 8
  else if op = 0x18 then 5 else if op = 0x19 then 5 else if op = 0x1C then 4
  else if 0x20 ≤ op && op ≤ 0x27 then 10
  else if 0x40 ≤ op && op ≤ 0x46 then 12
  else if op = 0x60 then 5 else if op = 0x61 then 2 else if op = 0x62 then 1
  else 0

/-- Cuts words into commands by their WORDS fields; none when they do not fit the words present. -/
def splitCmds : Nat → List W64 → Option (List Cmd)
  | _, [] => some []
  | 0, _ => none
  | fuel + 1, w :: ws =>
    let n := fld w 11 8
    if n = 0 || (w :: ws).length < n then none
    else (splitCmds fuel ((w :: ws).drop n)).map fun cs => (w :: ws).take n :: cs

/-- Commands in groups, each beginning with opcode `op`; the first component is what stands before the first one. -/
def groupAt (op : Nat) (cs : List Cmd) : List Cmd × List (List Cmd) :=
  cs.foldr (fun c r => if c.op = op then ([], (c :: r.1) :: r.2) else (c :: r.1, r.2)) ([], [])

/-- A section: its kind, its cores and stride, and its commands (R393). -/
structure Section where
  kind : Nat
  first : Nat
  count : Nat
  stride : Nat
  cmds : List Cmd
deriving DecidableEq, Repr

/-- The section that a group of commands spells. -/
def sectionOf (g : List Cmd) : Section :=
  let c := g.headD []
  { kind := fld (c.w 0) 19 16, first := fld (c.w 1) 15 0, count := fld (c.w 1) 31 16, stride := fld (c.w 2) 47 0, cmds := g.drop 1 }

/-- The slices of a checked stream, each a list of sections. -/
def slicesOf (ws : List W64) : List (List Section) :=
  match splitCmds ws.length ws with
  | none => []
  | some cs => (groupAt 0x02 (cs.drop 1)).2.map fun g => (groupAt 0x03 (g.drop 1)).2.map sectionOf

/-- The sections of slice i. -/
def Stream.slice (t : Stream) (i : Nat) : List Section := (slicesOf t.words).getD i []

/-- The cores of a context's dies in rising order (R395). -/
def coresOf (mask : Nat) : List Nat :=
  (((List.range 8).filter fun d => Nat.testBit mask d).map fun d => (List.range 64).map fun i => 64 * d + i).flatten

/-- The cores that a section names (R395). -/
def Section.cores (g : Section) (mask : Nat) : List Nat :=
  if g.kind = 0 then ((coresOf mask).drop g.first).take g.count else []

/-- The command of a core of rank r: an XFER's module address rises by r × MEM_STRIDE (R396). -/
def rankCmd (c : Cmd) (stride r : Nat) : Cmd :=
  if c.op = 0x19 then updAt c 1 fun w => BitVec.ofNat 64 (w.toNat + r * stride) else c

/-- The context whose work a die runs. The steep of a switch belongs to the incoming context (R414); a switch that waits for
an overrunning slice leaves the die to that slice (R130, R209, R419). -/
def State.dieCtx (s : State) (d : Nat) : Option Nat :=
  match s.switches.find? fun w => w.die == d with
  | some w => if w.waiting then w.from_ else some w.to_
  | none => s.dieHolder d s.now

/-- The context whose work a core runs in this steep. -/
def State.coreCtx (s : State) (k : Nat) : Option Nat := s.dieCtx (k / 64)

/-! ### Core streams (R149, R170, R172, R394, R396, R397) -/

/-- A matrix tile command, which the matrix lane takes; and a command of the vector lane (R170). -/
def Cmd.isTile (c : Cmd) : Bool := 0x10 ≤ c.op && c.op ≤ 0x12
def Cmd.isVector (c : Cmd) : Bool := c.op = 0x18 || c.op = 0x19 || c.op = 0x1C

/-- The next command that a lane of the core takes: the matrix lane, or the other. -/
def Core.next (c : Core) (tile : Bool) : Option Work := c.work.find? fun w => w.phase == .waiting && Cmd.isTile w.cmd == tile

/-- A compute die belongs to no context's DIE_MASK (R696). -/
def State.dieIdle (s : State) (d : Nat) : Bool :=
  (List.range 8).all fun x => (s.ctx x).state == .free || !(Nat.testBit (s.ctx x).dieMask d)

/-- A core is idle for a test blend that runs (R696). -/
def State.blendCore (s : State) (k : Nat) : Bool := s.faults.blend.state = 2 && k < 512 && s.dieIdle (k / 64)

/-- The core stream that a command is offered to: the core's own, at whose end a running test blend puts the product or the
vector program of one of its items (R695). -/
def State.streamOf (s : State) (k : Nat) (cmd : Cmd) : List Work :=
  if s.blendCore k && (cmd.op = 0x10 || cmd.op = 0x18) then (s.core k).work ++ [{ cmd := cmd, ctx := none, slot := 0 }] else (s.core k).work

/-- The command stands next in its lane of the core's stream. -/
def State.due (s : State) (k : Nat) (cmd : Cmd) : Option Work :=
  match (s.streamOf k cmd).find? fun w => w.phase == .waiting && Cmd.isTile w.cmd == cmd.isTile with
  | some w => if w.cmd = cmd then some w else none
  | none => none

/-- The first waiting command of a core stream that is `cmd` is taken. -/
def takeWork (cmd : Cmd) : List Work → List Work
  | [] => []
  | w :: ws => if w.phase == .waiting && w.cmd == cmd then { w with phase := .taken } :: ws else w :: takeWork cmd ws

/-- The first command of a lane in a phase has completed. -/
def dropWork (tile : Bool) (phase : WorkPhase) : List Work → List Work
  | [] => []
  | w :: ws => if w.phase == phase && Cmd.isTile w.cmd == tile then ws else w :: dropWork tile phase ws

/-- The first tile in a phase comes to another. -/
def setPhase (old new : WorkPhase) : List Work → List Work
  | [] => []
  | w :: ws => if w.phase == old && Cmd.isTile w.cmd then { w with phase := new } :: ws else w :: setPhase old new ws

/-- The core stream that a section gives to the core of rank r: its lane commands, each as rank and MEM_STRIDE make it
(R394, R396). -/
def Section.stream (g : Section) (x slot r : Nat) : List Work :=
  (g.cmds.filter fun c => c.isTile || c.isVector).map fun c => { cmd := rankCmd c g.stride r, ctx := some x, slot := slot }

/-- A slice gives its core streams to the cores that it names; no other core runs a command of the context (R397). -/
def State.giveStreams (s : State) (x slot : Nat) (gs : List Section) : State :=
  forL gs (fun g s => forL (g.cores (s.ctx x).dieMask).zipIdx (fun e s =>
    s.updCore e.1 fun c => { c with work := g.stream x slot e.2 }) s) s

/-- Commands of a slice that stand outside the lanes of cores, each behind the kind of its section: the stream-control
commands, the collective, update, load and drop commands. A gate acts when its slice is due; a replay that skips the caddies
leaves out its update commands (R621). -/
def engineCmds (gs : List Section) (skip : Bool) : List (Nat × Cmd) :=
  gs.flatMap fun g => (g.cmds.filter fun c => !(c.isTile || c.isVector || c.op = 0x61 || (skip && 0x40 ≤ c.op && c.op ≤ 0x46))).map fun c =>
    (g.kind, c)

/-- The command stands next in a section of the running slice: the kind of the section. -/
def Stream.nextIn (t : Stream) (cmd : Cmd) : Option Nat :=
  (List.range 4).find? fun k => (t.todo.find? fun e => e.1 == k).map (·.2) == some cmd

/-- The command of a section is taken. -/
def Stream.took (t : Stream) (kind : Nat) (cmd : Cmd) : Stream := { t with todo := t.todo.erase (kind, cmd) }

/-- The slot whose running slice names a core. -/
def State.slotOfCore (s : State) (x k : Nat) : Option Nat :=
  (List.range 16).find? fun sl =>
    match ((s.ctx x).slot sl).streams with
    | t :: _ => t.running.isSome && (t.slice t.done).any fun g => (g.cores (s.ctx x).dieMask).contains k
    | [] => false

/-- Changes the oldest stream of a slot. -/
def State.updStream (s : State) (x slot : Nat) (f : Stream → Stream) : State :=
  s.updCtx x fun c => c.setSlot slot { (c.slot slot) with streams := updAt (c.slot slot).streams 0 f }

/-- A command of the running slice of a slot ends with an error completion: the first such status is the stream's
(R402). -/
def State.failSlot (s : State) (x slot status : Nat) : State :=
  s.updStream x slot fun t => { t with failed := some (t.failed.getD status) }

/-- A command on a core ends with an error completion (R402); its epoch is failed work where the rule says so. -/
def State.failOnCore (s : State) (k : Nat) (ctx : Option Nat) (status : Nat) : State :=
  match ctx with
  | none => s
  | some x => match s.slotOfCore x k with
    | some sl => s.failSlot x sl status
    | none => s

/-- A command of a core stream ends with an error completion, of its context's stream. -/
def State.failWork (s : State) (w : Work) (status : Nat) : State :=
  match w.ctx with
  | some x => s.failSlot x w.slot status
  | none => s

/-- A fenced core refuses a command, which ends with UNIT_FENCED and no record (R34). -/
def State.refuseWork (s : State) (k : Nat) (w : Work) : State :=
  (s.failWork w 0x0020).updCore k fun c => { c with work := dropWork (Cmd.isTile w.cmd) .taken (takeWork w.cmd c.work) }

/-- A lane takes the command that stands next. -/
def State.takeWork (s : State) (k : Nat) (cmd : Cmd) : State :=
  let ws := s.streamOf k cmd
  s.updCore k fun c => { c with work := Machine.takeWork cmd ws }

/-- The command of the running slice of a slot that stands next in its section is taken: its kind must be one of `kinds`,
and its opcode `op`. -/
def State.takeNext (s : State) (x slot op : Nat) (kinds : List Nat) (cmd : Cmd) : Option (Stream × State) :=
  match ((s.ctx x).slot slot).streams with
  | [] => none
  | t :: _ =>
    match t.nextIn cmd with
    | none => none
    | some k =>
      if t.running.isSome && cmd.op = op && kinds.contains k then some (t, s.updStream x slot fun t => t.took k cmd) else none

/-- STREAM_ID of the stream that a core's command belongs to, for OP_REF (R663). -/
def State.streamIdOf (s : State) (k : Nat) (ctx : Option Nat) : Nat :=
  match ctx with
  | none => 0
  | some x => match s.slotOfCore x k with
    | some sl => (match ((s.ctx x).slot sl).streams with | t :: _ => t.id | [] => 0)
    | none => 0

/-! ### Checks that an epoch waits for (R179, R598) -/

/-- A check of work of the context is open in the present epoch. -/
def State.checkOpen (s : State) (ctx : Option Nat) : State :=
  match ctx with
  | some x => s.updJob x fun j => j.updEpoch s.now fun e => { e with unchecked := e.unchecked + 1 }
  | none => s

/-- The check that was opened in epoch `from_`, and carried into every epoch since, has completed. -/
def State.checkClose (s : State) (ctx : Option Nat) (from_ : Nat) : State :=
  match ctx with
  | some x => s.updJob x fun j => { j with epochs := j.epochs.map fun e =>
      if from_ ≤ e.n && e.n ≤ s.now then { e with unchecked := e.unchecked - 1 } else e }
  | none => s

end Sys2Proof.Machine
end

