-- ==== Sys2Proof/Machine/Matrix.lean ====
section
/-! DEFINITION. Machine/Matrix.lean: matrix tile commands: their fields and spans, the exact order of every sum, the
accumulator sets, chains, the overflow repeat and the strainer's comparison (R126 to R218, R836 to R838). -/
namespace Sys2Proof.Machine

/-! ### Fields of a tile command (R151, R152, R156) -/

/-- An operand descriptor (R151). -/
structure Operand where
  data : Nat
  pitch : Nat
  scale : Nat
  scalePitch : Nat
  fmt : Nat
  turned : Bool
deriving DecidableEq, Repr

def operandOf (a b : W64) : Operand :=
  { data := fld a 19 0, pitch := fld a 39 20, scale := fld b 22 0, scalePitch := fld b 39 23, fmt := fld b 43 40, turned := bitAt b 44 }

/-- A matrix tile command (R156). -/
structure Mt where
  op : Nat
  accum : Bool
  pour : Bool
  tileId : Nat
  step : W64
  m : Nat
  n : Nat
  k : Nat
  a : Operand
  b : Operand
  epi : Nat
  kChain : Nat
deriving DecidableEq, Repr

def mtOf (c : Cmd) : Mt :=
  { op := c.op, accum := bitAt (c.w 0) 16, pour := bitAt (c.w 0) 17, tileId := fld (c.w 0) 63 32, step := c.w 1
    m := fld (c.w 2) 12 0, n := fld (c.w 2) 28 16, k := fld (c.w 2) 52 32
    a := operandOf (c.w 3) (c.w 4), b := operandOf (c.w 5) (c.w 6), epi := fld (c.w 7) 19 0, kChain := fld (c.w 7) 48 24 }

/-- The format that a code names, an operand's (R152) or an output's (R220). -/
def formatOf (code : Nat) : Option Format :=
  [Format.fp4, .fp6g, .fp6f, .fp8f, .fp8g, .bf16, .fp32, .int8, .int16, .int32][code]?

/-- The format of an operand code: 0 to 7 (R152). -/
def operandFormat (code : Nat) : Option Format := if code ≤ 7 then formatOf code else none

/-- Array passes across and in all (R158). -/
def Mt.across (t : Mt) : Nat := cdiv t.n 128
def Mt.passes (t : Mt) : Nat := cdiv t.m 64 * t.across
/-- Rows and columns of pass p inside M and N (R158, R159). -/
def Mt.rowsOf (t : Mt) (p : Nat) : Nat := min 64 (t.m - 64 * (p / t.across))
def Mt.colsOf (t : Mt) (p : Nat) : Nat := min 128 (t.n - 128 * (p % t.across))

/-- Rows and elements of a row of an operand's data plane, for `i` output indices and k steps (R194). -/
def Operand.shape (o : Operand) (i k : Nat) : Nat × Nat := if o.turned then (k, i) else (i, k)

/-- Bytes of a row of elements, padded to whole blocks in the block-scaled formats (R92, R93). -/
def rowBytes (f : Format) (n : Nat) : Nat := if f.scaled then cdiv n 32 * (4 * f.bits) else cdiv (n * f.bits) 8

/-- A span of bytes: start and length. -/
abbrev Span := Nat × Nat

def Span.meets (a b : Span) : Bool := overlap a.1 a.2 b.1 b.2

/-- The spans of an operand's data and scale planes (R148). -/
def Operand.spans (o : Operand) (i k : Nat) : List Span :=
  match operandFormat o.fmt with
  | none => []
  | some f =>
    let sh := o.shape i k
    let d : Span := (8 * o.data, (sh.1 - 1) * (8 * o.pitch) + rowBytes f sh.2)
    if f.scaled then [d, (o.scale, (sh.1 - 1) * o.scalePitch + cdiv sh.2 32)] else [d]

/-- Bytes that the core store holds (R143); a span reaches beyond it (R154). -/
def Span.beyond (a : Span) : Bool := coreBytes < a.1 + a.2

/-- The pitch rule (R146): a multiple of 32 bytes whose quotient by 32 is odd. -/
def pitchOk (words : Nat) : Bool := words * 8 % 32 = 0 && words * 8 / 32 % 2 = 1

/-- Cycles for the k-steps of one pass (R132, R173). -/
def Mt.steps (t : Mt) : Nat :=
  let kp := 32 * cdiv t.k 32
  let base := match operandFormat t.a.fmt with
    | some .fp4 => kp / 2
    | some .fp6g => kp / 2
    | some .fp6f => kp / 2
    | some .bf16 => 2 * kp
    | some .fp32 => 16 * kp
    | _ => kp
  if pitchOk t.a.pitch && pitchOk t.b.pitch then base else 2 * base

/-! ### Elements and products (R131, R138 to R142, R194, R195) -/

/-- A byte of a core store, as a reader gets it. -/
def Mem.readByte (m : Mem) (a : Nat) : Nat := (m.word (a / 8)).toNat / 2 ^ (8 * (a % 8)) % 256

/-- Code at position `pos` of a data-plane row that starts at word `w0` (R93). -/
def Mem.code (m : Mem) (w0 bits pos : Nat) : Nat :=
  let p := bits * pos
  let lo := (m.word (w0 + p / 64)).toNat
  if p % 64 + bits ≤ 64 then lo / 2 ^ (p % 64) % 2 ^ bits
  else (lo + (m.word (w0 + p / 64 + 1)).toNat * 2 ^ 64) / 2 ^ (p % 64) % 2 ^ bits

/-- Element (i, k) of an operand, with the scale of the block it is stored in (R131, R194, R195). -/
def Operand.elem (o : Operand) (m : Mem) (f : Format) (i k : Nat) : Val :=
  let row := if o.turned then k else i
  let pos := if o.turned then i else k
  let code := m.code (o.data + row * o.pitch) f.bits pos
  if f.scaled then f.scaledValue (m.readByte (o.scale + row * o.scalePitch + pos / 32)) code else f.value code

/-- The high part of the split product, and what remains: the significand cut to 8 bits, not below the smallest BF16
subnormal (R141, R142). -/
def cutTop (v : Val) : Val × Val :=
  match v with
  | .fin neg m e =>
    if m = 0 then (.fin neg 0 e, .fin neg 0 e)
    else
      let q := max (binade m e - 7) (-133)
      if q ≤ e then (.fin neg m e, .fin neg 0 e)
      else (.fin neg (m / p2 (q - e)) q, .fin neg (m % p2 (q - e)) e)
  | w => (w, w)

/-- The three BF16 parts of an FP32 element (R141). -/
def splitParts (v : Val) : Val × Val × Val :=
  let h := cutTop v
  let m := cutTop h.2
  (h.1, m.1, (cutTop m.2).1)

/-- The eight products of the split product of one k, in order; a product that uses the middle or low part of an
infinite or NaN element is +0 (R141, R142). -/
def splitProducts (a b : Val) : List Val :=
  let x := splitParts a
  let y := splitParts b
  let big := !a.isFin || !b.isFin
  let safe (used : Bool) (p : Val) : Val := if used then .fin false 0 0 else p
  let useA := !a.isFin
  let useB := !b.isFin
  if big then
    [x.1.mul y.1, safe useB (x.1.mul y.2.1), safe useB (x.1.mul y.2.2),
     safe useA (x.2.1.mul y.1), .fin false 0 0, .fin false 0 0,
     safe useA (x.2.2.mul y.1), .fin false 0 0]
  else
    [x.1.mul y.1, x.1.mul y.2.1, x.1.mul y.2.2, x.2.1.mul y.1, x.2.1.mul y.2.1, x.2.1.mul y.2.2,
     x.2.2.mul y.1, x.2.2.mul y.2.1]

/-- The exact result of one group of products (R138): NaN and infinities by IEEE 754 rules, a zero sum +0 unless every
product is −0. -/
def groupSum : List Val → Val
  | [] => .fin false 0 0
  | p :: ps => ps.foldl Val.add p

/-- What a cell adds to its accumulator, in order, each with its place a in the chain (R134, R135, R141, R195, R211).
`q` repeats multiply every product by `2^(−8q)` (R214). -/
def addends (t : Mt) (f : Format) (el : Nat → Val × Val) (k0 q : Nat) : List (Nat × Val) :=
  let cut (v : Val) : Val := v.scale (-(8 * (q : Int)))
  let prod (k : Nat) : Val := let e := el k; cut (e.1.mul e.2)
  match f with
  | .bf16 => (List.range t.k).map fun k => (k0 + k, prod k)
  | .fp32 => ((List.range t.k).map fun k =>
      ((splitProducts (el k).1 (el k).2).map cut).zipIdx.map fun p => (8 * (k0 + k) + p.2, p.1)).flatten
  | _ => (List.range (cdiv t.k 32)).map fun g =>
      (k0 / 32 + g, groupSum ((List.range (min 32 (t.k - 32 * g))).map fun j => prod (32 * g + j)))

/-- Adds the addends one by one, each with one rounding (R136, R139, R210); the flag says that an addition of finite
values overflowed (R213). -/
def accumulate (long : Bool) (step : W64) (tile base : Nat) (l : List (Nat × Val)) (start : W32) : W32 × Bool :=
  l.foldl (fun r p =>
    let rnd : Rnd := if long then .stoch (draw step tile 0 (base * 2 ^ 27 + p.1)) else .nearest
    let c := Fmts.fp32.encodeIeee rnd ((v32 r.1).add p.2)
    (BitVec.ofNat 32 c.1, r.2 || c.2.overflow)) (start, false)

/-- The cells of one run of pass p, row by row, 128 to a row; a cell outside N stays +0 (R158, R159). -/
def passCells (t : Mt) (m : Mem) (k0 kTotal p q : Nat) (start : List W32) : List (W32 × Bool) :=
  match operandFormat t.a.fmt, operandFormat t.b.fmt with
  | some fa, some fb =>
    let i0 := 64 * (p / t.across)
    let j0 := 128 * (p % t.across)
    ((List.range (t.rowsOf p)).map fun r => (List.range 128).map fun c =>
      if c < t.colsOf p then
        accumulate (decide (16384 < kTotal)) t.step t.tileId (p * 8192 + r * 128 + c)
          (addends t fa (fun k => (t.a.elem m fa (i0 + r) k, t.b.elem m fb (j0 + c) k)) k0 q) (start.getD (128 * r + c) 0#32)
      else (0#32, false)).flatten
  | _, _ => []

/-! ### Accumulator sets (R203 to R209, R241) -/

/-- ACC-L and ACC-S: SET_SELECT names the physical set that serves as ACC-L. -/
def Core.live (c : Core) : AccSet := if c.select = 0 then c.setA else c.setB
def Core.shadow (c : Core) : AccSet := if c.select = 0 then c.setB else c.setA
def Core.setLive (c : Core) (a : AccSet) : Core := if c.select = 0 then { c with setA := a } else { c with setB := a }
def Core.setShadow (c : Core) (a : AccSet) : Core := if c.select = 0 then { c with setB := a } else { c with setA := a }

/-- Codes of R203. -/
def SetState.code : SetState → Nat
  | .empty => 0
  | .live => 1
  | .settling => 2
  | .held => 3
  | .pouring => 4
  | .clearing => 5

/-- Both sets through CLEARING to EMPTY, any pour and tile ended, and a chain's partial sums lost (R204, R208). -/
def Core.clearSets (c : Core) : Core :=
  { c with setA := {}, setB := {}, tile := none, pour := none, chain := none }

/-! ### What a pass fetches (R145, R194) -/

/-- The word of a core store holds a code or a BS8 that a pass of k steps fetches for the output indices `i0` to
`i0 + n − 1` of an operand: whole runs of 32 elements of a block-scaled row, with the BS8 of each (R145). -/
def Operand.fetches (o : Operand) (i0 n k wa : Nat) : Bool :=
  match operandFormat o.fmt with
  | none => false
  | some f =>
    let first := if o.turned then i0 else 0
    let count := if o.turned then n else k
    let rowIn (r : Nat) : Bool := if o.turned then decide (r < k) else decide (i0 ≤ r) && decide (r < i0 + n)
    let e0 := 32 * (first / 32)
    let bits0 := f.bits * (if f.scaled then e0 else first)
    let bits1 := f.bits * (if f.scaled then 32 * cdiv (first + count) 32 else first + count)
    let at_ := (wa - o.data) % o.pitch
    let data := decide (o.data ≤ wa) && rowIn ((wa - o.data) / o.pitch) && decide (bits0 < 64 * (at_ + 1)) && decide (64 * at_ < bits1)
    let scale (a : Nat) : Bool := decide (o.scale ≤ a) && rowIn ((a - o.scale) / o.scalePitch) &&
      decide (e0 / 32 ≤ (a - o.scale) % o.scalePitch) && decide ((a - o.scale) % o.scalePitch < cdiv (first + count) 32)
    data || (f.scaled && (List.range 8).any fun j => scale (8 * wa + j))

/-- The words of the operands that pass p fetches. -/
def Mt.fetches (t : Mt) (p wa : Nat) : Bool :=
  t.a.fetches (64 * (p / t.across)) (t.rowsOf p) t.k wa || t.b.fetches (128 * (p % t.across)) (t.colsOf p) t.k wa

/-! ### The strainer (R176 to R189) -/

/-- Residue of a finite value modulo `2^n − 1` (R176). -/
def residue (n : Nat) (v : Val) : Int :=
  match v with
  | .fin neg m e =>
    let p := 2 ^ n - 1
    let r : Int := ((m % p * 2 ^ (e % (n : Int)).toNat % p : Nat) : Int)
    if neg then -r else r
  | _ => 0

/-- A cell with one bit inverted; a cell beyond the list is +0. -/
def flipCell (cells : List W32) (cell bit : Nat) : List W32 :=
  updAt (cells ++ List.replicate (cell + 1 - cells.length) 0#32) cell fun w => w ^^^ BitVec.ofNat 32 (2 ^ (bit % 32))

/-- Row r of a set. -/
def setRow (cells : List W32) (r : Nat) : List W32 := (cells.drop (128 * r)).take 128

/-- Two lists of one length, added element by element; a shorter one counts as zero beyond its end. -/
def addLists (a b : List Nat) : List Nat := (List.range (max a.length b.length)).map fun i => a.getD i 0 + b.getD i 0

/-- Residue of an accumulator modulo `2^n − 1`, in 0 to `2^n − 2`; a non-finite one is left out (R176, R178). -/
def cellResidue (n : Nat) (w : W32) : Nat := (residue n (v32 w) % ((2 ^ n - 1 : Nat) : Int)).toNat

/-- 1 for an accumulator that holds NaN or infinity. -/
def cellBad (w : W32) : Nat := if (v32 w).isFin then 0 else 1

/-- What the lines of a set of accumulators hold. -/
def Lines.of (cells : List W32) : Lines :=
  let rows := (List.range 64).map (setRow cells)
  let down (f : W32 → Nat) : List Nat := rows.foldl (fun s r => addLists s (r.map f)) (List.replicate 128 0)
  { rows := rows.map fun r => (r.foldl (fun s w => s + cellResidue 8 w) 0) % 255
    cols := (down (cellResidue 7)).map (· % 127)
    rowBad := rows.map fun r => r.foldl (fun s w => s + cellBad w) 0
    colBad := down cellBad }

/-- Predictions less what the accumulators held when they were made: what a later command of the chain adds its own work
to (R179). The residues stay in their ranges; the counts may not go below zero. -/
def Lines.less (p start : Lines) : Lines :=
  { rows := (p.rows.zip start.rows).map fun e => (e.1 + 255 - e.2) % 255
    cols := (p.cols.zip start.cols).map fun e => (e.1 + 127 - e.2) % 127
    rowBad := (p.rowBad.zip start.rowBad).map fun e => e.1 - e.2
    colBad := (p.colBad.zip start.colBad).map fun e => e.1 - e.2 }

def Lines.add (p q : Lines) : Lines :=
  { rows := (p.rows.zip q.rows).map fun e => (e.1 + e.2) % 255
    cols := (p.cols.zip q.cols).map fun e => (e.1 + e.2) % 127
    rowBad := addLists p.rowBad q.rowBad
    colBad := addLists p.colBad q.colBad }

/-- The predictions of a pass whose exact course gives `res`: the operands' products less the remainders that every
rounding reports are what the accumulators must have gained (R177, R178, R836); a later command of a chain adds them to the
chain's running predictions (R179). -/
def Tile.predict (t : Tile) (res : List W32) : Lines := t.base.add (Lines.of res)

/-- The rows and columns that fail a comparison, and the lines whose non-finite count fails. -/
structure Compared where
  rows : List Nat
  cols : List Nat
  counts : Nat
deriving DecidableEq, Repr

/-- Places at which two lists differ. -/
def differ (a b : List Nat) : List Nat := (List.range (max a.length b.length)).filter fun i => a.getD i 0 ≠ b.getD i 0

/-- The comparison of predictions with a set (R177, R178). -/
def Lines.compare (want got : Lines) : Compared :=
  { rows := differ want.rows got.rows, cols := differ want.cols got.cols
    counts := (differ want.rowBad got.rowBad).length + (differ want.colBad got.colBad).length }

def Compared.clean (c : Compared) : Bool := c.rows.isEmpty && c.cols.isEmpty && c.counts = 0

/-- STRAINER_LOG takes the first failure since FAIL was cleared (R188). -/
def Core.logFail (c : Core) (tileId pass : Nat) (rows cols : List Nat) : Core :=
  if c.fail then c
  else
    let word := mkWord [(32, 32, tileId), (21, 11, pass), (15, 6, if rows.length = 1 then rows.headD 0 else 0),
      (8, 7, if cols.length = 1 then cols.headD 0 else 0), (7, 1, b2n (decide (rows.length = 1))), (6, 1, b2n (decide (cols.length = 1)))]
    { c with fail := true, log := word }

/-- A failed comparison: counters, log, record, and for a real failure the epoch and the step (R184, R185, R189). -/
def State.strainerFail (s : State) (k : Nat) (ctx : Option Nat) (op tileId pass : Nat) (cmp : Compared) (kind from_ : Nat) (injected : Bool) : State :=
  let located := cmp.rows.length = 1 && cmp.cols.length = 1
  let s := s.updCore k fun c =>
    let c := { c with
      rowFails := satN 16 (c.rowFails + cmp.rows.length)
      colFails := satN 16 (c.colFails + cmp.cols.length + cmp.counts)
      pourFails := if kind = 2 then satN 16 (c.pourFails + 1) else c.pourFails
      injectSeen := c.injectSeen || injected }
    c.logFail tileId pass cmp.rows cmp.cols
  let s := s.raise {
    code := if injected then Rec.strainerInjected else Rec.strainerMismatch
    cls := if injected then .ce else .uc
    unit := .core k, ctx := ctx, injected := injected, opcode := op, opRef := tileId
    a := mkWord [(0, 11, pass), (16, 6, if located then cmp.rows.headD 0 else 0), (24, 7, if located then cmp.cols.headD 0 else 0),
      (32, 1, b2n located), (33, 1, b2n located), (34, 2, kind)]
    b := mkWord [(0, 16, cmp.rows.length), (16, 16, cmp.cols.length + cmp.counts)] }
  match ctx with
  | some x => if injected then s else s.checkFailed x from_
  | none => s

/-- The comparison of a run that is compared (R179, R205): an armed injection is made first (R189), then the set's
accumulators are held against the predictions. DESIGN CHOICE: a failure that stands without the injection is recorded as
STRAINER_MISMATCH, and INJECT_SEEN stays clear; the spec does not say which record an armed injection and an upset in one
run give (log 78). -/
def State.compare (s : State) (k : Nat) (t : Tile) (mt : Mt) : State :=
  let c := s.core k
  let cells := c.live.cells
  let real := !(t.want.compare (Lines.of cells)).clean
  let got := if c.injArm then flipCell cells (128 * c.injRow + c.injCol) c.injBit else cells
  let s := s.setCore k ({ c with injArm := false }.setLive { c.live with cells := got })
  let cmp := t.want.compare (Lines.of got)
  if cmp.clean then s
  else
    let kind := if cmp.rows.isEmpty && cmp.cols.isEmpty then 1 else 0
    s.strainerFail k t.ctx mt.op mt.tileId t.pass cmp kind t.passAt (c.injArm && !real)

/-- The swap (R204): the settled set becomes ACC-S and pours, the other becomes ACC-L, and the tile's next pass starts
its k-steps, with a check of its own (R179). A tile whose last pass pours reads its operands no more (R149). -/
def State.swapSets (s : State) (k : Nat) (t : Tile) (mt : Mt) : State :=
  let s := s.compare k t mt
  let c := s.core k
  let last := t.pass + 1 = mt.passes
  let pour : Pour := {
    cmd := t.cmd, ctx := t.ctx, desc := t.desc, pass := t.pass, repeats := t.repeats, last := last, started := s.now, begun := t.passAt
    tick := s.steep.ticks, lastMac := t.lastMac }
  let c := (c.setLive { c.live with state := .pouring })
  let c := { c with select := 1 - c.select, pour := some pour, chain := none }
  if last then s.setCore k { c with tile := none, work := setPhase .taken .pouring c.work }
  else
    (s.setCore k { c.setLive { c.live with state := .live } with
      tile := some { t with pass := t.pass + 1, repeats := 0, stalled := false, base := {}, passAt := s.now } }).checkOpen t.ctx

/-! ### The commands -/


/-- The matrix lane takes its next command of the core stream when it holds none in its k-steps (R170, R171). -/
def State.takeTile (s : State) (k op : Nat) (cmd : Cmd) : State :=
  if cmd.op ≠ op || (s.core k).tile.isSome then s
  else match s.due k cmd with
    | none => s
    | some w =>
      if s.fencedUnit (.core k) then s.refuseWork k w
      else (s.takeWork k cmd).updCore k fun c => { c with tile := some { cmd := cmd, ctx := w.ctx, slot := w.slot } }

/-- MT_FWD (R131, R155, R156). -/
def execMtFwd (core : Nat) (cmd : Cmd) (s : State) : Host.Outcome State Fault Refusal := .next (s.takeTile core 0x10 cmd)
/-- MT_DGRAD (R191). -/
def execMtDgrad (core : Nat) (cmd : Cmd) (s : State) : Host.Outcome State Fault Refusal := .next (s.takeTile core 0x11 cmd)
/-- MT_WGRAD (R192). -/
def execMtWgrad (core : Nat) (cmd : Cmd) (s : State) : Host.Outcome State Fault Refusal := .next (s.takeTile core 0x12 cmd)

/-- What reading every word of spans of a core store finds (R313). -/
def State.noteSpans (s : State) (k : Nat) (sp : List Span) (ctx : Option Nat) (op ref : Nat) : State :=
  forL sp (fun a s => if a.2 = 0 then s else s.noteCore k (a.1 / 8) ((a.1 + a.2 - 1) / 8 + 1 - a.1 / 8) ctx false op ref) s

/-! ### Stored accumulator words (R310, R837) -/

/-- Cells after the check of the words of a set that a reader finds upset: word 64 × row + pair, and bit of the 72. A
corrected word is delivered corrected and counts as MEM_CE at the place of its compute die; an uncorrectable one as stored,
with MEM_UE for the context that owns the set (R317, R837, R844). `sel` is the physical set. -/
def State.readSet (s : State) (k sel : Nat) (ctx : Option Nat) (op ref : Nat) (ups : List (Nat × Nat)) (cells : List W32) : State × List W32 :=
  ((ups.map (·.1)).eraseDups).foldl (fun r w =>
    let bits := (ups.filter fun u => u.1 == w).map (·.2)
    let syn := bits.foldl (fun a b => a ^^^ flipSyn b) 0#8
    let acc := w % 4096 * 512 + 2 ^ 47 + sel * 2 ^ 21 + k % 512
    let s := if syn = 0#8 then r.1 else r.1.badWord { place := 24 + k / 64, addr := 0, syn := syn, core := some k, acc := some acc } ctx false op ref
    (s, if eccOf syn == .ue then bits.foldl (fun l b => if b < 64 then flipCell l (2 * w + b / 32) (b % 32) else l) r.2 else r.2)) (s, cells)

/-! ### The end of a pass -/

/-- The end of a pass's run is settled and stays (R204): it is held for its chain, swapped to pour, or stalls. -/
def State.settle (s : State) (k : Nat) (t : Tile) (mt : Mt) : State :=
  if !mt.pour then
    let s := s.compare k t mt
    let ch : Chain := {
      tileId := mt.tileId, step := mt.step, ctx := t.ctx, slot := t.slot, k := t.kBase + mt.k, kChain := t.kTotal, pred := t.want }
    let s := s.updCore k fun c => { c.setLive { c.live with state := .held } with tile := none, chain := some ch, work := dropWork true .taken c.work }
    s.checkClose t.ctx t.passAt
  else if (s.core k).shadow.state == .empty then s.swapSets k t mt
  else s.updCore k fun c => { c.setLive { c.live with state := .settling } with
    tile := some { t with stalled := true }, pourStalls := satN 16 (c.pourStalls + 1) }

/-- PASS_SETTLE_END (R204, R205, R210, R214 to R217): the pass's sums stand in ACC-L; a permitted repeat starts over with
every product times `2^(−8q)`, else the pass is compared and held, swapped or stalled. Every overflowing pass counts in OVERFLOWS, also one whose record R669 merges (DESIGN CHOICE, log 79). -/
def execPassSettleEnd (core cycles : Nat) (upset : PassUpset) (s : State) : Host.Outcome State Fault Refusal :=
  match (s.core core).tile with
  | none => .next s
  | some t =>
    if !t.started || t.stalled then .next s
    else
      let mt := mtOf t.cmd
      let s := s.noteCoreWords core (mt.fetches t.pass) t.ctx false mt.op mt.tileId
      let c := s.core core
      let rd := s.readSet core c.select t.ctx mt.op mt.tileId upset.stored c.live.cells
      let s := rd.1
      let t := { t with base := t.base.less (Lines.of rd.2) }
      let res := passCells mt c.store t.kBase t.kTotal t.pass t.repeats rd.2
      let beyond := (res.filter (·.2)).length
      let single := !mt.accum && mt.pour
      let macs := mt.rowsOf t.pass * mt.colsOf t.pass * mt.k
      let s := s.updCore core fun c => { c with mxCycles := satN 64 (c.mxCycles + cycles), cellMacs := satN 64 (c.cellMacs + macs) }
      if 0 < beyond && single && t.repeats < 2 then
        .next (s.updCore core fun c => { c.setLive { state := .live } with
          tile := some { t with repeats := t.repeats + 1 }, repeated := satN 16 (c.repeated + 1) })
      else
        let exact := res.map (·.1)
        let t := { t with want := t.predict exact, lastMac := s.now }
        let s := s.updCore core fun c => { c.setLive { c.live with cells := upset.cells.foldl (fun l w => flipCell l w.1 w.2) exact } with
          tile := some t
          overflows := if beyond = 0 then c.overflows else satN 16 (c.overflows + 1)
          longPasses := if 16384 < t.kTotal then satN 16 (c.longPasses + 1) else c.longPasses }
        let s := if beyond = 0 then s else s.raise {
          code := Rec.accOverflow, cls := .ce, unit := .core core, ctx := t.ctx, opcode := mt.op, opRef := mt.tileId
          a := BitVec.ofNat 64 t.pass, b := BitVec.ofNat 64 beyond }
        .next (s.settle core t mt)

end Sys2Proof.Machine
end

