-- ==== Sys2Proof/Machine/Spans.lean ====
section
/-! DEFINITION. Machine/Spans.lean: the fields of the vector lane's commands and the spans of core store that they read
and write, for the hazards of R149 (R200 to R202, R252 to R257, R302 to R308). -/
namespace Sys2Proof.Machine

/-- The fields of VEC_RUN (R252). -/
structure VCmd where
  iter : Nat
  tileId : Nat
  step : W64
  addr : Nat
  len : Nat
  pro : Nat
  rdAddr : Nat
  rdLen : Nat
  proCost : Nat
  wrAddr : Nat
  wrLen : Nat
  bodyCost : Nat
deriving DecidableEq, Repr

def vcmdOf (c : Cmd) : VCmd :=
  { iter := fld (c.w 0) 31 16, tileId := fld (c.w 0) 63 32, step := c.w 1, addr := fld (c.w 2) 19 0, len := fld (c.w 2) 31 20
    pro := fld (c.w 2) 43 32, rdAddr := fld (c.w 3) 22 0, rdLen := fld (c.w 3) 45 23, proCost := fld (c.w 3) 63 46
    wrAddr := fld (c.w 4) 22 0, wrLen := fld (c.w 4) 45 23, bodyCost := fld (c.w 4) 63 46 }

/-- The spans of a run (R257). -/
def VCmd.reads (v : VCmd) : List Span := [(8 * v.addr, 8 * v.len), (v.rdAddr, v.rdLen), (v.wrAddr, v.wrLen)]
def VCmd.writes (v : VCmd) : List Span := [(v.wrAddr, v.wrLen)]

def Span.holds (a : Span) (at_ n : Nat) : Bool := a.1 ≤ at_ && at_ + n ≤ a.1 + a.2
/-- An access of n bytes may read, or may write (R256). -/
def VCmd.mayRead (v : VCmd) (a n : Nat) : Bool := Span.holds (v.rdAddr, v.rdLen) a n || Span.holds (v.wrAddr, v.wrLen) a n
def VCmd.mayWrite (v : VCmd) (a n : Nat) : Bool := Span.holds (v.wrAddr, v.wrLen) a n

/-! ### XFER (R302 to R309) -/

/-- The fields of XFER (R302). -/
structure XCmd where
  dir : Nat
  mem : Nat
  memPitch : Nat
  cs : Nat
  csPitch : Nat
  rowBytes : Nat
  rows : Nat
deriving DecidableEq, Repr

def xcmdOf (c : Cmd) : XCmd :=
  { dir := fld (c.w 0) 17 16, mem := fld (c.w 1) 47 0, memPitch := fld (c.w 2) 47 0, cs := fld (c.w 3) 19 0
    csPitch := fld (c.w 3) 39 20, rowBytes := fld (c.w 4) 22 0, rows := fld (c.w 4) 40 23 }

/-- Words in each row. -/
def XCmd.rowWords (x : XCmd) : Nat := x.rowBytes / 8
/-- The core-store span and the tier span of a transfer, in bytes (R304, R305). -/
def XCmd.csSpan (x : XCmd) : Span := (8 * x.cs, 8 * ((x.rows - 1) * x.csPitch) + x.rowBytes)
def XCmd.tierSpan (x : XCmd) : Span := (x.mem, (x.rows - 1) * x.memPitch + x.rowBytes)
/-- Cycles that the firmware takes an XFER to need (R308). -/
def XCmd.estimate (x : XCmd) : Nat :=
  let bytes := x.rows * max x.rowBytes 64
  if x.dir = 2 then 40 + bytes else 40 + cdiv bytes 32
/-- A reserved encoding of R303. -/
def XCmd.bad (x : XCmd) : Bool :=
  x.dir = 3 || x.mem % 8 ≠ 0 || x.memPitch % 8 ≠ 0 || x.rowBytes % 8 ≠ 0 || x.rowBytes = 0 || x.rows = 0 ||
    (1 < x.rows && (x.memPitch < x.rowBytes || x.csPitch < x.rowWords))

/-! ### GRAD_GATHER (R200 to R202) -/

/-- The fields of GRAD_GATHER (R200). -/
structure GCmd where
  uses : Nat
  fmt : Nat
  src : Nat
  stride : Nat
  count : Nat
  dst : Nat
deriving DecidableEq, Repr

def gcmdOf (c : Cmd) : GCmd :=
  { uses := fld (c.w 0) 20 16, fmt := fld (c.w 0) 27 24, src := fld (c.w 1) 19 0, stride := fld (c.w 1) 39 20
    count := fld (c.w 2) 23 0, dst := fld (c.w 3) 19 0 }

/-- Source and destination spans in bytes (R202). -/
def GCmd.srcSpan (g : GCmd) : Span := (8 * g.src, 8 * ((g.uses - 1) * g.stride + g.count / 2))
def GCmd.dstSpan (g : GCmd) : Span := (8 * g.dst, 8 * (if g.fmt = 6 then g.count / 2 else g.count / 4))
/-- Cycles that the firmware takes a GRAD_GATHER to need (R202). -/
def GCmd.estimate (g : GCmd) : Nat := 20 + (g.uses - 1) * cdiv g.count 64
/-- A reserved encoding of R200. -/
def GCmd.bad (g : GCmd) : Bool :=
  g.uses < 2 || 16 < g.uses || (g.fmt ≠ 5 && g.fmt ≠ 6) || g.count = 0 || 1572864 < g.count || g.count % 256 ≠ 0

/-! ### The two lanes of a core (R149, R170) -/

/-- Spans that a command of the vector lane reads, and writes. -/
def laneReads (c : Cmd) : List Span :=
  if c.op = 0x18 then (vcmdOf c).reads
  else if c.op = 0x19 then (if (xcmdOf c).dir = 1 then [(xcmdOf c).csSpan] else [])
  else if c.op = 0x1C then [(gcmdOf c).srcSpan]
  else []
def laneWrites (c : Cmd) : List Span :=
  if c.op = 0x18 then (vcmdOf c).writes
  else if c.op = 0x19 then (if (xcmdOf c).dir = 1 then [] else [(xcmdOf c).csSpan])
  else if c.op = 0x1C then [(gcmdOf c).dstSpan]
  else []

/-- Two sets of accesses that R149 keeps apart: one writes what the other reads or writes. -/
def conflict (r1 w1 r2 w2 : List Span) : Bool :=
  w1.any (fun a => r2.any a.meets || w2.any a.meets) || w2.any fun a => r1.any a.meets

end Sys2Proof.Machine
end

