-- ==== Sys2Proof/Machine/Pour.lean ====
section
/-! DEFINITION. Machine/Pour.lean: the epilogue descriptor and its checks, the start of a tile, the fused epilogue, the
output layouts, the scale of gradient blocks, the statistics, and the end of a pour (R219 to R238, R109 to R123). -/
namespace Sys2Proof.Machine

/-! ### The epilogue descriptor (R219 to R221) -/

/-- The fields of the six words (R219). -/
structure Epi where
  outFmt : Nat
  rounding : Nat
  layout : Nat
  act : Nat
  bias : Bool
  sumsq : Bool
  moments : Bool
  axis : Bool
  scale : W32
  outAddr : Nat
  outPitch : Nat
  osAddr : Nat
  osPitch : Nat
  biasAddr : Nat
  actParam : W32
  hist : Nat
  bitmap : Nat
  stats : Nat
  /-- a reserved bit is not zero -/
  reserved : Bool
deriving DecidableEq, Repr

def epiOf (d : List W64) : Epi :=
  let w (i : Nat) : W64 := d.getD i 0#64
  { outFmt := fld (w 0) 3 0, rounding := fld (w 0) 5 4, layout := fld (w 0) 7 6, act := fld (w 0) 11 8
    bias := bitAt (w 0) 12, sumsq := bitAt (w 0) 13, moments := bitAt (w 0) 14, axis := bitAt (w 0) 15, scale := hi32 (w 0)
    outAddr := fld (w 1) 19 0, outPitch := fld (w 1) 39 20, osAddr := fld (w 2) 22 0, osPitch := fld (w 2) 39 23
    biasAddr := fld (w 3) 19 0, actParam := hi32 (w 3), hist := fld (w 4) 22 0, bitmap := fld (w 4) 45 23, stats := fld (w 5) 19 0
    reserved := fld (w 0) 31 16 ≠ 0 || fld (w 1) 63 40 ≠ 0 || fld (w 2) 63 40 ≠ 0 || fld (w 3) 31 20 ≠ 0 ||
      fld (w 4) 63 46 ≠ 0 || fld (w 5) 63 20 ≠ 0 }

def Epi.blocks (e : Epi) : Bool := e.layout = 1
/-- The output carries a BS8 for each block. -/
def Epi.scaled (e : Epi) : Bool := e.outFmt ≤ 4
/-- Some statistics record is written. -/
def Epi.anyStats (e : Epi) : Bool := e.sumsq || e.moments

/-- Words of one update block of a format (R227). -/
def blockWords (f : Format) : Nat := 4 * f.bits

/-- Blocks up to the last that the tile's passes number: 32 for every pass, of which the last writes one for each two of its
rows (R227). -/
def Mt.blockEnd (t : Mt) : Nat := 32 * (t.passes - 1) + t.rowsOf (t.passes - 1) / 2

/-- The spans that the tile writes (R148, R221, R226, R227, R232). -/
def Epi.writes (e : Epi) (t : Mt) : List Span :=
  match formatOf e.outFmt with
  | none => []
  | some f =>
    let out : List Span :=
      if e.blocks then
        [(8 * e.outAddr, 8 * (t.blockEnd * blockWords f)), (e.osAddr, 8 * t.blockEnd)]
      else
        (8 * e.outAddr, (t.m - 1) * (8 * e.outPitch) + rowBytes f t.n) ::
          (if e.scaled then [(e.osAddr, (t.m - 1) * e.osPitch + cdiv t.n 32)] else [])
    let nb := if e.blocks then t.blockEnd else t.m * cdiv t.n 32
    let sc : List Span := if e.scaled then (e.bitmap, cdiv nb 8) :: (if t.op = 0x10 then [] else [(e.hist, 4 * nb)]) else []
    let st : List Span := if e.anyStats then [(8 * e.stats, 16 * (if e.axis then 1 else t.m))] else []
    out ++ sc ++ st

/-- The bias that its pours read. -/
def Epi.biasSpan (e : Epi) (t : Mt) : List Span := if e.bias then [(8 * e.biasAddr, 4 * t.n)] else []

/-- The forward format and the gradient format of a backward tile (R196), which bound its output (R86, R221). -/
def Epi.formatOk (e : Epi) (t : Mt) : Bool :=
  match operandFormat t.b.fmt, formatOf e.outFmt with
  | some fb, some fo =>
    if t.op = 0x10 then true
    else gradPermitted fb (t.op = 0x12) fo
  | _, _ => false

/-- The first of the checks of R221 that fails: RESERVED_ENCODING, then FORMAT_PAIR, then OPERAND_RANGE. -/
def Epi.check (e : Epi) (t : Mt) : Option Nat :=
  let reservedBits := e.reserved || 9 < e.outFmt || 1 < e.rounding || 1 < e.layout || 7 < e.act
  let stoch := e.rounding = 1 && 6 ≤ e.outFmt
  let layoutBad := (e.blocks != (t.op == 0x12)) || (e.blocks && (t.n % 128 ≠ 0 || t.m % 2 = 1))
  let zeros :=
    (e.blocks && e.outPitch ≠ 0) || (!e.blocks && !e.scaled && e.osAddr ≠ 0) ||
    ((e.blocks || !e.scaled) && e.osPitch ≠ 0) || (!e.bias && e.biasAddr ≠ 0) ||
    (!e.scaled && (e.hist ≠ 0 || e.bitmap ≠ 0)) || (!e.anyStats && e.stats ≠ 0) || e.osPitch % 8 ≠ 0
  if reservedBits || stoch || layoutBad || zeros then some St.reserved
  else if !e.formatOk t then some St.formatPair
  else
    let ops := t.a.spans t.m t.k ++ t.b.spans t.n t.k
    let out := e.writes t
    let all := out ++ e.biasSpan t
    let short := !e.blocks && (match formatOf e.outFmt with
      | some f => 8 * e.outPitch < rowBytes f t.n || (e.scaled && e.osPitch < cdiv t.n 32)
      | none => false)
    if short || all.any Span.beyond || all.any (fun a => ops.any a.meets) then some St.operandRange else none

/-! ### The start of a tile (R219, R221, R838) -/

/-- The epilogue descriptor of a tile command: as its tile or its pour has read it, else as the core store holds it. -/
def Core.descOf (c : Core) (cmd : Cmd) : List W64 :=
  match c.tile, c.pour with
  | some t, p =>
    if t.cmd = cmd && t.started then t.desc
    else (match p with | some q => if q.cmd = cmd then q.desc else c.store.words (mtOf cmd).epi 6 | none => c.store.words (mtOf cmd).epi 6)
  | none, some q => if q.cmd = cmd then q.desc else c.store.words (mtOf cmd).epi 6
  | none, none => c.store.words (mtOf cmd).epi 6

/-- Spans that a tile reads: its operands, its descriptor, and the bias of its pours (R148, R149). -/
def Mt.reads (t : Mt) (desc : List W64) : List Span :=
  t.a.spans t.m t.k ++ t.b.spans t.n t.k ++ (if t.pour then (8 * t.epi, 48) :: (epiOf desc).biasSpan t else [])
/-- Spans that its pours write. -/
def Mt.writes (t : Mt) (desc : List W64) : List Span := if t.pour then (epiOf desc).writes t else []

/-- Spans that a command of a core stream still has to read: a tile's end with the last k-step of its last pass (R149). -/
def Core.readsOf (c : Core) (w : Work) : List Span :=
  if Cmd.isTile w.cmd then
    (if w.phase == .pouring then [] else (mtOf w.cmd).reads (c.descOf w.cmd))
  else laneReads w.cmd

/-- Spans that it still has to write: a tile's writes are its pours (R149). -/
def Core.writesOf (c : Core) (w : Work) : List Span :=
  if Cmd.isTile w.cmd then (mtOf w.cmd).writes (c.descOf w.cmd) else laneWrites w.cmd

/-- A command of the core stream waits for an earlier one (R149): it reads what that one writes, or writes what that one
reads or writes. -/
def Core.waits (c : Core) (w : Work) : Bool :=
  (c.work.takeWhile fun v => v != w).any fun v => conflict (c.readsOf w) (c.writesOf w) (c.readsOf v) (c.writesOf v)

/-- A tile ends without running a pass: its command ends with an error completion (R221, R838). -/
def State.refuseTile (s : State) (k : Nat) (t : Tile) (status : Nat) : State :=
  (s.updCore k fun c => { c with tile := none, work := dropWork true .taken c.work }).failOnCore k t.ctx status

/-- TILE_START (R204, R219, R221, R838): after its hazard waits, the tile's first pass starts. A command of a chain
whose partial sums are gone ends with CHAIN_BROKEN; a descriptor that breaks R221 ends it with that rule's status. -/
def execTileStart (core : Nat) (s : State) : Host.Outcome State Fault Refusal :=
  let c := s.core core
  match c.tile with
  | none => .next s
  | some t =>
    let mt := mtOf t.cmd
    if t.started || (c.work.find? fun w => w.phase == .taken && Cmd.isTile w.cmd).any c.waits then .next s
    else
      let mine (h : Chain) : Bool := h.tileId == mt.tileId && h.step == mt.step && h.ctx == t.ctx
      let open_ := match c.chain with
        | some h => if c.live.state == SetState.held && mine h then some h else none
        | none => none
      if mt.accum && open_.isNone then .next (s.refuseTile core t St.chainBroken)
      else if !mt.accum && c.live.state != SetState.empty then .next s
      else
        let s := if mt.pour then s.noteSpans core [(8 * mt.epi, 48)] t.ctx mt.op mt.tileId else s
        let desc := if mt.pour then (s.core core).store.words mt.epi 6 else []
        match (if mt.pour then (epiOf desc).check mt else none) with
        | some st => .next (s.refuseTile core t st)
        | none =>
          let kBase := match open_ with | some h => h.k | none => 0
          let kTotal := match open_ with | some h => h.kChain | none => if mt.kChain = 0 then mt.k else mt.kChain
          let base := match open_ with | some h => h.pred | none => {}
          let t' := { t with
            started := true, pass := 0, repeats := 0, desc := desc, kBase := kBase, kTotal := kTotal, base := base, begun := s.now, passAt := s.now }
          .next ((s.updCore core fun c => { c.setLive { c.live with state := .live } with tile := some t' }).checkOpen t.ctx)

/-! ### The epilogue (R222 to R225) -/

/-- Every NaN as the module writes it (R225). -/
def quiet (w : W32) : W32 := if (v32 w).isNan then nan32 else w

/-- The constants of the GELU form, as the nearest FP32 values (R224). -/
def geluC1 : Val := v32 0x3F4C422A#32
def geluC2 : Val := v32 0x3D372713#32

/-- The activation (R224): correctly rounded where the rule says so. -/
def activate (act : Nat) (param b : W32) : W32 :=
  let v := v32 b
  let p := v32 param
  let pos := Val.lt (.fin false 0 0) v
  if v.isNan then nan32
  else if act = 0 then b
  else if act = 1 then (if pos then b else 0#32)
  else if act = 2 then
    (match v with
      | .inf neg => if neg then 0x80000000#32 else b
      | _ => near32 (v.mul (Val.sigm ((geluC1.mul (v.add (geluC2.mul (v.mul (v.mul v))))).scale 1))))
  else if act = 3 then
    (match v with
      | .inf neg => if neg then 0x80000000#32 else b
      | _ => near32 (v.mul v.sigm))
  else if act = 4 then near32 v.sigm
  else if act = 5 then near32 v.tanh
  else if act = 6 then (if pos then b else quiet (mul32 param b))
  else
    let m := param &&& 0x7FFFFFFF#32
    if p.isNan then nan32
    else if Val.lt (v32 m) v then m
    else if Val.lt v (v32 m).neg then m ||| 0x80000000#32
    else b

/-- Steps 1 to 3 of R222 for an accumulator after q repeats (R215). -/
def epilogue (e : Epi) (q : Nat) (bias acc : W32) : W32 :=
  let s := near32 (((v32 acc).mul (v32 e.scale)).scale (8 * (q : Int)))
  let b := if e.bias then add32 s bias else quiet s
  quiet (activate e.act e.actParam b)

/-- The y values of a pass, by row, inside M and N. -/
def pourRows (m : Mem) (cells : List W32) (t : Mt) (e : Epi) (p q : Nat) : List (List W32) :=
  let j0 := 128 * (p % t.across)
  (List.range (t.rowsOf p)).map fun r => (List.range (t.colsOf p)).map fun c =>
    let bias := BitVec.ofNat 32 (m.code e.biasAddr 32 (j0 + c))
    epilogue e q bias (cells.getD (128 * r + c) 0#32)

/-! ### Conversion and layout (R223, R226, R227) -/

/-- What one block's writing gives: codes, scale byte, and what its record and counters take. -/
structure BlockOut where
  codes : List Nat
  bs8 : Nat
  sat : Bool
  nan : Bool
  underflow : Bool
  limit : Bool
  hist : Option Nat
deriving DecidableEq, Repr

/-- One block of a block-scaled output (R109 to R119, R223): a present-tensor scale for MT_FWD and for a record that is
not valid, else the predicted one, and the record after the step. A NaN block leaves its record alone (R102). -/
def pourBlock (f : Format) (forward : Bool) (h : History) (vs : List Val) (rnds : List Rnd) : BlockOut :=
  match f.fmt? with
  | none => { codes := [], bs8 := 0, sat := false, nan := false, underflow := false, limit := false, hist := none }
  | some p =>
    let k := if forward then presentScale p vs else h.scale p vs
    let b := convertBlock p k vs rnds
    let hist := if forward || b.nanBlock then none else some (h.update p vs b.sat).toNat
    { codes := b.codes, bs8 := b.bs8, sat := b.sat && !b.nanBlock, nan := b.nanBlock, underflow := b.flags.underflow
      limit := b.sat && !forward && h.valid && h.h = 15, hist := hist }

/-- Codes of an output without block scales, and whether a non-zero value gave UNDERFLOW (R99, R101, R103). -/
def plainCode (f : Format) (rnd : Rnd) (y : W32) : Nat × Bool :=
  match f with
  | .fp32 => (y.toNat, false)
  | .bf16 => let r := Fmts.bf16.encodeIeee rnd (v32 y); (r.1, r.2.underflow)
  | .int8 => (sbits 8 (encodeInt 8 .nearest (v32 y)).1, false)
  | .int16 => (sbits 16 (encodeInt 16 .nearest (v32 y)).1, false)
  | .int32 => (sbits 32 (encodeInt 32 .nearest (v32 y)).1, false)
  | _ => (0, false)

/-- Writes `n` bits of a core store from bit address `a`, merging partly written bytes (R315). -/
def State.storeBits (s : State) (k a n v : Nat) (ctx : Option Nat) : State :=
  if n = 0 then s
  else
    let b0 := a / 8
    let nb := (a + n - 1) / 8 + 1 - b0
    let st := (s.core k).store
    let old := leNat ((List.range nb).map fun i => BitVec.ofNat 8 (st.readByte (b0 + i)))
    let sh := a % 8
    let new := old % 2 ^ sh + (v % 2 ^ n) * 2 ^ sh + old / 2 ^ (sh + n) * 2 ^ (sh + n)
    s.storeCoreBytes k b0 ((List.range nb).map fun i => BitVec.ofNat 8 (new / 2 ^ (8 * i))) ctx

/-- The record of a block as the pour reads it: the stored one when a pour of the tile's block has written it since the
last reset of R122, else the reset value (R113, R122). DEDUCED: a record is the one of its TILE_ID and block, which software
keeps from step to step (log 80). -/
def State.historyOf (s : State) (k : Nat) (ctx : Option Nat) (tile block a : Nat) : History :=
  let fresh := match ctx with
    | some x => !((s.ctx x).measured.contains (tile, block))
    | none => false
  if fresh then .reset
  else .ofNat (leNat ((List.range 4).map fun i => BitVec.ofNat 8 ((s.core k).store.readByte (a + i))))

/-- A pour has written the record of a block (R114, R119). -/
def State.measure (s : State) (ctx : Option Nat) (tile block : Nat) : State :=
  match ctx with
  | none => s
  | some x => s.updCtx x fun c => { c with measured := if c.measured.contains (tile, block) then c.measured else c.measured ++ [(tile, block)] }

/-- Counts of a context's conversions (R101, R116, R125). -/
def State.countScale (s : State) (ctx : Option Nat) (o : BlockOut) : State :=
  match ctx with
  | none => s
  | some x => s.updCtx x fun c => { c with
      satBlocks := if o.sat then satN 32 (c.satBlocks + 1) else c.satBlocks
      nanBlocks := if o.nan then satN 16 (c.nanBlocks + 1) else c.nanBlocks
      limitHits := if o.limit then satN 8 (c.limitHits + 1) else c.limitHits
      underflowSeen := c.underflowSeen || o.underflow }

/-- Writes one block: its codes at a bit address, its scale, its bitmap bit and its history record. -/
def State.putBlock (s : State) (k : Nat) (ctx : Option Nat) (f : Format) (e : Epi) (forward : Bool) (tile block bitAddr : Nat)
    (vs : List Val) (rnds : List Rnd) : State × Nat :=
  let ha := e.hist + 4 * block
  let s := if forward then s else s.noteSpans k [(ha, 4)] ctx 0 0
  let o := pourBlock f forward (s.historyOf k ctx tile block ha) vs rnds
  let s := s.storeBits k bitAddr (f.bits * o.codes.length) (packNat f.bits o.codes) ctx
  let s := match o.hist with
    | some h => (s.storeBits k (8 * ha) 32 h ctx).measure ctx tile block
    | none => s
  let s := s.storeBits k (8 * e.bitmap + block) 1 (b2n o.sat) ctx
  let s := s.countScale ctx o
  let s := if o.limit then s.updCore k fun c => { c with limitBlock := some (match c.limitBlock with | some b => min b block | none => block) } else s
  (s, o.bs8)

/-- The rounding of output (m, n) of a tile (R105, R107, R223). -/
def outRnd (t : Mt) (e : Epi) (m n : Nat) : Rnd := if e.rounding = 1 then .stoch (draw t.step t.tileId 1 (m * t.n + n)) else .nearest

/-- Writes the values of one pass in row-major layout (R226, R228). -/
def State.pourRowMajor (s : State) (k : Nat) (p : Pour) (t : Mt) (e : Epi) (f : Format) (rows : List (List W32)) : State :=
  let i0 := 64 * (p.pass / t.across)
  let j0 := 128 * (p.pass % t.across)
  forL rows.zipIdx (fun row s =>
    let m := i0 + row.2
    let base := 64 * (e.outAddr + m * e.outPitch)
    if e.scaled then
      forN (cdiv row.1.length 32) (fun b s =>
        let ys := (row.1.drop (32 * b)).take 32
        let n0 := j0 + 32 * b
        let r := s.putBlock k p.ctx f e (t.op == 0x10) t.tileId (m * cdiv t.n 32 + n0 / 32) (base + f.bits * n0)
          (ys.map v32) ((List.range ys.length).map fun i => outRnd t e m (n0 + i))
        r.1.storeBits k (8 * (e.osAddr + m * e.osPitch + n0 / 32)) 8 r.2 p.ctx) s
    else
      let cs := row.1.zipIdx.map fun y => plainCode f (outRnd t e m (j0 + y.2)) y.1
      let s := s.storeBits k (base + f.bits * j0) (f.bits * cs.length) (packNat f.bits (cs.map (·.1))) p.ctx
      s.countScale p.ctx { codes := [], bs8 := 0, sat := false, nan := false, underflow := cs.any (·.2), limit := false, hist := none }) s

/-- Writes the values of one pass as update blocks, two rows to a block, with their headers (R227). -/
def State.pourBlocks (s : State) (k : Nat) (p : Pour) (t : Mt) (e : Epi) (f : Format) (rows : List (List W32)) : State :=
  let i0 := 64 * (p.pass / t.across)
  let j0 := 128 * (p.pass % t.across)
  forN (rows.length / 2) (fun u s =>
    let block := 32 * p.pass + u
    let ys := rows.getD (2 * u) [] ++ rows.getD (2 * u + 1) []
    let rnd (i : Nat) : Rnd := outRnd t e (i0 + 2 * u + i / 128) (j0 + i % 128)
    let base := 64 * (e.outAddr + block * blockWords f)
    let r := if e.scaled then s.putBlock k p.ctx f e false t.tileId block base (ys.map v32) ((List.range ys.length).map rnd)
      else
        let cs := ys.zipIdx.map fun y => plainCode f (rnd y.2) y.1
        ((s.storeBits k base (f.bits * cs.length) (packNat f.bits (cs.map (·.1))) p.ctx).countScale p.ctx
          { codes := [], bs8 := 0, sat := false, nan := false, underflow := cs.any (·.2), limit := false, hist := none }, 0x7F)
    let header := mkWord [(0, 8, r.2), (24, 40, t.step.toNat)]
    r.1.storeBits k (8 * (e.osAddr + 8 * block)) 64 header.toNat p.ctx) s

/-- The words of the core store that the outputs of one pass lie in, for the trace of R620. -/
def passWords (m : Mem) (t : Mt) (e : Epi) (f : Format) (pass rows cols : Nat) : List W64 :=
  let run (bit n : Nat) : List W64 := m.words (bit / 64) (cdiv (bit % 64 + n) 64)
  if e.blocks then
    (List.range (rows / 2)).flatMap fun u => run (64 * (e.outAddr + (32 * pass + u) * blockWords f)) (f.bits * 2 * cols)
  else
    (List.range rows).flatMap fun i =>
      run (64 * (e.outAddr + (64 * (pass / t.across) + i) * e.outPitch) + f.bits * 128 * (pass % t.across)) (f.bits * cols)

/-! ### Statistics (R232 to R236) -/

/-- One element of the running method (R235). -/
def StatRun.element (r : StatRun) (x : W32) : StatRun :=
  let c := r.count + 1
  let delta := sub32 x r.mean
  let mu := add32 r.mean (div32 delta (count32 c))
  { r with count := c, mean := mu, m2 := add32 r.m2 (mul32 delta (sub32 x mu)), nonfinite := r.nonfinite || !(v32 x).isFin }

/-- One row of a pass joins a record: its squares by the tree, and its elements in order (R234, R235). -/
def StatRun.row (r : StatRun) (e : Epi) (ys : List W32) : StatRun :=
  let sq := treeFold add32 8 (ys.map fun y => mul32 y y)
  let total := match sq with
    | a :: _ => add32 r.sumsq a
    | [] => r.sumsq
  let r' := if e.moments then ys.foldl StatRun.element r else { r with count := r.count + ys.length }
  { r' with sumsq := if e.sumsq then quiet total else 0#32 }

/-- The record's two words (R232, R236). -/
def StatRun.words (r : StatRun) (e : Epi) : List W64 :=
  let mean := if !e.moments then 0#32 else if r.nonfinite then nan32 else r.mean
  let var := if !e.moments then 0#32 else if r.nonfinite then nan32 else quiet (div32 r.m2 (count32 r.count))
  [join32 mean r.sumsq, join32 (BitVec.ofNat 32 r.count) var]

/-- The statistics of one pass, and the records that it completes (R232, R233). -/
def State.pourStats (s : State) (k : Nat) (p : Pour) (t : Mt) (e : Epi) (rows : List (List W32)) : State :=
  if !e.anyStats then s
  else
    let i0 := 64 * (p.pass / t.across)
    let lastAcross : Bool := p.pass % t.across + 1 = t.across
    forL rows.zipIdx (fun row s =>
      let m := i0 + row.2
      let key := if e.axis then 0 else m
      let old := if p.pass = 0 && e.axis && row.2 = 0 || (!e.axis && p.pass % t.across = 0) then ({} : StatRun) else (s.core k).stats.get {} key
      let r := old.row e row.1
      let s := s.updCore k fun c => { c with stats := c.stats.set key r }
      let done : Bool := if e.axis then p.last && row.2 + 1 = rows.length else lastAcross
      if done then s.storeCore k (e.stats + 2 * key) (r.words e) else s) s

/-! ### The end of a pour -/

/-- POUR_COMPLETE (R204, R222 to R238): the pass's values are converted and written, its statistics taken, the set is
EMPTY; a failed pour check (`bad`) raises its record; the tile's last pour may raise SCALE_LIMIT; a pass that waited
for the set is swapped. -/
def execPourComplete (core : Nat) (bad : Bool) (upset : List (Nat × Nat)) (s : State) : Host.Outcome State Fault Refusal :=
  match (s.core core).pour with
  | none => .next s
  | some p =>
    let t := mtOf p.cmd
    let e := epiOf p.desc
    let c := s.core core
    let rd := s.readSet core (1 - c.select) p.ctx t.op t.tileId upset c.shadow.cells
    let s := rd.1.noteSpans core (e.biasSpan t) p.ctx t.op t.tileId
    let s := if p.pass = 0 then s.updCore core fun c => { c with stats := [], limitBlock := none } else s
    let rows := pourRows (s.core core).store rd.2 t e p.pass p.repeats
    let s := match formatOf e.outFmt with
      | none => s
      | some f => if e.blocks then s.pourBlocks core p t e f rows else s.pourRowMajor core p t e f rows
    let s := s.pourStats core p t e rows
    let s := match p.ctx, formatOf e.outFmt with
      | some x, some f => s.tracePass x (mkWord [(0, 32, t.tileId), (32, 32, p.pass)],
          crc64 ((passWords (s.core core).store t e f p.pass rows.length (rows.headD []).length).flatMap wordBytes))
      | _, _ => s
    let s := if bad then s.strainerFail core p.ctx t.op t.tileId p.pass ⟨[], [], 0⟩ 2 p.begun false else s
    let limit := (s.core core).limitBlock
    let s := s.updCore core fun c => { c.setShadow {} with pour := none, work := if p.last then dropWork true .pouring c.work else c.work }
    let s := match limit with
      | some b => if p.last then s.raise {
          code := Rec.scaleLimit, cls := .ce, unit := .core core, ctx := p.ctx, opcode := t.op, opRef := t.tileId, a := BitVec.ofNat 64 b, ownLimit := true }
        else s
      | none => s
    let s := s.checkClose p.ctx p.begun
    let s := if p.late then s.worst (p.lastMac + 1) else s
    match (s.core core).tile with
    | some w => if w.stalled then .next (s.swapSets core { w with stalled := false } (mtOf w.cmd)) else .next s
    | none => .next s

/-- DEADLINE_POUR (R64, R231): a tile's last pour that passes the boundary after its last MAC raises one CE record. -/
def execDeadlinePour (core : Nat) (s : State) : Host.Outcome State Fault Refusal :=
  match (s.core core).pour with
  | none => .next s
  | some p =>
    if !p.last || p.late || s.now ≤ p.lastMac then .next s
    else
      let t := mtOf p.cmd
      let s := s.updCore core fun c => { c with pour := some { p with late := true } }
      let s := { s with steep := { s.steep with otherDeadlines := satN 16 (s.steep.otherDeadlines + 1) } }
      .next (s.raise {
        code := Rec.deadlinePour, cls := .ce, unit := .core core, ctx := p.ctx, opcode := t.op, opRef := t.tileId
        a := BitVec.ofNat 64 (s.lateBy (p.lastMac + 1)), b := BitVec.ofNat 64 (s.steep.ticks - p.tick) })

/-- STRAINER_INJECT (R189, R190): the cell and bit are taken; ARM is ignored, with a record, while a context holds the
core's die. -/
def State.strainerInject (s : State) (k : Nat) (v : W64) : State :=
  let c := { s.core k with injRow := fld v 21 16, injCol := fld v 14 8, injBit := fld v 7 3 }
  if !bitAt v 0 then s.setCore k c
  else if (s.coreCtx k).isSome then (s.setCore k c).regAccess (0x20000 + 0x100 * k + 0x30)
  else s.setCore k { c with injArm := true }

end Sys2Proof.Machine
end

