-- ==== Sys2Proof/Machine/Operands.lean ====
section
/-! DEFINITION. Machine/Operands.lean: the operand forms of vector instructions: the fields of the word, registers,
lanes and masks, the instruction table with its reserved encodings and costs, the spans of a run, and the run itself
(R243 to R262, R272). One field names a vector register and, where a row reads both, the scalar register of the same
number (R260, R263). -/
namespace Sys2Proof.Machine

/-- The fields of an instruction word (R260). -/
structure VF where
  op : Nat
  vd : Nat
  va : Nat
  vb : Nat
  vc : Nat
  mask : Nat
  zero : Bool
  fe : Bool
  fm : Nat
  rnd : Nat
  fmt : Nat
  imm : Nat
deriving DecidableEq, Repr

def vfOf (w : W64) : VF :=
  { op := fld w 7 0, vd := fld w 13 8, va := fld w 19 14, vb := fld w 25 20, vc := fld w 31 26, mask := fld w 34 32
    zero := bitAt w 35, fe := bitAt w 36, fm := fld w 39 37, rnd := fld w 41 40, fmt := fld w 45 42, imm := fld w 63 46 }

/-- The signed immediate. -/
def VF.simm (f : VF) : Int := signed 18 f.imm

/-! ### Registers (R243 to R247) -/

/-- Lane i of a vector register. -/
def VecState.lane (v : VecState) (r i : Nat) : W32 := (v.v.get [] r).getD i 0#32
/-- A scalar register; S0 reads as zero. -/
def VecState.s (v : VecState) (r : Nat) : W64 := if r = 0 then 0#64 else v.sc.get 0#64 r
/-- A mask register; M0 reads as all ones. -/
def VecState.mreg (v : VecState) (r : Nat) : W64 := if r = 0 then BitVec.allOnes 64 else v.m.get 0#64 r
def VecState.setS (v : VecState) (r : Nat) (x : W64) : VecState := if r = 0 then v else { v with sc := v.sc.set r x }
def VecState.setM (v : VecState) (r : Nat) (x : W64) : VecState := if r = 0 then v else { v with m := v.m.set r x }
def VecState.setV (v : VecState) (r : Nat) (g : Nat → W32) : VecState := { v with v := v.v.set r ((List.range 64).map g) }

/-- A mask word from its bits. -/
def maskOf (g : Nat → Bool) : W64 := BitVec.ofNat 64 ((List.range 64).foldl (fun n i => if g i then n + 2 ^ i else n) 0)

/-! ### The instruction table (R261, R263) -/

/-- What a register field of a row names: nothing, Vn, Sn, Mn, Sn with Sn+1 and n even, or Vn and Sn both. -/
inductive FK where
  | none
  | v
  | s
  | m
  | pair
  | vs
  | vpair
deriving DecidableEq, Repr

def FK.ok (k : FK) (n : Nat) : Bool :=
  match k with
  | .none => n = 0
  | .v => true
  | .s => n < 32
  | .m => n < 8
  | .pair => n < 32 && n % 2 = 0
  | .vs => n < 32
  | .vpair => n < 32 && n % 2 = 0

/-- The range of a row's immediate. -/
inductive IK where
  | zero
  | any
  | upTo (n : Nat)
  | step32
  | shift
deriving DecidableEq, Repr

/-- One row of the instruction table. -/
structure VRow where
  op : Nat
  vd : FK
  va : FK
  vb : FK
  vc : FK
  masked : Bool
  imm : IK
  fmts : List Nat
  cost : Nat
deriving DecidableEq, Repr

def ints : List Nat := [7, 8, 9]
def packs : List Nat := [0, 1, 2, 3, 4, 5, 7]

/-- Scalar, mask and memory rows. -/
def rowsA : List VRow := [
  ⟨0x00, .none, .none, .none, .none, false, .zero, [], 1⟩,
  ⟨0x01, .s, .s, .none, .none, false, .upTo 64, [], 1⟩,
  ⟨0x02, .s, .none, .none, .none, false, .any, [], 1⟩,
  ⟨0x03, .s, .none, .none, .none, false, .any, [], 1⟩,
  ⟨0x04, .s, .s, .s, .none, false, .any, [], 1⟩,
  ⟨0x05, .s, .s, .s, .none, false, .zero, [], 2⟩,
  ⟨0x06, .s, .s, .none, .none, false, .any, [], 2⟩,
  ⟨0x07, .s, .s, .none, .none, false, .any, [], 2⟩,
  ⟨0x08, .s, .v, .none, .none, false, .upTo 63, [], 1⟩,
  ⟨0x09, .v, .s, .none, .none, true, .upTo 1, [], 1⟩,
  ⟨0x0A, .m, .s, .none, .none, false, .zero, [], 1⟩,
  ⟨0x0B, .s, .m, .none, .none, false, .zero, [], 1⟩,
  ⟨0x0C, .m, .m, .m, .none, false, .upTo 3, [], 1⟩,
  ⟨0x0D, .v, .none, .none, .none, true, .zero, [], 1⟩,
  ⟨0x0E, .s, .none, .none, .none, false, .zero, [], 1⟩,
  ⟨0x0F, .none, .none, .none, .none, false, .upTo 127, [], 1⟩,
  ⟨0x10, .v, .s, .none, .none, true, .any, [], 2⟩,
  ⟨0x11, .none, .vs, .none, .none, true, .any, [], 2⟩,
  ⟨0x12, .v, .s, .s, .none, true, .any, [], 17⟩,
  ⟨0x13, .none, .vs, .s, .none, true, .any, [], 17⟩,
  ⟨0x14, .v, .s, .s, .none, true, .step32, packs, 2⟩,
  ⟨0x15, .none, .vs, .s, .none, true, .step32, packs, 4⟩,
  ⟨0x16, .v, .none, .none, .none, true, .upTo 3, [5, 7, 8, 9], 1⟩]

/-- A row of one, two or three vector sources. -/
def row1 (op cost : Nat) : VRow := ⟨op, .v, .v, .none, .none, true, .zero, [], cost⟩
def row2 (op cost : Nat) : VRow := ⟨op, .v, .v, .v, .none, true, .zero, [], cost⟩
def row3 (op cost : Nat) : VRow := ⟨op, .v, .v, .v, .v, true, .zero, [], cost⟩
def rowInt (op : Nat) : VRow := ⟨op, .v, .v, .v, .none, true, .zero, ints, 1⟩
def rowShift (op : Nat) : VRow := ⟨op, .v, .v, .v, .none, true, .shift, ints, 1⟩

/-- Floating-point rows. -/
def rowsB : List VRow := [
  row2 0x20 1, row2 0x21 1, row2 0x22 1, row3 0x23 1, row2 0x24 2, row1 0x25 2, row1 0x26 2, row2 0x27 1, row2 0x28 1,
  row1 0x29 1, row1 0x2A 1, row1 0x2B 2, row1 0x2C 2, row1 0x2D 2, row1 0x2E 2,
  ⟨0x2F, .m, .v, .v, .none, true, .upTo 3, [], 1⟩,
  row2 0x30 1, row2 0x31 1, row3 0x32 1, row2 0x33 1]

/-- Integer and logic rows. -/
def rowsC : List VRow := [
  rowInt 0x40, rowInt 0x41, rowInt 0x42, rowInt 0x43, rowInt 0x44, rowInt 0x45, rowInt 0x46, rowInt 0x47,
  ⟨0x48, .v, .v, .none, .none, true, .zero, ints, 1⟩,
  rowShift 0x49, rowShift 0x4A, rowShift 0x4B, rowShift 0x4C, rowShift 0x4D,
  ⟨0x4E, .m, .v, .v, .none, true, .upTo 3, [9], 1⟩,
  row2 0x50 1, row2 0x51 1, row2 0x52 1, row1 0x53 1]

/-- Permutations, reductions and row operations. -/
def rowsD : List VRow := [
  row2 0x60 2,
  ⟨0x61, .v, .v, .s, .none, true, .any, [], 2⟩,
  ⟨0x62, .v, .v, .v, .m, true, .zero, [], 1⟩,
  ⟨0x63, .s, .v, .none, .none, true, .upTo 1, [], 4⟩,
  ⟨0x64, .s, .v, .none, .none, true, .upTo 1, [], 4⟩,
  ⟨0x65, .s, .v, .none, .none, true, .upTo 1, [], 4⟩,
  ⟨0x70, .pair, .none, .none, .none, false, .zero, [], 1⟩,
  ⟨0x71, .pair, .v, .none, .none, true, .zero, [], 2⟩,
  ⟨0x72, .pair, .v, .none, .none, true, .zero, [], 4⟩,
  ⟨0x73, .vpair, .v, .none, .none, true, .zero, [], 4⟩,
  ⟨0x74, .pair, .s, .s, .none, false, .zero, [], 4⟩,
  ⟨0x75, .pair, .v, .none, .none, true, .upTo 1, [], 6⟩,
  ⟨0x76, .pair, .s, .none, .none, false, .zero, [], 4⟩,
  ⟨0x77, .vpair, .v, .none, .none, true, .zero, [], 1⟩]

/-- The instruction table (R263). -/
def vecTable : List VRow := rowsA ++ rowsB ++ rowsC ++ rowsD

/-- The row of an opcode. -/
def vecRow (op : Nat) : Option VRow := vecTable.find? fun r => r.op == op

/-- An instruction holds no reserved encoding (R261). -/
def VF.ok (f : VF) : Bool :=
  match vecRow f.op with
  | none => false
  | some r =>
    let regs := r.vd.ok f.vd && r.va.ok f.va && r.vc.ok f.vc &&
      (if r.imm = .shift && Nat.testBit f.imm 17 then f.vb = 0 else r.vb.ok f.vb)
    let imm := match r.imm with
      | .zero => f.imm = 0
      | .any => true
      | .upTo n => f.imm ≤ n
      | .step32 => f.imm % 32 = 0
      | .shift => if Nat.testBit f.imm 17 then f.imm < 2 ^ 17 + 256 else f.imm = 0
    let masks := r.masked || (f.mask = 0 && !f.zero && !f.fe && f.fm = 0)
    let flags := if f.fe then f.fm ≠ 0 else true
    let rnd := f.rnd = 0 || (f.rnd = 1 && (f.op = 0x15 || f.op = 0x16 || f.op = 0x33))
    let fmt := if r.fmts.isEmpty then f.fmt = 0 else r.fmts.contains f.fmt
    let noScale := !((f.op = 0x14 || f.op = 0x15) && 5 ≤ f.fmt) || f.vb = 0
    regs && imm && masks && flags && rnd && fmt && noScale

/-- Cost of an instruction with VL 64 (R255). -/
def vecCost (w : W64) : Nat := match vecRow (fld w 7 0) with | some r => r.cost | none => 0

/-! ### A run (R252 to R256) -/

/-- The run has run every instruction it is to run (R253). -/
def VRun.ended (r : VRun) : Bool :=
  let v := vcmdOf r.cmd
  (r.iter = 0 && v.pro ≤ r.pc) || v.len ≤ r.pc

/-- The instruction that runs next, its iteration and its place; past the prologue the body's first iteration begins. -/
def VRun.enter (r : VRun) : VRun :=
  let v := vcmdOf r.cmd
  if r.iter = 0 && v.pro ≤ r.pc && 0 < v.iter then { r with iter := 1, pc := v.pro } else r

/-- The next instruction after one that has run (R253). -/
def VRun.next (r : VRun) : VRun :=
  let v := vcmdOf r.cmd
  let pc := r.pc + 1
  if r.iter = 0 then ({ r with pc := pc }).enter
  else if pc = v.len && r.iter < v.iter then { r with iter := r.iter + 1, pc := v.pro }
  else { r with pc := pc }

/-- What an instruction sees. -/
structure VIn where
  f : VF
  run : VRun
  vec : VecState
  mem : Mem
deriving DecidableEq, Repr

/-- What an instruction does: the registers after it, the flags of each lane, the words it read and the bytes it
writes, or the address of an access that R256 refuses. -/
structure VOut where
  vec : VecState
  lanes : List Nat := []
  reads : List Nat := []
  writes : List (Nat × List Byte) := []
  stop : Option Nat := none
deriving DecidableEq, Repr

/-- Lane i is active (R246, R247). -/
def VIn.active (x : VIn) (i : Nat) : Bool := i < x.vec.vl && bitAt (x.vec.mreg x.f.mask) i
/-- Active lanes, lowest first. -/
def VIn.lanes (x : VIn) : List Nat := (List.range 64).filter x.active

/-- Writes a vector register lane by lane: lanes at or beyond VL keep their value; an inactive lane keeps it or becomes
0 as ZERO says (R246, R247). -/
def VIn.putLanes (x : VIn) (g : Nat → W32) : VecState :=
  x.vec.setV x.f.vd fun i =>
    if x.active i then g i else if i < x.vec.vl && x.f.zero then 0#32 else x.vec.lane x.f.vd i

/-- An instruction whose lanes are independent: the result and the flags of each active lane. -/
def VIn.each (x : VIn) (g : Nat → W32 × Nat) : VOut :=
  { vec := x.putLanes fun i => (g i).1
    lanes := (List.range 64).map fun i => if x.active i then (g i).2 else 0 }

/-- An instruction that sets one bit of a mask register for each active lane. -/
def VIn.eachBit (x : VIn) (g : Nat → Bool) : VOut :=
  let old := x.vec.mreg x.f.vd
  { vec := x.vec.setM x.f.vd (maskOf fun i =>
      if x.active i then g i else if i < x.vec.vl && x.f.zero then false else bitAt old i) }

/-- An instruction with a scalar result; its flags count as lane 0 (R250). -/
def VIn.scalar (x : VIn) (r : W64) (flags : Nat) : VOut := { vec := x.vec.setS x.f.vd r, lanes := [flags] }

/-- The active lanes as the leaves of R278. -/
def VIn.leaves {α : Type} (x : VIn) (g : Nat → α) : List (Option α) :=
  (List.range x.vec.vl).map fun i => if x.active i then some (g i) else none

/-- The draw of a conversion in the vector engine (R272). DEDUCED (log 24): it stands for conversions to integer formats too,
of which R100 names rounding to nearest alone. -/
def VIn.rnd (x : VIn) (e : Nat) : Rnd :=
  let v := vcmdOf x.run.cmd
  if x.f.rnd = 1 then .stoch (draw v.step v.tileId 2 ((x.run.iter * 4096 + x.run.pc) * 256 + e)) else .nearest

/-- The low 2 bits of a vector address are taken as zero, the low 3 of a scalar address (R262); addresses wrap at 64
bits as every scalar does. -/
def vecAddr (a : Int) : Nat := (a % (2 ^ 64 : Nat)).toNat / 4 * 4
def scaAddr (a : Int) : Nat := (a % (2 ^ 64 : Nat)).toNat / 8 * 8

/-- A 32-bit lane of a core store. -/
def Mem.lane32 (m : Mem) (a : Nat) : W32 := if a % 8 = 0 then lo32 (m.word (a / 8)) else hi32 (m.word (a / 8))

/-- The four bytes of a lane. -/
def laneBytes (w : W32) : List Byte := (List.range 4).map fun i => BitVec.ofNat 8 (w.toNat / 2 ^ (8 * i))

/-- A gather of one 32-bit word for each active lane; the first access outside the spans stops the run (R256). -/
def VIn.gather (x : VIn) (addr : Nat → Nat) : VOut :=
  let v := vcmdOf x.run.cmd
  match x.lanes.find? fun i => !(v.mayRead (addr i) 4) with
  | some i => { vec := x.vec, stop := some (addr i) }
  | none =>
    let r := x.each fun i => (x.mem.lane32 (addr i), 0)
    { r with reads := (x.lanes.map fun i => addr i / 8).eraseDups }

/-- A scatter of one 32-bit word for each active lane, in rising lane order. -/
def VIn.scatter (x : VIn) (reg : Nat) (addr : Nat → Nat) : VOut :=
  let v := vcmdOf x.run.cmd
  match x.lanes.find? fun i => !(v.mayWrite (addr i) 4) with
  | some i => { vec := x.vec, stop := some (addr i) }
  | none => { vec := x.vec, writes := x.lanes.map fun i => (addr i, laneBytes (x.vec.lane reg i)) }

/-- Cycles in which a run that stops has held the lane: the costs of the instructions that have run (R255, R292). A run that
stops before its first instruction has run none. -/
def VRun.cycles (r : VRun) (pc : Nat) : Nat :=
  let v := vcmdOf r.cmd
  let cost (ws : List W64) : Nat := ws.foldl (fun n w => n + vecCost w) 0
  if r.iter = 0 then cost (r.prog.take pc)
  else cost (r.prog.take v.pro) + (r.iter - 1) * cost (r.prog.drop v.pro) + cost ((r.prog.take pc).drop v.pro)

/-- A run stops under R255 or R256: VX_FAULT, a UC record, failed work, and the command's error completion. The lane counts
the cycles that it ran (R292). -/
def State.stopRun (s : State) (k : Nat) (r : VRun) (code status kind pc addr : Nat) : State :=
  let v := vcmdOf r.cmd
  let ran := if kind = 3 then r.cycles pc else 0
  let s := s.updCore k fun c => { c with
    vrun := none, vxStopped := true, vxFault := (r.iter, pc, addr % 2 ^ 23, kind), vxCycles := satN 64 (c.vxCycles + ran)
    work := dropWork false .taken c.work }
  let s := s.raise { code := code, cls := .uc, unit := .core k, ctx := r.ctx, opcode := 0x18, opRef := v.tileId }
  let s := match r.ctx with
    | some x => s.taint x
    | none => s
  s.failOnCore k r.ctx status

/-- Flags of an instruction: ORed into VFLAGS, and by lane into the mask register FM names (R250). DESIGN CHOICE: where FM is
the register that a comparison writes, the flags stand last; the spec does not order the two (log 24). -/
def VIn.flagged (x : VIn) (o : VOut) : VecState :=
  let v := { o.vec with flags := o.lanes.foldl (fun a b => a ||| b) o.vec.flags }
  if x.f.fe then v.setM x.f.fm (maskOf fun i => o.lanes.getD i 0 ≠ 0) else v

/-- One instruction of a run, when it is the one that stands next in the program (R253, R264): its reads are checked,
its result and flags written, its stores made, and the run moves on; or the run stops (R256). -/
def State.vector (s : State) (k : Nat) (w : W64) (op : Nat) (body : VIn → VOut) : State :=
  match (s.core k).vrun with
  | none => s
  | some r =>
    if r.ended || r.prog.getD r.pc 0#64 ≠ w || fld w 7 0 ≠ op then s
    else
      let x : VIn := { f := vfOf w, run := r, vec := (s.core k).vec, mem := (s.core k).store }
      let o := body x
      match o.stop with
      | some a => s.stopRun k r Rec.vectorSpan St.vectorSpan 3 r.pc a
      | none =>
        let v := vcmdOf r.cmd
        let s := forL o.reads (fun wa s => s.noteCore k wa 1 r.ctx false 0x18 v.tileId) s
        let s := s.updCore k fun c => { c with vec := x.flagged o, vrun := some r.next }
        forL o.writes (fun p s => s.storeCoreBytes k p.1 p.2 r.ctx) s

/-- The vector lane may take its next command now: it holds none, and no earlier command of the core stream conflicts with it
(R149, R170). -/
def State.laneTakes (s : State) (k : Nat) (cmd : Cmd) : Option Work :=
  let c := s.core k
  if c.vrun.isSome || c.xfer.isSome then none
  else match s.due k cmd with
    | some w => if ({ c with work := s.streamOf k cmd } : Core).waits w then none else some w
    | none => none

/-- VEC_RUN (R252 to R255, R261): the program is read, decoded and costed; a reserved instruction or a cost above the
declared one stops the run before any instruction. -/
def execVecRun (core : Nat) (cmd : Cmd) (s : State) : Host.Outcome State Fault Refusal :=
  match s.laneTakes core cmd with
  | none => .next s
  | some w =>
    if cmd.op ≠ 0x18 then .next s
    else if s.fencedUnit (.core core) then .next (s.refuseWork core w)
    else
      let v := vcmdOf cmd
      let ctx := w.ctx
      let s := s.takeWork core cmd
      let s := s.noteSpans core [(8 * v.addr, 8 * v.len)] ctx 0x18 v.tileId
      let prog := (s.core core).store.words v.addr v.len
      let r : VRun := { cmd := cmd, ctx := ctx, prog := prog, taken := s.now }
      let cost (ws : List W64) : Nat := ws.foldl (fun n w => n + vecCost w) 0
      match prog.findIdx? fun w => !(vfOf w).ok with
      | some i => .next (s.stopRun core r Rec.vectorEncoding St.vectorEncoding 1 i 0)
      | none =>
        if v.proCost < cost (prog.take v.pro) || v.bodyCost < cost (prog.drop v.pro) then
          .next (s.stopRun core r Rec.vectorCost St.vectorCost 2 0 0)
        else .next (s.updCore core fun c => { c with vrun := some r.enter, vxStopped := false })

/-- VEC_RUN_COMPLETE (R253, R258): a run whose last instruction has run leaves the vector lane. -/
def execVecRunComplete (core cycles : Nat) (s : State) : Host.Outcome State Fault Refusal :=
  match (s.core core).vrun with
  | none => .next s
  | some r =>
    if !r.ended then .next s
    else .next (s.updCore core fun c => { c with
      vrun := none, vxCycles := satN 64 (c.vxCycles + cycles), work := dropWork false .taken c.work })

end Sys2Proof.Machine
end

