-- ==== Sys2Proof/Machine/Transfers.lean ====
section
/-! DEFINITION. Machine/Transfers.lean: transfers between a core store and the tiers (R302 to R309), the gather of
gradient uses (R200 to R202), and the meanings of the memory's own commands (R320 to R329). -/
namespace Sys2Proof.Machine

/-- Stored syndromes of words that arrived in error (R314). -/
def Mem.carry (m : Mem) (wa : Nat) (ws : List Moving) : Mem :=
  forN ws.length (fun i m => let syn := (ws.getD i (0#64, 0#8)).2; if syn = 0#8 then m else m.setSyn (wa + i) syn) m

/-- The two ends of row r of a transfer: word addresses in the tier and in the core store. -/
def XCmd.row (x : XCmd) (r : Nat) : Nat × Nat := ((x.mem + r * x.memPitch) / 8, x.cs + r * x.csPitch)

/-- One row of a transfer: its words are read and checked, cross the interposer, and are written with their check bits; an
uncorrectable word that an injection made stays marked as such where it arrives (R314, R329). -/
def State.moveRow (s : State) (k : Nat) (x : XCmd) (ctx : Option Nat) (ref : Nat) (upset : List (Nat × Nat)) (r : Nat) : State :=
  let n := x.rowWords
  let p := x.row r
  let fromTier := x.dir ≠ 1
  let ws := (List.range n).map fun i =>
    if fromTier then s.mem.space.leave (p.1 + i) else (s.core k).store.leave (p.2 + i)
  let s := if fromTier then s.noteTier p.1 n ctx false 0x19 ref else s.noteCore k p.2 n ctx false 0x19 ref
  let from_ := s.mem.injected
  let ups := (upset.filter fun u => r * n ≤ u.1 && u.1 < r * n + n).map fun u => (u.1 - r * n, u.2)
  let got := s.arriveAll 32 ctx 0x19 ref ups (((List.range n).map fun i => 8 * (p.1 + i)).zip ws)
  let s := got.1
  let data := got.2.map (·.1)
  let tierMark (i : Nat) : Nat × Nat := (placeOf (8 * (p.1 + i)), p.1 + i)
  let marked := (List.range n).filter fun i => from_.contains (if fromTier then tierMark i else coreMark k (p.2 + i))
  let s := if fromTier then (s.storeCore k p.2 data).updCore k fun c => { c with store := c.store.carry p.2 got.2 }
    else
      let s := s.storeTier p.1 data
      let sp := s.mem.space.carry p.1 got.2
      { s with mem := { s.mem with space := sp } }
  { s with mem := { s.mem with
    injected := s.mem.injected ++ marked.map fun i => if fromTier then coreMark k (p.2 + i) else tierMark i } }

/-- A transfer's tier span lies where its direction may reach (R300, R301, R304): the context's own half to read, its fast
window to read or write; never the mirror half, the firmware area, or a page of another context. -/
def XCmd.inWindow (x : XCmd) (c : Ctx) : Bool :=
  if x.dir = 2 then c.slowSpan x.tierSpan.1 x.tierSpan.2 else c.fastSpan x.tierSpan.1 x.tierSpan.2

/-- XFER (R302 to R306, R313): the transfer takes the lane and moves its words. `upset` names words of the transfer, in
order, and bits of theirs that turn over on the way. An address that holds no memory stops the run by name; one outside the
context's windows, which submission has refused, ends the command with MEMORY_RANGE. -/
def execXfer (core : Nat) (cmd : Cmd) (upset : List (Nat × Nat)) (s : State) : Host.Outcome State Fault Refusal :=
  match s.laneTakes core cmd with
  | none => .next s
  | some w =>
    let x := xcmdOf cmd
    if cmd.op ≠ 0x19 || x.bad then .next s
    else if s.fencedUnit (.core core) then .next (s.refuseWork core w)
    else if !(spanOk x.tierSpan.1 x.tierSpan.2) then .fault (.noMemory x.mem)
    else if x.csSpan.beyond then .fault (.noMemory (8 * x.cs))
    else
      let ctx := w.ctx
      let ref := s.streamIdOf core ctx
      let s := (s.takeWork core cmd).updCore core fun c => { c with xfer := some { cmd := cmd, ctx := ctx, taken := s.now, tick := s.steep.ticks } }
      if (ctx.map fun y => x.inWindow (s.ctx y)) != some true then .next (s.failWork w St.memoryRange)
      else .next (forN x.rows (fun r s => s.moveRow core x ctx ref upset r) s)

/-- A command of the vector lane that has done its work leaves the lane; a late one enters WORST_US (R65). -/
def State.endLane (s : State) (k op : Nat) : State :=
  match (s.core k).xfer with
  | none => s
  | some x =>
    if Cmd.op x.cmd ≠ op then s
    else
      let s := if x.overruns = 0 then s else s.worst (x.taken + 1)
      s.updCore k fun c => { c with xfer := none, work := dropWork false .taken c.work }

/-- XFER_COMPLETE (R305, R309). -/
def execXferComplete (core : Nat) (s : State) : Host.Outcome State Fault Refusal := .next (s.endLane core 0x19)

/-- FP32 element e of a data plane of 32-bit values at a word address. -/
def Mem.fp32At (m : Mem) (wa e : Nat) : Nat := (m.lane32 (8 * wa + 4 * e)).toNat

/-- The gathered sum of element e: use 0, then each later use in rising order, each addition rounded (R201). -/
def GCmd.sum (g : GCmd) (m : Mem) (e : Nat) : Nat :=
  (List.range (g.uses - 1)).foldl (fun a u => (fadd Fmts.fp32 a (m.fp32At (g.src + (u + 1) * g.stride) e)).1) (m.fp32At g.src e)

/-- GRAD_GATHER (R200 to R202): the sums of all uses are written to the destination plane in BF16 or FP32. DESIGN CHOICE:
every source element is read before any sum is written, so that a destination that overlaps a source changes no sum; the
spec does not say (log 81). -/
def execGradGather (core : Nat) (cmd : Cmd) (s : State) : Host.Outcome State Fault Refusal :=
  match s.laneTakes core cmd with
  | none => .next s
  | some w =>
    let g := gcmdOf cmd
    if cmd.op ≠ 0x1C || g.bad then .next s
    else if s.fencedUnit (.core core) then .next (s.refuseWork core w)
    else if g.srcSpan.beyond || g.dstSpan.beyond then .fault (.noMemory (8 * g.src))
    else
      let ctx := w.ctx
      let ref := s.streamIdOf core ctx
      let s := (s.takeWork core cmd).updCore core fun c => { c with xfer := some { cmd := cmd, ctx := ctx, taken := s.now, tick := s.steep.ticks } }
      let uses := (List.range g.uses).map fun u => (8 * (g.src + u * g.stride), 4 * g.count)
      let s := s.noteSpans core uses ctx 0x1C ref
      let m := (s.core core).store
      let out := (List.range g.count).map fun e =>
        let v := g.sum m e
        let v := if (Fmts.fp32.decode v).isNan then nan32.toNat else v
        if g.fmt = 6 then v else (Fmts.bf16.encodeIeee .nearest (Fmts.fp32.decode v)).1
      .next (s.storeCore core g.dst (packWords (if g.fmt = 6 then 32 else 16) out))

/-- GRAD_GATHER_COMPLETE (R201). -/
def execGradGatherComplete (core : Nat) (s : State) : Host.Outcome State Fault Refusal := .next (s.endLane core 0x1C)

/-! ### The patrol, the repair list, injection, training, calibration (R320 to R329) -/

/-- Words of a tier that the patrol reads: the fast tier, the slow tier, the core stores (R320). -/
def patrolWords (tier : Nat) : Nat := if tier = 0 then fastEnd / 8 else if tier = 1 then (slowEnd - ownBase) / 8 else 512 * coreWords

/-- The next word that a patrol reads; after the last one a pass is complete and the patrol starts again (R320, R328). -/
def MemUnit.stepPatrol (m : MemUnit) (tier : Nat) : MemUnit :=
  let n := m.patrol.get 0 tier + 1
  if n < patrolWords tier then { m with patrol := m.patrol.set tier n }
  else { m with
    patrol := m.patrol.set tier 0
    fastPasses := if tier = 0 then (m.fastPasses + 1) % 65536 else m.fastPasses
    slowPasses := if tier = 1 then (m.slowPasses + 1) % 65536 else m.slowPasses }

/-- Bits of a stored word turned over. -/
def Mem.flips (m : Mem) (wa : Nat) (bits : List Nat) : Mem := bits.foldl (fun m b => m.flip wa b) m

/-- SCRUB_READ (R320, R321): the patrol of a tier reads its next word, whose bits in `upset` have turned over at rest,
corrects and writes it back or raises its record. A core store's word is read for the context on the core. -/
def execScrubRead (tier : Nat) (upset : List Nat) (s : State) : Host.Outcome State Fault Refusal :=
  if 2 < tier then .next s
  else
    let i := s.mem.patrol.get 0 tier
    let bits := upset.filter (· < 72)
    let s := { s with mem := s.mem.stepPatrol tier }
    if tier = 2 then
      let k := i / coreWords
      let wa := i % coreWords
      let s := if bits.isEmpty then s else s.updCore k fun c => { c with store := c.store.flips wa bits }
      .next (s.noteCore k wa 1 (s.coreCtx k) true 0 0)
    else
      let wa := if tier = 0 then i else ownBase / 8 + i
      let sp := s.mem.space.flips wa bits
      let s := if bits.isEmpty then s else { s with mem := { s.mem with space := sp } }
      .next (s.noteTier wa 1 none true 0 0)

/-- Steeps of the last hour: 3,600 s of the present period (R43, R322). -/
def State.hourSteeps (s : State) : Nat := 3600 * 4000 / max 1 s.steep.currentQ

/-- REPAIR_LIST_ADD (R322): a row that gave a CE in 3 different steeps within one hour enters the repair list, or raises
REPAIR_FULL when its stack or package has 64 entries. -/
def execRepairListAdd (place row : Nat) (s : State) : Host.Outcome State Fault Refusal :=
  let mine (r : RowCe) : Bool := r.place == place && r.row == row
  let recent (r : RowCe) : Nat := (r.steeps.filter fun n => s.now < n + s.hourSteeps).length
  if !(s.mem.rowCes.any fun r => mine r && 3 ≤ recent r) || s.mem.repair.contains (place, row) then .next s
  else if 64 ≤ (s.mem.repair.filter fun e => e.1 == place).length then
    .next (s.raise {
      code := Rec.repairFull, cls := .ce, unit := { place := place, addr := 0, syn := 0#8 : BadWord }.unit
      a := BitVec.ofNat 64 place, b := BitVec.ofNat 64 row })
  else .next { s with mem := { s.mem with repair := s.mem.repair ++ [(place, row)] } }

/-- ECC_INJECT as software reads it (R328). -/
def MemUnit.injectWord (m : MemUnit) : W64 :=
  mkWord [(24, 6, m.injPlace), (23, 1, b2n m.injDouble), (16, 7, m.injBitB), (8, 7, m.injBitA), (0, 1, b2n m.injArm)]

/-- A 64-bit register after a write of part of it, whose data stands in its place: a 32-bit write keeps the other half
(R15). -/
def mergeHalf (h : Half) (old v : W64) : W64 :=
  match h with
  | .full => v
  | .low => join32 (hi32 old) (lo32 v)
  | .high => join32 (hi32 v) (lo32 old)

/-- A write to ECC_INJECT (R329): ignored whole when a bit number is 72 or above; ARM alone is ignored, with a record,
while a context is resident on the module. -/
def State.eccInject (s : State) (h : Half) (v : W64) : State :=
  let old := s.mem.injectWord
  let w := mergeHalf h (old &&& ~~~(1#64)) v
  let arm := (match h with | .high => false | _ => bitAt v 0)
  if 72 ≤ fld w 14 8 || (bitAt w 23 && 72 ≤ fld w 22 16) then s.regAccess 0x7310
  else
    let resident := (List.range 8).any fun x => (s.ctx x).state ≠ .free
    let m := { s.mem with injPlace := fld w 29 24, injDouble := bitAt w 23, injBitB := fld w 22 16, injBitA := fld w 14 8 }
    if arm && resident then ({ s with mem := m } : State).regAccess 0x7310
    else { s with mem := { m with injArm := m.injArm || arm } }

/-- ECC_INJECT_ARM (R329). -/
def execEccInjectArm (h : Half) (v : W64) (s : State) : Host.Outcome State Fault Refusal :=
  if s.dark then .next s else .next (s.eccInject h v)

/-- The training steps that a part runs, in order (R323): stacks 0 to 15, packages 16 to 23. -/
def trainingSteps (part kind : Nat) : List Nat :=
  if kind = 2 then [1, 3] else if part < 16 then [1, 2, 3, 4, 5] else if kind = 1 then [1, 3] else [1, 2, 3, 4, 6]

/-- The training step after one; 0xF after the last. -/
def Training.after (t : Training) (part : Nat) : Nat :=
  let l := trainingSteps part t.kind
  match l.findIdx? fun p => p == t.phase with
  | some i => l.getD (i + 1) 0xF
  | none => 0xF

/-- The end of a training step in the memory itself: step 0x3 applies the repair of the listed rows, and the fills of 0x5 and
0x6 leave zero words with their check bits (R322, R323). -/
def MemUnit.trained (m : MemUnit) (part phase : Nat) : MemUnit :=
  if phase = 3 then { m with spared := (m.spared.filter fun e => e.1 ≠ part) ++ m.repair.filter fun e => e.1 = part }
  else if phase = 5 || phase = 6 then { m with
    space := { cells := m.space.cells.filter fun c => placeOf c.1 ≠ part, syn := m.space.syn.filter fun e => placeOf (8 * e.1) ≠ part }
    injected := m.injected.filter fun e => e.1 ≠ part }
  else m

/-- MEMORY_TRAINING_STEP_DONE (R322, R323, R325, R327): a part that is training ends its step, or fails it; after 3 tries the
module raises MEM_TRAIN_FAIL and is OUT_OF_SERVICE, and the part is tried no more. The row has no effect on a part that is not
training. -/
def execMemoryTrainingStepDone (part : Nat) (ok : Bool) (s : State) : Host.Outcome State Fault Refusal :=
  let t := s.mem.trainings.get {} part
  let put (m : MemUnit) (t : Training) : State := { s with mem := { m with trainings := m.trainings.set part t } }
  if 24 ≤ part || t.ready || t.phase = 0 || 3 ≤ t.tries then .next s
  else if ok then .next (put (s.mem.trained part t.phase) { t with phase := t.after part, tries := 0, ready := t.after part = 0xF })
  else if t.tries + 1 < 3 then .next (put s.mem { t with tries := t.tries + 1 })
  else
    let s := put { s.mem with trainFail := true } { t with tries := 3 }
    let s := { s with faults := { s.faults with outOfService := true }, host := { s.host with alertOos := true } }
    .next (s.raise {
      code := Rec.memTrainFail, cls := .fa, unit := { place := part, addr := 0, syn := 0#8 : BadWord }.unit
      a := BitVec.ofNat 64 part })

/-- A part may calibrate in the present boundary window (R326): it is in service, 1,024 steeps have passed since it last did,
and no other part of its kind has calibrated in this boundary. -/
def State.mayCalibrate (s : State) (part : Nat) : Bool :=
  let kin := (List.range 24).filter fun i => decide (i < 16) == decide (part < 16)
  s.trust.stage = 0x0F && s.steep.phase ≤ 1000 && (s.mem.trainings.get {} part).ready &&
    (match s.mem.calibrated.find part with | some n => decide (n + 1024 ≤ s.now) | none => true) &&
    !(kin.any fun i => s.mem.calibrated.find i == some s.now)

/-- PERIODIC_CALIBRATION (R326): at most one stack and one package take their calibration in one boundary; a part that may
not calibrate now does not. -/
def execPeriodicCalibration (stack package : Nat) (s : State) : Host.Outcome State Fault Refusal :=
  let mark (c : Tbl Nat Nat) (i : Nat) (ok : Bool) : Tbl Nat Nat := if ok && s.mayCalibrate i then c.set i s.now else c
  let c := mark s.mem.calibrated stack (stack < 16)
  .next { s with mem := { s.mem with calibrated := mark c (16 + package) (package < 8) } }

end Sys2Proof.Machine
end

