-- ==== Sys2Proof/Machine/Caddies.lean ====
section
/-! DEFINITION. Machine/Caddies.lean: state sets, the update commands and their arithmetic, versions, the low-precision
copy, and the mirror engine's sending side (R427 to R475, R639 to R643). -/
namespace Sys2Proof.Machine

def State.caddy (s : State) (n : Nat) : Caddy := s.caddies.get {} n
def State.setCaddy (s : State) (n : Nat) (c : Caddy) : State := { s with caddies := s.caddies.set n c }
def State.updCaddy (s : State) (n : Nat) (f : Caddy → Caddy) : State := s.setCaddy n (f (s.caddy n))
def State.updUpd (s : State) (x : Nat) (f : Upd → Upd) : State := s.updCtx x fun c => { c with upd := f c.upd }

/-! ### Fields and addresses (R431 to R442) -/

/-- The fields of an update command (R441). -/
structure UCmd where
  op : Nat
  shadow : Bool
  outer : Bool
  copyEn : Bool
  rootP : Nat
  iters : Nat
  k : Nat
  srcFmt : Nat
  copyFmt : Nat
  step : Nat
  base : Nat
  t : Nat
  a : Nat
  first : Nat
  count : Nat
  o : Nat
  i : Nat
  src : Nat
  hdr : Nat
  copy : Nat
  copyPitch : Nat
  scalePitch : Nat
  scale : Nat
  bitmap : Nat
deriving DecidableEq, Repr

def ucmdOf (c : Cmd) : UCmd :=
  { op := c.op, shadow := bitAt (c.w 0) 16, outer := bitAt (c.w 0) 17, copyEn := bitAt (c.w 0) 18, rootP := fld (c.w 0) 21 20
    iters := fld (c.w 0) 26 22, k := fld (c.w 0) 47 32, srcFmt := fld (c.w 0) 51 48, copyFmt := fld (c.w 0) 55 52
    step := (c.w 1).toNat, base := fld (c.w 2) 47 0, t := fld (c.w 3) 23 0, a := fld (c.w 3) 47 24, first := fld (c.w 4) 23 0
    count := fld (c.w 4) 47 24, o := fld (c.w 5) 23 0, i := fld (c.w 5) 47 24, src := fld (c.w 6) 47 0, hdr := fld (c.w 7) 47 0
    copy := fld (c.w 8) 47 0, copyPitch := fld (c.w 9) 23 0, scalePitch := fld (c.w 9) 47 24, scale := fld (c.w 10) 47 0
    bitmap := fld (c.w 11) 47 0 }

/-- Commands that write shadow state (R440). -/
def UCmd.writes (u : UCmd) : Bool := u.op = 0x40 || u.op = 0x41 || u.op = 0x42 || u.op = 0x45
/-- Commands that read gradient or difference blocks, or write difference blocks, in SRC_FMT. -/
def UCmd.blocks (u : UCmd) : Bool := u.op = 0x40 || u.op = 0x44 || u.op = 0x45
/-- Commands that may write a copy (R442). -/
def UCmd.copies (u : UCmd) : Bool := u.writes || u.op = 0x43

/-- S, NP and Tp of a set (R433, R434). -/
def planesS (outer : Bool) : Nat := if outer then 5 else 3
def planesNp (outer : Bool) : Nat := 2 * planesS outer + 8
def tilesPad (t : Nat) : Nat := 8 * cdiv t 8
/-- Size of a set in bytes (R434). -/
def setBytes (t : Nat) (outer : Bool) : Nat := (planesNp outer * tilesPad t + 8 * cdiv t 512) * 65536

/-- Granule of tile t in plane j. -/
def UCmd.granule (u : UCmd) (j t : Nat) : Nat := u.base + (j * tilesPad u.t + t) * 65536
/-- Header of block b of tile t in a version slot. -/
def UCmd.header (u : UCmd) (sl t b : Nat) : Nat :=
  u.base + (planesNp u.outer * tilesPad u.t + 8 * (t / 512) + t % 8) * 65536 + t / 8 % 64 * 1024 + 512 * sl + 8 * b
/-- Plane numbers: parameters, moments and outer planes of a version slot; factors and roots of a factor slot. -/
def UCmd.plane (u : UCmd) (sl i : Nat) : Nat := sl * planesS u.outer + i
def UCmd.factor (u : UCmd) (f i : Nat) : Nat := 2 * planesS u.outer + 4 * f + i

/-- Tile row and column, and the real size of the tile (R431). -/
def UCmd.row (u : UCmd) (t : Nat) : Nat := 128 * (t % u.a)
def UCmd.col (u : UCmd) (t : Nat) : Nat := 128 * (t / u.a)
def UCmd.padding (u : UCmd) (t i j : Nat) : Bool := u.o ≤ u.row t + i || u.i ≤ u.col t + j

/-- The caddy of a tile (R435). -/
def caddyOfTile (t : Nat) : Nat := t % 8 / 2

/-- The command's tiles of caddy c, from tile `n` on: the first of them. -/
def UCmd.nextTile (u : UCmd) (c n : Nat) : Option Nat :=
  ((List.range 8).map (max n u.first + ·)).find? fun t => caddyOfTile t = c && t < u.first + u.count && u.op ≠ 0x46

/-- Bytes of one gradient or difference block of 256 values (R442, R443). -/
def blockBytes (fmt : Nat) : Nat := if fmt = 1 then 192 else if fmt = 4 then 256 else if fmt = 5 then 512 else 1024

/-! ### FP32 matrices of a tile (R428, R429) -/

/-- A 128 × 128 matrix, row by row. -/
abbrev Mat := List (List W32)

def Mat.at (m : Mat) (i j : Nat) : W32 := (m.getD i []).getD j 0#32
def Mat.gen (f : Nat → Nat → W32) : Mat := (List.range 128).map fun i => (List.range 128).map fun j => f i j
def Mat.eye (v : W32) : Mat := Mat.gen fun i j => if i = j then v else 0#32
def one32 : W32 := 0x3F800000#32

/-- A fused multiply-add, a square root and its reciprocal, as patterns. -/
def fma32 (a b c : W32) : W32 := BitVec.ofNat 32 (ffma Fmts.fp32 a.toNat b.toNat c.toNat).1
def sqrt32 (a : W32) : W32 := BitVec.ofNat 32 (fsqrt Fmts.fp32 a.toNat).1
def rsqrt32 (a : W32) : W32 := BitVec.ofNat 32 (frsqrt Fmts.fp32 a.toNat).1
def finite32 (a : W32) : Bool := (v32 a).isFin

/-- C = A · B, each entry a chain of fused multiply-adds from +0 (R429). -/
def Mat.mul (a b : Mat) : Mat :=
  Mat.gen fun i j => (List.range 128).foldl (fun c k => fma32 (a.at i k) (b.at k j) c) 0#32
/-- A · Bᵀ and Aᵀ · B, with the same order of sums. -/
def Mat.mulT (a b : Mat) : Mat :=
  Mat.gen fun i j => (List.range 128).foldl (fun c k => fma32 (a.at i k) (b.at j k) c) 0#32
def Mat.tMul (a b : Mat) : Mat :=
  Mat.gen fun i j => (List.range 128).foldl (fun c k => fma32 (a.at k i) (b.at k j) c) 0#32
def Mat.map (m : Mat) (f : W32 → W32) : Mat := List.map (List.map f) m
def Mat.zip (a b : Mat) (f : W32 → W32 → W32) : Mat := Mat.gen fun i j => f (a.at i j) (b.at i j)
def Mat.finite (m : Mat) : Bool := List.all m fun r => r.all finite32

/-- A whole tile from a tier, and back: row-major, one granule (R433). -/
def Mem.mat (m : Mem) (addr : Nat) : Mat := Mat.gen fun i j => m.lane32 (addr + 4 * (128 * i + j))
def Mat.words (m : Mat) : List W64 := packWords 32 ((List.flatten m).map BitVec.toNat)

/-- pow(b, s) by squaring (R450). -/
def powLoop : Nat → W32 → W32 → Nat → W32
  | 0, r, _, _ => r
  | fuel + 1, r, x, s =>
    if s = 0 then r
    else powLoop fuel (if s % 2 = 1 then mul32 r x else r) (mul32 x x) (s / 2)

def pow32 (b : W32) (s : Nat) : W32 := powLoop 64 one32 b s

/-! ### Roots (R457, R458) -/

/-- What a root gives: the root when it converged, the iterations run, and the last e. -/
structure Root where
  x : Option Mat
  iters : Nat
  e : W32
deriving DecidableEq, Repr

def maxAbsOff (m : Mat) : W32 :=
  (List.range 128).foldl (fun a i => (List.range 128).foldl (fun a j =>
    let d := sub32 (m.at i j) (if i = j then one32 else 0#32)
    let d := BitVec.ofNat 32 (d.toNat % 2 ^ 31)
    if (v32 a).lt (v32 d) then d else a) a) 0#32

/-- The iterations of R457 from iteration `it` on. -/
def rootLoop (p : Nat) (tau : W32) : Nat → Nat → Mat → Mat → W32 → Root
  | 0, it, _, _, e => { x := none, iters := it, e := e }
  | fuel + 1, it, x, mx, last =>
    let inv := div32 one32 (count32 p)
    let tm := Mat.gen fun i j => mul32 (sub32 (if i = j then count32 (p + 1) else 0#32) (mx.at i j)) inv
    let x := x.mul tm
    let t2 := tm.mul tm
    let mx := if p = 2 then t2.mul mx else (t2.mul t2).mul mx
    if !x.finite || !mx.finite then { x := none, iters := it + 1, e := last }
    else
      let e := maxAbsOff mx
      if !((v32 tau).lt (v32 e)) && !(v32 tau).isNan then { x := some x, iters := it + 1, e := e }
      else rootLoop p tau fuel (it + 1) x mx e

/-- root(F) (R457). -/
def rootOf (u : UCmd) (ef tau : W32) (f : Mat) : Root :=
  let p := if u.rootP = 0 then 2 else 4
  let y := Mat.gen fun i j => if i = j then add32 (f.at i j) ef else f.at i j
  let sq := List.foldl (fun a r => List.foldl (fun a v => add32 a (mul32 v v)) a r) 0#32 y
  let n := sqrt32 sq
  if (v32 n).isZero || !finite32 n then { x := none, iters := 0, e := 0#32 }
  else
    let r := rsqrt32 n
    let q := if p = 2 then r else sqrt32 r
    let z := div32 one32 n
    rootLoop p tau u.iters 0 (Mat.eye q) (y.map fun v => mul32 v z) 0#32

/-- refresh_due(t, s) (R455). -/
def UCmd.refresh (u : UCmd) (t : Nat) : Bool := u.op = 0x40 && (u.step - 1) % u.k = t / 8 % u.k

/-! ### Gradient and difference blocks (R96, R436 to R439) -/

/-- Value x of block b of a tile's blocks, as FP32 (R449). -/
def UCmd.gradient (u : UCmd) (m : Mem) (t i j : Nat) : W32 :=
  let n := t - u.first
  let b := i / 2
  let x := 128 * (i % 2) + j
  let w := blockBytes u.srcFmt
  let at_ := u.src + n * 64 * w + b * w
  let bs8 := fld (m.word ((u.hdr + n * 512 + 8 * b) / 8)) 7 0
  match formatOf u.srcFmt with
  | none => 0#32
  | some f =>
    let c := m.code (at_ / 8) f.bits x
    if f.scaled then near32 (f.scaledValue bs8 c) else near32 (f.value c)

/-- The 64 block headers of the source of a tile. -/
def UCmd.srcHeaders (u : UCmd) (m : Mem) (t : Nat) : List W64 := m.words ((u.hdr + (t - u.first) * 512) / 8) 64

/-- A header word of state (R438). -/
def stateHeader (step : Nat) (outer rootStale skew nonfinite : Bool) (fslot version : Nat) : W64 :=
  mkWord [(24, 40, step), (20, 1, b2n outer), (19, 1, b2n rootStale), (18, 1, b2n skew), (17, 1, b2n nonfinite),
    (16, 1, fslot), (8, 8, version), (0, 8, 0x7F)]

/-- d of R452 for a header. -/
def skewOf (step : Nat) (h : W64) : Int := signed 40 (((step : Int) - 1 - (fld h 63 24 : Int)) % (2 ^ 40 : Nat)).toNat

/-! ### The low-precision copy (R465, R466) -/

/-- The columns of a tile that the copy holds, padded to whole blocks of the last block column. -/
def UCmd.copyCols (u : UCmd) (t : Nat) : Nat :=
  let real := min 128 (u.i - u.col t)
  if 5 ≤ u.copyFmt then real else 32 * cdiv real 32

/-- Sets or clears one bitmap bit (R120). -/
def State.storeBit (s : State) (base n : Nat) (on : Bool) (ctx : Option Nat) : State :=
  let a := base + n / 8
  let old := s.mem.space.readByte a
  let cleared := if Nat.testBit old (n % 8) then old - 2 ^ (n % 8) else old
  s.storeTierBytes a [BitVec.ofNat 8 (if on then cleared + 2 ^ (n % 8) else cleared)] ctx

/-- The copy of one tile from its parameters: each row's elements, block by block, with scales and bitmap bits. -/
def State.writeCopy (s : State) (x : Nat) (u : UCmd) (t : Nat) (w : Mat) : State :=
  match formatOf u.copyFmt with
  | none => s
  | some f =>
    let rows := min 128 (u.o - u.row t)
    let cols := u.copyCols t
    forN rows (fun i s =>
      let r := u.row t + i
      let val (j : Nat) : Val := if u.padding t i j then .fin false 0 0 else v32 (w.at i j)
      if u.copyFmt = 5 then
        let cs := (List.range cols).map fun j => (Fmts.bf16.encodeIeee .nearest (val j)).1
        s.storeTierBytes (u.copy + r * u.copyPitch + 2 * u.col t) ((List.range (2 * cols)).map fun b =>
          BitVec.ofNat 8 (cs.getD (b / 2) 0 / 2 ^ (8 * (b % 2)))) (some x)
      else match f.fmt? with
        | none => s
        | some p => forN (cols / 32) (fun blk s =>
            let vs := (List.range 32).map fun e => val (32 * blk + e)
            let b := convertBlock p (presentScale p vs) vs (vs.map fun _ => .nearest)
            let n := (u.col t) / 32 + blk
            let bytes := 4 * f.bits
            let v := packNat f.bits b.codes
            let s := s.storeTierBytes (u.copy + r * u.copyPitch + n * bytes) ((List.range bytes).map fun q => BitVec.ofNat 8 (v / 2 ^ (8 * q))) (some x)
            let s := s.storeTierBytes (u.scale + r * u.scalePitch + n) [BitVec.ofNat 8 b.bs8] (some x)
            let s := s.storeBit u.bitmap (r * cdiv u.i 32 + n) b.sat (some x)
            s.countScale (some x) { codes := [], bs8 := 0, sat := b.sat && !b.nanBlock, nan := b.nanBlock, underflow := false, limit := false, hist := none }) s) s

/-! ### The tile rules (R449, R451 to R453, R467 to R469) -/

/-- Notes the errors of the words that a tile's command reads. -/
def State.noteGranule (s : State) (x op ref addr : Nat) : State := s.noteTier (addr / 8) 8192 (some x) false op ref

/-- Writes granules of a tile, each whole. -/
def State.putGranules (s : State) (gs : List (Nat × Mat)) : State := forL gs (fun g s => s.storeTier (g.1 / 8) g.2.words) s

/-- The state of a tile in a version slot: W, M, V, and AN and B where the set has them. -/
def UCmd.state (u : UCmd) (m : Mem) (sl t : Nat) : List Mat :=
  (List.range (planesS u.outer)).map fun i => m.mat (u.granule (u.plane sl i) t)

/-- What processing a tile leaves: the state written, its headers, and granules written that the mirror takes. -/
structure TileOut where
  s : State
  /-- granules written in the shadow slot or a factor slot -/
  sent : List Nat := []
  kept : Bool := false
  refreshed : Bool := false
  failed : Nat := 0
  iters : Nat := 0
  skewed : Nat := 0
  stale : Bool := false

/-- Writes a tile's shadow state and headers, and its copy (R449, R460, R467). -/
def State.putTile (s : State) (x : Nat) (u : UCmd) (dst t : Nat) (st : List Mat) (hs : List W64) : State :=
  let gs := (List.range (planesS u.outer)).map fun i => (u.granule (u.plane dst i) t, st.getD i [])
  let s := (s.putGranules gs).storeTier (u.header dst t 0 / 8) hs
  if u.copyEn then s.writeCopy x u t (st.getD 0 []) else s

/-- A CE record of a caddy about a tile. -/
def State.caddyRecord (s : State) (c x code : Nat) (cls : Cls) (u : UCmd) (t : Nat) (a b : W64) : State :=
  s.raise { code := code, cls := cls, unit := .caddy c, ctx := some x, opcode := u.op, opRef := t, a := a, b := b }

/-- The granules of a tile's shadow state. -/
def UCmd.shadowGranules (u : UCmd) (dst t : Nat) : List Nat := (List.range (planesS u.outer)).map fun i => u.granule (u.plane dst i) t

/-- keep(t) (R451): the source slot's state goes to the shadow with NONFINITE set. -/
def State.keepTile (s : State) (c : Nat) (j : CaddyJob) (u : UCmd) (sl dst t f ver : Nat) : TileOut :=
  let m := s.mem.space
  let hs := (m.words (u.header sl t 0 / 8) 64).map fun h =>
    stateHeader (fld h 63 24) (bitAt h 20) (bitAt h 19) (bitAt h 18) true f ver
  let s := s.putTile j.ctx u dst t (u.state m sl t) hs
  let first := !((s.ctx j.ctx).upd.keptCmds.contains j.id)
  let s := if first then
      (s.caddyRecord c j.ctx Rec.updNonfinite .ce u t (BitVec.ofNat 64 t) 0#64).updUpd j.ctx fun v => { v with keptCmds := v.keptCmds ++ [j.id] }
    else s
  { s := s, sent := u.shadowGranules dst t, kept := true }

/-- The headers of a source are of the command's step (R453): the first that is not. -/
def UCmd.staleHeader (u : UCmd) (m : Mem) (t : Nat) : Option W64 :=
  (u.srcHeaders m t).find? fun h => fld h 63 24 ≠ u.step % 2 ^ 40

/-- A tile stopped under R453. -/
def State.staleTile (s : State) (c : Nat) (j : CaddyJob) (u : UCmd) (t : Nat) (h : W64) : TileOut :=
  let s := s.caddyRecord c j.ctx Rec.gradStale .uc u t (BitVec.ofNat 64 t) (BitVec.ofNat 64 (fld h 63 24))
  let s := s.updUpd j.ctx fun v => { v with bad := true }
  { s := s.failStep j.ctx u.step CauseOf.caddy s.now, stale := true }

/-- The scalars that depend on literals alone, formed once (R448, R449). -/
def CaddyJob.lit (j : CaddyJob) (i : Nat) : W32 := j.lits.getD i 0#32

/-- Skewed blocks of a tile, with the record of a command's first (R452). -/
def State.noteSkew (s : State) (c : Nat) (j : CaddyJob) (u : UCmd) (t : Nat) (hs : List W64) : State × Nat :=
  let sk := ((List.range 64).filter fun b => skewOf u.step (hs.getD b 0#64) ≠ 0)
  match sk with
  | [] => (s, 0)
  | b :: _ =>
    let d := skewOf u.step (hs.getD b 0#64)
    let first := !((s.ctx j.ctx).upd.skewCmds.contains j.id)
    let s := if first then
        (s.caddyRecord c j.ctx Rec.stepSkew .ce u t (BitVec.ofNat 64 t) (mkWord [(0, 32, b), (32, 32, sbits 32 d)])).updUpd j.ctx
          fun v => { v with skewCmds := v.skewCmds ++ [j.id] }
      else s
    let sat : Int := max (-(2 ^ 23 : Int)) (min (2 ^ 23 - 1) d)
    let word := mkWord [(40, 24, t), (16, 24, sbits 24 sat), (10, 6, b), (7, 3, j.ctx), (0, 1, 1)]
    let s := s.updCaddy c fun q => if bitAt q.skewLog 0 then q else { q with skewLog := word }
    (s, sk.length)

/-- A refreshed factor: its root, and the record when it failed (R458). -/
def State.noteRoot (s : State) (c : Nat) (j : CaddyJob) (u : UCmd) (t factor : Nat) (r : Root) : State :=
  if r.x.isSome then s
  else s.caddyRecord c j.ctx Rec.rootStale .ce u t (BitVec.ofNat 64 t) (mkWord [(0, 8, factor), (8, 8, r.iters), (32, 32, r.e.toNat)])

/-- UPD_STEP on one tile (R449 to R458). -/
def State.stepTile (s : State) (c : Nat) (j : CaddyJob) (u : UCmd) (sl dst t ver : Nat) : TileOut :=
  let m := s.mem.space
  match u.staleHeader m t with
  | some h => s.staleTile c j u t h
  | none =>
    let hs := m.words (u.header sl t 0 / 8) 64
    let f := fld (hs.getD 0 0#64) 16 16
    let g := Mat.gen fun i jj => if u.padding t i jj then 0#32 else mul32 (u.gradient m t i jj) (j.lit 7)
    if !g.finite then s.keepTile c j u sl dst t f ver
    else
      let due := u.refresh t
      let fac (i : Nat) : Mat := m.mat (u.granule (u.factor f i) t)
      let bf := j.lit 5
      let nbf := sub32 one32 bf
      let mixF (old new : Mat) : Mat := old.zip new fun a b => add32 (mul32 bf a) (mul32 nbf b)
      let l2 := mixF (fac 0) (g.mulT g)
      let r2 := mixF (fac 1) (g.tMul g)
      let rl := rootOf u (j.lit 6) (j.lit 10) l2
      let rr := rootOf u (j.lit 6) (j.lit 10) r2
      let lr := if due then rl.x.getD (fac 2) else fac 2
      let rrm := if due then rr.x.getD (fac 3) else fac 3
      let f2 := if due then 1 - f else f
      let facs := if due then [(u.granule (u.factor f2 0) t, l2), (u.granule (u.factor f2 1) t, r2),
        (u.granule (u.factor f2 2) t, lr), (u.granule (u.factor f2 3) t, rrm)] else []
      let s := if due then ((s.putGranules facs).noteRoot c j u t 0 rl).noteRoot c j u t 1 rr else s
      let nf := if due then b2n rl.x.isNone + b2n rr.x.isNone else 0
      let it := if due then max rl.iters rr.iters else 0
      let p := (lr.mul g).mul rrm
      let st := u.state m sl t
      let b1 := j.lit 1
      let b2 := j.lit 2
      let c1 := sub32 one32 (pow32 b1 u.step)
      let c2 := sub32 one32 (pow32 b2 u.step)
      let m2 := (st.getD 1 []).zip p fun mx px => add32 (mul32 b1 mx) (mul32 (sub32 one32 b1) px)
      let v2 := (st.getD 2 []).zip p fun vx px => add32 (mul32 b2 vx) (mul32 (sub32 one32 b2) (mul32 px px))
      let w2 := Mat.gen fun i jj =>
        let wx := Mat.at (st.getD 0 []) i jj
        let uu := div32 (div32 (m2.at i jj) c1) (add32 (sqrt32 (div32 (v2.at i jj) c2)) (j.lit 3))
        sub32 wx (mul32 (j.lit 0) (add32 uu (mul32 (j.lit 4) wx)))
      let sk := s.noteSkew c j u t hs
      let s := sk.1
      if !w2.finite || !m2.finite || !v2.finite then
        { s.keepTile c j u sl dst t f ver with refreshed := due, failed := nf, iters := it, skewed := sk.2 }
      else
        let rs := if due then decide (0 < nf) else bitAt (hs.getD 0 0#64) 19
        let h := stateHeader u.step false rs (0 < sk.2) false f2 ver
        let s := s.putTile j.ctx u dst t (w2 :: m2 :: v2 :: st.drop 3) (List.replicate 64 h)
        { s := s, sent := u.shadowGranules dst t ++ facs.map (·.1), refreshed := due, failed := nf, iters := it, skewed := sk.2 }

/-- UPD_INIT on one tile (R437, R456, R467). -/
def State.initTile (s : State) (j : CaddyJob) (u : UCmd) (dst t ver : Nat) : TileOut :=
  let m := s.mem.space
  let w := Mat.gen fun i jj => if u.padding t i jj then 0#32 else m.lane32 (u.src + (u.row t + i) * u.hdr + 4 * (u.col t + jj))
  let z := Mat.gen fun _ _ => 0#32
  let facs := [(u.granule (u.factor 0 0) t, z), (u.granule (u.factor 0 1) t, z),
    (u.granule (u.factor 0 2) t, Mat.eye one32), (u.granule (u.factor 0 3) t, Mat.eye one32)]
  let st := [w, z, z] ++ (if u.outer then [w, z] else [])
  let s := (s.putGranules facs).putTile j.ctx u dst t st (List.replicate 64 (stateHeader u.step false false false false 0 ver))
  { s := s, sent := u.shadowGranules dst t ++ facs.map (·.1) }

/-- UPD_CARRY on one tile (R467). -/
def State.carryTile (s : State) (j : CaddyJob) (u : UCmd) (sl dst t ver : Nat) : TileOut :=
  let m := s.mem.space
  let hs := (m.words (u.header sl t 0 / 8) 64).map fun h =>
    stateHeader (fld h 63 24) (bitAt h 20) (bitAt h 19) (bitAt h 18) (bitAt h 17) (fld h 16 16) ver
  { s := s.putTile j.ctx u dst t (u.state m sl t) hs, sent := u.shadowGranules dst t }

/-- UPD_OUTER_DIFF on one tile (R468). -/
def State.diffTile (s : State) (u : UCmd) (sl t : Nat) : TileOut :=
  let m := s.mem.space
  let st := u.state m sl t
  let d := (st.getD 0 []).zip (st.getD 3 []) sub32
  let n := t - u.first
  let w := blockBytes u.srcFmt
  let cs (b : Nat) : List Nat := (List.range 256).map fun e =>
    let v := d.at (2 * b + e / 128) (e % 128)
    if u.srcFmt = 5 then (Fmts.bf16.encodeIeee .nearest (v32 v)).1 else v.toNat
  let s := forN 64 (fun b s => s.storeTier ((u.src + n * 64 * w + b * w) / 8) (packWords (if u.srcFmt = 5 then 16 else 32) (cs b))) s
  let h := mkWord [(24, 40, u.step), (0, 8, 0x7F)]
  { s := s.storeTier ((u.hdr + n * 512) / 8) (List.replicate 64 h) }

/-- UPD_OUTER_APPLY on one tile (R469). DESIGN CHOICE: ROOT_STALE and SKEW of the new headers are those of the old (log 88). -/
def State.applyTile (s : State) (c : Nat) (j : CaddyJob) (u : UCmd) (sl dst t ver : Nat) : TileOut :=
  let m := s.mem.space
  match u.staleHeader m t with
  | some h => s.staleTile c j u t h
  | none =>
    let hs := m.words (u.header sl t 0 / 8) 64
    let f := fld (hs.getD 0 0#64) 16 16
    let d := Mat.gen fun i jj => if u.padding t i jj then 0#32 else u.gradient m t i jj
    if !d.finite then s.keepTile c j u sl dst t f ver
    else
      let st := u.state m sl t
      let mu := j.lit 9
      let eta := j.lit 8
      let b2 := (st.getD 4 []).zip d fun b x => add32 (mul32 mu b) x
      let an := Mat.gen fun i jj => add32 (Mat.at (st.getD 3 []) i jj) (mul32 eta (add32 (d.at i jj) (mul32 mu (b2.at i jj))))
      if !b2.finite || !an.finite then s.keepTile c j u sl dst t f ver
      else
        let h0 := hs.getD 0 0#64
        let h := stateHeader u.step true (bitAt h0 19) (bitAt h0 18) false f ver
        let s := s.putTile j.ctx u dst t [an, st.getD 1 [], st.getD 2 [], an, b2] (List.replicate 64 h)
        { s := s, sent := u.shadowGranules dst t }

/-- The outer round of the context's apply step is skipped (R577). -/
def State.outerSkips (s : State) (x : Nat) : Bool := match (s.ctx x).outer.decision with
  | some d => d.skip
  | none => false

/-- Granules of the source slot that a command reads for a tile: the copy needs W, a difference W and the anchor, an
initialisation none, every other command all planes (R435, R467, R468). -/
def UCmd.planesRead (u : UCmd) (sl t : Nat) : List Nat :=
  let ps := if u.op = 0x41 then [] else if u.op = 0x43 then [0] else if u.op = 0x44 then [0, 3] else List.range (planesS u.outer)
  ps.map fun i => u.granule (u.plane sl i) t

/-- Notes the words of the initial parameters that UPD_INIT reads for a tile (R467). -/
def State.noteInit (s : State) (x : Nat) (u : UCmd) (t : Nat) : State :=
  forN (min 128 (u.o - u.row t)) (fun i s =>
    s.noteBytes (u.src + (u.row t + i) * u.hdr + 4 * u.col t) (4 * min 128 (u.i - u.col t)) (some x) u.op t) s

/-- One tile of a command (R435 to R469): its words are read and checked, then its rule applies. UPD_OUTER_APPLY of a
skipped round runs as UPD_CARRY (R577). -/
def State.updTile (s : State) (c : Nat) (j : CaddyJob) (t : Nat) : TileOut :=
  let u := ucmdOf j.cmd
  let v := (s.ctx j.ctx).upd
  let dst := 1 - v.slot
  let sl := if u.shadow then dst else v.slot
  let ver := (v.version + 1) % 256
  let heads := !(u.op = 0x41 || u.op = 0x43 || u.op = 0x44)
  let s := forL (u.planesRead sl t) (fun g s => s.noteGranule j.ctx u.op t g) s
  let s := if heads then s.noteTier (u.header sl t 0 / 8) 64 (some j.ctx) false u.op t else s
  let f := fld (s.mem.space.word (u.header sl t 0 / 8)) 16 16
  let s := if u.op = 0x40 then forN 4 (fun i s => s.noteGranule j.ctx u.op t (u.granule (u.factor f i) t)) s else s
  let s := if u.op = 0x41 then s.noteInit j.ctx u t else s
  let skip := u.op = 0x45 && s.outerSkips j.ctx
  let s := if u.op = 0x40 || (u.op = 0x45 && !skip) then
      let w := 64 * blockBytes u.srcFmt
      (s.noteTier ((u.src + (t - u.first) * w) / 8) (w / 8) (some j.ctx) false u.op t).noteTier ((u.hdr + (t - u.first) * 512) / 8) 64 (some j.ctx) false u.op t
    else s
  if u.op = 0x40 then s.stepTile c j u sl dst t ver
  else if u.op = 0x41 then s.initTile j u dst t ver
  else if u.op = 0x42 then s.carryTile j u sl dst t ver
  else if u.op = 0x43 then { s := s.writeCopy j.ctx u t (s.mem.space.mat (u.granule (u.plane sl 0) t)) }
  else if u.op = 0x44 then s.diffTile u sl t
  else if skip then s.carryTile j u sl dst t ver
  else if u.op = 0x45 then s.applyTile c j u sl dst t ver
  else { s := s }

/-! ### The mirror engine's sending side (R638 to R643) -/

/-- Sends granules of a step to the buddy, each in eight packets of its own-half address and 1,024 words, on KIND 0x04,
VC5, so that no packet exceeds the channel's largest (R481, R484, R639). The low 13 bits of the address carry the packet's number
within the step (R494). -/
def State.sendGranules (s : State) (x step : Nat) (gs : List Nat) : State :=
  match (if (s.ctx x).job.replay.isSome then none else (s.ctx x).job.buddyDn) with
  | none => s
  | some dn =>
    let m := (s.ctx x).job.mirror
    let n0 := if m.sentStep = step then m.sent else 0
    (forL gs.zipIdx (fun e s => forN 8 (fun i s =>
      (s.noteTier (e.1 / 8 + 1024 * i) 1024 (some x) false 0 0).injectDn 0x04 5 dn (some x) 0
        (mirrorWord step (e.1 + 8192 * i + (n0 + 8 * e.2 + i) % 8192) :: s.mem.space.words (e.1 / 8 + 1024 * i) 1024)) s) s).updJob x fun j =>
        { j with mirror := { j.mirror with sent := (if j.mirror.sentStep = step then j.mirror.sent else 0) + 8 * gs.length, sentStep := step } }

/-- Every granule of the committed state of a set: one version slot, both factor slots and the header granules. -/
def SetReg.granules (r : SetReg) (sl : Nat) : List Nat :=
  let tp := tilesPad r.t
  let planes := (List.range (planesS r.outer)).map (sl * planesS r.outer + ·) ++ (List.range 8).map (2 * planesS r.outer + ·)
  (planes.flatMap fun p => (List.range r.t).map fun t => r.base + (p * tp + t) * 65536) ++
    (List.range (8 * cdiv r.t 512)).map fun k => r.base + (planesNp r.outer * tp + k) * 65536

/-- The header granules of a set. -/
def SetReg.headers (r : SetReg) : List Nat :=
  (List.range (8 * cdiv r.t 512)).map fun k => r.base + (planesNp r.outer * tilesPad r.t + k) * 65536

/-- The registry as it stands after the step's commit (R444, R462). -/
def Upd.after (v : Upd) : List SetReg := (v.sets.filter fun r => !(v.retires.any fun q => q.base == r.base)) ++ v.inits

/-- The words of a registry, two for each set; bits 25 and 26 mark a set that joins and one that leaves at the commit of
the step in progress (R444). -/
def Upd.registryWords (v : Upd) : List W64 :=
  let put (init : Bool) (q : SetReg) : List W64 := [BitVec.ofNat 64 q.base,
    mkWord [(0, 24, q.t), (24, 1, b2n q.outer), (25, 1, b2n init), (26, 1, b2n (v.retires.any fun p => p.base == q.base))]]
  v.sets.flatMap (put false) ++ v.inits.flatMap (put true)

/-- The sets that registry words hold: before the commit, or after it. -/
def readRegistry (after : Bool) : List W64 → List SetReg
  | a :: b :: rest =>
    let q : SetReg := { base := a.toNat, t := fld b 23 0, outer := bitAt b 24 }
    if bitAt b (if after then 26 else 25) then readRegistry after rest else q :: readRegistry after rest
  | _ => []

/-- The metadata that ends a step's granules (R639): V, CURRENT_SLOT and STEP, whether the step's update writes shadow
state, the packets of granules sent, and the registry, in as many packets as the channel's largest packet asks for. -/
def State.sendMetadata (s : State) (x step : Nat) : State :=
  let v := (s.ctx x).upd
  match (s.ctx x).job.buddyDn with
  | none => s
  | some dn =>
    let reg := v.registryWords
    let ps := if reg.isEmpty then [[]] else chunksOf 1000 reg
    let s := forN ps.length (fun i s =>
      s.injectDn 0x04 5 dn (some x) 0 ([mirrorWord step MirrorMark.metadata, BitVec.ofNat 64 step, BitVec.ofNat 64 v.version,
        mkWord [(0, 1, v.slot), (1, 1, b2n v.wrote)], BitVec.ofNat 64 v.step, BitVec.ofNat 64 (if (s.ctx x).job.mirror.sentStep = step then (s.ctx x).job.mirror.sent else 0),
        BitVec.ofNat 64 reg.length, BitVec.ofNat 64 (1000 * i)] ++ ps.getD i [])) s
    s.updJob x fun j => { j with mirror := { j.mirror with sent := 0 } }

/-- Writes the planes that a donor has sent into the shadow slot (R585): W = AN, AN and B, M = V = +0, factors and roots
as UPD_INIT leaves them. The outer sets are matched by their order in the registry. Gives the granules written. -/
def State.reanchorWrite (s : State) (x step : Nat) : State × List Nat :=
  let v := (s.ctx x).upd
  let o := (s.ctx x).outer
  if o.reanchor.isNone || o.movedAll = 0 || o.moved.length < o.movedAll || !v.wrote then (s, [])
  else
    let dst := 1 - v.slot
    let rs := v.after.filter fun r => r.outer
    let ucmd (r : SetReg) : UCmd := { ucmdOf [] with base := r.base, t := r.t, outer := r.outer }
    let z := Mat.gen fun _ _ => 0#32
    let tiles := (List.range rs.length).flatMap fun k => (List.range ((rs[k]?.map (·.t)).getD 0)).map fun t => (k, t)
    let s := forL tiles (fun p s =>
      let u := ucmd (rs.getD p.1 { base := 0, t := 0, outer := true })
      let put (i q : Nat) (s : State) : State := forN 8 (fun c s =>
        s.storeTier (u.granule (u.plane dst i) p.2 / 8 + 1024 * c) (o.moved.get [] (p.1, q, p.2, c))) s
      let s := put 4 2 (put 3 1 (put 0 1 s))
      let s := s.putGranules [(u.granule (u.plane dst 1) p.2, z), (u.granule (u.plane dst 2) p.2, z), (u.granule (u.factor 0 0) p.2, z),
        (u.granule (u.factor 0 1) p.2, z), (u.granule (u.factor 0 2) p.2, Mat.eye one32), (u.granule (u.factor 0 3) p.2, Mat.eye one32)]
      s.storeTier (u.header dst p.2 0 / 8) (List.replicate 64 (stateHeader step true false false false 0 ((v.version + 1) % 256)))) s
    let gs := tiles.flatMap fun p =>
      let u := ucmd (rs.getD p.1 { base := 0, t := 0, outer := true })
      u.shadowGranules dst p.2 ++ (List.range 4).map fun i => u.granule (u.factor 0 i) p.2
    (s.updCtx x fun c => { c with outer := { c.outer with movedStep := some step } }, gs)

/-- The caddies report the update of a step prepared (R461): the mirror engine sends what is still due, then the
metadata (R639, R642, R643). A step whose stream holds no update command is prepared when its stream ends. -/
def State.updatePrepared (s : State) (x step : Nat) : State :=
  let v := (s.ctx x).upd
  if v.left ≠ 0 || v.bad || v.prepared || (s.ctx x).job.replay.isSome then s
  else
    let m := (s.ctx x).job.mirror
    let w := s.reanchorWrite x step
    let s := w.1.sendGranules x step w.2
    let s := if v.wrote then s.sendGranules x step (v.after.flatMap SetReg.headers) else s
    let s := s.sendGranules x step (if m.fullDue then v.sets.flatMap fun r => r.granules v.slot else m.resend)
    let s := s.sendMetadata x step
    let s := s.updUpd x fun v => { v with prepared := true }
    s.updJob x fun j => j.updStep step fun t => { t with prepared := true }

/-- One caddy's part of an update command is done. -/
def State.partDone (s : State) (x step : Nat) : State :=
  (s.updUpd x fun v => { v with left := v.left - 1 }).updatePrepared x step

/-! ### Taking commands and tiles (R430, R447, R473) -/

/-- The next tile a caddy takes: contexts take turns tile by tile, within a context its oldest command first. -/
def Caddy.pick (c : Caddy) : Option Nat :=
  let turn := (List.range 8).map fun i => (c.last + 1 + i) % 8
  (turn.findSome? fun x => c.jobs.find? fun j => j.ctx == x).map (·.id)

/-- The tile that a caddy has in hand: job and tile. -/
def Caddy.tile (c : Caddy) (n : Nat) : Option (CaddyJob × Nat) :=
  match c.hand with
  | none => none
  | some id => match c.jobs.find? fun j => j.id == id with
    | none => none
    | some j => ((ucmdOf j.cmd).nextTile n j.next).map fun t => (j, t)

/-- Keeps a tile in hand while there is a job. -/
def Caddy.grasp (c : Caddy) : Caddy := if c.hand.isSome then c else { c with hand := c.pick }

/-- The status that an update command ends with at once when a caddy is not ACTIVE (R430). -/
def State.caddyRefusal (s : State) : Option Nat :=
  let resets (c : Nat) : Bool := s.faults.moduleReset.isSome || s.faults.rungs.any fun r => covers r.unit (.caddy c) && r.engine = 0
  if s.faults.outOfService then some St.outOfService
  else if (List.range 4).any fun c => s.fencedUnit (.caddy c) then some St.unitFenced
  else if (List.range 4).any resets then some St.outOfService
  else none

/-- The sets that a stream's update commands name and do not initialise: by R446 the registry that it was checked
against. -/
def Stream.registry (t : Stream) : List SetReg :=
  let us := (((slicesOf t.words).flatten.filter fun g => g.kind = 2).flatMap (·.cmds)).filterMap fun c =>
    if 0x40 ≤ c.op then some (ucmdOf c) else none
  let inits := (us.filter fun u => u.op = 0x41).map (·.base)
  ((us.filter fun u => !(inits.contains u.base)).map fun u => ({ base := u.base, t := u.t, outer := u.outer } : SetReg)).eraseDups

/-- A replay skips its caddy sections unless the context holds the captured V and set registry (R621). -/
def State.replaySkips (s : State) (x : Nat) (t : Stream) : Bool :=
  match (s.ctx x).job.replay with
  | none => false
  | some r =>
    let v := (s.ctx x).upd
    t.replay && (r.version ≠ v.version || t.registry.any (fun g => !(v.sets.contains g)) || v.sets.any fun g => !(t.registry.contains g))

/-- An update command of the running slice of a slot reaches the caddies (R440, R447): each caddy takes its own tiles of
it in turn; a command of no tiles there is done on that caddy at once. -/
def State.takeUpdate (s : State) (x slot op : Nat) (cmd : Cmd) : State :=
  match s.takeNext x slot op [2] cmd with
  | none => s
  | some (t, s) =>
    let u := ucmdOf cmd
    match s.caddyRefusal with
      | some st => (s.failSlot x slot st).updUpd x fun v => { v with bad := true }
      | none =>
        let reg : SetReg := { base := u.base, t := u.t, outer := u.outer }
        let s := s.updUpd x fun v => { v with
          inits := if op = 0x41 && !(v.inits.any fun r => r.base == u.base) then v.inits ++ [reg] else v.inits
          retires := if op = 0x46 then v.retires ++ [reg] else v.retires
          wrote := v.wrote || u.writes
          copies := if u.copyEn then v.copies ++ [cmd] else v.copies }
        let id := s.nextUpd
        let s := { s with nextUpd := id + 1 }
        forN 4 (fun c s =>
          match u.nextTile c u.first with
          | none => s.partDone x u.step
          | some _ =>
            let j : CaddyJob := {
              id := id, ctx := x, slot := slot, cmd := cmd, lits := t.literals.getD [], next := u.first
              started := t.running.getD s.now, tick := s.steep.ticks }
            s.updCaddy c fun q => ({ q with jobs := q.jobs ++ [j], issuedAt := some s.now }).grasp) s

/-- UPD_STEP (R449). -/
def execUpdStep (ctx slot : Nat) (cmd : Cmd) (s : State) : Host.Outcome State Fault Refusal := .next (s.takeUpdate ctx slot 0x40 cmd)
/-- UPD_INIT (R467). -/
def execUpdInit (ctx slot : Nat) (cmd : Cmd) (s : State) : Host.Outcome State Fault Refusal := .next (s.takeUpdate ctx slot 0x41 cmd)
/-- UPD_CARRY (R467). -/
def execUpdCarry (ctx slot : Nat) (cmd : Cmd) (s : State) : Host.Outcome State Fault Refusal := .next (s.takeUpdate ctx slot 0x42 cmd)
/-- UPD_COPY (R467). -/
def execUpdCopy (ctx slot : Nat) (cmd : Cmd) (s : State) : Host.Outcome State Fault Refusal := .next (s.takeUpdate ctx slot 0x43 cmd)
/-- UPD_OUTER_DIFF (R468). -/
def execUpdOuterDiff (ctx slot : Nat) (cmd : Cmd) (s : State) : Host.Outcome State Fault Refusal := .next (s.takeUpdate ctx slot 0x44 cmd)
/-- UPD_OUTER_APPLY (R469). -/
def execUpdOuterApply (ctx slot : Nat) (cmd : Cmd) (s : State) : Host.Outcome State Fault Refusal := .next (s.takeUpdate ctx slot 0x45 cmd)
/-- UPD_RETIRE (R444, R467): it names the whole set and writes nothing. -/
def execUpdRetire (ctx slot : Nat) (cmd : Cmd) (s : State) : Host.Outcome State Fault Refusal := .next (s.takeUpdate ctx slot 0x46 cmd)

/-- A caddy's counters after a tile (R474). -/
def Caddy.count (c : Caddy) (o : TileOut) (wrote : Bool) (cycles : Nat) : Caddy :=
  { c with
    tiles := if wrote && !o.stale then satN 32 (c.tiles + 1) else c.tiles
    refreshes := if o.refreshed then satN 16 (c.refreshes + 1) else c.refreshes
    rootsFailed := satN 16 (c.rootsFailed + o.failed)
    skewBlocks := satN 16 (c.skewBlocks + o.skewed)
    nonfinite := if o.kept then satN 16 (c.nonfinite + 1) else c.nonfinite
    stale := if o.stale then satN 16 (c.stale + 1) else c.stale
    iterMax := max c.iterMax o.iters
    cycles := satN 64 (c.cycles + cycles) }

/-- Stored words, by word address, with bits inverted in their data alone: what a reader gets of words that reached it
uncorrectable (R312). -/
def Mem.garble (m : Mem) (ws : List (Nat × List Nat)) : Mem :=
  forL ws (fun w m => m.setBytes (8 * w.1) (wordBytes (w.2.foldl (fun v b => if b < 64 then v ^^^ BitVec.ofNat 64 (2 ^ b) else v) (m.raw w.1)))) m

/-- The check at a caddy's port of the granules that it reads (R313, places 33 to 36): a word with one bit turned over is
corrected, one with more is used as it arrived. `upset` numbers the words granule by granule. Gives the words that arrived
uncorrectable, with their bits. -/
def State.caddyPort (s : State) (c x op ref : Nat) (reads : List Nat) (upset : List (Nat × Nat)) : State × List (Nat × List Nat) :=
  let inj := if reads.isEmpty then [] else s.mem.injBits (33 + c)
  let ups := upset.filter fun u => u.1 / 8192 < reads.length && u.2 < 72
  let nums := (if inj.isEmpty then [] else [0]) ++ (ups.map (·.1)).filter fun n => inj.isEmpty || n ≠ 0
  nums.eraseDups.foldl (fun (p : State × List (Nat × List Nat)) n =>
    let wa := reads.getD (n / 8192) 0 / 8 + n % 8192
    let bits := ((ups.filter fun u => u.1 == n).map (·.2))
    let all := if n = 0 then bits ++ inj else bits
    let r := p.1.arrive (33 + c) (some x) op ref (8 * wa) (0#64, 0#8) bits
    (r.1, if r.2.2 = 0#8 then p.2 else p.2 ++ [(wa, all)])) (s, [])

/-- One tile, with the words that its granules' way to the caddy turned over. -/
def State.portTile (s : State) (c : Nat) (j : CaddyJob) (t : Nat) (upset : List (Nat × Nat)) : TileOut :=
  let u := ucmdOf j.cmd
  let v := (s.ctx j.ctx).upd
  let p := s.caddyPort c j.ctx u.op t (u.planesRead (if u.shadow then 1 - v.slot else v.slot) t) upset
  let s := p.1
  if p.2.isEmpty then s.updTile c j t
  else
    let o := { s with mem := { s.mem with space := s.mem.space.garble p.2 } }.updTile c j t
    let back := p.2.filter fun w => !(o.sent.contains (8 * w.1 / 65536 * 65536))
    { o with s := { o.s with mem := { o.s.mem with space := o.s.mem.space.garble back } } }

/-- CADDY_TILE_DONE (R313, R447 to R469, R473): the tile in hand is finished and written, its granules go to the mirror, and
the caddy takes its next tile. -/
def execCaddyTileDone (caddy : Nat) (done : TileDone) (s : State) : Host.Outcome State Fault Refusal :=
  match (s.caddy caddy).tile caddy with
  | none => .next s
  | some (j, t) =>
    let u := ucmdOf j.cmd
    let o := s.portTile caddy j t done.upset
    let s := o.s.updCaddy caddy fun c => c.count o u.writes done.cycles
    let s := if u.writes then s.updUpd j.ctx fun v => { v with prevStep := none } else s
    let s := if o.sent.isEmpty || j.stop then s else s.sendGranules j.ctx u.step o.sent
    let more := !j.stop && (u.nextTile caddy (t + 1)).isSome
    let s := if !more && j.late then s.worst (j.started + 1) else s
    let s := s.updCaddy caddy fun c =>
      let jobs := if more then c.jobs.map fun q => if q.id = j.id then { q with next := t + 1 } else q else c.jobs.filter fun q => q.id ≠ j.id
      ({ c with jobs := jobs, hand := none, last := j.ctx }).grasp
    .next (if more || j.stop then s else s.partDone j.ctx u.step)

/-- DEADLINE_CADDY (R64, R472): a command still running at the boundary after its slice started; the step does not
commit. -/
def execDeadlineCaddy (caddy : Nat) (s : State) : Host.Outcome State Fault Refusal :=
  match (s.caddy caddy).jobs.find? fun j => !j.late && j.started < s.now with
  | none => .next s
  | some j =>
    let u := ucmdOf j.cmd
    let s := s.updCaddy caddy fun c => { c with jobs := c.jobs.map fun q => if q.id = j.id then { q with late := true } else q }
    let s := { s with steep := { s.steep with otherDeadlines := satN 16 (s.steep.otherDeadlines + 1) } }
    let tile := ((u.nextTile caddy j.next).getD u.first)
    let s := s.caddyRecord caddy j.ctx Rec.deadlineCaddy .uc u tile (BitVec.ofNat 64 (s.lateBy (j.started + 1))) (BitVec.ofNat 64 (s.steep.ticks - j.tick))
    let s := s.updUpd j.ctx fun v => { v with bad := true }
    let s := s.failStep j.ctx u.step CauseOf.caddy s.now
    .next (s.discardShadow j.ctx u.step)

/-- A commit's changes of the versions (R462, R475): nothing but the registry changes when no command wrote shadow
state. The copies that stand are those of this step, and older ones of sets still registered whose tiles it has not all copied
anew (R318). -/
def Upd.commit (v : Upd) (step : Nat) : Upd :=
  let new := v.copies.map ucmdOf
  let stale (q : List W64) : Bool :=
    let u := ucmdOf q
    (List.range u.count).all fun i => new.any fun n => n.base = u.base && n.first ≤ u.first + i && u.first + i < n.first + n.count
  let kept (q : List W64) : Bool := v.after.any fun r => r.base == (ucmdOf q).base
  { v with
    slot := if v.wrote then 1 - v.slot else v.slot
    version := if v.wrote then v.version + 1 else v.version
    step := if v.wrote then step else v.step
    prevStep := if v.wrote then some v.step else v.prevStep
    sets := v.after
    prepared := false
    left := 0
    bad := false
    inits := []
    retires := []
    wrote := false
    keptCmds := []
    skewCmds := []
    copies := []
    copiesOld := (v.copiesOld.filter fun q => !(stale q) && kept q) ++ v.copies.filter kept }

/-- Bytes of a tile's copy, as runs: of each row its elements, and in a block format its scales and its bitmap bits
(R465). -/
def UCmd.copyRuns (u : UCmd) (t : Nat) : List (Nat × Nat) :=
  let bits := ((formatOf u.copyFmt).getD .bf16).bits
  (List.range (min 128 (u.o - u.row t))).flatMap fun i =>
    let r := u.row t + i
    let b := u.col t / 32
    let n := u.copyCols t / 32
    let bit0 := r * cdiv u.i 32 + b
    (u.copy + r * u.copyPitch + u.col t * bits / 8, u.copyCols t * bits / 8) ::
      (if u.copyFmt = 5 then [] else [(u.scale + r * u.scalePitch + b, n), (u.bitmap + bit0 / 8, (bit0 + n - 1) / 8 + 1 - bit0 / 8)])

/-- R318: before a restart, the copies that lie in granules with a logged UE are written again from the committed
masters. -/
def State.rewriteNow (s : State) (x : Nat) : State :=
  if !(s.ctx x).rewriteDue then s
  else
    let v := (s.ctx x).upd
    let bad := s.mem.ueGranules
    let hit (u : UCmd) (t : Nat) : Bool :=
      (u.copyRuns t).any fun r => bad.any fun g => g * 65536 < r.1 + r.2 && r.1 < (g + 1) * 65536
    let s := forL v.copiesOld (fun cmd s =>
      let u := ucmdOf cmd
      forN u.count (fun i s =>
        let t := u.first + i
        let g := u.granule (u.plane v.slot 0) t
        if hit u t then (let s := s.noteGranule x u.op t g; s.writeCopy x u t (s.mem.space.mat g)) else s) s) s
    s.updCtx x fun c => { c with rewriteDue := false }

end Sys2Proof.Machine
end

