-- ==== Sys2Proof/Machine/Codec.lean ====
section
/-! DEFINITION. Machine/Codec.lean: elements on the wire of a collective, the difference codec, and sums of squares
(R522, R531 to R537). -/
namespace Sys2Proof.Machine

/-! ### Elements on the wire (R522) -/

/-- FP32 values as a run of words. -/
def fp32Words (vs : List W32) : List W64 := packWords 32 (vs.map BitVec.toNat)
def wordsFp32 (n : Nat) (ws : List W64) : List W32 := (List.range n).map fun i => BitVec.ofNat 32 (unpackAt 32 i ws)

/-- Values in an element format (R522): a block-scaled format as update blocks of 256, each with its header before its
data, under the present-tensor scale; a NaN makes its block a NaN block. Another format as packed codes. -/
def encodeElems (f : Format) (step : Nat) (vs : List W32) : List W64 :=
  match f.fmt? with
  | none => []
  | some p =>
    if f.scaled then
      (chunksOf 256 vs).flatMap fun ys =>
        let xs := ys.map v32
        let b := if xs.any Val.isNan then { codes := xs.map fun _ => 0, bs8 := 0xFF, flags := {}, sat := false, nanBlock := true }
          else convertBlock p (presentScale p xs) xs (xs.map fun _ => .nearest)
        mkWord [(0, 8, b.bs8), (24, 40, step)] :: packWords f.bits b.codes
    else packWords f.bits (vs.map fun y => (p.encodeIeee .nearest (v32 y)).1)

/-- Words of one update block with its header. -/
def updBlockWords (f : Format) : Nat := 1 + cdiv (256 * f.bits) 64

/-- The values of `n` elements so written. -/
def decodeElems (f : Format) (n : Nat) (ws : List W64) : List W32 :=
  if f.scaled then
    (List.range n).map fun i =>
      let b := ws.drop (i / 256 * updBlockWords f)
      near32 (f.scaledValue (fld (b.getD 0 0#64) 7 0) (unpackAt f.bits (i % 256) (b.drop 1)))
  else (List.range n).map fun i => near32 (f.value (unpackAt f.bits i ws))

/-! ### The difference codec (R531 to R535) -/

def magnitude (y : W32) : Nat := y.toNat % 2 ^ 31
def negative (y : W32) : Bool := y.getLsbD 31

/-- The elements of a block that top-k encoding keeps (R532): the largest magnitudes, of equals the lower index. -/
def keptIndices (k : Nat) (ys : List W32) : List Nat :=
  let ms := ys.map magnitude
  let rank (i m : Nat) : Nat := (ms.zipIdx.filter fun p => m < p.1 || (p.1 == m && p.2 < i)).length
  (ms.zipIdx.filter fun p => rank p.2 p.1 < k).map (·.2)

/-- The tree of R278 over a whole list. -/
def treeSum (ys : List W32) : W32 := (treeFold add32 16 ys).headD 0#32

/-- A codec block (R531 to R534). -/
def encodeCodec (sign : Bool) (k : Nat) (ys : List W32) : List W64 :=
  let nan := ys.any fun y => !((v32 y).isFin)
  if sign then
    let a := if nan then nan32 else div32 (treeSum (ys.map fun y => BitVec.ofNat 32 (magnitude y))) (count32 ys.length)
    let bits := if nan then 0 else packNat 1 (ys.map fun y => b2n (negative y))
    let v := a.toNat + 2 ^ 32 * bits
    (List.range (cdiv (32 + ys.length) 64)).map fun i => BitVec.ofNat 64 (v / 2 ^ (64 * i))
  else if nan then [mkWord [(16, 1, 1)]]
  else
    let es := (keptIndices k ys).map fun i => i + 2 ^ 16 * (Fmts.bf16.encodeIeee .nearest (v32 (ys.getD i 0#32))).1
    packWords 32 (es.length :: es)

/-- A NaN block (R534). -/
def nanCodec (sign : Bool) (ws : List W64) : Bool :=
  if sign then (v32 (lo32 (ws.getD 0 0#64))).isNan else bitAt (ws.getD 0 0#64) 16

/-- The values of a codec block of n elements (R532 to R534). -/
def decodeCodec (sign : Bool) (n : Nat) (ws : List W64) : List W32 :=
  if nanCodec sign ws then List.replicate n nan32
  else if sign then
    let a := lo32 (ws.getD 0 0#64)
    (List.range n).map fun i => if unpackAt 1 (32 + i) ws = 1 then a ^^^ 0x80000000#32 else a
  else
    let kept := fld (ws.getD 0 0#64) 15 0
    let es := (List.range kept).map fun e => unpackAt 32 (e + 1) ws
    (List.range n).map fun i => match es.find? fun e => e % 2 ^ 16 == i with
      | some e => BitVec.ofNat 32 (e / 2 ^ 16 * 2 ^ 16)
      | none => 0#32

/-- Words that a codec block of n elements takes, read from its first word (R531). -/
def codecWords (sign : Bool) (n : Nat) (w : W64) : Nat := if sign then cdiv (32 + n) 64 else cdiv (32 * (1 + fld w 15 0)) 64

/-- What an encoding leaves out, per element; +0 for a NaN block (R535). -/
def droppedBy (sign : Bool) (z : List W32) (e : List W64) : List W32 :=
  if nanCodec sign e then z.map fun _ => 0#32
  else (z.zip (decodeCodec sign z.length e)).map fun p => sub32 p.1 p.2

/-! ### Sums of squares (R536, R537) -/

/-- FP64. -/
def fp64 : Fmt := ⟨11, 52, 1023, .ieee⟩

def addF64 (a b : Nat) : Nat := (fadd fp64 a b).1

/-- Squares in FP32 within each run of 256, by the tree of R278, the runs added in FP64 in order (R537). -/
def sumSquares (vs : List W32) : Nat :=
  (chunksOf 256 vs).foldl (fun a r =>
    addF64 a (fp64.encodeIeee .nearest (v32 (treeSum (r.map fun y => mul32 y y)))).1) 0

end Sys2Proof.Machine
end

