-- ==== Sys2Proof/Machine/Gateway.lean ====
section
/-! DEFINITION. Machine/Gateway.lean: the messages of the outer round, and how a module takes differences of other sites
that the far-link gateway delivers (R570 to R575). The words of the messages are the model's own. -/
namespace Sys2Proof.Machine

def State.updOuter (s : State) (x : Nat) (f : Outer → Outer) : State := s.updCtx x fun c => { c with outer := f c.outer }

/-- The context whose outer round has an OUTER_ID. -/
def State.outerCtx (s : State) (id : Nat) : Option Nat :=
  (List.range 8).find? fun x => match (s.ctx x).outer.cfg with
    | some g => g.id == id
    | none => false

/-- This module coordinates the site job: the coordinator's path is its own. -/
def State.coordinates (s : State) (x : Nat) : Bool := match (s.ctx x).outer.cfg with
  | some g => s.fabric.dnValid && pathHops g.lead == s.fabric.path
  | none => false

/-- DNs of the modules of the site job: the live members of the context's job, or this module alone. -/
def State.siteModules (s : State) (x : Nat) : List Nat :=
  let j := (s.ctx x).job
  if j.member then j.live.map j.dnOf else [s.fabric.dn]

/-! Kinds of message: the first four and the last two travel inside the site on VC7, the others between sites on VC6. -/
namespace OMsg
def touch : Nat := 1
def have_ : Nat := 2
def decide_ : Nat := 3
def estimate : Nat := 4
def resend : Nat := 5
def hello : Nat := 6
def state_ : Nat := 7
def merge : Nat := 8
def reanchor : Nat := 9
def planes : Nat := 10
end OMsg

/-- First word of a message inside the site: a kettle packet of type 6. -/
def siteWord (kind id : Nat) : W64 := mkWord [(0, 8, 6), (8, 8, kind), (32, 32, id)]
/-- First word of a message between sites, in the fields of a collective header (R527): OUTER_ID, PHASE 3, which no difference has,
and the kind as LANE. -/
def farWord (kind id : Nat) : W64 := mkWord [(0, 32, id), (49, 4, kind), (54, 2, 3)]

/-- Sends a message to the coordinator on VC7. -/
def State.toLead (s : State) (g : OuterCfg) (kind : Nat) (ws : List W64) : State :=
  s.inject 0x07 7 g.lead none 0 (siteWord kind g.id :: ws)

/-- Sends a message to the PEER of a site on VC6. -/
def State.toPeer (s : State) (x : Nat) (g : OuterCfg) (site kind : Nat) (ws : List W64) : State :=
  s.inject 0x08 6 (g.peers.getD site []) (some x) 0 (farWord kind g.id :: ws)

/-- The other member sites. -/
def State.otherSites (s : State) (g : OuterCfg) : List Nat :=
  (List.range 16).filter fun j => Nat.testBit g.sites j && j ≠ s.fabric.site

/-- HAVE of a module reaches the coordinator (R573). -/
def State.takeHave (s : State) (x dn site round : Nat) (merge : Bool) : State :=
  s.updOuter x fun o => if o.have_.contains (site, round, merge, dn) then o else { o with have_ := o.have_ ++ [(site, round, merge, dn)] }

/-- Codec blocks of the shard. -/
def OuterCfg.blocks (g : OuterCfg) : Nat := cdiv g.count 4096

/-- The words of a codec block, whole (R531). -/
def OuterDiff.block (d : OuterDiff) (sign : Bool) (b : Nat) : Option (List W64) :=
  match d.blocks.find (4096 * b) with
  | none => none
  | some a =>
    let n := codecWords sign 4096 (a.getD 0 0#64)
    if n ≤ a.length then some a
    else match d.blocks.find (4096 * b + 1) with
      | some c => some (a ++ c)
      | none => none

def OuterDiff.whole (d : OuterDiff) (g : OuterCfg) : Bool := (List.range g.blocks).all fun b => (d.block g.sign b).isSome

/-- A difference may still enter a merge: of this round or a later one, or of the round before when that was not skipped
(R575, R580). A merge difference goes by its flag alone (R582). -/
def Outer.accepts (o : Outer) (round : Nat) (merge : Bool) : Bool :=
  let kept (d : Option OuterDecision) : Bool := match d with
    | some d => !d.skip
    | none => false
  merge || o.round < round || (round = o.round && (o.decision.isNone || kept o.decision)) || (round + 1 = o.round && kept o.prev)

def Outer.updDiff (o : Outer) (site round : Nat) (merge : Bool) (f : OuterDiff → OuterDiff) : Outer :=
  let hit (d : OuterDiff) : Bool := d.site == site && d.merge == merge && (merge || d.round == round)
  if o.diffs.any hit then { o with diffs := o.diffs.map fun d => bif hit d then f d else d }
  else { o with diffs := o.diffs ++ [f { site := site, round := round, merge := merge, n := 0 }] }

def Outer.diff (o : Outer) (site round : Nat) (merge : Bool) : Option OuterDiff :=
  o.diffs.find? fun d => d.site == site && d.merge == merge && (merge || d.round == round)

/-- A difference that comes too late is discarded, with one CE record for its site and round (R575). -/
def State.tooLate (s : State) (x site round : Nat) : State :=
  let o := (s.ctx x).outer
  if o.gone.contains (site, round) then s
  else
    let s := s.updOuter x fun o => { o with
      gone := (o.gone ++ [(site, round)]).drop (o.gone.length - 255)
      tooLate := satN 16 (o.tooLate + 1) }
    s.raise { code := Rec.outerTooLate, cls := .ce, ctx := some x, a := BitVec.ofNat 64 site, b := BitVec.ofNat 64 round }

/-- Every codec block of a difference is complete: HAVE to the coordinator (R573). -/
def State.tellHave (s : State) (x site round : Nat) (merge : Bool) : State :=
  match (s.ctx x).outer.cfg, (s.ctx x).outer.diff site round merge with
  | some g, some d =>
    if d.told || !(d.whole g) then s
    else
      let s := s.updOuter x fun o => o.updDiff site round merge fun d => { d with told := true }
      if s.coordinates x then s.takeHave x s.fabric.dn site d.round merge
      else s.toLead g OMsg.have_ [mkWord [(0, 4, site), (8, 1, b2n merge), (32, 24, d.round)]]
  | _, _ => s

/-- A packet of a difference (R572, R573): it is passed on along CHAIN, and its block enters the difference of its site
and round. -/
def State.takeDiff (s : State) (x : Nat) (g : OuterCfg) (body : List W64) : State :=
  let off := fld (body.getD 1 0#64) 39 0
  let h := body.getD 2 0#64
  let round := fld h 23 0
  let site := fld h 27 24
  let merge := bitAt h 28
  let s := forL ((s.ctx x).chains.get [] g.chain) (fun p s => s.inject 0x08 6 p (some x) 0 body) s
  if site = s.fabric.site || !(Nat.testBit g.sites site) then s
  else if !((s.ctx x).outer.accepts round merge) then s.tooLate x site round
  else
    let s := s.updOuter x fun o => o.updDiff site round merge fun d => { d with
      n := fld h 63 32, round := round, blocks := if (d.blocks.find off).isSome then d.blocks else d.blocks.set off (body.drop 3) }
    s.tellHave x site round merge

/-- A packet of the planes that a donor sends (R585). A stream of another number begins again. -/
def State.takePlanes (s : State) (x : Nat) (body : List W64) : State :=
  let h := body.getD 1 0#64
  let k := body.getD 2 0#64
  let key := (fld k 15 0, fld k 19 16, fld k 51 24, fld k 55 52)
  s.updOuter x fun o =>
    if o.reanchor.isNone then o
    else
      let old := if o.movedStream = fld h 15 0 then o.moved else []
      { o with moved := old.set key (body.drop 3), movedAll := fld h 63 32, movedStream := fld h 15 0, movedRound := fld k 63 56 + 256 * fld h 31 16 }

/-- The gateway takes a packet delivered to the module when it is part of a difference, part of a donor's planes, or a
site's request for them; a message of a row of its own stays in the queue. The second value says that it was taken. -/
def State.gatewayTake (s : State) (ws : List W64) : State × Bool :=
  let body := packetBody ws
  let h := body.getD 0 0#64
  let kind := if fld h 55 54 = 3 then fld h 52 49 else 0
  if kind = OMsg.planes || kind = OMsg.state_ then
    (match s.outerCtx (fld h 31 0) with
      | none => (s, true)
      | some x =>
        if kind = OMsg.planes then (s.takePlanes x body, true)
        else (s.updOuter x fun o => { o with asked := o.asked ++ [fld (body.getD 1 0#64) 3 0] }, true))
  else if kind ≠ 0 then (s, false)
  else match s.outerCtx (fld h 31 0) with
    | none => (s, true)
    | some x => match (s.ctx x).outer.cfg with
      | some g => (s.takeDiff x g body, true)
      | none => (s, true)

end Sys2Proof.Machine
end

