-- ==== Sys2Proof/Machine/Queues.lean ====
section
/-! DEFINITION. Machine/Queues.lean: the queue operations of producers and consumers, as a unit issues them to the
queue engine (R331 to R364, R843). A refused operation changes nothing but what its rule names; its status goes to
the unit that issued it, and is shown in `State.queueStatus`. -/
namespace Sys2Proof.Machine

/-- The answer of the last queue operation. -/
def State.answer (s : State) (st : QStatus) (ws : List W64) : State := { s with queueStatus := st, queueData := ws }

/-- Queue `qid` of pool `pool` exists (R333): 512 queues in each of two pools. -/
def queueOk (pool qid : Nat) : Bool := pool < 2 && qid < 512

def causeCode : Cause → Nat
  | .producer => 1
  | .inputUe => 2
  | .tooLong => 3
  | .empty => 4
  | .noCell => 5
  | .fence => 6

/-- Rewinds a port's open packet (R340, R341): its cells return to the free list in the same cycle; no notice, no
SEQ, and a report to the producer with the cause. The causes INPUT_UE, TOO_LONG and EMPTY raise QUEUE_REWIND, and NO_CELL
raises QUEUE_NO_CELL at most once per queue per steep; PRODUCER and FENCE raise none. -/
def State.rewind (s : State) (pool qid port : Nat) (why : Cause) : State :=
  let p := s.pool pool
  let q := p.queue qid
  match q.ports.find port with
  | none => s
  | some o =>
    let p := p.setQueue qid { q with ports := q.ports.drop port, badPackets := satN 16 (q.badPackets + 1) }
    let s := ((s.setPool pool { p with free := p.free + o.cells }).freedIn pool qid o.cells).emit (.rewound pool qid port q.producer why)
    let spec (code : Nat) : RecSpec := {
      code := code, cls := .ce, unit := .iod pool, ctx := o.ctx,
      a := mkWord [(0, 9, qid), (9, 1, pool), (10, 3, port), (16, 4, causeCode why)],
      b := mkWord [(0, 16, o.words.length)], ownLimit := true }
    match why with
    | .producer => s
    | .fence => s
    | .noCell => s.raiseLimited (Rec.queueNoCell, pool * 512 + qid) 1 (spec Rec.queueNoCell)
    | _ => s.raise (spec Rec.queueRewind)

/-- OPEN (R337): one cell, whose word 0 is the length slot; the OPEN waits when no cell may be taken (R344). -/
def execQueueOpen (pool qid port ty : Nat) (ctx : Option Nat) (s : State) : Host.Outcome State Fault Refusal :=
  let p := s.pool pool
  let q := p.queue qid
  if !queueOk pool qid || 8 ≤ port || !q.enabled || q.fence.isSome then .next (s.answer .queueFenced [])
  else if (q.ports.find port).isSome then .next (s.answer .portBusy [])
  else if p.mayTake qid 1 then
    let cs := p.pick pool 1
    let q := { q with ports := q.ports.set port { ty := ty % 256, ctx := ctx, chain := cs } }
    .next ((s.setPool pool ((p.take cs).setQueue qid q)).answer .ok [])
  else
    let q := { q with
      ports := q.ports.set port { ty := ty % 256, ctx := ctx, started := false, since := s.now }
      waits := satN 16 (q.waits + 1) }
    .next ((s.setPool pool (p.setQueue qid q)).answer .wait [])

/-- The most of n cells that a producer of a queue may take now, one after the other (R343). -/
def Pool.most (p : Pool) (qid : Nat) : Nat → Nat
  | 0 => 0
  | n + 1 => if p.mayTake qid (n + 1) then n + 1 else p.most qid n

/-- Writes words into an open packet after its last, taking a cell whenever the next begins and one may be taken; words for
which none may be taken wait (R337, R344). -/
def appendWords (p : Pool) (pool qid port : Nat) (o : OpenPacket) (ws : List W64) (now : Nat) : Pool × Bool :=
  let q := p.queue qid
  let cs := p.pick pool (p.most qid (cellsFor (o.words.length + ws.length) - o.cells))
  let room := 32 * (o.cells + cs.length) - 1 - o.words.length
  let left := ws.drop room
  let whole := left.isEmpty
  ((p.take cs).setQueue qid { q with
    ports := q.ports.set port { o with
      words := o.words ++ ws.take room, chain := o.chain ++ cs
      waiting := if whole then none else some left, since := if whole then o.since else now }
    waits := if whole || o.waiting.isSome then q.waits else satN 16 (q.waits + 1) }, whole)

/-- APPEND (R337): after the last written word. A payload beyond 65,535 words and a word with an uncorrectable
check code make the packet bad (R340). An error-mode fence refuses the operation (R357). -/
def execQueueAppend (pool qid port : Nat) (ws : List W64) (inputUe : Bool) (s : State) : Host.Outcome State Fault Refusal :=
  let p := s.pool pool
  let q := p.queue qid
  if !queueOk pool qid || !q.enabled || q.fence == some .err then .next (s.answer .queueFenced [])
  else match q.ports.find port with
    | none => .next (s.answer .noPacket [])
    | some o =>
      if !o.started || o.waiting.isSome then .next (s.answer .wait [])
      else if inputUe then
        let s := s.setPool pool { p with ue := satN 16 (p.ue + 1) }
        .next ((s.rewind pool qid port .inputUe).answer (.rewound .inputUe) [])
      else if 65535 < o.words.length + ws.length then .next ((s.rewind pool qid port .tooLong).answer (.rewound .tooLong) [])
      else
        let r := appendWords p pool qid port o ws s.now
        .next ((s.setPool pool r.1).answer (if r.2 then .ok else .wait) [])

/-- COMMIT (R338, R339): the length slot, the link at the tail, SEQ_NEXT and the notice in one cycle; a packet
without payload is bad (R340). A queue that drains is fenced when this was its last open packet (R356). -/
def execQueueCommit (pool qid port : Nat) (s : State) : Host.Outcome State Fault Refusal :=
  let p := s.pool pool
  let q := p.queue qid
  if !queueOk pool qid || !q.enabled || q.fence == some .err then .next (s.answer .queueFenced [])
  else match q.ports.find port with
    | none => .next (s.answer .noPacket [])
    | some o =>
      if !o.started || o.waiting.isSome then .next (s.answer .wait [])
      else if o.words.isEmpty then .next ((s.rewind pool qid port .empty).answer (.rewound .empty) [])
      else
        let seq := q.seqNext
        let q' := ({ q with ports := q.ports.drop port }).link o.ctx o.ty o.words o.chain
        .next (((s.setPool pool (p.setQueue qid q')).notify q.sink (noticeWord pool qid seq o.words.length)).answer .ok [])

/-- ABORT (R337, R340): the packet ends as bad, cause PRODUCER; a queue fenced in error mode refuses it (R357). -/
def execQueueAbort (pool qid port : Nat) (s : State) : Host.Outcome State Fault Refusal :=
  if !queueOk pool qid || (s.queue pool qid).fence == some .err then .next (s.answer .queueFenced [])
  else if ((s.queue pool qid).ports.find port).isNone then .next (s.answer .noPacket [])
  else .next ((s.rewind pool qid port .producer).answer (.rewound .producer) [])

/-- The 32 words of a packet's cell as they are stored: the length slot and the payload, and zeros after the last word
(R332, R335). -/
def Packet.cellWords (k : Packet) (i : Nat) : List W64 :=
  let ws := ((lengthSlot k.seq k.ctx k.ty k.words.length :: k.words).drop (32 * i)).take 32
  ws ++ List.replicate (32 - ws.length) 0#64

/-- Word n of a packet's chain as the consumer gets it: corrected where its syndrome allows (R353, R354). -/
def Packet.deliver (k : Packet) (n : Nat) : W64 := eccFix (Tbl.get k.syn 0#8 n) ((k.cellWords (n / 32)).getD (n % 32) 0#64)

/-- A syndrome that the pool has met counts in QPOOL_ECC (R353, R367). -/
def State.countPool (s : State) (pool : Nat) (syn : Byte) : State :=
  let p := s.pool pool
  let ue := eccOf syn == .ue
  s.setPool pool { p with
    ce := if ue then p.ce else satN 32 (p.ce + 1)
    ue := if ue then satN 16 (p.ue + 1) else p.ue
    lastSyndrome := syn.toNat }

/-- Counts and records what reading words `from_` up to `from_ + n` of a packet's chain finds; an uncorrectable word is read
by the work of the packet's context (R317, R353, R354, R844). -/
def State.poolErrors (s : State) (pool qid : Nat) (k : Packet) (from_ n : Nat) : State :=
  forL (k.syn.filter fun e => from_ ≤ e.1 && e.1 < from_ + n) (fun e s =>
    let ue := eccOf e.2 == .ue
    let s := s.countPool pool e.2
    let b := mkWord [(0, 8, e.2.toNat), (9, 1, b2n ue), (16, 9, qid), (25, 1, pool), (26, 18, k.chain.getD (e.1 / 32) 0)]
    let spec : RecSpec := {
      code := if ue then Rec.memUe else Rec.memCe, cls := if ue then .uc else .ce, unit := .iod pool, ctx := k.ctx,
      a := mkWord [(48, 6, 63)], b := b, ownLimit := !ue }
    if !ue then s.raiseLimited (Rec.memCe, 63) 1 spec
    else match k.ctx with
      | some x => (s.raise spec).checkFailed x s.now
      | none => s.raise spec) s

/-- A packet after upsets of its stored words: word of the chain and bit of the 72 (R310, R353). The length slot is made of the
packet's fields: an uncorrectable one is delivered corrected in the model and recorded all the same. -/
def Packet.upset (k : Packet) (ups : List (Nat × Nat)) : Packet :=
  ups.foldl (fun k u =>
    let syn := Tbl.get k.syn 0#8 u.1 ^^^ flipSyn u.2
    { k with
      words := if u.2 < 64 && 0 < u.1 then updAt k.words (u.1 - 1) (fun w => w ^^^ BitVec.ofNat 64 (2 ^ u.2)) else k.words
      syn := if syn = 0#8 then Tbl.drop k.syn u.1 else Tbl.set k.syn u.1 syn }) k

/-- Follows a chain through the link entries of some of its cells (R331, R353, R355): a corrected entry is counted and written
back; the answer tells whether an uncorrectable one was met. -/
def State.follow (s : State) (pool : Nat) (cs : List Nat) : State × Bool :=
  cs.foldl (fun (r : State × Bool) c => match (r.1.pool pool).links.find c with
    | none => r
    | some syn =>
      let s := r.1.countPool pool syn
      if eccOf syn == .ue then (s, true)
      else (s.setPool pool { s.pool pool with links := (s.pool pool).links.drop c }, r.2)) (s, false)

/-- An uncorrectable link entry (R355): the queue is fenced in error mode, a pool sweep follows at the next boundary, and
QUEUE_LINK_UE is raised. -/
def State.linkUe (s : State) (pool qid : Nat) : State :=
  let s := s.updQueue pool qid fun q => { q with fence := some .err, fenced := true }
  let s := forL ((s.queue pool qid).ports.map (·.1)) (fun port s => s.rewind pool qid port .fence) s
  let s := s.setPool pool { s.pool pool with sweepDue := true }
  (s.raise { code := Rec.queueLinkUe, cls := .uc, unit := .iod pool, a := BitVec.ofNat 64 qid }).answer .queueFenced []

/-- Goes on with an operation that follows link entries, unless one of them is uncorrectable (R355). -/
def State.along (s : State) (pool qid : Nat) (cs : List Nat) (go : State → State) : State :=
  let r := s.follow pool cs
  if r.2 then r.1.linkUe pool qid else go r.1

/-- Bits of link entries turned over, by cell of a chain (R331). -/
def Pool.upsetLinks (p : Pool) (chain : List Nat) (ups : List (Nat × Nat)) : Pool :=
  ups.foldl (fun p u => match chain[u.1]? with
    | none => p
    | some c =>
      let syn := p.links.get 0#8 c ^^^ flipSyn u.2
      { p with links := if syn = 0#8 then p.links.drop c else p.links.set c syn }) p

/-- READ n (R348): up to n words of the cursor's packet, header word first; the offset advances, and the words read are
written back corrected (R353). `upset` names bits that have changed in the packet's words since they were written, `links`
bits of the link entries of its cells. -/
def execQueueRead (pool qid n : Nat) (upset links : List (Nat × Nat)) (s : State) : Host.Outcome State Fault Refusal :=
  let q0 := s.queue pool qid
  let at_ := q0.cursor - q0.base
  if !queueOk pool qid then .next (s.answer .empty [])
  else match q0.packets[at_]? with
    | none => .next (s.answer .empty [])
    | some k0 =>
      let k := k0.upset (upset.filter fun u => u.1 ≤ k0.words.length && u.2 < 72)
      let s := s.setPool pool (((s.pool pool).setQueue qid { q0 with packets := updAt q0.packets at_ fun _ => k }).upsetLinks k.chain
        (links.filter fun u => u.2 < 72))
      let last := min (q0.offset + n) (k.words.length + 1)
      if last ≤ q0.offset then .next (s.answer .atEnd [])
      else .next (s.along pool qid (k.chain.take ((last - 1) / 32)) fun s =>
        let out := (List.range (last - q0.offset)).map fun i => k.deliver (q0.offset + i)
        let s := s.poolErrors pool qid k q0.offset out.length
        let read (i : Nat) : Bool := q0.offset ≤ i && i < last
        let fix (k : Packet) : Packet := { k with
          words := (List.range k.words.length).map fun i => if read (i + 1) then k.deliver (i + 1) else k.words.getD i 0#64
          syn := k.syn.filter fun e => !(read e.1) || eccOf e.2 == .ue }
        let s := s.updQueue pool qid fun q' => { q' with offset := last, packets := updAt q'.packets at_ fix }
        s.answer .ok out)

/-- NEXT (R348, R349): the cells of the packet it leaves go from queued to held. -/
def execQueueNext (pool qid : Nat) (s : State) : Host.Outcome State Fault Refusal :=
  let q := s.queue pool qid
  match q.packets[q.cursor - q.base]? with
  | none => .next (s.answer .empty [])
  | some k =>
    if !queueOk pool qid then .next (s.answer .empty [])
    else .next (s.along pool qid k.chain fun s =>
      (s.updQueue pool qid fun q => { q with cursor := q.cursor + 1, offset := 0 }).answer .ok [])

/-- MARK m (R348). -/
def execQueueMark (pool qid m : Nat) (s : State) : Host.Outcome State Fault Refusal :=
  if !queueOk pool qid || 4 ≤ m then .next (s.answer .markGone [])
  else .next ((s.updQueue pool qid fun q => { q with marks := q.marks.set m (q.cursor, q.offset) }).answer .ok [])

/-- REWIND m (R348): the cursor returns to the mark, which stays. -/
def execQueueCursorRewind (pool qid m : Nat) (s : State) : Host.Outcome State Fault Refusal :=
  match (s.queue pool qid).marks.find m with
  | none => .next (s.answer .markGone [])
  | some c => .next ((s.updQueue pool qid fun q => { q with cursor := c.1, offset := c.2 }).answer .ok [])

/-- RELEASE n (R348, R350, R351): frees the n oldest packets when that many lie wholly behind the cursor. -/
def execQueueRelease (pool qid n : Nat) (s : State) : Host.Outcome State Fault Refusal :=
  let q := s.queue pool qid
  if !queueOk pool qid || q.cursor - q.base < n || q.packets.length < n then .next (s.answer .releaseRange [])
  else .next (s.along pool qid ((q.packets.take n).flatMap (·.chain)) fun s =>
    ((s.setPool pool ((s.pool pool).release qid n)).freedIn pool qid (sumCells (q.packets.take n))).answer .ok [])

/-- PURGE s (R348): only the record queue's consumer; the packet with that SEQ is unlinked and freed. -/
def execQueuePurge (pool qid seq : Nat) (s : State) : Host.Outcome State Fault Refusal :=
  let q := s.queue pool qid
  if pool ≠ 0 || qid ≠ 0x180 || !(q.packets.any fun k => k.seq == seq) then .next (s.answer .purgeRange [])
  else .next (s.along 0 0x180 ((q.packets.filter fun k => k.seq == seq).flatMap (·.chain)) fun s =>
    let s := s.setPool 0 ((s.pool 0).purge 0x180 seq)
    ({ s with faults := { s.faults with records := s.faults.records.filter fun r => r.seq ≠ seq } }).answer .ok [])

/-- A waiting producer is given cells when the quotas allow (R343), until the boundary that ends its wait (R344): its OPEN
completes, or its APPEND goes on. -/
def execProducerCellGrant (pool qid port : Nat) (s : State) : Host.Outcome State Fault Refusal :=
  let p := s.pool pool
  let q := p.queue qid
  match q.ports.find port with
  | none => .next s
  | some o =>
    if !(p.mayTake qid 1) || o.since < s.now then .next s
    else if !o.started then
      let cs := p.pick pool 1
      .next ((s.setPool pool ((p.take cs).setQueue qid { q with ports := q.ports.set port { o with started := true, chain := cs } })).answer .ok [])
    else match o.waiting with
      | none => .next s
      | some ws =>
        let r := appendWords p pool qid port o ws o.since
        .next ((s.setPool pool r.1).answer (if r.2 then .ok else .wait) [])

/-- A producer's operation waits for a cell. -/
def OpenPacket.waits (o : OpenPacket) : Bool := !o.started || o.waiting.isSome

/-- QUEUE_NO_CELL (R344): a producer that still waits at a boundary after its wait began has its packet rewound, cause
NO_CELL. -/
def execQueueNoCell (pool qid port : Nat) (s : State) : Host.Outcome State Fault Refusal :=
  match (s.queue pool qid).ports.find port with
  | some o => if o.waits && o.since < s.now then
      .next ((s.rewind pool qid port .noCell).updQueue pool qid Queue.settle) else .next s
  | none => .next s

/-- No wait outlives the steep after the one it began in: what QUEUE_NO_CELL has not rewound by then is rewound at the
boundary (R344). -/
def State.endWaits (s : State) : State :=
  forN 2 (fun p s => forL (s.pool p).queues (fun e s =>
    forL (e.2.ports.filter fun o => o.2.waits && o.2.since + 1 < s.now) (fun o s =>
      (s.rewind p e.1 o.1 .noCell).updQueue p e.1 Queue.settle) s) s) s

/-- A queue in drain mode without an open packet becomes fenced (R356). -/
def execQueueDrained (pool qid : Nat) (s : State) : Host.Outcome State Fault Refusal :=
  .next (s.updQueue pool qid Queue.settle)

/-- The packets of a queue that a sweep reaches from its oldest (R355, R363): an uncorrectable link entry ends the chain, so
that its packet keeps the cells up to that one, and the packets behind it are lost. -/
def Pool.reached (p : Pool) : List Packet → List Packet
  | [] => []
  | k :: rest =>
    match k.chain.findIdx? fun c => eccOf (p.links.get 0#8 c) == .ue with
    | some i => [{ k with chain := k.chain.take (i + 1) }]
    | none => k :: p.reached rest

/-- POOL_SWEEP_COMPLETE (R362 to R364): the four categories are recounted, and cells that no chain reaches return to the free
list. Every queue of a crossed pair is reset, with a UC record for the pair. -/
def execPoolSweepComplete (w : Sweep) (s : State) : Host.Outcome State Fault Refusal :=
  let pool := w.pool
  let p0 := s.pool pool
  if !p0.sweeping then .next s
  else
    let pairs := w.crossed.filter fun e => e.1 ≠ e.2 && 0 < (p0.queue e.1).cells && 0 < (p0.queue e.2).cells
    let qs := (pairs.flatMap fun e => [e.1, e.2]).eraseDups
    let s := forL qs (fun q s => s.resetQueue pool q) s
    let p := s.pool pool
    let cut (q : Queue) : Queue :=
      let ps := p.reached q.packets
      { q with packets := ps, cursor := min q.cursor (q.base + ps.length), marks := q.marks.filter fun e => e.2.1 < q.base + ps.length }
    let p := { p with queues := p.queues.map fun (e : Nat × Queue) => (e.1, cut e.2) }
    let snap := p.snapshot
    let free := 262144 - (snap.queued + snap.opened + snap.held)
    let p := { p with
      free := free, recovered := satN 16 (free - p.free), resetQueues := satN 16 qs.length,
      sweepSteep := s.now % 2 ^ 32, sweeping := false, releaseDue := true }
    let s := s.setPool pool p
    .next (forL pairs (fun e s => s.raise {
      code := Rec.queueCrosslink, cls := .uc, unit := .iod pool,
      a := BitVec.ofNat 64 e.1, b := BitVec.ofNat 64 e.2 }) s)

/-- An event that the kettle holds is written when a cell can be taken, in order (R406, R843). -/
def execHeldEventWrite (ctx : Nat) (s : State) : Host.Outcome State Fault Refusal :=
  let c := s.ctx ctx
  match c.held with
  | [] => .next s
  | e :: rest =>
    match s.put 0 (0x181 + ctx) (some ctx) Config.eventType.toNat (s.eventWords e) with
    | some s' => .next (s'.updCtx ctx fun c => { c with held := rest })
    | none => .next s

end Sys2Proof.Machine
end

