-- ==== Sys2Proof/Machine/Fabric.lean ====
section
/-! DEFINITION. Machine/Fabric.lean: the frames of a link, its credits and replay, its training and its going DOWN, the
sending of packets, and the fabric commands (R476 to R513, R538). -/
namespace Sys2Proof.Machine

/-- The state that an outcome gives, or the one before. -/
def after (o : Host.Outcome State Fault Refusal) (s : State) : State :=
  match o with
  | .next s' => s'
  | _ => s

/-! ### Taking frames (R477 to R479, R487, R488) -/

/-- A frame is good: its codewords were correctable and its check word agrees (R477, R478). -/
def goodFrame (f : Frame) : Bool := !f.uncorr && f.payload.length = 32 && f.check = frameCheck f.h0 f.h1 f.payload
def ctrlFrame (f : Frame) : Bool := bitAt f.h0 33
def frameKind (f : Frame) : Nat := fld f.h1 15 8
/-- A control frame has a kind of R479; one with a reserved kind is bad. -/
def knownKind (f : Frame) : Bool := 1 ≤ frameKind f && frameKind f ≤ 5

/-- Counts what the codewords of a frame needed (R541). -/
def Link.countFec (l : Link) (f : Frame) : Link :=
  { l with fecSymbols := satN 32 (l.fecSymbols + f.symbols), fecUncorr := satN 16 (l.fecUncorr + f.lost) }

/-- A packet whose last frame is acknowledged is done: the cells of the packet it forwarded are released (R504). -/
def State.freeSource (s : State) (t : TxPacket) : State :=
  match t.src with
  | none => s
  | some (p, q, seq) =>
    s.consume p q seq

/-- Data frames up to FSEQ a are acknowledged (R487). -/
def State.acked (s : State) (link a : Nat) : State :=
  let l := s.link link
  match l.frames.findIdx? fun f => f.fseq == a with
  | none => s
  | some i =>
    let gone := ((l.frames.take (i + 1)).filter fun f => f.last).map fun f => f.packet
    let s := forL (l.inflight.filter fun t => gone.contains t.id) (fun t s => s.freeSource t) s
    s.updLink link fun l => { l with frames := l.frames.drop (i + 1), inflight := l.inflight.filter fun t => !(gone.contains t.id) }

/-- Credits returned in a frame (R483). -/
def State.creditReturn (s : State) (link vc n : Nat) : State :=
  if n = 0 then s
  else s.updLink link fun l => l.updCredit vc fun c => { c with
    available := c.available + n
    returned := c.returned + n
    lastReturn := s.now }

/-- The sender sends its unacknowledged frames again (R488). -/
def State.replay (s : State) (link : Nat) : State :=
  let l := s.link link
  if l.frames.isEmpty then s
  else
    let s := forL l.frames (fun f s => s.emit (.frame link f.words)) s
    s.updLink link fun l => { l with
      frames := l.frames.map fun f => { f with replays := f.replays + 1 }
      replays := satN 16 (l.replays + 1)
      replays64 := l.replays64 + 1 }

/-- ACK, NAK and the credit return that every good frame brings (R478, R483, R488). -/
def State.takeHeader (s : State) (link : Nat) (f : Frame) : State :=
  let s := (s.acked link (fld f.h0 31 16)).creditReturn link (fld f.h0 42 40) (fld f.h0 54 43)
  if bitAt f.h0 32 then s.replay link else s

/-- The receiver refuses a frame: NAK with the last frame accepted (R488). -/
def State.refuseFrame (s : State) (link : Nat) : State :=
  if (s.link link).nak then s else (s.updLink link fun l => { l with nak := true }).control link 0x01 true 0 0 []

/-- A committed packet of a link receive queue is routed (R500, R501, R504, R546); the gateway takes a delivered packet of a
difference at once (R573). -/
def State.routeReceived (s : State) (link vc : Nat) : State :=
  let q := linkQueue link vc
  match (s.queue q.1 q.2).packets.reverse with
  | [] => s
  | k :: _ =>
    let src := some (q.1, q.2, k.seq)
    let drop (s : State) : State := s.consume q.1 q.2 k.seq
    if s.shuns (fld (k.words.getD 0 0#64) 47 32) && !(packetKind k.words = 6 && fld ((packetBody k.words).getD 0 0#64) 7 0 = 0x14) then drop s
    else if !packetOk k.words vc then drop (s.badPacket (some link))
    else match s.route k.words with
      | .deliver =>
        if packetKind k.words = 8 then (let g := s.gatewayTake k.words; if g.2 then drop g.1 else g.1) else s
      | .ports ps far =>
        if far && packetKind k.words ≠ 8 then drop (s.badPacket (some link)) else s.hold k.ctx k.ty vc k.words ps far src
      | r => drop (s.routeLost r (fld (k.words.getD 0 0#64) 2 0))

/-- Writes an accepted frame's words into the receive queue of its channel (R336, R482, R504): the first frame opens the
packet with its length slot, the last commits it. A frame that leaves no cell held returns its credit at once. A word that the
module's own payload path has turned over is corrected, or makes the packet bad, cause INPUT_UE (R313, R340). -/
def State.takeCell (s : State) (link : Nat) (f : Frame) : State :=
  let vc := fld f.h0 38 36
  let q := linkQueue link vc
  let got := s.arriveAll (38 + link / 24) none 0 0 f.upset ((f.payload.take (fld f.h1 5 0)).map fun w => (0, w, 0#8))
  let s := got.1
  let bad := got.2.any fun w => decide (w.2 ≠ 0#8)
  let ws := got.2.map (·.1)
  let sop := bitAt f.h0 34
  let slot := ws.getD 0 0#64
  let s := s.updLink link fun l => l.updCredit vc fun c => { c with received := c.received + 1 }
  let s := if sop then s.rewind q.1 q.2 0 .producer else s
  let before := (s.queue q.1 q.2).cells
  let s := if sop then after (execQueueOpen q.1 q.2 0 (fld slot 23 16) (if bitAt slot 27 then some (fld slot 26 24) else none) s) s else s
  let data := if sop then ws.drop 1 else ws
  let s := if data.isEmpty then s else after (execQueueAppend q.1 q.2 0 data bad s) s
  let s := if (s.queue q.1 q.2).cells = before + 1 then s else s.freedIn q.1 q.2 1
  if bitAt f.h0 35 then
    let n := (s.queue q.1 q.2).packets.length
    let s := after (execQueueCommit q.1 q.2 0 s) s
    if n < (s.queue q.1 q.2).packets.length then s.routeReceived link vc else s
  else s

/-- DATA_FRAME (R487, R488): taken in FSEQ order; a bad frame, and every frame until the expected one, is discarded. A
frame already accepted is acknowledged again. -/
def execDataFrame (link : Nat) (f : Frame) (s : State) : Host.Outcome State Fault Refusal :=
  if 48 ≤ link || (s.link link).state != .trained then .next s
  else
    let s := s.updLink link fun l => l.countFec f
    let l := s.link link
    let n := fld f.h1 5 0
    if !(goodFrame f) then .next (s.refuseFrame link)
    else if ctrlFrame f then (if knownKind f then .next s else .next (s.refuseFrame link))
    else if n = 0 || 32 < n || frameKind f ≠ 0 then .next (s.refuseFrame link)
    else if fld f.h0 15 0 ≠ l.rxNext then
      (if (l.rxNext + 65536 - fld f.h0 15 0) % 65536 ≤ 4096 then .next (s.control link 0x01 false 0 0 []) else .next (s.refuseFrame link))
    else
      let s := s.updLink link fun l => { l with rxNext := (l.rxNext + 1) % 65536, nak := false }
      .next (((s.takeHeader link f).takeCell link f).control link 0x01 false 0 0 [])

/-- IDLE (R479): ACK, NAK and a credit return. A frame of a reserved kind is bad. -/
def execIdle (link : Nat) (f : Frame) (s : State) : Host.Outcome State Fault Refusal :=
  if 48 ≤ link || (s.link link).state != .trained then .next s
  else
    let s := s.updLink link fun l => l.countFec f
    if !(goodFrame f) || (ctrlFrame f && !(knownKind f)) then .next (s.refuseFrame link)
    else if !(ctrlFrame f) || frameKind f ≠ 0x01 then .next s
    else .next (s.takeHeader link f)

/-! ### Discovery and training (R490 to R497, R50) -/

/-- R491: a TRAINED link carries job traffic when its neighbour reports the module's period and another DN. -/
def State.setTraffic (s : State) (link : Nat) : State :=
  let l := s.link link
  let clash := l.nbDnValid && s.fabric.dnValid && l.nbDn = s.fabric.dn
  let s := s.setLink link { l with jobTraffic := l.state == .trained && l.periodOk && !clash && !(s.members.expelled.contains l.nbDn) }
  if clash && l.state == .trained then
    s.raiseLimited (Rec.dnClash, link) 1 { code := Rec.dnClash, cls := .uc, unit := .link link, ownLimit := true }
  else s

/-- What a DISCOVERY payload says of the neighbour (R496). -/
def State.learn (s : State) (link : Nat) (p : List W64) : State :=
  let w := p.getD 0 0#64
  let hops := pathHops ((p.drop 1).take (min 4 (fld w 35 33)))
  let s := s.updLink link fun l => { l with
    nbDn := fld w 15 0
    nbDnValid := bitAt w 16
    nbLink := fld w 22 17
    nbSite := fld w 26 23
    nbPeriod := fld w 32 27
    nbPath := hops
    nbIdentity := (p.getD 5 0#64).toNat
    periodOk := fld w 32 27 = s.steep.currentQ % 64 }
  if bitAt w 16 && fld w 26 23 = s.fabric.site && fld w 15 0 ≠ s.fabric.dn then
    ({ s with members := { s.members with modules := s.members.modules.set (fld w 15 0) hops } }).elect
  else s

/-- DISCOVERY (R496, R497). -/
def execDiscovery (link : Nat) (f : Frame) (s : State) : Host.Outcome State Fault Refusal :=
  let st := (s.link link).state
  if 48 ≤ link || !(st == .down || st == .training || st == .trained) then .next s
  else if !(goodFrame f) then .next (if st == .trained then s.refuseFrame link else s)
  else if !(ctrlFrame f) || frameKind f ≠ 0x04 then .next s
  else .next ((s.learn link f.payload).setTraffic link)

/-- CREDIT_INIT (R479, R491): the credits that the far end grants on one channel. -/
def execCreditInit (link vc cells : Nat) (s : State) : Host.Outcome State Fault Refusal :=
  let st := (s.link link).state
  if 48 ≤ link || 8 ≤ vc || 8160 < cells || !(st == .down || st == .training) then .next s
  else .next (s.updLink link fun l => l.updCredit vc fun _ => { available := cells, allocation := cells, lastReturn := s.now })

/-- Allocation of a channel in cells, from the bytes of a LINK_ALLOC word (R484, R542). -/
def allocCells (w : W64) (vc : Nat) : Nat := 32 * fld w (8 * vc + 7) (8 * vc)

/-- Sets GUARANTEE and QUOTA of a link's receive queues to its allocation, and enables them (R345, R484). -/
def State.openLinkQueues (s : State) (link : Nat) (alloc : W64) : State :=
  forN 8 (fun vc s =>
    let q := linkQueue link vc
    s.updQueue q.1 q.2 fun c => { c with
      enabled := true, guarantee := allocCells alloc vc, quota := allocCells alloc vc, producer := some (.link link), consumer := some .fabric
      withheld := 0 }) s

/-- The identity value of R748: bytes 0 to 7 of the digest, read little-endian. -/
def State.identityValue (s : State) : W64 := bytesWord (s.trust.identity.take 8)

/-- The payload of the module's DISCOVERY frame (R496). -/
def State.discoveryWords (s : State) (link : Nat) : List W64 :=
  let f := s.fabric
  let p := if f.dnValid then pathWords f.path else []
  [mkWord [(0, 16, f.dn), (16, 1, b2n f.dnValid), (17, 6, link), (23, 4, f.site), (27, 6, s.steep.currentQ), (33, 3, p.length)]] ++
    p ++ List.replicate (4 - p.length) 0#64 ++ [s.identityValue]

/-- The frames that training sends: DISCOVERY, and one CREDIT_INIT for each channel (R479, R491). -/
def State.trainingFrames (s : State) (link : Nat) (alloc : W64) : State :=
  forN 8 (fun vc s => s.control link 0x05 false vc 0 [BitVec.ofNat 64 (allocCells alloc vc)])
    (s.control link 0x04 false 0 0 (s.discoveryWords link))

/-- LINK_TRAINING_DONE (R484, R491): the link becomes TRAINED with the stored allocation in force. -/
def execLinkTrainingDone (link : Nat) (s : State) : Host.Outcome State Fault Refusal :=
  let l := s.link link
  if 48 ≤ link || !(l.state == .down || l.state == .training) || l.far.on then .next s
  else
    let s := s.setLink link { l with alloc := l.allocNext, nextFseq := 0, rxNext := 0, nak := false, frames := [], inflight := [] }
    .next ((((s.openLinkQueues link l.allocNext).trainingFrames link l.allocNext).linkTo link .trained).setTraffic link)

/-- LINK_TRAINING_FAILED (R493): three failures within one hour make the link FAILED. -/
def execLinkTrainingFailed (link : Nat) (s : State) : Host.Outcome State Fault Refusal :=
  let l := s.link link
  if 48 ≤ link || !(l.state == .down || l.state == .training) then .next s
  else
    let fails := (l.trainFails.filter fun t => s.seconds < t + 3600) ++ [s.seconds]
    let s := s.setLink link { l with trainFails := fails }
    if 3 ≤ fails.length then .next ((s.linkTo link .failed).raise { code := Rec.linkFailed, cls := .uc, unit := .link link })
    else .next (s.linkTo link .training)

/-! ### Sending packets (R480, R482, R503) -/

/-- A port may take a packet (R503): its link is TRAINED, carries job traffic and is not fenced; to another site, FAR. -/
def State.usable (s : State) (t : TxPacket) (p : Nat) : Bool :=
  let l := s.link p
  t.avoid ≠ some p && !(s.fencedUnit (.link p)) && (if t.far then l.state == .far else l.state == .trained && l.jobTraffic)

def TxPacket.cells (t : TxPacket) : Nat := cellsFor t.words.length

/-- The port that R503 gives a packet now, if one holds its credits. -/
def State.choosePort (s : State) (t : TxPacket) : Option Nat :=
  let us := t.ports.filter (s.usable t)
  let free (p : Nat) : Nat := ((s.link p).credit t.vc).available
  if t.ordered then (match us with
    | p :: _ => if t.cells ≤ free p then some p else none
    | [] => none)
  else match us.filter fun p => t.cells ≤ free p with
    | [] => none
    | p :: rest => some (rest.foldl (fun a b => if free a < free b then b else a) p)

/-- The packet that a link sends next (R480): VC0 first, then the other channels in turn, packet by packet. -/
def State.nextPacket (s : State) (link : Nat) : Option TxPacket :=
  let ready := s.fabric.waiting.filter fun t => !t.far && s.choosePort t == some link
  match ready.find? fun t => t.vc == 0 with
  | some t => some t
  | none =>
    let turn := (List.range 7).map fun i => ((s.link link).lastVc + i) % 7 + 1
    (turn.filterMap fun vc => ready.find? fun t => t.vc == vc).head?

/-- The route word with one more link crossed (R499, R501). -/
def hopped (ws : List W64) : List W64 :=
  match ws with
  | [] => []
  | w :: r => BitVec.ofNat 64 (w.toNat + 2 ^ 20) :: r

/-- The frames of a packet, one for each cell (R478). -/
def packetFrames (t : TxPacket) (fseq ack : Nat) : List TxFrame :=
  let cells := chunksOf 32 (lengthSlot 0 t.ctx t.ty t.words.length :: hopped t.words)
  (List.range cells.length).map fun i =>
    let ws := cells.getD i []
    let last := i + 1 == cells.length
    let h0 := mkWord [(0, 16, fseq + i), (16, 16, ack), (34, 1, b2n (i == 0)), (35, 1, b2n last), (36, 3, t.vc)]
    { fseq := (fseq + i) % 65536, words := frameOf h0 (mkWord [(0, 6, ws.length)]) ws, packet := t.id, last := last }

/-- PACKET_SEND (R480, R482, R487, R503): a link sends the next packet whose credits it holds, taking them all at once,
while the replay buffer has room for its frames. -/
def execPacketSend (link : Nat) (s : State) : Host.Outcome State Fault Refusal :=
  if 48 ≤ link then .next s
  else match s.nextPacket link with
    | none => .next s
    | some t =>
      let l := s.link link
      if 4096 < l.frames.length + t.cells then .next s
      else
        let fs := packetFrames t l.nextFseq l.ack
        let l := l.updCredit t.vc fun c => { c with available := c.available - t.cells, sent := c.sent + t.cells }
        let l := { l with
          nextFseq := (l.nextFseq + fs.length) % 65536
          frames := l.frames ++ fs
          inflight := l.inflight ++ [t]
          lastVc := if t.vc = 0 then l.lastVc else t.vc }
        let s := s.setLink link l
        let s := { s with fabric := { s.fabric with waiting := s.fabric.waiting.filter fun u => u.id ≠ t.id } }
        .next (forL fs (fun f s => s.emit (.frame link f.words)) s)

/-- CREDIT_STALL (R486): a packet has waited 2 steeps for credits on a channel that returned none. -/
def execCreditStall (link vc : Nat) (s : State) : Host.Outcome State Fault Refusal :=
  let l := s.link link
  let stuck := s.fabric.waiting.any fun t =>
    t.vc == vc && !t.far && t.ports.contains link && s.usable t link && (l.credit vc).available < t.cells && t.since + 2 ≤ s.now
  if 48 ≤ link || 8 ≤ vc || l.state != .trained || !stuck || s.now < (l.credit vc).lastReturn + 2 then .next s
  else .next (s.raise { code := Rec.creditStall, cls := .uc, unit := .link link, a := BitVec.ofNat 64 vc })

/-! ### Replay timers and going DOWN (R488, R489, R492) -/

/-- NAK_REPEAT (R488). -/
def execNakRepeat (link : Nat) (s : State) : Host.Outcome State Fault Refusal :=
  if 48 ≤ link || (s.link link).state != .trained || !(s.link link).nak then .next s else .next (s.control link 0x01 true 0 0 [])

/-- ACK_TIMEOUT_REPLAY (R488). -/
def execAckTimeoutReplay (link : Nat) (s : State) : Host.Outcome State Fault Refusal :=
  if 48 ≤ link || (s.link link).state != .trained then .next s else .next (s.replay link)

/-- Sends a lost packet again on another port, or releases it when none is usable (R492); tells whether it is
released. -/
def State.resend (s : State) (link : Nat) (t : TxPacket) : State × Bool :=
  let t := { t with avoid := some link, since := s.now }
  if t.ports.any (s.usable t) then
    ({ s with fabric := { s.fabric with waiting := s.fabric.waiting ++ [t], rerouted := satN 16 (s.fabric.rerouted + 1) } }, false)
  else (s.freeSource t, true)

/-- The timing word and the snapshots of a link that trains again no longer count for the audit across it (R75). -/
def State.forgetLink (s : State) (link : Nat) : State :=
  let st := s.steep
  let cut (a : AuditSnap) : AuditSnap := { a with credits := a.credits.filter fun c => c.link ≠ link }
  { s with steep := { st with
    linkTimes := st.linkTimes.drop link, snap := st.snap.map cut, snapBefore := st.snapBefore.map cut } }

/-- A link goes DOWN (R492) and trains again at once (R493). -/
def State.linkDown (s : State) (link : Nat) : State :=
  let lost := (s.link link).inflight
  let s := s.linkTo link .down
  let s := forN 8 (fun vc s => s.rewind (linkQueue link vc).1 (linkQueue link vc).2 0 .producer) s
  let s := s.updLink link fun l => { l with
    credits := [], frames := [], inflight := [], nak := false, jobTraffic := false, periodOk := false }
  let s := s.forgetLink link
  let r := lost.foldl (fun (r : State × Nat) t => let q := r.1.resend link t; (q.1, r.2 + b2n q.2)) (s, 0)
  let s := if r.2 = 0 then r.1 else r.1.raiseLimited (Rec.linkDrop, link) 1 {
    code := Rec.linkDrop, cls := .uc, unit := .link link, a := BitVec.ofNat 64 r.2, ownLimit := true }
  (s.raise { code := Rec.linkDown, cls := .ce, unit := .link link }).linkTo link .training

/-- ACK_STALL (R489): ACK makes no progress for 50 µs while frames are outstanding. -/
def execAckStall (link : Nat) (s : State) : Host.Outcome State Fault Refusal :=
  let l := s.link link
  if 48 ≤ link || l.state != .trained || l.frames.isEmpty then .next s else .next (s.linkDown link)

/-- FRAME_REPLAY_LIMIT (R489): one frame has been replayed 8 times. -/
def execFrameReplayLimit (link : Nat) (s : State) : Host.Outcome State Fault Refusal :=
  let l := s.link link
  if 48 ≤ link || l.state != .trained || !(l.frames.any fun f => 8 ≤ f.replays) then .next s else .next (s.linkDown link)

/-- CODEWORD_LOCK_LOST on an ordinary link (R489). -/
def execCodewordLockLost (link : Nat) (s : State) : Host.Outcome State Fault Refusal :=
  if 48 ≤ link || (s.link link).state != .trained then .next s else .next (s.linkDown link)

/-! ### Fabric commands (R510) -/

/-- FABRIC_IDENTITY (R495): DN and path of the module, while no context is resident. -/
def execFabricIdentity (r : Req) (s : State) : Host.Outcome State Fault Refusal :=
  .next (s.kettle r 0x0100 false adminClass fun k s =>
    let a := k.arg 0
    let n := fld a 18 16
    let ps := k.args.drop 1
    match parsePath (pathHops ps) with
    | none => done s St.reserved
    | some p =>
      if fld a 63 19 ≠ 0 || n = 0 || 4 < n || ps.length ≠ n || !pathWordsOk ps || p.domain.isSome || p.module.isNone then done s St.reserved
      else if namesCtx ps then done s St.badPath
      else if p.below != .module then done s St.reserved
      else if (List.range 8).any fun x => (s.ctx x).state != .free then done s St.busy
      else
        let f := s.fabric
        let dn := fld a 15 0
        let ms := if f.dnValid then s.members.modules.drop f.dn else s.members.modules
        let s := { s with fabric := { f with dn := dn, dnValid := true, path := p.moduleHops } }
        let s := { s with members := { s.members with modules := Tbl.set ms dn p.moduleHops } }
        done (forN 48 (fun l s => if (s.link l).state == .trained then s.setTraffic l else s) s.elect) St.ok)

/-- FABRIC_NEIGHBOURS (R510). -/
def execFabricNeighbours (r : Req) (s : State) : Host.Outcome State Fault Refusal :=
  .next (s.kettle r 0x0101 false anyClass fun k s =>
    let n := (k.arg 0).toNat
    if k.args.length ≠ 1 || !(n = 0 || n = 24) then done s St.reserved
    else (s, some (St.ok, (List.range 24).map fun i =>
      let l := s.link (n + i)
      mkWord [(0, 16, l.nbDn), (16, 6, l.nbLink), (22, 3, l.state.code), (32, 32, l.oneWayNs)])))

/-- Changes a route set. -/
def State.updRoute (s : State) (n : Nat) (f : RouteSet → RouteSet) : State :=
  { s with fabric := { s.fabric with routes := s.fabric.routes.set n (f (s.routeSet n)) } }

/-- Changes the standby generation of a set (R505). -/
def RouteSet.updStandby (r : RouteSet) (f : RouteGen → RouteGen) : RouteSet :=
  { r with gens := r.gens.set (1 - r.live) (f (r.gen (1 - r.live))), loaded := true }

/-- A route entry as R502 allows it. -/
def entryOk (e : Nat) : Bool :=
  let p (i : Nat) : Nat := e / 2 ^ (6 * i) % 64
  e / 2 ^ 24 % 256 = 0 && (List.range 4).all (fun i => p i < 48 || p i = 0x3F) && (List.range 3).all fun i => p i ≠ 0x3F || p (i + 1) = 0x3F

/-- ROUTE_LOAD (R502, R505, R507, R510). -/
def execRouteLoad (r : Req) (s : State) : Host.Outcome State Fault Refusal :=
  .next (s.kettle r 0x0102 false adminClass fun k s =>
    let a := k.arg 0
    let set := fld a 2 0
    let first := fld a 28 16
    let n := fld a 37 32
    let es := (List.range n).map fun i => fld (k.arg (1 + i / 2)) (32 * (i % 2) + 31) (32 * (i % 2))
    if fld a 15 3 ≠ 0 || fld a 31 29 ≠ 0 || fld a 63 38 ≠ 0 || n = 0 || 48 < n || k.args.length ≠ 1 + cdiv n 2 || 8192 < first + n ||
       !(es.all entryOk) then done s St.reserved
    else if (s.routeSet set).keptSince.isSome then done s St.routeBusy
    else done (s.updRoute set fun q => q.updStandby fun g =>
      { g with entries := forN n (fun i t => Tbl.set t (first + i) (es.getD i 0)) g.entries }) St.ok)

/-- ROUTE_DEPTHS (R502, R505, R507, R510). -/
def execRouteDepths (r : Req) (s : State) : Host.Outcome State Fault Refusal :=
  .next (s.kettle r 0x0103 false adminClass fun k s =>
    let set := (k.arg 0).toNat
    let d (i : Nat) : Nat := fld (k.arg (1 + i / 2)) (32 * (i % 2) + 31) (32 * (i % 2))
    let ds := (List.range 10).map fun i => (d i % 8192, d i / 2 ^ 14 % 16384)
    if k.args.length ≠ 6 || 7 < set || (List.range 10).any (fun i => d i / 2 ^ 13 % 2 ≠ 0 || d i / 2 ^ 28 ≠ 0) ||
       ds.any (fun p => 4096 < p.2 || 8192 < p.1 + p.2) then done s St.reserved
    else if (s.routeSet set).keptSince.isSome then done s St.routeBusy
    else done (s.updRoute set fun q => q.updStandby fun g => { g with depths := ds }) St.ok)

/-- ROUTE_COMMIT (R506, R507, R510): a domain command, at least 8 steeps ahead. -/
def execRouteCommit (r : Req) (s : State) : Host.Outcome State Fault Refusal :=
  .next (s.kettle r 0x0104 false adminClass fun k s =>
    let mask := (k.arg 0).toNat
    let at_ := (k.arg 1).toNat
    if k.args.length ≠ 2 || 255 < mask || at_ < s.now + 8 then done s St.reserved
    else if (List.range 8).any fun n => Nat.testBit mask n && (s.routeSet n).keptSince.isSome then done s St.routeBusy
    else
      let s := { s with fabric := { s.fabric with commit := some (mask, at_, some k.ref) } }
      done (forL (s.members.modules.filter fun e => e.1 ≠ s.fabric.dn) (fun e s =>
        s.inject 0x07 7 (pathWords e.2) none 0 [domainWord k.code, k.arg 0, k.arg 1]) s) St.accepted)

/-- ROUTE_SET_SWITCH at step 6 of R56 (R506): the standby generations go live. -/
def State.routeSwitch (s : State) : State :=
  match s.fabric.commit with
  | none => s
  | some (mask, at_, by_) =>
    if s.now < at_ then s
    else
      let s := forN 8 (fun n s =>
        if Nat.testBit mask n then s.updRoute n fun q => { q with live := 1 - q.live, loaded := false, keptSince := some s.now } else s) s
      let s := { s with fabric := { s.fabric with commit := none } }
      match by_ with
      | some c => s.commandDone c none
      | none => s

/-- ROUTE_GENERATION_RETIRE (R507): at step 6 of the second boundary after the commit the old generation goes, and
packets of it that still wait are released. -/
def execRouteGenerationRetire (s : State) : Host.Outcome State Fault Refusal :=
  .next (forN 8 (fun n s =>
    match (s.routeSet n).keptSince with
    | none => s
    | some t =>
      if s.now < t + 2 then s
      else
        let old (p : TxPacket) : Bool := p.rset == n && p.rgen == 1 - (s.routeSet n).live
        let gone := s.fabric.waiting.filter old
        let s := { s with fabric := { s.fabric with waiting := s.fabric.waiting.filter fun p => !(old p) } }
        let s := s.updRoute n fun q => { q with keptSince := none, gens := q.gens.drop (1 - q.live) }
        forL gone (fun p s => (s.freeSource p).routeLost .stale n) s) s)

/-- Cells of an allocation, over all channels. -/
def allAlloc (w : W64) : Nat := (List.range 8).foldl (fun m vc => m + allocCells w vc) 0

/-- Guarantees in force on the receive queues of a link, those of a FAR link among them (R342, R345). -/
def State.linkGuarantees (s : State) (link : Nat) : Nat :=
  (List.range 8).foldl (fun n vc =>
    let q := s.queue (linkQueue link vc).1 (linkQueue link vc).2
    if q.enabled then n + q.guarantee else n) 0

/-- The most that a pool's guarantees can come to when a link takes an allocation: of every link the larger of what is in
force and what its next training brings, of every other queue what is in force (R342, R484). -/
def State.poolGuarantees (s : State) (link : Nat) (alloc : W64) : Nat :=
  let p := link / 24
  let links : Nat := (List.range 24).foldl (fun n i =>
    let l := 24 * p + i
    n + max (s.linkGuarantees l) (allAlloc (if l = link then alloc else (s.link l).allocNext))) 0
  links + (s.pool p).queues.foldl (fun n e => if 0xC0 ≤ e.1 && e.2.enabled then n + e.2.guarantee else n) 0

/-- LINK_ALLOC (R484, R510): stored for the next ordinary training. -/
def execLinkAlloc (r : Req) (s : State) : Host.Outcome State Fault Refusal :=
  .next (s.kettle r 0x0105 false adminClass fun k s =>
    let l := (k.arg 0).toNat
    let w := k.arg 1
    if k.args.length ≠ 2 || 47 < l || (List.range 8).any (fun v => fld w (8 * v + 7) (8 * v) < 2) then done s St.reserved
    else if 262144 < s.poolGuarantees l w then done s St.noResource
    else done (s.updLink l fun q => { q with allocNext := w }) St.ok)

/-- LINK_RETRAIN (R490, R510): the link trains again, a FAILED one too; its event follows when training ends. -/
def execLinkRetrain (r : Req) (s : State) : Host.Outcome State Fault Refusal :=
  .next (s.kettle r 0x0106 false adminClass fun k s =>
    let l := (k.arg 0).toNat
    if k.args.length ≠ 1 || 47 < l then done s St.reserved
    else
      let s := if (s.link l).state == .trained then s.linkDown l else s.linkTo l .training
      done (s.updLink l fun q => { q with retrainBy := some k.ref, trainFails := [] }) St.accepted)

/-- Rank orders are permutations of 0 to n − 1 (R513). -/
def isPerm (n : Nat) (l : List Nat) : Bool := l.length = n && (List.range n).all fun i => l.contains i

/-- TABLE_CHECK (R513): over the table's two-byte entries, DNs first, then each lane's order. -/
def tableCheck (es : List Nat) : Nat := (es.foldl (fun (a : Nat × Nat) v => (a.1 + 1, a.2 + (a.1 + 1) * v)) (0, 0)).2 % 65521

/-- COLL_GROUP (R512, R513). -/
def execCollGroup (r : Req) (s : State) : Host.Outcome State Fault Refusal :=
  .next (s.kettle r 0x0107 false anyClass fun k s =>
    let a := k.arg 0
    let x := k.x
    let lanes := fld a 8 4
    let n := fld a 32 16
    let g := fld a 49 33
    let addr := (k.arg 1).toNat
    let c := s.ctx x
    if k.args.length ≠ 2 || fld a 15 9 ≠ 0 || fld a 63 50 ≠ 0 || lanes = 0 || 16 < lanes || n = 0 || 65536 < n || 2 ^ 48 ≤ addr then done s St.reserved
    else if c.state == .free then done s St.badContext
    else if !(c.fastSpan addr (2 * n * (1 + lanes))) then done s St.memoryRange
    else if c.busy then done s St.busy
    else
      let es := s.readTable addr (n * (1 + lanes))
      let s := s.noteBytes addr (2 * n * (1 + lanes)) (some x) 0x0107 0
      let table := es.take n
      let orders := (List.range lanes).map fun l => (es.drop (n * (1 + l))).take n
      if g = 0 || n % g ≠ 0 || !(orders.all (isPerm n)) || (table.filter fun d => d == s.fabric.dn).length ≠ 1 then done s St.groupRange
      else done (s.updCtx x fun c => { c with groups := c.groups.set (fld a 3 0) {
        lanes := lanes, n := n, g := g, table := table, orders := orders, check := tableCheck es } }) St.ok)

/-- INFUSE_CHAIN (R510, R538): NEXT paths of a forwarding chain, each ending in a module hop. -/
def execInfuseChain (r : Req) (s : State) : Host.Outcome State Fault Refusal :=
  .next (s.kettle r 0x0108 false anyClass fun k s =>
    let a := k.arg 0
    let x := k.x
    match splitPaths 16 (k.args.drop 1) with
    | none => done s St.reserved
    | some ps =>
      let okPath (p : List W64) : Bool := pathWordsOk p && match parsePath (pathHops p) with
        | some q => (q.module.isSome && q.below == .module) || namesCtx p
        | none => false
      if k.args.isEmpty || bitAt a 3 || fld a 63 6 ≠ 0 || 2 < fld a 5 4 || ps.length ≠ fld a 5 4 || !(ps.all okPath) then done s St.reserved
      else if ps.any namesCtx then done s St.badPath
      else if (s.ctx x).state == .free then done s St.badContext
      else done (s.updCtx x fun c => { c with chains := c.chains.set (fld a 2 0) ps }) St.ok)

end Sys2Proof.Machine
end

