-- ==== Sys2Proof/Machine/Collect.lean ====
section
/-! DEFINITION. Machine/Collect.lean: the collective engine (R514 to R537): lanes, chunks and owners, the order of
reduction, gather phases, barriers, sends and receives, the codec's residuals, and gradient-noise statistics. -/
namespace Sys2Proof.Machine

/-! ### Fields (R515) -/

structure CCmd where
  op : Nat
  group : Nat
  vstage : Nat
  prev : Bool
  rset : Nat
  fp32 : Bool
  dtype : Nat
  hier : Bool
  stats : Bool
  lanes : Nat
  sign : Bool
  kBlk : Nat
  step : Nat
  opId : Nat
  root : Nat
  src : Nat
  dst : Nat
  count : Nat
  resid : Nat
  statsAddr : Nat
  srcHdr : Nat
  dstHdr : Nat
deriving DecidableEq, Repr

def ccmdOf (c : Cmd) : CCmd :=
  let w := c.w 0
  { op := fld w 7 0, group := fld w 19 16, vstage := fld w 18 16, prev := bitAt w 19, rset := fld w 22 20, fp32 := bitAt w 23
    dtype := fld w 27 24, hier := bitAt w 28, stats := bitAt w 29, lanes := fld w 36 32, sign := bitAt w 37, kBlk := fld w 50 38
    step := (c.w 1).toNat, opId := fld (c.w 2) 31 0, root := fld (c.w 2) 48 32, src := fld (c.w 3) 47 0, dst := fld (c.w 4) 47 0
    count := fld (c.w 5) 39 0, resid := fld (c.w 6) 47 0, statsAddr := fld (c.w 7) 47 0, srcHdr := fld (c.w 8) 47 0, dstHdr := fld (c.w 9) 47 0 }

/-- The element format. -/
def CCmd.fmt (c : CCmd) : Format := (formatOf c.dtype).getD .fp32
def CCmd.codec (c : CCmd) : Bool := c.op = 0x23
/-- The commands that reduce, and those that end with a gather phase. -/
def CCmd.reduces (c : CCmd) : Bool := c.op = 0x20 || c.op = 0x22 || c.op = 0x23
def CCmd.gathers (c : CCmd) : Bool := c.op = 0x21 || c.op = 0x22 || c.op = 0x23
/-- U of R518; the units of the model's packets. -/
def CCmd.unit (c : CCmd) : Nat := if c.codec then 4096 else 256
def CCmd.units (c : CCmd) : Nat := cdiv c.count c.unit

/-! ### Lanes, chunks and owners (R518, R519) -/

def CollOp.c (o : CollOp) : CCmd := ccmdOf o.cmd
def CollOp.n (o : CollOp) : Nat := o.group.n
/-- Pl and Cl. -/
def CollOp.pl (o : CollOp) : Nat := o.c.unit * cdiv o.c.count (o.c.unit * o.c.lanes)
def CollOp.cl (o : CollOp) : Nat := o.c.unit * cdiv o.pl (o.c.unit * o.n)
/-- Ranks in a run, and runs (R521); flat, one run of all. -/
def CollOp.g (o : CollOp) : Nat := if o.c.hier then o.group.g else o.n
def CollOp.m (o : CollOp) : Nat := o.n / o.g
def CollOp.lane (o : CollOp) (u : Nat) : Nat := u * o.c.unit / o.pl
def CollOp.chunk (o : CollOp) (u : Nat) : Nat := u * o.c.unit % o.pl / o.cl
def CollOp.len (o : CollOp) (u : Nat) : Nat := min o.c.unit (o.c.count - u * o.c.unit)
/-- Position of a rank in a lane's order, and the rank at a position. -/
def CollOp.pos (o : CollOp) (l r : Nat) : Nat := ((o.group.orders.getD l []).findIdx? fun x => x == r).getD 0
def CollOp.rankAt (o : CollOp) (l p : Nat) : Nat := (o.group.orders.getD l []).getD p 0
def CollOp.me (o : CollOp) (u : Nat) : Nat := o.pos (o.lane u) o.rank
/-- j and h of a chunk, and the position that owns it. -/
def CollOp.j (o : CollOp) (u : Nat) : Nat := if o.c.hier then o.chunk u / o.m else o.chunk u
def CollOp.h (o : CollOp) (u : Nat) : Nat := if o.c.hier then o.chunk u % o.m else 0
def CollOp.owner (o : CollOp) (u : Nat) : Nat := o.h u * o.g + o.j u
def CollOp.owns (o : CollOp) (u : Nat) : Bool := o.me u == o.owner u
def CollOp.owned (o : CollOp) : List Nat := (List.range o.c.units).filter o.owns

/-- k of R520 at index i of a ring of n for a sum that ends at index t: 1 at its start, n at its end. -/
def ringK (n i t : Nat) : Nat := if (i + n - t) % n = 0 then n else (i + n - t) % n

/-- k at this position, within the run and across runs (R520, R521). -/
def CollOp.k1 (o : CollOp) (u : Nat) : Nat := ringK o.g (o.me u % o.g) (o.j u)
def CollOp.k2 (o : CollOp) (u : Nat) : Nat := ringK o.m (o.me u / o.g) (o.h u)
/-- The next position within the run, and across runs. -/
def CollOp.next1 (o : CollOp) (u : Nat) : Nat := o.me u / o.g * o.g + (o.me u % o.g + 1) % o.g
def CollOp.next2 (o : CollOp) (u : Nat) : Nat := (o.me u / o.g + 1) % o.m * o.g + o.me u % o.g

/-! ### Elements in memory -/

/-- Bytes of a run of elements, which block formats take in whole blocks. -/
def CCmd.bytes (c : CCmd) (n : Nat) : Nat := c.fmt.bits * n / 8

/-- First element of a unit in a plane laid out by owned chunks, lane after lane (R519). -/
def CollOp.ownedAt (o : CollOp) (u : Nat) : Nat := o.lane u * o.cl + u * o.c.unit % o.pl % o.cl

/-- Code of element e of a plane in the tiers. -/
def tierCode (m : Mem) (base bits e : Nat) : Nat :=
  let lo := bits * e / 8
  let n := cdiv (bits * (e + 1)) 8 - lo
  leNat ((List.range n).map fun i => BitVec.ofNat 8 (m.readByte (base + lo + i))) / 2 ^ (bits * e % 8) % 2 ^ bits

/-- The elements of a plane from element e0 on, as they travel: headers before their blocks, codes packed. -/
def CCmd.readPlane (c : CCmd) (m : Mem) (base hdr e0 n : Nat) : List W64 :=
  let f := c.fmt
  if f.scaled then
    (List.range (cdiv n 256)).flatMap fun b =>
      let e := e0 + 256 * b
      m.word ((hdr + 8 * (e / 256)) / 8) :: packWords f.bits ((List.range 256).map fun i => tierCode m base f.bits (e + i))
  else packWords f.bits ((List.range n).map fun i => tierCode m base f.bits (e0 + i))

/-- Writes elements as they travelled at element e0 of a plane. -/
def State.writePlane (s : State) (ctx : Nat) (c : CCmd) (e0 n : Nat) (ws : List W64) : State :=
  let f := c.fmt
  if f.scaled then
    forN (cdiv n 256) (fun b s =>
      let e := e0 + 256 * b
      let blk := ws.drop (b * updBlockWords f)
      let s := s.storeTierBytes (c.dst + c.bytes e) ((((blk.drop 1).take (updBlockWords f - 1)).flatMap wordBytes)) (some ctx)
      s.storeTierBytes (c.dstHdr + 8 * (e / 256)) (wordBytes (blk.getD 0 0#64)) (some ctx)) s
  else s.storeTierBytes (c.dst + c.bytes e0) ((ws.flatMap wordBytes).take (c.bytes n)) (some ctx)

/-- What reading elements of the source plane finds (R313): their data and, in a block format, their headers. -/
def State.notePlane (s : State) (x : Nat) (c : CCmd) (e0 n : Nat) : State :=
  let s := s.noteBytes (c.src + c.bytes e0) (c.bytes n) (some x) c.op c.opId
  if c.fmt.scaled then s.noteBytes (c.srcHdr + 8 * (e0 / 256)) (8 * cdiv n 256) (some x) c.op c.opId else s

/-- The input of this rank in a unit, as FP32 (R520, R522). -/
def CollOp.input (o : CollOp) (m : Mem) (u : Nat) : List W32 :=
  decodeElems o.c.fmt (o.len u) (o.c.readPlane m o.c.src o.c.srcHdr (u * o.c.unit) (o.len u))

/-- The residual of a unit (R535): as encoded in this operation, else as stored. -/
def CollOp.resid (o : CollOp) (m : Mem) (u : Nat) : List W32 :=
  match o.residual.find u with
  | some r => r
  | none => (List.range (o.len u)).map fun i => BitVec.ofNat 32 (tierCode m o.c.resid 32 (u * 4096 + i))

/-! ### Sending (R527) -/

/-- Sends a collective packet to the rank at a position of a lane. A codec block too large for one packet of R481 goes in
two, the second at OFFSET + 1. -/
def State.collSend (s : State) (o : CollOp) (lane toward level phase offset : Nat) (src : Nat) (ws : List W64) : State :=
  if o.mute then s
  else
    let dn := o.group.table.getD (o.rankAt lane toward) 0
    let h0 := mkWord [(0, 32, o.c.opId), (32, 17, src), (49, 4, lane), (53, 1, level), (54, 2, phase)]
    let h1 (off : Nat) : W64 := mkWord [(0, 40, off), (40, 8, o.c.step), (48, 16, o.group.check)]
    let vc := if phase = 1 then 2 else 1
    let put (s : State) (off : Nat) (ws : List W64) : State := s.injectDn 0x01 vc dn (some o.ctx) o.c.rset (h0 :: h1 off :: ws)
    let s := if ws.length ≤ 2000 then put s offset ws else put (put s offset (ws.take 2000)) (offset + 1) (ws.drop 2000)
    s.dataLeft o.ctx dn

/-- A unit's words on a hop of the reduction (R522, R535). -/
def CollOp.wire (o : CollOp) (vs : List W32) : List W64 :=
  if o.c.fp32 then fp32Words vs else encodeElems o.c.fmt (o.c.step % 2 ^ 40) vs
def CollOp.unwire (o : CollOp) (u : Nat) (ws : List W64) : List W32 :=
  if o.c.codec then decodeCodec o.c.sign (o.len u) ws
  else if o.c.fp32 then wordsFp32 (o.len u) ws else decodeElems o.c.fmt (o.len u) ws

/-- An operation in the middle of a change of the module. -/
abbrev CollSt := State × CollOp

/-! ### Gather phases (R523) -/

/-- Passes a unit's result on (R523, R521): across runs among the owner's peers, then within each run; a unit stops
before it would return to where it started. -/
def CollSt.passOn (p : CollSt) (u level : Nat) (ws : List W64) : CollSt :=
  let s := p.1
  let o := p.2
  let off := u * o.c.unit
  let across := level = 1 && 1 < o.m && o.next2 u / o.g ≠ o.h u
  let within := 1 < o.g && o.next1 u % o.g ≠ o.j u
  let s := if across then s.collSend o (o.lane u) (o.next2 u) 1 1 off o.rank ws else s
  (if within then s.collSend o (o.lane u) (o.next1 u) 0 1 off o.rank ws else s, o)

/-- Sends this rank's squares round lane 0's ring when every chunk it owns is final (R537). -/
def CollSt.ownStats (p : CollSt) : CollSt :=
  let o := p.2
  if !o.c.stats || (o.stats.find o.rank).isSome || !(o.owned.all fun u => (o.results.find u).isSome) then p
  else
    let s := forN o.c.units (fun u s => s.notePlane o.ctx o.c (u * o.c.unit) (o.len u)) p.1
    let x := (List.range o.c.units).flatMap fun u => o.input p.1.mem.space u
    let y := o.owned.flatMap fun u =>
      let ws := (o.results.find u).getD []
      if o.c.codec then decodeCodec o.c.sign (o.len u) ws else decodeElems o.c.fmt (o.len u) ws
    let t := (sumSquares x, sumSquares y, (x ++ y).any fun v => !((v32 v).isFin))
    let o := { o with stats := o.stats.set o.rank t }
    if o.n = 1 then (s, o)
    else (s.collSend o 0 ((o.pos 0 o.rank + 1) % o.n) 0 2 0 o.rank [BitVec.ofNat 64 t.1, BitVec.ofNat 64 t.2.1, BitVec.ofNat 64 (b2n t.2.2)], o)

/-- A unit is final at its owner. -/
def CollSt.final (p : CollSt) (u : Nat) (ws : List W64) : CollSt :=
  let p : CollSt := (p.1, { p.2 with results := p.2.results.set u ws })
  (if p.2.c.gathers then p.passOn u 1 ws else p).ownStats

/-! ### The order of reduction (R520, R521, R535) -/

/-- The residual takes what an encoding drops: in place of the old one at level 1, added at level 2; a NaN block leaves
+0 (R535). -/
def CollOp.drop (o : CollOp) (m : Mem) (u : Nat) (second : Bool) (z : List W32) (e : List W64) : CollOp :=
  if !o.c.codec then o
  else
    let d := droppedBy o.c.sign z e
    let r := if second && !(nanCodec o.c.sign e) then ((o.resid m u).zip d).map fun q => add32 q.1 q.2 else d
    { o with residual := o.residual.set u r }

/-- Across runs (R521): the value of this run joins what has come from the run before. -/
def CollSt.level2 (p : CollSt) (u : Nat) (z : List W32) : CollSt :=
  let o := p.2
  let k := o.k2 u
  if o.c.codec then
    let e := encodeCodec o.c.sign o.c.kBlk z
    let o := o.drop p.1.mem.space u true z e
    if k < o.m then (p.1.collSend o (o.lane u) (o.next2 u) 1 0 (u * o.c.unit) o.rank e, o) else CollSt.final (p.1, o) u e
  else if k < o.m then (p.1.collSend o (o.lane u) (o.next2 u) 1 0 (u * o.c.unit) o.rank (o.wire z), o)
  else CollSt.final p u (encodeElems o.c.fmt (o.c.step % 2 ^ 40) z)

/-- The run's value is formed at its owner. -/
def CollSt.runDone (p : CollSt) (u : Nat) (z : List W32) : CollSt :=
  let o := p.2
  if o.k2 u = 1 then p.level2 u z
  else match o.waiting.find u with
    | some w => CollSt.level2 (p.1, { o with waiting := o.waiting.drop u }) u ((w.zip z).map fun q => add32 q.1 q.2)
    | none => (p.1, { o with own := o.own.set u z })

/-- Within a run, or flat (R520, R535): this position's input joins what has come, and the sum goes on or ends. -/
def CollSt.level1 (p : CollSt) (u : Nat) (incoming : Option (List W32)) : CollSt :=
  let o := p.2
  let m := p.1.mem.space
  let s := p.1.notePlane o.ctx o.c (u * o.c.unit) (o.len u)
  let s := if o.c.codec && (o.residual.find u).isNone then
    s.noteBytes (o.c.resid + 4 * 4096 * u) (4 * o.len u) (some o.ctx) o.c.op o.c.opId else s
  let x := o.input m u
  let x := if o.c.codec then (x.zip (o.resid m u)).map fun q => add32 q.1 q.2 else x
  let z := match incoming with
    | some w => (w.zip x).map fun q => add32 q.1 q.2
    | none => x
  let k := o.k1 u
  if o.c.codec then
    let e := encodeCodec o.c.sign o.c.kBlk z
    let o := o.drop m u false z e
    if k < o.g then (s.collSend o (o.lane u) (o.next1 u) 0 0 (u * o.c.unit) o.rank e, o)
    else if o.c.hier then CollSt.runDone (s, o) u (decodeCodec o.c.sign (o.len u) e)
    else CollSt.final (s, o) u e
  else if k < o.g then (s.collSend o (o.lane u) (o.next1 u) 0 0 (u * o.c.unit) o.rank (o.wire z), o)
  else if o.c.hier then CollSt.runDone (s, o) u z
  else CollSt.final (s, o) u (encodeElems o.c.fmt (o.c.step % 2 ^ 40) z)

/-! ### Taking packets (R525 to R528) -/

/-- The halves of a split codec block joined (the first arrives at its unit's OFFSET, the second at OFFSET + 1). -/
def CollOp.join (o : CollOp) (u level phase half : Nat) (ws : List W64) : CollOp × Option (List W64) :=
  if !o.c.codec then (o, some ws)
  else if half = 0 && ws.length = codecWords o.c.sign (o.len u) (ws.getD 0 0#64) then (o, some ws)
  else match o.halves.find (u, level, phase, 1 - half) with
    | some other => ({ o with halves := o.halves.drop (u, level, phase, 1 - half) }, some (if half = 0 then ws ++ other else other ++ ws))
    | none => ({ o with halves := o.halves.set (u, level, phase, half) ws }, none)

/-- What a packet of an operation does. -/
def CollSt.take (p : CollSt) (h0 h1 : W64) (ws : List W64) : CollSt :=
  let o := p.2
  let lane := fld h0 52 49
  let level := b2n (bitAt h0 53)
  let phase := fld h0 55 54
  let off := fld h1 39 0
  let u := off / o.c.unit
  if phase = 3 then
    if o.c.op = 0x27 then (p.1, { o with results := o.results.set u ws })
    else
      -- the barrier: OFFSET is the pass; position 0 starts the second
      let here := o.pos 0 o.rank
      let nextPos := (here + 1) % o.n
      if here = 0 then (p.1.collSend o 0 nextPos 0 3 1 o.rank [], { o with finished := true })
      else
        let s := if nextPos = 0 && off = 1 then p.1 else p.1.collSend o 0 nextPos 0 3 off o.rank []
        (s, { o with finished := off = 1 })
  else if phase = 2 then
    let r := fld h0 48 32
    let t := ((ws.getD 0 0#64).toNat, (ws.getD 1 0#64).toNat, decide (ws.getD 2 0#64 ≠ 0#64))
    let o := { o with stats := o.stats.set r t }
    let toward := (o.pos 0 o.rank + 1) % o.n
    (if o.rankAt 0 toward = r then p.1 else p.1.collSend o 0 toward 0 2 0 r ws, o)
  else if o.c.op = 0x24 then
    let o := { o with results := o.results.set u ws }
    let toward := (o.pos 0 o.rank + 1) % o.n
    (if o.rankAt 0 toward = o.c.root then p.1 else p.1.collSend o 0 toward 0 1 off o.rank ws, o)
  else if o.c.units ≤ u || lane ≠ o.lane u then p
  else
    let r := o.join u level phase (off % o.c.unit) ws
    match r.2 with
    | none => (p.1, r.1)
    | some ws =>
      let p : CollSt := (p.1, r.1)
      let o := r.1
      if phase = 1 then
        let p : CollSt := (p.1, { o with results := o.results.set u ws })
        p.passOn u level ws
      else if level = 0 then p.level1 u (some (o.unwire u ws))
      else match o.own.find u with
        | some z => CollSt.level2 (p.1, { o with own := o.own.drop u }) u (((o.unwire u ws).zip z).map fun q => add32 q.1 q.2)
        | none => (p.1, { o with waiting := o.waiting.set u (o.unwire u ws) })

/-- The operation of a context with an OP_ID. -/
def State.collOp (s : State) (x id : Nat) : Option CollOp := s.fabric.ops.find? fun o => o.ctx == x && o.c.opId == id
def State.putOp (s : State) (o : CollOp) : State :=
  { s with fabric := { s.fabric with ops := s.fabric.ops.map fun q => if q.ctx == o.ctx && q.c.opId == o.c.opId then o else q } }

/-- A packet enters its operation. -/
def State.takeColl (s : State) (o : CollOp) (body : List W64) : State :=
  let h0 := body.getD 0 0#64
  let h1 := body.getD 1 0#64
  let o := { o with seen := o.seen ++ [(h0.toNat, fld h1 39 0)] }
  let p := CollSt.take (s, o) h0 h1 (body.drop 2)
  p.1.putOp p.2

/-- COLLECTIVE_PACKET (R528, R597, R620): a packet of no present operation waits in its queue; one of an operation that
has ended, of another step, or already taken is discarded and counted. -/
def execCollectivePacket (p : Pkt) (s : State) : Host.Outcome State Fault Refusal :=
  if s.isEarly (fld p.route 63 48) then .next (s.holdEarly (.packet (fld p.route 15 8) p)) else
  let kind := fld p.route 15 8
  let x := fld p.route 18 16
  let h0 := p.body.getD 0 0#64
  let h1 := p.body.getD 1 0#64
  let id := fld h0 31 0
  let dup (s : State) : State := { s with fabric := { s.fabric with duplicates := satN 16 (s.fabric.duplicates + 1) } }
  if !(kind = 1 || kind = 2) || !(bitAt p.route 19) then .next s
  else match s.collOp x id with
    | none =>
      if s.fabric.ended.any fun e => e.1 == x && e.2.2 == id && e.2.1 % 256 == fld h1 47 40 then .next (dup (s.tookPacket kind p.body)) else .next s
    | some o =>
      if o.mute then .next s
      else
        let s := s.tookPacket kind p.body
        if s.shuns (fld p.route 47 32) then .next s
        else if fld h1 63 48 ≠ o.group.check then
          let s := { s with fabric := { s.fabric with mismatches := satN 16 (s.fabric.mismatches + 1) } }
          .next (s.raise { code := Rec.groupMismatch, cls := .uc, ctx := some x, opcode := o.c.op, opRef := id })
        else if fld h1 47 40 ≠ o.c.step % 256 || o.seen.contains (h0.toNat, fld h1 39 0) then .next (dup s)
        else
          let s := (s.ledgerAdd x (fld p.route 47 32) (s.nearEpoch (fld p.route 63 48))).capturePayload x p.body
          .next (s.takeColl o p.body)

/-! ### Starting (R514, R519, R521, R525, R526) -/

/-- In a replay, received data comes from the capture, in order of delivery, while its operations are there (R621). -/
def feedLoop : Nat → Nat → State → State
  | 0, _, s => s
  | fuel + 1, x, s =>
    match (s.ctx x).job.replay with
    | none => s
    | some r => match r.payloads with
      | [] => s
      | b :: rest => match s.collOp x (fld (b.getD 0 0#64) 31 0) with
        | none => s
        | some o => feedLoop fuel x ((s.updJob x fun j => { j with replay := some { r with payloads := rest } }).takeColl o b)

/-- What an operation does at once. -/
def CollSt.start (p : CollSt) (stage : Option (List W64)) : CollSt :=
  let o := p.2
  let m := p.1.mem.space
  let all := List.range o.c.units
  if o.c.reduces then forL all (fun u p => if CollOp.k1 p.2 u = 1 then CollSt.level1 p u none else p) p
  else if o.c.op = 0x21 then
    forL o.owned (fun u p => CollSt.final (p.1.notePlane o.ctx o.c (o.ownedAt u) (o.len u), p.2) u
      (o.c.readPlane m o.c.src o.c.srcHdr (o.ownedAt u) (o.len u))) p
  else if o.c.op = 0x24 then
    if o.rank ≠ o.c.root then p
    else forL all (fun u p =>
      let ws := o.c.readPlane m o.c.src o.c.srcHdr (256 * u) (o.len u)
      let q := { p.2 with results := p.2.results.set u ws }
      let s := p.1.notePlane o.ctx o.c (256 * u) (o.len u)
      (if o.n = 1 then s else s.collSend q 0 ((o.pos 0 o.rank + 1) % o.n) 0 1 (256 * u) o.rank ws, q)) p
  else if o.c.op = 0x25 then
    if o.n = 1 then (p.1, { o with finished := true })
    else if o.pos 0 o.rank = 0 then (p.1.collSend o 0 1 0 3 0 o.rank [], o)
    else p
  else if o.c.op = 0x26 then
    match stage with
    | none => p
    | some dst =>
      let send (u : Nat) (s : State) : State :=
        let h0 := mkWord [(0, 32, o.c.opId), (54, 2, 3)]
        let h1 := mkWord [(0, 40, 256 * u), (40, 8, o.c.step)]
        (s.notePlane o.ctx o.c (256 * u) (o.len u)).inject 0x02 3 dst (some o.ctx) o.c.rset (h0 :: h1 :: o.c.readPlane m o.c.src o.c.srcHdr (256 * u) (o.len u))
      if o.mute then p
      else
        let s := forL all send p.1
        let dn := s.members.modules.find? fun e => pathWords e.2 = dst
        ((match dn with | some e => s.dataLeft o.ctx e.1 | none => s), o)
  else p

/-- A collective command of the running slice of a slot starts (R514); one whose OP_ID another operation of the context still
holds waits for its end (R515). -/
def State.startColl (s : State) (x slot op : Nat) (cmd : Cmd) : State :=
  let c := ccmdOf cmd
  if (s.collOp x c.opId).isSome then s
  else match s.takeNext x slot op [1] cmd with
    | none => s
    | some (t, s) =>
      let pair := op = 0x26 || op = 0x27
      let alone : Group := { lanes := 1, n := 1, g := 1, table := [s.fabric.dn], orders := [[0]], check := 0 }
      if s.enginesFenced then s.failSlot x slot St.unitFenced
      else match (if pair then some alone else (s.ctx x).groups.find c.group) with
      | none => s.failSlot x slot St.groupRange
      | some g =>
        let o : CollOp := {
          ctx := x, slot := slot, cmd := cmd, started := s.now, tick := s.steep.ticks, mute := t.replay
          rank := (g.table.findIdx? fun d => d == s.fabric.dn).getD 0, group := g }
        let stage := ((s.ctx x).stages.find c.vstage).map fun v => if c.prev then v.prev else v.next
        let s := { s with fabric := { s.fabric with ended := s.fabric.ended.filter fun e => !(e.1 == x && e.2.2 == c.opId) } }
        let s := { s with fabric := { s.fabric with ops := s.fabric.ops ++ [o] } }
        let p := (CollSt.start (s, o) stage).ownStats
        let s := p.1.putOp p.2
        match (s.ctx x).job.replay with
        | some r => feedLoop (r.payloads.length + 1) x s
        | none => s

/-- COLL_RS. -/
def execCollRs (ctx slot : Nat) (cmd : Cmd) (s : State) : Host.Outcome State Fault Refusal := .next (s.startColl ctx slot 0x20 cmd)
/-- COLL_AG. -/
def execCollAg (ctx slot : Nat) (cmd : Cmd) (s : State) : Host.Outcome State Fault Refusal := .next (s.startColl ctx slot 0x21 cmd)
/-- COLL_AR. -/
def execCollAr (ctx slot : Nat) (cmd : Cmd) (s : State) : Host.Outcome State Fault Refusal := .next (s.startColl ctx slot 0x22 cmd)
/-- COLL_CODEC_AR. -/
def execCollCodecAr (ctx slot : Nat) (cmd : Cmd) (s : State) : Host.Outcome State Fault Refusal := .next (s.startColl ctx slot 0x23 cmd)
/-- COLL_BCAST. -/
def execCollBcast (ctx slot : Nat) (cmd : Cmd) (s : State) : Host.Outcome State Fault Refusal := .next (s.startColl ctx slot 0x24 cmd)
/-- COLL_BARRIER. -/
def execCollBarrier (ctx slot : Nat) (cmd : Cmd) (s : State) : Host.Outcome State Fault Refusal := .next (s.startColl ctx slot 0x25 cmd)
/-- COLL_SEND. -/
def execCollSend (ctx slot : Nat) (cmd : Cmd) (s : State) : Host.Outcome State Fault Refusal := .next (s.startColl ctx slot 0x26 cmd)
/-- COLL_RECV. -/
def execCollRecv (ctx slot : Nat) (cmd : Cmd) (s : State) : Host.Outcome State Fault Refusal := .next (s.startColl ctx slot 0x27 cmd)

/-! ### Completion and timeout (R524, R529, R535 to R537) -/

/-- An operation has all that it waits for. -/
def CollOp.complete (o : CollOp) : Bool :=
  let have_ (u : Nat) : Bool := (o.results.find u).isSome
  let data := if o.c.op = 0x25 then o.finished
    else if o.c.op = 0x26 then true
    else if o.c.op = 0x20 then o.owned.all have_
    else (List.range o.c.units).all have_
  data && (!o.c.stats || (List.range o.n).all fun r => (o.stats.find r).isSome)

/-- The statistics record (R536, R537): the ranks' values added in FP64 from rank 0. -/
def CollOp.record (o : CollOp) : List W64 :=
  let t (r : Nat) : Nat × Nat × Bool := o.stats.get (0, 0, false) r
  let sum (f : Nat × Nat × Bool → Nat) : Nat := (List.range o.n).foldl (fun a r => if r = 0 then f (t 0) else addF64 a (f (t r))) 0
  [BitVec.ofNat 64 (t o.rank).1, BitVec.ofNat 64 (sum (·.1)), BitVec.ofNat 64 (sum (·.2.1)),
    mkWord [(0, 32, o.n), (32, 1, b2n ((List.range o.n).any fun r => (t r).2.2))]]

/-- Writes the outputs of an operation: results in the layout of R519, residuals, and the statistics record. -/
def State.collOutputs (s : State) (o : CollOp) : State :=
  let us := if o.c.op = 0x20 then o.owned else if o.c.op = 0x25 || o.c.op = 0x26 then [] else List.range o.c.units
  let s := forL us (fun u s =>
    let ws := (o.results.find u).getD []
    let ws := if o.c.codec then encodeElems o.c.fmt (o.c.step % 2 ^ 40) (decodeCodec o.c.sign (o.len u) ws) else ws
    s.writePlane o.ctx o.c (if o.c.op = 0x20 then o.ownedAt u else u * o.c.unit) (o.len u) ws) s
  let s := forL o.residual (fun e s => s.storeTierBytes (o.c.resid + 4 * 4096 * e.1) (e.2.flatMap laneBytes) (some o.ctx)) s
  if o.c.stats then s.storeTierBytes o.c.statsAddr (o.record.flatMap wordBytes) (some o.ctx) else s

/-- An operation leaves the engine. -/
def State.endColl (s : State) (o : CollOp) : State :=
  { s with fabric := { s.fabric with
    ops := s.fabric.ops.filter fun q => !(q.ctx == o.ctx && q.c.opId == o.c.opId)
    ended := s.fabric.ended ++ [(o.ctx, o.c.step, o.c.opId)] } }

/-- COLLECTIVE_COMPLETE (R524, R535 to R537). -/
def execCollectiveComplete (ctx opId : Nat) (s : State) : Host.Outcome State Fault Refusal :=
  match s.collOp ctx opId with
  | none => .next s
  | some o =>
    if !o.complete then .next s
    else
      let s := (s.collOutputs o).endColl o
      let s := if 0 < o.overruns then s.worst (o.started + 1) else s
      .next { s with fabric := { s.fabric with collOps := satN 16 (s.fabric.collOps + 1) } }

/-- The first lane position from which a packet is awaited (R529): the position before this one in the ring whose packet
is missing, for the lowest unit not complete. -/
def CollOp.awaited (o : CollOp) : Nat :=
  let ring (l : Nat) : Nat := (o.pos l o.rank + o.n - 1) % o.n
  if o.c.op = 0x24 || o.c.op = 0x25 then ring 0
  else if o.c.op = 0x26 || o.c.op = 0x27 then 0
  else
    let need (u : Nat) : Bool := (o.results.find u).isNone && (o.c.op ≠ 0x20 || o.owns u)
    match (List.range o.c.units).find? need with
    | none => ring 0
    | some u =>
      let p := o.me u
      let before1 := p / o.g * o.g + (p % o.g + o.g - 1) % o.g
      let before2 := (p / o.g + o.m - 1) % o.m * o.g + p % o.g
      let got (level : Nat) : Bool := o.seen.any fun e =>
        e.1 / 2 ^ 53 % 2 = level && e.1 / 2 ^ 54 % 4 = 0 && e.2 / o.c.unit = u
      if o.c.reduces && 1 < o.k1 u && !(got 0) then before1
      else if o.c.reduces && o.c.hier && p % o.g = o.j u && 1 < o.k2 u && !(got 1) then before2
      else if p % o.g = o.j u && 1 < o.m then before2
      else before1

/-- COLL_TIMEOUT (R529): an operation still waiting for a peer at the second boundary after its start ends. -/
def execCollTimeout (ctx opId : Nat) (s : State) : Host.Outcome State Fault Refusal :=
  match s.collOp ctx opId with
  | none => .next s
  | some o =>
    if o.complete || s.now < o.started + 2 then .next s
    else
      let s := ((s.endColl o).failSlot ctx o.slot St.collTimeout).worst (o.started + 1)
      let s := { s with fabric := { s.fabric with
        collTimeouts := satN 16 (s.fabric.collTimeouts + 1)
        timedOut := some (ctx, o.c.op, opId) } }
      .next (s.raise { code := Rec.collTimeout, cls := .uc, ctx := some ctx, opcode := o.c.op, opRef := opId, a := BitVec.ofNat 64 o.awaited })

end Sys2Proof.Machine
end

