-- ==== Sys2Proof/Machine/ErrorLog.lean ====
section
/-! DEFINITION. Machine/ErrorLog.lean: reading, clearing and keeping error records (R667 to R676, R690, R693, R701). -/
namespace Sys2Proof.Machine

/-- The record's path begins with the unit's path (R21). -/
def underPath (u : UnitId) (path : List Nat) : Bool := (hopsOf u).isPrefixOf path

/-- A mailbox may read the record (R667): Admin reads all; a context's mailbox reads records that name its context
and records within its compute dies. -/
def State.mayRead (s : State) (mb : Nat) (r : RecMeta) : Bool :=
  s.isAdmin mb || r.ctx == some (mb / 4) ||
  (match r.path with
    | a :: _ => a / 4096 = 3 && Nat.testBit (s.ctx (mb / 4)).dieMask (a % 4096)
    | [] => false)

/-- ERR_READ (R667, R701): at most two records, oldest first, and the SEQ of the next that matches, else 0. -/
def execErrRead (r : Req) (s : State) : Host.Outcome State Fault Refusal :=
  .next (s.kettle r 0x0400 false anyClass fun k s =>
    let a := k.arg 0
    if k.args.length ≠ 1 || fld a 63 32 ≠ 0 then done s St.reserved
    else
      let all := s.faults.records.filter fun m => underPath k.unit m.path && s.mayRead k.mb m && fld a 31 0 ≤ m.seq
      let two := all.take 2
      let nxt := match all.drop 2 with | m :: _ => m.seq | [] => 0
      (s, some (St.ok, BitVec.ofNat 64 nxt :: (two.map fun m => lengthSlot m.seq m.ctx 0x20 m.words.length :: m.words).flatten)))

/-- ERR_CLEAR (R674, R675, R701, R702): marks open UC records cleared; nothing else changes. -/
def execErrClear (r : Req) (s : State) : Host.Outcome State Fault Refusal :=
  .next (s.kettle r 0x0401 false anyClass fun k s =>
    let a := k.arg 0
    if k.args.length ≠ 1 || fld a 63 33 ≠ 0 then done s St.reserved
    else
      let seq := fld a 31 0
      let hit (m : RecMeta) : Bool := m.cls == .uc && m.clearedAt.isNone && underPath k.unit m.path && s.mayRead k.mb m &&
        (if bitAt a 32 then m.seq ≤ seq else m.seq == seq)
      let n := (s.faults.records.filter hit).length
      if n = 0 then (s, some (St.noEffect, [0#64]))
      else
        let s' := { s with faults := { s.faults with
          records := s.faults.records.map fun m => if hit m then { m with clearedAt := some s.now } else m } }
        (s', some (St.ok, [BitVec.ofNat 64 n])))

/-- ERR_CRASH_LOG (R693, R701): one entry, or an empty length slot. -/
def execErrCrashLog (r : Req) (s : State) : Host.Outcome State Fault Refusal :=
  .next (s.kettle r 0x0402 false adminClass fun k s =>
    let a := k.arg 0
    if k.args.length ≠ 1 || fld a 63 6 ≠ 0 || 32 < fld a 5 0 then done s St.reserved
    else match s.faults.crashLog[fld a 5 0]? with
      | some (some e) => (s, some (St.ok, e.slot :: e.words))
      | _ => (s, some (St.ok, [0#64])))

/-- RESET_LIMITS (R690, R701): a limit of 0 is outside its range. -/
def execResetLimits (r : Req) (s : State) : Host.Outcome State Fault Refusal :=
  .next (s.kettle r 0x0403 false adminClass fun k s =>
    let a := k.arg 0
    let ls := (List.range 7).map fun i => fld a (8 * i + 7) (8 * i)
    if k.args.length ≠ 1 || fld a 63 56 ≠ 0 || ls.contains 0 then done s St.reserved
    else done { s with faults := { s.faults with limits := ls } } St.ok)

/-- RECORDS_LOST (R673): at a boundary with room, one CE record carries the count of records lost. -/
def execRecordsLost (s : State) : Host.Outcome State Fault Refusal :=
  let n := s.faults.lostPending
  if n = 0 || !((s.pool 0).mayTake 0x180 1) then .next s
  else .next ({ s with faults := { s.faults with lostPending := 0 } }.raise {
    code := Rec.recordsLost, cls := .ce, a := BitVec.ofNat 64 n })

/-- A record that the collector releases by age (R676): a CE record older than 4,096 steeps, a UC record cleared
more than 64 steeps ago. -/
def aged (now : Nat) (m : RecMeta) : Bool :=
  match m.cls, m.clearedAt with
  | .ce, _ => m.steep + 4096 < now
  | .uc, some t => t + 64 < now
  | _, _ => false

/-- Retention (R676). -/
def execRecordAgeRelease (s : State) : Host.Outcome State Fault Refusal :=
  let old := s.faults.records.filter (aged s.now)
  let p := old.foldl (fun p m => p.purge 0x180 m.seq) (s.pool 0)
  .next { s.setPool 0 p with faults := { s.faults with records := s.faults.records.filter fun m => !aged s.now m } }

/-- At step 1 of R56 each duplicated record of the closed steep gets its summary record (R669). -/
def State.writeRepeats (s : State) : State :=
  let ms := s.faults.merges.filter fun m => 0 < m.count
  let closed := s.now - 1
  let s := { s with faults := { s.faults with merges := [] } }
  forL ms (fun m s =>
    let unit := ((belowOf m.path).getD .module)
    let w := s.writeRecord {
      code := m.code, cls := m.cls, unit := unit, ctx := m.ctx, opcode := m.opcode, opRef := m.opRef,
      a := m.detailA, b := m.detailB, rpt := true, merged := m.count, steep := some closed }
    match m.ctx, w.2 with
    | some x, some seq => w.1.event x { kind := 0x0400, detail := mkWord [(0, 32, seq), (32, 16, m.code), (48, 2, m.cls.code)] }
    | _, _ => w.1) s

end Sys2Proof.Machine
end

