-- ==== Sys2Proof/Machine/KvPages.lean ====
section
/-! DEFINITION. Machine/KvPages.lean: KV pages and batch admission (R730 to R733). -/
namespace Sys2Proof.Machine

/-- Free pages of a pool. -/
def Kv.free (v : Kv) : Nat := v.pool - v.slots.foldl (fun n e => n + e.2.length) 0

/-- The lowest n page indices that no slot holds. -/
def Kv.pick (v : Kv) (n : Nat) : List Nat :=
  ((List.range v.pool).filter fun p => !(v.slots.any fun e => e.2.contains p)).take n

/-- KV_STATUS (R739): free pages, HEADROOM, and the joins and grows that wait. -/
def Kv.status (v : Kv) : W64 := mkWord [(0, 19, v.free), (19, 19, v.headroom), (38, 16, satN 16 (v.joins.length + v.grows.length))]

/-- KV_CONFIG (R730, R736). -/
def execKvConfig (r : Req) (s : State) : Host.Outcome State Fault Refusal :=
  .next (s.kettle r 0x0505 false anyClass fun k s =>
    let a := k.arg 0
    let b := k.arg 1
    let x := fld a 2 0
    let c := s.ctx x
    let first := fld a 37 19
    let pool := fld b 18 0
    let list := (k.arg 2).toNat
    if k.args.length ≠ 3 || fld a 18 3 ≠ 0 || fld a 63 57 ≠ 0 || fld b 63 19 ≠ 0 then done s St.reserved
    else if !s.ctxNamed k.mb x then done s St.badContext
    else if !(c.fastSpan list (4096 * 2048)) || c.fastPages < first + pool then done s St.memoryRange
    else if !c.kv.slots.isEmpty then done s St.busy
    else done (s.updCtx x fun c => { c with kv := { c.kv with
        configured := true, firstPage := first, headroom := fld a 56 38, pool := pool, listAddr := list } }) St.ok)

/-- The shape of KV_JOIN and KV_GROW words. -/
def kvBad (k : KReq) : Bool := k.args.length ≠ 1 || fld (k.arg 0) 7 3 ≠ 0 || fld (k.arg 0) 63 30 ≠ 0

/-- The slot will be free when the next boundary takes its joins: no sequence holds it, or a leave goes first, and no other join
waits for it. -/
def Kv.joinable (v : Kv) (slot : Nat) : Bool :=
  ((v.slots.find slot).isNone || v.leaves.any fun a => a.slot == slot) && !(v.joins.any fun a => a.slot == slot)

/-- KV_JOIN (R731, R733). DESIGN CHOICE (log 90): the spec gives no status for a slot that is not free, and the model answers
KV_RANGE; so for a KV_GROW of a slot that holds no sequence. -/
def execKvJoin (r : Req) (s : State) : Host.Outcome State Fault Refusal :=
  .next (s.kettle r 0x0506 false anyClass fun k s =>
    let a := k.arg 0
    let x := fld a 2 0
    let v := (s.ctx x).kv
    let slot := fld a 19 8
    let n := fld a 29 20
    if kvBad k then done s St.reserved
    else if !s.ctxNamed k.mb x then done s St.badContext
    else if 512 < n || v.pool - v.headroom < n || !v.joinable slot then done s St.kvRange
    else done (s.updCtx x fun c => { c with kv := { v with joins := v.joins ++ [⟨slot, n, k.ref⟩] } }) St.accepted)

/-- KV_GROW (R731, R733). -/
def execKvGrow (r : Req) (s : State) : Host.Outcome State Fault Refusal :=
  .next (s.kettle r 0x0507 false anyClass fun k s =>
    let a := k.arg 0
    let x := fld a 2 0
    let v := (s.ctx x).kv
    let slot := fld a 19 8
    let n := fld a 29 20
    let held := (v.slots.get [] slot).length + (v.grows.filter fun g => g.slot == slot).foldl (fun n g => n + g.pages) 0
    if kvBad k then done s St.reserved
    else if !s.ctxNamed k.mb x then done s St.badContext
    else if 512 < held + n || (v.slots.find slot).isNone then done s St.kvRange
    else done (s.updCtx x fun c => { c with kv := { v with grows := v.grows ++ [⟨slot, n, k.ref⟩] } }) St.accepted)

/-- KV_LEAVE (R731). -/
def execKvLeave (r : Req) (s : State) : Host.Outcome State Fault Refusal :=
  .next (s.kettle r 0x0508 false anyClass fun k s =>
    let a := k.arg 0
    let x := fld a 2 0
    let v := (s.ctx x).kv
    if k.args.length ≠ 1 || fld a 7 3 ≠ 0 || fld a 63 20 ≠ 0 then done s St.reserved
    else if !s.ctxNamed k.mb x then done s St.badContext
    else done (s.updCtx x fun c => { c with kv := { v with leaves := v.leaves ++ [⟨fld a 19 8, 0, k.ref⟩] } }) St.accepted)

/-- The kettle writes the entries of a slot's page list in the context's window, the new ones after the old (R733). -/
def State.writePageList (s : State) (x slot : Nat) : State :=
  let v := (s.ctx x).kv
  let pages := v.slots.get [] slot
  let addr := v.listAddr + 2048 * slot
  let bytes := (pages.map fun p => (List.range 4).map fun i => BitVec.ofNat 8 (p / 256 ^ i)).flatten
  s.storeTierBytes addr bytes (some x)

/-- An admitted slot gets its pages, its list and its event (R733). -/
def State.takeSlot (s : State) (x slot n : Nat) (by_ : CmdRef) : State :=
  let s := s.updCtx x fun c => { c with kv := { c.kv with
    slots := c.kv.slots.set slot (c.kv.slots.get [] slot ++ c.kv.pick n) } }
  let s := s.writePageList x slot
  let held := ((s.ctx x).kv.slots.get [] slot).length
  s.cmdEvent by_ (some x) { kind := 0x0502, detail := mkWord [(0, 12, slot), (16, 10, held)] }

/-- Joins are admitted in order while free pages less their own are at least HEADROOM; the first that cannot be
admitted defers itself and all after it (R732). -/
def joinLoop : List KvAsk → Nat → State → State × List KvAsk
  | [], _, s => (s, [])
  | j :: rest, x, s =>
    let v := (s.ctx x).kv
    if v.headroom + j.pages ≤ v.free then joinLoop rest x (s.takeSlot x j.slot j.pages j.by_)
    else (s, j :: rest)

/-- Step 8 of R56 for one context: leaves, then grows, then joins (R731, R732). -/
def State.kvAdmit (s : State) (x : Nat) : State :=
  let v := (s.ctx x).kv
  if !v.configured then s
  else
    let s := forL v.leaves (fun a s =>
      (s.updCtx x fun c => { c with kv := { c.kv with slots := c.kv.slots.drop a.slot } }).commandDone a.by_ (some x)) s
    let r := v.grows.foldl (fun (acc : State × List KvAsk) a =>
      let s := acc.1
      if a.pages ≤ (s.ctx x).kv.free && ((s.ctx x).kv.slots.find a.slot).isSome then (s.takeSlot x a.slot a.pages a.by_, acc.2)
      else (s.raise {
        code := Rec.kvGrowRefused, cls := .ce, ctx := some x,
        a := BitVec.ofNat 64 a.slot, b := BitVec.ofNat 64 a.pages }, acc.2 ++ [a])) (s, [])
    let j := joinLoop v.joins x r.1
    j.1.updCtx x fun c => { c with kv := { c.kv with
      leaves := [], grows := r.2, joins := j.2, shown := { c.kv with grows := r.2, joins := j.2 }.status } }

end Sys2Proof.Machine
end

