-- ==== Sys2Proof/Machine/Units.lean ====
section
/-! DEFINITION. Machine/Units.lean: fences of units and contexts, the unit contract's commands, and the status word
(R19 to R42, R384 to R388, R678 to R680, R839, R840). -/
namespace Sys2Proof.Machine

/-! ### What a unit holds -/

/-- The cores that a unit contains. -/
def coresUnder (u : UnitId) : List Nat := match u with
  | .module => List.range 512
  | .die n => (List.range 64).map (64 * n + ·)
  | .region n => (List.range 16).map (16 * n + ·)
  | .cluster n => (List.range 4).map (4 * n + ·)
  | .core n => [n]
  | _ => []

def caddiesUnder (u : UnitId) : List Nat := match u with
  | .module => List.range 4
  | .caddy n => [n]
  | _ => []

def linksUnder (u : UnitId) : List Nat := match u with
  | .module => List.range 48
  | .iod n => (List.range 24).map (24 * n + ·)
  | .link n => [n]
  | _ => []

/-- A core has an operation outstanding; a pour counts (R35). -/
def Core.outstanding (c : Core) : Bool := c.tile.isSome || c.pour.isSome || c.vrun.isSome || c.xfer.isSome

/-- Steep counter at the start of the oldest operation of a core. -/
def Core.since (c : Core) (now : Nat) : Nat :=
  ((c.tile.map (·.begun)).toList ++ (c.pour.map (·.begun)).toList ++ (c.vrun.map (·.taken)).toList ++ (c.xfer.map (·.taken)).toList).foldl min now

/-- Contexts with granules that the mirror engine still has to send again or to have sent back (R643, R644). -/
def State.mirrorWork (s : State) : List Nat := (List.range 8).filter fun x =>
  let m := (s.ctx x).job.mirror
  !(m.resend.isEmpty && m.repairDue.isEmpty)

/-- Contexts of the work of the collective, infuser and mirror engines. DESIGN CHOICE: the spec does not say which I/O die
runs an operation of these engines, and the model takes each for work of both dies and of the module (log 74). -/
def State.sharedWork (s : State) : List (Option Nat) :=
  (s.fabric.ops.map fun o => some o.ctx) ++ (s.loads.map fun l => some l.ctx) ++ s.mirrorWork.map some

/-- Checks of the strainer that a core's tile and pour still have open, each with its context and the steep it was opened
in (R179). -/
def Core.checks (c : Core) : List (Option Nat × Nat) :=
  (match c.tile with | some t => if t.started then [(t.ctx, t.passAt)] else [] | none => []) ++ (c.pour.map fun p => (p.ctx, p.begun)).toList

/-- The tile and the pour of a core are gone, their checks with them: the work they belonged to is failed work (R40, R598). -/
def State.closeChecks (s : State) (c : Core) : State := forL c.checks (fun e s => s.checkClose e.1 e.2) s

/-- Operations outstanding in a unit, with their contexts (R35, R680). -/
def State.outstanding (s : State) (u : UnitId) : List (Option Nat) :=
  let ofCore (k : Nat) : List (Option Nat) :=
    let c := s.core k
    (c.tile.map (·.ctx)).toList ++ (c.pour.map (·.ctx)).toList ++ (c.vrun.map (·.ctx)).toList ++ (c.xfer.map (·.ctx)).toList
  let ofCaddy (k : Nat) : List (Option Nat) := (s.caddy k).jobs.map fun j => some j.ctx
  let ofLink (l : Nat) : List (Option Nat) := (s.link l).inflight.map (·.ctx)
  let shared : List (Option Nat) := match u with
    | .module => s.sharedWork
    | .iod _ => s.sharedWork
    | _ => []
  (coresUnder u).flatMap ofCore ++ (caddiesUnder u).flatMap ofCaddy ++ (linksUnder u).flatMap ofLink ++ shared

/-! ### Error mode (R36, R40, R42, R208, R678) -/

/-- The operations of a core end with FENCED_ABORT: both sets go to EMPTY, a chain is lost, and the epoch is failed work.
Commands of the core stream that no lane has taken are refused with UNIT_FENCED (R34). With a context given, only work of
that context ends. DESIGN CHOICE: a pour that stops has written none of its pass; the spec leaves to the moment how much is
written (R208, log 82). -/
def State.abortCore (s : State) (only : Option Nat) (k : Nat) : State :=
  let c := s.core k
  let ctxs := ((c.tile.map (·.ctx)).toList ++ (c.pour.map (·.ctx)).toList ++ (c.vrun.map (·.ctx)).toList ++
    (c.xfer.map (·.ctx)).toList ++ (c.chain.map (·.ctx)).toList ++ c.work.map (·.ctx))
  let mine := match only with
    | none => true
    | some x => ctxs.contains (some x)
  if !mine then s
  else
    let s := (s.setCore k { c.clearSets with vrun := none, xfer := none, work := [] }).closeChecks c
    let s := if !c.outstanding then s
      else forL (ctxs.filterMap id).eraseDups (fun x s => (s.failOnCore k (some x) St.fencedAbort).taintFrom x (c.since s.now)) s
    forL c.work (fun w s => s.failWork w St.unitFenced) s

/-- Jobs of a caddy end; the contexts' updates cannot be prepared. -/
def State.abortCaddy (s : State) (c : Nat) : State :=
  let xs := (s.caddy c).jobs.map fun j => (j.ctx, j.slot, j.started)
  let s := s.updCaddy c fun d => { d with jobs := [], hand := none }
  forL xs (fun p s => ((s.failSlot p.1 p.2.1 St.fencedAbort).updUpd p.1 fun u => { u with bad := true }).taintFrom p.1 p.2.2) s

/-- Packets under way on a fenced link leave by another port, or are released (R492, R678). -/
def State.abortLink (s : State) (l : Nat) : State :=
  let lost := (s.link l).inflight
  forL lost (fun t s => (s.resend l t).1) (s.updLink l fun k => { k with inflight := [], frames := [] })

/-- Collective operations of the contexts that pass `f` end with FENCED_ABORT. -/
def State.abortColls (s : State) (f : Nat → Bool) : State :=
  forL (s.fabric.ops.filter fun o => f o.ctx) (fun o s =>
    ((s.endColl o).failSlot o.ctx o.slot St.fencedAbort).taintFrom o.ctx o.started) s

/-- Loads of the contexts that pass `f` end with FENCED_ABORT. -/
def State.abortLoads (s : State) (f : Nat → Bool) : State :=
  let s := forL (s.loads.filter fun l => f l.ctx) (fun l s => (s.failSlot l.ctx l.slot St.fencedAbort).taintFrom l.ctx l.started) s
  { s with loads := s.loads.filter fun l => !f l.ctx }

/-- Mirror work of the contexts that pass `f` ends: their steps in progress fail. -/
def State.abortMirror (s : State) (f : Nat → Bool) : State :=
  forL (s.mirrorWork.filter f) (fun x s =>
    let s := forL (s.ctx x).job.steps (fun t s => s.failStep x t.step CauseOf.local_ s.now) s
    (s.updJob x fun j => { j with mirror := { j.mirror with resend := [], repairDue := [], repaired := [], fullDue := true } }).taint x) s

/-- The work of the shared engines of the contexts that pass `f`. -/
def State.abortShared (s : State) (f : Nat → Bool) : State := ((s.abortColls f).abortLoads f).abortMirror f

/-- The work of one of them, by the engine codes of R683. -/
def State.abortEngine (s : State) (engine : Nat) : State :=
  if engine = 5 then s.abortColls fun _ => true
  else if engine = 6 then s.abortLoads fun _ => true
  else if engine = 7 then s.abortMirror fun _ => true
  else s

/-- The infuser's queues are reset with it (R333, R358). -/
def State.resetInfuserQueues (s : State) : State :=
  forN 32 (fun i s => (s.resetQueue 0 (0x190 + i)).resetQueue 1 (0x190 + i)) s

/-- Every outstanding operation of a unit ends with FENCED_ABORT. -/
def State.terminate (s : State) (u : UnitId) : State :=
  let s := forL (coresUnder u) (fun k s => s.abortCore none k) s
  let s := forL (caddiesUnder u) (fun c s => if (s.caddy c).jobs.isEmpty then s else s.abortCaddy c) s
  let s := forL (linksUnder u) (fun l s => if (s.link l).inflight.isEmpty then s else s.abortLink l) s
  match u with
  | .module => s.abortShared fun _ => true
  | .iod _ => s.abortShared fun _ => true
  | _ => s

/-- Applies a fence of the unit's own (R34 to R36). The unit is FENCED when
FENCE_DRAIN_COMPLETE or FENCE_TERMINATIONS_DONE says so. -/
def State.fence (s : State) (u : UnitId) (m : FenceMode) : State :=
  let s := s.setUnit u { s.unit u with fence := some m, fencedAt := s.now, complete := false, escalated := false }
  if m == .err then s.terminate u else s

/-- A running stream of a slot ends with a status, and its step fails (R402, R603). -/
def State.failStream (s : State) (x slot status : Nat) : State :=
  match ((s.ctx x).slot slot).streams with
  | t :: _ => (s.endStream x slot status).failStep x t.step CauseOf.stream s.now
  | [] => s

/-- A context is fenced in error mode (R36, R64, R409): its operations everywhere end, its running slices end with
FENCED_ABORT unless a command of theirs has ended with an error status before (R402), streams that have not started stay queued, and saved open chains are lost (R208). -/
def State.fenceCtx (s : State) (x : Nat) : State :=
  let c := s.ctx x
  if c.state == .free || c.state == .fenced then s
  else
    let s := s.setCtx x { c with
      state := .fenced, terminating := true, fencedAt := s.now, pendingEnable := none, due := none, disableBy := none
      images := c.images.map fun (e : Nat × Image) => (e.1, { e.2 with acc := none })
      models := c.models.map fun (e : Nat × Model) => (e.1, { e.2 with passes := [] }) }
    let s := forL (coresOf c.dieMask) (fun k s => s.abortCore (some x) k) s
    let s := (s.abortShared fun y => y == x)
    let s := forL (s.caddies.flatMap fun (e : Nat × Caddy) => e.2.jobs.filter fun j => j.ctx == x) (fun j s => s.taintFrom x j.started) s
    let drop (d : Caddy) : Caddy :=
      let left := d.jobs.filter fun j => j.ctx ≠ x
      { d with jobs := left, hand := d.hand.filter fun h => left.any fun j => j.id == h }
    let s := ({ s with caddies := s.caddies.map fun (e : Nat × Caddy) => (e.1, drop e.2) }).discardShadow x 0
    forN 16 (fun slot s => match ((s.ctx x).slot slot).streams with
      | t :: _ => if t.running.isSome then (s.failStream x slot (t.failed.getD St.fencedAbort)).updStream x slot fun t => { t with todo := [] } else s
      | [] => s) s

/-! ### Events of a fence (R35 to R38) -/

/-- FENCE_DRAIN_COMPLETE (R35, R386): nothing is outstanding any more. -/
def execFenceDrainComplete (u : UnitId) (s : State) : Host.Outcome State Fault Refusal :=
  let f := s.unit u
  if !(f.fence == some .drain) || f.complete || !(s.outstanding u).isEmpty then .next s
  else
    let s := s.setUnit u { f with complete := true, disableBy := none }
    match f.disableBy with
    | some by_ => .next (s.commandDone by_ none)
    | none => .next s

/-- FENCE_TERMINATIONS_DONE (R36): the last termination has been written. -/
def execFenceTerminationsDone (u : UnitId) (s : State) : Host.Outcome State Fault Refusal :=
  match u with
  | .ctx x => if (s.ctx x).state == .fenced then .next (s.updCtx x fun c => { c with terminating := false }) else .next s
  | _ =>
    let f := s.unit u
    if !(f.fence == some .err) || f.complete || s.faults.rungs.any (fun r => covers r.unit u) then .next s
    else
      let s := s.setUnit u { f with complete := true, disableBy := none }
      match f.disableBy with
      | some by_ => .next (s.commandDone by_ none)
      | none => .next s

/-- FENCE_ESCALATED (R37): a drain that has not finished 2 steeps after the fence changes to error mode. -/
def execFenceEscalated (u : UnitId) (s : State) : Host.Outcome State Fault Refusal :=
  let f := s.unit u
  if !(f.fence == some .drain) || f.complete || s.now < f.fencedAt + 2 then .next s
  else
    let s := s.setUnit u { f with fence := some .err, fencedAt := s.now, escalated := true }
    .next ((s.terminate u).raise { code := Rec.fenceEscalated, cls := .ce, unit := u })

/-! ### The unit contract (R384 to R387, R839, R840) -/

/-- State of a unit as its commands see it. -/
inductive UState where
  | active
  | draining
  | fenced
  | resetting
  | outOfService
  | above
deriving DecidableEq, Repr

/-- A reset rung covers the unit. -/
def State.resetting (s : State) (u : UnitId) : Bool :=
  s.faults.moduleReset.isSome || s.faults.rungs.any fun r => covers r.unit u && r.engine = 0

def State.ustate (s : State) (u : UnitId) : UState :=
  if s.faults.outOfService || s.trust.stage = 0xFE then .outOfService
  else if s.resetting u then .resetting
  else if (s.unit u).fence.isSome then (if (s.unit u).complete then .fenced else .draining)
  else if s.fencedUnit u then .above
  else .active

/-- A unit fenced through one above it still drains: that fence is not complete, and work of this unit is outstanding
(R20, R35, R36). -/
def State.drainsUnder (s : State) (u : UnitId) : Bool :=
  (upward u).any (fun v => (s.unit v).fence.isSome && !(s.unit v).complete) && !(s.outstanding u).isEmpty

/-- The mode of the fences that cover a unit: error when one of them is in error mode (R20, R32). -/
def State.coverMode (s : State) (u : UnitId) : Nat :=
  let fs := (upward u).map fun v => (s.unit v).fence
  if fs.contains (some .err) then 2 else if fs.contains (some .drain) then 1 else 0

/-- UNIT_FENCE (R839). -/
def execUnitFence (r : Req) (s : State) : Host.Outcome State Fault Refusal :=
  .next (s.kettle r 0x0003 false anyClass fun k s =>
    let m : FenceMode := if bitAt (k.arg 0) 0 then .err else .drain
    let f := s.unit k.unit
    if k.args.length ≠ 1 || fld (k.arg 0) 63 1 ≠ 0 then done s St.reserved
    else match s.ustate k.unit with
      | .outOfService => done s St.outOfService
      | .active => done (s.fence k.unit m) St.ok
      | .above => done (s.fence k.unit m) St.ok
      | .draining => if f.fence == some .drain && m == .err then
          done ((s.setUnit k.unit { f with fence := some .err, fencedAt := s.now }).terminate k.unit) St.ok
        else done s St.noEffect
      | .fenced => done s St.noEffect
      | .resetting => done s St.noEffect)

/-- UNIT_ENABLE and UNIT_RELEASE of a context (R387, R388). -/
def State.enableCtx (s : State) (k : KReq) (x : Nat) : KResult :=
  let c := s.ctx x
  let held := s.members.votedOut && (c.job.member || c.job.spare)
  let set (s : State) : KResult := done (s.updCtx x fun c => { c with pendingEnable := some k.ref }) St.pending
  if held && c.state != .free then done s St.votedOut
  else match c.state with
    | .free => done s St.badContext
    | .active => done s St.noEffect
    | .stopped => match c.due with
      | some (.enable _) => done s St.noEffect
      | _ => done (s.updCtx x fun c => { c with due := some (.enable k.ref) }) St.accepted
    | .draining => if c.pendingEnable.isSome then done s St.noEffect else set s
    | .fenced =>
      if c.pendingEnable.isSome then done s St.noEffect
      else match c.due with
        | some (.enable _) => done s St.noEffect
        | some (.disable _) => set s
        | none => if c.terminating then set s
          else done (s.updCtx x fun c => { c with due := some (.enable k.ref) }) St.accepted

/-- UNIT_DISABLE of a context (R387). -/
def State.disableCtx (s : State) (k : KReq) (x : Nat) : KResult :=
  let c := s.ctx x
  match c.state with
  | .free => done s St.badContext
  | .stopped => match c.due with
    | some (.enable _) => done (s.updCtx x fun c => { c with due := none }) St.ok
    | _ => done s St.noEffect
  | .active => done (s.updCtx x fun c => { c with state := .draining, disableBy := some k.ref }) St.accepted
  | .draining => if c.pendingEnable.isSome then done (s.updCtx x fun c => { c with pendingEnable := none }) St.ok else done s St.noEffect
  | .fenced => match c.due with
    | some (.disable _) => done s St.noEffect
    | _ => done (s.updCtx x fun c => { c with due := some (.disable k.ref), pendingEnable := none }) St.accepted

/-- UNIT_ENABLE acts for engines by class Any; for links, caddies and contexts it is Admin (R382). -/
def enableClass : UnitId → Bool
  | .link _ => true
  | .caddy _ => true
  | .ctx _ => true
  | _ => false

/-- UNIT_ENABLE (R384, R387). -/
def execUnitEnable (r : Req) (s : State) : Host.Outcome State Fault Refusal :=
  .next (s.kettle r 0x0005 true enableClass fun k s =>
    let f := s.unit k.unit
    let hold (s : State) : KResult :=
      if f.pendingEnable.isSome then done s St.noEffect
      else done (s.setUnit k.unit { f with pendingEnable := some { by_ := some k.ref, enable := true } }) St.pending
    if !k.args.isEmpty then done s St.reserved
    else match k.unit with
      | .ctx x => s.enableCtx k x
      | u => match s.ustate u with
        | .outOfService => done s St.outOfService
        | .active => done s St.noEffect
        | .above => done s St.unitFenced
        | .draining => hold s
        | .resetting => hold s
        | .fenced => if f.accepted.isSome || f.pendingEnable.isSome then done s St.noEffect
          else done (s.setUnit u { f with accepted := some { by_ := some k.ref, enable := true } }) St.accepted)

/-- UNIT_RELEASE (R840). -/
def execUnitRelease (r : Req) (s : State) : Host.Outcome State Fault Refusal :=
  .next (s.kettle r 0x0004 true anyClass fun k s =>
    let f := s.unit k.unit
    let hold (s : State) : KResult :=
      if f.shutdown || f.pendingEnable.isSome then done s St.noEffect
      else done (s.setUnit k.unit { f with pendingEnable := some { by_ := some k.ref, enable := false } }) St.pending
    if !k.args.isEmpty then done s St.reserved
    else match k.unit with
      | .ctx x => if (s.ctx x).state == .fenced then s.enableCtx k x else done s St.noEffect
      | u => match s.ustate u with
        | .outOfService => done s St.outOfService
        | .active => done s St.noEffect
        | .above => done s St.unitFenced
        | .draining => hold s
        | .resetting => hold s
        | .fenced => if f.shutdown || f.accepted.isSome || f.pendingEnable.isSome then done s St.noEffect
          else done (s.setUnit u { f with accepted := some { by_ := some k.ref, enable := false } }) St.accepted)

/-- UNIT_DISABLE (R386, R387). -/
def execUnitDisable (r : Req) (s : State) : Host.Outcome State Fault Refusal :=
  .next (s.kettle r 0x0006 true enableClass fun k s =>
    let f := s.unit k.unit
    if !k.args.isEmpty then done s St.reserved
    else match k.unit with
      | .ctx x => s.disableCtx k x
      | u => match s.ustate u with
        | .outOfService => done s St.outOfService
        | .active =>
          let s := s.fence u .drain
          done (s.setUnit u { s.unit u with shutdown := true, disableBy := some k.ref }) St.accepted
        | .above =>
          let s := s.fence u .drain
          done (s.setUnit u { s.unit u with shutdown := true }) St.ok
        | .draining =>
          if f.pendingEnable.isSome then done (s.setUnit u { f with pendingEnable := none, shutdown := true }) St.ok
          else if f.shutdown then done s St.noEffect
          else done (s.setUnit u { f with shutdown := true }) St.ok
        | .resetting =>
          done (s.setUnit u { f with pendingEnable := none, shutdown := true, fence := some (f.fence.getD .err) }) St.ok
        | .fenced =>
          if !f.shutdown then done (s.setUnit u { f with shutdown := true, accepted := none, pendingEnable := none }) St.ok
          else if f.accepted.isSome || f.pendingEnable.isSome then done (s.setUnit u { f with accepted := none, pendingEnable := none }) St.ok
          else done s St.noEffect)

/-- At step 9 of a boundary accepted and pending enables and releases take effect, and fences held only after a reset
rung go (R384, R385, R685, R840). -/
def State.releaseUnit (s : State) (u : UnitId) : State :=
  let f := s.unit u
  let by_ := f.accepted.or (if f.complete || f.fence.isNone then f.pendingEnable else none)
  if (f.fence.isSome && !f.complete) || s.resetting u then s
  else match by_ with
    | some a =>
      let s := s.setUnit u {}
      (match a.by_ with | some c => s.commandDone c none | none => s)
    | none => if f.fence.isSome && f.afterReset && !f.shutdown then s.setUnit u {} else s

/-! ### The status word (R21, R32, R33) -/

def levelCode : UnitId → Nat
  | .module => 2
  | .die _ => 3
  | .region _ => 4
  | .cluster _ => 5
  | .core _ => 6
  | .iod _ => 7
  | .caddy _ => 7
  | .link _ => 7
  | .ctx _ => 9

/-- STATE of a unit's word; a voted-out module shows FENCED (R629). -/
def State.stateCode (s : State) (u : UnitId) : Nat :=
  if s.trust.stage ≠ 0x0F && s.trust.stage ≠ 0xFE then 3
  else match s.ustate u with
    | .active => if u == .module && s.members.votedOut then 2 else 0
    | .draining => 1
    | .fenced => 2
    | .above => if s.drainsUnder u then 1 else 2
    | .resetting => 3
    | .outOfService => 4

/-- UC records of the unit's stream that are open (R21, R32). -/
def State.ucOpen (s : State) (u : UnitId) : Nat :=
  (s.faults.records.filter fun r => r.cls == .uc && r.clearedAt.isNone && (hopsOf u).isPrefixOf r.path).length

/-- Health score of a unit: 0 until the first score after a reset of the module, or of a unit that contains this one
(R33, R632, R633). -/
def State.healthOf (s : State) (u : UnitId) : Nat :=
  if s.members.health = 0 || (u != .module && s.members.unscored.any fun v => covers v u) then 0
  else if u == .module then s.members.health else scoreOf (s.penaltiesOf u)

/-- The status word of a unit. -/
def State.statusWord (s : State) (u : UnitId) : W64 :=
  let f := s.unit u
  let ce := (s.faults.ceLog.filter fun e => s.now < e.1 + 64 && (hopsOf u).isPrefixOf e.2.2).length
  let ctxs := (s.outstanding u).filterMap id
  let mask := (List.range 8).foldl (fun n x => if ctxs.contains x then n + 2 ^ x else n) 0
  mkWord [(0, 8, s.healthOf u), (8, 3, s.stateCode u), (11, 1, b2n f.pendingEnable.isSome),
    (12, 1, b2n (u == .module && s.members.watch)), (16, 4, levelCode u),
    (20, 2, s.coverMode u),
    (24, 8, satN 8 (s.ucOpen u)), (32, 8, mask), (40, 8, satN 8 ce), (48, 16, s.now)]

/-- UNIT_QUERY (R32, R382). -/
def execUnitQuery (r : Req) (s : State) : Host.Outcome State Fault Refusal :=
  .next (s.kettle r 0x0002 false anyClass fun k s =>
    if !k.args.isEmpty then done s St.reserved
    else (s, some (St.ok, [s.statusWord k.unit])))

end Sys2Proof.Machine
end

