-- ==== Sys2Proof/Machine/Ladder.lean ====
section
/-! DEFINITION. Machine/Ladder.lean: the reset ladder, its escalation, watchdogs, test blends and margins (R38, R671,
R681 to R700). -/
namespace Sys2Proof.Machine

/-! ### The Module rung and what leaves before it (R42, R678, R685, R688) -/

/-- The reply packet to a request that another module sent on. -/
def State.sendReply (s : State) (mb : Nat) (a : Nat × List W64) : State :=
  s.injectDn 0x07 7 (remoteDn mb) none 0 (mkWord [(0, 8, 2), (16, 16, a.1), (32, 32, remoteFan mb)] :: a.2)

/-- Packets that wait leave on their links while credits last: the links fall quiet before the module resets (R685). -/
def State.sendOut (s : State) : State :=
  forL (List.range 48) (fun l s => if (s.link l).state == .trained then forN s.fabric.waiting.length (fun _ s => after (execPacketSend l s) s) s else s) s

/-- The Module rung (R42, R684, R685): an error-mode fence of the module, unless one stands, ends its operations; the warm module
reset follows. -/
def State.moduleRung (s : State) (service : Bool) : State :=
  (if (s.unit .module).fence == some .err then s else s.fence .module .err).warmReset service

/-- The answer that leaves before the module resets (R688). -/
def State.answerNow (s : State) (k : KReq) (st : Nat) : State :=
  if 256 ≤ k.mb then (s.sendReply k.mb (st, [])).sendOut else s.complete k.mb k.code k.tag st []

/-- The warm module reset that follows an FA record (R662, R693). -/
def execFaWarmReset (s : State) : Host.Outcome State Fault Refusal :=
  if s.faults.faDue then .next (s.moduleRung false) else .next s

/-! ### Rungs (R684 to R688) -/

/-- Rung code of the level of a unit; a link's rung has none (R684, R688). -/
def rungOf : UnitId → Nat
  | .core _ => 2
  | .cluster _ => 3
  | .region _ => 4
  | .die _ => 5
  | .caddy _ => 7
  | .link _ => 0
  | _ => 6

/-- Where a rung stands in the order of precedence (R704). -/
def rungRank (code : Nat) : Nat := if code = 6 then 7 else if code = 5 then 6 else if code = 7 then 5 else code

/-- The unit and the rung above a rung (R686): Core above a core's engines, Module above an I/O die's. -/
def rungAbove (u : UnitId) (code : Nat) : UnitId × Nat :=
  match u with
  | .core n => if code = 1 then (.core n, 2) else (.cluster (n / 4), 3)
  | .cluster n => (.region (n / 4), 4)
  | .region n => (.die (n / 4), 5)
  | .link n => (.link n, 0)
  | _ => (.module, 6)

/-- One rung up where the count at a rung has reached its limit (R690); `fuel` bounds the climb. -/
def State.escalated (s : State) : Nat → UnitId → Nat → Nat → Bool → UnitId × Nat × Nat × Bool
  | 0, u, code, engine, e => (u, code, engine, e)
  | fuel + 1, u, code, engine, e =>
    if code = 0 || code = 6 || s.resetCount u (rungKey code engine) < s.faults.limits.getD (code - 1) 0 then (u, code, engine, e)
    else
      let up := rungAbove u code
      s.escalated fuel up.1 up.2 0 true

/-- The fence that a reset applies to a unit that holds none, which goes at step 9 of the next boundary (R42, R685). -/
def State.fenceForReset (s : State) (u : UnitId) : State :=
  let s := s.fence u .err
  s.setUnit u { s.unit u with afterReset := true }

/-- What a rung does to its domain when it starts (R36, R42, R685): the error-mode fence ends its operations; an engine's
rung ends that engine's operation alone. -/
def State.enterRung (s : State) (u : UnitId) (code engine : Nat) : State :=
  match u, code with
  | .core k, 1 =>
    let c := s.core k
    let whole := c
    let x := if engine = 1 then (c.tile.bind (·.ctx)).or (c.pour.bind (·.ctx)) else if engine = 2 then c.vrun.bind (·.ctx) else c.xfer.bind (·.ctx)
    let keep (tile : Bool) (ws : List Work) : List Work := ws.filter fun w => w.phase == .waiting || Cmd.isTile w.cmd != tile
    let c := if engine = 1 then { c.clearSets with work := keep true c.work }
      else if engine = 2 then { c with vrun := none, work := keep false c.work } else { c with xfer := none, work := keep false c.work }
    let s := if engine = 1 then (s.setCore k c).closeChecks whole else s.setCore k c
    (match x with | some y => (s.failOnCore k (some y) St.fencedAbort).taintFrom y (whole.since s.now) | none => s)
  | _, 1 => if engine = 6 then s.abortEngine engine |>.resetInfuserQueues else s.abortEngine engine
  | _, _ =>
    let s := if (s.unit u).fence.isSome then (s.setUnit u { s.unit u with fence := some .err }).terminate u else s.fenceForReset u
    match u with
    | .link l => (forN 8 (fun vc s => s.resetQueue (linkQueue l vc).1 (linkQueue l vc).2) s).linkDown l
    | _ => s

/-- The requests that wait for a rung's RESET_DONE. -/
def Rung.askers (r : Rung) : List CmdRef := r.requester.toList ++ r.joined

/-- Starts a reset of a unit (R671, R684 to R690). A rung at least as high that covers the unit absorbs it, and reports to its
requester as well; a lower one in progress is abandoned, and the new rung reports to those that asked for it. The Module rung
is the warm module reset. -/
def State.startRung (s : State) (u : UnitId) (code engine : Nat) (by_ : Option CmdRef) (ctx : Option Nat) (esc : Bool) : State :=
  let g := s.escalated 8 u code engine esc
  let u := g.1
  let code := g.2.1
  let engine := g.2.2.1
  let absorbs (r : Rung) : Bool := covers r.unit u && rungRank code ≤ rungRank r.code && (r.engine = engine || r.code ≠ 1)
  if s.faults.rungs.any absorbs then
    { s with faults := { s.faults with rungs := s.faults.rungs.map fun r => if absorbs r then { r with joined := r.joined ++ by_.toList } else r } }
  else if code = 6 then s.moduleRung false
  else
    let rungs := s.faults.rungs.filter fun r => !(covers u r.unit)
    let old := s.faults.rungs.filter fun r => covers u r.unit
    let new : Rung := {
      unit := u, code := code, engine := engine, started := s.now, requester := by_, joined := old.flatMap Rung.askers
      ctx := ctx.or (old.findSome? fun r => r.ctx), escalated := g.2.2.2 }
    let f := { s.faults with
      rungs := rungs ++ [new]
      counts := s.faults.counts ++ [(u, rungKey code engine, s.seconds)] }
    { s with faults := f }.enterRung u code engine

/-- The reset of the domain itself (R208, R243, R684, R815): sets and vector state of its cores; its regions lose their
throttles at step 7 of the next boundary (R835). Core stores keep their contents and check bits. -/
def State.resetDomain (s : State) (u : UnitId) (code : Nat) : State :=
  if code < 2 || code = 7 then s
  else
    let s := forL (coresUnder u) (fun k s => if (s.cores.find k).isNone then s else s.updCore k fun c => { c.clearSets with vec := {}, vrun := none, xfer := none, work := [] }) s
    let regions : List Nat := match u with
      | .region g => [g]
      | .die d => (List.range 4).map (4 * d + ·)
      | _ => []
    let back (e : Nat × Region) : Nat × Region := if regions.contains e.1 then (e.1, { e.2 with restoreDue := true }) else e
    let p := { s.power with regions := s.power.regions.map back }
    { s with power := p }

/-- RESET_RUNG_COMPLETE (R685, R703): quiescence, reset and self-check are done; the domain stays FENCED until step 9 of
the next boundary. -/
def execResetRungComplete (u : UnitId) (engine us : Nat) (s : State) : Host.Outcome State Fault Refusal :=
  match s.faults.rungs.find? fun r => r.unit == u && r.engine == engine with
  | none => .next s
  | some r =>
    let s := { s with faults := { s.faults with
      rungs := s.faults.rungs.filter fun q => !(q.unit == u && q.engine == engine), resets := satN 32 (s.faults.resets + 1) } }
    let s := s.resetDomain u r.code
    let s := if r.code = 1 then s else { s with members := { s.members with unscored := u :: s.members.unscored.filter fun v => v != u } }
    let f := s.unit u
    let s := if f.fence.isSome && r.code ≠ 1 then
        (let s := s.setUnit u { f with complete := true, disableBy := none }
         match f.disableBy with | some by_ => s.commandDone by_ none | none => s)
      else s
    let e : Event := { kind := 0x0401, detail := mkWord [(0, 4, r.code), (4, 1, b2n r.escalated), (32, 32, us)] }
    let s := forL r.askers (fun c s => s.cmdEvent c none e) s
    match r.ctx with
    | some x => .next (s.event x e)
    | none => .next s

/-- RESET_TIMEOUT (R686): the rung has not finished within its timeout; the next rung up starts at once. A link's never
escalates. -/
def execResetTimeout (u : UnitId) (engine : Nat) (s : State) : Host.Outcome State Fault Refusal :=
  match s.faults.rungs.find? fun r => r.unit == u && r.engine == engine with
  | none => .next s
  | some r =>
    let s := { s with faults := { s.faults with
      rungs := s.faults.rungs.filter fun q => !(q.unit == u && q.engine == engine), timeouts := satN 16 (s.faults.timeouts + 1) } }
    let s := s.raise { code := Rec.resetTimeout, cls := .ce, unit := u, ctx := r.ctx, a := BitVec.ofNat 64 r.code }
    if r.code = 0 then .next s
    else
      let up := rungAbove u r.code
      let s := s.startRung up.1 up.2 0 r.requester r.ctx true
      .next { s with faults := { s.faults with
        rungs := s.faults.rungs.map fun q => if covers q.unit up.1 then { q with joined := q.joined ++ r.joined } else q } }

/-- FENCE_RESET_DUE (R38): an error-mode fence of the unit, or of the context whose work it runs, has not reached FENCED
by the next boundary. The request for a context's fence joins a rung that is in progress on the unit, be it of one of its
engines (R671 and the worked example after R693). -/
def execFenceResetDue (u : UnitId) (s : State) : Host.Outcome State Fault Refusal :=
  let f := s.unit u
  let late := f.fence == some .err && !f.complete && f.fencedAt < s.now
  let ofCtx := (List.range 8).find? fun x =>
    let c := s.ctx x
    c.state == .fenced && c.terminating && c.fencedAt < s.now && (coresUnder u).any fun k => Nat.testBit c.dieMask (k / 64)
  if u == .module && !late then .next s
  else if !late && (ofCtx.isNone || s.faults.rungs.any fun r => covers r.unit u) then .next s
  else .next (s.startRung u (rungOf u) 0 none ofCtx false)

/-- UNIT_RESET (R688). The completion of the Module rung is written before the reset starts. -/
def execUnitReset (r : Req) (s : State) : Host.Outcome State Fault Refusal :=
  .next (s.kettle r 0x0007 false anyClass fun k s =>
    if !k.args.isEmpty then done s St.reserved
    else if rungOf k.unit = 6 then
      ((s.answerNow k St.ok).moduleRung false, none)
    else done (s.startRung k.unit (rungOf k.unit) 0 (some k.ref) none false) St.accepted)

/-- SERVICE_RESTORE (R691, R692). -/
def execServiceRestore (r : Req) (s : State) : Host.Outcome State Fault Refusal :=
  .next (s.kettle r 0x0404 false adminClass fun k s =>
    if !k.args.isEmpty then done s St.reserved
    else ((s.answerNow k St.ok).moduleRung true, none))

/-! ### Watchdogs (R681 to R683) -/

/-- Work that an engine holds: its context, its steep of start, OPCODE and OP_REF (R677, R681). -/
def State.engineWork (s : State) (u : UnitId) (engine : Nat) : Option (Option Nat × Nat × Nat × Nat) :=
  match u with
  | .core k =>
    let c := s.core k
    if engine = 1 then (match c.tile, c.pour with
      | some t, _ => some (t.ctx, t.begun, Cmd.op t.cmd, fld (t.cmd.getD 0 0#64) 63 32)
      | none, some p => some (p.ctx, p.started, Cmd.op p.cmd, fld (p.cmd.getD 0 0#64) 63 32)
      | none, none => none)
    else if engine = 2 then c.vrun.map fun v => (v.ctx, v.taken, 0x18, fld (v.cmd.getD 0 0#64) 63 32)
    else if engine = 3 then c.xfer.map fun x => (x.ctx, x.taken, Cmd.op x.cmd, s.streamIdOf k x.ctx)
    else none
  | .caddy c =>
    if engine ≠ 4 then none
    else match (s.caddy c).hand.bind fun h => (s.caddy c).jobs.find? fun j => j.id == h with
      | some j => some (some j.ctx, j.started, Cmd.op j.cmd, fld (j.cmd.getD 0 0#64) 63 32)
      | none => none
  | .iod _ =>
    if engine = 5 then (s.fabric.ops.head?).map fun o => (some o.ctx, o.started, Cmd.op o.cmd, fld (o.cmd.getD 0 0#64) 63 32)
    else if engine = 6 then (s.loads.head?).map fun l => (some l.ctx, l.started, 0x60, l.loadId)
    else if engine = 7 then ((List.range 8).find? fun x => (s.ctx x).job.mirror.state = 1).map fun x => (some x, 0, 0, 0)
    else if engine = 8 then some (none, 0, 0, 0)
    else none
  | _ => none

/-- Fabric packets that stand in the receive queues of one I/O die for the engine of a KIND, as the SEQ of the oldest of each
queue. -/
def State.enginePackets (s : State) (die kind : Nat) : List Nat :=
  ((kindQueues kind).filter fun q => q.1 = die).filterMap fun q => (s.delivered q.1 q.2).map fun k => 4096 * k.seq + q.2

/-- What an engine that holds work shows of its progress (R681), or none while it waits, which counts as progress (R682): an
engine whose receive queues hold no packet waits for a peer. The queue engine shows its operations, and the kettle (engine 9 here)
the requests that it has completed. -/
def State.progressSign (s : State) (u : UnitId) (engine : Nat) : Option (List Nat) :=
  let packets (die : Nat) (kinds : List Nat) : Option (List Nat) := let l := kinds.flatMap (s.enginePackets die); if l.isEmpty then none else some l
  match u with
  | .core k =>
    let c := s.core k
    if engine = 1 then (match c.tile, c.pour with
      | some t, p =>
        if t.stalled || (!t.started && p.isNone) then none
        else some [b2n t.started, t.pass, t.repeats, (p.map fun q => q.pass + 1).getD 0, (p.map fun q => q.repeats).getD 0]
      | none, some p => some [2, p.pass, p.repeats, p.tick]
      | none, none => none)
    else if engine = 2 then c.vrun.map fun v => [v.iter, v.pc]
    else c.xfer.map fun x => [x.taken, x.tick]
  | .caddy c =>
    let d := s.caddy c
    some [d.hand.getD 0, d.tiles, ((d.hand.bind fun h => d.jobs.find? fun j => j.id == h).map fun j => j.next).getD 0]
  | .iod n =>
    if engine = 5 then packets n [1, 2]
    else if engine = 6 then packets n [3]
    else if engine = 7 then packets n [4]
    else if engine = 8 then some [(s.pool n).queues.foldl (fun b e => b + e.2.seqNext + e.2.base + e.2.cursor + e.2.offset + e.2.badPackets) 0]
    else some [(List.range 32).foldl (fun b m => b + (s.queue 0 (0x101 + 2 * m)).seqNext) 0]
  | _ => none

/-- The engines of the module, with the engine codes of R683 and 9 for the kettle. -/
def State.engines (s : State) : List (UnitId × Nat) :=
  (s.cores.flatMap fun (e : Nat × Core) => [(.core e.1, 1), (.core e.1, 2), (.core e.1, 3)]) ++ (List.range 4).map (fun c => (.caddy c, 4)) ++
  (List.range 2).flatMap (fun n => [(.iod n, 5), (.iod n, 6), (.iod n, 7), (.iod n, 8)]) ++ [(.iod 0, 9)]

/-- At step 1 of R56 each watchdog counts the steep that has ended, when its engine held work and made no progress (R681, R682). -/
def State.countWatch (s : State) : State :=
  let dog (e : UnitId × Nat) : Option WatchDog :=
    if e.2 ≠ 9 && (s.engineWork e.1 e.2).isNone then none
    else
      let idle (g : List Nat) : Nat := match s.faults.watch.find? fun w => w.unit == e.1 && w.engine == e.2 with
        | some w => if w.sign == g then w.idle + 1 else 0
        | none => 0
      match s.progressSign e.1 e.2 with
      | some g => some { unit := e.1, engine := e.2, sign := g, idle := idle g }
      | none => some { unit := e.1, engine := e.2, sign := [] }
  { s with faults := { s.faults with watch := s.engines.filterMap dog } }

/-- Steeps in a row in which an engine has held work and made no progress, as the last boundary counted them (R681, R682). -/
def State.idleSteeps (s : State) (u : UnitId) (engine : Nat) : Nat :=
  match s.faults.watch.find? fun w => w.unit == u && w.engine == engine with
  | some w => w.idle
  | none => 0

/-- WATCHDOG_EXPIRY (R681 to R683): the limit-th steep without progress has ended. The record, the context fenced in error mode, and
the first rung. The queue engine's is FA, and the warm module reset of R662 follows it. -/
def execWatchdogExpiry (u : UnitId) (engine : Nat) (s : State) : Host.Outcome State Fault Refusal :=
  let idle := s.idleSteeps u engine
  match s.engineWork u engine with
  | none => .next s
  | some w =>
    if idle < (if engine = 8 then 1 else 2) then .next s
    else
      let core := match u with | .core k => k | _ => 0
      let log := mkWord [(0, 9, core), (10, 1, b2n w.1.isSome), (11, 3, w.1.getD 0), (24, 8, engine), (32, 32, s.now)]
      let s := { s with faults := { s.faults with watchdogLog := log, watch := s.faults.watch.filter fun d => !(d.unit == u && d.engine == engine) } }
      let s := match w.1 with | some x => s.fenceCtx x | none => s
      let s := s.raise {
        code := Rec.watchdog, cls := if engine = 8 then .fa else .uc, unit := u, ctx := w.1, opcode := w.2.2.1, opRef := w.2.2.2
        a := mkWord [(0, 8, engine), (8, 8, satN 8 idle)] }
      if engine = 8 then .next s
      else if engine = 4 then .next (s.startRung u 7 0 none w.1 false)
      else .next (s.startRung u 1 engine none w.1 false)

/-- KETTLE_WATCHDOG_EXPIRY (R681): 2 steeps without a sign of the kettle. FA; the warm module reset follows (R662). -/
def execKettleWatchdogExpiry (s : State) : Host.Outcome State Fault Refusal :=
  if s.idleSteeps (.iod 0) 9 < 2 then .next s else .next (s.raise { code := Rec.kettleWatchdog, cls := .fa })

/-! ### Test blends (R694 to R698) -/

/-- Cuts the words of a blend into `n` items (R694); none when they run over. -/
def blendItems : Nat → List W64 → Option (List BlendItem)
  | 0, _ => some []
  | _ + 1, [] => none
  | n + 1, w :: ws =>
    let p := fld w 15 8
    if ws.length < p then none
    else (blendItems n (ws.drop p)).map fun r => { kind := fld w 7 0, params := ws.take p, repeats := fld w 31 16, expect_ := fld w 63 32 } :: r

/-- Parameter words of an item kind (R695); none for a reserved kind. -/
def blendParams (kind : Nat) : Option Nat :=
  if kind = 1 then some 9 else if kind = 2 then some 1 else if kind = 3 then some 6 else if kind = 4 then some 1
  else if kind = 5 then some 1 else if kind = 6 then some 2 else if kind = 7 then some 1 else none

/-- The blend that words spell, or none where R694 or R695 is broken. -/
def blendOf (ws : List W64) (bytes : Nat) : Option Blend :=
  let w0 := ws.getD 0 0#64
  let w1 := ws.getD 1 0#64
  let w2 := ws.getD 2 0#64
  let n := fld w0 63 48
  if ws.length < 3 || n = 0 || 1024 < n || fld w1 31 0 ≠ bytes || 0x4000000 < bytes || fld w1 47 32 = 0 || fld w1 63 48 ≠ 0 ||
     fld w2 63 32 ≠ 0 || bytes < fld w2 31 0 then none
  else match blendItems n (ws.drop 3) with
    | none => none
    | some items =>
      if items.all (fun i => blendParams i.kind == some i.params.length && (i.kind = 1 || i.kind = 3 || i.kind = 6 || i.expect_ = 0)) then
        some { id := fld w0 31 0, version := fld w0 47 32, steepsMax := fld w1 47 32, items := items, state := 1 }
      else none

/-- BLEND_LOAD (R694, R701, R702, R741): the blend is copied into the firmware area, verified, and measured into slot 8.
`Config.blendSigned` says whether the signature verifies. -/
def execBlendLoad (r : Req) (host : HostRead) (s : State) : Host.Outcome State Fault Refusal :=
  .next (s.kettle r 0x0410 false adminClass fun k s =>
    let addr := (k.arg 1).toNat
    let n := (k.arg 2).toNat
    let load (s : State) (ws : List W64) : KResult :=
      let bs := (ws.flatMap wordBytes).take n
      match blendOf ws n with
      | none => done s St.blendFormat
      | some b =>
        if !Config.blendSigned bs then done s St.blendSignature
        else
          let old := s.faults.blend
          let b := { b with ranAt := old.ranAt, lastFailed := old.lastFailed, passedSinceExpulsion := old.passedSinceExpulsion }
          let s := s.storeTier (firmwareBase / 8) ws
          let s := { s with faults := { s.faults with blend := b }, trust := s.trust.extend 8 (sha512 bs) }
          done s St.ok
    if k.args.length ≠ 3 || fld (k.arg 0) 63 1 ≠ 0 then done s St.reserved
    else if s.faults.blend.state = 2 then done s St.blendBusy
    else if bitAt (k.arg 0) 0 then
      (if spanOk addr n then load (s.noteBytes addr n none 0x0410 0) (s.mem.space.words (addr / 8) (cdiv n 8)) else done s St.memoryRange)
    else s.dma k host addr false (load s))

/-- The compute dies that belong to no context (R696). -/
def State.idleDies (s : State) : List Nat := (List.range 8).filter s.dieIdle

/-- BLEND_RUN (R697, R698, R702). -/
def execBlendRun (r : Req) (s : State) : Host.Outcome State Fault Refusal :=
  .next (s.kettle r 0x0411 false adminClass fun k s =>
    let b := s.faults.blend
    if !k.args.isEmpty then done s St.reserved
    else if b.state = 0 then done s St.noBlend
    else if b.state = 2 then done s St.blendBusy
    else done { s with faults := { s.faults with blend := { b with
      state := 2, item := 0, startedAt := s.now, idle := s.idleDies, by_ := some k.ref, abortDue := false, passed := 0, failed := 0, skipped := 0,
      covered := [], doneUnits := [], full := false, result := 0 } } } St.accepted)

/-- BLEND_ABORT (R698): the blend stops at the next boundary. -/
def execBlendAbort (r : Req) (s : State) : Host.Outcome State Fault Refusal :=
  .next (s.kettle r 0x0412 false adminClass fun k s =>
    let b := s.faults.blend
    if !k.args.isEmpty then done s St.reserved
    else if b.state ≠ 2 then done s St.noEffect
    else done { s with faults := { s.faults with blend := { b with abortDue := true } } } St.accepted)

/-- The units that an item kind runs on (R695): cores, stacks and packages as their die and caddy, caddies, links. -/
def itemUnits (i : BlendItem) : List UnitId :=
  if i.kind ≤ 3 then (List.range 512).map .core
  else if i.kind = 4 then (List.range 8).map UnitId.die ++ (List.range 4).map .caddy
  else if i.kind = 5 then
    let m := (i.params.getD 0 0#64).toNat
    let places := (List.range 40).filter fun p => Nat.testBit m p
    (places.map placeUnit).eraseDups
  else if i.kind = 6 then (List.range 4).map .caddy
  else (List.range 48).map .link

/-- The parts that an item covers where it runs on a unit (R695, R697), numbered as Blend.covered numbers them: a memory item the
stacks of its die or the packages of its caddy, an ECC item those that it names, and a compute die by its core stores. -/
def coverOf (i : BlendItem) (u : UnitId) : List Nat :=
  let places (p : Nat) : Bool := i.kind = 4 || Nat.testBit (i.params.getD 0 0#64).toNat p
  match u with
  | .core k => [k / 64]
  | .die d => ([2 * d, 2 * d + 1].filter places).map (8 + ·) ++ (if i.kind = 5 && places (24 + d) then [d] else [])
  | .caddy c => if i.kind = 6 then [32 + c] else ([16 + 2 * c, 17 + 2 * c].filter places).map (8 + ·)
  | .link l => if i.kind = 7 then [36 + l] else []
  | _ => []

/-- BLEND_DONE, and what the outcome sets (R631, R632, R697, R703); the score is formed at once (R633). -/
def State.endBlend (s : State) (aborted : Bool) : State :=
  let b := s.faults.blend
  let full := !aborted && (List.range 84).all fun p => b.covered.contains p
  let failed := 0 < b.failed
  let pass := !aborted && !failed
  let c := { b with
    state := 1, full := full, result := if aborted then 3 else if failed then 2 else 1
    ranAt := if pass then some s.seconds else b.ranAt, lastFailed := if aborted then b.lastFailed else failed
    passedSinceExpulsion := b.passedSinceExpulsion || (pass && full && s.members.votedOut), by_ := none }
  let s := { s with faults := { s.faults with blend := c } }
  let e : Event := { kind := 0x0402, detail := mkWord [(0, 16, b.passed), (16, 16, b.failed), (32, 16, b.skipped), (48, 1, b2n full), (49, 1, b2n aborted)] }
  (match b.by_ with | some r => s.cmdEvent r none e | none => s).formScore

/-- The unit has completed or skipped the item; when every unit has, the next item begins, and after the last the blend
ends. -/
def State.nextItem (s : State) (u : UnitId) : State :=
  let b := s.faults.blend
  match b.items[b.item]? with
  | none => s
  | some i =>
    let got := addOnceU b.doneUnits u
    if (itemUnits i).all (fun v => got.contains v) then
      let s := { s with faults := { s.faults with blend := { b with item := b.item + 1, doneUnits := [] } } }
      if b.item + 1 < b.items.length then s else s.endBlend false
    else { s with faults := { s.faults with blend := { b with doneUnits := got } } }
where addOnceU (l : List UnitId) (u : UnitId) : List UnitId := if l.contains u then l else l ++ [u]

/-- The item in progress runs on this unit and has not ended there. -/
def State.itemOpen (s : State) (u : UnitId) : Bool :=
  let b := s.faults.blend
  b.state = 2 && (match b.items[b.item]? with
    | some i => (itemUnits i).contains u && !(b.doneUnits.contains u)
    | none => false)

/-- A unit is idle for an item (R695, R696): a core whose die belongs to no context, the memory outside every window, an ECC item
with no context resident, a caddy with no section issued, a link that carries no packet and is not FAR. -/
def State.idleFor (s : State) (i : BlendItem) (u : UnitId) : Bool :=
  if i.kind = 4 then true
  else if i.kind = 5 then (List.range 8).all fun x => (s.ctx x).state == .free
  else match u with
    | .core k => s.dieIdle (k / 64)
    | .caddy c => (s.caddy c).jobs.isEmpty && (s.caddy c).issuedAt != some s.now
    | .link l => (s.link l).state != .far && (s.link l).inflight.isEmpty
    | _ => true

/-- The item in progress runs on this unit, has not ended there, and finds it idle (`idle`) or busy. -/
def State.itemOn (s : State) (u : UnitId) (idle : Bool) : Bool :=
  s.itemOpen u && (match s.faults.blend.items[s.faults.blend.item]? with
    | some i => s.idleFor i u == idle
    | none => false)

/-- The item is SKIPPED for a unit (R697). -/
def State.skipItem (s : State) (u : UnitId) : State :=
  let b := s.faults.blend
  ({ s with faults := { s.faults with blend := { b with skipped := b.skipped + 1 } } } : State).nextItem u

/-- A boundary at which a context takes a die stops blend work there, and the item is SKIPPED for its cores (R696). -/
def State.skipTaken (s : State) : State :=
  let now := s.idleDies
  let taken := s.faults.blend.idle.filter fun d => !now.contains d
  if s.faults.blend.state ≠ 2 then s
  else
    let item := s.faults.blend.item
    let s := forL (coresOf (mkMask taken)) (fun k s => if s.faults.blend.item = item && s.itemOpen (.core k) then s.skipItem (.core k) else s) s
    { s with faults := { s.faults with blend := { s.faults.blend with idle := now } } }
where mkMask (ds : List Nat) : Nat := ds.foldl (fun m d => m + 2 ^ d) 0

/-- BLEND_ITEM_COMPLETE (R695, R697): every repetition of the item has run on the unit; `pass` says whether its pass
condition held in all of them. A busy unit runs no item. -/
def execBlendItemComplete (u : UnitId) (pass : Bool) (s : State) : Host.Outcome State Fault Refusal :=
  if !s.itemOn u true then .next s
  else
    let b := s.faults.blend
    let c := { b with
      passed := b.passed + b2n pass, failed := b.failed + b2n (!pass)
      covered := match b.items[b.item]? with
        | some i => (b.covered ++ coverOf i u).eraseDups
        | none => b.covered }
    let s := { s with faults := { s.faults with blend := c } }
    let s := if pass then s else s.raise { code := Rec.blendFail, cls := .uc, unit := u, a := BitVec.ofNat 64 b.item }
    .next (s.nextItem u)

/-- BLEND_ITEM_SKIP (R697): the unit has stayed busy until STEEPS_MAX steeps after BLEND_RUN. -/
def execBlendItemSkip (u : UnitId) (s : State) : Host.Outcome State Fault Refusal :=
  let b := s.faults.blend
  if !s.itemOn u false || s.now < b.startedAt + b.steepsMax then .next s else .next (s.skipItem u)

/-! ### Margins (R699, R700) -/

/-- MARGIN_LOW (R700): at most once per unit per 64 steeps. -/
def execMarginLow (u : UnitId) (s : State) : Host.Outcome State Fault Refusal :=
  let low := match u with
    | .region g => (s.faults.marginG.find g).isSome && ((s.marginG g).voltage < 15 || (s.marginG g).timing < 32)
    | .link l => (s.faults.marginL.find l).isSome && (s.faults.marginL.get {} l).optical < 15
    | _ => false
  let key := match u with | .region g => g | .link l => 32 + l | _ => 80
  if !low then .next s
  else .next (s.raiseLimited (Rec.marginLow, key) 64 { code := Rec.marginLow, cls := .ce, unit := u, ownLimit := true })

/-- MARGIN_CRITICAL (R700): the region's clock is lowered at step 7 of the next boundary. -/
def execMarginCritical (region : Nat) (s : State) : Host.Outcome State Fault Refusal :=
  let m := s.marginG region
  if 32 ≤ region || (s.faults.marginG.find region).isNone || !(m.voltage < 5 || m.timing < 8) then .next s
  else
    let r := s.region region
    let s := { s with power := { s.power with regions := s.power.regions.set region { r with marginDue := r.marginDue + 1 } } }
    .next (s.raise { code := Rec.marginCritical, cls := .uc, unit := .region region })

end Sys2Proof.Machine
end

