-- ==== Sys2Proof/Machine/Power.lean ====
section
/-! DEFINITION. Machine/Power.lean: input power, samples and energy, region clocks and throttles, power states
(R77, R797 to R823, R832). Clocks are in units of 12.5 MHz, so 100 MHz is 8 and 0.8 GHz is 64. -/
namespace Sys2Proof.Machine

def State.updRegion (s : State) (g : Nat) (f : Region → Region) : State :=
  { s with power := { s.power with regions := s.power.regions.set g (f (s.region g)) } }

/-! ### The grid, supplies and clocks (R809 to R812, R818) -/

/-- Column and row of a region (R811). -/
def gridOf (g : Nat) : Nat × Nat := (2 * (g / 4 % 4) + g % 4 % 2, 2 * (g / 4 / 4) + g % 4 / 2)

/-- Adjacent regions (R811). -/
def adjacentTo (g : Nat) : List Nat :=
  let a := gridOf g
  (List.range 32).filter fun h =>
    let b := gridOf h
    (a.1 = b.1 && (a.2 = b.2 + 1 || b.2 = a.2 + 1)) || (a.2 = b.2 && (a.1 = b.1 + 1 || b.1 = a.1 + 1))

/-- Supply of a region at a clock, in mV (R810). -/
def supplyOf (g q : Nat) : Nat := max 650 (min 950 (Config.leastVoltage g q + 30))

/-- The clock of region g breaks R812 against an adjacent region that is slower. -/
def tooFast (c : List Nat) (g : Nat) : Bool :=
  64 < c.getD g 128 && (adjacentTo g).any fun h =>
    c.getD h 128 + 32 < c.getD g 128 ||
    (c.getD h 128 < c.getD g 128 && supplyOf h (c.getD h 128) + 80 < supplyOf g (c.getD g 128))

/-- Lowers in steps of 100 MHz until R812 holds (R818). -/
def spread : Nat → List Nat → List Nat
  | 0, c => c
  | fuel + 1, c =>
    let d := (List.range 32).map fun g => if tooFast c g then max 64 (c.getD g 128 - 8) else c.getD g 128
    if d = c then c else spread fuel d

/-- Clock of a region under its throttles other than ADJACENT (R809). -/
def Region.base (r : Region) : Nat := max 64 (r.set_ - 8 * (r.thermal + r.tempDiff + r.power + r.margin))

/-- Effective clocks and supplies from the set clocks and the throttles that stand (R809, R810, R818); a region newly
lowered for its neighbours is recorded once per 64 steeps (R815, R816). -/
def State.settleClocks (s : State) : State :=
  let c := spread 300 ((List.range 32).map fun g => (s.region g).base)
  forN 32 (fun g s =>
    let r := s.region g
    let q := c.getD g 128
    let adj := cdiv (r.base - q) 8
    let s := s.updRegion g fun r => { r with eff := q, volt := supplyOf g q, adjacent := adj }
    if r.adjacent < adj then
      { s with power := { s.power with evAdjacent := satN 16 (s.power.evAdjacent + (adj - r.adjacent)) } }.raiseLimited (Rec.regionThrottle, g) 64 {
        code := Rec.regionThrottle, cls := .ce, unit := .region g, ownLimit := true }
    else s) s

/-- A running slice has outlived its steep on a die (R63, R813). -/
def State.dieLate (s : State) (d : Nat) : Bool :=
  (List.range 8).any fun x => Nat.testBit (s.ctx x).dieMask d && (s.ctx x).slots.any fun e =>
    match e.2.streams with
    | t :: _ => t.running.isSome
    | [] => false

/-- New set clocks (R813, R814): a region whose slice overruns waits. -/
def State.applySets (s : State) : State :=
  let go (s : State) (e : List Nat × Nat × CmdRef) : State :=
    let left := e.1.filter fun g => s.dieLate (g / 4)
    let s := forL (e.1.filter fun g => !(s.dieLate (g / 4))) (fun g s => s.updRegion g fun r => { r with set_ := e.2.1, margin := 0, marginDue := 0 }) s
    if left.isEmpty then s.commandDone e.2.2 none
    else { s with power := { s.power with sets := s.power.sets ++ [(left, e.2.1, e.2.2)] } }
  s.power.sets.foldl go { s with power := { s.power with sets := [] } }

/-- A region that has been reset loses its throttles (R684, R815). -/
def State.applyRestores (s : State) : State :=
  let back (r : Region) : Region := if r.restoreDue then { eff := r.eff, set_ := r.set_, volt := r.volt, adjacent := r.adjacent } else r
  { s with power := { s.power with regions := s.power.regions.map fun (e : Nat × Region) => (e.1, back e.2) } }

/-- One more step of a throttle, where the clock is not at its floor. -/
def Region.step (r : Region) (f : Region → Region) : Region := if 64 < r.base then f r else r

/-- THERMAL, TEMP_DIFF and MARGIN at a boundary (R700, R815). -/
def State.thermalSteps (s : State) : State :=
  let temp (g : Nat) : Int := (s.marginG g).temp
  let seen (g : Nat) : Bool := (s.faults.marginG.find g).isSome
  forN 32 (fun g s =>
    let hot := seen g && 1520 < temp g
    let gap := seen g && (adjacentTo g).any fun h => seen h && temp h + 240 < temp g
    let near := (adjacentTo g).all fun h => !(seen h) || temp g ≤ temp h + 192
    let r := s.region g
    let r1 := { r with cool := if temp g < 1440 then r.cool + 1 else 0, calm := if near then r.calm + 1 else 0 }
    let r2 := if hot then r1.step fun r => { r with thermal := r.thermal + 1 } else r1
    let r3 := if gap then r2.step fun r => { r with tempDiff := r.tempDiff + 1 } else r2
    let r4 := { (if 0 < r3.marginDue then r3.step fun q => { q with margin := q.margin + r3.marginDue } else r3) with marginDue := 0 }
    let steps := (r4.thermal - r.thermal) + (r4.tempDiff - r.tempDiff)
    let s := s.updRegion g fun _ => r4
    let p := { s.power with evThermal := satN 16 (s.power.evThermal + steps), warn := s.power.warn || hot }
    let s := { s with power := p, host := { s.host with alertThermal := s.host.alertThermal || hot } }
    let s := if hot then s.raiseLimited (Rec.thermalWarn, g) 64 { code := Rec.thermalWarn, cls := .ce, unit := .region g, ownLimit := true } else s
    if gap then s.raiseLimited (Rec.regionThrottle, g) 64 { code := Rec.regionThrottle, cls := .ce, unit := .region g, ownLimit := true } else s) s

/-- POWER at a boundary (R801): `e` is the energy of the closed steep in µJ, `q` its period. -/
def State.powerSteps (s : State) (e q : Nat) : State :=
  let span := 250 * q
  let lim := s.trust.powerLimit
  let top := (List.range 32).foldl (fun m g => max m (s.region g).eff) 0
  let beyond := lim * span < e
  let s := if !beyond then s else
    forN 32 (fun g s =>
      if (s.region g).eff = top && 64 < top then
        let s := s.updRegion g fun r => { r with power := r.power + 1 }
        { s with power := { s.power with evPower := satN 16 (s.power.evPower + 1) } }
      else s) s
  let s := { s with power := { s.power with below := if 100 * e ≤ 95 * lim * span then s.power.below + 1 else 0 } }
  if beyond || s.power.regions.any (fun r => 0 < r.2.power) then
    s.raiseLimited (Rec.powerCap, 0) 64 { code := Rec.powerCap, cls := .ce, ownLimit := true }
  else s

/-- The clock and power work of step 7 of a boundary (R801, R802, R804, R814), after a steep of period `q`. A return
from M1 or M2 starts the memories' training (R323). -/
def State.clockChange (s : State) (q : Nat) : State :=
  let p := s.power
  let e := p.lastEnergy
  let back := !p.moving && p.target = 0 && (p.state = 1 || p.state = 2)
  let s := { s with
    power := { p with peakGate := false, evPeak := satN 16 (p.evPeak + b2n p.peakGate), moving := p.moving || p.state ≠ p.target }
    mem := if back then s.mem.train (3 - p.state) else s.mem }
  ((s.applyRestores.applySets.thermalSteps).powerSteps e q).settleClocks

/-- The meter of a steep that closes (R800). -/
def State.closeMeter (s : State) : State :=
  let e := s.steep.metered
  { s with
    power := { s.power with lastEnergy := e, lastSteep := s.now, avgW := satN 16 (e / (250 * s.steep.currentQ)) }
    steep := { s.steep with metered := 0, charged := [], idleEnergy := 0 } }

/-! ### Samples (R77, R664, R699, R800, R802) -/

/-- Charge of one context for a sample of e µJ (R77), with the weights of the table in half watts. -/
def State.chargeOf (s : State) (p : PowerSample) (e x : Nat) : Nat :=
  let cyc := max 1 p.cycles
  let dies := (List.range 8).filter fun d => s.dieCtx d == some x
  let weight (part : Nat) : Nat := if part < 20 then 64 else 15
  let shared : Nat := (p.held.filter fun h => h.2.1 == x && h.1 < 68).foldl (fun n h => n + weight h.1 * min h.2.2 cyc) 0
  e * (95 * 4 * dies.length * cyc + shared) / (6000 * cyc)

/-- A sample's region readings: temperature, supply, and the least margins of the window. -/
def Margin.take (m : Margin) (v : Int × Nat × Int × Nat) : Margin :=
  { temp := v.1, volt := v.2.1, voltage := if m.fresh then v.2.2.1 else min m.voltage v.2.2.1,
    timing := if m.fresh then v.2.2.2 else min m.timing v.2.2.2, fresh := false }

def LinkMargin.take (m : LinkMargin) (v : Nat × Int × Int) : LinkMargin :=
  if m.fresh || v.2.2 < m.optical then { worstWave := v.1, rxPower := v.2.1, optical := v.2.2, fresh := false }
  else { m with fresh := false }

/-- POWER_SAMPLE (R77, R800, R802). -/
def execPowerSample (p : PowerSample) (s : State) : Host.Outcome State Fault Refusal :=
  if s.power.off then .next s
  else
    let raw := s.steep.energyFraction + p.mv * p.ma
    let e := raw / 100000
    let w := p.mv * p.ma / 1000000
    let charges := (List.range 8).map fun x => (x, s.chargeOf p e x)
    let sum : Nat := charges.foldl (fun n c => n + c.2) 0
    let st := s.steep
    let steep := { st with
      metered := st.metered + e, energyFraction := raw % 100000, idleEnergy := st.idleEnergy + (e - sum)
      charged := charges.foldl (fun t c => if c.2 = 0 then t else t.set c.1 (t.get 0 c.1 + c.2)) st.charged }
    let marginG := ((List.range 32).zip p.regions).foldl (fun t (v : Nat × (Int × Nat × Int × Nat)) => t.set v.1 ((t.get {} v.1).take v.2)) s.faults.marginG
    let marginL := ((List.range 48).zip p.optics).foldl (fun t (v : Nat × (Nat × Int × Int)) => t.set v.1 ((t.get {} v.1).take v.2)) s.faults.marginL
    let samples := ((List.range 6).zip p.others).foldl (fun t (v : Nat × (Int × Nat)) => t.set v.1 v.2) s.faults.samples
    let stackTemps := ((List.range 16).zip p.stackTemps).foldl (fun t (v : Nat × Int) => t.set v.1 v.2) s.power.stackTemps
    let s := { s with
      steep := steep
      faults := { s.faults with marginG := marginG, marginL := marginL, samples := samples }
      power := { s.power with
        volts := satN 16 (p.mv / 10), sampleW := satN 16 w, inlet := p.inlet, outlet := p.outlet, stackTemps := stackTemps
        sag := s.power.sag && p.mv < 44000, peakGate := s.power.peakGate || 3600 < w } }
    .next (if 3600 < w then s.raise { code := Rec.powerPeak, cls := .ce } else s)

/-! ### Releases and junctions (R801, R815, R817, R822) -/

/-- THERMAL_RELEASE (R815): one step per boundary, of THERMAL after 64 steeps below 90 °C and of TEMP_DIFF after 64
steeps at 12 °C or less. -/
def execThermalRelease (region : Nat) (s : State) : Host.Outcome State Fault Refusal :=
  let r := s.region region
  let t := 0 < r.thermal && 64 < r.cool
  let d := 0 < r.tempDiff && 64 < r.calm
  if 32 ≤ region || s.now ≤ r.released || !(t || d) then .next s
  else
    let q := { r with thermal := r.thermal - b2n t, tempDiff := r.tempDiff - b2n d, released := s.now }
    .next (s.updRegion region fun _ => q).settleClocks

/-- POWER_CAP_RELEASE (R801): one step of 100 MHz per boundary, region by region in the order of R806. -/
def execPowerCapRelease (s : State) : Host.Outcome State Fault Refusal :=
  match (List.range 32).find? fun g => 0 < (s.region g).power with
  | none => .next s
  | some g =>
    if s.power.below < 64 || s.now ≤ s.power.capReleased then .next s
    else
      let s := s.updRegion g fun r => { r with power := r.power - 1 }
      .next ({ s with power := { s.power with capReleased := s.now } }).settleClocks

/-- JUNCTION_CRITICAL (R817): the region drops to 0.8 GHz and every adjacent region to 1.2 GHz or less, in one action,
without a boundary. -/
def execJunctionCritical (region : Nat) (s : State) : Host.Outcome State Fault Refusal :=
  if 32 ≤ region || (s.faults.marginG.find region).isNone || (s.marginG region).temp < 1680 then .next s
  else
    let r := s.region region
    let n := cdiv (r.set_ - 64) 8
    let s := s.updRegion region fun r => { r with thermal := max r.thermal n }
    let s := { s with
      power := { s.power with critical := true, evThermal := satN 16 (s.power.evThermal + (n - r.thermal)) }
      host := { s.host with alertThermal := true } }
    .next (s.settleClocks.raise { code := Rec.thermalCritical, cls := .uc, unit := .region region })

/-- JUNCTION_TRIP (R817): FA; the warm module reset of R662 follows. -/
def execJunctionTrip (region : Nat) (s : State) : Host.Outcome State Fault Refusal :=
  if 32 ≤ region || (s.faults.marginG.find region).isNone || (s.marginG region).temp < 1840 then .next s
  else
    let s := { s with power := { s.power with tripSeen := true, tripHold := true }, host := { s.host with alertThermal := true } }
    .next (s.raise { code := Rec.thermalTrip, cls := .fa, unit := .region region })

/-- COOLANT_HOT (R822). -/
def execCoolantHot (s : State) : Host.Outcome State Fault Refusal :=
  if s.power.inlet ≤ 720 then .next s
  else .next (s.raiseLimited (Rec.coolantHot, 0) 64 { code := Rec.coolantHot, cls := .ce, ownLimit := true })

/-! ### Input and clock (R797, R798, R806 to R808) -/

/-- The converters turn off (R797, R798, R807): nothing but the flash is kept, no record is written, and the next start
is a cold boot. -/
def State.powerOff (s : State) : State :=
  let s := s.coldReset
  { s with power := { s.power with off := true, pwrgd := false, cold := true, sag := false } }

/-- INPUT_POWER_RISE (R806): the rails come up in order, and MOD_PWRGD rises, with MOD_RESET_N low. -/
def execInputPowerRise (s : State) : Host.Outcome State Fault Refusal :=
  if !s.power.off || !s.host.resetHeld then .next s
  else .next { s with power := { s.power with off := false, pwrgd := true, cold := true } }

/-- INPUT_SAG (R797). -/
def execInputSag (s : State) : Host.Outcome State Fault Refusal := .next { s with power := { s.power with sag := !s.power.off } }

/-- INPUT_LOW (R798): more than 1 ms between 40 V and 44 V. -/
def execInputLow (s : State) : Host.Outcome State Fault Refusal :=
  if !s.power.sag then .next s
  else .next ({ s with power := { s.power with inputLow := true } }.raise { code := Rec.inputLow, cls := .uc })

/-- INPUT_SAG_TIMEOUT (R797): 10 ms between 40 V and 44 V. -/
def execInputSagTimeout (s : State) : Host.Outcome State Fault Refusal := if s.power.sag then .next s.powerOff else .next s
/-- INPUT_BELOW_40V (R797). -/
def execInputBelow40v (s : State) : Host.Outcome State Fault Refusal := .next s.powerOff
/-- INPUT_OVERVOLTAGE (R797). -/
def execInputOvervoltage (s : State) : Host.Outcome State Fault Refusal := .next s.powerOff

/-- INPUT_HIGH (R797): a CE record once per minute. -/
def execInputHigh (s : State) : Host.Outcome State Fault Refusal :=
  let due := match s.power.lastHigh with
    | some t => t + 60 ≤ s.seconds
    | none => true
  if s.power.off || !due then .next s
  else .next ({ s with power := { s.power with lastHigh := some s.seconds } }.raise { code := Rec.inputHigh, cls := .ce })

/-- RAIL_FAULT (R807). -/
def execRailFault (s : State) : Host.Outcome State Fault Refusal := .next s.powerOff

/-- REFCLK_LOSS (R808): held in reset as by MOD_RESET_N, which abandons an FLR; MOD_PWRGD stays high. -/
def execRefclkLoss (s : State) : Host.Outcome State Fault Refusal :=
  if s.power.off then .next s else .next { s with power := { s.power with refLost := true }, host := { s.host with flr := [] } }

/-- REFCLK_RETURN (R808): a warm module reset follows. -/
def execRefclkReturn (s : State) : Host.Outcome State Fault Refusal :=
  if !s.power.refLost then .next s
  else
    let s := { s with power := { s.power with refLost := false } }
    if s.host.resetHeld then .next s else .next s.bootUp

/-! ### Commands (R804, R805, R813, R832) -/

/-- REGION_SET (R812, R813, R832). -/
def execRegionSet (r : Req) (s : State) : Host.Outcome State Fault Refusal :=
  .next (s.kettle r 0x0700 false adminClass fun k s =>
    let mask := fld (k.arg 0) 31 0
    let q := fld (k.arg 1) 7 0
    let named := (List.range 32).filter fun g => Nat.testBit mask g
    let after (g : Nat) : Nat :=
      if named.contains g then q
      else match s.power.sets.reverse.find? fun e => e.1.contains g with
        | some e => e.2.1
        | none => (s.region g).set_
    let breaks := (List.range 32).any fun g => (adjacentTo g).any fun h =>
      after h + 32 < after g || supplyOf h (after h) + 80 < supplyOf g (after g)
    if k.args.length ≠ 2 || fld (k.arg 0) 63 32 ≠ 0 || mask = 0 || fld (k.arg 1) 63 8 ≠ 0 || q < 64 || 128 < q then done s St.reserved
    else if breaks then done s St.adjacency
    else done { s with power := { s.power with sets := s.power.sets ++ [(named, q, k.ref)] } } St.accepted)

/-- The condition of a transition (R804); none where the table lists no such transition. -/
def State.powerOk (s : State) (toward : Nat) : Bool :=
  let free := (List.range 8).all fun x => (s.ctx x).state == .free
  let parked := (List.range 8).all fun x => ((s.ctx x).state == .free || (s.ctx x).state == .stopped) && !((s.ctx x).slots.any fun e => e.2.streams.any fun t => t.running.isSome)
  match s.power.state, toward with
  | 0, 1 => parked
  | 1, 0 => true
  | 0, 2 => free
  | 1, 2 => free
  | 2, 0 => true
  | _, 3 => free
  | _, _ => false

/-- POWER_STATE (R804, R832). -/
def execPowerState (r : Req) (s : State) : Host.Outcome State Fault Refusal :=
  .next (s.kettle r 0x0701 false adminClass fun k s =>
    let toward := fld (k.arg 0) 1 0
    if k.args.length ≠ 1 || fld (k.arg 0) 63 2 ≠ 0 then done s St.reserved
    else if s.power.target ≠ s.power.state then done s St.stateBusy
    else if toward = s.power.state then done s St.noEffect
    else if !s.powerOk toward then done s St.stateBusy
    else done { s with power := { s.power with target := toward, stateBy := some k.ref } } St.accepted)

/-- POWER_STATE_DONE (R803 to R805): what the new state does not keep is lost. A
return to M0 is done when no memory is still training. -/
def execPowerStateDone (s : State) : Host.Outcome State Fault Refusal :=
  let p := s.power
  if !p.moving || p.target = p.state || (p.target = 0 && !s.mem.settled) then .next s
  else if p.target = 3 then
    let s := s.coldReset
    .next { s with power := { s.power with state := 3, target := 3, cold := true } }
  else
    let gate (e : Nat × Core) : Nat × Core := (e.1, { e.2.clearSets with store := {}, vec := {} })
    let s := if p.target = 0 then s else { s with cores := s.cores.map gate, mem := s.mem.coresGone }
    let forget (e : Nat × Ctx) : Nat × Ctx := (e.1, e.2.resetHistory)
    let s := if p.target = 2 then { s with mem := { s.mem with space := s.mem.space.slowOnly, injected := s.mem.injected.filter fun e => 16 ≤ e.1 }, ctxs := s.ctxs.map forget } else s
    let s := { s with power := { s.power with state := p.target, moving := false, stateBy := none } }
    match p.stateBy with
    | some by_ => .next (s.commandDone by_ none)
    | none => .next s

end Sys2Proof.Machine
end

