-- ==== Sys2Proof/Machine/Aes.lean ====
section
/-! DEFINITION. Machine/Aes.lean: AES-256, and its counter and Galois/counter modes, which R551 and R708 name.
PRESUMED: the algorithms are those of FIPS 197, SP 800-38A and SP 800-38D, which the spec names and does not
restate. -/
namespace Sys2Proof.Machine

/-- Times x in the field of AES. -/
def xtime (b : Nat) : Nat := if b < 128 then 2 * b else Nat.xor (2 * b - 256) 0x1B

/-- Product in the field of AES; the fuel counts the bits of the second factor. -/
def gfMul : Nat → Nat → Nat → Nat
  | 0, _, _ => 0
  | n + 1, a, b => Nat.xor (if b % 2 = 1 then a else 0) (gfMul n (xtime a) (b / 2))

/-- The inverse in the field of AES, as the 254th power. -/
def gfInv (a : Nat) : Nat :=
  let sq (x : Nat) : Nat := gfMul 8 x x
  let a2 := sq a
  let a3 := gfMul 8 a2 a
  let a12 := sq (sq a3)
  let a15 := gfMul 8 a12 a3
  let a240 := sq (sq (sq (sq a15)))
  let a14 := gfMul 8 a12 a2
  gfMul 8 a240 a14

/-- The substitution box of AES. -/
def sboxOf (a : Nat) : Nat :=
  let b := gfInv a
  let rot (k : Nat) : Nat := b * 2 ^ k % 256 + b / 2 ^ (8 - k)
  Nat.xor (Nat.xor (Nat.xor (Nat.xor (Nat.xor b (rot 1)) (rot 2)) (rot 3)) (rot 4)) 0x63

def sboxes : List Nat := (List.range 256).map sboxOf
def sbox (a : Nat) : Nat := sboxes.getD a 0

def xors (a b : List Nat) : List Nat := (a.zip b).map fun p => Nat.xor p.1 p.2

/-- The words of the key schedule, newest first, from the 8 of the key. -/
def aesExpand : Nat → Nat → List (List Nat) → List (List Nat)
  | 0, _, ws => ws
  | n + 1, i, ws =>
    let t := ws.headD []
    let rcon := (List.range (i / 8 - 1)).foldl (fun r _ => xtime r) 1
    let t := if i % 8 = 0 then xors ((t.drop 1 ++ t.take 1).map sbox) [rcon, 0, 0, 0]
      else if i % 8 = 4 then t.map sbox else t
    aesExpand n (i + 1) (xors (ws.getD 7 []) t :: ws)

/-- The 15 round keys of a 32-byte key. -/
def aesKeys (key : List Nat) : List (List Nat) :=
  chunksOf 16 ((aesExpand 52 8 (chunksOf 4 key).reverse).reverse.flatten)

def shiftRows (s : List Nat) : List Nat := (List.range 16).map fun i => s.getD ((i + 4 * (i % 4)) % 16) 0

def mixColumns (s : List Nat) : List Nat :=
  (List.range 16).map fun i =>
    let a (k : Nat) : Nat := s.getD (i / 4 * 4 + (i + k) % 4) 0
    Nat.xor (Nat.xor (xtime (a 0)) (Nat.xor (xtime (a 1)) (a 1))) (Nat.xor (a 2) (a 3))

/-- One block under the round keys. -/
def aesBlock (keys : List (List Nat)) (b : List Nat) : List Nat :=
  let s := xors b (keys.getD 0 [])
  let s := (List.range 13).foldl (fun s r => xors (mixColumns (shiftRows (s.map sbox))) (keys.getD (r + 1) [])) s
  xors (shiftRows (s.map sbox)) (keys.getD 14 [])

/-- The 16 bytes of a number, most significant first. -/
def be16 (v : Nat) : List Nat := (List.range 16).map fun i => v / 256 ^ (15 - i) % 256
def beOf (bs : List Nat) : Nat := bs.foldl (fun n b => 256 * n + b) 0

/-- Bytes under a key stream whose counter blocks `ctr i` are given. -/
def aesStream (keys : List (List Nat)) (ctr : Nat → List Nat) (bs : List Nat) : List Nat :=
  (chunksOf 16 bs).zipIdx.flatMap fun p => xors p.1 (aesBlock keys (ctr p.2))

/-- Product in the field of GHASH, bit 127 of a block first; the fuel counts bits. -/
def ghMul : Nat → Nat → Nat → Nat → Nat
  | 0, _, _, z => z
  | n + 1, x, v, z =>
    ghMul n x (if v % 2 = 1 then Nat.xor (v / 2) (0xE1 * 2 ^ 120) else v / 2) (if Nat.testBit x n then Nat.xor z v else z)

/-- GHASH of whole blocks. -/
def ghash (h : Nat) (blocks : List Nat) : Nat := blocks.foldl (fun y b => ghMul 128 (Nat.xor y b) h 0) 0

/-- The blocks of bytes, the last filled with zeros. -/
def blocksOf (bs : List Nat) : List Nat := (chunksOf 16 bs).map fun c => beOf (c ++ List.replicate (16 - c.length) 0)

/-- The tag over authenticated data and ciphertext under a 12-byte nonce. -/
def gcmTag (keys : List (List Nat)) (nonce aad ct : List Nat) : List Nat :=
  let h := beOf (aesBlock keys (List.replicate 16 0))
  let s := ghash h (blocksOf aad ++ blocksOf ct ++ [8 * aad.length * 2 ^ 64 + 8 * ct.length])
  xors (be16 s) (aesBlock keys (nonce ++ [0, 0, 0, 1]))

/-- The counter mode of GCM: the same on plaintext and ciphertext. -/
def gcmStream (keys : List (List Nat)) (nonce bs : List Nat) : List Nat :=
  let c0 := beOf (nonce ++ [0, 0, 0, 2])
  aesStream keys (fun i => be16 (c0 / 2 ^ 32 * 2 ^ 32 + (c0 + i) % 2 ^ 32)) bs

/-- Bytes of words, and words of bytes, as numbers. -/
def wordsNat (ws : List W64) : List Nat := (ws.flatMap wordBytes).map BitVec.toNat
def natWords (bs : List Nat) : List W64 := (chunksOf 8 bs).map fun c => bytesWord (c.map (BitVec.ofNat 8))

end Sys2Proof.Machine
end

