-- ==== Sys2Proof/Machine/Far.lean ====
section
/-! DEFINITION. Machine/Far.lean: far-link mode (R544 to R566): sealing of frames, the window, replay and restart, the
round trip, the key slots, and touch. -/
namespace Sys2Proof.Machine

def State.updFar (s : State) (link : Nat) (f : Far → Far) : State := s.updLink link fun l => { l with far := f l.far }

/-! ### Sealing (R548, R551, R552) -/

/-- The nonce of a frame, lowest bits in the first byte. -/
def farNonce (salt : Nat) (high ctrl : Bool) (count : Nat) : List Nat :=
  let v := salt % 2 ^ 32 * 2 ^ 64 + b2n high * 2 ^ 63 + b2n ctrl * 2 ^ 62 + count % 2 ^ 62
  (List.range 12).map fun i => v / 256 ^ i % 256

/-- This end has the higher site identifier. -/
def State.farHigh (s : State) (link : Nat) : Bool := decide ((s.link link).far.site < s.fabric.site)

def FarKey.keys (k : FarKey) : List (List Nat) := aesKeys (wordsNat k.key)

/-- Seals and sends a frame under the sending slot; nothing leaves without a key there. -/
def State.farEmit (s : State) (link : Nat) (h0 h1 : W64) (ctrl : Bool) (count : Nat) (payload : List W64) : State :=
  let f := (s.link link).far
  match f.keys.find f.sendSlot with
  | none => s
  | some k =>
    let h0 := BitVec.ofNat 64 (h0.toNat + 2 ^ 35 * f.sendSlot)
    let nonce := farNonce k.salt (s.farHigh link) ctrl count
    let ct := gcmStream k.keys nonce (wordsNat (pad32 payload))
    let tag := gcmTag k.keys nonce (wordsNat [h0, h1]) ct
    let s := s.updFar link fun f => { f with keys := f.keys.set f.sendSlot { k with sent := k.sent + 1 } }
    s.emit (.frame link ([h0, h1] ++ natWords (ct ++ tag)))

/-- The count nearest to another with these low 32 bits (R552). -/
def nearCount (ref low : Nat) : Nat :=
  let b := ref / 2 ^ 32 * 2 ^ 32 + low
  if b + 2 ^ 31 < ref then b + 2 ^ 32 else if ref + 2 ^ 31 < b && 2 ^ 32 ≤ b then b - 2 ^ 32 else b

def farH0 (f : FarFrame) : W64 := f.words.getD 0 0#64
def farH1 (f : FarFrame) : W64 := f.words.getD 1 0#64
def farCtrl (f : FarFrame) : Bool := bitAt (farH0 f) 32
def farKind (f : FarFrame) : Nat := fld (farH0 f) 55 48
def farSlot (f : FarFrame) : Nat := b2n (bitAt (farH0 f) 35)

/-- The count of a frame, from its low bits. -/
def Far.countOf (r : Far) (f : FarFrame) : Nat := if (farCtrl f) then nearCount r.rxCtl (fld (farH1 f) 31 0) else nearCount r.rxCount (fld (farH0 f) 31 0)

/-- Opens a frame: its payload, when its tag verifies under the slot that it names (R551, R553). -/
def State.farOpen (s : State) (link : Nat) (f : FarFrame) : Option (List W64) :=
  let r := (s.link link).far
  match r.keys.find (farSlot f) with
  | none => none
  | some k =>
    let nonce := farNonce k.salt (!(s.farHigh link)) (farCtrl f) (r.countOf f)
    let ct := wordsNat ((f.words.drop 2).take 32)
    if f.words.length = 36 && gcmTag k.keys nonce (wordsNat [(farH0 f), (farH1 f)]) ct = wordsNat (f.words.drop 34)
    then some (natWords (gcmStream k.keys nonce ct)) else none

/-! ### Control frames (R549) -/

/-- Sends a control frame. -/
def State.farControl (s : State) (link kind : Nat) (payload : List W64) : State :=
  let n := (s.link link).far.ctlCount
  (s.updFar link fun f => { f with ctlCount := n + 1 }).farEmit link (mkWord [(32, 1, 1), (48, 8, kind)]) (mkWord [(0, 32, n)]) true n payload

/-- ACK: the last frame of the last packet that the receiver holds whole, so that a rewound packet can come again (R560,
R561). -/
def Far.ack (f : Far) : Nat := (f.rxStart + 2 ^ 32 - 1) % 2 ^ 32

/-- FAR_ACK, and FAR_RESTART while the new frame count is not acknowledged (R549, R560, R564). -/
def State.farAckSend (s : State) (link : Nat) : State :=
  let f := (s.link link).far
  let s := (s.updFar link fun f => { f with sinceAck := 0 }).farControl link 0x11 [mkWord [(0, 32, f.ack), (32, 1, b2n f.nak), (33, 1, b2n f.nakHold)]]
  if f.restartDue then s.farControl link 0x12 [BitVec.ofNat 64 (f.txCount / 2 ^ 32)] else s

/-- FAR_ACK_SEND; in far training the DISCOVERY frame is sent instead (R549). -/
def execFarAckSend (link : Nat) (s : State) : Host.Outcome State Fault Refusal :=
  if 48 ≤ link then .next s
  else if (s.link link).state == .far then .next (s.farAckSend link)
  else if (s.link link).state == .training && (s.link link).far.on then .next (s.farControl link 0x04 (s.discoveryWords link))
  else .next s

/-! ### The window (R557, R558, R562, R566) -/

/-- W for a round trip in ticks (R557). -/
def farWindow (rtt : Nat) : Nat := min 1519104 (cdiv (rtt * 15000) 2633 + 1024)

/-- Sends a held frame, with the header and payload it always carries (R552). -/
def State.farSendHeld (s : State) (link : Nat) (h : FarHeld) : State :=
  s.farEmit link (h.words.getD 0 0#64) (h.words.getD 1 0#64) false h.count (h.words.drop 2)

/-- Sends frames that have entered and not been sent, while the window allows (R557). -/
def pumpLoop : Nat → Nat → State → State
  | 0, _, s => s
  | fuel + 1, link, s =>
    let f := (s.link link).far
    if f.restartDue || (s.link link).state != .far || f.w ≤ (f.held.filter FarHeld.sent).length then s
    else match f.held.find? fun h => !h.sent with
      | none => s
      | some h =>
        pumpLoop fuel link ((s.farSendHeld link h).updFar link fun f =>
          { f with held := f.held.map fun q => bif q.count == h.count then { q with sent := true } else q })

def State.farPump (s : State) (link : Nat) : State := pumpLoop ((s.link link).far.held.length + 1) link s

/-- Sends every sent frame again, from the first not acknowledged (R560). -/
def State.farReplay (s : State) (link : Nat) : State :=
  forL ((s.link link).far.held.filter FarHeld.sent) (fun h s => s.farSendHeld link h) s

/-- Frames of a packet: header words and payload (R548). -/
def farFrames (t : TxPacket) (id count : Nat) : List FarHeld :=
  let cells := chunksOf 32 (lengthSlot 0 t.ctx t.ty t.words.length :: hopped t.words)
  (List.range cells.length).map fun i =>
    let ws := cells.getD i []
    let last := i + 1 == cells.length
    let h0 := mkWord [(0, 32, count + i), (33, 1, b2n (i == 0)), (34, 1, b2n last), (36, 6, ws.length)]
    { count := count + i, packet := id, last := last, words := h0 :: 0#64 :: pad32 ws }

/-- FAR_PACKET_ENTER (R562): the oldest packet for this link enters when slots are free for all its frames; its cells are
released at once. -/
def execFarPacketEnter (link : Nat) (s : State) : Host.Outcome State Fault Refusal :=
  let l := s.link link
  let mine (t : TxPacket) : Bool := t.far && (t.ports.find? fun p => s.usable t p && t.cells ≤ (s.link p).far.freeSlots) == some link
  match s.fabric.waiting.find? mine with
  | none => .next s
  | some t =>
    let fs := farFrames t l.far.nextPacket l.far.txCount
    let s := s.updFar link fun f => { f with
      held := f.held ++ fs
      freeSlots := f.freeSlots - fs.length
      txCount := f.txCount + fs.length
      nextPacket := f.nextPacket + 1 }
    let s := { s with fabric := { s.fabric with waiting := s.fabric.waiting.filter fun u => u.id ≠ t.id } }
    .next ((s.freeSource t).farPump link)

/-- W is set again when the measured round trip has left RTT_REF by more than a quarter (R557). -/
def State.farResize (s : State) (link : Nat) : State :=
  let f := (s.link link).far
  if (s.link link).state != .far || 4 * (max f.rtt f.rttRef - min f.rtt f.rttRef) ≤ f.rttRef then s
  else (s.updFar link fun f => { f with rttRef := f.rtt, w := farWindow f.rtt, resizes := satN 16 (f.resizes + 1) }).farPump link

/-! ### Restart (R564) -/

/-- A far restart at the sender: held frames go, the frame count moves to the next multiple of 2^32, and FAR_RESTART is
sent until that count is acknowledged. -/
def State.farRestart (s : State) (link : Nat) : State :=
  let f := (s.link link).far
  let lost := (f.held.map (·.packet)).eraseDups.length
  let s := s.updFar link fun f => { f with
    held := []
    freeSlots := f.freeSlots + f.held.length
    txCount := (f.txCount / 2 ^ 32 + 1) * 2 ^ 32
    restartDue := true
    holding := false
    state := if f.state = 2 then 3 else f.state
    restarts := satN 16 (f.restarts + 1) }
  let s := s.raise { code := Rec.farRestart, cls := .uc, unit := .link link, a := BitVec.ofNat 64 lost }
  if (s.link link).state == .far then s.farControl link 0x12 [BitVec.ofNat 64 ((s.link link).far.txCount / 2 ^ 32)] else s

/-- FAR_ACK_STALL (R564): ACK makes no progress while frames are held. -/
def execFarAckStall (link : Nat) (s : State) : Host.Outcome State Fault Refusal :=
  let l := s.link link
  if 48 ≤ link || l.state != .far || l.far.held.isEmpty then .next s else .next (s.farRestart link)

/-- FAR_RETRAIN_TIMEOUT (R563, R564). -/
def execFarRetrainTimeout (link : Nat) (s : State) : Host.Outcome State Fault Refusal :=
  let l := s.link link
  if 48 ≤ link || !l.far.on || l.state != .training then .next s else .next (s.farRestart link)

/-- The receiver's open packet is rewound (R561, R564). -/
def State.farRewind (s : State) (link : Nat) : State :=
  let q := linkQueue link 6
  s.rewind q.1 q.2 0 .producer

/-! ### Training (R544, R545, R547, R557, R563) -/

/-- The link trains in far framing: its DISCOVERY frame goes out. -/
def State.farTrain (s : State) (link : Nat) : State :=
  let s := (s.updFar link fun f => { f with state := 1, discovered := false, nak := false, nakHold := false, holding := false }).linkTo link .training
  s.farControl link 0x04 (s.discoveryWords link)

/-- A wrong site fails the link (R545). -/
def State.farMismatch (s : State) (link : Nat) : State :=
  ((s.updFar link fun f => { f with state := 0 }).linkTo link .failed).raise {
    code := Rec.farSiteMismatch, cls := .uc, unit := .link link, a := BitVec.ofNat 64 (s.link link).nbSite }

/-- The site that DISCOVERY reported is the one named, and not the module's own. -/
def State.farSiteOk (s : State) (link : Nat) : Bool :=
  (s.link link).nbSite == (s.link link).far.site && (s.link link).nbSite != s.fabric.site

/-- FAR_TRAINING_DONE (R545, R557, R563): W is set from the training round trip, and held frames are sent again. -/
def execFarTrainingDone (link rtt : Nat) (s : State) : Host.Outcome State Fault Refusal :=
  let l := s.link link
  if 48 ≤ link || !l.far.on || l.state != .training || !l.far.discovered then .next s
  else if !(s.farSiteOk link) then .next (s.farMismatch link)
  else
    let s := s.updFar link fun f => { f with
      state := if f.restartDue then 3 else 2
      rtt := rtt
      rttRef := rtt
      w := farWindow rtt
      resizes := satN 16 (f.resizes + 1)
      remoteDn := l.nbDn }
    let s := s.linkTo link .far
    let s := if l.far.restartDue then s.farControl link 0x12 [BitVec.ofNat 64 (l.far.txCount / 2 ^ 32)] else s.farReplay link
    .next (s.farPump link)

/-- FAR_CODEWORD_LOCK_LOST (R563): the window and both counts stay. -/
def execFarCodewordLockLost (link : Nat) (s : State) : Host.Outcome State Fault Refusal :=
  if 48 ≤ link || (s.link link).state != .far then .next s 
  else .next (((s.farRewind link).updFar link fun f => { f with rxCount := f.rxStart }).farTrain link)

/-! ### Taking frames (R552, R553, R560 to R564) -/

/-- The receiver refuses a frame and asks for those after the last it holds (R560, R561). -/
def State.farRefuse (s : State) (link : Nat) (hold : Bool) : State :=
  if (s.link link).far.nak then s
  else (s.updFar link fun f => { f with nak := true, nakHold := hold }).farAckSend link

/-- A failed tag is counted (R553). -/
def State.farTagFail (s : State) (link : Nat) : State :=
  s.updFar link fun f => { f with authFails := satN 16 (f.authFails + 1), tagFails := f.tagFails + 1 }

/-- A good control frame of a kind, on a link that takes control frames; the receiver's state after it, and its payload. -/
def State.farTake (s : State) (link kind : Nat) (f : FarFrame) : State × Option (List W64) :=
  let l := s.link link
  let live := l.state == .far || (l.state == .training && l.far.on)
  if 48 ≤ link || !live || !(farCtrl f) || (farKind f) ≠ kind then (s, none)
  else
    let s := s.updLink link fun l => { l with fecSymbols := satN 32 (l.fecSymbols + f.symbols), fecUncorr := satN 16 (l.fecUncorr + f.lost) }
    match s.farOpen link f with
    | none => (s.farTagFail link, none)
    | some p =>
      if f.uncorr then (s, none)
      else
        let n := l.far.countOf f
        (s.updFar link fun r => { r with
          rxCtl := max r.rxCtl n
          keys := r.keys.set (farSlot f) { (r.keys.get { handle := 0, salt := 0, key := [] } (farSlot f)) with accepted := some s.now } }, some p)

/-- Writes an accepted frame into the receive queue of VC6; the last commits the packet (R560). -/
def State.farTakeCell (s : State) (link : Nat) (sop eop : Bool) (ws : List W64) : State :=
  let q := linkQueue link 6
  let slot := ws.getD 0 0#64
  let s := if sop then after (execQueueOpen q.1 q.2 0 (fld slot 23 16) (if bitAt slot 27 then some (fld slot 26 24) else none) (s.farRewind link)) s else s
  let data := if sop then ws.drop 1 else ws
  let s := if data.isEmpty then s else after (execQueueAppend q.1 q.2 0 data false s) s
  if eop then
    let n := (s.queue q.1 q.2).packets.length
    let s := after (execQueueCommit q.1 q.2 0 s) s
    if n < (s.queue q.1 q.2).packets.length then s.routeReceived link 6 else s
  else s

/-- FAR_DATA_FRAME (R552, R553, R560, R561): taken in frame-count order; a frame that can take no cell rewinds its packet,
which the sender sends again after 20 µs. -/
def execFarDataFrame (link : Nat) (f : FarFrame) (s : State) : Host.Outcome State Fault Refusal :=
  let l := s.link link
  if 48 ≤ link || l.state != .far || (farCtrl f) then .next s
  else
    let s := s.updLink link fun l => { l with fecSymbols := satN 32 (l.fecSymbols + f.symbols), fecUncorr := satN 16 (l.fecUncorr + f.lost) }
    let n := l.far.countOf f
    let len := fld (farH0 f) 41 36
    match s.farOpen link f with
    | none => .next ((s.farTagFail link).farRefuse link false)
    | some p =>
      if f.uncorr || (farKind f) ≠ 0 || len = 0 || 32 < len then .next (s.farRefuse link false)
      else if n < l.far.rxCount then .next (s.farAckSend link)
      else if l.far.rxCount < n then .next (s.farRefuse link false)
      else if !((s.pool (link / 24)).mayTake (linkQueue link 6).2 1) then
        .next (((s.farRewind link).updFar link fun r => { r with rxCount := r.rxStart }).farRefuse link true)
      else
        let s := s.farTakeCell link (bitAt (farH0 f) 33) (bitAt (farH0 f) 34) (p.take len)
        let s := s.updFar link fun r => { r with
          rxCount := n + 1
          rxStart := if bitAt (farH0 f) 34 then n + 1 else r.rxStart
          nak := false
          nakHold := false
          sinceAck := r.sinceAck + 1
          keys := r.keys.set (farSlot f) { (r.keys.get { handle := 0, salt := 0, key := [] } (farSlot f)) with accepted := some s.now } }
        if 1024 ≤ (s.link link).far.sinceAck then .next (s.farAckSend link) else .next s

/-- FAR_IDLE. -/
def execFarIdle (link : Nat) (f : FarFrame) (s : State) : Host.Outcome State Fault Refusal := .next (s.farTake link 0x01 f).1

/-- FAR_DISCOVERY (R545). -/
def execFarDiscovery (link : Nat) (f : FarFrame) (s : State) : Host.Outcome State Fault Refusal :=
  let r := s.farTake link 0x04 f
  match r.2 with
  | none => .next r.1
  | some p =>
    let s := (r.1.learn link p).updFar link fun q => { q with discovered := true }
    if s.farSiteOk link then .next s else .next (s.farMismatch link)

/-- FAR_ACK (R552, R560 to R562, R564): slots of acknowledged frames are freed; a NAK sends again, or waits under HOLD. -/
def execFarAck (link : Nat) (f : FarFrame) (s : State) : Host.Outcome State Fault Refusal :=
  let r := s.farTake link 0x11 f
  match r.2 with
  | none => .next r.1
  | some p =>
    let w := p.getD 0 0#64
    let next := nearCount (r.1.link link).far.txCount (fld w 31 0) + 1
    let s := r.1.updFar link fun q =>
      let left := q.held.filter fun h => next ≤ h.count
      let beyond := q.restartDue && q.txCount ≤ next
      { q with
        held := left
        freeSlots := q.freeSlots + (q.held.length - left.length)
        restartDue := q.restartDue && !beyond
        state := if beyond && q.state = 3 then 2 else q.state
        naks := if bitAt w 32 then satN 16 (q.naks + 1) else q.naks
        holding := q.holding || (bitAt w 32 && bitAt w 33) }
    let s := if bitAt w 32 && !(s.link link).far.holding then s.farReplay link else s
    .next (s.farPump link)

/-- FAR_HOLD_EXPIRY (R561). -/
def execFarHoldExpiry (link : Nat) (s : State) : Host.Outcome State Fault Refusal :=
  if 48 ≤ link || !(s.link link).far.holding then .next s
  else .next ((s.updFar link fun f => { f with holding := false }).farReplay link)

/-- FAR_REPLAY_TIMEOUT (R560). -/
def execFarReplayTimeout (link : Nat) (s : State) : Host.Outcome State Fault Refusal :=
  if 48 ≤ link || (s.link link).state != .far || (s.link link).far.holding then .next s else .next (s.farReplay link)

/-! ### Time and touch (R555, R556, R559, R570) -/

/-- Payload of FAR_TIME (R555). -/
def State.farTimeWords (s : State) (link : Nat) : List W64 :=
  let f := (s.link link).far
  [mkWord [(0, 4, s.fabric.site), (4, 6, s.steep.currentQ), (16, 16, s.fabric.dn)], BitVec.ofNat 64 s.now, mkWord [(0, 20, s.steep.phase)],
   BitVec.ofNat 64 s.steep.ticks, BitVec.ofNat 64 f.lastStamp, BitVec.ofNat 64 (if f.lastStamp = 0 then 0 else s.steep.ticks - f.lastArrival)]

/-- A change of touch of this module with a site, for the outer round of a context: told to the coordinator, which keeps
the site in touch while one gateway is (R570). -/
def State.touchSeen (s : State) (x dn site : Nat) (up : Bool) : State :=
  let put (m : Nat) : Nat := if Nat.testBit m site == up then m else if up then m + 2 ^ site else m - 2 ^ site
  let o := (s.ctx x).outer
  let gates := o.gates.set dn (put (o.gates.get 0 dn))
  let mask := gates.foldl (fun (m : Nat) (e : Nat × Nat) => m ||| e.2) 0
  let s := s.updOuter x fun o => { o with gates := gates, touchMask := mask }
  if mask = o.touchMask then s
  else s.event x { kind := 0x0201, detail := mkWord [(0, 4, site), (8, 1, b2n (Nat.testBit mask site))] }

/-- A gateway's touch with a site changes. -/
def State.touchChange (s : State) (x site : Nat) (up : Bool) : State :=
  match (s.ctx x).outer.cfg with
  | none => s
  | some g =>
    let m := (s.ctx x).outer.gateMask
    if Nat.testBit m site == up || !(Nat.testBit g.sites site) then s
    else
      let m' := if up then m + 2 ^ site else m - 2 ^ site
      let s := s.updOuter x fun o => { o with gateMask := m' }
      if s.coordinates x then s.touchSeen x s.fabric.dn site up
      else (s.updOuter x fun o => { o with touchMask := m' }).toLead g OMsg.touch [mkWord [(0, 4, site), (8, 1, b2n up)]]

/-! ### Keys (R550, R553, R554) -/

/-- FAR_AUTH: 64 tags have failed in the steep. -/
def execFarAuth (link : Nat) (s : State) : Host.Outcome State Fault Refusal :=
  if 48 ≤ link || (s.link link).far.tagFails < 64 then .next s
  else .next ((s.updFar link fun f => { f with tagFails := 0 }).raise { code := Rec.farAuth, cls := .uc, unit := .link link })

/-- FAR_KEY_AGE: a key has protected 2^40 frames in this direction; one record for each key. -/
def execFarKeyAge (link : Nat) (s : State) : Host.Outcome State Fault Refusal :=
  match (s.link link).far.keys.find? fun e => 2 ^ 40 ≤ e.2.sent && !e.2.aged with
  | none => .next s
  | some e =>
    .next ((s.updFar link fun f => { f with keys := f.keys.set e.1 { e.2 with aged := true } }).raise {
      code := Rec.farKeyAge, cls := .ce, unit := .link link, a := BitVec.ofNat 64 e.1 })

/-- The slot is this end's sending slot. -/
def Link.sendsWith (l : Link) (slot : Nat) : Bool := l.far.on && l.far.state != 0 && l.far.sendSlot == slot && (l.far.keys.find slot).isSome

/-- FAR_KEY_LOAD (R550, R554, R762, R763). -/
def execFarKeyLoad (r : Req) (s : State) : Host.Outcome State Fault Refusal :=
  .next (s.kettle r 0x0202 false adminClass fun k s =>
    let a := k.arg 0
    let b := k.arg 1
    let l := fld a 5 0
    let slot := b2n (bitAt a 8)
    if k.args.length ≠ 2 || fld a 7 6 ≠ 0 || fld a 63 9 ≠ 0 || 47 < l then done s St.reserved
    else match s.trust.resolve (fld b 31 0) with
      | none => done s St.keyUnknown
      | some (_, e) =>
        let used := match (s.link l).far.keys.find slot with
          | some q => (match q.accepted with
            | some t => s.now < t + 16
            | none => false)
          | none => false
        if e.kind ≠ 2 then done s St.keyUnknown
        else if (s.link l).sendsWith slot || used then done s St.farKeyBusy
        else done (s.updFar l fun f => { f with keys := f.keys.set slot { handle := fld b 31 0, salt := fld b 63 32, key := e.key } }) St.ok)

/-- FAR_KEY_SWITCH (R554). -/
def execFarKeySwitch (r : Req) (s : State) : Host.Outcome State Fault Refusal :=
  .next (s.kettle r 0x0203 false adminClass fun k s =>
    let a := k.arg 0
    let l := fld a 5 0
    let slot := b2n (bitAt a 8)
    let at_ := (k.arg 1).toNat
    if k.args.length ≠ 2 || fld a 7 6 ≠ 0 || fld a 63 9 ≠ 0 || 47 < l || at_ ≤ s.now then done s St.reserved
    else if ((s.link l).far.keys.find slot).isNone then done s St.farNoKey
    else done (s.updFar l fun f => { f with switch := some (slot, at_, k.ref) }) St.accepted)

/-! ### Entering and leaving far-link mode (R299, R342, R544, R547, R561) -/

/-- The allocation of a FAR link: 8,160 cells on VC6 and none elsewhere (R561). -/
def farAlloc : W64 := mkWord [(48, 8, 255)]

/-- The buffer that an enabled link takes (R299). -/
def State.freeBuffer (s : State) : Option Nat := (List.range s.trust.farBuffers).find? fun b => !(s.mem.farBuffers.any fun e => e.1 == b)

/-- FAR_ENABLE. -/
def execFarEnable (r : Req) (s : State) : Host.Outcome State Fault Refusal :=
  .next (s.kettle r 0x0200 false adminClass fun k s =>
    let a := k.arg 0
    let n := fld a 5 0
    let l := s.link n
    if k.args.length ≠ 1 || fld a 7 6 ≠ 0 || fld a 63 12 ≠ 0 || 47 < n then done s St.reserved
    else if l.far.on then done s St.noEffect
    else match s.freeBuffer with
      | none => done s St.farlinkNoBuffer
      | some b =>
        if l.far.keys.isEmpty then done s St.farNoKey
        else if 262144 < max (s.poolGuarantees n farAlloc) (s.poolGuarantees n l.allocNext) then done s St.noResource
        else
          let s := if l.state == .trained then s.linkDown n else s
          let s := { s with mem := { s.mem with farBuffers := s.mem.farBuffers ++ [(b, n)] } }
          let s := (s.updLink n fun l => { l with alloc := farAlloc, retrainBy := some k.ref }).openLinkQueues n farAlloc
          let slot := if (l.far.keys.find l.far.sendSlot).isSome then l.far.sendSlot else 1 - l.far.sendSlot
          let s := s.updFar n fun f => { f with on := true, site := fld a 11 8, sendSlot := slot, held := [], freeSlots := 1519104, lastTime := none }
          done (s.farTrain n) St.accepted)

/-- A link leaves far-link mode: what it holds is discarded as in a far restart, and its buffer returns (R547). -/
def State.farLeave (s : State) (link : Nat) : State :=
  let s := if (s.link link).far.held.isEmpty then s else s.farRestart link
  let s := { s with mem := { s.mem with farBuffers := s.mem.farBuffers.filter fun e => e.2 ≠ link } }
  let s := (s.farRewind link).updFar link fun f => { f with
    on := false, state := 0, held := [], freeSlots := 1519104, restartDue := false, rxCount := f.rxStart, lastTime := none, rttLimit := false }
  s.linkTo link .training

/-- FAR_DISABLE. -/
def execFarDisable (r : Req) (s : State) : Host.Outcome State Fault Refusal :=
  .next (s.kettle r 0x0201 false adminClass fun k s =>
    let n := (k.arg 0).toNat
    if k.args.length ≠ 1 || 47 < n then done s St.reserved
    else if !(s.link n).far.on then done s St.noEffect
    else done (s.farLeave n) St.accepted)

/-! ### What the boundary does (R554, R555, R557, R566) -/

/-- Step 2 of R56: key switches, a far restart of a link whose buffer held a UE (R317), then FAR_TIME. -/
def State.farTimes (s : State) : State :=
  forN 48 (fun n s =>
    let f := (s.link n).far
    let s := match f.switch with
      | some (slot, at_, by_) => if s.now < at_ then s else (s.updFar n fun f => { f with sendSlot := slot, switch := none }).commandDone by_ none
      | none => s
    let s := if f.ueDue then (s.updFar n fun f => { f with ueDue := false }).farRestart n else s
    let s := if f.tagFails = 0 then s else s.updFar n fun f => { f with tagFails := 0 }
    if (s.link n).state == .far then s.farControl n 0x10 (s.farTimeWords n) else s) s

/-- Windows are compared with the round trip at every boundary. -/
def State.farResizes (s : State) : State := forN 48 (fun n s => s.farResize n) s

end Sys2Proof.Machine
end

