-- ==== Sys2Proof/Machine/Outer.lean ====
section
/-! DEFINITION. Machine/Outer.lean: the outer round of loosely coupled sites: its configuration, the round from LOCAL to
READY, the coordinator's deadline and decision, merge rounds, and what starts a re-anchor (R567 to R586). -/
namespace Sys2Proof.Machine

/-! ### Configuration (R567, R568, R574) -/

/-- Encoded size of the shard for all other sites, in bytes (R574). -/
def OuterCfg.enc (g : OuterCfg) (own : Nat) : Nat :=
  let per := if g.sign then codecWords true 4096 0#64 else cdiv (32 * (1 + g.kBlk)) 64
  8 * per * g.blocks * ((List.range 16).filter fun j => Nat.testBit g.sites j && j ≠ own).length

/-- E of this module in µs, rounded up. -/
def OuterCfg.estimate (g : OuterCfg) (own : Nat) : Nat := 20 + cdiv (4 * g.count * 97220 + g.share * g.enc own * 100000) (100000 * 97220)

/-- What every module of a site job must agree on (R568). -/
def OuterCfg.agrees (a b : OuterCfg) : Bool := a.lead == b.lead && a.peers == b.peers && a.fmt == b.fmt && a.sign == b.sign && a.kBlk == b.kBlk

/-- E of a module reaches the coordinator. -/
def State.takeEstimate (s : State) (x dn e : Nat) : State := s.updOuter x fun o => { o with reports := o.reports.set dn e }

/-- OUTER_CONFIG (R567, R568, R574). -/
def execOuterConfig (r : Req) (s : State) : Host.Outcome State Fault Refusal :=
  .next (s.kettle r 0x0204 false anyClass fun k s =>
    let a := k.arg 0
    let b := k.arg 1
    let w (i : Nat) : Nat := (k.arg i).toNat
    let n := fld (k.arg 10) 2 0
    let lead := k.args.drop 11
    let x := k.x
    let c := s.ctx x
    let h := fld a 41 32
    let fmt := fld a 59 56
    let sites := fld b 31 16
    let count := w 8
    let wide := (List.range 5).any (fun i => 2 ^ 48 ≤ w (3 + i)) || 2 ^ 48 ≤ w 9
    let badA := bitAt a 54 || bitAt a 55 || fld a 63 60 ≠ 0 || h < 16 || 512 < h || fld a 45 42 = 0 || !(fmt = 5 || fmt = 6)
    let badB := fld b 63 48 ≠ 0 || fld b 47 40 = 0 || !(Nat.testBit sites s.fabric.site) || popN 16 sites < 2 ||
      (!(bitAt a 52) && (fld b 12 0 = 0 || 4096 < fld b 12 0))
    let badC := count = 0 || 2 ^ 40 ≤ count || count % 16384 ≠ 0 || fld (k.arg 10) 63 3 ≠ 0 || n = 0 || 4 < n || lead.length ≠ n || !(modulePathOk lead || (pathWordsOk lead && namesCtx lead))
    if k.args.length < 12 || wide || badA || badB || badC then done s St.reserved
    else if namesCtx lead then done s St.badPath
    else if c.state == .free then done s St.badContext
    else
      let bytes := if fmt = 5 then 2 * count else 4 * count
      let spans := [(w 3, bytes), (w 4, count / 32), (w 5, 4 * count), (w 6, 4 * count), (w 7, count / 32), (w 9, 512)]
      if spans.any fun p => !(c.fastSpan p.1 p.2) then done s St.memoryRange
      else if c.busy then done s St.busy
      else
        let peer (j : Nat) : List W64 :=
          let ws := s.mem.space.words (w 9 / 8 + 4 * j) 4
          ws.take (pathWordCount (fld (ws.getD 0 0#64) 3 0))
        let s := s.noteBytes (w 9) 512 (some x) 0x0204 0
        let g : OuterCfg := {
          id := fld a 31 0, h := h, lag := fld a 45 42, staleLimit := if fld a 51 46 = 0 then 8 else fld a 51 46, sign := bitAt a 52
          sender := bitAt a 53, fmt := fmt, kBlk := fld b 12 0, chain := fld b 15 13, sites := sites
          touchSteeps := if fld b 39 32 = 0 then 16 else fld b 39 32, share := fld b 47 40, diff := w 3, diffHdr := w 4, resid := w 5
          merge := w 6, mergeHdr := w 7, count := count, peers := (List.range 16).map peer, lead := lead }
        let clash := (List.range 8).any fun y => y ≠ x && match (s.ctx y).outer.cfg with
          | some q => q.id == g.id && !(q.agrees g)
          | none => false
        if clash then done s St.outerConflict
        else
          let e := g.estimate s.fabric.site
          let o := c.outer
          let s := s.updOuter x fun _ => {
            cfg := some g, s0 := w 2, state := .local_, anchor := w 2
            lates := o.lates, tooLate := o.tooLate, skips := o.skips, reanchors := o.reanchors }
          let s := if s.coordinates x then s.takeEstimate x s.fabric.dn e else s.toLead g OMsg.estimate [BitVec.ofNat 64 e]
          (s, some (St.ok, [BitVec.ofNat 64 e])))

/-! ### The round (R569, R571, R572) -/

def Outer.endStep (o : Outer) (g : OuterCfg) : Nat := o.s0 + (o.round + 1 - o.firstRound) * g.h

/-- The step whose stream applies the round in hand. -/
def Outer.applyStep (o : Outer) (g : OuterCfg) : Nat := (match o.mergeStep with | some m => m | none => o.endStep g) + g.lag

/-- Elements of the difference in a codec block, as FP32. -/
def State.outerDiff (s : State) (g : OuterCfg) (b : Nat) : List W32 :=
  (List.range 4096).map fun i =>
    if g.fmt = 5 then near32 (Fmts.bf16.decode (tierCode s.mem.space g.diff 16 (4096 * b + i)))
    else BitVec.ofNat 32 (tierCode s.mem.space g.diff 32 (4096 * b + i))

/-- Sends one codec block to the PEER of each other site, a large one in two packets (R527, R572). -/
def State.sendBlock (s : State) (x : Nat) (g : OuterCfg) (d : OuterDiff) (step b : Nat) (ws : List W64) : State :=
  let h2 := mkWord [(0, 24, d.round), (24, 4, s.fabric.site), (28, 1, b2n d.merge), (32, 32, d.n)]
  let put (j off : Nat) (ws : List W64) (s : State) : State :=
    s.inject 0x08 6 (g.peers.getD j []) (some x) 0 (BitVec.ofNat 64 g.id :: mkWord [(0, 40, off), (40, 8, step)] :: h2 :: ws)
  forL (s.otherSites g) (fun j s =>
    if ws.length ≤ 2000 then put j (4096 * b) ws s else put j (4096 * b + 1) (ws.drop 2000) (put j (4096 * b) (ws.take 2000) s)) s

/-- Sends a kept difference. -/
def State.sendDiff (s : State) (x : Nat) (g : OuterCfg) (d : OuterDiff) (step : Nat) : State :=
  forN g.blocks (fun b s => s.sendBlock x g d step b ((d.block g.sign b).getD [])) s

/-- DECIDE takes effect on a module that waits for it; a SKIP also on one still in SENDING, whose local steps keep running
(R571, R580). -/
def State.actOn (s : State) (x : Nat) : State :=
  let o := (s.ctx x).outer
  match o.decision with
  | none => s
  | some d =>
    if o.state != .waiting && !(d.skip && o.state == .sending) then s
    else if d.skip then s.updOuter x fun o => { o with state := .ready, skipped := o.skipped + 1, skips := satN 16 (o.skips + 1) }
    else s.updOuter x fun o => { o with state := .merging }

/-- The module ends a round: the shard is encoded with the residual, which takes what the encoding drops, and the encoded
round is kept (R535, R572). A module that is no SENDER encodes too, since its own term is the decoded value (R576), and
sends nothing. -/
def State.endRound (s : State) (x step : Nat) (g : OuterCfg) (merge : Bool) : State :=
  let o := (s.ctx x).outer
  let zs := (List.range g.blocks).map fun b =>
    ((s.outerDiff g b).zip ((List.range 4096).map fun i => BitVec.ofNat 32 (tierCode s.mem.space g.resid 32 (4096 * b + i)))).map fun p => add32 p.1 p.2
  let es := zs.map fun z => (z, encodeCodec g.sign g.kBlk z)
  let s := s.noteBytes g.diff ((if g.fmt = 5 then 2 else 4) * 4096 * g.blocks) (some x) 0 0
  let s := s.noteBytes g.resid (4 * 4096 * g.blocks) (some x) 0 0
  let s := forN es.length (fun b s =>
    let e := es.getD b ([], [])
    s.storeTierBytes (g.resid + 4 * 4096 * b) ((droppedBy g.sign e.1 e.2).flatMap laneBytes) (some x)) s
  let d : OuterDiff := {
    site := s.fabric.site, round := o.round, merge := merge, n := step - o.anchor
    blocks := (List.range es.length).map fun b => (4096 * b, (es.getD b ([], [])).2) }
  let s := s.updOuter x fun o => { o with
    kept := (o.kept.filter fun k => o.round ≤ k.round + 1) ++ [d]
    state := if g.sender then .sending else .waiting }
  if g.sender then s.sendDiff x g d step else s.actOn x

/-! ### Deciding (R574 to R576, R580, R582, R583) -/

/-- The largest round trip of the module's far links to member sites, in ticks. -/
def State.rttMax (s : State) (g : OuterCfg) : Nat :=
  (List.range 48).foldl (fun m l =>
    let f := (s.link l).far
    if f.on && Nat.testBit g.sites f.site then max m f.rtt else m) 0

/-- Steeps from a commit to the deadline (R574). -/
def State.outerWait (s : State) (x : Nat) (g : OuterCfg) : Nat :=
  let e := (s.ctx x).outer.reports.foldl (fun m (p : Nat × Nat) => max m p.2) 0
  cdiv (100 * e + 3 * s.rttMax g) (25000 * s.steep.currentQ)

/-- A module takes a decision: of the round in hand, or of the merge round it holds; a merge round that is skipped before
its step leaves the ordinary round as it stands (R583). -/
def State.takeDecide (s : State) (x : Nat) (d : OuterDecision) : State :=
  let o := (s.ctx x).outer
  if d.merge && d.skip then
    (match o.mergeStep with
      | none => s.updOuter x fun o => { o with merging := false }
      | some _ => s.updOuter x fun o => { o with
          merging := false, decision := some d, state := .ready, deadline := none, skipped := o.skipped + 1, skips := satN 16 (o.skips + 1) })
  else if d.merge ≠ o.mergeStep.isSome || (!d.merge && d.round ≠ o.round) || o.decision.isSome then s
  else (s.updOuter x fun o => { o with decision := some d }).actOn x

/-- Words of DECIDE. -/
def decideWords (d : OuterDecision) : List W64 :=
  mkWord [(0, 24, d.round), (24, 1, b2n d.skip), (25, 1, b2n d.merge), (32, 16, d.onTime)] ::
    d.carry.map fun p => mkWord [(0, 4, p.1), (8, 24, p.2)]

/-- The coordinator's decision goes to every module of the site job. -/
def State.sendDecide (s : State) (x : Nat) (g : OuterCfg) (d : OuterDecision) : State :=
  let s := forL ((s.siteModules x).filter fun m => m ≠ s.fabric.dn) (fun m s =>
    s.injectDn 0x07 7 m none 0 (siteWord OMsg.decide_ g.id :: decideWords d)) s
  s.takeDecide x d

/-- Every module has reported a difference whole. -/
def State.allHave (s : State) (x site round : Nat) (merge : Bool) : Bool :=
  let o := (s.ctx x).outer
  (s.siteModules x).all fun m => o.have_.any fun h => h.1 == site && (merge || h.2.1 == round) && h.2.2.1 == merge && h.2.2.2 == m

/-- Sites of a list as a mask. -/
def siteMask (l : List Nat) : Nat := l.foldl (fun m j => m ||| 2 ^ j) 0

/-- OUTER_DEADLINE (R575, R580): DECIDE with SKIP, ON_TIME, LATE and CARRY. -/
def execOuterDeadline (ctx : Nat) (s : State) : Host.Outcome State Fault Refusal :=
  let o := (s.ctx ctx).outer
  match o.cfg, o.deadline with
  | some g, some t =>
    if !(s.coordinates ctx) || s.now < t then .next s
    else
      let others := s.otherSites g
      let merge := o.mergeStep.isSome
      let skip := others.any fun j => !(Nat.testBit o.touchMask j)
      let on := others.filter fun j => s.allHave ctx j o.round merge
      let behind := if skip || merge then [] else others.filter fun j => !(on.contains j)
      let old := o.late.filter fun p => p.2 + 1 = o.round
      let carry := if skip then [] else old.filter fun p => s.allHave ctx p.1 p.2 false
      let d : OuterDecision := { round := o.round, skip := skip, merge := merge, onTime := if skip then 0 else siteMask on, carry := carry }
      let s := forL (old.filter fun p => !(carry.contains p)) (fun p s => s.tooLate ctx p.1 p.2) s
      let s := s.updOuter ctx fun o => { o with
        deadline := none
        late := behind.map fun j => (j, o.round)
        lates := satN 16 (o.lates + behind.length)
        have_ := o.have_.filter fun h => h.2.2.1 || o.round ≤ h.2.1 + 1 }
      .next (s.sendDecide ctx g d)
  | _, _ => .next s

/-- OUTER_DECIDE (R575, R576). -/
def execOuterDecide (m : OuterMsg) (s : State) : Host.Outcome State Fault Refusal :=
  let s := s.tookPacket 0x07 (siteWord OMsg.decide_ m.id :: m.words)
  match s.outerCtx m.id with
  | none => .next s
  | some x =>
    let w := m.words.getD 0 0#64
    .next (s.takeDecide x {
      round := fld w 23 0, skip := bitAt w 24, merge := bitAt w 25, onTime := fld w 47 32
      carry := (m.words.drop 1).map fun v => (fld v 3 0, fld v 31 8) })

/-- OUTER_SEND_DONE (R571): no packet of the context waits for a far window or a link. -/
def execOuterSendDone (ctx : Nat) (s : State) : Host.Outcome State Fault Refusal :=
  let busy := s.fabric.waiting.any fun t => t.ctx == some ctx && t.vc == 6
  if (s.ctx ctx).outer.state != .sending || busy then .next s
  else .next ((s.updOuter ctx fun o => { o with state := .waiting }).actOn ctx)

/-! ### Merging (R576, R578) -/

/-- Terms of a merge in increasing (site, round): n and the difference. -/
def Outer.terms (o : Outer) (own : Nat) (d : OuterDecision) : List OuterDiff :=
  let mine := o.kept.filter fun k => k.merge == d.merge && k.round == o.round
  let keep (q : OuterDiff) : Bool :=
    q.merge == d.merge && ((Nat.testBit d.onTime q.site && (d.merge || q.round == d.round)) || (!d.merge && d.carry.contains (q.site, q.round)))
  (List.range 16).flatMap fun j =>
    let l := if j = own then mine else o.diffs.filter fun q => q.site == j && keep q
    let lo := l.filter fun q => q.round < d.round
    lo ++ l.filter fun q => d.round ≤ q.round

/-- The denominator of R576. -/
def Outer.denominator (o : Outer) (g : OuterCfg) (own : Nat) (d : OuterDecision) : Nat :=
  (List.range 16).foldl (fun n j =>
    if !(Nat.testBit g.sites j) then n
    else
      let l := if j = own then o.kept.filter fun k => k.merge == d.merge && k.round == o.round
        else if Nat.testBit d.onTime j then o.diffs.filter fun q => q.site == j && q.merge == d.merge && (d.merge || q.round == d.round)
        else []
      n + (match l with | q :: _ => q.n | [] => g.h)) 0

/-- Correctly rounded quotient of an FP32 value by a whole number. -/
def divExact (a : W32) (den : Nat) : W32 := near32 ((v32 a).div (.fin false den 0))

/-- The merged difference of a codec block. -/
def mergeBlock (sign : Bool) (ts : List OuterDiff) (den b : Nat) : List W32 :=
  let vs := ts.map fun t => (count32 t.n, decodeCodec sign 4096 ((t.block sign b).getD []))
  (List.range 4096).map fun i =>
    divExact (vs.foldl (fun acc v => add32 acc (mul32 v.1 (v.2.getD i 0#32))) 0#32) den

/-- OUTER_MERGE_DONE (R576): Δ stands at MERGE_ADDR as FP32 update blocks whose headers carry a_r. -/
def execOuterMergeDone (ctx : Nat) (s : State) : Host.Outcome State Fault Refusal :=
  let o := (s.ctx ctx).outer
  match o.cfg, o.decision with
  | some g, some d =>
    if o.state != .merging then .next s
    else
      let ts := o.terms s.fabric.site d
      let den := o.denominator g s.fabric.site d
      let h := mkWord [(0, 8, 0x7F), (24, 40, o.applyStep g)]
      let s := forN g.blocks (fun b s =>
        let s := s.storeTierBytes (g.merge + 16384 * b) ((mergeBlock g.sign ts den b).flatMap laneBytes) (some ctx)
        s.storeTierBytes (g.mergeHdr + 128 * b) ((List.replicate 16 h).flatMap wordBytes) (some ctx)) s
      .next (s.updOuter ctx fun o => { o with state := .ready })
  | _, _ => .next s

/-! ### What a commit does (R569, R571, R574, R582, R585) -/

/-- First round that ends after a step. -/
def Outer.roundAfter (o : Outer) (g : OuterCfg) (step : Nat) : Nat := o.firstRound + (step - o.s0) / g.h

/-- The apply step of the round in hand commits: the round is over. The steps since the anchor count from the last step of the
round that was applied, as the worked example of R583 counts them. -/
def State.finishRound (s : State) (x step : Nat) (g : OuterCfg) : State :=
  let o := (s.ctx x).outer
  match o.decision with
  | none => s
  | some d =>
    let s := s.event x { kind := 0x0200, detail := mkWord [(0, 24, d.round), (24, 2, if d.merge && !d.skip then 2 else b2n d.skip), (32, 16, d.onTime)] }
    let o' : Outer := if d.merge && !d.skip then { o with
        s0 := o.mergeStep.getD o.s0, round := 0, firstRound := 0, anchor := o.mergeStep.getD step, applied := 0, skipped := 0, late := [], prev := none, diffs := [], kept := []
        have_ := [], gone := [] }
      else if d.merge then { o with round := o.roundAfter g step, prev := none }
      else { o with
        round := o.round + 1
        prev := some d
        applied := if d.skip then o.applied else o.round
        anchor := if d.skip then o.anchor else o.endStep g
        skipped := if d.skip then o.skipped else 0
        diffs := o.diffs.filter fun q => o.round ≤ q.round }
    s.updOuter x fun _ => { o' with state := .local_, decision := none, merging := o.merging && !d.merge, mergeStep := none }

/-- The commit of the step whose update wrote a donor's planes ends the re-anchoring (R585): S0 is the step after it, and
the module enters at the donor's next round. -/
def State.reanchorCommit (s : State) (x step : Nat) : State :=
  let o := (s.ctx x).outer
  match o.reanchor with
  | none => s
  | some (donor, by_) =>
    if o.movedStep ≠ some step then s
    else
      let s := s.updOuter x fun o => { o with
        s0 := step + 1, anchor := step + 1, round := o.movedRound, firstRound := o.movedRound, state := .local_, applied := o.movedRound - 1
        skipped := 0, decision := none, prev := none, deadline := none, merging := false, mergeStep := none, diffs := [], kept := []
        have_ := [], late := [], gone := [], reanchor := none, moved := [], movedAll := 0, movedStep := none
        reanchors := satN 16 (o.reanchors + 1) }
      let e : Event := { kind := 0x0202, detail := mkWord [(0, 4, donor), (8, 56, step)] }
      match by_ with
      | some r => s.cmdEvent r (some x) e
      | none => s.event x e

/-- OUTER_ROUND_END, within the commit of a step (R571): the round in hand is over at its apply step; the round's last
step, or a merge round's step, moves the module to SENDING, and the coordinator fixes the deadline. -/
def State.outerCommit (s : State) (x step : Nat) : State :=
  let s := s.reanchorCommit x step
  match (s.ctx x).outer.cfg with
  | none => s
  | some g =>
    let o := (s.ctx x).outer
    let s := if o.state == .ready && step = o.applyStep g then s.finishRound x step g else s
    let o := (s.ctx x).outer
    if o.merging && o.mergeStep.isNone then
      (s.updOuter x fun o => { o with mergeStep := some step, decision := none, deadline := none }).endRound x step g true
    else if o.state == .local_ && step = o.endStep g then
      let s := s.endRound x step g false
      if s.coordinates x then s.updOuter x fun o => { o with deadline := some (s.now + s.outerWait x g) } else s
    else s

/-- A merge round's deadline counts from the later of the own commit and the last member's complete difference (R582). -/
def State.mergeDue (s : State) (x : Nat) (g : OuterCfg) : State :=
  let o := (s.ctx x).outer
  if s.coordinates x && o.mergeStep.isSome && o.deadline.isNone && o.decision.isNone && (s.otherSites g).all fun j => s.allHave x j 0 true then
    s.updOuter x fun o => { o with deadline := some (s.now + s.outerWait x g) }
  else s

/-- OUTER_HAVE (R573). -/
def execOuterHave (m : OuterMsg) (s : State) : Host.Outcome State Fault Refusal :=
  let s := s.tookPacket 0x07 (siteWord OMsg.have_ m.id :: m.words)
  match s.outerCtx m.id with
  | none => .next s
  | some x =>
    let w := m.words.getD 0 0#64
    let s := s.takeHave x m.src (fld w 3 0) (fld w 55 32) (bitAt w 8)
    match (s.ctx x).outer.cfg with
    | some g => .next (s.mergeDue x g)
    | none => .next s

/-- OUTER_RESEND_REQUEST (R573): the kept round goes to the sites again. -/
def execOuterResendRequest (m : OuterMsg) (s : State) : Host.Outcome State Fault Refusal :=
  let s := s.tookPacket 0x08 (farWord OMsg.resend m.id :: m.words)
  match s.outerCtx m.id with
  | none => .next s
  | some x =>
    let w := m.words.getD 0 0#64
    match (s.ctx x).outer.cfg, (s.ctx x).outer.kept.find? fun k => k.round == fld w 55 32 && k.merge == bitAt w 8 with
    | some g, some d => .next (s.sendDiff x { g with sites := siteMask [fld w 3 0] } d 0)
    | _, _ => .next s

/-! ### Partitions (R581 to R584) -/

/-- This site's HELLO. -/
def State.ownHello (s : State) (x : Nat) : OuterHello :=
  let o := (s.ctx x).outer
  { applied := o.applied, skipped := o.skipped, step := (s.ctx x).job.committed, sinceAnchor := (s.ctx x).job.committed - o.anchor }

def helloWords (site : Nat) (h : OuterHello) : List W64 :=
  [BitVec.ofNat 64 site, BitVec.ofNat 64 h.applied, BitVec.ofNat 64 h.skipped, BitVec.ofNat 64 h.step, BitVec.ofNat 64 h.sinceAnchor]

/-- A module starts to re-anchor from a donor site (R584 to R586): it asks its PEER there for the committed planes. -/
def State.startReanchor (s : State) (x donor : Nat) (by_ : Option CmdRef) : State :=
  match (s.ctx x).outer.cfg with
  | none => s
  | some g =>
    (s.updOuter x fun o => { o with reanchor := some (donor, by_), merging := false, mergeStep := none }).toPeer x g donor OMsg.state_
      [mkWord [(0, 4, s.fabric.site)]]

/-- Every site's HELLO is known: a merge round, or the sites behind re-anchor to the one that R584 ranks first. -/
def State.settleHello (s : State) (x : Nat) (g : OuterCfg) : State :=
  let o := (s.ctx x).outer
  let hs := (List.range 16).filterMap fun j => if Nat.testBit g.sites j then (o.hellos.find j).map fun h => (j, h) else none
  if hs.length < popN 16 g.sites then s
  else
    let s := s.updOuter x fun o => { o with hellos := [] }
    let mods := (s.siteModules x).filter fun m => m ≠ s.fabric.dn
    let k := hs.foldl (fun m p => max m p.2.skipped) 0
    if k ≤ g.staleLimit then
      let s := forL mods (fun m s => s.injectDn 0x07 7 m none 0 [siteWord OMsg.merge g.id]) s
      s.updOuter x fun o => { o with merging := true }
    else
      let first := hs.foldl (fun (b : Nat × Nat) p => if b.2 < p.2.step then (p.1, p.2.step) else b)
        (match hs with | p :: _ => (p.1, p.2.step) | [] => (0, 0))
      if first.1 = s.fabric.site then s
      else
        let s := forL mods (fun m s => s.injectDn 0x07 7 m none 0 [siteWord OMsg.reanchor g.id, BitVec.ofNat 64 first.1]) s
        s.startReanchor x first.1 none

/-- The coordinator sends HELLO when every member site is in touch again after a SKIP (R581, R583); a site that falls out
of touch in a merge round makes it SKIP. -/
def State.touchAct (s : State) (x : Nat) : State :=
  match (s.ctx x).outer.cfg with
  | none => s
  | some g =>
    let o := (s.ctx x).outer
    if !(s.coordinates x) then s
    else if (s.otherSites g).all fun j => Nat.testBit o.touchMask j then
      (if o.skipped = 0 || o.merging || (o.hellos.find s.fabric.site).isSome then s
       else
         let h := s.ownHello x
         let s := forL (s.otherSites g) (fun j s => s.toPeer x g j OMsg.hello (helloWords s.fabric.site h)) s
         (s.updOuter x fun o => { o with hellos := o.hellos.set s.fabric.site h }).settleHello x g)
    else if o.merging && o.decision.isNone then s.sendDecide x g { round := o.round, skip := true, merge := true, onTime := 0, carry := [] }
    else s.updOuter x fun o => { o with hellos := o.hellos.drop s.fabric.site }

/-- TOUCH_REPORT (R570). -/
def execTouchReport (m : OuterMsg) (s : State) : Host.Outcome State Fault Refusal :=
  let s := s.tookPacket 0x07 (siteWord OMsg.touch m.id :: m.words)
  match s.outerCtx m.id with
  | none => .next s
  | some x =>
    if !(s.coordinates x) then .next s
    else
      let w := m.words.getD 0 0#64
      .next ((s.touchSeen x m.src (fld w 3 0) (bitAt w 8)).touchAct x)

/-- After a far restart a module that lacks blocks of the far site asks for the round again (R573). -/
def State.askAgain (s : State) (x site : Nat) : State :=
  let o := (s.ctx x).outer
  match o.cfg with
  | none => s
  | some g =>
    if !(Nat.testBit g.sites site) || site = s.fabric.site then s
    else
      let ask (round : Nat) (merge : Bool) (s : State) : State :=
        s.toPeer x g site OMsg.resend [mkWord [(0, 4, s.fabric.site), (8, 1, b2n merge), (32, 24, round)]]
      let open_ := o.diffs.filter fun d => d.site == site && !(d.whole g)
      let none_ := (o.diff site o.round o.mergeStep.isSome).isNone && (o.state == .sending || o.state == .waiting)
      let s := forL open_ (fun d s => ask d.round d.merge s) s
      if none_ then ask o.round o.mergeStep.isSome s else s

/-- FAR_RESTART_FRAME (R564): the receiver rewinds its open packet and awaits the new count. -/
def execFarRestartFrame (link : Nat) (f : FarFrame) (s : State) : Host.Outcome State Fault Refusal :=
  let r := s.farTake link 0x12 f
  match r.2 with
  | none => .next r.1
  | some p =>
    let n := fld (p.getD 0 0#64) 31 0 * 2 ^ 32
    if n ≤ (r.1.link link).far.rxCount then .next (r.1.farAckSend link)
    else
      let s := ((r.1.farRewind link).updFar link fun q => { q with rxCount := n, rxStart := n, nak := false, nakHold := false }).farAckSend link
      .next (forN 8 (fun x s => s.askAgain x (s.link link).far.site) s)

/-- FAR_TIME (R556, R559, R570). -/
def execFarTime (link : Nat) (f : FarFrame) (s : State) : Host.Outcome State Fault Refusal :=
  if (s.link link).state != .far then .next s
  else
    let r := s.farTake link 0x10 f
    match r.2 with
    | none => .next r.1
    | some p =>
      let s := r.1
      let w (i : Nat) : Nat := (p.getD i 0#64).toNat
      let site := fld (p.getD 0 0#64) 3 0
      let period := 25000 * fld (p.getD 0 0#64) 9 4
      let rtt := if w 4 = 0 then (s.link link).far.rtt else s.steep.ticks - w 4 - w 5
      let there := w 1 * period + fld (p.getD 2 0#64) 19 0 + rtt / 2 - s.steep.phase
      let beyond := decide (400000 < rtt)
      let first := beyond && !(s.link link).far.rttLimit
      let s := s.updFar link fun q => { q with
        rtt := rtt
        rttLimit := beyond
        remoteDn := fld (p.getD 0 0#64) 31 16
        lastTime := some s.now
        lastStamp := w 3
        lastArrival := s.steep.ticks
        remoteCount := if period = 0 then 0 else there / period
        remotePhase := if period = 0 then 0 else there % period }
      let s := if first then s.raise { code := Rec.farRttLimit, cls := .ce, unit := .link link } else s
      .next (forN 8 (fun x s => (s.touchChange x site true).touchAct x) s)

/-- TOUCH_EXPIRY (R570): no link of the module has accepted a FAR_TIME of the site for more than TOUCH_STEEPS steeps. -/
def execTouchExpiry (ctx site : Nat) (s : State) : Host.Outcome State Fault Refusal :=
  match (s.ctx ctx).outer.cfg with
  | none => .next s
  | some g =>
    let near := (List.range 48).any fun l => (s.link l).far.on && (s.link l).far.site == site && match (s.link l).far.lastTime with
      | some t => s.now ≤ t + g.touchSteeps
      | none => false
    if near then .next s else .next ((s.touchChange ctx site false).touchAct ctx)

/-- OUTER_HELLO (R581, R584): the PEER that takes it passes it on to its coordinator. -/
def execOuterHello (m : OuterMsg) (s : State) : Host.Outcome State Fault Refusal :=
  let s := (s.tookPacket 0x08 (farWord OMsg.hello m.id :: m.words)).tookPacket 0x07 (siteWord OMsg.hello m.id :: m.words)
  match s.outerCtx m.id with
  | none => .next s
  | some x =>
    match (s.ctx x).outer.cfg with
    | none => .next s
    | some g =>
      if !(s.coordinates x) then .next (s.toLead g OMsg.hello m.words)
      else
        let w (i : Nat) : Nat := (m.words.getD i 0#64).toNat
        .next ((s.updOuter x fun o => { o with hellos := o.hellos.set (w 0 % 16) { applied := w 1, skipped := w 2, step := w 3, sinceAnchor := w 4 } }).settleHello x g)

/-! ### Joining and re-anchoring by command (R586, R588) -/

/-- OUTER_JOIN and OUTER_REANCHOR. -/
def State.outerFrom (s : State) (k : KReq) : KResult :=
  let x := k.x
  let donor := (k.arg 0).toNat
  if k.args.length ≠ 1 || 15 < donor then done s St.reserved
  else match (s.ctx x).outer.cfg with
    | none => done s St.siteUnknown
    | some g =>
      if donor = s.fabric.site || !(Nat.testBit g.sites donor) then done s St.siteUnknown
      else if (s.ctx x).outer.reanchor.isSome then done s St.busy
      else done (s.startReanchor x donor (some k.ref)) St.accepted

/-- OUTER_JOIN. -/
def execOuterJoin (r : Req) (s : State) : Host.Outcome State Fault Refusal := .next (s.kettle r 0x0205 false anyClass fun k s => s.outerFrom k)
/-- OUTER_REANCHOR. -/
def execOuterReanchor (r : Req) (s : State) : Host.Outcome State Fault Refusal := .next (s.kettle r 0x0206 false anyClass fun k s => s.outerFrom k)

/-- A slice that holds UPD_OUTER_APPLY waits until the module is READY for the round of that step (R577). -/
def State.outerHolds (s : State) (x step : Nat) : Bool := match (s.ctx x).outer.cfg with
  | none => false
  | some g => (s.ctx x).outer.state != .ready && decide ((s.ctx x).outer.applyStep g ≤ step)

end Sys2Proof.Machine
end

