-- ==== Sys2Proof/Machine/Moves.lean ====
section
/-! DEFINITION. Machine/Moves.lean: what a context switch saves, the mirror engine's receiving side, and the transfers of
whole state: takeovers, joins, decants and re-anchoring (R417, R585, R638 to R654). The words of these packets are the
model's own. -/
namespace Sys2Proof.Machine

/-! ### What a context switch saves and restores (R209, R248, R398, R417) -/

/-- LIVE_BYTES of a core for a context (R398). -/
def Ctx.liveBytes (c : Ctx) (k : Nat) : Nat := c.keepLive.get coreBytes k

/-- The live bytes of one core are saved for the context that leaves it; an uncorrectable word goes with its check bits
(R314). -/
def State.saveCore (s : State) (x k : Nat) : State :=
  let n := (s.ctx x).liveBytes k
  let s := s.noteCore k 0 (n / 8) (some x) false 0 0
  let c := s.core k
  let i : Image := {
    live := { cells := c.store.cells.filter fun e => e.1 < n, syn := c.store.syn.filter fun e => 8 * e.1 < n }
    liveBytes := n
    injected := (s.mem.injected.filter fun e => e.1 = (coreMark k 0).1 && 8 * e.2 < n).map (·.2)
    acc := c.chain.map fun h => (c.live, h)
    vec := c.vec }
  s.updCtx x fun q => { q with images := q.images.set k i }

/-- One core as a context left it: bytes beyond the live ones read zero. A context that has never run there finds zero
words and the reset values. -/
def State.restoreCore (s : State) (x k : Nat) : State :=
  let i := (s.ctx x).images.get {} k
  let marks := s.mem.injected.filter fun e => e.1 ≠ (coreMark k 0).1
  let s := { s with mem := { s.mem with injected := marks ++ i.injected.map (coreMark k) } }
  s.updCore k fun c =>
    let c := c.clearSets
    let c := match i.acc with
      | some a => { c.setLive a.1 with chain := some a.2 }
      | none => c
    { c with store := i.live, vec := i.vec, stats := [], limitBlock := none, vrun := none, xfer := none, work := [] }

/-! ### Cores as words -/

/-- The strainer's running predictions as 48 words, a byte for each line, and from them (R179). -/
def Lines.words (p : Lines) : List W64 := packWords 8 (p.rows ++ p.cols ++ p.rowBad ++ p.colBad)
def readLines (ws : List W64) : Lines :=
  let v := (ws.flatMap wordBytes).map BitVec.toNat
  { rows := v.take 64, cols := (v.drop 64).take 128, rowBad := (v.drop 192).take 64, colBad := (v.drop 256).take 128 }

/-- A core's saved state as words: LIVE_BYTES and the live bytes; the accumulator set with its chain; the vector
state. -/
def Image.words (i : Image) : List W64 :=
  let m := i.live
  let acc := match i.acc with
    | some a => 1#64 :: packWords 32 ((List.range 8192).map fun n => (a.1.cells.getD n 0#32).toNat) ++
        [mkWord [(0, 32, a.2.tileId), (32, 4, a.2.slot)], a.2.step, BitVec.ofNat 64 a.2.k, BitVec.ofNat 64 a.2.kChain] ++ a.2.pred.words
    | none => [0#64]
  let vec := (List.range 64).flatMap fun r => packWords 32 ((List.range 64).map fun n => ((i.vec.v.get [] r).getD n 0#32).toNat)
  let rest := (List.range 8).map (fun r => i.vec.m.get 0#64 r) ++ (List.range 32).map fun r => i.vec.sc.get 0#64 r
  BitVec.ofNat 64 i.liveBytes :: m.words 0 (i.liveBytes / 8) ++ acc ++ vec ++ rest ++ [mkWord [(0, 7, i.vec.vl), (8, 7, i.vec.flags)]]

/-- 32-bit lanes of words. -/
def halves (ws : List W64) : List W32 := ws.flatMap fun w => [BitVec.ofNat 32 w.toNat, BitVec.ofNat 32 (w.toNat / 2 ^ 32)]

/-- The saved state that words hold, for a context. -/
def readImage (x : Nat) (ws : List W64) : Image :=
  let n := (ws.getD 0 0#64).toNat
  let m := ({} : Mem).storeWords 0 ((ws.drop 1).take (n / 8))
  let r := ws.drop (1 + n / 8)
  let has := r.getD 0 0#64 == 1#64
  let h (i : Nat) : W64 := r.getD (4097 + i) 0#64
  let v := r.drop (if has then 4149 else 1)
  { live := m, liveBytes := n
    acc := if has then some ({ state := .held, cells := halves ((r.drop 1).take 4096) },
      { tileId := fld (h 0) 31 0, slot := fld (h 0) 35 32, step := h 1, ctx := some x, k := (h 2).toNat, kChain := (h 3).toNat
        pred := readLines ((r.drop 4101).take 48) }) else none
    vec := {
      v := (List.range 64).map fun i => (i, halves ((v.drop (32 * i)).take 32))
      m := (List.range 8).map fun i => (i, v.getD (2048 + i) 0#64)
      sc := (List.range 32).map fun i => (i, v.getD (2056 + i) 0#64)
      vl := fld (v.getD 2088 0#64) 6 0, flags := fld (v.getD 2088 0#64) 14 8 } }

/-! ### A stream of state (R649, R651, R653) -/

/-- A piece of a stream: its part (0 the metadata, 1 slow tier, 2 fast tier, 3 cores), its place, and its words. -/
structure Piece where
  part : Nat
  key : W64
  words : List W64
deriving DecidableEq, Repr

/-- First byte of a context's slow window, and of its fast window. -/
def Ctx.slowStart (c : Ctx) : Nat := ownBase + c.slowBase * 0x40000000
def Ctx.fastStart (c : Ctx) : Nat := c.fastBase * 0x200000

/-- Pieces of `n` words of a run of memory; places count in bytes from the window's start. -/
def Mem.pieces (m : Mem) (part n start addr bytes : Nat) : List Piece :=
  (List.range (bytes / 8 / n)).map fun i =>
    { part := part, key := BitVec.ofNat 64 (addr - start + 8 * n * i), words := m.words (addr / 8 + n * i) n }

/-- Granules of the committed state of a set that a PLANE_MASK selects: 0 selects every plane, factor slots and headers
come with any mask (R655). -/
def SetReg.chosen (r : SetReg) (sl mask : Nat) : List Nat :=
  let p := planesS r.outer
  let off (g : Nat) : Nat := (g - r.base) / 65536 / tilesPad r.t
  (r.granules sl).filter fun g => mask = 0 || 2 * p ≤ off g || Nat.testBit mask (off g % p)

/-- What reading the committed state of a context finds in the tiers (R313, R317). -/
def State.noteSlow (s : State) (x delta mask slot : Nat) (sets : List SetReg) : State :=
  forL (sets.flatMap fun r => r.chosen slot mask) (fun g s => s.noteTier ((g + delta) / 8) 8192 (some x) false 0 0) s

/-- The committed state: granules, read `delta` above the own half, and the metadata. Set bases count from the window's
start. -/
def State.slowPieces (s : State) (c : Ctx) (n delta mask version slot step : Nat) (sets : List SetReg) : List Piece :=
  let gs := sets.flatMap fun r => r.chosen slot mask
  let reg := sets.flatMap fun r => [BitVec.ofNat 64 (r.base - c.slowStart), mkWord [(0, 24, r.t), (24, 1, b2n r.outer)]]
  let regs := if reg.isEmpty then [[]] else chunksOf 500 reg
  (gs.flatMap fun g => s.mem.space.pieces 1 n (c.slowStart + delta) (g + delta) 65536) ++
    (List.range regs.length).map fun i => {
      part := 0, key := BitVec.ofNat 64 (500 * i)
      words := [BitVec.ofNat 64 version, BitVec.ofNat 64 slot, BitVec.ofNat 64 step, BitVec.ofNat 64 reg.length] ++ regs.getD i [] }

/-- The live bytes of the context's cores: of a die that it holds at this boundary as its cores stand, else as saved. -/
def State.corePieces (s : State) (x n : Nat) : List Piece :=
  let held (d : Nat) : Bool := s.dieHolder d s.now == some x
  let s := forN 8 (fun d s => if Nat.testBit (s.ctx x).dieMask d && held d then forN 64 (fun i s => s.saveCore x (64 * d + i)) s else s) s
  ((List.range 512).filter fun k => Nat.testBit (s.ctx x).dieMask (k / 64)).flatMap fun k =>
    let cs := chunksOf n ((s.ctx x).images.get {} k).words
    (List.range cs.length).map fun i => { part := 3, key := mkWord [(0, 9, k), (16, 32, i)], words := cs.getD i [] }

/-- First word of a state packet: part, context at the receiver, the stream's number, and its packets in all. -/
def stateWord (part x stream n : Nat) : W64 := mkWord [(0, 8, part), (8, 3, x), (16, 16, stream), (32, 32, n)]

/-- Sends pieces on KIND 0x05, VC5. -/
def State.sendPieces (s : State) (x : Nat) (dst : List W64) (other : Nat) (ps : List Piece) : State :=
  forL ps (fun p s => s.inject 0x05 5 dst (some x) 0 (stateWord p.part other s.now ps.length :: p.key :: p.words)) s

/-- First header word of a packet of joining state: a SHARD and a PACKET beyond those of any layer, so that it stands for no
packet of weights (R712). The layout is the model's own (log 52). -/
def joinWord : W64 := mkWord [(32, 16, 0xFFFF), (48, 9, 0x1FF)]

/-- Sends pieces along an infuser chain as packets of KIND 0x03, VC4; JOB_ID follows the two header words (R538, R651, R712). -/
def State.sendAlong (s : State) (x chain : Nat) (ps : List Piece) : State :=
  forL ((s.ctx x).chains.get [] chain) (fun dst s =>
    forL ps (fun p s => s.inject 0x03 4 dst (some x) 0
      (joinWord :: 0#64 :: (s.ctx x).jobId :: stateWord p.part 0 s.now ps.length :: p.key :: p.words)) s) s

/-- The donor's committed planes for a re-anchoring site, restricted to W, AN and B of the outer sets (R585). -/
def State.sendPlanes (s : State) (x site : Nat) : State :=
  match (s.ctx x).outer.cfg with
  | none => s
  | some g =>
    let c := s.ctx x
    let rs := c.upd.sets.filter fun r => r.outer
    let keys := (List.range rs.length).flatMap fun k => (List.range ((rs[k]?.map (·.t)).getD 0)).flatMap fun t =>
      [0, 1, 2].flatMap fun q => (List.range 8).map fun p => (k, q, t, p)
    let round := c.outer.round + 1
    forL keys (fun (k, q, t, p) s =>
      let r := rs.getD k { base := 0, t := 0, outer := true }
      let plane := c.upd.slot * 5 + [0, 3, 4].getD q 0
      let a := r.base + (plane * tilesPad r.t + t) * 65536
      (s.noteTier (a / 8 + 1024 * p) 1024 (some x) false 0 0).toPeer x g site OMsg.planes (mkWord [(0, 16, s.now), (16, 16, round / 256), (32, 32, keys.length)] ::
        mkWord [(0, 16, k), (16, 4, q), (24, 28, t), (52, 4, p), (56, 8, round)] :: s.mem.space.words (a / 8 + 1024 * p) 1024)) s

/-! ### The other side's answer (R649, R651, R653, R656) -/

/-- Another module asks for a transfer (JobCmds.askMove): the status that goes back, and what is set going. -/
def State.moveAsked (s : State) (code src : Nat) (ws : List W64) : State × Nat :=
  let a := ws.getD 0 0#64
  let job := ws.getD 1 0#64
  let w := ws.getD 2 0#64
  let from_ := fld a 10 8
  let same (x : Nat) : Bool := (s.ctx x).slowGib = fld w 41 32 && (s.ctx x).slowBase = fld w 56 48
  if code = 0x0306 then
    let x := fld a 2 0
    let c := s.ctx x
    if c.state == .free || !c.job.spare || c.jobId ≠ job then (s, St.notMember)
    else if c.slowGib ≠ fld w 41 32 || c.fastPages ≠ fld w 18 0 then (s, St.windowMismatch)
    else if c.busy || c.job.transfer.isSome then (s, St.busy)
    else (s.updJob x fun j => { j with transfer := some {
      kind := .decantTarget, by_ := none, agreed := true, parts := fld a 38 36, peer := (s.pathOfDn src).getD [], targetCtx := from_ } }, St.accepted)
  else match s.ctxOfJob job with
    | none => (s, St.notMember)
    | some x =>
      let c := s.ctx x
      if !same x then (s, St.windowMismatch)
      else if code = 0x0304 then
        let ch := fld a 6 4
        (s.updJob x fun j => { j with joinsDue := addOnce j.joinsDue ch }, St.accepted)
      else
        let m := c.job.mirror
        if c.job.mirrorSource ≠ some (fld a 32 16) then (s, St.notMember)
        else if m.state ≠ 2 then (s, St.mirrorIncomplete)
        else ((s.noteSlow x (mirrorBase - ownBase) 0 m.slot m.sets).sendPieces x ((s.pathOfDn src).getD []) from_
          (s.slowPieces c 1024 (mirrorBase - ownBase) 0 m.version m.slot m.step m.sets), St.accepted)

/-- What leaves at a boundary: joins asked for in the closed steep, planes for re-anchoring sites, and decants of contexts
with no stream running, which are set STOPPED first (R651, R653, R585). -/
def State.moveStates (s : State) : State :=
  forN 8 (fun x s =>
    let c := s.ctx x
    let s := if c.job.joinsDue.isEmpty then s else
      let ps := s.slowPieces c 512 0 0 c.upd.version c.upd.slot c.upd.step c.upd.sets
      let s := s.noteSlow x 0 0 c.upd.slot c.upd.sets
      (forL c.job.joinsDue (fun ch s => s.sendAlong x ch ps) s).updJob x fun j => { j with joinsDue := [] }
    let s := (forL c.outer.asked (fun j s => s.sendPlanes x j) s).updCtx x fun q => { q with outer := { q.outer with asked := [] } }
    match c.job.transfer with
    | some t =>
      if t.kind != .decantSource || !t.agreed || 0 < t.packets || c.slots.any (fun e => e.2.streams.any fun m => m.started) then s
      else
        let s := s.updCtx x fun q => { q with state := if q.state == .active || q.state == .draining then .stopped else q.state }
        let s := if Nat.testBit t.parts 0 then s.noteSlow x 0 t.planeMask c.upd.slot c.upd.sets else s
        let s := if Nat.testBit t.parts 1 then s.noteBytes c.fastStart (c.fastPages * 0x200000) (some x) 0x0306 0 else s
        let slow := if Nat.testBit t.parts 0 then
          s.slowPieces c 1024 0 t.planeMask c.upd.version c.upd.slot c.upd.step c.upd.sets else []
        let fast := if Nat.testBit t.parts 1 then
          s.mem.space.pieces 2 1024 c.fastStart c.fastStart (c.fastPages * 0x200000) else []
        let cores := if Nat.testBit t.parts 2 then s.corePieces x 1024 else []
        let ps := slow ++ fast ++ cores
        let ps := if ps.isEmpty then [{ part := 4, key := 0#64, words := [] }] else ps
        (s.sendPieces x t.peer t.targetCtx ps).updJob x fun j => { j with transfer := some { t with packets := ps.length } }
    | none => s) s

/-! ### Taking a stream of state -/

/-- A packet of a stream enters the context's state: tiers are written at once, the registry and the cores' parts when the
stream is whole. A stream of another number begins again; a second copy is discarded (R494). -/
def State.takePiece (s : State) (x : Nat) (w key : W64) (ws : List W64) : State :=
  let c := s.ctx x
  match c.job.transfer with
  | none => s
  | some t =>
    if t.kind == .decantSource then s
    else
      let t := if t.packets = 0 || t.stream ≠ fld w 31 16 then
          { t with stream := fld w 31 16, packets := fld w 63 32, taken := 0, bytes := 0, keys := [], head := none, registry := [], cores := [] }
        else t
      let part := fld w 7 0
      let n := key.toNat
      if t.keys.contains (part, n) then s else
      let s := if part = 1 && c.slowSpan (c.slowStart + n) (8 * ws.length) then s.storeTier ((c.slowStart + n) / 8) ws
        else if part = 2 && c.fastSpan (c.fastStart + n) (8 * ws.length) then s.storeTier ((c.fastStart + n) / 8) ws
        else s
      let t := { t with taken := t.taken + 1, keys := t.keys ++ [(part, n)], bytes := t.bytes + 8 * ws.length }
      let t := if part = 0 then { t with head := some (ws.take 4), registry := t.registry.set n (ws.drop 4) }
        else if part = 3 then { t with cores := t.cores.set (fld key 8 0, fld key 47 16) ws }
        else t
      s.updJob x fun j => { j with transfer := some t }

/-- Every packet of the stream is written. -/
def Transfer.whole (t : Transfer) : Bool := decide (0 < t.packets) && decide (t.packets ≤ t.taken)

/-- DECANT_PACKET (R649, R653): a packet of KIND 0x05. -/
def execDecantPacket (p : Pkt) (s : State) : Host.Outcome State Fault Refusal :=
  if s.isEarly (fld p.route 63 48) then .next (s.holdEarly (.packet (fld p.route 15 8) p)) else
  if fld p.route 15 8 ≠ 5 then .next s
  else
    let w := p.body.getD 0 0#64
    if s.shuns (fld p.route 47 32) then .next (s.tookPacket 0x05 p.body)
    else .next ((s.tookPacket 0x05 p.body).takePiece (fld w 10 8) w (p.body.getD 1 0#64) (p.body.drop 2))

/-- A packet of a join (R651): it goes on along the chain that JOB_JOIN named, and is taken. -/
def State.takeJoin (s : State) (body : List W64) : State :=
  let mine (x : Nat) : Bool := (s.ctx x).jobId == body.getD 2 0#64 && (match (s.ctx x).job.transfer with
    | some t => t.kind == .join
    | none => false)
  match (List.range 8).find? mine with
  | none => s
  | some x =>
    let ch := ((s.ctx x).job.transfer.map (·.chain)).getD 0
    let s := forL ((s.ctx x).chains.get [] ch) (fun dst s => s.inject 0x03 4 dst (some x) 0 body) s
    s.takePiece x (body.getD 3 0#64) (body.getD 4 0#64) (body.drop 5)

/-- The versions and the registry take the stream's values, a core part is restored as by a context switch: into a die that
the context holds, else into the save area. The scale history returns to its reset value (R122, R649, R651, R653). -/
def State.settleState (s : State) (x : Nat) (t : Transfer) : State :=
  let c := s.ctx x
  let reg := (readRegistry false (t.registry.foldl (fun l e => l ++ e.2) [])).map fun r => { r with base := r.base + c.slowStart }
  let s := match t.head with
    | some h => s.updCtx x fun c => { c with
        upd := { c.upd with version := (h.getD 0 0#64).toNat, slot := (h.getD 1 0#64).toNat, step := (h.getD 2 0#64).toNat, prevStep := none, sets := reg }
        job := { c.job with committed := (h.getD 2 0#64).toNat } }
    | none => s
  let ks := (t.cores.map fun e => e.1.1).eraseDups
  let s := forL ks (fun k s =>
    let n := (t.cores.filter fun e => e.1.1 == k).length
    let i := readImage x ((List.range n).flatMap fun i => t.cores.get [] (k, i))
    let s := s.updCtx x fun c => { c with images := c.images.set k i, keepLive := c.keepLive.set k i.liveBytes }
    if Nat.testBit c.dieMask (k / 64) && s.dieHolder (k / 64) s.now == some x then s.restoreCore x k else s) s
  (s.updCtx x Ctx.resetHistory).updJob x fun j => { j with transfer := none }

/-- A transfer of one kind that is whole. -/
def State.wholeMove (s : State) (x : Nat) (kind : TransferKind) : Option Transfer := match (s.ctx x).job.transfer with
  | some t => if t.kind == kind && t.whole then some t else none
  | none => none

/-- TAKEOVER_COMPLETE (R649, R650): the spare has written the mirrored state; its own mirror half is EMPTY. -/
def execTakeoverComplete (ctx : Nat) (s : State) : Host.Outcome State Fault Refusal :=
  match s.wholeMove ctx .takeover with
  | none => .next s
  | some t =>
    let s := (s.settleState ctx t).updJob ctx fun j => { j with mirror := { fullDue := decide (j.stride ≠ 0) } }
    let e : Event := { kind := 0x0304, detail := BitVec.ofNat 64 (s.ctx ctx).upd.step }
    .next (match t.by_ with
      | some r => s.cmdEvent r (some ctx) e
      | none => s.event ctx e)

/-- JOIN_COMPLETE (R651): the joiner has received the donor's committed state. -/
def execJoinComplete (ctx : Nat) (s : State) : Host.Outcome State Fault Refusal :=
  match s.wholeMove ctx .join with
  | none => .next s
  | some t =>
    let s := s.settleState ctx t
    let e : Event := { kind := 0x0305, detail := BitVec.ofNat 64 (s.ctx ctx).upd.step }
    .next (match t.by_ with
      | some r => s.cmdEvent r (some ctx) e
      | none => s.event ctx e)

/-- DECANT_COMPLETE (R653) at the target: DECANT_DONE is written to its context, and the source is told. -/
def execDecantComplete (ctx : Nat) (s : State) : Host.Outcome State Fault Refusal :=
  match s.wholeMove ctx .decantTarget with
  | none => .next s
  | some t =>
    let mib := BitVec.ofNat 64 (t.bytes / 2 ^ 20)
    let s := (s.settleState ctx t).event ctx { kind := 0x0306, detail := mib }
    .next (s.inject 0x07 7 t.peer none 0 [domainWord 0x0306, BitVec.ofNat 64 t.targetCtx, mib])

/-- The target has told the source of a decant that its state is written: DECANT_DONE (R653). -/
def State.decantDone (s : State) (x : Nat) (mib : W64) : State :=
  match (s.ctx x).job.transfer with
  | some t =>
    if t.kind != .decantSource then s
    else
      let s := s.updJob x fun j => { j with transfer := none }
      let e : Event := { kind := 0x0306, detail := mib }
      (match t.by_ with
        | some r => s.cmdEvent r (some x) e
        | none => s.event x e)
  | none => s

/-- The answer to a request for a transfer: one that does not agree ends it. -/
def State.moveAnswered (s : State) (ref : CmdRef) (status : Nat) : State :=
  forN 8 (fun x s => match (s.ctx x).job.transfer with
    | some t =>
      if t.by_ ≠ some ref || t.agreed then s
      else s.updJob x fun j => { j with transfer := if status = St.accepted then some { t with agreed := true } else none }
    | none => s) s

/-! ### The mirror engine's receiving side (R638 to R644) -/

/-- The context that a mirror packet is for: the one of its number when `who` names the sender there, else the first of
which it does. -/
def State.mirrorCtx (s : State) (x src : Nat) (who : Job → Option Nat) : Option Nat :=
  if who (s.ctx x).job = some src then some x else (List.range 8).find? fun y => who (s.ctx y).job == some src

/-- The step in progress with these low 16 bits, or the oldest. -/
def Job.stepTagged (j : Job) (tag : Nat) : Option Nat :=
  match j.steps.find? fun t => t.step % 65536 = tag with
  | some t => some t.step
  | none => j.steps.head?.map (·.step)

/-- A packet of the step `tag` begins a new count when the step is another one. -/
def Mirror.forStep (m : Mirror) (tag : Nat) : Mirror :=
  if m.tag = tag then m else { m with tag := tag, received := 0, seen := [], metadata := none }

/-- Every granule and the metadata are written: MIRROR_DONE goes to the source, and the first whole copy makes the mirror
COMPLETE (R640, R642). -/
def State.mirrorWhole (s : State) (x src : Nat) : State :=
  let m := (s.ctx x).job.mirror
  match m.metadata with
  | none => s
  | some d =>
    let n : Nat := d.words.foldl (fun n e => n + e.2.length) 0
    if n < d.total || m.received < d.parts then s
    else
      let ws := d.words.foldl (fun l e => l ++ e.2) []
      let m := { m with received := 0, seen := [], metadata := none, staged := (m.staged.filter fun e => e.1 ≠ d.forStep) ++ [(d.forStep, d)] }
      let m := if m.state = 2 then m else
        { m with state := 2, slot := d.slot, version := d.version, step := d.step, sets := readRegistry false ws }
      (s.updJob x fun j => { j with mirror := m }).jobMsg x src Msg.mirrorDone 0 d.forStep 0

/-- A granule's part, or metadata, of the source's step reaches the buddy. One outside the context's window, or of a caddy
that is fenced, fails the step with MIRROR (R638 to R640); a second copy is discarded (R494). -/
def State.takeMirror (s : State) (x src tag addr : Nat) (body : List W64) : State :=
  let s := s.updJob x fun j => { j with mirror := j.mirror.forStep tag }
  let mark := addr
  let addr := if addr = MirrorMark.metadata then addr else addr / 8192 * 8192
  if addr ≠ MirrorMark.metadata && (s.ctx x).job.mirror.seen.contains mark then s
  else if addr = MirrorMark.metadata then
    let w (i : Nat) : W64 := body.getD i 0#64
    let m := (s.ctx x).job.mirror
    let d := m.metadata.getD {
      forStep := (w 1).toNat, version := (w 2).toNat, slot := fld (w 3) 0 0, wrote := bitAt (w 3) 1, step := (w 4).toNat, parts := (w 5).toNat
      total := (w 6).toNat }
    let d := { d with words := d.words.set (w 7).toNat (body.drop 8) }
    (s.updJob x fun j => { j with mirror := { j.mirror with metadata := some d } }).mirrorWhole x src
  else if !((s.ctx x).slowSpan addr 8192) || s.fencedUnit (.caddy (caddyOf addr)) then
    match (s.ctx x).job.stepTagged tag with
    | some n => s.failStep x n CauseOf.mirror s.now
    | none => s
  else
    let s := s.storeTier ((addr + (mirrorBase - ownBase)) / 8) (body.drop 1)
    let g := (addr + (mirrorBase - ownBase)) / 65536 * 65536
    (s.updJob x fun j => { j with mirror := { j.mirror with
      received := j.mirror.received + 1
      seen := j.mirror.seen ++ [mark]
      state := max 1 j.mirror.state
      stale := if addr % 65536 = 57344 then j.mirror.stale.filter fun a => a ≠ g else j.mirror.stale } }).mirrorWhole x src

/-- The buddy sends back a granule from its mirror, in eight packets (R644). -/
def State.answerRepair (s : State) (x src g : Nat) : State :=
  forN 8 (fun i s => (s.noteTier ((g + 8192 * i + (mirrorBase - ownBase)) / 8) 1024 (some x) false 0 0).injectDn 0x04 5 src
    (some x) 0 (mirrorWord 0 MirrorMark.answer :: BitVec.ofNat 64 (g + 8192 * i) ::
    s.mem.space.words ((g + 8192 * i + (mirrorBase - ownBase)) / 8) 1024)) s

/-- A granule's part from the buddy: the caddies write it, and the repair of the granule is over with its last part
(R644). -/
def State.takeRepair (s : State) (x addr : Nat) (ws : List W64) : State :=
  let g := addr / 65536 * 65536
  let s := if (s.ctx x).slowSpan addr 8192 then s.storeTier (addr / 8) ws else s
  s.updJob x fun j =>
    let parts := addOnce j.mirror.repaired addr
    let all := (List.range 8).all fun i => parts.contains (g + 8192 * i)
    { j with mirror := { j.mirror with
      repairDue := if all then j.mirror.repairDue.filter fun a => a ≠ g else j.mirror.repairDue
      repaired := if all then parts.filter fun a => a / 65536 * 65536 ≠ g else parts } }

/-- Version slot that holds the state of a step, committed or previous (R68, R69). -/
def Upd.slotOf (v : Upd) (step : Nat) : Option Nat :=
  if step = v.step then some v.slot else if v.prevStep = some step then some (1 - v.slot) else none

/-- A read of committed state by its step (R69), as another module asks for it: VERSION_GONE where this module no longer holds
the step. A question alone brings no words, so that a read asks every module before it takes data from any; no command of the
module asks (log 84). The words are those of the version slot, from an offset within it. -/
def State.readCommitted (s : State) (job : W64) (step base off n : Nat) (ask : Bool) : State × Nat × List W64 :=
  match s.ctxOfJob job with
  | none => (s, St.notMember, [])
  | some x =>
    let v := (s.ctx x).upd
    match v.slotOf step, v.sets.find? fun r => r.base == base with
    | none, _ => (s, St.versionGone, [])
    | some _, none => (s, St.memoryRange, [])
    | some sl, some r =>
      let size := planesS r.outer * tilesPad r.t * 65536
      let a := (base + sl * size + off) / 8
      if size < off + 8 * n || off % 8 ≠ 0 then (s, St.memoryRange, [])
      else if ask then (s, St.ok, [])
      else (s.noteTier a n (some x) false 0 0, St.ok, (s.mem.space.words a n))

/-- MIRROR_PACKET (R639, R640, R643, R644): a packet of KIND 0x04. -/
def execMirrorPacket (p : Pkt) (s : State) : Host.Outcome State Fault Refusal :=
  if s.isEarly (fld p.route 63 48) then .next (s.holdEarly (.packet (fld p.route 15 8) p)) else
  if fld p.route 15 8 ≠ 4 then .next s
  else
    let s := s.tookPacket 0x04 p.body
    let src := fld p.route 47 32
    let w := p.body.getD 0 0#64
    let addr := fld w 47 0
    let a := (p.body.getD 1 0#64).toNat
    let at_ (who : Job → Option Nat) (act : Nat → State) : State := match s.mirrorCtx (fld p.route 18 16) src who with
      | some x => act x
      | none => s
    if s.shuns src then .next s
    else .next (
      if addr = MirrorMark.stale then at_ Job.buddyDn fun x =>
        s.updJob x fun j => { j with mirror := { j.mirror with resend := addOnce j.mirror.resend a } }
      else if addr = MirrorMark.answer then at_ Job.buddyDn fun x => s.takeRepair x a (p.body.drop 2)
      else if addr = MirrorMark.repair then at_ Job.sourceDn fun x => s.answerRepair x src a
      else at_ Job.sourceDn fun x => s.takeMirror x src (fld w 63 48) addr p.body)

/-- The commit of a step reaches the mirror of the context's source (R641): MIRROR_SLOT, V, STEP and the registry become
those after the commit. -/
def State.mirrorCommit (s : State) (x step : Nat) : State :=
  s.updJob x fun j =>
    let m := j.mirror
    match m.staged.find? fun e => e.1 == step with
    | none => j
    | some e =>
      let d := e.2
      let ws := d.words.foldl (fun l e => l ++ e.2) []
      { j with mirror := { m with
        slot := if d.wrote then 1 - d.slot else d.slot
        version := d.version + b2n d.wrote
        step := if d.wrote then step else d.step
        sets := readRegistry true ws
        staged := m.staged.filter fun e => step < e.1 } }

end Sys2Proof.Machine
end

