-- ==== Sys2Proof/Machine/Serving.lean ====
section
/-! DEFINITION. Machine/Serving.lean: model slots, infuser loads, passes and barriers, and the replacement wave (R706 to
R729, R736 to R740). -/
namespace Sys2Proof.Machine

/-! ### Layers, shards, packets (R706 to R708, R712) -/

/-- A layer's place and bytes, from the layer table (R706). -/
def State.layerEntry (s : State) (md : Model) (l : Nat) : Nat × Nat :=
  (fld (s.mem.space.word (md.tableAddr / 8 + 2 * l)) 47 0, fld (s.mem.space.word (md.tableAddr / 8 + 2 * l + 1)) 39 0)

/-- What reading a layer's entry finds (R313). -/
def State.noteEntry (s : State) (x : Nat) (md : Model) (l : Nat) : State := s.noteTier (md.tableAddr / 8 + 2 * l) 2 (some x) false 0x60 0

/-- Bytes of one staging buffer, and the place of a layer in the image (R706, R707). -/
def State.bufferBytes (s : State) (md : Model) : Nat := (List.range md.layers).foldl (fun n l => max n (s.layerEntry md l).2) 0
def State.layerOffset (s : State) (md : Model) (l : Nat) : Nat := (List.range l).foldl (fun n i => n + (s.layerEntry md i).2) 0
/-- First byte of a staging buffer. -/
def State.bufferAt (s : State) (md : Model) (b : Nat) : Nat := md.stageAddr + b % 2 * s.bufferBytes md

def shardBytes (layerBytes j : Nat) : Nat := min 4194304 (layerBytes - 4194304 * j)
def shardsIn (layerBytes : Nat) : Nat := cdiv layerBytes 4194304
def packetsIn (n : Nat) : Nat := cdiv n 8192

/-- AES-256-CTR over the words at an image offset; a handle of 0 means plaintext (R708). -/
def State.modelCrypt (s : State) (md : Model) (nonce off : Nat) (ws : List W64) : List W64 :=
  if md.key = 0 then ws
  else match s.trust.resolve md.key with
    | none => ws
    | some e => natWords (aesStream (aesKeys (wordsNat e.2.key)) (fun i => be16 (nonce * 2 ^ 64 + (off / 16 + i) % 2 ^ 64)) (wordsNat ws))

/-- The header words of an infuser packet (R712). -/
def infHead (m : Nat) (enc : Bool) (version layer shard packet loadId : Nat) : List W64 :=
  [mkWord [(0, 2, m), (2, 1, b2n enc), (8, 8, version), (16, 10, layer), (32, 16, shard), (48, 9, packet)], BitVec.ofNat 64 (loadId % 2 ^ 32)]

/-- Sends an infuser packet along a chain (R538, R539). -/
def State.forwardChain (s : State) (x chain : Nat) (body : List W64) : State :=
  forL ((s.ctx x).chains.get [] chain) (fun dst s => s.inject 0x03 4 dst (some x) 0 body) s

/-- Counts bytes that the infuser has written (R739). -/
def State.infWrote (s : State) (n : Nat) : State :=
  { s with infMib := satN 32 (s.infMib + (s.infBytes + n) / 2 ^ 20), infBytes := (s.infBytes + n) % 2 ^ 20 }

/-- One packet's plaintext is written at a place. -/
def State.infWrite (s : State) (addr : Nat) (ws : List W64) : State := (s.storeTier (addr / 8) ws).infWrote (8 * ws.length)

/-- A whole shard from its source: each packet goes along the chain as it arrived and is written decrypted (R710, R714). -/
def State.writeShard (s : State) (x m l j base nonce version loadId chain : Nat) (ws : List W64) : State :=
  let md := (s.ctx x).model m
  let off := s.layerOffset md l + 4194304 * j
  let ps := chunksOf 1024 ws
  forN ps.length (fun i s =>
    let p := ps.getD i []
    (s.forwardChain x chain (infHead m (md.key ≠ 0) version l j i loadId ++ p)).infWrite (base + 4194304 * j + 8192 * i)
      (s.modelCrypt md nonce (off + 8192 * i) p)) s

/-! ### Model slots (R706, R711, R736) -/

/-- MODEL_DEFINE (R706, R736). -/
def execModelDefine (r : Req) (s : State) : Host.Outcome State Fault Refusal :=
  .next (s.kettle r 0x0500 false anyClass fun k s =>
    let a := k.arg 0
    let x := fld a 2 0
    let m := fld a 5 4
    let c := s.ctx x
    let md : Model := {
      state := .empty, streamed := bitAt a 6, layers := fld a 17 8, tableAddr := (k.arg 1).toNat, stageAddr := (k.arg 2).toNat
      key := fld a 63 32, nonce := (k.arg 3).toNat }
    let es := (List.range md.layers).map fun l => s.layerEntry md l
    if k.args.length ≠ 4 || bitAt a 3 || bitAt a 7 || fld a 31 18 ≠ 0 || md.layers = 0 || md.tableAddr % 8 ≠ 0 || md.stageAddr % 8 ≠ 0 ||
       (c.fastSpan md.tableAddr (16 * md.layers) && es.any fun e => e.2 % 4096 ≠ 0 || e.1 % 8 ≠ 0) then done s St.reserved
    else if !s.ctxNamed k.mb x then done s St.badContext
    else if !(c.fastSpan md.tableAddr (16 * md.layers)) || !(c.fastSpan md.stageAddr (2 * s.bufferBytes md)) ||
       es.any (fun e => !(c.fastSpan e.1 e.2)) then done s St.memoryRange
    else if (c.model m).state != .free then done s St.modelState
    else if md.key ≠ 0 && !((s.trust.resolve md.key).any fun e => e.2.kind = 1 && e.2.ctx = x) then done s St.modelKey
    else done ((forN md.layers (fun l s => s.noteEntry x md l) s).updModel x m fun _ => md) St.ok)

/-- MODEL_RELEASE (R720, R736): the slot is FREE, its passes end, and a load for it in progress ends with MODEL_STATE. -/
def execModelRelease (r : Req) (s : State) : Host.Outcome State Fault Refusal :=
  .next (s.kettle r 0x0501 false anyClass fun k s =>
    let a := k.arg 0
    let x := fld a 2 0
    let m := fld a 5 4
    if k.args.length ≠ 1 || bitAt a 3 || fld a 63 6 ≠ 0 then done s St.reserved
    else if !s.ctxNamed k.mb x then done s St.badContext
    else if ((s.ctx x).model m).state == .free then done s St.modelState
    else
      let mine (l : Load) : Bool := l.ctx == x && l.model == m
      let s := forL (s.loads.filter mine) (fun l s => s.failSlot l.ctx l.slot St.modelState) s
      done ({ s with loads := s.loads.filter fun l => !(mine l) }.updModel x m fun md => { shown := md.shown }) St.ok)

/-! ### Loading in a stream (R713 to R716) -/

/-- Every shard of every layer stands in place. -/
def State.allLoaded (s : State) (md : Model) : Bool :=
  (List.range md.layers).all fun l => (List.range (shardsIn (s.layerEntry md l).2)).all fun j => md.loaded.contains (l, j)

/-- Shards loaded into place: an EMPTY model with every layer loaded becomes READY with VERSION 0 (R714). -/
def State.placeLoaded (s : State) (x m l : Nat) (js : List Nat) : State :=
  let s := s.updModel x m fun md => if md.state == .empty then
    { md with loaded := js.foldl (fun t j => if t.contains (l, j) then t else t ++ [(l, j)]) md.loaded } else md
  if ((s.ctx x).model m).state == .empty && s.allLoaded ((s.ctx x).model m) then
    s.updModel x m fun md => { md with state := .ready, oldVersion := 0, newVersion := 0, loaded := [] }
  else s

/-- INF_LOAD (R713 to R716): from the host and from a local context the shards are read and written at once; from a chain
they come as packets. After a failed host access the load waits for its shards, which are asked for again (R727, R779). -/
def execInfLoad (ctx slot : Nat) (cmd : Cmd) (host : HostRead) (s : State) : Host.Outcome State Fault Refusal :=
  match s.takeNext ctx slot 0x60 [3] cmd with
  | none => .next s
  | some (t, s) =>
    let w0 := cmd.w 0
    let m := fld w0 17 16
    let md := (s.ctx ctx).model m
    let source := fld w0 19 18
    let l := fld w0 31 22
    let first := fld w0 47 32
    let count := fld w0 63 48
    let bytes := (s.layerEntry md l).2
    let src := (cmd.w 2).toNat
    let chain := fld (cmd.w 3) 2 0
    let loadId := fld (cmd.w 3) 63 32
    let nonce := (cmd.w 4).toNat
    let inPlace := !bitAt w0 20
    let base := if inPlace then (s.layerEntry md l).1 else s.bufferAt md (fld w0 21 21)
    let ok := md.state == .empty || (md.state == .ready && md.passes.isEmpty)
    let s := s.noteEntry ctx md l
    if s.enginesFenced then .next (s.failSlot ctx slot St.unitFenced)
    else if md.state == .free || md.layers ≤ l || shardsIn bytes < first + count || (inPlace && !ok) then .next (s.failSlot ctx slot St.modelState)
    else
      let js := (List.range count).map (first + ·)
      let off := s.layerOffset md l + 4194304 * first
      let n := min (4194304 * count) (bytes - 4194304 * first)
      let put (s : State) (ws : List W64) : State :=
        let s := forL js (fun j s => s.writeShard ctx m l j base nonce md.oldVersion loadId chain
          ((ws.drop (524288 * (j - first))).take (shardBytes bytes j / 8))) s
        if inPlace then s.placeLoaded ctx m l js else s
      let ld : Load := {
        ctx := ctx, slot := slot, model := m, layer := l, loadId := loadId, stage := if inPlace then none else some (fld w0 21 21)
        nonce := nonce, chain := chain, started := s.now, streamId := t.id, source := source, srcAddr := src
        shards := js.map fun j => { layer := l, index := j, due := s.now } }
      if source = 1 then
        .next { s with loads := s.loads ++ [ld] }
      else if source = 2 then .next (put (s.noteTier ((src + off) / 8) (n / 8) (some ctx) false 0x60 loadId) (s.mem.space.words ((src + off) / 8) (n / 8)))
      else if !(s.host.busMaster.contains (s.owner (4 * ctx))) then .next (s.failSlot ctx slot St.hostAccess)
      else match host with
        | .fail kind =>
          let s := s.dmaFault ctx (s.owner (4 * ctx)) (src + off) kind false 0x60
          .next { s with loads := s.loads ++ [ld] }
        | .ok ws => .next (put s (ws.take (n / 8)))

/-! ### Passes and barriers (R717 to R721) -/

/-- A layer holds a version and is open to passes of it (R719, R722, R724). -/
def Model.holds (md : Model) (version l : Nat) : Bool :=
  let back := match md.wave with | some w => w.rollback | none => false
  let copying := match md.wave with | some w => w.copying.contains l | none => false
  if md.state == .ready then true
  else if md.state == .empty then false
  else if version = md.oldVersion then decide (md.front ≤ l) && (!back || decide (md.openFront ≤ l)) && !copying
  else decide (l < md.front) && decide (l < md.openFront) && !copying

/-- What a gate does at a boundary at which its slice is due (R716 to R719, R726, R729): nothing keeps the slice (none), it
waits (some none), or its stream ends with a status. -/
def State.gate (s : State) (x : Nat) (cmd : Cmd) : State × Option (Option Nat) :=
  let w0 := cmd.w 0
  let m := fld w0 17 16
  let n := fld w0 25 18
  let first := fld w0 41 32
  let count := fld w0 51 42
  let md := (s.ctx x).model m
  let wait (s : State) (v : Nat) : State × Option (Option Nat) :=
    (s, if (List.range count).all fun i => ((s.ctx x).model m).holds v (first + i) then none else some none)
  if md.state == .free || md.streamed then (s, some (some St.modelState))
  else if md.layers < first + count then (s, some (some St.passOrder))
  else match md.passes.find n with
    | some p =>
      if p.aborted then (s.updModel x m fun md => { md with passes := md.passes.drop n }, some (some St.passAborted))
      else if p.nextLayer ≠ first then (s, some (some St.passOrder))
      else wait s p.version
    | none =>
      if first ≠ 0 then (s, some (some St.passOrder))
      else
        let back := match md.wave with | some w => w.rollback | none => false
        let v := if back then md.oldVersion else md.newVersion
        wait (s.updModel x m fun md => { md with passes := md.passes.set n { version := v, nextLayer := 0 } }) v

/-- Every gate of a slice: the first status that ends the stream, else whether the slice waits. -/
def State.gates (s : State) (x : Nat) (gs : List Section) : State × Option (Option Nat) :=
  let cs := (gs.flatMap (·.cmds)).filter fun c => c.op = 0x61
  cs.foldl (fun r c => match r.2 with
    | some (some st) => (r.1, some (some st))
    | old => let q := r.1.gate x c
      (q.1, match q.2 with
        | none => old
        | e => e)) (s, none)

/-- INF_GATE (R717 to R719): the gate of the slice that is due next. -/
def execInfGate (ctx slot : Nat) (cmd : Cmd) (s : State) : Host.Outcome State Fault Refusal :=
  match ((s.ctx ctx).slot slot).streams with
  | [] => .next s
  | t :: _ =>
    if t.running.isSome || ((s.ctx ctx).slot slot).held || cmd.op ≠ 0x61 || !((t.slice t.done).any fun g => g.kind = 3 && g.cmds.contains cmd) then .next s
    else
      let q := s.gate ctx cmd
      match q.2 with
      | some (some st) => .next (q.1.endStream ctx slot st)
      | _ => .next q.1

/-- INF_DROP (R720): its pass ends when the slice completes. -/
def execInfDrop (ctx slot : Nat) (cmd : Cmd) (s : State) : Host.Outcome State Fault Refusal :=
  match s.takeNext ctx slot 0x62 [3] cmd with
  | none => .next s
  | some (_, s) => .next (s.updStream ctx slot fun t => { t with drops := t.drops ++ [(fld (cmd.w 0) 17 16, fld (cmd.w 0) 25 18)] })

/-- A slice's completion moves its passes on, and ends those dropped (R720). -/
def State.passesOn (s : State) (x : Nat) (t : Stream) : State :=
  let gs := ((t.slice t.done).flatMap (·.cmds)).filter fun c => c.op = 0x61
  let s := forL gs (fun c s =>
    let m := fld (c.w 0) 17 16
    let n := fld (c.w 0) 25 18
    let next := fld (c.w 0) 41 32 + fld (c.w 0) 51 42
    s.updModel x m fun md => match md.passes.find n with
      | some p => if p.aborted then md else
        { md with passes := if md.layers ≤ next then md.passes.drop n else md.passes.set n { p with nextLayer := next } }
      | none => md) s
  forL t.drops (fun d s => s.updModel x d.1 fun md => { md with passes := md.passes.drop d.2 }) s

/-! ### The replacement wave (R722 to R729) -/

/-- Layers that the wave still has to fetch: the next of them. -/
def Model.nextFetch (md : Model) (w : Wave) : Option Nat :=
  if w.rollback then (if w.fetched < w.origin then some (w.origin - 1 - w.fetched) else none)
  else if w.origin + w.fetched < md.layers then some (w.origin + w.fetched) else none

/-- Starts fetches: a layer's fetch starts when the one before has ended and a buffer is free; its shards are due (R723,
R727). -/
def State.waveFetch (s : State) (x m : Nat) : State :=
  let md := (s.ctx x).model m
  match md.wave with
  | none => s
  | some w =>
    match md.nextFetch w with
    | none => s
    | some l =>
      if 2 ≤ w.fetching.length || w.shards.any (fun h => !h.complete) || md.state != .replacing then s
      else
        let hs := (List.range (shardsIn (s.layerEntry md l).2)).map fun j => ({ layer := l, index := j, due := s.now } : Shard)
        (s.noteEntry x md l).updModel x m fun md => { md with wave := some { w with
          shards := w.shards ++ hs
          fetching := w.fetching ++ [l]
          fetched := w.fetched + 1 } }

/-- The words of a wave command (R736), or the status that refuses them. -/
def State.waveOf (s : State) (k : KReq) (x : Nat) (md : Model) : Nat × Wave :=
  let a := k.arg 0
  let e := k.arg 4
  let or_ (v d : Nat) : Nat := if v = 0 then d else v
  let w : Wave := {
    source := fld a 9 8, chain := fld a 14 12, srcCtx := fld a 18 16, loadId := fld a 63 32, srcAddr := (k.arg 1).toNat
    hostAddr := (k.arg 2).toNat, nonce := (k.arg 3).toNat, timeout := or_ (fld e 7 0) 2, retryUp := or_ (fld e 15 8) 2
    retryHost := or_ (fld e 23 16) 2, by_ := some k.ref }
  let n := s.layerOffset md md.layers
  let bad := k.args.length ≠ 5 || bitAt a 3 || fld a 7 6 ≠ 0 || fld a 11 10 ≠ 0 || bitAt a 15 || fld a 31 19 ≠ 0 || fld e 63 24 ≠ 0 || w.source = 3
  let far := w.source = 2 && ((s.ctx w.srcCtx).state == .free || (s.ctx w.srcCtx).jobId ≠ (s.ctx x).jobId || !((s.ctx w.srcCtx).fastSpan w.srcAddr n))
  (if bad then St.reserved else if !s.ctxNamed k.mb x then St.badContext else if far then St.memoryRange else St.ok, w)

/-- A wave command on a model. -/
def State.waveCmd (s : State) (k : KReq) (want : ModelState) (go : Nat → Nat → Model → Wave → State) : KResult :=
  let x := fld (k.arg 0) 2 0
  let m := fld (k.arg 0) 5 4
  let md := (s.ctx x).model m
  let q := s.waveOf k x md
  if q.1 ≠ St.ok then done s q.1
  else if md.state != want || md.streamed then done s St.modelState
  else done (go x m md q.2) St.accepted

/-- REPLACE_START (R722, R726). -/
def execReplaceStart (r : Req) (s : State) : Host.Outcome State Fault Refusal :=
  .next (s.kettle r 0x0502 false anyClass fun k s => s.waveCmd k .ready fun x m _ w =>
    (s.updModel x m fun md => { md with
      state := .replacing, newVersion := (md.oldVersion + 1) % 256, front := 0, openFront := 0, wave := some w }).waveFetch x m)

/-- REPLACE_RESUME (R729): the wave goes on from a new source, with every retry count reset. -/
def execReplaceResume (r : Req) (s : State) : Host.Outcome State Fault Refusal :=
  .next (s.kettle r 0x0503 false anyClass fun k s => s.waveCmd k .mixed fun x m md w =>
    match md.wave with
    | none => s
    | some old =>
      let reset (h : Shard) : Shard := if h.complete then h else { h with due := s.now, recorded := false, upTries := 0, hostTries := 0, packets := [] }
      (s.updModel x m fun md => { md with
        state := .replacing
        wave := some { w with
          rollback := old.rollback, shards := old.shards.map reset, fetching := old.fetching, fetched := old.fetched, origin := old.origin
          copying := old.copying } }).waveFetch x m)

/-- The wave has ended (R724, R729): one version everywhere, READY, and WAVE_DONE. -/
def State.endWave (s : State) (x m : Nat) : State :=
  let md := (s.ctx x).model m
  match md.wave with
  | none => s
  | some w =>
    let v := if w.rollback then md.oldVersion else md.newVersion
    let s := s.updModel x m fun md => { md with
      state := .ready, oldVersion := v, newVersion := v, wave := none, lastLoad := w.loadId, lastNonce := w.nonce }
    let e : Event := { kind := 0x0500, detail := mkWord [(0, 2, m), (8, 8, v), (16, 1, b2n w.rollback)] }
    match w.by_ with
    | some r => s.cmdEvent r (some x) e
    | none => s.event x e

/-- REPLACE_ROLLBACK (R729): passes of the new version that have passed a layer end with PASS_ABORTED, the others take the
old version, and the layers below FRONT are fetched again in descending order. -/
def execReplaceRollback (r : Req) (s : State) : Host.Outcome State Fault Refusal :=
  .next (s.kettle r 0x0504 false anyClass fun k s => s.waveCmd k .mixed fun x m md w =>
    let turn (p : Pass) : Pass :=
      if p.version ≠ md.newVersion then p else if p.nextLayer = 0 then { p with version := md.oldVersion } else { p with aborted := true }
    let gone (n : Nat) : Bool := (md.passes.get ⟨0, 0, false⟩ n).version = md.newVersion && 0 < (md.passes.get ⟨0, 0, false⟩ n).nextLayer
    let s := s.updModel x m fun md => { md with
      state := .replacing
      passes := md.passes.map fun (e : Nat × Pass) => (e.1, turn e.2)
      wave := some { w with rollback := true, origin := md.front } }
    let s := forN 16 (fun slot s => match ((s.ctx x).slot slot).streams with
      | t :: _ =>
        let hit := ((t.slice t.done).flatMap (·.cmds)).any fun c => c.op = 0x61 && fld (c.w 0) 17 16 = m && gone (fld (c.w 0) 25 18)
        if t.running.isSome && hit then s.failSlot x slot St.passAborted else s
      | [] => s) s
    if md.front = 0 then s.endWave x m else s.waveFetch x m)

/-- Changes one shard of a wave. -/
def Wave.updShard (w : Wave) (l j : Nat) (f : Shard → Shard) : Wave :=
  { w with shards := w.shards.map fun h => if h.layer = l && h.index = j then f h else h }

/-- Packets that a shard of a layer has. -/
def State.shardWhole (s : State) (md : Model) (h : Shard) : Bool :=
  h.packets.length = packetsIn (shardBytes (s.layerEntry md h.layer).2 h.index)

/-- Shards of a load as they stand now: with the last of them the load ends, after the final overrun of a late one (R65, R714). -/
def State.loadMoved (s : State) (l l' : Load) : State :=
  if l'.shards.all (·.complete) then
    let s := { s with loads := s.loads.filter fun q => q ≠ l }
    let s := if l.recorded = 0 then s else s.worst (l.started + 1)
    if l.stage.isNone then s.placeLoaded l.ctx l.model l.layer (l.shards.map (·.index)) else s
  else { s with loads := s.loads.map fun q => if q = l then l' else q }

/-- A shard of a load from the host, asked for again after a failed access (R727, R779). -/
def State.loadShard (s : State) (l : Load) (shard : Nat) (host : HostRead) : State :=
  let md := (s.ctx l.ctx).model l.model
  let off := s.layerOffset md l.layer + 4194304 * shard
  let base := match l.stage with | some b => s.bufferAt md b | none => (s.layerEntry md l.layer).1
  let n := shardBytes (s.layerEntry md l.layer).2 shard
  let fn := s.owner (4 * l.ctx)
  if !(s.host.busMaster.contains fn) then s
  else match host with
    | .fail kind => s.dmaFault l.ctx fn (l.srcAddr + off) kind false 0x60
    | .ok ws =>
      let got (h : Shard) : Shard := if h.index = shard then { h with complete := true } else h
      (s.writeShard l.ctx l.model l.layer shard base l.nonce md.oldVersion l.loadId l.chain (ws.take (n / 8))).loadMoved l
        { l with shards := l.shards.map got }

/-- SHARD_COMPLETE (R723, R727): every packet of the shard has come, or its source has given it. -/
def execShardComplete (ctx model layer shard : Nat) (host : HostRead) (s : State) : Host.Outcome State Fault Refusal :=
  let md := (s.ctx ctx).model model
  let mine (h : Shard) : Bool := h.layer == layer && h.index == shard && !h.complete
  match md.wave.bind fun w => (w.shards.find? mine).map fun h => (w, h) with
  | none => .next (match s.loads.find? fun l => l.ctx == ctx && l.model == model && l.source == 0 && l.shards.any mine with
    | some l => s.loadShard l shard host
    | none => s)
  | some (w, h) =>
    let bytes := (s.layerEntry md layer).2
    let n := shardBytes bytes shard
    let off := s.layerOffset md layer + 4194304 * shard
    let ver := if w.rollback then md.oldVersion else md.newVersion
    let whole (s : State) : Host.Outcome State Fault Refusal :=
      .next ((s.updModel ctx model fun md => { md with
        wave := md.wave.map fun w => w.updShard layer shard fun h => { h with complete := true } }).waveFetch ctx model)
    let put (s : State) (ws : List W64) : State :=
      s.writeShard ctx model layer shard (s.bufferAt md layer) w.nonce ver w.loadId w.chain ws
    if w.source = 1 && s.shardWhole md h then whole s
    else if w.source = 2 then
      whole (put (s.noteTier ((w.srcAddr + off) / 8) (n / 8) (some ctx) false 0x60 w.loadId) (s.mem.space.words ((w.srcAddr + off) / 8) (n / 8)))
    else if w.source = 0 || 0 < h.hostTries then
      let addr := (if w.source = 0 then w.srcAddr else w.hostAddr) + off
      if !(s.host.busMaster.contains (s.owner (4 * ctx))) then .next s
      else match host with
        | .fail kind => .next (s.dmaFault ctx (s.owner (4 * ctx)) addr kind false 0x0502)
        | .ok ws => whole (put s (ws.take (n / 8)))
    else .next s

/-- The retries of a shard are spent: the model is MIXED (R729). -/
def State.mixModel (s : State) (x m l j : Nat) : State :=
  let s := s.updModel x m fun md => { md with state := .mixed }
  let d := mkWord [(0, 2, m), (16, 10, l), (32, 16, j)]
  (s.raise { code := Rec.modelMixed, cls := .uc, ctx := some x, a := d }).event x { kind := 0x0501, detail := d }

/-- Asks the upstream module for a shard: a kettle packet of type 8 that carries the two header words of R712. DESIGN CHOICE
(log 50): the spec gives the request no form. -/
def State.askUpstream (s : State) (x : Nat) (up : Option Nat) (m version l j loadId : Nat) : State :=
  match up with
  | some dn => s.injectDn 0x07 7 dn (some x) 0 (mkWord [(0, 8, 8)] :: infHead m false version l j 0 loadId)
  | none => s

/-- One shard asked again (R727): upstream up to RETRY_UP times, then the host up to RETRY_HOST times; none when its
retries are spent. -/
def Shard.again (h : Shard) (now source retryUp retryHost : Nat) (hasHost : Bool) : Option (Shard × Bool) :=
  let h' := { h with due := now, recorded := true }
  if source = 1 && h.upTries < retryUp then some ({ h' with upTries := h.upTries + 1 }, true)
  else if (source ≠ 1 || hasHost) && h.hostTries < retryHost then some ({ h' with hostTries := h.hostTries + 1 }, false)
  else none

/-- SHARD_TIMEOUT (R715, R727, R729): for a shard of a wave, or of a load from a chain. -/
def execShardTimeout (ctx model layer shard : Nat) (s : State) : Host.Outcome State Fault Refusal :=
  let md := (s.ctx ctx).model model
  let mine (h : Shard) : Bool := h.layer == layer && h.index == shard && !h.complete
  let record (s : State) (h : Shard) : State :=
    if h.recorded then s
    else s.raise { code := Rec.shardTimeout, cls := .ce, ctx := some ctx, a := mkWord [(0, 2, model), (16, 10, layer), (32, 16, shard)] }
  let count (s : State) : State := { s with infRetries := satN 16 (s.infRetries + 1) }
  let wave := match md.wave with
    | some w => (w.shards.find? mine).map fun h => (w, h)
    | none => none
  match wave with
  | some (w, h) =>
    if s.now < h.due + w.timeout || md.state != .replacing then .next s
    else
      let s := record s h
      (match h.again s.now w.source w.retryUp w.retryHost (w.hostAddr ≠ 0) with
        | none => .next (s.mixModel ctx model layer shard)
        | some (h', up) =>
          let s := s.updModel ctx model fun md => { md with wave := some (w.updShard layer shard fun _ => h') }
          let ver := if w.rollback then md.oldVersion else md.newVersion
          .next (count (if up then s.askUpstream ctx w.upstream model ver layer shard w.loadId else s)))
  | none =>
    match s.loads.find? fun l => l.ctx == ctx && l.model == model && l.shards.any mine with
    | none => .next s
    | some l => match l.shards.find? mine with
      | none => .next s
      | some h =>
        if s.now < h.due + 2 then .next s
        else
          let s := record s h
          let put (s : State) (h' : Shard) : State := { s with loads := s.loads.map fun q =>
            if q = l then { q with shards := q.shards.map fun k => if k.index = shard then h' else k } else q }
          match h.again s.now l.source 2 (if l.source = 1 then 0 else 2) false with
          | none => .next (put s { h with due := s.now, recorded := true })
          | some (h', up) =>
            let s := put s h'
            .next (count (if up then s.askUpstream ctx l.upstream model md.oldVersion layer shard l.loadId else s))

/-- A shard of a staging buffer holds a word with an uncorrectable error. -/
def State.badShard (s : State) (md : Model) (l j : Nat) : Bool :=
  let a := (s.bufferAt md l + 4194304 * j) / 8
  s.mem.space.syn.any fun e => a ≤ e.1 && e.1 < a + shardBytes (s.layerEntry md l).2 j / 8 && eccOf e.2 == .ue

/-- Makes staged shards with an uncorrectable word due again (R727). -/
def State.dropBadShards (s : State) (x m : Nat) : State :=
  let md := (s.ctx x).model m
  match md.wave with
  | none => s
  | some w =>
    let bad := w.shards.filter fun h => h.complete && !(w.copying.contains h.layer) && s.badShard md h.layer h.index
    let s := forL bad (fun h s => s.noteTier ((s.bufferAt md h.layer + 4194304 * h.index) / 8) (shardBytes (s.layerEntry md h.layer).2 h.index / 8)
      (some x) false 0x60 w.loadId) s
    s.updModel x m fun md => { md with wave := some (bad.foldl (fun w h => w.updShard h.layer h.index fun h =>
      { h with complete := false, packets := [], due := s.now }) w) }

/-- Layers that may be rewritten at this boundary, in the wave's order (R724, R725, R729). -/
def Model.mayCopy (md : Model) (w : Wave) : List Nat :=
  let ready (l : Nat) : Bool := w.fetching.contains l && !(w.copying.contains l) && w.shards.all (fun h => h.layer ≠ l || h.complete)
  let user (l : Nat) : Bool := md.passes.any fun e => !e.2.aborted && e.2.version = (if w.rollback then md.newVersion else md.oldVersion) &&
    (if w.rollback then false else decide (e.2.nextLayer ≤ l))
  let order := (List.range 2).filterMap fun i =>
    let n := w.copying.length + i
    if w.rollback then (if n < md.front then some (md.front - 1 - n) else none) else if md.front + n < md.layers then some (md.front + n) else none
  order.takeWhile fun l => ready l && !user l

/-- Step 9 of R56 for one model: barriers open, rewrites that may start do, and MODEL_STATUS shows the new values (R724,
R740). -/
def State.modelBoundary (s : State) (x m : Nat) : State :=
  let s := s.dropBadShards x m
  s.updModel x m fun md =>
    let md : Model := { md with openFront := md.front }
    let md : Model := match md.wave with
      | some w => if md.state == .replacing then { md with wave := some { w with copying := w.copying ++ md.mayCopy w } } else md
      | none => md
    let code := match md.state with | .free => 0 | .empty => 1 | .ready => 2 | .replacing => 3 | .mixed => 4
    { md with shown := mkWord [(0, 3, code), (29, 9, md.passes.length), (38, 10, md.front), (48, 8, md.newVersion), (56, 8, md.oldVersion)] }

/-- LAYER_COPY_DONE (R724, R729): the buffer stands in the layer's place; FRONT moves and the next fetch may start. -/
def execLayerCopyDone (ctx model : Nat) (s : State) : Host.Outcome State Fault Refusal :=
  let md := (s.ctx ctx).model model
  match md.wave with
  | none => .next s
  | some w => match w.copying with
    | [] => .next s
    | l :: rest =>
      let e := s.layerEntry md l
      let ws := s.mem.space.words (s.bufferAt md l / 8) (e.2 / 8)
      let s := (s.noteEntry ctx md l).noteTier (s.bufferAt md l / 8) (e.2 / 8) (some ctx) false 0x60 w.loadId
      let s := s.infWrite e.1 ws
      let s := s.updModel ctx model fun md => { md with
        front := if w.rollback then l else l + 1
        wave := some { w with
          copying := rest
          fetching := w.fetching.filter fun n => n ≠ l
          shards := w.shards.filter fun h => h.layer ≠ l } }
      .next (if (if w.rollback then l = 0 else md.layers ≤ l + 1) then s.endWave ctx model else s.waveFetch ctx model)

/-! ### Infuser packets (R539, R710, R712) -/

/-- A shard that another module of the chain asks for again: from its buffer or its place, encrypted as it came. -/
def State.answerShard (s : State) (dn : Nat) (h0 h1 : W64) : State :=
  let m := fld h0 1 0
  let l := fld h0 25 16
  let j := fld h0 47 32
  let id := fld h1 31 0
  let has (x : Nat) : Option (Nat × Nat) :=
    let md := (s.ctx x).model m
    match md.wave with
    | some w =>
      if w.loadId ≠ id then none
      else if w.shards.any fun h => h.layer == l && h.index == j && h.complete then some (s.bufferAt md l, w.nonce)
      else if (if w.rollback then decide (md.front ≤ l && l < w.origin) else decide (l < md.front)) then some ((s.layerEntry md l).1, w.nonce)
      else none
    | none => if md.state == .ready && md.lastLoad = id && l < md.layers then some ((s.layerEntry md l).1, md.lastNonce) else none
  match (List.range 8).findSome? fun x => (has x).map fun a => (x, a) with
  | none => s
  | some (x, base, nonce) =>
    let md := (s.ctx x).model m
    let off := s.layerOffset md l + 4194304 * j
    let n := shardBytes (s.layerEntry md l).2 j / 8
    let ps := chunksOf 1024 (s.mem.space.words ((base + 4194304 * j) / 8) n)
    let s := s.noteTier ((base + 4194304 * j) / 8) n (some x) false 0x60 id
    forN ps.length (fun i s => s.injectDn 0x03 4 dn (some x) 0
      (infHead m (md.key ≠ 0) (fld h0 15 8) l j i id ++ s.modelCrypt md nonce (off + 8192 * i) (ps.getD i []))) s

/-- The load of the chain that a packet belongs to. -/
def State.loadFor (s : State) (h0 h1 : W64) : Option Load :=
  s.loads.find? fun l => l.source == 1 && l.loadId == fld h1 31 0 && l.model == fld h0 1 0 && l.layer == fld h0 25 16 &&
    ((s.ctx l.ctx).model l.model).oldVersion == fld h0 15 8 && l.shards.any fun h => h.index == fld h0 47 32 && !h.complete

/-- The wave of the chain that a packet belongs to, by its context. -/
def State.waveFor (s : State) (h0 h1 : W64) : Option (Nat × Wave) :=
  (List.range 8).findSome? fun x =>
    let md := (s.ctx x).model (fld h0 1 0)
    match md.wave with
    | some w =>
      if w.source = 1 && w.loadId = fld h1 31 0 && (if w.rollback then md.oldVersion else md.newVersion) = fld h0 15 8 &&
         w.shards.any (fun h => h.layer = fld h0 25 16 && h.index = fld h0 47 32 && !h.complete) then some (x, w) else none
    | none => none

/-- A packet not yet taken enters its shard. -/
def Shard.take (h : Shard) (j n : Nat) : Shard := if h.index = j && !(h.packets.contains n) then { h with packets := h.packets ++ [n] } else h

/-- A packet of a load is written; the load ends with its last one. -/
def State.takeLoad (s : State) (l : Load) (src : Nat) (h0 : W64) (body : List W64) : State :=
  let j := fld h0 47 32
  let n := fld h0 56 48
  let md := (s.ctx l.ctx).model l.model
  let base := match l.stage with | some b => s.bufferAt md b | none => (s.layerEntry md l.layer).1
  let ws := body.drop 2
  let plain := if bitAt h0 2 then s.modelCrypt md l.nonce (s.layerOffset md l.layer + 4194304 * j + 8192 * n) ws else ws
  let s := (s.forwardChain l.ctx l.chain body).infWrite (base + 4194304 * j + 8192 * n) plain
  let close (h : Shard) : Shard := let h := h.take j n; { h with complete := h.complete || s.shardWhole md h }
  s.loadMoved l { l with upstream := some src, shards := l.shards.map close }

/-- A packet of a wave is written into its staging buffer. -/
def State.takeWave (s : State) (x : Nat) (w : Wave) (src : Nat) (h0 : W64) (body : List W64) : State :=
  let m := fld h0 1 0
  let l := fld h0 25 16
  let j := fld h0 47 32
  let n := fld h0 56 48
  let md := (s.ctx x).model m
  let ws := body.drop 2
  let plain := if bitAt h0 2 then s.modelCrypt md w.nonce (s.layerOffset md l + 4194304 * j + 8192 * n) ws else ws
  let s := (s.forwardChain x w.chain body).infWrite (s.bufferAt md l + 4194304 * j + 8192 * n) plain
  s.updModel x m fun md => { md with wave := some { (w.updShard l j fun h => h.take j n) with upstream := some src } }

/-- INFUSER_PACKET (R539, R710, R712): a packet of no load in progress, and one taken before, is released and counted. -/
def execInfuserPacket (p : Pkt) (s : State) : Host.Outcome State Fault Refusal :=
  if s.isEarly (fld p.route 63 48) then .next (s.holdEarly (.packet (fld p.route 15 8) p)) else
  if fld p.route 15 8 ≠ 3 then .next s
  else
    let s := s.tookPacket 0x03 p.body
    let src := fld p.route 47 32
    let h0 := p.body.getD 0 0#64
    let h1 := p.body.getD 1 0#64
    let dup : Host.Outcome State Fault Refusal := .next { s with infDuplicates := satN 16 (s.infDuplicates + 1) }
    let old (hs : List Shard) : Bool := hs.any fun h =>
      h.layer == fld h0 25 16 && h.index == fld h0 47 32 && h.packets.contains (fld h0 56 48)
    if s.shuns src then .next s
    else if h0 = joinWord then .next (s.takeJoin p.body)
    else match s.loadFor h0 h1 with
      | some l => if old l.shards then dup else .next (s.takeLoad l src h0 p.body)
      | none => match s.waveFor h0 h1 with
        | some (x, w) => if old w.shards then dup else .next (s.takeWave x w src h0 p.body)
        | none => dup

end Sys2Proof.Machine
end

