-- ==== Sys2Proof/Machine/Submit.lean ====
section
/-! DEFINITION. Machine/Submit.lean: what STREAM_SUBMIT checks before a stream is queued: the layout (R392 to R394), every
command under the rules of its chapter (R153 to R169, R193, R196, R202, R221, R254, R303, R304, R442 to R446, R470, R516,
R517, R713 to R720), and the estimates of its slices (R60, R61, R173, R174, R230, R471, R530, R715). -/
namespace Sys2Proof.Machine

/-! ### Layout (R392 to R394) -/

/-- What the layout check knows at a command: slices and sections still to come, words of the slice still to come, the
kind of the open section, the kinds and core ranges that the slice has named. -/
structure Lay where
  begun : Bool := false
  step : W64 := 0#64
  slices : Nat := 0
  sections : Nat := 0
  words : Nat := 0
  kind : Option Nat := none
  kinds : List Nat := []
  cores : List (Nat × Nat) := []
deriving DecidableEq, Repr

/-- An opcode stands in a section of a kind (R392, R394). -/
def permitted (kind op : Nat) : Bool :=
  op = 0x04 || op = 0x06 ||
  (if kind = 0 then op = 0x05 || (0x10 ≤ op && op ≤ 0x12) || op = 0x18 || op = 0x19 || op = 0x1C
   else if kind = 1 then 0x20 ≤ op && op ≤ 0x27
   else if kind = 2 then 0x40 ≤ op && op ≤ 0x46
   else 0x60 ≤ op && op ≤ 0x62)

/-- A command carries STEP in its word 1 (R156, R252, R441, R515, R713, R717). -/
def carriesStep (op : Nat) : Bool :=
  (0x10 ≤ op && op ≤ 0x12) || op = 0x18 || (0x20 ≤ op && op ≤ 0x27) || (0x40 ≤ op && op ≤ 0x46) || op = 0x60 || op = 0x61

/-- A stream-control command holds a reserved encoding (R393, R394). -/
def controlBad (c : Cmd) : Bool :=
  let w := c.w 0
  fld w 15 12 ≠ 0 ||
  (if c.op = 0x01 then fld w 31 16 = 0
   else if c.op = 0x02 then fld w 63 32 ≠ 0 || fld w 31 16 = 0 || 64 < fld w 31 16 || fld (c.w 1) 63 16 ≠ 0
   else if c.op = 0x03 then
     fld w 63 20 ≠ 0 || 3 < fld w 19 16 || fld (c.w 1) 63 32 ≠ 0 || fld (c.w 2) 63 48 ≠ 0 || fld (c.w 2) 2 0 ≠ 0
   else if c.op = 0x04 then fld w 63 16 ≠ 0
   else if c.op = 0x05 then fld w 63 16 ≠ 0 || fld (c.w 1) 63 23 ≠ 0 || fld (c.w 1) 2 0 ≠ 0 || coreBytes < fld (c.w 1) 22 0
   else fld w 31 16 ≠ 0)

/-- A SECTION whose structure disagrees with its slice (R394). -/
def Lay.sectionBad (l : Lay) (g : Section) : Bool :=
  l.sections = 0 ||
  (if g.kind = 0 then g.count = 0 || l.cores.any fun r => overlap g.first g.count r.1 r.2
   else g.first ≠ 0 || g.count ≠ 0 || g.stride ≠ 0 || l.kinds.contains g.kind)

/-- One command of n words joins the layout, or breaks it with a status. -/
def Lay.take (l : Lay) (c : Cmd) (n : Nat) : Except Nat Lay :=
  let op := c.op
  if op ≤ 0x06 && controlBad c then .error St.reserved
  else if op = 0x01 then
    (if l.begun then .error St.streamFormat else .ok { begun := true, step := c.w 1, slices := fld (c.w 0) 31 16 })
  else if !l.begun then .error St.streamFormat
  else if op = 0x02 then
    (if l.slices = 0 || l.sections ≠ 0 || l.words ≠ 0 || fld (c.w 1) 15 0 < n then .error St.streamFormat
     else .ok { l with
      slices := l.slices - 1, sections := fld (c.w 0) 31 16, words := fld (c.w 1) 15 0 - n, kind := none, kinds := [], cores := [] })
  else if l.words < n then .error St.streamFormat
  else if op = 0x03 then
    let g := sectionOf [c]
    (if l.sectionBad g then .error St.streamFormat
     else .ok { l with
      sections := l.sections - 1
      words := l.words - n
      kind := some g.kind
      kinds := l.kinds ++ [g.kind]
      cores := if g.kind = 0 then l.cores ++ [(g.first, g.count)] else l.cores })
  else match l.kind with
    | none => .error St.streamFormat
    | some k =>
      if !permitted k op || (carriesStep op && c.w 1 ≠ l.step) then .error St.streamFormat
      else .ok { l with words := l.words - n }

/-- The layout check over the words of a stream: the first status found, if any. -/
def layoutLoop : Nat → List W64 → Lay → Option Nat
  | _, [], l => if l.begun && l.slices = 0 && l.sections = 0 && l.words = 0 then none else some St.streamFormat
  | 0, _, _ => some St.streamFormat
  | fuel + 1, w :: ws, l =>
    let n := fld w 11 8
    let c : Cmd := (w :: ws).take n
    if n = 0 || (w :: ws).length < n || opWords (fld w 7 0) ≠ n then some St.streamFormat
    else match l.take c n with
      | .error st => some st
      | .ok l => layoutLoop fuel ((w :: ws).drop n) l

def layoutCheck (ws : List W64) : Option Nat := layoutLoop ws.length ws {}

/-! ### Matrix tile commands (R151 to R169, R193, R196, R221) -/

/-- A descriptor holds a reserved encoding (R151 to R153). -/
def descBad (a b : W64) : Bool :=
  let o := operandOf a b
  let plain := match operandFormat o.fmt with | some f => !f.scaled | none => false
  fld a 63 40 ≠ 0 || fld b 63 45 ≠ 0 || (operandFormat o.fmt).isNone || (plain && (o.scale ≠ 0 || o.scalePitch ≠ 0)) || o.scalePitch % 8 ≠ 0

/-- A pitch of an operand is shorter than its row (R154). -/
def Operand.short (o : Operand) (i k : Nat) : Bool :=
  match operandFormat o.fmt with
  | none => false
  | some f => let n := (o.shape i k).2; 8 * o.pitch < rowBytes f n || (f.scaled && o.scalePitch < cdiv n 32)

/-- The checks of a tile command before its chain's. -/
def mtFirst (c : Cmd) : Option Nat :=
  let t := mtOf c
  let w := c.w 0
  if descBad (c.w 3) (c.w 4) || descBad (c.w 5) (c.w 6) then some St.reserved
  else if t.a.short t.m t.k || t.b.short t.n t.k || (t.a.spans t.m t.k ++ t.b.spans t.n t.k).any Span.beyond then some St.operandRange
  else if fld w 15 12 ≠ 0 || fld w 31 18 ≠ 0 || fld (c.w 2) 15 13 ≠ 0 || fld (c.w 2) 31 29 ≠ 0 || fld (c.w 2) 63 53 ≠ 0 ||
      fld (c.w 7) 23 20 ≠ 0 || fld (c.w 7) 63 49 ≠ 0 || t.m = 0 || 4096 < t.m || t.n = 0 || 4096 < t.n || t.k = 0 || 1048576 < t.k ||
      (c.op = 0x10 && (t.a.turned || t.b.turned)) || (!t.pour && t.epi ≠ 0) || (!t.accum && t.pour && t.kChain ≠ 0) ||
      16777216 < t.kChain then some St.reserved
  else none

/-- The checks after its chain's: FORMAT_PAIR (R169), TURNED (R193), the backward pairs (R196), the descriptor's place
(R221). -/
def mtLast (c : Cmd) : Option Nat :=
  let t := mtOf c
  match operandFormat t.a.fmt, operandFormat t.b.fmt with
  | some fa, some fb =>
    if !pairPermitted fa fb then some St.formatPair
    else if (c.op = 0x11 && (t.a.turned || !t.b.turned)) || (c.op = 0x12 && !(t.a.turned && t.b.turned)) then some St.reserved
    else if c.op ≠ 0x10 && !gradPermitted fb false fa then some St.formatPair
    else if t.pour && Span.beyond (8 * t.epi, 48) then some St.operandRange
    else none
  | _, _ => some St.reserved

/-- A chain open on a core as the stream is read: its first command, and the sum of its K fields so far. -/
abbrev OpenChain := Mt × Nat

/-- A later command belongs to the chain (R165). -/
def sameChain (a b : Mt) : Bool :=
  a.op = b.op && a.m = b.m && a.n = b.n && a.tileId = b.tileId && a.step = b.step && a.a.fmt = b.a.fmt && a.b.fmt = b.b.fmt

/-- A tile command against the chain that is open on its core (R164 to R166). DEDUCED: a command with ACCUM = 1 where no chain is
open breaks the chain that it belongs to, CHAIN_BROKEN; R166 names no status for it by itself (log 55). -/
def chainCheck (open_ : Option OpenChain) (t : Mt) : Except Nat (Option OpenChain) :=
  let small := t.m ≤ 64 && t.n ≤ 128
  match open_ with
  | none =>
    if t.accum then .error St.chainBroken
    else if t.pour then .ok none
    else if !small || t.k % 32 ≠ 0 || t.kChain = 0 then .error St.chainBroken
    else .ok (some (t, t.k))
  | some (f, sum) =>
    if !t.accum || !sameChain f t || t.kChain ≠ 0 || (!t.pour && t.k % 32 ≠ 0) then .error St.chainBroken
    else if !t.pour then .ok (some (f, sum + t.k))
    else if sum + t.k ≠ f.kChain then .error St.chainLength
    else .ok none

/-! ### Vector and transfer commands (R200 to R202, R252 to R254, R302 to R304) -/

/-- VEC_RUN (R252, R254). DEDUCED: an empty span whose address lies beyond the core store reaches beyond it too, and is
OPERAND_RANGE (log 24). -/
def vecCheck (c : Cmd) : Option Nat :=
  let v := vcmdOf c
  if fld (c.w 0) 15 12 ≠ 0 || fld (c.w 2) 63 44 ≠ 0 || coreBytes < v.rdLen || coreBytes < v.wrLen || v.len = 0 || v.len < v.pro ||
      (v.pro = v.len && 0 < v.iter) then some St.reserved
  else if v.reads.any Span.beyond then some St.operandRange
  else none

/-- XFER on the core of rank r (R302 to R304, R396). -/
def xferCheck (x : Ctx) (c : Cmd) (offset : Nat) : Option Nat :=
  let t := xcmdOf c
  let t := { t with mem := t.mem + offset }
  if fld (c.w 0) 15 12 ≠ 0 || fld (c.w 0) 63 18 ≠ 0 || fld (c.w 1) 63 48 ≠ 0 || fld (c.w 2) 63 48 ≠ 0 || fld (c.w 3) 63 40 ≠ 0 ||
      fld (c.w 4) 63 41 ≠ 0 || coreBytes < t.rowBytes || t.bad then some St.reserved
  else if t.csSpan.beyond then some St.operandRange
  else if !(if t.dir = 2 then x.slowSpan t.tierSpan.1 t.tierSpan.2 else x.fastSpan t.tierSpan.1 t.tierSpan.2) then some St.memoryRange
  else none

/-- GRAD_GATHER (R200, R202). -/
def gatherCheck (c : Cmd) : Option Nat :=
  let g := gcmdOf c
  if fld (c.w 0) 15 12 ≠ 0 || fld (c.w 0) 23 21 ≠ 0 || fld (c.w 0) 63 28 ≠ 0 || fld (c.w 1) 63 40 ≠ 0 || fld (c.w 2) 63 24 ≠ 0 ||
      fld (c.w 3) 63 20 ≠ 0 || g.bad then some St.reserved
  else if g.srcSpan.beyond || g.dstSpan.beyond then some St.operandRange
  else none

/-! ### Collective commands (R515 to R517) -/

def CCmd.pair (c : CCmd) : Bool := c.op = 0x26 || c.op = 0x27
def CCmd.barrier (c : CCmd) : Bool := c.op = 0x25
/-- The command reads SRC_ADDR, and DST_ADDR. -/
def CCmd.readsSrc (c : CCmd) : Bool := !c.barrier && c.op ≠ 0x27
def CCmd.readsDst (c : CCmd) : Bool := !c.barrier && c.op ≠ 0x26
/-- DTYPE names update blocks with headers. -/
def CCmd.headed (c : CCmd) : Bool := c.dtype = 1 || c.dtype = 4

/-- A field that the command does not read is not zero (R516). -/
def CCmd.unread (c : CCmd) : Bool :=
  (c.fp32 && !(c.op = 0x20 || c.op = 0x22)) || (c.barrier && c.dtype ≠ 0) || (!c.codec && (c.sign || c.kBlk ≠ 0 || c.resid ≠ 0)) ||
  (c.codec && c.sign && c.kBlk ≠ 0) || (c.op ≠ 0x24 && c.root ≠ 0) || (!c.readsSrc && c.src ≠ 0) || (!c.readsDst && c.dst ≠ 0) ||
  (!c.stats && c.statsAddr ≠ 0) || (!(c.headed && c.readsSrc) && c.srcHdr ≠ 0) || (!(c.headed && c.readsDst) && c.dstHdr ≠ 0)

/-- The spans of fast memory that a collective command names on this module (R517, R519). -/
def CCmd.fastSpans (c : CCmd) (dn : Nat) (g : Option Group) : List Span :=
  let n := match g with | some g => g.n | none => 1
  let root := c.op ≠ 0x24 || (match g with | some g => g.table.getD c.root 0 == dn | none => true)
  let pl := c.unit * cdiv c.count (c.unit * c.lanes)
  let own := c.lanes * (c.unit * cdiv pl (c.unit * n))
  let srcN := if c.op = 0x21 then own else c.count
  let dstN := if c.op = 0x20 then own else c.count
  (if c.readsSrc && root then (c.src, c.bytes srcN) :: (if c.headed then [(c.srcHdr, 8 * cdiv srcN 256)] else []) else []) ++
  (if c.readsDst then (c.dst, c.bytes dstN) :: (if c.headed then [(c.dstHdr, 8 * cdiv dstN 256)] else []) else []) ++
  (if c.codec then [(c.resid, 4 * c.count)] else []) ++ (if c.stats then [(c.statsAddr, 32)] else [])

/-- A collective command (R515 to R517). -/
def State.collCheck (s : State) (x : Nat) (cmd : Cmd) : Option Nat :=
  let c := ccmdOf cmd
  let g := if c.pair then none else (s.ctx x).groups.find c.group
  let most := match g with | some g => g.lanes | none => if c.pair then 1 else 16
  let hierOk := 0x20 ≤ c.op && c.op ≤ 0x23
  let path := match (s.ctx x).stages.find c.vstage with
    | some v => if c.prev then v.prev else v.next
    | none => []
  if fld (cmd.w 0) 15 12 ≠ 0 || fld (cmd.w 0) 31 30 ≠ 0 || fld (cmd.w 0) 63 51 ≠ 0 || fld (cmd.w 2) 63 49 ≠ 0 ||
     ([3, 4, 6, 7, 8, 9].any fun i => fld (cmd.w i) 63 48 ≠ 0) || fld (cmd.w 5) 63 40 ≠ 0 || 9 < c.dtype || 4096 < c.kBlk ||
     (match g with | some g => c.op = 0x24 && g.n ≤ c.root | none => false) ||
     c.unread || c.lanes = 0 || most < c.lanes || (c.barrier != (c.count == 0)) || (c.headed && c.count % 256 ≠ 0) ||
     (c.codec && !c.sign && c.kBlk = 0) || (c.hier && !hierOk) || (c.stats && !c.reduces) then some St.reserved
  else if !c.barrier && !(if c.codec then c.dtype = 5 || c.dtype = 6 else [1, 4, 5, 6].contains c.dtype) then some St.formatPair
  else if !c.pair && g.isNone then some St.groupRange
  else if (c.fastSpans s.fabric.dn g).any fun a => !((s.ctx x).fastSpan a.1 a.2) then some St.memoryRange
  else if c.pair && path.isEmpty then some St.badPath
  else none

/-! ### Update commands (R440 to R446, R470) -/

/-- What the check of a stream's update commands has seen: sets it initialises and retires, and the tile ranges written,
as SET_BASE, FIRST and COUNT. -/
structure UpdSeen where
  inits : List SetReg := []
  retires : List Nat := []
  written : List (Nat × Nat × Nat) := []
deriving DecidableEq, Repr

/-- Writes of a tile so far. -/
def UpdSeen.writes (v : UpdSeen) (base t : Nat) : Nat :=
  (v.written.filter fun r => r.1 == base && r.2.1 ≤ t && t < r.2.1 + r.2.2).length

/-- The copy fields are all zero. -/
def UCmd.noCopy (u : UCmd) : Bool :=
  u.copyFmt = 0 && u.copy = 0 && u.copyPitch = 0 && u.scalePitch = 0 && u.scale = 0 && u.bitmap = 0

/-- A reserved encoding of an update command (R441, R442, R444, R450). -/
def updBad (c : Cmd) : Bool :=
  let u := ucmdOf c
  let w := c.w 0
  fld w 15 12 ≠ 0 || bitAt w 19 || fld w 31 27 ≠ 0 || fld w 63 56 ≠ 0 || ((List.range 10).any fun i => fld (c.w (2 + i)) 63 48 ≠ 0) ||
  u.count = 0 || u.t = 0 ||
  (u.shadow && (u.op = 0x41 || u.op = 0x46)) || (u.op ≠ 0x40 && (u.rootP ≠ 0 || u.iters ≠ 0 || u.k ≠ 0)) ||
  (!u.blocks && u.srcFmt ≠ 0) || (u.blocks && 9 < u.srcFmt) ||
  (!(u.blocks || u.op = 0x41) && (u.src ≠ 0 || u.hdr ≠ 0)) || (!u.copies && u.copyEn) || (!u.copyEn && !u.noCopy) ||
  u.a ≠ cdiv u.o 128 || u.t ≠ u.a * cdiv u.i 128 || u.t < u.first + u.count ||
  u.base < ownBase || mirrorBase ≤ u.base || (u.base - ownBase) % 524288 ≠ 0 ||
  (u.op = 0x40 && (u.iters = 0 || u.k = 0 || 1 < u.rootP || u.step = 0)) || (u.copyEn && 5 < u.copyFmt) ||
  (u.copyEn && u.copyFmt = 5 && (u.scale ≠ 0 || u.bitmap ≠ 0 || u.scalePitch ≠ 0)) || u.copyPitch % 8 ≠ 0 || u.scalePitch % 8 ≠ 0 ||
  (u.op = 0x46 && (u.first ≠ 0 || u.count ≠ u.t))

/-- The least span that holds spans. -/
def hull : List Span → Span
  | [] => (0, 0)
  | a :: as => as.foldl (fun h b => (min h.1 b.1, max (h.1 + h.2) (b.1 + b.2) - min h.1 b.1)) a

/-- The fast-tier spans that a command reads or writes: gradient or difference blocks, weights, the copy (R443, R465). -/
def UCmd.fastSpans (u : UCmd) : List Span :=
  let tiles := (List.range u.count).map (u.first + ·)
  let rect (base pitch left bytes rows t : Nat) : Span := (base + u.row t * pitch + left, (rows - 1) * pitch + bytes)
  let rows (t : Nat) : Nat := min 128 (u.o - u.row t)
  let bits := match formatOf u.copyFmt with | some f => f.bits | none => 8
  (if u.blocks then [(u.src, u.count * 64 * blockBytes u.srcFmt), (u.hdr, u.count * 512)] else []) ++
  (if u.op = 0x41 then [hull (tiles.map fun t => rect u.src u.hdr (4 * u.col t) (4 * min 128 (u.i - u.col t)) (rows t) t)] else []) ++
  (if u.copyEn then hull (tiles.map fun t => rect u.copy u.copyPitch (u.col t * bits / 8) (u.copyCols t * bits / 8) (rows t) t) ::
      (if u.copyFmt = 5 then [] else
        [hull (tiles.map fun t => rect u.scale u.scalePitch (u.col t / 32) (u.copyCols t / 32) (rows t) t),
         hull (tiles.map fun t =>
          let lo := u.row t * cdiv u.i 32 + u.col t / 32
          let hi := (u.row t + rows t - 1) * cdiv u.i 32 + u.col t / 32 + u.copyCols t / 32
          (u.bitmap + lo / 8, cdiv hi 8 - lo / 8))]) else [])

/-- An update command against the registry and what the stream has done before it (R442 to R446, R470). -/
def updCheck (x : Ctx) (lits : Bool) (v : UpdSeen) (c : Cmd) : Except Nat UpdSeen :=
  let u := ucmdOf c
  let me : SetReg := { base := u.base, t := u.t, outer := u.outer }
  let known := x.upd.sets ++ v.inits
  let here := known.find? fun r => r.base == u.base
  let grad := [1, 4, 5, 6].contains u.srcFmt
  let tiles := (List.range u.count).map (u.first + ·)
  let fresh := here.isNone && u.op = 0x41
  let apart := known.all fun r => !overlap u.base (setBytes u.t u.outer) r.base (setBytes r.t r.outer)
  if updBad c then .error St.reserved
  else if (u.op = 0x40 && !grad) || ((u.op = 0x44 || u.op = 0x45) && u.srcFmt ≠ 5 && u.srcFmt ≠ 6) then .error St.formatPair
  else if !(x.slowSpan u.base (setBytes u.t u.outer)) || (u.fastSpans.any fun a => !(x.fastSpan a.1 a.2)) then .error St.memoryRange
  else if (u.op = 0x40 || u.op = 0x45) && !lits then .error St.noLiterals
  else if (here.isNone && u.op ≠ 0x41) || (match here with | some r => r ≠ me | none => false) then .error St.streamFormat
  else if u.op = 0x41 && (x.upd.sets.any fun r => r.base == u.base) then .error St.streamFormat
  else if fresh && (4096 ≤ known.length || !apart) then .error St.streamFormat
  else if u.shadow && (tiles.any fun t => v.writes u.base t = 0 || (u.writes && 2 ≤ v.writes u.base t)) then .error St.streamFormat
  else if u.writes && !u.shadow && (tiles.any fun t => 0 < v.writes u.base t) then .error St.streamFormat
  else if (u.op = 0x44 || u.op = 0x45) && !u.outer then .error St.streamFormat
  else .ok { inits := if fresh then v.inits ++ [me] else v.inits
             retires := if u.op = 0x46 then v.retires ++ [u.base] else v.retires
             written := if u.writes then v.written ++ [(u.base, u.first, u.count)] else v.written }

/-- Every tile of every set of the context has been written, or its set retired (R446). -/
def UpdSeen.whole (v : UpdSeen) (x : Ctx) : Bool :=
  (x.upd.sets ++ v.inits).all fun r => v.retires.contains r.base || (List.range r.t).all fun t => 0 < v.writes r.base t

/-! ### Infuser commands (R713, R714, R717, R720) -/

def State.infCheck (s : State) (x : Nat) (c : Cmd) : Option Nat :=
  let w := c.w 0
  if c.op = 0x62 then (if fld w 15 12 ≠ 0 || fld w 63 26 ≠ 0 then some St.reserved else none)
  else if c.op = 0x61 then
    (if fld w 15 12 ≠ 0 || fld w 31 26 ≠ 0 || fld w 63 52 ≠ 0 || fld w 51 42 = 0 then some St.reserved else none)
  else
    let md := (s.ctx x).model (fld w 17 16)
    let l := fld w 31 22
    let y := s.ctx (fld (c.w 3) 6 4)
    let first := fld w 47 32
    let n := min (4194304 * fld w 63 48) ((s.layerEntry md l).2 - 4194304 * first)
    if fld w 15 12 ≠ 0 || fld w 19 18 = 3 || fld w 63 48 = 0 || bitAt (c.w 3) 3 || fld (c.w 3) 31 7 ≠ 0 then some St.reserved
    else if fld w 19 18 = 2 && (y.state == .free || y.jobId ≠ (s.ctx x).jobId ||
        (md.state != .free && l < md.layers && !(y.fastSpan ((c.w 2).toNat + s.layerOffset md l + 4194304 * first) n))) then
      some St.memoryRange
    else none

/-! ### Every command in stream order (R842) -/

/-- What the check of a stream carries from command to command. -/
structure Seen where
  lits : Bool := false
  chains : Tbl Nat OpenChain := []
  upd : UpdSeen := {}
deriving DecidableEq, Repr

/-- A command of a core section on the core of rank r. -/
def coreCheck (x : Ctx) (v : Seen) (c : Cmd) (core offset : Nat) : Except Nat Seen :=
  let plain (o : Option Nat) : Except Nat Seen := match o with | some st => .error st | none => .ok v
  if c.op = 0x18 then plain (vecCheck c)
  else if c.op = 0x19 then plain (xferCheck x c offset)
  else if c.op = 0x1C then plain (gatherCheck c)
  else if 0x10 ≤ c.op && c.op ≤ 0x12 then
    match mtFirst c with
    | some st => .error st
    | none => match chainCheck (v.chains.find core) (mtOf c) with
      | .error st => .error st
      | .ok o => match mtLast c with
        | some st => .error st
        | none => .ok { v with chains := match o with | some h => v.chains.set core h | none => v.chains.drop core }
  else .ok v

/-- The first failure of a run of checks, or the last result. -/
def checkAll {α σ : Type} (f : σ → α → Except Nat σ) : List α → σ → Except Nat σ
  | [], v => .ok v
  | a :: as, v => match f v a with
    | .error st => .error st
    | .ok v => checkAll f as v

/-- A command of a section. -/
def State.cmdCheck (s : State) (x : Nat) (g : Section) (v : Seen) (c : Cmd) : Except Nat Seen :=
  let plain (o : Option Nat) : Except Nat Seen := match o with | some st => .error st | none => .ok v
  if c.op = 0x04 then .ok { v with lits := true }
  else if c.op ≤ 0x06 then .ok v
  else if g.kind = 0 then
    checkAll (fun v (p : Nat × Nat) => coreCheck (s.ctx x) v c p.1 (p.2 * g.stride)) (g.cores (s.ctx x).dieMask).zipIdx v
  else if g.kind = 1 then plain (s.collCheck x c)
  else if g.kind = 2 then (match updCheck (s.ctx x) v.lits v.upd c with | .error st => .error st | .ok u => .ok { v with upd := u })
  else plain (s.infCheck x c)

/-- A section: its cores lie in the partition (R395), and its commands pass. -/
def State.sectionCheck (s : State) (x : Nat) (v : Seen) (g : Section) : Except Nat Seen :=
  if g.kind = 0 && (coresOf (s.ctx x).dieMask).length < g.first + g.count then .error St.partitionRange
  else checkAll (s.cmdCheck x g) g.cmds v

/-- Steps 4 and 5 of R842: the first status that a stream fails with. -/
def State.streamCheck (s : State) (x : Nat) (ws : List W64) : Option Nat :=
  match layoutCheck ws with
  | some st => some st
  | none => match checkAll (s.sectionCheck x) (slicesOf ws).flatten {} with
    | .error st => some st
    | .ok v =>
      if !v.chains.isEmpty then some St.chainBroken
      else if !(v.upd.whole (s.ctx x)) then some St.streamFormat
      else none

/-! ### Estimates (R60, R61, R173, R174, R229, R230, R471, R530, R715) -/

/-- The core store of a context on a core: in place while it holds the die, else as its last switch saved it (R230). -/
def State.coreView (s : State) (x k : Nat) : Mem :=
  if s.dieHolder (k / 64) s.now = some x then (s.core k).store else ((s.ctx x).images.get {} k).live

/-- Pour cycles of pass p as the firmware estimates them (R229, R230). -/
def pourCycles (t : Mt) (d : List W64) (p : Nat) : Nat :=
  let e := epiOf d
  let odd := e.reserved || 9 < e.outFmt || 1 < e.rounding || 1 < e.layout || 7 < e.act
  12 + (if odd || e.scaled then 2 else 1) * t.rowsOf p + (if odd || e.anyStats then 16 else 0)

/-- Cycles of a tile up to the last k-step of its last pass: the passes before it, 7 cycles of fill, and its k-steps
(R149, R173, R174). -/
def tileReadCycles (t : Mt) (d : List W64) : Nat :=
  let mac := t.steps + 16
  let before := if t.passes ≤ 1 then 0 else (List.range (t.passes - 2)).foldl (fun n p => n + max mac (pourCycles t d p)) mac
  before + 7 + t.steps

/-- estimate_tile (R173). -/
def tileCycles (t : Mt) (d : List W64) : Nat :=
  let mac := t.steps + 16
  let total := (List.range (t.passes - 1)).foldl (fun n p => n + max mac (pourCycles t d p)) mac
  if t.pour then total + pourCycles t d (t.passes - 1) else total

/-- A command of a core as the estimate sees it: the spans it reads and writes, and when its reads and writes end. -/
structure Laid where
  reads : List Span
  writes : List Span
  readEnd : Nat
  end_ : Nat
deriving DecidableEq, Repr

/-- The two lanes of a core in the estimate (R170, R174). -/
structure Lanes where
  matrix : Nat := 0
  vector : Nat := 0
  laid : List Laid := []
deriving DecidableEq, Repr

/-- One command enters its lane: it starts when its lane is free and every earlier conflict of R149 is over. -/
def Lanes.add (l : Lanes) (store : Mem) (c : Cmd) : Lanes :=
  let tile := c.isTile
  let t := mtOf c
  let d := if tile && t.pour then store.words t.epi 6 else []
  let reads := if tile then t.reads d else laneReads c
  let writes := if tile then t.writes d else laneWrites c
  let len :=
    if tile then tileCycles t d
    else if c.op = 0x18 then
      let v := vcmdOf c
      6 + cdiv v.len 8 + v.proCost + v.iter * v.bodyCost
    else if c.op = 0x19 then (xcmdOf c).estimate
    else if c.op = 0x1C then (gcmdOf c).estimate
    else 0
  let meets (a b : List Span) : Bool := a.any fun p => b.any p.meets
  let free := l.laid.foldl (fun n e =>
    let n := if meets reads e.writes || meets writes e.writes then max n e.end_ else n
    if meets writes e.reads then max n e.readEnd else n) (if tile then l.matrix else l.vector)
  if len = 0 then l
  else
    let e := free + len
    let readEnd := if tile then free + tileReadCycles t d else e
    { matrix := if tile then e else l.matrix
      vector := if tile then l.vector else e
      laid := l.laid ++ [{ reads := reads, writes := writes, readEnd := readEnd, end_ := e }] }

/-- Cycles that a core's commands of a slice are estimated to take. -/
def State.coreCycles (s : State) (x k : Nat) (cs : List Cmd) : Nat :=
  let l := cs.foldl (fun l c => l.add (s.coreView x k) c) ({} : Lanes)
  max l.matrix l.vector

/-- Cycles of one tile of an update command, and of a refresh (R471). -/
def UCmd.tileCycles (u : UCmd) : Nat :=
  if u.op = 0x40 then 4352 else if u.op = 0x41 || u.op = 0x45 then 2560 else if u.op = 0x42 then 2688
  else if u.op = 0x46 then 0 else 768
def UCmd.refreshCycles (u : UCmd) : Nat := 4096 + 2 * u.iters * (2048 * (if u.rootP = 0 then 3 else 4) + 256)

/-- estimate_caddy_section (R471), in cycles of 1.2 GHz. -/
def caddyCycles (cs : List Cmd) : Nat :=
  (List.range 4).foldl (fun worst c =>
    max worst (cs.foldl (fun n cmd =>
      let u := ucmdOf cmd
      let ts := ((List.range u.count).map (u.first + ·)).filter fun t => caddyOfTile t = c
      if cmd.op < 0x40 then n
      else n + 400 + ts.length * u.tileCycles + (ts.filter fun t => u.refresh t).length * u.refreshCycles) 0)) 0

/-- One-way latency to a module in ns: the measured delay of a link that ends there; for a module further away the
measures of the links beyond the first are free values (R530). -/
def State.latencyTo (s : State) (dn : Nat) : Nat :=
  match s.fabric.links.find? fun e => e.2.nbDnValid && e.2.nbDn == dn && e.2.state == .trained with
  | some e => e.2.oneWayNs
  | none => if dn = s.fabric.dn then 0 else Config.pathDelay s.fabric.dn dn

/-- estimate_coll (R530), in ns. -/
def State.collNs (s : State) (x : Nat) (cmd : Cmd) : Nat :=
  let c := ccmdOf cmd
  let elem (n : Nat) : Nat :=
    if c.codec then cdiv n 4096 * (if c.sign then 520 else 8 * cdiv (4 + 4 * c.kBlk) 8)
    else if c.fp32 then 4 * n else c.bytes n
  match (if c.pair then none else (s.ctx x).groups.find c.group) with
  | none =>
    let dn := match (s.ctx x).stages.find c.vstage with
      | some v => ((s.members.modules.find? fun e => pathWords e.2 == (if c.prev then v.prev else v.next)).map (·.1)).getD s.fabric.dn
      | none => s.fabric.dn
    10000 + (1000 + s.latencyTo dn) + cdiv (c.bytes c.count) 100
  | some g =>
    let n := g.n
    let m := n / max 1 g.g
    let rank := (g.table.findIdx? fun d => d == s.fabric.dn).getD 0
    let d := (List.range c.lanes).foldl (fun w l =>
      let order := g.orders.getD l []
      let p := (order.findIdx? fun r => r == rank).getD 0
      let at_ (i : Nat) : Nat := g.table.getD (order.getD (i % n) 0) 0
      max w (max (s.latencyTo (at_ (p + 1))) (s.latencyTo (at_ (p + n - 1))))) 0
    let part := elem (c.unit * cdiv c.count (c.unit * max 1 c.lanes))
    let once := if c.hier then (g.g - 1) + (m - 1) else n - 1
    let twice := c.op = 0x22 || c.op = 0x23
    let steps := (if twice || c.barrier then 2 * once else once) + (if c.stats then 2 * (n - 1) else 0)
    let v := if c.barrier then 0 else if c.op = 0x24 then part else cdiv (part * (if twice then 2 else 1) * (n - 1)) n
    10000 + steps * (1000 + d) + cdiv v 100

/-- The host link's rate over that of Gen 7 × 16 as 20,480ths: GT/s × lanes, in tenths (R772). With no link the figure of
Gen 7 × 16 stands, DESIGN CHOICE (log 87). -/
def HostIf.rate (h : HostIf) : Nat :=
  let r := [0, 25, 50, 80, 160, 320, 640, 1280].getD h.speed 0 * h.width
  if r = 0 then 20480 else r

/-- The estimate of an INF_LOAD in ns (R715, R772); gates and drops take none. -/
def State.infNs (s : State) (x : Nat) (c : Cmd) : Nat :=
  if c.op ≠ 0x60 then 0
  else
    let w := c.w 0
    let md := (s.ctx x).model (fld w 17 16)
    let all := 4194304 * fld w 63 48
    let n := if md.state == .free then all else min all ((s.layerEntry md (fld w 31 22)).2 - 4194304 * fld w 47 32)
    10000 + (if fld w 19 18 = 0 then cdiv (n * 20480) (224 * s.host.rate) else cdiv n (if fld w 19 18 = 1 then 100 else 2000))

/-- A slice's estimate in ns, each part rounded up, and whether it exceeds the budget of R60: its core sections in cycles
of the slowest region that they use, the others in time. -/
def State.sliceEstimate (s : State) (x : Nat) (gs : List Section) : Nat × Bool :=
  let spare := 250 * s.steep.currentQ - 10
  let core := gs.filter fun g => g.kind = 0
  let used := core.flatMap fun g => g.cores (s.ctx x).dieMask
  let clock := used.foldl (fun n k => min n (s.region (k / 16)).eff) (match used with | k :: _ => (s.region (k / 16)).eff | [] => 128)
  let cycles := core.foldl (fun n g => (g.cores (s.ctx x).dieMask).foldl (fun n k => max n (s.coreCycles x k g.cmds)) n) 0
  let ns (kind : Nat) (f : Cmd → Nat) : Nat := (gs.filter fun g => g.kind = kind).foldl (fun n g => g.cmds.foldl (fun n c => n + f c) n) 0
  let coll := ns 1 fun c => if c.op < 0x20 then 0 else s.collNs x c
  let inf := ns 3 (s.infNs x)
  let cad := (gs.filter fun g => g.kind = 2).foldl (fun n g => n + caddyCycles g.cmds) 0
  let worst := max (max (cdiv (cycles * 80) clock) coll) (max inf (cdiv (cad * 5) 6))
  (worst, 2 * cycles > 25 * clock * spare || coll > 1000 * spare || inf > 1000 * spare || cad > 1200 * spare)

/-! ### STREAM_SUBMIT (R389 to R391, R842) -/

/-- The firmware checks the copied stream and queues it, or releases it from its queue. -/
def State.admitStream (s : State) (x slot : Nat) (a startAt : W64) (ws : List W64) : KResult :=
  let q := slotQueue x slot
  let seq := (s.queue q.1 q.2).seqNext
  match s.put q.1 q.2 (some x) Config.commandType.toNat ws with
  | none => done s St.noResource
  | some s =>
    let slices := slicesOf ws
    let es := slices.map (s.sliceEstimate x)
    let bad := match s.streamCheck x ws with
      | some st => some st
      | none => if es.any (·.2) then some St.sliceTooLong else none
    match bad with
    | some st => done (s.consume q.1 q.2 seq) st
    | none =>
      let c := s.ctx x
      let t : Stream := {
        id := c.nextStream, tag := fld (ws.getD 0 0#64) 63 32, step := (ws.getD 1 0#64).toNat, startAt := startAt.toNat
        sliceEvents := bitAt a 5, words := ws, slices := slices.length }
      let c := { c with nextStream := (c.nextStream + 1) % 2 ^ 32 }
      let s := s.setCtx x (c.setSlot slot { (c.slot slot) with streams := (c.slot slot).streams ++ [t] })
      let us := es.foldl (fun n e => max n (cdiv e.1 1000)) 0
      (s, some (St.ok, [mkWord [(0, 32, t.id), (32, 32, us)]]))

/-- STREAM_SUBMIT (R389 to R391, R402, R842). -/
def execStreamSubmit (r : Req) (host : HostRead) (s : State) : Host.Outcome State Fault Refusal :=
  .next (s.kettle r 0x0020 false anyClass fun k s =>
    let a := k.arg 0
    let x := k.x
    let slot := fld a 3 0
    let n := fld a 47 32
    let addr := (k.arg 1).toNat
    let c := s.ctx x
    if k.args.length ≠ 3 || fld a 31 6 ≠ 0 || fld a 63 48 ≠ 0 || n < 2 || (bitAt a 4 && (fld (k.arg 1) 63 48 ≠ 0 || addr % 8 ≠ 0)) then
      done s St.reserved
    else if c.state == .free then done s St.badContext
    else if (c.slot slot).held then done s St.slotHeld
    else if c.state == .draining || c.state == .fenced || s.fencedUnit (.ctx x) then done s St.unitFenced
    else if bitAt a 4 then
      (if !(c.fastSpan addr (8 * n)) then done s St.memoryRange
       else (s.noteTier (addr / 8) n (some x) false 0 0).admitStream x slot a (k.arg 2) (s.mem.space.words (addr / 8) n))
    else s.dma k host addr false fun ws => s.admitStream x slot a (k.arg 2) (ws.take n))

end Sys2Proof.Machine
end

