-- ==== Sys2Proof/Machine/Slices.lean ====
section
/-! DEFINITION. Machine/Slices.lean: streams as they run: the stream-control commands (R393, R398, R399), the issue of slices
(R400, R401, R473, R577, R619, R719), their completion (R172, R402 to R406), their deadlines (R63 to R65, R715), and the
context switch (R417 to R419). -/
namespace Sys2Proof.Machine

/-! ### Stream-control commands (R393, R398, R399) -/

/-- STREAM (R393): the head of the stream that starts gives its slice count, tag and step, which were taken at submission. -/
def execStream (ctx slot : Nat) (cmd : Cmd) (s : State) : Host.Outcome State Fault Refusal :=
  match ((s.ctx ctx).slot slot).streams with
  | [] => .next s
  | t :: _ =>
    if cmd.op ≠ 0x01 || cmd ≠ t.words.take 2 || t.done ≠ 0 then .next s
    else .next (s.updStream ctx slot fun t => { t with
      slices := fld (cmd.w 0) 31 16, tag := fld (cmd.w 0) 63 32, step := (cmd.w 1).toNat })

/-- SLICE (R393): the head of a slice only cuts the stream, as the layout has done. -/
def execSlice (_ctx _slot : Nat) (_cmd : Cmd) (s : State) : Host.Outcome State Fault Refusal := .next s
/-- SECTION (R393): the head of a section only names who runs its commands. -/
def execSectionCmd (_ctx _slot : Nat) (_cmd : Cmd) (s : State) : Host.Outcome State Fault Refusal := .next s

/-- The 14 literal slots of a LITERALS command (R393, R399). -/
def literalsOf (cmd : Cmd) : List W32 := (List.range 7).flatMap fun j => [lo32 (cmd.w (j + 1)), hi32 (cmd.w (j + 1))]

/-- LITERALS (R399): the slots hold until the next LITERALS of the stream or its end. -/
def execLiterals (ctx slot : Nat) (cmd : Cmd) (s : State) : Host.Outcome State Fault Refusal :=
  match s.takeNext ctx slot 0x04 [0, 1, 2, 3] cmd with
  | none => .next s
  | some (_, s) => .next (s.updStream ctx slot fun t => { t with literals := some (literalsOf cmd) })

/-- KEEP_LIVE (R398): LIVE_BYTES of each core of its section. -/
def execKeepLive (ctx slot : Nat) (cmd : Cmd) (s : State) : Host.Outcome State Fault Refusal :=
  match s.takeNext ctx slot 0x05 [0] cmd with
  | none => .next s
  | some (t, s) =>
    let cores := ((t.slice t.done).filter fun g => g.cmds.contains cmd).flatMap fun g => g.cores (s.ctx ctx).dieMask
    .next (s.updCtx ctx fun c => { c with keepLive := forL cores (fun k l => l.set k (fld (cmd.w 1) 22 0)) c.keepLive })

/-- MARK (R393, R405): its event follows when the slice completes. -/
def execMark (ctx slot : Nat) (cmd : Cmd) (s : State) : Host.Outcome State Fault Refusal :=
  match s.takeNext ctx slot 0x06 [0, 1, 2, 3] cmd with
  | none => .next s
  | some (_, s) => .next (s.updStream ctx slot fun t => { t with marks := t.marks ++ [fld (cmd.w 0) 63 32] })

/-! ### Context switches (R209, R417 to R419) -/

/-- A context has a slice running. -/
def Ctx.runs (c : Ctx) : Bool := c.slots.any fun e => match e.2.streams with | t :: _ => t.running.isSome | [] => false

/-- Live bytes of a core that a switch moves (R417): `held` when an open chain stands in ACC-L. -/
def Ctx.moved (c : Ctx) (k : Nat) (held : Bool) : Nat := c.liveBytes k + (if held then 32768 else 0) + 16720

/-- Starts switches together: live bytes are saved, and t_switch is set from the larger of the bytes saved and restored
(R417, R418). -/
def State.startSwitches (s : State) (ws : List Switch) : State :=
  let cores (w : Switch) : List Nat := (List.range 64).map (64 * w.die + ·)
  let out := ws.foldl (fun n w => match w.from_ with
    | some x => (cores w).foldl (fun n k => n + (s.ctx x).moved k (s.core k).chain.isSome) n
    | none => n) 0
  let in_ := ws.foldl (fun n w => (cores w).foldl (fun n k =>
    n + (s.ctx w.to_).moved k (((s.ctx w.to_).images.get {} k).acc.isSome)) n) 0
  let ns := 20000 + cdiv (max out in_) 32000
  let s := forL ws (fun w s => match w.from_ with
    | some x => forL (cores w) (fun k s => s.saveCore x k) s
    | none => s) s
  let begun := ws.map fun w => { w with started := s.now, waiting := false, ns := ns }
  let s := { s with switches := (s.switches.filter fun w => !(ws.any fun v => v.die == w.die)) ++ begun }
  forL ws (fun w s =>
    let s := match w.from_ with
      | some x => s.updCtx x fun c => { c with switching := true }
      | none => s
    s.updCtx w.to_ fun c => { c with switching := true }) s

/-- Switches that waited for a slice of the context start when its last running slice has completed (R209, R419). -/
def State.wakeSwitches (s : State) (x : Nat) : State :=
  if (s.ctx x).runs then s
  else
    let ws := s.switches.filter fun w => w.waiting && w.from_ == some x
    if ws.isEmpty then s else s.startSwitches ws

/-- What the save of a HELD set finds (R837): `ups` names words of core k's set and bits of them that turned over. -/
def State.readSaved (s : State) (x k : Nat) (ups : List (Nat × Nat)) : State :=
  let i := (s.ctx x).images.get {} k
  match i.acc with
  | none => s
  | some a =>
    let rd := s.readSet k (s.core k).select (some x) 0 a.2.tileId ups a.1.cells
    rd.1.updCtx x fun c => { c with images := c.images.set k { i with acc := some ({ a.1 with cells := rd.2 }, a.2) } }

/-- CONTEXT_SWITCH_COMPLETE (R417, R419): the incoming context's live bytes stand on the die's cores; when none of its
switches is left, SWITCH_DONE is written with t_switch. Sets that were HELD are read
with their check (R837). -/
def execContextSwitchComplete (e : SwitchEnd) (s : State) : Host.Outcome State Fault Refusal :=
  let die := e.die
  match s.switches.find? fun w => w.die == die && !w.waiting with
  | none => .next s
  | some w =>
    let hit (i : Nat) : List (Nat × Nat) := (e.upset.filter fun u => u.1 / 4096 % 64 = i).map fun u => (u.1 % 4096, u.2)
    let cores := (e.upset.map fun (u : Nat × Nat) => u.1 / 4096 % 64).eraseDups
    let s := match w.from_ with
      | some x => forL cores (fun i (s : State) => s.readSaved x (64 * die + i) (hit i)) s
      | none => s
    let s := forN 64 (fun i s => s.restoreCore w.to_ (64 * die + i)) s
    let s := { s with switches := s.switches.filter fun v => v.die != die }
    let idle (s : State) (x : Nat) : State :=
      if s.switches.any fun v => !v.waiting && (v.to_ == x || v.from_ == some x) then s
      else s.updCtx x fun c => { c with switching := false }
    let s := match w.from_ with
      | some x => idle s x
      | none => s
    let s := idle s w.to_
    if s.switches.any fun v => !v.waiting && v.to_ == w.to_ then .next s
    else .next (s.event w.to_ { kind := 0x0006, detail := BitVec.ofNat 64 w.ns })

/-! ### Issue (R400, R401, R473) -/

/-- The context holds all its dies in the present steep, and no switch runs or waits on them (R400, R419). -/
def State.holdsDies (s : State) (x : Nat) : Bool :=
  (List.range 8).all fun d => !(Nat.testBit (s.ctx x).dieMask d) || (s.dieHolder d s.now == some x && !(s.switches.any fun w => w.die == d))

/-- A slice carries update commands. -/
def hasCaddy (gs : List Section) : Bool := gs.any fun g => g.kind = 2
/-- A stream carries update commands, and one of them applies an outer round. -/
def Stream.updates (t : Stream) : Bool := (slicesOf t.words).any fun gs => gs.any fun g => g.kind = 2 && g.cmds.any fun c => 0x40 ≤ c.op
def Stream.applies (t : Stream) : Bool := (slicesOf t.words).any fun gs => gs.any fun g => g.cmds.any fun c => c.op = 0x45

/-- What the slices issued at a boundary take so far: cores and section kinds of the context, and caddy cycles of all. -/
structure Taken where
  cores : List Nat := []
  kinds : List Nat := []
  caddy : Nat := 0
deriving DecidableEq, Repr

/-- The first slice of a stream starts its step: the copies of R318 are written again, a capture armed for it begins, and a
member's step is in progress (R607, R608, R620). -/
def State.startStream (s : State) (x : Nat) (t : Stream) : State :=
  let s := s.rewriteNow x
  if t.replay then s
  else
    let s := match (s.ctx x).job.capture with
      | some k => if k.running then s else
          (forL k.spans (fun p s => s.noteBytes p.1 p.2 (some x) 0x0302 0) s).startCapture x t
      | none => s
    if !(s.ctx x).job.member then s
    else
      let p : StepSt := { step := t.step, firstEpoch := s.now, hasUpdate := t.updates }
      s.updJob x fun j => { j with steps := (j.steps.filter fun q => q.step ≠ t.step) ++ [p] }

/-- The first slice with update commands gives the caddies the whole stream's commands to complete (R461). -/
def State.startUpdates (s : State) (x : Nat) (t : Stream) : State :=
  let slices := slicesOf t.words
  if (slices.take t.done).any hasCaddy then s
  else
    let n := ((slices.flatten.filter fun g => g.kind = 2).flatMap (·.cmds)).countP fun c => decide (0x40 ≤ c.op)
    s.updUpd x fun v => { v with
      left := 4 * n
      prepared := false
      bad := false
      inits := []
      retires := []
      wrote := false
      copies := [] }

/-- The slice of a slot that is due runs from now on, all its commands still to be taken (R394, R400). -/
def State.openSlice (s : State) (x slot : Nat) (gs : List Section) : State :=
  s.updStream x slot fun t => { t with
    started := true, running := some s.now, overruns := 0, marks := [], drops := [], todo := engineCmds gs (s.replaySkips x t) }

/-- One slot of a context at step 10: its next slice is issued when nothing holds it (R400, R401, R473, R577, R619, R719). -/
def State.issueSlot (s : State) (x slot : Nat) (k : Taken) : State × Taken :=
  let c := s.ctx x
  match (c.slot slot).streams with
  | [] => (s, k)
  | t :: _ =>
    if t.running.isSome || t.cancelled || t.aborted || (!t.started && ((c.slot slot).held || s.now < t.startAt)) then (s, k)
    else
      let gs := t.slice t.done
      let cores := gs.flatMap fun g => g.cores c.dieMask
      let kinds := (gs.filter fun g => g.kind ≠ 0).map (·.kind)
      let runsUpdates := hasCaddy gs && !s.replaySkips x t
      let cycles := if runsUpdates then (gs.filter fun g => g.kind = 2).foldl (fun n g => n + caddyCycles g.cmds) 0 else 0
      let uncommitted := !t.replay && c.job.steps.any fun p => p.step < t.step
      if cores.any (fun i => k.cores.contains i) || kinds.any (fun i => k.kinds.contains i) then (s, k)
      else if runsUpdates && (uncommitted || (t.applies && s.outerHolds x t.step) ||
          (k.caddy ≠ 0 && 1200 * (250 * s.steep.currentQ - 10) < k.caddy + cycles)) then (s, k)
      else
        let g := s.gates x gs
        match g.2 with
        | some (some st) => ((g.1.endStream x slot st).failStep x t.step CauseOf.stream s.now, k)
        | some none => (g.1, k)
        | none =>
          let s := if t.started then g.1 else g.1.startStream x t
          let s := if runsUpdates then s.startUpdates x t else s
          let s := (s.giveStreams x slot gs).openSlice x slot gs
          (s, { cores := k.cores ++ cores, kinds := k.kinds ++ kinds, caddy := k.caddy + cycles })

/-- Step 10 of R56: contexts in rising number, within a context the lower slot first. A context whose slice overruns waits
for it to finish (R63). -/
def State.issueSlices (s : State) : State :=
  ((List.range 8).foldl (fun (p : State × Nat) x =>
    let c := p.1.ctx x
    if c.state != .active || p.1.fencedUnit .module || p.1.faults.outOfService || p.1.power.state ≠ 0 || c.runs || !(p.1.holdsDies x) then p
    else
      let r := (List.range 16).foldl (fun (q : State × Taken) slot => q.1.issueSlot x slot q.2) (p.1, { caddy := p.2 })
      (r.1, r.2.caddy)) (s, 0)).1

/-! ### Completion (R172, R402, R403, R405, R606, R720) -/

/-- Commands of the running slice of a slot that have not completed, or have not been taken yet (R172). -/
def State.sliceBusy (s : State) (x slot : Nat) (t : Stream) : Bool :=
  let cores := (t.slice t.done).flatMap fun g => g.cores (s.ctx x).dieMask
  !t.todo.isEmpty || cores.any (fun k => (s.core k).outstanding || !(s.core k).work.isEmpty) || (s.caddies.any fun e => e.2.jobs.any fun j => j.ctx == x && j.slot == slot) ||
    (s.fabric.ops.any fun o => o.ctx == x && o.slot == slot) || s.loads.any fun l => l.ctx == x && l.slot == slot

/-- Steps that an abort has ended leave, once no aborted stream of the context is left (R606). -/
def State.clearAborted (s : State) (x : Nat) : State :=
  if (List.range 16).any fun sl => ((s.ctx x).slot sl).streams.any fun t => t.aborted then s
  else s.updJob x fun j => { j with steps := j.steps.filter fun p => p.phase != .aborting }

/-- The end of a stream whose last slice has completed, or that ends early: an error status comes first (R402), then an abort
(R606), then a cancellation (R403). -/
def State.settleStream (s : State) (x slot : Nat) (t : Stream) : State :=
  match t.failed with
  | some st =>
    let s := (s.endStream x slot st)
    if t.replay then s else (s.failStep x t.step CauseOf.stream s.now).clearAborted x
  | none =>
    if t.aborted then (s.endStream x slot St.stepAborted).clearAborted x
    else if t.cancelled then s.endStream x slot St.cancelled
    else if t.done = t.slices then
      let s := s.endStream x slot St.ok
      if t.replay then s.discardShadow x t.step
      else if t.updates || (s.ctx x).job.steps.any (fun p => p.step < t.step) then s
      else s.updatePrepared x t.step
    else s

/-- SLICE_COMPLETE (R172): every command of the slice has completed, in `cycles` of the slowest region's clock, of which
`waited` were spent behind other contexts (R423). -/
def execSliceComplete (ctx slot cycles waited : Nat) (s : State) : Host.Outcome State Fault Refusal :=
  match ((s.ctx ctx).slot slot).streams with
  | [] => .next s
  | t :: _ =>
    match t.running with
    | none => .next s
    | some begun =>
      if s.sliceBusy ctx slot t then .next s
      else
        let s := if t.overruns = 0 then s else s.worst (begun + 1)
        let s := s.updCtx ctx fun c => { c with cyclesHeld := c.cyclesHeld + cycles, cyclesWaited := c.cyclesWaited + waited }
        let s := if t.sliceEvents then
            s.event ctx { kind := 0x0002, slice := t.done, stream := t.id, value := t.tag, detail := BitVec.ofNat 64 cycles } else s
        let s := forL t.marks (fun v s => s.event ctx { kind := 0x0003, slice := t.done, stream := t.id, value := v }) s
        let s := s.passesOn ctx t
        let t' := { t with done := t.done + 1, running := none, overruns := 0, marks := [], drops := [], cycles := max t.cycles cycles }
        let s := s.updStream ctx slot fun _ => t'
        .next ((s.settleStream ctx slot t').wakeSwitches ctx)

/-! ### Deadlines (R63 to R65, R715) -/

/-- DEADLINE_SLICE, CE at the first boundary after the slice's start and UC at the second, once each (R63). -/
def State.lateSlice (s : State) (x slot : Nat) (uc : Bool) : State × Bool :=
  match ((s.ctx x).slot slot).streams with
  | [] => (s, false)
  | t :: _ =>
    match t.running with
    | none => (s, false)
    | some n =>
      if t.overruns ≠ b2n uc || s.now < n + 1 + b2n uc then (s, false)
      else
        let s := s.updStream x slot fun t => { t with overruns := t.overruns + 1 }
        let st := s.steep
        let s := { s with steep := { st with
          sliceCe := if uc then st.sliceCe else satN 16 (st.sliceCe + 1)
          sliceUc := if uc then satN 16 (st.sliceUc + 1) else st.sliceUc } }
        (s.raise {
          code := Rec.deadlineSlice, cls := if uc then .uc else .ce, ctx := some x, opRef := t.id
          a := BitVec.ofNat 64 (s.lateBy (n + 1)), b := BitVec.ofNat 64 (s.lateBy n) }, true)

/-- DEADLINE_SLICE_CE (R63). -/
def execDeadlineSliceCe (ctx slot : Nat) (s : State) : Host.Outcome State Fault Refusal := .next (s.lateSlice ctx slot false).1

/-- The context is fenced in error mode after a UC deadline (R64); the streams whose slices have reached it end with DEADLINE
(R381). -/
def State.fenceLate (s : State) (x : Nat) : State :=
  (forN 16 (fun slot s => match ((s.ctx x).slot slot).streams with
    | t :: _ => if t.running.any fun n => n + 2 ≤ s.now then s.failSlot x slot St.deadline else s
    | [] => s) s).fenceCtx x

/-- DEADLINE_SLICE_UC (R63, R64): the context is fenced in error mode, and its step does not commit. -/
def execDeadlineSliceUc (ctx slot : Nat) (s : State) : Host.Outcome State Fault Refusal :=
  let r := s.lateSlice ctx slot true
  .next (if r.2 then r.1.fenceLate ctx else r.1)

/-- A transfer, a collective operation or a load that is late at a boundary: the unit, context, opcode, reference, steep and
ticks of its start, and the records it has raised. -/
structure Late where
  unit : UnitId
  ctx : Option Nat
  opcode : Nat
  opRef : Nat
  started : Nat
  tick : Nat
  raised : Nat
deriving DecidableEq, Repr

/-- A load in progress, by its context and LOAD_ID. -/
def State.loadOf (s : State) (x id : Nat) : Option Load := s.loads.find? fun l => l.ctx == x && l.loadId == id

def State.lateOf (s : State) (w : XferRef) : Option Late :=
  match w with
  | .core k => (s.core k).xfer.map fun x =>
      { unit := .core k, ctx := x.ctx, opcode := Cmd.op x.cmd, opRef := s.streamIdOf k x.ctx, started := x.taken, tick := x.tick, raised := x.overruns }
  | .coll x op => (s.collOp x op).map fun o =>
      { unit := .module, ctx := some x, opcode := o.c.op, opRef := op, started := o.started, tick := o.tick, raised := o.overruns }
  | .load x id => (s.loadOf x id).map fun l =>
      { unit := .module, ctx := some x, opcode := 0x60, opRef := l.streamId, started := l.started
        tick := s.steep.ticks - s.lateBy l.started, raised := l.recorded }

/-- Notes that one more record of the work has been raised. -/
def State.noteLate (s : State) (w : XferRef) : State :=
  match w with
  | .core k => s.updCore k fun c => { c with xfer := c.xfer.map fun x => { x with overruns := x.overruns + 1 } }
  | .coll x op => { s with fabric := { s.fabric with
      ops := s.fabric.ops.map fun o => if o.ctx = x && o.c.opId = op then { o with overruns := o.overruns + 1 } else o } }
  | .load x id => { s with loads := s.loads.map fun l => if l.ctx = x && l.loadId = id then { l with recorded := l.recorded + 1 } else l }

/-- DEADLINE_XFER in its two steps (R63, R64). -/
def State.lateXfer (s : State) (w : XferRef) (uc : Bool) : State × Option Nat :=
  match s.lateOf w with
  | none => (s, none)
  | some l =>
    if l.raised ≠ b2n uc || s.now < l.started + 1 + b2n uc then (s, none)
    else
      let s := s.noteLate w
      let s := { s with steep := { s.steep with otherDeadlines := satN 16 (s.steep.otherDeadlines + 1) } }
      (s.raise {
        code := Rec.deadlineXfer, cls := if uc then .uc else .ce, unit := l.unit, ctx := l.ctx, opcode := l.opcode, opRef := l.opRef
        a := BitVec.ofNat 64 (s.lateBy (l.started + 1)), b := BitVec.ofNat 64 (s.steep.ticks - l.tick) }, l.ctx)

/-- DEADLINE_XFER_CE (R63). -/
def execDeadlineXferCe (w : XferRef) (s : State) : Host.Outcome State Fault Refusal := .next (s.lateXfer w false).1

/-- DEADLINE_XFER_UC (R63, R64): the context is fenced in error mode, but for a load, whose retries continue (R715). -/
def execDeadlineXferUc (w : XferRef) (s : State) : Host.Outcome State Fault Refusal :=
  let r := s.lateXfer w true
  match w, r.2 with
  | .load _ _, _ => .next r.1
  | _, some x => .next (r.1.fenceLate x)
  | _, none => .next r.1

end Sys2Proof.Machine
end

