-- ==== Sys2Proof/Machine/Time.lean ====
section
/-! DEFINITION. Machine/Time.lean: the steep's registers, timing words, and the audits of the conserved quantities
(R43 to R54, R64, R74 to R78, R361, R362, R566, R612). -/
namespace Sys2Proof.Machine

/-! ### The steep's registers (R15, R43, R44, R47) -/

/-- What a read of part of a register returns (R15): a half stands in the low 32 bits. -/
def halfOf (h : Half) (w : W64) : W64 :=
  match h with
  | .full => w
  | .low => BitVec.ofNat 64 (fld w 31 0)
  | .high => BitVec.ofNat 64 (fld w 63 32)

/-- STEEP_PERIOD_WRITE (R43): NEXT_Q lies in the low half. -/
def execSteepPeriodWrite (h : Half) (v : W64) (s : State) : Host.Outcome State Fault Refusal :=
  let q := fld v 5 0
  if s.dark then .next s
  else match h with
    | .high => .next s
    | _ =>
      if q = 0 || 32 < q then .next (s.regAccess 0x40)
      else .next { s with steep := { s.steep with nextQ := q } }

/-- STEEP_SWITCH_AT_WRITE (R44). -/
def execSteepSwitchAtWrite (h : Half) (v : W64) (s : State) : Host.Outcome State Fault Refusal :=
  let at_ := (mergeHalf h (BitVec.ofNat 64 s.steep.atCount) v).toNat
  if s.dark then .next s
  else if at_ ≤ s.now then .next (s.regAccess 0x48)
  else .next { s with steep := { s.steep with atCount := at_ } }

/-- STEEP_PHASE_READ (R47): a 64-bit read also latches STEEP_COUNT. -/
def execSteepPhaseRead (h : Half) (s : State) : Host.Outcome State Fault Refusal :=
  if s.dark then .next s else
  let s := { s with readData := halfOf h (BitVec.ofNat 64 s.steep.phase) }
  match h with
  | .full => .next { s with steep := { s.steep with latch := some (s.now, 0) } }
  | _ => .next s

/-- STEEP_COUNT_READ (R47): the read returns a latched value, and releases it. -/
def execSteepCountRead (h : Half) (s : State) : Host.Outcome State Fault Refusal :=
  if s.dark then .next s else
  let n := match s.steep.latch with
    | some (c, age) => if age < 2 then c else s.now
    | none => s.now
  .next { s with readData := halfOf h (BitVec.ofNat 64 n), steep := { s.steep with latch := none } }

/-- STEEP_LATCH_RELEASE (R47): the second boundary after the latch. -/
def execSteepLatchRelease (s : State) : Host.Outcome State Fault Refusal :=
  match s.steep.latch with
  | some (_, age) => if age < 2 then .next s else .next { s with steep := { s.steep with latch := none } }
  | none => .next s

/-! ### Timing words (R45, R48 to R54) -/

/-- Payload of the timing word (R49, R75): the count; the phase, the period and the hop distance; then the counters of each
virtual channel at the last snapshot: received and sent, and credits granted. The layout is the model's own. -/
def State.timingWords (s : State) (link : Nat) : List W64 :=
  let st := s.steep
  let snap := st.snap.or st.snapBefore
  let at_ (vc : Nat) : CreditSnap := ((snap.bind fun a => a.credits.find? fun c => c.link == link && c.vc == vc)).getD
    { link := link, vc := vc, available := 0, sent := 0, returned := 0, allocation := 0, received := 0, granted := 0 }
  let pair (a b : Int) : W64 := mkWord [(0, 32, a.toNat), (32, 32, b.toNat)]
  [BitVec.ofNat 64 st.count, mkWord [(0, 20, st.phase), (20, 6, st.currentQ), (32, 8, if st.master then 0 else st.hops)]] ++
    ((List.range 8).map fun vc => pair (at_ vc).sent (at_ vc).received) ++
    ((List.range 4).map fun i => pair (at_ (2 * i)).granted (at_ (2 * i + 1)).granted)

/-- Trained links whose timing words are at most 16 steeps old. -/
def State.timed (s : State) : List Nat :=
  (List.range 48).filter fun l => (s.link l).state == .trained && (match s.steep.linkTimes.find l with
    | some t => s.now < t.at_ + 16
    | none => false)

/-- Hop distance and upstream neighbour (R49, R51): the neighbour nearest to the master, the lower link on equal distances. -/
def State.retime (s : State) : State :=
  let hops (l : Nat) : Nat := (s.steep.linkTimes.get {} l).hops
  let st := s.steep
  if st.master then { s with steep := { st with hops := 0, upstream := 0xFF, offsetNs := 0 } }
  else match s.timed.filter fun l => hops l < 0xFE with
    | [] => { s with steep := { st with hops := 0xFF, upstream := 0xFF } }
    | l :: rest =>
      let up := rest.foldl (fun b c => if hops c < hops b then c else b) l
      { s with steep := { st with hops := hops up + 1, upstream := up, offsetNs := (st.linkTimes.get {} up).offsetNs } }

/-- Steering (R51): the phase moves towards the upstream neighbour's by at most 20 ppm of the period, which are 5 ns
for each 250 µs of it; what is below a tick of 10 ns is carried. -/
def State.steer (s : State) : State :=
  let st := s.steep
  let most : Int := (5 * st.currentQ : Nat)
  let ns := st.steerNs + max (-most) (min most st.offsetNs)
  let by_ := ns.tdiv 10
  { s with steep := { st with phase := min (25000 * st.currentQ - 1) ((st.phase : Int) - by_).toNat, steerNs := ns - 10 * by_ } }

/-- The module joins its domain (R48): the counter is set to the domain value only upwards and with no context resident. -/
def State.joinDomain (s : State) (link : Nat) (w : TimingWord) : State :=
  let st := s.steep
  if st.joined || st.master || 0xFF ≤ w.hops || w.periodQ ≠ st.currentQ then s
  else if w.count < st.count then s.raise {
    code := Rec.steepBehind, cls := .uc, unit := .link link, a := BitVec.ofNat 64 w.count, b := BitVec.ofNat 64 st.count }
  else if w.count = st.count then { s with steep := { st with joined := true } }
  else if s.ctxs.any fun e => e.2.state != .free then s
  else
    let beats := s.members.beats.map fun (e : Nat × LinkBeat) => (e.1, { e.2 with at_ := w.count })
    { s with
      steep := { st with
        count := w.count, joined := true, lastTiming := w.count, masterSince := w.count, pastQ := []
        snap := st.snap.map fun (a : AuditSnap) => { a with steep := a.steep + w.count - st.count, first := a.first + w.count - st.count } }
      members := { s.members with beats := beats } }

/-- The steps in progress fail with cause TIME when TIME_LOST is raised (R603). -/
def State.failTimed (s : State) : State :=
  forN 8 (fun x s => forL (s.ctx x).job.steps (fun t s => s.failStep x t.step CauseOf.time s.now) s) s

/-- TIME_LOST (R53): the offset to a majority of the trained neighbours is above 4 µs. -/
def State.checkLost (s : State) : State :=
  let trained := (List.range 48).filter fun l => (s.link l).state == .trained
  let far := s.timed.filter fun l => 4000 < (s.steep.linkTimes.get {} l).offsetNs.natAbs
  if s.steep.lostStands || 2 * far.length ≤ trained.length then s
  else
    (({ s with steep := { s.steep with lost := true, lostStands := true, within2us := 0 } }).raise {
      code := Rec.timeLost, cls := .uc, a := BitVec.ofNat 64 (sbits 64 s.steep.offsetNs) }).failTimed

/-- TIMING (R45, R48, R49, R51, R53). -/
def execTiming (link : Nat) (w : TimingWord) (s : State) : Host.Outcome State Fault Refusal :=
  if 48 ≤ link || s.dark || (s.link link).state != .trained then .next s
  else
    let same := w.periodQ == s.steep.currentQ
    let s := (s.updLink link fun l => { l with oneWayNs := w.delayNs, rttNs := 2 * w.delayNs, periodOk := same }).setTraffic link
    let s := if same then s else s.raise {
      code := Rec.steepMismatch, cls := .uc, unit := .link link, a := BitVec.ofNat 64 w.periodQ, b := BitVec.ofNat 64 s.steep.currentQ }
    let s := s.joinDomain link w
    let st := s.steep
    let t : LinkTime := {
      at_ := st.count, offsetNs := w.offsetNs, hops := w.hops
      farSent := w.sent, farReceived := w.received, farReturns := w.granted }
    let s := ({ s with steep := { st with
      linkTimes := st.linkTimes.set link t, lastTiming := st.count, holdover := false } }).retime
    let s := if s.steep.upstream = link then
        (let s := if 2000 < w.offsetNs.natAbs then { s with steep := { s.steep with within2us := 0 } } else s; s.steer)
      else s
    .next s.checkLost

/-- TIME_LOST_CLEAR (R53): 4 steeps with the offset within 2 µs. -/
def execTimeLostClear (s : State) : Host.Outcome State Fault Refusal :=
  if !s.steep.lostStands || s.steep.within2us < 4 then .next s
  else .next { s with steep := { s.steep with lostStands := false } }

/-- TIME_HOLDOVER (R53): 16 steeps without a timing word on any link. -/
def execTimeHoldover (s : State) : Host.Outcome State Fault Refusal :=
  if s.steep.holdover || s.now < s.steep.lastTiming + 16 then .next s
  else .next (({ s with steep := { s.steep with holdover := true } }).retime.raise { code := Rec.timeHoldover, cls := .ce })

/-! ### Deadlines of the boundary and of the audit (R59, R64, R65) -/

/-- DEADLINE_BOUNDARY (R59): steps 1 to 9 have not finished in the window of 10 µs. DESIGN CHOICE (log 76): no row says when they
finish, and the overrun at the raising stands for the final one in WORST_US (R65). -/
def execDeadlineBoundary (s : State) : Host.Outcome State Fault Refusal :=
  let st := s.steep
  if st.boundaryLate then .next s
  else .next (({ s with steep := { st with
    boundaryLate := true, otherDeadlines := satN 16 (st.otherDeadlines + 1)
    worstUs := max st.worstUs (satN 16 ((st.phase - 1000) / 100)) } }).raise {
    code := Rec.deadlineBoundary, cls := .ce, a := BitVec.ofNat 64 (st.phase - 1000), b := BitVec.ofNat 64 st.phase })

/-- DEADLINE_AUDIT (R64): an audit not finished within 50 µs of its boundary. -/
def execDeadlineAudit (s : State) : Host.Outcome State Fault Refusal :=
  let st := s.steep
  match st.snap with
  | none => .next s
  | some n =>
    if st.auditLate then .next s
    else
      let t := s.lateBy n.steep
      .next (({ s with steep := { st with auditLate := true, auditOverrun := true, otherDeadlines := satN 16 (st.otherDeadlines + 1) } }).raise {
        code := Rec.deadlineAudit, cls := .ce, a := BitVec.ofNat 64 (t - 5000), b := BitVec.ofNat 64 t })

/-! ### The snapshot (R74, R76, R361, R566) -/

/-- Credits of the trained links as they stand. -/
def State.creditSnaps (s : State) : List CreditSnap :=
  ((List.range 48).filter fun l => (s.link l).state == .trained).flatMap fun l => (List.range 8).map fun vc =>
    let c := (s.link l).credit vc
    { link := l, vc := vc, available := c.available, sent := c.sent, returned := c.returned
      allocation := c.allocation, received := c.received, granted := c.granted }

/-- Step 3 of R56: copies of the conserved quantities; `closed` holds the energies of the closed steep. An audit that has not
completed is taken over by this one, which covers both steeps (R64). -/
def State.snapshot (s : State) (closed : Steep) : State :=
  let before := s.steep.snap
  let old := before.getD { steep := 0 }
  let members := (List.range 8).filter fun x => (s.ctx x).job.member
  let far := (List.range 48).filter fun l => (s.link l).state == .far
  let a : AuditSnap := {
    steep := s.now, first := (before.map fun a => a.first).getD s.now
    credits := s.creditSnaps
    cells := [(s.pool 0).snapshot, (s.pool 1).snapshot]
    tokens := members.map fun x => (x, (s.ctx x).job.received, (s.ctx x).job.forwarded, (s.ctx x).job.holding)
    mailboxes := (List.range 32).map fun m => (m, (s.mailbox m).free, (s.mailbox m).pending, (s.mailbox m).unread)
    metered := closed.metered + old.metered
    charged := (List.range 8).map fun x => closed.charged.get 0 x + old.charged.getD x 0
    idle := closed.idleEnergy + old.idle
    far := far.map fun l => (l, (s.link l).far.freeSlots, (s.link l).far.held.length) }
  let s := forN 2 (fun p s => s.setPool p { s.pool p with snap := (s.pool p).snapshot, snapSteep := s.now % 2 ^ 32 }) s
  let s := forL a.far (fun f s => s.updFar f.1 fun r => { r with snap := (f.2.1, f.2.2) }) s
  { s with steep := { s.steep with snap := some a, snapBefore := before.or s.steep.snapBefore, auditLate := false } }

/-! ### The audit (R74, R75, R77, R78, R362, R566, R844) -/

/-- A false equation: counted, with its record. -/
def State.auditBad (s : State) (cls : Cls) (unit : UnitId) (ctx : Option Nat) (word : W64) (diff : Int) : State :=
  ({ s with steep := { s.steep with auditMismatches := satN 16 (s.steep.auditMismatches + 1) } }).raise {
    code := Rec.auditMismatch, cls := cls, unit := unit, ctx := ctx, faJob := cls == Cls.fa, a := word, b := BitVec.ofNat 64 (sbits 64 diff) }

/-- How far a value lies outside 0 to a bound. -/
def outside (v bound : Int) : Int := if v < 0 then v else if bound < v then v - bound else 0

/-- Frames that fit in twice the one-way delay, with the receiver's allocation (R75, R476). -/
def inFlight (oneWayNs : Nat) (allocation : Int) : Int := ((2 * oneWayNs * 100 / 256 : Nat) : Int) + allocation

/-- A link whose credit equations are false trains again (R74). -/
def State.creditFault (s : State) (links : List Nat) : State :=
  if links.isEmpty then s
  else
    let s := { s with steep := { s.steep with auditCredits := true } }
    forL links.eraseDups (fun l s => if (s.link l).state == .trained then s.linkDown l else s) s

/-- Every enabled queue of a pool is fenced in drain mode, and a sweep starts (R355, R362). -/
def Pool.startSweep (p : Pool) : Pool :=
  let fence (q : Queue) : Queue := if q.enabled && q.fence.isNone then Queue.settle { q with fence := some .drain } else q
  { p with sweeping := true, fencedAudit := true, sweepDue := false, queues := p.queues.map fun (e : Nat × Queue) => (e.1, fence e.2) }

/-- The sender's own equation of every channel (R74), as the differences that are not 0. -/
def AuditSnap.creditDiffs (a : AuditSnap) : List (Nat × Nat × Int) :=
  (a.credits.map fun c => (c.link, c.vc, c.available + (c.sent - c.returned) - c.allocation)).filter fun d => d.2.2 ≠ 0

/-- The two bounds across a link (R75), of the snapshot of the steep before and the counters that came in the next timing
word. -/
def State.crossDiffs (s : State) (a : AuditSnap) : List (Nat × Nat × Int) :=
  (a.credits.flatMap fun c =>
    let t := s.steep.linkTimes.get {} c.link
    let bound := inFlight (s.link c.link).oneWayNs c.allocation
    if t.at_ ≠ a.steep + 1 || (s.link c.link).state != .trained || t.farReceived.length ≤ c.vc || t.farReturns.length ≤ c.vc then []
    else [(c.link, c.vc, outside (c.sent - (t.farReceived.getD c.vc 0 : Nat)) bound),
      (c.link, c.vc, outside (((t.farReturns.getD c.vc 0 : Nat) : Int) - c.returned) bound)]).filter fun d => d.2.2 ≠ 0

def State.auditCredit (s : State) (n : AuditSnap) : State :=
  let own := n.creditDiffs
  let cross := match s.steep.snapBefore with
    | some b => s.crossDiffs b
    | none => []
  let say (q : Nat) (d : Nat × Nat × Int) (s : State) : State := s.auditBad .uc (.link d.1) none (mkWord [(0, 4, q), (8, 3, d.2.1)]) d.2.2
  let s := forL cross (say 2) (forL own (say 1) s)
  s.creditFault ((own ++ cross).map fun d => d.1)

def State.auditPools (s : State) (n : AuditSnap) : State :=
  forN 2 (fun p s =>
    let c := n.cells.getD p {}
    let sum := c.free + c.queued + c.opened + c.held
    if sum = 262144 then s
    else
      let s := s.auditBad .uc (.iod p) none (mkWord [(0, 4, 3), (16, 1, p)]) ((sum : Int) - 262144)
      let s := { s with steep := { s.steep with auditCells := true } }
      s.setPool p { (s.pool p).startSweep with mismatch := true }) s

/-- Commit tokens (R78, R612): FA for the job, whose step aborts; the counters start again from one value. -/
def State.auditTokens (s : State) (n : AuditSnap) : State :=
  forL n.tokens (fun t s =>
    let d : Int := (t.2.1 : Int) - (t.2.2.1 : Int) - (t.2.2.2 : Int)
    if d = 0 then s
    else
      let s := s.auditBad .fa .module (some t.1) (mkWord [(0, 4, 4)]) d
      let s := { s with steep := { s.steep with auditCommit := true } }
      let s := forL (s.ctx t.1).job.steps (fun p s => s.failStep t.1 p.step CauseOf.local_ s.now) s
      s.updJob t.1 fun j => { j with forwarded := j.received, holding := 0 }) s

def State.auditMailboxes (s : State) (n : AuditSnap) : State :=
  forL n.mailboxes (fun m s =>
    let sum := m.2.1 + m.2.2.1 + m.2.2.2
    if sum = 16 then s
    else
      let s := s.auditBad .uc (.iod 0) none (mkWord [(0, 4, 5), (24, 5, m.1)]) ((sum : Int) - 16)
      ({ s with steep := { s.steep with auditMailbox := true } }).resetMailbox m.1) s

/-- Energy (R77): a false sum moves the steep's charge to idle. -/
def State.auditEnergy (s : State) (n : AuditSnap) : State × AuditSnap :=
  let sum : Nat := n.charged.foldl (· + ·) 0 + n.idle
  if sum = n.metered then (s, n)
  else
    let s := s.auditBad .ce .module none (mkWord [(0, 4, 6)]) ((sum : Int) - (n.metered : Int))
    ({ s with steep := { s.steep with auditEnergy := true } }, { n with charged := [], idle := n.metered })

def State.auditFar (s : State) (n : AuditSnap) : State :=
  forL n.far (fun f s =>
    if f.2.1 + f.2.2 = 1519104 then s
    else (s.auditBad .uc (.link f.1) none (mkWord [(0, 4, 7)]) (((f.2.1 + f.2.2 : Nat) : Int) - 1519104)).farRestart f.1) s

/-- AUDIT_COMPLETE (R74, R361, R566): every equation of the snapshot is checked. The overrun of the oldest audit that this one
covers enters WORST_US (R64, R65). -/
def execAuditComplete (s : State) : Host.Outcome State Fault Refusal :=
  match s.steep.snap with
  | none => .next s
  | some n =>
    let late := (s.lateBy n.first - 5000) / 100
    let s := (((s.auditCredit n).auditPools n).auditTokens n).auditMailboxes n
    let e := s.auditEnergy n
    let s := e.1.auditFar n
    let st := s.steep
    .next { s with steep := { st with
      snap := none, snapBefore := some e.2, auditLast := n.steep % 2 ^ 32, auditLate := false
      worstUs := max st.worstUs (satN 16 late) } }

end Sys2Proof.Machine
end

