-- ==== Sys2Proof/Machine/Boundary.lean ====
section
/-! DEFINITION. Machine/Boundary.lean: the steep boundary: its ten actions in their order (R56, R57), with everything that other
rules put at one of them. -/
namespace Sys2Proof.Machine

/-! ### Step 1: the counter and the epochs (R44, R46, R47, R596, R669) -/

/-- An epoch opens: work whose checks are still out runs in it as well (R179, R598). Epochs that no step in progress holds
are kept for 16 steeps, and until they are sealed on a member. -/
def Job.openEpoch (j : Job) (now : Nat) : Job :=
  let u := (j.epoch (now - 1)).unchecked
  let j := if u = 0 then j else j.updEpoch now fun e => { e with unchecked := u }
  let held (e : Epoch) : Bool := j.steps.any fun t => t.firstEpoch ≤ e.n && (match t.lastEpoch with | some l => e.n ≤ l | none => true)
  { j with epochs := j.epochs.filter fun e => now < e.n + 16 || held e || (j.member && !e.sealed_ && !e.dirty) || 0 < e.unchecked }

/-- The period changes when the counter has reached AT_COUNT (R44). -/
def State.switchPeriod (s : State) : State :=
  let st := s.steep
  if st.count < st.atCount then s
  else
    let s := { s with steep := { st with
      currentQ := st.nextQ, atCount := 0xFFFFFFFFFFFFFFFF, periodBy := none
      pastQ := if st.nextQ = st.currentQ then st.pastQ else (st.count, st.currentQ) :: st.pastQ } }
    match st.periodBy with
    | some by_ => s.commandDone by_ none
    | none => s

/-- Step 1: the counter rises and PHASE starts again; the meter of the closed steep stops before. -/
def State.openSteep (s : State) : State :=
  let s := s.closeMeter
  let st := s.steep
  let calm := st.lostStands && st.offsetNs.natAbs ≤ 2000
  let s := { s with steep := { st with
    count := (st.count + 1) % 2 ^ 64, phase := 0, boundaryLate := false
    latch := st.latch.map fun (l : Nat × Nat) => (l.1, l.2 + 1)
    within2us := if calm then st.within2us + 1 else 0 } }
  let s := { s with ctxs := s.ctxs.map fun (e : Nat × Ctx) => (e.1, { e.2 with job := e.2.job.openEpoch s.now }) }
  (s.switchPeriod).countWatch.writeRepeats

/-! ### Step 2: heartbeats and timing words (R49, R54, R479, R624) -/

/-- The heartbeat's payload (R624). -/
def State.beatWords (s : State) : List W64 :=
  let links := (List.range 48).filter fun l => (s.link l).state == .trained && (s.link l).jobTraffic
  [mkWord [(0, 16, s.fabric.dn), (16, 8, s.members.health), (24, 3, s.stateCode .module), (27, 1, b2n s.members.watch),
      (28, 1, b2n s.members.votedOut), (29, 6, links.length)],
    BitVec.ofNat 64 s.now, mkWord [(0, 16, s.steep.masterDn), (16, 16, s.steep.deputyDn), (32, 32, s.members.mver)]]

/-- Step 2. FAR links carry site time in their place (R54). -/
def State.beatOut (s : State) : State :=
  let s := forL ((List.range 48).filter fun l => (s.link l).state == .trained) (fun l s =>
    (s.control l 0x03 false 0 0 s.beatWords).control l 0x02 false 0 0 (s.timingWords l)) s
  s.farTimes

/-! ### Step 4: commits (R462, R571, R611, R641, R646) -/

/-- The commit of a step takes effect on one context, in one action. -/
def State.applyCommit (s : State) (x step : Nat) : State :=
  let s := (s.updUpd x fun v => v.commit step).mirrorCommit x step
  let s := s.updJob x fun j => { j with
    steps := j.steps.filter fun t => t.step ≠ step
    committed := step, commits := satN 16 (j.commits + 1), commitDue := none }
  let s := match (s.ctx x).job.staged with
    | some g => if g.atStep = step && g.atCount = 0 then s.applyMembers x g else s
    | none => s
  let s := s.outerCommit x step
  let s := s.event x { kind := 0x0300, detail := BitVec.ofNat 64 step }
  let c := s.ctx x
  let own (g : Nat) : Bool := c.fastSpan (65536 * g) 65536
  let s := { s with
    mem := { s.mem with ueGranules := s.mem.ueGranules.filter fun g => !(own g) }
    fabric := { s.fabric with ended := s.fabric.ended.filter fun e => e.1 ≠ x || step < e.2.1 + 64 } }
  match c.job.steps with
  | t :: _ => if t.streamOk && !t.hasUpdate && !t.prepared then s.updatePrepared x t.step else s
  | [] => s

/-- Step 4: every commit received in the closed steep; the contexts whose step it was. -/
def State.applyCommits (s : State) : State × List Nat :=
  (List.range 8).foldl (fun (p : State × List Nat) x => match (p.1.ctx x).job.commitDue with
    | some d => (p.1.applyCommit x d.1, p.2 ++ [x])
    | none => p) (s, [])

/-! ### Step 5: membership (R50, R591, R615, R616, R628 to R630, R637, R648) -/

/-- A member leaves a job's tree (R591, R628): the old lead aborts a step whose COMMIT has not left (R616); a new lead asks
the members (R615). -/
def State.leaveTree (s : State) (x dn reason : Nat) : State :=
  let j := (s.ctx x).job
  if !j.member || (j.rankOfDn dn).isNone then s
  else
    let was := j.isLead
    let s := s.updJob x fun j => { j with
      live := j.live.filter fun r => j.dnOf r ≠ dn
      takeover := j.takeover.map fun w => w.filter fun r => j.dnOf r ≠ dn
      staged := j.staged.map fun g => { g with table := g.table.map fun d => if d = dn then 0x10000 else d } }
    let s := s.event x { kind := 0x0302, detail := mkWord [(0, 16, dn), (16, 4, reason)] }
    let j := (s.ctx x).job
    if was then forL j.steps (fun t s => s.leadAbort x t.step CauseOf.memberLost) s
    else match j.steps with
      | [] => s
      | t :: _ =>
        if j.takeover.isSome then s.settleTakeover x t.step false
        else if !j.isLead || t.phase == .commitPending || t.phase == .aborting then s
        else
          let s := s.updJob x fun j => { j with takeover := some (j.live.filter fun r => r ≠ j.rank) }
          let s := forL j.children (fun r s => s.jobMsg x (j.dnOf r) Msg.query 0 t.step 0) s
          s.settleTakeover x t.step false

/-- An EXPEL takes effect (R628 to R630). -/
def State.applyExpel (s : State) (e : Expel) : State :=
  let m := s.members
  let own := e.dn == s.fabric.dn
  let s := { s with
    members := { m with
      mver := max m.mver e.mver, expelled := addOnce m.expelled e.dn, pendingExpels := m.pendingExpels.filter fun (p : Expel) => decide (p.dn ≠ e.dn)
      votes := m.votes.filter fun (v : Vote) => decide (v.target ≠ e.dn), votedOut := m.votedOut || own
      watching := m.watching.filter fun (w : Nat × Nat) => decide (w.1 ≠ e.dn)
      grantsStanding := m.grantsStanding.filter fun d => d ≠ e.dn
      granted := m.granted && !own
      treeChildren := m.treeChildren.filter fun l => (s.link l).nbDn ≠ e.dn }
    faults := { s.faults with blend := { s.faults.blend with passedSinceExpulsion := s.faults.blend.passedSinceExpulsion && !own } } }
  let cut (l : Link) : Link := if l.nbDnValid && l.nbDn = e.dn && !own then { l with jobTraffic := false } else l
  let s := { s with fabric := { s.fabric with links := s.fabric.links.map fun (p : Nat × Link) => (p.1, cut p.2) } }
  let s := forN 8 (fun x s => s.leaveTree x e.dn e.reason) s
  let s := if own then forN 8 (fun x s =>
      if (s.ctx x).job.member || (s.ctx x).job.spare then s.fenceCtx x else s) s else s
  s.leftDomain e.dn

/-- The master's EXPEL of a module it has granted leaves at the boundary that applies the commit of a job it shares with the
module, and at once when it shares none (R637). -/
def State.healthExpels (s : State) (done : List Nat) : State :=
  if !s.isMaster then s
  else forL s.members.grantsStanding (fun dn s =>
    let shared := (List.range 8).filter fun x => (s.ctx x).job.member && ((s.ctx x).job.rankOfDn dn).isSome
    if shared.isEmpty || shared.any (fun x => done.contains x) then s.expel dn 2 else s) s

/-- Step 5. -/
def State.applyMembership (s : State) (done : List Nat) : State :=
  let s := s.healthExpels done
  let s := forL s.members.pendingExpels (fun e s => s.applyExpel e) s
  let s := forN 8 (fun x s => match (s.ctx x).job.staged with
    | some g => if 0 < g.atCount && g.atCount ≤ s.now then s.applyMembers x g else s
    | none => s) s
  match s.members.configDue with
  | some (at_, threshold, per, by_) =>
    if s.now < at_ then s
    else
      let s := { s with members := { s.members with configDue := none, threshold := threshold, per256 := per } }
      match by_ with
      | some c => s.commandDone c none
      | none => s
  | none => s

/-! ### Step 7: windows, partitions, switches, clocks (R209, R300, R408 to R419, R698, R813, R814) -/

/-- Windows and partitions that were named since the last boundary. -/
def State.applyWindows (s : State) : State :=
  forN 8 (fun x s =>
    let s := match (s.ctx x).windowDue with
      | some w => s.updCtx x fun c => { c with
          fastBase := w.1, fastPages := w.2.1, slowBase := w.2.2.1, slowGib := w.2.2.2, windowDue := none }
      | none => s
    match (s.ctx x).maskDue with
    | some (mask, by_) => (s.updCtx x fun c => { c with dieMask := mask, maskDue := none }).commandDone by_ (some x)
    | none => s) s

/-- The context whose state stands on a die's cores before this boundary's switches. -/
def State.incumbent (s : State) (d : Nat) : Option Nat :=
  let x := match s.switches.find? fun w => w.die == d with
    | some w => if w.waiting then w.from_ else some w.to_
    | none => s.dieHolder d (s.now - 1)
  x.filter fun y => y < 8 && (s.ctx y).state != .free

/-- A rotation at its boundary: a new one starts, and entries of a destroyed context go (R410, R413). -/
def Rotation.turn (r : Rotation) (now : Nat) : Rotation :=
  let live (es : List (Nat × Nat)) : List (Nat × Nat) := es.filter fun p => p.1 < 8
  match r.due with
  | some d => { entries := live d.1, start := now }
  | none => if r.entries.all fun p => p.1 < 8 then r else { entries := live r.entries, start := now }

/-- One die's change of holder: none, or the switch it needs. A switch that a change overtakes ends first; one that still
waits for its slice takes the new target (R209, R419). -/
def State.switchOf (s : State) (d : Nat) (old : Option Nat) : Option Switch :=
  match s.dieHolder d s.now with
  | none => none
  | some y =>
    if old = some y then none
    else
      let wait := match old with
        | some x => (s.ctx x).runs
        | none => false
      some { die := d, from_ := old, to_ := y, started := s.now, waiting := wait }

/-- STRAINER_INJECT does not survive a context's taking of its die (R190). -/
def State.disarm (s : State) (dies : List Nat) : State :=
  { s with cores := s.cores.map fun (e : Nat × Core) => if dies.contains (e.1 / 64) then (e.1, { e.2 with injArm := false }) else e }

def State.switchDies (s : State) : State :=
  let olds := (List.range 8).map fun d => s.incumbent d
  let starts := s.rotations.filterMap fun e => e.2.due.map fun d => d.2
  let s := { s with rotations := (s.rotations.map fun (e : Nat × Rotation) => (e.1, e.2.turn s.now)).filter fun e => !(e.2.entries.isEmpty) }
  let s := forL starts (fun by_ s => s.commandDone by_ none) s
  let news := (List.range 8).filterMap fun d => s.switchOf d (olds.getD d none)
  let s := forL (s.switches.filter fun w => !w.waiting && news.any fun v => v.die == w.die)
    (fun w s => after (execContextSwitchComplete ⟨w.die, []⟩ s) s) s
  let s := { s with switches := s.switches.filter fun w => !w.waiting }
  let s := s.disarm (news.map fun w => w.die)
  let wait := news.filter fun w => w.waiting
  let go := news.filter fun w => !w.waiting
  let s := { s with switches := s.switches ++ wait }
  if go.isEmpty then s else s.startSwitches go

/-- A blend that BLEND_ABORT stops (R698). -/
def State.stopBlend (s : State) : State :=
  let b := s.faults.blend
  if b.state = 2 && b.abortDue then
    ({ s with faults := { s.faults with blend := { b with abortDue := false } } }).endBlend true
  else s

/-! ### Step 9: fences, pools, contexts, models (R355, R362, R384 to R387, R685, R724, R783, R840) -/

/-- A context's enables, disables and drains take effect (R387). -/
def State.settleCtx (s : State) (x : Nat) : State :=
  let c := s.ctx x
  let toward (s : State) (st : CtxState) : State := s.updCtx x fun c => { c with
    state := st, due := none, pendingEnable := none, disableBy := none, terminating := false }
  let told (s : State) (by_ : Option CmdRef) : State := match by_ with
    | some r => s.commandDone r (some x)
    | none => s
  match c.state with
  | .stopped => match c.due with
    | some (.enable by_) => (toward s .active).commandDone by_ (some x)
    | _ => s
  | .draining =>
    if c.runs then s
    else match c.pendingEnable with
      | some by_ => (told (toward s .active) c.disableBy).commandDone by_ (some x)
      | none => told (toward s .stopped) c.disableBy
  | .fenced => match c.due, c.pendingEnable with
    | some (.disable _), some by_ => (toward s .active).commandDone by_ (some x)
    | some (.disable by_), none => (toward s .stopped).commandDone by_ (some x)
    | some (.enable by_), _ => (toward s .active).commandDone by_ (some x)
    | none, some by_ => if c.terminating then s else (toward s .active).commandDone by_ (some x)
    | none, none => s
  | _ => s

/-- A pool whose sweep has completed takes its queues out of their fence; one with a bad link entry is swept (R355, R362). -/
def State.settlePool (s : State) (p : Nat) : State :=
  let q := s.pool p
  let open_ (v : Queue) : Queue := if v.fence == some .drain then { v with fence := none, fenced := false } else v
  let q := if q.fencedAudit && q.releaseDue then
      { q with fencedAudit := false, releaseDue := false, queues := q.queues.map fun (e : Nat × Queue) => (e.1, open_ e.2) }
    else { q with releaseDue := false }
  let s := s.setPool p (if q.sweepDue then q.startSweep else q)
  forN 0xC0 (fun i s => s.payWithheld p i) s

/-- The event queue's sink follows CTX_EVENT_VECTOR (R783). -/
def State.eventSink (s : State) (x : Nat) : State :=
  let c := s.ctx x
  let sink : Sink := if c.eventVectorEn then .msix c.eventVector else .none
  if (s.queue 0 (0x181 + x)).sink == sink then s else s.updQueue 0 (0x181 + x) fun q => { q with sink := sink }

/-- A far link whose fence has gone trains again (R493, R545). -/
def State.releaseOne (s : State) (u : UnitId) : State :=
  let r := s.releaseUnit u
  match u with
  | .link l => if s.fencedUnit u && !(r.fencedUnit u) && (r.link l).far.on && (r.link l).state == .down then r.farTrain l else r
  | _ => r

def State.release (s : State) : State :=
  let s := forL (s.units.map fun e => e.1) (fun u s => s.releaseOne u) s
  let s := forN 2 (fun p s => s.settlePool p) s
  let s := forN 8 (fun x s => (forN 4 (fun m s => if (s.ctx x).models.any fun e => e.1 == m then s.modelBoundary x m else s)
    (s.settleCtx x)).eventSink x) s
  s.moveStates

/-! ### The boundary (R56, R57) -/

/-- Events of requests that other modules sent leave for them (R22). -/
def State.sendEvents (s : State) : State :=
  let s' := forL s.remoteEvents (fun e s =>
    s.injectDn 0x07 7 (remoteDn e.1) none 0 (mkWord [(0, 8, 5), (9, 5, e.1 % 32), (16, 16, e.2.1), (32, 16, e.2.2.1)] :: e.2.2.2)) s
  { s' with remoteEvents := [] }

/-- Deadlines of merge rounds (R582). -/
def State.mergeDeadlines (s : State) : State :=
  forN 8 (fun x s => match (s.ctx x).outer.cfg with
    | some g => s.mergeDue x g
    | none => s) s

/-- Steps 1 to 6 of the boundary. -/
def State.boundaryOpen (s : State) : State :=
  let closed := s.steep
  let s := s.tellLost.openSteep.endWaits.beatOut.snapshot closed
  let c := s.applyCommits
  (c.1.applyMembership c.2).routeSwitch

/-- Step 7, after a steep of period `q`. -/
def State.boundarySwitch (s : State) (q : Nat) : State :=
  ((s.applyWindows.switchDies).stopBlend.skipTaken).clockChange q

/-- Steps 8 to 10, and what rules put at a boundary without a place in its order. -/
def State.boundaryClose (s : State) : State :=
  let s := forN 8 (fun x s => s.kvAdmit x) s
  let s := ((s.release).farResizes).mergeDeadlines
  let s := (s.issueSlices).sendEvents
  forN 32 (fun m s => s.flushMailbox m) s

end Sys2Proof.Machine
end

