-- ==== Sys2Proof/Machine/HostSide.lean ====
section
/-! DEFINITION. Machine/HostSide.lean: the PCI Express functions and their resets, the discrete signals, and the
management bus (R769 to R796, R820, R823). -/
namespace Sys2Proof.Machine

/-! ### Functions and resets (R773, R778, R784, R785) -/

/-- A function's MSI-X table is cleared, and its enables with it (R784). -/
def HostIf.clearFn (h : HostIf) (fn : Nat) : HostIf :=
  { h with
    msixEnabled := h.msixEnabled.filter fun f => f ≠ fn
    busMaster := h.busMaster.filter fun f => f ≠ fn
    msixTable := h.msixTable.filter fun e => vectorFn (e.1 / 2) ≠ fn
    unmasked := h.unmasked.filter fun v => vectorFn v ≠ fn
    fnMasked := h.fnMasked.filter fun f => f ≠ fn
    msixPending := h.msixPending.filter fun v => vectorFn v ≠ fn }

/-- The mailboxes of a context are reset (R376, R784). -/
def State.resetMailboxes (s : State) (x : Nat) : State := forN 4 (fun j s => s.resetMailbox (4 * x + j)) s

/-- FLR_VF (R784): the context is fenced in error mode and its four mailboxes are reset; the context, its windows and its
keys stay. -/
def execFlrVf (fn : Nat) (s : State) : Host.Outcome State Fault Refusal :=
  if fn = 0 || 8 < fn || s.dark then .next s
  else
    let s := (s.fenceCtx (fn - 1)).resetMailboxes (fn - 1)
    let h := s.host.clearFn fn
    .next { s with host := { h with flr := if h.flr.contains fn then h.flr else h.flr ++ [fn], flrs := satN 16 (h.flrs + 1) } }

/-- What an FLR of the physical function does to the whole module (R784). -/
def State.hostReset (s : State) : State :=
  let s := forN 8 (fun x s => s.fenceCtx x) s
  let s := forN 8 (fun x s => s.resetMailboxes x) s
  { s with host := { s.host with
    vfEnable := false, numVfs := 0, flr := [0], msixEnabled := [], busMaster := [], msixTable := [], unmasked := [], fnMasked := [],
    msixPending := [], d3hot := false } }

/-- FLR_PF (R784). -/
def execFlrPf (s : State) : Host.Outcome State Fault Refusal :=
  if s.dark then .next s
  else
    let s := s.hostReset
    .next { s with host := { s.host with flrs := satN 16 (s.host.flrs + 1) } }

/-- HOT_RESET (R784, R794): a hot reset or link down. -/
def execHotReset (s : State) : Host.Outcome State Fault Refusal :=
  if s.dark then .next s
  else
    let s := s.hostReset
    let s := { s with host := { s.host with
      linkDown := true, width := 0, speed := 0, flit := false, ideActive := false, linkDowns := satN 16 (s.host.linkDowns + 1) } }
    .next (s.raise { code := Rec.hostLinkDown, cls := .ce })

/-- HOST_LINK_RETURN (R772, R784): the link trains again at a rate and width both ends support. -/
def execHostLinkReturn (speed width : Nat) (flit : Bool) (s : State) : Host.Outcome State Fault Refusal :=
  if s.dark || speed = 0 || 7 < speed || !([1, 2, 4, 8, 16].contains width) then .next s
  else .next { s with host := { s.host with linkDown := false, speed := speed, width := width, flit := flit } }

/-- FLR_COMPLETE (R784): after a link down, only once the link has returned. -/
def execFlrComplete (fn : Nat) (s : State) : Host.Outcome State Fault Refusal :=
  if fn = 0 && s.host.linkDown then .next s
  else .next { s with host := { s.host with flr := s.host.flr.filter fun f => f ≠ fn } }

/-- D3HOT_ENTRY (R784): memory accesses to every BAR are ignored; work continues. -/
def execD3hotEntry (s : State) : Host.Outcome State Fault Refusal := .next { s with host := { s.host with d3hot := true } }

/-- D0_ENTRY (R784). -/
def execD0Entry (s : State) : Host.Outcome State Fault Refusal := .next { s with host := { s.host with d3hot := false } }

/-- VF_ENABLE (R377, R773): NumVFs from 0 to 8; a context's mailboxes belong to its virtual function while it is
enabled. -/
def execVfEnable (num : Nat) (on : Bool) (s : State) : Host.Outcome State Fault Refusal :=
  if 8 < num then .next s else .next { s with host := { s.host with numVfs := num, vfEnable := on } }

/-- HOST_DMA_FAULT (R779): an access of an engine to host memory has failed; none of its data is used, so that a shard
stays missing. A command's own failed access is handled within the command's row. -/
def execHostDmaFault (ctx fn addr kind : Nat) (write : Bool) (code : Nat) (s : State) : Host.Outcome State Fault Refusal :=
  if 8 ≤ ctx || 8 < fn || kind = 0 || 4 < kind then .next s
  else .next (s.dmaFault ctx fn addr kind write code)

/-! ### Discrete signals (R784, R785, R791 to R793, R820) -/

/-- MOD_RESET_N_ASSERT (R785, R791): held low for at least 10 µs; an FLR under way is abandoned. -/
def execModResetNAssert (s : State) : Host.Outcome State Fault Refusal :=
  .next { s with host := { s.host with resetHeld := true, flr := [] } }

/-- MOD_RESET_N_RELEASE (R784, R791): a warm module reset, or a cold boot from M3 or after power-up. -/
def execModResetNRelease (s : State) : Host.Outcome State Fault Refusal :=
  if !s.host.resetHeld then .next s
  else
    let s := { s with host := { s.host with resetHeld := false } }
    if s.power.off || s.power.refLost then .next s else .next s.bootUp

/-- PPS_EDGE (R793, R820): the edge is captured; on the time master with PPS_EN, and a period that divides one second, the
phase moves towards a boundary on the edge, by no more than 20 ppm of the interval, which is 2,000 ticks. -/
def execPpsEdge (s : State) : Host.Outcome State Fault Refusal :=
  if s.dark then .next s
  else
    let period := 25000 * s.steep.currentQ
    let ph := s.steep.phase
    let steer := s.host.ppsEn && s.isMaster && 4000 % s.steep.currentQ = 0
    let new := if !steer then ph
      else if 2 * ph ≤ period then ph - min ph 2000
      else ph + min (period - 1 - ph) 2000
    .next { s with
      host := { s.host with ppsSteep := s.now % 2 ^ 44, ppsPhase := ph, ppsAt := some s.steep.ticks }
      steep := { s.steep with phase := new } }

/-- PPS_LOST (R793): no edge for 2 s with PPS_EN; one loss is told once. -/
def execPpsLost (s : State) : Host.Outcome State Fault Refusal :=
  if !s.host.ppsEn || !(s.host.ppsAt.any fun t => t + 200000000 ≤ s.steep.ticks) then .next s
  else .next ({ s with host := { s.host with alertPps := true, ppsAt := none } }.raise { code := Rec.ppsLost, cls := .ce })

/-! ### Management bus (R787 to R790) -/

/-- I3C_SETDASA (R787): the static address is 0x4A. -/
def execI3cSetdasa (static_ addr : Nat) (s : State) : Host.Outcome State Fault Refusal :=
  if s.dark || static_ ≠ 0x4A || 128 ≤ addr then .next s else .next { s with host := { s.host with i3cAddr := some addr } }

/-- I3C_ENTDAA (R787): the module shows its provisional ID and takes the address, while it has none. -/
def execI3cEntdaa (addr : Nat) (s : State) : Host.Outcome State Fault Refusal :=
  if s.dark || s.host.i3cAddr.isSome || 128 ≤ addr then .next s
  else
    let s := s.emit (.i3c (mkWord [(0, 32, fld (bytesWord (s.trust.identity.take 8)) 31 0), (32, 1, 1)]))
    .next { s with host := { s.host with i3cAddr := some addr } }

/-- MCTP_SET_ENDPOINT_ID (R788): control messages are answered from stage 1. -/
def execMctpSetEndpointId (eid : Nat) (s : State) : Host.Outcome State Fault Refusal :=
  if s.dark || s.trust.stage = 0 || 256 ≤ eid then .next s
  else .next ({ s with host := { s.host with eid := some eid } }.emit (.mctp 0x00 [BitVec.ofNat 64 eid]))

/-- The value of a PLDM sensor now, in units of its resolution (R789). -/
def State.sensor (s : State) (id : Nat) : Option Int :=
  let hottest : Int := (s.faults.marginG.map fun (e : Nat × Margin) => e.2.temp).foldl max (s.marginG 0).temp
  if id = 1 then some s.power.volts
  else if id = 2 then some s.power.sampleW
  else if id = 3 then some hottest
  else if id = 4 then some s.power.inlet
  else if id = 5 then some s.members.health
  else if id = 6 then some (s.stateCode .module)
  else if 0x100 ≤ id && id < 0x120 then some (s.marginG (id - 0x100)).temp
  else if 0x200 ≤ id && id < 0x210 then some (s.power.stackTemps.get 0 (id - 0x200))
  else if 0x300 ≤ id && id < 0x330 then some (s.faults.marginL.get {} (id - 0x300)).optical
  else none

/-- The threshold level of a sensor's value: 0, warning, critical, fatal (R823). -/
def State.levelOf (s : State) (id : Nat) (v : Int) : Nat :=
  let t : Int := s.members.threshold
  if id = 2 then (if 3600 < v then 2 else if (s.trust.powerLimit : Int) < v then 1 else 0)
  else if id = 3 then (if 1840 ≤ v then 3 else if 1680 ≤ v then 2 else if 1520 < v then 1 else 0)
  else if id = 4 then (if 800 < v then 2 else if 720 < v then 1 else 0)
  else if id = 5 then (if v < t then 2 else if v < t + 16 then 1 else 0)
  else 0

/-- PLDM_GET_SENSOR_READING (R789): the value as last updated. -/
def execPldmGetSensorReading (sensor : Nat) (s : State) : Host.Outcome State Fault Refusal :=
  if s.dark || !s.host.pldmReady || (s.sensor sensor).isNone then .next s
  else .next (s.emit (.mctp 0x01 [BitVec.ofNat 64 sensor, BitVec.ofInt 64 (s.power.sensors.get 0 sensor)]))

/-- The sensor identifiers of R789. -/
def sensorIds : List Nat :=
  [1, 2, 3, 4, 5, 6] ++ (List.range 32).map (0x100 + ·) ++ (List.range 16).map (0x200 + ·) ++ (List.range 48).map (0x300 + ·)

/-- PLDM_SENSOR_UPDATE (R789, R790, R823): every sensor is updated; a threshold crossing of sensors 2 to 5 sends a platform
event while events are enabled. -/
def execPldmSensorUpdate (s : State) : Host.Outcome State Fault Refusal :=
  if s.dark || !s.host.pldmReady then .next s
  else
    let now := sensorIds.map fun i => (i, (s.sensor i).getD 0)
    let lv := (now.filter fun e => 2 ≤ e.1 && e.1 ≤ 5).map fun e => (e.1, s.levelOf e.1 e.2)
    let crossed := lv.filter fun e => e.2 ≠ s.power.levels.get 0 e.1
    let s := { s with power := { s.power with sensors := now, levels := lv } }
    if s.host.pldmEvents then
      .next (forL crossed (fun e s => s.emit (.mctp 0x01 [0xE0#64, BitVec.ofNat 64 e.1, BitVec.ofNat 64 e.2])) s)
    else .next s

/-- PLDM_EVENTS_ENABLE (R790). -/
def execPldmEventsEnable (s : State) : Host.Outcome State Fault Refusal :=
  if s.dark || !s.host.pldmReady then .next s else .next { s with host := { s.host with pldmEvents := true } }

end Sys2Proof.Machine
end

