-- ==== Sys2Proof/Machine/Remote.lean ====
section
/-! DEFINITION. Machine/Remote.lean: the kettle's packets from other modules (R22 to R25, R45, R500, R506, R574, R651, R653), and
a composite member that does not reply. The words of these packets are the model's own. -/
namespace Sys2Proof.Machine

/-! ### Requests of other modules, by command code (R382) -/

/-- A request from another module reaches no host memory. -/
def noHost : HostRead := .fail 1

/-- Units, contexts, streams and the domain (R382). -/
def runUnit (code : Nat) (r : Req) (s : State) : Option (Host.Outcome State Fault Refusal) :=
  match code with
  | 0x0001 => some (execGetVersion r s)
  | 0x0002 => some (execUnitQuery r s)
  | 0x0003 => some (execUnitFence r s)
  | 0x0004 => some (execUnitRelease r s)
  | 0x0005 => some (execUnitEnable r s)
  | 0x0006 => some (execUnitDisable r s)
  | 0x0007 => some (execUnitReset r s)
  | 0x0010 => some (execContextCreate r s)
  | 0x0011 => some (execContextDestroy r s)
  | 0x0012 => some (execContextPartition r s)
  | 0x0013 => some (execDieSchedule r s)
  | 0x0014 => some (execContextInfo r s)
  | 0x0020 => some (execStreamSubmit r noHost s)
  | 0x0021 => some (execStreamCancel r s)
  | 0x0022 => some (execSlotResume r s)
  | 0x0023 => some (execStageMap r s)
  | 0x0024 => some (execInterferenceSet r s)
  | 0x0030 => some (execDomainPeriod r s)
  | 0x0031 => some (execCompositeDeclare r s)
  | 0x0032 => some (execCompositeDissolve r s)
  | _ => none

/-- The fabric and far links (R541, R588). -/
def runFabric (code : Nat) (r : Req) (s : State) : Option (Host.Outcome State Fault Refusal) :=
  match code with
  | 0x0100 => some (execFabricIdentity r s)
  | 0x0101 => some (execFabricNeighbours r s)
  | 0x0102 => some (execRouteLoad r s)
  | 0x0103 => some (execRouteDepths r s)
  | 0x0104 => some (execRouteCommit r s)
  | 0x0105 => some (execLinkAlloc r s)
  | 0x0106 => some (execLinkRetrain r s)
  | 0x0107 => some (execCollGroup r s)
  | 0x0108 => some (execInfuseChain r s)
  | 0x0200 => some (execFarEnable r s)
  | 0x0201 => some (execFarDisable r s)
  | 0x0202 => some (execFarKeyLoad r s)
  | 0x0203 => some (execFarKeySwitch r s)
  | 0x0204 => some (execOuterConfig r s)
  | 0x0205 => some (execOuterJoin r s)
  | 0x0206 => some (execOuterReanchor r s)
  | _ => none

/-- Jobs and membership (R655). -/
def runJob (code : Nat) (r : Req) (s : State) : Option (Host.Outcome State Fault Refusal) :=
  match code with
  | 0x0300 => some (execJobConfig r s)
  | 0x0301 => some (execJobMembers r s)
  | 0x0302 => some (execStepCapture r s)
  | 0x0303 => some (execStepReplay r s)
  | 0x0304 => some (execJobJoin r s)
  | 0x0305 => some (execSpareTakeover r s)
  | 0x0306 => some (execDecant r s)
  | 0x0307 => some (execReadmit r s)
  | 0x0308 => some (execHealthConfig r s)
  | _ => none

/-- Faults and blends (R701). -/
def runFault (code : Nat) (r : Req) (s : State) : Option (Host.Outcome State Fault Refusal) :=
  match code with
  | 0x0400 => some (execErrRead r s)
  | 0x0401 => some (execErrClear r s)
  | 0x0402 => some (execErrCrashLog r s)
  | 0x0403 => some (execResetLimits r s)
  | 0x0404 => some (execServiceRestore r s)
  | 0x0410 => some (execBlendLoad r noHost s)
  | 0x0411 => some (execBlendRun r s)
  | 0x0412 => some (execBlendAbort r s)
  | _ => none

/-- Serving, trust and power (R737, R767, R833). -/
def runRest (code : Nat) (r : Req) (s : State) : Option (Host.Outcome State Fault Refusal) :=
  match code with
  | 0x0500 => some (execModelDefine r s)
  | 0x0501 => some (execModelRelease r s)
  | 0x0502 => some (execReplaceStart r s)
  | 0x0503 => some (execReplaceResume r s)
  | 0x0504 => some (execReplaceRollback r s)
  | 0x0505 => some (execKvConfig r s)
  | 0x0506 => some (execKvJoin r s)
  | 0x0507 => some (execKvGrow r s)
  | 0x0508 => some (execKvLeave r s)
  | 0x0600 => some (execAttestReport r noHost s)
  | 0x0601 => some (execCertRead r noHost s)
  | 0x0602 => some (execSpdmTransfer r noHost s)
  | 0x0603 => some (execKeyList r s)
  | 0x0604 => some (execKeyDestroy r s)
  | 0x0605 => some (execFwWrite r noHost s)
  | 0x0606 => some (execFwActivate r s)
  | 0x0607 => some (execConfigWrite r noHost s)
  | 0x0700 => some (execRegionSet r s)
  | 0x0701 => some (execPowerState r s)
  | _ => none

/-- Runs a request that another module sent on, and gives the answer, if there is one yet; a code that no chapter defines is a
reserved encoding (R382). -/
def State.runRequest (s : State) (mb : Nat) (ws : List W64) : KResult :=
  let w := ws.getD 0 0#64
  let code := fld w 15 0
  let r : Req := { mb := mb, top := BitVec.ofNat 48 (fld w 63 16), rest := ws.drop 1 }
  let o := (((runUnit code r s).or (runFabric code r s)).or ((runJob code r s).or (runFault code r s))).or (runRest code r s)
  match o with
  | some q =>
    let t := after q s
    ({ t with kettleAnswer := none }, t.kettleAnswer)
  | none => done s St.reserved

/-- The member paths that a request for a composite's lead carries. -/
def cutPaths : Nat → List W64 → List (List W64)
  | 0, _ => []
  | _ + 1, [] => []
  | fuel + 1, w :: ws =>
    let n := pathWordCount (fld w 3 0)
    (w :: ws).take n :: cutPaths fuel ((w :: ws).drop n)

/-! ### Replies (R22 to R25) -/

/-- The fan is a composite's UNIT_RESET, and its lead's own reset is to follow (R688). -/
def Fan.resetsLead (f : Fan) (s : State) : Bool :=
  f.composite && f.cmd.code = 0x0007 &&
    (List.range f.members.length).any fun i => s.ownPath (f.members.getD i []) && f.replyOf i == some (St.ok, [])

/-- A request that was sent on ends: its completion is written, or the reply goes to the module that sent it here. -/
def State.endFan (s : State) (f : Fan) : State :=
  let g := f.gather
  let s := { s with fans := s.fans.filter fun q => q.id ≠ f.id }
  let s := if f.request.isEmpty then s.moveAnswered f.cmd g.1 else s
  let s := if 256 ≤ f.cmd.mb then
      s.sendReply f.cmd.mb g
    else (s.complete f.cmd.mb f.cmd.code f.cmd.tag g.1 g.2).answerUndefined f.cmd.mb
  if f.resetsLead s then s.sendOut.moduleRung false else s

/-- The lead of a composite takes a request that came through another module (R23): its own part, as of a request with an empty
path, and the other members'. -/
def State.takeLead (s : State) (mb : Nat) (ms : List (List W64)) (ws : List W64) : State :=
  let w := ws.getD 0 0#64
  let code := fld w 15 0
  let args := ws.drop (1 + fld w 34 32)
  let alone := mkWord [(0, 16, code), (16, 16, fld w 31 16)] :: args
  let r : KResult :=
    if !(ms.any s.ownPath) then (s, none)
    else if code = 0x0007 && !(ms.all s.ownPath) then (s, some (if args.isEmpty then St.ok else St.reserved, []))
    else s.runRequest mb alone
  if ms.all s.ownPath && code ≠ 0x0002 then (match r.2 with | some a => r.1.sendReply mb a | none => r.1)
  else
    let s := r.1.fanOut ⟨mb, fld w 31 16, code⟩ true ms ws args r.2
    match s.fans.reverse with
    | f :: _ => if f.full then s.endFan f else s
    | [] => s

/-- The members of a fanned-out request that a module stands for. -/
def State.fanMembers (s : State) (f : Fan) (dn : Nat) : List Nat :=
  (List.range f.members.length).filter fun i => match s.members.modules.find dn, parsePath (pathHops (f.members.getD i [])) with
    | some p, some q => q.moduleHops == p
    | _, _ => false

/-- A reply: the fan ends when every member has answered. -/
def State.takeReply (s : State) (src id status : Nat) (ws : List W64) : State :=
  match s.fans.find? fun f => f.id == id with
  | none => s
  | some f =>
    let mine := (s.fanMembers f src).filter fun i => (f.replyOf i).isNone
    let f := { f with replies := f.replies ++ mine.map fun i => (i, status, ws) }
    if f.full then s.endFan f
    else { s with fans := s.fans.map fun q => if q.id = id then f else q }

/-- COMPOSITE_MEMBER_TIMEOUT (R24): 4 steeps after a request was sent on, a member that has not replied is ABSENT. -/
def execCompositeMemberTimeout (fan : Nat) (s : State) : Host.Outcome State Fault Refusal :=
  match s.fans.find? fun f => f.id == fan with
  | none => .next s
  | some f => if s.now < f.started + f.wait then .next s else .next (s.endFan f)

/-! ### Packets (R500) -/

/-- A domain command, or the end of a decant at its source (R43, R44, R45, R506, R633, R653). -/
def State.takeDomain (s : State) (code : Nat) (ws : List W64) : State :=
  let a := (ws.getD 0 0#64).toNat
  let b := (ws.getD 1 0#64).toNat
  match code with
  | 0x0030 =>
    if a = 0 || 32 < a then s.regAccess 0x40
    else if b ≤ s.now then s.regAccess 0x48
    else { s with steep := { s.steep with nextQ := a, atCount := b } }
  | 0x0104 => { s with fabric := { s.fabric with commit := some (a % 256, b, none) } }
  | 0x0308 => { s with members := { s.members with configDue := some (b, a % 256, a / 256 % 256, none) } }
  | 0x0306 => s.decantDone (a % 8) (ws.getD 1 0#64)
  | _ => s

/-- A message of the outer round that has no row of its own: an estimate, the start of a merge round, of a re-anchor. -/
def State.takeSite (s : State) (src kind id : Nat) (ws : List W64) : State :=
  match s.outerCtx id with
  | none => s
  | some x =>
    if kind = OMsg.estimate then s.takeEstimate x src (ws.getD 0 0#64).toNat
    else if kind = OMsg.merge then s.updOuter x fun o => { o with merging := true }
    else if kind = OMsg.reanchor then s.startReanchor x (fld (ws.getD 0 0#64) 3 0) none
    else s

/-- KETTLE_PACKET (R22, R494, R500). Messages that have a row of their own stay for it; a second copy of a request is
discarded. -/
def execKettlePacket (p : Pkt) (s : State) : Host.Outcome State Fault Refusal :=
  if s.isEarly (fld p.route 63 48) then .next (s.holdEarly (.packet (fld p.route 15 8) p)) else
  let w := p.body.getD 0 0#64
  let ty := fld w 7 0
  let kind := fld w 15 8
  let src := fld p.route 47 32
  let ws := p.body.drop 1
  if fld p.route 15 8 ≠ 7 || s.dark || (ty = 6 && kind ≠ OMsg.estimate && kind ≠ OMsg.merge && kind ≠ OMsg.reanchor) then .next s
  else
    let s := s.tookPacket 0x07 p.body
    .next (
      let again := (ty = 1 || ty = 4 || ty = 7) && s.fabric.asked.any fun e => e.2 == (src, fld p.route 63 48, w)
      let s := if ty = 1 || ty = 4 || ty = 7 then { s with fabric := { s.fabric with
        asked := (s.fabric.asked.filter fun e => s.now < e.1 + 64) ++ [(s.now, src, fld p.route 63 48, w)] } } else s
      if s.shuns src || again then s
      else match ty with
        | 1 =>
          let mb := remoteMb (fld w 31 16) src (fld w 63 32)
          let r := s.runRequest mb ws
          (match r.2 with | some a => r.1.sendReply mb a | none => r.1)
        | 8 => s.answerShard src (ws.getD 0 0#64) (ws.getD 1 0#64)
        | 7 => s.takeLead (remoteMb (fld w 31 16) src (fld w 63 32)) (cutPaths 28 (ws.take kind)) (ws.drop kind)
        | 2 => s.takeReply src (fld w 63 32) (fld w 31 16) ws
        | 3 => s.takeDomain (fld w 31 16) ws
        | 4 =>
          let r := s.moveAsked (fld w 31 16) src ws
          r.1.injectDn 0x07 7 src none 0 [mkWord [(0, 8, 2), (16, 16, r.2), (32, 32, fld w 63 32)]]
        | 5 => s.secondCompletion (fld w 13 9) (fld w 31 16) (fld w 47 32) ws
        | 9 =>
          let n (i : Nat) : Nat := (ws.getD i 0#64).toNat
          let r := s.readCommitted (ws.getD 0 0#64) (n 1) (n 2) (n 3) (min 510 (n 4)) (kind = 0)
          r.1.injectDn 0x07 7 src none 0 (mkWord [(0, 8, 2), (16, 16, r.2.1), (32, 32, fld w 63 32)] :: r.2.2)
        | 6 => s.takeSite src kind (fld w 63 32) ws
        | _ => s)

end Sys2Proof.Machine
end

