-- ==== Sys2Proof/Machine/Early.lean ====
section
/-! DEFINITION. Machine/Early.lean: messages stamped for the next steep (R55), and the boundary that hands them over. -/
namespace Sys2Proof.Machine

/-- The meaning that a commit message has by its MSG (R595). -/
def takeMsg (msg : Nat) (m : CommitMsg) (s : State) : State :=
  let by_ : List (Nat × (CommitMsg → State → Host.Outcome State Fault Refusal)) :=
    [(Msg.seal_, execSeal), (Msg.stepFail, execStepFail), (Msg.ready, execReady), (Msg.commit, execCommit), (Msg.abort, execAbort),
     (Msg.query, execQuery), (Msg.decision, execDecision), (Msg.mirrorDone, execMirrorDone), (Msg.vote, execVote), (Msg.expel, execExpel),
     (Msg.memberSync, execMemberSync), (Msg.healthAsk, execHealthAsk), (Msg.healthReply, execHealthReply)]
  match by_.find? fun e => e.1 == msg with
  | some e => after (e.2 m s) s
  | none => s

/-- A held message is handled as when it arrives (R55); a packet by its KIND (R500). -/
def handOver (e : EarlyMsg) (s : State) : State :=
  match e with
  | .beat l b => after (execHeartbeat l b s) s
  | .msg msg m => takeMsg msg m s
  | .packet kind p =>
    if kind = 7 then after (execKettlePacket p s) s
    else if kind = 3 then after (execInfuserPacket p s) s
    else if kind = 4 then after (execMirrorPacket p s) s
    else if kind = 5 then after (execDecantPacket p s) s
    else after (execCollectivePacket p s) s

/-- At its boundary n the module handles the messages stamped for steep n, in the order in which they came (R55). -/
def State.takeEarly (s : State) : State :=
  let due := s.early.filter fun e => e.1 ≤ s.now
  forL due (fun e s => handOver e.2 s) { s with early := s.early.filter fun e => s.now < e.1 }

/-- STEEP_BOUNDARY (R56): the ten actions, each seeing the results of those before it (R57). -/
def execSteepBoundary (s : State) : Host.Outcome State Fault Refusal :=
  if s.dark then .next s
  else
    let q := s.steep.currentQ
    .next (((s.boundaryOpen).boundarySwitch q).boundaryClose).takeEarly

end Sys2Proof.Machine
end

