-- ==== Sys2Proof/Machine/RegMap.lean ====
section
/-! DEFINITION. Machine/RegMap.lean: the registers of the module and the offsets at which the physical function and the
virtual functions reach them (R10, R426, R474, R775, R776). -/
namespace Sys2Proof.Machine

/-- The registers, with the number of the unit, context, queue or word that each belongs to. -/
inductive Reg where
  | moduleStatus
  | steepPeriod
  | steepSwitchAt
  | steepCount
  | steepPhase
  | timeStatus
  | auditStatus
  | deadlineStatus
  | scaleStatus (x : Nat)
  | ctxState (x : Nat)
  | ctxInterference (x : Nat)
  | ctxJobs (x : Nat)
  | ctxJobId (x : Nat)
  | commitStatus (x : Nat)
  | commitCounts (x : Nat)
  | memberStatus
  | healthDetail
  | heartbeatSilent
  | mirrorStatus (x : Nat)
  | sealLedger
  | errStatus
  | errCounts
  | errCfg
  | errLastFa
  | errLastFaSteep
  | resetStatus
  | resetLimits
  | resetCounts
  | watchdogLog
  | blendStatus
  | marginG (g : Nat)
  | marginL (l : Nat)
  | modelStatus (x m : Nat)
  | infCounts
  | kvStatus (x : Nat)
  | bootStatus
  | keyStatus
  | memStatus
  | memEccCount (i : Nat)
  | memUeLog
  | scrubStatus
  | eccInject
  | ctxWindow (x : Nat)
  | hostStatus
  | hostEvents
  | hostAlert
  | ppsCapture
  | mgmtStatus
  | ppsCtrl
  | ctxEventVector (x : Nat)
  | pwrStatus
  | pwrInput
  | energySteep
  | thermalStatus
  | throttleEvents
  | regionG (g : Nat)
  | cyStatus (c : Nat)
  | cyCounts (c : Nat)
  | cyEvents (c : Nat)
  | cyCycles (c : Nat)
  | cySkewLog (c : Nat)
  | updVersion (x : Nat)
  | updStep (x : Nat)
  | updSets (x : Nat)
  | fabricId
  | fabricPath (w : Nat)
  | routeStatus
  | routeCommitAt
  | routeEvents
  | collStatus
  | collEvents
  | linkStatus (l : Nat)
  | linkErrors (l : Nat)
  | linkDelay (l : Nat)
  | linkAlloc (l : Nat)
  | linkAvail (l : Nat)
  | farStatus (l : Nat)
  | farWindow (l : Nat)
  | farSiteTime (l : Nat)
  | farKeys (l : Nat)
  | farErrors (l : Nat)
  | outerStatus (x : Nat)
  | outerCounts (x : Nat)
  | mbReqData (mb w : Nat)
  | mbDoorbell (mb : Nat)
  | mbStatus (mb : Nat)
  | mbCompData (mb w : Nat)
  | mbCompAck (mb : Nat)
  | mbCfg (mb : Nat)
  | mxStatus (k : Nat)
  | mxCycles (k : Nat)
  | mxCellMacs (k : Nat)
  | strainerStatus (k : Nat)
  | strainerLog (k : Nat)
  | strainerInject (k : Nat)
  | accStatus (k : Nat)
  | accEvents (k : Nat)
  | vxStatus (k : Nat)
  | vxFlags (k : Nat)
  | vxCycles (k : Nat)
  | vxFault (k : Nat)
  | qpoolCellsA (p : Nat)
  | qpoolCellsB (p : Nat)
  | qpoolStatus (p : Nat)
  | qpoolEcc (p : Nat)
  | qpoolSweep (p : Nat)
  | queueCfg (p q : Nat)
  | queueStatus (p q : Nat)
  | queueCells (p q : Nat)
  | queueEvents (p q : Nat)
deriving DecidableEq, Repr

/-- One of `n` registers that stand at `base + 8 × i`, by the offset within the block. -/
def row8 (base n off : Nat) (r : Nat → Reg) : Option Reg :=
  if base ≤ off && off < base + 8 * n then some (r ((off - base) / 8)) else none

/-- The first of several places that holds a register. -/
def firstReg : List (Option Reg) → Option Reg
  | [] => none
  | some r :: _ => some r
  | none :: rest => firstReg rest

/-- A register that stands alone at an offset. -/
def at1 (base off : Nat) (r : Reg) : Option Reg := if off = base then some r else none

/-- The module block (R32, R43 to R53, R78). -/
def moduleBlock (o : Nat) : Option Reg := firstReg
  [at1 0x00 o .moduleStatus, at1 0x40 o .steepPeriod, at1 0x48 o .steepSwitchAt, at1 0x50 o .steepCount,
   at1 0x58 o .steepPhase, at1 0x60 o .timeStatus, at1 0x80 o .auditStatus, at1 0x88 o .deadlineStatus]

/-- The context block (R426). -/
def ctxBlock (o : Nat) : Option Reg := firstReg
  [row8 0x00 8 o .ctxState, row8 0x40 8 o .ctxInterference, row8 0x80 8 o .ctxJobs, row8 0xC0 8 o .ctxJobId]

/-- The commit block (R658, R659). -/
def commitBlock (o : Nat) : Option Reg := firstReg
  [row8 0x00 8 o .commitStatus, row8 0x40 8 o .commitCounts, at1 0x100 o .memberStatus, at1 0x108 o .healthDetail,
   at1 0x110 o .heartbeatSilent, row8 0x140 8 o .mirrorStatus, at1 0x180 o .sealLedger]

/-- The fault block (R704). -/
def faultBlock (o : Nat) : Option Reg := firstReg
  [at1 0x00 o .errStatus, at1 0x08 o .errCounts, at1 0x10 o .errCfg, at1 0x18 o .errLastFa, at1 0x20 o .errLastFaSteep,
   at1 0x100 o .resetStatus, at1 0x108 o .resetLimits, at1 0x110 o .resetCounts, at1 0x118 o .watchdogLog,
   at1 0x200 o .blendStatus, row8 0x400 32 o .marginG, row8 0x600 48 o .marginL]

/-- The serving block (R739). -/
def servingBlock (o : Nat) : Option Reg := firstReg
  [row8 0x00 32 o (fun i => .modelStatus (i / 4) (i % 4)), at1 0x100 o .infCounts, row8 0x200 8 o .kvStatus]

/-- The memory block (R327, R328). -/
def memoryBlock (o : Nat) : Option Reg := firstReg
  [at1 0x00 o .memStatus, row8 0x100 64 o .memEccCount, at1 0x300 o .scrubStatus, at1 0x310 o .eccInject,
   at1 0x318 o .memUeLog, row8 0x400 8 o .ctxWindow]

/-- The host block (R795). -/
def hostBlock (o : Nat) : Option Reg := firstReg
  [at1 0x00 o .hostStatus, at1 0x08 o .hostEvents, at1 0x10 o .hostAlert, at1 0x18 o .ppsCapture, at1 0x20 o .mgmtStatus,
   at1 0x28 o .ppsCtrl, row8 0x40 8 o .ctxEventVector]

/-- The power and thermal block (R834). -/
def powerBlock (o : Nat) : Option Reg := firstReg
  [at1 0x00 o .pwrStatus, at1 0x08 o .pwrInput, at1 0x10 o .energySteep, at1 0x18 o .thermalStatus,
   at1 0x20 o .throttleEvents, row8 0x100 32 o .regionG]

/-- The caddy block (R474). -/
def caddyBlock (o : Nat) : Option Reg :=
  let c := o / 0x100
  let w := o % 0x100
  if o < 0x400 then firstReg
    [at1 0x00 w (.cyStatus c), at1 0x08 w (.cyCounts c), at1 0x10 w (.cyEvents c), at1 0x18 w (.cyCycles c),
     at1 0x20 w (.cySkewLog c)]
  else firstReg [row8 0x1000 8 o .updVersion, row8 0x1040 8 o .updStep, row8 0x1080 8 o .updSets]

/-- The fabric block (R541). -/
def fabricBlock (o : Nat) : Option Reg :=
  let l := (o - 0x1000) / 0x40
  let w := o % 0x40
  if o < 0x1000 then firstReg
    [at1 0x00 o .fabricId, row8 0x08 4 o .fabricPath, at1 0x40 o .routeStatus, at1 0x48 o .routeCommitAt,
     at1 0x50 o .routeEvents, at1 0x80 o .collStatus, at1 0x88 o .collEvents]
  else if 48 ≤ l then none
  else firstReg
    [at1 0x00 w (.linkStatus l), at1 0x08 w (.linkErrors l), at1 0x10 w (.linkDelay l), at1 0x18 w (.linkAlloc l),
     at1 0x20 w (.linkAvail l)]

/-- The far-link block (R589). -/
def farBlock (o : Nat) : Option Reg :=
  let l := o / 0x40
  let w := o % 0x40
  if l < 48 then firstReg
    [at1 0x00 w (.farStatus l), at1 0x08 w (.farWindow l), at1 0x10 w (.farSiteTime l), at1 0x18 w (.farKeys l),
     at1 0x20 w (.farErrors l)]
  else firstReg [row8 0x2000 8 o .outerStatus, row8 0x2040 8 o .outerCounts]

/-- One mailbox's window (R426). -/
def mailboxWindow (mb w : Nat) : Option Reg := firstReg
  [row8 0x00 31 w (.mbReqData mb), at1 0x100 w (.mbDoorbell mb), at1 0x108 w (.mbStatus mb), row8 0x200 31 w (.mbCompData mb),
   at1 0x300 w (.mbCompAck mb), at1 0x308 w (.mbCfg mb)]

/-- One core's window of the matrix-engine block (R186, R241, R292). -/
def coreWindow (k w : Nat) : Option Reg := firstReg
  [at1 0x00 w (.mxStatus k), at1 0x08 w (.mxCycles k), at1 0x10 w (.mxCellMacs k), at1 0x20 w (.strainerStatus k),
   at1 0x28 w (.strainerLog k), at1 0x30 w (.strainerInject k), at1 0x40 w (.accStatus k), at1 0x48 w (.accEvents k),
   at1 0x80 w (.vxStatus k), at1 0x88 w (.vxFlags k), at1 0x90 w (.vxCycles k), at1 0x98 w (.vxFault k)]

/-- One pool's window of the queue block (R365, R368). -/
def poolWindow (p w : Nat) : Option Reg :=
  let q := (w - 0x1000) / 0x20
  let v := w % 0x20
  if w < 0x1000 then firstReg
    [at1 0x00 w (.qpoolCellsA p), at1 0x08 w (.qpoolCellsB p), at1 0x10 w (.qpoolStatus p), at1 0x18 w (.qpoolEcc p),
     at1 0x20 w (.qpoolSweep p)]
  else if 512 ≤ q then none
  else firstReg [at1 0x00 v (.queueCfg p q), at1 0x08 v (.queueStatus p q), at1 0x10 v (.queueCells p q), at1 0x18 v (.queueEvents p q)]

/-- The register at an offset of the physical function's control space (R775). -/
def regAt (off : Nat) : Option Reg :=
  if off < 0x1000 then moduleBlock off
  else if off < 0x2000 then row8 0 8 (off - 0x1000) .scaleStatus
  else if off < 0x3000 then ctxBlock (off - 0x2000)
  else if off < 0x4000 then commitBlock (off - 0x3000)
  else if off < 0x5000 then faultBlock (off - 0x4000)
  else if off < 0x6000 then servingBlock (off - 0x5000)
  else if off < 0x7000 then firstReg [at1 0x6000 off .bootStatus, at1 0x6008 off .keyStatus]
  else if off < 0x8000 then memoryBlock (off - 0x7000)
  else if off < 0x9000 then hostBlock (off - 0x8000)
  else if off < 0xA000 then powerBlock (off - 0x9000)
  else if off < 0xC000 then caddyBlock (off - 0xA000)
  else if off < 0xE000 then fabricBlock (off - 0xC000)
  else if off < 0x10000 then none
  else if off < 0x14000 then farBlock (off - 0x10000)
  else if off < 0x18000 then none
  else if off < 0x20000 then mailboxWindow ((off - 0x18000) / 0x400) ((off - 0x18000) % 0x400)
  else if off < 0x40000 then coreWindow ((off - 0x20000) / 0x100) ((off - 0x20000) % 0x100)
  else if off < 0x80000 then none
  else if off < 0x100000 then poolWindow ((off - 0x80000) / 0x40000) ((off - 0x80000) % 0x40000)
  else none

/-- The register at an offset of the window of the virtual function that serves context `x` (R776). -/
def vfRegAt (x off : Nat) : Option Reg :=
  if off < 0x1000 then mailboxWindow (4 * x + off / 0x400) (off % 0x400)
  else
    let o := off - 0x1000
    firstReg
      [at1 0x00 o (.ctxState x), at1 0x08 o (.ctxInterference x), at1 0x10 o (.ctxJobs x), at1 0x18 o (.ctxJobId x),
       at1 0x20 o (.scaleStatus x), at1 0x28 o (.updVersion x), at1 0x30 o (.updStep x), at1 0x38 o (.updSets x),
       at1 0x40 o (.commitStatus x), at1 0x48 o (.commitCounts x), at1 0x50 o (.mirrorStatus x), at1 0x58 o (.outerStatus x),
       at1 0x60 o (.outerCounts x), at1 0x68 o (.kvStatus x), row8 0x80 4 o (.modelStatus x), at1 0xA0 o (.ctxWindow x),
       at1 0xA8 o (.ctxEventVector x)]

/-- The register that a function reaches at an offset, which is a multiple of 8. -/
def reaches (fn off : Nat) : Option Reg := if fn = 0 then regAt off else vfRegAt (fn - 1) off

end Sys2Proof.Machine
end

