-- ==== Sys2Proof/Machine/RegRead.lean ====
section
/-! DEFINITION. Machine/RegRead.lean: what every register returns, and what a 64-bit read of an RC field clears (R10 to
R15, and the register maps of the chapters). -/
namespace Sys2Proof.Machine

/-! ### Values, chapter by chapter -/

/-- TIME_STATUS (R53). -/
def State.timeWord (s : State) : W64 :=
  let t := s.steep
  mkWord [(0, 1, b2n t.holdover), (1, 1, b2n t.lost), (2, 1, b2n t.master), (8, 8, t.upstream), (16, 8, t.hops), (32, 32, sbits 32 t.offsetNs)]

/-- AUDIT_STATUS (R78). -/
def State.auditWord (s : State) : W64 :=
  let t := s.steep
  mkWord [(0, 1, b2n t.auditOverrun), (1, 1, b2n t.auditCredits), (2, 1, b2n t.auditCells), (3, 1, b2n t.auditCommit),
    (4, 1, b2n t.auditMailbox), (5, 1, b2n t.auditEnergy), (16, 16, t.auditMismatches), (32, 32, t.auditLast)]

/-- SCALE_STATUS_Xn (R125). -/
def Ctx.scaleWord (c : Ctx) : W64 :=
  mkWord [(0, 1, b2n c.historyValid), (1, 1, b2n c.underflowSeen), (8, 8, c.limitHits), (16, 16, c.nanBlocks), (32, 32, c.satBlocks)]

/-- The phase of R658. -/
def Phase.code : Phase → Nat
  | .idle => 0
  | .running => 1
  | .readySent => 2
  | .commitPending => 3
  | .aborting => 4

/-- Epochs of the oldest step in progress that are not sealed (R658). -/
def Job.unsealed (j : Job) (now : Nat) : Nat :=
  match j.steps with
  | [] => 0
  | t :: _ => (j.epochs.filter fun e => decide (t.firstEpoch ≤ e.n) && decide (e.n ≤ t.lastEpoch.getD now) && !e.sealed_).length

/-- COMMIT_STATUS_Xn (R658). -/
def State.commitWord (s : State) (x : Nat) : W64 :=
  let j := (s.ctx x).job
  mkWord [(0, 3, (match j.steps with | [] => 0 | t :: _ => t.phase.code)), (8, 1, b2n j.member), (9, 1, b2n j.spare), (10, 1, b2n j.isLead),
    (11, 1, j.holding), (16, 8, satN 8 (j.unsealed s.now)), (24, 40, j.committed)]

/-- MIRROR_STATUS_Xn (R658): granules named by the metadata of the running step that have not come whole are pending. -/
def Job.mirrorWord (j : Job) : W64 :=
  let m := j.mirror
  let due := match m.metadata with
    | some d => cdiv (d.parts - m.received) 8
    | none => 0
  mkWord [(0, 2, m.state), (3, 1, m.slot), (8, 16, satN 16 m.stale.length), (24, 24, satN 24 due),
    (48, 16, if j.member then (j.mirrorSource.map j.dnOf).getD 0 else 0)]

/-- MEMBER_STATUS (R658). -/
def State.memberWord (s : State) : W64 :=
  let m := s.members
  mkWord [(0, 1, b2n s.steep.master), (1, 1, b2n m.votedOut), (2, 1, b2n m.watch), (3, 1, b2n m.candidate),
    (8, 8, if s.steep.master then satN 8 s.budgetLeft else 0), (16, 16, s.steep.deputyDn), (32, 32, m.mver)]

/-- SEAL_LEDGER (R659). -/
def State.sealWord (s : State) : W64 :=
  let es := ((List.range 8).map fun x => (s.ctx x).job.epochs.filter fun e => !e.ledger.isEmpty).flatten
  let n := es.foldl (fun n e => n + e.ledger.length) 0
  let oldest := match es.map fun e => e.n with
    | [] => 0
    | a :: r => r.foldl min a
  mkWord [(0, 17, satN 17 n), (32, 32, oldest)]

/-- RESET_STATUS (R704): of the rungs in progress the one that takes precedence. -/
def State.resetWord (s : State) : W64 :=
  let f := s.faults
  let codes := (f.rungs.map fun r => r.code) ++ (if f.moduleReset.isSome then [6] else [])
  let top := codes.foldl (fun a c => if rungRank a < rungRank c then c else a) 0
  mkWord [(0, 4, top), (7, 1, b2n f.outOfService), (16, 16, f.timeouts), (32, 32, f.resets)]

/-- RESET_COUNTS (R704): the highest count of any unit at each rung. -/
def State.resetCountsWord (s : State) : W64 :=
  let best (code : Nat) : Nat := (s.faults.counts.filter fun c => c.2.1 % 16 = code).foldl (fun m c => max m (s.resetCount c.1 c.2.1)) 0
  mkWord ((List.range 7).map fun k => (8 * k, 8, satN 8 (best (k + 1))))

/-- BLEND_STATUS (R704). -/
def Blend.word (b : Blend) (seconds : Nat) : W64 :=
  mkWord [(0, 2, b.state), (2, 2, b.result), (4, 1, b2n b.full), (8, 8, b.ageHours seconds), (16, 16, b.item), (32, 32, b.id)]

/-- MARGIN_Gn (R704, R705): 0 for a region that is gated. -/
def State.marginGWord (s : State) (g : Nat) : W64 :=
  let m := s.marginG g
  if s.trust.stage ≠ 0x0F || s.power.state ≠ 0 then 0#64
  else mkWord [(0, 16, sbits 16 m.voltage), (16, 8, m.timing), (36, 12, (s.region g).eff), (48, 16, sbits 16 m.temp)]

/-- MARGIN_Ln (R704, R705): 0 for a link that is DOWN. -/
def State.marginLWord (s : State) (l : Nat) : W64 :=
  let m := s.faults.marginL.get {} l
  if (s.link l).state == .down then 0#64
  else mkWord [(0, 16, sbits 16 m.optical), (16, 16, sbits 16 m.rxPower), (32, 2, m.worstWave)]

/-- BOOT_STATUS (R767). -/
def Trust.bootWord (t : Trust) : W64 :=
  mkWord [(0, 1, t.bank), (1, 1, t.nextBank), (3, 1, b2n t.seed.isSome), (4, 1, b2n t.config.isSome), (5, 1, b2n t.sigOk),
    (6, 1, b2n t.isDefault), (7, 1, b2n (t.stage == 0xFE)), (16, 8, t.stage), (32, 32, t.bootCount)]

/-- KEY_STATUS (R767). -/
def Trust.keyWord (t : Trust) : W64 :=
  let kind (k : Nat) : Nat := (t.keys.filter fun (e : Nat × KeyEntry) => e.2.kind = k).length
  mkWord [(0, 8, kind 1), (8, 8, kind 2), (16, 8, 64 - t.keys.length), (24, 8, t.sessions.length), (32, 32, t.delivered)]

/-- MEM_STATUS (R327). -/
def State.memWord (s : State) : W64 :=
  let m := s.mem
  let part (i : Nat) : Training := m.trainings.get {} i
  let left := (List.range 24).filter fun i => !(part i).ready
  let phase := if left.isEmpty then 0xF else left.foldl (fun p i => max p (part i).phase) 0
  let bits (lo n : Nat) : Nat := (List.range n).foldl (fun v i => if (part (lo + i)).ready then v + 2 ^ i else v) 0
  mkWord [(0, 16, bits 0 16), (24, 8, bits 16 8), (32, 4, phase), (36, 1, b2n m.trainFail), (40, 8, s.trust.farBuffers - m.farBuffers.length)]

/-- SCRUB_STATUS (R327). -/
def MemUnit.scrubWord (m : MemUnit) : W64 :=
  let at_ (t : Nat) : Nat := m.patrol.get 0 t * 65536 / patrolWords t
  mkWord [(0, 16, at_ 1), (16, 16, at_ 0), (32, 16, m.slowPasses), (48, 16, m.fastPasses)]

/-- HOST_STATUS (R795). -/
def HostIf.statusWord (h : HostIf) : W64 :=
  let flr := (List.range 8).foldl (fun v k => if h.flr.contains (k + 1) then v + 2 ^ k else v) 0
  mkWord [(0, 4, h.speed), (4, 6, h.width), (10, 1, b2n h.flit), (11, 1, b2n h.ideActive), (12, 2, if h.d3hot then 3 else 0),
    (14, 1, b2n h.vfEnable), (16, 4, h.numVfs), (24, 8, flr), (32, 1, b2n (h.busMaster.contains 0))]

/-- HOST_ALERT (R795). -/
def HostIf.alertWord (h : HostIf) : W64 :=
  mkWord [(0, 1, b2n h.alertFa), (1, 1, b2n h.alertUc), (2, 1, b2n h.alertThermal), (3, 1, b2n h.alertOos), (4, 1, b2n h.alertPps), (32, 5, h.alertMask)]

/-- MGMT_STATUS (R795). -/
def State.mgmtWord (s : State) : W64 :=
  let h := s.host
  mkWord [(0, 7, h.i3cAddr.getD 0), (7, 1, b2n h.i3cAddr.isSome), (8, 8, h.eid.getD 0), (16, 1, b2n h.eid.isSome), (17, 1, b2n h.pldmReady),
    (20, 4, (s.trust.sessions.filter fun v => v.oob).length)]

/-- PWR_STATUS (R834). -/
def State.pwrWord (s : State) : W64 :=
  let p := s.power
  mkWord [(0, 2, p.state), (2, 2, p.target), (32, 1, b2n p.inputLow), (33, 1, b2n (p.regions.any fun r => 0 < r.2.power)),
    (34, 1, b2n p.peakGate), (48, 16, s.trust.powerLimit)]

/-- THERMAL_STATUS (R834). -/
def State.thermalWord (s : State) : W64 :=
  let p := s.power
  let hot := (List.range 32).foldl (fun b g => if (s.marginG b).temp < (s.marginG g).temp then g else b) 0
  mkWord [(0, 1, b2n p.warn), (1, 1, b2n p.critical), (2, 1, b2n p.tripSeen), (16, 5, hot), (32, 16, sbits 16 p.inlet),
    (48, 16, sbits 16 (s.marginG hot).temp)]

/-- REGION_Gn (R834): the clock 128 of R809 needs a bit more than the seven of its fields, and shows in the bit above. -/
def Region.word (r : Region) : W64 :=
  mkWord [(0, 8, r.set_), (16, 8, r.eff), (32, 1, b2n (decide (0 < r.thermal))), (33, 1, b2n (decide (0 < r.tempDiff))),
    (34, 1, b2n (decide (0 < r.adjacent))), (35, 1, b2n (decide (0 < r.power))), (36, 1, b2n (decide (0 < r.margin))), (48, 10, r.volt)]

/-- CY_STATUS (R474): a tile in hand is being updated; no root is in progress between tiles. -/
def Caddy.word (c : Caddy) (n : Nat) : W64 :=
  match c.tile n with
  | none => 0#64
  | some (j, t) => mkWord [(0, 2, 1), (24, 1, 1), (25, 3, j.ctx), (32, 8, fld (j.cmd.getD 0 0#64) 7 0), (40, 24, t)]

/-- FABRIC_ID (R541). -/
def Fabric.idWord (f : Fabric) : W64 :=
  mkWord [(0, 16, f.dn), (16, 1, b2n f.dnValid), (20, 4, f.site), (24, 3, if f.dnValid then pathWordCount f.path.length else 0)]

/-- ROUTE_STATUS (R541). -/
def State.routeWord (s : State) : W64 :=
  let bits (f : Nat → Bool) : Nat := (List.range 8).foldl (fun v i => if f i then v + 2 ^ i else v) 0
  let due (i : Nat) : Bool := match s.fabric.commit with
    | some c => Nat.testBit c.1 i
    | none => false
  mkWord [(0, 8, bits fun i => (s.routeSet i).live == 1), (8, 8, bits fun i => (s.routeSet i).loaded), (16, 8, bits due),
    (24, 8, bits fun i => (s.routeSet i).keptSince.isSome)]

/-- COLL_STATUS (R541): the operation of the lowest-numbered context that has one; else the one that timed out last. -/
def State.collWord (s : State) : W64 :=
  let ops := (List.range 8).filterMap fun x => s.fabric.ops.find? fun o => o.ctx == x
  match ops with
  | o :: _ => mkWord [(0, 2, if o.complete then 1 else 2), (16, 1, 1), (17, 3, o.ctx), (24, 8, o.c.op), (32, 32, o.c.opId)]
  | [] => match s.fabric.timedOut with
    | some t => mkWord [(0, 2, 3), (16, 1, 1), (17, 3, t.1), (24, 8, t.2.1), (32, 32, t.2.2)]
    | none => 0#64

/-- LINK_STATUS (R541). -/
def State.linkWord (s : State) (n : Nat) : W64 :=
  let l := s.link n
  let fails := (l.trainFails.filter fun t => s.seconds < t + 3600).length
  mkWord [(0, 3, l.state.code), (6, 1, b2n l.periodOk), (7, 1, b2n l.jobTraffic), (32, 8, satN 8 fails), (42, 6, l.nbLink), (48, 16, l.nbDn)]

/-- LINK_ALLOC (R484, R541, R542). -/
def Link.allocWord (l : Link) : W64 := if l.state == .far then 0x00FF000000000000#64 else l.alloc

/-- LINK_AVAIL (R541, R543): on a FAR link the free slots of its buffer stand for VC6. -/
def Link.availWord (l : Link) : W64 :=
  match l.state with
  | .trained => mkWord ((List.range 8).map fun v => (8 * v, 8, satN 8 ((l.credits.get {} v).available / 32)))
  | .far => mkWord [(48, 8, satN 8 (l.far.freeSlots / 32))]
  | _ => 0#64

/-- FAR_STATUS (R589). -/
def Far.statusWord (f : Far) (now : Nat) : W64 :=
  let age := match f.lastTime with
    | some t => satN 8 (now - t)
    | none => 255
  mkWord [(0, 2, f.state), (4, 1, b2n (f.keys.find 0).isSome), (5, 1, b2n (f.keys.find 1).isSome), (6, 1, f.sendSlot),
    (7, 1, b2n f.rttLimit), (16, 8, age), (28, 4, f.site), (32, 16, f.remoteDn)]

/-- OUTER_STATUS_Xn (R589). -/
def State.outerWord (s : State) (x : Nat) : W64 :=
  let o := (s.ctx x).outer
  let code := match o.state with
    | .none => 0
    | .local_ => 1
    | .sending => 2
    | .waiting => 3
    | .merging => 4
    | .ready => 5
  mkWord [(0, 3, code), (3, 1, b2n (s.coordinates x)), (16, 16, o.touchMask), (32, 8, satN 8 o.skipped), (40, 24, o.round)]

/-- MB_STATUS (R426, R786). -/
def State.mbStatusWord (s : State) (n : Nat) : W64 :=
  let m := s.mailbox n
  mkWord [(0, 5, m.unread), (8, 5, m.pending), (16, 5, s.shownFree n), (32, 1, b2n m.doorbellError), (33, 1, b2n m.resetting)]

/-- Word w of the oldest completion that is not acknowledged; 0 when there is none (R426). -/
def State.mbCompWord (s : State) (n w : Nat) : W64 :=
  if (s.mailbox n).unread = 0 then 0#64
  else match (s.queue 0 (0x101 + 2 * n)).packets with
    | [] => 0#64
    | k :: _ => if w < k.words.length then k.deliver w else 0#64

/-- A vector field as a function reads it (R781). A vector of another function's table has no number that a virtual function
could read: the field is then a free value of 11 bits, but for the reset value. -/
def State.vectorField (s : State) (fn v : Nat) : Nat :=
  if fn = 0 || v = 0 then v
  else if 1024 + 128 * (fn - 1) ≤ v && v < 1024 + 128 * fn then vectorOut fn v
  else (Config.freeWord s.fresh).toNat % 2048

/-- MX_STATUS (R186). -/
def State.mxWord (s : State) (k : Nat) : W64 :=
  let c := s.core k
  let x := s.coreCtx k
  let own := [(7, 1, b2n c.chain.isSome), (8, 1, b2n x.isSome), (9, 3, x.getD 0)]
  match c.tile with
  | none => mkWord own
  | some t =>
    let m := mtOf t.cmd
    let slow := !(pitchOk m.a.pitch) || !(pitchOk m.b.pitch)
    mkWord (own ++ [(0, 2, if t.stalled then 3 else if t.started then 1 else 2), (6, 1, b2n slow), (16, 4, m.b.fmt), (20, 4, m.a.fmt),
      (32, 32, if t.started then m.tileId else 0)])

/-- ACC_STATUS (R241). The states of a core that is FENCED read 0b000 (R242), also where a drain has left a set HELD. -/
def Core.accWord (c : Core) (fenced : Bool) : W64 :=
  let p := match c.pour with
    | some p => [(21, 11, p.pass), (32, 32, (mtOf p.cmd).tileId)]
    | none => []
  let t := match c.tile with
    | some t => [(7, 1, b2n (t.started && decide (16384 < t.kTotal))), (8, 2, t.repeats)]
    | none => []
  let state (a : AccSet) : Nat := if fenced then 0 else a.state.code
  mkWord (p ++ t ++ [(6, 1, c.select), (10, 3, state c.shadow), (13, 3, state c.live)])

/-- VX_STATUS (R292): the lane waits when its next VEC_RUN must wait for an earlier command of the core stream (R149). -/
def State.vxWord (s : State) (k : Nat) : W64 :=
  let c := s.core k
  let x := s.coreCtx k
  let own := [(8, 1, b2n x.isSome), (9, 3, x.getD 0), (16, 7, c.vec.vl)]
  match c.vrun with
  | some r => mkWord (own ++ [(0, 2, 1), (36, 12, r.pc), (48, 16, (vcmdOf r.cmd).iter - r.iter)])
  | none =>
    let held := match c.next false with
      | some w => Cmd.op w.cmd = 0x18 && c.xfer.isNone && c.waits w
      | none => false
    mkWord (own ++ [(0, 2, if held then 2 else if c.vxStopped then 3 else 0)])

/-- QUEUE_CFG (R368). -/
def Queue.cfgWord (q : Queue) : W64 :=
  let sink := match q.sink with
    | .none => (0, 0)
    | .kettle => (1, 0)
    | .engine n => (2, n)
    | .msix v => (3, v)
  mkWord [(0, 19, q.quota), (20, 19, q.guarantee), (40, 1, b2n q.ctx.isSome), (41, 3, q.ctx.getD 0), (48, 11, sink.2), (60, 2, sink.1),
    (62, 1, b2n (q.fence.isSome && q.fenced)), (63, 1, b2n q.enabled)]

/-- QUEUE_STATUS (R368). -/
def Queue.statusWord (q : Queue) : W64 :=
  let st := if !q.enabled then 0 else if q.fence.isNone then 1 else if q.fenced then 3 else 2
  let marks := (List.range 4).foldl (fun v m => if (q.marks.find m).isSome then v + 2 ^ m else v) 0
  mkWord [(0, 2, st), (16, 4, (q.ports.filter fun e => e.2.started).length), (20, 4, marks), (32, 32, q.seqNext)]

/-- QPOOL_STATUS (R365). -/
def Pool.statusWord (p : Pool) : W64 :=
  mkWord [(0, 19, p.lowWater), (20, 1, b2n p.mismatch), (21, 1, b2n p.fencedAudit), (22, 1, b2n p.sweeping), (32, 32, p.snapSteep)]

/-! ### Every register -/

/-- What a register returns to a function (R10, R11, R14): reserved fields read zero. -/
def State.regValue (s : State) (fn : Nat) (r : Reg) : W64 :=
  let t := s.steep
  let f := s.faults
  match r with
  | .moduleStatus => s.statusWord .module
  | .steepPeriod => mkWord [(0, 6, t.nextQ), (32, 6, t.currentQ)]
  | .steepSwitchAt => BitVec.ofNat 64 t.atCount
  | .steepCount => BitVec.ofNat 64 t.count
  | .steepPhase => BitVec.ofNat 64 t.phase
  | .timeStatus => s.timeWord
  | .auditStatus => s.auditWord
  | .deadlineStatus => mkWord [(0, 16, t.worstUs), (16, 16, t.otherDeadlines), (32, 16, t.sliceUc), (48, 16, t.sliceCe)]
  | .scaleStatus x => (s.ctx x).scaleWord
  | .ctxState x => s.ctxStateWord x
  | .ctxInterference x => mkWord [(0, 16, (s.ctx x).ratio), (16, 16, (s.ctx x).threshold), (32, 32, (s.ctx x).window)]
  | .ctxJobs x => BitVec.ofNat 64 (s.ctx x).jobs
  | .ctxJobId x => (s.ctx x).jobId
  | .commitStatus x => s.commitWord x
  | .commitCounts x =>
    let j := (s.ctx x).job
    mkWord [(0, 16, j.queries), (16, 16, j.breaches), (32, 16, j.aborts), (48, 16, j.commits)]
  | .memberStatus => s.memberWord
  | .healthDetail => mkWord ((0, 8, s.members.threshold) :: (List.range 7).map fun i => (8 * (i + 1), 8, s.members.penalties.getD i 0))
  | .heartbeatSilent => BitVec.ofNat 64 ((List.range 48).foldl (fun v l => if (s.beat l).silent then v + 2 ^ l else v) 0)
  | .mirrorStatus x => (s.ctx x).job.mirrorWord
  | .sealLedger => s.sealWord
  | .errStatus => mkWord [(0, 16, satN 16 (s.ucOpen .module)), (16, 16, f.lost), (32, 32, (s.queue 0 0x180).seqNext)]
  | .errCounts => mkWord [(0, 16, f.faCount), (16, 16, f.ucCount), (32, 32, f.ceCount)]
  | .errCfg => mkWord [(0, 11, f.vector), (16, 1, b2n f.vectorEn), (17, 2, f.minClass)]
  | .errLastFa => f.lastFa
  | .errLastFaSteep => f.lastFaSteep
  | .resetStatus => s.resetWord
  | .resetLimits => mkWord ((List.range 7).map fun k => (8 * k, 8, f.limits.getD k 0))
  | .resetCounts => s.resetCountsWord
  | .watchdogLog => f.watchdogLog
  | .blendStatus => f.blend.word s.seconds
  | .marginG g => s.marginGWord g
  | .marginL l => s.marginLWord l
  | .modelStatus x m => ((s.ctx x).model m).shown
  | .infCounts => mkWord [(0, 16, s.infDuplicates), (16, 16, s.infRetries), (32, 32, s.infMib)]
  | .kvStatus x => (s.ctx x).kv.shown
  | .bootStatus => s.trust.bootWord
  | .keyStatus => s.trust.keyWord
  | .memStatus => s.memWord
  | .memEccCount i =>
    let e := s.mem.ecc.get {} i
    if 40 ≤ i then 0#64 else mkWord [(0, 8, e.lastSyndrome), (16, 16, e.ue), (32, 32, e.ce)]
  | .memUeLog => s.mem.ueLog
  | .scrubStatus => s.mem.scrubWord
  | .eccInject => s.mem.injectWord
  | .ctxWindow x => (s.ctx x).windowWord
  | .hostStatus => s.host.statusWord
  | .hostEvents => mkWord [(0, 16, s.host.linkDowns), (16, 16, s.host.flrs), (32, 16, s.host.msiDropped), (48, 16, s.host.dmaErrors)]
  | .hostAlert => s.host.alertWord
  | .ppsCapture => mkWord [(0, 20, s.host.ppsPhase), (20, 44, s.host.ppsSteep)]
  | .mgmtStatus => s.mgmtWord
  | .ppsCtrl => mkWord [(0, 1, b2n s.host.ppsEn)]
  | .ctxEventVector x => mkWord [(0, 11, s.vectorField fn (s.ctx x).eventVector), (16, 1, b2n (s.ctx x).eventVectorEn)]
  | .pwrStatus => s.pwrWord
  | .pwrInput => mkWord [(0, 16, s.power.avgW), (16, 16, s.power.sampleW), (48, 16, s.power.volts)]
  | .energySteep => mkWord [(0, 32, s.power.lastEnergy), (32, 32, s.power.lastSteep)]
  | .thermalStatus => s.thermalWord
  | .throttleEvents => mkWord [(0, 16, s.power.evPeak), (16, 16, s.power.evPower), (32, 16, s.power.evAdjacent), (48, 16, s.power.evThermal)]
  | .regionG g => (s.region g).word
  | .cyStatus c => (s.caddy c).word c
  | .cyCounts c => mkWord [(0, 16, (s.caddy c).rootsFailed), (16, 16, (s.caddy c).refreshes), (32, 32, (s.caddy c).tiles)]
  | .cyEvents c => mkWord [(0, 8, (s.caddy c).iterMax), (16, 16, (s.caddy c).stale), (32, 16, (s.caddy c).nonfinite), (48, 16, (s.caddy c).skewBlocks)]
  | .cyCycles c => BitVec.ofNat 64 (s.caddy c).cycles
  | .cySkewLog c => (s.caddy c).skewLog
  | .updVersion x =>
    let u := (s.ctx x).upd
    mkWord [(0, 1, u.slot), (8, 1, b2n u.prepared), (16, 48, u.version)]
  | .updStep x => BitVec.ofNat 64 (s.ctx x).upd.step
  | .updSets x => mkWord [(0, 13, (s.ctx x).upd.sets.length)]
  | .fabricId => s.fabric.idWord
  | .fabricPath w => if s.fabric.dnValid then (pathWords s.fabric.path).getD w 0#64 else 0#64
  | .routeStatus => s.routeWord
  | .routeCommitAt => match s.fabric.commit with
    | some c => BitVec.ofNat 64 c.2.1
    | none => BitVec.allOnes 64
  | .routeEvents => mkWord [(0, 16, s.fabric.rerouted), (16, 16, s.fabric.stale), (32, 16, s.fabric.loops), (48, 16, s.fabric.misses)]
  | .collStatus => s.collWord
  | .collEvents => mkWord [(0, 16, s.fabric.mismatches), (16, 16, s.fabric.duplicates), (32, 16, s.fabric.collTimeouts), (48, 16, s.fabric.collOps)]
  | .linkStatus l => s.linkWord l
  | .linkErrors l => mkWord [(0, 16, (s.link l).replays), (16, 16, (s.link l).fecUncorr), (32, 32, (s.link l).fecSymbols)]
  | .linkDelay l => mkWord [(0, 32, (s.link l).oneWayNs), (32, 32, (s.link l).rttNs)]
  | .linkAlloc l => (s.link l).allocWord
  | .linkAvail l => (s.link l).availWord
  | .farStatus l => if (s.link l).far.on then (s.link l).far.statusWord s.now else 0#64
  | .farWindow l =>
    let v := (s.link l).far
    if v.on then mkWord [(0, 21, v.w), (21, 21, v.held.length), (42, 22, v.rttRef / 100)] else 0#64
  | .farSiteTime l =>
    let v := (s.link l).far
    if v.on then mkWord [(0, 20, v.remotePhase), (20, 4, v.site), (24, 40, v.remoteCount)] else 0#64
  | .farKeys l =>
    let v := (s.link l).far
    match v.keys.find v.sendSlot with
    | some k => if v.on then mkWord [(32, 32, satN 32 (k.sent / 2 ^ 20))] else 0#64
    | none => 0#64
  | .farErrors l =>
    let v := (s.link l).far
    if v.on then mkWord [(0, 16, v.resizes), (16, 16, v.restarts), (32, 16, v.naks), (48, 16, v.authFails)] else 0#64
  | .outerStatus x => s.outerWord x
  | .outerCounts x =>
    let o := (s.ctx x).outer
    mkWord [(0, 16, o.reanchors), (16, 16, o.skips), (32, 16, o.tooLate), (48, 16, o.lates)]
  | .mbReqData _ _ => 0#64
  | .mbDoorbell _ => 0#64
  | .mbStatus n => s.mbStatusWord n
  | .mbCompData n w => s.mbCompWord n w
  | .mbCompAck _ => 0#64
  | .mbCfg n => mkWord [(0, 11, s.vectorField fn (s.mailbox n).vector), (16, 1, b2n (s.mailbox n).vectorEn)]
  | .mxStatus k => s.mxWord k
  | .mxCycles k => BitVec.ofNat 64 (s.core k).mxCycles
  | .mxCellMacs k => BitVec.ofNat 64 (s.core k).cellMacs
  | .strainerStatus k =>
    let c := s.core k
    mkWord [(0, 1, 1), (1, 1, b2n c.fail), (2, 1, b2n c.injectSeen), (16, 16, c.pourFails), (32, 16, c.colFails), (48, 16, c.rowFails)]
  | .strainerLog k => (s.core k).log
  | .strainerInject k =>
    let c := s.core k
    mkWord [(0, 1, b2n c.injArm), (3, 5, c.injBit), (8, 7, c.injCol), (16, 6, c.injRow)]
  | .accStatus k => (s.core k).accWord (s.ustate (.core k) == .fenced)
  | .accEvents k =>
    let c := s.core k
    mkWord [(0, 16, c.longPasses), (16, 16, c.pourStalls), (32, 16, c.overflows), (48, 16, c.repeated)]
  | .vxStatus k => s.vxWord k
  | .vxFlags k => BitVec.ofNat 64 ((s.core k).vec.flags % 128)
  | .vxCycles k => BitVec.ofNat 64 (s.core k).vxCycles
  | .vxFault k =>
    let v := (s.core k).vxFault
    mkWord [(0, 3, v.2.2.2), (8, 23, v.2.2.1), (36, 12, v.2.1), (48, 16, v.1)]
  | .qpoolCellsA p => mkWord [(0, 19, (s.pool p).snap.free), (32, 19, (s.pool p).snap.queued)]
  | .qpoolCellsB p => mkWord [(0, 19, (s.pool p).snap.opened), (32, 19, (s.pool p).snap.held)]
  | .qpoolStatus p => (s.pool p).statusWord
  | .qpoolEcc p => mkWord [(0, 8, (s.pool p).lastSyndrome), (16, 16, (s.pool p).ue), (32, 32, (s.pool p).ce)]
  | .qpoolSweep p => mkWord [(0, 16, (s.pool p).resetQueues), (16, 16, (s.pool p).recovered), (32, 32, (s.pool p).sweepSteep)]
  | .queueCfg p q => (s.queue p q).cfgWord
  | .queueStatus p q => (s.queue p q).statusWord
  | .queueCells p q => mkWord [(0, 19, (s.queue p q).queuedCells), (32, 19, (s.queue p q).heldCells)]
  | .queueEvents p q => mkWord [(0, 16, (s.queue p q).waits), (16, 16, (s.queue p q).badPackets), (32, 32, (s.queue p q).notices)]

/-! ### What a read clears -/

def State.updFaults (s : State) (f : Faults → Faults) : State := { s with faults := f s.faults }
def State.updFabric (s : State) (f : Fabric → Fabric) : State := { s with fabric := f s.fabric }
def State.updSteep (s : State) (f : Steep → Steep) : State := { s with steep := f s.steep }
def State.updHost (s : State) (f : HostIf → HostIf) : State := { s with host := f s.host }
def State.updPower (s : State) (f : Power → Power) : State := { s with power := f s.power }

/-- A 64-bit read clears the RC fields of a register (R11, R15); LOW_WATER takes the free count instead (R367). -/
def State.regClear (s : State) (r : Reg) : State :=
  match r with
  | .auditStatus => s.updSteep fun t => { t with auditMismatches := 0 }
  | .deadlineStatus => s.updSteep fun t => { t with worstUs := 0, otherDeadlines := 0, sliceUc := 0, sliceCe := 0 }
  | .scaleStatus x => s.updCtx x fun c => { c with satBlocks := 0, nanBlocks := 0, limitHits := 0 }
  | .commitCounts x => s.updJob x fun j => { j with commits := 0, aborts := 0, breaches := 0, queries := 0 }
  | .errStatus => s.updFaults fun f => { f with lost := 0 }
  | .errCounts => s.updFaults fun f => { f with ceCount := 0, ucCount := 0, faCount := 0 }
  | .resetStatus => s.updFaults fun f => { f with resets := 0, timeouts := 0 }
  | .infCounts => { s with infMib := 0, infRetries := 0, infDuplicates := 0 }
  | .keyStatus => { s with trust := { s.trust with delivered := 0 } }
  | .memEccCount i =>
    let e := s.mem.ecc.get {} i
    if 40 ≤ i then s else { s with mem := { s.mem with ecc := s.mem.ecc.set i { e with ce := 0, ue := 0 } } }
  | .hostEvents => s.updHost fun h => { h with dmaErrors := 0, msiDropped := 0, flrs := 0, linkDowns := 0 }
  | .throttleEvents => s.updPower fun p => { p with evThermal := 0, evAdjacent := 0, evPower := 0, evPeak := 0 }
  | .cyCounts c => s.updCaddy c fun q => { q with tiles := 0, refreshes := 0, rootsFailed := 0 }
  | .cyEvents c => s.updCaddy c fun q => { q with skewBlocks := 0, nonfinite := 0, stale := 0, iterMax := 0 }
  | .cyCycles c => s.updCaddy c fun q => { q with cycles := 0 }
  | .routeEvents => s.updFabric fun f => { f with misses := 0, loops := 0, stale := 0, rerouted := 0 }
  | .collEvents => s.updFabric fun f => { f with collOps := 0, collTimeouts := 0, duplicates := 0, mismatches := 0 }
  | .linkErrors l => s.updLink l fun k => { k with fecSymbols := 0, fecUncorr := 0, replays := 0 }
  | .farErrors l => if (s.link l).far.on then s.updFar l fun f => { f with authFails := 0, naks := 0, restarts := 0, resizes := 0 } else s
  | .outerCounts x => s.updOuter x fun o => { o with lates := 0, tooLate := 0, skips := 0, reanchors := 0 }
  | .mxCycles k => s.updCore k fun c => { c with mxCycles := 0 }
  | .mxCellMacs k => s.updCore k fun c => { c with cellMacs := 0 }
  | .strainerStatus k => s.updCore k fun c => { c with rowFails := 0, colFails := 0, pourFails := 0 }
  | .accEvents k => s.updCore k fun c => { c with repeated := 0, overflows := 0, pourStalls := 0, longPasses := 0 }
  | .vxCycles k => s.updCore k fun c => { c with vxCycles := 0 }
  | .vxFault k => s.updCore k fun c => { c with vxFault := (0, 0, 0, 0) }
  | .qpoolStatus p => s.setPool p { s.pool p with lowWater := (s.pool p).free }
  | .qpoolEcc p => s.setPool p { s.pool p with ce := 0, ue := 0 }
  | .queueEvents p q => s.updQueue p q fun v => { v with notices := 0, badPackets := 0, waits := 0 }
  | .ctxEventVector _ => { s with fresh := s.fresh + 1 }
  | .mbCfg _ => { s with fresh := s.fresh + 1 }
  | _ => s

end Sys2Proof.Machine
end

