-- ==== Sys2Proof/Machine/HostSpaces.lean ====
section
/-! DEFINITION. Machine/HostSpaces.lean: the spaces of the endpoint beside the registers: the configuration header of a
function, its MSI-X capability, and its MSI-X table and pending bits in BAR2/3 (R1, R347, R769, R770, R774, R778, R780,
R782). An access names them by its offset: from 2^32 on BAR2/3, from 2^33 on configuration space (log 83). -/
namespace Sys2Proof.Machine

/-- First offset of BAR2/3 in an access (log 83). -/
def barTwo : Nat := 2 ^ 32

/-- First offset of configuration space in an access (log 83). -/
def cfgSpace : Nat := 2 ^ 33

/-- The access reaches a space other than the registers. -/
def besideRegs (a : Access) : Bool := barTwo ≤ a.off

/-- The half of a register that a 32-bit access reaches, or the whole of it; none for an access of another width or
alignment (R16). -/
def accessHalf (a : Access) : Option Half :=
  if a.width = 64 && a.off % 8 = 0 then some .full
  else if a.width = 32 && a.off % 8 = 0 then some .low
  else if a.width = 32 && a.off % 8 = 4 then some .high
  else none

/-- The data of a write in their places within the register (R15). -/
def placed (h : Half) (v : W64) : W64 :=
  match h with
  | .full => v
  | .low => BitVec.ofNat 64 (fld v 31 0)
  | .high => BitVec.ofNat 64 (fld v 31 0 * 2 ^ 32)


/-! ### The MSI-X table (R347, R774, R780, R782) -/

/-- Entries in a function's table (R774). -/
def vectorsOf (fn : Nat) : Nat := if fn = 0 then 1024 else 128

/-- First module index of a function's entries (R780). -/
def firstVector (fn : Nat) : Nat := if fn = 0 then 0 else 1024 + 128 * (fn - 1)

/-- Offset of the pending bits in BAR2/3 (R774). -/
def pbaOff (fn : Nat) : Nat := if fn = 0 then 0x4000 else 0x1000

/-- Sends the pending messages that no mask holds any longer (R347). -/
def State.msixRelease (s : State) : State :=
  let h := s.host
  let goes (v : Nat) : Bool := !(h.holdsBack v) && h.fnOn (vectorFn v) && h.msixEnabled.contains (vectorFn v)
  forL (h.msixPending.filter goes) (fun v s => s.emit (.msix v))
    { s with host := { h with msixPending := h.msixPending.filter fun v => !(goes v) } }

/-- A write of the table: the address and data words are kept, and the vector control's mask bit takes effect. -/
def State.msixWrite (s : State) (fn o : Nat) (hf : Half) (w : W64) : State :=
  let v := firstVector fn + o / 16
  if vectorsOf fn ≤ o / 16 then s
  else if o % 16 < 8 then
    s.updHost fun h => { h with msixTable := h.msixTable.set (2 * v) (mergeHalf hf (h.msixTable.get 0#64 (2 * v)) w) }
  else
    let n := mergeHalf hf (s.host.msixWord v) w
    (s.updHost fun h => { h with
      msixTable := h.msixTable.set (2 * v + 1) (BitVec.ofNat 64 (fld n 31 0))
      unmasked := (h.unmasked.filter fun e => e ≠ v) ++ (if bitAt n 32 then [] else [v]) }).msixRelease

/-- What a read of BAR2/3 gives: an entry's words, 64 pending bits, or zero. -/
def State.msixRead (s : State) (fn o : Nat) : W64 :=
  let v := firstVector fn + o / 16
  if o / 16 < vectorsOf fn then (if o % 16 < 8 then s.host.msixTable.get 0#64 (2 * v) else s.host.msixWord v)
  else if pbaOff fn ≤ o && (o - pbaOff fn) * 8 < vectorsOf fn then
    ((List.range 64).filter fun b => s.host.msixPending.contains (firstVector fn + (o - pbaOff fn) / 8 * 64 + b)).foldl
      (fun n b => n ||| BitVec.ofNat 64 (2 ^ b)) 0#64
  else 0#64

/-! ### The configuration header (R1, R769, R778) -/

/-- A dword of a function's configuration space: what R769 fixes, Bus Master Enable and the MSI-X controls; the rest is free. -/
def State.cfgRead (s : State) (fn d : Nat) : Nat :=
  let free := Config.cfgDword fn d
  if d = 0 then (if fn = 0 then 0x5120 else 0x5121) * 65536 + 0x1F3C
  else if d = 1 then ((free.setWidth 64 &&& ~~~(4#64)) ||| BitVec.ofNat 64 (4 * b2n (s.host.busMaster.contains fn))).toNat
  else if d = 2 then 0x120000 * 256 + s.host.revision.toNat
  else if d = 11 then s.trust.subId * 65536 + s.trust.subVendor
  else if d = Config.msixCap then
    ((free.setWidth 64 &&& ~~~(0xC0000000#64)) ||| mkWord [(31, 1, b2n (s.host.msixEnabled.contains fn)), (30, 1, b2n (s.host.fnMasked.contains fn))]).toNat
  else free.toNat

/-- A function is put into a list or taken out of it. -/
def listed (l : List Nat) (fn : Nat) (on : Bool) : List Nat := (l.filter fun f => f ≠ fn) ++ (if on then [fn] else [])

/-- A write of a dword of configuration space: Bus Master Enable (R778), MSI-X Enable and Function Mask (R347, R782). -/
def State.cfgWrite (s : State) (fn d v : Nat) : State :=
  if d = 1 then s.updHost fun h => { h with busMaster := listed h.busMaster fn (Nat.testBit v 2) }
  else if d = Config.msixCap then
    (s.updHost fun h => { h with
      msixEnabled := listed h.msixEnabled fn (Nat.testBit v 31)
      fnMasked := listed h.fnMasked fn (Nat.testBit v 30) }).msixRelease
  else s

/-- An access beside the registers. BAR2/3 is reached as BAR0/1 is (R784); configuration space is reached in dwords while
the function is present. Nothing else answers. -/
def State.besideAccess (s : State) (a : Access) (served : Bool) (half : Option Half) (write : Bool) : State :=
  if a.off < cfgSpace then
    match half with
    | none => s
    | some h =>
      let o := (a.off - barTwo) / 8 * 8
      if !served then s
      else if write then s.msixWrite a.fn o h (placed h a.value)
      else { s with readData := halfOf h (s.msixRead a.fn o) }
  else if s.dark || 8 < a.fn || !(s.host.fnOn a.fn) || a.width ≠ 32 || a.off % 4 ≠ 0 then s
  else
    let d := (a.off - cfgSpace) / 4
    if write then s.cfgWrite a.fn d (fld a.value 31 0) else { s with readData := BitVec.ofNat 64 (s.cfgRead a.fn d) }

end Sys2Proof.Machine
end

