-- ==== Sys2Proof/Machine/Regs.lean ====
section
/-! DEFINITION. Machine/Regs.lean: register accesses from the host: which register an access reaches, writes by the type of
each field, reads that clear, and accesses that reach no register (R10 to R16, R377, R776 to R781, R784, R785). -/
namespace Sys2Proof.Machine

/-! ### Writes -/

/-- The low half is reached. -/
def hasLow : Half → Bool
  | .high => false
  | _ => true

/-- The high half is reached. -/
def hasHigh : Half → Bool
  | .low => false
  | _ => true

/-- A Boolean that a W1C bit shows, after a write of `w` (R11). -/
def w1c (old : Bool) (w : W64) (bit : Nat) : Bool := old && !bitAt w bit

/-- W1C bits of AUDIT_STATUS (R78). -/
def Steep.clearAudit (t : Steep) (w : W64) : Steep :=
  { t with
    auditOverrun := w1c t.auditOverrun w 0
    auditCredits := w1c t.auditCredits w 1
    auditCells := w1c t.auditCells w 2
    auditCommit := w1c t.auditCommit w 3
    auditMailbox := w1c t.auditMailbox w 4
    auditEnergy := w1c t.auditEnergy w 5 }

/-- PPS_CTRL (R793, R795): the 2 s without an edge count from the setting of PPS_EN. -/
def HostIf.setPps (h : HostIf) (on : Bool) (tick : Nat) : HostIf :=
  { h with ppsEn := on, ppsAt := if on && !h.ppsEn then some tick else h.ppsAt }

/-- HOST_ALERT (R795): bits [4:0] clear, MASK is set. -/
def HostIf.writeAlert (h : HostIf) (hf : Half) (w : W64) : HostIf :=
  { h with
    alertFa := w1c h.alertFa w 0
    alertUc := w1c h.alertUc w 1
    alertThermal := w1c h.alertThermal w 2
    alertOos := w1c h.alertOos w 3
    alertPps := w1c h.alertPps w 4
    alertMask := if hasHigh hf then fld w 36 32 else h.alertMask }

/-- CTX_EVENT_VECTOR_Xn (R781, R783); the sink of the event queue follows at step 9 of the next boundary. -/
def State.writeEventVector (s : State) (fn x off : Nat) (w : W64) : State :=
  match vectorIn fn (fld w 10 0) with
  | none => s.regAccess off
  | some n => s.updCtx x fun c => { c with eventVectorEn := bitAt w 16, eventVector := n }

/-- A request word of a mailbox (R371); the register's own half only (R15). -/
def State.writeRequest (s : State) (mb w : Nat) (h : Half) (v : W64) : State :=
  let m := s.mailbox mb
  s.setMailbox mb { m with request := m.request.set w (mergeHalf h (m.request.get 0#64 w) v) }

/-- MB_CFG (R376, R781): VECTOR and VECTOR_EN lie in the low half, RESET in the high half. -/
def State.writeMbCfg (s : State) (fn mb : Nat) (h : Half) (w : W64) : State :=
  match h with
  | .high => s.guardMailbox fn mb (mbOff mb 0x308) fun s => if bitAt w 32 then s.resetMailbox mb else s
  | _ => after (execMbCfgReset fn mb w s) s

/-- A write of `w`, whose data stand in their places, to part `h` of a register that a function reaches at offset `off`
(R11): RW fields are set, W1C bits clear, WO fields act; RO and RC fields ignore it. -/
def State.regWrite (s : State) (fn off : Nat) (r : Reg) (h : Half) (w : W64) : State :=
  match r with
  | .steepPeriod => after (execSteepPeriodWrite h w s) s
  | .steepSwitchAt => after (execSteepSwitchAtWrite h w s) s
  | .timeStatus => s.updSteep fun t => { t with lost := w1c t.lost w 1 }
  | .auditStatus => s.updSteep fun t => t.clearAudit w
  | .scaleStatus x => s.updCtx x fun c => { c with underflowSeen := w1c c.underflowSeen w 1 }
  | .errCfg =>
    if hasLow h then s.updFaults fun f => { f with vector := fld w 10 0, vectorEn := bitAt w 16, minClass := fld w 18 17 } else s
  | .memUeLog => if bitAt w 63 then { s with mem := { s.mem with ueLog := s.mem.ueLog &&& 0x7FFFFFFFFFFFFFFF#64 } } else s
  | .eccInject => s.eccInject h w
  | .hostAlert => s.updHost fun q => q.writeAlert h w
  | .ppsCtrl => if hasLow h then s.updHost fun q => q.setPps (bitAt w 0) s.steep.ticks else s
  | .ctxEventVector x => if hasLow h then s.writeEventVector fn x off w else s
  | .pwrStatus => s.updPower fun p => { p with inputLow := w1c p.inputLow w 32 }
  | .thermalStatus => s.updPower fun p => { p with warn := w1c p.warn w 0, critical := w1c p.critical w 1, tripSeen := w1c p.tripSeen w 2 }
  | .cySkewLog c => if bitAt w 0 then s.updCaddy c fun q => { q with skewLog := q.skewLog &&& ~~~(1#64) } else s
  | .mbReqData mb i => s.guardMailbox fn mb (mbOff mb (8 * i)) fun s => s.writeRequest mb i h w
  | .mbDoorbell mb => if hasLow h then after (execMbDoorbell fn mb w s) s else s
  | .mbStatus mb => s.guardMailbox fn mb (mbOff mb 0x108) fun s =>
      s.setMailbox mb { s.mailbox mb with doorbellError := w1c (s.mailbox mb).doorbellError w 32 }
  | .mbCompData mb i => s.guardMailbox fn mb (mbOff mb (0x200 + 8 * i)) id
  | .mbCompAck mb => if hasLow h then after (execMbCompAck fn mb w s) s else s
  | .mbCfg mb => s.writeMbCfg fn mb h w
  | .strainerStatus k => s.updCore k fun c => { c with fail := w1c c.fail w 1, injectSeen := w1c c.injectSeen w 2 }
  | .strainerInject k => if hasLow h then s.strainerInject k w else s
  | .vxFlags k => s.updCore k fun c => { c with vec := { c.vec with flags := (BitVec.ofNat 64 c.vec.flags &&& ~~~(w &&& 127#64)).toNat } }
  | .qpoolStatus p => s.setPool p { s.pool p with mismatch := w1c (s.pool p).mismatch w 20 }
  | _ => s

/-! ### Accesses -/

/-- Reads the register: a half stands in the low 32 bits (R15); a 64-bit read clears RC fields (R11). The steep's two
registers have reads of their own (R47). -/
def State.readReg (s : State) (fn : Nat) (r : Reg) (h : Half) : State :=
  match r with
  | .steepPhase => after (execSteepPhaseRead h s) s
  | .steepCount => after (execSteepCountRead h s) s
  | _ =>
    let q : State := { s with readData := halfOf h (s.regValue fn r) }
    match h with
    | .full => q.regClear r
    | _ => q

/-- A function whose accesses reach the module: it is present and enabled, it is not in FLR, and BARs are served (R773,
R784, R785). -/
def State.serves (s : State) (fn : Nat) : Bool :=
  !s.dark && !s.host.d3hot && fn ≤ 8 && s.host.fnOn fn && !(s.host.flr.contains fn)

/-- One access: of a register (R10 to R16), or beside the registers. One that reaches no register reads zero or is ignored, with a record of its
offset. -/
def State.access (s : State) (a : Access) (write : Bool) : State :=
  if besideRegs a then s.besideAccess a (s.serves a.fn) (accessHalf a) write
  else if !(s.serves a.fn) then s
  else match (accessHalf a).bind fun h => (reaches a.fn (a.off / 8 * 8)).map fun r => (h, r) with
    | none => (if write then s else { s with readData := 0#64 }).regAccess a.off
    | some p => if write then s.regWrite a.fn a.off p.2 p.1 (placed p.1 a.value) else s.readReg a.fn p.2 p.1

/-! ### The rows -/

/-- REG_WRITE (R11 to R16). -/
def execRegWrite (a : Access) (s : State) : Host.Outcome State Fault Refusal := .next (s.access a true)

/-- RC_REGISTER_READ (R11, R15): a read of a register, which clears what is RC in it when it is a 64-bit read. -/
def execRcRegisterRead (a : Access) (s : State) : Host.Outcome State Fault Refusal := .next (s.access a false)

/-- UNMAPPED_ACCESS (R16): an access of a bad width or alignment, or to an offset that holds no register. -/
def execUnmappedAccess (a : Access) (write : Bool) (s : State) : Host.Outcome State Fault Refusal :=
  if besideRegs a then .next s
  else match (accessHalf a).bind fun _ => reaches a.fn (a.off / 8 * 8) with
    | none => .next (s.access a write)
    | some _ => .next s

/-- STRAINER_INJECT_ARM (R189, R190): the fields lie in the low half. -/
def execStrainerInjectArm (core : Nat) (h : Half) (v : W64) (s : State) : Host.Outcome State Fault Refusal :=
  if 512 ≤ core || s.dark || !(hasLow h) then .next s else .next (s.strainerInject core v)

end Sys2Proof.Machine
end

