-- ==== Sys2Proof/Machine/VectorFp.lean ====
section
/-! DEFINITION. Machine/VectorFp.lean: the meanings of the FP32 and BF16 instructions of a vector program and of its
conversions (R263 to R267, R272 to R275). -/
namespace Sys2Proof.Machine

/-- A lane of a source register as a code. -/
def VIn.a (x : VIn) (i : Nat) : Nat := (x.vec.lane x.f.va i).toNat
def VIn.b (x : VIn) (i : Nat) : Nat := (x.vec.lane x.f.vb i).toNat
def VIn.c (x : VIn) (i : Nat) : Nat := (x.vec.lane x.f.vc i).toNat

/-- A result as a lane and its flags. -/
def laneRes (r : Res) : W32 × Nat := (BitVec.ofNat 32 r.1, r.2.bits)

/-- The same without flags, for the rows whose Flags column is empty. -/
def laneQuiet (r : Res) : W32 × Nat := (BitVec.ofNat 32 r.1, 0)

/-! ### FP32 -/

/-- VFADD. -/
def execVfadd (core : Nat) (w : W64) (s : State) : Host.Outcome State Fault Refusal :=
  .next (s.vector core w 0x20 fun x => x.each fun i => laneRes (fadd Fmts.fp32 (x.a i) (x.b i)))
/-- VFSUB. -/
def execVfsub (core : Nat) (w : W64) (s : State) : Host.Outcome State Fault Refusal :=
  .next (s.vector core w 0x21 fun x => x.each fun i => laneRes (fsub Fmts.fp32 (x.a i) (x.b i)))
/-- VFMUL. -/
def execVfmul (core : Nat) (w : W64) (s : State) : Host.Outcome State Fault Refusal :=
  .next (s.vector core w 0x22 fun x => x.each fun i => laneRes (fmul Fmts.fp32 (x.a i) (x.b i)))
/-- VFMA. -/
def execVfma (core : Nat) (w : W64) (s : State) : Host.Outcome State Fault Refusal :=
  .next (s.vector core w 0x23 fun x => x.each fun i => laneRes (ffma Fmts.fp32 (x.a i) (x.b i) (x.c i)))
/-- VFDIV. -/
def execVfdiv (core : Nat) (w : W64) (s : State) : Host.Outcome State Fault Refusal :=
  .next (s.vector core w 0x24 fun x => x.each fun i => laneRes (fdiv Fmts.fp32 (x.a i) (x.b i)))
/-- VFSQRT. -/
def execVfsqrt (core : Nat) (w : W64) (s : State) : Host.Outcome State Fault Refusal :=
  .next (s.vector core w 0x25 fun x => x.each fun i => laneRes (fsqrt Fmts.fp32 (x.a i)))
/-- VFRSQRT. -/
def execVfrsqrt (core : Nat) (w : W64) (s : State) : Host.Outcome State Fault Refusal :=
  .next (s.vector core w 0x26 fun x => x.each fun i => laneRes (frsqrt Fmts.fp32 (x.a i)))

/-- The order of VFMAX and VFMIN: as numbers, with −0 below +0 (R266). -/
def below32 (a b : Nat) : Bool :=
  let x := Fmts.fp32.decode a
  let y := Fmts.fp32.decode b
  if x.isZero && y.isZero then a > b else x.lt y

/-- The larger, and the smaller, of two FP32 codes; NaN where either is (R266). -/
def fmax32 (a b : Nat) : Nat :=
  if (Fmts.fp32.decode a).isNan || (Fmts.fp32.decode b).isNan then nan32.toNat else if below32 a b then b else a
def fmin32 (a b : Nat) : Nat :=
  if (Fmts.fp32.decode a).isNan || (Fmts.fp32.decode b).isNan then nan32.toNat else if below32 b a then b else a

/-- VFMAX. -/
def execVfmax (core : Nat) (w : W64) (s : State) : Host.Outcome State Fault Refusal :=
  .next (s.vector core w 0x27 fun x => x.each fun i => (BitVec.ofNat 32 (fmax32 (x.a i) (x.b i)), 0))
/-- VFMIN. -/
def execVfmin (core : Nat) (w : W64) (s : State) : Host.Outcome State Fault Refusal :=
  .next (s.vector core w 0x28 fun x => x.each fun i => (BitVec.ofNat 32 (fmin32 (x.a i) (x.b i)), 0))

/-- A change of the sign bit alone; a NaN is written as the canonical one (R266). -/
def signOp (a : Nat) (v : Nat) : W32 := if (Fmts.fp32.decode a).isNan then nan32 else BitVec.ofNat 32 v

/-- VFABS. -/
def execVfabs (core : Nat) (w : W64) (s : State) : Host.Outcome State Fault Refusal :=
  .next (s.vector core w 0x29 fun x => x.each fun i => (signOp (x.a i) (x.a i % 2 ^ 31), 0))
/-- VFNEG. -/
def execVfneg (core : Nat) (w : W64) (s : State) : Host.Outcome State Fault Refusal :=
  .next (s.vector core w 0x2A fun x => x.each fun i => (signOp (x.a i) (x.a i + 2 ^ 31), 0))
/-- VFEXP. -/
def execVfexp (core : Nat) (w : W64) (s : State) : Host.Outcome State Fault Refusal :=
  .next (s.vector core w 0x2B fun x => x.each fun i => laneRes (fexp Fmts.fp32 (x.a i)))
/-- VFLOG. -/
def execVflog (core : Nat) (w : W64) (s : State) : Host.Outcome State Fault Refusal :=
  .next (s.vector core w 0x2C fun x => x.each fun i => laneRes (fln Fmts.fp32 (x.a i)))
/-- VFTANH (R267); its row names no flag. -/
def execVftanh (core : Nat) (w : W64) (s : State) : Host.Outcome State Fault Refusal :=
  .next (s.vector core w 0x2D fun x => x.each fun i => laneQuiet (roundTo Fmts.fp32 [] (Fmts.fp32.decode (x.a i)).tanh))
/-- VFSIG (R267). -/
def execVfsig (core : Nat) (w : W64) (s : State) : Host.Outcome State Fault Refusal :=
  .next (s.vector core w 0x2E fun x => x.each fun i =>
    let v := Fmts.fp32.decode (x.a i)
    laneRes (roundTo Fmts.fp32 [v] v.sigm))

/-- The relations of VFCMP (R263, R266). -/
def frel (sel a b : Nat) : Bool :=
  let x := Fmts.fp32.decode a
  let y := Fmts.fp32.decode b
  match sel with
  | 0 => x.eqv y
  | 1 => x.lt y
  | 2 => x.lt y || x.eqv y
  | _ => x.isNan || y.isNan

/-- VFCMP. -/
def execVfcmp (core : Nat) (w : W64) (s : State) : Host.Outcome State Fault Refusal :=
  .next (s.vector core w 0x2F fun x => x.eachBit fun i => frel x.f.imm (x.a i) (x.b i))

/-! ### BF16: two elements in each lane (R245, R265) -/

/-- Element j of a lane of n-bit elements. -/
def elem (n v j : Nat) : Nat := v / 2 ^ (n * j) % 2 ^ n

/-- The lane that elements make, with the flags of all of them. -/
def joinElems (n : Nat) (rs : List (Nat × Nat)) : W32 × Nat :=
  (BitVec.ofNat 32 (packNat n (rs.map (·.1))), rs.foldl (fun a r => a ||| r.2) 0)

/-- A BF16 instruction of independent elements. -/
def VIn.eachBf (x : VIn) (g : Nat → Nat → Nat → Res) : VOut :=
  x.each fun i => joinElems 16 ((List.range 2).map fun j =>
    let r := g (elem 16 (x.a i) j) (elem 16 (x.b i) j) (elem 16 (x.c i) j)
    (r.1, r.2.bits))

/-- VBADD. -/
def execVbadd (core : Nat) (w : W64) (s : State) : Host.Outcome State Fault Refusal :=
  .next (s.vector core w 0x30 fun x => x.eachBf fun a b _ => fadd Fmts.bf16 a b)
/-- VBMUL. -/
def execVbmul (core : Nat) (w : W64) (s : State) : Host.Outcome State Fault Refusal :=
  .next (s.vector core w 0x31 fun x => x.eachBf fun a b _ => fmul Fmts.bf16 a b)
/-- VBFMA. -/
def execVbfma (core : Nat) (w : W64) (s : State) : Host.Outcome State Fault Refusal :=
  .next (s.vector core w 0x32 fun x => x.eachBf fun a b c => ffma Fmts.bf16 a b c)

/-- VBPACK (R263, R272). -/
def execVbpack (core : Nat) (w : W64) (s : State) : Host.Outcome State Fault Refusal :=
  .next (s.vector core w 0x33 fun x => x.each fun i =>
    let cv (v j : Nat) : Nat × Nat :=
      let r := Fmts.bf16.encodeIeee (x.rnd (2 * i + j)) (Fmts.fp32.decode v)
      (r.1, r.2.bits)
    joinElems 16 [cv (x.a i) 0, cv (x.b i) 1])

/-! ### Conversions (R272 to R275) -/

/-- A value converted to FP32: a NaN keeps no flag, since R99 gives it none (R249). -/
def toFp32 (v : Val) : Res := Fmts.fp32.encodeIeee .nearest v

/-- The formats that FMT names in VCVT, VUNPK and VPACK (R220). -/
def vecFormat (fmt : Nat) : Format :=
  match fmt with
  | 0 => .fp4
  | 1 => .fp6g
  | 2 => .fp6f
  | 3 => .fp8f
  | 4 => .fp8g
  | 5 => .bf16
  | 7 => .int8
  | 8 => .int16
  | _ => .int32

/-- VCVT of one lane, in place (R273). -/
def VIn.cvt (x : VIn) (i : Nat) : W32 × Nat :=
  let v := (x.vec.lane x.f.vd i).toNat
  let half := x.f.imm / 2
  let f := vecFormat x.f.fmt
  if x.f.imm % 2 = 0 then
    let src := Fmts.fp32.decode v
    if f = .bf16 then
      let r := Fmts.bf16.encodeIeee (x.rnd i) src
      (BitVec.ofNat 32 (if half = 0 then v / 65536 * 65536 + r.1 else r.1 * 65536 + v % 65536), r.2.bits)
    else
      let r := encodeInt f.bits (x.rnd i) src
      (BitVec.ofInt 32 r.1, r.2.bits)
  else if f = .bf16 then laneRes (toFp32 (Fmts.bf16.decode (elem 16 v half)))
  else laneRes (toFp32 (f.value (v % 2 ^ f.bits)))

/-- VCVT (R273). -/
def execVcvt (core : Nat) (w : W64) (s : State) : Host.Outcome State Fault Refusal :=
  .next (s.vector core w 0x16 fun x => x.each x.cvt)

/-- The bytes that the elements first to last of a plane lie in. -/
def planeSpan (base bits first n : Nat) : Nat × Nat :=
  let lo := bits * first / 8
  (base + lo, cdiv (bits * (first + n)) 8 - lo)

/-- An element of a data plane in a core store, from its bytes (R93). -/
def Mem.element (m : Mem) (base bits e : Nat) : Nat :=
  let p := planeSpan base bits e 1
  let bytes := (List.range p.2).map fun i => let a := p.1 + i; BitVec.ofNat 8 ((m.word (a / 8)).toNat / 2 ^ (8 * (a % 8)))
  leNat bytes / 2 ^ (bits * e % 8) % 2 ^ bits

/-- VUNPK (R256, R262, R274): each active lane reads its element and, for a block-scaled format, its BS8. -/
def execVunpk (core : Nat) (w : W64) (s : State) : Host.Outcome State Fault Refusal :=
  .next (s.vector core w 0x14 fun x =>
    let f := vecFormat x.f.fmt
    let v := vcmdOf x.run.cmd
    let base := vecAddr (x.vec.s x.f.va).toNat
    let scale (e : Nat) : Nat := ((x.vec.s x.f.vb).toNat + e / 32) % 2 ^ 64
    let spans (i : Nat) : List (Nat × Nat) :=
      planeSpan base f.bits (x.f.imm + i) 1 :: (if f.scaled then [(scale (x.f.imm + i), 1)] else [])
    let all := x.lanes.flatMap spans
    match all.find? fun p => !(v.mayRead p.1 p.2) with
    | some p => { vec := x.vec, stop := some p.1 }
    | none =>
      let value (i : Nat) : Val :=
        let e := x.f.imm + i
        let c := x.mem.element base f.bits e
        if f.scaled then f.scaledValue ((x.mem.readByte (scale e))) c else f.value c
      let r := x.each fun i => laneRes (toFp32 (value i))
      { r with reads := (all.flatMap fun p => [p.1 / 8, (p.1 + p.2 - 1) / 8]).eraseDups })

/-- One block of VPACK: its codes, its BS8, and the flags of its lanes (R275). An inactive lane, and a lane beyond VL,
is +0 and enters no scale. -/
def VIn.packBlock (x : VIn) (f : Format) (first : Nat) : List Nat × Nat × List Nat :=
  let idx := (List.range 32).map (first + ·)
  let val (i : Nat) : Val := if x.active i then Fmts.fp32.decode (x.a i) else .fin false 0 0
  match f.fmt? with
  | some p =>
    if f.scaled then
      let vs := idx.map val
      let k := presentScale p ((idx.filter x.active).map val)
      let blk := convertBlock p k vs (idx.map fun i => if x.active i then x.rnd i else .nearest)
      let flags := idx.map fun i => if x.active i && !blk.nanBlock then (p.encodeSat (x.rnd i) ((val i).scale (-k))).2.bits else 0
      (blk.codes, blk.bs8, flags)
    else
      let rs := idx.map fun i => if x.active i then p.encodeIeee (x.rnd i) (val i) else (0, {})
      (rs.map (·.1), 0, rs.map fun r => r.2.bits)
  | none =>
    let rs := idx.map fun i => if x.active i then encodeInt f.bits (x.rnd i) (val i) else (0, {})
    (rs.map fun r => sbits f.bits r.1, 0, rs.map fun r => r.2.bits)

/-- The bytes of a run of codes, from bit 0 upward (R93). -/
def codeBytes (bits : Nat) (cs : List Nat) : List Byte :=
  let v := packNat bits cs
  (List.range (cdiv (bits * cs.length) 8)).map fun i => BitVec.ofNat 8 (v / 2 ^ (8 * i))

/-- VPACK (R256, R262, R275): whole blocks of a block-scaled format are written, and lanes 0 to VL − 1 of the others. -/
def execVpack (core : Nat) (w : W64) (s : State) : Host.Outcome State Fault Refusal :=
  .next (s.vector core w 0x15 fun x =>
    let f := vecFormat x.f.fmt
    let v := vcmdOf x.run.cmd
    let base := vecAddr (x.vec.s x.f.va).toNat
    let blocks := (List.range (cdiv x.vec.vl 32)).map fun b => (b, x.packBlock f (32 * b))
    let data := blocks.map fun b =>
      let n := if f.scaled then 32 else min 32 (x.vec.vl - 32 * b.1)
      ((planeSpan base f.bits (x.f.imm + 32 * b.1) n).1, codeBytes f.bits (b.2.1.take n))
    let scales := if f.scaled then blocks.map fun b =>
        (((x.vec.s x.f.vb).toNat + x.f.imm / 32 + b.1) % 2 ^ 64, [BitVec.ofNat 8 b.2.2.1]) else []
    match (data ++ scales).find? fun p => !(v.mayWrite p.1 p.2.length) with
    | some p => { vec := x.vec, stop := some p.1 }
    | none =>
      { vec := x.vec, lanes := blocks.flatMap fun b => b.2.2.2, writes := data ++ scales })

end Sys2Proof.Machine
end

