-- ==== Sys2Proof/Machine/VectorInt.lean ====
section
/-! DEFINITION. Machine/VectorInt.lean: the meanings of the integer instructions of a vector program (R263, R268 to
R271): each acts on every element of the lane, as FMT gives its width. -/
namespace Sys2Proof.Machine

/-- The SAT flag of R249. -/
def satFlag : Nat := ({ sat := true : Flags }).bits

/-- Element width of FMT (R263): INT8, INT16 or INT32. -/
def VIn.width (x : VIn) : Nat := (vecFormat x.f.fmt).bits

/-- An integer instruction of independent elements: g takes the two elements as patterns. -/
def VIn.eachInt (x : VIn) (g : Nat → Nat → Nat → Nat × Bool) : VOut :=
  let n := x.width
  x.each fun i => joinElems n ((List.range (32 / n)).map fun j =>
    let r := g n (elem n (x.a i) j) (elem n (x.b i) j)
    (r.1, if r.2 then satFlag else 0))

/-- Wrapping and saturating forms of an exact result (R268, R269). -/
def VIn.wrap (x : VIn) (g : Int → Int → Int) : VOut :=
  x.eachInt fun n a b => (wrapInt n (g (signed n a) (signed n b)), false)
def VIn.sat (x : VIn) (g : Int → Int → Int) : VOut :=
  x.eachInt fun n a b => satInt n (g (signed n a) (signed n b))

/-- VIADD. -/
def execViadd (core : Nat) (w : W64) (s : State) : Host.Outcome State Fault Refusal :=
  .next (s.vector core w 0x40 fun x => x.wrap fun a b => a + b)
/-- VISUB. -/
def execVisub (core : Nat) (w : W64) (s : State) : Host.Outcome State Fault Refusal :=
  .next (s.vector core w 0x41 fun x => x.wrap fun a b => a - b)
/-- VIADDS. -/
def execViadds (core : Nat) (w : W64) (s : State) : Host.Outcome State Fault Refusal :=
  .next (s.vector core w 0x42 fun x => x.sat fun a b => a + b)
/-- VISUBS. -/
def execVisubs (core : Nat) (w : W64) (s : State) : Host.Outcome State Fault Refusal :=
  .next (s.vector core w 0x43 fun x => x.sat fun a b => a - b)
/-- VIMUL. -/
def execVimul (core : Nat) (w : W64) (s : State) : Host.Outcome State Fault Refusal :=
  .next (s.vector core w 0x44 fun x => x.wrap fun a b => a * b)
/-- VIMULS. -/
def execVimuls (core : Nat) (w : W64) (s : State) : Host.Outcome State Fault Refusal :=
  .next (s.vector core w 0x45 fun x => x.sat fun a b => a * b)
/-- VIMAX. -/
def execVimax (core : Nat) (w : W64) (s : State) : Host.Outcome State Fault Refusal :=
  .next (s.vector core w 0x46 fun x => x.wrap fun a b => max a b)
/-- VIMIN. -/
def execVimin (core : Nat) (w : W64) (s : State) : Host.Outcome State Fault Refusal :=
  .next (s.vector core w 0x47 fun x => x.wrap fun a b => min a b)
/-- VIABS. -/
def execViabs (core : Nat) (w : W64) (s : State) : Host.Outcome State Fault Refusal :=
  .next (s.vector core w 0x48 fun x => x.sat fun a _ => (a.natAbs : Int))

/-! ### Shifts (R270, R271) -/

/-- A shift: g takes the width, the element and the count. -/
def VIn.shift (x : VIn) (g : Nat → Nat → Nat → Nat × Bool) : VOut :=
  x.eachInt fun n a b => g n a (if Nat.testBit x.f.imm 17 then x.f.imm % 256 else b % 256)

/-- VSHL. -/
def execVshl (core : Nat) (w : W64) (s : State) : Host.Outcome State Fault Refusal :=
  .next (s.vector core w 0x49 fun x => x.shift fun n a c => (if n ≤ c then 0 else a * 2 ^ c % 2 ^ n, false))
/-- VSHLS: counts at or beyond the width saturate any element that is not zero. -/
def execVshls (core : Nat) (w : W64) (s : State) : Host.Outcome State Fault Refusal :=
  .next (s.vector core w 0x4A fun x => x.shift fun n a c => satInt n (signed n a * ((2 ^ min c n : Nat) : Int)))
/-- VSHR. -/
def execVshr (core : Nat) (w : W64) (s : State) : Host.Outcome State Fault Refusal :=
  .next (s.vector core w 0x4B fun x => x.shift fun n a c => (if n ≤ c then 0 else a / 2 ^ c, false))
/-- VSRA. -/
def execVsra (core : Nat) (w : W64) (s : State) : Host.Outcome State Fault Refusal :=
  .next (s.vector core w 0x4C fun x => x.shift fun n a c => (wrapInt n (signed n a / ((2 ^ min c n : Nat) : Int)), false))
/-- VSRAR. -/
def execVsrar (core : Nat) (w : W64) (s : State) : Host.Outcome State Fault Refusal :=
  .next (s.vector core w 0x4D fun x => x.shift fun n a c => (if n ≤ c then 0 else wrapInt n (shiftRound (signed n a) c), false))

/-- The relations of VICMP, on INT32 (R263). -/
def irel (sel a b : Nat) : Bool :=
  match sel with
  | 0 => a == b
  | 1 => decide (signed 32 a < signed 32 b)
  | 2 => decide (signed 32 a ≤ signed 32 b)
  | _ => decide (a < b)

/-- VICMP. -/
def execVicmp (core : Nat) (w : W64) (s : State) : Host.Outcome State Fault Refusal :=
  .next (s.vector core w 0x4E fun x => x.eachBit fun i => irel x.f.imm (x.a i) (x.b i))

end Sys2Proof.Machine
end

