-- ==== Sys2Proof/Machine/VectorRows.lean ====
section
/-! DEFINITION. Machine/VectorRows.lean: the meanings of the reductions and of the row operations of Softmax,
normalisation and loss (R278 to R290). -/
namespace Sys2Proof.Machine

/-- The sum of two FP32 codes, with its conditions. -/
def sumRes (a b : Res) : Res :=
  let r := fadd Fmts.fp32 a.1 b.1
  (r.1, r.2.or (a.2.or b.2))

/-- The tree of R278 over FP32 codes. -/
def sumTree (l : List (Option Nat)) : Option Res := laneTree sumRes (l.map fun o => o.map fun c => (c, {}))

/-- The tree over codes, +0 when it is absent. -/
def sumOr0 (l : List (Option Nat)) : Res := (sumTree l).getD (0, {})

/-! ### Reductions (R278, R279) -/

/-- VFREDSUM. A NaN is written as the canonical one, also where a single lane is active (R265). -/
def execVfredsum (core : Nat) (w : W64) (s : State) : Host.Outcome State Fault Refusal :=
  .next (s.vector core w 0x63 fun x =>
    let t := sumOr0 (x.leaves x.a)
    let t := if (Fmts.fp32.decode t.1).isNan then (nan32.toNat, t.2) else t
    let r := if x.f.imm % 2 = 0 then t else sumRes ((lo32 (x.vec.s x.f.vd)).toNat, {}) t
    x.scalar (BitVec.ofNat 64 r.1) r.2.bits)

/-- VFREDMAX. -/
def execVfredmax (core : Nat) (w : W64) (s : State) : Host.Outcome State Fault Refusal :=
  .next (s.vector core w 0x64 fun x =>
    let t := (laneTree fmax32 (x.leaves x.a)).getD 0xFF800000
    let t := if (Fmts.fp32.decode t).isNan then nan32.toNat else t
    let r := if x.f.imm % 2 = 0 then t else fmax32 (lo32 (x.vec.s x.f.vd)).toNat t
    x.scalar (BitVec.ofNat 64 r) 0)

/-- VIREDSUM: exact in 64 bits. -/
def execViredsum (core : Nat) (w : W64) (s : State) : Host.Outcome State Fault Refusal :=
  .next (s.vector core w 0x65 fun x =>
    let t : Int := (x.lanes.map fun i => signed 32 (x.a i)).foldl (· + ·) 0
    let old := if x.f.imm % 2 = 0 then 0#64 else x.vec.s x.f.vd
    x.scalar (old + BitVec.ofInt 64 t) 0)

/-! ### Softmax (R280 to R285) -/

/-- The softmax row state (R280). -/
structure SmState where
  max : Nat
  sum : Nat
  count : Nat
  ninf : Nat
  nan : Bool
deriving DecidableEq, Repr

def smOf (v : VecState) (r : Nat) : SmState :=
  let a := v.s r
  let b := v.s (r + 1)
  { max := fld a 31 0, sum := fld a 63 32, count := fld b 31 0, ninf := fld b 55 32, nan := bitAt b 63 }

def SmState.put (m : SmState) (v : VecState) (r : Nat) : VecState :=
  (v.setS r (mkWord [(0, 32, m.max), (32, 32, m.sum)])).setS (r + 1)
    (mkWord [(0, 32, m.count), (32, 24, m.ninf), (63, 1, b2n m.nan)])

/-- The code of −inf and of +inf. -/
def negInf32 : Nat := 0xFF800000
def posInf32 : Nat := 0x7F800000

/-- VSMRST (R280). -/
def execVsmrst (core : Nat) (w : W64) (s : State) : Host.Outcome State Fault Refusal :=
  .next (s.vector core w 0x70 fun x =>
    { vec := ({ max := negInf32, sum := 0, count := 0, ninf := 0, nan := false : SmState }).put x.vec x.f.vd })

/-- One kept position (R281). -/
def SmState.take (m : SmState) (c : Nat) : SmState :=
  let m := { m with count := (m.count + 1) % 2 ^ 32 }
  if (Fmts.fp32.decode c).isNan then { m with nan := true }
  else { m with ninf := if c = posInf32 then satN 24 (m.ninf + 1) else m.ninf, max := fmax32 m.max c }

/-- VSMMAX (R281). -/
def execVsmmax (core : Nat) (w : W64) (s : State) : Host.Outcome State Fault Refusal :=
  .next (s.vector core w 0x71 fun x =>
    { vec := (x.lanes.foldl (fun m i => m.take (x.a i)) (smOf x.vec x.f.vd)).put x.vec x.f.vd })

/-- The term e(x) of a kept lane (R282). -/
def SmState.term (m : SmState) (c : Nat) : Nat :=
  if m.nan then nan32.toNat
  else if 0 < m.ninf then (if c = posInf32 then 0x3F800000 else 0)
  else if m.max = negInf32 then 0
  else (fexp Fmts.fp32 (fsub Fmts.fp32 c m.max).1).1

/-- VSMSUM (R282); a chunk without a kept lane adds no term. -/
def execVsmsum (core : Nat) (w : W64) (s : State) : Host.Outcome State Fault Refusal :=
  .next (s.vector core w 0x72 fun x =>
    let m := smOf x.vec x.f.vd
    match sumTree (x.leaves fun i => m.term (x.a i)) with
    | none => { vec := x.vec }
    | some t => { vec := ({ m with sum := (fadd Fmts.fp32 m.sum t.1).1 }).put x.vec x.f.vd })

/-- The INVALID, OVERFLOW and MASKED_ROW flags of R249. -/
def invalidFlag : Nat := 1
def overflowFlag : Nat := 4
def maskedRowFlag : Nat := 64

/-- A fully masked row (R283). -/
def SmState.masked (m : SmState) : Bool := m.count = 0 || (m.ninf = 0 && m.max = negInf32)

/-- VSMNRM (R283): every lane below VL is written, whatever the mask. DEDUCED: its flags too stand on every lane below VL,
masked or not, as R283 says of the row, where R250 speaks of lanes that raised none (log 24). -/
def execVsmnrm (core : Nat) (w : W64) (s : State) : Host.Outcome State Fault Refusal :=
  .next (s.vector core w 0x73 fun x =>
    let m := smOf x.vec x.f.vd
    let put (g : Nat → W32) : VecState := x.vec.setV x.f.vd fun i => if i < x.vec.vl then g i else x.vec.lane x.f.vd i
    let lanes (f : Nat) : List Nat := (List.range 64).map fun i => if i < x.vec.vl then f else 0
    if m.nan then { vec := put fun _ => nan32, lanes := lanes invalidFlag }
    else if m.masked then { vec := ({ m with sum := 0 }).put (put fun _ => 0#32) x.f.vd, lanes := lanes maskedRowFlag }
    else { vec := put fun i => if x.active i then BitVec.ofNat 32 (fdiv Fmts.fp32 (m.term (x.a i)) m.sum).1 else 0#32 })

/-! ### Loss (R290, R291) -/

/-- The loss and its flags (R290). -/
def SmState.loss (m : SmState) (sa : W64) : Res × Nat :=
  let t := fld sa 31 0
  let tv := Fmts.fp32.decode t
  if bitAt sa 63 then ((0, {}), 0)
  else if m.masked then ((0, {}), maskedRowFlag)
  else if m.nan || tv.isNan then ((nan32.toNat, {}), invalidFlag)
  else if bitAt sa 62 || t = negInf32 then ((posInf32, {}), overflowFlag)
  else if 0 < m.ninf && t = posInf32 then (((fln Fmts.fp32 (count32 m.ninf).toNat).1, {}), 0)
  else if 0 < m.ninf then ((posInf32, {}), overflowFlag)
  else
    let l := fln Fmts.fp32 m.sum
    let a := fadd Fmts.fp32 l.1 m.max
    let r := fsub Fmts.fp32 a.1 t
    ((r.1, {}), ((l.2.or a.2).or r.2).bits)

/-- VXENT: the loss of a row into Sb. -/
def execVxent (core : Nat) (w : W64) (s : State) : Host.Outcome State Fault Refusal :=
  .next (s.vector core w 0x74 fun x =>
    let r := (smOf x.vec x.f.vd).loss (x.vec.s x.f.va)
    { vec := x.vec.setS x.f.vb (BitVec.ofNat 64 r.1.1), lanes := [r.2] })

/-! ### Normalisation (R286 to R289) -/

/-- The normalisation row state (R286). -/
structure NState where
  mean : W32
  m2 : W32
  count : Nat
  nonfin : Bool
deriving DecidableEq, Repr

def nOf (v : VecState) (r : Nat) : NState :=
  { mean := lo32 (v.s r), m2 := hi32 (v.s r), count := fld (v.s (r + 1)) 31 0, nonfin := bitAt (v.s (r + 1)) 63 }

def NState.put (n : NState) (v : VecState) (r : Nat) : VecState :=
  (v.setS r (join32 n.m2 n.mean)).setS (r + 1) (mkWord [(0, 32, n.count), (63, 1, b2n n.nonfin)])

/-- The tree of R278 over FP32 patterns of lanes that are present. -/
def sum32 (l : List (Option W32)) : W32 := BitVec.ofNat 32 (sumOr0 (l.map fun o => o.map BitVec.toNat)).1

/-- One chunk merged into the state (R287). -/
def NState.merge (n : NState) (xs : List (Option W32)) (rms : Bool) : NState :=
  let kept := xs.filterMap id
  let nb := kept.length
  if nb = 0 then n
  else
    let bad := n.nonfin || kept.any fun v => !(v32 v).isFin
    let na := n.count
    let n' := { n with nonfin := bad, count := (na + nb) % 2 ^ 32 }
    let on (f : W32 → W32) : List (Option W32) := xs.map fun o => o.map f
    if bad then n'
    else if rms then { n' with m2 := add32 n.m2 (sum32 (on fun v => mul32 v v)) }
    else
      let mb := div32 (sum32 xs) (count32 nb)
      let qb := sum32 (on fun v => mul32 (sub32 v mb) (sub32 v mb))
      if na = 0 then { n' with mean := mb, m2 := qb }
      else
        let tot := count32 (na + nb)
        let delta := sub32 mb n.mean
        let mean := add32 n.mean (mul32 delta (div32 (count32 nb) tot))
        let part := mul32 (mul32 delta delta) (div32 (mul32 (count32 na) (count32 nb)) tot)
        { n' with mean := mean, m2 := add32 (add32 n.m2 qb) part }

/-- VNACC (R287). -/
def execVnacc (core : Nat) (w : W64) (s : State) : Host.Outcome State Fault Refusal :=
  .next (s.vector core w 0x75 fun x =>
    { vec := ((nOf x.vec x.f.vd).merge (x.leaves fun i => x.vec.lane x.f.va i) (x.f.imm % 2 = 1)).put x.vec x.f.vd })

/-- VNFIN (R288). -/
def execVnfin (core : Nat) (w : W64) (s : State) : Host.Outcome State Fault Refusal :=
  .next (s.vector core w 0x76 fun x =>
    let n := nOf x.vec x.f.vd
    let put (mean rstd : W32) (fl : Nat) : VOut := { vec := x.vec.setS x.f.vd (join32 mean rstd), lanes := [fl] }
    if n.nonfin then put nan32 nan32 invalidFlag
    else if n.count = 0 then put 0#32 0#32 maskedRowFlag
    else
      let q := fdiv Fmts.fp32 n.m2.toNat (count32 n.count).toNat
      let a := fadd Fmts.fp32 q.1 (lo32 (x.vec.s x.f.va)).toNat
      let r := frsqrt Fmts.fp32 a.1
      put n.mean (BitVec.ofNat 32 r.1) ((q.2.or a.2).or r.2).bits)

/-- VFNORM (R289): the scalar Sd holds rstd and mean; each step rounds. -/
def execVfnorm (core : Nat) (w : W64) (s : State) : Host.Outcome State Fault Refusal :=
  .next (s.vector core w 0x77 fun x =>
    let st := x.vec.s x.f.vd
    x.each fun i =>
      let d := fsub Fmts.fp32 (x.a i) (hi32 st).toNat
      let r := fmul Fmts.fp32 d.1 (lo32 st).toNat
      (BitVec.ofNat 32 r.1, (d.2.or r.2).bits))

end Sys2Proof.Machine
end

