-- ==== Sys2Proof/Machine/VectorScalar.lean ====
section
/-! DEFINITION. Machine/VectorScalar.lean: the meanings of the scalar, mask, load, store, permutation and logic
instructions of a vector program (R243 to R264, R276, R277). -/
namespace Sys2Proof.Machine

/-! ### Scalars, masks and flags -/

/-- NOP (R263). -/
def execNop (core : Nat) (w : W64) (s : State) : Host.Outcome State Fault Refusal :=
  .next (s.vector core w 0x00 fun x => { vec := x.vec })

/-- VSETVL (R246, R263). -/
def execVsetvl (core : Nat) (w : W64) (s : State) : Host.Outcome State Fault Refusal :=
  .next (s.vector core w 0x01 fun x =>
    let n := if x.f.imm = 0 then min (x.vec.s x.f.va).toNat 64 else x.f.imm
    { vec := ({ x.vec with vl := n }).setS x.f.vd (BitVec.ofNat 64 n) })

/-- SLI (R263): the immediate, sign-extended. -/
def execSli (core : Nat) (w : W64) (s : State) : Host.Outcome State Fault Refusal :=
  .next (s.vector core w 0x02 fun x => { vec := x.vec.setS x.f.vd (BitVec.ofInt 64 x.f.simm) })

/-- SSHLI (R263). -/
def execSshli (core : Nat) (w : W64) (s : State) : Host.Outcome State Fault Refusal :=
  .next (s.vector core w 0x03 fun x => { vec := x.vec.setS x.f.vd ((x.vec.s x.f.vd <<< 18) ||| BitVec.ofNat 64 x.f.imm) })

/-- SADD (R263). -/
def execSadd (core : Nat) (w : W64) (s : State) : Host.Outcome State Fault Refusal :=
  .next (s.vector core w 0x04 fun x =>
    { vec := x.vec.setS x.f.vd (x.vec.s x.f.va + x.vec.s x.f.vb + BitVec.ofInt 64 x.f.simm) })

/-- SMUL (R263). -/
def execSmul (core : Nat) (w : W64) (s : State) : Host.Outcome State Fault Refusal :=
  .next (s.vector core w 0x05 fun x => { vec := x.vec.setS x.f.vd (x.vec.s x.f.va * x.vec.s x.f.vb) })

/-- The address of SLD and SST. -/
def VIn.scalarAddr (x : VIn) : Nat := scaAddr ((x.vec.s x.f.va).toNat + 8 * x.f.imm)

/-- SLD (R256, R262, R263). -/
def execSld (core : Nat) (w : W64) (s : State) : Host.Outcome State Fault Refusal :=
  .next (s.vector core w 0x06 fun x =>
    let a := x.scalarAddr
    if (vcmdOf x.run.cmd).mayRead a 8 then { vec := x.vec.setS x.f.vd (x.mem.word (a / 8)), reads := [a / 8] }
    else { vec := x.vec, stop := some a })

/-- SST (R256, R262, R263). -/
def execSst (core : Nat) (w : W64) (s : State) : Host.Outcome State Fault Refusal :=
  .next (s.vector core w 0x07 fun x =>
    let a := x.scalarAddr
    if (vcmdOf x.run.cmd).mayWrite a 8 then { vec := x.vec, writes := [(a, wordBytes (x.vec.s x.f.vd))] }
    else { vec := x.vec, stop := some a })

/-- The INDEX flag of R249. -/
def indexFlag : Nat := ({ index := true : Flags }).bits

/-- VEXT (R263, R277). -/
def execVext (core : Nat) (w : W64) (s : State) : Host.Outcome State Fault Refusal :=
  .next (s.vector core w 0x08 fun x =>
    let i := x.f.imm % 64
    if x.vec.vl ≤ i then x.scalar 0#64 indexFlag else x.scalar ((x.vec.lane x.f.va i).setWidth 64) 0)

/-- VBCST (R263). -/
def execVbcst (core : Nat) (w : W64) (s : State) : Host.Outcome State Fault Refusal :=
  .next (s.vector core w 0x09 fun x =>
    let a := x.vec.s x.f.va
    x.each fun _ => (if x.f.imm % 2 = 0 then lo32 a else hi32 a, 0))

/-- VMSET (R244, R263). -/
def execVmset (core : Nat) (w : W64) (s : State) : Host.Outcome State Fault Refusal :=
  .next (s.vector core w 0x0A fun x => { vec := x.vec.setM x.f.vd (x.vec.s x.f.va) })

/-- VMGET (R263). -/
def execVmget (core : Nat) (w : W64) (s : State) : Host.Outcome State Fault Refusal :=
  .next (s.vector core w 0x0B fun x => { vec := x.vec.setS x.f.vd (x.vec.mreg x.f.va) })

/-- VMOP (R246, R263): the bits below VL change. -/
def execVmop (core : Nat) (w : W64) (s : State) : Host.Outcome State Fault Refusal :=
  .next (s.vector core w 0x0C fun x =>
    let a := x.vec.mreg x.f.va
    let b := x.vec.mreg x.f.vb
    let r := match x.f.imm with
      | 0 => a &&& b
      | 1 => a ||| b
      | 2 => a ^^^ b
      | _ => a &&& ~~~b
    let old := x.vec.mreg x.f.vd
    { vec := x.vec.setM x.f.vd (maskOf fun i => if i < x.vec.vl then bitAt r i else bitAt old i) })

/-- VIDX (R263). -/
def execVidx (core : Nat) (w : W64) (s : State) : Host.Outcome State Fault Refusal :=
  .next (s.vector core w 0x0D fun x => x.each fun i => (BitVec.ofNat 32 i, 0))

/-- SGETF (R263). -/
def execSgetf (core : Nat) (w : W64) (s : State) : Host.Outcome State Fault Refusal :=
  .next (s.vector core w 0x0E fun x => { vec := x.vec.setS x.f.vd (BitVec.ofNat 64 x.vec.flags) })

/-- Flags with those of a mask cleared. -/
def clearFlags (flags mask : Nat) : Nat := (BitVec.ofNat 7 flags &&& ~~~BitVec.ofNat 7 mask).toNat

/-- SCLRF (R251, R263). -/
def execSclrf (core : Nat) (w : W64) (s : State) : Host.Outcome State Fault Refusal :=
  .next (s.vector core w 0x0F fun x => { vec := { x.vec with flags := clearFlags x.vec.flags x.f.imm } })

/-! ### Loads and stores -/

/-- The address of lane i of VLD and VST: Sa + 4 × (IMM + i), the immediate signed (R262, R263). -/
def VIn.unitAddr (x : VIn) (i : Nat) : Nat := vecAddr ((x.vec.s x.f.va).toNat + 4 * (x.f.simm + i))

/-- The address of lane i of VLDS and VSTS: Sa + 4 × IMM + i × Sb, Sb signed. -/
def VIn.strideAddr (x : VIn) (i : Nat) : Nat :=
  vecAddr ((x.vec.s x.f.va).toNat + 4 * x.f.imm + i * signed 64 (x.vec.s x.f.vb).toNat)

/-- VLD (R256, R262, R263). -/
def execVld (core : Nat) (w : W64) (s : State) : Host.Outcome State Fault Refusal :=
  .next (s.vector core w 0x10 fun x => x.gather x.unitAddr)

/-- VST (R256, R262, R263). -/
def execVst (core : Nat) (w : W64) (s : State) : Host.Outcome State Fault Refusal :=
  .next (s.vector core w 0x11 fun x => x.scatter x.f.va x.unitAddr)

/-- VLDS (R256, R262, R263). -/
def execVlds (core : Nat) (w : W64) (s : State) : Host.Outcome State Fault Refusal :=
  .next (s.vector core w 0x12 fun x => x.gather x.strideAddr)

/-- VSTS (R256, R262, R263). -/
def execVsts (core : Nat) (w : W64) (s : State) : Host.Outcome State Fault Refusal :=
  .next (s.vector core w 0x13 fun x => x.scatter x.f.va x.strideAddr)

/-! ### Logic (R271) -/

/-- A logic instruction over whole lanes. -/
def VIn.logic (x : VIn) (f : W32 → W32 → W32) : VOut :=
  x.each fun i => (f (x.vec.lane x.f.va i) (x.vec.lane x.f.vb i), 0)

/-- VAND. -/
def execVand (core : Nat) (w : W64) (s : State) : Host.Outcome State Fault Refusal :=
  .next (s.vector core w 0x50 fun x => x.logic fun a b => a &&& b)
/-- VOR. -/
def execVor (core : Nat) (w : W64) (s : State) : Host.Outcome State Fault Refusal :=
  .next (s.vector core w 0x51 fun x => x.logic fun a b => a ||| b)
/-- VXOR. -/
def execVxor (core : Nat) (w : W64) (s : State) : Host.Outcome State Fault Refusal :=
  .next (s.vector core w 0x52 fun x => x.logic fun a b => a ^^^ b)
/-- VNOT. -/
def execVnot (core : Nat) (w : W64) (s : State) : Host.Outcome State Fault Refusal :=
  .next (s.vector core w 0x53 fun x => x.logic fun a _ => ~~~a)

/-! ### Permutations (R276, R277) -/

/-- VPERM: a lane whose index is at or beyond VL receives 0 and raises INDEX (R276). -/
def execVperm (core : Nat) (w : W64) (s : State) : Host.Outcome State Fault Refusal :=
  .next (s.vector core w 0x60 fun x => x.each fun i =>
    let j := (x.vec.lane x.f.vb i).toNat
    if j < x.vec.vl then (x.vec.lane x.f.va j, 0) else (0#32, indexFlag))

/-- VROT: lane (i + Sb + IMM) mod VL (R263, R277). -/
def execVrot (core : Nat) (w : W64) (s : State) : Host.Outcome State Fault Refusal :=
  .next (s.vector core w 0x61 fun x => x.each fun i =>
    (x.vec.lane x.f.va ((i + (x.vec.s x.f.vb).toNat + x.f.imm) % x.vec.vl), 0))

/-- VSEL (R263). -/
def execVsel (core : Nat) (w : W64) (s : State) : Host.Outcome State Fault Refusal :=
  .next (s.vector core w 0x62 fun x => x.each fun i =>
    (if bitAt (x.vec.mreg x.f.vc) i then x.vec.lane x.f.va i else x.vec.lane x.f.vb i, 0))

end Sys2Proof.Machine
end

