-- ==== Sys2Proof/Machine/Dispatch.lean ====
section
/-! DEFINITION. Machine/Dispatch.lean: one arm for each command, a direct call of its meaning. -/
namespace Sys2Proof.Machine

/-- The effect of a command on everything but the queue of waiting commands. -/
def exec (i : Instr) (s : State) : Host.Outcome State Fault Refusal :=
  match i with
  | .regWrite a => Sys2Proof.Machine.execRegWrite a s
  | .rcRegisterRead a => Sys2Proof.Machine.execRcRegisterRead a s
  | .unmappedAccess a write => Sys2Proof.Machine.execUnmappedAccess a write s
  | .steepPeriodWrite h v => Sys2Proof.Machine.execSteepPeriodWrite h v s
  | .steepSwitchAtWrite h v => Sys2Proof.Machine.execSteepSwitchAtWrite h v s
  | .steepPhaseRead h => Sys2Proof.Machine.execSteepPhaseRead h s
  | .steepCountRead h => Sys2Proof.Machine.execSteepCountRead h s
  | .steepLatchRelease => Sys2Proof.Machine.execSteepLatchRelease s
  | .steepBoundary => Sys2Proof.Machine.execSteepBoundary s
  | .timing link w => Sys2Proof.Machine.execTiming link w s
  | .timeLostClear => Sys2Proof.Machine.execTimeLostClear s
  | .timeHoldover => Sys2Proof.Machine.execTimeHoldover s
  | .compositeMemberTimeout fan => Sys2Proof.Machine.execCompositeMemberTimeout fan s
  | .fenceDrainComplete u => Sys2Proof.Machine.execFenceDrainComplete u s
  | .fenceTerminationsDone u => Sys2Proof.Machine.execFenceTerminationsDone u s
  | .fenceEscalated u => Sys2Proof.Machine.execFenceEscalated u s
  | .fenceResetDue u => Sys2Proof.Machine.execFenceResetDue u s
  | .deadlineBoundary => Sys2Proof.Machine.execDeadlineBoundary s
  | .deadlineSliceCe ctx slot => Sys2Proof.Machine.execDeadlineSliceCe ctx slot s
  | .deadlineSliceUc ctx slot => Sys2Proof.Machine.execDeadlineSliceUc ctx slot s
  | .deadlineXferCe w => Sys2Proof.Machine.execDeadlineXferCe w s
  | .deadlineXferUc w => Sys2Proof.Machine.execDeadlineXferUc w s
  | .deadlinePour core => Sys2Proof.Machine.execDeadlinePour core s
  | .deadlineCaddy caddy => Sys2Proof.Machine.execDeadlineCaddy caddy s
  | .deadlineAudit => Sys2Proof.Machine.execDeadlineAudit s
  | .auditComplete => Sys2Proof.Machine.execAuditComplete s
  | .powerSample p => Sys2Proof.Machine.execPowerSample p s
  | .mtFwd core cmd => Sys2Proof.Machine.execMtFwd core cmd s
  | .mtDgrad core cmd => Sys2Proof.Machine.execMtDgrad core cmd s
  | .mtWgrad core cmd => Sys2Proof.Machine.execMtWgrad core cmd s
  | .tileStart core => Sys2Proof.Machine.execTileStart core s
  | .passSettleEnd core cycles upset => Sys2Proof.Machine.execPassSettleEnd core cycles upset s
  | .pourComplete core bad upset => Sys2Proof.Machine.execPourComplete core bad upset s
  | .strainerInjectArm core h v => Sys2Proof.Machine.execStrainerInjectArm core h v s
  | .sliceComplete ctx slot cycles waited => Sys2Proof.Machine.execSliceComplete ctx slot cycles waited s
  | .gradGather core cmd => Sys2Proof.Machine.execGradGather core cmd s
  | .gradGatherComplete core => Sys2Proof.Machine.execGradGatherComplete core s
  | .vecRun core cmd => Sys2Proof.Machine.execVecRun core cmd s
  | .vecRunComplete core cycles => Sys2Proof.Machine.execVecRunComplete core cycles s
  | .nop core w => Sys2Proof.Machine.execNop core w s
  | .vsetvl core w => Sys2Proof.Machine.execVsetvl core w s
  | .sli core w => Sys2Proof.Machine.execSli core w s
  | .sshli core w => Sys2Proof.Machine.execSshli core w s
  | .sadd core w => Sys2Proof.Machine.execSadd core w s
  | .smul core w => Sys2Proof.Machine.execSmul core w s
  | .sld core w => Sys2Proof.Machine.execSld core w s
  | .sst core w => Sys2Proof.Machine.execSst core w s
  | .vext core w => Sys2Proof.Machine.execVext core w s
  | .vbcst core w => Sys2Proof.Machine.execVbcst core w s
  | .vmset core w => Sys2Proof.Machine.execVmset core w s
  | .vmget core w => Sys2Proof.Machine.execVmget core w s
  | .vmop core w => Sys2Proof.Machine.execVmop core w s
  | .vidx core w => Sys2Proof.Machine.execVidx core w s
  | .sgetf core w => Sys2Proof.Machine.execSgetf core w s
  | .sclrf core w => Sys2Proof.Machine.execSclrf core w s
  | .vld core w => Sys2Proof.Machine.execVld core w s
  | .vst core w => Sys2Proof.Machine.execVst core w s
  | .vlds core w => Sys2Proof.Machine.execVlds core w s
  | .vsts core w => Sys2Proof.Machine.execVsts core w s
  | .vunpk core w => Sys2Proof.Machine.execVunpk core w s
  | .vpack core w => Sys2Proof.Machine.execVpack core w s
  | .vcvt core w => Sys2Proof.Machine.execVcvt core w s
  | .vfadd core w => Sys2Proof.Machine.execVfadd core w s
  | .vfsub core w => Sys2Proof.Machine.execVfsub core w s
  | .vfmul core w => Sys2Proof.Machine.execVfmul core w s
  | .vfma core w => Sys2Proof.Machine.execVfma core w s
  | .vfdiv core w => Sys2Proof.Machine.execVfdiv core w s
  | .vfsqrt core w => Sys2Proof.Machine.execVfsqrt core w s
  | .vfrsqrt core w => Sys2Proof.Machine.execVfrsqrt core w s
  | .vfmax core w => Sys2Proof.Machine.execVfmax core w s
  | .vfmin core w => Sys2Proof.Machine.execVfmin core w s
  | .vfabs core w => Sys2Proof.Machine.execVfabs core w s
  | .vfneg core w => Sys2Proof.Machine.execVfneg core w s
  | .vfexp core w => Sys2Proof.Machine.execVfexp core w s
  | .vflog core w => Sys2Proof.Machine.execVflog core w s
  | .vftanh core w => Sys2Proof.Machine.execVftanh core w s
  | .vfsig core w => Sys2Proof.Machine.execVfsig core w s
  | .vfcmp core w => Sys2Proof.Machine.execVfcmp core w s
  | .vbadd core w => Sys2Proof.Machine.execVbadd core w s
  | .vbmul core w => Sys2Proof.Machine.execVbmul core w s
  | .vbfma core w => Sys2Proof.Machine.execVbfma core w s
  | .vbpack core w => Sys2Proof.Machine.execVbpack core w s
  | .viadd core w => Sys2Proof.Machine.execViadd core w s
  | .visub core w => Sys2Proof.Machine.execVisub core w s
  | .viadds core w => Sys2Proof.Machine.execViadds core w s
  | .visubs core w => Sys2Proof.Machine.execVisubs core w s
  | .vimul core w => Sys2Proof.Machine.execVimul core w s
  | .vimuls core w => Sys2Proof.Machine.execVimuls core w s
  | .vimax core w => Sys2Proof.Machine.execVimax core w s
  | .vimin core w => Sys2Proof.Machine.execVimin core w s
  | .viabs core w => Sys2Proof.Machine.execViabs core w s
  | .vshl core w => Sys2Proof.Machine.execVshl core w s
  | .vshls core w => Sys2Proof.Machine.execVshls core w s
  | .vshr core w => Sys2Proof.Machine.execVshr core w s
  | .vsra core w => Sys2Proof.Machine.execVsra core w s
  | .vsrar core w => Sys2Proof.Machine.execVsrar core w s
  | .vicmp core w => Sys2Proof.Machine.execVicmp core w s
  | .vand core w => Sys2Proof.Machine.execVand core w s
  | .vor core w => Sys2Proof.Machine.execVor core w s
  | .vxor core w => Sys2Proof.Machine.execVxor core w s
  | .vnot core w => Sys2Proof.Machine.execVnot core w s
  | .vperm core w => Sys2Proof.Machine.execVperm core w s
  | .vrot core w => Sys2Proof.Machine.execVrot core w s
  | .vsel core w => Sys2Proof.Machine.execVsel core w s
  | .vfredsum core w => Sys2Proof.Machine.execVfredsum core w s
  | .vfredmax core w => Sys2Proof.Machine.execVfredmax core w s
  | .viredsum core w => Sys2Proof.Machine.execViredsum core w s
  | .vsmrst core w => Sys2Proof.Machine.execVsmrst core w s
  | .vsmmax core w => Sys2Proof.Machine.execVsmmax core w s
  | .vsmsum core w => Sys2Proof.Machine.execVsmsum core w s
  | .vsmnrm core w => Sys2Proof.Machine.execVsmnrm core w s
  | .vxent core w => Sys2Proof.Machine.execVxent core w s
  | .vnacc core w => Sys2Proof.Machine.execVnacc core w s
  | .vnfin core w => Sys2Proof.Machine.execVnfin core w s
  | .vfnorm core w => Sys2Proof.Machine.execVfnorm core w s
  | .xfer core cmd upset => Sys2Proof.Machine.execXfer core cmd upset s
  | .xferComplete core => Sys2Proof.Machine.execXferComplete core s
  | .scrubRead tier upset => Sys2Proof.Machine.execScrubRead tier upset s
  | .repairListAdd place row => Sys2Proof.Machine.execRepairListAdd place row s
  | .eccInjectArm h v => Sys2Proof.Machine.execEccInjectArm h v s
  | .memoryTrainingStepDone part ok => Sys2Proof.Machine.execMemoryTrainingStepDone part ok s
  | .periodicCalibration stack package => Sys2Proof.Machine.execPeriodicCalibration stack package s
  | .queueOpen pool qid port ty ctx => Sys2Proof.Machine.execQueueOpen pool qid port ty ctx s
  | .queueAppend pool qid port ws inputUe => Sys2Proof.Machine.execQueueAppend pool qid port ws inputUe s
  | .queueCommit pool qid port => Sys2Proof.Machine.execQueueCommit pool qid port s
  | .queueAbort pool qid port => Sys2Proof.Machine.execQueueAbort pool qid port s
  | .queueRead pool qid n upset links => Sys2Proof.Machine.execQueueRead pool qid n upset links s
  | .queueNext pool qid => Sys2Proof.Machine.execQueueNext pool qid s
  | .queueMark pool qid m => Sys2Proof.Machine.execQueueMark pool qid m s
  | .queueCursorRewind pool qid m => Sys2Proof.Machine.execQueueCursorRewind pool qid m s
  | .queueRelease pool qid n => Sys2Proof.Machine.execQueueRelease pool qid n s
  | .queuePurge pool qid seq => Sys2Proof.Machine.execQueuePurge pool qid seq s
  | .producerCellGrant pool qid port => Sys2Proof.Machine.execProducerCellGrant pool qid port s
  | .queueNoCell pool qid port => Sys2Proof.Machine.execQueueNoCell pool qid port s
  | .queueDrained pool qid => Sys2Proof.Machine.execQueueDrained pool qid s
  | .poolSweepComplete pool => Sys2Proof.Machine.execPoolSweepComplete pool s
  | .heldEventWrite ctx => Sys2Proof.Machine.execHeldEventWrite ctx s
  | .mbDoorbell fn mb v => Sys2Proof.Machine.execMbDoorbell fn mb v s
  | .mbCompAck fn mb v => Sys2Proof.Machine.execMbCompAck fn mb v s
  | .mbCfgReset fn mb v => Sys2Proof.Machine.execMbCfgReset fn mb v s
  | .getVersion r => Sys2Proof.Machine.execGetVersion r s
  | .unitQuery r => Sys2Proof.Machine.execUnitQuery r s
  | .unitFence r => Sys2Proof.Machine.execUnitFence r s
  | .unitRelease r => Sys2Proof.Machine.execUnitRelease r s
  | .unitEnable r => Sys2Proof.Machine.execUnitEnable r s
  | .unitDisable r => Sys2Proof.Machine.execUnitDisable r s
  | .unitReset r => Sys2Proof.Machine.execUnitReset r s
  | .contextCreate r => Sys2Proof.Machine.execContextCreate r s
  | .contextDestroy r => Sys2Proof.Machine.execContextDestroy r s
  | .contextPartition r => Sys2Proof.Machine.execContextPartition r s
  | .dieSchedule r => Sys2Proof.Machine.execDieSchedule r s
  | .contextInfo r => Sys2Proof.Machine.execContextInfo r s
  | .streamSubmit r host => Sys2Proof.Machine.execStreamSubmit r host s
  | .streamCancel r => Sys2Proof.Machine.execStreamCancel r s
  | .slotResume r => Sys2Proof.Machine.execSlotResume r s
  | .stageMap r => Sys2Proof.Machine.execStageMap r s
  | .interferenceSet r => Sys2Proof.Machine.execInterferenceSet r s
  | .domainPeriod r => Sys2Proof.Machine.execDomainPeriod r s
  | .compositeDeclare r => Sys2Proof.Machine.execCompositeDeclare r s
  | .compositeDissolve r => Sys2Proof.Machine.execCompositeDissolve r s
  | .stream ctx slot cmd => Sys2Proof.Machine.execStream ctx slot cmd s
  | .slice ctx slot cmd => Sys2Proof.Machine.execSlice ctx slot cmd s
  | .sectionCmd ctx slot cmd => Sys2Proof.Machine.execSectionCmd ctx slot cmd s
  | .literals ctx slot cmd => Sys2Proof.Machine.execLiterals ctx slot cmd s
  | .keepLive ctx slot cmd => Sys2Proof.Machine.execKeepLive ctx slot cmd s
  | .mark ctx slot cmd => Sys2Proof.Machine.execMark ctx slot cmd s
  | .contextSwitchComplete die => Sys2Proof.Machine.execContextSwitchComplete die s
  | .interferenceWindowEnd ctx => Sys2Proof.Machine.execInterferenceWindowEnd ctx s
  | .updStep ctx slot cmd => Sys2Proof.Machine.execUpdStep ctx slot cmd s
  | .updInit ctx slot cmd => Sys2Proof.Machine.execUpdInit ctx slot cmd s
  | .updCarry ctx slot cmd => Sys2Proof.Machine.execUpdCarry ctx slot cmd s
  | .updCopy ctx slot cmd => Sys2Proof.Machine.execUpdCopy ctx slot cmd s
  | .updOuterDiff ctx slot cmd => Sys2Proof.Machine.execUpdOuterDiff ctx slot cmd s
  | .updOuterApply ctx slot cmd => Sys2Proof.Machine.execUpdOuterApply ctx slot cmd s
  | .updRetire ctx slot cmd => Sys2Proof.Machine.execUpdRetire ctx slot cmd s
  | .caddyTileDone caddy cycles => Sys2Proof.Machine.execCaddyTileDone caddy cycles s
  | .fabricIdentity r => Sys2Proof.Machine.execFabricIdentity r s
  | .fabricNeighbours r => Sys2Proof.Machine.execFabricNeighbours r s
  | .routeLoad r => Sys2Proof.Machine.execRouteLoad r s
  | .routeDepths r => Sys2Proof.Machine.execRouteDepths r s
  | .routeCommit r => Sys2Proof.Machine.execRouteCommit r s
  | .linkAlloc r => Sys2Proof.Machine.execLinkAlloc r s
  | .linkRetrain r => Sys2Proof.Machine.execLinkRetrain r s
  | .collGroup r => Sys2Proof.Machine.execCollGroup r s
  | .infuseChain r => Sys2Proof.Machine.execInfuseChain r s
  | .dataFrame link f => Sys2Proof.Machine.execDataFrame link f s
  | .idle link f => Sys2Proof.Machine.execIdle link f s
  | .creditInit link vc cells => Sys2Proof.Machine.execCreditInit link vc cells s
  | .discovery link f => Sys2Proof.Machine.execDiscovery link f s
  | .heartbeat link b => Sys2Proof.Machine.execHeartbeat link b s
  | .nakRepeat link => Sys2Proof.Machine.execNakRepeat link s
  | .ackTimeoutReplay link => Sys2Proof.Machine.execAckTimeoutReplay link s
  | .ackStall link => Sys2Proof.Machine.execAckStall link s
  | .frameReplayLimit link => Sys2Proof.Machine.execFrameReplayLimit link s
  | .codewordLockLost link => Sys2Proof.Machine.execCodewordLockLost link s
  | .linkTrainingDone link => Sys2Proof.Machine.execLinkTrainingDone link s
  | .linkTrainingFailed link => Sys2Proof.Machine.execLinkTrainingFailed link s
  | .packetSend link => Sys2Proof.Machine.execPacketSend link s
  | .creditStall link vc => Sys2Proof.Machine.execCreditStall link vc s
  | .routeGenerationRetire => Sys2Proof.Machine.execRouteGenerationRetire s
  | .kettlePacket p => Sys2Proof.Machine.execKettlePacket p s
  | .collRs ctx slot cmd => Sys2Proof.Machine.execCollRs ctx slot cmd s
  | .collAg ctx slot cmd => Sys2Proof.Machine.execCollAg ctx slot cmd s
  | .collAr ctx slot cmd => Sys2Proof.Machine.execCollAr ctx slot cmd s
  | .collCodecAr ctx slot cmd => Sys2Proof.Machine.execCollCodecAr ctx slot cmd s
  | .collBcast ctx slot cmd => Sys2Proof.Machine.execCollBcast ctx slot cmd s
  | .collBarrier ctx slot cmd => Sys2Proof.Machine.execCollBarrier ctx slot cmd s
  | .collSend ctx slot cmd => Sys2Proof.Machine.execCollSend ctx slot cmd s
  | .collRecv ctx slot cmd => Sys2Proof.Machine.execCollRecv ctx slot cmd s
  | .collectivePacket p => Sys2Proof.Machine.execCollectivePacket p s
  | .collectiveComplete ctx opId => Sys2Proof.Machine.execCollectiveComplete ctx opId s
  | .collTimeout ctx opId => Sys2Proof.Machine.execCollTimeout ctx opId s
  | .infuserPacket p => Sys2Proof.Machine.execInfuserPacket p s
  | .mirrorPacket p => Sys2Proof.Machine.execMirrorPacket p s
  | .decantPacket p => Sys2Proof.Machine.execDecantPacket p s
  | .farEnable r => Sys2Proof.Machine.execFarEnable r s
  | .farDisable r => Sys2Proof.Machine.execFarDisable r s
  | .farKeyLoad r => Sys2Proof.Machine.execFarKeyLoad r s
  | .farKeySwitch r => Sys2Proof.Machine.execFarKeySwitch r s
  | .outerConfig r => Sys2Proof.Machine.execOuterConfig r s
  | .outerJoin r => Sys2Proof.Machine.execOuterJoin r s
  | .outerReanchor r => Sys2Proof.Machine.execOuterReanchor r s
  | .farTrainingDone link rtt => Sys2Proof.Machine.execFarTrainingDone link rtt s
  | .farDataFrame link f => Sys2Proof.Machine.execFarDataFrame link f s
  | .farIdle link f => Sys2Proof.Machine.execFarIdle link f s
  | .farDiscovery link f => Sys2Proof.Machine.execFarDiscovery link f s
  | .farTime link f => Sys2Proof.Machine.execFarTime link f s
  | .farAck link f => Sys2Proof.Machine.execFarAck link f s
  | .farRestartFrame link f => Sys2Proof.Machine.execFarRestartFrame link f s
  | .farAckSend link => Sys2Proof.Machine.execFarAckSend link s
  | .farHoldExpiry link => Sys2Proof.Machine.execFarHoldExpiry link s
  | .farReplayTimeout link => Sys2Proof.Machine.execFarReplayTimeout link s
  | .farAckStall link => Sys2Proof.Machine.execFarAckStall link s
  | .farCodewordLockLost link => Sys2Proof.Machine.execFarCodewordLockLost link s
  | .farRetrainTimeout link => Sys2Proof.Machine.execFarRetrainTimeout link s
  | .farAuth link => Sys2Proof.Machine.execFarAuth link s
  | .farKeyAge link => Sys2Proof.Machine.execFarKeyAge link s
  | .farPacketEnter link => Sys2Proof.Machine.execFarPacketEnter link s
  | .touchReport m => Sys2Proof.Machine.execTouchReport m s
  | .touchExpiry ctx site => Sys2Proof.Machine.execTouchExpiry ctx site s
  | .outerSendDone ctx => Sys2Proof.Machine.execOuterSendDone ctx s
  | .outerHave m => Sys2Proof.Machine.execOuterHave m s
  | .outerResendRequest m => Sys2Proof.Machine.execOuterResendRequest m s
  | .outerDeadline ctx => Sys2Proof.Machine.execOuterDeadline ctx s
  | .outerDecide m => Sys2Proof.Machine.execOuterDecide m s
  | .outerMergeDone ctx => Sys2Proof.Machine.execOuterMergeDone ctx s
  | .outerHello m => Sys2Proof.Machine.execOuterHello m s
  | .sealMsg m => Sys2Proof.Machine.execSeal m s
  | .epochSeal ctx epoch => Sys2Proof.Machine.execEpochSeal ctx epoch s
  | .sealLate ctx epoch => Sys2Proof.Machine.execSealLate ctx epoch s
  | .sealMissing ctx src epoch => Sys2Proof.Machine.execSealMissing ctx src epoch s
  | .stepFail m => Sys2Proof.Machine.execStepFail m s
  | .readySend ctx => Sys2Proof.Machine.execReadySend ctx s
  | .ready m => Sys2Proof.Machine.execReady m s
  | .commit m => Sys2Proof.Machine.execCommit m s
  | .abort m => Sys2Proof.Machine.execAbort m s
  | .query m => Sys2Proof.Machine.execQuery m s
  | .decision m => Sys2Proof.Machine.execDecision m s
  | .mirrorDone m => Sys2Proof.Machine.execMirrorDone m s
  | .queryTimeout ctx => Sys2Proof.Machine.execQueryTimeout ctx s
  | .commitTimeout ctx => Sys2Proof.Machine.execCommitTimeout ctx s
  | .heartbeatMissed link => Sys2Proof.Machine.execHeartbeatMissed link s
  | .vote m => Sys2Proof.Machine.execVote m s
  | .expel m => Sys2Proof.Machine.execExpel m s
  | .memberSync m => Sys2Proof.Machine.execMemberSync m s
  | .healthAsk m => Sys2Proof.Machine.execHealthAsk m s
  | .healthReply m => Sys2Proof.Machine.execHealthReply m s
  | .healthScoreForm => Sys2Proof.Machine.execHealthScoreForm s
  | .healthBudgetRoom => Sys2Proof.Machine.execHealthBudgetRoom s
  | .jobConfig r => Sys2Proof.Machine.execJobConfig r s
  | .jobMembers r => Sys2Proof.Machine.execJobMembers r s
  | .stepCapture r => Sys2Proof.Machine.execStepCapture r s
  | .stepReplay r => Sys2Proof.Machine.execStepReplay r s
  | .replayComplete ctx => Sys2Proof.Machine.execReplayComplete ctx s
  | .jobJoin r => Sys2Proof.Machine.execJobJoin r s
  | .joinComplete ctx => Sys2Proof.Machine.execJoinComplete ctx s
  | .spareTakeover r => Sys2Proof.Machine.execSpareTakeover r s
  | .takeoverComplete ctx => Sys2Proof.Machine.execTakeoverComplete ctx s
  | .decant r => Sys2Proof.Machine.execDecant r s
  | .decantComplete ctx => Sys2Proof.Machine.execDecantComplete ctx s
  | .readmit r => Sys2Proof.Machine.execReadmit r s
  | .healthConfig r => Sys2Proof.Machine.execHealthConfig r s
  | .watchdogExpiry u engine => Sys2Proof.Machine.execWatchdogExpiry u engine s
  | .kettleWatchdogExpiry => Sys2Proof.Machine.execKettleWatchdogExpiry s
  | .resetRungComplete u engine us => Sys2Proof.Machine.execResetRungComplete u engine us s
  | .resetTimeout u engine => Sys2Proof.Machine.execResetTimeout u engine s
  | .moduleResetTimeout => Sys2Proof.Machine.execModuleResetTimeout s
  | .faWarmReset => Sys2Proof.Machine.execFaWarmReset s
  | .recordsLost => Sys2Proof.Machine.execRecordsLost s
  | .recordAgeRelease => Sys2Proof.Machine.execRecordAgeRelease s
  | .errRead r => Sys2Proof.Machine.execErrRead r s
  | .errClear r => Sys2Proof.Machine.execErrClear r s
  | .errCrashLog r => Sys2Proof.Machine.execErrCrashLog r s
  | .resetLimits r => Sys2Proof.Machine.execResetLimits r s
  | .serviceRestore r => Sys2Proof.Machine.execServiceRestore r s
  | .blendLoad r host => Sys2Proof.Machine.execBlendLoad r host s
  | .blendRun r => Sys2Proof.Machine.execBlendRun r s
  | .blendAbort r => Sys2Proof.Machine.execBlendAbort r s
  | .blendItemComplete u pass => Sys2Proof.Machine.execBlendItemComplete u pass s
  | .blendItemSkip u => Sys2Proof.Machine.execBlendItemSkip u s
  | .marginLow u => Sys2Proof.Machine.execMarginLow u s
  | .marginCritical region => Sys2Proof.Machine.execMarginCritical region s
  | .infLoad ctx slot cmd host => Sys2Proof.Machine.execInfLoad ctx slot cmd host s
  | .infGate ctx slot cmd => Sys2Proof.Machine.execInfGate ctx slot cmd s
  | .infDrop ctx slot cmd => Sys2Proof.Machine.execInfDrop ctx slot cmd s
  | .shardComplete ctx model layer shard host => Sys2Proof.Machine.execShardComplete ctx model layer shard host s
  | .shardTimeout ctx model layer shard => Sys2Proof.Machine.execShardTimeout ctx model layer shard s
  | .layerCopyDone ctx model => Sys2Proof.Machine.execLayerCopyDone ctx model s
  | .modelDefine r => Sys2Proof.Machine.execModelDefine r s
  | .modelRelease r => Sys2Proof.Machine.execModelRelease r s
  | .replaceStart r => Sys2Proof.Machine.execReplaceStart r s
  | .replaceResume r => Sys2Proof.Machine.execReplaceResume r s
  | .replaceRollback r => Sys2Proof.Machine.execReplaceRollback r s
  | .kvConfig r => Sys2Proof.Machine.execKvConfig r s
  | .kvJoin r => Sys2Proof.Machine.execKvJoin r s
  | .kvGrow r => Sys2Proof.Machine.execKvGrow r s
  | .kvLeave r => Sys2Proof.Machine.execKvLeave r s
  | .bootStageComplete b => Sys2Proof.Machine.execBootStageComplete b s
  | .attestReport r host => Sys2Proof.Machine.execAttestReport r host s
  | .certRead r host => Sys2Proof.Machine.execCertRead r host s
  | .spdmTransfer r host => Sys2Proof.Machine.execSpdmTransfer r host s
  | .keyList r => Sys2Proof.Machine.execKeyList r s
  | .keyDestroy r => Sys2Proof.Machine.execKeyDestroy r s
  | .fwWrite r host => Sys2Proof.Machine.execFwWrite r host s
  | .fwActivate r => Sys2Proof.Machine.execFwActivate r s
  | .configWrite r host => Sys2Proof.Machine.execConfigWrite r host s
  | .spdmGetCertificate oob index offset len => Sys2Proof.Machine.execSpdmGetCertificate oob index offset len s
  | .spdmChallenge oob nonce => Sys2Proof.Machine.execSpdmChallenge oob nonce s
  | .spdmGetMeasurements oob index nonce => Sys2Proof.Machine.execSpdmGetMeasurements oob index nonce s
  | .spdmKeyExchange oob all => Sys2Proof.Machine.execSpdmKeyExchange oob all s
  | .spdmHeartbeat oob session => Sys2Proof.Machine.execSpdmHeartbeat oob session s
  | .spdmEndSession oob session => Sys2Proof.Machine.execSpdmEndSession oob session s
  | .spdmSessionTimeout session => Sys2Proof.Machine.execSpdmSessionTimeout session s
  | .keyDeliver oob session d => Sys2Proof.Machine.execKeyDeliver oob session d s
  | .ideKm oob session key go => Sys2Proof.Machine.execIdeKm oob session key go s
  | .flrVf fn => Sys2Proof.Machine.execFlrVf fn s
  | .flrPf => Sys2Proof.Machine.execFlrPf s
  | .hotReset => Sys2Proof.Machine.execHotReset s
  | .d3hotEntry => Sys2Proof.Machine.execD3hotEntry s
  | .hostDmaFault ctx fn addr kind write code => Sys2Proof.Machine.execHostDmaFault ctx fn addr kind write code s
  | .modResetNAssert => Sys2Proof.Machine.execModResetNAssert s
  | .modResetNRelease => Sys2Proof.Machine.execModResetNRelease s
  | .ppsEdge => Sys2Proof.Machine.execPpsEdge s
  | .ppsLost => Sys2Proof.Machine.execPpsLost s
  | .i3cSetdasa static_ addr => Sys2Proof.Machine.execI3cSetdasa static_ addr s
  | .i3cEntdaa addr => Sys2Proof.Machine.execI3cEntdaa addr s
  | .mctpSetEndpointId eid => Sys2Proof.Machine.execMctpSetEndpointId eid s
  | .pldmGetSensorReading sensor => Sys2Proof.Machine.execPldmGetSensorReading sensor s
  | .pldmSensorUpdate => Sys2Proof.Machine.execPldmSensorUpdate s
  | .inputPowerRise => Sys2Proof.Machine.execInputPowerRise s
  | .inputSag => Sys2Proof.Machine.execInputSag s
  | .inputLow => Sys2Proof.Machine.execInputLow s
  | .inputSagTimeout => Sys2Proof.Machine.execInputSagTimeout s
  | .inputBelow40v => Sys2Proof.Machine.execInputBelow40v s
  | .inputHigh => Sys2Proof.Machine.execInputHigh s
  | .inputOvervoltage => Sys2Proof.Machine.execInputOvervoltage s
  | .railFault => Sys2Proof.Machine.execRailFault s
  | .refclkLoss => Sys2Proof.Machine.execRefclkLoss s
  | .refclkReturn => Sys2Proof.Machine.execRefclkReturn s
  | .powerCapRelease => Sys2Proof.Machine.execPowerCapRelease s
  | .thermalRelease region => Sys2Proof.Machine.execThermalRelease region s
  | .junctionCritical region => Sys2Proof.Machine.execJunctionCritical region s
  | .junctionTrip region => Sys2Proof.Machine.execJunctionTrip region s
  | .coolantHot => Sys2Proof.Machine.execCoolantHot s
  | .regionSet r => Sys2Proof.Machine.execRegionSet r s
  | .powerState r => Sys2Proof.Machine.execPowerState r s
  | .powerStateDone => Sys2Proof.Machine.execPowerStateDone s
  | .vfEnable num on => Sys2Proof.Machine.execVfEnable num on s
  | .d0Entry => Sys2Proof.Machine.execD0Entry s
  | .flrComplete fn => Sys2Proof.Machine.execFlrComplete fn s
  | .hostLinkReturn speed width flit => Sys2Proof.Machine.execHostLinkReturn speed width flit s
  | .pldmEventsEnable => Sys2Proof.Machine.execPldmEventsEnable s

end Sys2Proof.Machine
end

