-- ==== Sys2Proof/Machine/Tick.lean ====
section
/-! DEFINITION. Machine/Tick.lean: what 10 ns of reference-clock time do while no command waits (R47, R62). -/
namespace Sys2Proof.Machine

/-- One tick: PHASE counts within the steep, whose boundary is a command of its own. -/
def State.tick (s : State) : State :=
  if s.dark then s
  else { s with steep := { s.steep with
    ticks := s.steep.ticks + 1
    phase := min (s.steep.phase + 1) (25000 * s.steep.currentQ - 1) } }

end Sys2Proof.Machine
end

