-- ==== Sys2Proof/WellFormed.lean ====
section
/-! DEFINITION. WellFormed.lean: the operands that the block's interfaces can carry: unit, context, queue and link numbers
that exist, requests that fit a mailbox, frames and commands of their lengths (R3, R27, R83, R332, R371, R379, R476, R477). -/
namespace Sys2Proof

def coreOk (k : Nat) : Bool := decide (k < 512)
def regionOk (g : Nat) : Bool := decide (g < 32)
def dieOk (d : Nat) : Bool := decide (d < 8)
def ctxOk (x : Nat) : Bool := decide (x < 8)
def slotOk (n : Nat) : Bool := decide (n < 16)
def linkOk (l : Nat) : Bool := decide (l < 48)
def vcOk (v : Nat) : Bool := decide (v < 8)
def caddyOk (c : Nat) : Bool := decide (c < 4)
def poolOk (p : Nat) : Bool := decide (p < 2)
def qidOk (q : Nat) : Bool := decide (q < 512)
def portOk (p : Nat) : Bool := decide (p < 8)
def markOk (m : Nat) : Bool := decide (m < 4)
def mbOk (n : Nat) : Bool := decide (n < 32)
/-- Function 0 is the physical function, 1 to 8 are the virtual functions (R773). -/
def fnOk (f : Nat) : Bool := decide (f ≤ 8)
def vfnOk (f : Nat) : Bool := decide (1 ≤ f) && decide (f ≤ 8)
def byteOk (v : Nat) : Bool := decide (v < 256)
def nibOk (v : Nat) : Bool := decide (v < 16)
/-- Places of R328; the ones from 40 on are reserved. -/
def placeOk (i : Nat) : Bool := decide (i < 40)
/-- Stacks 0 to 15 and packages 16 to 23 (R323). -/
def partOk (i : Nat) : Bool := decide (i < 24)
/-- The patrols of R320. -/
def tierOk (t : Nat) : Bool := decide (t < 3)
def modelOk (m : Nat) : Bool := decide (m < 4)
def layerOk (l : Nat) : Bool := decide (l < 1023)
def shardOk (n : Nat) : Bool := decide (n < 65536)
def siteOk (n : Nat) : Bool := decide (n < 16)
/-- Generations 1 to 7 of the host link and its widths (R772, R795). -/
def speedOk (v : Nat) : Bool := decide (1 ≤ v) && decide (v ≤ 7)
def lanesOk (w : Nat) : Bool := [1, 2, 4, 8, 16].contains w

/-- A unit that the module has (R3). -/
def unitOk : UnitId → Bool
  | .module => true
  | .iod n => decide (n < 2)
  | .die n => dieOk n
  | .region n => regionOk n
  | .cluster n => decide (n < 128)
  | .core n => coreOk n
  | .caddy n => caddyOk n
  | .link n => linkOk n
  | .ctx n => ctxOk n

/-- A request that a mailbox can hold: at most 31 words (R371). -/
def reqOk (r : Req) : Bool := mbOk r.mb && decide (r.rest.length < 31)

/-- A command of a stream holds 1 to 15 words, as the WORDS field of its first word counts them (R392). -/
def cmdOk (ws : List W64) : Bool := decide (1 ≤ ws.length) && decide (ws.length < 16)

/-- Bits of a 72-bit word (R310). -/
def bitsOk (b : Nat) : Bool := decide (b < 72)

/-- Upsets name a word and one of its 72 bits (R310). -/
def upsetOk (ups : List (Nat × Nat)) : Bool := ups.all fun u => bitsOk u.2

/-- A link frame holds 32 payload words (R478); a far frame holds 36 words (R548). -/
def frameOk (f : Frame) : Bool := decide (f.payload.length = 32) && upsetOk f.upset
def farFrameOk (f : FarFrame) : Bool := decide (f.words.length = 36)

/-- A packet holds a word after its destination path. -/
def pktOk (p : Pkt) : Bool := decide (1 ≤ p.body.length)

/-- A DN has 16 bits (R495). -/
def dnOk (d : Nat) : Bool := decide (d < 65536)
def msgOk (m : CommitMsg) : Bool := dnOk m.src && decide (m.epoch < 65536) && byteOk m.cause && decide (m.rank < 65536)
def outerMsgOk (m : OuterMsg) : Bool := dnOk m.src
def beatOk (b : Beat) : Bool := dnOk b.dn && byteOk b.health && decide (b.links ≤ 48)

/-- A period of R43, and a phase within it. -/
def timingOk (w : TimingWord) : Bool :=
  decide (1 ≤ w.periodQ) && decide (w.periodQ ≤ 32) && decide (w.phase < 25000 * w.periodQ) && byteOk w.hops

def xferOk : XferRef → Bool
  | .core k => coreOk k
  | .coll x _ => ctxOk x
  | .load x _ => ctxOk x

/-- Accesses are 8 to 64 bits wide (R16 names what other widths than 32 and 64 do). -/
def accessOk (a : Access) : Bool := fnOk a.fn && [8, 16, 32, 64].contains a.width

/-- A sample names every region, stack and link once (R664, R800). -/
def sampleOk (p : PowerSample) : Bool :=
  decide (p.regions.length = 32) && decide (p.others.length = 6) && decide (p.stackTemps.length = 16) && decide (p.optics.length = 48)

/-- Keys have 256 bits (R761). -/
def deliveryOk (d : KeyDelivery) : Bool := decide (d.key.length = 4)

/-- A command whose operands the interfaces can carry. -/
def Instr.wf : Instr → Bool
  | .regWrite a => accessOk a
  | .rcRegisterRead a => accessOk a
  | .unmappedAccess a _ => accessOk a
  | .steepPeriodWrite _ _ => true
  | .steepSwitchAtWrite _ _ => true
  | .steepPhaseRead _ => true
  | .steepCountRead _ => true
  | .steepLatchRelease => true
  | .steepBoundary => true
  | .timing link w => linkOk link && timingOk w
  | .timeLostClear => true
  | .timeHoldover => true
  | .compositeMemberTimeout _ => true
  | .fenceDrainComplete u => unitOk u
  | .fenceTerminationsDone u => unitOk u
  | .fenceEscalated u => unitOk u
  | .fenceResetDue u => unitOk u
  | .deadlineBoundary => true
  | .deadlineSliceCe ctx slot => ctxOk ctx && slotOk slot
  | .deadlineSliceUc ctx slot => ctxOk ctx && slotOk slot
  | .deadlineXferCe w => xferOk w
  | .deadlineXferUc w => xferOk w
  | .deadlinePour core => coreOk core
  | .deadlineCaddy caddy => caddyOk caddy
  | .deadlineAudit => true
  | .auditComplete => true
  | .powerSample p => sampleOk p
  | .mtFwd core cmd => coreOk core && cmdOk cmd
  | .mtDgrad core cmd => coreOk core && cmdOk cmd
  | .mtWgrad core cmd => coreOk core && cmdOk cmd
  | .tileStart core => coreOk core
  | .passSettleEnd core _ u => coreOk core && upsetOk u.stored && upsetOk u.cells
  | .pourComplete core _ upset => coreOk core && upsetOk upset
  | .strainerInjectArm core _ _ => coreOk core
  | .sliceComplete ctx slot _ _ => ctxOk ctx && slotOk slot
  | .gradGather core cmd => coreOk core && cmdOk cmd
  | .gradGatherComplete core => coreOk core
  | .vecRun core cmd => coreOk core && cmdOk cmd
  | .vecRunComplete core _ => coreOk core
  | .nop core _ => coreOk core
  | .vsetvl core _ => coreOk core
  | .sli core _ => coreOk core
  | .sshli core _ => coreOk core
  | .sadd core _ => coreOk core
  | .smul core _ => coreOk core
  | .sld core _ => coreOk core
  | .sst core _ => coreOk core
  | .vext core _ => coreOk core
  | .vbcst core _ => coreOk core
  | .vmset core _ => coreOk core
  | .vmget core _ => coreOk core
  | .vmop core _ => coreOk core
  | .vidx core _ => coreOk core
  | .sgetf core _ => coreOk core
  | .sclrf core _ => coreOk core
  | .vld core _ => coreOk core
  | .vst core _ => coreOk core
  | .vlds core _ => coreOk core
  | .vsts core _ => coreOk core
  | .vunpk core _ => coreOk core
  | .vpack core _ => coreOk core
  | .vcvt core _ => coreOk core
  | .vfadd core _ => coreOk core
  | .vfsub core _ => coreOk core
  | .vfmul core _ => coreOk core
  | .vfma core _ => coreOk core
  | .vfdiv core _ => coreOk core
  | .vfsqrt core _ => coreOk core
  | .vfrsqrt core _ => coreOk core
  | .vfmax core _ => coreOk core
  | .vfmin core _ => coreOk core
  | .vfabs core _ => coreOk core
  | .vfneg core _ => coreOk core
  | .vfexp core _ => coreOk core
  | .vflog core _ => coreOk core
  | .vftanh core _ => coreOk core
  | .vfsig core _ => coreOk core
  | .vfcmp core _ => coreOk core
  | .vbadd core _ => coreOk core
  | .vbmul core _ => coreOk core
  | .vbfma core _ => coreOk core
  | .vbpack core _ => coreOk core
  | .viadd core _ => coreOk core
  | .visub core _ => coreOk core
  | .viadds core _ => coreOk core
  | .visubs core _ => coreOk core
  | .vimul core _ => coreOk core
  | .vimuls core _ => coreOk core
  | .vimax core _ => coreOk core
  | .vimin core _ => coreOk core
  | .viabs core _ => coreOk core
  | .vshl core _ => coreOk core
  | .vshls core _ => coreOk core
  | .vshr core _ => coreOk core
  | .vsra core _ => coreOk core
  | .vsrar core _ => coreOk core
  | .vicmp core _ => coreOk core
  | .vand core _ => coreOk core
  | .vor core _ => coreOk core
  | .vxor core _ => coreOk core
  | .vnot core _ => coreOk core
  | .vperm core _ => coreOk core
  | .vrot core _ => coreOk core
  | .vsel core _ => coreOk core
  | .vfredsum core _ => coreOk core
  | .vfredmax core _ => coreOk core
  | .viredsum core _ => coreOk core
  | .vsmrst core _ => coreOk core
  | .vsmmax core _ => coreOk core
  | .vsmsum core _ => coreOk core
  | .vsmnrm core _ => coreOk core
  | .vxent core _ => coreOk core
  | .vnacc core _ => coreOk core
  | .vnfin core _ => coreOk core
  | .vfnorm core _ => coreOk core
  | .xfer core cmd upset => coreOk core && cmdOk cmd && upsetOk upset
  | .xferComplete core => coreOk core
  | .scrubRead tier _ => tierOk tier
  | .repairListAdd place _ => placeOk place
  | .eccInjectArm _ _ => true
  | .memoryTrainingStepDone part _ => partOk part
  | .periodicCalibration stack package => nibOk stack && ctxOk package
  | .queueOpen pool qid port ty ctx => poolOk pool && qidOk qid && portOk port && byteOk ty && (match ctx with | some x => ctxOk x | none => true)
  | .queueAppend pool qid port _ _ => poolOk pool && qidOk qid && portOk port
  | .queueCommit pool qid port => poolOk pool && qidOk qid && portOk port
  | .queueAbort pool qid port => poolOk pool && qidOk qid && portOk port
  | .queueRead pool qid _ upset links => poolOk pool && qidOk qid && upsetOk upset && upsetOk links
  | .queueNext pool qid => poolOk pool && qidOk qid
  | .queueMark pool qid m => poolOk pool && qidOk qid && markOk m
  | .queueCursorRewind pool qid m => poolOk pool && qidOk qid && markOk m
  | .queueRelease pool qid _ => poolOk pool && qidOk qid
  | .queuePurge pool qid _ => poolOk pool && qidOk qid
  | .producerCellGrant pool qid port => poolOk pool && qidOk qid && portOk port
  | .queueNoCell pool qid port => poolOk pool && qidOk qid && portOk port
  | .queueDrained pool qid => poolOk pool && qidOk qid
  | .poolSweepComplete w => poolOk w.pool && w.crossed.all fun e => qidOk e.1 && qidOk e.2
  | .heldEventWrite ctx => ctxOk ctx
  | .mbDoorbell fn mb _ => fnOk fn && mbOk mb
  | .mbCompAck fn mb _ => fnOk fn && mbOk mb
  | .mbCfgReset fn mb _ => fnOk fn && mbOk mb
  | .getVersion r => reqOk r
  | .unitQuery r => reqOk r
  | .unitFence r => reqOk r
  | .unitRelease r => reqOk r
  | .unitEnable r => reqOk r
  | .unitDisable r => reqOk r
  | .unitReset r => reqOk r
  | .contextCreate r => reqOk r
  | .contextDestroy r => reqOk r
  | .contextPartition r => reqOk r
  | .dieSchedule r => reqOk r
  | .contextInfo r => reqOk r
  | .streamSubmit r _ => reqOk r
  | .streamCancel r => reqOk r
  | .slotResume r => reqOk r
  | .stageMap r => reqOk r
  | .interferenceSet r => reqOk r
  | .domainPeriod r => reqOk r
  | .compositeDeclare r => reqOk r
  | .compositeDissolve r => reqOk r
  | .stream ctx slot cmd => ctxOk ctx && slotOk slot && cmdOk cmd
  | .slice ctx slot cmd => ctxOk ctx && slotOk slot && cmdOk cmd
  | .sectionCmd ctx slot cmd => ctxOk ctx && slotOk slot && cmdOk cmd
  | .literals ctx slot cmd => ctxOk ctx && slotOk slot && cmdOk cmd
  | .keepLive ctx slot cmd => ctxOk ctx && slotOk slot && cmdOk cmd
  | .mark ctx slot cmd => ctxOk ctx && slotOk slot && cmdOk cmd
  | .contextSwitchComplete w => dieOk w.die && upsetOk w.upset
  | .interferenceWindowEnd ctx => ctxOk ctx
  | .updStep ctx slot cmd => ctxOk ctx && slotOk slot && cmdOk cmd
  | .updInit ctx slot cmd => ctxOk ctx && slotOk slot && cmdOk cmd
  | .updCarry ctx slot cmd => ctxOk ctx && slotOk slot && cmdOk cmd
  | .updCopy ctx slot cmd => ctxOk ctx && slotOk slot && cmdOk cmd
  | .updOuterDiff ctx slot cmd => ctxOk ctx && slotOk slot && cmdOk cmd
  | .updOuterApply ctx slot cmd => ctxOk ctx && slotOk slot && cmdOk cmd
  | .updRetire ctx slot cmd => ctxOk ctx && slotOk slot && cmdOk cmd
  | .caddyTileDone caddy w => caddyOk caddy && upsetOk w.upset
  | .fabricIdentity r => reqOk r
  | .fabricNeighbours r => reqOk r
  | .routeLoad r => reqOk r
  | .routeDepths r => reqOk r
  | .routeCommit r => reqOk r
  | .linkAlloc r => reqOk r
  | .linkRetrain r => reqOk r
  | .collGroup r => reqOk r
  | .infuseChain r => reqOk r
  | .dataFrame link f => linkOk link && frameOk f
  | .idle link f => linkOk link && frameOk f
  | .creditInit link vc _ => linkOk link && vcOk vc
  | .discovery link f => linkOk link && frameOk f
  | .heartbeat link b => linkOk link && beatOk b
  | .nakRepeat link => linkOk link
  | .ackTimeoutReplay link => linkOk link
  | .ackStall link => linkOk link
  | .frameReplayLimit link => linkOk link
  | .codewordLockLost link => linkOk link
  | .linkTrainingDone link => linkOk link
  | .linkTrainingFailed link => linkOk link
  | .packetSend link => linkOk link
  | .creditStall link vc => linkOk link && vcOk vc
  | .routeGenerationRetire => true
  | .kettlePacket p => pktOk p
  | .collRs ctx slot cmd => ctxOk ctx && slotOk slot && cmdOk cmd
  | .collAg ctx slot cmd => ctxOk ctx && slotOk slot && cmdOk cmd
  | .collAr ctx slot cmd => ctxOk ctx && slotOk slot && cmdOk cmd
  | .collCodecAr ctx slot cmd => ctxOk ctx && slotOk slot && cmdOk cmd
  | .collBcast ctx slot cmd => ctxOk ctx && slotOk slot && cmdOk cmd
  | .collBarrier ctx slot cmd => ctxOk ctx && slotOk slot && cmdOk cmd
  | .collSend ctx slot cmd => ctxOk ctx && slotOk slot && cmdOk cmd
  | .collRecv ctx slot cmd => ctxOk ctx && slotOk slot && cmdOk cmd
  | .collectivePacket p => pktOk p
  | .collectiveComplete ctx _ => ctxOk ctx
  | .collTimeout ctx _ => ctxOk ctx
  | .infuserPacket p => pktOk p
  | .mirrorPacket p => pktOk p
  | .decantPacket p => pktOk p
  | .farEnable r => reqOk r
  | .farDisable r => reqOk r
  | .farKeyLoad r => reqOk r
  | .farKeySwitch r => reqOk r
  | .outerConfig r => reqOk r
  | .outerJoin r => reqOk r
  | .outerReanchor r => reqOk r
  | .farTrainingDone link _ => linkOk link
  | .farDataFrame link f => linkOk link && farFrameOk f
  | .farIdle link f => linkOk link && farFrameOk f
  | .farDiscovery link f => linkOk link && farFrameOk f
  | .farTime link f => linkOk link && farFrameOk f
  | .farAck link f => linkOk link && farFrameOk f
  | .farRestartFrame link f => linkOk link && farFrameOk f
  | .farAckSend link => linkOk link
  | .farHoldExpiry link => linkOk link
  | .farReplayTimeout link => linkOk link
  | .farAckStall link => linkOk link
  | .farCodewordLockLost link => linkOk link
  | .farRetrainTimeout link => linkOk link
  | .farAuth link => linkOk link
  | .farKeyAge link => linkOk link
  | .farPacketEnter link => linkOk link
  | .touchReport m => outerMsgOk m
  | .touchExpiry ctx site => ctxOk ctx && siteOk site
  | .outerSendDone ctx => ctxOk ctx
  | .outerHave m => outerMsgOk m
  | .outerResendRequest m => outerMsgOk m
  | .outerDeadline ctx => ctxOk ctx
  | .outerDecide m => outerMsgOk m
  | .outerMergeDone ctx => ctxOk ctx
  | .outerHello m => outerMsgOk m
  | .sealMsg m => msgOk m
  | .epochSeal ctx _ => ctxOk ctx
  | .sealLate ctx _ => ctxOk ctx
  | .sealMissing ctx _ _ => ctxOk ctx
  | .stepFail m => msgOk m
  | .readySend ctx => ctxOk ctx
  | .ready m => msgOk m
  | .commit m => msgOk m
  | .abort m => msgOk m
  | .query m => msgOk m
  | .decision m => msgOk m
  | .mirrorDone m => msgOk m
  | .queryTimeout ctx => ctxOk ctx
  | .commitTimeout ctx => ctxOk ctx
  | .heartbeatMissed link => linkOk link
  | .vote m => msgOk m
  | .expel m => msgOk m
  | .memberSync m => msgOk m
  | .healthAsk m => msgOk m
  | .healthReply m => msgOk m
  | .healthScoreForm => true
  | .healthBudgetRoom => true
  | .jobConfig r => reqOk r
  | .jobMembers r => reqOk r
  | .stepCapture r => reqOk r
  | .stepReplay r => reqOk r
  | .replayComplete ctx => ctxOk ctx
  | .jobJoin r => reqOk r
  | .joinComplete ctx => ctxOk ctx
  | .spareTakeover r => reqOk r
  | .takeoverComplete ctx => ctxOk ctx
  | .decant r => reqOk r
  | .decantComplete ctx => ctxOk ctx
  | .readmit r => reqOk r
  | .healthConfig r => reqOk r
  | .watchdogExpiry u _ => unitOk u
  | .kettleWatchdogExpiry => true
  | .resetRungComplete u _ _ => unitOk u
  | .resetTimeout u _ => unitOk u
  | .moduleResetTimeout => true
  | .faWarmReset => true
  | .recordsLost => true
  | .recordAgeRelease => true
  | .errRead r => reqOk r
  | .errClear r => reqOk r
  | .errCrashLog r => reqOk r
  | .resetLimits r => reqOk r
  | .serviceRestore r => reqOk r
  | .blendLoad r _ => reqOk r
  | .blendRun r => reqOk r
  | .blendAbort r => reqOk r
  | .blendItemComplete u _ => unitOk u
  | .blendItemSkip u => unitOk u
  | .marginLow u => unitOk u
  | .marginCritical region => regionOk region
  | .infLoad ctx slot cmd _ => ctxOk ctx && slotOk slot && cmdOk cmd
  | .infGate ctx slot cmd => ctxOk ctx && slotOk slot && cmdOk cmd
  | .infDrop ctx slot cmd => ctxOk ctx && slotOk slot && cmdOk cmd
  | .shardComplete ctx model layer shard _ => ctxOk ctx && modelOk model && layerOk layer && shardOk shard
  | .shardTimeout ctx model layer shard => ctxOk ctx && modelOk model && layerOk layer && shardOk shard
  | .layerCopyDone ctx model => ctxOk ctx && modelOk model
  | .modelDefine r => reqOk r
  | .modelRelease r => reqOk r
  | .replaceStart r => reqOk r
  | .replaceResume r => reqOk r
  | .replaceRollback r => reqOk r
  | .kvConfig r => reqOk r
  | .kvJoin r => reqOk r
  | .kvGrow r => reqOk r
  | .kvLeave r => reqOk r
  | .bootStageComplete _ => true
  | .attestReport r _ => reqOk r
  | .certRead r _ => reqOk r
  | .spdmTransfer r _ => reqOk r
  | .keyList r => reqOk r
  | .keyDestroy r => reqOk r
  | .fwWrite r _ => reqOk r
  | .fwActivate r => reqOk r
  | .configWrite r _ => reqOk r
  | .spdmGetCertificate _ _ _ _ => true
  | .spdmChallenge _ _ => true
  | .spdmGetMeasurements _ _ _ => true
  | .spdmKeyExchange _ _ => true
  | .spdmHeartbeat _ _ => true
  | .spdmEndSession _ _ => true
  | .spdmSessionTimeout _ => true
  | .keyDeliver _ _ d => deliveryOk d
  | .ideKm _ _ _ _ => true
  | .flrVf fn => vfnOk fn
  | .flrPf => true
  | .hotReset => true
  | .d3hotEntry => true
  | .hostDmaFault ctx fn _ _ _ _ => ctxOk ctx && fnOk fn
  | .modResetNAssert => true
  | .modResetNRelease => true
  | .ppsEdge => true
  | .ppsLost => true
  | .i3cSetdasa _ _ => true
  | .i3cEntdaa _ => true
  | .mctpSetEndpointId eid => byteOk eid
  | .pldmGetSensorReading _ => true
  | .pldmSensorUpdate => true
  | .inputPowerRise => true
  | .inputSag => true
  | .inputLow => true
  | .inputSagTimeout => true
  | .inputBelow40v => true
  | .inputHigh => true
  | .inputOvervoltage => true
  | .railFault => true
  | .refclkLoss => true
  | .refclkReturn => true
  | .powerCapRelease => true
  | .thermalRelease region => regionOk region
  | .junctionCritical region => regionOk region
  | .junctionTrip region => regionOk region
  | .coolantHot => true
  | .regionSet r => reqOk r
  | .powerState r => reqOk r
  | .powerStateDone => true
  | .vfEnable num _ => fnOk num
  | .d0Entry => true
  | .flrComplete fn => fnOk fn
  | .hostLinkReturn speed width _ => speedOk speed && lanesOk width
  | .pldmEventsEnable => true

end Sys2Proof
end

