-- ==== Sys2Proof/Safety.lean ====
section
/-! DEFINITION. Safety.lean: what must hold of a state in every steep: the conserved quantities that the audit checks (R74,
R360, R370, R566, R612), memories in their one form, and a period and phase that the steep's registers can hold (R43). -/
namespace Sys2Proof.Machine

/-- Every cell of a pool is free or in exactly one packet (R360). -/
abbrev Pool.conserved (p : Pool) : Prop := p.free + p.sum Queue.cells = 262144

/-- No port has two open packets, and an OPEN that waits has written nothing and holds no cell (R337, R344). -/
def Queue.tidy (q : Queue) : Prop :=
  (q.ports.map fun e => e.1).Nodup ∧ ∀ e ∈ q.ports, e.2.started = false → e.2.words = [] ∧ e.2.chain = []

/-- Every cell of every pool is free or in exactly one packet, and the pools' tables keep one entry for each key (R360). -/
def State.poolsTidy (s : State) : Prop :=
  ∀ p, (s.pool p).conserved ∧ ((s.pool p).queues.map fun e => e.1).Nodup ∧ ∀ e ∈ (s.pool p).queues, e.2.tidy

/-- The mailbox-token equation (R370). -/
abbrev Mailbox.conserved (m : Mailbox) : Prop := m.free + m.pending + m.unread = 16

/-- Every request of a mailbox that stands in its queue, whose completion waits for room, or that a mailbox reset is to complete, is
counted as pending (R370, R376). -/
abbrev State.backed (s : State) (mb : Nat) : Prop :=
  (s.queue 0 (0x100 + 2 * mb)).packets.length + (s.mailbox mb).due.length + (s.mailbox mb).resetTags.length ≤ (s.mailbox mb).pending

/-- The request that stands oldest in a mailbox, where there is one, is the kettle's to take: it has a defined code, or one of the
mailbox's requests is still at other modules (R373, R382). `ws` are the words of the oldest request. -/
abbrev State.keepsOldest (s : State) (mb : Nat) (ws : List W64) : Prop :=
  s.waitsFan mb = true ∨ definedCodes.contains (fld (ws.getD 0 0#64) 15 0) = true

/-- The commit-token equation (R612). -/
abbrev Job.conserved (j : Job) : Prop := j.received = j.forwarded + j.holding

/-- The slots of a far link's buffer (R566). -/
abbrev Far.conserved (f : Far) : Prop := f.freeSlots + f.held.length = 1519104

/-- The module's memory is in its one form: addresses rise and no listed byte reads as an unlisted one. -/
def State.memoryWf (s : State) : Prop := s.mem.space.wf = true

/-- A period that STEEP_PERIOD can hold (R43). -/
abbrev periodLegal (q : Nat) : Prop := 1 ≤ q ∧ q ≤ 32

/-- The period in force and the next one are legal, and the phase lies within the steep (R43, R44, R46). -/
def Steep.legal (t : Steep) : Prop := periodLegal t.currentQ ∧ periodLegal t.nextQ ∧ t.phase < 25000 * t.currentQ

/-- The commands that wait are ones that the interfaces can carry. -/
def State.queueWf (s : State) : Prop := ∀ c ∈ s.pending, c.wf = true

/-! ### A mailbox command that reaches its meaning (R373, R379, R841) -/

/-- Word 0 of a request, its tag, its path words, its hops and its argument words. -/
def reqHead (r : Req) (code : Nat) : W64 := (reqWords r code).getD 0 0#64
def reqTag (r : Req) (code : Nat) : Nat := fld (reqHead r code) 31 16
def reqPath (r : Req) (code : Nat) : List W64 := ((reqWords r code).drop 1).take (fld (reqHead r code) 34 32)
def reqHops (r : Req) (code : Nat) : List Nat := pathHops (reqPath r code)
def reqArgs (r : Req) (code : Nat) : List W64 := (reqWords r code).drop (1 + fld (reqHead r code) 34 32)

/-- The request stands oldest in the queue of its mailbox, the kettle takes requests of that mailbox and waits for no other module
on its behalf (R373), word 0 and the path are well formed, the path names unit `u` of this module, and the mailbox may name it. A command of class Admin, for a unit
for which `admin` says so, comes through an Admin mailbox; one with no context hop names no context. -/
def State.asked (s : State) (r : Req) (code : Nat) (ctxHop : Bool) (admin : UnitId → Bool) (u : UnitId) : Bool :=
  s.trust.stage == 0x0F && !s.host.d3hot && !s.dark && decide (r.mb < 32) && !(s.host.flr.contains (s.owner r.mb)) && !(s.waitsFan r.mb) &&
  ((s.queue 0 (0x100 + 2 * r.mb)).packets.head?.map fun k => k.words) == some (reqWords r code) &&
  fld (reqHead r code) 63 35 == 0 && decide (fld (reqHead r code) 34 32 ≤ 4) &&
  decide (1 + fld (reqHead r code) 34 32 ≤ (reqWords r code).length) && pathWordsOk (reqPath r code) &&
  s.resolve (reqHops r code) == some (.unit u) && s.mayName r.mb (.unit u) && (!(admin u) || s.isAdmin r.mb) &&
  (ctxHop || (match u with | .ctx _ => false | _ => true))

/-- The state when the request has left its queue. -/
def State.taken (s : State) (r : Req) : State := s.takeOldest 0 (0x100 + 2 * r.mb)

/-- The request as its meaning sees it. -/
def reqOf (r : Req) (code : Nat) (u : UnitId) : KReq := ⟨r.mb, reqTag r code, code, u, reqArgs r code⟩

/-- The request completes with a status and reply words in the mailbox's completion queue, and requests of undefined codes
behind it are answered in turn (R373, R382). -/
def answered (r : Req) (code st : Nat) (reply : List W64) (s : State) : Host.Outcome State Fault Refusal :=
  .next ((s.complete r.mb code (reqTag r code) st reply).answerUndefined r.mb)

/-! ### A message of the commit engine that a member takes (R594, R628) -/

/-- The message is not stamped for the next steep (R55), comes from no expelled module, and context `x` is a member of the job that it
names. -/
def State.takesMsg (s : State) (m : CommitMsg) (msg x : Nat) : Bool :=
  !(s.isEarly m.epoch) && !((s.tookMsg m msg).shuns m.src) && (s.tookMsg m msg).ctxOfJob m.job == some x

/-- What an abort of step `n` leaves of a context's job: the lead's decision aside, every step from `n` on is aborting or gone,
earlier steps stay, and the abort is counted (R606, R607). -/
def AbortedFrom (old new : Job) (n : Nat) : Prop :=
  new.aborts = satN 16 (old.aborts + 1) ∧ (∀ q ∈ new.steps, n ≤ q.step → q.phase = .aborting) ∧
  ∀ q : StepSt, q.step < n → (q ∈ new.steps ↔ q ∈ old.steps)

/-- What a commit of step `n` with version `v` in steep `k` leaves: it is due at the next boundary, kept as decided, and counted
as received and forwarded (R610, R612, R614). -/
def CommittedTo (old new : Job) (n v k : Nat) : Prop :=
  new.commitDue = some (n, v, k) ∧ new.decisions.head? = some (n, 1) ∧ new.received = old.received + 1 ∧ new.forwarded = old.forwarded + 1 ∧
  ∀ q ∈ new.steps, q.step = n → q.phase = .commitPending

/-! ### A vector instruction in its place (R253) -/

/-- Instruction `w` with opcode `op` stands next in the run `r` of core `k`. -/
abbrev State.runsNext (s : State) (k : Nat) (w : W64) (op : Nat) (r : VRun) : Prop :=
  (s.core k).vrun = some r ∧ r.ended = false ∧ r.prog.getD r.pc 0#64 = w ∧ fld w 7 0 = op

/-- What the instruction sees. -/
def State.vin (s : State) (k : Nat) (w : W64) (r : VRun) : VIn :=
  { f := vfOf w, run := r, vec := (s.core k).vec, mem := (s.core k).store }

/-- The core's vector registers are `v` and the run has moved on; nothing else changes. -/
def State.vecMoved (s : State) (k : Nat) (r : VRun) (v : VecState) : State :=
  s.updCore k fun c => { c with vec := v, vrun := some r.next }

/-- Flags after an instruction whose lane i raised `fl i` (R250): VFLAGS gathers them, and with FE the mask register that FM
names holds one bit a lane; other mask registers stay. -/
def FlagsResult (x : VIn) (v : VecState) (fl : Nat → Nat) : Prop :=
  (∀ b, Nat.testBit v.flags b = (Nat.testBit x.vec.flags b || (List.range 64).any fun i => Nat.testBit (fl i) b)) ∧
  (∀ q, q ≠ x.f.fm ∨ x.f.fe = false → v.mreg q = x.vec.mreg q) ∧
  (x.f.fe = true → x.f.fm ≠ 0 → ∀ i, i < 64 → bitAt (v.mreg x.f.fm) i = decide (fl i ≠ 0))

/-- Registers after a lane instruction (R246, R247): an active lane of VD takes its result, an inactive lane below VL becomes 0
or stays as ZERO says, every other lane and every other register stays, and the flags are those of the active lanes. -/
def LaneResult (x : VIn) (v : VecState) (g : Nat → W32 × Nat) : Prop :=
  (∀ i, i < 64 → v.lane x.f.vd i =
    if x.active i then (g i).1 else if x.f.zero = true ∧ i < x.vec.vl then 0#32 else x.vec.lane x.f.vd i) ∧
  (∀ q i, q ≠ x.f.vd → v.lane q i = x.vec.lane q i) ∧ v.sc = x.vec.sc ∧ v.vl = x.vec.vl ∧
  FlagsResult x v fun i => if x.active i then (g i).2 else 0

/-- A row of the instruction table whose lanes are independent runs, changes the vector state of its core as `LaneResult`
says, moves the run on, and changes nothing else of the machine. -/
def LaneRow (c : Nat → W64 → Instr) (op : Nat) (g : VIn → Nat → W32 × Nat) : Prop :=
  ∀ (s : State) (k : Nat) (w : W64) (r : VRun), s.runsNext k w op r →
    ∃ v, exec (c k w) s = .next (s.vecMoved k r v) ∧ LaneResult (s.vin k w r) v (g (s.vin k w r))

/-- A comparison: each active lane's bit of the mask register VD is the relation, an inactive bit below VL becomes 0 or stays, M0
stays all ones, and nothing else of the machine changes but the flag mask that FM names, which is cleared. -/
def CompareRow (c : Nat → W64 → Instr) (op : Nat) (g : VIn → Nat → Bool) : Prop :=
  ∀ (s : State) (k : Nat) (w : W64) (r : VRun), s.runsNext k w op r →
    ∃ v, exec (c k w) s = .next (s.vecMoved k r v) ∧
      v.sc = (s.vin k w r).vec.sc ∧ v.vl = (s.vin k w r).vec.vl ∧ v.v = (s.vin k w r).vec.v ∧ v.flags = (s.vin k w r).vec.flags ∧
      (∀ q, q ≠ (vfOf w).vd → q ≠ (vfOf w).fm ∨ (vfOf w).fe = false → v.mreg q = (s.vin k w r).vec.mreg q) ∧
      ((vfOf w).vd ≠ 0 → (vfOf w).vd ≠ (vfOf w).fm ∨ (vfOf w).fe = false → ∀ i, i < 64 → bitAt (v.mreg (vfOf w).vd) i =
        if (s.vin k w r).active i then g (s.vin k w r) i
        else if (vfOf w).zero = true ∧ i < (s.vin k w r).vec.vl then false else bitAt ((s.vin k w r).vec.mreg (vfOf w).vd) i)

/-- A row without lane results: the registers become those that `g` gives with the flags `fl`, the run moves on, and nothing
else of the machine changes. -/
def PlainRow (c : Nat → W64 → Instr) (op : Nat) (g : VIn → VecState) (fl : VIn → List Nat) : Prop :=
  ∀ (s : State) (k : Nat) (w : W64) (r : VRun), s.runsNext k w op r →
    exec (c k w) s = .next (s.vecMoved k r ((s.vin k w r).flagged { vec := g (s.vin k w r), lanes := fl (s.vin k w r) }))

/-- A load's active lanes lie in the spans of the run, and no word of the core store is in error. -/
def GatherRow (c : Nat → W64 → Instr) (op : Nat) (addr : VIn → Nat → Nat) : Prop :=
  ∀ (s : State) (k : Nat) (w : W64) (r : VRun), s.runsNext k w op r → (s.core k).store.syn = [] →
    (∀ i, i < 64 → (s.vin k w r).active i = true → (vcmdOf r.cmd).mayRead (addr (s.vin k w r) i) 4 = true) →
    ∃ v, exec (c k w) s = .next (s.vecMoved k r v) ∧
      LaneResult (s.vin k w r) v fun i => ((s.core k).store.lane32 (addr (s.vin k w r) i), 0)

/-- The bytes from `a` up that a store of `n` bytes writes. -/
abbrev within (a n b : Nat) : Prop := a ≤ b ∧ b < a + n

/-- A store of one 32-bit word for each active lane, in spans it may write, with no word in error and no injection armed: a
byte that no active lane's four bytes cover keeps its value; the four bytes of an active lane that no higher active lane
writes are the lane's; no register but the flag mask that FM names, no other core and no
other part of the machine's memory changes. -/
def ScatterRow (c : Nat → W64 → Instr) (op : Nat) (addr : VIn → Nat → Nat) : Prop :=
  ∀ (s : State) (k : Nat) (w : W64) (r : VRun), s.runsNext k w op r → (s.core k).store.syn = [] → s.mem.injArm = false →
    (∀ i, i < 64 → (s.vin k w r).active i = true → (vcmdOf r.cmd).mayWrite (addr (s.vin k w r) i) 4 = true) →
    ∃ t, exec (c k w) s = .next t ∧ (t.core k).vec = (s.vin k w r).flagged { vec := (s.core k).vec } ∧
      (t.core k).vrun = some r.next ∧ t.mem.space = s.mem.space ∧ (∀ j, j ≠ k → t.core j = s.core j) ∧
      (∀ b, (∀ i, i < 64 → (s.vin k w r).active i = true → ¬ within (addr (s.vin k w r) i) 4 b) →
        (t.core k).store.byte b = (s.core k).store.byte b) ∧
      (∀ i, i < 64 → (s.vin k w r).active i = true →
        (∀ j, i < j → j < 64 → (s.vin k w r).active j = true → addr (s.vin k w r) j ≠ addr (s.vin k w r) i) →
        ∀ n, n < 4 → (t.core k).store.byte (addr (s.vin k w r) i + n) =
          BitVec.ofNat 8 ((((s.core k).vec.lane (vfOf w).va i).toNat) / 2 ^ (8 * n)))

end Sys2Proof.Machine
end

