-- ==== Sys2Proof/Certificates/Slice0/Obligations.lean ====
section
/-! DEFINITION. Certificates/Slice0/Obligations.lean: the statements about the model, for the provers. -/

open Sys2Proof
open Sys2Proof.Machine

/-- For every command c and every state whose queue is c followed by rest, step answers what exec c answers on the state
with the queue rest. (The queue of waiting commands is the model's own: notes/assumptions/68.) (R373) -/
def Obligations.StepRunsFrontCommand : Prop :=
  ∀ (c : Instr) (rest : List Instr) (s : State), s.pending = c :: rest → step s = exec c { s with pending := rest }

/-- With no command waiting, step answers a next state: a module that is off, held in reset, without clock or in M3 is
unchanged; else the reference-clock ticks and PHASE count one, PHASE no further than the steep's last tick. (Model's
choice: notes/assumptions/1.) (R43, R47, R62) -/
def Obligations.IdleStepCountsOneTick : Prop :=
  ∀ s : State, s.pending = [] →
    (s.dark = true → step s = .next s) ∧
    (s.dark = false → step s = .next { s with steep := { s.steep with
      ticks := s.steep.ticks + 1, phase := min (s.steep.phase + 1) (25000 * s.steep.currentQ - 1) } })

/-- For every command and every state, when exec answers a next state, the commands that wait are those that waited
before: the queue changes only by step's taking its front. (The queue is the model's own: notes/assumptions/68.)
(R373) -/
def Obligations.CommandsLeaveTheQueueAlone : Prop :=
  ∀ (c : Instr) (s t : State), exec c s = .next t → t.pending = s.pending

/-- For every state whose memory lists rising addresses and no byte equal to what an unlisted byte reads as, if step
answers a next state, that state's memory has the same form. (That an unlisted byte reads 0 is the model's choice:
notes/assumptions/13.) (R294, R312, R315, R323) -/
def Obligations.MemoryFormKeptByEveryStep : Prop :=
  ∀ s t : State, s.memoryWf → step s = .next t → t.memoryWf

/-- For every state whose period in force and next period are 1 to 32 units and whose PHASE lies below the steep's length,
if step answers a next state, the same holds of it. (R43, R44, R46, R47, R51) -/
def Obligations.SteepStaysLegalInEveryStep : Prop :=
  ∀ s t : State, s.steep.legal → step s = .next t → t.steep.legal

/-- State.reset has no waiting command, memory in its one form, a legal steep with CURRENT_Q and NEXT_Q 4 and AT_COUNT all
ones, 16 free tokens in every mailbox with none pending or unread, and every vector register, scalar and mask register
of every core at zero but M0, VL 64 and VFLAGS zero. (R43, R44, R74, R243, R370) -/
def Obligations.ResetStateMeetsTheInvariants : Prop :=
  State.reset.pending = [] ∧ State.reset.memoryWf ∧ State.reset.steep.legal ∧ State.reset.steep.currentQ = 4 ∧
  State.reset.steep.nextQ = 4 ∧ State.reset.steep.atCount = 0xFFFFFFFFFFFFFFFF ∧
  (∀ m, (State.reset.mailbox m).conserved ∧ (State.reset.mailbox m).pending = 0 ∧ (State.reset.mailbox m).unread = 0) ∧
  (∀ x, (State.reset.ctx x).state = .free ∧ (State.reset.ctx x).job.conserved) ∧
  (∀ k, (∀ r i, (State.reset.core k).vec.lane r i = 0#32) ∧ (∀ r, (State.reset.core k).vec.s r = 0#64) ∧
    (∀ r, r ≠ 0 → (State.reset.core k).vec.mreg r = 0#64) ∧ (State.reset.core k).vec.mreg 0 = BitVec.allOnes 64 ∧
    (State.reset.core k).vec.vl = 64 ∧ (State.reset.core k).vec.flags = 0)

/-- For VFADD, VFSUB, VFMUL, VFMA, VFDIV, VFSQRT, VFRSQRT, VFMAX, VFMIN, VFABS, VFNEG, VFEXP, VFLOG, VFTANH and VFSIG:
when the instruction stands next in its core's run, exec answers a next state in which each active lane of VD holds
the operation's result on the lanes of the sources as they stood before, inactive lanes below VL keep their value or
become 0, lanes from VL on and all other registers stay, VFLAGS and the FE mask take the flags, the run moves on, and
the rest of the machine is unchanged. (R246, R247, R249, R250, R263, R264, R265, R266, R267) -/
def Obligations.VectorFp32LanesCompute : Prop :=
  LaneRow .vfadd 0x20 (fun x i => laneRes (fadd Fmts.fp32 (x.a i) (x.b i))) ∧
  LaneRow .vfsub 0x21 (fun x i => laneRes (fsub Fmts.fp32 (x.a i) (x.b i))) ∧
  LaneRow .vfmul 0x22 (fun x i => laneRes (fmul Fmts.fp32 (x.a i) (x.b i))) ∧
  LaneRow .vfma 0x23 (fun x i => laneRes (ffma Fmts.fp32 (x.a i) (x.b i) (x.c i))) ∧
  LaneRow .vfdiv 0x24 (fun x i => laneRes (fdiv Fmts.fp32 (x.a i) (x.b i))) ∧
  LaneRow .vfsqrt 0x25 (fun x i => laneRes (fsqrt Fmts.fp32 (x.a i))) ∧
  LaneRow .vfrsqrt 0x26 (fun x i => laneRes (frsqrt Fmts.fp32 (x.a i))) ∧
  LaneRow .vfmax 0x27 (fun x i => (BitVec.ofNat 32 (fmax32 (x.a i) (x.b i)), 0)) ∧
  LaneRow .vfmin 0x28 (fun x i => (BitVec.ofNat 32 (fmin32 (x.a i) (x.b i)), 0)) ∧
  LaneRow .vfabs 0x29 (fun x i => (if (Fmts.fp32.decode (x.a i)).isNan then nan32 else BitVec.ofNat 32 (x.a i % 2 ^ 31), 0)) ∧
  LaneRow .vfneg 0x2A (fun x i => (if (Fmts.fp32.decode (x.a i)).isNan then nan32 else x.vec.lane x.f.va i ^^^ 0x80000000#32, 0)) ∧
  LaneRow .vfexp 0x2B (fun x i => laneRes (fexp Fmts.fp32 (x.a i))) ∧
  LaneRow .vflog 0x2C (fun x i => laneRes (fln Fmts.fp32 (x.a i))) ∧
  LaneRow .vftanh 0x2D (fun x i => ((laneRes (roundTo Fmts.fp32 [] (Fmts.fp32.decode (x.a i)).tanh)).1, 0)) ∧
  LaneRow .vfsig 0x2E (fun x i => laneRes (roundTo Fmts.fp32 [Fmts.fp32.decode (x.a i)] (Fmts.fp32.decode (x.a i)).sigm))

/-- VBADD, VBMUL and VBFMA act on the two BF16 elements of each active lane; VBPACK converts the lanes of Va and Vb into
the low and the high element; VCVT converts the lane of VD in place. Each answers a next state, with the frame of a
lane row: other lanes, registers, cores and the rest of the machine stay. (R245, R246, R247, R250, R263, R264, R265,
R272, R273) -/
def Obligations.VectorBf16AndConversionLanes : Prop :=
  LaneRow .vbadd 0x30 (fun x i =>
    let lo := fadd Fmts.bf16 (elem 16 (x.a i) 0) (elem 16 (x.b i) 0)
    let hi := fadd Fmts.bf16 (elem 16 (x.a i) 1) (elem 16 (x.b i) 1)
    joinElems 16 [(lo.1, lo.2.bits), (hi.1, hi.2.bits)]) ∧
  LaneRow .vbmul 0x31 (fun x i =>
    let lo := fmul Fmts.bf16 (elem 16 (x.a i) 0) (elem 16 (x.b i) 0)
    let hi := fmul Fmts.bf16 (elem 16 (x.a i) 1) (elem 16 (x.b i) 1)
    joinElems 16 [(lo.1, lo.2.bits), (hi.1, hi.2.bits)]) ∧
  LaneRow .vbfma 0x32 (fun x i =>
    let lo := ffma Fmts.bf16 (elem 16 (x.a i) 0) (elem 16 (x.b i) 0) (elem 16 (x.c i) 0)
    let hi := ffma Fmts.bf16 (elem 16 (x.a i) 1) (elem 16 (x.b i) 1) (elem 16 (x.c i) 1)
    joinElems 16 [(lo.1, lo.2.bits), (hi.1, hi.2.bits)]) ∧
  LaneRow .vbpack 0x33 (fun x i =>
    let lo := Fmts.bf16.encodeIeee (x.rnd (2 * i)) (Fmts.fp32.decode (x.a i))
    let hi := Fmts.bf16.encodeIeee (x.rnd (2 * i + 1)) (Fmts.fp32.decode (x.b i))
    joinElems 16 [(lo.1, lo.2.bits), (hi.1, hi.2.bits)]) ∧
  LaneRow .vcvt 0x16 (fun x i => x.cvt i)

/-- For the integer and shift rows: each element of each active lane, of the width FMT names, is the wrapped or saturated
exact result (SAT flag when it saturated); a count at or beyond the width gives 0 (VSHL, VSHR, VSRAR), the sign (VSRA)
or saturation (VSHLS). Other lanes and registers and the rest of the machine stay. (R246, R247, R250, R263, R264,
R268, R269, R270, R271) -/
def Obligations.VectorIntegerLanesCompute : Prop :=
  let int (g : Nat → Nat → Nat → Nat × Bool) : VIn → Nat → W32 × Nat := fun x i =>
    joinElems x.width ((List.range (32 / x.width)).map fun j =>
      let r := g x.width (elem x.width (x.a i) j) (elem x.width (x.b i) j)
      (r.1, if r.2 then 16 else 0))
  let sh (g : Nat → Nat → Nat → Nat × Bool) : VIn → Nat → W32 × Nat := fun x i =>
    int (fun n a b => g n a (if Nat.testBit x.f.imm 17 then x.f.imm % 256 else b % 256)) x i
  LaneRow .viadd 0x40 (int fun n a b => (sbits n (signed n a + signed n b), false)) ∧
  LaneRow .visub 0x41 (int fun n a b => (sbits n (signed n a - signed n b), false)) ∧
  LaneRow .viadds 0x42 (int fun n a b => satInt n (signed n a + signed n b)) ∧
  LaneRow .visubs 0x43 (int fun n a b => satInt n (signed n a - signed n b)) ∧
  LaneRow .vimul 0x44 (int fun n a b => (sbits n (signed n a * signed n b), false)) ∧
  LaneRow .vimuls 0x45 (int fun n a b => satInt n (signed n a * signed n b)) ∧
  LaneRow .vimax 0x46 (int fun n a b => (sbits n (max (signed n a) (signed n b)), false)) ∧
  LaneRow .vimin 0x47 (int fun n a b => (sbits n (min (signed n a) (signed n b)), false)) ∧
  LaneRow .viabs 0x48 (int fun n a _ => satInt n ((signed n a).natAbs : Int)) ∧
  LaneRow .vshl 0x49 (sh fun n a c => (if n ≤ c then 0 else a * 2 ^ c % 2 ^ n, false)) ∧
  LaneRow .vshls 0x4A (sh fun n a c => satInt n (signed n a * ((2 ^ min c n : Nat) : Int))) ∧
  LaneRow .vshr 0x4B (sh fun n a c => (if n ≤ c then 0 else a / 2 ^ c, false)) ∧
  LaneRow .vsra 0x4C (sh fun n a c => (sbits n (signed n a / ((2 ^ min c n : Nat) : Int)), false)) ∧
  LaneRow .vsrar 0x4D (sh fun n a c => (if n ≤ c then 0 else sbits n (shiftRound (signed n a) c), false))

/-- VAND, VOR, VXOR and VNOT act bit by bit; VPERM reads the lane that Vb names, 0 with INDEX at or beyond VL; VROT reads
lane (i + Sb + IMM) mod VL; VSEL chooses by the mask in the VC field; VBCST writes a half of Sa; VIDX writes the lane
number; VFNORM subtracts the mean and multiplies by the reciprocal deviation, each step rounded. Each has the frame of
a lane row. (R246, R247, R250, R263, R264, R271, R276, R277, R289) -/
def Obligations.VectorLogicAndPermutationLanes : Prop :=
  LaneRow .vand 0x50 (fun x i => (x.vec.lane x.f.va i &&& x.vec.lane x.f.vb i, 0)) ∧
  LaneRow .vor 0x51 (fun x i => (x.vec.lane x.f.va i ||| x.vec.lane x.f.vb i, 0)) ∧
  LaneRow .vxor 0x52 (fun x i => (x.vec.lane x.f.va i ^^^ x.vec.lane x.f.vb i, 0)) ∧
  LaneRow .vnot 0x53 (fun x i => (~~~(x.vec.lane x.f.va i), 0)) ∧
  LaneRow .vperm 0x60 (fun x i =>
    if (x.vec.lane x.f.vb i).toNat < x.vec.vl then (x.vec.lane x.f.va (x.vec.lane x.f.vb i).toNat, 0) else (0#32, 32)) ∧
  LaneRow .vrot 0x61 (fun x i => (x.vec.lane x.f.va ((i + (x.vec.s x.f.vb).toNat + x.f.imm) % x.vec.vl), 0)) ∧
  LaneRow .vsel 0x62 (fun x i => (if bitAt (x.vec.mreg x.f.vc) i then x.vec.lane x.f.va i else x.vec.lane x.f.vb i, 0)) ∧
  LaneRow .vbcst 0x09 (fun x _ => (if x.f.imm % 2 = 0 then lo32 (x.vec.s x.f.va) else hi32 (x.vec.s x.f.va), 0)) ∧
  LaneRow .vidx 0x0D (fun _ i => (BitVec.ofNat 32 i, 0)) ∧
  LaneRow .vfnorm 0x77 (fun x i =>
    let d := fsub Fmts.fp32 (x.a i) (hi32 (x.vec.s x.f.vd)).toNat
    let p := fmul Fmts.fp32 d.1 (lo32 (x.vec.s x.f.vd)).toNat
    (BitVec.ofNat 32 p.1, (d.2.or p.2).bits))

/-- When a comparison stands next in its core's run, exec answers a next state in which each active lane's bit of the mask
register that VD names is the relation, inactive bits below VL are cleared or kept as ZERO says, M0 stays all ones,
and every vector and scalar register, VL, VFLAGS and the rest of the machine stay. (R244, R246, R247, R250, R263,
R266, R268) -/
def Obligations.VectorComparisonsSetMaskBits : Prop :=
  CompareRow .vfcmp 0x2F (fun x i =>
    let a := Fmts.fp32.decode (x.a i)
    let b := Fmts.fp32.decode (x.b i)
    match x.f.imm with
    | 0 => a.eqv b
    | 1 => a.lt b
    | 2 => a.lt b || a.eqv b
    | _ => a.isNan || b.isNan) ∧
  CompareRow .vicmp 0x4E (fun x i =>
    match x.f.imm with
    | 0 => x.a i == x.b i
    | 1 => decide (signed 32 (x.a i) < signed 32 (x.b i))
    | 2 => decide (signed 32 (x.a i) ≤ signed 32 (x.b i))
    | _ => decide (x.a i < x.b i))

/-- NOP, VSETVL, SLI, SSHLI, SADD, SMUL, VEXT, VMSET, VMGET, VMOP, SGETF and SCLRF, standing next in their core's run,
answer the next state in which the named register (S0 and M0 discard writes), VL or VFLAGS has its new value, the run
has moved on, and nothing else differs. (R244, R246, R249, R250, R251, R263, R264, R277) -/
def Obligations.VectorScalarRowsWriteOneRegister : Prop :=
  PlainRow .nop 0x00 (fun x => x.vec) (fun _ => []) ∧
  PlainRow .vsetvl 0x01 (fun x =>
    let n := if x.f.imm = 0 then min (x.vec.s x.f.va).toNat 64 else x.f.imm
    ({ x.vec with vl := n }).setS x.f.vd (BitVec.ofNat 64 n)) (fun _ => []) ∧
  PlainRow .sli 0x02 (fun x => x.vec.setS x.f.vd (BitVec.ofInt 64 (signed 18 x.f.imm))) (fun _ => []) ∧
  PlainRow .sshli 0x03 (fun x => x.vec.setS x.f.vd ((x.vec.s x.f.vd <<< 18) ||| BitVec.ofNat 64 x.f.imm)) (fun _ => []) ∧
  PlainRow .sadd 0x04 (fun x =>
    x.vec.setS x.f.vd (x.vec.s x.f.va + x.vec.s x.f.vb + BitVec.ofInt 64 (signed 18 x.f.imm))) (fun _ => []) ∧
  PlainRow .smul 0x05 (fun x => x.vec.setS x.f.vd (x.vec.s x.f.va * x.vec.s x.f.vb)) (fun _ => []) ∧
  PlainRow .vext 0x08 (fun x => x.vec.setS x.f.vd
      (if x.vec.vl ≤ x.f.imm % 64 then 0#64 else (x.vec.lane x.f.va (x.f.imm % 64)).setWidth 64))
    (fun x => [if x.vec.vl ≤ x.f.imm % 64 then 32 else 0]) ∧
  PlainRow .vmset 0x0A (fun x => x.vec.setM x.f.vd (x.vec.s x.f.va)) (fun _ => []) ∧
  PlainRow .vmget 0x0B (fun x => x.vec.setS x.f.vd (x.vec.mreg x.f.va)) (fun _ => []) ∧
  PlainRow .vmop 0x0C (fun x => x.vec.setM x.f.vd (maskOf fun i =>
    if i < x.vec.vl then
      (match x.f.imm with
        | 0 => bitAt (x.vec.mreg x.f.va &&& x.vec.mreg x.f.vb) i
        | 1 => bitAt (x.vec.mreg x.f.va ||| x.vec.mreg x.f.vb) i
        | 2 => bitAt (x.vec.mreg x.f.va ^^^ x.vec.mreg x.f.vb) i
        | _ => bitAt (x.vec.mreg x.f.va &&& ~~~(x.vec.mreg x.f.vb)) i)
    else bitAt (x.vec.mreg x.f.vd) i)) (fun _ => []) ∧
  PlainRow .sgetf 0x0E (fun x => x.vec.setS x.f.vd (BitVec.ofNat 64 x.vec.flags)) (fun _ => []) ∧
  PlainRow .sclrf 0x0F (fun x => { x.vec with flags := clearFlags x.vec.flags x.f.imm }) (fun _ => []) ∧
  (∀ (v : VecState) (y : W64), v.setS 0 y = v ∧ v.setM 0 y = v ∧ v.s 0 = 0#64 ∧ v.mreg 0 = BitVec.allOnes 64)

/-- VFREDSUM, VFREDMAX and VIREDSUM write the tree or exact sum of the active lanes to Sd, a NaN as the canonical one, on
top of Sd when IMM is 1; VSMRST, VSMMAX, VSMSUM and VSMNRM start, extend and apply the softmax row state; VXENT writes
the loss; VNACC merges a chunk into the normalisation state and VNFIN writes mean and reciprocal deviation. Each
answers a next state with its flags, the run moves on, and nothing else differs. (R278, R279, R280, R281, R282, R283,
R287, R288, R290) -/
def Obligations.VectorReductionsAndRowState : Prop :=
  PlainRow .vfredsum 0x63
    (fun x =>
      let t := sumOr0 (x.leaves x.a)
      let c := if (Fmts.fp32.decode t.1).isNan then nan32.toNat else t.1
      x.vec.setS x.f.vd (BitVec.ofNat 64 (if x.f.imm % 2 = 0 then c else (sumRes ((lo32 (x.vec.s x.f.vd)).toNat, {}) (c, t.2)).1)))
    (fun x =>
      let t := sumOr0 (x.leaves x.a)
      let c := if (Fmts.fp32.decode t.1).isNan then nan32.toNat else t.1
      [(if x.f.imm % 2 = 0 then t else sumRes ((lo32 (x.vec.s x.f.vd)).toNat, {}) (c, t.2)).2.bits]) ∧
  PlainRow .vfredmax 0x64
    (fun x =>
      let t := (laneTree fmax32 (x.leaves x.a)).getD 0xFF800000
      let t := if (Fmts.fp32.decode t).isNan then nan32.toNat else t
      x.vec.setS x.f.vd (BitVec.ofNat 64 (if x.f.imm % 2 = 0 then t else fmax32 (lo32 (x.vec.s x.f.vd)).toNat t)))
    (fun _ => [0]) ∧
  PlainRow .viredsum 0x65
    (fun x => x.vec.setS x.f.vd ((if x.f.imm % 2 = 0 then 0#64 else x.vec.s x.f.vd) +
      BitVec.ofInt 64 ((x.lanes.map fun i => signed 32 (x.a i)).foldl (· + ·) 0)))
    (fun _ => [0]) ∧
  PlainRow .vsmrst 0x70
    (fun x => (x.vec.setS x.f.vd 0x00000000FF800000#64).setS (x.f.vd + 1) 0#64) (fun _ => []) ∧
  PlainRow .vsmmax 0x71 (fun x => (x.lanes.foldl (fun m i => m.take (x.a i)) (smOf x.vec x.f.vd)).put x.vec x.f.vd) (fun _ => []) ∧
  PlainRow .vsmsum 0x72
    (fun x => match sumTree (x.leaves fun i => (smOf x.vec x.f.vd).term (x.a i)) with
      | none => x.vec
      | some t => ({ smOf x.vec x.f.vd with sum := (fadd Fmts.fp32 (smOf x.vec x.f.vd).sum t.1).1 }).put x.vec x.f.vd)
    (fun _ => []) ∧
  PlainRow .vsmnrm 0x73
    (fun x =>
      let m := smOf x.vec x.f.vd
      let rows (g : Nat → W32) := x.vec.setV x.f.vd fun i => if i < x.vec.vl then g i else x.vec.lane x.f.vd i
      if m.nan then rows fun _ => nan32
      else if m.masked then ({ m with sum := 0 }).put (rows fun _ => 0#32) x.f.vd
      else rows fun i => if x.active i then BitVec.ofNat 32 (fdiv Fmts.fp32 (m.term (x.a i)) m.sum).1 else 0#32)
    (fun x =>
      let m := smOf x.vec x.f.vd
      let lanes (f : Nat) := (List.range 64).map fun i => if i < x.vec.vl then f else 0
      if m.nan then lanes 1 else if m.masked then lanes 64 else []) ∧
  PlainRow .vxent 0x74
    (fun x => x.vec.setS x.f.vb (BitVec.ofNat 64 ((smOf x.vec x.f.vd).loss (x.vec.s x.f.va)).1.1))
    (fun x => [((smOf x.vec x.f.vd).loss (x.vec.s x.f.va)).2]) ∧
  PlainRow .vnacc 0x75
    (fun x => ((nOf x.vec x.f.vd).merge (x.leaves fun i => x.vec.lane x.f.va i) (x.f.imm % 2 = 1)).put x.vec x.f.vd)
    (fun _ => []) ∧
  PlainRow .vnfin 0x76
    (fun x =>
      let n := nOf x.vec x.f.vd
      let a := fadd Fmts.fp32 (fdiv Fmts.fp32 n.m2.toNat (count32 n.count).toNat).1 (lo32 (x.vec.s x.f.va)).toNat
      x.vec.setS x.f.vd (if n.nonfin then join32 nan32 nan32 else if n.count = 0 then join32 0#32 0#32
        else join32 n.mean (BitVec.ofNat 32 (frsqrt Fmts.fp32 a.1).1)))
    (fun x =>
      let n := nOf x.vec x.f.vd
      let q := fdiv Fmts.fp32 n.m2.toNat (count32 n.count).toNat
      let a := fadd Fmts.fp32 q.1 (lo32 (x.vec.s x.f.va)).toNat
      [if n.nonfin then 1 else if n.count = 0 then 64 else ((q.2.or a.2).or (frsqrt Fmts.fp32 a.1).2).bits])

/-- VLD and VLDS write each active lane with the 32-bit word at Sa + 4 x (IMM + i), or at Sa + 4 x IMM + i x Sb, the low
address bits taken as zero; VUNPK with the decoded element IMM + i of the plane at Sa, scaled where the format is; SLD
writes Sd with the 64-bit word. All accesses lie in the run's spans and no word of the store is in error. Nothing else
changes. (R246, R247, R256, R262, R263, R274) -/
def Obligations.VectorLoadsReadTheNamedWords : Prop :=
  GatherRow .vld 0x10 (fun x i => vecAddr ((x.vec.s x.f.va).toNat + 4 * (signed 18 x.f.imm + i))) ∧
  GatherRow .vlds 0x12 (fun x i => vecAddr ((x.vec.s x.f.va).toNat + 4 * x.f.imm + i * signed 64 (x.vec.s x.f.vb).toNat)) ∧
  (∀ (s : State) (k : Nat) (w : W64) (r : VRun), s.runsNext k w 0x14 r → (s.core k).store.syn = [] →
    let x := s.vin k w r
    let f := vecFormat x.f.fmt
    let base := vecAddr (x.vec.s x.f.va).toNat
    let sc (i : Nat) := ((x.vec.s x.f.vb).toNat + (x.f.imm + i) / 32) % 2 ^ 64
    (∀ i, i < 64 → x.active i = true → (vcmdOf r.cmd).mayRead (planeSpan base f.bits (x.f.imm + i) 1).1
      (planeSpan base f.bits (x.f.imm + i) 1).2 = true ∧ (f.scaled = true → (vcmdOf r.cmd).mayRead (sc i) 1 = true)) →
    ∃ v, exec (.vunpk k w) s = .next (s.vecMoved k r v) ∧ LaneResult x v fun i =>
      laneRes (Fmts.fp32.encodeIeee .nearest (if f.scaled then f.scaledValue (x.mem.readByte (sc i)) (x.mem.element base f.bits (x.f.imm + i))
        else f.value (x.mem.element base f.bits (x.f.imm + i))))) ∧
  (∀ (s : State) (k : Nat) (w : W64) (r : VRun), s.runsNext k w 0x06 r → (s.core k).store.syn = [] →
    let x := s.vin k w r
    let a := scaAddr ((x.vec.s x.f.va).toNat + 8 * x.f.imm)
    (vcmdOf r.cmd).mayRead a 8 = true →
    exec (.sld k w) s = .next (s.vecMoved k r (x.flagged { vec := x.vec.setS x.f.vd (x.mem.word (a / 8)) })))

/-- VST and VSTS write four bytes for each active lane, SST eight bytes, and every other byte of the core store, every
other core and the module's memory stay; VPACK writes the codes and, for a block-scaled format, the scale bytes that
the conversion gives. Accesses lie in the write span, no word of the store is in error and no injection is armed.
(R246, R247, R256, R262, R263, R275, R315) -/
def Obligations.VectorStoresWriteOnlyTheirBytes : Prop :=
  ScatterRow .vst 0x11 (fun x i => vecAddr ((x.vec.s x.f.va).toNat + 4 * (signed 18 x.f.imm + i))) ∧
  ScatterRow .vsts 0x13 (fun x i => vecAddr ((x.vec.s x.f.va).toNat + 4 * x.f.imm + i * signed 64 (x.vec.s x.f.vb).toNat)) ∧
  (∀ (s : State) (k : Nat) (w : W64) (r : VRun), s.runsNext k w 0x07 r → (s.core k).store.syn = [] → s.mem.injArm = false →
    let x := s.vin k w r
    let a := scaAddr ((x.vec.s x.f.va).toNat + 8 * x.f.imm)
    (vcmdOf r.cmd).mayWrite a 8 = true →
    ∃ t, exec (.sst k w) s = .next t ∧ (t.core k).vec = x.flagged { vec := x.vec } ∧ (t.core k).vrun = some r.next ∧ t.mem.space = s.mem.space ∧
      (∀ j, j ≠ k → t.core j = s.core j) ∧ (∀ b, ¬ within a 8 b → (t.core k).store.byte b = (s.core k).store.byte b) ∧
      ∀ n, n < 8 → (t.core k).store.byte (a + n) = BitVec.ofNat 8 ((x.vec.s x.f.vd).toNat / 2 ^ (8 * n))) ∧
  (∀ (s : State) (k : Nat) (w : W64) (r : VRun), s.runsNext k w 0x15 r →
    let x := s.vin k w r
    let f := vecFormat x.f.fmt
    let base := vecAddr (x.vec.s x.f.va).toNat
    let blocks := (List.range (cdiv x.vec.vl 32)).map fun b => (b, x.packBlock f (32 * b))
    let codes := blocks.map fun b => ((planeSpan base f.bits (x.f.imm + 32 * b.1) (if f.scaled then 32 else min 32 (x.vec.vl - 32 * b.1))).1,
      codeBytes f.bits (b.2.1.take (if f.scaled then 32 else min 32 (x.vec.vl - 32 * b.1))))
    let scales := if f.scaled then blocks.map fun b =>
        (((x.vec.s x.f.vb).toNat + x.f.imm / 32 + b.1) % 2 ^ 64, [BitVec.ofNat 8 b.2.2.1]) else []
    (∀ p ∈ codes ++ scales, (vcmdOf r.cmd).mayWrite p.1 p.2.length = true) →
    exec (.vpack k w) s = .next (forL (codes ++ scales) (fun p s => s.storeCoreBytes k p.1 p.2 r.ctx)
      (s.vecMoved k r (x.flagged { vec := x.vec, lanes := blocks.flatMap fun b => b.2.2.2 }))))

/-- A tile command of its opcode that stands next among the tiles of its core's stream enters the matrix lane of an
unfenced core whose lane is free; a fenced core refuses it, and its stream ends with UNIT_FENCED. TILE_START, with no
earlier command in conflict, no word in error and a descriptor that passes its checks, makes ACC-L LIVE and starts
pass 0: from an EMPTY set for a command that begins a tile, from the HELD set of its own chain for one that continues
it. Without its chain a continuing command ends with CHAIN_BROKEN, and a descriptor that fails a check ends its
command with that check's status. (R34, R149, R155, R156, R170, R171, R191, R192, R204, R219, R221, R838) -/
def Obligations.MatrixLaneTakesAndStartsTiles : Prop :=
  (∀ (s : State) (k op : Nat) (cmd : Cmd) (w : Work) (c : Nat → List W64 → Instr),
    (op = 0x10 ∧ c = .mtFwd) ∨ (op = 0x11 ∧ c = .mtDgrad) ∨ (op = 0x12 ∧ c = .mtWgrad) →
    cmd.op = op → (s.core k).tile = none → s.due k cmd = some w →
    (s.fencedUnit (.core k) = false →
      exec (c k cmd) s = .next ((s.takeWork k cmd).updCore k fun d => { d with tile := some { cmd := cmd, ctx := w.ctx, slot := w.slot } })) ∧
    (s.fencedUnit (.core k) = true → exec (c k cmd) s = .next (s.refuseWork k w))) ∧
  (∀ (s : State) (k : Nat) (t : Tile), (s.core k).tile = some t → t.started = false → (s.core k).store.syn = [] →
    ((s.core k).work.find? fun w => w.phase == .taken && Cmd.isTile w.cmd).any (s.core k).waits = false →
    let mt := mtOf t.cmd
    let desc := if mt.pour then (s.core k).store.words mt.epi 6 else []
    let start (kBase kTotal : Nat) (base : Lines) : State := (s.updCore k fun d => { d.setLive { d.live with state := .live } with
      tile := some { t with
        started := true, pass := 0, repeats := 0, desc := desc, kBase := kBase, kTotal := kTotal, base := base
        begun := s.now, passAt := s.now } }).checkOpen t.ctx
    (mt.accum = false → (s.core k).live.state = .empty →
      ((mt.pour = true → (epiOf desc).check mt = none) →
        exec (.tileStart k) s = .next (start 0 (if mt.kChain = 0 then mt.k else mt.kChain) {})) ∧
      (∀ st, mt.pour = true → (epiOf desc).check mt = some st → exec (.tileStart k) s = .next (s.refuseTile k t st))) ∧
    (∀ h, mt.accum = true → (s.core k).live.state = .held → (s.core k).chain = some h →
      h.tileId = mt.tileId → h.step = mt.step → h.ctx = t.ctx →
      ((mt.pour = true → (epiOf desc).check mt = none) → exec (.tileStart k) s = .next (start h.k h.kChain h.pred)) ∧
      (∀ st, mt.pour = true → (epiOf desc).check mt = some st → exec (.tileStart k) s = .next (s.refuseTile k t st))) ∧
    (mt.accum = true → ((s.core k).live.state = .held → ∀ h, (s.core k).chain = some h →
        h.tileId ≠ mt.tileId ∨ h.step ≠ mt.step ∨ h.ctx ≠ t.ctx) →
      exec (.tileStart k) s = .next (s.refuseTile k t St.chainBroken)))

/-- For a started pass with no word in error, no upset, no armed injection and predictions of its chain that hold: without
an overflow, a command that does not pour leaves its sums HELD with its chain's k and predictions moved on and the
lane free; one that pours, with the other set EMPTY, becomes the pour and the sets swap; no strainer record is raised.
A pass of one command that overflowed and has repeats left starts again with one repeat more. (R135, R136, R168, R177,
R179, R204, R205, R210, R213, R214, R215, R216) -/
def Obligations.PassSettlesIntoHeldPouringOrRepeat : Prop :=
  ∀ (s : State) (k cycles : Nat) (t : Tile), (s.core k).tile = some t → t.started = true → t.stalled = false →
    (s.core k).store.syn = [] → (s.core k).injArm = false → t.base = Lines.of (s.core k).live.cells →
    let mt := mtOf t.cmd
    let res := passCells mt (s.core k).store t.kBase t.kTotal t.pass t.repeats (s.core k).live.cells
    ((∀ p ∈ res, p.2 = false) → mt.pour = false →
      ∃ u, exec (.passSettleEnd k cycles ⟨[], []⟩) s = .next u ∧ (u.core k).live = { state := .held, cells := res.map (·.1) } ∧
        (u.core k).tile = none ∧
        (u.core k).chain = some {
          tileId := mt.tileId, step := mt.step, ctx := t.ctx, slot := t.slot, k := t.kBase + mt.k, kChain := t.kTotal
          pred := Lines.of (res.map (·.1)) } ∧
        (u.core k).shadow = (s.core k).shadow ∧ (u.core k).store = (s.core k).store ∧ (u.core k).fail = (s.core k).fail) ∧
    ((∀ p ∈ res, p.2 = false) → mt.pour = true → (s.core k).shadow.state = .empty →
      ∃ u, exec (.passSettleEnd k cycles ⟨[], []⟩) s = .next u ∧
        (u.core k).shadow = { state := .pouring, cells := res.map (·.1) } ∧ (u.core k).select = 1 - (s.core k).select ∧
        (u.core k).pour = some {
          cmd := t.cmd, ctx := t.ctx, desc := t.desc, pass := t.pass, repeats := t.repeats, last := t.pass + 1 = mt.passes
          started := s.now, begun := t.passAt, tick := s.steep.ticks, lastMac := s.now } ∧
        (u.core k).store = (s.core k).store ∧ (u.core k).fail = (s.core k).fail) ∧
    ((∃ p ∈ res, p.2 = true) → mt.accum = false → mt.pour = true → t.repeats < 2 →
      ∃ u, exec (.passSettleEnd k cycles ⟨[], []⟩) s = .next u ∧
        (u.core k).tile = some { t with repeats := t.repeats + 1, base := {} } ∧
        (u.core k).live = { state := .live, cells := [] } ∧ (u.core k).repeated = satN 16 ((s.core k).repeated + 1) ∧
        (u.core k).store = (s.core k).store)

/-- When a core pours, no word of its store is in error, no injection is armed, no check of the pour fails and no stored
word is upset, POUR_COMPLETE answers a next state: the core store is that after the outputs of the epilogue, in the
descriptor's layout, and the statistics; with no stalled pass behind it the set that poured is EMPTY with every
accumulator +0, and the core pours no more. (R204, R222, R223, R226, R227, R228, R232, R233, R238) -/
def Obligations.PourWritesOutputsAndEmptiesSet : Prop :=
  ∀ (s : State) (k : Nat) (p : Pour) (f : Format), (s.core k).pour = some p → (s.core k).store.syn = [] →
    s.mem.injArm = false →
    formatOf (epiOf p.desc).outFmt = some f → (s.core k).tile = none →
    let t := mtOf p.cmd
    let e := epiOf p.desc
    let s0 := if p.pass = 0 then s.updCore k fun c => { c with stats := [], limitBlock := none } else s
    let rows := pourRows (s.core k).store (s.core k).shadow.cells t e p.pass p.repeats
    let s1 := (if e.blocks then s0.pourBlocks k p t e f rows else s0.pourRowMajor k p t e f rows).pourStats k p t e rows
    ∃ u, exec (.pourComplete k false []) s = .next u ∧ (u.core k).pour = none ∧
      (u.core k).shadow = { state := .empty, cells := [] } ∧ (u.core k).store = (s1.core k).store ∧
      (u.core k).live = (s.core k).live ∧ (u.core k).vec = (s.core k).vec

/-- A VEC_RUN that an unfenced core's free vector lane takes (it stands next among the vector commands of the core's
stream and no earlier command conflicts), whose program holds no reserved encoding and costs no more than declared,
starts at its first instruction; a reserved instruction stops it with VECTOR_ENCODING, a cost above the declared one
with VECTOR_COST, before any instruction. A load or store outside the spans of the run stops it with VECTOR_SPAN at
its place and address, before the access. VEC_RUN_COMPLETE of a run whose last instruction has run frees the lane and
counts its cycles. (R149, R170, R243, R252, R253, R255, R256, R258, R261) -/
def Obligations.VectorRunsStartStopAndEnd : Prop :=
  (∀ (s : State) (k : Nat) (cmd : Cmd) (d : Work), cmd.op = 0x18 → s.laneTakes k cmd = some d →
    s.fencedUnit (.core k) = false → (s.core k).store.syn = [] →
    let v := vcmdOf cmd
    let prog := (s.core k).store.words v.addr v.len
    let cost (ws : List W64) : Nat := (ws.map vecCost).sum
    let r : VRun := { cmd := cmd, ctx := d.ctx, prog := prog, taken := s.now }
    ((∀ w ∈ prog, (vfOf w).ok = true) → cost (prog.take v.pro) ≤ v.proCost → cost (prog.drop v.pro) ≤ v.bodyCost →
      exec (.vecRun k cmd) s = .next ((s.takeWork k cmd).updCore k fun c => { c with vrun := some r.enter, vxStopped := false })) ∧
    (∀ i, (prog.findIdx? fun w => !(vfOf w).ok) = some i →
      exec (.vecRun k cmd) s = .next ((s.takeWork k cmd).stopRun k r Rec.vectorEncoding St.vectorEncoding 1 i 0)) ∧
    ((∀ w ∈ prog, (vfOf w).ok = true) → v.proCost < cost (prog.take v.pro) ∨ v.bodyCost < cost (prog.drop v.pro) →
      exec (.vecRun k cmd) s = .next ((s.takeWork k cmd).stopRun k r Rec.vectorCost St.vectorCost 2 0 0))) ∧
  (∀ (s : State) (k cycles : Nat) (r : VRun), (s.core k).vrun = some r → r.ended = true →
    exec (.vecRunComplete k cycles) s = .next (s.updCore k fun c => { c with
      vrun := none, vxCycles := satN 64 (c.vxCycles + cycles), work := dropWork false .taken c.work })) ∧
  (∀ (s : State) (k i : Nat) (w : W64) (r : VRun), s.runsNext k w 0x10 r →
    ((s.vin k w r).lanes.find? fun j => !((vcmdOf r.cmd).mayRead ((s.vin k w r).unitAddr j) 4)) = some i →
    exec (.vld k w) s = .next (s.stopRun k r Rec.vectorSpan St.vectorSpan 3 r.pc ((s.vin k w r).unitAddr i))) ∧
  (∀ (s : State) (k i : Nat) (w : W64) (r : VRun), s.runsNext k w 0x12 r →
    ((s.vin k w r).lanes.find? fun j => !((vcmdOf r.cmd).mayRead ((s.vin k w r).strideAddr j) 4)) = some i →
    exec (.vlds k w) s = .next (s.stopRun k r Rec.vectorSpan St.vectorSpan 3 r.pc ((s.vin k w r).strideAddr i))) ∧
  (∀ (s : State) (k i : Nat) (w : W64) (r : VRun), s.runsNext k w 0x11 r →
    ((s.vin k w r).lanes.find? fun j => !((vcmdOf r.cmd).mayWrite ((s.vin k w r).unitAddr j) 4)) = some i →
    exec (.vst k w) s = .next (s.stopRun k r Rec.vectorSpan St.vectorSpan 3 r.pc ((s.vin k w r).unitAddr i))) ∧
  (∀ (s : State) (k i : Nat) (w : W64) (r : VRun), s.runsNext k w 0x13 r →
    ((s.vin k w r).lanes.find? fun j => !((vcmdOf r.cmd).mayWrite ((s.vin k w r).strideAddr j) 4)) = some i →
    exec (.vsts k w) s = .next (s.stopRun k r Rec.vectorSpan St.vectorSpan 3 r.pc ((s.vin k w r).strideAddr i))) ∧
  (∀ (s : State) (k : Nat) (w : W64) (r : VRun), s.runsNext k w 0x06 r →
    (vcmdOf r.cmd).mayRead (s.vin k w r).scalarAddr 8 = false →
    exec (.sld k w) s = .next (s.stopRun k r Rec.vectorSpan St.vectorSpan 3 r.pc (s.vin k w r).scalarAddr)) ∧
  (∀ (s : State) (k : Nat) (w : W64) (r : VRun), s.runsNext k w 0x07 r →
    (vcmdOf r.cmd).mayWrite (s.vin k w r).scalarAddr 8 = false →
    exec (.sst k w) s = .next (s.stopRun k r Rec.vectorSpan St.vectorSpan 3 r.pc (s.vin k w r).scalarAddr))

/-- Taken by the free lane of an unfenced core, inside its context's windows, with no word in error, no upset and no armed
injection, an XFER into the core leaves each row's words as the tier holds them, every other byte of the core store
and the tier itself as they were; an XFER out of the core does the same the other way. GRAD_GATHER stores the sums of
its uses in BF16 or FP32. Each holds the lane until its completion, which frees it. A span where no memory is, which
submission refuses, stops the model by name (notes/assumptions/71). (R200, R201, R202, R294, R302, R303, R304, R305,
R309, R313, R315) -/
def Obligations.TransfersMoveRowsWordForWord : Prop :=
  (∀ (s : State) (k : Nat) (cmd : Cmd) (d : Work), cmd.op = 0x19 → (xcmdOf cmd).bad = false → s.laneTakes k cmd = some d →
    s.fencedUnit (.core k) = false → spanOk (xcmdOf cmd).tierSpan.1 (xcmdOf cmd).tierSpan.2 = true → (xcmdOf cmd).csSpan.beyond = false →
    (∃ y, d.ctx = some y ∧ (xcmdOf cmd).inWindow (s.ctx y) = true) →
    s.mem.space.syn = [] → (s.core k).store.syn = [] → s.mem.injArm = false →
    let x := xcmdOf cmd
    ∃ u, exec (.xfer k cmd []) s = .next u ∧
      (u.core k).xfer = some { cmd := cmd, ctx := d.ctx, taken := s.now, tick := s.steep.ticks } ∧
      (∀ j, j ≠ k → u.core j = s.core j) ∧
      (x.dir ≠ 1 → u.mem.space = s.mem.space ∧
        (∀ r i, r < x.rows → i < x.rowWords →
          (u.core k).store.word (x.cs + r * x.csPitch + i) = s.mem.space.word ((x.mem + r * x.memPitch) / 8 + i)) ∧
        (∀ b, (∀ r, r < x.rows → ¬ within (8 * (x.cs + r * x.csPitch)) x.rowBytes b) →
          (u.core k).store.byte b = (s.core k).store.byte b)) ∧
      (x.dir = 1 → (u.core k).store = (s.core k).store ∧
        (∀ r i, r < x.rows → i < x.rowWords →
          u.mem.space.word ((x.mem + r * x.memPitch) / 8 + i) = (s.core k).store.word (x.cs + r * x.csPitch + i)) ∧
        (∀ b, (∀ r, r < x.rows → ¬ within (x.mem + r * x.memPitch) x.rowBytes b) → u.mem.space.byte b = s.mem.space.byte b))) ∧
  (∀ (s : State) (k : Nat) (cmd : Cmd) (d : Work), cmd.op = 0x1C → (gcmdOf cmd).bad = false → s.laneTakes k cmd = some d →
    s.fencedUnit (.core k) = false → (gcmdOf cmd).srcSpan.beyond = false → (gcmdOf cmd).dstSpan.beyond = false →
    (s.core k).store.syn = [] → s.mem.injArm = false →
    let g := gcmdOf cmd
    let sum (e : Nat) : Nat := let v := g.sum (s.core k).store e; if (Fmts.fp32.decode v).isNan then nan32.toNat else v
    ∃ u, exec (.gradGather k cmd) s = .next u ∧
      (u.core k).xfer = some { cmd := cmd, ctx := d.ctx, taken := s.now, tick := s.steep.ticks } ∧
      (u.core k).store = (s.core k).store.storeWords g.dst (packWords (if g.fmt = 6 then 32 else 16) ((List.range g.count).map fun e =>
        if g.fmt = 6 then sum e else (Fmts.bf16.encodeIeee .nearest (Fmts.fp32.decode (sum e))).1)) ∧
      (∀ j, j ≠ k → u.core j = s.core j) ∧ u.mem.space = s.mem.space) ∧
  (∀ (s : State) (k : Nat) (x : XRun) (op : Nat) (c : Nat → Instr), (op = 0x19 ∧ c = .xferComplete) ∨ (op = 0x1C ∧ c = .gradGatherComplete) →
    (s.core k).xfer = some x → Cmd.op x.cmd = op →
    exec (c k) s = .next ((if x.overruns = 0 then s else s.worst (x.taken + 1)).updCore k fun d => { d with
      xfer := none, work := dropWork false .taken d.work })) ∧
  (∀ (s : State) (k : Nat) (cmd : Cmd) (d : Work) (ups : List (Nat × Nat)), s.laneTakes k cmd = some d → s.fencedUnit (.core k) = false →
    (cmd.op = 0x19 → (xcmdOf cmd).bad = false → spanOk (xcmdOf cmd).tierSpan.1 (xcmdOf cmd).tierSpan.2 = false →
      exec (.xfer k cmd ups) s = .fault (.noMemory (xcmdOf cmd).mem)) ∧
    (cmd.op = 0x1C → (gcmdOf cmd).bad = false → (gcmdOf cmd).srcSpan.beyond = true ∨ (gcmdOf cmd).dstSpan.beyond = true →
      exec (.gradGather k cmd) s = .fault (.noMemory (8 * (gcmdOf cmd).src))))

/-- The reader's decision on a syndrome: 0 is clean; the column h(i) of a data bit names that bit, which is inverted; one
bit set is a check bit; any other odd weight, and every even weight but 0, is uncorrectable. (R310, R311, R312) -/
def Obligations.SingleBitErrorsCorrectedDoubleFound : Prop :=
  eccOf 0#8 = .clean ∧ (∀ i, i < 64 → eccOf (BitVec.ofNat 8 (hcol i)) = .dataBit i ∧
    ∀ w : W64, eccFix (BitVec.ofNat 8 (hcol i)) w = w ^^^ BitVec.ofNat 64 (2 ^ i)) ∧
  (∀ j, j < 8 → eccOf (BitVec.ofNat 8 (2 ^ j)) = .checkBit ∧ ∀ w : W64, eccFix (BitVec.ofNat 8 (2 ^ j)) w = w) ∧
  (∀ y : Byte, y ≠ 0#8 → popN 8 y.toNat % 2 = 0 → eccOf y = .ue) ∧
  (∀ y : Byte, popN 8 y.toNat % 2 = 1 → popN 8 y.toNat ≠ 1 → (∀ i, i < 64 → BitVec.ofNat 8 (hcol i) ≠ y) → eccOf y = .ue) ∧
  (∀ (m : Mem) (wa bit : Nat), bit < 72 → m.syndrome wa = 0#8 → (m.flip wa bit).syndrome wa = checkBits (m.raw wa) ^^^
    checkBits ((m.flip wa bit).raw wa) ^^^ (if bit < 64 then 0#8 else BitVec.ofNat 8 (2 ^ (bit - 64))))

/-- SCRUB_READ of tier 0 or 1, or of the core stores, moves the patrol to the next word. With nothing in error and nothing
turned over, nothing else changes. With one bit of the word turned over at rest, the word's place counts one CE more
and the word is stored as it was before, with a clean syndrome. (R312, R316, R320, R321, R328) -/
def Obligations.PatrolCorrectsOneTurnedBit : Prop :=
  (∀ (s : State) (tier : Nat), tier < 2 → s.mem.space.syn = [] →
    exec (.scrubRead tier []) s = .next { s with mem := s.mem.stepPatrol tier }) ∧
  (∀ (s : State), (s.core (s.mem.patrol.get 0 2 / coreWords)).store.syn = [] →
    exec (.scrubRead 2 []) s = .next { s with mem := s.mem.stepPatrol 2 }) ∧
  (∀ (s : State) (tier bit : Nat), tier < 2 → bit < 72 → s.mem.space.syn = [] →
    let wa := if tier = 0 then s.mem.patrol.get 0 tier else ownBase / 8 + s.mem.patrol.get 0 tier
    ∃ u, exec (.scrubRead tier [bit]) s = .next u ∧ u.mem.space.raw wa = s.mem.space.raw wa ∧ u.mem.space.syndrome wa = 0#8 ∧
      (u.mem.ecc.get {} (placeOf (8 * wa))).ce = satN 32 ((s.mem.ecc.get {} (placeOf (8 * wa))).ce + 1) ∧
      u.mem.patrol = (s.mem.stepPatrol tier).patrol)

/-- ECC_INJECT_ARM takes place, bits and ARM while no context is resident; STRAINER_INJECT_ARM takes cell, bit and ARM
while no context holds the die; REPAIR_LIST_ADD enters a row with CEs in three steeps of the last hour while its place
has room; a training step that succeeds moves its part on, one that fails is tried again, and the third failure takes
the module OUT_OF_SERVICE; PERIODIC_CALIBRATION notes the steep for a stack and a package that may calibrate in this
boundary. (R189, R190, R322, R323, R325, R326, R329) -/
def Obligations.MemoryMaintenanceCommands : Prop :=
  (∀ (s : State) (v : W64), s.dark = false → (∀ x, x < 8 → (s.ctx x).state = .free) → fld v 14 8 < 72 →
    (bitAt v 23 = true → fld v 22 16 < 72) →
    exec (.eccInjectArm .full v) s = .next { s with mem := { s.mem with
      injPlace := fld v 29 24, injDouble := bitAt v 23, injBitB := fld v 22 16, injBitA := fld v 14 8, injArm := s.mem.injArm || bitAt v 0 } }) ∧
  (∀ (s : State) (k : Nat) (h : Half) (v : W64), k < 512 → s.dark = false → h ≠ .high → (bitAt v 0 = true → s.coreCtx k = none) →
    exec (.strainerInjectArm k h v) s = .next (s.setCore k { s.core k with
      injRow := fld v 21 16, injCol := fld v 14 8, injBit := fld v 7 3, injArm := (s.core k).injArm || bitAt v 0 })) ∧
  (∀ (s : State) (place row : Nat) (r : RowCe), r ∈ s.mem.rowCes → r.place = place → r.row = row →
    3 ≤ (r.steeps.filter fun n => s.now < n + s.hourSteeps).length → s.mem.repair.contains (place, row) = false →
    (s.mem.repair.filter fun e => e.1 == place).length < 64 →
    exec (.repairListAdd place row) s = .next { s with mem := { s.mem with repair := s.mem.repair ++ [(place, row)] } }) ∧
  (∀ (s : State) (part : Nat), part < 24 →
    let g := s.mem.trainings.get {} part
    g.ready = false → g.phase ≠ 0 → g.tries < 3 →
    exec (.memoryTrainingStepDone part true) s = .next { s with mem := { s.mem.trained part g.phase with
      trainings := s.mem.trainings.set part { g with phase := g.after part, tries := 0, ready := g.after part = 0xF } } } ∧
    (g.tries < 2 → exec (.memoryTrainingStepDone part false) s = .next { s with mem := { s.mem with
      trainings := s.mem.trainings.set part { g with tries := g.tries + 1 } } }) ∧
    (g.tries = 2 → ∃ u, exec (.memoryTrainingStepDone part false) s = .next u ∧ u.faults.outOfService = true ∧ u.mem.trainFail = true ∧
      u.mem.trainings = s.mem.trainings.set part { g with tries := 3 })) ∧
  (∀ (s : State) (stack package : Nat), stack < 16 → package < 8 →
    ∃ c, exec (.periodicCalibration stack package) s = .next { s with mem := { s.mem with calibrated := c } } ∧
      ∀ i, c.find i = if (i = stack ∨ i = 16 + package) ∧ s.mayCalibrate i = true then some s.now else s.mem.calibrated.find i)

/-- Through a function that is served: an access of a bad width or alignment, or to an offset without a register, reads
zero or writes nothing and is recorded with its offset, for REG_WRITE, RC_REGISTER_READ and UNMAPPED_ACCESS alike; a
64-bit read returns the register and clears what is RC in it, a 32-bit read returns its half and clears nothing; a
write acts on the part it reaches: RW fields are set, W1C bits written 1 are cleared and no other, and a read-only
register such as MODULE_STATUS or STEEP_COUNT stays. A write that clears the mask bit of an MSI-X entry sends the
message that waited for it. (R11, R15, R16, R53, R347, R371, R377, R774, R784, R785, R795, R820) -/
def Obligations.RegisterAccessesReachTheirRegister : Prop :=
  (∀ (s : State) (a : Access), besideRegs a = false → s.serves a.fn = true → ((accessHalf a).bind fun _ => reaches a.fn (a.off / 8 * 8)) = none →
    exec (.regWrite a) s = .next (s.regAccess a.off) ∧
    exec (.rcRegisterRead a) s = .next ({ s with readData := 0#64 }.regAccess a.off) ∧
    exec (.unmappedAccess a true) s = .next (s.regAccess a.off) ∧
    exec (.unmappedAccess a false) s = .next ({ s with readData := 0#64 }.regAccess a.off)) ∧
  (∀ (s : State) (a : Access) (h : Half) (r : Reg), besideRegs a = false → s.serves a.fn = true → accessHalf a = some h → reaches a.fn (a.off / 8 * 8) = some r →
    exec (.regWrite a) s = .next (s.regWrite a.fn a.off r h (placed h a.value)) ∧
    (r ≠ .steepPhase → r ≠ .steepCount → h ≠ .full →
      exec (.rcRegisterRead a) s = .next { s with readData := halfOf h (s.regValue a.fn r) }) ∧
    (r ≠ .steepPhase → r ≠ .steepCount → h = .full →
      exec (.rcRegisterRead a) s = .next ({ s with readData := s.regValue a.fn r }.regClear r))) ∧
  (∀ (s : State) (fn off : Nat) (h : Half) (w : W64),
    s.regWrite fn off .timeStatus h w = { s with steep := { s.steep with lost := s.steep.lost && !(bitAt w 1) } } ∧
    (s.regWrite fn off .hostAlert .low w).host = { s.host with
      alertFa := s.host.alertFa && !(bitAt w 0), alertUc := s.host.alertUc && !(bitAt w 1), alertThermal := s.host.alertThermal && !(bitAt w 2)
      alertOos := s.host.alertOos && !(bitAt w 3), alertPps := s.host.alertPps && !(bitAt w 4) } ∧
    s.regWrite fn off .thermalStatus h w = { s with power := { s.power with
      warn := s.power.warn && !(bitAt w 0), critical := s.power.critical && !(bitAt w 1), tripSeen := s.power.tripSeen && !(bitAt w 2) } } ∧
    (∀ k, s.regWrite fn off (.strainerStatus k) h w = s.setCore k { s.core k with
      fail := (s.core k).fail && !(bitAt w 1), injectSeen := (s.core k).injectSeen && !(bitAt w 2) }) ∧
    (∀ r ∈ [Reg.moduleStatus, .steepCount, .steepPhase, .deadlineStatus], s.regWrite fn off r h w = s)) ∧
  (∀ (s : State) (a : Access) (h : Half) (mb i : Nat), besideRegs a = false → s.serves a.fn = true → accessHalf a = some h →
    reaches a.fn (a.off / 8 * 8) = some (.mbReqData mb i) → mb < 32 → s.owner mb = a.fn →
    exec (.regWrite a) s = .next (s.setMailbox mb { s.mailbox mb with
      request := (s.mailbox mb).request.set i (mergeHalf h ((s.mailbox mb).request.get 0#64 i) (placed h a.value)) })) ∧
  (∀ (s : State) (fn i : Nat) (w : W64), s.serves fn = true → i < vectorsOf fn → bitAt w 32 = false →
    firstVector fn + i ∈ s.host.msixPending → fn ∈ s.host.msixEnabled → fn ∉ s.host.fnMasked →
    ∃ u, exec (.regWrite { fn := fn, off := barTwo + (16 * i + 8), width := 64, value := w }) s = .next u ∧
      firstVector fn + i ∉ u.host.msixPending ∧ .msix (firstVector fn + i) ∈ u.out ∧ u.ctxs = s.ctxs ∧ u.mailboxes = s.mailboxes)

/-- STEEP_PERIOD reads CURRENT_Q in [37:32] and NEXT_Q in [5:0], both 4 after reset. A write reaching its low half with
NEXT_Q 1 to 32 sets NEXT_Q and nothing else; one with 0 or more than 32 changes nothing but raises the CE record that
names offset 0x40; a write of the high half alone changes nothing. (R43) -/
def Obligations.SteepPeriodIsTakenOrIgnored : Prop :=
  (∀ (s : State) (fn : Nat), s.regValue fn .steepPeriod = mkWord [(0, 6, s.steep.nextQ), (32, 6, s.steep.currentQ)]) ∧
  State.reset.steep.currentQ = 4 ∧ State.reset.steep.nextQ = 4 ∧
  (∀ (s : State) (h : Half) (v : W64), s.dark = false → h ≠ .high →
    (1 ≤ fld v 5 0 → fld v 5 0 ≤ 32 → exec (.steepPeriodWrite h v) s = .next { s with steep := { s.steep with nextQ := fld v 5 0 } }) ∧
    (fld v 5 0 = 0 ∨ 32 < fld v 5 0 →
      exec (.steepPeriodWrite h v) s = .next (s.raise { code := 0x0100, cls := .ce, a := 0x40#64 }))) ∧
  (∀ (s : State) (v : W64), exec (.steepPeriodWrite .high v) s = .next s)

/-- At a boundary where the counter reaches AT_COUNT, NEXT_Q becomes the period in force and AT_COUNT returns to all ones;
before it both stay. A write of AT_COUNT ahead of the counter is taken; one at or below it changes nothing but raises
the CE record that names offset 0x48. (R44) -/
def Obligations.PeriodSwitchesAtItsCount : Prop :=
  (∀ s : State, s.steep.count + 1 < 2 ^ 64 → s.steep.atCount < 2 ^ 64 →
    (s.openSteep).steep.count = s.steep.count + 1 ∧ (s.openSteep).steep.phase = 0 ∧
    (s.steep.atCount ≤ s.steep.count + 1 →
      (s.openSteep).steep.currentQ = s.steep.nextQ ∧ (s.openSteep).steep.atCount = 0xFFFFFFFFFFFFFFFF) ∧
    (s.steep.count + 1 < s.steep.atCount →
      (s.openSteep).steep.currentQ = s.steep.currentQ ∧ (s.openSteep).steep.atCount = s.steep.atCount)) ∧
  (∀ (s : State) (h : Half) (v : W64), s.dark = false →
    let at_ := (mergeHalf h (BitVec.ofNat 64 s.steep.atCount) v).toNat
    (s.steep.count < at_ → exec (.steepSwitchAtWrite h v) s = .next { s with steep := { s.steep with atCount := at_ } }) ∧
    (at_ ≤ s.steep.count → exec (.steepSwitchAtWrite h v) s = .next (s.raise { code := 0x0100, cls := .ce, a := 0x48#64 })))

/-- A 64-bit read of STEEP_PHASE returns PHASE and latches the counter; a 32-bit read latches nothing. A read of
STEEP_COUNT within two boundaries of the latch returns the latched count and releases the latch; without a latch, or
after the second boundary, it returns the counter. Each boundary ages the latch by one, and at the second the latch
releases. (R47) -/
def Obligations.PhaseReadLatchesTheCount : Prop :=
  (∀ s : State, s.dark = false → exec (.steepPhaseRead .full) s =
    .next { s with readData := BitVec.ofNat 64 s.steep.phase, steep := { s.steep with latch := some (s.steep.count, 0) } }) ∧
  (∀ (s : State) (h : Half), s.dark = false → h ≠ .full →
    exec (.steepPhaseRead h) s = .next { s with readData := halfOf h (BitVec.ofNat 64 s.steep.phase) }) ∧
  (∀ (s : State) (h : Half) (c age : Nat), s.dark = false → s.steep.latch = some (c, age) →
    exec (.steepCountRead h) s = .next { s with
      readData := halfOf h (BitVec.ofNat 64 (if age < 2 then c else s.steep.count)), steep := { s.steep with latch := none } }) ∧
  (∀ (s : State) (h : Half), s.dark = false → s.steep.latch = none → exec (.steepCountRead h) s = .next { s with
    readData := halfOf h (BitVec.ofNat 64 s.steep.count), steep := { s.steep with latch := none } }) ∧
  (∀ s : State, (s.openSteep).steep.latch = s.steep.latch.map fun l => (l.1, l.2 + 1)) ∧
  (∀ (s : State) (c age : Nat), s.steep.latch = some (c, age) → 2 ≤ age →
    exec .steepLatchRelease s = .next { s with steep := { s.steep with latch := none } })

/-- TIMING on a trained link notes its delay, its round trip and whether its period is the module's own, enters the
neighbour's hops and offset, and ends holdover. TIME_LOST_CLEAR after 4 steeps within 2 us ends the condition.
TIME_HOLDOVER after 16 steeps without a word enters holdover with its CE record. (R45, R49, R51, R53, R75, R476) -/
def Obligations.TimingWordsSteerAndTimeConditions : Prop :=
  (∀ (s : State) (link : Nat) (w : TimingWord), link < 48 → s.dark = false → (s.link link).state = .trained →
    ∃ u e, exec (.timing link w) s = .next u ∧ (u.link link).oneWayNs = w.delayNs ∧ (u.link link).rttNs = 2 * w.delayNs ∧
      (u.link link).periodOk = (w.periodQ == s.steep.currentQ) ∧ u.steep.holdover = false ∧ u.steep.lastTiming = u.steep.count ∧
      u.steep.linkTimes.find link = some e ∧ e.hops = w.hops ∧ e.offsetNs = w.offsetNs ∧ e.at_ = u.steep.count) ∧
  (∀ s : State, s.steep.lostStands = true → 4 ≤ s.steep.within2us →
    exec .timeLostClear s = .next { s with steep := { s.steep with lostStands := false } }) ∧
  (∀ s : State, s.steep.holdover = false → s.steep.lastTiming + 16 ≤ s.steep.count →
    exec .timeHoldover s = .next (({ s with steep := { s.steep with holdover := true } }).retime.raise { code := 0x0104, cls := .ce }))

/-- On a module that is not dark, STEEP_BOUNDARY answers the state after: the counter and period (1), heartbeats and
timing words (2), the snapshot (3), commits (4), membership (5), routes (6), windows, switches, clocks (7), the
serving pages, fences, pools and contexts (8, 9), and the issue of slices (10); completions of a mailbox reset follow,
and messages that were stamped for the new steep are handled as it opens. Its overrun, DEADLINE_BOUNDARY, raises one
CE record a boundary, counts and enters WORST_US as it stands (notes/assumptions/76). (R55, R56, R57, R59) -/
def Obligations.BoundaryActsInItsOrder : Prop :=
  (∀ s : State, s.dark = false →
    let s1 := s.tellLost.openSteep.endWaits
    let s2 := s1.beatOut
    let s3 := s2.snapshot s.steep
    let s4 := s3.applyCommits
    let s5 := s4.1.applyMembership s4.2
    let s6 := s5.routeSwitch
    let s7 := (s6.applyWindows.switchDies).stopBlend.clockChange s.steep.currentQ
    let s8 := forN 8 (fun x s => s.kvAdmit x) s7
    let s9 := s8.release.farResizes.mergeDeadlines
    let s10 := s9.issueSlices.sendEvents
    exec .steepBoundary s = .next (forN 32 (fun m s => s.flushMailbox m) s10).takeEarly) ∧
  (∀ s : State, s.dark = true → exec .steepBoundary s = .next s) ∧
  (∀ s : State, s.steep.boundaryLate = false → exec .deadlineBoundary s = .next (({ s with steep := { s.steep with
      boundaryLate := true, otherDeadlines := satN 16 (s.steep.otherDeadlines + 1)
      worstUs := max s.steep.worstUs (satN 16 ((s.steep.phase - 1000) / 100)) } }).raise {
    code := 0x010B, cls := .ce, a := BitVec.ofNat 64 (s.steep.phase - 1000), b := BitVec.ofNat 64 s.steep.phase }))

/-- AUDIT_COMPLETE of a snapshot in which every credit, cell, token, mailbox, energy and far-buffer equation holds answers
the state with the snapshot closed, AUDIT_LAST written, its overrun beyond 50 us entered in WORST_US, and nothing else
changed. DEADLINE_AUDIT of an audit still open raises one CE record, sets OVERRUN and counts. (R64, R65, R74, R75,
R78, R361, R566) -/
def Obligations.BalancedAuditFindsNothing : Prop :=
  (∀ (s : State) (n : AuditSnap), s.steep.snap = some n → n.creditDiffs = [] →
    (∀ b, s.steep.snapBefore = some b → s.crossDiffs b = []) →
    (∀ p, p < 2 → (n.cells.getD p {}).free + (n.cells.getD p {}).queued + (n.cells.getD p {}).opened + (n.cells.getD p {}).held = 262144) →
    (∀ t ∈ n.tokens, t.2.1 = t.2.2.1 + t.2.2.2) → (∀ m ∈ n.mailboxes, m.2.1 + m.2.2.1 + m.2.2.2 = 16) →
    n.charged.sum + n.idle = n.metered → (∀ f ∈ n.far, f.2.1 + f.2.2 = 1519104) →
    exec .auditComplete s = .next { s with steep := { s.steep with
      snap := none, snapBefore := some n, auditLast := n.steep % 2 ^ 32, auditLate := false
      worstUs := max s.steep.worstUs (satN 16 ((s.lateBy n.first - 5000) / 100)) } }) ∧
  (∀ (s : State) (n : AuditSnap), s.steep.snap = some n → s.steep.auditLate = false →
    exec .deadlineAudit s = .next (({ s with steep := { s.steep with
        auditLate := true, auditOverrun := true, otherDeadlines := satN 16 (s.steep.otherDeadlines + 1) } }).raise {
      code := 0x010A, cls := .ce, a := BitVec.ofNat 64 (s.lateBy n.steep - 5000), b := BitVec.ofNat 64 (s.lateBy n.steep) }))

/-- A slice or transfer still running at the first boundary after its start raises its CE record and counts; at the second
it raises the UC record and, but for a load, fences its context in error mode, the streams whose slices reached it
ending with DEADLINE. A tile's last pour that passes the boundary after the last MAC raises one CE record; a caddy
command one UC record, its step fails and its shadow is discarded. (R63, R64, R65, R231, R472, R715) -/
def Obligations.LateWorkRaisesItsDeadlineRecords : Prop :=
  (∀ (s : State) (x slot n : Nat) (t : Stream) (ts : List Stream), ((s.ctx x).slot slot).streams = t :: ts → t.running = some n →
    let late (ce uc : Nat) (cls : Cls) : State :=
      ({ (s.updStream x slot fun t => { t with overruns := t.overruns + 1 }) with steep := { s.steep with
          sliceCe := satN 16 (s.steep.sliceCe + ce), sliceUc := satN 16 (s.steep.sliceUc + uc) } } : State).raise {
        code := 0x0106, cls := cls, ctx := some x, opRef := t.id, a := BitVec.ofNat 64 (s.lateBy (n + 1)), b := BitVec.ofNat 64 (s.lateBy n) }
    (s.steep.sliceCe < 2 ^ 16 → s.steep.sliceUc < 2 ^ 16 →
      (t.overruns = 0 → n + 1 ≤ s.steep.count → exec (.deadlineSliceCe x slot) s = .next (late 1 0 .ce)) ∧
      (t.overruns = 1 → n + 2 ≤ s.steep.count → exec (.deadlineSliceUc x slot) s = .next ((late 0 1 .uc).fenceLate x)))) ∧
  (∀ (s : State) (w : XferRef) (l : Late), s.lateOf w = some l →
    let late (cls : Cls) : State :=
      ({ s.noteLate w with steep := { s.steep with otherDeadlines := satN 16 (s.steep.otherDeadlines + 1) } } : State).raise {
        code := 0x0107, cls := cls, unit := l.unit, ctx := l.ctx, opcode := l.opcode, opRef := l.opRef
        a := BitVec.ofNat 64 (s.lateBy (l.started + 1)), b := BitVec.ofNat 64 (s.steep.ticks - l.tick) }
    (l.raised = 0 → l.started + 1 ≤ s.steep.count → exec (.deadlineXferCe w) s = .next (late .ce)) ∧
    (∀ x, l.raised = 1 → l.started + 2 ≤ s.steep.count → l.ctx = some x → (∀ y id, w ≠ .load y id) →
      exec (.deadlineXferUc w) s = .next ((late .uc).fenceLate x)) ∧
    (∀ y id, l.raised = 1 → l.started + 2 ≤ s.steep.count → w = .load y id → exec (.deadlineXferUc w) s = .next (late .uc))) ∧
  (∀ (s : State) (k : Nat) (p : Pour), (s.core k).pour = some p → p.last = true → p.late = false → p.lastMac < s.steep.count →
    exec (.deadlinePour k) s = .next (({ (s.updCore k fun c => { c with pour := some { p with late := true } }) with steep := { s.steep with
        otherDeadlines := satN 16 (s.steep.otherDeadlines + 1) } } : State).raise {
      code := 0x0108, cls := .ce, unit := .core k, ctx := p.ctx, opcode := (mtOf p.cmd).op, opRef := (mtOf p.cmd).tileId
      a := BitVec.ofNat 64 (s.lateBy (p.lastMac + 1)), b := BitVec.ofNat 64 (s.steep.ticks - p.tick) })) ∧
  (∀ (s : State) (c : Nat) (j : CaddyJob), ((s.caddy c).jobs.find? fun j => !j.late && j.started < s.steep.count) = some j →
    let u := ucmdOf j.cmd
    let s1 : State := { (s.updCaddy c fun d => { d with jobs := d.jobs.map fun q => if q.id = j.id then { q with late := true } else q }) with
      steep := { s.steep with otherDeadlines := satN 16 (s.steep.otherDeadlines + 1) } }
    exec (.deadlineCaddy c) s = .next ((((s1.caddyRecord c j.ctx 0x0109 .uc u ((u.nextTile c j.next).getD u.first)
      (BitVec.ofNat 64 (s.lateBy (j.started + 1))) (BitVec.ofNat 64 (s.steep.ticks - j.tick))).updUpd j.ctx fun v => { v with bad := true }).failStep
        j.ctx u.step CauseOf.caddy s.steep.count).discardShadow j.ctx u.step))

/-- When a unit's drain is not complete 2 steeps after its fence was applied, FENCE_ESCALATED answers the state in which
the fence stands in error mode from now on, every outstanding operation of the unit is terminated, and the CE record
FENCE_ESCALATED of the unit is raised. (R37) -/
def Obligations.DrainEscalatesAfterTwoSteeps : Prop :=
  ∀ (s : State) (u : UnitId), (s.unit u).fence = some .drain → (s.unit u).complete = false → (s.unit u).fencedAt + 2 ≤ s.steep.count →
    exec (.fenceEscalated u) s = .next (((s.setUnit u { s.unit u with fence := some .err, fencedAt := s.steep.count, escalated := true }).terminate u).raise
      { code := 0x0101, cls := .ce, unit := u })

/-- FENCE_DRAIN_COMPLETE of a draining unit with nothing outstanding, and FENCE_TERMINATIONS_DONE of a unit in error mode
that no rung covers, complete the fence, and COMMAND_DONE reports the UNIT_DISABLE that waits for it; a context's
terminations end. FENCE_RESET_DUE starts the unit's rung when its error fence is not complete by the next boundary.
(R35, R36, R38, R386, R387, R684, R685) -/
def Obligations.FencesCompleteWhenNothingIsLeft : Prop :=
  (∀ (s : State) (u : UnitId), (s.unit u).fence = some .drain → (s.unit u).complete = false → s.outstanding u = [] →
    let t := s.setUnit u { s.unit u with complete := true, disableBy := none }
    ((s.unit u).disableBy = none → exec (.fenceDrainComplete u) s = .next t) ∧
    (∀ by_, (s.unit u).disableBy = some by_ → exec (.fenceDrainComplete u) s = .next (t.commandDone by_ none))) ∧
  (∀ (s : State) (u : UnitId), (∀ x, u ≠ .ctx x) → (s.unit u).fence = some .err → (s.unit u).complete = false →
    (∀ r ∈ s.faults.rungs, covers r.unit u = false) →
    let t := s.setUnit u { s.unit u with complete := true, disableBy := none }
    ((s.unit u).disableBy = none → exec (.fenceTerminationsDone u) s = .next t) ∧
    (∀ by_, (s.unit u).disableBy = some by_ → exec (.fenceTerminationsDone u) s = .next (t.commandDone by_ none))) ∧
  (∀ (s : State) (x : Nat), (s.ctx x).state = .fenced →
    exec (.fenceTerminationsDone (.ctx x)) s = .next (s.setCtx x { s.ctx x with terminating := false })) ∧
  (∀ (s : State) (u : UnitId), (s.unit u).fence = some .err → (s.unit u).complete = false → (s.unit u).fencedAt < s.steep.count →
    (∀ x, x < 8 → (s.ctx x).state ≠ .fenced) →
    exec (.fenceResetDue u) s = .next (s.startRung u (rungOf u) 0 none none false))

/-- Asked of a unit of this module: UNIT_QUERY answers its status word; UNIT_FENCE of an ACTIVE unit, or of one fenced
only from above, applies the fence with OK; UNIT_RELEASE and UNIT_ENABLE of a FENCED unit are accepted for the next
boundary, of a DRAINING one kept PENDING; UNIT_DISABLE of an ACTIVE unit starts its shut-down. On a context, enable
and disable act by the context's state. (R32, R34, R35, R36, R384, R386, R387, R839, R840, R841) -/
def Obligations.KettleAnswersUnitCommands : Prop :=
  (∀ (s : State) (r : Req) (u : UnitId), s.asked r 0x0002 false anyClass u = true → reqArgs r 0x0002 = [] →
    exec (.unitQuery r) s = answered r 0x0002 St.ok [(s.taken r).statusWord u] (s.taken r)) ∧
  (∀ (s : State) (r : Req) (u : UnitId) (err : Bool), s.asked r 0x0003 false anyClass u = true →
    reqArgs r 0x0003 = [if err then 1#64 else 0#64] → s.ustate u = .active ∨ s.ustate u = .above →
    exec (.unitFence r) s = answered r 0x0003 St.ok [] ((s.taken r).fence u (if err then .err else .drain))) ∧
  (∀ (s : State) (r : Req) (u : UnitId), s.asked r 0x0004 true anyClass u = true → reqArgs r 0x0004 = [] → (∀ x, u ≠ .ctx x) →
    (s.unit u).shutdown = false → (s.unit u).pendingEnable = none →
    (s.ustate u = .fenced → (s.unit u).accepted = none → exec (.unitRelease r) s = answered r 0x0004 St.accepted []
      ((s.taken r).setUnit u { s.unit u with accepted := some { by_ := some (reqOf r 0x0004 u).ref, enable := false } })) ∧
    (s.ustate u = .draining ∨ s.ustate u = .resetting → exec (.unitRelease r) s = answered r 0x0004 St.pending []
      ((s.taken r).setUnit u { s.unit u with pendingEnable := some { by_ := some (reqOf r 0x0004 u).ref, enable := false } }))) ∧
  (∀ (s : State) (r : Req) (u : UnitId), s.asked r 0x0005 true enableClass u = true → reqArgs r 0x0005 = [] → (∀ x, u ≠ .ctx x) →
    (s.unit u).pendingEnable = none →
    (s.ustate u = .fenced → (s.unit u).accepted = none → exec (.unitEnable r) s = answered r 0x0005 St.accepted []
      ((s.taken r).setUnit u { s.unit u with accepted := some { by_ := some (reqOf r 0x0005 u).ref, enable := true } })) ∧
    (s.ustate u = .draining ∨ s.ustate u = .resetting → exec (.unitEnable r) s = answered r 0x0005 St.pending []
      ((s.taken r).setUnit u { s.unit u with pendingEnable := some { by_ := some (reqOf r 0x0005 u).ref, enable := true } }))) ∧
  (∀ (s : State) (r : Req) (u : UnitId), s.asked r 0x0006 true enableClass u = true → reqArgs r 0x0006 = [] → (∀ x, u ≠ .ctx x) →
    s.ustate u = .active → exec (.unitDisable r) s = answered r 0x0006 St.accepted []
      (let t := (s.taken r).fence u .drain; t.setUnit u { t.unit u with shutdown := true, disableBy := some (reqOf r 0x0006 u).ref })) ∧
  (∀ (s : State) (r : Req) (x : Nat), s.asked r 0x0005 true enableClass (.ctx x) = true → reqArgs r 0x0005 = [] →
    (s.ctx x).state = .stopped → (s.ctx x).due = none → s.members.votedOut = false →
    exec (.unitEnable r) s = answered r 0x0005 St.accepted []
      ((s.taken r).setCtx x { s.ctx x with due := some (.enable (reqOf r 0x0005 (.ctx x)).ref) })) ∧
  (∀ (s : State) (r : Req) (x : Nat), s.asked r 0x0006 true enableClass (.ctx x) = true → reqArgs r 0x0006 = [] →
    (s.ctx x).state = .active → exec (.unitDisable r) s = answered r 0x0006 St.accepted []
      ((s.taken r).setCtx x { s.ctx x with state := .draining, disableBy := some (reqOf r 0x0006 (.ctx x)).ref }))

/-- INPUT_POWER_RISE with MOD_RESET_N low brings the rails of a module that is off up and MOD_PWRGD high. INPUT_SAG notes
the sag; INPUT_LOW of a sag sets INPUT_LOW and raises its UC record; INPUT_SAG_TIMEOUT of a sag, INPUT_BELOW_40V,
INPUT_OVERVOLTAGE and RAIL_FAULT turn the converters off in every state: MOD_PWRGD low, the next start cold, memory,
contexts, units and records lost, flash and repair list kept, no record written. INPUT_HIGH raises its CE record once
a minute. REFCLK_LOSS holds the module; REFCLK_RETURN starts the reset unless MOD_RESET_N is low. (R324, R675, R750,
R791, R797, R798, R806, R807, R808) -/
def Obligations.InputPowerAndClockEvents : Prop :=
  let off (s u : State) : Prop := u.power.off = true ∧ u.power.pwrgd = false ∧ u.power.cold = true ∧ u.power.sag = false ∧ u.dark = true ∧
    u.mem.space.cells = [] ∧ u.mem.space.syn = [] ∧ u.mem.repair = s.mem.repair ∧ u.trust.banks = s.trust.banks ∧ u.faults.crashLog = s.faults.crashLog ∧
    u.faults.records = [] ∧ u.steep.count = 0 ∧ (∀ x, (u.ctx x).state = .free) ∧ (∀ m, (u.mailbox m).conserved) ∧ (∀ v, (u.unit v).fence = none) ∧
    (∀ k, (u.core k).store.cells = [] ∧ (u.core k).tile = none) ∧ u.host.resetHeld = s.host.resetHeld ∧ u.out = s.out ∧ u.pending = s.pending
  (∀ s : State,
    (s.power.off = true → s.host.resetHeld = true → exec .inputPowerRise s = .next { s with power := { s.power with
      off := false, pwrgd := true, cold := true } }) ∧
    (s.power.off = false ∨ s.host.resetHeld = false → exec .inputPowerRise s = .next s)) ∧
  (∀ s : State, exec .inputSag s = .next { s with power := { s.power with sag := !s.power.off } }) ∧
  (∀ s : State,
    (s.power.sag = true → exec .inputLow s = .next ({ s with power := { s.power with inputLow := true } }.raise { code := 0x0D01, cls := .uc })) ∧
    (s.power.sag = false → exec .inputLow s = .next s)) ∧
  (∀ s : State,
    (s.power.sag = true → ∃ u, exec .inputSagTimeout s = .next u ∧ off s u) ∧
    (s.power.sag = false → exec .inputSagTimeout s = .next s)) ∧
  (∀ s : State, ∃ u, exec .inputBelow40v s = .next u ∧ off s u) ∧
  (∀ s : State, ∃ u, exec .inputOvervoltage s = .next u ∧ off s u) ∧
  (∀ s : State, ∃ u, exec .railFault s = .next u ∧ off s u) ∧
  (∀ s : State,
    (s.power.off = false → (∀ t, s.power.lastHigh = some t → t + 60 ≤ s.seconds) →
      exec .inputHigh s = .next ({ s with power := { s.power with lastHigh := some s.seconds } }.raise { code := 0x0D00, cls := .ce })) ∧
    (∀ t, s.power.lastHigh = some t → s.seconds < t + 60 → exec .inputHigh s = .next s)) ∧
  (∀ s : State,
    (s.power.off = false → exec .refclkLoss s = .next { s with power := { s.power with refLost := true }, host := { s.host with flr := [] } }) ∧
    (s.power.off = true → exec .refclkLoss s = .next s)) ∧
  (∀ s : State,
    (s.power.refLost = true → s.host.resetHeld = false →
      exec .refclkReturn s = .next ({ s with power := { s.power with refLost := false } } : State).bootUp) ∧
    (s.power.refLost = true → s.host.resetHeld = true →
      exec .refclkReturn s = .next { s with power := { s.power with refLost := false } }) ∧
    (s.power.refLost = false → exec .refclkReturn s = .next s))

/-- POWER_SAMPLE of a module that is on adds the whole µJ of the sample, with the fraction carried from the one before, to
the metered energy, keeps the rest as the next fraction, and divides the same number among the contexts, each rounded
down, and idle, so that the charges add up; volts, temperatures and power are noted; above 3,600 W the peak gate is
set and POWER_PEAK is raised, else no record is. A module that is off takes no sample. (R77, R799, R800, R802, R817) -/
def Obligations.SamplesMeterEnergyExactly : Prop :=
  (∀ (s : State) (p : PowerSample), s.power.off = false →
    let raw := s.steep.energyFraction + p.mv * p.ma
    let e := raw / 100000
    let own (x : Nat) := s.chargeOf p e x
    ∃ u, exec (.powerSample p) s = .next u ∧ u.steep.metered = s.steep.metered + e ∧ u.steep.energyFraction = raw % 100000 ∧
      100000 * e + u.steep.energyFraction = raw ∧
      (∀ x, x < 8 → u.steep.charged.get 0 x = s.steep.charged.get 0 x + own x) ∧
      u.steep.idleEnergy = s.steep.idleEnergy + (e - ((List.range 8).map own).sum) ∧
      u.power.volts = satN 16 (p.mv / 10) ∧ u.power.sampleW = satN 16 (p.mv * p.ma / 1000000) ∧ u.power.inlet = p.inlet ∧
      u.power.outlet = p.outlet ∧
      (u.power.peakGate = true ↔ s.power.peakGate = true ∨ 3600 < p.mv * p.ma / 1000000) ∧
      (∀ g, (u.region g) = s.region g) ∧ u.steep.count = s.steep.count ∧ u.mem.space = s.mem.space ∧
      (p.mv * p.ma / 1000000 ≤ 3600 → u.mem = s.mem ∧ u.faults.records = s.faults.records ∧ u.out = s.out ∧ u.pools = s.pools ∧ u.host = s.host)) ∧
  (∀ (s : State) (p : PowerSample), s.power.off = true → exec (.powerSample p) s = .next s)

/-- One step of a thermal, temperature or power throttle is released under its condition; a critical junction drops its
region to 0.8 GHz and its neighbours to 1.2 GHz or less, a tripped one raises the FA record; hot coolant is recorded;
REGION_SET within the adjacency limits is accepted for the next boundary; POWER_STATE with its condition is accepted,
and POWER_STATE_DONE enters the state and reports it. (R801, R804, R805, R812, R813, R814, R815, R817, R822, R832) -/
def Obligations.ClocksFollowHeatAndCommands : Prop :=
  (∀ (s : State) (g : Nat), g < 32 → (s.region g).released < s.steep.count →
    (0 < (s.region g).thermal ∧ 64 < (s.region g).cool) ∨ (0 < (s.region g).tempDiff ∧ 64 < (s.region g).calm) →
    exec (.thermalRelease g) s = .next (s.updRegion g fun r => { r with
      thermal := if 0 < r.thermal ∧ 64 < r.cool then r.thermal - 1 else r.thermal
      tempDiff := if 0 < r.tempDiff ∧ 64 < r.calm then r.tempDiff - 1 else r.tempDiff
      released := s.steep.count }).settleClocks) ∧
  (∀ (s : State) (g : Nat), ((List.range 32).find? fun g => decide (0 < (s.region g).power)) = some g → 64 ≤ s.power.below →
    s.power.capReleased < s.steep.count → exec .powerCapRelease s = .next ({ (s.updRegion g fun r => { r with power := r.power - 1 }) with
      power := { (s.updRegion g fun r => { r with power := r.power - 1 }).power with capReleased := s.steep.count } } : State).settleClocks) ∧
  (∀ (s : State) (g : Nat), g < 32 → (s.faults.marginG.find g).isSome = true →
    (1680 ≤ (s.marginG g).temp → ∃ u, exec (.junctionCritical g) s = .next u ∧ u.power.critical = true ∧ u.host.alertThermal = true ∧
      (u.region g).eff = 64 ∧ ((∀ h, h < 32 → (s.region h).set_ ≤ 128) → ∀ h ∈ adjacentTo g, (u.region h).eff ≤ 96)) ∧
    (1840 ≤ (s.marginG g).temp → exec (.junctionTrip g) s = .next (({ s with
        power := { s.power with tripSeen := true, tripHold := true }, host := { s.host with alertThermal := true } } : State).raise {
      code := 0x0D07, cls := .fa, unit := .region g }))) ∧
  (∀ s : State, 720 < s.power.inlet →
    exec .coolantHot s = .next (s.raiseLimited (0x0D08, 0) 64 { code := 0x0D08, cls := .ce, ownLimit := true })) ∧
  (∀ (s : State) (r : Req) (mask q : W64), s.asked r 0x0700 false adminClass .module = true → reqArgs r 0x0700 = [mask, q] →
    mask ≠ 0#64 → mask.toNat < 2 ^ 32 → 64 ≤ q.toNat → q.toNat ≤ 128 → s.power.sets = [] →
    let after (g : Nat) : Nat := if Nat.testBit mask.toNat g then q.toNat else (s.region g).set_
    let breaks : Bool := (List.range 32).any fun g => (adjacentTo g).any fun h =>
      decide (after h + 32 < after g) || decide (supplyOf h (after h) + 80 < supplyOf g (after g))
    exec (.regionSet r) s = if breaks then answered r 0x0700 St.adjacency [] (s.taken r)
      else answered r 0x0700 St.accepted [] ({ s.taken r with power := { s.power with
        sets := [((List.range 32).filter fun g => Nat.testBit mask.toNat g, q.toNat, (reqOf r 0x0700 .module).ref)] } } : State)) ∧
  (∀ (s : State) (r : Req) (dest : Nat), s.asked r 0x0701 false adminClass .module = true → reqArgs r 0x0701 = [BitVec.ofNat 64 dest] →
    dest < 4 → s.power.target = s.power.state → dest ≠ s.power.state → s.powerOk dest = true →
    exec (.powerState r) s = answered r 0x0701 St.accepted [] ({ s.taken r with power := { s.power with
      target := dest, stateBy := some (reqOf r 0x0701 .module).ref } } : State)) ∧
  (∀ (s : State) (by_ : CmdRef), s.power.moving = true → s.power.target = 0 → s.power.state ≠ 0 → s.mem.settled = true → s.power.stateBy = some by_ →
    exec .powerStateDone s = .next (({ s with power := { s.power with state := 0, moving := false, stateBy := none } } : State).commandDone by_ none))

/-- FLR of a virtual function fences its context and resets its mailboxes; FLR of the physical function and a hot reset do
so for all; link return, FLR completion, D3hot, D0, VF enable, a failed engine access, MOD_RESET_N low and high have
the effect their rules give, and nothing else changes. The warm module reset that the release of MOD_RESET_N starts
keeps the slow tier, the steep counter, the flash, the set clocks, the limits, TRIP_SEEN and the FA alert; the fast
tier and the core stores read 0, contexts are free, mailboxes hold their tokens, units no fence, and the period is 1
ms (notes/assumptions/36). (R324, R377, R662, R675, R684, R773, R778, R779, R784, R785, R791, R794) -/
def Obligations.HostFunctionsAndResetSignals : Prop :=
  (∀ (s : State) (fn : Nat), 1 ≤ fn → fn ≤ 8 → s.dark = false →
    let t := (s.fenceCtx (fn - 1)).resetMailboxes (fn - 1)
    exec (.flrVf fn) s = .next { t with host := { t.host.clearFn fn with
      flr := if t.host.flr.contains fn then t.host.flr else t.host.flr ++ [fn], flrs := satN 16 (t.host.flrs + 1) } }) ∧
  (∀ s : State, s.dark = false →
    let t := s.hostReset
    t.host.flr = [0] ∧ t.host.vfEnable = false ∧ t.host.msixEnabled = [] ∧ t.host.busMaster = [] ∧ t.host.msixTable = [] ∧
    t.host.unmasked = [] ∧ t.host.msixPending = [] ∧ t.host.d3hot = false ∧ (∀ x, x < 8 → (t.ctx x).state = .free ∨ (t.ctx x).state = .fenced) ∧
    exec .flrPf s = .next { t with host := { t.host with flrs := satN 16 (t.host.flrs + 1) } } ∧
    exec .hotReset s = .next (({ t with host := { t.host with
      linkDown := true, width := 0, speed := 0, flit := false, ideActive := false, linkDowns := satN 16 (t.host.linkDowns + 1) } } : State).raise {
        code := 0x0C01, cls := .ce })) ∧
  (∀ (s : State) (speed width : Nat) (flit : Bool), s.dark = false → 1 ≤ speed → speed ≤ 7 → width ∈ [1, 2, 4, 8, 16] →
    exec (.hostLinkReturn speed width flit) s = .next { s with host := { s.host with
      linkDown := false, speed := speed, width := width, flit := flit } }) ∧
  (∀ (s : State) (fn : Nat), fn ≠ 0 ∨ s.host.linkDown = false →
    exec (.flrComplete fn) s = .next { s with host := { s.host with flr := s.host.flr.filter fun f => f ≠ fn } }) ∧
  (∀ s : State, exec .d3hotEntry s = .next { s with host := { s.host with d3hot := true } } ∧
    exec .d0Entry s = .next { s with host := { s.host with d3hot := false } } ∧
    exec .modResetNAssert s = .next { s with host := { s.host with resetHeld := true, flr := [] } }) ∧
  (∀ (s : State) (num : Nat) (on : Bool), num ≤ 8 →
    exec (.vfEnable num on) s = .next { s with host := { s.host with numVfs := num, vfEnable := on } }) ∧
  (∀ (s : State) (ctx fn addr kind code : Nat) (write : Bool), ctx < 8 → fn ≤ 8 → 1 ≤ kind → kind ≤ 4 →
    exec (.hostDmaFault ctx fn addr kind write code) s = .next (({ s with host := { s.host with
      dmaErrors := satN 16 (s.host.dmaErrors + 1) } }).raise {
        code := 0x0C00, cls := .uc, ctx := some ctx, a := BitVec.ofNat 64 addr
        b := mkWord [(0, 4, fn), (4, 4, kind), (8, 1, b2n write), (16, 16, code)] })) ∧
  (∀ s : State, s.host.resetHeld = true →
    (s.power.off = false → s.power.refLost = false →
      exec .modResetNRelease s = .next ({ s with host := { s.host with resetHeld := false } } : State).bootUp) ∧
    (s.power.off = true ∨ s.power.refLost = true →
      exec .modResetNRelease s = .next { s with host := { s.host with resetHeld := false } })) ∧
  (∀ (s : State) (service : Bool), let t := s.warmReset service
    (∀ a, ownBase ≤ a → t.mem.space.byte a = s.mem.space.byte a) ∧ (∀ a, a < ownBase → t.mem.space.byte a = 0#8) ∧
    t.steep.count = s.steep.count ∧ t.steep.currentQ = 4 ∧ t.steep.nextQ = 4 ∧ t.pending = s.pending ∧ t.trust.banks = s.trust.banks ∧
    t.faults.limits = s.faults.limits ∧ (∀ g, (t.region g).set_ = (s.region g).set_) ∧ t.power.tripSeen = s.power.tripSeen ∧ t.host.alertFa = s.host.alertFa ∧ (∀ x, (t.ctx x).state = .free) ∧
    (∀ m, (t.mailbox m).free = 16 ∧ (t.mailbox m).pending = 0) ∧ (∀ u, (t.unit u).fence = none) ∧
    (∀ k, (t.core k).store.cells = [] ∧ (t.core k).vec.vl = 64 ∧ (t.core k).tile = none))

/-- A 1PPS edge captures the steep and PHASE; on the time master with PPS_EN and a period that divides a second, PHASE
moves at most 2,000 ticks towards a boundary. PPS_LOST alerts and records 2 s after the last edge. SETDASA, ENTDAA and
the endpoint ID take their address; sensor readings are answered as last updated, updates note every sensor and tell
of crossed thresholds while events are enabled. (R787, R788, R789, R790, R793, R820, R823) -/
def Obligations.ManagementBusAndPulsePerSecond : Prop :=
  (∀ s : State, s.dark = false →
    let ph := s.steep.phase
    let steer := s.host.ppsEn && s.isMaster && 4000 % s.steep.currentQ == 0
    exec .ppsEdge s = .next { s with
      host := { s.host with ppsSteep := s.steep.count % 2 ^ 44, ppsPhase := ph, ppsAt := some s.steep.ticks }
      steep := { s.steep with phase := (if steer = false then ph else if 2 * ph ≤ 25000 * s.steep.currentQ then ph - min ph 2000 else ph + min (25000 * s.steep.currentQ - 1 - ph) 2000) } }) ∧
  (∀ (s : State) (t : Nat), s.host.ppsEn = true → s.host.ppsAt = some t → t + 200000000 ≤ s.steep.ticks →
    exec .ppsLost s = .next ({ s with host := { s.host with alertPps := true, ppsAt := none } }.raise { code := 0x0C02, cls := .ce })) ∧
  (∀ (s : State) (addr : Nat), s.dark = false → addr < 128 →
    exec (.i3cSetdasa 0x4A addr) s = .next { s with host := { s.host with i3cAddr := some addr } } ∧
    (s.host.i3cAddr = none → ∃ w, exec (.i3cEntdaa addr) s = .next { s with
      host := { s.host with i3cAddr := some addr }, out := s.out ++ [.i3c w] })) ∧
  (∀ (s : State) (eid : Nat), s.dark = false → s.trust.stage ≠ 0 → eid < 256 →
    exec (.mctpSetEndpointId eid) s = .next { s with
      host := { s.host with eid := some eid }, out := s.out ++ [.mctp 0x00 [BitVec.ofNat 64 eid]] }) ∧
  (∀ (s : State), s.dark = false → s.host.pldmReady = true →
    (∀ id v, s.sensor id = some v → exec (.pldmGetSensorReading id) s =
      .next { s with out := s.out ++ [.mctp 0x01 [BitVec.ofNat 64 id, BitVec.ofInt 64 (s.power.sensors.get 0 id)]] }) ∧
    (∃ u, exec .pldmSensorUpdate s = .next u ∧ (∀ id v, id ∈ sensorIds → s.sensor id = some v → u.power.sensors.get 0 id = v) ∧
      (s.host.pldmEvents = false → u.out = s.out) ∧ u.host = s.host ∧ u.faults = s.faults) ∧
    exec .pldmEventsEnable s = .next { s with host := { s.host with pldmEvents := true } })

/-- ERR_READ answers at most two readable records from a SEQ on with the next one's SEQ; ERR_CLEAR marks the readable open
UC records it names cleared and counts them; ERR_CRASH_LOG answers one entry; RESET_LIMITS takes seven non-zero
limits. RECORDS_LOST raises one CE record with the count; RECORD_AGE_RELEASE drops what is past its age. (R21, R667,
R673, R674, R676, R690, R693, R701) -/
def Obligations.ErrorRecordCommandsReadClearAndAge : Prop :=
  (∀ (s : State) (r : Req) (u : UnitId) (a : W64), s.asked r 0x0400 false anyClass u = true → reqArgs r 0x0400 = [a] → a.toNat < 2 ^ 32 →
    let all := s.faults.records.filter fun m => (hopsOf u).isPrefixOf m.path && s.mayRead r.mb m && decide (a.toNat ≤ m.seq)
    exec (.errRead r) s = answered r 0x0400 St.ok (BitVec.ofNat 64 (match all.drop 2 with | m :: _ => m.seq | [] => 0) ::
      ((all.take 2).map fun m => lengthSlot m.seq m.ctx 0x20 m.words.length :: m.words).flatten) (s.taken r)) ∧
  (∀ (s : State) (r : Req) (u : UnitId) (a : W64), s.asked r 0x0401 false anyClass u = true → reqArgs r 0x0401 = [a] → a.toNat < 2 ^ 33 →
    let hit (m : RecMeta) : Bool := m.cls == .uc && m.clearedAt.isNone && (hopsOf u).isPrefixOf m.path && s.mayRead r.mb m &&
      (if bitAt a 32 then decide (m.seq ≤ fld a 31 0) else m.seq == fld a 31 0)
    let t := s.taken r
    (∃ m ∈ s.faults.records, hit m = true) →
    exec (.errClear r) s = answered r 0x0401 St.ok [BitVec.ofNat 64 (s.faults.records.filter hit).length]
      ({ t with faults := { t.faults with records := s.faults.records.map fun m => if hit m then { m with clearedAt := some s.steep.count } else m } } : State)) ∧
  (∀ (s : State) (r : Req) (i : Nat) (e : CrashEntry), s.asked r 0x0402 false adminClass .module = true → reqArgs r 0x0402 = [BitVec.ofNat 64 i] →
    i ≤ 32 → s.faults.crashLog[i]? = some (some e) → exec (.errCrashLog r) s = answered r 0x0402 St.ok (e.slot :: e.words) (s.taken r)) ∧
  (∀ (s : State) (r : Req) (a : W64), s.asked r 0x0403 false adminClass .module = true → reqArgs r 0x0403 = [a] → a.toNat < 2 ^ 56 →
    (∀ i, i < 7 → fld a (8 * i + 7) (8 * i) ≠ 0) → exec (.resetLimits r) s = answered r 0x0403 St.ok [] ({ s.taken r with
      faults := { s.faults with limits := (List.range 7).map fun i => fld a (8 * i + 7) (8 * i) } } : State)) ∧
  (∀ s : State, s.faults.lostPending ≠ 0 → (s.pool 0).mayTake 0x180 1 = true →
    exec .recordsLost s = .next ({ s with faults := { s.faults with lostPending := 0 } }.raise {
      code := 0x0907, cls := .ce, a := BitVec.ofNat 64 s.faults.lostPending })) ∧
  (∀ s : State, ∃ u, exec .recordAgeRelease s = .next u ∧
    u.faults.records = s.faults.records.filter (fun m => !(aged s.steep.count m)) ∧ u.faults.lost = s.faults.lost ∧ u.mem = s.mem)

/-- UNIT_RESET starts the unit's rung, of the module the error-mode fence and warm reset after its completion;
SERVICE_RESTORE likewise; a rung that completes resets its domain and reports to every request it took up; one that is
late starts the next rung up, a link's none; a core engine without progress for 2 steeps is recorded, its context
fenced, and the engine's rung starts; the kettle's and a late module reset raise FA records; an FA's warm reset
follows. (R38, R662, R681, R682, R683, R684, R685, R686, R688, R689, R691, R692) -/
def Obligations.ResetLadderAndWatchdogs : Prop :=
  (∀ (s : State) (r : Req) (u : UnitId), s.asked r 0x0007 false anyClass u = true → reqArgs r 0x0007 = [] →
    (rungOf u ≠ 6 → exec (.unitReset r) s = answered r 0x0007 St.accepted []
      ((s.taken r).startRung u (rungOf u) 0 (some (reqOf r 0x0007 u).ref) none false)) ∧
    (rungOf u = 6 → exec (.unitReset r) s =
      .next (((s.taken r).complete r.mb 0x0007 (reqTag r 0x0007) St.ok []).moduleRung false))) ∧
  (∀ (s : State) (r : Req), s.asked r 0x0404 false adminClass .module = true → reqArgs r 0x0404 = [] →
    exec (.serviceRestore r) s = .next (((s.taken r).complete r.mb 0x0404 (reqTag r 0x0404) St.ok []).moduleRung true)) ∧
  (∀ (s : State) (service : Bool), (s.unit .module).fence ≠ some .err → s.moduleRung service = (s.fence .module .err).warmReset service) ∧
  (∀ (s : State) (u : UnitId) (engine us : Nat) (r : Rung), (s.faults.rungs.find? fun r => r.unit == u && r.engine == engine) = some r →
    let s1 := ({ s with faults := { s.faults with
      rungs := s.faults.rungs.filter fun q => !(q.unit == u && q.engine == engine), resets := satN 32 (s.faults.resets + 1) } } : State).resetDomain u r.code
    let s2 := if r.code = 1 then s1 else { s1 with members := { s1.members with unscored := u :: s1.members.unscored.filter fun v => v != u } }
    let s3 := if (s2.unit u).fence.isSome && r.code ≠ 1 then
      (match (s2.unit u).disableBy with
        | some c => (s2.setUnit u { s2.unit u with complete := true, disableBy := none }).commandDone c none
        | none => s2.setUnit u { s2.unit u with complete := true, disableBy := none }) else s2
    let e : Event := { kind := 0x0401, detail := mkWord [(0, 4, r.code), (4, 1, b2n r.escalated), (32, 32, us)] }
    let told := forL r.askers (fun c s => s.cmdEvent c none e) s3
    (∀ x, r.ctx = some x → exec (.resetRungComplete u engine us) s = .next (told.event x e)) ∧
    (r.ctx = none → exec (.resetRungComplete u engine us) s = .next told) ∧
    (r.code ≠ 0 → exec (.resetTimeout u engine) s = .next (
      let up := rungAbove u r.code
      let t := (({ s with faults := { s.faults with
        rungs := s.faults.rungs.filter fun q => !(q.unit == u && q.engine == engine), timeouts := satN 16 (s.faults.timeouts + 1) } } : State).raise {
          code := 0x0902, cls := .ce, unit := u, ctx := r.ctx, a := BitVec.ofNat 64 r.code }).startRung up.1 up.2 0 r.requester r.ctx true
      { t with faults := { t.faults with rungs := t.faults.rungs.map fun q => if covers q.unit up.1 then { q with joined := q.joined ++ r.joined } else q } })) ∧
    (r.code = 0 → exec (.resetTimeout u engine) s = .next (({ s with faults := { s.faults with
        rungs := s.faults.rungs.filter fun q => !(q.unit == u && q.engine == engine), timeouts := satN 16 (s.faults.timeouts + 1) } } : State).raise {
          code := 0x0902, cls := .ce, unit := u, ctx := r.ctx, a := BitVec.ofNat 64 r.code }))) ∧
  (∀ (s : State) (k engine x begun op ref : Nat), s.engineWork (.core k) engine = some (some x, begun, op, ref) → engine ≤ 3 →
    2 ≤ s.idleSteeps (.core k) engine →
    exec (.watchdogExpiry (.core k) engine) s = .next ((((({ s with faults := { s.faults with
        watchdogLog := mkWord [(0, 9, k), (10, 1, 1), (11, 3, x), (24, 8, engine), (32, 32, s.steep.count)]
        watch := s.faults.watch.filter fun d => !(d.unit == .core k && d.engine == engine) } } : State).fenceCtx x).raise {
      code := 0x0900, cls := .uc, unit := .core k, ctx := some x, opcode := op, opRef := ref
      a := mkWord [(0, 8, engine), (8, 8, satN 8 (s.idleSteeps (.core k) engine))] })).startRung (.core k) 1 engine none (some x) false)) ∧
  (∀ s : State, (2 ≤ s.idleSteeps (.iod 0) 9 → exec .kettleWatchdogExpiry s = .next (s.raise { code := 0x0901, cls := .fa })) ∧
    (s.idleSteeps (.iod 0) 9 < 2 → exec .kettleWatchdogExpiry s = .next s) ∧
    (s.faults.faDue = true → exec .faWarmReset s = .next (s.moduleRung false)) ∧
    (s.faults.moduleReset.isSome = true → s.trust.stage ≠ 0x0F → s.faults.oosCold = false →
      exec .moduleResetTimeout s = .next (({ s with
        faults := { s.faults with outOfService := true, oosReset := true, oosCold := true }, host := { s.host with alertOos := true } } : State).raise {
          code := 0x0903, cls := .fa })))

/-- BLEND_LOAD from module memory of a well-formed blend copies and measures it when its signature verifies; BLEND_RUN of
a loaded blend starts it; BLEND_ABORT is due at the next boundary; items that complete on an idle unit, or are skipped
on one still busy STEEPS_MAX steeps later, are counted. MARGIN_LOW is recorded; MARGIN_CRITICAL lowers the region's
clock at the next boundary. (R631, R694, R695, R696, R697, R698, R700, R702, R703) -/
def Obligations.TestBlendsAndMargins : Prop :=
  (∀ (s : State) (r : Req) (addr n : W64) (b : Blend), s.asked r 0x0410 false adminClass .module = true → reqArgs r 0x0410 = [1#64, addr, n] →
    s.faults.blend.state ≠ 2 → spanOk addr.toNat n.toNat = true →
    let ws := s.mem.space.words (addr.toNat / 8) (cdiv n.toNat 8)
    let bs := (ws.flatMap wordBytes).take n.toNat
    s.mem.space.syn = [] →
    blendOf ws n.toNat = some b → exec (.blendLoad r (.ok [])) s = if Config.blendSigned bs then answered r 0x0410 St.ok [] ({ (s.taken r).storeTier (firmwareBase / 8) ws with
      faults := { s.faults with blend := { b with
        ranAt := s.faults.blend.ranAt, lastFailed := s.faults.blend.lastFailed, passedSinceExpulsion := s.faults.blend.passedSinceExpulsion } }
      trust := s.trust.extend 8 (sha512 bs) } : State) else answered r 0x0410 St.blendSignature [] (s.taken r)) ∧
  (∀ (s : State) (r : Req), s.asked r 0x0411 false adminClass .module = true → reqArgs r 0x0411 = [] → s.faults.blend.state = 1 →
    exec (.blendRun r) s = answered r 0x0411 St.accepted [] ({ s.taken r with faults := { s.faults with blend := { s.faults.blend with
      state := 2, item := 0, startedAt := s.steep.count, idle := s.idleDies, by_ := some (reqOf r 0x0411 .module).ref, abortDue := false, passed := 0, failed := 0,
      skipped := 0, covered := [], doneUnits := [], full := false, result := 0 } } } : State)) ∧
  (∀ (s : State) (r : Req), s.asked r 0x0412 false adminClass .module = true → reqArgs r 0x0412 = [] → s.faults.blend.state = 2 →
    exec (.blendAbort r) s = answered r 0x0412 St.accepted [] ({ s.taken r with
      faults := { s.faults with blend := { s.faults.blend with abortDue := true } } } : State)) ∧
  (∀ (s : State) (u : UnitId), s.itemOn u true = true →
    let b := s.faults.blend
    ∃ i, b.items[b.item]? = some i ∧
    exec (.blendItemComplete u true) s = .next (({ s with faults := { s.faults with blend := { b with
      passed := b.passed + 1, covered := (b.covered ++ coverOf i u).eraseDups } } } : State).nextItem u) ∧
    exec (.blendItemComplete u false) s = .next ((({ s with faults := { s.faults with blend := { b with
      failed := b.failed + 1, covered := (b.covered ++ coverOf i u).eraseDups } } } : State).raise { code := 0x0904, cls := .uc, unit := u, a := BitVec.ofNat 64 b.item }).nextItem u)) ∧
  (∀ (s : State) (u : UnitId), s.itemOn u false = true →
    let b := s.faults.blend
    b.startedAt + b.steepsMax ≤ s.steep.count →
    exec (.blendItemSkip u) s = .next (({ s with faults := { s.faults with blend := { b with skipped := b.skipped + 1 } } } : State).nextItem u)) ∧
  (∀ (s : State) (g : Nat), g < 32 → (s.faults.marginG.find g).isSome = true →
    ((s.marginG g).voltage < 15 ∨ (s.marginG g).timing < 32 → exec (.marginLow (.region g)) s =
      .next (s.raiseLimited (0x0905, g) 64 { code := 0x0905, cls := .ce, unit := .region g, ownLimit := true })) ∧
    ((s.marginG g).voltage < 5 ∨ (s.marginG g).timing < 8 → exec (.marginCritical g) s = .next (({ s with power := { s.power with
      regions := s.power.regions.set g { s.region g with marginDue := (s.region g).marginDue + 1 } } } : State).raise {
        code := 0x0906, cls := .uc, unit := .region g }))) ∧
  (∀ (s : State) (l : Nat), (s.faults.marginL.find l).isSome = true → (s.faults.marginL.get {} l).optical < 15 →
    exec (.marginLow (.link l)) s = .next (s.raiseLimited (0x0905, 32 + l) 64 { code := 0x0905, cls := .ce, unit := .link l, ownLimit := true }))

/-- OPEN takes one cell, APPEND writes its words and takes each cell as its first word comes, COMMIT links the packet at
the tail with SEQ_NEXT and issues one notice, ABORT gives its cells back and reports, with no notice and no SEQ. A
producer that may take no cell waits, after the words that the cells it has can hold, is granted cells when the quotas
allow, and has its packet rewound with cause NO_CELL when it still waits at a boundary. A payload beyond 65,535 words,
one with an uncorrectable word and an empty COMMIT rewind the packet. A second OPEN on a port, an OPEN of a fenced
queue and any producer operation in error mode are refused and change nothing else. A drained queue becomes fenced.
(R335, R337, R338, R339, R340, R341, R343, R344, R346, R356, R357) -/
def Obligations.ProducersOpenAppendCommitAndEnd : Prop :=
  (∀ (s : State) (pool qid port ty : Nat) (ctx : Option Nat), queueOk pool qid = true → port < 8 → ty < 256 →
    let p := s.pool pool
    let q := p.queue qid
    q.enabled = true → q.fence = none →
    (q.ports.find port = none → p.mayTake qid 1 = true →
      exec (.queueOpen pool qid port ty ctx) s = .next ((s.setPool pool ((p.take (p.pick pool 1)).setQueue qid
        { q with ports := q.ports.set port { ty := ty, ctx := ctx, chain := p.pick pool 1 } })).answer .ok [])) ∧
    (q.ports.find port = none → p.mayTake qid 1 = false →
      exec (.queueOpen pool qid port ty ctx) s = .next ((s.setPool pool (p.setQueue qid { q with
        ports := q.ports.set port { ty := ty, ctx := ctx, started := false, since := s.steep.count }
        waits := satN 16 (q.waits + 1) })).answer .wait [])) ∧
    (q.ports.find port ≠ none → exec (.queueOpen pool qid port ty ctx) s = .next (s.answer .portBusy []))) ∧
  (∀ (s : State) (pool qid port ty : Nat) (ctx : Option Nat) (ws : List W64) (ue : Bool), queueOk pool qid = true →
    ((s.queue pool qid).fence ≠ none → exec (.queueOpen pool qid port ty ctx) s = .next (s.answer .queueFenced [])) ∧
    ((s.queue pool qid).fence = some .err →
      exec (.queueAppend pool qid port ws ue) s = .next (s.answer .queueFenced []) ∧
      exec (.queueCommit pool qid port) s = .next (s.answer .queueFenced []) ∧
      exec (.queueAbort pool qid port) s = .next (s.answer .queueFenced []))) ∧
  (∀ (s : State) (pool qid port : Nat) (ws : List W64) (o : OpenPacket), queueOk pool qid = true →
    let p := s.pool pool
    let q := p.queue qid
    q.enabled = true → q.fence ≠ some .err → q.ports.find port = some o → o.started = true → o.waiting = none →
    let need := cellsFor (o.words.length + ws.length) - o.cells
    (o.words.length + ws.length ≤ 65535 → p.mayTake qid need = true →
      exec (.queueAppend pool qid port ws false) s = .next ((s.setPool pool ((p.take (p.pick pool need)).setQueue qid
        { q with ports := q.ports.set port { o with words := o.words ++ ws, chain := o.chain ++ p.pick pool need } })).answer .ok [])) ∧
    (o.words.length + ws.length ≤ 65535 → ws ≠ [] → p.mayTake qid need = false →
      let cs := p.pick pool (p.most qid need)
      let room := 32 * (o.cells + cs.length) - 1 - o.words.length
      p.most qid need < need ∧ p.mayTake qid (p.most qid need) = true ∧ p.mayTake qid (p.most qid need + 1) = false ∧
      exec (.queueAppend pool qid port ws false) s = .next ((s.setPool pool ((p.take cs).setQueue qid { q with
        ports := q.ports.set port { o with
          words := o.words ++ ws.take room, chain := o.chain ++ cs, waiting := some (ws.drop room), since := s.steep.count }
        waits := satN 16 (q.waits + 1) })).answer .wait [])) ∧
    (65535 < o.words.length + ws.length →
      exec (.queueAppend pool qid port ws false) s = .next ((s.rewind pool qid port .tooLong).answer (.rewound .tooLong) [])) ∧
    exec (.queueAppend pool qid port ws true) s =
      .next (((s.setPool pool { p with ue := satN 16 (p.ue + 1) }).rewind pool qid port .inputUe).answer (.rewound .inputUe) []) ∧
    (o.words ≠ [] → exec (.queueCommit pool qid port) s = .next (((s.setPool pool (p.setQueue qid { q with
        ports := q.ports.drop port
        packets := q.packets ++ [{ seq := q.seqNext, ctx := o.ctx, ty := o.ty, words := o.words, chain := o.chain }]
        seqNext := (q.seqNext + 1) % 2 ^ 32, notices := satN 32 (q.notices + 1) })).notify q.sink
      (mkWord [(32, 32, q.seqNext), (16, 16, o.words.length), (9, 1, pool), (0, 9, qid)])).answer .ok [])) ∧
    (o.words = [] → exec (.queueCommit pool qid port) s = .next ((s.rewind pool qid port .empty).answer (.rewound .empty) []))) ∧
  (∀ (s : State) (pool qid port : Nat) (o : OpenPacket), queueOk pool qid = true →
    let p := s.pool pool
    let q := p.queue qid
    q.fence ≠ some .err → q.ports.find port = some o →
    exec (.queueAbort pool qid port) s = .next ((((s.setPool pool { p.setQueue qid { q with
        ports := q.ports.drop port, badPackets := satN 16 (q.badPackets + 1) } with
      free := p.free + o.cells }).freedIn pool qid o.cells).emit (.rewound pool qid port q.producer .producer)).answer (.rewound .producer) [])) ∧
  (∀ (s : State) (pool qid port : Nat) (o : OpenPacket),
    let p := s.pool pool
    let q := p.queue qid
    q.ports.find port = some o →
    (o.started = false → p.mayTake qid 1 = true → s.steep.count ≤ o.since →
      exec (.producerCellGrant pool qid port) s = .next ((s.setPool pool ((p.take (p.pick pool 1)).setQueue qid
        { q with ports := q.ports.set port { o with started := true, chain := p.pick pool 1 } })).answer .ok [])) ∧
    (∀ ws, o.started = true → o.waiting = some ws →
      let need := cellsFor (o.words.length + ws.length) - o.cells
      p.mayTake qid need = true → p.mayTake qid 1 = true → s.steep.count ≤ o.since →
      exec (.producerCellGrant pool qid port) s = .next ((s.setPool pool ((p.take (p.pick pool need)).setQueue qid
        { q with ports := q.ports.set port { o with words := o.words ++ ws, chain := o.chain ++ p.pick pool need, waiting := none } })).answer .ok [])) ∧
    (o.started = false ∨ o.waiting ≠ none → o.since < s.steep.count →
      exec (.queueNoCell pool qid port) s = .next ((s.rewind pool qid port .noCell).updQueue pool qid Queue.settle))) ∧
  (∀ (s : State) (pool qid : Nat), (s.queue pool qid).fence = some .drain → (s.queue pool qid).ports = [] →
    exec (.queueDrained pool qid) s = .next (s.updQueue pool qid fun q => { q with fenced := true }))

/-- With clean link entries, READ of clean cells returns up to n words from the cursor's offset, length slot first, and
advances it; NEXT, MARK and REWIND move the cursor; RELEASE frees the n oldest packets behind the cursor and the marks
in them; PURGE frees one packet of the error-record queue. Each is refused as the table says and then changes nothing.
A sweep recounts the chains that it reaches, returns lost cells to FREE and counts them, and resets every queue of a
pair whose chains cross; an uncorrectable link entry on the way of a READ fences the queue in error mode and asks for
a sweep. The oldest event that the kettle holds is written when a cell can be taken. (R348, R349, R350, R351, R353,
R354, R355, R363, R364, R406, R676, R843) -/
def Obligations.ConsumersReadMarkAndRelease : Prop :=
  (∀ (s : State) (pool qid n : Nat) (k : Packet), queueOk pool qid = true →
    let q := s.queue pool qid
    q.packets[q.cursor - q.base]? = some k → 0 < n → q.offset ≤ k.words.length →
    (k.syn = [] → (s.pool pool).links = [] → ∃ t, exec (.queueRead pool qid n [] []) s = .next t ∧ t.queueStatus = .ok ∧
      t.queueData = ((lengthSlot k.seq k.ctx k.ty k.words.length :: k.words).drop q.offset).take n ∧
      t.queue pool qid = { q with offset := min (q.offset + n) (k.words.length + 1) } ∧
      (∀ p, (t.pool p).free = (s.pool p).free) ∧ t.faults = s.faults) ∧
    (∀ i c, i < (min (q.offset + n) (k.words.length + 1) - 1) / 32 → k.chain[i]? = some c → eccOf ((s.pool pool).links.get 0#8 c) = .ue →
      ∃ t, exec (.queueRead pool qid n [] []) s = .next t ∧ t.queueStatus = .queueFenced ∧
        (t.queue pool qid).fence = some .err ∧ (t.pool pool).sweepDue = true)) ∧
  (∀ (s : State) (pool qid n : Nat) (k : Packet), queueOk pool qid = true →
    let q := s.queue pool qid
    (q.packets[q.cursor - q.base]? = some k → q.offset = k.words.length + 1 →
      ∃ t, exec (.queueRead pool qid n [] []) s = .next t ∧ t.queueStatus = .atEnd ∧ t.queueData = [] ∧ t.queue pool qid = q) ∧
    (q.packets[q.cursor - q.base]? = none →
      ∃ t, exec (.queueRead pool qid n [] []) s = .next t ∧ t.queueStatus = .empty ∧ t.queueData = [] ∧ t.queue pool qid = q)) ∧
  (∀ (s : State) (pool qid : Nat), queueOk pool qid = true →
    let q := s.queue pool qid
    (q.cursor < q.base + q.packets.length → q.base ≤ q.cursor → (s.pool pool).links = [] →
      exec (.queueNext pool qid) s = .next ((s.updQueue pool qid fun q => { q with cursor := q.cursor + 1, offset := 0 }).answer .ok [])) ∧
    (q.base + q.packets.length ≤ q.cursor → exec (.queueNext pool qid) s = .next (s.answer .empty [])) ∧
    (∀ m, m < 4 → exec (.queueMark pool qid m) s =
      .next ((s.updQueue pool qid fun q => { q with marks := q.marks.set m (q.cursor, q.offset) }).answer .ok []))) ∧
  (∀ (s : State) (pool qid m : Nat), let q := s.queue pool qid
    (∀ c o, q.marks.find m = some (c, o) → exec (.queueCursorRewind pool qid m) s =
      .next ((s.updQueue pool qid fun q => { q with cursor := c, offset := o }).answer .ok [])) ∧
    (q.marks.find m = none → exec (.queueCursorRewind pool qid m) s = .next (s.answer .markGone []))) ∧
  (∀ (s : State) (pool qid n : Nat), queueOk pool qid = true →
    let p := s.pool pool
    let q := p.queue qid
    (n ≤ q.cursor - q.base → n ≤ q.packets.length → p.links = [] →
      exec (.queueRelease pool qid n) s = .next (((s.setPool pool { p.setQueue qid { q with
          packets := q.packets.drop n, base := q.base + n, marks := q.marks.filter fun e => decide (q.base + n ≤ e.2.1) } with
        free := p.free + sumCells (q.packets.take n) }).freedIn pool qid (sumCells (q.packets.take n))).answer .ok [])) ∧
    (q.cursor - q.base < n ∨ q.packets.length < n → exec (.queueRelease pool qid n) s = .next (s.answer .releaseRange []))) ∧
  (∀ (s : State) (seq : Nat), let q := s.queue 0 0x180
    (∀ i k, q.packets[i]? = some k → k.seq = seq → (∀ j < i, ∀ k', q.packets[j]? = some k' → k'.seq ≠ seq) → (s.pool 0).links = [] →
      ∃ t, exec (.queuePurge 0 0x180 seq) s = .next t ∧ t.queueStatus = .ok ∧
        (t.queue 0 0x180).packets = q.packets.take i ++ q.packets.drop (i + 1) ∧
        (t.pool 0).free = (s.pool 0).free + k.cells ∧ t.faults.records = s.faults.records.filter (fun r => r.seq ≠ seq) ∧
        (t.queue 0 0x180).cursor = if q.base + i < q.cursor then q.cursor - 1 else q.cursor) ∧
    (∀ pool qid, (∀ k ∈ q.packets, k.seq ≠ seq) ∨ pool ≠ 0 ∨ qid ≠ 0x180 →
      exec (.queuePurge pool qid seq) s = .next (s.answer .purgeRange []))) ∧
  (∀ (s : State) (pool : Nat), let p := s.pool pool
    p.sweeping = true →
    ∃ t, exec (.poolSweepComplete ⟨pool, []⟩) s = .next t ∧
      (∀ qid, (t.queue pool qid).packets = p.reached (p.queue qid).packets ∧ (t.queue pool qid).ports = (p.queue qid).ports) ∧
      (t.pool pool).free = 262144 - ((t.pool pool).snapshot.queued + (t.pool pool).snapshot.opened + (t.pool pool).snapshot.held) ∧
      (t.pool pool).recovered = satN 16 ((t.pool pool).free - p.free) ∧ (t.pool pool).resetQueues = 0 ∧
      (t.pool pool).sweepSteep = s.steep.count % 2 ^ 32 ∧ (t.pool pool).sweeping = false ∧ (t.pool pool).releaseDue = true ∧
      t.faults = s.faults) ∧
  (∀ (s : State) (pool a b : Nat), let p := s.pool pool
    p.sweeping = true → a ≠ b → 0 < (p.queue a).cells → 0 < (p.queue b).cells →
    ∃ t, exec (.poolSweepComplete ⟨pool, [(a, b)]⟩) s = .next t ∧ (t.pool pool).resetQueues = 2 ∧ (t.pool pool).sweeping = false ∧
      ∀ q, q = a ∨ q = b → pool ≠ 0 ∨ q < 0x180 → (t.queue pool q).packets = [] ∧ (t.queue pool q).ports = []) ∧
  (∀ (s : State) (x : Nat) (e : Event) (rest : List Event), (s.ctx x).held = e :: rest →
    let p := s.pool 0
    let q := p.queue (0x181 + x)
    let n := cellsFor (s.eventWords e).length
    q.enabled = true → q.fence = none → p.mayTake (0x181 + x) n = true →
    ∃ t, exec (.heldEventWrite x) s = .next t ∧ (t.ctx x).held = rest ∧
      (t.queue 0 (0x181 + x)).packets = q.packets ++ [{
        seq := q.seqNext, ctx := some x, ty := Config.eventType.toNat, words := s.eventWords e, chain := p.pick 0 n }])

/-- From every state in which the free cells of each pool and the cells of its packets add up and the queue tables hold
one entry for each key, each queue operation, the grant of a cell, the rewind at a boundary, the drain, the sweep and
the write of a held event lead to such a state. (R337, R340, R348, R360, R363, R364, R843) -/
def Obligations.QueueOperationsConserveCells : Prop :=
  ∀ (s t : State) (c : Instr), s.poolsTidy →
    (∃ pool qid port : Nat, (∃ ty ctx, c = .queueOpen pool qid port ty ctx) ∨ (∃ ws ue, c = .queueAppend pool qid port ws ue) ∨
      c = .queueCommit pool qid port ∨ c = .queueAbort pool qid port ∨ c = .producerCellGrant pool qid port ∨
      c = .queueNoCell pool qid port ∨ (∃ n ups links, c = .queueRead pool qid n ups links) ∨ c = .queueNext pool qid ∨
      (∃ m, c = .queueMark pool qid m ∨ c = .queueCursorRewind pool qid m) ∨ (∃ n, c = .queueRelease pool qid n) ∨
      (∃ q, c = .queuePurge pool qid q) ∨ c = .queueDrained pool qid ∨ (∃ crossed, c = .poolSweepComplete ⟨pool, crossed⟩) ∨ c = .heldEventWrite pool) →
    exec c s = .next t → t.poolsTidy

/-- A doorbell of 1 to 31 words on a mailbox with free tokens commits the request's words as one packet of type 1 with the
mailbox's context and takes one token; with no token, no words, no cell or a fenced mailbox it sets DOORBELL_ERROR and
raises a CE record, and a request of a code that no chapter defines is completed at once. MB_COMP_ACK releases the
oldest completion and returns its token. MB_CFG takes its vector and, with RESET, resets the mailbox: its queues are
empty, and each request that was pending gets a completion with status MAILBOX_RESET when the kettle next writes,
until when RESETTING stands. A function that does not own the mailbox only raises REG_ACCESS. Neither the doorbell nor
the acknowledgement loses a token, nor the count of what is pending. A domain command in a kettle packet sets the next
period; a composite request whose members do not reply within 4 steeps (8 where another module's lead gathers them)
completes with what was gathered. The words of a kettle packet are the model's own (notes/assumptions/50). (R24, R44,
R45, R370, R371, R372, R375, R376, R377, R785) -/
def Obligations.MailboxesTakeRequestsAndReturnTokens : Prop :=
  (∀ (s : State) (fn mb : Nat) (v : W64), s.dark = false → s.host.d3hot = false → mb < 32 → s.owner mb = fn → s.host.flr.contains fn = false →
    let n := fld v 4 0
    let m := s.mailbox mb
    let q := s.queue 0 (0x100 + 2 * mb)
    (s.shownFree mb ≠ 0 → 1 ≤ n → n ≤ 31 → s.mailboxShut mb = false → (s.pool 0).mayTake (0x100 + 2 * mb) 1 = true →
      s.keepsOldest mb ((q.packets.map fun k => k.words).getD 0 (s.bufferWords mb n)) → ∃ t, exec (.mbDoorbell fn mb v) s = .next t ∧
        t.mailbox mb = { m with free := m.free - 1, pending := m.pending + 1 } ∧
        (t.queue 0 (0x100 + 2 * mb)).packets = q.packets ++ [{ seq := q.seqNext, ctx := some (mb / 4), ty := 1, words := s.bufferWords mb n, chain := (s.pool 0).pick 0 1 }]) ∧
    (s.shownFree mb = 0 ∨ n = 0 ∨ s.mailboxShut mb = true ∨ (s.pool 0).mayTake (0x100 + 2 * mb) 1 = false →
      exec (.mbDoorbell fn mb v) s = .next (((s.setMailbox mb { m with doorbellError := true }).raise {
        code := 0x0404, cls := .ce, a := BitVec.ofNat 64 mb }).answerUndefined mb)) ∧
    (s.shownFree mb ≠ 0 → 1 ≤ n → n ≤ 31 → s.mailboxShut mb = false → (s.pool 0).mayTake (0x100 + 2 * mb) 1 = true → q.packets = [] →
      m.due = [] → s.waitsFan mb = false → definedCodes.contains (fld ((s.mailbox mb).request.get 0#64 0) 15 0) = false →
      (s.pool 0).mayTake (0x101 + 2 * mb) 1 = true → (s.queue 0 (0x101 + 2 * mb)).enabled = true → (s.queue 0 (0x101 + 2 * mb)).fence = none →
      ∃ t ws, exec (.mbDoorbell fn mb v) s = .next t ∧ (t.queue 0 (0x100 + 2 * mb)).packets = [] ∧
        t.mailbox mb = { m with free := m.free - 1, unread := m.unread + 1 } ∧
        (t.queue 0 (0x101 + 2 * mb)).packets.map (fun k => k.words) = (s.queue 0 (0x101 + 2 * mb)).packets.map (fun k => k.words) ++
          [s.completionWords (fld (ws.getD 0 0#64) 15 0) (fld (ws.getD 0 0#64) 31 16) 0x0010 []] ∧ ws = s.bufferWords mb n) ∧
    (bitAt v 0 = true → 0 < m.unread → m.heldEvents = [] → m.due = [] → m.resetTags = [] → m.resetting = false →
      exec (.mbCompAck fn mb v) s = .next ((s.takeOldest 0 (0x101 + 2 * mb)).setMailbox mb { m with unread := m.unread - 1, free := m.free + 1 })) ∧
    (bitAt v 0 = false ∨ m.unread = 0 → exec (.mbCompAck fn mb v) s = .next s) ∧
    (fn = 0 ∨ fld v 10 0 ≤ 127 →
      let vec := if fn = 0 then fld v 10 0 else 1024 + 128 * (fn - 1) + fld v 10 0
      let s1 := (s.setMailbox mb { m with vectorEn := bitAt v 16, vector := vec }).mailboxSink mb
      (bitAt v 32 = false → exec (.mbCfgReset fn mb v) s = .next s1) ∧
      (bitAt v 32 = true → exec (.mbCfgReset fn mb v) s = .next (s1.resetMailbox mb) ∧
        (m.due = [] → m.resetTags = [] → q.packets.length ≤ 16 → (∀ f ∈ s.fans, f.cmd.mb ≠ mb) → ∃ t, exec (.mbCfgReset fn mb v) s = .next t ∧
          (t.mailbox mb).free = 16 - q.packets.length ∧ (t.mailbox mb).pending = q.packets.length ∧ (t.mailbox mb).unread = 0 ∧
          (t.mailbox mb).heldEvents = [] ∧ (t.mailbox mb).resetting = !q.packets.isEmpty ∧
          (t.mailbox mb).resetTags = q.packets.map (fun k => (fld (k.words.getD 0 0#64) 15 0, fld (k.words.getD 0 0#64) 31 16)) ∧
          (t.queue 0 (0x100 + 2 * mb)).packets = [] ∧ (t.queue 0 (0x101 + 2 * mb)).packets = [])))) ∧
  (∀ (s : State) (fn mb : Nat) (v : W64), s.dark = false → s.host.d3hot = false → mb < 32 → s.owner mb ≠ fn →
    exec (.mbDoorbell fn mb v) s = .next (s.regAccess (0x18000 + 0x400 * mb + 0x100)) ∧
    exec (.mbCompAck fn mb v) s = .next (s.regAccess (0x18000 + 0x400 * mb + 0x300)) ∧
    exec (.mbCfgReset fn mb v) s = .next (s.regAccess (0x18000 + 0x400 * mb + 0x308))) ∧
  (∀ (s : State) (mb code tag : Nat), mb < 32 → (s.mailbox mb).resetTags = [(code, tag)] → (s.mailbox mb).resetting = true →
    (s.mailbox mb).due = [] → (s.mailbox mb).heldEvents = [] → (s.pool 0).mayTake (0x101 + 2 * mb) 1 = true →
    (s.queue 0 (0x101 + 2 * mb)).enabled = true → (s.queue 0 (0x101 + 2 * mb)).fence = none →
    let t := s.flushMailbox mb
    t.mailbox mb = { s.mailbox mb with
      pending := (s.mailbox mb).pending - 1, unread := (s.mailbox mb).unread + 1, resetTags := [], resetting := false } ∧
    (t.queue 0 (0x101 + 2 * mb)).packets.map (fun k => k.words) = (s.queue 0 (0x101 + 2 * mb)).packets.map (fun k => k.words) ++
      [s.completionWords code tag 0x0017 []]) ∧
  (∀ (s t : State) (fn mb : Nat) (v : W64), (∀ n, n < 32 → (s.mailbox n).conserved ∧ s.backed n) →
    exec (.mbDoorbell fn mb v) s = .next t ∨ exec (.mbCompAck fn mb v) s = .next t →
      ∀ n, n < 32 → (t.mailbox n).conserved ∧ t.backed n) ∧
  (∀ (s : State) (p : Pkt) (q at_ : Nat), s.dark = false → fld p.route 15 8 = 7 →
    s.isEarly (fld p.route 63 48) = false → p.body = [mkWord [(0, 8, 3), (16, 16, 0x0030)], BitVec.ofNat 64 q, BitVec.ofNat 64 at_] →
    (s.tookPacket 7 p.body).shuns (fld p.route 47 32) = false → periodLegal q → s.now < at_ → at_ < 2 ^ 64 →
    exec (.kettlePacket p) s = .next { s.tookPacket 7 p.body with
      steep := { (s.tookPacket 7 p.body).steep with nextQ := q, atCount := at_ } }) ∧
  (∀ (s : State) (n : Nat) (f : Fan), (s.fans.find? fun f => f.id == n) = some f →
    (f.request ≠ [] → f.cmd.mb < 256 → f.cmd.code ≠ 0x0007 → f.started + f.wait ≤ s.now → exec (.compositeMemberTimeout n) s =
      .next (({ s with fans := s.fans.filter fun q => q.id ≠ f.id }.complete f.cmd.mb f.cmd.code f.cmd.tag f.gather.1 f.gather.2).answerUndefined
        f.cmd.mb)) ∧
    (s.now < f.started + f.wait → exec (.compositeMemberTimeout n) s = .next s))

/-- GET_VERSION answers major version 1 and CONTEXT_INFO the two context words, to a context's own mailboxes for that
context alone. CONTEXT_CREATE of a FREE context with legal fields, windows that lie apart and dies of its own makes it
STOPPED, with its dies, its job and its windows from the next boundary; otherwise it completes with BAD_CONTEXT,
NO_RESOURCE or SCHEDULE_CONFLICT and makes nothing. CONTEXT_DESTROY of a STOPPED context makes it FREE, empties its
slots and frees its windows at the next boundary. CONTEXT_PARTITION and DIE_SCHEDULE are ACCEPTED for the next
boundary, or refused without effect. (R300, R382, R383, R407, R408, R410, R411, R412, R413, R415, R416, R426) -/
def Obligations.ContextsAreCreatedPartitionedAndDestroyed : Prop :=
  (∀ (s : State) (r : Req) (u : UnitId), s.asked r 0x0001 false anyClass u = true → reqArgs r 0x0001 = [] →
    exec (.getVersion r) s = answered r 0x0001 St.ok [1#64, Config.minorVersion, Config.firmwareBuild] (s.taken r)) ∧
  (∀ (s : State) (r : Req) (u : UnitId) (x : Nat), s.asked r 0x0014 false anyClass u = true → x < 8 →
    reqArgs r 0x0014 = [BitVec.ofNat 64 x] →
    exec (.contextInfo r) s = if s.isAdmin r.mb = true ∨ r.mb / 4 = x then
        answered r 0x0014 St.ok [s.ctxStateWord x, (s.ctx x).windowWord] (s.taken r)
      else answered r 0x0014 St.badContext [] (s.taken r)) ∧
  (∀ (s : State) (r : Req) (x mask fp fb sg sb : Nat) (job : W64), s.asked r 0x0010 false adminClass .module = true →
    x < 8 → mask < 256 → 0 < mask → fp < 2 ^ 19 → fb < 2 ^ 19 → sg ≤ 512 → sb < 512 →
    reqArgs r 0x0010 = [mkWord [(0, 3, x), (8, 8, mask), (16, 19, fp), (35, 19, fb), (54, 10, sg)], BitVec.ofNat 64 sb, job] →
    s.faults.outOfService = false →
    ((s.ctx x).state = .free → s.windowsOk x fb fp sb sg = true → s.dieConflict x mask = false →
      ∃ c : Ctx, exec (.contextCreate r) s = answered r 0x0010 St.ok [] ((s.taken r).setCtx x c) ∧
        c.state = .stopped ∧ c.dieMask = mask ∧ c.windowDue = some (fb, fp, sb, sg) ∧ c.jobId = job ∧
        c.jobs = ((s.ctx x).jobs + 1) % 2 ^ 32 ∧ c.slots = [] ∧ c.due = none ∧
        (c.fastBase, c.fastPages, c.slowBase, c.slowGib) = ((s.ctx x).fastBase, (s.ctx x).fastPages, (s.ctx x).slowBase, (s.ctx x).slowGib)) ∧
    ((s.ctx x).state ≠ .free → exec (.contextCreate r) s = answered r 0x0010 St.badContext [] (s.taken r)) ∧
    ((s.ctx x).state = .free → s.windowsOk x fb fp sb sg = false →
      exec (.contextCreate r) s = answered r 0x0010 St.noResource [] (s.taken r)) ∧
    ((s.ctx x).state = .free → s.windowsOk x fb fp sb sg = true → s.dieConflict x mask = true →
      exec (.contextCreate r) s = answered r 0x0010 St.scheduleConflict [] (s.taken r))) ∧
  (∀ (s : State) (r : Req) (x : Nat), s.asked r 0x0011 false adminClass .module = true → x < 8 →
    reqArgs r 0x0011 = [BitVec.ofNat 64 x] →
    ((s.ctx x).state = .stopped → ∃ t, exec (.contextDestroy r) s = .next t ∧
      (t.ctx x).state = .free ∧ (t.ctx x).dieMask = 0 ∧ (t.ctx x).slots = [] ∧ (t.ctx x).windowDue = some (0, 0, 0, 0) ∧
      ((t.ctx x).fastBase, (t.ctx x).fastPages) = ((s.ctx x).fastBase, (s.ctx x).fastPages) ∧ (∀ y, y ≠ x → t.ctx y = s.ctx y) ∧
      (∀ sl, sl < 16 → (t.queue (slotQueue x sl).1 (slotQueue x sl).2).packets = []) ∧ t.mem = s.mem) ∧
    ((s.ctx x).state ≠ .stopped → exec (.contextDestroy r) s = answered r 0x0011 St.badContext [] (s.taken r))) ∧
  (∀ (s : State) (r : Req) (x mask : Nat), s.asked r 0x0012 false adminClass .module = true → x < 8 → mask < 256 → 0 < mask →
    reqArgs r 0x0012 = [mkWord [(0, 3, x), (8, 8, mask)]] → (s.ctx x).state ≠ .free →
    ((s.ctx x).busy = false → s.dieConflict x mask = false → (∀ d, (s.rotation d).entries = []) →
      exec (.contextPartition r) s = answered r 0x0012 St.accepted [] ((s.taken r).updCtx x fun c => { c with
        maskDue := some (mask, (reqOf r 0x0012 .module).ref) })) ∧
    ((s.ctx x).busy = true → exec (.contextPartition r) s = answered r 0x0012 St.busy [] (s.taken r)) ∧
    ((s.ctx x).busy = false → s.dieConflict x mask = true →
      exec (.contextPartition r) s = answered r 0x0012 St.scheduleConflict [] (s.taken r))) ∧
  (∀ (s : State) (r : Req) (d : Nat) (es : List (Nat × Nat)), s.asked r 0x0013 false adminClass .module = true → d < 8 →
    es ≠ [] → es.length ≤ 8 → (∀ e ∈ es, e.1 < 8 ∧ 0 < e.2 ∧ e.2 < 256) →
    reqArgs r 0x0013 = mkWord [(0, 3, d), (8, 4, es.length)] :: es.map (fun e => mkWord [(0, 3, e.1), (8, 8, e.2)]) →
    (∀ e ∈ es, (s.ctx e.1).state ≠ .free) →
    ((∀ e ∈ es, Nat.testBit (s.ctx e.1).dieMask d = true) → s.scheduleClash d es = false → s.saveAreaShort es = false →
      exec (.dieSchedule r) s = answered r 0x0013 St.accepted [] { s.taken r with
        rotations := s.rotations.set d { s.rotation d with due := some (es, (reqOf r 0x0013 .module).ref) } }) ∧
    ((∃ e ∈ es, Nat.testBit (s.ctx e.1).dieMask d = false) ∨ s.scheduleClash d es = true →
      exec (.dieSchedule r) s = answered r 0x0013 St.scheduleConflict [] (s.taken r)) ∧
    ((∀ e ∈ es, Nat.testBit (s.ctx e.1).dieMask d = true) → s.scheduleClash d es = false → s.saveAreaShort es = true →
      exec (.dieSchedule r) s = answered r 0x0013 St.noResource [] (s.taken r)))

/-- STREAM_CANCEL removes a stream that has not started, lets the slice of a running one finish, and has NO_EFFECT without
such a stream. SLOT_RESUME releases a held slot. STAGE_MAP sets or clears a stage of a context without streams.
INTERFERENCE_SET sets the threshold; at the end of a window the ratio A/(A − W) is kept and an event is raised at the
threshold. DOMAIN_PERIOD sets the next period of this module at least 8 steeps ahead and tells the others.
COMPOSITE_DECLARE gives a composite the lowest free number (the model's choice, notes/assumptions/73) and
COMPOSITE_DISSOLVE removes it. (R23, R26, R45, R382, R383, R402, R403, R404, R420, R421, R423, R424) -/
def Obligations.StreamsStagesAndCompositesByCommand : Prop :=
  (∀ (s : State) (r : Req) (u : UnitId) (id sl : Nat), s.asked r 0x0021 false anyClass u = true → id < 2 ^ 32 → sl < 16 →
    reqArgs r 0x0021 = [BitVec.ofNat 64 id] →
    let x := r.mb / 4
    let c := s.ctx x
    (∀ i, i < sl → ((c.slot i).streams.any fun t => t.id == id && !t.gone) = false) →
    ((c.slot sl).streams.any fun t => t.id == id && !t.gone) = true →
    (∀ t rest, (c.slot sl).streams = t :: rest → t.id = id →
      exec (.streamCancel r) s = answered r 0x0021 St.ok []
        (if t.started && t.running.isSome then (s.taken r).setCtx x (c.setSlot sl { c.slot sl with streams := { t with cancelled := true } :: rest })
         else (s.taken r).endStream x sl St.cancelled)) ∧
    (∀ t rest, (c.slot sl).streams = t :: rest → t.id ≠ id → ∃ w,
      exec (.streamCancel r) s = answered r 0x0021 St.ok [] (((s.taken r).setCtx x (c.setSlot sl { c.slot sl with
        streams := t :: rest.map fun t => if t.id = id then { t with gone := true } else t })).event x {
          kind := 0x0001, status := St.cancelled, stream := id, value := w }))) ∧
  (∀ (s : State) (r : Req) (u : UnitId) (id : Nat), s.asked r 0x0021 false anyClass u = true → id < 2 ^ 32 →
    reqArgs r 0x0021 = [BitVec.ofNat 64 id] →
    (∀ sl, sl < 16 → (((s.ctx (r.mb / 4)).slot sl).streams.any fun t => t.id == id && !t.gone) = false) →
    exec (.streamCancel r) s = answered r 0x0021 St.noEffect [] (s.taken r)) ∧
  (∀ (s : State) (r : Req) (u : UnitId) (sl : Nat), s.asked r 0x0022 false anyClass u = true → sl < 16 →
    reqArgs r 0x0022 = [BitVec.ofNat 64 sl] →
    let x := r.mb / 4
    exec (.slotResume r) s = if ((s.ctx x).slot sl).held = true then
        answered r 0x0022 St.ok [] ((s.taken r).updCtx x fun c => c.setSlot sl { c.slot sl with held := false })
      else answered r 0x0022 St.noEffect [] (s.taken r)) ∧
  (∀ (s : State) (r : Req) (u : UnitId) (v : Nat), s.asked r 0x0023 false anyClass u = true → v < 8 →
    let x := r.mb / 4
    let c := s.ctx x
    c.state ≠ .free →
    (c.busy = false → reqArgs r 0x0023 = [mkWord [(0, 3, v), (3, 1, 1)]] →
      exec (.stageMap r) s = answered r 0x0023 St.ok [] ((s.taken r).setCtx x { c with stages := c.stages.drop v })) ∧
    (∀ stage prev next, c.busy = false → stage < 4096 → prev.length ≤ 4 → next.length ≤ 4 →
      reqArgs r 0x0023 = mkWord [(0, 3, v), (4, 12, stage), (16, 1, b2n prev.isEmpty), (17, 1, b2n next.isEmpty),
        (20, 3, prev.length), (23, 3, next.length)] :: prev ++ next →
      (prev = [] ∨ (pathWordsOk prev = true ∧ stagePathOk prev = true)) → (next = [] ∨ (pathWordsOk next = true ∧ stagePathOk next = true)) →
      ((c.stages.find v).isSome = true ∨ ((List.range 8).map fun y => (s.ctx y).stages.length).sum < 8) →
      (∀ y, y < 8 → (s.ctx y).jobId = c.jobId → ∀ e ∈ (s.ctx y).stages, e.2.stage = stage → y = x ∧ e.1 = v) →
      exec (.stageMap r) s = answered r 0x0023 St.ok [] ((s.taken r).setCtx x { c with stages := c.stages.set v {
        stage := stage, first := prev.isEmpty, last := next.isEmpty, prev := prev, next := next } })) ∧
    (c.busy = true → reqArgs r 0x0023 = [mkWord [(0, 3, v), (3, 1, 1)]] →
      exec (.stageMap r) s = answered r 0x0023 St.busy [] (s.taken r))) ∧
  (∀ (s : State) (r : Req) (u : UnitId) (n : Nat), s.asked r 0x0024 false anyClass u = true → n < 65536 →
    reqArgs r 0x0024 = [BitVec.ofNat 64 n] → (s.ctx (r.mb / 4)).state ≠ .free →
    exec (.interferenceSet r) s = answered r 0x0024 St.ok [] ((s.taken r).updCtx (r.mb / 4) fun c => { c with threshold := n })) ∧
  (∀ (s : State) (x : Nat), x < 8 → s.now % 64 = 0 →
    let c := s.ctx x
    let ratio := if c.cyclesHeld = 0 then 0x0100 else if c.cyclesHeld ≤ c.cyclesWaited then 0xFFFF
      else min 0xFFFF (c.cyclesHeld * 256 / (c.cyclesHeld - c.cyclesWaited))
    let u := s.setCtx x { c with ratio := ratio, window := (s.now / 64 - 1) % 2 ^ 32, cyclesHeld := 0, cyclesWaited := 0 }
    exec (.interferenceWindowEnd x) s = .next (if c.threshold ≠ 0 ∧ c.threshold ≤ ratio then
      u.event x { kind := 0x0005, detail := BitVec.ofNat 64 ratio } else u)) ∧
  (∀ (s : State) (r : Req) (q at_ : Nat), s.asked r 0x0030 false adminClass .module = true → periodLegal q →
    s.now + 8 ≤ at_ → at_ < 2 ^ 64 → reqArgs r 0x0030 = [BitVec.ofNat 64 q, BitVec.ofNat 64 at_] →
    ∃ u, exec (.domainPeriod r) s = answered r 0x0030 St.accepted [] u ∧
      u.steep = { s.steep with nextQ := q, atCount := at_, periodBy := some (reqOf r 0x0030 .module).ref } ∧ u.mem = s.mem ∧ u.ctxs = s.ctxs) ∧
  (∀ (s : State) (r : Req) (ps : List (List W64)), s.asked r 0x0031 false adminClass .module = true →
    splitPaths 28 (reqArgs r 0x0031) = some ps → (reqArgs r 0x0031).length ≤ 28 → ps ≠ [] →
    (∀ p ∈ ps, pathWordsOk p = true ∧ ∃ q, parsePath (pathHops p) = some q ∧ q.below = .module ∧
      (q.domain = none ∨ q.domain = some s.fabric.site) ∧ (q.module.isSome = true ∨ q.groups ≠ [])) →
    let g := ((List.range 4096).find? fun g => (s.composites.find g).isNone).getD 0
    exec (.compositeDeclare r) s = answered r 0x0031 St.ok [BitVec.ofNat 64 g] { s.taken r with
      composites := s.composites.set g { members := ps } }) ∧
  (∀ (s : State) (r : Req) (g : Nat), s.asked r 0x0032 false adminClass .module = true → g < 4096 →
    reqArgs r 0x0032 = [BitVec.ofNat 64 g] →
    exec (.compositeDissolve r) s = if (s.composites.find g).isSome then
        answered r 0x0032 St.ok [] { s.taken r with composites := s.composites.drop g }
      else answered r 0x0032 St.badPath [] (s.taken r))

/-- STREAM_SUBMIT from module or host memory copies the stream, and queues it at its slot's end with the next STREAM_ID
and the largest estimate in µs when every check passes; a failed check or an estimate too long gives its status and
releases the copy; a FREE context, then a held slot, then a fenced context refuse it. A stream-control command acts
when it stands next in its section of the running slice. STREAM, SLICE and SECTION only head their parts; LITERALS
sets the 14 slots, KEEP_LIVE the bytes of each core of its section, MARK waits for the slice. SLICE_COMPLETE counts
the slice and its cycles; a stream ends OK after its last slice and leaves its slot. CONTEXT_SWITCH_COMPLETE restores
each core of the die, leaves other cores alone, and tells the incoming context, where no bit of a saved set turned
over. (R172, R389, R390, R391, R393, R398, R399, R402, R405, R417, R419, R842) -/
def Obligations.StreamsAreCheckedQueuedAndRun : Prop :=
  (∀ (s : State) (r : Req) (u : UnitId) (a b start : W64) (ws : List W64) (host : HostRead), s.asked r 0x0020 false anyClass u = true →
    reqArgs r 0x0020 = [a, b, start] →
    let x := r.mb / 4
    let slot := fld a 3 0
    let n := fld a 47 32
    let c := s.ctx x
    fld a 31 6 = 0 → fld a 63 48 = 0 → 2 ≤ n →
    ((bitAt a 4 = true ∧ fld b 63 48 = 0 ∧ b.toNat % 8 = 0 ∧ c.fastSpan b.toNat (8 * n) = true ∧ s.mem.space.syn = [] ∧
        ws = s.mem.space.words (b.toNat / 8) n) ∨
      (bitAt a 4 = false ∧ s.host.busMaster.contains (s.owner r.mb) = true ∧ host = .ok ws ∧ ws.length = n)) →
    c.state = .stopped ∨ c.state = .active → s.fencedUnit (.ctx x) = false →
    ((c.slot slot).held = true → exec (.streamSubmit r host) s = answered r 0x0020 St.slotHeld [] (s.taken r)) ∧
    ((c.slot slot).held = false → ∀ v, (s.taken r).put (slotQueue x slot).1 (slotQueue x slot).2 (some x) Config.commandType.toNat ws = some v →
      (v.streamCheck x ws = none → ((slicesOf ws).any fun g => (v.sliceEstimate x g).2) = false →
        ∃ us, exec (.streamSubmit r host) s = answered r 0x0020 St.ok [mkWord [(0, 32, c.nextStream), (32, 32, us)]]
          (v.setCtx x (({ v.ctx x with nextStream := ((v.ctx x).nextStream + 1) % 2 ^ 32 } : Ctx).setSlot slot { (v.ctx x).slot slot with
            streams := ((v.ctx x).slot slot).streams ++ [{
              id := (v.ctx x).nextStream, tag := fld (ws.getD 0 0#64) 63 32, step := (ws.getD 1 0#64).toNat
              startAt := start.toNat, sliceEvents := bitAt a 5, words := ws, slices := (slicesOf ws).length }] }))) ∧
      (∀ st, v.streamCheck x ws = some st ∨ (v.streamCheck x ws = none ∧ ((slicesOf ws).any fun g => (v.sliceEstimate x g).2) = true ∧
          st = St.sliceTooLong) → exec (.streamSubmit r host) s = answered r 0x0020 st [] (v.consume (slotQueue x slot).1 (slotQueue x slot).2
          ((s.taken r).queue (slotQueue x slot).1 (slotQueue x slot).2).seqNext))) ∧
    ((c.slot slot).held = false → (s.taken r).put (slotQueue x slot).1 (slotQueue x slot).2 (some x) Config.commandType.toNat ws = none →
      exec (.streamSubmit r host) s = answered r 0x0020 St.noResource [] (s.taken r))) ∧
  (∀ (s : State) (r : Req) (u : UnitId) (a b start : W64) (host : HostRead), s.asked r 0x0020 false anyClass u = true →
    reqArgs r 0x0020 = [a, b, start] → fld a 31 6 = 0 → fld a 63 48 = 0 → 2 ≤ fld a 47 32 → bitAt a 4 = false →
    ((s.ctx (r.mb / 4)).state = .free → exec (.streamSubmit r host) s = answered r 0x0020 St.badContext [] (s.taken r)) ∧
    ((s.ctx (r.mb / 4)).state ≠ .free → ((s.ctx (r.mb / 4)).slot (fld a 3 0)).held = true →
      exec (.streamSubmit r host) s = answered r 0x0020 St.slotHeld [] (s.taken r)) ∧
    ((s.ctx (r.mb / 4)).state = .fenced ∨ (s.ctx (r.mb / 4)).state = .draining → ((s.ctx (r.mb / 4)).slot (fld a 3 0)).held = false →
      exec (.streamSubmit r host) s = answered r 0x0020 St.unitFenced [] (s.taken r))) ∧
  (∀ (s : State) (x slot : Nat) (cmd : List W64), exec (.slice x slot cmd) s = .next s ∧ exec (.sectionCmd x slot cmd) s = .next s) ∧
  (∀ (s : State) (x slot : Nat) (cmd : List W64) (t : Stream) (rest : List Stream), ((s.ctx x).slot slot).streams = t :: rest →
    let to_ (t' : Stream) := s.updCtx x fun c => c.setSlot slot { c.slot slot with streams := t' :: rest }
    (fld (cmd.getD 0 0#64) 7 0 = 1 → cmd = t.words.take 2 → t.done = 0 → exec (.stream x slot cmd) s = .next (to_ { t with
      slices := fld (cmd.getD 0 0#64) 31 16, tag := fld (cmd.getD 0 0#64) 63 32, step := (cmd.getD 1 0#64).toNat })) ∧
    (∀ kind, t.running.isSome = true → t.nextIn cmd = some kind →
      (fld (cmd.getD 0 0#64) 7 0 = 4 → ∃ l, exec (.literals x slot cmd) s = .next (to_ { t.took kind cmd with literals := some l }) ∧ l.length = 14 ∧
        ∀ j, j < 7 → l[2 * j]? = some ((cmd.getD (j + 1) 0#64).setWidth 32) ∧ l[2 * j + 1]? = some (((cmd.getD (j + 1) 0#64) >>> 32).setWidth 32)) ∧
      (fld (cmd.getD 0 0#64) 7 0 = 6 → exec (.mark x slot cmd) s = .next (to_ { t.took kind cmd with marks := t.marks ++ [fld (cmd.getD 0 0#64) 63 32] })) ∧
      (fld (cmd.getD 0 0#64) 7 0 = 5 → kind = 0 → ∃ u, exec (.keepLive x slot cmd) s = .next u ∧ (∀ k,
        (u.ctx x).keepLive.find k = if ((t.slice t.done).any fun g => g.cmds.contains cmd && (g.cores (s.ctx x).dieMask).contains k) = true
          then some (fld (cmd.getD 1 0#64) 22 0) else (s.ctx x).keepLive.find k) ∧ (∀ y, y ≠ x → u.ctx y = s.ctx y) ∧ u.cores = s.cores ∧
        ((u.ctx x).slot slot).streams = t.took 0 cmd :: rest))) ∧
  (∀ (s : State) (x slot cycles waited begun : Nat) (t : Stream) (rest : List Stream), ((s.ctx x).slot slot).streams = t :: rest →
    t.running = some begun → s.sliceBusy x slot t = false → t.failed = none → t.aborted = false → t.cancelled = false →
    (∀ k, (s.core k).store.syn = []) → s.mem.space.syn = [] →
    (t.done + 1 ≠ t.slices → ∃ u, exec (.sliceComplete x slot cycles waited) s = .next u ∧ ((u.ctx x).slot slot).streams =
        { t with done := t.done + 1, running := none, overruns := 0, marks := [], drops := [], cycles := max t.cycles cycles } :: rest ∧
      (u.ctx x).cyclesHeld = (s.ctx x).cyclesHeld + cycles ∧ (u.ctx x).cyclesWaited = (s.ctx x).cyclesWaited + waited) ∧
    (t.done + 1 = t.slices → ∃ u, exec (.sliceComplete x slot cycles waited) s = .next u ∧
      ((u.ctx x).slot slot).streams = rest.dropWhile (fun t => t.gone) ∧ ((u.ctx x).slot slot).held = ((s.ctx x).slot slot).held ∧
      (u.ctx x).historyValid = true)) ∧
  (∀ (s : State) (die : Nat) (w : Switch), (s.switches.find? fun w => w.die == die && !w.waiting) = some w →
    (∀ v ∈ s.switches, v.die ≠ die → v.waiting = true) →
    let s1 := forN 64 (fun i s => s.restoreCore w.to_ (64 * die + i)) s
    let s2 := { s1 with switches := s.switches.filter fun v => v.die != die }
    let s3 := match w.from_ with
      | some x => s2.updCtx x fun c => { c with switching := false }
      | none => s2
    (∀ upset, ∃ u, exec (.contextSwitchComplete ⟨die, upset⟩) s = .next u) ∧
    (∀ upset, upset = [] ∨ w.from_ = none → exec (.contextSwitchComplete ⟨die, upset⟩) s = .next ((s3.updCtx w.to_ fun c => { c with switching := false }).event w.to_ {
      kind := 0x0006, detail := BitVec.ofNat 64 w.ns })) ∧
    (∀ k, k / 64 ≠ die → s1.core k = s.core k) ∧
    (∀ i, i < 64 → let im := (s.ctx w.to_).images.get {} (64 * die + i)
      (s1.core (64 * die + i)).store = im.live ∧ (s1.core (64 * die + i)).vec = im.vec))

/-- A command of opcodes 0x40 to 0x46 that stands next in a caddy section of the running slice, with no word of the tiers
in error and every caddy in service, queues one job, with the stream's literals, at each caddy that owns one of its
tiles and at no other, and notes the set that it initialises or retires and whether it writes shadow state; with a
caddy fenced or out of service it ends with that status and the step's update fails. CADDY_TILE_DONE, with no word
turned over on the way to the caddy, counts the tile, sends what it wrote to the mirror and takes the next tile, or
ends the caddy's part; a caddy that an abort has stopped takes no further tile of the command. UPD_CARRY writes every
plane of the source slot and every block header, with the new VERSION, to the shadow slot, and no other byte of
memory. (R430, R433, R435, R438, R440, R444, R447, R455, R460, R461, R467, R473) -/
def Obligations.UpdateCommandsReachTheirTiles : Prop :=
  (∀ (s : State) (x slot op : Nat) (cmd : List W64) (t : Stream) (rest : List Stream) (begun : Nat) (c : Instr),
    (op, c) ∈ [(0x40, Instr.updStep x slot cmd), (0x41, .updInit x slot cmd), (0x42, .updCarry x slot cmd), (0x43, .updCopy x slot cmd),
      (0x44, .updOuterDiff x slot cmd), (0x45, .updOuterApply x slot cmd), (0x46, .updRetire x slot cmd)] →
    ((s.ctx x).slot slot).streams = t :: rest → t.running = some begun → fld (cmd.getD 0 0#64) 7 0 = op → t.nextIn cmd = some 2 →
    s.mem.space.syn = [] → s.mem.injArm = false →
    let u := ucmdOf cmd
    let reg : SetReg := { base := u.base, t := u.t, outer := u.outer }
    (s.caddyRefusal = none → ∃ v, exec c s = .next v ∧ v.nextUpd = s.nextUpd + 1 ∧
      (∀ k, k < 4 → (v.caddy k).jobs = (s.caddy k).jobs ++ (if (u.nextTile k u.first).isSome then [{
        id := s.nextUpd, ctx := x, slot := slot, cmd := cmd, lits := t.literals.getD [], next := u.first, started := begun
        tick := s.steep.ticks }] else [])) ∧
      (v.ctx x).upd.wrote = ((s.ctx x).upd.wrote || u.writes) ∧
      (v.ctx x).upd.retires = (s.ctx x).upd.retires ++ (if op = 0x46 then [reg] else []) ∧
      (op ≠ 0x41 → (v.ctx x).upd.inits = (s.ctx x).upd.inits) ∧
      (op = 0x41 → ∃ q ∈ (v.ctx x).upd.inits, q.base = u.base)) ∧
    (∀ st, s.caddyRefusal = some st → exec c s = .next (((s.updStream x slot fun t => t.took 2 cmd).failSlot x slot st).updUpd x fun v => {
        v with bad := true }))) ∧
  (∀ u : UCmd, ∀ k t, u.nextTile k u.first = some t → u.op ≠ 0x46 ∧ u.first ≤ t ∧ t < u.first + u.count ∧ t % 8 / 2 = k) ∧
  (∀ (s : State) (k cycles : Nat) (j : CaddyJob) (t : Nat), (s.caddy k).tile k = some (j, t) →
    s.mem.injBits (33 + k) = [] →
    let u := ucmdOf j.cmd
    let o := s.updTile k j t
    let s1 := o.s.updCaddy k fun c => c.count o u.writes cycles
    let s0 := if u.writes then s1.updUpd j.ctx fun v => { v with prevStep := none } else s1
    let s2 := if o.sent = [] then s0 else s0.sendGranules j.ctx u.step o.sent
    (j.stop = false → (u.nextTile k (t + 1)).isSome = true → exec (.caddyTileDone k ⟨cycles, []⟩) s = .next (s2.updCaddy k fun c => ({ c with
      jobs := c.jobs.map fun q => if q.id = j.id then { q with next := t + 1 } else q, hand := none, last := j.ctx } : Caddy).grasp)) ∧
    (j.stop = true → j.late = false → exec (.caddyTileDone k ⟨cycles, []⟩) s = .next (s0.updCaddy k fun c => ({ c with
      jobs := c.jobs.filter fun q => q.id ≠ j.id, hand := none, last := j.ctx } : Caddy).grasp)) ∧
    (j.stop = false → (u.nextTile k (t + 1)).isSome = false → j.late = false → exec (.caddyTileDone k ⟨cycles, []⟩) s = .next ((s2.updCaddy k fun c => ({ c with
      jobs := c.jobs.filter fun q => q.id ≠ j.id, hand := none, last := j.ctx } : Caddy).grasp).partDone j.ctx u.step))) ∧
  (∀ (s : State) (k : Nat) (j : CaddyJob) (t : Nat), let u := ucmdOf j.cmd
    let v := (s.ctx j.ctx).upd
    let src := if u.shadow then 1 - v.slot else v.slot
    let o := s.updTile k j t
    u.op = 0x42 → u.copyEn = false → u.base % 65536 = 0 → t < u.t → v.slot ≤ 1 → s.mem.space.syn = [] → s.mem.injArm = false →
    (∀ i, i < planesS u.outer → o.s.mem.space.mat (u.granule (u.plane (1 - v.slot) i) t) = s.mem.space.mat (u.granule (u.plane src i) t)) ∧
    (∀ b, b < 64 → let h := s.mem.space.word (u.header src t b / 8)
      o.s.mem.space.word (u.header (1 - v.slot) t b / 8) = mkWord [(24, 40, fld h 63 24), (20, 1, b2n (bitAt h 20)), (19, 1, b2n (bitAt h 19)),
        (18, 1, b2n (bitAt h 18)), (17, 1, b2n (bitAt h 17)), (16, 1, fld h 16 16), (8, 8, (v.version + 1) % 256), (0, 8, 0x7F)]) ∧
    (∀ a, (∀ i, i < planesS u.outer → ¬ within (u.granule (u.plane (1 - v.slot) i) t) 65536 a) →
      ¬ within (u.header (1 - v.slot) t 0) 512 a → o.s.mem.space.byte a = s.mem.space.byte a)) ∧
  (∀ (u : UCmd) (t : Nat), u.refresh t = true ↔ u.op = 0x40 ∧ (u.step - 1) % u.k = t / 8 % u.k)

/-- A good data frame with the expected FSEQ is accepted and the expectation rises by 1; a bad or early one, and one of a
reserved kind, is refused with one NAK, a frame accepted before is acknowledged again. IDLE returns credits;
CREDIT_INIT grants them; DISCOVERY tells of the neighbour. A NAK is repeated, an ACK timeout replays every outstanding
frame, and an ACK stall, 8 replays of a frame or a lost lock take the link DOWN and back to training with no frame,
credit or packet left. Training ends TRAINED with the stored allocation, or FAILED after 3 failures in an hour.
PACKET_SEND takes all credits of a packet at once; a stall raises CREDIT_STALL; two steeps after a route commit the
old generation is gone. (R478, R479, R482, R486, R487, R488, R489, R491, R492, R493, R496, R503) -/
def Obligations.LinksTakeSendReplayAndTrain : Prop :=
  (∀ (s : State) (link : Nat) (f : Frame), link < 48 → (s.link link).state = .trained →
    let n := fld f.h1 5 0
    let s1 := s.updLink link fun l => l.countFec f
    (goodFrame f = true → 1 ≤ n → n ≤ 32 → frameKind f = 0 → ctrlFrame f = false → fld f.h0 15 0 = (s.link link).rxNext →
      ∃ t, exec (.dataFrame link f) s = .next t ∧ (t.link link).rxNext = ((s.link link).rxNext + 1) % 65536 ∧ (t.link link).nak = false) ∧
    (goodFrame f = false ∨ (ctrlFrame f = true ∧ knownKind f = false) ∨ (ctrlFrame f = false ∧ (n = 0 ∨ 32 < n ∨ frameKind f ≠ 0)) ∨
        (goodFrame f = true ∧ ctrlFrame f = false ∧ 4096 < ((s.link link).rxNext + 65536 - fld f.h0 15 0) % 65536) → exec (.dataFrame link f) s = .next (if (s.link link).nak = true then s1
      else (s1.updLink link fun l => { l with nak := true }).control link 0x01 true 0 0 [])) ∧
    (goodFrame f = true → 1 ≤ n → n ≤ 32 → frameKind f = 0 → ctrlFrame f = false → fld f.h0 15 0 ≠ (s.link link).rxNext →
      ((s.link link).rxNext + 65536 - fld f.h0 15 0) % 65536 ≤ 4096 → exec (.dataFrame link f) s = .next (s1.control link 0x01 false 0 0 [])) ∧
    (goodFrame f = true → ctrlFrame f = true → frameKind f = 0x01 → (s.link link).frames = [] → bitAt f.h0 32 = false → fld f.h0 54 43 ≠ 0 →
      ∃ t, exec (.idle link f) s = .next t ∧ ((t.link link).credit (fld f.h0 42 40)).available =
        ((s.link link).credit (fld f.h0 42 40)).available + fld f.h0 54 43 ∧ t.pools = s.pools ∧ t.out = s.out) ∧
    ((s.link link).nak = true → exec (.nakRepeat link) s = .next (s.control link 0x01 true 0 0 [])) ∧
    ((s.link link).frames ≠ [] → ∃ t, exec (.ackTimeoutReplay link) s = .next t ∧
      t.out = s.out ++ (s.link link).frames.map (fun f => .frame link f.words) ∧
      (t.link link).frames = (s.link link).frames.map fun f => { f with replays := f.replays + 1 }) ∧
    (∀ c, (c = .ackStall link ∧ (s.link link).frames ≠ []) ∨ (c = .frameReplayLimit link ∧ ∃ f ∈ (s.link link).frames, 8 ≤ f.replays) ∨
        c = .codewordLockLost link →
      ∃ t, exec c s = .next t ∧ (t.link link).state = .training ∧ (t.link link).frames = [] ∧ (t.link link).inflight = [] ∧
        (t.link link).credits = [] ∧ (t.link link).jobTraffic = false)) ∧
  (∀ (s : State) (link vc cells : Nat), link < 48 → vc < 8 → cells ≤ 8160 → (s.link link).state = .down ∨ (s.link link).state = .training →
    exec (.creditInit link vc cells) s = .next (s.updLink link fun l => { l with credits := l.credits.set vc {
      available := cells, allocation := cells, lastReturn := s.now } })) ∧
  (∀ (s : State) (link : Nat) (f : Frame), link < 48 → (s.link link).state ∈ [LinkState.down, .training, .trained] →
    goodFrame f = true → ctrlFrame f = true → frameKind f = 0x04 → let w := f.payload.getD 0 0#64
    ∃ t, exec (.discovery link f) s = .next t ∧ (t.link link).nbDn = fld w 15 0 ∧ (t.link link).nbDnValid = bitAt w 16 ∧
      (t.link link).nbLink = fld w 22 17 ∧ (t.link link).nbSite = fld w 26 23 ∧ (t.link link).nbPeriod = fld w 32 27 ∧
      (t.link link).state = (s.link link).state) ∧
  (∀ (s : State) (link : Nat) (f : Frame), link < 48 → goodFrame f = false →
    ((s.link link).state = .trained → exec (.discovery link f) s = .next (s.refuseFrame link)) ∧
    ((s.link link).state ≠ .trained → exec (.discovery link f) s = .next s)) ∧
  (∀ (s : State) (link : Nat), link < 48 → (s.link link).state = .down ∨ (s.link link).state = .training →
    ((s.link link).far.on = false → ∃ t, exec (.linkTrainingDone link) s = .next t ∧ (t.link link).state = .trained ∧
      (t.link link).alloc = (s.link link).allocNext ∧ (t.link link).rxNext = 0 ∧ (t.link link).nextFseq = 0 ∧ (t.link link).frames = [] ∧
      ∀ vc, vc < 8 → let q := t.queue (link / 24) (8 * (link % 24) + vc)
        q.enabled = true ∧ q.guarantee = allocCells (s.link link).allocNext vc ∧ q.quota = q.guarantee) ∧
    ∃ t, exec (.linkTrainingFailed link) s = .next t ∧ (t.link link).state =
      if 2 ≤ ((s.link link).trainFails.filter fun k => s.seconds < k + 3600).length then LinkState.failed else .training) ∧
  (∀ (s : State) (link : Nat) (p : TxPacket), link < 48 → s.nextPacket link = some p → (s.link link).frames.length + p.cells ≤ 4096 →
    ∃ t fs, exec (.packetSend link) s = .next t ∧ fs.length = p.cells ∧ (t.link link).frames = (s.link link).frames ++ fs ∧
      t.out = s.out ++ fs.map (fun f => .frame link f.words) ∧ (t.link link).inflight = (s.link link).inflight ++ [p] ∧
      (t.link link).nextFseq = ((s.link link).nextFseq + p.cells) % 65536 ∧
      t.fabric.waiting = s.fabric.waiting.filter (fun u => u.id ≠ p.id) ∧
      ((t.link link).credit p.vc).available = ((s.link link).credit p.vc).available - p.cells ∧
      ((t.link link).credit p.vc).sent = ((s.link link).credit p.vc).sent + p.cells) ∧
  (∀ (s : State) (link vc : Nat) (p : TxPacket), link < 48 → vc < 8 → (s.link link).state = .trained → p ∈ s.fabric.waiting → p.vc = vc →
    p.far = false → link ∈ p.ports → s.usable p link = true → ((s.link link).credit vc).available < p.cells → p.since + 2 ≤ s.now →
    ((s.link link).credit vc).lastReturn + 2 ≤ s.now →
    exec (.creditStall link vc) s = .next (s.raise { code := 0x0600, cls := .uc, unit := .link link, a := BitVec.ofNat 64 vc })) ∧
  (∀ s : State, ∃ t, exec .routeGenerationRetire s = .next t ∧ ∀ n k, n < 8 → (s.routeSet n).keptSince = some k →
    (k + 2 ≤ s.now → (t.routeSet n).keptSince = none ∧ (t.routeSet n).live = (s.routeSet n).live ∧
      ∀ p ∈ t.fabric.waiting, p ∈ s.fabric.waiting ∧ ¬ (p.rset = n ∧ p.rgen = 1 - (s.routeSet n).live)) ∧
    (s.now < k + 2 → t.routeSet n = s.routeSet n))

/-- FABRIC_IDENTITY sets DN and path while every context is FREE and is BUSY otherwise; FABRIC_NEIGHBOURS reports 24
links. ROUTE_LOAD and ROUTE_DEPTHS write the standby generation of a set and leave the live one; while an old
generation is kept they complete with ROUTE_BUSY. ROUTE_COMMIT is ACCEPTED for a count at least 8 steeps ahead.
LINK_ALLOC stores an allocation for the next training, within the pool's cells. LINK_RETRAIN trains a link again.
COLL_GROUP reads and checks the member table and rank orders of a group; INFUSE_CHAIN stores up to two NEXT paths.
(R484, R490, R495, R502, R505, R506, R507, R510, R512, R513, R538) -/
def Obligations.FabricCommandsSetIdentityRoutesAndGroups : Prop :=
  (∀ (s : State) (r : Req) (dn : Nat) (ps : List W64) (p : Path), s.asked r 0x0100 false adminClass .module = true → dn < 65536 →
    1 ≤ ps.length → ps.length ≤ 4 → pathWordsOk ps = true → parsePath (pathHops ps) = some p → p.domain = none → p.module.isSome = true →
    p.below = .module → reqArgs r 0x0100 = mkWord [(0, 16, dn), (16, 3, ps.length)] :: ps →
    ((∀ x, x < 8 → (s.ctx x).state = .free) → ∃ u, exec (.fabricIdentity r) s = answered r 0x0100 St.ok [] u ∧
      u.fabric.dn = dn ∧ u.fabric.dnValid = true ∧ u.fabric.path = p.moduleHops ∧ u.ctxs = s.ctxs ∧ u.mem = s.mem) ∧
    ((∃ x, x < 8 ∧ (s.ctx x).state ≠ .free) → exec (.fabricIdentity r) s = answered r 0x0100 St.busy [] (s.taken r))) ∧
  (∀ (s : State) (r : Req) (u : UnitId) (n : Nat), s.asked r 0x0101 false anyClass u = true → n = 0 ∨ n = 24 →
    reqArgs r 0x0101 = [BitVec.ofNat 64 n] →
    exec (.fabricNeighbours r) s = answered r 0x0101 St.ok ((List.range 24).map fun i => let l := s.link (n + i)
      mkWord [(0, 16, l.nbDn), (16, 6, l.nbLink), (22, 3, l.state.code), (32, 32, l.oneWayNs)]) (s.taken r)) ∧
  (∀ (s : State) (r : Req) (set first n : Nat) (ws : List W64), s.asked r 0x0102 false adminClass .module = true → set < 8 → 1 ≤ n → n ≤ 48 →
    first + n ≤ 8192 → ws.length = (n + 1) / 2 → reqArgs r 0x0102 = mkWord [(0, 3, set), (16, 13, first), (32, 6, n)] :: ws →
    let e (i : Nat) := fld (ws.getD (i / 2) 0#64) (32 * (i % 2) + 31) (32 * (i % 2))
    (∀ i, i < n → entryOk (e i) = true) →
    let q := s.routeSet set
    (q.keptSince = none → ∃ u, exec (.routeLoad r) s = answered r 0x0102 St.ok [] u ∧ (u.routeSet set).live = q.live ∧
      (u.routeSet set).gen q.live = q.gen q.live ∧ (∀ m, m ≠ set → u.routeSet m = s.routeSet m) ∧
      (∀ i, i < n → ((u.routeSet set).gen (1 - q.live)).entries.get 0x3F (first + i) = e i) ∧
      (∀ i, i < first ∨ first + n ≤ i → ((u.routeSet set).gen (1 - q.live)).entries.get 0x3F i = (q.gen (1 - q.live)).entries.get 0x3F i) ∧
      u.mem = s.mem ∧ u.ctxs = s.ctxs) ∧
    (q.keptSince ≠ none → exec (.routeLoad r) s = answered r 0x0102 St.routeBusy [] (s.taken r))) ∧
  (∀ (s : State) (r : Req) (set : Nat) (ds : List (Nat × Nat)), s.asked r 0x0103 false adminClass .module = true → set < 8 → ds.length = 10 →
    (∀ p ∈ ds, p.1 < 8192 ∧ p.2 ≤ 4096 ∧ p.1 + p.2 ≤ 8192) →
    reqArgs r 0x0103 = BitVec.ofNat 64 set :: (List.range 5).map (fun i =>
      mkWord [(0, 13, (ds.getD (2 * i) (0, 0)).1), (14, 14, (ds.getD (2 * i) (0, 0)).2), (32, 13, (ds.getD (2 * i + 1) (0, 0)).1),
        (46, 14, (ds.getD (2 * i + 1) (0, 0)).2)]) →
    ((s.routeSet set).keptSince = none → exec (.routeDepths r) s = answered r 0x0103 St.ok []
      ((s.taken r).updRoute set fun q => q.updStandby fun g => { g with depths := ds })) ∧
    ((s.routeSet set).keptSince ≠ none → exec (.routeDepths r) s = answered r 0x0103 St.routeBusy [] (s.taken r))) ∧
  (∀ (s : State) (r : Req) (mask at_ : Nat), s.asked r 0x0104 false adminClass .module = true → mask < 256 → s.now + 8 ≤ at_ → at_ < 2 ^ 64 →
    reqArgs r 0x0104 = [BitVec.ofNat 64 mask, BitVec.ofNat 64 at_] →
    ((∀ n, n < 8 → Nat.testBit mask n = true → (s.routeSet n).keptSince = none) →
      ∃ u, exec (.routeCommit r) s = answered r 0x0104 St.accepted [] u ∧
        u.fabric.commit = some (mask, at_, some (reqOf r 0x0104 .module).ref) ∧ u.fabric.routes = s.fabric.routes) ∧
    ((∃ n, n < 8 ∧ Nat.testBit mask n = true ∧ (s.routeSet n).keptSince ≠ none) →
      exec (.routeCommit r) s = answered r 0x0104 St.routeBusy [] (s.taken r))) ∧
  (∀ (s : State) (r : Req) (l : Nat) (w : W64), s.asked r 0x0105 false adminClass .module = true → l < 48 →
    (∀ v, v < 8 → 2 ≤ fld w (8 * v + 7) (8 * v)) → reqArgs r 0x0105 = [BitVec.ofNat 64 l, w] →
    exec (.linkAlloc r) s = if s.poolGuarantees l w ≤ 262144 then
        answered r 0x0105 St.ok [] ((s.taken r).updLink l fun q => { q with allocNext := w })
      else answered r 0x0105 St.noResource [] (s.taken r)) ∧
  (∀ (s : State) (r : Req) (l : Nat), s.asked r 0x0106 false adminClass .module = true → l < 48 → reqArgs r 0x0106 = [BitVec.ofNat 64 l] →
    ∃ u, exec (.linkRetrain r) s = answered r 0x0106 St.accepted [] u ∧ (u.link l).state = .training ∧ (u.link l).trainFails = [] ∧
      (u.link l).retrainBy = some (reqOf r 0x0106 .module).ref) ∧
  (∀ (s : State) (r : Req) (u : UnitId) (id lanes n g addr : Nat), s.asked r 0x0107 false anyClass u = true → id < 16 → 1 ≤ lanes → lanes ≤ 16 →
    1 ≤ n → n ≤ 65536 → g < 131072 → addr < 2 ^ 48 →
    reqArgs r 0x0107 = [mkWord [(0, 4, id), (4, 5, lanes), (16, 17, n), (33, 17, g)], BitVec.ofNat 64 addr] →
    let c := s.ctx (r.mb / 4)
    c.state ≠ .free → c.fastSpan addr (2 * n * (1 + lanes)) = true → c.busy = false → s.mem.space.syn = [] →
    let es := s.readTable addr (n * (1 + lanes))
    let orders := (List.range lanes).map fun l => (es.drop (n * (1 + l))).take n
    exec (.collGroup r) s = if g ≠ 0 ∧ n % g = 0 ∧ (orders.all (isPerm n)) = true ∧ ((es.take n).filter fun d => d == s.fabric.dn).length = 1 then
        answered r 0x0107 St.ok [] ((s.taken r).updCtx (r.mb / 4) fun c => { c with groups := c.groups.set id {
          lanes := lanes, n := n, g := g, table := es.take n, orders := orders, check := tableCheck es } })
      else answered r 0x0107 St.groupRange [] (s.taken r)) ∧
  (∀ (s : State) (r : Req) (u : UnitId) (id : Nat) (ps : List (List W64)), s.asked r 0x0108 false anyClass u = true → id < 8 → ps.length ≤ 2 →
    (∀ p ∈ ps, modulePathOk p = true) → reqArgs r 0x0108 = mkWord [(0, 3, id), (4, 2, ps.length)] :: ps.flatten →
    splitPaths 16 ps.flatten = some ps → (s.ctx (r.mb / 4)).state ≠ .free →
    exec (.infuseChain r) s = answered r 0x0108 St.ok [] ((s.taken r).updCtx (r.mb / 4) fun c => { c with chains := c.chains.set id ps }))

/-- A command of opcodes 0x20 to 0x27 that stands next in a collective section of the running slice enters the engine as
an operation of its context under its OP_ID, started in this steep; one whose group is not defined ends with
GROUP_RANGE, and with an I/O die fenced it ends with UNIT_FENCED. A packet stamped for the next steep waits for it. A
packet of a present operation with its TABLE_CHECK and STEP is taken once; a second copy, a packet of another step and
one of an operation that has ended are discarded and counted, and a wrong TABLE_CHECK is counted and recorded. A flat
sum at the owner is the incoming values plus the input, element by element, and before the owner goes on to the next
position. A complete operation writes its outputs and leaves the engine; one still waiting two boundaries after its
start ends with COLL_TIMEOUT. (R514, R515, R519, R520, R522, R523, R524, R525, R527, R528, R529, R597) -/
def Obligations.CollectivesStartTakeAndComplete : Prop :=
  (∀ (s : State) (x slot op : Nat) (cmd : List W64) (t : Stream) (rest : List Stream) (c : Instr),
    (op, c) ∈ [(0x20, Instr.collRs x slot cmd), (0x21, .collAg x slot cmd), (0x22, .collAr x slot cmd), (0x23, .collCodecAr x slot cmd),
      (0x24, .collBcast x slot cmd), (0x25, .collBarrier x slot cmd), (0x26, .collSend x slot cmd), (0x27, .collRecv x slot cmd)] →
    ((s.ctx x).slot slot).streams = t :: rest → t.running.isSome = true → fld (cmd.getD 0 0#64) 7 0 = op →
    t.nextIn cmd = some 1 →
    let id := fld (cmd.getD 2 0#64) 31 0
    let group := (s.ctx x).groups.find (fld (cmd.getD 0 0#64) 19 16)
    s.collOp x id = none →
    let s0 := s.updStream x slot fun t => t.took 1 cmd
    (s.enginesFenced = true → exec c s = .next (s0.failSlot x slot St.unitFenced)) ∧
    (s.enginesFenced = false → op = 0x26 ∨ op = 0x27 ∨ group.isSome = true → ∃ u o, exec c s = .next u ∧ u.collOp x id = some o ∧ o.cmd = cmd ∧ o.slot = slot ∧
      o.ctx = x ∧ o.started = s.now ∧ o.mute = t.replay) ∧
    (s.enginesFenced = false → op ≠ 0x26 → op ≠ 0x27 → group = none → exec c s = .next (s0.failSlot x slot St.groupRange))) ∧
  (∀ (p : CollSt) (u : Nat) (w : List W32), let o := p.2
    let z := (w.zip (o.input p.1.mem.space u)).map fun q => add32 q.1 q.2
    o.c.codec = false → p.1.mem.space.syn = [] →
    (o.k1 u < o.g → p.level1 u (some w) = (p.1.collSend o (o.lane u) (o.next1 u) 0 0 (u * o.c.unit) o.rank (o.wire z), o)) ∧
    (o.k1 u = o.g → o.c.hier = false → (p.level1 u (some w)).2.results.find u = some (encodeElems o.c.fmt (o.c.step % 2 ^ 40) z))) ∧
  (∀ (s : State) (p : Pkt) (o : CollOp), let x := fld p.route 18 16
    let h0 := p.body.getD 0 0#64
    let h1 := p.body.getD 1 0#64
    let id := fld h0 31 0
    let s1 := s.tookPacket (fld p.route 15 8) p.body
    s.isEarly (fld p.route 63 48) = false → fld p.route 15 8 = 1 ∨ fld p.route 15 8 = 2 → bitAt p.route 19 = true → s.collOp x id = some o → o.mute = false →
    s1.shuns (fld p.route 47 32) = false →
    (fld h1 63 48 = o.group.check → fld h1 47 40 = o.c.step % 256 → o.seen.contains (h0.toNat, fld h1 39 0) = false →
      ∃ t o', exec (.collectivePacket p) s = .next t ∧ t.collOp x id = some o' ∧ o'.seen = o.seen ++ [(h0.toNat, fld h1 39 0)] ∧ o'.cmd = o.cmd) ∧
    (fld h1 63 48 = o.group.check → fld h1 47 40 ≠ o.c.step % 256 ∨ o.seen.contains (h0.toNat, fld h1 39 0) = true →
      exec (.collectivePacket p) s = .next { s1 with fabric := { s1.fabric with duplicates := satN 16 (s1.fabric.duplicates + 1) } }) ∧
    (fld h1 63 48 ≠ o.group.check → exec (.collectivePacket p) s = .next (({ s1 with fabric := { s1.fabric with
      mismatches := satN 16 (s1.fabric.mismatches + 1) } } : State).raise { code := 0x060A, cls := .uc, ctx := some x, opcode := o.c.op, opRef := id }))) ∧
  (∀ (s : State) (p : Pkt), s.isEarly (fld p.route 63 48) = true → exec (.collectivePacket p) s = .next { s with
    early := s.early ++ [(s.now + 1, .packet (fld p.route 15 8) p)] }) ∧
  (∀ (s : State) (x id : Nat) (o : CollOp), s.collOp x id = some o →
    (o.complete = true → ∃ t, exec (.collectiveComplete x id) s = .next t ∧ t.collOp x id = none ∧
      (x, o.c.step, id) ∈ t.fabric.ended ∧ t.mem = (s.collOutputs o).mem ∧
      (o.c.op = 0x25 ∨ o.c.op = 0x26 → o.residual = [] → o.c.stats = false →
        t.mem = s.mem ∧ t.ctxs = s.ctxs ∧ t.fabric.collOps = satN 16 (s.fabric.collOps + 1))) ∧
    (o.complete = false → s.now < o.started + 2 → exec (.collTimeout x id) s = .next s) ∧
    (o.complete = false → o.started + 2 ≤ s.now → ∃ t, exec (.collTimeout x id) s = .next t ∧ t.collOp x id = none ∧
      (x, o.c.step, id) ∈ t.fabric.ended ∧ t.fabric.collTimeouts = satN 16 (s.fabric.collTimeouts + 1) ∧
      t.fabric.timedOut = some (x, o.c.op, id) ∧ t.mem = s.mem))

/-- FAR_ENABLE takes a buffer, needs a key and trains the link; FAR_DISABLE gives the buffer back. FAR_KEY_LOAD and
FAR_KEY_SWITCH load and schedule a key slot. Training ends FAR with W of the measured round trip, or FAILED on a wrong
site. An opened data frame with the expected count moves the count on by 1; a failed tag is counted and changes no
count. FAR_ACK frees the slots that it covers. A packet enters when a slot is free for each of its frames. A stalled
ACK, or 300 s without training, is a far restart: held frames go and the count moves to the next multiple of 2^32. A
lost lock keeps held frames. Of every far link free and held slots stay 1,519,104 in all. (R299, R544, R547, R550,
R552, R554, R557, R560, R562, R563, R564, R566) -/
def Obligations.FarLinksSealHoldReplayAndRestart : Prop :=
  (∀ (s t : State) (c : Instr), (∃ l : Nat, ∃ f : FarFrame, ∃ n : Nat, ∃ r : Req, c ∈ [Instr.farTrainingDone l n, .farDataFrame l f, .farIdle l f,
      .farDiscovery l f, .farTime l f, .farAck l f, .farRestartFrame l f, .farAckSend l, .farHoldExpiry l, .farReplayTimeout l, .farAckStall l,
      .farCodewordLockLost l, .farRetrainTimeout l, .farAuth l, .farKeyAge l, .farPacketEnter l, .farEnable r, .farDisable r]) →
    (∀ l, (s.link l).far.conserved) → exec c s = .next t → ∀ l, (t.link l).far.conserved) ∧
  (∀ (s : State) (r : Req) (n site : Nat), s.asked r 0x0200 false adminClass .module = true → n < 48 → site < 16 →
    reqArgs r 0x0200 = [mkWord [(0, 6, n), (8, 4, site)]] → let f := (s.link n).far
    (∀ b, f.on = false → s.freeBuffer = some b → f.keys ≠ [] →
      s.poolGuarantees n farAlloc ≤ 262144 → s.poolGuarantees n (s.link n).allocNext ≤ 262144 →
      ∃ u, exec (.farEnable r) s = answered r 0x0200 St.accepted [] u ∧ (u.link n).far.on = true ∧ (u.link n).far.site = site ∧
        (u.link n).far.held = [] ∧ (u.link n).far.freeSlots = 1519104 ∧ (u.link n).state = .training ∧
        u.mem.farBuffers = s.mem.farBuffers ++ [(b, n)]) ∧
    (f.on = false → s.freeBuffer ≠ none → f.keys ≠ [] → 262144 < s.poolGuarantees n farAlloc ∨ 262144 < s.poolGuarantees n (s.link n).allocNext →
      exec (.farEnable r) s = answered r 0x0200 St.noResource [] (s.taken r)) ∧
    (f.on = true → exec (.farEnable r) s = answered r 0x0200 St.noEffect [] (s.taken r)) ∧
    (f.on = false → s.freeBuffer = none → exec (.farEnable r) s = answered r 0x0200 St.farlinkNoBuffer [] (s.taken r)) ∧
    (f.on = false → s.freeBuffer ≠ none → f.keys = [] → exec (.farEnable r) s = answered r 0x0200 St.farNoKey [] (s.taken r))) ∧
  (∀ (s : State) (r : Req) (n : Nat), s.asked r 0x0201 false adminClass .module = true → n < 48 → reqArgs r 0x0201 = [BitVec.ofNat 64 n] →
    ((s.link n).far.on = true → ∃ u, exec (.farDisable r) s = answered r 0x0201 St.accepted [] u ∧ (u.link n).far.on = false ∧
      (u.link n).far.held = [] ∧ (u.link n).state = .training ∧ u.mem.farBuffers = s.mem.farBuffers.filter fun e => e.2 ≠ n) ∧
    ((s.link n).far.on = false → exec (.farDisable r) s = answered r 0x0201 St.noEffect [] (s.taken r))) ∧
  (∀ (s : State) (r : Req) (n slot handle salt i : Nat) (e : KeyEntry), s.asked r 0x0202 false adminClass .module = true → n < 48 → slot < 2 →
    handle < 2 ^ 32 → salt < 2 ^ 32 → s.trust.resolve handle = some (i, e) →
    reqArgs r 0x0202 = [mkWord [(0, 6, n), (8, 1, slot)], mkWord [(0, 32, handle), (32, 32, salt)]] →
    (e.kind = 2 → (s.link n).sendsWith slot = false →
      (∀ q k, (s.link n).far.keys.find slot = some q → q.accepted = some k → k + 16 ≤ s.now) →
      exec (.farKeyLoad r) s = answered r 0x0202 St.ok [] ((s.taken r).updFar n fun f => { f with
        keys := f.keys.set slot { handle := handle, salt := salt, key := e.key } })) ∧
    (e.kind ≠ 2 → exec (.farKeyLoad r) s = answered r 0x0202 St.keyUnknown [] (s.taken r)) ∧
    (e.kind = 2 → (s.link n).sendsWith slot = true → exec (.farKeyLoad r) s = answered r 0x0202 St.farKeyBusy [] (s.taken r))) ∧
  (∀ (s : State) (r : Req) (n slot at_ : Nat), s.asked r 0x0203 false adminClass .module = true → n < 48 → slot < 2 → s.now < at_ → at_ < 2 ^ 64 →
    reqArgs r 0x0203 = [mkWord [(0, 6, n), (8, 1, slot)], BitVec.ofNat 64 at_] →
    exec (.farKeySwitch r) s = if ((s.link n).far.keys.find slot).isSome then
        answered r 0x0203 St.accepted [] ((s.taken r).updFar n fun f => { f with switch := some (slot, at_, (reqOf r 0x0203 .module).ref) })
      else answered r 0x0203 St.farNoKey [] (s.taken r)) ∧
  (∀ (s : State) (l rtt : Nat), l < 48 → (s.link l).far.on = true → (s.link l).state = .training → (s.link l).far.discovered = true →
    (s.farSiteOk l = true → ∃ t, exec (.farTrainingDone l rtt) s = .next t ∧ (t.link l).state = .far ∧ (t.link l).far.rtt = rtt ∧
      (t.link l).far.rttRef = rtt ∧ (t.link l).far.w = min 1519104 ((rtt * 15000 + 2632) / 2633 + 1024) ∧
      (t.link l).far.held.map FarHeld.count = (s.link l).far.held.map FarHeld.count) ∧
    (s.farSiteOk l = false → ∃ t, exec (.farTrainingDone l rtt) s = .next t ∧ (t.link l).state = .failed ∧ (t.link l).far.state = 0)) ∧
  (∀ (s : State) (l : Nat) (f : FarFrame), l < 48 → (s.link l).state = .far →
    let r := (s.link l).far
    (farCtrl f = false → s.farOpen l f = none → ∃ t, exec (.farDataFrame l f) s = .next t ∧ (t.link l).far.rxCount = r.rxCount ∧
      (t.link l).far.authFails = satN 16 (r.authFails + 1) ∧ (t.link l).far.nak = true) ∧
    (∀ p, s.farOpen l f = some p → f.uncorr = false →
      (farCtrl f = false → farKind f = 0 → 1 ≤ fld (farH0 f) 41 36 → fld (farH0 f) 41 36 ≤ 32 → r.countOf f = r.rxCount →
        (s.pool (l / 24)).mayTake (linkQueue l 6).2 1 = true →
        ∃ t, exec (.farDataFrame l f) s = .next t ∧ (t.link l).far.rxCount = r.rxCount + 1 ∧ (t.link l).far.nak = false) ∧
      (farCtrl f = true → farKind f = 0x01 → ∃ t, exec (.farIdle l f) s = .next t ∧ (t.link l).far.rxCtl = max r.rxCtl (r.countOf f)) ∧
      (farCtrl f = true → farKind f = 0x04 → fld (p.getD 0 0#64) 26 23 = r.site → r.site ≠ s.fabric.site →
        ∃ t, exec (.farDiscovery l f) s = .next t ∧ (t.link l).far.discovered = true ∧ (t.link l).nbDn = fld (p.getD 0 0#64) 15 0) ∧
      (farCtrl f = true → farKind f = 0x10 → ∃ t, exec (.farTime l f) s = .next t ∧ (t.link l).far.lastTime = some s.now ∧
        (t.link l).far.lastStamp = (p.getD 3 0#64).toNat ∧ (t.link l).far.rtt = (if (p.getD 4 0#64).toNat = 0 then r.rtt
          else s.steep.ticks - (p.getD 4 0#64).toNat - (p.getD 5 0#64).toNat)) ∧
      (farCtrl f = true → farKind f = 0x11 → ∃ t, exec (.farAck l f) s = .next t ∧ (t.link l).far.held.map FarHeld.count =
        (r.held.map FarHeld.count).filter fun k => nearCount r.txCount (fld (p.getD 0 0#64) 31 0) + 1 ≤ k) ∧
      (farCtrl f = true → farKind f = 0x12 → r.rxCount < fld (p.getD 0 0#64) 31 0 * 2 ^ 32 → ∃ t, exec (.farRestartFrame l f) s = .next t ∧
        (t.link l).far.rxCount = fld (p.getD 0 0#64) 31 0 * 2 ^ 32 ∧ (t.link l).far.rxStart = fld (p.getD 0 0#64) 31 0 * 2 ^ 32))) ∧
  (∀ (s : State) (l : Nat), l < 48 → let f := (s.link l).far
    ((s.link l).state = .far → ∃ t, exec (.farAckSend l) s = .next t ∧ (t.link l).far.sinceAck = 0 ∧
      (t.link l).far.ctlCount = f.ctlCount + (if f.restartDue then 2 else 1)) ∧
    (f.holding = true → ∃ t, exec (.farHoldExpiry l) s = .next t ∧ (t.link l).far.holding = false ∧ (t.link l).far.held = f.held) ∧
    ((s.link l).state = .far → f.holding = false → (f.keys.find f.sendSlot).isSome = true → ∃ t, exec (.farReplayTimeout l) s = .next t ∧
      t.out.length = s.out.length + (f.held.filter FarHeld.sent).length ∧ (t.link l).far.held = f.held) ∧
    (∀ c, (c = .farAckStall l ∧ (s.link l).state = .far ∧ f.held ≠ []) ∨ (c = .farRetrainTimeout l ∧ f.on = true ∧ (s.link l).state = .training) →
      ∃ t, exec c s = .next t ∧ (t.link l).far.held = [] ∧ (t.link l).far.txCount = (f.txCount / 2 ^ 32 + 1) * 2 ^ 32 ∧
        (t.link l).far.restartDue = true ∧ (t.link l).far.restarts = satN 16 (f.restarts + 1)) ∧
    ((s.link l).state = .far → ∃ t, exec (.farCodewordLockLost l) s = .next t ∧ (t.link l).state = .training ∧ (t.link l).far.held = f.held ∧
      (t.link l).far.txCount = f.txCount ∧ (t.link l).far.rxCount = f.rxStart) ∧
    (64 ≤ f.tagFails → exec (.farAuth l) s = .next ((s.updFar l fun f => { f with tagFails := 0 }).raise {
      code := 0x0701, cls := .uc, unit := .link l })) ∧
    (∀ e, (f.keys.find? fun e => 2 ^ 40 ≤ e.2.sent && !e.2.aged) = some e → exec (.farKeyAge l) s = .next ((s.updFar l fun f => { f with
      keys := f.keys.set e.1 { e.2 with aged := true } }).raise { code := 0x0702, cls := .ce, unit := .link l, a := BitVec.ofNat 64 e.1 })) ∧
    (∀ p, (s.fabric.waiting.find? fun t => t.far && (t.ports.find? fun p => s.usable t p && t.cells ≤ (s.link p).far.freeSlots) == some l) = some p →
      ∃ t, exec (.farPacketEnter l) s = .next t ∧ (t.link l).far.held.length = f.held.length + p.cells ∧
        (t.link l).far.freeSlots = f.freeSlots - p.cells ∧ (t.link l).far.txCount = f.txCount + p.cells ∧
        t.fabric.waiting = s.fabric.waiting.filter fun u => u.id ≠ p.id))

/-- OUTER_CONFIG checks its words and sets the round to LOCAL at S0, or completes with OUTER_CONFLICT. OUTER_JOIN and
OUTER_REANCHOR are ACCEPTED for another member site and start to re-anchor, and SITE_UNKNOWN otherwise. A touch report
sets its gateway's bit; a site not heard for TOUCH_STEEPS loses it. When nothing waits to be sent the module waits.
HAVE is noted, a kept round is sent again on request, the deadline decides SKIP when a site is out of touch and
ON_TIME otherwise, and a waiting module acts on the decision. MERGE_DONE writes each block of the merged difference
and its headers and nothing else, and the module is READY. HELLO reaches the coordinator. (R567, R568, R570, R571,
R573, R574, R575, R576, R581, R583, R584, R586) -/
def Obligations.OuterRoundsAreDecidedAndMerged : Prop :=
  (∀ (s : State) (r : Req) (u : UnitId) (a b : W64) (s0 diff hdr resid merge mhdr count table n : Nat) (lead : List W64),
    s.asked r 0x0204 false anyClass u = true →
    let x := r.mb / 4
    let c := s.ctx x
    let wd (i : Nat) : W64 := BitVec.ofNat 64 i
    reqArgs r 0x0204 = [a, b, wd s0, wd diff, wd hdr, wd resid, wd merge, wd mhdr, wd count, wd table, wd n] ++ lead →
    s0 < 2 ^ 64 → (∀ v ∈ [diff, hdr, resid, merge, mhdr, table], v < 2 ^ 48) → bitAt a 54 = false → bitAt a 55 = false → fld a 63 60 = 0 →
    16 ≤ fld a 41 32 → fld a 41 32 ≤ 512 → fld a 45 42 ≠ 0 → fld a 59 56 = 5 ∨ fld a 59 56 = 6 → fld b 63 48 = 0 → fld b 47 40 ≠ 0 →
    Nat.testBit (fld b 31 16) s.fabric.site = true → 2 ≤ popN 16 (fld b 31 16) → bitAt a 52 = true ∨ (1 ≤ fld b 12 0 ∧ fld b 12 0 ≤ 4096) →
    0 < count → count < 2 ^ 40 → count % 16384 = 0 → 1 ≤ n → n ≤ 4 → lead.length = n → modulePathOk lead = true → c.state ≠ .free → c.busy = false →
    s.mem.space.syn = [] →
    (∀ p ∈ [(diff, if fld a 59 56 = 5 then 2 * count else 4 * count), (hdr, count / 32), (resid, 4 * count), (merge, 4 * count),
      (mhdr, count / 32), (table, 512)], c.fastSpan p.1 p.2 = true) →
    let peer (j : Nat) : List W64 := let ws := s.mem.space.words (table / 8 + 4 * j) 4
      ws.take (pathWordCount (fld (ws.getD 0 0#64) 3 0))
    let g : OuterCfg := {
      id := fld a 31 0, h := fld a 41 32, lag := fld a 45 42, staleLimit := if fld a 51 46 = 0 then 8 else fld a 51 46, sign := bitAt a 52
      sender := bitAt a 53, fmt := fld a 59 56, kBlk := fld b 12 0, chain := fld b 15 13, sites := fld b 31 16
      touchSteeps := if fld b 39 32 = 0 then 16 else fld b 39 32, share := fld b 47 40, diff := diff, diffHdr := hdr, resid := resid
      merge := merge, mergeHdr := mhdr, count := count, peers := (List.range 16).map peer, lead := lead }
    ((∀ y q, y < 8 → y ≠ x → (s.ctx y).outer.cfg = some q → q.id = g.id → q.agrees g = true) →
      ∃ v, exec (.outerConfig r) s = answered r 0x0204 St.ok [BitVec.ofNat 64 (g.estimate s.fabric.site)] v ∧ (v.ctx x).outer.cfg = some g ∧
        (v.ctx x).outer.s0 = s0 ∧ (v.ctx x).outer.state = .local_ ∧ (v.ctx x).outer.round = 0 ∧ v.mem = s.mem ∧ ∀ y, y ≠ x → v.ctx y = s.ctx y) ∧
    ((∃ y q, y < 8 ∧ y ≠ x ∧ (s.ctx y).outer.cfg = some q ∧ q.id = g.id ∧ q.agrees g = false) →
      exec (.outerConfig r) s = answered r 0x0204 St.outerConflict [] (s.taken r))) ∧
  (∀ (s : State) (r : Req) (u : UnitId) (donor code : Nat) (c : Instr), (code, c) ∈ [(0x0205, Instr.outerJoin r), (0x0206, .outerReanchor r)] →
    s.asked r code false anyClass u = true → donor < 16 → reqArgs r code = [BitVec.ofNat 64 donor] → let o := (s.ctx (r.mb / 4)).outer
    (∀ g, o.cfg = some g → donor ≠ s.fabric.site → Nat.testBit g.sites donor = true → o.reanchor = none →
      exec c s = answered r code St.accepted [] ((s.taken r).startReanchor (r.mb / 4) donor (some (reqOf r code u).ref))) ∧
    (o.cfg = none → exec c s = answered r code St.siteUnknown [] (s.taken r)) ∧
    (∀ g, o.cfg = some g → Nat.testBit g.sites donor = false → exec c s = answered r code St.siteUnknown [] (s.taken r))) ∧
  (∀ (s : State) (m : OuterMsg) (x : Nat), s.outerCtx m.id = some x → let w := m.words.getD 0 0#64
    (s.coordinates x = true → ∃ t, exec (.touchReport m) s = .next t ∧
      Nat.testBit ((t.ctx x).outer.gates.get 0 m.src) (fld w 3 0) = bitAt w 8) ∧
    (∃ t, exec (.outerHave m) s = .next t ∧ (fld w 3 0, fld w 55 32, bitAt w 8, m.src) ∈ (t.ctx x).outer.have_) ∧
    (∀ g d, (s.ctx x).outer.cfg = some g → ((s.ctx x).outer.kept.find? fun k => k.round == fld w 55 32 && k.merge == bitAt w 8) = some d →
      exec (.outerResendRequest m) s = .next ((s.tookPacket 0x08 (farWord OMsg.resend m.id :: m.words)).sendDiff x
        { g with sites := 2 ^ fld w 3 0 } d 0)) ∧
    (∀ g, (s.ctx x).outer.cfg = some g → s.coordinates x = false → ∃ u : State, u.ctxs = s.ctxs ∧
      exec (.outerHello m) s = .next (u.toLead g OMsg.hello m.words)) ∧
    (s.coordinates x = true → ∃ (g : OuterCfg) (u : State), (s.ctx x).outer.cfg = some g ∧ exec (.outerHello m) s = .next (u.settleHello x g) ∧
      (u.ctx x).outer.hellos.find ((m.words.getD 0 0#64).toNat % 16) = some {
        applied := (m.words.getD 1 0#64).toNat, skipped := (m.words.getD 2 0#64).toNat, step := (m.words.getD 3 0#64).toNat
        sinceAnchor := (m.words.getD 4 0#64).toNat })) ∧
  (∀ (s : State) (x site : Nat) (g : OuterCfg), (s.ctx x).outer.cfg = some g → Nat.testBit g.sites site = true →
    (∀ l, l < 48 → (s.link l).far.on = true → (s.link l).far.site = site → ∀ k, (s.link l).far.lastTime = some k → k + g.touchSteeps < s.now) →
    ∃ t, exec (.touchExpiry x site) s = .next t ∧ Nat.testBit (t.ctx x).outer.gateMask site = false) ∧
  (∀ (s : State) (x : Nat), (s.ctx x).outer.state = .sending → (∀ p ∈ s.fabric.waiting, p.ctx ≠ some x ∨ p.vc ≠ 6) →
    (s.ctx x).outer.decision = none → exec (.outerSendDone x) s = .next (s.updOuter x fun o => { o with state := .waiting })) ∧
  (∀ (s : State) (x k : Nat) (g : OuterCfg), let o := (s.ctx x).outer
    o.cfg = some g → s.coordinates x = true → o.deadline = some k → k ≤ s.now → o.state = .waiting → o.decision = none → o.mergeStep = none →
    ((∀ j ∈ s.otherSites g, Nat.testBit o.touchMask j = true) → ∃ t d, exec (.outerDeadline x) s = .next t ∧ (t.ctx x).outer.decision = some d ∧
      d.skip = false ∧ d.round = o.round ∧ d.onTime = siteMask ((s.otherSites g).filter fun j => s.allHave x j o.round false) ∧
      (t.ctx x).outer.state = .merging ∧ (t.ctx x).outer.deadline = none) ∧
    ((∃ j ∈ s.otherSites g, Nat.testBit o.touchMask j = false) → ∃ t d, exec (.outerDeadline x) s = .next t ∧
      (t.ctx x).outer.decision = some d ∧ d.skip = true ∧ d.onTime = 0 ∧ (t.ctx x).outer.state = .ready ∧ (t.ctx x).outer.skips = satN 16 (o.skips + 1))) ∧
  (∀ (s : State) (m : OuterMsg) (x : Nat), s.outerCtx m.id = some x → let o := (s.ctx x).outer
    let w := m.words.getD 0 0#64
    o.state = .waiting → o.decision = none → o.mergeStep = none → bitAt w 25 = false → fld w 23 0 = o.round →
    ∃ t d, exec (.outerDecide m) s = .next t ∧ (t.ctx x).outer.decision = some d ∧ d.onTime = fld w 47 32 ∧ d.skip = bitAt w 24 ∧
      d.carry = (m.words.drop 1).map (fun v => (fld v 3 0, fld v 31 8)) ∧
      (t.ctx x).outer.state = if bitAt w 24 then .ready else .merging) ∧
  (∀ (s : State) (x : Nat) (g : OuterCfg) (d : OuterDecision), let o := (s.ctx x).outer
    o.cfg = some g → o.decision = some d → o.state = .merging → ∃ t, exec (.outerMergeDone x) s = .next t ∧ (t.ctx x).outer.state = .ready ∧
      (s.mem.space.syn = [] → s.mem.injArm = false → g.merge % 8 = 0 → g.mergeHdr % 8 = 0 →
        g.merge + 16384 * g.blocks ≤ g.mergeHdr ∨ g.mergeHdr + 128 * g.blocks ≤ g.merge →
        (∀ b i, b < g.blocks → i < 4096 → t.mem.space.lane32 (g.merge + 16384 * b + 4 * i) =
          (mergeBlock g.sign (o.terms s.fabric.site d) (o.denominator g s.fabric.site d) b).getD i 0#32) ∧
        (∀ k, k < 16 * g.blocks → t.mem.space.word (g.mergeHdr / 8 + k) = mkWord [(0, 8, 0x7F), (24, 40, o.applyStep g)]) ∧
        (∀ a, ¬ within g.merge (16384 * g.blocks) a → ¬ within g.mergeHdr (128 * g.blocks) a → t.mem.space.byte a = s.mem.space.byte a)))

/-- A message stamped for the next steep waits for it; one from an expelled module, or for a job that no context is a
member of, is only taken. SEAL clears the sender's ledger entry alone; an epoch that meets its conditions is sealed
and SEAL sent, another is not; a late or missing seal fails the steps of the epoch. A failed step, STEP_FAIL at the
lead, ABORT and COMMIT_TIMEOUT abort the step and those after it, count the abort and leave earlier steps. READY goes
to the parent once every child is ready, and the lead that covers all live members commits. COMMIT after READY is due
at the next boundary and counted as forwarded; another only counts as received. QUERY is answered with the decision;
DECISION acts as COMMIT or ABORT. MIRROR_DONE marks the step. Of these commands only COMMIT can break the commit-token
equation. (R597, R598, R599, R601, R603, R605, R606, R609, R610, R614, R615, R618) -/
def Obligations.StepsSealFailAndCommitInTwoPhases : Prop :=
  (∀ (s : State) (m : CommitMsg) (msg : Nat) (c : Instr), (msg, c) ∈ [(0x01, Instr.sealMsg m), (0x02, .stepFail m), (0x03, .ready m), (0x04, .commit m),
      (0x05, .abort m), (0x06, .query m), (0x07, .decision m), (0x08, .mirrorDone m)] →
    (s.isEarly m.epoch = false → (s.tookMsg m msg).shuns m.src = true ∨ (s.tookMsg m msg).ctxOfJob m.job = none →
      exec c s = .next (s.tookMsg m msg)) ∧
    (s.isEarly m.epoch = true → exec c s = .next { s with early := s.early ++ [(s.now + 1, .msg msg m)] })) ∧
  (∀ (s t : State) (m : CommitMsg) (x n src : Nat) (c : Instr), c ∈ [Instr.sealMsg m, .epochSeal x n, .sealLate x n, .sealMissing x src n, .stepFail m,
      .readySend x, .ready m, .abort m, .query m, .decision m, .mirrorDone m, .queryTimeout x, .commitTimeout x] →
    (∀ y, (s.ctx y).job.conserved) → exec c s = .next t → ∀ y, (t.ctx y).job.conserved) ∧
  (∀ (s : State) (m : CommitMsg) (x : Nat), s.takesMsg m 0x01 x = true → let e := (m.src, m.arg.toNat)
    ∃ t, exec (.sealMsg m) s = .next t ∧ (∀ n, e ∉ ((t.ctx x).job.epoch n).ledger) ∧
      (∀ n p, p ≠ e → (p ∈ ((t.ctx x).job.epoch n).ledger ↔ p ∈ (((s.tookMsg m 0x01).ctx x).job.epoch n).ledger)) ∧
      ∀ y, y ≠ x → t.ctx y = (s.tookMsg m 0x01).ctx y) ∧
  (∀ (s : State) (x n : Nat), let j := (s.ctx x).job
    let e := j.epoch n
    (j.member = true → j.replay = none → n < s.now → e.dirty = false → e.unchecked = 0 → e.ledger = [] → e.sealed_ = false →
      exec (.epochSeal x n) s = .next ((forL e.sentTo (fun d u => u.jobMsg x d 0x01 0 0 n) s).updJob x fun j =>
        j.updEpoch n fun e => { e with sealed_ := true }) ∧
      ∃ t, exec (.epochSeal x n) s = .next t ∧ ((t.ctx x).job.epoch n).sealed_ = true ∧ ∀ k, k ≠ n → (t.ctx x).job.epoch k = j.epoch k) ∧
    (s.now ≤ n ∨ e.dirty = true ∨ e.unchecked ≠ 0 ∨ e.ledger ≠ [] → exec (.epochSeal x n) s = .next s) ∧
    (e.sealed_ = false → e.dirty = true ∨ e.unchecked ≠ 0 → n + 4 ≤ s.now → exec (.sealLate x n) s = .next (s.failEpoch x 0x05 n)) ∧
    (e.sealed_ = true ∨ s.now < n + 4 → exec (.sealLate x n) s = .next s) ∧
    (∀ src q, (j.epochs.find? fun e => e.ledger.contains (src, n)) = some q → n + 4 ≤ s.now →
      exec (.sealMissing x src n) s = .next (s.failEpoch x 0x06 q.n)) ∧
    (∀ src, (∀ q ∈ j.epochs, (src, n) ∉ q.ledger) → exec (.sealMissing x src n) s = .next s)) ∧
  (∀ (s : State) (x cause n : Nat) (p : StepSt), (s.ctx x).job.stepsOfEpoch n = [p] →
    s.failEpoch x cause n = s.failStep x p.step cause n) ∧
  (∀ (s : State) (x n cause epoch : Nat) (p : StepSt), let j := (s.ctx x).job
    j.member = true → j.stepOf n = some p → p.failed = none → p.phase = .running ∨ p.phase = .readySent →
    AbortedFrom j ((s.failStep x n cause epoch).ctx x).job n ∧
    (j.isLead = true → ((s.failStep x n cause epoch).ctx x).job.decisions.head? = some (n, 2))) ∧
  (∀ (s : State) (m : CommitMsg) (x : Nat), s.takesMsg m 0x02 x = true → let s' := s.tookMsg m 0x02
    let j := (s'.ctx x).job
    (∀ p, j.isLead = true → j.stepOf m.step = some p → p.phase = .running → ∃ t, exec (.stepFail m) s = .next t ∧
      AbortedFrom j (t.ctx x).job m.step ∧ (t.ctx x).job.decisions.head? = some (m.step, 2)) ∧
    (∀ q, j.isLead = false → m.cause = 0x01 → (j.epochs.find? fun e => e.ledger.contains (m.src, m.arg.toNat)) = some q →
      exec (.stepFail m) s = .next ((s'.updJob x fun j => { j with breaches := satN 16 (j.breaches + 1) }).failEpoch x 0x06 q.n)) ∧
    (j.isLead = false → m.cause ≠ 0x01 → exec (.stepFail m) s = .next s')) ∧
  (∀ (s : State) (m : CommitMsg) (x : Nat) (p : StepSt), s.takesMsg m 0x05 x = true → let j := ((s.tookMsg m 0x05).ctx x).job
    j.stepOf m.step = some p → p.phase ≠ .aborting → ∃ t, exec (.abort m) s = .next t ∧ AbortedFrom j (t.ctx x).job m.step) ∧
  (∀ (s : State) (x : Nat) (p : StepSt) (rest : List StepSt), let j := (s.ctx x).job
    j.steps = p :: rest → j.member = true → j.replay = none → p.phase = .running →
    (∀ r, s.ready x p = true → j.parent = some r → j.childrenReady p = true → exec (.readySend x) s =
      .next ((s.jobMsg x (j.dnOf r) 0x03 0 p.step p.covered).updJob x fun j => j.updStep p.step fun q => { q with
        phase := .readySent, readySteep := some s.now })) ∧
    (s.ready x p = false ∨ (j.parent ≠ none ∧ j.childrenReady p = false) → exec (.readySend x) s = .next s) ∧
    (s.ready x p = true → j.isLead = true → j.childrenReady p = true → p.covered = j.live.length → ∃ t v,
      exec (.readySend x) s = .next t ∧ CommittedTo j (t.ctx x).job p.step v s.now ∧ (j.staged = none → v = j.jver))) ∧
  (∀ (s : State) (m : CommitMsg) (x : Nat), s.takesMsg m 0x03 x = true → let j := ((s.tookMsg m 0x03).ctx x).job
    (m.rank ∈ j.children → ∃ t, exec (.ready m) s = .next t ∧
      ∀ q ∈ (t.ctx x).job.steps, q.step = m.step → (m.rank, m.arg.toNat) ∈ q.readyFrom) ∧
    (m.rank ∉ j.children → exec (.ready m) s = .next (s.tookMsg m 0x03))) ∧
  (∀ (s : State) (m : CommitMsg) (x : Nat), s.takesMsg m 0x04 x = true → let s' := s.tookMsg m 0x04
    let j := (s'.ctx x).job
    (∀ p, j.stepOf m.step = some p → p.phase = .readySent → ∃ t, exec (.commit m) s = .next t ∧
      CommittedTo j (t.ctx x).job m.step m.arg.toNat s'.now) ∧
    ((∀ p, j.stepOf m.step = some p → p.phase ≠ .readySent) →
      exec (.commit m) s = .next (s'.updJob x fun j => { j with received := j.received + 1 }))) ∧
  (∀ (s : State) (m : CommitMsg) (x : Nat), s.takesMsg m 0x06 x = true → let s' := s.tookMsg m 0x06
    let j := (s'.ctx x).job
    (j.isLead = true → exec (.query m) s =
      .next (s'.jobMsg x m.src 0x07 0 m.step (((j.decisions.find? fun d => d.1 == m.step).map (·.2)).getD 0))) ∧
    (j.isLead = false → j.parent ≠ some m.rank →
      (j.committed = m.step → exec (.query m) s = .next (s'.jobMsg x m.src 0x07 0 m.step 1)) ∧
      (j.committed ≠ m.step → (∀ p, j.stepOf m.step = some p → p.phase ≠ .commitPending) →
        exec (.query m) s = .next (s'.jobMsg x m.src 0x07 0 m.step 0))) ∧
    (j.isLead = false → j.parent = some m.rank → j.committed = m.step → exec (.query m) s =
      .next ((forL j.children (fun r u => u.jobMsg x (j.dnOf r) 0x06 0 m.step 0) s').jobMsg x (j.dnOf j.lead) 0x07 0 m.step 1))) ∧
  (∀ (s : State) (m : CommitMsg) (x : Nat), s.takesMsg m 0x07 x = true → let s' := s.tookMsg m 0x07
    let j := (s'.ctx x).job
    (j.takeover = none → (∀ p, m.arg = 1#64 → j.stepOf m.step = some p → p.phase = .readySent → ∃ t, exec (.decision m) s = .next t ∧
        CommittedTo j (t.ctx x).job m.step j.jver s'.now) ∧
      (∀ p, m.arg = 2#64 → j.stepOf m.step = some p → p.phase ≠ .aborting → ∃ t, exec (.decision m) s = .next t ∧
        AbortedFrom j (t.ctx x).job m.step) ∧
      (m.arg = 0#64 → exec (.decision m) s = .next s')) ∧
    (∀ w p, j.takeover = some w → j.stepOf m.step = some p → (m.arg = 1#64 → ∃ t v, exec (.decision m) s = .next t ∧
        CommittedTo j (t.ctx x).job m.step v s'.now ∧ (t.ctx x).job.takeover = none) ∧
      (m.arg = 0#64 → (∃ r ∈ w, r ≠ m.rank) → exec (.decision m) s = .next (s'.updJob x fun j => { j with
        takeover := some (w.filter fun r => r ≠ m.rank) })) ∧
      (m.arg = 0#64 → (∀ r ∈ w, r = m.rank) → p.phase = .running → ∃ t, exec (.decision m) s = .next t ∧
        AbortedFrom j (t.ctx x).job m.step ∧ (t.ctx x).job.takeover = none))) ∧
  (∀ (s : State) (m : CommitMsg) (x : Nat), s.takesMsg m 0x08 x = true → let j := ((s.tookMsg m 0x08).ctx x).job
    (j.buddy.map j.dnOf = some m.src → ∃ t, exec (.mirrorDone m) s = .next t ∧
      (∀ q ∈ (t.ctx x).job.steps, q.step = m.step → q.mirrorDone = true) ∧ (t.ctx x).job.mirror.fullDue = false) ∧
    (j.buddy.map j.dnOf ≠ some m.src → exec (.mirrorDone m) s = .next (s.tookMsg m 0x08))) ∧
  (∀ (s : State) (x : Nat) (p : StepSt) (k : Nat), let j := (s.ctx x).job
    (j.steps.find? fun q => q.phase == .readySent) = some p → p.readySteep = some k →
    ((p.querySteep = none ∧ k + 4 ≤ s.now) ∨ (∃ q, p.querySteep = some q ∧ q < s.now) →
      exec (.queryTimeout x) s = .next ((s.jobMsg x (j.dnOf j.lead) 0x06 0 p.step 0).updJob x fun j =>
        { (j.updStep p.step fun q => { q with querySteep := some s.now }) with queries := satN 16 (j.queries + 1) })) ∧
    (p.querySteep = none → s.now < k + 4 → exec (.queryTimeout x) s = .next s)) ∧
  (∀ (s : State) (x : Nat) (p : StepSt) (rest : List StepSt) (k : Nat), let j := (s.ctx x).job
    j.steps = p :: rest → p.readySteep = some k → j.isLead = true → p.phase = .running →
    (k + j.commitWait ≤ s.now → ∃ t, exec (.commitTimeout x) s = .next t ∧ AbortedFrom j (t.ctx x).job p.step ∧
      (t.ctx x).job.decisions.head? = some (p.step, 2)) ∧
    (s.now < k + j.commitWait → exec (.commitTimeout x) s = .next s))

/-- A heartbeat makes its link heard and gives the neighbour's LINKS, a late one only the latter; one stamped for the next
steep waits, as a message does. A missed one is counted once a steep, and 3 in a row make the link silent; a FAR link
counts in nothing. VOTE replaces the voter's older vote at the tally; when the links lost are more than half the
target's LINKS, MVER rises by 1 and the target's expulsion is pending with reason silent. EXPEL not known yet is
staged for the next boundary. MEMBER_SYNC is answered with what the sender lacks. The score is formed at counters that
are multiples of 64, with candidacy by THRESHOLD, and the replay windows start again. HEALTH_ASK is granted while the
budget has room, else the candidate watches; a reply is taken by its candidate; freed budget goes to the lowest score,
then the lowest DN. (R624, R625, R626, R627, R628, R629, R632, R633, R635, R636, R637) -/
def Obligations.MembershipVotesExpelsAndScores : Prop :=
  (∀ (s : State) (l : Nat) (b : Beat), (l < 48 → b.count ≠ s.now + 1 → s.lateBeat b = false → ∃ t, exec (.heartbeat l b) s = .next t ∧
      t.beat l = { at_ := s.now, missed := 0, silent := false, dn := b.dn, links := b.links, mver := b.mver } ∧
      t.members.lastLinks.get 0 b.dn = b.links ∧ ∀ k, k ≠ l → t.beat k = s.beat k) ∧
    (l < 48 → b.count ≠ s.now + 1 → s.lateBeat b = true → ∃ t, exec (.heartbeat l b) s = .next t ∧
      t.beat l = { s.beat l with dn := b.dn, links := b.links, mver := b.mver } ∧ ∀ k, k ≠ l → t.beat k = s.beat k) ∧
    (l < 48 → b.count = s.now + 1 → exec (.heartbeat l b) s = .next { s with early := s.early ++ [(s.now + 1, .beat l b)] }) ∧
    (48 ≤ l → exec (.heartbeat l b) s = .next s)) ∧
  (∀ (s : State) (l : Nat), l < 48 →
    let counts : Prop := (s.link l).state = .trained ∨
      ((s.link l).nbDnValid = true ∧ (s.link l).state ≠ .far ∧ (s.link l).far.on = false)
    (counts → (s.beat l).missed < s.now - 1 - (s.beat l).at_ → (s.beat l).counted < s.now → ∃ t, exec (.heartbeatMissed l) s = .next t ∧
      t.beat l = { s.beat l with missed := (s.beat l).missed + 1, counted := s.now, silent := decide (3 ≤ (s.beat l).missed + 1), dn := (s.link l).nbDn } ∧
      ((s.beat l).missed + 1 < 3 → t = s.setBeat l (t.beat l))) ∧
    (¬ counts ∨ s.now - 1 - (s.beat l).at_ ≤ (s.beat l).missed ∨ s.now ≤ (s.beat l).counted → exec (.heartbeatMissed l) s = .next s)) ∧
  (∀ (s : State) (m : CommitMsg), let s' := s.tookMsg m 0x10
    let g := s'.members
    let dn := fld m.arg 15 0
    let lost := fld m.arg 21 16
    let vs := (g.votes.filter fun v => !(v.voter == m.src && v.target == dn)) ++
      (if lost = 0 then [] else [({ voter := m.src, target := dn, lost := lost } : Vote)])
    let sum := ((vs.filter fun v => v.target == dn).map fun v => v.lost).sum
    let gone := dn ∈ g.expelled ∨ ∃ e ∈ g.pendingExpels, e.dn = dn
    s.isEarly m.epoch = false → s'.shuns m.src = false →
    (s'.isMaster = true ∨ (s'.steep.deputyDn = s'.fabric.dn ∧ dn = s'.steep.masterDn) →
      (¬ gone → g.lastLinks.get 0 dn < 2 * sum → ∃ t e, exec (.vote m) s = .next t ∧ t.members.mver = (g.mver + 1) % 2 ^ 32 ∧
        e = { dn := dn, reason := 1, mver := (g.mver + 1) % 2 ^ 32, at_ := s'.now } ∧ t.members.pendingExpels = g.pendingExpels ++ [e] ∧
        t.members.sentExpels = g.sentExpels ++ [e] ∧ ∀ v ∈ t.members.votes, v.target ≠ dn) ∧
      (gone ∨ 2 * sum ≤ g.lastLinks.get 0 dn → exec (.vote m) s = .next { s' with members := { g with votes := vs } })) ∧
    (s'.isMaster = false → s'.steep.deputyDn ≠ s'.fabric.dn ∨ dn ≠ s'.steep.masterDn → exec (.vote m) s = .next s')) ∧
  (∀ (s : State) (m : CommitMsg), let s' := s.tookMsg m 0x11
    let g := s'.members
    let e : Expel := { dn := fld m.arg 15 0, reason := fld m.arg 19 16, mver := fld m.arg 63 32, at_ := s'.now }
    s.isEarly m.epoch = false → s'.shuns m.src = false →
    (e.dn ∉ g.expelled → (∀ p ∈ g.pendingExpels, p.dn ≠ e.dn) → ∃ t, exec (.expel m) s = .next t ∧
      t.members = { g with pendingExpels := g.pendingExpels ++ [e] }) ∧
    (e.dn ∈ g.expelled ∨ (∃ p ∈ g.pendingExpels, p.dn = e.dn) → exec (.expel m) s = .next s')) ∧
  (∀ (s : State) (m : CommitMsg) (msg : Nat) (c : Instr), (msg, c) ∈ [(0x10, Instr.vote m), (0x11, .expel m), (0x14, .memberSync m),
      (0x12, .healthAsk m), (0x13, .healthReply m)] → s.isEarly m.epoch = true →
    exec c s = .next { s with early := s.early ++ [(s.now + 1, .msg msg m)] }) ∧
  (∀ (s : State) (m : CommitMsg), s.isEarly m.epoch = false → let s' := s.tookMsg m 0x14
    (s'.isMaster = true → exec (.memberSync m) s = .next (forL (s'.members.sentExpels.filter fun e => fld m.arg 63 32 < e.mver)
      (fun e u => u.domainMsg m.src 0x11 (mkWord [(0, 16, e.dn), (16, 4, e.reason), (32, 32, e.mver)])) s')) ∧
    (s'.isMaster = false → exec (.memberSync m) s = .next s')) ∧
  (∀ (s : State) (m : CommitMsg), let s' := s.tookMsg m 0x12
    let g := s'.members
    let dn := fld m.arg 15 0
    s.isEarly m.epoch = false → s'.shuns m.src = false →
    (s'.isMaster = true → dn ∉ g.grantsStanding →
      (0 < s'.budgetLeft → ∃ t, exec (.healthAsk m) s = .next t ∧ t.members.grants = g.grants ++ [s'.seconds] ∧
        t.members.grantsStanding = g.grantsStanding ++ [dn] ∧ ∀ w ∈ t.members.watching, w.1 ≠ dn) ∧
      (s'.budgetLeft = 0 → ∃ t, exec (.healthAsk m) s = .next t ∧ t.members.grants = g.grants ∧
        t.members.watching = (g.watching.filter fun w => decide (w.1 ≠ dn)) ++ [(dn, fld m.arg 23 16)])) ∧
    (s'.isMaster = false ∨ dn ∈ g.grantsStanding → exec (.healthAsk m) s = .next s')) ∧
  (∀ (s : State) (m : CommitMsg), let s' := s.tookMsg m 0x13
    s.isEarly m.epoch = false → s'.shuns m.src = false →
    (fld m.arg 15 0 = s'.fabric.dn → s'.members.candidate = true →
      (bitAt m.arg 16 = true → ∃ t, exec (.healthReply m) s = .next t ∧ t.members.granted = true) ∧
      (bitAt m.arg 16 = false → exec (.healthReply m) s = .next { s' with members := { s'.members with watch := true } })) ∧
    (fld m.arg 15 0 ≠ s'.fabric.dn ∨ s'.members.candidate = false → exec (.healthReply m) s = .next s')) ∧
  (∀ s : State, let sc := 255 - (s.penaltiesOf .module).sum
    let g := s.members
    (s.now % 64 = 0 → ∃ t, exec .healthScoreForm s = .next t ∧ t.members.health = sc ∧ t.members.penalties = s.penaltiesOf .module ∧
      (sc < g.threshold → t.members.candidate = true ∧ t.members.watch = g.watch) ∧
      (g.threshold + 16 ≤ sc → t.members.candidate = false ∧ t.members.watch = false) ∧
      (g.threshold ≤ sc → sc < g.threshold + 16 → t.members.candidate = g.candidate) ∧ ∀ l, (t.link l).replays64 = 0) ∧
    (s.now % 64 ≠ 0 → exec .healthScoreForm s = .next s)) ∧
  (∀ s : State, (s.isMaster = true → 0 < s.budgetLeft → s.members.watching ≠ [] → ∃ b ∈ s.members.watching, ∃ t,
      (∀ w ∈ s.members.watching, b.2 < w.2 ∨ (b.2 = w.2 ∧ b.1 ≤ w.1)) ∧ exec .healthBudgetRoom s = .next t ∧
      t.members.grants = s.members.grants ++ [s.seconds] ∧ t.members.grantsStanding = s.members.grantsStanding ++ [b.1]) ∧
    (s.isMaster = false ∨ s.budgetLeft = 0 ∨ s.members.watching = [] → exec .healthBudgetRoom s = .next s))

/-- JOB_CONFIG makes a context the member at RANK of its table or a spare, resets the rest of its job and keeps the
counters; JOB_MEMBERS stages a table; STEP_CAPTURE arms a capture; STEP_REPLAY restores the spans and the scale
history, within the context's window, and queues the captured stream as a replay; REPLAY_COMPLETE ends the replay with
its event when no stream is left. JOB_JOIN, SPARE_TAKEOVER and DECANT ask the other module and record the transfer.
READMIT clears VOTED_OUT after a passed blend, or takes a neighbour back, and MVER rises. HEALTH_CONFIG is due 8
steeps ahead. Each is refused with the status the rules name: BAD_CONTEXT, BUSY, NOT_MEMBER, BAD_PATH, NO_RESOURCE,
BLEND_REQUIRED, VOTED_OUT, RESERVED. The mirror, join, takeover and decant packets of other modules are taken and a
whole transfer is settled with its event. (R590, R591, R593, R618, R620, R621, R622, R631, R646, R651, R653, R655) -/
def Obligations.JobCommandsSetJobsAndMoveState : Prop :=
  (∀ (s : State) (r : Req) (u : UnitId) (a b w : W64), s.asked r 0x0300 false adminClass u = true → reqArgs r 0x0300 = [a, b, w] →
    let x := fld a 2 0
    let n := fld a 49 33
    let rank := fld a 32 16
    let stride := fld w 16 0
    let wait := fld w 47 32
    let c := s.ctx x
    let table := s.readTable (fld b 47 0) n
    fld a 15 4 = 0 → fld a 63 50 = 0 → fld b 63 48 = 0 → fld w 31 17 = 0 → fld w 63 48 = 0 → rank < n →
    (n = 1 ∧ stride = 0) ∨ (1 < n ∧ 0 < stride ∧ stride < n) → s.mem.space.syn = [] →
    (1 ≤ wait → wait ≤ 7 → exec (.jobConfig r) s = answered r 0x0300 St.reserved [] (s.taken r)) ∧
    (wait = 0 ∨ 8 ≤ wait → (c.state = .free → exec (.jobConfig r) s = answered r 0x0300 St.badContext [] (s.taken r)) ∧
      (c.state ≠ .free → c.fastSpan (fld b 47 0) (2 * n) = true →
        (c.busy = true → exec (.jobConfig r) s = answered r 0x0300 St.busy [] (s.taken r)) ∧
        (c.busy = false → bitAt a 3 = false → table.getD rank 0 ≠ s.fabric.dn →
          exec (.jobConfig r) s = answered r 0x0300 St.notMember [] (s.taken r)) ∧
        (c.busy = false → bitAt a 3 = true ∨ table.getD rank 0 = s.fabric.dn → ∃ v, exec (.jobConfig r) s = answered r 0x0300 St.ok [] v ∧
          (∀ y, y ≠ x → v.ctx y = s.ctx y) ∧ v.mem = s.mem ∧ (let j := (v.ctx x).job
            j.member = (!bitAt a 3) ∧ j.spare = bitAt a 3 ∧ j.rank = rank ∧ j.table = table ∧ j.live = List.range n ∧ j.stride = stride ∧
            j.commitWait = (if wait = 0 then 1024 else wait) ∧ j.jver = 0 ∧ j.steps = [] ∧ j.epochs = [] ∧ j.committed = c.upd.step ∧
            j.mirror.fullDue = decide (stride ≠ 0) ∧ j.mirror.state = 0 ∧ j.commits = c.job.commits ∧ j.aborts = c.job.aborts))))) ∧
  (∀ (s : State) (r : Req) (u : UnitId) (a b st k : W64), s.asked r 0x0301 false adminClass u = true → reqArgs r 0x0301 = [a, b, st, k] →
    let x := fld a 2 0
    let n := fld a 32 16
    let c := s.ctx x
    fld a 15 3 = 0 → n ≠ 0 → k = 0#64 ∨ s.now < k.toNat → c.state ≠ .free → c.fastSpan b.toNat (2 * n) = true → s.mem.space.syn = [] →
    (c.busy = true → exec (.jobMembers r) s = answered r 0x0301 St.busy [] (s.taken r)) ∧
    (c.busy = false → exec (.jobMembers r) s = answered r 0x0301 St.accepted [] ((s.taken r).updJob x fun j => { j with staged := some {
      table := s.readTable b.toNat n, jver := fld a 63 33, atStep := st.toNat, atCount := k.toNat, by_ := (reqOf r 0x0301 u).ref } }))) ∧
  (∀ (s : State) (r : Req) (u : UnitId) (a cap bytes tab : W64), s.asked r 0x0302 false anyClass u = true → reqArgs r 0x0302 = [a, cap, bytes, tab] →
    let x := fld a 2 0
    let c := s.ctx x
    let spans := (List.range (fld a 7 4 + 1)).map fun i =>
      ((s.mem.space.word (tab.toNat / 8 + 2 * i)).toNat, (s.mem.space.word (tab.toNat / 8 + 2 * i + 1)).toNat)
    bitAt a 3 = false → fld a 63 8 = 0 → cap.toNat % 8 = 0 → tab.toNat % 8 = 0 → s.mem.space.syn = [] →
    (s.ctxNamed r.mb x = false → exec (.stepCapture r) s = answered r 0x0302 St.badContext [] (s.taken r)) ∧
    (s.ctxNamed r.mb x = true → c.fastSpan cap.toNat bytes.toNat = true → c.fastSpan tab.toNat (16 * (fld a 7 4 + 1)) = true →
      (∀ p ∈ spans, c.fastSpan p.1 p.2 = true) → exec (.stepCapture r) s = answered r 0x0302 St.accepted [] ((s.taken r).updJob x fun j =>
        { j with capture := some { addr := cap.toNat, bytes := bytes.toNat, spans := spans, by_ := (reqOf r 0x0302 u).ref } }))) ∧
  (∀ (s : State) (r : Req) (u : UnitId) (a cap tr : W64), s.asked r 0x0303 false anyClass u = true → reqArgs r 0x0303 = [a, cap, tr] →
    let x := fld a 2 0
    let c := s.ctx x
    let s' := s.taken r
    let d := s'.captured cap.toNat
    let base := c.fastBase * 0x200000
    let inside : Prop := c.fastSpan tr.toNat (16 * d.trace.length) = true ∧ ∀ e ∈ d.spans, c.fastSpan (base + e.1) (8 * e.2.length) = true
    let put := (s'.restoreSpans base d.spans).put (slotQueue x 0).1 (slotQueue x 0).2 (some x) Config.commandType.toNat d.stream
    fld a 63 3 = 0 → cap.toNat % 8 = 0 → tr.toNat % 8 = 0 → s.ctxNamed r.mb x = true → c.fastSpan cap.toNat 8 = true → s.mem.space.syn = [] →
    (c.busy = true ∨ c.job.replay.isSome = true → exec (.stepReplay r) s = answered r 0x0303 St.busy [] s') ∧
    (c.busy = false → c.job.replay = none → ¬ inside → exec (.stepReplay r) s = answered r 0x0303 St.memoryRange [] s') ∧
    (c.busy = false → c.job.replay = none → inside → put = none → exec (.stepReplay r) s = answered r 0x0303 St.noResource [] s') ∧
    (∀ v, c.busy = false → c.job.replay = none → inside → put = some v →
      ∃ q t p, exec (.stepReplay r) s = answered r 0x0303 St.accepted [] q ∧ ((q.ctx x).slot 0).streams = [t] ∧ t.words = d.stream ∧ t.replay = true ∧
        t.id = c.nextStream % 2 ^ 32 ∧ (q.ctx x).measured = d.measured ∧ (q.ctx x).job.replay = some p ∧ p.traceAddr = tr.toNat ∧ p.entry = 0 ∧
        p.mismatches = 0 ∧ p.version = d.version ∧ p.payloads = d.payloads ∧ p.trace = d.trace ∧ p.by_ = (reqOf r 0x0303 u).ref)) ∧
  (∀ (s : State) (x : Nat),
    (∀ p, (s.ctx x).job.replay = some p → (s.ctx x).busy = false → exec (.replayComplete x) s = .next ((s.updJob x fun j => { j with
      replay := none }).cmdEvent p.by_ (some x) { kind := 0x0308, detail := mkWord [(0, 32, p.mismatches), (32, 32, p.first)] })) ∧
    ((s.ctx x).job.replay = none ∨ (s.ctx x).busy = true → exec (.replayComplete x) s = .next s)) ∧
  (∀ (s : State) (r : Req) (u : UnitId) (a : W64) (path : List W64), s.asked r 0x0304 false adminClass u = true → reqArgs r 0x0304 = a :: path →
    let x := fld a 2 0
    let c := s.ctx x
    let s' := s.taken r
    path ≠ [] → bitAt a 3 = false → fld a 63 7 = 0 → argPathOk path = true →
    (s'.otherModule path = false → exec (.jobJoin r) s = answered r 0x0304 St.badPath [] s') ∧
    (s'.otherModule path = true → c.state ≠ .free → (c.busy = true ∨ c.job.transfer.isSome = true →
        exec (.jobJoin r) s = answered r 0x0304 St.busy [] s') ∧
      (c.busy = false → c.job.transfer = none → ∃ t, exec (.jobJoin r) s = .next t ∧ (t.ctx x).job.transfer = some {
          kind := .join, by_ := some (reqOf r 0x0304 u).ref, peer := path, chain := fld a 6 4 } ∧ t.nextFan = s'.nextFan + 1 ∧
        t.fans = s'.fans ++ [{ id := s'.nextFan, cmd := (reqOf r 0x0304 u).ref, composite := false, members := [path], started := s'.now }]))) ∧
  (∀ (s : State) (r : Req) (u : UnitId) (a : W64) (path : List W64), s.asked r 0x0305 false adminClass u = true → reqArgs r 0x0305 = a :: path →
    let x := fld a 2 0
    let c := s.ctx x
    let s' := s.taken r
    path ≠ [] → fld a 15 3 = 0 → fld a 63 33 = 0 → argPathOk path = true → s'.otherModule path = true → c.state ≠ .free →
    (c.job.spare = false → exec (.spareTakeover r) s = answered r 0x0305 St.notMember [] s') ∧
    (c.job.spare = true → c.busy = false → c.job.transfer = none → ∃ t, exec (.spareTakeover r) s = .next t ∧ t.nextFan = s'.nextFan + 1 ∧
      (t.ctx x).job.transfer = some { kind := .takeover, by_ := some (reqOf r 0x0305 u).ref, peer := path, rank := fld a 32 16 })) ∧
  (∀ (s : State) (r : Req) (u : UnitId) (a b : W64) (path : List W64), s.asked r 0x0306 false adminClass u = true →
    reqArgs r 0x0306 = a :: b :: path →
    let x := fld a 2 0
    let c := s.ctx x
    let s' := s.taken r
    path ≠ [] → bitAt a 3 = false → bitAt a 7 = false → fld a 63 24 = 0 → fld b 63 3 = 0 → argPathOk path = true → s'.otherModule path = true →
    (c.state = .free → exec (.decant r) s = answered r 0x0306 St.badContext [] s') ∧
    (c.state ≠ .free → (c.job.transfer.isSome = true → exec (.decant r) s = answered r 0x0306 St.busy [] s') ∧
      (c.job.transfer = none → ∃ t, exec (.decant r) s = .next t ∧ t.nextFan = s'.nextFan + 1 ∧ (t.ctx x).job.transfer = some {
        kind := .decantSource, by_ := some (reqOf r 0x0306 u).ref, parts := fld a 6 4, planeMask := fld a 23 8, peer := path
        targetCtx := fld b 2 0 }))) ∧
  (∀ (s : State) (r : Req) (u : UnitId) (dn : Nat), s.asked r 0x0307 false adminClass u = true → dn < 65536 → reqArgs r 0x0307 = [BitVec.ofNat 64 dn] →
    let g := s.members
    (dn = s.fabric.dn → (g.votedOut = false → exec (.readmit r) s = answered r 0x0307 St.votedOut [] (s.taken r)) ∧
      (g.votedOut = true → s.faults.blend.passedSinceExpulsion = false → exec (.readmit r) s = answered r 0x0307 St.blendRequired [] (s.taken r)) ∧
      (g.votedOut = true → s.faults.blend.passedSinceExpulsion = true → ∃ t, exec (.readmit r) s = answered r 0x0307 St.ok [] t ∧
        t.members = { g with votedOut := false, mver := (g.mver + 1) % 2 ^ 32, expelled := g.expelled.filter fun d => d ≠ dn })) ∧
    (dn ≠ s.fabric.dn → (dn ∉ g.expelled → exec (.readmit r) s = answered r 0x0307 St.votedOut [] (s.taken r)) ∧
      (dn ∈ g.expelled → ∃ t, exec (.readmit r) s = answered r 0x0307 St.ok [] t ∧ t.members.mver = (g.mver + 1) % 2 ^ 32 ∧
        t.members.expelled = (g.expelled.filter fun d => d ≠ dn) ∧
        ∀ l, (t.link l).jobTraffic = ((s.link l).jobTraffic || (((s.taken r).fabric.links.find l).isSome &&
          decide ((s.link l).nbDn = dn) && decide ((s.link l).state = .trained)))))) ∧
  (∀ (s : State) (r : Req) (u : UnitId) (th per : Nat), s.asked r 0x0308 false adminClass u = true → th < 256 → per < 256 →
    reqArgs r 0x0308 = [BitVec.ofNat 64 (th + 256 * per)] → ∃ t, exec (.healthConfig r) s = answered r 0x0308 St.accepted [] t ∧
      t.members = { s.members with configDue := some (s.now + 8, th, per, some (reqOf r 0x0308 u).ref) }) ∧
  (∀ (s : State) (x : Nat), (∀ t, (s.ctx x).job.transfer = some t → t.whole = true → let step := match t.head with
      | some h => (h.getD 2 0#64).toNat
      | none => (s.ctx x).upd.step
    (t.kind = .join → ∃ v w : State, exec (.joinComplete x) s = .next v ∧ (v.ctx x).job.transfer = none ∧ (w.ctx x).upd.step = step ∧
      (v.ctx x).upd = (w.ctx x).upd ∧ (v.ctx x).historyValid = false ∧
      v = match t.by_ with
        | some r => w.cmdEvent r (some x) { kind := 0x0305, detail := BitVec.ofNat 64 step }
        | none => w.event x { kind := 0x0305, detail := BitVec.ofNat 64 step }) ∧
    (t.kind = .takeover → ∃ v w : State, exec (.takeoverComplete x) s = .next v ∧ (v.ctx x).job.transfer = none ∧ (w.ctx x).upd.step = step ∧
      (v.ctx x).upd = (w.ctx x).upd ∧ (v.ctx x).job.mirror.state = 0 ∧ v = match t.by_ with
        | some r => w.cmdEvent r (some x) { kind := 0x0304, detail := BitVec.ofNat 64 step }
        | none => w.event x { kind := 0x0304, detail := BitVec.ofNat 64 step }) ∧
    (t.kind = .decantTarget → ∃ v, exec (.decantComplete x) s = .next v ∧ (v.ctx x).job.transfer = none ∧ (v.ctx x).upd.step = step)) ∧
    ((s.ctx x).job.transfer = none → exec (.joinComplete x) s = .next s ∧ exec (.takeoverComplete x) s = .next s ∧
      exec (.decantComplete x) s = .next s)) ∧
  (∀ (s : State) (p : Pkt), s.isEarly (fld p.route 63 48) = false → (fld p.route 15 8 ≠ 4 → exec (.mirrorPacket p) s = .next s) ∧ (fld p.route 15 8 ≠ 5 → exec (.decantPacket p) s = .next s) ∧
    (fld p.route 15 8 ≠ 3 → exec (.infuserPacket p) s = .next s)) ∧
  (∀ (s : State) (p : Pkt) (c : Instr), c ∈ [Instr.mirrorPacket p, .decantPacket p, .infuserPacket p] → s.isEarly (fld p.route 63 48) = true →
    exec c s = .next { s with early := s.early ++ [(s.now + 1, .packet (fld p.route 15 8) p)] }) ∧
  (∀ (s : State) (p : Pkt) (x : Nat) (t : Transfer), s.isEarly (fld p.route 63 48) = false → fld p.route 15 8 = 5 → let s' := s.tookPacket 0x05 p.body
    let w := p.body.getD 0 0#64
    let ws := p.body.drop 2
    s'.shuns (fld p.route 47 32) = false → fld w 10 8 = x → (s'.ctx x).job.transfer = some t → t.kind ≠ .decantSource →
    let same : Prop := t.packets ≠ 0 ∧ t.stream = fld w 31 16
    let key := (fld w 7 0, (p.body.getD 1 0#64).toNat)
    (same → key ∈ t.keys → exec (.decantPacket p) s = .next s') ∧
    ((same → key ∉ t.keys) → ∃ v q, exec (.decantPacket p) s = .next v ∧ (v.ctx x).job.transfer = some q ∧ q.kind = t.kind ∧
      (if t.packets = 0 ∨ t.stream ≠ fld w 31 16 then q.packets = fld w 63 32 ∧ q.taken = 1 ∧ q.bytes = 8 * ws.length
        else q.packets = t.packets ∧ q.taken = t.taken + 1 ∧ q.bytes = t.bytes + 8 * ws.length))) ∧
  (∀ (s : State) (p : Pkt) (x : Nat), s.isEarly (fld p.route 63 48) = false → fld p.route 15 8 = 4 → let s' := s.tookPacket 0x04 p.body
    let w := p.body.getD 0 0#64
    let src := fld p.route 47 32
    let a := (p.body.getD 1 0#64).toNat
    s'.shuns src = false →
    (fld w 47 0 = 0xFFFFFFFFFFFE → s'.mirrorCtx (fld p.route 18 16) src Job.buddyDn = some x → exec (.mirrorPacket p) s =
      .next (s'.updJob x fun j => { j with mirror := { j.mirror with resend := addOnce j.mirror.resend a } })) ∧
    (fld w 47 0 < 0xFFFFFFFF0000 → s'.mirrorCtx (fld p.route 18 16) src Job.sourceDn = some x → (s'.ctx x).slowSpan (fld w 47 0 / 8192 * 8192) 8192 = true →
      ((s'.ctx x).job.mirror.tag = fld w 63 48 → fld w 47 0 ∉ (s'.ctx x).job.mirror.seen) →
      s'.fencedUnit (.caddy (caddyOf (fld w 47 0))) = false → p.body.length = 1025 → s'.mem.space.syn = [] →
      s'.mem.injArm = false → ∃ v, exec (.mirrorPacket p) s = .next v ∧
        ∀ i, i < 1024 → v.mem.space.word ((fld w 47 0 / 8192 * 8192 + (mirrorBase - ownBase)) / 8 + i) = p.body.getD (i + 1) 0#64) ∧
    (s'.mirrorCtx (fld p.route 18 16) src Job.sourceDn = none → fld w 47 0 < 0xFFFFFFFF0000 → exec (.mirrorPacket p) s = .next s'))

/-- A boot stage that completes extends the slots of what it loaded, takes the other bank when the first is malformed, and
recovery when both are; stage 1 waits while a memory part still trains; a held reset completes nothing. ATTEST_REPORT
writes the report and its signature, CERT_READ a certificate, FW_WRITE bytes of a bank that neither runs nor is named,
FW_ACTIVATE the selector, CONFIG_WRITE the staged record; without Bus Master Enable each is HOST_ACCESS. KEY_LIST
lists the handles that its mailbox may see, KEY_DESTROY erases one entry, KEY_DELIVER installs one whose handle then
resolves. SPDM requests are answered once their path is up; KEY_EXCHANGE opens a session up to 8 and never without an
identity, HEARTBEAT refreshes it, END_SESSION and 60 s without a heartbeat end it, IDE_KM gives the link its key.
(R741, R742, R744, R749, R752, R753, R756, R757, R760, R761, R762, R764) -/
def Obligations.BootMeasuresAndTrustCommandsAnswer : Prop :=
  (∀ (s : State) (b : BootLoad), let g := s.trust
    (s.host.resetHeld = true ∨ s.power.off = true ∨ s.power.refLost = true → exec (.bootStageComplete b) s = .next s) ∧
    (s.host.resetHeld = false → s.power.off = false → s.power.refLost = false →
      (g.stage = 0 → s.power.tripHold = false →
        (b.firstOk = true ∨ b.otherOk = true → ∃ t, exec (.bootStageComplete b) s = .next t ∧ t.trust.stage = 1 ∧
          t.trust.bootCount = g.bootCount + 1 ∧ t.trust.bank = (if b.firstOk = true then g.nextBank else 1 - g.nextBank) ∧ t.trust.seed = b.seed ∧
          t.trust.slot 0 = (sha512 (zeros64 ++ Config.romDigest), 1) ∧ t.trust.slot 1 = (sha512 (zeros64 ++ b.digests.getD 0 zeros64), 1) ∧
          (∀ i, 2 ≤ i → t.trust.slot i = (zeros64, 0)) ∧ (t.queue 0 0x180).enabled = true) ∧
        (b.firstOk = false → b.otherOk = false → ∃ t, exec (.bootStageComplete b) s = .next t ∧ t.trust.stage = 0xFE ∧ t.host.alertOos = true ∧
          (t.queue 0 0x100).enabled = true)) ∧
      (g.stage = 1 → s.mem.settled = false → exec (.bootStageComplete b) s = .next s) ∧
      (g.stage = 1 → s.mem.settled = true → b.firstOk = true ∨ b.otherOk = true → ∃ t, exec (.bootStageComplete b) s = .next t ∧ t.trust.stage = 2 ∧
        t.trust.fallbacks = g.fallbacks + (if b.firstOk = true then 0 else 1) ∧ t.trust.staged = none ∧
        t.trust.config = (if g.staged.isSome = true ∧ recSeq g.config < recSeq g.staged then g.staged else g.config) ∧ t.host.pldmReady = true ∧
        (∀ i d, (i, d) ∈ [(2, b.digests.getD 0 zeros64), (3, b.digests.getD 1 zeros64), (4, sha512 (t.trust.config.getD [])),
            (5, b.digests.getD 2 zeros64), (6, Config.vendorDigest)] → t.trust.slot i = (sha512 ((g.slot i).1 ++ d), (g.slot i).2 + 1)) ∧
        ∀ i, i < 2 ∨ 6 < i → t.trust.slot i = g.slot i) ∧
      (g.stage = 1 → s.mem.settled = true → b.firstOk = false → b.otherOk = false → ∃ t, exec (.bootStageComplete b) s = .next t ∧ t.trust.stage = 0xFE ∧
        t.host.alertOos = true) ∧
      (g.stage = 2 → ∃ t, exec (.bootStageComplete b) s = .next t ∧ t.trust.stage = 0x0F ∧
        t.trust.slot 7 = (sha512 ((g.slot 7).1 ++ Config.calibrationDigest), (g.slot 7).2 + 1) ∧ (∀ k, (t.core k).store.cells = []) ∧
        ∀ mb, mb < 32 → (t.queue 0 (0x100 + 2 * mb)).enabled = true ∧ (t.queue 0 (0x101 + 2 * mb)).enabled = true))) ∧
  (∀ (s : State) (r : Req) (u : UnitId) (n0 n1 n2 n3 a : W64) (ws : List W64), s.asked r 0x0600 false anyClass u = true →
    reqArgs r 0x0600 = [n0, n1, n2, n3, a] → let g := s.trust
    let body := (s.taken r).reportBody [n0, n1, n2, n3]
    (s.host.busMaster.contains (s.owner r.mb) = false → exec (.attestReport r (.ok ws)) s = answered r 0x0600 St.hostAccess [] (s.taken r)) ∧
    (s.host.busMaster.contains (s.owner r.mb) = true →
      exec (.attestReport r (.ok ws)) s = answered r 0x0600 St.ok [] ((s.taken r).emit (.hostWrite a.toNat (body ++ g.sign body))) ∧
      (g.seed = none → g.sign body = List.replicate 132 0#8) ∧
      ((∀ i, i < 9 → (g.slot i).1.length = 64) → g.identity.length = 64 → body.length = 768 ∧
        (∀ i, i < 9 → (body.drop (112 + 72 * i)).take 64 = (g.slot i).1) ∧ (body.drop 48).take 64 = g.identity ∧
        (body.drop 16).take 8 = wordBytes n0 ∧ body.take 4 = [1#8, 0#8, s.host.revision, 9#8]))) ∧
  (∀ (s : State) (r : Req) (u : UnitId) (i a n : W64) (ws : List W64), s.asked r 0x0601 false anyClass u = true → reqArgs r 0x0601 = [i, a, n] →
    fld i 63 2 = 0 → s.host.busMaster.contains (s.owner r.mb) = true → let c := (Config.certificate (fld i 1 0)).take n.toNat
    exec (.certRead r (.ok ws)) s = answered r 0x0601 St.ok [BitVec.ofNat 64 c.length] ((s.taken r).emit (.hostWrite a.toNat c)) ∧ c.length ≤ n.toNat) ∧
  (∀ (s : State) (r : Req) (u : UnitId) (b off n : Nat) (a : W64) (ws : List W64), s.asked r 0x0605 false adminClass u = true → b < 2 → off < 2 ^ 32 →
    n < 2 ^ 32 → reqArgs r 0x0605 = [mkWord [(0, 1, b), (32, 32, off)], a, BitVec.ofNat 64 n] → let g := s.trust
    (b = g.bank ∨ b = g.nextBank → exec (.fwWrite r (.ok ws)) s = answered r 0x0605 St.bankActive [] (s.taken r)) ∧
    (b ≠ g.bank → b ≠ g.nextBank → (0x4000000 < off + n → exec (.fwWrite r (.ok ws)) s = answered r 0x0605 St.fwImage [] (s.taken r)) ∧
      (off + n ≤ 0x4000000 → s.host.busMaster.contains (s.owner r.mb) = true → ∃ t, exec (.fwWrite r (.ok ws)) s = answered r 0x0605 St.ok [] t ∧
        (∀ i, i < n → i < 8 * ws.length → t.trust.banks.byte (b * 0x4000000 + off + i) = (ws.flatMap wordBytes).getD i 0#8) ∧
        (∀ k, ¬ within (b * 0x4000000 + off) n k → t.trust.banks.byte k = g.banks.byte k) ∧ t.trust.nextBank = g.nextBank))) ∧
  (∀ (s : State) (r : Req) (u : UnitId) (b : Nat), s.asked r 0x0606 false adminClass u = true → b < 2 → reqArgs r 0x0606 = [BitVec.ofNat 64 b] →
    exec (.fwActivate r) s = answered r 0x0606 St.ok [] { s.taken r with trust := { s.trust with nextBank := b } }) ∧
  (∀ (s : State) (r : Req) (u : UnitId) (a : W64) (ws : List W64), s.asked r 0x0607 false adminClass u = true → reqArgs r 0x0607 = [a] →
    (s.host.busMaster.contains (s.owner r.mb) = true → exec (.configWrite r (.ok ws)) s = answered r 0x0607 St.ok [] { s.taken r with
      trust := { s.trust with staged := some ((ws.flatMap wordBytes).take 236) } }) ∧
    (s.host.busMaster.contains (s.owner r.mb) = false → exec (.configWrite r (.ok ws)) s = answered r 0x0607 St.hostAccess [] (s.taken r))) ∧
  (∀ (s : State) (r : Req) (u : UnitId), s.asked r 0x0603 false anyClass u = true → reqArgs r 0x0603 = [] → ∃ (l : List Nat) (reply : List W64),
    exec (.keyList r) s = answered r 0x0603 St.ok (BitVec.ofNat 64 l.length :: reply) (s.taken r) ∧
    (∀ h, h ∈ l ↔ ∃ i e, i < 64 ∧ s.trust.keys.find i = some e ∧ h = handleOf e i ∧ (s.isAdmin r.mb = true ∨ (e.kind = 1 ∧ e.ctx = r.mb / 4))) ∧
    ∀ n, n < l.length → n < 56 → fld (reply.getD (n / 2) 0#64) (32 * (n % 2) + 31) (32 * (n % 2)) = l.getD n 0 % 2 ^ 32) ∧
  (∀ (s : State) (r : Req) (u : UnitId) (h : Nat), s.asked r 0x0604 false anyClass u = true → h < 2 ^ 32 → reqArgs r 0x0604 = [BitVec.ofNat 64 h] →
    (s.isAdmin r.mb = false → h / 0x1000000 ≠ 1 ∨ h / 0x200000 % 8 ≠ r.mb / 4 → exec (.keyDestroy r) s = answered r 0x0604 St.notAdmin [] (s.taken r)) ∧
    (s.isAdmin r.mb = true ∨ (h / 0x1000000 = 1 ∧ h / 0x200000 % 8 = r.mb / 4) →
      (s.trust.resolve h = none → exec (.keyDestroy r) s = answered r 0x0604 St.keyUnknown [] (s.taken r)) ∧
      (s.trust.resolve h ≠ none → s.modelUses h = true → exec (.keyDestroy r) s = answered r 0x0604 St.keyInUse [] (s.taken r)) ∧
      (∀ i e, s.trust.resolve h = some (i, e) → s.modelUses h = false → ∃ t, exec (.keyDestroy r) s = answered r 0x0604 St.ok [] t ∧
        t.trust.resolve h = none ∧ ∀ j, j ≠ i → t.trust.keys.find j = s.trust.keys.find j))) ∧
  handleOf { kind := 1, ctx := 2, gen := 5, key := [] } 17 = 0x01400151 ∧
  (∀ (s : State) (oob : Bool) (a b n : Nat) (ns key : List W64) (d : KeyDelivery) (go : Bool) (c : Instr), c ∈ [Instr.spdmGetCertificate oob a b n,
      .spdmChallenge oob ns, .spdmGetMeasurements oob a ns, .spdmKeyExchange oob go, .spdmHeartbeat oob a, .spdmEndSession oob a, .keyDeliver oob a d,
      .ideKm oob a key go] → s.spdmUp oob = false → exec c s = .next s) ∧
  (∀ (s : State) (r : Req) (u : UnitId) (a b d e : W64) (ws : List W64), s.asked r 0x0602 false anyClass u = true → reqArgs r 0x0602 = [a, b, d, e] →
    fld a 63 16 = 0 → fld e 63 16 = 0 → (s.trust.seed = none → exec (.spdmTransfer r (.ok ws)) s = answered r 0x0602 St.noIdentity [] (s.taken r)) ∧
    (s.trust.seed ≠ none → s.host.busMaster.contains (s.owner r.mb) = true →
      let bs := (((s.trust.reply.getD (Config.spdmMessage 0x7F ws)).flatMap wordBytes).take (fld e 15 0))
      exec (.spdmTransfer r (.ok ws)) s = answered r 0x0602 St.ok [BitVec.ofNat 64 bs.length]
        (({ s.taken r with trust := { s.trust with reply := none } } : State).emit (.hostWrite d.toNat bs)))) ∧
  (∀ (s : State) (oob : Bool), s.spdmUp oob = true → let g := s.trust
    (∀ i off n, i < 4 → exec (.spdmGetCertificate oob i off n) s =
      .next (s.spdmReply oob 0x02 (digestWords (((Config.certificate i).drop off).take n)))) ∧
    (∀ ns, let body := ns ++ digestWords (sha512 ((List.range 9).flatMap fun i => (g.slot i).1))
      exec (.spdmChallenge oob ns) s = .next (s.spdmReply oob 0x03 (body ++ digestWords (g.sign (body.flatMap wordBytes))))) ∧
    (∀ ns i, i < 9 → let body := ns ++ BitVec.ofNat 64 (i + 1) :: digestWords (g.slot i).1
      exec (.spdmGetMeasurements oob (i + 1) ns) s = .next (s.spdmReply oob 0x60 (body ++ digestWords (g.sign (body.flatMap wordBytes))))) ∧
    (∀ all, (g.seed = none ∨ 8 ≤ g.sessions.length → exec (.spdmKeyExchange oob all) s = .next (s.spdmReply oob 0x7F [])) ∧
      (g.seed ≠ none → g.sessions.length < 8 → ∃ t, exec (.spdmKeyExchange oob all) s = .next t ∧ t.trust.nextSession = g.nextSession + 1 ∧
        t.trust.sessions = g.sessions ++ [{ id := g.nextSession, summary := all, oob := oob, beat := s.steep.ticks }])) ∧
    (∀ id, ((∀ x ∈ g.sessions, x.id ≠ id) → ∀ d key go, exec (.spdmHeartbeat oob id) s = .next (s.spdmReply oob 0x7F []) ∧
        exec (.spdmEndSession oob id) s = .next (s.spdmReply oob 0x7F []) ∧ exec (.keyDeliver oob id d) s = .next (s.spdmReply oob 0x7F []) ∧
        exec (.ideKm oob id key go) s = .next (s.spdmReply oob 0x7F [])) ∧
      ((∃ x ∈ g.sessions, x.id = id) → (∃ t, exec (.spdmHeartbeat oob id) s = .next t ∧ t.trust.keys = g.keys ∧
          t.trust.sessions = g.sessions.map fun x => if x.id = id then { x with beat := s.steep.ticks } else x) ∧
        (∃ t, exec (.spdmEndSession oob id) s = .next t ∧ t.trust.keys = g.keys ∧ t.trust.sessions = g.sessions.filter fun x => x.id ≠ id) ∧
        (∀ key go, ∃ t, exec (.ideKm oob id key go) s = .next t ∧ t.trust.ideKey = some key ∧ t.host.ideActive = go)) ∧
      ((∃ x ∈ g.sessions, x.id = id ∧ x.summary = true) → ∀ d, (d.kind = 1 ∧ d.ctx ≤ 7) ∨ (d.kind = 2 ∧ d.ctx = 0) → d.reserved = 0 → d.key.length = 4 →
        (g.freeEntry = none → ∃ t, exec (.keyDeliver oob id d) s = .next t ∧ t.trust.keys = g.keys) ∧
        (∀ i, g.freeEntry = some i → ∃ t e, exec (.keyDeliver oob id d) s = .next t ∧
          e = { kind := d.kind, ctx := d.ctx, gen := g.nextGen i, key := d.key } ∧ t.trust.resolve (handleOf e i) = some (i, e) ∧
          t.trust.gens.get 0 i = g.nextGen i ∧ (∀ j, j ≠ i → t.trust.keys.find j = g.keys.find j))))) ∧
  (∀ (s : State) (id : Nat), ((∃ x ∈ s.trust.sessions, x.id = id ∧ x.beat + 6000000000 ≤ s.steep.ticks) → exec (.spdmSessionTimeout id) s =
      .next { s with trust := { s.trust with sessions := s.trust.sessions.filter fun x => x.id ≠ id } }) ∧
    ((∀ x ∈ s.trust.sessions, x.id = id → s.steep.ticks < x.beat + 6000000000) → exec (.spdmSessionTimeout id) s = .next s))

/-- MODEL_DEFINE and MODEL_RELEASE set and free a slot. INF_LOAD writes the shards named and no other byte, or waits for
the chain's packets; INF_GATE begins a pass with the version the wave sets or ends a stream out of order; INF_DROP
marks its pass. REPLACE_START makes a READY model REPLACING; RESUME and ROLLBACK act on a MIXED one; any other state
is MODEL_STATE. A complete shard is marked and written to its buffer; a shard overdue is asked again until its retries
are spent, which makes the model MIXED; a copied layer moves FRONT, and the last one makes the model READY with one
version. An infuser packet is written to its load or wave, and one of none, or taken before, is only counted.
KV_CONFIG sets an empty pool; KV_JOIN, KV_GROW and KV_LEAVE are held for the boundary in the order handled, or refused
with KV_RANGE (KV_JOIN of a slot not free and KV_GROW of one that holds none: log 90; a shard asked for by kettle
packet: log 50). (R706, R713, R714, R718, R719, R720, R722, R724, R727, R729, R730, R731) -/
def Obligations.ModelsLoadServeAndAreReplaced : Prop :=
  (∀ (s : State) (r : Req) (u : UnitId) (a tab stg nonce : W64), s.asked r 0x0500 false anyClass u = true → reqArgs r 0x0500 = [a, tab, stg, nonce] →
    let x := fld a 2 0
    let m := fld a 5 4
    let c := s.ctx x
    let md : Model := {
      state := .empty, streamed := bitAt a 6, layers := fld a 17 8, tableAddr := tab.toNat, stageAddr := stg.toNat, key := fld a 63 32
      nonce := nonce.toNat }
    s.mem.space.syn = [] → bitAt a 3 = false → bitAt a 7 = false → fld a 31 18 = 0 → fld a 17 8 ≠ 0 → tab.toNat % 8 = 0 → stg.toNat % 8 = 0 → s.ctxNamed r.mb x = true →
    c.fastSpan tab.toNat (16 * fld a 17 8) = true → c.fastSpan stg.toNat (2 * s.bufferBytes md) = true →
    (∀ l, l < fld a 17 8 → (s.layerEntry md l).1 % 8 = 0 ∧ (s.layerEntry md l).2 % 4096 = 0 ∧
      c.fastSpan (s.layerEntry md l).1 (s.layerEntry md l).2 = true) →
    ((c.model m).state ≠ .free → exec (.modelDefine r) s = answered r 0x0500 St.modelState [] (s.taken r)) ∧
    ((c.model m).state = .free → (fld a 63 32 = 0 ∨ ∃ i e, s.trust.resolve (fld a 63 32) = some (i, e) ∧ e.kind = 1 ∧ e.ctx = x) →
      exec (.modelDefine r) s = answered r 0x0500 St.ok [] ((s.taken r).updModel x m fun _ => md)) ∧
    ((c.model m).state = .free → fld a 63 32 ≠ 0 → s.trust.resolve (fld a 63 32) = none →
      exec (.modelDefine r) s = answered r 0x0500 St.modelKey [] (s.taken r))) ∧
  (∀ (s : State) (r : Req) (u : UnitId) (x m : Nat), s.asked r 0x0501 false anyClass u = true → x < 8 → m < 4 →
    reqArgs r 0x0501 = [mkWord [(0, 3, x), (4, 2, m)]] →
    (s.ctxNamed r.mb x = false → exec (.modelRelease r) s = answered r 0x0501 St.badContext [] (s.taken r)) ∧
    (s.ctxNamed r.mb x = true → ((s.ctx x).model m).state = .free → exec (.modelRelease r) s = answered r 0x0501 St.modelState [] (s.taken r)) ∧
    (s.ctxNamed r.mb x = true → ((s.ctx x).model m).state ≠ .free → ∃ v, exec (.modelRelease r) s = answered r 0x0501 St.ok [] v ∧
      ((v.ctx x).model m).state = .free ∧ ((v.ctx x).model m).passes = [] ∧ (∀ n, n ≠ m → (v.ctx x).model n = (s.ctx x).model n) ∧
      v.loads = (s.loads.filter fun l => ¬ (l.ctx = x ∧ l.model = m)) ∧ v.mem = s.mem)) ∧
  (∀ (s : State) (x slot : Nat) (cmd : List W64) (host : HostRead) (t : Stream) (rest : List Stream),
    ((s.ctx x).slot slot).streams = t :: rest → t.running.isSome = true → Cmd.op cmd = 0x60 → t.nextIn cmd = some 3 → s.mem.space.syn = [] →
    let s0 := s.updStream x slot fun t => t.took 3 cmd
    let w := Cmd.w cmd 0
    let md := (s.ctx x).model (fld w 17 16)
    let l := fld w 31 22
    let first := fld w 47 32
    let count := fld w 63 48
    let bytes := (s.layerEntry md l).2
    let n := min (4194304 * count) (bytes - 4194304 * first)
    let base := if bitAt w 20 = false then (s.layerEntry md l).1 else s.bufferAt md (fld w 21 21)
    let src := (Cmd.w cmd 2).toNat + (s.layerOffset md l + 4194304 * first)
    (s.enginesFenced = true → exec (.infLoad x slot cmd host) s = .next (s0.failSlot x slot St.unitFenced)) ∧
    (s.enginesFenced = false → (md.state = .free ∨ md.layers ≤ l ∨ shardsIn bytes < first + count →
        exec (.infLoad x slot cmd host) s = .next (s0.failSlot x slot St.modelState)) ∧
      (bitAt w 20 = false → md.state ≠ .empty → md.state ≠ .ready ∨ md.passes ≠ [] →
        exec (.infLoad x slot cmd host) s = .next (s0.failSlot x slot St.modelState)) ∧
      (md.state ≠ .free → bitAt w 20 = true ∨ md.state = .empty ∨ (md.state = .ready ∧ md.passes = []) → l < md.layers → first + count ≤ shardsIn bytes →
        (fld w 19 18 = 1 → ∃ v ld, exec (.infLoad x slot cmd host) s = .next v ∧ v = { s0 with loads := s.loads ++ [ld] } ∧ ld.ctx = x ∧ ld.slot = slot ∧
          ld.loadId = fld (Cmd.w cmd 3) 63 32 ∧ ld.layer = l ∧ ld.streamId = t.id ∧ ld.shards.map (fun h => h.index) = (List.range count).map (first + ·)) ∧
        (fld w 19 18 = 0 → s.host.busMaster.contains (s.owner (4 * x)) = true → ∀ ws, host = .ok ws → ws.length = n / 8 → bytes % 8 = 0 → base % 8 = 0 →
          md.key = 0 → s.mem.injArm = false → ∃ v, exec (.infLoad x slot cmd host) s = .next v ∧
          (∀ i, i < n / 8 → v.mem.space.word ((base + 4194304 * first) / 8 + i) = ws.getD i 0#64) ∧
          ∀ k, ¬ within (base + 4194304 * first) n k → v.mem.space.byte k = s.mem.space.byte k) ∧
        (fld w 19 18 = 2 → bytes % 8 = 0 → base % 8 = 0 → md.key = 0 → s.mem.injArm = false → ∃ v,
          exec (.infLoad x slot cmd host) s = .next v ∧
          (∀ i, i < n / 8 → v.mem.space.word ((base + 4194304 * first) / 8 + i) = s.mem.space.word (src / 8 + i)) ∧
          ∀ k, ¬ within (base + 4194304 * first) n k → v.mem.space.byte k = s.mem.space.byte k) ∧
        (∀ kind, fld w 19 18 = 0 → s.host.busMaster.contains (s.owner (4 * x)) = true → host = .fail kind →
          let f := s0.dmaFault x (s.owner (4 * x)) src kind false 0x60
          ∃ ld, exec (.infLoad x slot cmd host) s = .next { f with loads := f.loads ++ [ld] } ∧ ld.ctx = x ∧ ld.slot = slot ∧ ld.source = 0 ∧
            ld.shards.map (fun h => h.index) = (List.range count).map (first + ·)) ∧
        (fld w 19 18 = 0 → s.host.busMaster.contains (s.owner (4 * x)) = false →
          exec (.infLoad x slot cmd host) s = .next (s0.failSlot x slot St.hostAccess))))) ∧
  (∀ (s : State) (x slot : Nat) (cmd : List W64) (t : Stream) (rest : List Stream), ((s.ctx x).slot slot).streams = t :: rest → t.running = none →
    ((s.ctx x).slot slot).held = false → Cmd.op cmd = 0x61 → ((t.slice t.done).any fun g => g.kind = 3 && g.cmds.contains cmd) = true →
    let w := Cmd.w cmd 0
    let m := fld w 17 16
    let md := (s.ctx x).model m
    (md.state = .free ∨ md.streamed = true → exec (.infGate x slot cmd) s = .next (s.endStream x slot St.modelState)) ∧
    (md.state ≠ .free → md.streamed = false → md.layers < fld w 41 32 + fld w 51 42 →
      exec (.infGate x slot cmd) s = .next (s.endStream x slot St.passOrder)) ∧
    (md.state ≠ .free → md.streamed = false → fld w 41 32 + fld w 51 42 ≤ md.layers →
      (∀ p, md.passes.find (fld w 25 18) = some p → p.aborted = false →
        (p.nextLayer ≠ fld w 41 32 → exec (.infGate x slot cmd) s = .next (s.endStream x slot St.passOrder)) ∧
        (p.nextLayer = fld w 41 32 → exec (.infGate x slot cmd) s = .next s)) ∧
      (∀ p, md.passes.find (fld w 25 18) = some p → p.aborted = true → exec (.infGate x slot cmd) s =
        .next ((s.updModel x m fun md => { md with passes := md.passes.drop (fld w 25 18) }).endStream x slot St.passAborted)) ∧
      (md.passes.find (fld w 25 18) = none →
        (fld w 41 32 ≠ 0 → exec (.infGate x slot cmd) s = .next (s.endStream x slot St.passOrder)) ∧
        (fld w 41 32 = 0 → ∃ v, exec (.infGate x slot cmd) s = .next v ∧
          ((v.ctx x).model m).passes.find (fld w 25 18) = some {
            version := if md.wave.any (fun w => w.rollback) = true then md.oldVersion else md.newVersion, nextLayer := 0 } ∧
          ∀ k, k ≠ fld w 25 18 → ((v.ctx x).model m).passes.find k = md.passes.find k)))) ∧
  (∀ (s : State) (x slot : Nat) (cmd : List W64) (t : Stream) (rest : List Stream), ((s.ctx x).slot slot).streams = t :: rest →
    (t.running.isSome = true → Cmd.op cmd = 0x62 → t.nextIn cmd = some 3 → ∃ v, exec (.infDrop x slot cmd) s = .next v ∧
      ((v.ctx x).slot slot).streams = { t.took 3 cmd with drops := t.drops ++ [(fld (Cmd.w cmd 0) 17 16, fld (Cmd.w cmd 0) 25 18)] } :: rest ∧
      (v.ctx x).models = (s.ctx x).models) ∧
    (t.running = none ∨ Cmd.op cmd ≠ 0x62 ∨ t.nextIn cmd ≠ some 3 → exec (.infDrop x slot cmd) s = .next s)) ∧
  (∀ (s : State) (r : Req) (u : UnitId) (a src hst nonce e : W64) (code : Nat) (c : Instr) (want : ModelState), (code, c, want) ∈ [(0x0502,
      Instr.replaceStart r, ModelState.ready), (0x0503, .replaceResume r, .mixed), (0x0504, .replaceRollback r, .mixed)] →
    s.asked r code false anyClass u = true → reqArgs r code = [a, src, hst, nonce, e] → s.mem.space.syn = [] →
    let x := fld a 2 0
    let m := fld a 5 4
    let md := (s.ctx x).model m
    bitAt a 3 = false → fld a 7 6 = 0 → fld a 11 10 = 0 → bitAt a 15 = false → fld a 31 19 = 0 → fld e 63 24 = 0 → fld a 9 8 ≠ 3 →
    (s.ctxNamed r.mb x = false → exec c s = answered r code St.badContext [] (s.taken r)) ∧
    (s.ctxNamed r.mb x = true → (fld a 9 8 = 2 → (s.ctx (fld a 18 16)).state ≠ .free ∧ (s.ctx (fld a 18 16)).jobId = (s.ctx x).jobId ∧
        (s.ctx (fld a 18 16)).fastSpan src.toNat (s.layerOffset md md.layers) = true) →
      (md.state ≠ want ∨ md.streamed = true → exec c s = answered r code St.modelState [] (s.taken r)) ∧
      (md.state = want → md.streamed = false → (∃ v, exec c s = answered r code St.accepted [] v ∧ v.mem = s.mem ∧
          ∀ n, n ≠ m → (v.ctx x).model n = (s.ctx x).model n) ∧
        (code = 0x0502 → ∃ v w, exec c s = answered r code St.accepted [] v ∧ ((v.ctx x).model m).state = .replacing ∧
          ((v.ctx x).model m).newVersion = (md.oldVersion + 1) % 256 ∧ ((v.ctx x).model m).front = 0 ∧ ((v.ctx x).model m).wave = some w ∧
          w.source = fld a 9 8 ∧ w.srcAddr = src.toNat ∧ w.timeout = (if fld e 7 0 = 0 then 2 else fld e 7 0) ∧ w.rollback = false) ∧
        (∀ old, code = 0x0503 → md.wave = some old → ∃ v w, exec c s = answered r code St.accepted [] v ∧ ((v.ctx x).model m).state = .replacing ∧
          ((v.ctx x).model m).front = md.front ∧ ((v.ctx x).model m).wave = some w ∧ w.source = fld a 9 8 ∧ w.rollback = old.rollback ∧
          ∀ h ∈ w.shards, h.complete = false → h.upTries = 0 ∧ h.hostTries = 0) ∧
        (code = 0x0504 → ∃ v, exec c s = answered r code St.accepted [] v ∧
          (md.front = 0 → ((v.ctx x).model m).state = .ready ∧ ((v.ctx x).model m).wave = none ∧ ((v.ctx x).model m).newVersion = md.oldVersion) ∧
          (md.front ≠ 0 → ((v.ctx x).model m).state = .replacing ∧ ∃ w, ((v.ctx x).model m).wave = some w ∧ w.rollback = true ∧ w.origin = md.front) ∧
          ∀ n p, md.passes.find n = some p → ((v.ctx x).model m).passes.find n = some (if p.version ≠ md.newVersion then p
            else if p.nextLayer = 0 then { p with version := md.oldVersion } else { p with aborted := true }))))) ∧
  (∀ (s : State) (x m l j : Nat) (host : HostRead) (w : Wave) (h : Shard), let md := (s.ctx x).model m
    md.wave = some w → (w.shards.find? fun q => q.layer == l && q.index == j && !q.complete) = some h →
    (w.source = 1 → s.shardWhole md h = true → s.mem.space.syn = [] → ∃ v w', exec (.shardComplete x m l j host) s = .next v ∧ ((v.ctx x).model m).wave = some w' ∧
      (∃ q ∈ w'.shards, q.layer = l ∧ q.index = j ∧ q.complete = true) ∧ v.mem = s.mem) ∧
    (w.source = 1 → s.shardWhole md h = false → h.hostTries = 0 → exec (.shardComplete x m l j host) s = .next s) ∧
    (∀ ws, w.source = 0 → s.host.busMaster.contains (s.owner (4 * x)) = true → host = .ok ws → let n := shardBytes (s.layerEntry md l).2 j
      ws.length = n / 8 → n % 8 = 0 → s.bufferAt md l % 8 = 0 → md.key = 0 → s.mem.space.syn = [] → s.mem.injArm = false →
      ∃ v w', exec (.shardComplete x m l j host) s = .next v ∧ ((v.ctx x).model m).wave = some w' ∧
        (∃ q ∈ w'.shards, q.layer = l ∧ q.index = j ∧ q.complete = true) ∧
        (∀ i, i < n / 8 → v.mem.space.word ((s.bufferAt md l + 4194304 * j) / 8 + i) = ws.getD i 0#64) ∧
        ∀ k, ¬ within (s.bufferAt md l + 4194304 * j) n k → v.mem.space.byte k = s.mem.space.byte k) ∧
    (w.source = 2 → let n := shardBytes (s.layerEntry md l).2 j
      let src := w.srcAddr + (s.layerOffset md l + 4194304 * j)
      n % 8 = 0 → s.bufferAt md l % 8 = 0 → md.key = 0 → s.mem.space.syn = [] → s.mem.injArm = false →
      ∃ v w', exec (.shardComplete x m l j host) s = .next v ∧ ((v.ctx x).model m).wave = some w' ∧
        (∃ q ∈ w'.shards, q.layer = l ∧ q.index = j ∧ q.complete = true) ∧
        (∀ i, i < n / 8 → v.mem.space.word ((s.bufferAt md l + 4194304 * j) / 8 + i) = s.mem.space.word (src / 8 + i)) ∧
        ∀ k, ¬ within (s.bufferAt md l + 4194304 * j) n k → v.mem.space.byte k = s.mem.space.byte k)) ∧
  (∀ (s : State) (x m l j : Nat) (w : Wave) (h : Shard), let md := (s.ctx x).model m
    md.wave = some w → (w.shards.find? fun q => q.layer == l && q.index == j && !q.complete) = some h → md.state = .replacing →
    (s.now < h.due + w.timeout → exec (.shardTimeout x m l j) s = .next s) ∧
    (h.due + w.timeout ≤ s.now →
      ((w.source = 1 ∧ h.upTries < w.retryUp) ∨ ((w.source ≠ 1 ∨ w.hostAddr ≠ 0) ∧ h.hostTries < w.retryHost) → ∃ v w',
        exec (.shardTimeout x m l j) s = .next v ∧ v.infRetries = satN 16 (s.infRetries + 1) ∧ ((v.ctx x).model m).wave = some w' ∧
        ∀ q ∈ w'.shards, q.layer = l → q.index = j → q.due = s.now ∧ q.upTries + q.hostTries = h.upTries + h.hostTries + 1) ∧
      (w.source ≠ 1 ∨ w.retryUp ≤ h.upTries → (w.source = 1 ∧ w.hostAddr = 0) ∨ w.retryHost ≤ h.hostTries → ∃ v,
        exec (.shardTimeout x m l j) s = .next v ∧ ((v.ctx x).model m).state = .mixed))) ∧
  (∀ (s : State) (x m l : Nat) (rest : List Nat) (w : Wave), let md := (s.ctx x).model m
    md.wave = some w → w.copying = l :: rest → let e := s.layerEntry md l
    ∃ v, exec (.layerCopyDone x m) s = .next v ∧ ((v.ctx x).model m).front = (if w.rollback = true then l else l + 1) ∧
      ((if w.rollback = true then l = 0 else md.layers ≤ l + 1) → ((v.ctx x).model m).state = .ready ∧ ((v.ctx x).model m).wave = none ∧
        ((v.ctx x).model m).newVersion = (if w.rollback = true then md.oldVersion else md.newVersion) ∧
        ((v.ctx x).model m).oldVersion = ((v.ctx x).model m).newVersion) ∧
      (e.1 % 8 = 0 → e.2 % 8 = 0 → s.mem.space.syn = [] → s.mem.injArm = false →
        (∀ i, i < e.2 / 8 → v.mem.space.word (e.1 / 8 + i) = s.mem.space.word (s.bufferAt md l / 8 + i)) ∧
        ∀ k, ¬ within e.1 e.2 k → v.mem.space.byte k = s.mem.space.byte k)) ∧
  (∀ (s : State) (p : Pkt), s.isEarly (fld p.route 63 48) = false → fld p.route 15 8 = 3 → let s' := s.tookPacket 0x03 p.body
    let h0 := p.body.getD 0 0#64
    let h1 := p.body.getD 1 0#64
    let src := fld p.route 47 32
    s'.shuns src = false →
    let n := fld h0 56 48
    let dup := { s' with infDuplicates := satN 16 (s'.infDuplicates + 1) }
    (h0 = joinWord → exec (.infuserPacket p) s = .next (s'.takeJoin p.body)) ∧
    (∀ ld, h0 ≠ joinWord → s'.loadFor h0 h1 = some ld → let md := (s'.ctx ld.ctx).model ld.model
      let a := (match ld.stage with
        | some b => s'.bufferAt md b
        | none => (s'.layerEntry md ld.layer).1) + 4194304 * fld h0 47 32 + 8192 * n
      ((∃ q ∈ ld.shards, q.layer = fld h0 25 16 ∧ q.index = fld h0 47 32 ∧ n ∈ q.packets) → exec (.infuserPacket p) s = .next dup) ∧
      ((∀ q ∈ ld.shards, q.layer = fld h0 25 16 → q.index = fld h0 47 32 → n ∉ q.packets) → bitAt h0 2 = false → a % 8 = 0 → s'.mem.injArm = false →
        ∃ v, exec (.infuserPacket p) s = .next v ∧
        ∀ i, i < (p.body.drop 2).length → v.mem.space.word (a / 8 + i) = p.body.getD (i + 2) 0#64)) ∧
    (h0 ≠ joinWord → s'.loadFor h0 h1 = none →
      (s'.waveFor h0 h1 = none → exec (.infuserPacket p) s = .next dup) ∧
      (∀ x w, s'.waveFor h0 h1 = some (x, w) → let a := s'.bufferAt ((s'.ctx x).model (fld h0 1 0)) (fld h0 25 16) + 4194304 * fld h0 47 32 + 8192 * n
        ((∃ q ∈ w.shards, q.layer = fld h0 25 16 ∧ q.index = fld h0 47 32 ∧ n ∈ q.packets) → exec (.infuserPacket p) s = .next dup) ∧
        ((∀ q ∈ w.shards, q.layer = fld h0 25 16 → q.index = fld h0 47 32 → n ∉ q.packets) → bitAt h0 2 = false → a % 8 = 0 →
        s'.mem.injArm = false → ∃ v, exec (.infuserPacket p) s = .next v ∧
        (∀ i, i < (p.body.drop 2).length → v.mem.space.word (a / 8 + i) = p.body.getD (i + 2) 0#64) ∧
        ∃ w', ((v.ctx x).model (fld h0 1 0)).wave = some w' ∧ w'.upstream = some src ∧
          ∀ q ∈ w'.shards, q.layer = fld h0 25 16 → q.index = fld h0 47 32 → n ∈ q.packets)))) ∧
  (∀ (s : State) (p : Pkt), s.isEarly (fld p.route 63 48) = false → fld p.route 15 8 = 7 → fld (p.body.getD 0 0#64) 7 0 = 8 → s.dark = false →
    let s' := s.tookPacket 0x07 p.body
    s'.shuns (fld p.route 47 32) = false →
    exec (.kettlePacket p) s = .next (s'.answerShard (fld p.route 47 32) (p.body.getD 1 0#64) (p.body.getD 2 0#64))) ∧
  (∀ (s : State) (r : Req) (u : UnitId) (a b l : W64), s.asked r 0x0505 false anyClass u = true → reqArgs r 0x0505 = [a, b, l] →
    let x := fld a 2 0
    let c := s.ctx x
    fld a 18 3 = 0 → fld a 63 57 = 0 → fld b 63 19 = 0 → s.ctxNamed r.mb x = true → c.fastSpan l.toNat (4096 * 2048) = true →
    fld a 37 19 + fld b 18 0 ≤ c.fastPages →
    (c.kv.slots ≠ [] → exec (.kvConfig r) s = answered r 0x0505 St.busy [] (s.taken r)) ∧
    (c.kv.slots = [] → exec (.kvConfig r) s = answered r 0x0505 St.ok [] ((s.taken r).updCtx x fun c => { c with kv := { c.kv with
      configured := true, firstPage := fld a 37 19, headroom := fld a 56 38, pool := fld b 18 0, listAddr := l.toNat } }))) ∧
  (∀ (s : State) (r : Req) (u : UnitId) (x slot n code : Nat), x < 8 → slot < 4096 → n < 1024 → s.asked r code false anyClass u = true →
    reqArgs r code = [mkWord [(0, 3, x), (8, 12, slot), (20, 10, n)]] → s.ctxNamed r.mb x = true → let v := (s.ctx x).kv
    (code = 0x0506 →
      (512 < n ∨ v.pool - v.headroom < n ∨ v.joinable slot = false → exec (.kvJoin r) s = answered r code St.kvRange [] (s.taken r)) ∧
      (n ≤ 512 → n ≤ v.pool - v.headroom → v.joinable slot = true → exec (.kvJoin r) s = answered r code St.accepted []
        ((s.taken r).updCtx x fun c => { c with kv := { v with joins := v.joins ++ [⟨slot, n, (reqOf r code u).ref⟩] } }))) ∧
    (code = 0x0507 → let held := (v.slots.get [] slot).length + ((v.grows.filter fun g => g.slot == slot).map fun g => g.pages).sum
      (512 < held + n ∨ v.slots.find slot = none → exec (.kvGrow r) s = answered r code St.kvRange [] (s.taken r)) ∧
      (held + n ≤ 512 → (v.slots.find slot).isSome = true → exec (.kvGrow r) s = answered r code St.accepted []
        ((s.taken r).updCtx x fun c => { c with kv := { v with grows := v.grows ++ [⟨slot, n, (reqOf r code u).ref⟩] } }))) ∧
    (code = 0x0508 → n = 0 → exec (.kvLeave r) s = answered r code St.accepted []
      ((s.taken r).updCtx x fun c => { c with kv := { v with leaves := v.leaves ++ [⟨slot, 0, (reqOf r code u).ref⟩] } })))
end

