-- ==== Sys2Proof/Laws/State.lean ====
section
/-! SUPPORT. Laws/State.lean: what the accessors of State read after one of them has written: the same entry, another entry,
another field. -/
namespace Sys2Proof

/-! ### Keyed tables -/

section
variable {κ α : Type} [DecidableEq κ]

@[simp] theorem Tbl.get_nil (d : α) (k : κ) : Tbl.get ([] : Tbl κ α) d k = d := rfl
@[simp] theorem Tbl.find_nil (k : κ) : Tbl.find ([] : Tbl κ α) k = none := rfl

/-- What is put under a key is read there. -/
@[simp] theorem Tbl.get_set_self (t : Tbl κ α) (d : α) (k : κ) (v : α) : (t.set k v).get d k = v := by
  induction t with
  | nil => simp [Tbl.set, Tbl.get]
  | cons e r ih =>
    obtain ⟨k', v'⟩ := e
    by_cases h : k' = k
    · simp [Tbl.set, Tbl.get, h]
    · simpa [Tbl.set, Tbl.get, h] using ih

/-- Another key keeps its entry. -/
theorem Tbl.get_set_ne (t : Tbl κ α) (d : α) {k l : κ} (v : α) (h : k ≠ l) : (t.set k v).get d l = t.get d l := by
  induction t with
  | nil => simp [Tbl.set, Tbl.get, h]
  | cons e r ih =>
    obtain ⟨k', v'⟩ := e
    by_cases hk : k' = k
    · subst hk
      simp [Tbl.set, Tbl.get, h]
    · by_cases hl : k' = l
      · subst hl
        simp [Tbl.set, Tbl.get, hk]
      · simpa [Tbl.set, Tbl.get, hk, hl] using ih

/-- One law for both. -/
theorem Tbl.get_set (t : Tbl κ α) (d : α) (k l : κ) (v : α) : (t.set k v).get d l = if k = l then v else t.get d l := by
  by_cases h : k = l
  · subst h
    simp
  · simp [h, Tbl.get_set_ne t d v h]

end

end Sys2Proof

namespace Sys2Proof.Machine

/-! ### Entries -/

@[simp] theorem State.unit_setUnit (s : State) (n : UnitId) (v : UnitSt) : (s.setUnit n v).unit n = v := Tbl.get_set_self ..
@[simp] theorem State.pool_setPool (s : State) (n : Nat) (v : Pool) : (s.setPool n v).pool n = v := Tbl.get_set_self ..
@[simp] theorem State.mailbox_setMailbox (s : State) (n : Nat) (v : Mailbox) : (s.setMailbox n v).mailbox n = v := Tbl.get_set_self ..
@[simp] theorem State.ctx_setCtx (s : State) (n : Nat) (v : Ctx) : (s.setCtx n v).ctx n = v := Tbl.get_set_self ..
@[simp] theorem State.ctx_updCtx (s : State) (n : Nat) (f : Ctx → Ctx) : (s.updCtx n f).ctx n = f (s.ctx n) := Tbl.get_set_self ..
@[simp] theorem Pool.queue_setQueue (p : Pool) (n : Nat) (v : Queue) : (p.setQueue n v).queue n = v := Tbl.get_set_self ..
@[simp] theorem State.core_setCore (s : State) (n : Nat) (v : Core) : (s.setCore n v).core n = v := Tbl.get_set_self ..
@[simp] theorem State.core_updCore (s : State) (n : Nat) (f : Core → Core) : (s.updCore n f).core n = f (s.core n) := Tbl.get_set_self ..
@[simp] theorem State.link_setLink (s : State) (n : Nat) (v : Link) : (s.setLink n v).link n = v := Tbl.get_set_self ..
@[simp] theorem State.link_updLink (s : State) (n : Nat) (f : Link → Link) : (s.updLink n f).link n = f (s.link n) := Tbl.get_set_self ..
@[simp] theorem State.caddy_updCaddy (s : State) (n : Nat) (f : Caddy → Caddy) : (s.updCaddy n f).caddy n = f (s.caddy n) := Tbl.get_set_self ..

theorem State.ctx_setCtx_ne (s : State) {n m : Nat} (v : Ctx) (h : n ≠ m) : (s.setCtx n v).ctx m = s.ctx m := Tbl.get_set_ne _ _ _ h
theorem State.ctx_updCtx_ne (s : State) {n m : Nat} (f : Ctx → Ctx) (h : n ≠ m) : (s.updCtx n f).ctx m = s.ctx m := Tbl.get_set_ne _ _ _ h
theorem State.pool_setPool_ne (s : State) {n m : Nat} (v : Pool) (h : n ≠ m) : (s.setPool n v).pool m = s.pool m := Tbl.get_set_ne _ _ _ h
theorem State.mailbox_setMailbox_ne (s : State) {n m : Nat} (v : Mailbox) (h : n ≠ m) : (s.setMailbox n v).mailbox m = s.mailbox m := Tbl.get_set_ne _ _ _ h
theorem State.core_updCore_ne (s : State) {n m : Nat} (f : Core → Core) (h : n ≠ m) : (s.updCore n f).core m = s.core m := Tbl.get_set_ne _ _ _ h
theorem State.link_updLink_ne (s : State) {n m : Nat} (f : Link → Link) (h : n ≠ m) : (s.updLink n f).link m = s.link m := Tbl.get_set_ne _ _ _ h
theorem State.caddy_updCaddy_ne (s : State) {n m : Nat} (f : Caddy → Caddy) (h : n ≠ m) : (s.updCaddy n f).caddy m = s.caddy m := Tbl.get_set_ne _ _ _ h
theorem Pool.queue_setQueue_ne (p : Pool) {n m : Nat} (v : Queue) (h : n ≠ m) : (p.setQueue n v).queue m = p.queue m := Tbl.get_set_ne _ _ _ h


/-! `State.setUnit` writes units only. -/

@[simp] theorem State.setUnit_pending (s : State) (n : UnitId) (v : UnitSt) : (s.setUnit n v).pending = s.pending := rfl
@[simp] theorem State.setUnit_early (s : State) (n : UnitId) (v : UnitSt) : (s.setUnit n v).early = s.early := rfl
@[simp] theorem State.setUnit_steep (s : State) (n : UnitId) (v : UnitSt) : (s.setUnit n v).steep = s.steep := rfl
@[simp] theorem State.setUnit_faults (s : State) (n : UnitId) (v : UnitSt) : (s.setUnit n v).faults = s.faults := rfl
@[simp] theorem State.setUnit_mem (s : State) (n : UnitId) (v : UnitSt) : (s.setUnit n v).mem = s.mem := rfl
@[simp] theorem State.setUnit_cores (s : State) (n : UnitId) (v : UnitSt) : (s.setUnit n v).cores = s.cores := rfl
@[simp] theorem State.setUnit_caddies (s : State) (n : UnitId) (v : UnitSt) : (s.setUnit n v).caddies = s.caddies := rfl
@[simp] theorem State.setUnit_nextUpd (s : State) (n : UnitId) (v : UnitSt) : (s.setUnit n v).nextUpd = s.nextUpd := rfl
@[simp] theorem State.setUnit_pools (s : State) (n : UnitId) (v : UnitSt) : (s.setUnit n v).pools = s.pools := rfl
@[simp] theorem State.setUnit_mailboxes (s : State) (n : UnitId) (v : UnitSt) : (s.setUnit n v).mailboxes = s.mailboxes := rfl
@[simp] theorem State.setUnit_ctxs (s : State) (n : UnitId) (v : UnitSt) : (s.setUnit n v).ctxs = s.ctxs := rfl
@[simp] theorem State.setUnit_rotations (s : State) (n : UnitId) (v : UnitSt) : (s.setUnit n v).rotations = s.rotations := rfl
@[simp] theorem State.setUnit_switches (s : State) (n : UnitId) (v : UnitSt) : (s.setUnit n v).switches = s.switches := rfl
@[simp] theorem State.setUnit_composites (s : State) (n : UnitId) (v : UnitSt) : (s.setUnit n v).composites = s.composites := rfl
@[simp] theorem State.setUnit_fans (s : State) (n : UnitId) (v : UnitSt) : (s.setUnit n v).fans = s.fans := rfl
@[simp] theorem State.setUnit_nextFan (s : State) (n : UnitId) (v : UnitSt) : (s.setUnit n v).nextFan = s.nextFan := rfl
@[simp] theorem State.setUnit_kettleAnswer (s : State) (n : UnitId) (v : UnitSt) : (s.setUnit n v).kettleAnswer = s.kettleAnswer := rfl
@[simp] theorem State.setUnit_remoteEvents (s : State) (n : UnitId) (v : UnitSt) : (s.setUnit n v).remoteEvents = s.remoteEvents := rfl
@[simp] theorem State.setUnit_members (s : State) (n : UnitId) (v : UnitSt) : (s.setUnit n v).members = s.members := rfl
@[simp] theorem State.setUnit_host (s : State) (n : UnitId) (v : UnitSt) : (s.setUnit n v).host = s.host := rfl
@[simp] theorem State.setUnit_power (s : State) (n : UnitId) (v : UnitSt) : (s.setUnit n v).power = s.power := rfl
@[simp] theorem State.setUnit_trust (s : State) (n : UnitId) (v : UnitSt) : (s.setUnit n v).trust = s.trust := rfl
@[simp] theorem State.setUnit_fabric (s : State) (n : UnitId) (v : UnitSt) : (s.setUnit n v).fabric = s.fabric := rfl
@[simp] theorem State.setUnit_loads (s : State) (n : UnitId) (v : UnitSt) : (s.setUnit n v).loads = s.loads := rfl
@[simp] theorem State.setUnit_infMib (s : State) (n : UnitId) (v : UnitSt) : (s.setUnit n v).infMib = s.infMib := rfl
@[simp] theorem State.setUnit_infBytes (s : State) (n : UnitId) (v : UnitSt) : (s.setUnit n v).infBytes = s.infBytes := rfl
@[simp] theorem State.setUnit_infRetries (s : State) (n : UnitId) (v : UnitSt) : (s.setUnit n v).infRetries = s.infRetries := rfl
@[simp] theorem State.setUnit_infDuplicates (s : State) (n : UnitId) (v : UnitSt) : (s.setUnit n v).infDuplicates = s.infDuplicates := rfl
@[simp] theorem State.setUnit_queueStatus (s : State) (n : UnitId) (v : UnitSt) : (s.setUnit n v).queueStatus = s.queueStatus := rfl
@[simp] theorem State.setUnit_queueData (s : State) (n : UnitId) (v : UnitSt) : (s.setUnit n v).queueData = s.queueData := rfl
@[simp] theorem State.setUnit_readData (s : State) (n : UnitId) (v : UnitSt) : (s.setUnit n v).readData = s.readData := rfl
@[simp] theorem State.setUnit_out (s : State) (n : UnitId) (v : UnitSt) : (s.setUnit n v).out = s.out := rfl
@[simp] theorem State.setUnit_fresh (s : State) (n : UnitId) (v : UnitSt) : (s.setUnit n v).fresh = s.fresh := rfl

/-! `State.setPool` writes pools only. -/

@[simp] theorem State.setPool_pending (s : State) (n : Nat) (v : Pool) : (s.setPool n v).pending = s.pending := rfl
@[simp] theorem State.setPool_early (s : State) (n : Nat) (v : Pool) : (s.setPool n v).early = s.early := rfl
@[simp] theorem State.setPool_steep (s : State) (n : Nat) (v : Pool) : (s.setPool n v).steep = s.steep := rfl
@[simp] theorem State.setPool_units (s : State) (n : Nat) (v : Pool) : (s.setPool n v).units = s.units := rfl
@[simp] theorem State.setPool_faults (s : State) (n : Nat) (v : Pool) : (s.setPool n v).faults = s.faults := rfl
@[simp] theorem State.setPool_mem (s : State) (n : Nat) (v : Pool) : (s.setPool n v).mem = s.mem := rfl
@[simp] theorem State.setPool_cores (s : State) (n : Nat) (v : Pool) : (s.setPool n v).cores = s.cores := rfl
@[simp] theorem State.setPool_caddies (s : State) (n : Nat) (v : Pool) : (s.setPool n v).caddies = s.caddies := rfl
@[simp] theorem State.setPool_nextUpd (s : State) (n : Nat) (v : Pool) : (s.setPool n v).nextUpd = s.nextUpd := rfl
@[simp] theorem State.setPool_mailboxes (s : State) (n : Nat) (v : Pool) : (s.setPool n v).mailboxes = s.mailboxes := rfl
@[simp] theorem State.setPool_ctxs (s : State) (n : Nat) (v : Pool) : (s.setPool n v).ctxs = s.ctxs := rfl
@[simp] theorem State.setPool_rotations (s : State) (n : Nat) (v : Pool) : (s.setPool n v).rotations = s.rotations := rfl
@[simp] theorem State.setPool_switches (s : State) (n : Nat) (v : Pool) : (s.setPool n v).switches = s.switches := rfl
@[simp] theorem State.setPool_composites (s : State) (n : Nat) (v : Pool) : (s.setPool n v).composites = s.composites := rfl
@[simp] theorem State.setPool_fans (s : State) (n : Nat) (v : Pool) : (s.setPool n v).fans = s.fans := rfl
@[simp] theorem State.setPool_nextFan (s : State) (n : Nat) (v : Pool) : (s.setPool n v).nextFan = s.nextFan := rfl
@[simp] theorem State.setPool_kettleAnswer (s : State) (n : Nat) (v : Pool) : (s.setPool n v).kettleAnswer = s.kettleAnswer := rfl
@[simp] theorem State.setPool_remoteEvents (s : State) (n : Nat) (v : Pool) : (s.setPool n v).remoteEvents = s.remoteEvents := rfl
@[simp] theorem State.setPool_members (s : State) (n : Nat) (v : Pool) : (s.setPool n v).members = s.members := rfl
@[simp] theorem State.setPool_host (s : State) (n : Nat) (v : Pool) : (s.setPool n v).host = s.host := rfl
@[simp] theorem State.setPool_power (s : State) (n : Nat) (v : Pool) : (s.setPool n v).power = s.power := rfl
@[simp] theorem State.setPool_trust (s : State) (n : Nat) (v : Pool) : (s.setPool n v).trust = s.trust := rfl
@[simp] theorem State.setPool_fabric (s : State) (n : Nat) (v : Pool) : (s.setPool n v).fabric = s.fabric := rfl
@[simp] theorem State.setPool_loads (s : State) (n : Nat) (v : Pool) : (s.setPool n v).loads = s.loads := rfl
@[simp] theorem State.setPool_infMib (s : State) (n : Nat) (v : Pool) : (s.setPool n v).infMib = s.infMib := rfl
@[simp] theorem State.setPool_infBytes (s : State) (n : Nat) (v : Pool) : (s.setPool n v).infBytes = s.infBytes := rfl
@[simp] theorem State.setPool_infRetries (s : State) (n : Nat) (v : Pool) : (s.setPool n v).infRetries = s.infRetries := rfl
@[simp] theorem State.setPool_infDuplicates (s : State) (n : Nat) (v : Pool) : (s.setPool n v).infDuplicates = s.infDuplicates := rfl
@[simp] theorem State.setPool_queueStatus (s : State) (n : Nat) (v : Pool) : (s.setPool n v).queueStatus = s.queueStatus := rfl
@[simp] theorem State.setPool_queueData (s : State) (n : Nat) (v : Pool) : (s.setPool n v).queueData = s.queueData := rfl
@[simp] theorem State.setPool_readData (s : State) (n : Nat) (v : Pool) : (s.setPool n v).readData = s.readData := rfl
@[simp] theorem State.setPool_out (s : State) (n : Nat) (v : Pool) : (s.setPool n v).out = s.out := rfl
@[simp] theorem State.setPool_fresh (s : State) (n : Nat) (v : Pool) : (s.setPool n v).fresh = s.fresh := rfl

/-! `State.updQueue` writes pools only. -/

@[simp] theorem State.updQueue_pending (s : State) (p n : Nat) (f : Queue → Queue) : (s.updQueue p n f).pending = s.pending := rfl
@[simp] theorem State.updQueue_early (s : State) (p n : Nat) (f : Queue → Queue) : (s.updQueue p n f).early = s.early := rfl
@[simp] theorem State.updQueue_steep (s : State) (p n : Nat) (f : Queue → Queue) : (s.updQueue p n f).steep = s.steep := rfl
@[simp] theorem State.updQueue_units (s : State) (p n : Nat) (f : Queue → Queue) : (s.updQueue p n f).units = s.units := rfl
@[simp] theorem State.updQueue_faults (s : State) (p n : Nat) (f : Queue → Queue) : (s.updQueue p n f).faults = s.faults := rfl
@[simp] theorem State.updQueue_mem (s : State) (p n : Nat) (f : Queue → Queue) : (s.updQueue p n f).mem = s.mem := rfl
@[simp] theorem State.updQueue_cores (s : State) (p n : Nat) (f : Queue → Queue) : (s.updQueue p n f).cores = s.cores := rfl
@[simp] theorem State.updQueue_caddies (s : State) (p n : Nat) (f : Queue → Queue) : (s.updQueue p n f).caddies = s.caddies := rfl
@[simp] theorem State.updQueue_nextUpd (s : State) (p n : Nat) (f : Queue → Queue) : (s.updQueue p n f).nextUpd = s.nextUpd := rfl
@[simp] theorem State.updQueue_mailboxes (s : State) (p n : Nat) (f : Queue → Queue) : (s.updQueue p n f).mailboxes = s.mailboxes := rfl
@[simp] theorem State.updQueue_ctxs (s : State) (p n : Nat) (f : Queue → Queue) : (s.updQueue p n f).ctxs = s.ctxs := rfl
@[simp] theorem State.updQueue_rotations (s : State) (p n : Nat) (f : Queue → Queue) : (s.updQueue p n f).rotations = s.rotations := rfl
@[simp] theorem State.updQueue_switches (s : State) (p n : Nat) (f : Queue → Queue) : (s.updQueue p n f).switches = s.switches := rfl
@[simp] theorem State.updQueue_composites (s : State) (p n : Nat) (f : Queue → Queue) : (s.updQueue p n f).composites = s.composites := rfl
@[simp] theorem State.updQueue_fans (s : State) (p n : Nat) (f : Queue → Queue) : (s.updQueue p n f).fans = s.fans := rfl
@[simp] theorem State.updQueue_nextFan (s : State) (p n : Nat) (f : Queue → Queue) : (s.updQueue p n f).nextFan = s.nextFan := rfl
@[simp] theorem State.updQueue_kettleAnswer (s : State) (p n : Nat) (f : Queue → Queue) : (s.updQueue p n f).kettleAnswer = s.kettleAnswer := rfl
@[simp] theorem State.updQueue_remoteEvents (s : State) (p n : Nat) (f : Queue → Queue) : (s.updQueue p n f).remoteEvents = s.remoteEvents := rfl
@[simp] theorem State.updQueue_members (s : State) (p n : Nat) (f : Queue → Queue) : (s.updQueue p n f).members = s.members := rfl
@[simp] theorem State.updQueue_host (s : State) (p n : Nat) (f : Queue → Queue) : (s.updQueue p n f).host = s.host := rfl
@[simp] theorem State.updQueue_power (s : State) (p n : Nat) (f : Queue → Queue) : (s.updQueue p n f).power = s.power := rfl
@[simp] theorem State.updQueue_trust (s : State) (p n : Nat) (f : Queue → Queue) : (s.updQueue p n f).trust = s.trust := rfl
@[simp] theorem State.updQueue_fabric (s : State) (p n : Nat) (f : Queue → Queue) : (s.updQueue p n f).fabric = s.fabric := rfl
@[simp] theorem State.updQueue_loads (s : State) (p n : Nat) (f : Queue → Queue) : (s.updQueue p n f).loads = s.loads := rfl
@[simp] theorem State.updQueue_infMib (s : State) (p n : Nat) (f : Queue → Queue) : (s.updQueue p n f).infMib = s.infMib := rfl
@[simp] theorem State.updQueue_infBytes (s : State) (p n : Nat) (f : Queue → Queue) : (s.updQueue p n f).infBytes = s.infBytes := rfl
@[simp] theorem State.updQueue_infRetries (s : State) (p n : Nat) (f : Queue → Queue) : (s.updQueue p n f).infRetries = s.infRetries := rfl
@[simp] theorem State.updQueue_infDuplicates (s : State) (p n : Nat) (f : Queue → Queue) : (s.updQueue p n f).infDuplicates = s.infDuplicates := rfl
@[simp] theorem State.updQueue_queueStatus (s : State) (p n : Nat) (f : Queue → Queue) : (s.updQueue p n f).queueStatus = s.queueStatus := rfl
@[simp] theorem State.updQueue_queueData (s : State) (p n : Nat) (f : Queue → Queue) : (s.updQueue p n f).queueData = s.queueData := rfl
@[simp] theorem State.updQueue_readData (s : State) (p n : Nat) (f : Queue → Queue) : (s.updQueue p n f).readData = s.readData := rfl
@[simp] theorem State.updQueue_out (s : State) (p n : Nat) (f : Queue → Queue) : (s.updQueue p n f).out = s.out := rfl
@[simp] theorem State.updQueue_fresh (s : State) (p n : Nat) (f : Queue → Queue) : (s.updQueue p n f).fresh = s.fresh := rfl

/-! `State.setMailbox` writes mailboxes only. -/

@[simp] theorem State.setMailbox_pending (s : State) (n : Nat) (v : Mailbox) : (s.setMailbox n v).pending = s.pending := rfl
@[simp] theorem State.setMailbox_early (s : State) (n : Nat) (v : Mailbox) : (s.setMailbox n v).early = s.early := rfl
@[simp] theorem State.setMailbox_steep (s : State) (n : Nat) (v : Mailbox) : (s.setMailbox n v).steep = s.steep := rfl
@[simp] theorem State.setMailbox_units (s : State) (n : Nat) (v : Mailbox) : (s.setMailbox n v).units = s.units := rfl
@[simp] theorem State.setMailbox_faults (s : State) (n : Nat) (v : Mailbox) : (s.setMailbox n v).faults = s.faults := rfl
@[simp] theorem State.setMailbox_mem (s : State) (n : Nat) (v : Mailbox) : (s.setMailbox n v).mem = s.mem := rfl
@[simp] theorem State.setMailbox_cores (s : State) (n : Nat) (v : Mailbox) : (s.setMailbox n v).cores = s.cores := rfl
@[simp] theorem State.setMailbox_caddies (s : State) (n : Nat) (v : Mailbox) : (s.setMailbox n v).caddies = s.caddies := rfl
@[simp] theorem State.setMailbox_nextUpd (s : State) (n : Nat) (v : Mailbox) : (s.setMailbox n v).nextUpd = s.nextUpd := rfl
@[simp] theorem State.setMailbox_pools (s : State) (n : Nat) (v : Mailbox) : (s.setMailbox n v).pools = s.pools := rfl
@[simp] theorem State.setMailbox_ctxs (s : State) (n : Nat) (v : Mailbox) : (s.setMailbox n v).ctxs = s.ctxs := rfl
@[simp] theorem State.setMailbox_rotations (s : State) (n : Nat) (v : Mailbox) : (s.setMailbox n v).rotations = s.rotations := rfl
@[simp] theorem State.setMailbox_switches (s : State) (n : Nat) (v : Mailbox) : (s.setMailbox n v).switches = s.switches := rfl
@[simp] theorem State.setMailbox_composites (s : State) (n : Nat) (v : Mailbox) : (s.setMailbox n v).composites = s.composites := rfl
@[simp] theorem State.setMailbox_fans (s : State) (n : Nat) (v : Mailbox) : (s.setMailbox n v).fans = s.fans := rfl
@[simp] theorem State.setMailbox_nextFan (s : State) (n : Nat) (v : Mailbox) : (s.setMailbox n v).nextFan = s.nextFan := rfl
@[simp] theorem State.setMailbox_kettleAnswer (s : State) (n : Nat) (v : Mailbox) : (s.setMailbox n v).kettleAnswer = s.kettleAnswer := rfl
@[simp] theorem State.setMailbox_remoteEvents (s : State) (n : Nat) (v : Mailbox) : (s.setMailbox n v).remoteEvents = s.remoteEvents := rfl
@[simp] theorem State.setMailbox_members (s : State) (n : Nat) (v : Mailbox) : (s.setMailbox n v).members = s.members := rfl
@[simp] theorem State.setMailbox_host (s : State) (n : Nat) (v : Mailbox) : (s.setMailbox n v).host = s.host := rfl
@[simp] theorem State.setMailbox_power (s : State) (n : Nat) (v : Mailbox) : (s.setMailbox n v).power = s.power := rfl
@[simp] theorem State.setMailbox_trust (s : State) (n : Nat) (v : Mailbox) : (s.setMailbox n v).trust = s.trust := rfl
@[simp] theorem State.setMailbox_fabric (s : State) (n : Nat) (v : Mailbox) : (s.setMailbox n v).fabric = s.fabric := rfl
@[simp] theorem State.setMailbox_loads (s : State) (n : Nat) (v : Mailbox) : (s.setMailbox n v).loads = s.loads := rfl
@[simp] theorem State.setMailbox_infMib (s : State) (n : Nat) (v : Mailbox) : (s.setMailbox n v).infMib = s.infMib := rfl
@[simp] theorem State.setMailbox_infBytes (s : State) (n : Nat) (v : Mailbox) : (s.setMailbox n v).infBytes = s.infBytes := rfl
@[simp] theorem State.setMailbox_infRetries (s : State) (n : Nat) (v : Mailbox) : (s.setMailbox n v).infRetries = s.infRetries := rfl
@[simp] theorem State.setMailbox_infDuplicates (s : State) (n : Nat) (v : Mailbox) : (s.setMailbox n v).infDuplicates = s.infDuplicates := rfl
@[simp] theorem State.setMailbox_queueStatus (s : State) (n : Nat) (v : Mailbox) : (s.setMailbox n v).queueStatus = s.queueStatus := rfl
@[simp] theorem State.setMailbox_queueData (s : State) (n : Nat) (v : Mailbox) : (s.setMailbox n v).queueData = s.queueData := rfl
@[simp] theorem State.setMailbox_readData (s : State) (n : Nat) (v : Mailbox) : (s.setMailbox n v).readData = s.readData := rfl
@[simp] theorem State.setMailbox_out (s : State) (n : Nat) (v : Mailbox) : (s.setMailbox n v).out = s.out := rfl
@[simp] theorem State.setMailbox_fresh (s : State) (n : Nat) (v : Mailbox) : (s.setMailbox n v).fresh = s.fresh := rfl

/-! `State.setCtx` writes ctxs only. -/

@[simp] theorem State.setCtx_pending (s : State) (n : Nat) (v : Ctx) : (s.setCtx n v).pending = s.pending := rfl
@[simp] theorem State.setCtx_early (s : State) (n : Nat) (v : Ctx) : (s.setCtx n v).early = s.early := rfl
@[simp] theorem State.setCtx_steep (s : State) (n : Nat) (v : Ctx) : (s.setCtx n v).steep = s.steep := rfl
@[simp] theorem State.setCtx_units (s : State) (n : Nat) (v : Ctx) : (s.setCtx n v).units = s.units := rfl
@[simp] theorem State.setCtx_faults (s : State) (n : Nat) (v : Ctx) : (s.setCtx n v).faults = s.faults := rfl
@[simp] theorem State.setCtx_mem (s : State) (n : Nat) (v : Ctx) : (s.setCtx n v).mem = s.mem := rfl
@[simp] theorem State.setCtx_cores (s : State) (n : Nat) (v : Ctx) : (s.setCtx n v).cores = s.cores := rfl
@[simp] theorem State.setCtx_caddies (s : State) (n : Nat) (v : Ctx) : (s.setCtx n v).caddies = s.caddies := rfl
@[simp] theorem State.setCtx_nextUpd (s : State) (n : Nat) (v : Ctx) : (s.setCtx n v).nextUpd = s.nextUpd := rfl
@[simp] theorem State.setCtx_pools (s : State) (n : Nat) (v : Ctx) : (s.setCtx n v).pools = s.pools := rfl
@[simp] theorem State.setCtx_mailboxes (s : State) (n : Nat) (v : Ctx) : (s.setCtx n v).mailboxes = s.mailboxes := rfl
@[simp] theorem State.setCtx_rotations (s : State) (n : Nat) (v : Ctx) : (s.setCtx n v).rotations = s.rotations := rfl
@[simp] theorem State.setCtx_switches (s : State) (n : Nat) (v : Ctx) : (s.setCtx n v).switches = s.switches := rfl
@[simp] theorem State.setCtx_composites (s : State) (n : Nat) (v : Ctx) : (s.setCtx n v).composites = s.composites := rfl
@[simp] theorem State.setCtx_fans (s : State) (n : Nat) (v : Ctx) : (s.setCtx n v).fans = s.fans := rfl
@[simp] theorem State.setCtx_nextFan (s : State) (n : Nat) (v : Ctx) : (s.setCtx n v).nextFan = s.nextFan := rfl
@[simp] theorem State.setCtx_kettleAnswer (s : State) (n : Nat) (v : Ctx) : (s.setCtx n v).kettleAnswer = s.kettleAnswer := rfl
@[simp] theorem State.setCtx_remoteEvents (s : State) (n : Nat) (v : Ctx) : (s.setCtx n v).remoteEvents = s.remoteEvents := rfl
@[simp] theorem State.setCtx_members (s : State) (n : Nat) (v : Ctx) : (s.setCtx n v).members = s.members := rfl
@[simp] theorem State.setCtx_host (s : State) (n : Nat) (v : Ctx) : (s.setCtx n v).host = s.host := rfl
@[simp] theorem State.setCtx_power (s : State) (n : Nat) (v : Ctx) : (s.setCtx n v).power = s.power := rfl
@[simp] theorem State.setCtx_trust (s : State) (n : Nat) (v : Ctx) : (s.setCtx n v).trust = s.trust := rfl
@[simp] theorem State.setCtx_fabric (s : State) (n : Nat) (v : Ctx) : (s.setCtx n v).fabric = s.fabric := rfl
@[simp] theorem State.setCtx_loads (s : State) (n : Nat) (v : Ctx) : (s.setCtx n v).loads = s.loads := rfl
@[simp] theorem State.setCtx_infMib (s : State) (n : Nat) (v : Ctx) : (s.setCtx n v).infMib = s.infMib := rfl
@[simp] theorem State.setCtx_infBytes (s : State) (n : Nat) (v : Ctx) : (s.setCtx n v).infBytes = s.infBytes := rfl
@[simp] theorem State.setCtx_infRetries (s : State) (n : Nat) (v : Ctx) : (s.setCtx n v).infRetries = s.infRetries := rfl
@[simp] theorem State.setCtx_infDuplicates (s : State) (n : Nat) (v : Ctx) : (s.setCtx n v).infDuplicates = s.infDuplicates := rfl
@[simp] theorem State.setCtx_queueStatus (s : State) (n : Nat) (v : Ctx) : (s.setCtx n v).queueStatus = s.queueStatus := rfl
@[simp] theorem State.setCtx_queueData (s : State) (n : Nat) (v : Ctx) : (s.setCtx n v).queueData = s.queueData := rfl
@[simp] theorem State.setCtx_readData (s : State) (n : Nat) (v : Ctx) : (s.setCtx n v).readData = s.readData := rfl
@[simp] theorem State.setCtx_out (s : State) (n : Nat) (v : Ctx) : (s.setCtx n v).out = s.out := rfl
@[simp] theorem State.setCtx_fresh (s : State) (n : Nat) (v : Ctx) : (s.setCtx n v).fresh = s.fresh := rfl

/-! `State.updCtx` writes ctxs only. -/

@[simp] theorem State.updCtx_pending (s : State) (n : Nat) (f : Ctx → Ctx) : (s.updCtx n f).pending = s.pending := rfl
@[simp] theorem State.updCtx_early (s : State) (n : Nat) (f : Ctx → Ctx) : (s.updCtx n f).early = s.early := rfl
@[simp] theorem State.updCtx_steep (s : State) (n : Nat) (f : Ctx → Ctx) : (s.updCtx n f).steep = s.steep := rfl
@[simp] theorem State.updCtx_units (s : State) (n : Nat) (f : Ctx → Ctx) : (s.updCtx n f).units = s.units := rfl
@[simp] theorem State.updCtx_faults (s : State) (n : Nat) (f : Ctx → Ctx) : (s.updCtx n f).faults = s.faults := rfl
@[simp] theorem State.updCtx_mem (s : State) (n : Nat) (f : Ctx → Ctx) : (s.updCtx n f).mem = s.mem := rfl
@[simp] theorem State.updCtx_cores (s : State) (n : Nat) (f : Ctx → Ctx) : (s.updCtx n f).cores = s.cores := rfl
@[simp] theorem State.updCtx_caddies (s : State) (n : Nat) (f : Ctx → Ctx) : (s.updCtx n f).caddies = s.caddies := rfl
@[simp] theorem State.updCtx_nextUpd (s : State) (n : Nat) (f : Ctx → Ctx) : (s.updCtx n f).nextUpd = s.nextUpd := rfl
@[simp] theorem State.updCtx_pools (s : State) (n : Nat) (f : Ctx → Ctx) : (s.updCtx n f).pools = s.pools := rfl
@[simp] theorem State.updCtx_mailboxes (s : State) (n : Nat) (f : Ctx → Ctx) : (s.updCtx n f).mailboxes = s.mailboxes := rfl
@[simp] theorem State.updCtx_rotations (s : State) (n : Nat) (f : Ctx → Ctx) : (s.updCtx n f).rotations = s.rotations := rfl
@[simp] theorem State.updCtx_switches (s : State) (n : Nat) (f : Ctx → Ctx) : (s.updCtx n f).switches = s.switches := rfl
@[simp] theorem State.updCtx_composites (s : State) (n : Nat) (f : Ctx → Ctx) : (s.updCtx n f).composites = s.composites := rfl
@[simp] theorem State.updCtx_fans (s : State) (n : Nat) (f : Ctx → Ctx) : (s.updCtx n f).fans = s.fans := rfl
@[simp] theorem State.updCtx_nextFan (s : State) (n : Nat) (f : Ctx → Ctx) : (s.updCtx n f).nextFan = s.nextFan := rfl
@[simp] theorem State.updCtx_kettleAnswer (s : State) (n : Nat) (f : Ctx → Ctx) : (s.updCtx n f).kettleAnswer = s.kettleAnswer := rfl
@[simp] theorem State.updCtx_remoteEvents (s : State) (n : Nat) (f : Ctx → Ctx) : (s.updCtx n f).remoteEvents = s.remoteEvents := rfl
@[simp] theorem State.updCtx_members (s : State) (n : Nat) (f : Ctx → Ctx) : (s.updCtx n f).members = s.members := rfl
@[simp] theorem State.updCtx_host (s : State) (n : Nat) (f : Ctx → Ctx) : (s.updCtx n f).host = s.host := rfl
@[simp] theorem State.updCtx_power (s : State) (n : Nat) (f : Ctx → Ctx) : (s.updCtx n f).power = s.power := rfl
@[simp] theorem State.updCtx_trust (s : State) (n : Nat) (f : Ctx → Ctx) : (s.updCtx n f).trust = s.trust := rfl
@[simp] theorem State.updCtx_fabric (s : State) (n : Nat) (f : Ctx → Ctx) : (s.updCtx n f).fabric = s.fabric := rfl
@[simp] theorem State.updCtx_loads (s : State) (n : Nat) (f : Ctx → Ctx) : (s.updCtx n f).loads = s.loads := rfl
@[simp] theorem State.updCtx_infMib (s : State) (n : Nat) (f : Ctx → Ctx) : (s.updCtx n f).infMib = s.infMib := rfl
@[simp] theorem State.updCtx_infBytes (s : State) (n : Nat) (f : Ctx → Ctx) : (s.updCtx n f).infBytes = s.infBytes := rfl
@[simp] theorem State.updCtx_infRetries (s : State) (n : Nat) (f : Ctx → Ctx) : (s.updCtx n f).infRetries = s.infRetries := rfl
@[simp] theorem State.updCtx_infDuplicates (s : State) (n : Nat) (f : Ctx → Ctx) : (s.updCtx n f).infDuplicates = s.infDuplicates := rfl
@[simp] theorem State.updCtx_queueStatus (s : State) (n : Nat) (f : Ctx → Ctx) : (s.updCtx n f).queueStatus = s.queueStatus := rfl
@[simp] theorem State.updCtx_queueData (s : State) (n : Nat) (f : Ctx → Ctx) : (s.updCtx n f).queueData = s.queueData := rfl
@[simp] theorem State.updCtx_readData (s : State) (n : Nat) (f : Ctx → Ctx) : (s.updCtx n f).readData = s.readData := rfl
@[simp] theorem State.updCtx_out (s : State) (n : Nat) (f : Ctx → Ctx) : (s.updCtx n f).out = s.out := rfl
@[simp] theorem State.updCtx_fresh (s : State) (n : Nat) (f : Ctx → Ctx) : (s.updCtx n f).fresh = s.fresh := rfl

/-! `State.updJob` writes ctxs only. -/

@[simp] theorem State.updJob_pending (s : State) (n : Nat) (f : Job → Job) : (s.updJob n f).pending = s.pending := rfl
@[simp] theorem State.updJob_early (s : State) (n : Nat) (f : Job → Job) : (s.updJob n f).early = s.early := rfl
@[simp] theorem State.updJob_steep (s : State) (n : Nat) (f : Job → Job) : (s.updJob n f).steep = s.steep := rfl
@[simp] theorem State.updJob_units (s : State) (n : Nat) (f : Job → Job) : (s.updJob n f).units = s.units := rfl
@[simp] theorem State.updJob_faults (s : State) (n : Nat) (f : Job → Job) : (s.updJob n f).faults = s.faults := rfl
@[simp] theorem State.updJob_mem (s : State) (n : Nat) (f : Job → Job) : (s.updJob n f).mem = s.mem := rfl
@[simp] theorem State.updJob_cores (s : State) (n : Nat) (f : Job → Job) : (s.updJob n f).cores = s.cores := rfl
@[simp] theorem State.updJob_caddies (s : State) (n : Nat) (f : Job → Job) : (s.updJob n f).caddies = s.caddies := rfl
@[simp] theorem State.updJob_nextUpd (s : State) (n : Nat) (f : Job → Job) : (s.updJob n f).nextUpd = s.nextUpd := rfl
@[simp] theorem State.updJob_pools (s : State) (n : Nat) (f : Job → Job) : (s.updJob n f).pools = s.pools := rfl
@[simp] theorem State.updJob_mailboxes (s : State) (n : Nat) (f : Job → Job) : (s.updJob n f).mailboxes = s.mailboxes := rfl
@[simp] theorem State.updJob_rotations (s : State) (n : Nat) (f : Job → Job) : (s.updJob n f).rotations = s.rotations := rfl
@[simp] theorem State.updJob_switches (s : State) (n : Nat) (f : Job → Job) : (s.updJob n f).switches = s.switches := rfl
@[simp] theorem State.updJob_composites (s : State) (n : Nat) (f : Job → Job) : (s.updJob n f).composites = s.composites := rfl
@[simp] theorem State.updJob_fans (s : State) (n : Nat) (f : Job → Job) : (s.updJob n f).fans = s.fans := rfl
@[simp] theorem State.updJob_nextFan (s : State) (n : Nat) (f : Job → Job) : (s.updJob n f).nextFan = s.nextFan := rfl
@[simp] theorem State.updJob_kettleAnswer (s : State) (n : Nat) (f : Job → Job) : (s.updJob n f).kettleAnswer = s.kettleAnswer := rfl
@[simp] theorem State.updJob_remoteEvents (s : State) (n : Nat) (f : Job → Job) : (s.updJob n f).remoteEvents = s.remoteEvents := rfl
@[simp] theorem State.updJob_members (s : State) (n : Nat) (f : Job → Job) : (s.updJob n f).members = s.members := rfl
@[simp] theorem State.updJob_host (s : State) (n : Nat) (f : Job → Job) : (s.updJob n f).host = s.host := rfl
@[simp] theorem State.updJob_power (s : State) (n : Nat) (f : Job → Job) : (s.updJob n f).power = s.power := rfl
@[simp] theorem State.updJob_trust (s : State) (n : Nat) (f : Job → Job) : (s.updJob n f).trust = s.trust := rfl
@[simp] theorem State.updJob_fabric (s : State) (n : Nat) (f : Job → Job) : (s.updJob n f).fabric = s.fabric := rfl
@[simp] theorem State.updJob_loads (s : State) (n : Nat) (f : Job → Job) : (s.updJob n f).loads = s.loads := rfl
@[simp] theorem State.updJob_infMib (s : State) (n : Nat) (f : Job → Job) : (s.updJob n f).infMib = s.infMib := rfl
@[simp] theorem State.updJob_infBytes (s : State) (n : Nat) (f : Job → Job) : (s.updJob n f).infBytes = s.infBytes := rfl
@[simp] theorem State.updJob_infRetries (s : State) (n : Nat) (f : Job → Job) : (s.updJob n f).infRetries = s.infRetries := rfl
@[simp] theorem State.updJob_infDuplicates (s : State) (n : Nat) (f : Job → Job) : (s.updJob n f).infDuplicates = s.infDuplicates := rfl
@[simp] theorem State.updJob_queueStatus (s : State) (n : Nat) (f : Job → Job) : (s.updJob n f).queueStatus = s.queueStatus := rfl
@[simp] theorem State.updJob_queueData (s : State) (n : Nat) (f : Job → Job) : (s.updJob n f).queueData = s.queueData := rfl
@[simp] theorem State.updJob_readData (s : State) (n : Nat) (f : Job → Job) : (s.updJob n f).readData = s.readData := rfl
@[simp] theorem State.updJob_out (s : State) (n : Nat) (f : Job → Job) : (s.updJob n f).out = s.out := rfl
@[simp] theorem State.updJob_fresh (s : State) (n : Nat) (f : Job → Job) : (s.updJob n f).fresh = s.fresh := rfl

/-! `State.updModel` writes ctxs only. -/

@[simp] theorem State.updModel_pending (s : State) (n m : Nat) (f : Model → Model) : (s.updModel n m f).pending = s.pending := rfl
@[simp] theorem State.updModel_early (s : State) (n m : Nat) (f : Model → Model) : (s.updModel n m f).early = s.early := rfl
@[simp] theorem State.updModel_steep (s : State) (n m : Nat) (f : Model → Model) : (s.updModel n m f).steep = s.steep := rfl
@[simp] theorem State.updModel_units (s : State) (n m : Nat) (f : Model → Model) : (s.updModel n m f).units = s.units := rfl
@[simp] theorem State.updModel_faults (s : State) (n m : Nat) (f : Model → Model) : (s.updModel n m f).faults = s.faults := rfl
@[simp] theorem State.updModel_mem (s : State) (n m : Nat) (f : Model → Model) : (s.updModel n m f).mem = s.mem := rfl
@[simp] theorem State.updModel_cores (s : State) (n m : Nat) (f : Model → Model) : (s.updModel n m f).cores = s.cores := rfl
@[simp] theorem State.updModel_caddies (s : State) (n m : Nat) (f : Model → Model) : (s.updModel n m f).caddies = s.caddies := rfl
@[simp] theorem State.updModel_nextUpd (s : State) (n m : Nat) (f : Model → Model) : (s.updModel n m f).nextUpd = s.nextUpd := rfl
@[simp] theorem State.updModel_pools (s : State) (n m : Nat) (f : Model → Model) : (s.updModel n m f).pools = s.pools := rfl
@[simp] theorem State.updModel_mailboxes (s : State) (n m : Nat) (f : Model → Model) : (s.updModel n m f).mailboxes = s.mailboxes := rfl
@[simp] theorem State.updModel_rotations (s : State) (n m : Nat) (f : Model → Model) : (s.updModel n m f).rotations = s.rotations := rfl
@[simp] theorem State.updModel_switches (s : State) (n m : Nat) (f : Model → Model) : (s.updModel n m f).switches = s.switches := rfl
@[simp] theorem State.updModel_composites (s : State) (n m : Nat) (f : Model → Model) : (s.updModel n m f).composites = s.composites := rfl
@[simp] theorem State.updModel_fans (s : State) (n m : Nat) (f : Model → Model) : (s.updModel n m f).fans = s.fans := rfl
@[simp] theorem State.updModel_nextFan (s : State) (n m : Nat) (f : Model → Model) : (s.updModel n m f).nextFan = s.nextFan := rfl
@[simp] theorem State.updModel_kettleAnswer (s : State) (n m : Nat) (f : Model → Model) : (s.updModel n m f).kettleAnswer = s.kettleAnswer := rfl
@[simp] theorem State.updModel_remoteEvents (s : State) (n m : Nat) (f : Model → Model) : (s.updModel n m f).remoteEvents = s.remoteEvents := rfl
@[simp] theorem State.updModel_members (s : State) (n m : Nat) (f : Model → Model) : (s.updModel n m f).members = s.members := rfl
@[simp] theorem State.updModel_host (s : State) (n m : Nat) (f : Model → Model) : (s.updModel n m f).host = s.host := rfl
@[simp] theorem State.updModel_power (s : State) (n m : Nat) (f : Model → Model) : (s.updModel n m f).power = s.power := rfl
@[simp] theorem State.updModel_trust (s : State) (n m : Nat) (f : Model → Model) : (s.updModel n m f).trust = s.trust := rfl
@[simp] theorem State.updModel_fabric (s : State) (n m : Nat) (f : Model → Model) : (s.updModel n m f).fabric = s.fabric := rfl
@[simp] theorem State.updModel_loads (s : State) (n m : Nat) (f : Model → Model) : (s.updModel n m f).loads = s.loads := rfl
@[simp] theorem State.updModel_infMib (s : State) (n m : Nat) (f : Model → Model) : (s.updModel n m f).infMib = s.infMib := rfl
@[simp] theorem State.updModel_infBytes (s : State) (n m : Nat) (f : Model → Model) : (s.updModel n m f).infBytes = s.infBytes := rfl
@[simp] theorem State.updModel_infRetries (s : State) (n m : Nat) (f : Model → Model) : (s.updModel n m f).infRetries = s.infRetries := rfl
@[simp] theorem State.updModel_infDuplicates (s : State) (n m : Nat) (f : Model → Model) : (s.updModel n m f).infDuplicates = s.infDuplicates := rfl
@[simp] theorem State.updModel_queueStatus (s : State) (n m : Nat) (f : Model → Model) : (s.updModel n m f).queueStatus = s.queueStatus := rfl
@[simp] theorem State.updModel_queueData (s : State) (n m : Nat) (f : Model → Model) : (s.updModel n m f).queueData = s.queueData := rfl
@[simp] theorem State.updModel_readData (s : State) (n m : Nat) (f : Model → Model) : (s.updModel n m f).readData = s.readData := rfl
@[simp] theorem State.updModel_out (s : State) (n m : Nat) (f : Model → Model) : (s.updModel n m f).out = s.out := rfl
@[simp] theorem State.updModel_fresh (s : State) (n m : Nat) (f : Model → Model) : (s.updModel n m f).fresh = s.fresh := rfl

/-! `State.updUpd` writes ctxs only. -/

@[simp] theorem State.updUpd_pending (s : State) (n : Nat) (f : Upd → Upd) : (s.updUpd n f).pending = s.pending := rfl
@[simp] theorem State.updUpd_early (s : State) (n : Nat) (f : Upd → Upd) : (s.updUpd n f).early = s.early := rfl
@[simp] theorem State.updUpd_steep (s : State) (n : Nat) (f : Upd → Upd) : (s.updUpd n f).steep = s.steep := rfl
@[simp] theorem State.updUpd_units (s : State) (n : Nat) (f : Upd → Upd) : (s.updUpd n f).units = s.units := rfl
@[simp] theorem State.updUpd_faults (s : State) (n : Nat) (f : Upd → Upd) : (s.updUpd n f).faults = s.faults := rfl
@[simp] theorem State.updUpd_mem (s : State) (n : Nat) (f : Upd → Upd) : (s.updUpd n f).mem = s.mem := rfl
@[simp] theorem State.updUpd_cores (s : State) (n : Nat) (f : Upd → Upd) : (s.updUpd n f).cores = s.cores := rfl
@[simp] theorem State.updUpd_caddies (s : State) (n : Nat) (f : Upd → Upd) : (s.updUpd n f).caddies = s.caddies := rfl
@[simp] theorem State.updUpd_nextUpd (s : State) (n : Nat) (f : Upd → Upd) : (s.updUpd n f).nextUpd = s.nextUpd := rfl
@[simp] theorem State.updUpd_pools (s : State) (n : Nat) (f : Upd → Upd) : (s.updUpd n f).pools = s.pools := rfl
@[simp] theorem State.updUpd_mailboxes (s : State) (n : Nat) (f : Upd → Upd) : (s.updUpd n f).mailboxes = s.mailboxes := rfl
@[simp] theorem State.updUpd_rotations (s : State) (n : Nat) (f : Upd → Upd) : (s.updUpd n f).rotations = s.rotations := rfl
@[simp] theorem State.updUpd_switches (s : State) (n : Nat) (f : Upd → Upd) : (s.updUpd n f).switches = s.switches := rfl
@[simp] theorem State.updUpd_composites (s : State) (n : Nat) (f : Upd → Upd) : (s.updUpd n f).composites = s.composites := rfl
@[simp] theorem State.updUpd_fans (s : State) (n : Nat) (f : Upd → Upd) : (s.updUpd n f).fans = s.fans := rfl
@[simp] theorem State.updUpd_nextFan (s : State) (n : Nat) (f : Upd → Upd) : (s.updUpd n f).nextFan = s.nextFan := rfl
@[simp] theorem State.updUpd_kettleAnswer (s : State) (n : Nat) (f : Upd → Upd) : (s.updUpd n f).kettleAnswer = s.kettleAnswer := rfl
@[simp] theorem State.updUpd_remoteEvents (s : State) (n : Nat) (f : Upd → Upd) : (s.updUpd n f).remoteEvents = s.remoteEvents := rfl
@[simp] theorem State.updUpd_members (s : State) (n : Nat) (f : Upd → Upd) : (s.updUpd n f).members = s.members := rfl
@[simp] theorem State.updUpd_host (s : State) (n : Nat) (f : Upd → Upd) : (s.updUpd n f).host = s.host := rfl
@[simp] theorem State.updUpd_power (s : State) (n : Nat) (f : Upd → Upd) : (s.updUpd n f).power = s.power := rfl
@[simp] theorem State.updUpd_trust (s : State) (n : Nat) (f : Upd → Upd) : (s.updUpd n f).trust = s.trust := rfl
@[simp] theorem State.updUpd_fabric (s : State) (n : Nat) (f : Upd → Upd) : (s.updUpd n f).fabric = s.fabric := rfl
@[simp] theorem State.updUpd_loads (s : State) (n : Nat) (f : Upd → Upd) : (s.updUpd n f).loads = s.loads := rfl
@[simp] theorem State.updUpd_infMib (s : State) (n : Nat) (f : Upd → Upd) : (s.updUpd n f).infMib = s.infMib := rfl
@[simp] theorem State.updUpd_infBytes (s : State) (n : Nat) (f : Upd → Upd) : (s.updUpd n f).infBytes = s.infBytes := rfl
@[simp] theorem State.updUpd_infRetries (s : State) (n : Nat) (f : Upd → Upd) : (s.updUpd n f).infRetries = s.infRetries := rfl
@[simp] theorem State.updUpd_infDuplicates (s : State) (n : Nat) (f : Upd → Upd) : (s.updUpd n f).infDuplicates = s.infDuplicates := rfl
@[simp] theorem State.updUpd_queueStatus (s : State) (n : Nat) (f : Upd → Upd) : (s.updUpd n f).queueStatus = s.queueStatus := rfl
@[simp] theorem State.updUpd_queueData (s : State) (n : Nat) (f : Upd → Upd) : (s.updUpd n f).queueData = s.queueData := rfl
@[simp] theorem State.updUpd_readData (s : State) (n : Nat) (f : Upd → Upd) : (s.updUpd n f).readData = s.readData := rfl
@[simp] theorem State.updUpd_out (s : State) (n : Nat) (f : Upd → Upd) : (s.updUpd n f).out = s.out := rfl
@[simp] theorem State.updUpd_fresh (s : State) (n : Nat) (f : Upd → Upd) : (s.updUpd n f).fresh = s.fresh := rfl

/-! `State.setCore` writes cores only. -/

@[simp] theorem State.setCore_pending (s : State) (n : Nat) (v : Core) : (s.setCore n v).pending = s.pending := rfl
@[simp] theorem State.setCore_early (s : State) (n : Nat) (v : Core) : (s.setCore n v).early = s.early := rfl
@[simp] theorem State.setCore_steep (s : State) (n : Nat) (v : Core) : (s.setCore n v).steep = s.steep := rfl
@[simp] theorem State.setCore_units (s : State) (n : Nat) (v : Core) : (s.setCore n v).units = s.units := rfl
@[simp] theorem State.setCore_faults (s : State) (n : Nat) (v : Core) : (s.setCore n v).faults = s.faults := rfl
@[simp] theorem State.setCore_mem (s : State) (n : Nat) (v : Core) : (s.setCore n v).mem = s.mem := rfl
@[simp] theorem State.setCore_caddies (s : State) (n : Nat) (v : Core) : (s.setCore n v).caddies = s.caddies := rfl
@[simp] theorem State.setCore_nextUpd (s : State) (n : Nat) (v : Core) : (s.setCore n v).nextUpd = s.nextUpd := rfl
@[simp] theorem State.setCore_pools (s : State) (n : Nat) (v : Core) : (s.setCore n v).pools = s.pools := rfl
@[simp] theorem State.setCore_mailboxes (s : State) (n : Nat) (v : Core) : (s.setCore n v).mailboxes = s.mailboxes := rfl
@[simp] theorem State.setCore_ctxs (s : State) (n : Nat) (v : Core) : (s.setCore n v).ctxs = s.ctxs := rfl
@[simp] theorem State.setCore_rotations (s : State) (n : Nat) (v : Core) : (s.setCore n v).rotations = s.rotations := rfl
@[simp] theorem State.setCore_switches (s : State) (n : Nat) (v : Core) : (s.setCore n v).switches = s.switches := rfl
@[simp] theorem State.setCore_composites (s : State) (n : Nat) (v : Core) : (s.setCore n v).composites = s.composites := rfl
@[simp] theorem State.setCore_fans (s : State) (n : Nat) (v : Core) : (s.setCore n v).fans = s.fans := rfl
@[simp] theorem State.setCore_nextFan (s : State) (n : Nat) (v : Core) : (s.setCore n v).nextFan = s.nextFan := rfl
@[simp] theorem State.setCore_kettleAnswer (s : State) (n : Nat) (v : Core) : (s.setCore n v).kettleAnswer = s.kettleAnswer := rfl
@[simp] theorem State.setCore_remoteEvents (s : State) (n : Nat) (v : Core) : (s.setCore n v).remoteEvents = s.remoteEvents := rfl
@[simp] theorem State.setCore_members (s : State) (n : Nat) (v : Core) : (s.setCore n v).members = s.members := rfl
@[simp] theorem State.setCore_host (s : State) (n : Nat) (v : Core) : (s.setCore n v).host = s.host := rfl
@[simp] theorem State.setCore_power (s : State) (n : Nat) (v : Core) : (s.setCore n v).power = s.power := rfl
@[simp] theorem State.setCore_trust (s : State) (n : Nat) (v : Core) : (s.setCore n v).trust = s.trust := rfl
@[simp] theorem State.setCore_fabric (s : State) (n : Nat) (v : Core) : (s.setCore n v).fabric = s.fabric := rfl
@[simp] theorem State.setCore_loads (s : State) (n : Nat) (v : Core) : (s.setCore n v).loads = s.loads := rfl
@[simp] theorem State.setCore_infMib (s : State) (n : Nat) (v : Core) : (s.setCore n v).infMib = s.infMib := rfl
@[simp] theorem State.setCore_infBytes (s : State) (n : Nat) (v : Core) : (s.setCore n v).infBytes = s.infBytes := rfl
@[simp] theorem State.setCore_infRetries (s : State) (n : Nat) (v : Core) : (s.setCore n v).infRetries = s.infRetries := rfl
@[simp] theorem State.setCore_infDuplicates (s : State) (n : Nat) (v : Core) : (s.setCore n v).infDuplicates = s.infDuplicates := rfl
@[simp] theorem State.setCore_queueStatus (s : State) (n : Nat) (v : Core) : (s.setCore n v).queueStatus = s.queueStatus := rfl
@[simp] theorem State.setCore_queueData (s : State) (n : Nat) (v : Core) : (s.setCore n v).queueData = s.queueData := rfl
@[simp] theorem State.setCore_readData (s : State) (n : Nat) (v : Core) : (s.setCore n v).readData = s.readData := rfl
@[simp] theorem State.setCore_out (s : State) (n : Nat) (v : Core) : (s.setCore n v).out = s.out := rfl
@[simp] theorem State.setCore_fresh (s : State) (n : Nat) (v : Core) : (s.setCore n v).fresh = s.fresh := rfl

/-! `State.updCore` writes cores only. -/

@[simp] theorem State.updCore_pending (s : State) (n : Nat) (f : Core → Core) : (s.updCore n f).pending = s.pending := rfl
@[simp] theorem State.updCore_early (s : State) (n : Nat) (f : Core → Core) : (s.updCore n f).early = s.early := rfl
@[simp] theorem State.updCore_steep (s : State) (n : Nat) (f : Core → Core) : (s.updCore n f).steep = s.steep := rfl
@[simp] theorem State.updCore_units (s : State) (n : Nat) (f : Core → Core) : (s.updCore n f).units = s.units := rfl
@[simp] theorem State.updCore_faults (s : State) (n : Nat) (f : Core → Core) : (s.updCore n f).faults = s.faults := rfl
@[simp] theorem State.updCore_mem (s : State) (n : Nat) (f : Core → Core) : (s.updCore n f).mem = s.mem := rfl
@[simp] theorem State.updCore_caddies (s : State) (n : Nat) (f : Core → Core) : (s.updCore n f).caddies = s.caddies := rfl
@[simp] theorem State.updCore_nextUpd (s : State) (n : Nat) (f : Core → Core) : (s.updCore n f).nextUpd = s.nextUpd := rfl
@[simp] theorem State.updCore_pools (s : State) (n : Nat) (f : Core → Core) : (s.updCore n f).pools = s.pools := rfl
@[simp] theorem State.updCore_mailboxes (s : State) (n : Nat) (f : Core → Core) : (s.updCore n f).mailboxes = s.mailboxes := rfl
@[simp] theorem State.updCore_ctxs (s : State) (n : Nat) (f : Core → Core) : (s.updCore n f).ctxs = s.ctxs := rfl
@[simp] theorem State.updCore_rotations (s : State) (n : Nat) (f : Core → Core) : (s.updCore n f).rotations = s.rotations := rfl
@[simp] theorem State.updCore_switches (s : State) (n : Nat) (f : Core → Core) : (s.updCore n f).switches = s.switches := rfl
@[simp] theorem State.updCore_composites (s : State) (n : Nat) (f : Core → Core) : (s.updCore n f).composites = s.composites := rfl
@[simp] theorem State.updCore_fans (s : State) (n : Nat) (f : Core → Core) : (s.updCore n f).fans = s.fans := rfl
@[simp] theorem State.updCore_nextFan (s : State) (n : Nat) (f : Core → Core) : (s.updCore n f).nextFan = s.nextFan := rfl
@[simp] theorem State.updCore_kettleAnswer (s : State) (n : Nat) (f : Core → Core) : (s.updCore n f).kettleAnswer = s.kettleAnswer := rfl
@[simp] theorem State.updCore_remoteEvents (s : State) (n : Nat) (f : Core → Core) : (s.updCore n f).remoteEvents = s.remoteEvents := rfl
@[simp] theorem State.updCore_members (s : State) (n : Nat) (f : Core → Core) : (s.updCore n f).members = s.members := rfl
@[simp] theorem State.updCore_host (s : State) (n : Nat) (f : Core → Core) : (s.updCore n f).host = s.host := rfl
@[simp] theorem State.updCore_power (s : State) (n : Nat) (f : Core → Core) : (s.updCore n f).power = s.power := rfl
@[simp] theorem State.updCore_trust (s : State) (n : Nat) (f : Core → Core) : (s.updCore n f).trust = s.trust := rfl
@[simp] theorem State.updCore_fabric (s : State) (n : Nat) (f : Core → Core) : (s.updCore n f).fabric = s.fabric := rfl
@[simp] theorem State.updCore_loads (s : State) (n : Nat) (f : Core → Core) : (s.updCore n f).loads = s.loads := rfl
@[simp] theorem State.updCore_infMib (s : State) (n : Nat) (f : Core → Core) : (s.updCore n f).infMib = s.infMib := rfl
@[simp] theorem State.updCore_infBytes (s : State) (n : Nat) (f : Core → Core) : (s.updCore n f).infBytes = s.infBytes := rfl
@[simp] theorem State.updCore_infRetries (s : State) (n : Nat) (f : Core → Core) : (s.updCore n f).infRetries = s.infRetries := rfl
@[simp] theorem State.updCore_infDuplicates (s : State) (n : Nat) (f : Core → Core) : (s.updCore n f).infDuplicates = s.infDuplicates := rfl
@[simp] theorem State.updCore_queueStatus (s : State) (n : Nat) (f : Core → Core) : (s.updCore n f).queueStatus = s.queueStatus := rfl
@[simp] theorem State.updCore_queueData (s : State) (n : Nat) (f : Core → Core) : (s.updCore n f).queueData = s.queueData := rfl
@[simp] theorem State.updCore_readData (s : State) (n : Nat) (f : Core → Core) : (s.updCore n f).readData = s.readData := rfl
@[simp] theorem State.updCore_out (s : State) (n : Nat) (f : Core → Core) : (s.updCore n f).out = s.out := rfl
@[simp] theorem State.updCore_fresh (s : State) (n : Nat) (f : Core → Core) : (s.updCore n f).fresh = s.fresh := rfl

/-! `State.updCaddy` writes caddies only. -/

@[simp] theorem State.updCaddy_pending (s : State) (n : Nat) (f : Caddy → Caddy) : (s.updCaddy n f).pending = s.pending := rfl
@[simp] theorem State.updCaddy_early (s : State) (n : Nat) (f : Caddy → Caddy) : (s.updCaddy n f).early = s.early := rfl
@[simp] theorem State.updCaddy_steep (s : State) (n : Nat) (f : Caddy → Caddy) : (s.updCaddy n f).steep = s.steep := rfl
@[simp] theorem State.updCaddy_units (s : State) (n : Nat) (f : Caddy → Caddy) : (s.updCaddy n f).units = s.units := rfl
@[simp] theorem State.updCaddy_faults (s : State) (n : Nat) (f : Caddy → Caddy) : (s.updCaddy n f).faults = s.faults := rfl
@[simp] theorem State.updCaddy_mem (s : State) (n : Nat) (f : Caddy → Caddy) : (s.updCaddy n f).mem = s.mem := rfl
@[simp] theorem State.updCaddy_cores (s : State) (n : Nat) (f : Caddy → Caddy) : (s.updCaddy n f).cores = s.cores := rfl
@[simp] theorem State.updCaddy_nextUpd (s : State) (n : Nat) (f : Caddy → Caddy) : (s.updCaddy n f).nextUpd = s.nextUpd := rfl
@[simp] theorem State.updCaddy_pools (s : State) (n : Nat) (f : Caddy → Caddy) : (s.updCaddy n f).pools = s.pools := rfl
@[simp] theorem State.updCaddy_mailboxes (s : State) (n : Nat) (f : Caddy → Caddy) : (s.updCaddy n f).mailboxes = s.mailboxes := rfl
@[simp] theorem State.updCaddy_ctxs (s : State) (n : Nat) (f : Caddy → Caddy) : (s.updCaddy n f).ctxs = s.ctxs := rfl
@[simp] theorem State.updCaddy_rotations (s : State) (n : Nat) (f : Caddy → Caddy) : (s.updCaddy n f).rotations = s.rotations := rfl
@[simp] theorem State.updCaddy_switches (s : State) (n : Nat) (f : Caddy → Caddy) : (s.updCaddy n f).switches = s.switches := rfl
@[simp] theorem State.updCaddy_composites (s : State) (n : Nat) (f : Caddy → Caddy) : (s.updCaddy n f).composites = s.composites := rfl
@[simp] theorem State.updCaddy_fans (s : State) (n : Nat) (f : Caddy → Caddy) : (s.updCaddy n f).fans = s.fans := rfl
@[simp] theorem State.updCaddy_nextFan (s : State) (n : Nat) (f : Caddy → Caddy) : (s.updCaddy n f).nextFan = s.nextFan := rfl
@[simp] theorem State.updCaddy_kettleAnswer (s : State) (n : Nat) (f : Caddy → Caddy) : (s.updCaddy n f).kettleAnswer = s.kettleAnswer := rfl
@[simp] theorem State.updCaddy_remoteEvents (s : State) (n : Nat) (f : Caddy → Caddy) : (s.updCaddy n f).remoteEvents = s.remoteEvents := rfl
@[simp] theorem State.updCaddy_members (s : State) (n : Nat) (f : Caddy → Caddy) : (s.updCaddy n f).members = s.members := rfl
@[simp] theorem State.updCaddy_host (s : State) (n : Nat) (f : Caddy → Caddy) : (s.updCaddy n f).host = s.host := rfl
@[simp] theorem State.updCaddy_power (s : State) (n : Nat) (f : Caddy → Caddy) : (s.updCaddy n f).power = s.power := rfl
@[simp] theorem State.updCaddy_trust (s : State) (n : Nat) (f : Caddy → Caddy) : (s.updCaddy n f).trust = s.trust := rfl
@[simp] theorem State.updCaddy_fabric (s : State) (n : Nat) (f : Caddy → Caddy) : (s.updCaddy n f).fabric = s.fabric := rfl
@[simp] theorem State.updCaddy_loads (s : State) (n : Nat) (f : Caddy → Caddy) : (s.updCaddy n f).loads = s.loads := rfl
@[simp] theorem State.updCaddy_infMib (s : State) (n : Nat) (f : Caddy → Caddy) : (s.updCaddy n f).infMib = s.infMib := rfl
@[simp] theorem State.updCaddy_infBytes (s : State) (n : Nat) (f : Caddy → Caddy) : (s.updCaddy n f).infBytes = s.infBytes := rfl
@[simp] theorem State.updCaddy_infRetries (s : State) (n : Nat) (f : Caddy → Caddy) : (s.updCaddy n f).infRetries = s.infRetries := rfl
@[simp] theorem State.updCaddy_infDuplicates (s : State) (n : Nat) (f : Caddy → Caddy) : (s.updCaddy n f).infDuplicates = s.infDuplicates := rfl
@[simp] theorem State.updCaddy_queueStatus (s : State) (n : Nat) (f : Caddy → Caddy) : (s.updCaddy n f).queueStatus = s.queueStatus := rfl
@[simp] theorem State.updCaddy_queueData (s : State) (n : Nat) (f : Caddy → Caddy) : (s.updCaddy n f).queueData = s.queueData := rfl
@[simp] theorem State.updCaddy_readData (s : State) (n : Nat) (f : Caddy → Caddy) : (s.updCaddy n f).readData = s.readData := rfl
@[simp] theorem State.updCaddy_out (s : State) (n : Nat) (f : Caddy → Caddy) : (s.updCaddy n f).out = s.out := rfl
@[simp] theorem State.updCaddy_fresh (s : State) (n : Nat) (f : Caddy → Caddy) : (s.updCaddy n f).fresh = s.fresh := rfl

/-! `State.setLink` writes fabric only. -/

@[simp] theorem State.setLink_pending (s : State) (n : Nat) (v : Link) : (s.setLink n v).pending = s.pending := rfl
@[simp] theorem State.setLink_early (s : State) (n : Nat) (v : Link) : (s.setLink n v).early = s.early := rfl
@[simp] theorem State.setLink_steep (s : State) (n : Nat) (v : Link) : (s.setLink n v).steep = s.steep := rfl
@[simp] theorem State.setLink_units (s : State) (n : Nat) (v : Link) : (s.setLink n v).units = s.units := rfl
@[simp] theorem State.setLink_faults (s : State) (n : Nat) (v : Link) : (s.setLink n v).faults = s.faults := rfl
@[simp] theorem State.setLink_mem (s : State) (n : Nat) (v : Link) : (s.setLink n v).mem = s.mem := rfl
@[simp] theorem State.setLink_cores (s : State) (n : Nat) (v : Link) : (s.setLink n v).cores = s.cores := rfl
@[simp] theorem State.setLink_caddies (s : State) (n : Nat) (v : Link) : (s.setLink n v).caddies = s.caddies := rfl
@[simp] theorem State.setLink_nextUpd (s : State) (n : Nat) (v : Link) : (s.setLink n v).nextUpd = s.nextUpd := rfl
@[simp] theorem State.setLink_pools (s : State) (n : Nat) (v : Link) : (s.setLink n v).pools = s.pools := rfl
@[simp] theorem State.setLink_mailboxes (s : State) (n : Nat) (v : Link) : (s.setLink n v).mailboxes = s.mailboxes := rfl
@[simp] theorem State.setLink_ctxs (s : State) (n : Nat) (v : Link) : (s.setLink n v).ctxs = s.ctxs := rfl
@[simp] theorem State.setLink_rotations (s : State) (n : Nat) (v : Link) : (s.setLink n v).rotations = s.rotations := rfl
@[simp] theorem State.setLink_switches (s : State) (n : Nat) (v : Link) : (s.setLink n v).switches = s.switches := rfl
@[simp] theorem State.setLink_composites (s : State) (n : Nat) (v : Link) : (s.setLink n v).composites = s.composites := rfl
@[simp] theorem State.setLink_fans (s : State) (n : Nat) (v : Link) : (s.setLink n v).fans = s.fans := rfl
@[simp] theorem State.setLink_nextFan (s : State) (n : Nat) (v : Link) : (s.setLink n v).nextFan = s.nextFan := rfl
@[simp] theorem State.setLink_kettleAnswer (s : State) (n : Nat) (v : Link) : (s.setLink n v).kettleAnswer = s.kettleAnswer := rfl
@[simp] theorem State.setLink_remoteEvents (s : State) (n : Nat) (v : Link) : (s.setLink n v).remoteEvents = s.remoteEvents := rfl
@[simp] theorem State.setLink_members (s : State) (n : Nat) (v : Link) : (s.setLink n v).members = s.members := rfl
@[simp] theorem State.setLink_host (s : State) (n : Nat) (v : Link) : (s.setLink n v).host = s.host := rfl
@[simp] theorem State.setLink_power (s : State) (n : Nat) (v : Link) : (s.setLink n v).power = s.power := rfl
@[simp] theorem State.setLink_trust (s : State) (n : Nat) (v : Link) : (s.setLink n v).trust = s.trust := rfl
@[simp] theorem State.setLink_loads (s : State) (n : Nat) (v : Link) : (s.setLink n v).loads = s.loads := rfl
@[simp] theorem State.setLink_infMib (s : State) (n : Nat) (v : Link) : (s.setLink n v).infMib = s.infMib := rfl
@[simp] theorem State.setLink_infBytes (s : State) (n : Nat) (v : Link) : (s.setLink n v).infBytes = s.infBytes := rfl
@[simp] theorem State.setLink_infRetries (s : State) (n : Nat) (v : Link) : (s.setLink n v).infRetries = s.infRetries := rfl
@[simp] theorem State.setLink_infDuplicates (s : State) (n : Nat) (v : Link) : (s.setLink n v).infDuplicates = s.infDuplicates := rfl
@[simp] theorem State.setLink_queueStatus (s : State) (n : Nat) (v : Link) : (s.setLink n v).queueStatus = s.queueStatus := rfl
@[simp] theorem State.setLink_queueData (s : State) (n : Nat) (v : Link) : (s.setLink n v).queueData = s.queueData := rfl
@[simp] theorem State.setLink_readData (s : State) (n : Nat) (v : Link) : (s.setLink n v).readData = s.readData := rfl
@[simp] theorem State.setLink_out (s : State) (n : Nat) (v : Link) : (s.setLink n v).out = s.out := rfl
@[simp] theorem State.setLink_fresh (s : State) (n : Nat) (v : Link) : (s.setLink n v).fresh = s.fresh := rfl

/-! `State.updLink` writes fabric only. -/

@[simp] theorem State.updLink_pending (s : State) (n : Nat) (f : Link → Link) : (s.updLink n f).pending = s.pending := rfl
@[simp] theorem State.updLink_early (s : State) (n : Nat) (f : Link → Link) : (s.updLink n f).early = s.early := rfl
@[simp] theorem State.updLink_steep (s : State) (n : Nat) (f : Link → Link) : (s.updLink n f).steep = s.steep := rfl
@[simp] theorem State.updLink_units (s : State) (n : Nat) (f : Link → Link) : (s.updLink n f).units = s.units := rfl
@[simp] theorem State.updLink_faults (s : State) (n : Nat) (f : Link → Link) : (s.updLink n f).faults = s.faults := rfl
@[simp] theorem State.updLink_mem (s : State) (n : Nat) (f : Link → Link) : (s.updLink n f).mem = s.mem := rfl
@[simp] theorem State.updLink_cores (s : State) (n : Nat) (f : Link → Link) : (s.updLink n f).cores = s.cores := rfl
@[simp] theorem State.updLink_caddies (s : State) (n : Nat) (f : Link → Link) : (s.updLink n f).caddies = s.caddies := rfl
@[simp] theorem State.updLink_nextUpd (s : State) (n : Nat) (f : Link → Link) : (s.updLink n f).nextUpd = s.nextUpd := rfl
@[simp] theorem State.updLink_pools (s : State) (n : Nat) (f : Link → Link) : (s.updLink n f).pools = s.pools := rfl
@[simp] theorem State.updLink_mailboxes (s : State) (n : Nat) (f : Link → Link) : (s.updLink n f).mailboxes = s.mailboxes := rfl
@[simp] theorem State.updLink_ctxs (s : State) (n : Nat) (f : Link → Link) : (s.updLink n f).ctxs = s.ctxs := rfl
@[simp] theorem State.updLink_rotations (s : State) (n : Nat) (f : Link → Link) : (s.updLink n f).rotations = s.rotations := rfl
@[simp] theorem State.updLink_switches (s : State) (n : Nat) (f : Link → Link) : (s.updLink n f).switches = s.switches := rfl
@[simp] theorem State.updLink_composites (s : State) (n : Nat) (f : Link → Link) : (s.updLink n f).composites = s.composites := rfl
@[simp] theorem State.updLink_fans (s : State) (n : Nat) (f : Link → Link) : (s.updLink n f).fans = s.fans := rfl
@[simp] theorem State.updLink_nextFan (s : State) (n : Nat) (f : Link → Link) : (s.updLink n f).nextFan = s.nextFan := rfl
@[simp] theorem State.updLink_kettleAnswer (s : State) (n : Nat) (f : Link → Link) : (s.updLink n f).kettleAnswer = s.kettleAnswer := rfl
@[simp] theorem State.updLink_remoteEvents (s : State) (n : Nat) (f : Link → Link) : (s.updLink n f).remoteEvents = s.remoteEvents := rfl
@[simp] theorem State.updLink_members (s : State) (n : Nat) (f : Link → Link) : (s.updLink n f).members = s.members := rfl
@[simp] theorem State.updLink_host (s : State) (n : Nat) (f : Link → Link) : (s.updLink n f).host = s.host := rfl
@[simp] theorem State.updLink_power (s : State) (n : Nat) (f : Link → Link) : (s.updLink n f).power = s.power := rfl
@[simp] theorem State.updLink_trust (s : State) (n : Nat) (f : Link → Link) : (s.updLink n f).trust = s.trust := rfl
@[simp] theorem State.updLink_loads (s : State) (n : Nat) (f : Link → Link) : (s.updLink n f).loads = s.loads := rfl
@[simp] theorem State.updLink_infMib (s : State) (n : Nat) (f : Link → Link) : (s.updLink n f).infMib = s.infMib := rfl
@[simp] theorem State.updLink_infBytes (s : State) (n : Nat) (f : Link → Link) : (s.updLink n f).infBytes = s.infBytes := rfl
@[simp] theorem State.updLink_infRetries (s : State) (n : Nat) (f : Link → Link) : (s.updLink n f).infRetries = s.infRetries := rfl
@[simp] theorem State.updLink_infDuplicates (s : State) (n : Nat) (f : Link → Link) : (s.updLink n f).infDuplicates = s.infDuplicates := rfl
@[simp] theorem State.updLink_queueStatus (s : State) (n : Nat) (f : Link → Link) : (s.updLink n f).queueStatus = s.queueStatus := rfl
@[simp] theorem State.updLink_queueData (s : State) (n : Nat) (f : Link → Link) : (s.updLink n f).queueData = s.queueData := rfl
@[simp] theorem State.updLink_readData (s : State) (n : Nat) (f : Link → Link) : (s.updLink n f).readData = s.readData := rfl
@[simp] theorem State.updLink_out (s : State) (n : Nat) (f : Link → Link) : (s.updLink n f).out = s.out := rfl
@[simp] theorem State.updLink_fresh (s : State) (n : Nat) (f : Link → Link) : (s.updLink n f).fresh = s.fresh := rfl

/-! `State.updRegion` writes power only. -/

@[simp] theorem State.updRegion_pending (s : State) (n : Nat) (f : Region → Region) : (s.updRegion n f).pending = s.pending := rfl
@[simp] theorem State.updRegion_early (s : State) (n : Nat) (f : Region → Region) : (s.updRegion n f).early = s.early := rfl
@[simp] theorem State.updRegion_steep (s : State) (n : Nat) (f : Region → Region) : (s.updRegion n f).steep = s.steep := rfl
@[simp] theorem State.updRegion_units (s : State) (n : Nat) (f : Region → Region) : (s.updRegion n f).units = s.units := rfl
@[simp] theorem State.updRegion_faults (s : State) (n : Nat) (f : Region → Region) : (s.updRegion n f).faults = s.faults := rfl
@[simp] theorem State.updRegion_mem (s : State) (n : Nat) (f : Region → Region) : (s.updRegion n f).mem = s.mem := rfl
@[simp] theorem State.updRegion_cores (s : State) (n : Nat) (f : Region → Region) : (s.updRegion n f).cores = s.cores := rfl
@[simp] theorem State.updRegion_caddies (s : State) (n : Nat) (f : Region → Region) : (s.updRegion n f).caddies = s.caddies := rfl
@[simp] theorem State.updRegion_nextUpd (s : State) (n : Nat) (f : Region → Region) : (s.updRegion n f).nextUpd = s.nextUpd := rfl
@[simp] theorem State.updRegion_pools (s : State) (n : Nat) (f : Region → Region) : (s.updRegion n f).pools = s.pools := rfl
@[simp] theorem State.updRegion_mailboxes (s : State) (n : Nat) (f : Region → Region) : (s.updRegion n f).mailboxes = s.mailboxes := rfl
@[simp] theorem State.updRegion_ctxs (s : State) (n : Nat) (f : Region → Region) : (s.updRegion n f).ctxs = s.ctxs := rfl
@[simp] theorem State.updRegion_rotations (s : State) (n : Nat) (f : Region → Region) : (s.updRegion n f).rotations = s.rotations := rfl
@[simp] theorem State.updRegion_switches (s : State) (n : Nat) (f : Region → Region) : (s.updRegion n f).switches = s.switches := rfl
@[simp] theorem State.updRegion_composites (s : State) (n : Nat) (f : Region → Region) : (s.updRegion n f).composites = s.composites := rfl
@[simp] theorem State.updRegion_fans (s : State) (n : Nat) (f : Region → Region) : (s.updRegion n f).fans = s.fans := rfl
@[simp] theorem State.updRegion_nextFan (s : State) (n : Nat) (f : Region → Region) : (s.updRegion n f).nextFan = s.nextFan := rfl
@[simp] theorem State.updRegion_kettleAnswer (s : State) (n : Nat) (f : Region → Region) : (s.updRegion n f).kettleAnswer = s.kettleAnswer := rfl
@[simp] theorem State.updRegion_remoteEvents (s : State) (n : Nat) (f : Region → Region) : (s.updRegion n f).remoteEvents = s.remoteEvents := rfl
@[simp] theorem State.updRegion_members (s : State) (n : Nat) (f : Region → Region) : (s.updRegion n f).members = s.members := rfl
@[simp] theorem State.updRegion_host (s : State) (n : Nat) (f : Region → Region) : (s.updRegion n f).host = s.host := rfl
@[simp] theorem State.updRegion_trust (s : State) (n : Nat) (f : Region → Region) : (s.updRegion n f).trust = s.trust := rfl
@[simp] theorem State.updRegion_fabric (s : State) (n : Nat) (f : Region → Region) : (s.updRegion n f).fabric = s.fabric := rfl
@[simp] theorem State.updRegion_loads (s : State) (n : Nat) (f : Region → Region) : (s.updRegion n f).loads = s.loads := rfl
@[simp] theorem State.updRegion_infMib (s : State) (n : Nat) (f : Region → Region) : (s.updRegion n f).infMib = s.infMib := rfl
@[simp] theorem State.updRegion_infBytes (s : State) (n : Nat) (f : Region → Region) : (s.updRegion n f).infBytes = s.infBytes := rfl
@[simp] theorem State.updRegion_infRetries (s : State) (n : Nat) (f : Region → Region) : (s.updRegion n f).infRetries = s.infRetries := rfl
@[simp] theorem State.updRegion_infDuplicates (s : State) (n : Nat) (f : Region → Region) : (s.updRegion n f).infDuplicates = s.infDuplicates := rfl
@[simp] theorem State.updRegion_queueStatus (s : State) (n : Nat) (f : Region → Region) : (s.updRegion n f).queueStatus = s.queueStatus := rfl
@[simp] theorem State.updRegion_queueData (s : State) (n : Nat) (f : Region → Region) : (s.updRegion n f).queueData = s.queueData := rfl
@[simp] theorem State.updRegion_readData (s : State) (n : Nat) (f : Region → Region) : (s.updRegion n f).readData = s.readData := rfl
@[simp] theorem State.updRegion_out (s : State) (n : Nat) (f : Region → Region) : (s.updRegion n f).out = s.out := rfl
@[simp] theorem State.updRegion_fresh (s : State) (n : Nat) (f : Region → Region) : (s.updRegion n f).fresh = s.fresh := rfl

/-! `State.emit` writes out only. -/

@[simp] theorem State.emit_pending (s : State) (o : Out) : (s.emit o).pending = s.pending := rfl
@[simp] theorem State.emit_early (s : State) (o : Out) : (s.emit o).early = s.early := rfl
@[simp] theorem State.emit_steep (s : State) (o : Out) : (s.emit o).steep = s.steep := rfl
@[simp] theorem State.emit_units (s : State) (o : Out) : (s.emit o).units = s.units := rfl
@[simp] theorem State.emit_faults (s : State) (o : Out) : (s.emit o).faults = s.faults := rfl
@[simp] theorem State.emit_mem (s : State) (o : Out) : (s.emit o).mem = s.mem := rfl
@[simp] theorem State.emit_cores (s : State) (o : Out) : (s.emit o).cores = s.cores := rfl
@[simp] theorem State.emit_caddies (s : State) (o : Out) : (s.emit o).caddies = s.caddies := rfl
@[simp] theorem State.emit_nextUpd (s : State) (o : Out) : (s.emit o).nextUpd = s.nextUpd := rfl
@[simp] theorem State.emit_pools (s : State) (o : Out) : (s.emit o).pools = s.pools := rfl
@[simp] theorem State.emit_mailboxes (s : State) (o : Out) : (s.emit o).mailboxes = s.mailboxes := rfl
@[simp] theorem State.emit_ctxs (s : State) (o : Out) : (s.emit o).ctxs = s.ctxs := rfl
@[simp] theorem State.emit_rotations (s : State) (o : Out) : (s.emit o).rotations = s.rotations := rfl
@[simp] theorem State.emit_switches (s : State) (o : Out) : (s.emit o).switches = s.switches := rfl
@[simp] theorem State.emit_composites (s : State) (o : Out) : (s.emit o).composites = s.composites := rfl
@[simp] theorem State.emit_fans (s : State) (o : Out) : (s.emit o).fans = s.fans := rfl
@[simp] theorem State.emit_nextFan (s : State) (o : Out) : (s.emit o).nextFan = s.nextFan := rfl
@[simp] theorem State.emit_kettleAnswer (s : State) (o : Out) : (s.emit o).kettleAnswer = s.kettleAnswer := rfl
@[simp] theorem State.emit_remoteEvents (s : State) (o : Out) : (s.emit o).remoteEvents = s.remoteEvents := rfl
@[simp] theorem State.emit_members (s : State) (o : Out) : (s.emit o).members = s.members := rfl
@[simp] theorem State.emit_host (s : State) (o : Out) : (s.emit o).host = s.host := rfl
@[simp] theorem State.emit_power (s : State) (o : Out) : (s.emit o).power = s.power := rfl
@[simp] theorem State.emit_trust (s : State) (o : Out) : (s.emit o).trust = s.trust := rfl
@[simp] theorem State.emit_fabric (s : State) (o : Out) : (s.emit o).fabric = s.fabric := rfl
@[simp] theorem State.emit_loads (s : State) (o : Out) : (s.emit o).loads = s.loads := rfl
@[simp] theorem State.emit_infMib (s : State) (o : Out) : (s.emit o).infMib = s.infMib := rfl
@[simp] theorem State.emit_infBytes (s : State) (o : Out) : (s.emit o).infBytes = s.infBytes := rfl
@[simp] theorem State.emit_infRetries (s : State) (o : Out) : (s.emit o).infRetries = s.infRetries := rfl
@[simp] theorem State.emit_infDuplicates (s : State) (o : Out) : (s.emit o).infDuplicates = s.infDuplicates := rfl
@[simp] theorem State.emit_queueStatus (s : State) (o : Out) : (s.emit o).queueStatus = s.queueStatus := rfl
@[simp] theorem State.emit_queueData (s : State) (o : Out) : (s.emit o).queueData = s.queueData := rfl
@[simp] theorem State.emit_readData (s : State) (o : Out) : (s.emit o).readData = s.readData := rfl
@[simp] theorem State.emit_fresh (s : State) (o : Out) : (s.emit o).fresh = s.fresh := rfl

/-! `State.answer` writes queueStatus queueData only. -/

@[simp] theorem State.answer_pending (s : State) (st : QStatus) (ws : List W64) : (s.answer st ws).pending = s.pending := rfl
@[simp] theorem State.answer_early (s : State) (st : QStatus) (ws : List W64) : (s.answer st ws).early = s.early := rfl
@[simp] theorem State.answer_steep (s : State) (st : QStatus) (ws : List W64) : (s.answer st ws).steep = s.steep := rfl
@[simp] theorem State.answer_units (s : State) (st : QStatus) (ws : List W64) : (s.answer st ws).units = s.units := rfl
@[simp] theorem State.answer_faults (s : State) (st : QStatus) (ws : List W64) : (s.answer st ws).faults = s.faults := rfl
@[simp] theorem State.answer_mem (s : State) (st : QStatus) (ws : List W64) : (s.answer st ws).mem = s.mem := rfl
@[simp] theorem State.answer_cores (s : State) (st : QStatus) (ws : List W64) : (s.answer st ws).cores = s.cores := rfl
@[simp] theorem State.answer_caddies (s : State) (st : QStatus) (ws : List W64) : (s.answer st ws).caddies = s.caddies := rfl
@[simp] theorem State.answer_nextUpd (s : State) (st : QStatus) (ws : List W64) : (s.answer st ws).nextUpd = s.nextUpd := rfl
@[simp] theorem State.answer_pools (s : State) (st : QStatus) (ws : List W64) : (s.answer st ws).pools = s.pools := rfl
@[simp] theorem State.answer_mailboxes (s : State) (st : QStatus) (ws : List W64) : (s.answer st ws).mailboxes = s.mailboxes := rfl
@[simp] theorem State.answer_ctxs (s : State) (st : QStatus) (ws : List W64) : (s.answer st ws).ctxs = s.ctxs := rfl
@[simp] theorem State.answer_rotations (s : State) (st : QStatus) (ws : List W64) : (s.answer st ws).rotations = s.rotations := rfl
@[simp] theorem State.answer_switches (s : State) (st : QStatus) (ws : List W64) : (s.answer st ws).switches = s.switches := rfl
@[simp] theorem State.answer_composites (s : State) (st : QStatus) (ws : List W64) : (s.answer st ws).composites = s.composites := rfl
@[simp] theorem State.answer_fans (s : State) (st : QStatus) (ws : List W64) : (s.answer st ws).fans = s.fans := rfl
@[simp] theorem State.answer_nextFan (s : State) (st : QStatus) (ws : List W64) : (s.answer st ws).nextFan = s.nextFan := rfl
@[simp] theorem State.answer_kettleAnswer (s : State) (st : QStatus) (ws : List W64) : (s.answer st ws).kettleAnswer = s.kettleAnswer := rfl
@[simp] theorem State.answer_remoteEvents (s : State) (st : QStatus) (ws : List W64) : (s.answer st ws).remoteEvents = s.remoteEvents := rfl
@[simp] theorem State.answer_members (s : State) (st : QStatus) (ws : List W64) : (s.answer st ws).members = s.members := rfl
@[simp] theorem State.answer_host (s : State) (st : QStatus) (ws : List W64) : (s.answer st ws).host = s.host := rfl
@[simp] theorem State.answer_power (s : State) (st : QStatus) (ws : List W64) : (s.answer st ws).power = s.power := rfl
@[simp] theorem State.answer_trust (s : State) (st : QStatus) (ws : List W64) : (s.answer st ws).trust = s.trust := rfl
@[simp] theorem State.answer_fabric (s : State) (st : QStatus) (ws : List W64) : (s.answer st ws).fabric = s.fabric := rfl
@[simp] theorem State.answer_loads (s : State) (st : QStatus) (ws : List W64) : (s.answer st ws).loads = s.loads := rfl
@[simp] theorem State.answer_infMib (s : State) (st : QStatus) (ws : List W64) : (s.answer st ws).infMib = s.infMib := rfl
@[simp] theorem State.answer_infBytes (s : State) (st : QStatus) (ws : List W64) : (s.answer st ws).infBytes = s.infBytes := rfl
@[simp] theorem State.answer_infRetries (s : State) (st : QStatus) (ws : List W64) : (s.answer st ws).infRetries = s.infRetries := rfl
@[simp] theorem State.answer_infDuplicates (s : State) (st : QStatus) (ws : List W64) : (s.answer st ws).infDuplicates = s.infDuplicates := rfl
@[simp] theorem State.answer_readData (s : State) (st : QStatus) (ws : List W64) : (s.answer st ws).readData = s.readData := rfl
@[simp] theorem State.answer_out (s : State) (st : QStatus) (ws : List W64) : (s.answer st ws).out = s.out := rfl
@[simp] theorem State.answer_fresh (s : State) (st : QStatus) (ws : List W64) : (s.answer st ws).fresh = s.fresh := rfl

end Sys2Proof.Machine
end

