-- ==== Sys2Proof/Laws/Memory.lean ====
section
/-! SUPPORT. Laws/Memory.lean: byte memory: a read after a write, bytes that a write leaves alone, and the one form that every
operation keeps. -/
namespace Sys2Proof.Machine

/-- Dropping an address makes it read 0. -/
theorem cellAt_filter_self (m : List Host.Cell) (x : Nat) : cellAt (m.filter fun c => decide (c.1 ≠ x)) x = 0#8 := by
  induction m with
  | nil => rfl
  | cons c r ih =>
    by_cases h : c.1 = x
    · simpa [h] using ih
    · simpa [h, cellAt] using ih

theorem cellAt_filter_ne (m : List Host.Cell) {x y : Nat} (h : x ≠ y) : cellAt (m.filter fun c => decide (c.1 ≠ x)) y = cellAt m y := by
  induction m with
  | nil => rfl
  | cons c r ih =>
    by_cases hc : c.1 = x
    · have hy : c.1 ≠ y := by omega
      simpa [hc, cellAt, h] using ih
    · by_cases hy : c.1 = y
      · simp [hy, cellAt, Ne.symm h]
      · simpa [hc, hy, cellAt] using ih

theorem cellAt_insertCell_self (m : List Host.Cell) (x : Nat) (v : Byte) : cellAt (insertCell m x v) x = v := by
  induction m with
  | nil => simp [insertCell, cellAt]
  | cons c r ih =>
    obtain ⟨a, b⟩ := c
    by_cases h1 : x < a
    · simp [insertCell, h1, cellAt]
    · by_cases h2 : x = a
      · simp [insertCell, h2, cellAt]
      · simp [insertCell, h1, h2, cellAt, Ne.symm h2, ih]

theorem cellAt_insertCell_ne (m : List Host.Cell) {x y : Nat} (v : Byte) (h : x ≠ y) : cellAt (insertCell m x v) y = cellAt m y := by
  induction m with
  | nil => simp [insertCell, cellAt, h]
  | cons c r ih =>
    obtain ⟨a, b⟩ := c
    by_cases h1 : x < a
    · simp [insertCell, h1, cellAt, h]
    · by_cases h2 : x = a
      · subst h2
        simp [insertCell, cellAt, h]
      · simp only [insertCell, h1, h2, if_false, cellAt, ih]

/-- A byte written is read back, from any list. -/
@[simp] theorem cellAt_putCell_self (m : List Host.Cell) (x : Nat) (v : Byte) : cellAt (putCell m x v) x = v := by
  unfold putCell
  split
  · subst_vars
    exact cellAt_filter_self m x
  · exact cellAt_insertCell_self m x v

/-- Every other byte stays. -/
theorem cellAt_putCell_ne (m : List Host.Cell) {x y : Nat} (v : Byte) (h : x ≠ y) : cellAt (putCell m x v) y = cellAt m y := by
  unfold putCell
  split
  · exact cellAt_filter_ne m h
  · exact cellAt_insertCell_ne m v h

/-- A list whose addresses exceed a bound exceeds every lower one. -/
theorem cellsWf_lower (m : List Host.Cell) (l l' : Nat) (h : cellsWf (some l) m = true) (hl : l' < l) : cellsWf (some l') m = true := by
  cases m with
  | nil => rfl
  | cons c r =>
    simp only [cellsWf, Bool.and_eq_true, decide_eq_true_eq] at h ⊢
    exact ⟨⟨by omega, h.1.2⟩, h.2⟩

theorem cellsWf_none (m : List Host.Cell) (l : Nat) (h : cellsWf (some l) m = true) : cellsWf none m = true := by
  cases m with
  | nil => rfl
  | cons c r =>
    simp only [cellsWf, Bool.and_eq_true, decide_eq_true_eq] at h ⊢
    exact ⟨⟨trivial, h.1.2⟩, h.2⟩

theorem cellsWf_filter (m : List Host.Cell) (lo : Option Nat) (p : Host.Cell → Bool) (h : cellsWf lo m = true) :
    cellsWf lo (m.filter p) = true := by
  induction m generalizing lo with
  | nil => rfl
  | cons c r ih =>
    have hc := h
    simp only [cellsWf, Bool.and_eq_true, decide_eq_true_eq] at h
    by_cases hp : p c = true
    · simp only [List.filter_cons, hp, if_true, cellsWf, Bool.and_eq_true, decide_eq_true_eq]
      exact ⟨h.1, ih _ h.2⟩
    · simp only [List.filter_cons, hp]
      refine ih _ ?_
      cases lo with
      | none => exact cellsWf_none _ _ h.2
      | some l => exact cellsWf_lower _ _ _ h.2 (by simpa using h.1.1)

theorem cellsWf_insertCell (m : List Host.Cell) (lo : Option Nat) (x : Nat) (v : Byte) (hv : v ≠ 0#8) (h : cellsWf lo m = true)
    (hx : ∀ l, lo = some l → l < x) : cellsWf lo (insertCell m x v) = true := by
  induction m generalizing lo with
  | nil => cases lo with
    | none => simp [insertCell, hv, cellsWf]
    | some l => simp [insertCell, hv, cellsWf, hx l rfl]
  | cons c r ih =>
    obtain ⟨a, b⟩ := c
    simp only [cellsWf, Bool.and_eq_true, decide_eq_true_eq] at h
    obtain ⟨⟨hlo, hb⟩, hr⟩ := h
    by_cases h1 : x < a
    · cases lo with
      | none => simp [insertCell, h1, hv, cellsWf, hb, hr]
      | some l => simp [insertCell, h1, hv, cellsWf, hx l rfl, hb, hr]
    · by_cases h2 : x = a
      · subst h2
        simp [insertCell, hv, cellsWf, hlo, hr]
      · have h3 : a < x := by omega
        simp only [insertCell, h1, h2, if_false, cellsWf, Bool.and_eq_true, decide_eq_true_eq]
        exact ⟨⟨hlo, hb⟩, ih (some a) hr (by intro l hl; cases hl; exact h3)⟩

/-- A write keeps the form, above any bound that its address exceeds. -/
theorem cellsWf_putCell (m : List Host.Cell) (lo : Option Nat) (x : Nat) (v : Byte) (h : cellsWf lo m = true)
    (hx : ∀ l, lo = some l → l < x) : cellsWf lo (putCell m x v) = true := by
  unfold putCell
  split
  · exact cellsWf_filter m lo _ h
  · next hv => exact cellsWf_insertCell m lo x v hv h hx

@[simp] theorem Mem.wf_setByte (m : Mem) (a : Nat) (v : Byte) (h : m.wf = true) : (m.setByte a v).wf = true :=
  cellsWf_putCell _ _ _ _ h (by intro l hl; cases hl)

@[simp] theorem Mem.byte_setByte_self (m : Mem) (a : Nat) (v : Byte) : (m.setByte a v).byte a = v := cellAt_putCell_self _ _ _

theorem Mem.byte_setByte_ne (m : Mem) {a b : Nat} (v : Byte) (h : a ≠ b) : (m.setByte a v).byte b = m.byte b := cellAt_putCell_ne _ _ h

/-- A run of bytes keeps the form. -/
@[simp] theorem Mem.wf_setBytes (m : Mem) (a : Nat) (bs : List Byte) (h : m.wf = true) : (m.setBytes a bs).wf = true := by
  induction bs generalizing m a with
  | nil => exact h
  | cons b r ih => exact ih _ _ (Mem.wf_setByte m a b h)

/-- Bytes outside the run stay. -/
theorem Mem.byte_setBytes_out (m : Mem) (a : Nat) (bs : List Byte) (x : Nat) (h : x < a ∨ a + bs.length ≤ x) :
    (m.setBytes a bs).byte x = m.byte x := by
  induction bs generalizing m a with
  | nil => rfl
  | cons b r ih =>
    simp only [List.length_cons] at h
    simp only [Mem.setBytes]
    rw [ih (m.setByte a b) (a + 1) (by omega), Mem.byte_setByte_ne _ _ (by omega)]

@[simp] theorem Mem.wf_setSyn (m : Mem) (wa : Nat) (v : Byte) (h : m.wf = true) : (m.setSyn wa v).wf = true := h
@[simp] theorem Mem.byte_setSyn (m : Mem) (wa : Nat) (v : Byte) (x : Nat) : (m.setSyn wa v).byte x = m.byte x := rfl

/-- A stored word keeps the form. -/
@[simp] theorem Mem.wf_store (m : Mem) (wa : Nat) (v : W64) (h : m.wf = true) : (m.store wa v).wf = true := by
  simp [Mem.store, h]

theorem Mem.byte_store_out (m : Mem) (wa : Nat) (v : W64) (x : Nat) (h : x < 8 * wa ∨ 8 * wa + 8 ≤ x) :
    (m.store wa v).byte x = m.byte x := by
  simp only [Mem.store, Mem.byte_setSyn]
  exact Mem.byte_setBytes_out _ _ _ _ (by simpa [wordBytes] using h)

@[simp] theorem Mem.wf_storeWords (m : Mem) (wa : Nat) (ws : List W64) (h : m.wf = true) : (m.storeWords wa ws).wf = true := by
  induction ws generalizing m wa with
  | nil => exact h
  | cons w r ih => exact ih _ _ (Mem.wf_store m wa w h)

theorem Mem.byte_storeWords_out (m : Mem) (wa : Nat) (ws : List W64) (x : Nat) (h : x < 8 * wa ∨ 8 * (wa + ws.length) ≤ x) :
    (m.storeWords wa ws).byte x = m.byte x := by
  induction ws generalizing m wa with
  | nil => rfl
  | cons w r ih =>
    simp only [List.length_cons] at h
    simp only [Mem.storeWords]
    rw [ih (m.store wa w) (wa + 1) (by omega), Mem.byte_store_out _ _ _ _ (by omega)]

@[simp] theorem Mem.wf_flip (m : Mem) (wa bit : Nat) (h : m.wf = true) : (m.flip wa bit).wf = true := by
  unfold Mem.flip
  by_cases hb : bit < 64 <;> simp [hb, h]

@[simp] theorem Mem.wf_flips (m : Mem) (wa : Nat) (bits : List Nat) (h : m.wf = true) : (m.flips wa bits).wf = true := by
  unfold Mem.flips
  induction bits generalizing m with
  | nil => exact h
  | cons b r ih => exact ih _ (Mem.wf_flip m wa b h)

end Sys2Proof.Machine
end

