-- ==== Sys2Proof/Tests/Slice0.lean ====
section
/-! SUPPORT. Tests/Slice0.lean: refused terms, commands of each family, and a witness for every statement with hypotheses.

The theorem `witness_X` lists, for the clauses of statement X in their order, a state and operands that meet that clause's
hypotheses together (the line `-- i.j`: clause i, its j-th set of hypotheses); an unbounded hypothesis stands beside its clause. -/
namespace Sys2Proof.Tests
open Sys2Proof.Machine
set_option linter.all false
set_option Elab.async false
set_option maxRecDepth 4000

/-! ### Operands that the interfaces cannot carry: one for each check of WellFormed.lean -/

def reqT (n : Nat) : Req := { mb := n, top := 0#48, rest := [] }
def frameT (n : Nat) : Frame := { h0 := 0#64, h1 := 0#64, payload := List.replicate n 0#64, check := 0#64, uncorr := false, symbols := 0, lost := 0 }
def beatT (dn health links : Nat) : Beat :=
  { dn := dn, health := health, state := 0, watch := false, votedOut := false, links := links, count := 0, masterDn := 0, deputyDn := 0, mver := 0 }
def timeT (q phase hops : Nat) : TimingWord :=
  { count := 0, phase := phase, periodQ := q, hops := hops, offsetNs := 0, delayNs := 0, sent := [], received := [], granted := [] }
def msgT (src epoch cause rank : Nat) : CommitMsg := { src := src, epoch := epoch, cause := cause, rank := rank, job := 0#64, step := 0, arg := 0#64 }
def sampleT (regions others temps optics : Nat) : PowerSample :=
  { mv := 48000, ma := 0, held := [], cycles := 0, regions := List.replicate regions (0, 0, 0, 0), others := List.replicate others (0, 0),
    stackTemps := List.replicate temps 0, optics := List.replicate optics (0, 0, 0), inlet := 0, outlet := 0 }

theorem test_wf_core : (Instr.tileStart 512).wf = false ∧ (Instr.tileStart 511).wf = true := by decide
theorem test_wf_region : (Instr.fenceDrainComplete (.region 32)).wf = false ∧ (Instr.fenceDrainComplete (.region 31)).wf = true := by decide
theorem test_wf_die : (Instr.contextSwitchComplete ⟨8, []⟩).wf = false ∧ (Instr.contextSwitchComplete ⟨7, []⟩).wf = true := by decide
theorem test_wf_ctx : (Instr.heldEventWrite 8).wf = false ∧ (Instr.heldEventWrite 7).wf = true := by decide
theorem test_wf_slot : (Instr.deadlineSliceCe 0 16).wf = false ∧ (Instr.deadlineSliceCe 0 15).wf = true := by decide
theorem test_wf_link : (Instr.packetSend 48).wf = false ∧ (Instr.packetSend 47).wf = true := by decide
theorem test_wf_vc : (Instr.creditStall 0 8).wf = false ∧ (Instr.creditStall 0 7).wf = true := by decide
theorem test_wf_caddy : (Instr.deadlineCaddy 4).wf = false ∧ (Instr.deadlineCaddy 3).wf = true := by decide
theorem test_wf_pool : (Instr.queueNext 2 0).wf = false ∧ (Instr.queueNext 1 511).wf = true := by decide
theorem test_wf_qid : (Instr.queueNext 0 512).wf = false := by decide
theorem test_wf_port : (Instr.queueCommit 0 0 8).wf = false ∧ (Instr.queueCommit 0 0 7).wf = true := by decide
theorem test_wf_mark : (Instr.queueMark 0 0 4).wf = false ∧ (Instr.queueMark 0 0 3).wf = true := by decide
theorem test_wf_mailbox : (Instr.mbDoorbell 0 32 0#64).wf = false ∧ (Instr.mbDoorbell 0 31 0#64).wf = true := by decide
theorem test_wf_function : (Instr.mbDoorbell 9 0 0#64).wf = false ∧ (Instr.mbDoorbell 8 0 0#64).wf = true := by decide
theorem test_wf_virtual_function : vfnOk 0 = false ∧ vfnOk 9 = false ∧ vfnOk 8 = true := by decide
theorem test_wf_byte : (Instr.queueOpen 0 0 0 256 none).wf = false ∧ (Instr.queueOpen 0 0 0 255 (some 8)).wf = false := by decide
theorem test_wf_stack : (Instr.periodicCalibration 16 0).wf = false ∧ (Instr.periodicCalibration 15 7).wf = true := by decide
theorem test_wf_place : (Instr.repairListAdd 40 0).wf = false ∧ (Instr.repairListAdd 39 0).wf = true := by decide
theorem test_wf_part : (Instr.memoryTrainingStepDone 24 true).wf = false ∧ (Instr.memoryTrainingStepDone 23 true).wf = true := by decide
theorem test_wf_tier : tierOk 3 = false ∧ tierOk 2 = true := by decide
theorem test_wf_model : modelOk 4 = false ∧ modelOk 3 = true := by decide
theorem test_wf_layer : layerOk 1023 = false ∧ layerOk 1022 = true := by decide
theorem test_wf_shard : shardOk 65536 = false ∧ shardOk 65535 = true := by decide
theorem test_wf_site : siteOk 16 = false ∧ siteOk 15 = true := by decide
theorem test_wf_speed : speedOk 0 = false ∧ speedOk 8 = false ∧ speedOk 7 = true := by decide
theorem test_wf_lanes : lanesOk 3 = false ∧ lanesOk 32 = false ∧ lanesOk 16 = true := by decide
theorem test_wf_unit : (Instr.fenceEscalated (.iod 2)).wf = false ∧ (Instr.fenceEscalated (.cluster 128)).wf = false ∧
    (Instr.fenceEscalated (.cluster 127)).wf = true := by decide
theorem test_wf_request : (Instr.getVersion (reqT 32)).wf = false ∧ (Instr.getVersion { reqT 0 with rest := List.replicate 31 0#64 }).wf = false ∧
    (Instr.getVersion { reqT 31 with rest := List.replicate 30 0#64 }).wf = true := by decide
theorem test_wf_command : (Instr.mtFwd 0 []).wf = false ∧ (Instr.mtFwd 0 (List.replicate 16 0#64)).wf = false ∧
    (Instr.mtFwd 0 (List.replicate 15 0#64)).wf = true := by decide
theorem test_wf_bits : (Instr.pourComplete 0 false [(0, 72)]).wf = false ∧ (Instr.pourComplete 0 false [(0, 71)]).wf = true := by decide
theorem test_wf_frame : (Instr.idle 0 (frameT 31)).wf = false ∧ (Instr.idle 0 { frameT 32 with upset := [(0, 72)] }).wf = false ∧
    (Instr.idle 0 (frameT 32)).wf = true := by decide
theorem test_wf_far_frame : farFrameOk { words := List.replicate 35 0#64, uncorr := false, symbols := 0, lost := 0 } = false ∧
    farFrameOk { words := List.replicate 36 0#64, uncorr := false, symbols := 0, lost := 0 } = true := by decide
theorem test_wf_packet : (Instr.kettlePacket { route := 0#64, body := [] }).wf = false := by decide
theorem test_wf_dn : dnOk 65536 = false ∧ dnOk 65535 = true := by decide
theorem test_wf_message : msgOk (msgT 65536 0 0 0) = false ∧ msgOk (msgT 0 65536 0 0) = false ∧ msgOk (msgT 0 0 256 0) = false ∧
    msgOk (msgT 0 0 0 65536) = false ∧ msgOk (msgT 65535 65535 255 65535) = true := by decide
theorem test_wf_outer_message : outerMsgOk { id := 0, src := 65536, words := [] } = false := by decide
theorem test_wf_heartbeat : (Instr.heartbeat 0 (beatT 65536 0 0)).wf = false ∧ (Instr.heartbeat 0 (beatT 0 256 0)).wf = false ∧
    (Instr.heartbeat 0 (beatT 0 0 49)).wf = false ∧ (Instr.heartbeat 0 (beatT 65535 255 48)).wf = true := by decide
theorem test_wf_timing : (Instr.timing 0 (timeT 0 0 0)).wf = false ∧ (Instr.timing 0 (timeT 33 0 0)).wf = false ∧
    (Instr.timing 0 (timeT 1 25000 0)).wf = false ∧ (Instr.timing 0 (timeT 1 0 256)).wf = false ∧ (Instr.timing 0 (timeT 32 799999 255)).wf = true :=
        by decide
theorem test_wf_transfer : (Instr.deadlineXferCe (.core 512)).wf = false ∧ (Instr.deadlineXferCe (.coll 8 0)).wf = false ∧
    (Instr.deadlineXferCe (.load 8 0)).wf = false ∧ (Instr.deadlineXferCe (.load 7 0)).wf = true := by decide
theorem test_wf_access : (Instr.regWrite { fn := 9, off := 0, width := 64, value := 0#64 }).wf = false ∧
    (Instr.regWrite { fn := 0, off := 0, width := 24, value := 0#64 }).wf = false ∧ (Instr.regWrite {
        fn := 8, off := 0, width := 8, value := 0#64 }).wf = true := by decide
theorem test_wf_sample : (Instr.powerSample (sampleT 31 6 16 48)).wf = false ∧ (Instr.powerSample (sampleT 32 5 16 48)).wf = false ∧
    (Instr.powerSample (sampleT 32 6 15 48)).wf = false ∧ (Instr.powerSample (sampleT 32 6 16 47)).wf = false ∧
        (Instr.powerSample (sampleT 32 6 16 48)).wf = true := by decide
theorem test_wf_key : deliveryOk { kind := 0, ctx := 0, reserved := 0, key := List.replicate 3 0#64 } = false ∧
    deliveryOk { kind := 0, ctx := 0, reserved := 0, key := List.replicate 4 0#64 } = true := by decide

/-! ### Small states and commands -/

/-- A module that has booted. -/
def up : State := { (State.reset) with trust := { stage := 0x0F } }
def laneVals (n : Nat) : List W32 := (List.range 64).map fun i =>
  match (i + n) % 16 with
  | 0 => 0#32 | 1 => 0x3F800000#32 | 2 => 0xBF800000#32 | 3 => 0x7F800000#32 | 4 => 0xFF800000#32 | 5 => 0x7FC00001#32
  | 6 => 0x00000001#32 | 7 => 0x7F7FFFFF#32 | 8 => 0x80000000#32 | 9 => 0x42280000#32 | 10 => 0xC1234567#32 | 11 => 0x80800001#32
  | 12 => 0x7FFFFFFF#32 | 13 => 0x80008000#32 | 14 => 0x3EAAAAAB#32 | _ => 0x12345678#32
def vec0 : VecState := {
  v := [(1, laneVals 0), (2, laneVals 3), (3, laneVals 7), (4, laneVals 1)], m := [(1, 0xF0F0F0F0F0F0AAAA#64), (2, 0x123456789ABCDEF0#64), (3, 5#64)]
  sc := [(1, 0x3F8000003F000000#64), (2, 0x40#64), (3, 0x8#64), (4, 0x4000000042C80000#64), (5, 0x3F800000#64), (6, 3#64)], vl := 50, flags := 3 }
/-- a vector run whose next instruction is w -/
def vst (w : W64) : State := up.updCore 3 fun c => { c with
  vec := vec0
  store := ({} : Mem).storeWords 8 [0x1122334455667788#64, 0x99AABBCCDDEEFF00#64, 0x3F8000004048F5C3#64]
  vrun := some { cmd := [mkWord [(16, 16, 2)], 0#64, mkWord [(20, 12, 3)], mkWord [(0, 23, 0), (23, 23, 0x4000), (46, 18, 0)], mkWord [(0, 23, 0),
                 (23, 23, 0x4000)]], ctx := some 0, prog := [0#64, w, 0#64], pc := 1, iter := 1 } }
def vrunOf (w : W64) : VRun := ((vst w).core 3).vrun.getD { cmd := [], ctx := none, prog := [] }
/-- op vd va vb vc mask zero fe fm rnd fmt imm -/
def vw (op vd va vb vc mask zero fe fm rnd fmt imm : Nat) : W64 := mkWord [(0, 8, op), (8, 6, vd), (14, 6, va), (20, 6, vb), (26, 6, vc), (32, 3,
    mask),
  (35, 1, zero), (36, 1, fe), (37, 3, fm), (40, 2, rnd), (42, 4, fmt), (46, 18, imm)]
def mtCmd (op accum pour : Nat) : List W64 := [mkWord [(0, 8, op), (8, 4, 8), (16, 1, accum), (17, 1, pour), (32, 32, 77)], 5#64,
  mkWord [(0, 13, 1), (16, 13, 1), (32, 21, 1)], mkWord [(0, 20, 0), (20, 20, 4)], mkWord [(40, 4, 5)], mkWord [(0, 20, 4), (20, 20, 4)],
      mkWord [(40, 4, 5)],
  mkWord [(0, 20, 8), (24, 25, if accum + pour = 1 then 0 else 4)]]
def mtStore : Mem := (({} : Mem).storeWords 0 [0x3F80#64, 0#64, 0#64, 0#64, 0x4000#64]).storeWords 8 [mkWord [(0, 4, 6), (32, 32, 0x3F800000)],
    mkWord [(0, 20, 16), (20, 20, 1)], 0#64, 0#64, 0#64, 0#64]
def mtTile (op accum pour : Nat) (started : Bool) : Tile := { cmd := mtCmd op accum pour, ctx := none, started := started, kTotal := 1, desc :=
                                                              if pour = 1 then mtStore.words 8 6 else [], begun := 0 }
def mtState (t : Option Tile) (live : SetState) (ch : Option Chain) : State := up.updCore 3 fun c => { c with store := mtStore, tile := t, setA :=
                                                                                                              { state := live }, chain := ch }
def mtChain : Chain := { tileId := 77, step := 5#64, ctx := none, slot := 0, k := 3, kChain := 4 }
def pourSt : State := up.updCore 3 fun c => { c with store := mtStore, setB := { state := .pouring, cells := [0x40400000#32] }, pour := some {
  cmd := mtCmd 0x10 0 1, ctx := none, desc := mtStore.words 8 6, pass := 0, repeats := 0, last := true, started := 0, begun := 0, tick := 0 } }
def vrCmd (len pro proC bodyC : Nat) : List W64 := [mkWord [(0, 8, 0x18), (8, 4, 5), (16, 16, 1)], 0#64, mkWord [(0, 20, 0), (20, 12, len), (32, 12,
    pro)],
  mkWord [(0, 23, 64), (23, 23, 64), (46, 18, proC)], mkWord [(0, 23, 128), (23, 23, 64), (46, 18, bodyC)]]
def vrSt (ws : List W64) : State := up.updCore 3 fun c => { c with store := ({} : Mem).storeWords 0 ws }
def endedRun : VRun := { cmd := vrCmd 2 0 0 5, ctx := none, prog := [0#64, 0#64], pc := 2, iter := 1 }
def xCmd (dir rows : Nat) : List W64 := [mkWord [(0, 8, 0x19), (8, 4, 5), (16, 2, dir)], mkWord [(0, 48, 0x1000)], mkWord [(0, 48, 64)], mkWord [(0,
    20, 2), (20, 20, 4)], mkWord [(0, 23, 16), (23, 18, rows)]]
def xSt : State := let s := up.updCore 3 fun c => { c with store := ({} : Mem).storeWords 2 [1#64, 2#64, 3#64, 4#64, 5#64, 6#64] }
  { s with mem := { s.mem with space := s.mem.space.storeWords 0x200 [0x11#64, 0x12#64, 0x13#64, 0x14#64, 0x15#64, 0x16#64, 0x17#64, 0x18#64,
                               0x19#64, 0x1A#64] } }
def gCmd (fmt : Nat) : List W64 := [mkWord [(0, 8, 0x1C), (8, 4, 4), (16, 5, 2), (24, 4, fmt)], mkWord [(0, 20, 0), (20, 20, 128)], mkWord [(0, 24,
    256)], mkWord [(0, 20, 512)]]
def gSt : State := up.updCore 3 fun c => { c with store := (({} : Mem).storeWords 0 [0x3F8000003F000000#64]).storeWords 128 [0x4000000040400000#64] }
def xrun (op ov : Nat) : State := up.updCore 3 fun c => { c with xfer := some { cmd := [BitVec.ofNat 64 op], ctx := none, overruns := ov } }
def xrunOf (op ov : Nat) : XRun := ((xrun op ov).core 3).xfer.getD { cmd := [], ctx := none }
def ceRow : RowCe := { place := 4, row := 17, steeps := [1, 2, 3] }
def ceSt : State := { up with mem := { up.mem with rowCes := [ceRow] } }
def withReq (s : State) (r : Req) (code : Nat) : State :=
  s.updQueue 0 (0x100 + 2 * r.mb) fun q => { q with enabled := true, guarantee := 16, quota := 16, packets := [{
                                                      seq := 0, ctx := some (r.mb/4), ty := 1, words := reqWords r code }], seqNext := 1 }
/-- top 48 bits: bits 63:16 of word 0: COUNT at [34:32] → bits 16.. of top; TAG [31:16] → bits 15:0 -/
def reqTo (mb : Nat) (path : List W64) (args : List W64) : Req := { mb := mb, top := BitVec.ofNat 48 (0x77 + path.length * 65536), rest :=
                                                                    path ++ args }
def snapS (n : AuditSnap) (before : Option AuditSnap) : State := { up with steep := { up.steep with snap := some n, snapBefore := before, count :=
                                                                                                    20, phase := 7000 } }
def slotSt (streams : List Stream) : State := { up with steep := { up.steep with count := 20, phase := 1200 } }.setCtx 2 {
    state := .active, slots := [(3, { streams := streams })] }
def strm : Stream := { id := 5, tag := 9, step := 1, startAt := 10, sliceEvents := true, words := [], slices := 2 }
def cnt (n : Nat) : State := { up with steep := { up.steep with count := n } }
def reqU (mb : Nat) (u : UnitId) (args : List W64) : Req := reqTo mb (if u = .module then [] else pathWords (hopsOf u)) args
/-- Admin request on mailbox 0 of `s` for unit `u` with code and args -/
def K (s : State) (u : UnitId) (code : Nat) (args : List W64) : State := withReq s (reqU 0 u args) code
def ctxS (x : Nat) (c : Ctx) : State := up.setCtx x c
def P (f : Power → Power) : State := { up with power := f up.power }
def Fl (f : Faults → Faults) (s : State := up) : State := { s with faults := f s.faults }
def H (f : HostIf → HostIf) (s : State := up) : State := { s with host := f s.host }
def rec1 (seq : Nat) (c : Cls) : RecMeta := { seq := seq, code := 0x100, cls := c, ctx := none, path := [], steep := 3, words := [5#64, 6#64] }
def blendMem (ws : List W64) (s : State := up) : State := { s with mem := { s.mem with space := s.mem.space.storeWords (0x10000000040/8) ws } }
def Qs (pool qid : Nat) (q : Queue) (free : Nat := 262144) (s : State := up) : State := let s := s.updQueue pool qid fun _ => q
  s.setPool pool { s.pool pool with free := free }
def pk (n seq : Nat) : Packet := { seq := seq, ctx := none, ty := 3, words := (List.range n).map (BitVec.ofNat 64), chain :=
                                   (List.range (cellsFor n)).map (100 * seq + 7 + ·) }
def op (n : Nat) (w : Option (List W64)) (st : Bool := true) : OpenPacket := { ty := 4, ctx := some 2, words := (List.range n).map (BitVec.ofNat 64),
                                                                               waiting := w, started := st, chain :=
                                                                               if st then (List.range (cellsFor n)).map (5000 + ·) else [] }
def MB (mb : Nat) (f : Mailbox → Mailbox) (s : State := up) : State := s.setMailbox mb (f (s.mailbox mb))
def tiny : List W64 := [mkWord [(0, 8, 1), (8, 4, 2), (16, 16, 1), (32, 32, 9)], 5#64, mkWord [(0, 8, 2), (8, 4, 2), (16, 16, 1)], 6#64,
  mkWord [(0, 8, 3), (8, 4, 3)], mkWord [(16, 16, 1)], 0#64, mkWord [(0, 8, 6), (8, 4, 1), (32, 32, 77)]]
def subSt (ctx : Ctx) (a b : W64) (ws : List W64) (f : State → State := id) : State :=
  let s := up.setCtx 0 ctx
  let s := { s with mem := { s.mem with space := s.mem.space.storeWords 0x40000 ws } }
  let s := s.updQueue 0 0x143 fun q => { q with enabled := true, quota := 16 }
  f (K s .module 0x20 [a, b, 0#64])
def subReq (a b : W64) : Req := reqU 0 .module [a, b, 0#64]
def ctx0 : Ctx := { state := .active, dieMask := 3, fastBase := 1, fastPages := 4, slowBase := 1, slowGib := 2 }
def lits : List W64 := [mkWord [(0,8,4),(8,4,8)], 1#64, 0x200000003#64, 4#64, 5#64, 6#64, 7#64, 0x900000008#64]
def kl : List W64 := [mkWord [(0,8,5),(8,4,2)], 4096#64]
def big : List W64 := tiny.take 3 ++ [BitVec.ofNat 64 16] ++ [mkWord [(0, 8, 3), (8, 4, 3)], mkWord [(0, 16, 2), (16, 16, 3)],
    0#64] ++ lits ++ kl ++ tiny.drop 7
def strmB : Stream := { strm with words := big, slices := 1, running := some 0, started := true }
def swS : State := { (ctxS 2 { ctx0 with switching := true, images := [(64, { live := { cells := [⟨4, 9#8⟩] }, liveBytes := 8, vec :=
                                                                              vec0 })] }) with switches := [{ die := 1, from_ := some 3, to_ := 2,
                                                                                                              started := 0, ns := 7 }, { die := 2, from_ := none, to_ := 2, started := 0, waiting := true }] }
def updCmd (op : Nat) (shadow outer : Nat) (first count t : Nat) : List W64 :=
    [mkWord [(0,8,op),(8,4,12),(16,1,shadow),(17,1,outer),(22,5,if op = 0x40 then 4 else 0),(32,16,if op = 0x40 then 2 else 0),(48,4,if op = 0x40 then 5 else 0)], 5#64,
  BitVec.ofNat 64 (ownBase + 0x40000000), mkWord [(0,24,t),(24,24,t)], mkWord [(0,24,first),(24,24,count)], mkWord [(0,24,128*t),(24,24,128)],
      0x200000#64, 0x300000#64, 0#64, 0#64, 0#64, 0#64]
def updSec (cmd : List W64) : List W64 := [mkWord [(0, 8, 1), (8, 4, 2), (16, 16, 1), (32, 32, 9)], 5#64, mkWord [(0, 8, 2), (8, 4, 2), (16, 16, 1)],
    BitVec.ofNat 64 (5 + cmd.length),
  mkWord [(0, 8, 3), (8, 4, 3), (16, 4, 2)], 0#64, 0#64] ++ cmd
def mkUpdMark : List W64 := [mkWord [(0, 8, 6), (8, 4, 1), (32, 32, 77)]]
def updStrm (cmd : List W64) : Stream := { strm with todo := [(2, cmd), (2, mkUpdMark)], words := updSec cmd, slices := 1, running := some 0,
                                                     started := true }
def updSt (cmd : List W64) : State := ctxS 2 { ctx0 with slots := [(3, { streams := [updStrm cmd] })] }
def cjob (cmd : List W64) (next : Nat) : CaddyJob := { id := 6, ctx := 2, slot := 3, cmd := cmd, lits := [], next := next, started := 0, tick := 0 }
def tileSt (cmd : List W64) (k next : Nat) : State :=
  let s := (updSt cmd).updCaddy k fun c => { c with jobs := [cjob cmd next, { cjob cmd next with id := 8 }], hand := some 6 }
  let s := s.updCtx 2 fun c => { c with upd := { c.upd with left := 3, version := 255 } }
  { s with mem := { s.mem with space := s.mem.space.storeWords ((ownBase + 0x40000000) / 8) [0x3F8000003F000000#64, 0x4000000040400000#64] } }
def frm (h0 h1 : W64) (p : List W64) : Frame := let p := p ++ List.replicate (32 - p.length) 0#64; ⟨h0, h1, p, frameCheck h0 h1 p, false, 0, 0, []⟩
def lk (n : Nat) (f : Link → Link) (s : State := up) : State := s.setLink n (f (s.link n))
def tp (id : Nat) (n : Nat) (ports : List Nat) : TxPacket := { id := id, ctx := some 2, ty := 3, vc := 2, words :=
                                                               (List.range n).map fun i => BitVec.ofNat 64 (i * 257), ports := ports, ordered :=
                                                               false, rset := 1, rgen := 0, since := 0 }
def F (f : Fabric → Fabric) (s : State := up) : State := { s with fabric := f s.fabric }
def rs (f : RouteSet → RouteSet) (n : Nat) (s : State := up) : State :=
    { s with fabric := { s.fabric with routes := s.fabric.routes.set n (f (s.routeSet n)) } }
def keyW : List W64 := [0x0706050403020100#64, 0x0F0E0D0C0B0A0908#64, 0x1716151413121110#64, 0x1F1E1D1C1B1A1918#64]
def fkey : FarKey := { handle := 0x40, salt := 0x1234, key := keyW }
def heldF (n : Nat) (sent last : Bool) : FarHeld := { count := n, packet := n / 3, last := last, words := [mkWord [(0,32,n),(36,6,4)],
                                                      0#64] ++ List.replicate 32 5#64, sent := sent }
def fl (n : Nat) (f : Far → Far) (st : LinkState := .far) (s : State := up) : State :=
    let s := s.setLink n (let l := s.link n; { l with state := st, jobTraffic := true, far := f { on := true, site := 3, state := 2, keys := [(0, fkey)], w := 4000 } })
  s.updQueue (n / 24) (linkQueue n 6).2 fun q => { q with enabled := true, guarantee := 64, quota := 64 }
def csec (cmd : List W64) : List W64 := [mkWord [(0, 8, 1), (8, 4, 2), (16, 16, 1), (32, 32, 9)], 5#64, mkWord [(0, 8, 2), (8, 4, 2), (16, 16, 1)],
    BitVec.ofNat 64 (5 + cmd.length),
  mkWord [(0, 8, 3), (8, 4, 3), (16, 4, 1)], 0#64, 0#64] ++ cmd
def cstrm (cmd : List W64) : Stream := { strm with todo := [(1, cmd)], words := csec cmd, slices := 1, running := some 0, started := true }
def grp (n g : Nat) (lanes : Nat := 1) : Group := { lanes := lanes, n := n, g := g, table := (List.range n).map (9 - ·), orders :=
                                                    List.replicate lanes (List.range n), check := 4711 }
def collCmd (op : Nat) (id : Nat) (extra : List (Nat × Nat × Nat) := []) (count : Nat := 512) (dt : Nat := 6) : List W64 :=
  [mkWord ([(0,8,op),(8,4,10),(16,4,3),(24,4,if op = 0x25 then 0 else dt),(32,5,1)] ++ extra), 5#64, mkWord [(0,32,id)],
      (if op = 0x25 ∨ op = 0x27 then 0#64 else 0x200000#64), (if op = 0x25 ∨ op = 0x26 then 0#64 else 0x240000#64),
   BitVec.ofNat 64 (if op = 0x25 then 0 else count), (if op = 0x23 then 0x280000#64 else 0#64), 0#64, 0#64, 0#64]
def collSt (cmd : List W64) (gs : Tbl Nat Group := [(3, grp 4 2)]) : State :=
  let s := ctxS 2 { ctx0 with groups := gs, slots := [(3, { streams := [cstrm cmd] })], stages := [(3, { stage := 1, first := false, last := false, prev := pathWords [0x2005], next := pathWords [0x2006] })] }
  let s := F (fun f => { f with dn := 9, dnValid := true }) s
  { s with mem := { s.mem with space := s.mem.space.storeWords 0x40000 [0x3F8000003F000000#64, 0x4000000040400000#64] } }
def opened (c : Instr) (s : State) (x id : Nat) : State × CollOp := match exec c s with | .next t => (t, (t.collOp x id).getD {
    ctx := 0, slot := 0, cmd := [], started := 0, tick := 0, rank := 0, group := grp 1 1 }) | _ => (s, {
    ctx := 0, slot := 0, cmd := [], started := 0, tick := 0, rank := 0, group := grp 1 1 })
def keyS (kind : Nat) (s : State) : State := { s with trust := { s.trust with keys := [(5, { kind := kind, ctx := 0, gen := 2, key := keyW })] } }
def hnd (kind : Nat) : Nat := handleOf { kind := kind, ctx := 0, gen := 2, key := keyW } 5
def okSite (s : State) : State := F (fun f => { f with dn := 9, dnValid := true }) s
def ocfg : OuterCfg := { id := 77, h := 16, lag := 1, staleLimit := 8, sign := false, sender := true, fmt := 6, kBlk := 64, chain := 0, sites :=
                         0x15, touchSteeps := 16, share := 1, diff := 0x200000, diffHdr := 0x240000, resid := 0x250000, merge := 0x260000,
                         mergeHdr := 0x290000, count := 16384, peers := (List.range 16).map fun j => pathWords [0x8000 + j, 0x2005], lead :=
                         pathWords [0x2007] }
def outS (f : Outer → Outer) (lead : Bool := true) : State :=
  let s := F (fun f => { f with dn := 9, dnValid := true, path := if lead then [0x2007] else [0x2003] }) (ctxS 2 { ctx0 with jobId := 5#64, outer := f { cfg := some ocfg, state := .local_ } })
  s
def outMem (s : State) : State := { s with mem := { s.mem with space := s.mem.space.storeWords (0x260000 / 8) [0x3F8000003F000000#64,
                                                               0x4000000040400000#64] } }
def omsg (id src : Nat) (ws : List W64) : OuterMsg := ⟨id, src, ws⟩
def odiff (site round : Nat) (merge : Bool) (ws : List W64) : OuterDiff := { site := site, round := round, merge := merge, n := 4, blocks := [(0,
                                                                             ws), (4096, ws)] }
def p5 (ph : Phase) : StepSt := { step := 5, phase := ph, firstEpoch := 10, lastEpoch := some 11, streamOk := true, prepared := true, mirrorDone :=
                                  true }
def p6 (ph : Phase) : StepSt := { step := 6, phase := ph, firstEpoch := 11, streamOk := false }
def jobJ (rank n : Nat) (steps : List StepSt) (f : Job → Job := id) : Job := f { member := true, rank := rank, table := (List.range n).map (100 + ·),
                                                                                 live := List.range n, stride := 1, jver := 3, steps := steps,
                                                                                 committed := 4, received := 4, forwarded := 3, holding := 1,
                                                                                 epochs := [{ n := 10, sealed_ := true }, {
                                                                                   n := 11, sealed_ := true }, {
                                                                                   n := 12, ledger := [(103, 12)], sentTo := [102, 103] }] }
def jobS (j : Job) (now : Nat := 20) : State := { (F (fun f => { f with dn := 100 + j.rank, dnValid :=
                                                                        true }) ((ctxS 2 { ctx0 with jobId := 5#64, job :=
                                                                                                     j }).setCtx 4 { ctx0 with jobId := 6#64, job := { jobJ 1 3 [p5 .running] with received := 0, forwarded := 0, holding := 0 } })) with steep := { up.steep with count := now } }
def cm (src rank step arg : Nat) (cause : Nat := 0) (job : Nat := 5) (ep : Nat := 20) : CommitMsg := ⟨src, ep, cause, rank, BitVec.ofNat 64 job,
    step, BitVec.ofNat 64 arg⟩
def bt (dn : Nat) : Beat := { dn := dn, health := 5, state := 0, watch := false, votedOut := false, links := 6, count := 9, masterDn := 0,
                              deputyDn := 0, mver := 8 }
def mems (f : Members → Members) (mdn ddn dn now : Nat) : State := { (F (fun g => { g with dn := dn, dnValid :=
                                                                                           true }) up) with members := f up.members, steep := { up.steep with masterDn := mdn, deputyDn := ddn, count := now } }
def dm (src : Nat) (arg : W64) : CommitMsg := ⟨src, 0, 0, 0, 0#64, 0, arg⟩
def wk (cmd : List W64) (ctx : Option Nat := none) (slot : Nat := 0) : Work := { cmd := cmd, ctx := ctx, slot := slot }
def WK (cmd : List W64) (k : Nat := 3) (s : State := up) (ctx : Option Nat := none) (slot : Nat := 0) : State :=
  s.updCore k fun c => { c with work := [wk cmd ctx slot] }
def xA (dir : Nat) : Nat := if dir = 2 then ownBase + 0x40000000 else 0x200000
def xCmd2 (dir rows : Nat) : List W64 := [mkWord [(0, 8, 0x19), (8, 4, 5), (16, 2, dir)], mkWord [(0, 48, xA dir)], mkWord [(0, 48, 64)], mkWord [(0,
    20, 2), (20, 20, 4)], mkWord [(0, 23, 16), (23, 18, rows)]]
def xSt2 (dir rows : Nat) : State :=
    let s := (up.setCtx 2 ctx0).updCore 3 fun c => { c with store := ({} : Mem).storeWords 2 [1#64, 2#64, 3#64, 4#64, 5#64, 6#64] }
  WK (xCmd2 dir rows) 3 { s with mem := { s.mem with space := s.mem.space.storeWords (xA dir / 8) [0x11#64, 0x12#64, 0x13#64, 0x14#64, 0x15#64,
                                                     0x16#64, 0x17#64, 0x18#64, 0x19#64, 0x1A#64] } } (some 2) 3
def strmT (td : List (Nat × List W64)) : Stream := { strmB with todo := td }
def stT (td : List (Nat × List W64)) : State := ctxS 2 { ctx0 with slots := [(3, { streams := [strmT td] })], keepLive := [(2, 7), (9, 9)] }
def mk77 : List W64 := [mkWord [(0, 8, 6), (8, 4, 1), (32, 32, 77)]]
def capW (tr : Nat) : List W64 := [8#64] ++ tiny ++ [0xFF#64, 0#64, 0#64, 2#64, 0x40#64, 2#64, 5#64, 6#64, 0x80#64, 1#64, 9#64, 1#64, 0x700000004#64,
    1#64, 2#64, 8#64, 9#64, BitVec.ofNat 64 tr] ++ List.replicate (2 * tr) 3#64
def repQ (ws : List W64) (c : Ctx := ctx0) (on : Bool := true) : State :=
  let s : State := { (ctxS 3 c) with mem := { up.mem with space := up.mem.space.storeWords 0x44000 ws } }
  let s := if on then s.updQueue 0 0x158 fun q => { q with enabled := true, quota := 16 } else s
  withReq s (reqU 0 .module [3#64, 0x220000#64, 0x230000#64]) 0x303
def tabW (n b : Nat) : List W64 := (List.range n).flatMap fun l => [BitVec.ofNat 64 (0x210000 + 4096 * l), BitVec.ofNat 64 b]
def md0 (st : ModelState) (n : Nat) (f : Model → Model := id) : Model := f { state := st, layers := n, tableAddr := 0x200000, stageAddr := 0x300000,
                                                                             oldVersion := 3, newVersion := 3 }
def mS (st : ModelState) (n b : Nat) (f : Model → Model := id) (g : Ctx → Ctx := id) : State :=
    let s := ctxS 2 (g { ctx0 with jobId := 5#64, models := [(1, md0 st n f)], groups := [] })
  { s with mem := { s.mem with space := s.mem.space.storeWords 0x40000 (tabW n b) }, host := { s.host with busMaster := [0,1,2,3,4,5,6,7,8] } }
def wv (f : Wave → Wave := id) : Wave := f { source := 1, chain := 0, srcCtx := 0, loadId := 77, srcAddr := 0x1000, hostAddr := 0, nonce := 9 }
/-- an epilogue with a reserved bit -/
def badEpi (s : State) : State := s.updCore 3 fun c => { c with store := c.store.storeWords 8 [mkWord [(0, 4, 15)]] }
def fenceS (u : UnitId) (s : State) : State := s.setUnit u { fence := some .err }
/-- an INF_LOAD: source, staging bit, first shard, count -/
def ilCmd (src stage first count : Nat) : List W64 := [mkWord [(0, 8, 0x60), (8, 4, 5), (16, 2, 1), (18, 2, src), (20, 1, stage), (32, 16, first),
    (48, 16, count)], 5#64, 4096#64, mkWord [(32, 32, 77)], 9#64]
def secW (k : Nat) (cmd : List W64) : List W64 := [mkWord [(0, 8, 1), (8, 4, 2), (16, 16, 1), (32, 32, 9)], 5#64, mkWord [(0, 8, 2), (8, 4, 2), (16,
    16, 1)], BitVec.ofNat 64 (5 + cmd.length), mkWord [(0, 8, 3), (8, 4, 3), (16, 4, k)], 0#64, 0#64] ++ cmd
def ilStrm (cmd : List W64) : Stream := { strm with todo := [(3, cmd), (3, mk77)], words := secW 3 cmd, slices := 1, running := some 0, started :=
                                                    true }
def ilS (st : ModelState) (n b : Nat) (cmd : List W64) (f : Model → Model := id) : State :=
    mS st n b f fun c => { c with slots := [(3, { streams := [ilStrm cmd] })] }
/-- an INF_GATE: pass, first layer, layers -/
def igCmd (pass l n : Nat) : List W64 := [mkWord [(0, 8, 0x61), (8, 4, 1), (16, 2, 1), (18, 8, pass), (32, 10, l), (42, 10, n)]]
def igStrm (cmd : List W64) : Stream := { strm with words := secW 3 cmd, slices := 1 }
def igS (st : ModelState) (n b : Nat) (cmd : List W64) (f : Model → Model := id) : State :=
    mS st n b f fun c => { c with slots := [(3, { streams := [igStrm cmd] })] }
def gBad : List W64 := [mkWord [(0, 8, 0x1C), (8, 4, 4), (16, 5, 2), (24, 4, 6)], mkWord [(0, 20, 0), (20, 20, 0xFFFFF)], mkWord [(0, 24, 256)],
    mkWord [(0, 20, 512)]]
def trained (s : State) : State := { s with mem := { s.mem with trainings := (List.range 24).map fun i => (i, {
                                                                  ready := true, phase := 15 : Training }) } }
def bootS (st : Nat) : State := { up with trust := { up.trust with stage := st, nextBank := 1, bootCount := 4 } }
def bl (a b : Bool) : BootLoad := { firstOk := a, otherOk := b, seed := some [7#8], digests := [[1#8], [2#8], [3#8]], sigOk := true }
def hostN (f : HostIf → HostIf) (s : State) : State := { s with host := f s.host }
def allOn (s : State) : State := hostN (fun h => { h with busMaster := [0, 1, 2, 3, 4, 5, 6, 7, 8] }) s
def sessS (n : Nat) (s : State := { up with trust := { up.trust with stage := 0x0F, seed := some [1#8] } }) : State :=
  hostN (fun h => { h with pldmReady := true }) { s with trust := { s.trust with sessions := (List.range n).map fun i => {
                                                                                   id := i + 1, summary := true, oob := false, beat := 0 } } }
def xfS (t : Transfer) (f : State → State := id) : State := f (ctxS 3 { ctx0 with job := { jobJ 1 4 [] with transfer := some t } })
def dpk (key : Nat) (n : Nat) : Pkt := { route := mkWord [(8, 8, 5), (32, 16, 5)], body := [mkWord [(0, 8, key), (8, 3, 3), (16, 16, 5), (32, 32,
                                         3)], 7#64] ++ List.replicate n 9#64 }
def cref : CmdRef := { mb := 2, tag := 5, code := 0x31 }
def mtBigS (t : Option Tile) (lv : SetState) (ch : Option Chain) : State :=
    (mtState t lv ch).updCore 3 fun c => { c with store := c.store.storeWords 0 [0x7F7F#64, 0#64, 0#64, 0#64, 0x7F7F#64] }
/-- Mailbox 3 with its queues, and a first request word in its buffer. -/
def dbS (code : Nat) : State := MB 3 (fun m => { m with request := [(0, BitVec.ofNat 64 code)] })
  ((up.updQueue 0 0x106 fun q => { q with enabled := true, quota := 16 }).updQueue 0 0x107 fun q => { q with enabled := true, quota := 16 })
def stgW : List W64 := mkWord [(0, 3, 3), (4, 12, 7), (16, 1, 1), (17, 1, 0), (20, 3, 0), (23, 3, 1)] :: pathWords [0x2006]
def stgS : State := withReq (ctxS 2 ctx0) (reqU 8 .module stgW) 0x0023
def masterS (w : List (Nat × Nat)) : State := mems (fun m => { m with watching := w }) 9 8 9 20
/-- The words of a request to replace model 1 of context 2 from the host. -/
def rsW : List W64 := [mkWord [(0, 3, 2), (4, 2, 1), (8, 2, 0)], 0x1000#64, 0#64, 9#64, 0#64]
def off (s : State) : State := { s with power := { s.power with off := true } }
def vwOp (op : Nat) : W64 := vw op 4 2 3 1 0 0 0 0 0 0 0

/-! ### Commands, with values worked by hand -/

-- 06_memory_tiers.md, worked example after R319: the word 3 and its three syndromes.
theorem test_check_bits : checkBits 3#64 = 0x0C#8 ∧ eccOf 0x0B#8 = .dataBit 1 ∧ eccOf 0x01#8 = .checkBit ∧ eccOf 0x0C#8 = .ue := by decide
-- 01_units_and_steep.md, worked example after R31: the path of core K301.
theorem test_core_path : pathWords (hopsOf (.core 301)) = [0x5003400230040004#64, 0x6001#64] := by decide
-- 02_number_formats.md, worked example after R108: 1.3 to FP8-F with the draws 41,000 and 12,000, and the draw where it turns.
def onePointThree : Val := .fin false (13 * 2 ^ 60 / 10) (-60)
theorem test_stochastic_rounding : (Fmts.fp8f.encodeSat (.stoch 41000) onePointThree).1 = 0x3B ∧
    (Fmts.fp8f.encodeSat (.stoch 12000) onePointThree).1 = 0x3A ∧ (Fmts.fp8f.encodeSat (.stoch 39322) onePointThree).1 = 0x3B ∧
    (Fmts.fp8f.encodeSat (.stoch 39321) onePointThree).1 = 0x3A := by decide
-- 02_number_formats.md, worked example after R125: an FP4 block of 2.7, 0.3, 0.625, -1.1 and 0.125.
def fp4Block : List Val := [v32 0x402CCCCD#32, v32 0x3E99999A#32, v32 0x3F200000#32, v32 0xBF8CCCCD#32, v32 0x3E000000#32]
theorem test_fp4_block : presentScale Fmts.fp4 fp4Block = -1 ∧
    convertBlock Fmts.fp4 (-1) fp4Block (List.replicate 5 .nearest) =
      { codes := [7, 1, 2, 0xC, 0], bs8 := 0x7E, flags := { underflow := true }, sat := false, nanBlock := false } := by decide
-- 02_number_formats.md, worked example after R125: K_OBS 112 and H 2, then 9.5 against a largest value of 7.0.
theorem test_history_saturates :
    ((History.reset).update Fmts.fp8g [v32 0x3F666666#32] false).kObs = 112 ∧
    ({ kObs := 112, h := 2, cleanRun := 5, valid := true, sat := false } : History).scale Fmts.fp8g [] = -13 ∧
    (convertBlock Fmts.fp8g (-13) [.fin false 19 (-1)] [.nearest]).codes = [0x7B] ∧
    ({ kObs := 112, h := 2, cleanRun := 5, valid := true, sat := false } : History).update Fmts.fp8g [.fin false 19 (-1)] true =
      { kObs := 115, h := 3, cleanRun := 0, valid := true, sat := true } := by decide
-- 03_matrix_engine.md, worked example after R147: the pitches 516 and 512 words.
theorem test_pitch : pitchOk 516 = true ∧ pitchOk 512 = false := by decide
-- 03_matrix_engine.md, worked examples after R175: a full-rate tile and a ragged FP4 tile.
def exOperand (fmt pitch : Nat) : Operand := { operandOf 0#64 0#64 with fmt := fmt, pitch := pitch }
def exTile (fmt m n k pitch : Nat) : Mt :=
  { mtOf [] with op := 0x10, pour := true, m := m, n := n, k := k, a := exOperand fmt pitch, b := exOperand fmt pitch }
theorem test_tile_passes : (exTile 3 256 512 4096 516).passes = 16 ∧ (exTile 3 256 512 4096 516).steps + 16 = 4112 ∧
    (exTile 0 100 200 1000 68).passes = 4 ∧ (exTile 0 100 200 1000 68).steps + 16 = 528 := by decide
-- 04_backward_accumulation.md, worked example after R209: an FP8-F pour of 64 rows.
theorem test_pour_cycles : pourCycles (exTile 3 128 128 64 516) [mkWord [(0, 4, 3)], 0#64, 0#64, 0#64, 0#64, 0#64] 0 = 140 := by decide
-- 06_memory_tiers.md, worked example after R309: operand A and its scale plane.
theorem test_transfer_estimates :
    ({ xcmdOf [] with dir := 0, rowBytes := 4096, rows := 256 } : XCmd).estimate = 32808 ∧
    ({ xcmdOf [] with dir := 0, rowBytes := 128, rows := 256 } : XCmd).estimate = 1064 := by decide
-- 09_state_and_updates.md, worked example "one block through UPD_STEP": element (0, 5) of tile 24, and its header in slot 1.
def exUpd : UCmd := { ucmdOf [] with base := 0x010040000000, a := 8, t := 256, o := 1024, i := 4096, outer := false }
theorem test_update_addresses : exUpd.granule (exUpd.plane 0 0) 24 + 20 = 0x010040180014 ∧ exUpd.granule (exUpd.plane 1 0) 24 + 20 = 0x010043180014 ∧
    exUpd.header 1 24 0 = 0x01004E000E00 ∧ exUpd.header 0 24 0 = 0x01004E000C00 ∧ caddyOfTile 24 = 0 := by decide
-- 11_welds.md, worked example "a reroute": round trips of 1,150 and 430 microseconds, counted in 10 ns (the line of 420 is in log 46).
theorem test_far_window : farWindow 115000 = 656171 ∧ farWindow 43000 = 245992 ∧ farWindow 400000 = 1519104 := by decide
-- 16_host_link.md, worked example "a vector through a virtual function".
theorem test_vector_numbers : vectorIn 3 5 = some 1285 ∧ vectorOut 0 1285 = 1285 ∧ vectorOut 3 1285 = 5 ∧ vectorIn 3 128 = none := by decide
-- 05_vector_engine.md, worked example after R277: VPERM over four lanes.
def exVec (op : W64) (v : VecState) : State := (vst op).updCore 3 fun c => { c with vec := v }
def lanesOf (l : List W32) : List W32 := l ++ List.replicate (64 - l.length) 9#32
def exPerm : W64 := vw 0x60 3 1 2 0 0 0 1 2 0 0 0
def permVec : VecState := { v := [(1, lanesOf [10#32, 11#32, 12#32, 13#32]), (2, lanesOf [3#32, 0#32, 7#32, 1#32]), (3, lanesOf [])], vl := 4,
                            flags := 0 }
theorem test_vperm : (match exec (.vperm 3 exPerm) (exVec exPerm permVec) with
    | .next s => ((s.core 3).vec.v.get [] 3).take 5 == [13#32, 10#32, 0#32, 11#32, 9#32] && (s.core 3).vec.mreg 2 == 4#64 &&
        (s.core 3).vec.flags == 32
    | _ => false) = true := by decide +kernel
-- 05_vector_engine.md, worked example after R283: two +inf lanes among the kept five of a softmax row.
def smRow : VecState := {
  v := [(1, lanesOf [0x3F000000#32, 0x7F800000#32, 0x40E00000#32, 0x7F800000#32, 0x7FC00000#32, 0x40400000#32])],
  m := [(1, 0x2F#64)], sc := [(4, 0xFF800000#64), (5, 0#64)], vl := 6, flags := 0 }
def exSm (op : Nat) : W64 := vw op 4 1 0 0 1 0 0 0 0 0 0
def afterSm (c : Nat → W64 → Instr) (op : Nat) (v : VecState) : VecState :=
  match exec (c 3 (exSm op)) (exVec (exSm op) v) with
  | .next s => (s.core 3).vec
  | _ => v
theorem test_softmax_max : smOf (afterSm .vsmmax 0x71 smRow) 4 = { max := 0x7F800000, sum := 0, count := 5, ninf := 2, nan := false } :=
    by decide +kernel
theorem test_softmax_sum : (smOf (afterSm .vsmsum 0x72 (afterSm .vsmmax 0x71 smRow)) 4).sum = 0x40000000 := by decide +kernel
theorem test_softmax_rows : (List.range 6).map (fun i => (afterSm .vsmnrm 0x73 (afterSm .vsmsum 0x72 (afterSm .vsmmax 0x71 smRow))).v.get [] 4 |>.getD i 1#32) =
    [0#32, 0x3F000000#32, 0#32, 0x3F000000#32, 0#32, 0#32] := by decide +kernel
-- R99 (02_number_formats.md): a source value beyond the largest FP8-G value saturates, the largest itself does not.
theorem test_beyond_largest : (convertBlock Fmts.fp8g 0 [.fin false 57345 0] [.nearest]).sat = true ∧
    (convertBlock Fmts.fp8g 0 [.fin false 57344 0] [.nearest]).sat = false := by decide

/-! ### Operands shared by the witnesses -/

def opW0 : Tile := ({ mtTile 0x10 0 1 true with base := Lines.of [] })
def stW1 : State := { up with mem := { up.mem with trainings := [(4, { phase := 2, tries := 0, ready := false })] } }
def opW2 : Access := { fn := 0, off := 0x40, width := 64, value := 0x20#64 }
def stW3 : State := { up with steep := { up.steep with count := 9 } }
def stW4 : State := { up with power := { up.power with off := true } }
def stW5 : State := (snapS { steep := 20, cells := [{}, {}] } none)
def stW6 : State := ((Fl fun f => { f with rungs := [{ unit := .core 3, code := 2, started := 0 }] }).setUnit (.core 3) { fence := some .err })
def stW7 : State := { (Fl fun f => { f with faDue := true, moduleReset := some true }) with trust := { stage := 3 } }
def stW8 : State := (Fl fun f => { f with marginG := [(5, { voltage := 4, timing := 9 })] })
def stW9 : State := (Qs 1 0x20 { enabled := true, quota := 4, guarantee := 2, ports := [(3, op 2 none)] } 6)
def stW10 : State := (Qs 1 0x20 { enabled := true, fence := some .drain } 6)
def opW11 : OpenPacket := ({ op 20 (some [1#64, 2#64]) with since := 0 } : OpenPacket)
def stW12 : State := (Qs 1 0x20 { enabled := true, packets := [pk 3 5, pk 4 6], base := 7, cursor := 9, offset := 5 } 6)
def stW13 : State := (Qs 1 0x20 { enabled := true, packets := [pk 3 5, pk 4 6], base := 7, cursor := 9, offset := 5, marks := [(2,(7,1))] } 6)
def stW14 : State := (Qs 1 0x20 { enabled := true, packets := [pk 3 5, pk 4 6], base := 7, cursor := 9, offset := 5, marks := [(2,(7,1)), (3, (8,
                                  0))] } 6)
def stW15 : State := (MB 3 (fun m => { m with free := 0, unread := 3, pending := 13 }))
def rqW16 : Req := (reqU 0 .module [mkWord [(0,3,3),(8,8,5),(16,19,8),(35,19,16),(54,10,2)], BitVec.ofNat 64 4, 0xABC#64])
def rqW17 : Req := (subReq (mkWord [(0,4,3),(4,1,1),(5,1,1),(32,16,8)]) (0x200000#64))
def rqW18 : Req := (subReq (mkWord [(0,4,3),(4,1,0),(32,16,8)]) (0x200000#64))
def opW19 : Switch := { die := 1, from_ := some 3, to_ := 2, started := 0, ns := 7 }
def stW20 : State := (lk 5 (fun l => { l with state := .trained, jobTraffic := true, rxNext := 7, credits := [(2, { available := 50, sent := 4 })] }))
def opW21 : Frame := (frm (mkWord [(0,16,6)]) (mkWord [(0,6,4)]) [])
def stW22 : State := (lk 5 (fun l => { l with state := .trained, nak := true, rxNext := 0, frames := [⟨3,[1#64],0,false,0⟩, ⟨4,[2#64],0,true,8⟩],
                                              inflight := [tp 0 40 [5]], lastVc := 2 }))
def opW23 : Frame := (frm (mkWord [(0,16,0)]) (mkWord [(0,6,2)]) [])
def opW24 : Frame := { frm (mkWord [(33,1,1)]) (mkWord [(0,6,1),(8,8,4)]) [5#64] with uncorr := true }
def rqW25 : Req := (reqU 0 .module (mkWord [(0,3,7),(16,13,5),(32,6,3)] :: [0x00FFFFC500FC0145#64, 0x00FFFFFF#64]))
def rqW26 : Req := (reqU 0 .module (BitVec.ofNat 64 7 :: (List.range 5).map (fun i => mkWord [(0, 13,
    ([(0,0),(1,4096),(8191,1),(4096,4096),(5,5),(6,6),(7,7),(8,8),(9,9),(10,10)].getD (2 * i) (0, 0)).1), (14, 14,
    ([(0,0),(1,4096),(8191,1),(4096,4096),(5,5),(6,6),(7,7),(8,8),(9,9),(10,10)].getD (2 * i) (0, 0)).2), (32, 13,
    ([(0,0),(1,4096),(8191,1),(4096,4096),(5,5),(6,6),(7,7),(8,8),(9,9),(10,10)].getD (2 * i + 1) (0, 0)).1), (46, 14,
    ([(0,0),(1,4096),(8191,1),(4096,4096),(5,5),(6,6),(7,7),(8,8),(9,9),(10,10)].getD (2 * i + 1) (0, 0)).2)])))
def opW27 : List (Nat × Nat) := [(0,0),(1,4096),(8191,1),(4096,4096),(5,5),(6,6),(7,7),(8,8),(9,9),(10,10)]
def opW28 : Pkt := { route := mkWord [(8,8,1),(16,3,2),(19,1,1),(32,16,8)], body :=
                     mkWord [(0,32,7)] :: mkWord [(0,40,0),(40,8,5),(48,16,4711)] :: List.replicate 40 0#64 }
def stW29 : State := (opened (.collSend 2 3 (collCmd 38 7)) (collSt (collCmd 38 7) []) 2 7).1
def opW30 : CollOp := (opened (.collSend 2 3 (collCmd 38 7)) (collSt (collCmd 38 7) []) 2 7).2
def rqW31 : Req := (reqU 0 .module [mkWord [(0, 6, 5), (8, 4, 3)]])
def rqW32 : Req := (reqU 0 .module [mkWord [(0, 6, 5), (8, 1, 0)], mkWord [(0, 32, hnd 2), (32, 32, 7)]])
def opW33 : KeyEntry := ({ kind := 2, ctx := 0, gen := 2, key := keyW } : KeyEntry)
def rqW34 : Req := (reqU 8 .module ([(mkWord [(0,32,77),(32,10,16),(42,4,1),(46,6,0),(52,1,0),(53,1,1),(56,4,6)]),
    (mkWord [(0,13,64),(13,3,2),(16,16,21),(32,8,0),(40,8,3)]), BitVec.ofNat 64 100, BitVec.ofNat 64 2097152, BitVec.ofNat 64 2359296,
    BitVec.ofNat 64 2424832, BitVec.ofNat 64 2490368, BitVec.ofNat 64 2686976, BitVec.ofNat 64 16384, BitVec.ofNat 64 3145728,
    BitVec.ofNat 64 1] ++ (pathWords [0x2007])))
def opW35 : W64 := (mkWord [(0,32,77),(32,10,16),(42,4,1),(46,6,0),(52,1,0),(53,1,1),(56,4,6)])
def opW36 : W64 := (mkWord [(0,13,64),(13,3,2),(16,16,21),(32,8,0),(40,8,3)])
def stW37 : State := ((jobS (jobJ 0 4 [p5 .running, p6 .running] id)))
def opW38 : StepSt := ((((jobS (jobJ 0 4 [p5 .running, p6 .running])).ctx 2).job.stepOf 5).getD (p5 .idle))
def stW39 : State := (jobS (jobJ 1 20 [{ p5 .readySent with readySteep := some 17 }]))
def stW40 : State := ((jobS (jobJ 1 4 [p5 .running, p6 .running] id)))
def stW41 : State := (jobS (jobJ 1 20 [{ p5 .readySent with readySteep := some 17, querySteep := some 19 }]))
def stW42 : State := (mems (fun g => { g with lastLinks := [(7, 4), (8, 3)], votes := [⟨20, 7, 1⟩, ⟨21, 7, 1⟩, ⟨20, 8, 1⟩], expelled := [50],
                                              pendingExpels := [⟨51, 1, 2, 3⟩], mver := 4294967295, sentExpels := [⟨51,1,2,3⟩,
                                              ⟨60,2,9,3⟩] }) 9 0 9 20)
def stW43 : State := (mems (fun g => { g with lastLinks := [(7, 4), (8, 3)], votes := [⟨20, 7, 1⟩, ⟨21, 7, 1⟩, ⟨20, 8, 1⟩], expelled := [50],
                                              pendingExpels := [⟨51, 1, 2, 3⟩], mver := 4294967295, sentExpels := [⟨51,1,2,3⟩,
                                              ⟨60,2,9,3⟩] }) 7 9 9 20)
def stW44 : State := (mems (fun g => { g with watching := [(5, 40), (6, 30), (7, 30), (4, 30)], grants := [], grantsStanding := [20], per256 := 0,
                                              candidate := true, modules := (List.range 4).map fun i => (i, []) }) 9 0 9 64)
def stW45 : State := (mems (fun g => { g with watching := [(5, 40), (6, 30), (7, 30), (4, 30)], grants := [], grantsStanding := [20], per256 := 0,
                                              candidate := true, modules := (List.range 4).map fun i => (i, []) }) 8 0 9 63)
def stW46 : State := ({ (mems (fun m => { m with candidate := true }) 7 8 9 8) with pending := [] } : State)
def opW47 : W64 := (mkWord [(0,3,3),(3,1,0),(16,17,0),(33,17,4)])
def rqW48 : Req := (reqU 0 .module [(mkWord [(0,3,3),(3,1,0),(16,17,0),(33,17,4)]), (BitVec.ofNat 64 2097152), (mkWord [(0,17,1),(32,16,0)])])
def rqW49 : Req := (reqU 0 .module [(mkWord [(0,3,3),(16,17,4),(33,31,5)]), 0x200000#64, 9#64, 0#64])
def rqW50 : Req := (reqU 0 .module [(mkWord [(0,3,3),(4,4,0)]), 2228224#64, 0#64, 2097152#64])
def rqW51 : Req := (reqU 0 .module [3#64, 0x220000#64, 0x230000#64])
def rqW52 : Req := (reqU 0 .module ((mkWord [(0,3,3),(4,3,5)]) :: (pathWords [0x2005])))
def rqW53 : Req := (reqU 0 .module ((mkWord [(0,3,3),(16,17,65)]) :: (pathWords [0x2005])))
def rqW54 : Req := (reqU 0 .module ((mkWord [(0,3,3),(4,3,5),(8,16,77)]) :: 6#64 :: (pathWords [0x2005])))
def opW55 : Pkt := { route := mkWord [(8,8,0),(32,16,5)], body := [7#64] }
def stW56 : State := ({ (up) with trust := { (up).trust with stage := 0, nextBank := 1, bootCount := 4 } } : State)
def opW57 : BootLoad := ({ firstOk := false, otherOk := true, seed := some [7#8], digests := [[1#8],[2#8],[3#8]], sigOk := true } : BootLoad)
def rqW58 : Req := (reqU 0 .module [1#64,2#64,3#64,4#64,0x1000#64])
def stW59 : State := (K (H (fun h => { h with busMaster := List.range 40 }) (({ (up) with trust :=
                                                                                          { (up).trust with stage :=
                                                                                                            0x0F } } : State))) .module 0x0600 [1#64,2#64,3#64,4#64,0x1000#64])
def stW60 : State := (K (H (fun h => { h with busMaster := List.range 40 }) (({ (up) with trust :=
                                                                                          { (up).trust with stage := 0x0F, seed :=
                                                                                                            some (List.replicate 64 3#8), identity :=
                                                                                                            List.replicate 64 5#8, slots :=
                                                                                                            (List.range 9).map fun i => (i,
                                                                                                            (List.replicate 64 (BitVec.ofNat 8 i),
                                                                                                            i)) } } : State))) .module 0x0600 [1#64,2#64,3#64,4#64,0x1000#64])
def rqW61 : Req := (reqU 0 .module [8#64,0x1000#64,0x2000#64,64#64])
def rqW62 : Req := (reqU 0 .module [(mkWord [(0,3,2),(4,2,1),(6,1,1),(8,10,1),(32,32,5)]), 0x200000#64, 0x300000#64, 9#64])
def opW63 : W64 := (mkWord [(0,3,2),(4,2,1),(6,1,1),(8,10,1),(32,32,5)])
def stW64 : State := (mS .free 2 0 id fun c => { c with slots := [(3, { streams := [{ strm with todo := [(3,
                                                                                                [mkWord [(0,8,0x60),(8,4,5),(16,2,1),(18,2,0),(20,1,0),(21,1,1),(22,10,0),(32,16,0),(48,16,1)], 5#64, 4096#64, mkWord [(32,32,77)], 9#64]), (3, mk77)], words := ([mkWord [(0, 8, 1), (8, 4, 2), (16, 16, 1), (32, 32, 9)], 5#64, mkWord [(0, 8, 2), (8, 4, 2), (16, 16, 1)], BitVec.ofNat 64 (5 + ([mkWord [(0,8,0x60),(8,4,5),(16,2,1),(18,2,0),(20,1,0),(21,1,1),(22,10,0),(32,16,0),(48,16,1)], 5#64, 4096#64, mkWord [(32,32,77)], 9#64]).length), mkWord [(0, 8, 3), (8, 4, 3), (16, 4, 3)], 0#64, 0#64] ++ [mkWord [(0,8,0x60),(8,4,5),(16,2,1),(18,2,0),(20,1,0),(21,1,1),(22,10,0),(32,16,0),(48,16,1)], 5#64, 4096#64, mkWord [(32,32,77)], 9#64]), slices := 1, running := some 0, started := true }] })] })
def opW65 : List W64 := [mkWord [(0,8,0x60),(8,4,5),(16,2,1),(18,2,0),(20,1,0),(21,1,1),(22,10,0),(32,16,0),(48,16,1)], 5#64, 4096#64,
    mkWord [(32,32,77)], 9#64]
def smW66 : Stream := ({ strm with todo := [(3, [mkWord [(0,8,0x60),(8,4,5),(16,2,1),(18,2,0),(20,1,0),(21,1,1),(22,10,0),(32,16,0),(48,16,1)], 5#64,
                                   4096#64, mkWord [(32,32,77)], 9#64]), (3, mk77)], words := ([mkWord [(0, 8, 1), (8, 4, 2), (16, 16, 1), (32, 32,
                                   9)], 5#64, mkWord [(0, 8, 2), (8, 4, 2), (16, 16, 1)],
                                   BitVec.ofNat 64 (5 + ([mkWord [(0,8,0x60),(8,4,5),(16,2,1),(18,2,0),(20,1,0),(21,1,1),(22,10,0),(32,16,0),(48,16,1)], 5#64, 4096#64, mkWord [(32,32,77)], 9#64]).length), mkWord [(0, 8, 3), (8, 4, 3), (16, 4, 3)], 0#64, 0#64] ++ [mkWord [(0,8,0x60),(8,4,5),(16,2,1),(18,2,0),(20,1,0),(21,1,1),(22,10,0),(32,16,0),(48,16,1)], 5#64, 4096#64, mkWord [(32,32,77)], 9#64]), slices := 1, running := some 0, started := true })
def opW67 : List W64 := [mkWord [(0,8,0x61),(8,4,1),(16,2,1),(18,8,4),(32,10,0),(42,10,1)]]
def smW68 : Stream := ({ strm with words := ([mkWord [(0, 8, 1), (8, 4, 2), (16, 16, 1), (32, 32, 9)], 5#64, mkWord [(0, 8, 2), (8, 4, 2), (16, 16,
                                   1)], BitVec.ofNat 64 (5 + ([mkWord [(0,8,0x61),(8,4,1),(16,2,1),(18,8,4),(32,10,0),(42,10,1)]]).length),
                                   mkWord [(0, 8, 3), (8, 4, 3), (16, 4, 3)], 0#64,
                                   0#64] ++ [mkWord [(0,8,0x61),(8,4,1),(16,2,1),(18,8,4),(32,10,0),(42,10,1)]]), slices := 1 } : Stream)
def opW69 : List W64 := [mkWord [(0,8,0x61),(8,4,1),(16,2,1),(18,8,4),(32,10,1),(42,10,1)]]
def smW70 : Stream := ({ strm with words := ([mkWord [(0, 8, 1), (8, 4, 2), (16, 16, 1), (32, 32, 9)], 5#64, mkWord [(0, 8, 2), (8, 4, 2), (16, 16,
                                   1)], BitVec.ofNat 64 (5 + ([mkWord [(0,8,0x61),(8,4,1),(16,2,1),(18,8,4),(32,10,1),(42,10,1)]]).length),
                                   mkWord [(0, 8, 3), (8, 4, 3), (16, 4, 3)], 0#64,
                                   0#64] ++ [mkWord [(0,8,0x61),(8,4,1),(16,2,1),(18,8,4),(32,10,1),(42,10,1)]]), slices := 1 } : Stream)
def opW71 : List W64 := [mkWord [(0,8,0x62),(8,4,1),(16,2,1),(18,8,4),(32,10,0),(42,10,0)]]
def rqW72 : Req := (reqU 0 .module [(mkWord [(0,3,2),(4,2,1),(8,2,0),(16,3,2),(32,32,88)]), 0x200000#64, 0x5000#64, 9#64, 0x30201#64])
def opW73 : W64 := (mkWord [(0,3,2),(4,2,1),(8,2,0),(16,3,2),(32,32,88)])
def stW74 : State := (K (mS .ready 2 32 (fun m => { m with front := 1, newVersion := 4, wave := none, passes := [(1, {
                                                             version := 4, nextLayer := 0 }), (2, { version := 4, nextLayer := 1 }), (3, {
                                                             version := 3, nextLayer :=
                                                             1 })] }) fun c => { c with models := c.models ++ [(0,
                                                                                        md0 .ready 1)] }) .module 1282 [(mkWord [(0,3,2),(4,2,1),(8,2,2),(16,3,2),(32,32,88)]), 0x200000#64, 0x5000#64, 9#64, 0x30201#64])
def rqW75 : Req := (reqU 0 .module [(mkWord [(0,3,2),(4,2,1),(8,2,2),(16,3,2),(32,32,88)]), 0x200000#64, 0x5000#64, 9#64, 0x30201#64])
def opW76 : W64 := (mkWord [(0,3,2),(4,2,1),(8,2,2),(16,3,2),(32,32,88)])
def opW77 : Shard := ({ layer := 1, index := 0, due := 3, packets := [], hostTries := 0 } : Shard)
def stW78 : State := (mS .replacing 3 32 fun m => { m with newVersion := 4, wave :=
                                                           some (wv fun w => { w with shards := [{ layer := 1, index := 0, due := 3, packets :=
                                                                                                   [] }], fetching := [1], fetched := 2 }) })
def rqW79 : Req := (reqU 0 .module [(mkWord [(0,3,2),(19,19,5),(38,19,7)]),100#64,0x200000#64])
def rqW80 : Req := (reqU 0 .module [mkWord [(0,3,2),(8,12,3),(20,10,5)]])
def rqW81 : Req := (reqU 0 .module [mkWord [(0,3,2),(8,12,4),(20,10,0)]])

/-! ### Witnesses -/

/-- The hypotheses of StepRunsFrontCommand can be met. -/
theorem witness_StepRunsFrontCommand :
  (({ up with pending := [.inputSag] } : State).pending = [.inputSag]) :=
  rfl

/-- The hypotheses of IdleStepCountsOneTick can be met. -/
theorem witness_IdleStepCountsOneTick :
  (up.pending = [] ∧ up.dark = false ∧ (off up).dark = true) :=
  ⟨rfl, by decide +kernel, by decide +kernel⟩

/-- The hypotheses of CommandsLeaveTheQueueAlone can be met. -/
theorem witness_CommandsLeaveTheQueueAlone :
  (∃ t, exec .inputSag up = .next t) :=
  ⟨_, rfl⟩

/-- The hypotheses of MemoryFormKeptByEveryStep can be met. -/
theorem witness_MemoryFormKeptByEveryStep :
  (up.memoryWf ∧ ∃ t, step { up with pending := [.inputSag] } = .next t) :=
  ⟨rfl, _, rfl⟩

/-- The hypotheses of SteepStaysLegalInEveryStep can be met. -/
theorem witness_SteepStaysLegalInEveryStep :
  (up.steep.legal ∧ ∃ t, step { up with pending := [.inputSag] } = .next t) :=
  ⟨⟨⟨by decide, by decide⟩, ⟨by decide, by decide⟩, by decide +kernel⟩, _, rfl⟩

/-- The hypotheses of VectorFp32LanesCompute can be met. -/
theorem witness_VectorFp32LanesCompute :
  ([0x20, 0x21, 0x22, 0x23, 0x24, 0x25, 0x26, 0x27, 0x28, 0x29, 0x2A, 0x2B, 0x2C, 0x2D,
      0x2E].all (fun op => decide ((vst (vwOp op)).runsNext 3 (vwOp op) op (vrunOf (vwOp op)))) = true) :=
  by decide +kernel

/-- The hypotheses of VectorBf16AndConversionLanes can be met. -/
theorem witness_VectorBf16AndConversionLanes :
  ([0x30, 0x31, 0x32, 0x33, 0x16].all (fun op => decide ((vst (vwOp op)).runsNext 3 (vwOp op) op (vrunOf (vwOp op)))) = true) :=
  by decide +kernel

/-- The hypotheses of VectorIntegerLanesCompute can be met. -/
theorem witness_VectorIntegerLanesCompute :
  ([0x40, 0x41, 0x42, 0x43, 0x44, 0x45, 0x46, 0x47, 0x48, 0x49, 0x4A, 0x4B, 0x4C,
      0x4D].all (fun op => decide ((vst (vwOp op)).runsNext 3 (vwOp op) op (vrunOf (vwOp op)))) = true) :=
  by decide +kernel

/-- The hypotheses of VectorLogicAndPermutationLanes can be met. -/
theorem witness_VectorLogicAndPermutationLanes :
  ([0x50, 0x51, 0x52, 0x53, 0x60, 0x61, 0x62, 0x09, 0x0D,
      0x77].all (fun op => decide ((vst (vwOp op)).runsNext 3 (vwOp op) op (vrunOf (vwOp op)))) = true) :=
  by decide +kernel

/-- The hypotheses of VectorComparisonsSetMaskBits can be met. -/
theorem witness_VectorComparisonsSetMaskBits :
  ([0x2F, 0x4E].all (fun op => decide ((vst (vwOp op)).runsNext 3 (vwOp op) op (vrunOf (vwOp op)))) = true) :=
  by decide +kernel

/-- The hypotheses of VectorScalarRowsWriteOneRegister can be met. -/
theorem witness_VectorScalarRowsWriteOneRegister :
  ([0x00, 0x01, 0x02, 0x03, 0x04, 0x05, 0x08, 0x0A, 0x0B, 0x0C, 0x0E,
      0x0F].all (fun op => decide ((vst (vwOp op)).runsNext 3 (vwOp op) op (vrunOf (vwOp op)))) = true) :=
  by decide +kernel

/-- The hypotheses of VectorReductionsAndRowState can be met. -/
theorem witness_VectorReductionsAndRowState :
  ([0x63, 0x64, 0x65, 0x70, 0x71, 0x72, 0x73, 0x74, 0x75,
      0x76].all (fun op => decide ((vst (vwOp op)).runsNext 3 (vwOp op) op (vrunOf (vwOp op)))) = true) :=
  by decide +kernel

/-- The hypotheses of VectorLoadsReadTheNamedWords can be met. -/
theorem witness_VectorLoadsReadTheNamedWords :
  ([0x10, 0x12, 0x14, 0x06].all (fun op => decide ((vst (vwOp op)).runsNext 3 (vwOp op) op (vrunOf (vwOp op)))) = true) ∧
  ((let w := vwOp 0x10; let s := vst w; let r := vrunOf w; let x := s.vin 3 w r; decide ((s.core 3).store.syn = []) &&
      decide (s.mem.injArm = false) && x.active 0 &&
      (List.range 64).all (fun i => !(x.active i) || (vcmdOf r.cmd).mayRead (vecAddr ((x.vec.s x.f.va).toNat + 4 * (signed 18 x.f.imm + i))) 4)) = true) ∧
  ((let w := vwOp 0x12; let s := vst w; let r := vrunOf w; let x := s.vin 3 w r; decide ((s.core 3).store.syn = []) &&
      decide (s.mem.injArm = false) && x.active 0 &&
      (List.range 64).all (fun i => !(x.active i) || (vcmdOf r.cmd).mayRead (vecAddr ((x.vec.s x.f.va).toNat + 4 * x.f.imm + i * signed 64 (x.vec.s x.f.vb).toNat)) 4)) = true) ∧
  ((let w := vwOp 0x14; let s := vst w; let r := vrunOf w; let x := s.vin 3 w r; let f := vecFormat x.f.fmt;
      let base := vecAddr (x.vec.s x.f.va).toNat; let sc (i : Nat) := ((x.vec.s x.f.vb).toNat + (x.f.imm + i) / 32) % 2 ^ 64; x.active 0 &&
      f.scaled && (List.range 64).all (fun i => !(x.active i) || ((vcmdOf r.cmd).mayRead (planeSpan base f.bits (x.f.imm + i) 1).1 (planeSpan base f.bits (x.f.imm + i) 1).2 && (vcmdOf r.cmd).mayRead (sc i) 1))) = true) ∧
  ((let w := vwOp 0x06; let x := (vst w).vin 3 w (vrunOf w);
      (vcmdOf (vrunOf w).cmd).mayRead (scaAddr ((x.vec.s x.f.va).toNat + 8 * x.f.imm)) 8) = true) :=
  by
  and_intros <;> decide +kernel

/-- The hypotheses of VectorStoresWriteOnlyTheirBytes can be met. -/
theorem witness_VectorStoresWriteOnlyTheirBytes :
  ([0x11, 0x13, 0x07, 0x15].all (fun op => decide ((vst (vwOp op)).runsNext 3 (vwOp op) op (vrunOf (vwOp op)))) = true) ∧
  ((let w := vwOp 0x11; let s := vst w; let r := vrunOf w; let x := s.vin 3 w r; decide ((s.core 3).store.syn = []) &&
      decide (s.mem.injArm = false) && x.active 0 &&
      (List.range 64).all (fun i => !(x.active i) || (vcmdOf r.cmd).mayWrite (vecAddr ((x.vec.s x.f.va).toNat + 4 * (signed 18 x.f.imm + i))) 4)) = true) ∧
  ((let w := vwOp 0x13; let s := vst w; let r := vrunOf w; let x := s.vin 3 w r; decide ((s.core 3).store.syn = []) &&
      decide (s.mem.injArm = false) && x.active 0 &&
      (List.range 64).all (fun i => !(x.active i) || (vcmdOf r.cmd).mayWrite (vecAddr ((x.vec.s x.f.va).toNat + 4 * x.f.imm + i * signed 64 (x.vec.s x.f.vb).toNat)) 4)) = true) ∧
  ((let w := vwOp 0x07; let x := (vst w).vin 3 w (vrunOf w);
      (vcmdOf (vrunOf w).cmd).mayWrite (scaAddr ((x.vec.s x.f.va).toNat + 8 * x.f.imm)) 8) = true) ∧
  ((let w := vwOp 0x15; let s := vst w; let r := vrunOf w; let x := s.vin 3 w r; let f := vecFormat x.f.fmt;
      let base := vecAddr (x.vec.s x.f.va).toNat; let blocks := (List.range (cdiv x.vec.vl 32)).map (fun b => (b, x.packBlock f (32 * b)));
      let codes := blocks.map (fun b => ((planeSpan base f.bits (x.f.imm + 32 * b.1) (if f.scaled then 32 else min 32 (x.vec.vl - 32 * b.1))).1, codeBytes f.bits (b.2.1.take (if f.scaled then 32 else min 32 (x.vec.vl - 32 * b.1))))); codes.all (fun p => (vcmdOf r.cmd).mayWrite p.1 p.2.length)) = true) :=
  by
  and_intros <;> decide +kernel

/-- The hypotheses of MatrixLaneTakesAndStartsTiles can be met. -/
theorem witness_MatrixLaneTakesAndStartsTiles :
  -- 0.0
  (let s : State := (WK (mtCmd 0x10 0 1)); let k : Nat := 3; let op : Nat := 0x10; let cmd : Cmd := (mtCmd 0x10 0 1);
      let w : Work := (wk (mtCmd 0x10 0 1)); let c : Nat → List W64 → Instr := Instr.mtFwd; true && decide (cmd.op = op) &&
      decide ((s.core k).tile = none) && decide (s.due k cmd = some w) && decide (s.fencedUnit (.core k) = false)) = true ∧
  -- 0.1
  (let s : State := ((WK (mtCmd 0x10 0 1)).setUnit (.die 0) { fence := some .drain }); let k : Nat := 3; let op : Nat := 0x10;
      let cmd : Cmd := (mtCmd 0x10 0 1); let w : Work := (wk (mtCmd 0x10 0 1)); let c : Nat → List W64 → Instr := Instr.mtFwd; true &&
      decide (cmd.op = op) && decide ((s.core k).tile = none) && decide (s.due k cmd = some w) && decide (s.fencedUnit (.core k) = true)) = true ∧
  -- 1.0
  (let s : State := (mtState (some (mtTile 0x10 0 1 false)) .empty none); let k : Nat := 3; let t : Tile := (mtTile 0x10 0 1 false);
      decide ((s.core k).tile = some t) && decide (t.started = false) && decide ((s.core k).store.syn = []) &&
      decide (((s.core k).work.find? fun w => w.phase == .taken && Cmd.isTile w.cmd).any (s.core k).waits = false) && let mt := mtOf t.cmd;
      let desc := if mt.pour then (s.core k).store.words mt.epi 6 else []; decide (mt.accum = false) && decide ((s.core k).live.state = .empty) &&
      decide (mt.pour = true → (epiOf desc).check mt = none)) = true ∧
  -- 1.1
  (let s : State := (badEpi (mtState (some (mtTile 0x10 0 1 false)) .empty none)); let k : Nat := 3; let t : Tile := (mtTile 0x10 0 1 false);
      decide ((s.core k).tile = some t) && decide (t.started = false) && decide ((s.core k).store.syn = []) &&
      decide (((s.core k).work.find? fun w => w.phase == .taken && Cmd.isTile w.cmd).any (s.core k).waits = false) && let mt := mtOf t.cmd;
      let desc := if mt.pour then (s.core k).store.words mt.epi 6 else []; decide (mt.accum = false) && decide ((s.core k).live.state = .empty) &&
      decide (mt.pour = true) && (match (epiOf desc).check mt with | some st => true | _ => false)) = true ∧
  -- 1.2
  (let s : State := (mtState (some (mtTile 0x10 1 1 false)) .held (some mtChain)); let k : Nat := 3; let t : Tile := (mtTile 0x10 1 1 false);
      decide ((s.core k).tile = some t) && decide (t.started = false) && decide ((s.core k).store.syn = []) &&
      decide (((s.core k).work.find? fun w => w.phase == .taken && Cmd.isTile w.cmd).any (s.core k).waits = false) && let mt := mtOf t.cmd;
      let desc := if mt.pour then (s.core k).store.words mt.epi 6 else []; decide (mt.accum = true) && decide ((s.core k).live.state = .held) &&
      (match (s.core k).chain with | some h => decide (h.tileId = mt.tileId) && decide (h.step = mt.step) && decide (h.ctx = t.ctx) && decide (mt.pour = true → (epiOf desc).check mt = none) | _ => false)) = true ∧
  -- 1.3
  (let s : State := (badEpi (mtState (some (mtTile 0x10 1 1 false)) .held (some mtChain))); let k : Nat := 3;
      let t : Tile := (mtTile 0x10 1 1 false); decide ((s.core k).tile = some t) && decide (t.started = false) &&
      decide ((s.core k).store.syn = []) && decide (((s.core k).work.find? fun w => w.phase == .taken &&
      Cmd.isTile w.cmd).any (s.core k).waits = false) && let mt := mtOf t.cmd; let desc := if mt.pour then (s.core k).store.words mt.epi 6 else [];
      let h := mtChain; decide (mt.accum = true) && decide ((s.core k).live.state = .held) && decide ((s.core k).chain = some h) &&
      decide (h.tileId = mt.tileId) && decide (h.step = mt.step) && decide (h.ctx = t.ctx) && decide (mt.pour = true) &&
      (match (epiOf desc).check mt with | some st => true | _ => false)) = true ∧
  -- 1.4
  (let s : State := (mtState (some (mtTile 0x10 1 1 false)) .empty none); let k : Nat := 3; let t : Tile := (mtTile 0x10 1 1 false);
      decide ((s.core k).tile = some t) && decide (t.started = false) && decide ((s.core k).store.syn = []) &&
      decide (((s.core k).work.find? fun w => w.phase == .taken && Cmd.isTile w.cmd).any (s.core k).waits = false) && let mt := mtOf t.cmd;
      decide (mt.accum = true) &&
      (!(decide ((s.core k).live.state = .held)) || (match (s.core k).chain with | some h => decide (h.tileId ≠ mt.tileId ∨ h.step ≠ mt.step ∨ h.ctx ≠ t.ctx) | _ => true))) = true :=
  by
  and_intros <;> decide +kernel

/-- The hypotheses of PassSettlesIntoHeldPouringOrRepeat can be met. -/
theorem witness_PassSettlesIntoHeldPouringOrRepeat :
  -- 0.0
  (let s : State := (mtState (some ({ mtTile 0x10 0 0 true with base := Lines.of [] })) .live none); let k : Nat := 3;
      let t : Tile := ({ mtTile 0x10 0 0 true with base := Lines.of [] }); true && decide (t.started = true) && decide (t.stalled = false) &&
      decide ((s.core k).store.syn = []) && decide ((s.core k).injArm = false) && let mt := mtOf t.cmd;
      let res := passCells mt (s.core k).store t.kBase t.kTotal t.pass t.repeats (s.core k).live.cells; ((res).all fun p => decide (p.2 = false)) &&
      decide (mt.pour = false)) = true ∧
  (let s : State := (mtState (some ({ mtTile 0x10 0 0 true with base := Lines.of [] })) .live none); let k : Nat := 3;
      let t : Tile := ({ mtTile 0x10 0 0 true with base := Lines.of [] }); t.base = Lines.of (s.core k).live.cells) ∧
  (let s : State := (mtState (some ({ mtTile 0x10 0 0 true with base := Lines.of [] })) .live none); let k : Nat := 3;
      let t : Tile := ({ mtTile 0x10 0 0 true with base := Lines.of [] }); (s.core k).tile = some t) ∧
  -- 0.1
  (let s : State := (mtState (some ({ mtTile 0x10 0 1 true with base := Lines.of [] })) .live none); let k : Nat := 3; let t : Tile := opW0; true &&
      decide (t.started = true) && decide (t.stalled = false) && decide ((s.core k).store.syn = []) && decide ((s.core k).injArm = false) &&
      let mt := mtOf t.cmd; let res := passCells mt (s.core k).store t.kBase t.kTotal t.pass t.repeats (s.core k).live.cells;
      ((res).all fun p => decide (p.2 = false)) && decide (mt.pour = true) && decide ((s.core k).shadow.state = .empty)) = true ∧
  (let s : State := (mtState (some ({ mtTile 0x10 0 1 true with base := Lines.of [] })) .live none); let k : Nat := 3; let t : Tile := opW0;
      t.base = Lines.of (s.core k).live.cells) ∧
  (let s : State := (mtState (some ({ mtTile 0x10 0 1 true with base := Lines.of [] })) .live none); let k : Nat := 3; let t : Tile := opW0;
      (s.core k).tile = some t) ∧
  -- 0.2
  (let s : State := (mtBigS (some ({ mtTile 0x10 0 1 true with base := Lines.of [] })) .live none); let k : Nat := 3; let t : Tile := opW0; true &&
      decide (t.started = true) && decide (t.stalled = false) && decide ((s.core k).store.syn = []) && decide ((s.core k).injArm = false) &&
      let mt := mtOf t.cmd; let res := passCells mt (s.core k).store t.kBase t.kTotal t.pass t.repeats (s.core k).live.cells;
      ((res).any fun p => decide (p.2 = true)) && decide (mt.accum = false) && decide (mt.pour = true) && decide (t.repeats < 2)) = true ∧
  (let s : State := (mtBigS (some ({ mtTile 0x10 0 1 true with base := Lines.of [] })) .live none); let k : Nat := 3; let t : Tile := opW0;
      t.base = Lines.of (s.core k).live.cells) ∧
  (let s : State := (mtBigS (some ({ mtTile 0x10 0 1 true with base := Lines.of [] })) .live none); let k : Nat := 3; let t : Tile := opW0;
      (s.core k).tile = some t) :=
  ⟨by decide +kernel, congrArg Lines.of (by decide +kernel), rfl, by decide +kernel, congrArg Lines.of (by decide +kernel), rfl, by decide +kernel,
      congrArg Lines.of (by decide +kernel), rfl⟩

/-- The hypotheses of PourWritesOutputsAndEmptiesSet can be met. -/
theorem witness_PourWritesOutputsAndEmptiesSet :
  -- 0.0
  (let s : State := pourSt; let k : Nat := 3;
      let p : Pour := ((pourSt.core 3).pour.getD { cmd := [], ctx := none, desc := [], pass := 0, repeats := 0, last := true, started := 0, begun := 0, tick := 0 }); let f : Format := .fp32; decide ((s.core k).pour = some p) && decide ((s.core k).store.syn = []) && decide (s.mem.injArm = false) && decide (formatOf (epiOf p.desc).outFmt = some f) && decide ((s.core k).tile = none)) = true :=
  by decide +kernel

/-- The hypotheses of VectorRunsStartStopAndEnd can be met. -/
theorem witness_VectorRunsStartStopAndEnd :
  -- 0.0
  (let s : State := (WK (vrCmd 2 0 0 5) 3 (vrSt [vw 0x20 4 1 2 0 0 0 0 0 0 0 0, 0#64])); let k : Nat := 3; let cmd : Cmd := (vrCmd 2 0 0 5);
      let d : Work := (wk (vrCmd 2 0 0 5)); decide (cmd.op = 0x18) && decide (s.laneTakes k cmd = some d) &&
      decide (s.fencedUnit (.core k) = false) && decide ((s.core k).store.syn = []) && let v := vcmdOf cmd;
      let prog := (s.core k).store.words v.addr v.len; let cost (ws : List W64) : Nat := (ws.map vecCost).sum;
      ((prog).all fun w => decide ((vfOf w).ok = true)) && decide (cost (prog.take v.pro) ≤ v.proCost) &&
      decide (cost (prog.drop v.pro) ≤ v.bodyCost)) = true ∧
  -- 0.1
  (let s : State := (WK (vrCmd 2 0 0 5) 3 (vrSt [vw 0x20 4 1 2 0 0 0 0 0 0 0 0, 0xFF#64])); let k : Nat := 3; let cmd : Cmd := (vrCmd 2 0 0 5);
      let d : Work := (wk (vrCmd 2 0 0 5)); decide (cmd.op = 0x18) && decide (s.laneTakes k cmd = some d) &&
      decide (s.fencedUnit (.core k) = false) && decide ((s.core k).store.syn = []) && let v := vcmdOf cmd;
      let prog := (s.core k).store.words v.addr v.len; (match (prog.findIdx? fun w => !(vfOf w).ok) with | some i => true | _ => false)) = true ∧
  -- 0.2
  (let s : State := (WK (vrCmd 2 0 0 1) 3 (vrSt [vw 0x20 4 1 2 0 0 0 0 0 0 0 0, 0#64])); let k : Nat := 3; let cmd : Cmd := (vrCmd 2 0 0 1);
      let d : Work := (wk (vrCmd 2 0 0 1)); decide (cmd.op = 0x18) && decide (s.laneTakes k cmd = some d) &&
      decide (s.fencedUnit (.core k) = false) && decide ((s.core k).store.syn = []) && let v := vcmdOf cmd;
      let prog := (s.core k).store.words v.addr v.len; let cost (ws : List W64) : Nat := (ws.map vecCost).sum;
      ((prog).all fun w => decide ((vfOf w).ok = true)) && decide (v.proCost < cost (prog.take v.pro) ∨ v.bodyCost < cost (prog.drop v.pro))) = true ∧
  -- 1.0
  (let s : State := (up.updCore 3 fun c => { c with vrun := some endedRun }); let k : Nat := 3; let r : VRun := endedRun;
      decide ((s.core k).vrun = some r) && decide (r.ended = true)) = true ∧
  -- 2.0
  (let s : State := (vst (vw 0x10 4 1 2 0 0 0 0 0 0 0 0)); let k : Nat := 3; let i : Nat := 0; let w : W64 := (vw 0x10 4 1 2 0 0 0 0 0 0 0 0);
      let r : VRun := (vrunOf (vw 0x10 4 1 2 0 0 0 0 0 0 0 0)); decide (s.runsNext k w 0x10 r) &&
      decide (((s.vin k w r).lanes.find? fun j => !((vcmdOf r.cmd).mayRead ((s.vin k w r).unitAddr j) 4)) = some i)) = true ∧
  -- 3.0
  (let s : State := (vst (vw 0x12 4 1 2 0 0 0 0 0 0 0 0)); let k : Nat := 3; let i : Nat := 0; let w : W64 := (vw 0x12 4 1 2 0 0 0 0 0 0 0 0);
      let r : VRun := (vrunOf (vw 0x12 4 1 2 0 0 0 0 0 0 0 0)); decide (s.runsNext k w 0x12 r) &&
      decide (((s.vin k w r).lanes.find? fun j => !((vcmdOf r.cmd).mayRead ((s.vin k w r).strideAddr j) 4)) = some i)) = true ∧
  -- 4.0
  (let s : State := (vst (vw 0x11 4 1 2 0 0 0 0 0 0 0 0)); let k : Nat := 3; let i : Nat := 0; let w : W64 := (vw 0x11 4 1 2 0 0 0 0 0 0 0 0);
      let r : VRun := (vrunOf (vw 0x11 4 1 2 0 0 0 0 0 0 0 0)); decide (s.runsNext k w 0x11 r) &&
      decide (((s.vin k w r).lanes.find? fun j => !((vcmdOf r.cmd).mayWrite ((s.vin k w r).unitAddr j) 4)) = some i)) = true ∧
  -- 5.0
  (let s : State := (vst (vw 0x13 4 1 2 0 0 0 0 0 0 0 0)); let k : Nat := 3; let i : Nat := 0; let w : W64 := (vw 0x13 4 1 2 0 0 0 0 0 0 0 0);
      let r : VRun := (vrunOf (vw 0x13 4 1 2 0 0 0 0 0 0 0 0)); decide (s.runsNext k w 0x13 r) &&
      decide (((s.vin k w r).lanes.find? fun j => !((vcmdOf r.cmd).mayWrite ((s.vin k w r).strideAddr j) 4)) = some i)) = true ∧
  -- 6.0
  (let s : State := (vst (vw 6 4 1 2 0 0 0 0 0 0 0 0)); let k : Nat := 3; let w : W64 := (vw 6 4 1 2 0 0 0 0 0 0 0 0);
      let r : VRun := (vrunOf (vw 6 4 1 2 0 0 0 0 0 0 0 0)); decide (s.runsNext k w 0x06 r) &&
      decide ((vcmdOf r.cmd).mayRead (s.vin k w r).scalarAddr 8 = false)) = true ∧
  -- 7.0
  (let s : State := (vst (vw 7 4 1 2 0 0 0 0 0 0 0 0)); let k : Nat := 3; let w : W64 := (vw 7 4 1 2 0 0 0 0 0 0 0 0);
      let r : VRun := (vrunOf (vw 7 4 1 2 0 0 0 0 0 0 0 0)); decide (s.runsNext k w 0x07 r) &&
      decide ((vcmdOf r.cmd).mayWrite (s.vin k w r).scalarAddr 8 = false)) = true :=
  by
  and_intros <;> decide +kernel

/-- The hypotheses of TransfersMoveRowsWordForWord can be met. -/
theorem witness_TransfersMoveRowsWordForWord :
  -- 0.0
  (let s : State := (xSt2 0 2); let k : Nat := 3; let cmd : Cmd := (xCmd2 0 2); let d : Work := (wk (xCmd2 0 2) (some 2) 3);
      decide (cmd.op = 0x19) && decide ((xcmdOf cmd).bad = false) && decide (s.laneTakes k cmd = some d) &&
      decide (s.fencedUnit (.core k) = false) && decide (spanOk (xcmdOf cmd).tierSpan.1 (xcmdOf cmd).tierSpan.2 = true) &&
      decide ((xcmdOf cmd).csSpan.beyond = false) && decide (∃ y, d.ctx = some y ∧ (xcmdOf cmd).inWindow (s.ctx y) = true) &&
      decide (s.mem.space.syn = []) && decide ((s.core k).store.syn = []) && decide (s.mem.injArm = false)) = true ∧
  -- 1.0
  (let s : State := (WK (gCmd 6) 3 gSt); let k : Nat := 3; let cmd : Cmd := (gCmd 6); let d : Work := (wk (gCmd 6)); decide (cmd.op = 0x1C) &&
      decide ((gcmdOf cmd).bad = false) && decide (s.laneTakes k cmd = some d) && decide (s.fencedUnit (.core k) = false) &&
      decide ((gcmdOf cmd).srcSpan.beyond = false) && decide ((gcmdOf cmd).dstSpan.beyond = false) && decide ((s.core k).store.syn = []) &&
      decide (s.mem.injArm = false)) = true ∧
  -- 1.1
  (let s : State := (WK (gCmd 6) 3 gSt); let k : Nat := 3; let cmd : Cmd := (gCmd 6); let d : Work := (wk (gCmd 6)); decide (cmd.op = 0x1C) &&
      decide ((gcmdOf cmd).bad = false) && decide (s.laneTakes k cmd = some d) && decide (s.fencedUnit (.core k) = false) &&
      decide ((gcmdOf cmd).srcSpan.beyond = false) && decide ((gcmdOf cmd).dstSpan.beyond = false) && decide ((s.core k).store.syn = []) &&
      decide (s.mem.injArm = false) && (([0, 1, 2, 3, 5, 7, 8, 9, 16, 17, 40, 63] : List Nat).any fun j => decide (j ≠ k))) = true ∧
  -- 2.0
  (let s : State := (xrun 0x19 0); let k : Nat := 3; let x : XRun := (xrunOf 0x19 0); let op : Nat := 0x19;
      let c : Nat → Instr := Instr.xferComplete; true && decide ((s.core k).xfer = some x) && decide (Cmd.op x.cmd = op)) = true ∧
  -- 3.0
  (let s : State := (WK (xCmd 0 2 |>.set 1 0xFFFFFFFFF8#64)); let k : Nat := 3; let cmd : Cmd := (xCmd 0 2 |>.set 1 0xFFFFFFFFF8#64);
      let d : Work := (wk (xCmd 0 2 |>.set 1 0xFFFFFFFFF8#64)); decide (s.laneTakes k cmd = some d) && decide (s.fencedUnit (.core k) = false) &&
      decide (cmd.op = 0x19) && decide ((xcmdOf cmd).bad = false) && decide (spanOk (xcmdOf cmd).tierSpan.1 (xcmdOf cmd).tierSpan.2 = false)) = true ∧
  -- 3.1
  (let s : State := (WK gBad 3 (up.setCtx 2 ctx0) (some 2) 3); let k : Nat := 3; let cmd : Cmd := gBad; let d : Work := (wk gBad (some 2) 3);
      decide (s.laneTakes k cmd = some d) && decide (s.fencedUnit (.core k) = false) && decide (cmd.op = 0x1C) &&
      decide ((gcmdOf cmd).bad = false) && decide ((gcmdOf cmd).srcSpan.beyond = true ∨ (gcmdOf cmd).dstSpan.beyond = true)) = true :=
  by
  and_intros <;> decide +kernel

/-- The hypotheses of SingleBitErrorsCorrectedDoubleFound can be met. -/
theorem witness_SingleBitErrorsCorrectedDoubleFound :
  -- 1.0
  (let i := 63; decide (i < 64)) = true ∧
  -- 1.1
  (let i := 63; decide (i < 64)) = true ∧
  -- 2.0
  (let j := 7; decide (j < 8)) = true ∧
  -- 2.1
  (let j := 7; decide (j < 8)) = true ∧
  -- 3.0
  (let y : Byte := 3#8; decide (y ≠ 0#8) && decide (popN 8 y.toNat % 2 = 0)) = true ∧
  -- 4.0
  (let y : Byte := 0xFE#8; decide (popN 8 y.toNat % 2 = 1) && decide (popN 8 y.toNat ≠ 1) &&
      ((List.range (64)).all fun i => decide (BitVec.ofNat 8 (hcol i) ≠ y))) = true ∧
  -- 5.0
  (let m : Mem := ({} : Mem); let wa : Nat := 0; let bit : Nat := 71; decide (bit < 72) && decide (m.syndrome wa = 0#8)) = true :=
  by
  and_intros <;> decide +kernel

/-- The hypotheses of PatrolCorrectsOneTurnedBit can be met. -/
theorem witness_PatrolCorrectsOneTurnedBit :
  -- 0.0
  (let s : State := xSt; let tier : Nat := 0; decide (tier < 2) && decide (s.mem.space.syn = [])) = true ∧
  -- 1.0
  (let s : State := xSt; decide ((s.core (s.mem.patrol.get 0 2 / coreWords)).store.syn = [])) = true ∧
  -- 2.0
  (let s : State := xSt; let tier : Nat := 0; let bit : Nat := 5; decide (tier < 2) && decide (bit < 72) && decide (s.mem.space.syn = [])) = true :=
  by
  and_intros <;> decide +kernel

/-- The hypotheses of MemoryMaintenanceCommands can be met. -/
theorem witness_MemoryMaintenanceCommands :
  -- 0.0
  (let s : State := up; let v : W64 := 0x12343481#64; decide (s.dark = false) && ((List.range (8)).all fun x => decide ((s.ctx x).state = .free)) &&
      decide (fld v 14 8 < 72) && decide (bitAt v 23 = true → fld v 22 16 < 72)) = true ∧
  -- 1.0
  (let s : State := up; let k : Nat := 3; let h : Half := Half.full; let v : W64 := 0x12343481#64; decide (k < 512) && decide (s.dark = false) &&
      decide (h ≠ .high) && decide (bitAt v 0 = true → s.coreCtx k = none)) = true ∧
  -- 2.0
  (let s : State := ceSt; let place : Nat := 4; let row : Nat := 17; let r : RowCe := ceRow; decide (r ∈ s.mem.rowCes) && decide (r.place = place) &&
      decide (r.row = row) && decide (3 ≤ (r.steeps.filter fun n => s.now < n + s.hourSteeps).length) && decide (s.mem.repair.contains (place,
      row) = false) && decide ((s.mem.repair.filter fun e => e.1 == place).length < 64)) = true ∧
  -- 3.0
  (let s : State := stW1; let part : Nat := 4; decide (part < 24) && let g := s.mem.trainings.get {} part; decide (g.ready = false) &&
      decide (g.phase ≠ 0) && decide (g.tries < 3)) = true ∧
  -- 3.1
  (let s : State := stW1; let part : Nat := 4; decide (part < 24) && let g := s.mem.trainings.get {} part; decide (g.ready = false) &&
      decide (g.phase ≠ 0) && decide (g.tries < 3) && decide (g.tries < 2)) = true ∧
  -- 3.2
  (let s : State := { up with mem := { up.mem with trainings := [(4, { phase := 2, tries := 2, ready := false })] } }; let part : Nat := 4;
      decide (part < 24) && let g := s.mem.trainings.get {} part; decide (g.ready = false) && decide (g.phase ≠ 0) && decide (g.tries < 3) &&
      decide (g.tries = 2)) = true ∧
  -- 4.0
  (let stack : Nat := 4; let package : Nat := 7; decide (stack < 16) && decide (package < 8)) = true :=
  by
  and_intros <;> decide +kernel

/-- The hypotheses of RegisterAccessesReachTheirRegister can be met. -/
theorem witness_RegisterAccessesReachTheirRegister :
  -- 0.0
  (let s : State := up; let a : Access := { fn := 0, off := 0x44, width := 64, value := 5#64 }; decide (besideRegs a = false) &&
      decide (s.serves a.fn = true) && decide (((accessHalf a).bind fun _ => reaches a.fn (a.off / 8 * 8)) = none)) = true ∧
  -- 1.0
  (let s : State := up; let a : Access := opW2; let h : Half := .full; decide (besideRegs a = false) && decide (s.serves a.fn = true) &&
      decide (accessHalf a = some h) && (match reaches a.fn (a.off / 8 * 8) with | some r => true | _ => false)) = true ∧
  -- 1.1
  (let s : State := up; let a : Access := { fn := 0, off := 0x44, width := 32, value := 0x20#64 }; let h : Half := .high;
      decide (besideRegs a = false) && decide (s.serves a.fn = true) && decide (accessHalf a = some h) &&
      (match reaches a.fn (a.off / 8 * 8) with | some r => decide (r ≠ .steepPhase) && decide (r ≠ .steepCount) && decide (h ≠ .full) | _ => false)) = true ∧
  -- 1.2
  (let s : State := up; let a : Access := opW2; let h : Half := .full; decide (besideRegs a = false) && decide (s.serves a.fn = true) &&
      decide (accessHalf a = some h) &&
      (match reaches a.fn (a.off / 8 * 8) with | some r => decide (r ≠ .steepPhase) && decide (r ≠ .steepCount) && decide (h = .full) | _ => false)) = true ∧
  -- 2.0
  ((([Reg.moduleStatus, .steepCount, .steepPhase, .deadlineStatus]).any fun r => decide (r ∈ [Reg.moduleStatus, .steepCount, .steepPhase,
      .deadlineStatus]))) = true ∧
  -- 3.0
  (let s : State := up; let a : Access := { fn := 0, off := 98304 + 8, width := 64, value := 0x20#64 }; let h : Half := .full; let mb : Nat := 0;
      let i : Nat := 1; decide (besideRegs a = false) && decide (s.serves a.fn = true) && decide (accessHalf a = some h) &&
      decide (reaches a.fn (a.off / 8 * 8) = some (.mbReqData mb i)) && decide (mb < 32) && decide (s.owner mb = a.fn)) = true ∧
  -- 4.0
  (let s : State := (H fun h => { h with msixPending := [4, 5], msixEnabled := [0], msixTable := [(8, 7#64)] }); let fn : Nat := 0; let i : Nat := 4;
      let w : W64 := 0x9#64; decide (s.serves fn = true) && decide (i < vectorsOf fn) && decide (bitAt w 32 = false) &&
      decide (firstVector fn + i ∈ s.host.msixPending) && decide (fn ∈ s.host.msixEnabled) && decide (fn ∉ s.host.fnMasked)) = true :=
  by
  and_intros <;> decide +kernel

/-- The hypotheses of SteepPeriodIsTakenOrIgnored can be met. -/
theorem witness_SteepPeriodIsTakenOrIgnored :
  -- 3.0
  (let s : State := up; let h : Half := .low; let v : W64 := 32#64; decide (s.dark = false) && decide (h ≠ .high) && decide (1 ≤ fld v 5 0) &&
      decide (fld v 5 0 ≤ 32)) = true ∧
  -- 3.1
  (let s : State := up; let h : Half := .full; let v : W64 := 0#64; decide (s.dark = false) && decide (h ≠ .high) &&
      decide (fld v 5 0 = 0 ∨ 32 < fld v 5 0)) = true :=
  by
  and_intros <;> decide +kernel

/-- The hypotheses of PeriodSwitchesAtItsCount can be met. -/
theorem witness_PeriodSwitchesAtItsCount :
  -- 0.0
  (let s : State := up; decide (s.steep.count + 1 < 2 ^ 64) && decide (s.steep.atCount < 2 ^ 64)) = true ∧
  -- 0.1
  (let s : State := { up with steep := { up.steep with count := 9, atCount := 10 } }; decide (s.steep.count + 1 < 2 ^ 64) &&
      decide (s.steep.atCount < 2 ^ 64) && decide (s.steep.atCount ≤ s.steep.count + 1)) = true ∧
  -- 0.2
  (let s : State := up; decide (s.steep.count + 1 < 2 ^ 64) && decide (s.steep.atCount < 2 ^ 64) &&
      decide (s.steep.count + 1 < s.steep.atCount)) = true ∧
  -- 1.0
  (let s : State := stW3; let h : Half := .full; let v : W64 := 10#64; decide (s.dark = false) &&
      let at_ := (mergeHalf h (BitVec.ofNat 64 s.steep.atCount) v).toNat; decide (s.steep.count < at_)) = true ∧
  -- 1.1
  (let s : State := stW3; let h : Half := .full; let v : W64 := 9#64; decide (s.dark = false) &&
      let at_ := (mergeHalf h (BitVec.ofNat 64 s.steep.atCount) v).toNat; decide (at_ ≤ s.steep.count)) = true :=
  by
  and_intros <;> decide +kernel

/-- The hypotheses of PhaseReadLatchesTheCount can be met. -/
theorem witness_PhaseReadLatchesTheCount :
  -- 0.0
  (let s : State := up; decide (s.dark = false)) = true ∧
  -- 1.0
  (let s : State := up; let h : Half := .low; decide (s.dark = false) && decide (h ≠ .full)) = true ∧
  -- 2.0
  (let s : State := { up with steep := { up.steep with latch := some (7, 0) } }; let c : Nat := 7; let age : Nat := 0; decide (s.dark = false) &&
      decide (s.steep.latch = some (c, age))) = true ∧
  -- 3.0
  (let s : State := up; decide (s.dark = false) && decide (s.steep.latch = none)) = true ∧
  -- 5.0
  (let s : State := { up with steep := { up.steep with latch := some (7, 2) } }; let c : Nat := 7; let age : Nat := 2;
      decide (s.steep.latch = some (c, age)) && decide (2 ≤ age)) = true :=
  by
  and_intros <;> decide +kernel

/-- The hypotheses of TimingWordsSteerAndTimeConditions can be met. -/
theorem witness_TimingWordsSteerAndTimeConditions :
  -- 0.0
  (let s : State := (up.setLink 5 { up.link 5 with state := .trained }); let link : Nat := 5; decide (link < 48) && decide (s.dark = false) &&
      decide ((s.link link).state = .trained)) = true ∧
  -- 1.0
  (let s : State := { up with steep := { up.steep with lostStands := true, within2us := 4 } }; decide (s.steep.lostStands = true) &&
      decide (4 ≤ s.steep.within2us)) = true ∧
  -- 2.0
  (let s : State := (cnt 16); decide (s.steep.holdover = false) && decide (s.steep.lastTiming + 16 ≤ s.steep.count)) = true :=
  by
  and_intros <;> decide +kernel

/-- The hypotheses of BoundaryActsInItsOrder can be met. -/
theorem witness_BoundaryActsInItsOrder :
  -- 0.0
  (let s : State := up; decide (s.dark = false)) = true ∧
  -- 1.0
  (let s : State := stW4; decide (s.dark = true)) = true ∧
  -- 2.0
  (let s : State := up; decide (s.steep.boundaryLate = false)) = true :=
  by
  and_intros <;> decide +kernel

/-- The hypotheses of BalancedAuditFindsNothing can be met. -/
theorem witness_BalancedAuditFindsNothing :
  -- 0.0
  (let s : State := stW5;
      (match s.steep.snap with | some n => decide (n.creditDiffs = []) && (match s.steep.snapBefore with | some b => decide (s.crossDiffs b = []) | _ => true) && ((List.range (2)).all fun p => decide ((n.cells.getD p {}).free + (n.cells.getD p {}).queued + (n.cells.getD p {}).opened + (n.cells.getD p {}).held = 262144)) && ((n.tokens).all fun t => decide (t.2.1 = t.2.2.1 + t.2.2.2)) && ((n.mailboxes).all fun m => decide (m.2.1 + m.2.2.1 + m.2.2.2 = 16)) && decide (n.charged.sum + n.idle = n.metered) && ((n.far).all fun f => decide (f.2.1 + f.2.2 = 1519104)) | _ => false)) = true ∧
  -- 1.0
  (let s : State := stW5; (match s.steep.snap with | some n => decide (s.steep.auditLate = false) | _ => false)) = true :=
  by
  and_intros <;> decide +kernel

/-- The hypotheses of LateWorkRaisesItsDeadlineRecords can be met. -/
theorem witness_LateWorkRaisesItsDeadlineRecords :
  -- 0.0
  (let s : State := (slotSt [{ strm with running := some 19 }]); let x : Nat := 2; let slot : Nat := 3; let n : Nat := 19;
      (match ((s.ctx x).slot slot).streams with | t :: ts => decide (t.running = some n) && decide (s.steep.sliceCe < 2 ^ 16) && decide (s.steep.sliceUc < 2 ^ 16) && decide (t.overruns = 0) && decide (n + 1 ≤ s.steep.count) | _ => false)) = true ∧
  -- 0.1
  (let s : State := (slotSt [{ strm with running := some 18, overruns := 1 }]); let x : Nat := 2; let slot : Nat := 3; let n : Nat := 18;
      (match ((s.ctx x).slot slot).streams with | t :: ts => decide (t.running = some n) && decide (s.steep.sliceCe < 2 ^ 16) && decide (s.steep.sliceUc < 2 ^ 16) && decide (t.overruns = 1) && decide (n + 2 ≤ s.steep.count) | _ => false)) = true ∧
  -- 1.0
  (let s : State := ({ (xrun 0x19 0) with steep := { up.steep with count := 1 } }); let w : XferRef := .core 3;
      (match s.lateOf w with | some l => decide (l.raised = 0) && decide (l.started + 1 ≤ s.steep.count) | _ => false)) = true ∧
  -- 1.1
  (let s : State := ({ (xrun 0x19 1).updCore 3 (fun c => { c with xfer := c.xfer.map fun x => { x with ctx := some 2 } }) with steep := { up.steep with count := 2 } }); let w : XferRef := .core 3; (match s.lateOf w with | some l => decide (l.raised = 1) && decide (l.started + 2 ≤ s.steep.count) && (match l.ctx with | some x => (match w with | .load _ _ => false | _ => true) | _ => false) | _ => false)) = true ∧
  -- 1.2
  (let s : State := ({ (cnt 20) with loads := [({ ctx := 2, slot := 3, model := 1, layer := 0, loadId := 77, stage := none, nonce := 0, chain := 0, started := 3, streamId := 5, recorded := 1, shards := [] } : Load)] } : State); let w : XferRef := (.load 2 77); let l : Late := ((({ (cnt 20) with loads := [({ ctx := 2, slot := 3, model := 1, layer := 0, loadId := 77, stage := none, nonce := 0, chain := 0, started := 3, streamId := 5, recorded := 1, shards := [] } : Load)] } : State).lateOf (.load 2 77)).getD { unit := .module, ctx := none, opcode := 0, opRef := 0, started := 0, tick := 0, raised := 0 }); decide (s.lateOf w = some l) && let y := 2; let id := 77; decide (l.raised = 1) && decide (l.started + 2 ≤ s.steep.count) && decide (w = .load y id)) = true ∧
  -- 2.0
  (let s : State := ({ pourSt with steep := { up.steep with count := 2 } }); let k : Nat := 3;
      (match (s.core k).pour with | some p => decide (p.last = true) && decide (p.late = false) && decide (p.lastMac < s.steep.count) | _ => false)) = true ∧
  -- 3.0
  (let s : State := ((cnt 20).updCaddy 1 fun c => { c with jobs := [({ cjob (updCmd 0x40 0 0 0 1 4) 0 with started := 2 } : CaddyJob)] });
      let c : Nat := 1; let j : CaddyJob := ({ cjob (updCmd 0x40 0 0 0 1 4) 0 with started := 2 } : CaddyJob);
      decide (((s.caddy c).jobs.find? fun j => !j.late && j.started < s.steep.count) = some j)) = true :=
  by
  and_intros <;> decide +kernel

/-- The hypotheses of DrainEscalatesAfterTwoSteeps can be met. -/
theorem witness_DrainEscalatesAfterTwoSteeps :
  -- 0.0
  (let s : State := { (up.setUnit (.die 0) { fence := some .drain, fencedAt := 7 }) with steep := { up.steep with count := 9 } };
      let u : UnitId := (.die 0); decide ((s.unit u).fence = some .drain) && decide ((s.unit u).complete = false) &&
      decide ((s.unit u).fencedAt + 2 ≤ s.steep.count)) = true :=
  by decide +kernel

/-- The hypotheses of FencesCompleteWhenNothingIsLeft can be met. -/
theorem witness_FencesCompleteWhenNothingIsLeft :
  -- 0.0
  (let s : State := (up.setUnit (.core 3) { fence := some .drain }); let u : UnitId := (.core 3); decide ((s.unit u).fence = some .drain) &&
      decide ((s.unit u).complete = false) && decide (s.outstanding u = []) && decide ((s.unit u).disableBy = none)) = true ∧
  -- 0.1
  (let s : State := (up.setUnit (.core 3) { fence := some .drain, shutdown := true, disableBy := some ⟨0, 5, 6⟩ }); let u : UnitId := (.core 3);
      decide ((s.unit u).fence = some .drain) && decide ((s.unit u).complete = false) && decide (s.outstanding u = []) &&
      (match (s.unit u).disableBy with | some by_ => true | _ => false)) = true ∧
  -- 1.0
  (let s : State := (up.setUnit (.core 3) { fence := some .err }); let u : UnitId := (.core 3); (match u with | .ctx _ => false | _ => true) &&
      decide ((s.unit u).fence = some .err) && decide ((s.unit u).complete = false) &&
      ((s.faults.rungs).all fun r => decide (covers r.unit u = false)) && decide ((s.unit u).disableBy = none)) = true ∧
  -- 1.1
  (let s : State := (up.setUnit (.link 3) { fence := some .err, disableBy := some ⟨0, 5, 6⟩ }); let u : UnitId := (.link 3);
      (match u with | .ctx _ => false | _ => true) && decide ((s.unit u).fence = some .err) && decide ((s.unit u).complete = false) &&
      ((s.faults.rungs).all fun r => decide (covers r.unit u = false)) && (match (s.unit u).disableBy with | some by_ => true | _ => false)) = true ∧
  -- 2.0
  (let s : State := (up.setCtx 2 { state := .fenced, terminating := true }); let x : Nat := 2; decide ((s.ctx x).state = .fenced)) = true ∧
  -- 3.0
  (let s : State := ((cnt 1).setUnit (.die 3) { fence := some .err }); let u : UnitId := (.die 3); decide ((s.unit u).fence = some .err) &&
      decide ((s.unit u).complete = false) && decide ((s.unit u).fencedAt < s.steep.count) &&
      ((List.range (8)).all fun x => decide ((s.ctx x).state ≠ .fenced))) = true :=
  by
  and_intros <;> decide +kernel

/-- The hypotheses of KettleAnswersUnitCommands can be met. -/
theorem witness_KettleAnswersUnitCommands :
  -- 0.0
  (let s : State := (K up .module 2 []); let r : Req := (reqU 0 .module []); let u : UnitId := .module;
      decide (s.asked r 0x0002 false anyClass u = true) && decide (reqArgs r 0x0002 = [])) = true ∧
  -- 1.0
  (let s : State := (K up .module 3 [1#64]); let r : Req := (reqU 0 .module [1#64]); let u : UnitId := .module; let err : Bool := true;
      decide (s.asked r 0x0003 false anyClass u = true) && decide (reqArgs r 0x0003 = [if err then 1#64 else 0#64]) &&
      decide (s.ustate u = .active ∨ s.ustate u = .above)) = true ∧
  -- 2.0
  (let s : State := (K (up.setUnit (.region 5) { fence := some .drain, complete := true }) (.region 5) 4 []); let r : Req := (reqU 0 (.region 5) []);
      let u : UnitId := (.region 5); decide (s.asked r 0x0004 true anyClass u = true) && decide (reqArgs r 0x0004 = []) &&
      (match u with | .ctx _ => false | _ => true) && decide ((s.unit u).shutdown = false) && decide ((s.unit u).pendingEnable = none) &&
      decide (s.ustate u = .fenced) && decide ((s.unit u).accepted = none)) = true ∧
  -- 2.1
  (let s : State := (K (up.setUnit .module { fence := some .drain }) .module 4 []); let r : Req := (reqU 0 .module []); let u : UnitId := .module;
      decide (s.asked r 0x0004 true anyClass u = true) && decide (reqArgs r 0x0004 = []) && (match u with | .ctx _ => false | _ => true) &&
      decide ((s.unit u).shutdown = false) && decide ((s.unit u).pendingEnable = none) &&
      decide (s.ustate u = .draining ∨ s.ustate u = .resetting)) = true ∧
  -- 3.0
  (let s : State := (K (up.setUnit (.region 5) { fence := some .drain, complete := true }) (.region 5) 5 []); let r : Req := (reqU 0 (.region 5) []);
      let u : UnitId := (.region 5); decide (s.asked r 0x0005 true enableClass u = true) && decide (reqArgs r 0x0005 = []) &&
      (match u with | .ctx _ => false | _ => true) && decide ((s.unit u).pendingEnable = none) && decide (s.ustate u = .fenced) &&
      decide ((s.unit u).accepted = none)) = true ∧
  -- 3.1
  (let s : State := (K (up.setUnit .module { fence := some .drain }) .module 5 []); let r : Req := (reqU 0 .module []); let u : UnitId := .module;
      decide (s.asked r 0x0005 true enableClass u = true) && decide (reqArgs r 0x0005 = []) && (match u with | .ctx _ => false | _ => true) &&
      decide ((s.unit u).pendingEnable = none) && decide (s.ustate u = .draining ∨ s.ustate u = .resetting)) = true ∧
  -- 4.0
  (let s : State := (K up .module 6 []); let r : Req := (reqU 0 .module []); let u : UnitId := .module;
      decide (s.asked r 0x0006 true enableClass u = true) && decide (reqArgs r 0x0006 = []) && (match u with | .ctx _ => false | _ => true) &&
      decide (s.ustate u = .active)) = true ∧
  -- 5.0
  (let s : State := (K (ctxS 2 { state := .stopped }) (.ctx 2) 5 []); let r : Req := (reqU 0 (.ctx 2) []); let x : Nat := 2;
      decide (s.asked r 0x0005 true enableClass (.ctx x) = true) && decide (reqArgs r 0x0005 = []) && decide ((s.ctx x).state = .stopped) &&
      decide ((s.ctx x).due = none) && decide (s.members.votedOut = false)) = true ∧
  -- 6.0
  (let s : State := (K (ctxS 2 { state := .active }) (.ctx 2) 6 []); let r : Req := (reqU 0 (.ctx 2) []); let x : Nat := 2;
      decide (s.asked r 0x0006 true enableClass (.ctx x) = true) && decide (reqArgs r 0x0006 = []) && decide ((s.ctx x).state = .active)) = true :=
  by
  and_intros <;> decide +kernel

/-- The hypotheses of InputPowerAndClockEvents can be met. -/
theorem witness_InputPowerAndClockEvents :
  -- 0.0
  (let s : State := { ({ up with power := { up.power with off := true } }) with host := { up.host with resetHeld := true } };
      decide (s.power.off = true) && decide (s.host.resetHeld = true)) = true ∧
  -- 0.1
  (let s : State := up; decide (s.power.off = false ∨ s.host.resetHeld = false)) = true ∧
  -- 0.2
  (let s : State := { up with power := { up.power with sag := true } }; decide (s.power.sag = true)) = true ∧
  -- 0.3
  (let s : State := up; decide (s.power.sag = false)) = true ∧
  -- 0.4
  (let s : State := up; decide (s.power.off = false) && (match s.power.lastHigh with | some t => decide (t + 60 ≤ s.seconds) | _ => true)) = true ∧
  -- 0.5
  (let s : State := { up with power := { up.power with lastHigh := some 0 } }; let t := 0; decide (s.power.lastHigh = some t) &&
      decide (s.seconds < t + 60)) = true ∧
  -- 0.6
  (let s : State := up; decide (s.power.off = false)) = true ∧
  -- 0.7
  (let s : State := stW4; decide (s.power.off = true)) = true ∧
  -- 0.8
  (let s : State := { up with power := { up.power with refLost := true } }; decide (s.power.refLost = true) &&
      decide (s.host.resetHeld = false)) = true ∧
  -- 0.9
  (let s : State := { ({ up with power := { up.power with refLost := true } }) with host := { up.host with resetHeld := true } };
      decide (s.power.refLost = true) && decide (s.host.resetHeld = true)) = true ∧
  -- 0.10
  (let s : State := up; decide (s.power.refLost = false)) = true :=
  by
  and_intros <;> decide +kernel

/-- The hypotheses of SamplesMeterEnergyExactly can be met. -/
theorem witness_SamplesMeterEnergyExactly :
  -- 0.0
  (let s : State := up; decide (s.power.off = false)) = true ∧
  -- 1.0
  (let s : State := (P fun p => { p with off := true }); decide (s.power.off = true)) = true :=
  by
  and_intros <;> decide +kernel

/-- The hypotheses of ClocksFollowHeatAndCommands can be met. -/
theorem witness_ClocksFollowHeatAndCommands :
  -- 0.0
  (let s : State := ({ (P fun p => { p with regions := [(4, { thermal := 1, cool := 65, released := 0, eff := 120 })] }) with steep := { up.steep with count := 70 } }); let g : Nat := 4; decide (g < 32) && decide ((s.region g).released < s.steep.count) && decide ((0 < (s.region g).thermal ∧ 64 < (s.region g).cool) ∨ (0 < (s.region g).tempDiff ∧ 64 < (s.region g).calm))) = true ∧
  -- 1.0
  (let s : State := ({ (P fun p => { p with below := 64, regions := [(4, { power := 2 }), (9, { power := 1 })] }) with steep := { up.steep with count := 70 } }); let g : Nat := 4; decide (((List.range 32).find? fun g => decide (0 < (s.region g).power)) = some g) && decide (64 ≤ s.power.below) && decide (s.power.capReleased < s.steep.count)) = true ∧
  -- 2.0
  (let s : State := (Fl fun f => { f with marginG := [(5, { temp := 1680 })] }); let g : Nat := 5; decide (g < 32) &&
      decide ((s.faults.marginG.find g).isSome = true) && decide (1680 ≤ (s.marginG g).temp)) = true ∧
  -- 2.1
  (let s : State := (Fl fun f => { f with marginG := [(0, { temp := 1840 })] }); let g : Nat := 0; decide (g < 32) &&
      decide ((s.faults.marginG.find g).isSome = true) && decide (1840 ≤ (s.marginG g).temp)) = true ∧
  -- 3.0
  (let s : State := (P fun p => { p with inlet := 721 }); decide (720 < s.power.inlet)) = true ∧
  -- 4.0
  (let s : State := (K up .module 0x700 [1#64, 64#64]); let r : Req := (reqU 0 .module [1#64, 64#64]); let mask : W64 := 1#64; let q : W64 := 64#64;
      decide (s.asked r 0x0700 false adminClass .module = true) && decide (reqArgs r 0x0700 = [mask, q]) && decide (mask ≠ 0#64) &&
      decide (mask.toNat < 2 ^ 32) && decide (64 ≤ q.toNat) && decide (q.toNat ≤ 128) && decide (s.power.sets = [])) = true ∧
  -- 5.0
  (let s : State := (K up .module 0x701 [1#64]); let r : Req := (reqU 0 .module [1#64]); let dest : Nat := 1;
      decide (s.asked r 0x0701 false adminClass .module = true) && decide (reqArgs r 0x0701 = [BitVec.ofNat 64 dest]) && decide (dest < 4) &&
      decide (s.power.target = s.power.state) && decide (dest ≠ s.power.state) && decide (s.powerOk dest = true)) = true ∧
  -- 6.0
  (let s : State := (trained { up with power := { up.power with moving := true, target := 0, state := 1, stateBy := some cref } });
      let by_ : CmdRef := cref; decide (s.power.moving = true) && decide (s.power.target = 0) && decide (s.power.state ≠ 0) &&
      decide (s.mem.settled = true) && decide (s.power.stateBy = some by_)) = true :=
  by
  and_intros <;> decide +kernel

/-- The hypotheses of HostFunctionsAndResetSignals can be met. -/
theorem witness_HostFunctionsAndResetSignals :
  -- 0.0
  (let s : State := up; let fn : Nat := 1; decide (1 ≤ fn) && decide (fn ≤ 8) && decide (s.dark = false)) = true ∧
  -- 1.0
  (let s : State := up; decide (s.dark = false)) = true ∧
  -- 1.1
  (let s : State := up; decide (s.dark = false) && (([0, 1, 2, 3, 5, 7, 8, 9, 16, 17, 40, 63] : List Nat).any fun x => decide (x < 8))) = true ∧
  -- 2.0
  (let s : State := up; let speed : Nat := 7; let width : Nat := 16; decide (s.dark = false) && decide (1 ≤ speed) && decide (speed ≤ 7) &&
      decide (width ∈ [1, 2, 4, 8, 16])) = true ∧
  -- 3.0
  (let s : State := (H (fun h => { h with flr := [0, 8] })); (([0, 1, 2, 3, 5, 7, 8, 9, 16, 17, 40,
      63] : List (Nat)).any fun fn => decide (fn ≠ 0 ∨ s.host.linkDown = false))) = true ∧
  -- 5.0
  (let num : Nat := 8; decide (num ≤ 8)) = true ∧
  -- 6.0
  (let ctx : Nat := 7; let fn : Nat := 8; let kind : Nat := 4; decide (ctx < 8) && decide (fn ≤ 8) && decide (1 ≤ kind) && decide (kind ≤ 4)) = true ∧
  -- 7.0
  (let s : State := (H fun h => { h with resetHeld := true }); decide (s.host.resetHeld = true) && decide (s.power.off = false) &&
      decide (s.power.refLost = false)) = true ∧
  -- 7.1
  (let s : State := (H (fun h => { h with resetHeld := true }) (P fun p => { p with off := true })); decide (s.host.resetHeld = true) &&
      decide (s.power.off = true ∨ s.power.refLost = true)) = true ∧
  -- 8.0
  (let a := ownBase; decide (ownBase ≤ a)) = true ∧
  -- 8.1
  ((([0, 1, 2, 3, 5, 7, 8, 9, 16, 17, 40, 63] : List Nat).any fun a => decide (a < ownBase))) = true :=
  by
  and_intros <;> decide +kernel

/-- The hypotheses of ManagementBusAndPulsePerSecond can be met. -/
theorem witness_ManagementBusAndPulsePerSecond :
  -- 0.0
  (let s : State := up; decide (s.dark = false)) = true ∧
  -- 1.0
  (let s : State := ({ (H (fun h => { h with ppsEn := true, ppsAt := some 7 })) with steep := { up.steep with ticks := 200000007 } } : State);
      let t : Nat := 7; decide (s.host.ppsEn = true) && decide (s.host.ppsAt = some t) && decide (t + 200000000 ≤ s.steep.ticks)) = true ∧
  -- 2.0
  (let s : State := up; let addr : Nat := 127; decide (s.dark = false) && decide (addr < 128)) = true ∧
  -- 2.1
  (let s : State := up; let addr : Nat := 127; decide (s.dark = false) && decide (addr < 128) && decide (s.host.i3cAddr = none)) = true ∧
  -- 3.0
  (let s : State := up; let eid : Nat := 255; decide (s.dark = false) && decide (s.trust.stage ≠ 0) && decide (eid < 256)) = true ∧
  -- 4.0
  (let s : State := (H (fun h => { h with pldmReady := true })); decide (s.dark = false) && decide (s.host.pldmReady = true) && (([0, 1, 2, 3, 5, 7,
      8, 9, 16, 17, 40, 63] : List Nat).any fun id => (([0, 1, 2, 3, 5, 7, 8, 9, 16, 17, 40,
      63] : List Nat).any fun v => decide (s.sensor id = some v)))) = true ∧
  -- 4.1
  (let s : State := (H (fun h => { h with pldmReady := true })); decide (s.dark = false) && decide (s.host.pldmReady = true)) = true :=
  by
  and_intros <;> decide +kernel

/-- The hypotheses of ErrorRecordCommandsReadClearAndAge can be met. -/
theorem witness_ErrorRecordCommandsReadClearAndAge :
  -- 0.0
  (let s : State := (K up .module 0x400 [0#64]); let r : Req := (reqU 0 .module [0#64]); let u : UnitId := .module; let a : W64 := 0#64;
      decide (s.asked r 0x0400 false anyClass u = true) && decide (reqArgs r 0x0400 = [a]) && decide (a.toNat < 2 ^ 32)) = true ∧
  -- 1.0
  (let s : State := (K (Fl fun f => { f with records := [rec1 1 .ce, rec1 2 .uc, rec1 4 .fa, rec1 5 .uc] }) .module 0x401 [2#64]);
      let r : Req := (reqU 0 .module [2#64]); let u : UnitId := .module; let a : W64 := 2#64; decide (s.asked r 0x0401 false anyClass u = true) &&
      decide (reqArgs r 0x0401 = [a]) && decide (a.toNat < 2 ^ 33) &&
      let hit (m : RecMeta) : Bool := m.cls == .uc && m.clearedAt.isNone && (hopsOf u).isPrefixOf m.path && s.mayRead r.mb m && (if bitAt a 32 then decide (m.seq ≤ fld a 31 0) else m.seq == fld a 31 0); ((s.faults.records).any fun m => decide (hit m = true))) = true ∧
  -- 2.0
  (let s : State := (K (Fl fun f => { f with crashLog := [none, some ⟨7#64, [8#64,9#64]⟩] }) .module 0x402 [1#64]);
      let r : Req := (reqU 0 .module [1#64]); let i : Nat := 1; decide (s.asked r 0x0402 false adminClass .module = true) &&
      decide (reqArgs r 0x0402 = [BitVec.ofNat 64 i]) && decide (i ≤ 32) &&
      (match s.faults.crashLog[i]? with | some (some e) => true | _ => false)) = true ∧
  -- 3.0
  (let s : State := (K up .module 0x403 [0x01020304050607#64]); let r : Req := (reqU 0 .module [0x01020304050607#64]);
      let a : W64 := 0x01020304050607#64; decide (s.asked r 0x0403 false adminClass .module = true) && decide (reqArgs r 0x0403 = [a]) &&
      decide (a.toNat < 2 ^ 56) && ((List.range (7)).all fun i => decide (fld a (8 * i + 7) (8 * i) ≠ 0))) = true ∧
  -- 4.0
  (let s : State := ((Fl fun f => { f with lostPending := 5 }).updQueue 0 0x180 fun q => { q with enabled := true, guarantee := 64, quota := 64 });
      decide (s.faults.lostPending ≠ 0) && decide ((s.pool 0).mayTake 0x180 1 = true)) = true :=
  by
  and_intros <;> decide +kernel

/-- The hypotheses of ResetLadderAndWatchdogs can be met. -/
theorem witness_ResetLadderAndWatchdogs :
  -- 0.0
  (let s : State := (K up (.die 3) 7 []); let r : Req := (reqU 0 (.die 3) []); let u : UnitId := (.die 3);
      decide (s.asked r 0x0007 false anyClass u = true) && decide (reqArgs r 0x0007 = []) && decide (rungOf u ≠ 6)) = true ∧
  -- 0.1
  (let s : State := (K up .module 7 []); let r : Req := (reqU 0 .module []); let u : UnitId := .module;
      decide (s.asked r 0x0007 false anyClass u = true) && decide (reqArgs r 0x0007 = []) && decide (rungOf u = 6)) = true ∧
  -- 1.0
  (let s : State := (K up .module 0x404 []); let r : Req := (reqU 0 .module []); decide (s.asked r 0x0404 false adminClass .module = true) &&
      decide (reqArgs r 0x0404 = [])) = true ∧
  -- 2.0
  (let s : State := (ctxS 2 { state := .active }); decide ((s.unit .module).fence ≠ some .err)) = true ∧
  -- 3.0
  (let s : State := ((Fl (fun f => { f with rungs := [{ unit := .core 3, code := 1, engine := 2, started := 0, ctx := some 2 }] }) (ctxS 2 { state := .active })).setUnit (.core 3) { fence := some .err }); let u : UnitId := (.core 3); let engine : Nat := 2; let r : Rung := { unit := .core 3, code := 1, engine := 2, started := 0, ctx := some 2 }; decide ((s.faults.rungs.find? fun r => r.unit == u && r.engine == engine) = some r) && (match r.ctx with | some x => true | _ => false)) = true ∧
  -- 3.1
  (let s : State := stW6; let u : UnitId := (.core 3); let engine : Nat := 0; let r : Rung := { unit := .core 3, code := 2, started := 0 };
      decide ((s.faults.rungs.find? fun r => r.unit == u && r.engine == engine) = some r) && decide (r.ctx = none)) = true ∧
  -- 3.2
  (let s : State := stW6; let u : UnitId := (.core 3); let engine : Nat := 0; let r : Rung := { unit := .core 3, code := 2, started := 0 };
      decide ((s.faults.rungs.find? fun r => r.unit == u && r.engine == engine) = some r) && decide (r.code ≠ 0)) = true ∧
  -- 3.3
  (let s : State := ((Fl fun f => { f with rungs := [{ unit := .link 3, code := 0, started := 0, requester := some ⟨0,1,7⟩, joined := [⟨1,2,9⟩] }] }).setUnit (.link 3) { fence := some .err }); let u : UnitId := (.link 3); let engine : Nat := 0; let r : Rung := { unit := .link 3, code := 0, started := 0, requester := some ⟨0,1,7⟩, joined := [⟨1,2,9⟩] }; decide ((s.faults.rungs.find? fun r => r.unit == u && r.engine == engine) = some r) && decide (r.code = 0)) = true ∧
  -- 4.0
  (let s : State := ({ (mtState (some { mtTile 0x10 0 1 true with ctx := some 2 }) .live none) with steep := { up.steep with count := 2 }, faults := { up.faults with watch := [⟨.core 3, 1, [4], 2⟩, ⟨.core 4, 1, [4], 2⟩] } }); let k : Nat := 3; let engine : Nat := 1; let x : Nat := 2; let begun : Nat := 0; let op : Nat := 0x10; let ref : Nat := 77; decide (s.engineWork (.core k) engine = some (some x, begun, op, ref)) && decide (engine ≤ 3) && decide (2 ≤ s.idleSteeps (.core k) engine)) = true ∧
  -- 5.0
  (let s : State := { up with faults := { up.faults with watch := [⟨.iod 0, 9, [4], 2⟩] } }; decide (2 ≤ s.idleSteeps (.iod 0) 9)) = true ∧
  -- 5.1
  (let s : State := up; decide (s.idleSteeps (.iod 0) 9 < 2)) = true ∧
  -- 5.2
  (let s : State := stW7; decide (s.faults.faDue = true)) = true ∧
  -- 5.3
  (let s : State := stW7; decide (s.faults.moduleReset.isSome = true) && decide (s.trust.stage ≠ 0x0F) && decide (s.faults.oosCold = false)) = true :=
  by
  and_intros <;> decide +kernel

/-- The hypotheses of TestBlendsAndMargins can be met. -/
theorem witness_TestBlendsAndMargins :
  -- 0.0
  (let s : State := (K (blendMem [mkWord [(0,32,7),(32,16,2),(48,16,1)], mkWord [(0,32,40),(32,16,5)], mkWord [(0,32,8)], mkWord [(0,8,2),(8,8,1)], 0#64]) .module 0x410 [1#64, 0x10000000040#64, 40#64]); let r : Req := (reqU 0 .module [1#64, 0x10000000040#64, 40#64]); let addr : W64 := 0x10000000040#64; let n : W64 := 40#64; let b : Blend := ((blendOf [mkWord [(0,32,7),(32,16,2),(48,16,1)], mkWord [(0,32,40),(32,16,5)], mkWord [(0,32,8)], mkWord [(0,8,2),(8,8,1)], 0#64] 40).getD {}); decide (s.asked r 0x0410 false adminClass .module = true) && decide (reqArgs r 0x0410 = [1#64, addr, n]) && decide (s.faults.blend.state ≠ 2) && decide (spanOk addr.toNat n.toNat = true) && let ws := s.mem.space.words (addr.toNat / 8) (cdiv n.toNat 8); decide (s.mem.space.syn = []) && decide (blendOf ws n.toNat = some b)) = true ∧
  -- 1.0
  (let s : State := (K (Fl fun f => { f with blend := { state := 1 } }) .module 0x411 []); let r : Req := (reqU 0 .module []);
      decide (s.asked r 0x0411 false adminClass .module = true) && decide (reqArgs r 0x0411 = []) && decide (s.faults.blend.state = 1)) = true ∧
  -- 2.0
  (let s : State := (K (Fl fun f => { f with blend := { state := 2 } }) .module 0x412 []); let r : Req := (reqU 0 .module []);
      decide (s.asked r 0x0412 false adminClass .module = true) && decide (reqArgs r 0x0412 = []) && decide (s.faults.blend.state = 2)) = true ∧
  -- 3.0
  (let s : State := (Fl fun f => { f with blend := { state := 2, items := [{ kind := 4, params := [1#64], repeats := 1, expect_ := 0 }] } });
      let u : UnitId := (.die 3); decide (s.itemOn u true = true)) = true ∧
  -- 4.0
  (let s : State := ({ (ctxS 0 { ctx0 with state := .active, dieMask := 2 }) with steep := { up.steep with count := 6 }, faults := { up.faults with blend := { state := 2, startedAt := 1, steepsMax := 5, items := [{ kind := 1, params := [], repeats := 1, expect_ := 0 }] } } } : State); let u : UnitId := (.core 127); decide (s.itemOn u false = true) && let b := s.faults.blend; decide (b.startedAt + b.steepsMax ≤ s.steep.count)) = true ∧
  -- 5.0
  (let s : State := stW8; let g : Nat := 5; decide (g < 32) && decide ((s.faults.marginG.find g).isSome = true) &&
      decide ((s.marginG g).voltage < 15 ∨ (s.marginG g).timing < 32)) = true ∧
  -- 5.1
  (let s : State := stW8; let g : Nat := 5; decide (g < 32) && decide ((s.faults.marginG.find g).isSome = true) &&
      decide ((s.marginG g).voltage < 5 ∨ (s.marginG g).timing < 8)) = true ∧
  -- 6.0
  (let s : State := (Fl fun f => { f with marginL := [(47, { optical := 14 })] }); let l : Nat := 47;
      decide ((s.faults.marginL.find l).isSome = true) && decide ((s.faults.marginL.get {} l).optical < 15)) = true :=
  by
  and_intros <;> decide +kernel

/-- The hypotheses of ProducersOpenAppendCommitAndEnd can be met. -/
theorem witness_ProducersOpenAppendCommitAndEnd :
  -- 0.0
  (let s : State := (Qs 0 0x20 { enabled := true, quota := 4 }); let pool : Nat := 0; let qid : Nat := 0x20; let port : Nat := 0; let ty : Nat := 7;
      decide (queueOk pool qid = true) && decide (port < 8) && decide (ty < 256) && let p := s.pool pool; let q := p.queue qid;
      decide (q.enabled = true) && decide (q.fence = none) && decide (q.ports.find port = none) && decide (p.mayTake qid 1 = true)) = true ∧
  -- 0.1
  (let s : State := (Qs 0 0x20 { enabled := true, quota := 0 }); let pool : Nat := 0; let qid : Nat := 0x20; let port : Nat := 3; let ty : Nat := 7;
      decide (queueOk pool qid = true) && decide (port < 8) && decide (ty < 256) && let p := s.pool pool; let q := p.queue qid;
      decide (q.enabled = true) && decide (q.fence = none) && decide (q.ports.find port = none) && decide (p.mayTake qid 1 = false)) = true ∧
  -- 0.2
  (let s : State := stW9; let pool : Nat := 1; let qid : Nat := 0x20; let port : Nat := 3; let ty : Nat := 7; decide (queueOk pool qid = true) &&
      decide (port < 8) && decide (ty < 256) && let p := s.pool pool; let q := p.queue qid; decide (q.enabled = true) && decide (q.fence = none) &&
      decide (q.ports.find port ≠ none)) = true ∧
  -- 1.0
  (let s : State := stW10; let pool : Nat := 1; let qid : Nat := 0x20; decide (queueOk pool qid = true) &&
      decide ((s.queue pool qid).fence ≠ none)) = true ∧
  -- 1.1
  (let s : State := (Qs 1 0x20 { enabled := true, quota := 4, guarantee := 2, ports := [(3, op 2 none)], fence := some .err } 6);
      let pool : Nat := 1; let qid : Nat := 0x20; decide (queueOk pool qid = true) && decide ((s.queue pool qid).fence = some .err)) = true ∧
  -- 2.0
  (let s : State := stW9; let pool : Nat := 1; let qid : Nat := 0x20; let port : Nat := 3; let ws : List W64 := [5#64];
      let o : OpenPacket := (op 2 none); decide (queueOk pool qid = true) && let p := s.pool pool; let q := p.queue qid; decide (q.enabled = true) &&
      decide (q.fence ≠ some .err) && decide (q.ports.find port = some o) && decide (o.started = true) && decide (o.waiting = none) &&
      let need := cellsFor (o.words.length + ws.length) - o.cells; decide (o.words.length + ws.length ≤ 65535) &&
      decide (p.mayTake qid need = true)) = true ∧
  -- 2.1
  (let s : State := (Qs 1 0x20 { enabled := true, quota := 2, guarantee := 2, ports := [(3, op 10 none)], sink := .msix 5 } 60); let pool : Nat := 1;
      let qid : Nat := 0x20; let port : Nat := 3; let ws : List W64 := ((List.range 60).map (BitVec.ofNat 64)); let o : OpenPacket := (op 10 none);
      decide (queueOk pool qid = true) && let p := s.pool pool; let q := p.queue qid; decide (q.enabled = true) && decide (q.fence ≠ some .err) &&
      decide (q.ports.find port = some o) && decide (o.started = true) && decide (o.waiting = none) &&
      let need := cellsFor (o.words.length + ws.length) - o.cells; decide (o.words.length + ws.length ≤ 65535) && decide (ws ≠ []) &&
      decide (p.mayTake qid need = false)) = true ∧
  -- 2.3
  (let s : State := stW9; let pool : Nat := 1; let qid : Nat := 0x20; let port : Nat := 3; let o : OpenPacket := (op 2 none);
      decide (queueOk pool qid = true) && let p := s.pool pool; let q := p.queue qid; decide (q.enabled = true) && decide (q.fence ≠ some .err) &&
      decide (q.ports.find port = some o) && decide (o.started = true) && decide (o.waiting = none)) = true ∧
  -- 2.4
  (let s : State := stW9; let pool : Nat := 1; let qid : Nat := 0x20; let port : Nat := 3; let o : OpenPacket := (op 2 none);
      decide (queueOk pool qid = true) && let p := s.pool pool; let q := p.queue qid; decide (q.enabled = true) && decide (q.fence ≠ some .err) &&
      decide (q.ports.find port = some o) && decide (o.started = true) && decide (o.waiting = none) && decide (o.words ≠ [])) = true ∧
  -- 2.5
  (let s : State := (Qs 1 0x20 { enabled := true, quota := 40, guarantee := 2, ports := [(3, op 0 none)], fence := some .drain, sink := .kettle } 60); let pool : Nat := 1; let qid : Nat := 0x20; let port : Nat := 3; let o : OpenPacket := (op 0 none); decide (queueOk pool qid = true) && let p := s.pool pool; let q := p.queue qid; decide (q.enabled = true) && decide (q.fence ≠ some .err) && decide (q.ports.find port = some o) && decide (o.started = true) && decide (o.waiting = none) && decide (o.words = [])) = true ∧
  -- 3.0
  (let s : State := (Qs 1 0x20 { enabled := true, ports := [(3, op 2 (some [1#64]))] } 6); let pool : Nat := 1; let qid : Nat := 0x20;
      let port : Nat := 3; let o : OpenPacket := (op 2 (some [1#64])); decide (queueOk pool qid = true) && let p := s.pool pool;
      let q := p.queue qid; decide (q.fence ≠ some .err) && decide (q.ports.find port = some o)) = true ∧
  -- 4.0
  (let s : State := (Qs 1 0x20 { enabled := true, quota := 40, ports := [(3, op 0 none false)] } 6); let pool : Nat := 1; let qid : Nat := 0x20;
      let port : Nat := 3; let o : OpenPacket := (op 0 none false); let p := s.pool pool; let q := p.queue qid;
      decide (q.ports.find port = some o) && decide (o.started = false) && decide (p.mayTake qid 1 = true) &&
      decide (s.steep.count ≤ o.since)) = true ∧
  -- 4.1
  (let s : State := (Qs 0 0x143 { enabled := true, guarantee := 16, quota := 16, ports := [(2, ({ op 20 (some [1#64, 2#64]) with since := 0 } : OpenPacket))] }); let pool : Nat := 0; let qid : Nat := 0x143; let port : Nat := 2; let o : OpenPacket := opW11; let p := s.pool pool; let q := p.queue qid; decide (q.ports.find port = some o) && let ws := [1#64, 2#64]; decide (o.started = true) && decide (o.waiting = some ws) && let need := cellsFor (o.words.length + ws.length) - o.cells; decide (p.mayTake qid need = true) && decide (p.mayTake qid 1 = true) && decide (s.steep.count ≤ o.since)) = true ∧
  -- 4.2
  (let s : State := ({ (Qs 0 0x143 { enabled := true, guarantee := 16, quota := 16, ports := [(2, ({ op 20 (some [1#64, 2#64]) with since := 0 } : OpenPacket))] }) with steep := { up.steep with count := 20 } } : State); let pool : Nat := 0; let qid : Nat := 0x143; let port : Nat := 2; let o : OpenPacket := opW11; let p := s.pool pool; let q := p.queue qid; decide (q.ports.find port = some o) && decide (o.started = false ∨ o.waiting ≠ none) && decide (o.since < s.steep.count)) = true ∧
  -- 5.0
  (let s : State := stW10; let pool : Nat := 1; let qid : Nat := 0x20; decide ((s.queue pool qid).fence = some .drain) &&
      decide ((s.queue pool qid).ports = [])) = true ∧
  (let o := op 1 none; let s := Qs 0 0x143 { enabled := true, guarantee := 16, quota := 16, ports := [(2, o)] };
      let ws : List W64 := List.replicate 65536 1#64; ((s.pool 0).queue 0x143).ports.find 2 = some o ∧ ((s.pool 0).queue 0x143).enabled = true ∧
      ((s.pool 0).queue 0x143).fence ≠ some .err ∧ o.started = true ∧ o.waiting = none ∧ 65535 < o.words.length + ws.length) :=
  ⟨by decide +kernel, by decide +kernel, by decide +kernel, by decide +kernel, by decide +kernel, by decide +kernel, by decide +kernel,
      by decide +kernel, by decide +kernel, by decide +kernel, by decide +kernel, by decide +kernel, by decide +kernel, by decide +kernel,
      by decide +kernel, ⟨rfl, rfl, by decide +kernel, rfl, rfl, by simp only [List.length_replicate]; omega⟩⟩

/-- The hypotheses of ConsumersReadMarkAndRelease can be met. -/
theorem witness_ConsumersReadMarkAndRelease :
  -- 0.0
  (let s : State := (Qs 1 0x20 { enabled := true, packets := [pk 3 5, pk 4 6], base := 7, cursor := 8, offset := 2 } 6); let pool : Nat := 1;
      let qid : Nat := 0x20; let n : Nat := 2; let k : Packet := (pk 4 6); decide (queueOk pool qid = true) && let q := s.queue pool qid;
      decide (q.packets[q.cursor - q.base]? = some k) && decide (0 < n) && decide (q.offset ≤ k.words.length) && decide (k.syn = []) &&
      decide ((s.pool pool).links = [])) = true ∧
  -- 0.1
  (let s : State := (let s := Qs 1 0x20 { enabled := true, packets := [pk 70 5], base := 7, cursor := 7, offset := 1 } 6; s.setPool 1 { s.pool 1 with links := [(507, 3#8)] }); let pool : Nat := 1; let qid : Nat := 0x20; let n : Nat := 60; let k : Packet := (pk 70 5); decide (queueOk pool qid = true) && let q := s.queue pool qid; decide (q.packets[q.cursor - q.base]? = some k) && decide (0 < n) && decide (q.offset ≤ k.words.length) && (([0, 1, 2, 3, 5, 7, 8, 9, 16, 17, 40, 63] : List Nat).any fun i => decide (i < (min (q.offset + n) (k.words.length + 1) - 1) / 32) && (match k.chain[i]? with | some c => decide (eccOf ((s.pool pool).links.get 0#8 c) = .ue) | _ => false))) = true ∧
  -- 1.0
  (let s : State := (Qs 1 0x20 { enabled := true, packets := [pk 3 5, pk 4 6], base := 7, cursor := 8, offset := 5 } 6); let pool : Nat := 1;
      let qid : Nat := 0x20; let k : Packet := (pk 4 6); decide (queueOk pool qid = true) && let q := s.queue pool qid;
      decide (q.packets[q.cursor - q.base]? = some k) && decide (q.offset = k.words.length + 1)) = true ∧
  -- 1.1
  (let s : State := stW12; let pool : Nat := 1; let qid : Nat := 0x20; decide (queueOk pool qid = true) && let q := s.queue pool qid;
      decide (q.packets[q.cursor - q.base]? = none)) = true ∧
  -- 2.0
  (let s : State := (Qs 1 0x20 { enabled := true, packets := [pk 3 5, pk 4 6], base := 7, cursor := 8, offset := 5, marks := [(2,(7,1))] } 6);
      let pool : Nat := 1; let qid : Nat := 0x20; decide (queueOk pool qid = true) && let q := s.queue pool qid;
      decide (q.cursor < q.base + q.packets.length) && decide (q.base ≤ q.cursor) && decide ((s.pool pool).links = [])) = true ∧
  -- 2.1
  (let s : State := stW12; let pool : Nat := 1; let qid : Nat := 0x20; decide (queueOk pool qid = true) && let q := s.queue pool qid;
      decide (q.base + q.packets.length ≤ q.cursor)) = true ∧
  -- 2.2
  (let pool : Nat := 1; let qid : Nat := 0x20; decide (queueOk pool qid = true) && (([0, 1, 2, 3, 5, 7, 8, 9, 16, 17, 40,
      63] : List Nat).any fun m => decide (m < 4))) = true ∧
  -- 3.0
  (let s : State := stW13; let pool : Nat := 1; let qid : Nat := 0x20; let m : Nat := 2; let q := s.queue pool qid;
      (match q.marks.find m with | some (c, o) => true | _ => false)) = true ∧
  -- 3.1
  (let s : State := stW13; let pool : Nat := 1; let qid : Nat := 0x20; let m : Nat := 3; let q := s.queue pool qid;
      decide (q.marks.find m = none)) = true ∧
  -- 4.0
  (let s : State := stW14; let pool : Nat := 1; let qid : Nat := 0x20; let n : Nat := 1; decide (queueOk pool qid = true) && let p := s.pool pool;
      let q := p.queue qid; decide (n ≤ q.cursor - q.base) && decide (n ≤ q.packets.length) && decide (p.links = [])) = true ∧
  -- 4.1
  (let s : State := stW14; let pool : Nat := 1; let qid : Nat := 0x20; let n : Nat := 3; decide (queueOk pool qid = true) && let p := s.pool pool;
      let q := p.queue qid; decide (q.cursor - q.base < n ∨ q.packets.length < n)) = true ∧
  -- 5.0
  (let s : State := (Qs 0 0x180 { enabled := true, quota := 16, packets := [pk 3 1, pk 40 2] }); let seq : Nat := 2; let q := s.queue 0 0x180;
      let i := 1; let k := (pk 40 2); decide (q.packets[i]? = some k) && decide (k.seq = seq) && decide (∀ j < i, ∀ k',
      q.packets[j]? = some k' → k'.seq ≠ seq) && decide ((s.pool 0).links = [])) = true ∧
  -- 5.1
  (let s : State := (Qs 0 0x180 { enabled := true, packets := [pk 3 5, pk 4 6, pk 40 6], base := 7, cursor := 9, offset := 5 } 6);
      let seq : Nat := 6; let q := s.queue 0 0x180; (([0, 1, 2, 3, 5, 7, 8, 9, 16, 17, 40, 63] : List Nat).any fun pool => (([0, 1, 2, 3, 5, 7, 8, 9,
      16, 17, 40, 63] : List Nat).any fun qid => decide ((∀ k ∈ q.packets, k.seq ≠ seq) ∨ pool ≠ 0 ∨ qid ≠ 0x180)))) = true ∧
  -- 6.0
  (let s : State := (let s := Qs 5 0x20 { enabled := true } 26; s.setPool 5 { s.pool 5 with sweeping := true }); let pool : Nat := 5;
      let p := s.pool pool; decide (p.sweeping = true)) = true ∧
  -- 7.0
  (let s : State := (let s := Qs 1 0x21 { enabled := true, packets := [pk 3 15], base := 7 } 6 (Qs 1 0x20 { enabled := true, packets := [pk 3 5, pk 4 6, pk 40 7], base := 7, cursor := 8, offset := 1, ports := [(2, op 30 none)] } 6); s.setPool 1 { s.pool 1 with sweeping := true }); let pool : Nat := 1; let a : Nat := 0x20; let b : Nat := 0x21; let p := s.pool pool; decide (p.sweeping = true) && decide (a ≠ b) && decide (0 < (p.queue a).cells) && decide (0 < (p.queue b).cells)) = true ∧
  -- 8.0
  (let s : State := ((Qs 0 0x183 { enabled := true, quota := 16 }).setCtx 2 { ctx0 with held := [({ kind := 0x0006 } : Event)] }); let x : Nat := 2;
      let e : Event := ({ kind := 0x0006 } : Event); let rest : List Event := []; decide ((s.ctx x).held = e :: rest) && let p := s.pool 0;
      let q := p.queue (0x181 + x); let n := cellsFor (s.eventWords e).length; decide (q.enabled = true) && decide (q.fence = none) &&
      decide (p.mayTake (0x181 + x) n = true)) = true :=
  by
  and_intros <;> decide +kernel

/-- The hypotheses of QueueOperationsConserveCells can be met. -/
theorem witness_QueueOperationsConserveCells :
  (up.poolsTidy ∧ ∃ t, exec (.queueCommit 0 0x143 2) up = .next t) :=
  ⟨fun _ => ⟨rfl, List.nodup_nil, fun _ h => nomatch h⟩, _, rfl⟩

/-- The hypotheses of MailboxesTakeRequestsAndReturnTokens can be met. -/
theorem witness_MailboxesTakeRequestsAndReturnTokens :
  -- 0.0
  (let s : State := (dbS 0x0100); let fn : Nat := 0; let mb : Nat := 3; let v : W64 := 4#64; decide (s.dark = false) &&
      decide (s.host.d3hot = false) && decide (mb < 32) && decide (s.owner mb = fn) && decide (s.host.flr.contains fn = false) && let n := fld v 4 0;
      let q := s.queue 0 (0x100 + 2 * mb); decide (s.shownFree mb ≠ 0) && decide (1 ≤ n) && decide (n ≤ 31) && decide (s.mailboxShut mb = false) &&
      decide ((s.pool 0).mayTake (0x100 + 2 * mb) 1 = true) &&
      decide (s.keepsOldest mb ((q.packets.map fun k => k.words).getD 0 (s.bufferWords mb n)))) = true ∧
  -- 0.1
  (let s : State := up; let fn : Nat := 0; let mb : Nat := 3; let v : W64 := 5#64; decide (s.dark = false) && decide (s.host.d3hot = false) &&
      decide (mb < 32) && decide (s.owner mb = fn) && decide (s.host.flr.contains fn = false) && let n := fld v 4 0;
      decide (s.shownFree mb = 0 ∨ n = 0 ∨ s.mailboxShut mb = true ∨ (s.pool 0).mayTake (0x100 + 2 * mb) 1 = false)) = true ∧
  -- 0.2
  (let s : State := (dbS 0xFFF0); let fn : Nat := 0; let mb : Nat := 3; let v : W64 := 4#64; decide (s.dark = false) &&
      decide (s.host.d3hot = false) && decide (mb < 32) && decide (s.owner mb = fn) && decide (s.host.flr.contains fn = false) && let n := fld v 4 0;
      let m := s.mailbox mb; let q := s.queue 0 (0x100 + 2 * mb); decide (s.shownFree mb ≠ 0) && decide (1 ≤ n) && decide (n ≤ 31) &&
      decide (s.mailboxShut mb = false) && decide ((s.pool 0).mayTake (0x100 + 2 * mb) 1 = true) && decide (q.packets = []) && decide (m.due = []) &&
      decide (s.waitsFan mb = false) && decide (definedCodes.contains (fld ((s.mailbox mb).request.get 0#64 0) 15 0) = false) &&
      decide ((s.pool 0).mayTake (0x101 + 2 * mb) 1 = true) && decide ((s.queue 0 (0x101 + 2 * mb)).enabled = true) &&
      decide ((s.queue 0 (0x101 + 2 * mb)).fence = none)) = true ∧
  -- 0.3
  (let s : State := stW15; let fn : Nat := 0; let mb : Nat := 3; let v : W64 := 0x100010001#64; decide (s.dark = false) &&
      decide (s.host.d3hot = false) && decide (mb < 32) && decide (s.owner mb = fn) && decide (s.host.flr.contains fn = false) &&
      let m := s.mailbox mb; decide (bitAt v 0 = true) && decide (0 < m.unread) && decide (m.heldEvents = []) && decide (m.due = []) &&
      decide (m.resetTags = []) && decide (m.resetting = false)) = true ∧
  -- 0.4
  (let s : State := up; let fn : Nat := 0; let mb : Nat := 3; let v : W64 := 5#64; decide (s.dark = false) && decide (s.host.d3hot = false) &&
      decide (mb < 32) && decide (s.owner mb = fn) && decide (s.host.flr.contains fn = false) && let m := s.mailbox mb;
      decide (bitAt v 0 = false ∨ m.unread = 0)) = true ∧
  -- 0.5
  (let s : State := up; let fn : Nat := 0; let mb : Nat := 3; let v : W64 := 5#64; decide (s.dark = false) && decide (s.host.d3hot = false) &&
      decide (mb < 32) && decide (s.owner mb = fn) && decide (s.host.flr.contains fn = false) && decide (fn = 0 ∨ fld v 10 0 ≤ 127) &&
      decide (bitAt v 32 = false)) = true ∧
  -- 0.6
  (let s : State := stW15; let fn : Nat := 0; let mb : Nat := 3; let v : W64 := 0x100010001#64; decide (s.dark = false) &&
      decide (s.host.d3hot = false) && decide (mb < 32) && decide (s.owner mb = fn) && decide (s.host.flr.contains fn = false) &&
      decide (fn = 0 ∨ fld v 10 0 ≤ 127) && decide (bitAt v 32 = true)) = true ∧
  -- 0.7
  (let s : State := stW15; let fn : Nat := 0; let mb : Nat := 3; let v : W64 := 0x100010001#64; decide (s.dark = false) &&
      decide (s.host.d3hot = false) && decide (mb < 32) && decide (s.owner mb = fn) && decide (s.host.flr.contains fn = false) &&
      let m := s.mailbox mb; let q := s.queue 0 (0x100 + 2 * mb); decide (fn = 0 ∨ fld v 10 0 ≤ 127) && decide (bitAt v 32 = true) &&
      decide (m.due = []) && decide (m.resetTags = []) && decide (q.packets.length ≤ 16) && ((s.fans).all fun f => decide (f.cmd.mb ≠ mb))) = true ∧
  -- 1.0
  (let s : State := up; let fn : Nat := 9; let mb : Nat := 31; decide (s.dark = false) && decide (s.host.d3hot = false) && decide (mb < 32) &&
      decide (s.owner mb ≠ fn)) = true ∧
  -- 2.0
  (let s : State := (MB 3 (fun m => { m with free := 15, unread := 0, pending := 1, resetTags := [(7, 9)], resetting := true }) (Qs 0 0x107 { enabled := true, guarantee := 16, quota := 16 })); let mb : Nat := 3; let code : Nat := 7; let tag : Nat := 9; decide (mb < 32) && decide ((s.mailbox mb).resetTags = [(code, tag)]) && decide ((s.mailbox mb).resetting = true) && decide ((s.mailbox mb).due = []) && decide ((s.mailbox mb).heldEvents = []) && decide ((s.pool 0).mayTake (0x101 + 2 * mb) 1 = true) && decide ((s.queue 0 (0x101 + 2 * mb)).enabled = true) && decide ((s.queue 0 (0x101 + 2 * mb)).fence = none)) = true ∧
  -- 4.0
  (let s : State := { up with steep := { up.steep with count := 5 } };
      let p : Pkt := { route := mkWord [(8, 8, 7), (48, 16, 5)], body := [mkWord [(0, 8, 3), (16, 16, 0x0030)], 8#64, 40#64] }; let q : Nat := 8;
      let at_ : Nat := 40; decide (s.dark = false) && decide (fld p.route 15 8 = 7) && decide (s.isEarly (fld p.route 63 48) = false) &&
      decide (p.body = [mkWord [(0, 8, 3), (16, 16, 0x0030)], BitVec.ofNat 64 q, BitVec.ofNat 64 at_]) &&
      decide ((s.tookPacket 7 p.body).shuns (fld p.route 47 32) = false) && decide (periodLegal q) && decide (s.now < at_) &&
      decide (at_ < 2 ^ 64)) = true ∧
  -- 5.0
  (let s : State := { up with fans := [{ id := 3, cmd := ⟨2, 5, 2⟩, composite := true, members := [[1#64],[2#64]], replies := [(0, 1, [3#64])], started := 1, request := [2#64] }], steep := { up.steep with count := 7 } }; let n : Nat := 3; let f : Fan := { id := 3, cmd := ⟨2, 5, 2⟩, composite := true, members := [[1#64],[2#64]], replies := [(0, 1, [3#64])], started := 1, request := [2#64] }; decide ((s.fans.find? fun f => f.id == n) = some f) && decide (f.request ≠ []) && decide (f.cmd.mb < 256) && decide (f.cmd.code ≠ 0x0007) && decide (f.started + f.wait ≤ s.now)) = true ∧
  -- 5.1
  (let s : State := { up with fans := [{ id := 3, cmd := ⟨2, 5, 2⟩, composite := true, members := [[1#64],[2#64]], replies := [(0, 1, [3#64])], started := 4, wait := 8, request := [2#64] }], steep := { up.steep with count := 7 } }; let n : Nat := 3; let f : Fan := { id := 3, cmd := ⟨2, 5, 2⟩, composite := true, members := [[1#64],[2#64]], replies := [(0, 1, [3#64])], started := 4, wait := 8, request := [2#64] }; decide ((s.fans.find? fun f => f.id == n) = some f) && decide (s.now < f.started + f.wait)) = true ∧
  ((∀ n, n < 32 → (up.mailbox n).conserved ∧ up.backed n) ∧ ∃ t, exec (.mbCompAck 0 3 1#64) up = .next t) :=
  ⟨by decide +kernel, by decide +kernel, by decide +kernel, by decide +kernel, by decide +kernel, by decide +kernel, by decide +kernel,
      by decide +kernel, by decide +kernel, by decide +kernel, by decide +kernel, by decide +kernel, by decide +kernel, ⟨fun _ _ => ⟨rfl,
      Nat.le_refl _⟩, _, rfl⟩⟩

/-- The hypotheses of ContextsAreCreatedPartitionedAndDestroyed can be met. -/
theorem witness_ContextsAreCreatedPartitionedAndDestroyed :
  -- 0.0
  (let s : State := (K up .module 1 []); let r : Req := (reqU 0 .module []); let u : UnitId := .module;
      decide (s.asked r 0x0001 false anyClass u = true) && decide (reqArgs r 0x0001 = [])) = true ∧
  -- 1.0
  (let s : State := (K (ctxS 0 {}) .module 0x14 [0#64]); let r : Req := (reqU 0 .module [0#64]); let u : UnitId := .module; let x : Nat := 0;
      decide (s.asked r 0x0014 false anyClass u = true) && decide (x < 8) && decide (reqArgs r 0x0014 = [BitVec.ofNat 64 x])) = true ∧
  -- 2.0
  (let s : State := (K up .module 0x10 [mkWord [(0,3,3),(8,8,5),(16,19,8),(35,19,16),(54,10,2)], BitVec.ofNat 64 4, 0xABC#64]); let r : Req := rqW16;
      let x : Nat := 3; let mask : Nat := 5; let fp : Nat := 8; let fb : Nat := 16; let sg : Nat := 2; let sb : Nat := 4; let job : W64 := 0xABC#64;
      decide (s.asked r 0x0010 false adminClass .module = true) && decide (x < 8) && decide (mask < 256) && decide (0 < mask) &&
      decide (fp < 2 ^ 19) && decide (fb < 2 ^ 19) && decide (sg ≤ 512) && decide (sb < 512) && decide (reqArgs r 0x0010 = [mkWord [(0, 3, x), (8, 8,
      mask), (16, 19, fp), (35, 19, fb), (54, 10, sg)], BitVec.ofNat 64 sb, job]) && decide (s.faults.outOfService = false) &&
      decide ((s.ctx x).state = .free) && decide (s.windowsOk x fb fp sb sg = true) && decide (s.dieConflict x mask = false)) = true ∧
  -- 2.1
  (let s : State := (K (ctxS 3 { ctx0 with state := .stopped }) .module 0x10 [mkWord [(0,3,3),(8,8,5),(16,19,8),(35,19,16),(54,10,2)], BitVec.ofNat 64 4, 0xABC#64]); let r : Req := rqW16; let x : Nat := 3; let mask : Nat := 5; let fp : Nat := 8; let fb : Nat := 16; let sg : Nat := 2; let sb : Nat := 4; let job : W64 := 0xABC#64; decide (s.asked r 0x0010 false adminClass .module = true) && decide (x < 8) && decide (mask < 256) && decide (0 < mask) && decide (fp < 2 ^ 19) && decide (fb < 2 ^ 19) && decide (sg ≤ 512) && decide (sb < 512) && decide (reqArgs r 0x0010 = [mkWord [(0, 3, x), (8, 8, mask), (16, 19, fp), (35, 19, fb), (54, 10, sg)], BitVec.ofNat 64 sb, job]) && decide (s.faults.outOfService = false) && decide ((s.ctx x).state ≠ .free)) = true ∧
  -- 2.2
  (let s : State := (K (ctxS 2 ctx0) .module 0x10 [mkWord [(0,3,3),(8,8,4),(16,19,8),(35,19,2),(54,10,2)], BitVec.ofNat 64 4, 0xABC#64]);
      let r : Req := (reqU 0 .module [mkWord [(0,3,3),(8,8,4),(16,19,8),(35,19,2),(54,10,2)], BitVec.ofNat 64 4, 0xABC#64]); let x : Nat := 3;
      let mask : Nat := 4; let fp : Nat := 8; let fb : Nat := 2; let sg : Nat := 2; let sb : Nat := 4; let job : W64 := 0xABC#64;
      decide (s.asked r 0x0010 false adminClass .module = true) && decide (x < 8) && decide (mask < 256) && decide (0 < mask) &&
      decide (fp < 2 ^ 19) && decide (fb < 2 ^ 19) && decide (sg ≤ 512) && decide (sb < 512) && decide (reqArgs r 0x0010 = [mkWord [(0, 3, x), (8, 8,
      mask), (16, 19, fp), (35, 19, fb), (54, 10, sg)], BitVec.ofNat 64 sb, job]) && decide (s.faults.outOfService = false) &&
      decide ((s.ctx x).state = .free) && decide (s.windowsOk x fb fp sb sg = false)) = true ∧
  -- 2.3
  (let s : State := (K (ctxS 2 ctx0) .module 0x10 [mkWord [(0,3,3),(8,8,1),(16,19,8),(35,19,16),(54,10,2)], BitVec.ofNat 64 4, 0xABC#64]);
      let r : Req := (reqU 0 .module [mkWord [(0,3,3),(8,8,1),(16,19,8),(35,19,16),(54,10,2)], BitVec.ofNat 64 4, 0xABC#64]); let x : Nat := 3;
      let mask : Nat := 1; let fp : Nat := 8; let fb : Nat := 16; let sg : Nat := 2; let sb : Nat := 4; let job : W64 := 0xABC#64;
      decide (s.asked r 0x0010 false adminClass .module = true) && decide (x < 8) && decide (mask < 256) && decide (0 < mask) &&
      decide (fp < 2 ^ 19) && decide (fb < 2 ^ 19) && decide (sg ≤ 512) && decide (sb < 512) && decide (reqArgs r 0x0010 = [mkWord [(0, 3, x), (8, 8,
      mask), (16, 19, fp), (35, 19, fb), (54, 10, sg)], BitVec.ofNat 64 sb, job]) && decide (s.faults.outOfService = false) &&
      decide ((s.ctx x).state = .free) && decide (s.windowsOk x fb fp sb sg = true) && decide (s.dieConflict x mask = true)) = true ∧
  -- 3.0
  (let s : State := (K (ctxS 3 { ctx0 with state := .stopped, jobs := 4, slots := [(2, { held := true })], job := { member := true, rank := 3 }, groups := [] }) .module 0x11 [3#64]); let r : Req := (reqU 0 .module [3#64]); let x : Nat := 3; decide (s.asked r 0x0011 false adminClass .module = true) && decide (x < 8) && decide (reqArgs r 0x0011 = [BitVec.ofNat 64 x]) && decide ((s.ctx x).state = .stopped)) = true ∧
  -- 3.1
  (let s : State := (K up .module 0x11 [0#64]); let r : Req := (reqU 0 .module [0#64]); let x : Nat := 0;
      decide (s.asked r 0x0011 false adminClass .module = true) && decide (x < 8) && decide (reqArgs r 0x0011 = [BitVec.ofNat 64 x]) &&
      decide ((s.ctx x).state ≠ .stopped)) = true ∧
  -- 4.0
  (let s : State := (K (ctxS 2 ctx0) .module 0x12 [mkWord [(0, 3, 2), (8, 8, 7)]]); let r : Req := (reqU 0 .module [mkWord [(0, 3, 2), (8, 8, 7)]]);
      let x : Nat := 2; let mask : Nat := 7; decide (s.asked r 0x0012 false adminClass .module = true) && decide (x < 8) && decide (mask < 256) &&
      decide (0 < mask) && decide (reqArgs r 0x0012 = [mkWord [(0, 3, x), (8, 8, mask)]]) && decide ((s.ctx x).state ≠ .free) &&
      decide ((s.ctx x).busy = false) && decide (s.dieConflict x mask = false)) = true ∧
  (let s : State := (K (ctxS 2 ctx0) .module 0x12 [mkWord [(0, 3, 2), (8, 8, 7)]]); ∀ d, (s.rotation d).entries = []) ∧
  -- 4.1
  (let s : State := (K (ctxS 3 { ctx0 with slots := [(2, { streams := [strm] })] }) .module 0x12 [mkWord [(0,3,3),(8,8,7)]]);
      let r : Req := (reqU 0 .module [mkWord [(0,3,3),(8,8,7)]]); let x : Nat := 3; let mask : Nat := 7;
      decide (s.asked r 0x0012 false adminClass .module = true) && decide (x < 8) && decide (mask < 256) && decide (0 < mask) &&
      decide (reqArgs r 0x0012 = [mkWord [(0, 3, x), (8, 8, mask)]]) && decide ((s.ctx x).state ≠ .free) && decide ((s.ctx x).busy = true)) = true ∧
  -- 4.2
  (let s : State := (K ((ctxS 3 ctx0).setCtx 4 { ctx0 with dieMask := 4 }) .module 0x12 [mkWord [(0,3,3),(8,8,7)]]);
      let r : Req := (reqU 0 .module [mkWord [(0,3,3),(8,8,7)]]); let x : Nat := 3; let mask : Nat := 7;
      decide (s.asked r 0x0012 false adminClass .module = true) && decide (x < 8) && decide (mask < 256) && decide (0 < mask) &&
      decide (reqArgs r 0x0012 = [mkWord [(0, 3, x), (8, 8, mask)]]) && decide ((s.ctx x).state ≠ .free) && decide ((s.ctx x).busy = false) &&
      decide (s.dieConflict x mask = true)) = true ∧
  -- 5.0
  (let s : State := (K (ctxS 3 ctx0) .module 0x13 (mkWord [(0,3,0),(8,4,1)] :: [mkWord [(0,3,3),(8,8,1)]]));
      let r : Req := (reqU 0 .module (mkWord [(0,3,0),(8,4,1)] :: [mkWord [(0,3,3),(8,8,1)]])); let d : Nat := 0;
      let es : List (Nat × Nat) := [(3,1)]; decide (s.asked r 0x0013 false adminClass .module = true) && decide (d < 8) && decide (es ≠ []) &&
      decide (es.length ≤ 8) && ((es).all fun e => decide (e.1 < 8 ∧ 0 < e.2 ∧ e.2 < 256)) && decide (reqArgs r 0x0013 = mkWord [(0, 3, d), (8, 4,
      es.length)] :: es.map (fun e => mkWord [(0, 3, e.1), (8, 8, e.2)])) && ((es).all fun e => decide ((s.ctx e.1).state ≠ .free)) &&
      ((es).all fun e => decide (Nat.testBit (s.ctx e.1).dieMask d = true)) && decide (s.scheduleClash d es = false) &&
      decide (s.saveAreaShort es = false)) = true ∧
  -- 5.1
  (let s : State := (K (ctxS 3 ctx0) .module 0x13 (mkWord [(0,3,2),(8,4,1)] :: [mkWord [(0,3,3),(8,8,1)]]));
      let r : Req := (reqU 0 .module (mkWord [(0,3,2),(8,4,1)] :: [mkWord [(0,3,3),(8,8,1)]])); let d : Nat := 2;
      let es : List (Nat × Nat) := [(3,1)]; decide (s.asked r 0x0013 false adminClass .module = true) && decide (d < 8) && decide (es ≠ []) &&
      decide (es.length ≤ 8) && ((es).all fun e => decide (e.1 < 8 ∧ 0 < e.2 ∧ e.2 < 256)) && decide (reqArgs r 0x0013 = mkWord [(0, 3, d), (8, 4,
      es.length)] :: es.map (fun e => mkWord [(0, 3, e.1), (8, 8, e.2)])) && ((es).all fun e => decide ((s.ctx e.1).state ≠ .free)) &&
      decide ((∃ e ∈ es, Nat.testBit (s.ctx e.1).dieMask d = false) ∨ s.scheduleClash d es = true)) = true ∧
  -- 5.2
  (let s : State := (K ((ctxS 3 { ctx0 with dieMask := 1, fastPages := 50 }).setCtx 4 { ctx0 with dieMask := 1, fastBase := 600, fastPages := 600, slowBase := 9 }) .module 0x13 (mkWord [(0,3,0),(8,4,2)] :: [mkWord [(0,3,3),(8,8,1)],mkWord [(0,3,4),(8,8,255)]])); let r : Req := (reqU 0 .module (mkWord [(0,3,0),(8,4,2)] :: [mkWord [(0,3,3),(8,8,1)],mkWord [(0,3,4),(8,8,255)]])); let d : Nat := 0; let es : List (Nat × Nat) := [(3,1),(4,255)]; decide (s.asked r 0x0013 false adminClass .module = true) && decide (d < 8) && decide (es ≠ []) && decide (es.length ≤ 8) && ((es).all fun e => decide (e.1 < 8 ∧ 0 < e.2 ∧ e.2 < 256)) && decide (reqArgs r 0x0013 = mkWord [(0, 3, d), (8, 4, es.length)] :: es.map (fun e => mkWord [(0, 3, e.1), (8, 8, e.2)])) && ((es).all fun e => decide ((s.ctx e.1).state ≠ .free)) && ((es).all fun e => decide (Nat.testBit (s.ctx e.1).dieMask d = true)) && decide (s.scheduleClash d es = false) && decide (s.saveAreaShort es = true)) = true :=
  ⟨by decide +kernel, by decide +kernel, by decide +kernel, by decide +kernel, by decide +kernel, by decide +kernel, by decide +kernel,
      by decide +kernel, by decide +kernel, fun _ => rfl, by decide +kernel, by decide +kernel, by decide +kernel, by decide +kernel,
      by decide +kernel⟩

/-- The hypotheses of StreamsStagesAndCompositesByCommand can be met. -/
theorem witness_StreamsStagesAndCompositesByCommand :
  -- 0.0
  (let s : State := (K (ctxS 0 { ctx0 with slots := [(3, { streams := [{ strm with id := 5 }, { strm with id := 6, slices := 3 }] })] }) .module 0x21 [5#64]); let r : Req := (reqU 0 .module [5#64]); let u : UnitId := .module; let id : Nat := 5; let sl : Nat := 3; decide (s.asked r 0x0021 false anyClass u = true) && decide (id < 2 ^ 32) && decide (sl < 16) && decide (reqArgs r 0x0021 = [BitVec.ofNat 64 id]) && let x := r.mb / 4; let c := s.ctx x; (([0, 1, 2, 3, 5, 7, 8, 9, 16, 17, 40, 63] : List Nat).any fun t => ((List.range (sl)).all fun i => decide (((c.slot i).streams.any fun t => t.id == id && !t.gone) = false)) && decide (((c.slot sl).streams.any fun t => t.id == id && !t.gone) = true) && (match (c.slot sl).streams with | t :: rest => decide (t.id = id) | _ => false))) = true ∧
  -- 0.1
  (let s : State := (K (ctxS 0 { ctx0 with slots := [(3, { streams := [{ strm with id := 5 }, { strm with id := 6, slices := 3 }] })] }) .module 0x21 [6#64]); let r : Req := (reqU 0 .module [6#64]); let u : UnitId := .module; let id : Nat := 6; let sl : Nat := 3; decide (s.asked r 0x0021 false anyClass u = true) && decide (id < 2 ^ 32) && decide (sl < 16) && decide (reqArgs r 0x0021 = [BitVec.ofNat 64 id]) && let x := r.mb / 4; let c := s.ctx x; (([0, 1, 2, 3, 5, 7, 8, 9, 16, 17, 40, 63] : List Nat).any fun t => ((List.range (sl)).all fun i => decide (((c.slot i).streams.any fun t => t.id == id && !t.gone) = false)) && decide (((c.slot sl).streams.any fun t => t.id == id && !t.gone) = true) && (match (c.slot sl).streams with | t :: rest => decide (t.id ≠ id) | _ => false))) = true ∧
  -- 1.0
  (let s : State := (K (ctxS 0 { ctx0 with slots := [(3, { streams := [{ { strm with id := 5 } with started := true, done := 1 }, { { strm with id := 6, slices := 3 } with gone := true }, { { strm with id := 6, slices := 3 } with id := 7 }] })] }) .module 0x21 [6#64]); let r : Req := (reqU 0 .module [6#64]); let u : UnitId := .module; let id : Nat := 6; decide (s.asked r 0x0021 false anyClass u = true) && decide (id < 2 ^ 32) && decide (reqArgs r 0x0021 = [BitVec.ofNat 64 id]) && ((List.range (16)).all fun sl => decide ((((s.ctx (r.mb / 4)).slot sl).streams.any fun t => t.id == id && !t.gone) = false))) = true ∧
  -- 2.0
  (let s : State := (K up .module 0x22 [15#64]); let r : Req := (reqU 0 .module [15#64]); let u : UnitId := .module; let sl : Nat := 15;
      decide (s.asked r 0x0022 false anyClass u = true) && decide (sl < 16) && decide (reqArgs r 0x0022 = [BitVec.ofNat 64 sl])) = true ∧
  -- 3.0
  (let s : State := (K (ctxS 0 { ctx0 with stages := [(2, ⟨1, true, true, [], []⟩)] }) .module 0x23 [mkWord [(0,3,2),(3,1,1)]]);
      let r : Req := (reqU 0 .module [mkWord [(0,3,2),(3,1,1)]]); let u : UnitId := .module; let v : Nat := 2;
      decide (s.asked r 0x0023 false anyClass u = true) && decide (v < 8) && let x := r.mb / 4; let c := s.ctx x; decide (c.state ≠ .free) &&
      decide (c.busy = false) && decide (reqArgs r 0x0023 = [mkWord [(0, 3, v), (3, 1, 1)]])) = true ∧
  -- 3.1
  (let s : State := (stgS); let r : Req := (reqU 8 .module stgW); let u : UnitId := .module; let v : Nat := 3;
      decide (s.asked r 0x0023 false anyClass u = true) && decide (v < 8) && let x := r.mb / 4; let c := s.ctx x; decide (c.state ≠ .free) &&
      let stage := 7; let prev := []; let next := (pathWords [0x2006]); decide (c.busy = false) && decide (stage < 4096) &&
      decide (prev.length ≤ 4) && decide (next.length ≤ 4) && decide (reqArgs r 0x0023 = mkWord [(0, 3, v), (4, 12, stage), (16, 1,
      b2n prev.isEmpty), (17, 1, b2n next.isEmpty), (20, 3, prev.length), (23, 3, next.length)] :: prev ++ next) &&
      decide (prev = [] ∨ (pathWordsOk prev = true ∧ stagePathOk prev = true)) && decide (next = [] ∨ (pathWordsOk next = true ∧
      stagePathOk next = true)) && decide ((c.stages.find v).isSome = true ∨ ((List.range 8).map fun y => (s.ctx y).stages.length).sum < 8) &&
      ((List.range (8)).all fun y => (!(decide ((s.ctx y).jobId = c.jobId)) || (((s.ctx y).stages).all fun e => decide (e.2.stage = stage → y = x ∧
      e.1 = v))))) = true ∧
  -- 3.2
  (let s : State := (K (ctxS 0 { ctx0 with slots := [(3, { streams := [strm] })] }) .module 0x23 [mkWord [(0,3,2),(3,1,1)]]);
      let r : Req := (reqU 0 .module [mkWord [(0,3,2),(3,1,1)]]); let u : UnitId := .module; let v : Nat := 2;
      decide (s.asked r 0x0023 false anyClass u = true) && decide (v < 8) && let x := r.mb / 4; let c := s.ctx x; decide (c.state ≠ .free) &&
      decide (c.busy = true) && decide (reqArgs r 0x0023 = [mkWord [(0, 3, v), (3, 1, 1)]])) = true ∧
  -- 4.0
  (let s : State := (K (ctxS 0 ctx0) .module 0x24 [65535#64]); let r : Req := (reqU 0 .module [65535#64]); let u : UnitId := .module;
      let n : Nat := 65535; decide (s.asked r 0x0024 false anyClass u = true) && decide (n < 65536) &&
      decide (reqArgs r 0x0024 = [BitVec.ofNat 64 n]) && decide ((s.ctx (r.mb / 4)).state ≠ .free)) = true ∧
  -- 5.0
  (let s : State := { (ctxS 7 { ctx0 with cyclesHeld := 0, cyclesWaited := 50 }) with steep := { up.steep with count := 128 } }; let x : Nat := 7;
      decide (x < 8) && decide (s.now % 64 = 0)) = true ∧
  -- 6.0
  (let s : State := (K (cnt 20) .module 0x30 [8#64, 40#64]); let r : Req := (reqU 0 .module [8#64, 40#64]); let q : Nat := 8; let at_ : Nat := 40;
      decide (s.asked r 0x0030 false adminClass .module = true) && decide (periodLegal q) && decide (s.now + 8 ≤ at_) && decide (at_ < 2 ^ 64) &&
      decide (reqArgs r 0x0030 = [BitVec.ofNat 64 q, BitVec.ofNat 64 at_])) = true ∧
  -- 7.0
  (let s : State := (K up .module 0x31 (pathWords [0x2005] ++ pathWords [0x1003, 0x2005]));
      let r : Req := (reqU 0 .module (pathWords [0x2005] ++ pathWords [0x1003, 0x2005]));
      let ps : List (List W64) := [pathWords [0x2005], pathWords [0x1003, 0x2005]]; decide (s.asked r 0x0031 false adminClass .module = true) &&
      decide (splitPaths 28 (reqArgs r 0x0031) = some ps) && decide ((reqArgs r 0x0031).length ≤ 28) && decide (ps ≠ []) &&
      ((ps).all fun p => decide (pathWordsOk p = true ∧ ∃ q, parsePath (pathHops p) = some q ∧ q.below = .module ∧
      (q.domain = none ∨ q.domain = some s.fabric.site) ∧ (q.module.isSome = true ∨ q.groups ≠ [])))) = true ∧
  -- 8.0
  (let s : State := (K { up with composites := [(0, ⟨[]⟩), (2, ⟨[]⟩)] } .module 0x32 [2#64]); let r : Req := (reqU 0 .module [2#64]);
      let g : Nat := 2; decide (s.asked r 0x0032 false adminClass .module = true) && decide (g < 4096) &&
      decide (reqArgs r 0x0032 = [BitVec.ofNat 64 g])) = true :=
  by
  and_intros <;> decide +kernel

/-- The hypotheses of StreamsAreCheckedQueuedAndRun can be met. -/
theorem witness_StreamsAreCheckedQueuedAndRun :
  -- 0.0
  (let s : State := (subSt { ctx0 with slots := [(3, { held := true })] } (mkWord [(0,4,3),(4,1,1),(5,1,1),(32,16,8)]) (0x200000#64) tiny id);
      let r : Req := rqW17; let u : UnitId := .module; let a : W64 := (mkWord [(0,4,3),(4,1,1),(5,1,1),(32,16,8)]); let b : W64 := (0x200000#64);
      let start : W64 := 0#64; let ws : List W64 := tiny; let host : HostRead := (.fail 0); decide (s.asked r 0x0020 false anyClass u = true) &&
      decide (reqArgs r 0x0020 = [a, b, start]) && let x := r.mb / 4; let slot := fld a 3 0; let n := fld a 47 32; let c := s.ctx x;
      decide (fld a 31 6 = 0) && decide (fld a 63 48 = 0) && decide (2 ≤ n) && decide ((bitAt a 4 = true ∧ fld b 63 48 = 0 ∧ b.toNat % 8 = 0 ∧
      c.fastSpan b.toNat (8 * n) = true ∧ s.mem.space.syn = [] ∧ ws = s.mem.space.words (b.toNat / 8) n) ∨ (bitAt a 4 = false ∧
      s.host.busMaster.contains (s.owner r.mb) = true ∧ host = .ok ws ∧ ws.length = n)) && decide (c.state = .stopped ∨ c.state = .active) &&
      decide (s.fencedUnit (.ctx x) = false) && decide ((c.slot slot).held = true)) = true ∧
  -- 0.1
  (let s : State := (subSt ctx0 (mkWord [(0,4,3),(4,1,1),(5,1,1),(32,16,8)]) (0x200000#64) tiny id); let r : Req := rqW17; let u : UnitId := .module;
      let a : W64 := (mkWord [(0,4,3),(4,1,1),(5,1,1),(32,16,8)]); let b : W64 := (0x200000#64); let start : W64 := 0#64; let ws : List W64 := tiny;
      let host : HostRead := (.fail 0); decide (s.asked r 0x0020 false anyClass u = true) && decide (reqArgs r 0x0020 = [a, b, start]) &&
      let x := r.mb / 4; let slot := fld a 3 0; let n := fld a 47 32; let c := s.ctx x; decide (fld a 31 6 = 0) && decide (fld a 63 48 = 0) &&
      decide (2 ≤ n) && decide ((bitAt a 4 = true ∧ fld b 63 48 = 0 ∧ b.toNat % 8 = 0 ∧ c.fastSpan b.toNat (8 * n) = true ∧ s.mem.space.syn = [] ∧
      ws = s.mem.space.words (b.toNat / 8) n) ∨ (bitAt a 4 = false ∧ s.host.busMaster.contains (s.owner r.mb) = true ∧ host = .ok ws ∧
      ws.length = n)) && decide (c.state = .stopped ∨ c.state = .active) && decide (s.fencedUnit (.ctx x) = false) &&
      decide ((c.slot slot).held = false) &&
      (match (s.taken r).put (slotQueue x slot).1 (slotQueue x slot).2 (some x) Config.commandType.toNat ws with | some v => decide (v.streamCheck x ws = none) && decide (((slicesOf ws).any fun g => (v.sliceEstimate x g).2) = false) | _ => false)) = true ∧
  -- 0.2
  (let s : State := (allOn (K ((up.setCtx 0 ctx0).updQueue 0 0x143 fun q => { q with enabled := true, quota := 16 }) .module 0x20 [mkWord [(0, 4, 3), (4, 1, 0), (32, 16, 2)], 0x1000#64, 0#64])); let r : Req := (reqU 0 .module [mkWord [(0, 4, 3), (4, 1, 0), (32, 16, 2)], 0x1000#64, 0#64]); let u : UnitId := .module; let a : W64 := (mkWord [(0, 4, 3), (4, 1, 0), (32, 16, 2)]); let b : W64 := 0x1000#64; let start : W64 := 0#64; let ws : List W64 := [1#64, 2#64]; let host : HostRead := (.ok [1#64, 2#64]); decide (s.asked r 0x0020 false anyClass u = true) && decide (reqArgs r 0x0020 = [a, b, start]) && let x := r.mb / 4; let slot := fld a 3 0; let n := fld a 47 32; let c := s.ctx x; decide (fld a 31 6 = 0) && decide (fld a 63 48 = 0) && decide (2 ≤ n) && decide ((bitAt a 4 = true ∧ fld b 63 48 = 0 ∧ b.toNat % 8 = 0 ∧ c.fastSpan b.toNat (8 * n) = true ∧ s.mem.space.syn = [] ∧ ws = s.mem.space.words (b.toNat / 8) n) ∨ (bitAt a 4 = false ∧ s.host.busMaster.contains (s.owner r.mb) = true ∧ host = .ok ws ∧ ws.length = n)) && decide (c.state = .stopped ∨ c.state = .active) && decide (s.fencedUnit (.ctx x) = false) && decide ((c.slot slot).held = false) && (match (s.taken r).put (slotQueue x slot).1 (slotQueue x slot).2 (some x) Config.commandType.toNat ws with | some v => let st := 56; decide (v.streamCheck x ws = some st ∨ (v.streamCheck x ws = none ∧ ((slicesOf ws).any fun g => (v.sliceEstimate x g).2) = true ∧ st = St.sliceTooLong)) | _ => false)) = true ∧
  -- 0.3
  (let s : State := (subSt ctx0 (mkWord [(0,4,3),(4,1,1),(5,1,1),(32,16,8)]) (0x200000#64) tiny (fun s => s.updQueue 0 0x143 fun q => { q with quota := 0 })); let r : Req := rqW17; let u : UnitId := .module; let a : W64 := (mkWord [(0,4,3),(4,1,1),(5,1,1),(32,16,8)]); let b : W64 := (0x200000#64); let start : W64 := 0#64; let ws : List W64 := tiny; let host : HostRead := (.fail 0); decide (s.asked r 0x0020 false anyClass u = true) && decide (reqArgs r 0x0020 = [a, b, start]) && let x := r.mb / 4; let slot := fld a 3 0; let n := fld a 47 32; let c := s.ctx x; decide (fld a 31 6 = 0) && decide (fld a 63 48 = 0) && decide (2 ≤ n) && decide ((bitAt a 4 = true ∧ fld b 63 48 = 0 ∧ b.toNat % 8 = 0 ∧ c.fastSpan b.toNat (8 * n) = true ∧ s.mem.space.syn = [] ∧ ws = s.mem.space.words (b.toNat / 8) n) ∨ (bitAt a 4 = false ∧ s.host.busMaster.contains (s.owner r.mb) = true ∧ host = .ok ws ∧ ws.length = n)) && decide (c.state = .stopped ∨ c.state = .active) && decide (s.fencedUnit (.ctx x) = false) && decide ((c.slot slot).held = false) && decide ((s.taken r).put (slotQueue x slot).1 (slotQueue x slot).2 (some x) Config.commandType.toNat ws = none)) = true ∧
  -- 1.0
  (let s : State := (subSt { ctx0 with state := .free } (mkWord [(0,4,3),(4,1,0),(32,16,8)]) (0x200000#64) tiny); let r : Req := rqW18;
      let u : UnitId := .module; let a : W64 := (mkWord [(0,4,3),(4,1,0),(32,16,8)]); let b : W64 := (0x200000#64); let start : W64 := 0#64;
      decide (s.asked r 0x0020 false anyClass u = true) && decide (reqArgs r 0x0020 = [a, b, start]) && decide (fld a 31 6 = 0) &&
      decide (fld a 63 48 = 0) && decide (2 ≤ fld a 47 32) && decide (bitAt a 4 = false) && decide ((s.ctx (r.mb / 4)).state = .free)) = true ∧
  -- 1.1
  (let s : State := (K (up.setCtx 0 { ctx0 with slots := [(3, { held := true })] }) .module 0x20 [mkWord [(0, 4, 3), (4, 1, 0), (32, 16, 8)], 0x1000#64, 0#64]); let r : Req := (reqU 0 .module [mkWord [(0, 4, 3), (4, 1, 0), (32, 16, 8)], 0x1000#64, 0#64]); let u : UnitId := .module; let a : W64 := (mkWord [(0, 4, 3), (4, 1, 0), (32, 16, 8)]); let b : W64 := 0x1000#64; let start : W64 := 0#64; decide (s.asked r 0x0020 false anyClass u = true) && decide (reqArgs r 0x0020 = [a, b, start]) && decide (fld a 31 6 = 0) && decide (fld a 63 48 = 0) && decide (2 ≤ fld a 47 32) && decide (bitAt a 4 = false) && decide ((s.ctx (r.mb / 4)).state ≠ .free) && decide (((s.ctx (r.mb / 4)).slot (fld a 3 0)).held = true)) = true ∧
  -- 1.2
  (let s : State := (subSt { ctx0 with state := .fenced } (mkWord [(0,4,3),(4,1,0),(32,16,8)]) (0x200000#64) tiny); let r : Req := rqW18;
      let u : UnitId := .module; let a : W64 := (mkWord [(0,4,3),(4,1,0),(32,16,8)]); let b : W64 := (0x200000#64); let start : W64 := 0#64;
      decide (s.asked r 0x0020 false anyClass u = true) && decide (reqArgs r 0x0020 = [a, b, start]) && decide (fld a 31 6 = 0) &&
      decide (fld a 63 48 = 0) && decide (2 ≤ fld a 47 32) && decide (bitAt a 4 = false) &&
      decide ((s.ctx (r.mb / 4)).state = .fenced ∨ (s.ctx (r.mb / 4)).state = .draining) &&
      decide (((s.ctx (r.mb / 4)).slot (fld a 3 0)).held = false)) = true ∧
  -- 3.0
  (let s : State := (ctxS 2 { ctx0 with slots := [(3, { streams := [{ strm with words := tiny, slices := 1 }] })] }); let x : Nat := 2;
      let slot : Nat := 3; let cmd : List W64 := (tiny.take 2); let t : Stream := ({ strm with words := tiny, slices := 1 });
      let rest : List Stream := []; decide (((s.ctx x).slot slot).streams = t :: rest) && decide (fld (cmd.getD 0 0#64) 7 0 = 1) &&
      decide (cmd = t.words.take 2) && decide (t.done = 0)) = true ∧
  -- 3.1
  (let s : State := (stT [(0, lits), (1, lits)]); let x : Nat := 2; let slot : Nat := 3; let cmd : List W64 := lits;
      let t : Stream := (strmT [(0, lits), (1, lits)]); let rest : List Stream := []; decide (((s.ctx x).slot slot).streams = t :: rest) &&
      decide (t.running.isSome = true) && (match t.nextIn cmd with | some kind => decide (fld (cmd.getD 0 0#64) 7 0 = 4) | _ => false)) = true ∧
  -- 3.2
  (let s : State := (stT [(0, mk77), (1, mk77)]); let x : Nat := 2; let slot : Nat := 3; let cmd : List W64 := mk77;
      let t : Stream := (strmT [(0, mk77), (1, mk77)]); let rest : List Stream := []; decide (((s.ctx x).slot slot).streams = t :: rest) &&
      decide (t.running.isSome = true) && (match t.nextIn cmd with | some kind => decide (fld (cmd.getD 0 0#64) 7 0 = 6) | _ => false)) = true ∧
  -- 3.3
  (let s : State := (stT [(0, kl), (1, kl)]); let x : Nat := 2; let slot : Nat := 3; let cmd : List W64 := kl;
      let t : Stream := (strmT [(0, kl), (1, kl)]); let rest : List Stream := []; decide (((s.ctx x).slot slot).streams = t :: rest) &&
      decide (t.running.isSome = true) &&
      (match t.nextIn cmd with | some kind => decide (fld (cmd.getD 0 0#64) 7 0 = 5) && decide (kind = 0) | _ => false)) = true ∧
  -- 4.0
  (let s : State := (ctxS 2 { ctx0 with slots := [(3, { streams := [{ strm with words := tiny, slices := 5, done := 7, running := some 0, started := true, drops := [(1,2)] }, strm] })], cyclesHeld := 4 }); let x : Nat := 2; let slot : Nat := 3; let begun : Nat := 0; let t : Stream := ({ strm with words := tiny, slices := 5, done := 7, running := some 0, started := true, drops := [(1,2)] }); let rest : List Stream := [strm]; decide (((s.ctx x).slot slot).streams = t :: rest) && decide (t.running = some begun) && decide (s.sliceBusy x slot t = false) && decide (t.failed = none) && decide (t.aborted = false) && decide (t.cancelled = false) && decide (s.mem.space.syn = []) && decide (t.done + 1 ≠ t.slices)) = true ∧
  (let s : State := (ctxS 2 { ctx0 with slots := [(3, { streams := [{ strm with words := tiny, slices := 5, done := 7, running := some 0, started := true, drops := [(1,2)] }, strm] })], cyclesHeld := 4 }); ∀ k, (s.core k).store.syn = []) ∧
  -- 4.1
  (let s : State := (ctxS 2 { ctx0 with slots := [(3, { streams := [{ strm with words := tiny, slices := 1, running := some 0, started := true }] })], cyclesHeld := 4 }); let x : Nat := 2; let slot : Nat := 3; let begun : Nat := 0; let t : Stream := ({ strm with words := tiny, slices := 1, running := some 0, started := true }); let rest : List Stream := []; decide (((s.ctx x).slot slot).streams = t :: rest) && decide (t.running = some begun) && decide (s.sliceBusy x slot t = false) && decide (t.failed = none) && decide (t.aborted = false) && decide (t.cancelled = false) && decide (s.mem.space.syn = []) && decide (t.done + 1 = t.slices)) = true ∧
  (let s : State := (ctxS 2 { ctx0 with slots := [(3, { streams := [{ strm with words := tiny, slices := 1, running := some 0, started := true }] })], cyclesHeld := 4 }); ∀ k, (s.core k).store.syn = []) ∧
  -- 5.0
  (let s : State := swS; let die : Nat := 1; let w : Switch := opW19; decide ((s.switches.find? fun w => w.die == die && !w.waiting) = some w) &&
      ((s.switches).all fun v => decide (v.die ≠ die → v.waiting = true))) = true ∧
  -- 5.1
  (let s : State := ({ (ctxS 2 { ctx0 with switching := true }) with switches := [{ die := 1, from_ := none, to_ := 2, started := 0, ns := 7 }] } : State); let die : Nat := 1; let w : Switch := ({ die := 1, from_ := none, to_ := 2, started := 0, ns := 7 } : Switch); decide ((s.switches.find? fun w => w.die == die && !w.waiting) = some w) && ((s.switches).all fun v => decide (v.die ≠ die → v.waiting = true)) && let upset := ([] : List (Nat × Nat × Nat)); decide (upset = [] ∨ w.from_ = none)) = true ∧
  -- 5.2
  (let s : State := swS; let die : Nat := 1; let w : Switch := opW19; decide ((s.switches.find? fun w => w.die == die && !w.waiting) = some w) &&
      ((s.switches).all fun v => decide (v.die ≠ die → v.waiting = true)) && (([0, 1, 2, 3, 5, 7, 8, 9, 16, 17, 40,
      63] : List Nat).any fun k => decide (k / 64 ≠ die))) = true ∧
  -- 5.3
  (let s : State := swS; let die : Nat := 1; let w : Switch := opW19; decide ((s.switches.find? fun w => w.die == die && !w.waiting) = some w) &&
      ((s.switches).all fun v => decide (v.die ≠ die → v.waiting = true)) && (([0, 1, 2, 3, 5, 7, 8, 9, 16, 17, 40,
      63] : List Nat).any fun i => decide (i < 64))) = true :=
  ⟨by decide +kernel, by decide +kernel, by decide +kernel, by decide +kernel, by decide +kernel, by decide +kernel, by decide +kernel,
      by decide +kernel, by decide +kernel, by decide +kernel, by decide +kernel, by decide +kernel, fun _ => rfl, by decide +kernel, fun _ => rfl,
      by decide +kernel, by decide +kernel, by decide +kernel, by decide +kernel⟩

/-- The hypotheses of UpdateCommandsReachTheirTiles can be met. -/
theorem witness_UpdateCommandsReachTheirTiles :
  -- 0.0
  (let s : State := (updSt (updCmd 64 0 1 0 12 12)); let x : Nat := 2; let slot : Nat := 3; let op : Nat := 64;
      let cmd : List W64 := (updCmd 64 0 1 0 12 12); let t : Stream := (updStrm (updCmd 64 0 1 0 12 12)); let rest : List Stream := [];
      let begun : Nat := 0; let c : Instr := (Instr.updStep 2 3 (updCmd 64 0 1 0 12 12)); decide ((op, c) ∈ [(0x40, Instr.updStep x slot cmd), (0x41,
      .updInit x slot cmd), (0x42, .updCarry x slot cmd), (0x43, .updCopy x slot cmd), (0x44, .updOuterDiff x slot cmd), (0x45,
      .updOuterApply x slot cmd), (0x46, .updRetire x slot cmd)]) && decide (((s.ctx x).slot slot).streams = t :: rest) &&
      decide (t.running = some begun) && decide (fld (cmd.getD 0 0#64) 7 0 = op) && decide (t.nextIn cmd = some 2) &&
      decide (s.mem.space.syn = []) && decide (s.mem.injArm = false) && decide (s.caddyRefusal = none)) = true ∧
  -- 0.1
  (let s : State := ((updSt (updCmd 64 0 1 0 12 12)).setUnit (.caddy 1) { fence := some .drain }); let x : Nat := 2; let slot : Nat := 3;
      let op : Nat := 64; let cmd : List W64 := (updCmd 64 0 1 0 12 12); let t : Stream := (updStrm (updCmd 64 0 1 0 12 12));
      let rest : List Stream := []; let begun : Nat := 0; let c : Instr := (Instr.updStep 2 3 (updCmd 64 0 1 0 12 12)); decide ((op, c) ∈ [(0x40,
      Instr.updStep x slot cmd), (0x41, .updInit x slot cmd), (0x42, .updCarry x slot cmd), (0x43, .updCopy x slot cmd), (0x44,
      .updOuterDiff x slot cmd), (0x45, .updOuterApply x slot cmd), (0x46, .updRetire x slot cmd)]) &&
      decide (((s.ctx x).slot slot).streams = t :: rest) && decide (t.running = some begun) && decide (fld (cmd.getD 0 0#64) 7 0 = op) &&
      decide (t.nextIn cmd = some 2) && decide (s.mem.space.syn = []) && decide (s.mem.injArm = false) &&
      (match s.caddyRefusal with | some st => true | _ => false)) = true ∧
  -- 1.0
  (let u : UCmd := (ucmdOf (updCmd 0x42 0 0 3 9 12)); let k := 1; (match u.nextTile k u.first with | some t => true | _ => false)) = true ∧
  -- 2.0
  (let s : State := (tileSt (updCmd 64 0 0 0 12 12) 1 0); let k : Nat := 1; let j : CaddyJob := (cjob (updCmd 64 0 0 0 12 12) 0); let t : Nat := 2;
      decide ((s.caddy k).tile k = some (j, t)) && decide (s.mem.injBits (33 + k) = []) && let u := ucmdOf j.cmd; decide (j.stop = false) &&
      decide ((u.nextTile k (t + 1)).isSome = true)) = true ∧
  -- 2.1
  (let s : State := ((updSt (updCmd 0x40 0 0 0 1 4)).updCaddy 0 fun c => { c with jobs := [{ cjob (updCmd 0x40 0 0 0 1 4) 0 with stop := true }], hand := some 6 }); let k : Nat := 0; let j : CaddyJob := ({ cjob (updCmd 0x40 0 0 0 1 4) 0 with stop := true } : CaddyJob); let t : Nat := 0; decide ((s.caddy k).tile k = some (j, t)) && decide (s.mem.injBits (33 + k) = []) && decide (j.stop = true) && decide (j.late = false)) = true ∧
  -- 2.2
  (let s : State := (tileSt (updCmd 65 0 0 0 12 12) 1 11); let k : Nat := 1; let j : CaddyJob := (cjob (updCmd 65 0 0 0 12 12) 11);
      let t : Nat := 11; decide ((s.caddy k).tile k = some (j, t)) && decide (s.mem.injBits (33 + k) = []) && let u := ucmdOf j.cmd;
      decide (j.stop = false) && decide ((u.nextTile k (t + 1)).isSome = false) && decide (j.late = false)) = true ∧
  -- 3.0
  (let s : State := (tileSt (updCmd 0x42 0 0 0 12 12) 0 0); let j : CaddyJob := (cjob (updCmd 0x42 0 0 0 12 12) 0); let t : Nat := 0;
      let u := ucmdOf j.cmd; let v := (s.ctx j.ctx).upd; decide (u.op = 0x42) && decide (u.copyEn = false) && decide (u.base % 65536 = 0) &&
      decide (t < u.t) && decide (v.slot ≤ 1) && decide (s.mem.space.syn = []) && decide (s.mem.injArm = false) && (([0, 1, 2, 3, 5, 7, 8, 9, 16, 17,
      40, 63] : List Nat).any fun i => decide (i < planesS u.outer))) = true ∧
  -- 3.1
  (let s : State := (tileSt (updCmd 0x42 0 0 0 12 12) 0 0); let j : CaddyJob := (cjob (updCmd 0x42 0 0 0 12 12) 0); let t : Nat := 0;
      let u := ucmdOf j.cmd; let v := (s.ctx j.ctx).upd; decide (u.op = 0x42) && decide (u.copyEn = false) && decide (u.base % 65536 = 0) &&
      decide (t < u.t) && decide (v.slot ≤ 1) && decide (s.mem.space.syn = []) && decide (s.mem.injArm = false) && (([0, 1, 2, 3, 5, 7, 8, 9, 16, 17,
      40, 63] : List Nat).any fun b => decide (b < 64))) = true ∧
  -- 3.2
  (let s : State := (updSt (updCmd 0x42 0 0 0 1 4)); let j : CaddyJob := (cjob (updCmd 0x42 0 0 0 1 4) 1); let t : Nat := 1; let u := ucmdOf j.cmd;
      let v := (s.ctx j.ctx).upd; decide (u.op = 0x42) && decide (u.copyEn = false) && decide (u.base % 65536 = 0) && decide (t < u.t) &&
      decide (v.slot ≤ 1) && decide (s.mem.space.syn = []) && decide (s.mem.injArm = false) && let a := 0x200000;
      ((List.range (planesS u.outer)).all fun i => decide (¬ within (u.granule (u.plane (1 - v.slot) i) t) 65536 a)) &&
      decide (¬ within (u.header (1 - v.slot) t 0) 512 a)) = true :=
  by
  and_intros <;> decide +kernel

/-- The hypotheses of LinksTakeSendReplayAndTrain can be met. -/
theorem witness_LinksTakeSendReplayAndTrain :
  -- 0.0
  (let s : State := stW20; let link : Nat := 5; let f : Frame := (frm (mkWord [(0,16,7)]) (mkWord [(0,6,32)]) []); decide (link < 48) &&
      decide ((s.link link).state = .trained) && let n := fld f.h1 5 0; decide (goodFrame f = true) && decide (1 ≤ n) && decide (n ≤ 32) &&
      decide (frameKind f = 0) && decide (ctrlFrame f = false) && decide (fld f.h0 15 0 = (s.link link).rxNext)) = true ∧
  -- 0.1
  (let s : State := stW20; let link : Nat := 5; let f : Frame := (frm (mkWord [(0,16,7)]) (mkWord [(0,6,0)]) []); decide (link < 48) &&
      decide ((s.link link).state = .trained) && let n := fld f.h1 5 0; decide (goodFrame f = false ∨ (ctrlFrame f = true ∧
      knownKind f = false) ∨ (ctrlFrame f = false ∧ (n = 0 ∨ 32 < n ∨ frameKind f ≠ 0)) ∨ (goodFrame f = true ∧ ctrlFrame f = false ∧
      4096 < ((s.link link).rxNext + 65536 - fld f.h0 15 0) % 65536))) = true ∧
  -- 0.2
  (let s : State := stW20; let link : Nat := 5; let f : Frame := opW21; decide (link < 48) && decide ((s.link link).state = .trained) &&
      let n := fld f.h1 5 0; decide (goodFrame f = true) && decide (1 ≤ n) && decide (n ≤ 32) && decide (frameKind f = 0) &&
      decide (ctrlFrame f = false) && decide (fld f.h0 15 0 ≠ (s.link link).rxNext) &&
      decide (((s.link link).rxNext + 65536 - fld f.h0 15 0) % 65536 ≤ 4096)) = true ∧
  -- 0.3
  (let s : State := stW20; let link : Nat := 5; let f : Frame := (frm (mkWord [(33,1,1),(40,3,2),(43,12,9)]) (mkWord [(0,6,1),(8,8,1)]) []);
      decide (link < 48) && decide ((s.link link).state = .trained) && decide (goodFrame f = true) && decide (ctrlFrame f = true) &&
      decide (frameKind f = 0x01) && decide ((s.link link).frames = []) && decide (bitAt f.h0 32 = false) && decide (fld f.h0 54 43 ≠ 0)) = true ∧
  -- 0.4
  (let s : State := stW22; let link : Nat := 5; decide (link < 48) && decide ((s.link link).state = .trained) &&
      decide ((s.link link).nak = true)) = true ∧
  -- 0.5
  (let s : State := stW22; let link : Nat := 5; decide (link < 48) && decide ((s.link link).state = .trained) &&
      decide ((s.link link).frames ≠ [])) = true ∧
  -- 0.6
  (let s : State := (lk 5 (fun l => { l with state := .trained, frames := [{ fseq := 3, words := [1#64], packet := 1, last := true }] }));
      let link : Nat := 5; let f : Frame := opW21; decide (link < 48) && decide ((s.link link).state = .trained) && let c := (Instr.ackStall 5);
      decide ((c = .ackStall link ∧ (s.link link).frames ≠ []) ∨ (c = .frameReplayLimit link ∧ ∃ f ∈ (s.link link).frames,
      8 ≤ f.replays) ∨ c = .codewordLockLost link)) = true ∧
  -- 1.0
  (let s : State := (lk 47 id); let link : Nat := 47; let vc : Nat := 7; let cells : Nat := 8160; decide (link < 48) && decide (vc < 8) &&
      decide (cells ≤ 8160) && decide ((s.link link).state = .down ∨ (s.link link).state = .training)) = true ∧
  -- 2.0
  (let s : State := up; let link : Nat := 5; let f : Frame := (frm (mkWord [(33,1,1)]) (mkWord [(0,6,1),(8,8,4)]) [0x1FF12345678#64]);
      decide (link < 48) && decide ((s.link link).state ∈ [LinkState.down, .training, .trained]) && decide (goodFrame f = true) &&
      decide (ctrlFrame f = true) && decide (frameKind f = 0x04)) = true ∧
  -- 3.0
  (let s : State := (lk 5 (fun l => { l with state := .trained, rxNext := 7 })); let link : Nat := 5; let f : Frame := opW24; decide (link < 48) &&
      decide (goodFrame f = false) && decide ((s.link link).state = .trained)) = true ∧
  -- 3.1
  (let s : State := up; let link : Nat := 5; let f : Frame := opW24; decide (link < 48) && decide (goodFrame f = false) &&
      decide ((s.link link).state ≠ .trained)) = true ∧
  -- 4.0
  (let s : State := up; let link : Nat := 5; decide (link < 48) && decide ((s.link link).state = .down ∨ (s.link link).state = .training) &&
      decide ((s.link link).far.on = false)) = true ∧
  -- 4.1
  (let s : State := up; let link : Nat := 5; decide (link < 48) && decide ((s.link link).state = .down ∨ (s.link link).state = .training)) = true ∧
  -- 5.0
  (let s : State := (F (fun f => { f with waiting := [tp 0 0 [5]], nextPacket := 9 }) (lk 5 (fun l => { l with state := .trained, jobTraffic := true, rxNext := 7, credits := [(2, { available := 50, sent := 4 })] }))); let link : Nat := 5; let p : TxPacket := (tp 0 0 [5]); decide (link < 48) && decide (s.nextPacket link = some p) && decide ((s.link link).frames.length + p.cells ≤ 4096)) = true ∧
  -- 6.0
  (let s : State := { (F (fun f => { f with waiting := [tp 0 4000 [5]] }) (lk 5 (fun l => { l with state := .trained, jobTraffic := true, rxNext := 7, credits := [(2, { available := 50, sent := 4 })] }))) with steep := { up.steep with count := 9 } }; let link : Nat := 5; let vc : Nat := 2; let p : TxPacket := (tp 0 4000 [5]); decide (link < 48) && decide (vc < 8) && decide ((s.link link).state = .trained) && decide (p ∈ s.fabric.waiting) && decide (p.vc = vc) && decide (p.far = false) && decide (link ∈ p.ports) && decide (s.usable p link = true) && decide (((s.link link).credit vc).available < p.cells) && decide (p.since + 2 ≤ s.now) && decide (((s.link link).credit vc).lastReturn + 2 ≤ s.now)) = true :=
  by
  and_intros <;> decide +kernel

/-- The hypotheses of FabricCommandsSetIdentityRoutesAndGroups can be met. -/
theorem witness_FabricCommandsSetIdentityRoutesAndGroups :
  -- 0.0
  (let s : State := (K up .module 0x100 (mkWord [(0,16,65535),(16,3,1)] :: (pathWords [0x1003, 0x2005])));
      let r : Req := (reqU 0 .module (mkWord [(0,16,65535),(16,3,1)] :: (pathWords [0x1003, 0x2005]))); let dn : Nat := 65535;
      let ps : List W64 := (pathWords [0x1003, 0x2005]);
      let p : Path := ((parsePath [0x1003, 0x2005]).getD { domain := none, groups := [], module := none, below := .module });
      decide (s.asked r 0x0100 false adminClass .module = true) && decide (dn < 65536) && decide (1 ≤ ps.length) && decide (ps.length ≤ 4) &&
      decide (pathWordsOk ps = true) && decide (parsePath (pathHops ps) = some p) && decide (p.domain = none) && decide (p.module.isSome = true) &&
      decide (p.below = .module) && decide (reqArgs r 0x0100 = mkWord [(0, 16, dn), (16, 3, ps.length)] :: ps) &&
      ((List.range (8)).all fun x => decide ((s.ctx x).state = .free))) = true ∧
  -- 0.1
  (let s : State := (K (ctxS 2 ctx0) .module 0x100 ([mkWord [(0, 16, 9), (16, 3, 1)]] ++ pathWords [0x2005]));
      let r : Req := (reqU 0 .module ([mkWord [(0, 16, 9), (16, 3, 1)]] ++ pathWords [0x2005])); let dn : Nat := 9;
      let ps : List W64 := (pathWords [0x2005]);
      let p : Path := ((parsePath (pathHops (pathWords [0x2005]))).getD { domain := none, module := none, groups := [], below := .module });
      decide (s.asked r 0x0100 false adminClass .module = true) && decide (dn < 65536) && decide (1 ≤ ps.length) && decide (ps.length ≤ 4) &&
      decide (pathWordsOk ps = true) && decide (parsePath (pathHops ps) = some p) && decide (p.domain = none) && decide (p.module.isSome = true) &&
      decide (p.below = .module) && decide (reqArgs r 0x0100 = mkWord [(0, 16, dn), (16, 3, ps.length)] :: ps) &&
      ((List.range 8).any fun x => decide ((s.ctx x).state ≠ .free))) = true ∧
  -- 1.0
  (let s : State := (K (lk 5 (fun l => { l with state := .trained, nbDn := 5, oneWayNs := 77 })) .module 0x101 [BitVec.ofNat 64 0]);
      let r : Req := (reqU 0 .module [BitVec.ofNat 64 0]); let u : UnitId := .module; let n : Nat := 0;
      decide (s.asked r 0x0101 false anyClass u = true) && decide (n = 0 ∨ n = 24) && decide (reqArgs r 0x0101 = [BitVec.ofNat 64 n])) = true ∧
  -- 2.0
  (let s : State := (K up .module 0x102 (mkWord [(0,3,7),(16,13,5),(32,6,3)] :: [0x00FFFFC500FC0145#64, 0x00FFFFFF#64])); let r : Req := rqW25;
      let set : Nat := 7; let first : Nat := 5; let n : Nat := 3; let ws : List W64 := [0x00FFFFC500FC0145#64, 0x00FFFFFF#64];
      decide (s.asked r 0x0102 false adminClass .module = true) && decide (set < 8) && decide (1 ≤ n) && decide (n ≤ 48) &&
      decide (first + n ≤ 8192) && decide (ws.length = (n + 1) / 2) && decide (reqArgs r 0x0102 = mkWord [(0, 3, set), (16, 13, first), (32, 6,
      n)] :: ws) && let e (i : Nat) := fld (ws.getD (i / 2) 0#64) (32 * (i % 2) + 31) (32 * (i % 2));
      ((List.range (n)).all fun i => decide (entryOk (e i) = true)) && let q := s.routeSet set; decide (q.keptSince = none)) = true ∧
  -- 2.1
  (let s : State := (K (rs (fun q => { q with live := 1, keptSince := some 3 }) 7) .module 0x102 (mkWord [(0,3,7),(16,13,5),(32,6,3)] :: [0x00FFFFC500FC0145#64, 0x00FFFFFF#64])); let r : Req := rqW25; let set : Nat := 7; let first : Nat := 5; let n : Nat := 3; let ws : List W64 := [0x00FFFFC500FC0145#64, 0x00FFFFFF#64]; decide (s.asked r 0x0102 false adminClass .module = true) && decide (set < 8) && decide (1 ≤ n) && decide (n ≤ 48) && decide (first + n ≤ 8192) && decide (ws.length = (n + 1) / 2) && decide (reqArgs r 0x0102 = mkWord [(0, 3, set), (16, 13, first), (32, 6, n)] :: ws) && let e (i : Nat) := fld (ws.getD (i / 2) 0#64) (32 * (i % 2) + 31) (32 * (i % 2)); ((List.range (n)).all fun i => decide (entryOk (e i) = true)) && let q := s.routeSet set; decide (q.keptSince ≠ none)) = true ∧
  -- 3.0
  (let s : State := (K up .module 0x103 (BitVec.ofNat 64 7 :: (List.range 5).map (fun i => mkWord [(0, 13, ([(0,0),(1,4096),(8191,1),(4096,4096),(5,5),(6,6),(7,7),(8,8),(9,9),(10,10)].getD (2 * i) (0, 0)).1), (14, 14, ([(0,0),(1,4096),(8191,1),(4096,4096),(5,5),(6,6),(7,7),(8,8),(9,9),(10,10)].getD (2 * i) (0, 0)).2), (32, 13, ([(0,0),(1,4096),(8191,1),(4096,4096),(5,5),(6,6),(7,7),(8,8),(9,9),(10,10)].getD (2 * i + 1) (0, 0)).1), (46, 14, ([(0,0),(1,4096),(8191,1),(4096,4096),(5,5),(6,6),(7,7),(8,8),(9,9),(10,10)].getD (2 * i + 1) (0, 0)).2)]))); let r : Req := rqW26; let set : Nat := 7; let ds : List (Nat × Nat) := opW27; decide (s.asked r 0x0103 false adminClass .module = true) && decide (set < 8) && decide (ds.length = 10) && ((ds).all fun p => decide (p.1 < 8192 ∧ p.2 ≤ 4096 ∧ p.1 + p.2 ≤ 8192)) && decide (reqArgs r 0x0103 = BitVec.ofNat 64 set :: (List.range 5).map (fun i => mkWord [(0, 13, (ds.getD (2 * i) (0, 0)).1), (14, 14, (ds.getD (2 * i) (0, 0)).2), (32, 13, (ds.getD (2 * i + 1) (0, 0)).1), (46, 14, (ds.getD (2 * i + 1) (0, 0)).2)])) && decide ((s.routeSet set).keptSince = none)) = true ∧
  -- 3.1
  (let s : State := (K (rs (fun q => { q with live := 1, keptSince := some 3 }) 7) .module 0x103 (BitVec.ofNat 64 7 :: (List.range 5).map (fun i => mkWord [(0, 13, ([(0,0),(1,4096),(8191,1),(4096,4096),(5,5),(6,6),(7,7),(8,8),(9,9),(10,10)].getD (2 * i) (0, 0)).1), (14, 14, ([(0,0),(1,4096),(8191,1),(4096,4096),(5,5),(6,6),(7,7),(8,8),(9,9),(10,10)].getD (2 * i) (0, 0)).2), (32, 13, ([(0,0),(1,4096),(8191,1),(4096,4096),(5,5),(6,6),(7,7),(8,8),(9,9),(10,10)].getD (2 * i + 1) (0, 0)).1), (46, 14, ([(0,0),(1,4096),(8191,1),(4096,4096),(5,5),(6,6),(7,7),(8,8),(9,9),(10,10)].getD (2 * i + 1) (0, 0)).2)]))); let r : Req := rqW26; let set : Nat := 7; let ds : List (Nat × Nat) := opW27; decide (s.asked r 0x0103 false adminClass .module = true) && decide (set < 8) && decide (ds.length = 10) && ((ds).all fun p => decide (p.1 < 8192 ∧ p.2 ≤ 4096 ∧ p.1 + p.2 ≤ 8192)) && decide (reqArgs r 0x0103 = BitVec.ofNat 64 set :: (List.range 5).map (fun i => mkWord [(0, 13, (ds.getD (2 * i) (0, 0)).1), (14, 14, (ds.getD (2 * i) (0, 0)).2), (32, 13, (ds.getD (2 * i + 1) (0, 0)).1), (46, 14, (ds.getD (2 * i + 1) (0, 0)).2)])) && decide ((s.routeSet set).keptSince ≠ none)) = true ∧
  -- 4.0
  (let s : State := (K up .module 0x104 [BitVec.ofNat 64 0, 8#64]); let r : Req := (reqU 0 .module [BitVec.ofNat 64 0, 8#64]); let mask : Nat := 0;
      let at_ : Nat := 8; decide (s.asked r 0x0104 false adminClass .module = true) && decide (mask < 256) && decide (s.now + 8 ≤ at_) &&
      decide (at_ < 2 ^ 64) && decide (reqArgs r 0x0104 = [BitVec.ofNat 64 mask, BitVec.ofNat 64 at_]) &&
      ((List.range (8)).all fun n => decide (Nat.testBit mask n = true → (s.routeSet n).keptSince = none))) = true ∧
  -- 4.1
  (let s : State := (K (rs (fun r => { r with keptSince := some 3 }) 1 (cnt 20)) .module 0x104 [3#64, 40#64]);
      let r : Req := (reqU 0 .module [3#64, 40#64]); let mask : Nat := 3; let at_ : Nat := 40;
      decide (s.asked r 0x0104 false adminClass .module = true) && decide (mask < 256) && decide (s.now + 8 ≤ at_) && decide (at_ < 2 ^ 64) &&
      decide (reqArgs r 0x0104 = [BitVec.ofNat 64 mask, BitVec.ofNat 64 at_]) && ((List.range 8).any fun n => decide (Nat.testBit mask n = true ∧
      (s.routeSet n).keptSince ≠ none))) = true ∧
  -- 5.0
  (let s : State := (K up .module 0x105 [47#64, 0x0202020202020202#64]); let r : Req := (reqU 0 .module [47#64, 0x0202020202020202#64]);
      let l : Nat := 47; let w : W64 := 0x0202020202020202#64; decide (s.asked r 0x0105 false adminClass .module = true) && decide (l < 48) &&
      ((List.range (8)).all fun v => decide (2 ≤ fld w (8 * v + 7) (8 * v))) && decide (reqArgs r 0x0105 = [BitVec.ofNat 64 l, w])) = true ∧
  -- 6.0
  (let s : State := (K up .module 0x106 [5#64]); let r : Req := (reqU 0 .module [5#64]); let l : Nat := 5;
      decide (s.asked r 0x0106 false adminClass .module = true) && decide (l < 48) && decide (reqArgs r 0x0106 = [BitVec.ofNat 64 l])) = true ∧
  -- 7.0
  (let s : State := (K { (F (fun f => { f with dn := 9 }) (ctxS 0 ctx0)) with mem := { up.mem with space := up.mem.space.storeWords 0x40000 [mkWord [(0,16,9),(16,16,8),(32,16,7),(48,16,6)], mkWord [(0,16,0),(16,16,2),(32,16,1),(48,16,3)], mkWord [(0,16,3),(16,16,2),(32,16,1),(48,16,0)]] } } .module 0x107 [mkWord [(0,4,0),(4,5,1),(16,17,4),(33,17,8)], 0x200000#64]); let r : Req := (reqU 0 .module [mkWord [(0,4,0),(4,5,1),(16,17,4),(33,17,8)], 0x200000#64]); let u : UnitId := .module; let id : Nat := 0; let lanes : Nat := 1; let n : Nat := 4; let g : Nat := 8; let addr : Nat := 0x200000; decide (s.asked r 0x0107 false anyClass u = true) && decide (id < 16) && decide (1 ≤ lanes) && decide (lanes ≤ 16) && decide (1 ≤ n) && decide (n ≤ 65536) && decide (g < 131072) && decide (addr < 2 ^ 48) && decide (reqArgs r 0x0107 = [mkWord [(0, 4, id), (4, 5, lanes), (16, 17, n), (33, 17, g)], BitVec.ofNat 64 addr]) && let c := s.ctx (r.mb / 4); decide (c.state ≠ .free) && decide (c.fastSpan addr (2 * n * (1 + lanes)) = true) && decide (c.busy = false) && decide (s.mem.space.syn = [])) = true ∧
  -- 8.0
  (let s : State := (K (ctxS 0 ctx0) .module 0x108 (mkWord [(0,3,7),(4,2,([] : List (List W64)).length)] :: ([] : List (List W64)).flatten));
      let r : Req := (reqU 0 .module (mkWord [(0,3,7),(4,2,([] : List (List W64)).length)] :: ([] : List (List W64)).flatten));
      let u : UnitId := .module; let id : Nat := 7; let ps : List (List W64) := []; decide (s.asked r 0x0108 false anyClass u = true) &&
      decide (id < 8) && decide (ps.length ≤ 2) && ((ps).all fun p => decide (modulePathOk p = true)) && decide (reqArgs r 0x0108 = mkWord [(0, 3,
      id), (4, 2, ps.length)] :: ps.flatten) && decide (splitPaths 16 ps.flatten = some ps) && decide ((s.ctx (r.mb / 4)).state ≠ .free)) = true :=
  by
  and_intros <;> decide +kernel

/-- The hypotheses of CollectivesStartTakeAndComplete can be met. -/
theorem witness_CollectivesStartTakeAndComplete :
  -- 0.0
  (let s : State := (fenceS (.iod 1) (collSt (collCmd 0x20 7))); let x : Nat := 2; let slot : Nat := 3; let op : Nat := 0x20;
      let cmd : List W64 := (collCmd 0x20 7); let t : Stream := (cstrm (collCmd 0x20 7)); let rest : List Stream := [];
      let c : Instr := (.collRs 2 3 (collCmd 0x20 7)); decide ((op, c) ∈ [(0x20, Instr.collRs x slot cmd), (0x21, .collAg x slot cmd), (0x22,
      .collAr x slot cmd), (0x23, .collCodecAr x slot cmd), (0x24, .collBcast x slot cmd), (0x25, .collBarrier x slot cmd), (0x26,
      .collSend x slot cmd), (0x27, .collRecv x slot cmd)]) && decide (((s.ctx x).slot slot).streams = t :: rest) &&
      decide (t.running.isSome = true) && decide (fld (cmd.getD 0 0#64) 7 0 = op) && decide (t.nextIn cmd = some 1) &&
      let id := fld (cmd.getD 2 0#64) 31 0; decide (s.collOp x id = none) && decide (s.enginesFenced = true)) = true ∧
  -- 0.1
  (let s : State := (collSt (collCmd 38 7) []); let x : Nat := 2; let slot : Nat := 3; let op : Nat := 38; let cmd : List W64 := (collCmd 38 7);
      let t : Stream := (cstrm (collCmd 38 7)); let rest : List Stream := []; let c : Instr := (Instr.collSend 2 3 (collCmd 38 7)); decide ((op,
      c) ∈ [(0x20, Instr.collRs x slot cmd), (0x21, .collAg x slot cmd), (0x22, .collAr x slot cmd), (0x23, .collCodecAr x slot cmd), (0x24,
      .collBcast x slot cmd), (0x25, .collBarrier x slot cmd), (0x26, .collSend x slot cmd), (0x27, .collRecv x slot cmd)]) &&
      decide (((s.ctx x).slot slot).streams = t :: rest) && decide (t.running.isSome = true) && decide (fld (cmd.getD 0 0#64) 7 0 = op) &&
      decide (t.nextIn cmd = some 1) && let id := fld (cmd.getD 2 0#64) 31 0; let group := (s.ctx x).groups.find (fld (cmd.getD 0 0#64) 19 16);
      decide (s.collOp x id = none) && decide (s.enginesFenced = false) && decide (op = 0x26 ∨ op = 0x27 ∨ group.isSome = true)) = true ∧
  -- 0.2
  (let s : State := (collSt (collCmd 32 7) []); let x : Nat := 2; let slot : Nat := 3; let op : Nat := 32; let cmd : List W64 := (collCmd 32 7);
      let t : Stream := (cstrm (collCmd 32 7)); let rest : List Stream := []; let c : Instr := (Instr.collRs 2 3 (collCmd 32 7)); decide ((op,
      c) ∈ [(0x20, Instr.collRs x slot cmd), (0x21, .collAg x slot cmd), (0x22, .collAr x slot cmd), (0x23, .collCodecAr x slot cmd), (0x24,
      .collBcast x slot cmd), (0x25, .collBarrier x slot cmd), (0x26, .collSend x slot cmd), (0x27, .collRecv x slot cmd)]) &&
      decide (((s.ctx x).slot slot).streams = t :: rest) && decide (t.running.isSome = true) && decide (fld (cmd.getD 0 0#64) 7 0 = op) &&
      decide (t.nextIn cmd = some 1) && let id := fld (cmd.getD 2 0#64) 31 0; let group := (s.ctx x).groups.find (fld (cmd.getD 0 0#64) 19 16);
      decide (s.collOp x id = none) && decide (s.enginesFenced = false) && decide (op ≠ 0x26) && decide (op ≠ 0x27) && decide (group = none)) = true ∧
  -- 1.0
  (let p : CollSt := (opened (.collRs 2 3 (collCmd 32 7)) (collSt (collCmd 32 7) [(3, grp 4 2)]) 2 7); let u : Nat := 1; let o := p.2;
      decide (o.c.codec = false) && decide (p.1.mem.space.syn = []) && decide (o.k1 u < o.g)) = true ∧
  -- 1.1
  (let p : CollSt := (opened (.collSend 2 3 (collCmd 38 7)) (collSt (collCmd 38 7) []) 2 7); let u : Nat := 0; let o := p.2;
      decide (o.c.codec = false) && decide (p.1.mem.space.syn = []) && decide (o.k1 u = o.g) && decide (o.c.hier = false)) = true ∧
  -- 2.0
  (let s : State := (opened (.collRs 2 3 (collCmd 32 7)) (collSt (collCmd 32 7) [(3, grp 4 4)]) 2 7).1; let p : Pkt := opW28;
      let o : CollOp := (opened (.collRs 2 3 (collCmd 32 7)) (collSt (collCmd 32 7) [(3, grp 4 4)]) 2 7).2; let x := fld p.route 18 16;
      let h0 := p.body.getD 0 0#64; let h1 := p.body.getD 1 0#64; let id := fld h0 31 0; let s1 := s.tookPacket (fld p.route 15 8) p.body;
      decide (s.isEarly (fld p.route 63 48) = false) && decide (fld p.route 15 8 = 1 ∨ fld p.route 15 8 = 2) && decide (bitAt p.route 19 = true) &&
      decide (s.collOp x id = some o) && decide (o.mute = false) && decide (s1.shuns (fld p.route 47 32) = false) &&
      decide (fld h1 63 48 = o.group.check) && decide (fld h1 47 40 = o.c.step % 256) && decide (o.seen.contains (h0.toNat,
      fld h1 39 0) = false)) = true ∧
  -- 2.1
  (let s : State := (opened (.collAg 2 3 (collCmd 33 7)) (collSt (collCmd 33 7) [(3, grp 4 4)]) 2 7).1;
      let p : Pkt := { route := mkWord [(8,8,1),(16,3,2),(19,1,1),(32,16,8)], body := mkWord [(0,32,7)] :: mkWord [(0,40,0),(40,8,6),(48,16,4711)] :: List.replicate 40 0#64 }; let o : CollOp := (opened (.collAg 2 3 (collCmd 33 7)) (collSt (collCmd 33 7) [(3, grp 4 4)]) 2 7).2; let x := fld p.route 18 16; let h0 := p.body.getD 0 0#64; let h1 := p.body.getD 1 0#64; let id := fld h0 31 0; let s1 := s.tookPacket (fld p.route 15 8) p.body; decide (s.isEarly (fld p.route 63 48) = false) && decide (fld p.route 15 8 = 1 ∨ fld p.route 15 8 = 2) && decide (bitAt p.route 19 = true) && decide (s.collOp x id = some o) && decide (o.mute = false) && decide (s1.shuns (fld p.route 47 32) = false) && decide (fld h1 63 48 = o.group.check) && decide (fld h1 47 40 ≠ o.c.step % 256 ∨ o.seen.contains (h0.toNat, fld h1 39 0) = true)) = true ∧
  -- 2.2
  (let s : State := stW29; let p : Pkt := opW28; let o : CollOp := opW30; let x := fld p.route 18 16; let h0 := p.body.getD 0 0#64;
      let h1 := p.body.getD 1 0#64; let id := fld h0 31 0; let s1 := s.tookPacket (fld p.route 15 8) p.body;
      decide (s.isEarly (fld p.route 63 48) = false) && decide (fld p.route 15 8 = 1 ∨ fld p.route 15 8 = 2) && decide (bitAt p.route 19 = true) &&
      decide (s.collOp x id = some o) && decide (o.mute = false) && decide (s1.shuns (fld p.route 47 32) = false) &&
      decide (fld h1 63 48 ≠ o.group.check)) = true ∧
  -- 3.0
  (let s : State := up; let p : Pkt := { route := mkWord [(8,8,1),(16,3,2),(19,1,1),(32,16,8),(48,16,1)], body := [5#64] };
      decide (s.isEarly (fld p.route 63 48) = true)) = true ∧
  -- 4.0
  (let s : State := stW29; let x : Nat := 2; let id : Nat := 7; let o : CollOp := opW30; decide (s.collOp x id = some o) &&
      decide (o.complete = true)) = true ∧
  -- 4.1
  (let s : State := (opened (.collRecv 2 3 (collCmd 39 7)) (collSt (collCmd 39 7) []) 2 7).1; let x : Nat := 2; let id : Nat := 7;
      let o : CollOp := (opened (.collRecv 2 3 (collCmd 39 7)) (collSt (collCmd 39 7) []) 2 7).2; decide (s.collOp x id = some o) &&
      decide (o.complete = false) && decide (s.now < o.started + 2)) = true ∧
  -- 4.2
  (let s : State := { (opened (.collRecv 2 3 (collCmd 39 7)) (collSt (collCmd 39 7) [(3, grp 4 4)]) 2 7).1 with steep := { up.steep with count := 2 } }; let x : Nat := 2; let id : Nat := 7; let o : CollOp := (opened (.collRecv 2 3 (collCmd 39 7)) (collSt (collCmd 39 7) [(3, grp 4 4)]) 2 7).2; decide (s.collOp x id = some o) && decide (o.complete = false) && decide (o.started + 2 ≤ s.now)) = true :=
  by
  and_intros <;> decide +kernel

/-- The hypotheses of FarLinksSealHoldReplayAndRestart can be met. -/
theorem witness_FarLinksSealHoldReplayAndRestart :
  -- 1.0
  (let s : State := (K ({ (lk 5 (fun l => { l with far := { l.far with keys := [(0, fkey)] } })) with trust := { up.trust with farBuffers := 2 } } : State) .module 0x200 [mkWord [(0, 6, 5), (8, 4, 3)]]); let r : Req := rqW31; let n : Nat := 5; let site : Nat := 3; decide (s.asked r 0x0200 false adminClass .module = true) && decide (n < 48) && decide (site < 16) && decide (reqArgs r 0x0200 = [mkWord [(0, 6, n), (8, 4, site)]]) && let f := (s.link n).far; let b := 0; decide (f.on = false) && decide (s.freeBuffer = some b) && decide (f.keys ≠ []) && decide (s.poolGuarantees n farAlloc ≤ 262144) && decide (s.poolGuarantees n (s.link n).allocNext ≤ 262144)) = true ∧
  -- 1.1
  (let s : State := (K ({ ((List.range 16).foldl (fun s l => s.setLink l { s.link l with allocNext := 0xFFFFFFFFFFFFFFFF#64, far := { (s.link l).far with keys := [(0, fkey)] } }) up) with trust := { up.trust with farBuffers := 2 } } : State) .module 0x200 [mkWord [(0, 6, 5), (8, 4, 3)]]); let r : Req := rqW31; let n : Nat := 5; let site : Nat := 3; decide (s.asked r 0x0200 false adminClass .module = true) && decide (n < 48) && decide (site < 16) && decide (reqArgs r 0x0200 = [mkWord [(0, 6, n), (8, 4, site)]]) && let f := (s.link n).far; decide (f.on = false) && decide (s.freeBuffer ≠ none) && decide (f.keys ≠ []) && decide (262144 < s.poolGuarantees n farAlloc ∨ 262144 < s.poolGuarantees n (s.link n).allocNext)) = true ∧
  -- 1.2
  (let s : State := (K (lk 47 fun l => { l with far := { on := true, keys := [(0, fkey)] } }) .module 0x200 [mkWord [(0,6,47),(8,4,15)]]);
      let r : Req := (reqU 0 .module [mkWord [(0,6,47),(8,4,15)]]); let n : Nat := 47; let site : Nat := 15;
      decide (s.asked r 0x0200 false adminClass .module = true) && decide (n < 48) && decide (site < 16) && decide (reqArgs r 0x0200 = [mkWord [(0,
      6, n), (8, 4, site)]]) && let f := (s.link n).far; decide (f.on = true)) = true ∧
  -- 1.3
  (let s : State := (K up .module 0x200 [mkWord [(0,6,47),(8,4,15)]]); let r : Req := (reqU 0 .module [mkWord [(0,6,47),(8,4,15)]]);
      let n : Nat := 47; let site : Nat := 15; decide (s.asked r 0x0200 false adminClass .module = true) && decide (n < 48) && decide (site < 16) &&
      decide (reqArgs r 0x0200 = [mkWord [(0, 6, n), (8, 4, site)]]) && let f := (s.link n).far; decide (f.on = false) &&
      decide (s.freeBuffer = none)) = true ∧
  -- 1.4
  (let s : State := (K ({ up with trust := { up.trust with farBuffers := 2 } } : State) .module 0x200 [mkWord [(0, 6, 5), (8, 4, 3)]]);
      let r : Req := rqW31; let n : Nat := 5; let site : Nat := 3; decide (s.asked r 0x0200 false adminClass .module = true) && decide (n < 48) &&
      decide (site < 16) && decide (reqArgs r 0x0200 = [mkWord [(0, 6, n), (8, 4, site)]]) && let f := (s.link n).far; decide (f.on = false) &&
      decide (s.freeBuffer ≠ none) && decide (f.keys = [])) = true ∧
  -- 2.0
  (let s : State := (K { (lk 47 fun l => { l with far := { on := true, keys := [(0, fkey)], held := [heldF 3 true true], freeSlots := 1519103 }, state := .far }) with mem := { up.mem with farBuffers := [(0, 3),(1,47)] } } .module 0x201 [47#64]); let r : Req := (reqU 0 .module [47#64]); let n : Nat := 47; decide (s.asked r 0x0201 false adminClass .module = true) && decide (n < 48) && decide (reqArgs r 0x0201 = [BitVec.ofNat 64 n]) && decide ((s.link n).far.on = true)) = true ∧
  -- 2.1
  (let s : State := (K up .module 0x201 [47#64]); let r : Req := (reqU 0 .module [47#64]); let n : Nat := 47;
      decide (s.asked r 0x0201 false adminClass .module = true) && decide (n < 48) && decide (reqArgs r 0x0201 = [BitVec.ofNat 64 n]) &&
      decide ((s.link n).far.on = false)) = true ∧
  -- 3.0
  (let s : State := (K (keyS 2 up) .module 0x202 [mkWord [(0, 6, 5), (8, 1, 0)], mkWord [(0, 32, hnd 2), (32, 32, 7)]]); let r : Req := rqW32;
      let n : Nat := 5; let slot : Nat := 0; let handle : Nat := (hnd 2); let salt : Nat := 7; let i : Nat := 5; let e : KeyEntry := opW33;
      decide (s.asked r 0x0202 false adminClass .module = true) && decide (n < 48) && decide (slot < 2) && decide (handle < 2 ^ 32) &&
      decide (salt < 2 ^ 32) && decide (s.trust.resolve handle = some (i, e)) && decide (reqArgs r 0x0202 = [mkWord [(0, 6, n), (8, 1, slot)],
      mkWord [(0, 32, handle), (32, 32, salt)]]) && decide (e.kind = 2) && decide ((s.link n).sendsWith slot = false) &&
      (match (s.link n).far.keys.find slot with | some q => (match q.accepted with | some k => decide (k + 16 ≤ s.now) | _ => true) | _ => true)) = true ∧
  -- 3.1
  (let s : State := (K (keyS 1 up) .module 0x202 [mkWord [(0,6,47),(8,1,1)], mkWord [(0,32,hnd 1),(32,32,77)]]);
      let r : Req := (reqU 0 .module [mkWord [(0,6,47),(8,1,1)], mkWord [(0,32,hnd 1),(32,32,77)]]); let n : Nat := 47; let slot : Nat := 1;
      let handle : Nat := (hnd 1); let salt : Nat := 77; let i : Nat := 5; let e : KeyEntry := { kind := 1, ctx := 0, gen := 2, key := keyW };
      decide (s.asked r 0x0202 false adminClass .module = true) && decide (n < 48) && decide (slot < 2) && decide (handle < 2 ^ 32) &&
      decide (salt < 2 ^ 32) && decide (s.trust.resolve handle = some (i, e)) && decide (reqArgs r 0x0202 = [mkWord [(0, 6, n), (8, 1, slot)],
      mkWord [(0, 32, handle), (32, 32, salt)]]) && decide (e.kind ≠ 2)) = true ∧
  -- 3.2
  (let s : State := (K (keyS 2 (fl 5 id)) .module 0x202 [mkWord [(0, 6, 5), (8, 1, 0)], mkWord [(0, 32, hnd 2), (32, 32, 7)]]); let r : Req := rqW32;
      let n : Nat := 5; let slot : Nat := 0; let handle : Nat := (hnd 2); let salt : Nat := 7; let i : Nat := 5; let e : KeyEntry := opW33;
      decide (s.asked r 0x0202 false adminClass .module = true) && decide (n < 48) && decide (slot < 2) && decide (handle < 2 ^ 32) &&
      decide (salt < 2 ^ 32) && decide (s.trust.resolve handle = some (i, e)) && decide (reqArgs r 0x0202 = [mkWord [(0, 6, n), (8, 1, slot)],
      mkWord [(0, 32, handle), (32, 32, salt)]]) && decide (e.kind = 2) && decide ((s.link n).sendsWith slot = true)) = true ∧
  -- 4.0
  (let s : State := (K up .module 0x203 [mkWord [(0,6,47),(8,1,1)], 9#64]); let r : Req := (reqU 0 .module [mkWord [(0,6,47),(8,1,1)], 9#64]);
      let n : Nat := 47; let slot : Nat := 1; let at_ : Nat := 9; decide (s.asked r 0x0203 false adminClass .module = true) && decide (n < 48) &&
      decide (slot < 2) && decide (s.now < at_) && decide (at_ < 2 ^ 64) && decide (reqArgs r 0x0203 = [mkWord [(0, 6, n), (8, 1, slot)],
      BitVec.ofNat 64 at_])) = true ∧
  -- 5.0
  (let s : State := (okSite (lk 5 (fun l => { l with nbSite := 3, nbDnValid := true, nbDn := 8 }) (fl 5 (fun f => { f with discovered := true, held := [heldF 3 true true, heldF 4 false true] }) .training))); let l : Nat := 5; decide (l < 48) && decide ((s.link l).far.on = true) && decide ((s.link l).state = .training) && decide ((s.link l).far.discovered = true) && decide (s.farSiteOk l = true)) = true ∧
  -- 5.1
  (let s : State := (fl 5 (fun f => { f with discovered := true, site := 0 }) .training); let l : Nat := 5; decide (l < 48) &&
      decide ((s.link l).far.on = true) && decide ((s.link l).state = .training) && decide ((s.link l).far.discovered = true) &&
      decide (s.farSiteOk l = false)) = true ∧
  -- 6.0
  (let s : State := (fl 5 (fun f => { f with rxCount := 7, rxStart := 7, rxCtl := 3, held := [heldF 3 true true, heldF 4 true true, heldF 5 false false], txCount := 6, freeSlots := 1519101 })); let l : Nat := 5; let f : FarFrame := { words := [], uncorr := false, symbols := 0, lost := 0 }; decide (l < 48) && decide ((s.link l).state = .far) && decide (farCtrl f = false) && decide (s.farOpen l f = none)) = true ∧
  -- 7.0
  (let s : State := (fl 5 id); let l : Nat := 5; decide (l < 48) && decide ((s.link l).state = .far)) = true ∧
  -- 7.1
  (let s : State := (fl 5 (fun f => { f with holding := true, held := [heldF 3 true true, heldF 4 true true, heldF 5 false false] }));
      let l : Nat := 5; decide (l < 48) && let f := (s.link l).far; decide (f.holding = true)) = true ∧
  -- 7.2
  (let s : State := (fl 5 id); let l : Nat := 5; decide (l < 48) && let f := (s.link l).far; decide ((s.link l).state = .far) &&
      decide (f.holding = false) && decide ((f.keys.find f.sendSlot).isSome = true)) = true ∧
  -- 7.3
  (let s : State := (fl 5 fun f => { f with held := [heldF 3 true true] }); let l : Nat := 5; decide (l < 48) && let f := (s.link l).far;
      let c := (Instr.farAckStall 5); decide ((c = .farAckStall l ∧ (s.link l).state = .far ∧ f.held ≠ []) ∨ (c = .farRetrainTimeout l ∧
      f.on = true ∧ (s.link l).state = .training))) = true ∧
  -- 7.4
  (let s : State := (fl 5 (fun f => { f with tagFails := 64, keys := [(0, { fkey with sent := 1099511627776 }), (1, { fkey with sent := 1099511627777 })], rxStart := 3, rxCount := 4 })); let l : Nat := 5; decide (l < 48) && let f := (s.link l).far; decide (64 ≤ f.tagFails)) = true ∧
  -- 7.5
  (let s : State := (fl 5 fun f => { f with keys := [(0, { fkey with sent := 0x10000000000 })] }); let l : Nat := 5; decide (l < 48) &&
      let f := (s.link l).far; let e := (0, { fkey with sent := 0x10000000000 }); decide ((f.keys.find? fun e => 2 ^ 40 ≤ e.2.sent &&
      !e.2.aged) = some e)) = true ∧
  -- 7.6
  (let s : State := (F (fun f => { f with waiting := [({ tp 7 20 [5] with far := true } : TxPacket)] }) (fl 5 id)); let l : Nat := 5;
      decide (l < 48) && let p := ({ tp 7 20 [5] with far := true } : TxPacket); decide ((s.fabric.waiting.find? fun t => t.far &&
      (t.ports.find? fun p => s.usable t p && t.cells ≤ (s.link p).far.freeSlots) == some l) = some p)) = true ∧
  ((∀ l, (up.link l).far.conserved) ∧ ∃ t, exec (.farKeyAge 5) up = .next t) :=
  ⟨by decide +kernel, by decide +kernel, by decide +kernel, by decide +kernel, by decide +kernel, by decide +kernel, by decide +kernel,
      by decide +kernel, by decide +kernel, by decide +kernel, by decide +kernel, by decide +kernel, by decide +kernel, by decide +kernel,
      by decide +kernel, by decide +kernel, by decide +kernel, by decide +kernel, by decide +kernel, by decide +kernel, by decide +kernel,
      ⟨fun _ => rfl, _, rfl⟩⟩

/-- The hypotheses of OuterRoundsAreDecidedAndMerged can be met. -/
theorem witness_OuterRoundsAreDecidedAndMerged :
  -- 0.0
  (let s : State := (withReq (outS id) (reqU 8 .module ([(mkWord [(0,32,77),(32,10,16),(42,4,1),(46,6,0),(52,1,0),(53,1,1),(56,4,6)]), (mkWord [(0,13,64),(13,3,2),(16,16,21),(32,8,0),(40,8,3)]), BitVec.ofNat 64 100, BitVec.ofNat 64 2097152, BitVec.ofNat 64 2359296, BitVec.ofNat 64 2424832, BitVec.ofNat 64 2490368, BitVec.ofNat 64 2686976, BitVec.ofNat 64 16384, BitVec.ofNat 64 3145728, BitVec.ofNat 64 1] ++ (pathWords [0x2007]))) 0x0204); let r : Req := rqW34; let u : UnitId := .module; let a : W64 := opW35; let b : W64 := opW36; let s0 : Nat := 100; let diff : Nat := 2097152; let hdr : Nat := 2359296; let resid : Nat := 2424832; let merge : Nat := 2490368; let mhdr : Nat := 2686976; let count : Nat := 16384; let table : Nat := 3145728; let n : Nat := 1; let lead : List W64 := (pathWords [0x2007]); decide (s.asked r 0x0204 false anyClass u = true) && let x := r.mb / 4; let c := s.ctx x; let wd (i : Nat) : W64 := BitVec.ofNat 64 i; decide (reqArgs r 0x0204 = [a, b, wd s0, wd diff, wd hdr, wd resid, wd merge, wd mhdr, wd count, wd table, wd n] ++ lead) && decide (s0 < 2 ^ 64) && (([diff, hdr, resid, merge, mhdr, table]).all fun v => decide (v < 2 ^ 48)) && decide (bitAt a 54 = false) && decide (bitAt a 55 = false) && decide (fld a 63 60 = 0) && decide (16 ≤ fld a 41 32) && decide (fld a 41 32 ≤ 512) && decide (fld a 45 42 ≠ 0) && decide (fld a 59 56 = 5 ∨ fld a 59 56 = 6) && decide (fld b 63 48 = 0) && decide (fld b 47 40 ≠ 0) && decide (Nat.testBit (fld b 31 16) s.fabric.site = true) && decide (2 ≤ popN 16 (fld b 31 16)) && decide (bitAt a 52 = true ∨ (1 ≤ fld b 12 0 ∧ fld b 12 0 ≤ 4096)) && decide (0 < count) && decide (count < 2 ^ 40) && decide (count % 16384 = 0) && decide (1 ≤ n) && decide (n ≤ 4) && decide (lead.length = n) && decide (modulePathOk lead = true) && decide (c.state ≠ .free) && decide (c.busy = false) && decide (s.mem.space.syn = []) && (( [(diff, if fld a 59 56 = 5 then 2 * count else 4 * count), (hdr, count / 32), (resid, 4 * count), (merge, 4 * count), (mhdr, count / 32), (table, 512)] : List (Nat × Nat)).all fun p => decide (c.fastSpan p.1 p.2 = true)) && let peer (j : Nat) : List W64 := let ws := s.mem.space.words (table / 8 + 4 * j) 4; ws.take (pathWordCount (fld (ws.getD 0 0#64) 3 0)); let g : OuterCfg := { id := fld a 31 0, h := fld a 41 32, lag := fld a 45 42, staleLimit := if fld a 51 46 = 0 then 8 else fld a 51 46, sign := bitAt a 52, sender := bitAt a 53, fmt := fld a 59 56, kBlk := fld b 12 0, chain := fld b 15 13, sites := fld b 31 16, touchSteeps := if fld b 39 32 = 0 then 16 else fld b 39 32, share := fld b 47 40, diff := diff, diffHdr := hdr, resid := resid, merge := merge, mergeHdr := mhdr, count := count, peers := (List.range 16).map peer, lead := lead }; ((List.range 8).all fun y => !(decide (y ≠ x)) || (match (s.ctx y).outer.cfg with | some q => decide (q.id = g.id → q.agrees g = true) | _ => true))) = true ∧
  -- 0.1
  (let s : State := (((withReq (outS id) (reqU 8 .module ([(mkWord [(0,32,77),(32,10,16),(42,4,1),(46,6,0),(52,1,0),(53,1,1),(56,4,6)]), (mkWord [(0,13,64),(13,3,2),(16,16,21),(32,8,0),(40,8,3)]), BitVec.ofNat 64 100, BitVec.ofNat 64 2097152, BitVec.ofNat 64 2359296, BitVec.ofNat 64 2424832, BitVec.ofNat 64 2490368, BitVec.ofNat 64 2686976, BitVec.ofNat 64 16384, BitVec.ofNat 64 3145728, BitVec.ofNat 64 1] ++ (pathWords [0x2007]))) 0x0204)).setCtx 5 { ctx0 with outer := { cfg := some { ocfg with id := fld (mkWord [(0,32,77),(32,10,16),(42,4,1),(46,6,0),(52,1,0),(53,1,1),(56,4,6)]) 31 0, h := fld (mkWord [(0,32,77),(32,10,16),(42,4,1),(46,6,0),(52,1,0),(53,1,1),(56,4,6)]) 41 32 + 1 } } }); let r : Req := rqW34; let u : UnitId := .module; let a : W64 := opW35; let b : W64 := opW36; let s0 : Nat := 100; let diff : Nat := 2097152; let hdr : Nat := 2359296; let resid : Nat := 2424832; let merge : Nat := 2490368; let mhdr : Nat := 2686976; let count : Nat := 16384; let table : Nat := 3145728; let n : Nat := 1; let lead : List W64 := (pathWords [0x2007]); decide (s.asked r 0x0204 false anyClass u = true) && let x := r.mb / 4; let c := s.ctx x; let wd (i : Nat) : W64 := BitVec.ofNat 64 i; decide (reqArgs r 0x0204 = [a, b, wd s0, wd diff, wd hdr, wd resid, wd merge, wd mhdr, wd count, wd table, wd n] ++ lead) && decide (s0 < 2 ^ 64) && (([diff, hdr, resid, merge, mhdr, table]).all fun v => decide (v < 2 ^ 48)) && decide (bitAt a 54 = false) && decide (bitAt a 55 = false) && decide (fld a 63 60 = 0) && decide (16 ≤ fld a 41 32) && decide (fld a 41 32 ≤ 512) && decide (fld a 45 42 ≠ 0) && decide (fld a 59 56 = 5 ∨ fld a 59 56 = 6) && decide (fld b 63 48 = 0) && decide (fld b 47 40 ≠ 0) && decide (Nat.testBit (fld b 31 16) s.fabric.site = true) && decide (2 ≤ popN 16 (fld b 31 16)) && decide (bitAt a 52 = true ∨ (1 ≤ fld b 12 0 ∧ fld b 12 0 ≤ 4096)) && decide (0 < count) && decide (count < 2 ^ 40) && decide (count % 16384 = 0) && decide (1 ≤ n) && decide (n ≤ 4) && decide (lead.length = n) && decide (modulePathOk lead = true) && decide (c.state ≠ .free) && decide (c.busy = false) && decide (s.mem.space.syn = []) && (( [(diff, if fld a 59 56 = 5 then 2 * count else 4 * count), (hdr, count / 32), (resid, 4 * count), (merge, 4 * count), (mhdr, count / 32), (table, 512)] : List (Nat × Nat)).all fun p => decide (c.fastSpan p.1 p.2 = true)) && let peer (j : Nat) : List W64 := let ws := s.mem.space.words (table / 8 + 4 * j) 4; ws.take (pathWordCount (fld (ws.getD 0 0#64) 3 0)); let g : OuterCfg := { id := fld a 31 0, h := fld a 41 32, lag := fld a 45 42, staleLimit := if fld a 51 46 = 0 then 8 else fld a 51 46, sign := bitAt a 52, sender := bitAt a 53, fmt := fld a 59 56, kBlk := fld b 12 0, chain := fld b 15 13, sites := fld b 31 16, touchSteeps := if fld b 39 32 = 0 then 16 else fld b 39 32, share := fld b 47 40, diff := diff, diffHdr := hdr, resid := resid, merge := merge, mergeHdr := mhdr, count := count, peers := (List.range 16).map peer, lead := lead }; ((List.range 8).any fun y => decide (y ≠ x) && (match (s.ctx y).outer.cfg with | some q => decide (q.id = g.id ∧ q.agrees g = false) | _ => false))) = true ∧
  -- 1.0
  (let s : State := (withReq (outS id) (reqU 8 .module [BitVec.ofNat 64 2]) 517); let r : Req := (reqU 8 .module [BitVec.ofNat 64 2]);
      let u : UnitId := .module; let donor : Nat := 2; let code : Nat := 517;
      let c : Instr := (Instr.outerJoin (reqU 8 .module [BitVec.ofNat 64 2])); decide ((code, c) ∈ [(0x0205, Instr.outerJoin r), (0x0206,
      .outerReanchor r)]) && decide (s.asked r code false anyClass u = true) && decide (donor < 16) &&
      decide (reqArgs r code = [BitVec.ofNat 64 donor]) && let o := (s.ctx (r.mb / 4)).outer;
      (match o.cfg with | some g => decide (donor ≠ s.fabric.site) && decide (Nat.testBit g.sites donor = true) && decide (o.reanchor = none) | _ => false)) = true ∧
  -- 1.1
  (let s : State := (withReq (ctxS 2 ctx0) (reqU 8 .module [BitVec.ofNat 64 0]) 517); let r : Req := (reqU 8 .module [BitVec.ofNat 64 0]);
      let u : UnitId := .module; let donor : Nat := 0; let code : Nat := 517;
      let c : Instr := (Instr.outerJoin (reqU 8 .module [BitVec.ofNat 64 0])); decide ((code, c) ∈ [(0x0205, Instr.outerJoin r), (0x0206,
      .outerReanchor r)]) && decide (s.asked r code false anyClass u = true) && decide (donor < 16) &&
      decide (reqArgs r code = [BitVec.ofNat 64 donor]) && let o := (s.ctx (r.mb / 4)).outer; decide (o.cfg = none)) = true ∧
  -- 1.2
  (let s : State := (withReq (outS id) (reqU 8 .module [BitVec.ofNat 64 3]) 517); let r : Req := (reqU 8 .module [BitVec.ofNat 64 3]);
      let u : UnitId := .module; let donor : Nat := 3; let code : Nat := 517;
      let c : Instr := (Instr.outerJoin (reqU 8 .module [BitVec.ofNat 64 3])); decide ((code, c) ∈ [(0x0205, Instr.outerJoin r), (0x0206,
      .outerReanchor r)]) && decide (s.asked r code false anyClass u = true) && decide (donor < 16) &&
      decide (reqArgs r code = [BitVec.ofNat 64 donor]) && let o := (s.ctx (r.mb / 4)).outer;
      (match o.cfg with | some g => decide (Nat.testBit g.sites donor = false) | _ => false)) = true ∧
  -- 2.0
  (let s : State := (outS id); let m : OuterMsg := (omsg 77 9 []); let x : Nat := 2; decide (s.outerCtx m.id = some x) &&
      decide (s.coordinates x = true)) = true ∧
  -- 2.1
  (let s : State := (outS id); let m : OuterMsg := (omsg 77 9 []); let x : Nat := 2; decide (s.outerCtx m.id = some x)) = true ∧
  -- 2.2
  (let s : State := (outS (fun o => { o with kept := [odiff 0 3 false [5#64]], gates := [(9, 5)] }) false);
      let m : OuterMsg := (omsg 77 4 [mkWord [(0,4,4),(8,1,0),(32,24,3)], 4#64, 5#64, 6#64]); let x : Nat := 2; decide (s.outerCtx m.id = some x) &&
      let w := m.words.getD 0 0#64;
      (match (s.ctx x).outer.cfg with | some g => (match ((s.ctx x).outer.kept.find? fun k => k.round == fld w 55 32 && k.merge == bitAt w 8) with | some d => true | _ => false) | _ => false)) = true ∧
  -- 2.3
  (let s : State := (outS id false); let m : OuterMsg := (omsg 77 9 []); let x : Nat := 2; decide (s.outerCtx m.id = some x) &&
      (match (s.ctx x).outer.cfg with | some g => decide (s.coordinates x = false) | _ => false)) = true ∧
  -- 3.0
  (let s : State := (outS (fun o => { o with gateMask := 0x15, touchMask := 0x15 })); let x : Nat := 2; let site : Nat := 0;
      let g : OuterCfg := ocfg; decide ((s.ctx x).outer.cfg = some g) && decide (Nat.testBit g.sites site = true) &&
      ((List.range (48)).all fun l => (!(decide ((s.link l).far.on = true)) || (!(decide ((s.link l).far.site = site)) || (match (s.link l).far.lastTime with | some k => decide (k + g.touchSteeps < s.now) | _ => true))))) = true ∧
  -- 4.0
  (let s : State := (F (fun f => { f with waiting := [{ tp 0 4 [5] with vc := 2 }, { tp 1 4 [5] with vc := 6, ctx := some 3 }] }) (outS fun o => { o with state := .sending })); let x : Nat := 2; decide ((s.ctx x).outer.state = .sending) && ((s.fabric.waiting).all fun p => decide (p.ctx ≠ some x ∨ p.vc ≠ 6)) && decide ((s.ctx x).outer.decision = none)) = true ∧
  -- 5.0
  (let s : State := { (outS (fun o => { o with state := .waiting, touchMask := 20, deadline := some 5, round := 0, have_ := [], late := [(2,1)] })) with steep := { up.steep with count := 5 } }; let x : Nat := 2; let k : Nat := 5; let g : OuterCfg := ocfg; let o := (s.ctx x).outer; decide (o.cfg = some g) && decide (s.coordinates x = true) && decide (o.deadline = some k) && decide (k ≤ s.now) && decide (o.state = .waiting) && decide (o.decision = none) && decide (o.mergeStep = none) && ((s.otherSites g).all fun j => decide (Nat.testBit o.touchMask j = true))) = true ∧
  -- 5.1
  (let s : State := { (outS (fun o => { o with state := .waiting, touchMask := 4, deadline := some 5, round := 0, have_ := [], late := [(2,1)] })) with steep := { up.steep with count := 5 } }; let x : Nat := 2; let k : Nat := 5; let g : OuterCfg := ocfg; let o := (s.ctx x).outer; decide (o.cfg = some g) && decide (s.coordinates x = true) && decide (o.deadline = some k) && decide (k ≤ s.now) && decide (o.state = .waiting) && decide (o.decision = none) && decide (o.mergeStep = none) && ((s.otherSites g).any fun j => decide (Nat.testBit o.touchMask j = false))) = true ∧
  -- 6.0
  (let s : State := (outS (fun o => { o with state := .waiting, round := 3, diffs := [odiff 2 3 false [5#64], odiff 4 1 false [6#64]] }) false);
      let m : OuterMsg := (omsg 77 4 [mkWord [(0,24,3),(32,16,5)]]); let x : Nat := 2; decide (s.outerCtx m.id = some x) && let o := (s.ctx x).outer;
      let w := m.words.getD 0 0#64; decide (o.state = .waiting) && decide (o.decision = none) && decide (o.mergeStep = none) &&
      decide (bitAt w 25 = false) && decide (fld w 23 0 = o.round)) = true ∧
  -- 7.0
  (let s : State := (outMem (outS (fun o => { o with state := .merging, round := 3, decision := some ⟨3, false, false, 4, []⟩ }))); let x : Nat := 2;
      let g : OuterCfg := ocfg; let d : OuterDecision := ⟨3, false, false, 4, []⟩; let o := (s.ctx x).outer; decide (o.cfg = some g) &&
      decide (o.decision = some d) && decide (o.state = .merging)) = true :=
  by
  and_intros <;> decide +kernel

/-- The hypotheses of StepsSealFailAndCommitInTwoPhases can be met. -/
theorem witness_StepsSealFailAndCommitInTwoPhases :
  -- 0.0
  (let s : State := (jobS (jobJ 0 4 [p5 .running])); let m : CommitMsg := (cm 101 1 5 12 0 9); let msg : Nat := 0x01;
      let c : Instr := (.sealMsg (cm 101 1 5 12 0 9)); decide ((msg, c) ∈ [(0x01, Instr.sealMsg m), (0x02, .stepFail m), (0x03, .ready m), (0x04,
      .commit m), (0x05, .abort m), (0x06, .query m), (0x07, .decision m), (0x08, .mirrorDone m)]) && decide (s.isEarly m.epoch = false) &&
      decide ((s.tookMsg m msg).shuns m.src = true ∨ (s.tookMsg m msg).ctxOfJob m.job = none)) = true ∧
  -- 0.1
  (let s : State := stW37; let m : CommitMsg := (cm 103 3 5 12 0 5 21); let msg : Nat := 0x01; let c : Instr := (.sealMsg (cm 103 3 5 12 0 5 21));
      decide ((msg, c) ∈ [(0x01, Instr.sealMsg m), (0x02, .stepFail m), (0x03, .ready m), (0x04, .commit m), (0x05, .abort m), (0x06, .query m),
      (0x07, .decision m), (0x08, .mirrorDone m)]) && decide (s.isEarly m.epoch = true)) = true ∧
  -- 2.0
  (let s : State := (jobS (jobJ 0 4 [])); let m : CommitMsg := (cm 100 0 7 2 0); let x : Nat := 2; decide (s.takesMsg m 0x01 x = true)) = true ∧
  -- 3.0
  (let s : State := stW37; let x : Nat := 2; let n : Nat := 13; let j := (s.ctx x).job; let e := j.epoch n; decide (j.member = true) &&
      decide (j.replay = none) && decide (n < s.now) && decide (e.dirty = false) && decide (e.unchecked = 0) && decide (e.ledger = []) &&
      decide (e.sealed_ = false)) = true ∧
  -- 3.1
  (let s : State := (jobS (jobJ 0 4 [])); let x : Nat := 2; let n : Nat := 12; let j := (s.ctx x).job; let e := j.epoch n;
      decide (s.now ≤ n ∨ e.dirty = true ∨ e.unchecked ≠ 0 ∨ e.ledger ≠ [])) = true ∧
  -- 3.2
  (let s : State := ((jobS (jobJ 0 4 [p5 .running, p6 .running] fun j => { j with epochs := [{ n := 13, dirty := true }] }))); let x : Nat := 2;
      let n : Nat := 13; let j := (s.ctx x).job; let e := j.epoch n; decide (e.sealed_ = false) && decide (e.dirty = true ∨ e.unchecked ≠ 0) &&
      decide (n + 4 ≤ s.now)) = true ∧
  -- 3.3
  (let s : State := (jobS (jobJ 0 4 [])); let x : Nat := 2; let n : Nat := 10; let j := (s.ctx x).job; let e := j.epoch n;
      decide (e.sealed_ = true ∨ s.now < n + 4)) = true ∧
  -- 3.4
  (let s : State := stW37; let x : Nat := 2; let n : Nat := 12; let j := (s.ctx x).job; let e := j.epoch n; let src := 103;
      let q := ({ n := 12, ledger := [(103, 12)], sentTo := [102, 103] } : Epoch); decide ((j.epochs.find? fun e => e.ledger.contains (src,
      n)) = some q) && decide (n + 4 ≤ s.now)) = true ∧
  -- 3.5
  (let s : State := (jobS (jobJ 0 4 [])); let x : Nat := 2; let n : Nat := 3; let j := (s.ctx x).job; (([0, 1, 2, 3, 5, 7, 8, 9, 16, 17, 40,
      63] : List Nat).any fun src => ((j.epochs).all fun q => decide ((src, n) ∉ q.ledger)))) = true ∧
  -- 4.0
  (let s : State := (jobS (jobJ 0 4 [p5 .running, p6 .running])); let x : Nat := 2; let n : Nat := 12; let p : StepSt := (p6 .running);
      decide ((s.ctx x).job.stepsOfEpoch n = [p])) = true ∧
  -- 5.0
  (let s : State := (jobS (jobJ 0 4 [p5 .running, p6 .running])); let x : Nat := 2; let n : Nat := 5; let p : StepSt := opW38;
      let j := (s.ctx x).job; decide (j.member = true) && decide (j.stepOf n = some p) && decide (p.failed = none) &&
      decide (p.phase = .running ∨ p.phase = .readySent)) = true ∧
  -- 5.1
  (let s : State := (jobS (jobJ 0 4 [p5 .running, p6 .running])); let x : Nat := 2; let n : Nat := 5; let p : StepSt := opW38;
      let j := (s.ctx x).job; decide (j.member = true) && decide (j.stepOf n = some p) && decide (p.failed = none) &&
      decide (p.phase = .running ∨ p.phase = .readySent) && decide (j.isLead = true)) = true ∧
  -- 6.0
  (let s : State := (jobS (jobJ 0 4 [{ p5 .running with readyFrom := [(1,1),(2,1),(3,1)] }])); let m : CommitMsg := (cm 102 2 5 2 1);
      let x : Nat := 2; decide (s.takesMsg m 0x02 x = true) && let s' := s.tookMsg m 0x02; let j := (s'.ctx x).job; decide (j.isLead = true) &&
      (match j.stepOf m.step with | some p => decide (p.phase = .running) | _ => false)) = true ∧
  -- 6.1
  (let s : State := stW39; let m : CommitMsg := (cm 103 3 5 12 1); let x : Nat := 2; decide (s.takesMsg m 0x02 x = true) &&
      let s' := s.tookMsg m 0x02; let j := (s'.ctx x).job; decide (j.isLead = false) && decide (m.cause = 0x01) &&
      (match (j.epochs.find? fun e => e.ledger.contains (m.src, m.arg.toNat)) with | some q => true | _ => false)) = true ∧
  -- 6.2
  (let s : State := (jobS (jobJ 3 4 [p5 .aborting, p6 .running])); let m : CommitMsg := (cm 103 3 5 1 0); let x : Nat := 2;
      decide (s.takesMsg m 0x02 x = true) && let s' := s.tookMsg m 0x02; let j := (s'.ctx x).job; decide (j.isLead = false) &&
      decide (m.cause ≠ 0x01)) = true ∧
  -- 7.0
  (let s : State := (jobS (jobJ 0 4 [p5 .running, p6 .running])); let m : CommitMsg := (cm 102 2 6 2 0); let x : Nat := 2;
      let p : StepSt := ((((State.tookMsg (jobS (jobJ 0 4 [p5 .running, p6 .running])) (cm 102 2 6 2 0) 5).ctx 2).job.stepOf 6).getD (p5 .idle));
      decide (s.takesMsg m 0x05 x = true) && let j := ((s.tookMsg m 0x05).ctx x).job; decide (j.stepOf m.step = some p) &&
      decide (p.phase ≠ .aborting)) = true ∧
  -- 8.0
  (let s : State := (jobS (jobJ 3 4 [p5 .running, p6 .running])); let x : Nat := 2;
      let p : StepSt := (((jobS (jobJ 3 4 [p5 .running, p6 .running])).ctx 2).job.steps.headD (p5 .idle));
      let rest : List StepSt := ((jobS (jobJ 3 4 [p5 .running, p6 .running])).ctx 2).job.steps.tail; let j := (s.ctx x).job;
      decide (j.steps = p :: rest) && decide (j.member = true) && decide (j.replay = none) && decide (p.phase = .running) &&
      decide (s.ready x p = true) && (match j.parent with | some r => decide (j.childrenReady p = true) | _ => false)) = true ∧
  -- 8.1
  (let s : State := (jobS (jobJ 1 20 [p5 .running, p6 .running])); let x : Nat := 2;
      let p : StepSt := (((jobS (jobJ 1 20 [p5 .running, p6 .running])).ctx 2).job.steps.headD (p5 .idle));
      let rest : List StepSt := ((jobS (jobJ 1 20 [p5 .running, p6 .running])).ctx 2).job.steps.tail; let j := (s.ctx x).job;
      decide (j.steps = p :: rest) && decide (j.member = true) && decide (j.replay = none) && decide (p.phase = .running) &&
      decide (s.ready x p = false ∨ (j.parent ≠ none ∧ j.childrenReady p = false))) = true ∧
  -- 8.2
  (let s : State := (jobS (jobJ 0 1 [p5 .running, p6 .running])); let x : Nat := 2;
      let p : StepSt := (((jobS (jobJ 0 1 [p5 .running, p6 .running])).ctx 2).job.steps.headD (p5 .idle));
      let rest : List StepSt := ((jobS (jobJ 0 1 [p5 .running, p6 .running])).ctx 2).job.steps.tail; let j := (s.ctx x).job;
      decide (j.steps = p :: rest) && decide (j.member = true) && decide (j.replay = none) && decide (p.phase = .running) &&
      decide (s.ready x p = true) && decide (j.isLead = true) && decide (j.childrenReady p = true) && decide (p.covered = j.live.length)) = true ∧
  -- 9.0
  (let s : State := (jobS (jobJ 0 4 [])); let m : CommitMsg := (cm 103 3 5 1 0); let x : Nat := 2; decide (s.takesMsg m 0x03 x = true) &&
      let j := ((s.tookMsg m 0x03).ctx x).job; decide (m.rank ∈ j.children)) = true ∧
  -- 9.1
  (let s : State := (jobS (jobJ 0 4 [])); let m : CommitMsg := (cm 109 9 7 1 0); let x : Nat := 2; decide (s.takesMsg m 0x03 x = true) &&
      let j := ((s.tookMsg m 0x03).ctx x).job; decide (m.rank ∉ j.children)) = true ∧
  -- 10.0
  (let s : State := (jobS (jobJ 0 4 [p5 .readySent, p6 .running])); let m : CommitMsg := (cm 101 1 5 12 0); let x : Nat := 2;
      decide (s.takesMsg m 0x04 x = true) && let s' := s.tookMsg m 0x04; let j := (s'.ctx x).job;
      (match j.stepOf m.step with | some p => decide (p.phase = .readySent) | _ => false)) = true ∧
  -- 10.1
  (let s : State := (jobS (jobJ 0 4 [])); let m : CommitMsg := (cm 103 3 6 1 0); let x : Nat := 2; decide (s.takesMsg m 0x04 x = true) &&
      let s' := s.tookMsg m 0x04; let j := (s'.ctx x).job;
      (match j.stepOf m.step with | some p => decide (p.phase ≠ .readySent) | _ => true)) = true ∧
  -- 11.0
  (let s : State := (jobS (jobJ 0 4 [])); let m : CommitMsg := (cm 100 0 6 2 0); let x : Nat := 2; decide (s.takesMsg m 0x06 x = true) &&
      let s' := s.tookMsg m 0x06; let j := (s'.ctx x).job; decide (j.isLead = true)) = true ∧
  -- 11.1
  (let s : State := stW40; let m : CommitMsg := (cm 102 2 4 0); let x : Nat := 2; decide (s.takesMsg m 0x06 x = true) && let s' := s.tookMsg m 0x06;
      let j := (s'.ctx x).job; decide (j.isLead = false) && decide (j.parent ≠ some m.rank) && decide (j.committed = m.step)) = true ∧
  -- 11.2
  (let s : State := (jobS (jobJ 1 20 [{ p5 .running with readyFrom := (List.range 8).map fun i => (9 + i, 1) }]));
      let m : CommitMsg := (cm 101 1 5 1 0); let x : Nat := 2; decide (s.takesMsg m 0x06 x = true) && let s' := s.tookMsg m 0x06;
      let j := (s'.ctx x).job; decide (j.isLead = false) && decide (j.parent ≠ some m.rank) && decide (j.committed ≠ m.step) &&
      (match j.stepOf m.step with | some p => decide (p.phase ≠ .commitPending) | _ => true)) = true ∧
  -- 11.3
  (let s : State := stW40; let m : CommitMsg := (cm 100 0 4 0); let x : Nat := 2; decide (s.takesMsg m 0x06 x = true) && let s' := s.tookMsg m 0x06;
      let j := (s'.ctx x).job; decide (j.isLead = false) && decide (j.parent = some m.rank) && decide (j.committed = m.step)) = true ∧
  -- 12.0
  (let s : State := stW41; let m : CommitMsg := (cm 101 1 5 1 0); let x : Nat := 2; decide (s.takesMsg m 0x07 x = true) &&
      let s' := s.tookMsg m 0x07; let j := (s'.ctx x).job; decide (j.takeover = none) && decide (m.arg = 1#64) &&
      (match j.stepOf m.step with | some p => decide (p.phase = .readySent) | _ => false)) = true ∧
  -- 12.1
  (let s : State := (jobS (jobJ 0 1 [p5 .running, p6 .running])); let m : CommitMsg := (cm 103 3 5 2 0); let x : Nat := 2;
      decide (s.takesMsg m 0x07 x = true) && let s' := s.tookMsg m 0x07; let j := (s'.ctx x).job; decide (j.takeover = none) &&
      decide (m.arg = 2#64) && (match j.stepOf m.step with | some p => decide (p.phase ≠ .aborting) | _ => false)) = true ∧
  -- 12.2
  (let s : State := (jobS (jobJ 0 4 [])); let m : CommitMsg := (cm 103 3 6 0 0); let x : Nat := 2; decide (s.takesMsg m 0x07 x = true) &&
      let s' := s.tookMsg m 0x07; let j := (s'.ctx x).job; decide (j.takeover = none) && decide (m.arg = 0#64)) = true ∧
  -- 12.3
  (let s : State := (jobS (jobJ 0 4 [{ p5 .running with readyFrom := [(1,1),(2,1),(3,1)] }, p6 .running] fun j => { j with takeover := some [2] }));
      let m : CommitMsg := (cm 101 1 5 1 0); let x : Nat := 2; decide (s.takesMsg m 0x07 x = true) && let s' := s.tookMsg m 0x07;
      let j := (s'.ctx x).job;
      (match j.takeover with | some w => (match j.stepOf m.step with | some p => decide (m.arg = 1#64) | _ => false) | _ => false)) = true ∧
  -- 12.4
  (let s : State := (jobS (jobJ 1 4 [p5 .running, p6 .running] fun j => { j with takeover := some [2, 3] })); let m : CommitMsg := (cm 102 2 5 0);
      let x : Nat := 2; decide (s.takesMsg m 0x07 x = true) && let s' := s.tookMsg m 0x07; let j := (s'.ctx x).job; let w := [2, 3];
      let p := (p5 .running); decide (j.takeover = some w) && decide (j.stepOf m.step = some p) && decide (m.arg = 0#64) &&
      ((w).any fun r => decide (r ≠ m.rank))) = true ∧
  -- 12.5
  (let s : State := (jobS (jobJ 1 4 [p5 .running, p6 .running] fun j => { j with takeover := some [2] })); let m : CommitMsg := (cm 102 2 5 0);
      let x : Nat := 2; decide (s.takesMsg m 0x07 x = true) && let s' := s.tookMsg m 0x07; let j := (s'.ctx x).job; let w := [2];
      let p := (p5 .running); decide (j.takeover = some w) && decide (j.stepOf m.step = some p) && decide (m.arg = 0#64) &&
      ((w).all fun r => decide (r = m.rank)) && decide (p.phase = .running)) = true ∧
  -- 13.0
  (let s : State := (jobS (jobJ 0 4 [])); let m : CommitMsg := (cm 101 1 5 1 0); let x : Nat := 2; decide (s.takesMsg m 0x08 x = true) &&
      let j := ((s.tookMsg m 0x08).ctx x).job; decide (j.buddy.map j.dnOf = some m.src)) = true ∧
  -- 13.1
  (let s : State := (jobS (jobJ 0 4 [])); let m : CommitMsg := (cm 103 3 5 2 0); let x : Nat := 2; decide (s.takesMsg m 0x08 x = true) &&
      let j := ((s.tookMsg m 0x08).ctx x).job; decide (j.buddy.map j.dnOf ≠ some m.src)) = true ∧
  -- 14.0
  (let s : State := stW41; let x : Nat := 2;
      let p : StepSt := ((((jobS (jobJ 1 20 [{ p5 .readySent with readySteep := some 17, querySteep := some 19 }])).ctx 2).job.steps.find? fun q => q.phase == .readySent).getD (p5 .idle)); let k : Nat := ((((((jobS (jobJ 1 20 [{ p5 .readySent with readySteep := some 17, querySteep := some 19 }])).ctx 2).job.steps.find? fun q => q.phase == .readySent).getD (p5 .idle))).readySteep.getD 0); let j := (s.ctx x).job; decide ((j.steps.find? fun q => q.phase == .readySent) = some p) && decide (p.readySteep = some k) && decide ((p.querySteep = none ∧ k + 4 ≤ s.now) ∨ (∃ q, p.querySteep = some q ∧ q < s.now))) = true ∧
  -- 14.1
  (let s : State := stW39; let x : Nat := 2;
      let p : StepSt := ((((jobS (jobJ 1 20 [{ p5 .readySent with readySteep := some 17 }])).ctx 2).job.steps.find? fun q => q.phase == .readySent).getD (p5 .idle)); let k : Nat := ((((((jobS (jobJ 1 20 [{ p5 .readySent with readySteep := some 17 }])).ctx 2).job.steps.find? fun q => q.phase == .readySent).getD (p5 .idle))).readySteep.getD 0); let j := (s.ctx x).job; decide ((j.steps.find? fun q => q.phase == .readySent) = some p) && decide (p.readySteep = some k) && decide (p.querySteep = none) && decide (s.now < k + 4)) = true ∧
  -- 15.0
  (let s : State := (jobS (jobJ 0 4 [{ p5 .running with readySteep := some 3 }] fun j => { j with commitWait := 17 })); let x : Nat := 2;
      let p : StepSt := (((jobS (jobJ 0 4 [{ p5 .running with readySteep := some 3 }] fun j => { j with commitWait := 17 })).ctx 2).job.steps.headD (p5 .idle)); let rest : List StepSt := ((jobS (jobJ 0 4 [{ p5 .running with readySteep := some 3 }] fun j => { j with commitWait := 17 })).ctx 2).job.steps.tail; let k : Nat := ((((jobS (jobJ 0 4 [{ p5 .running with readySteep := some 3 }] fun j => { j with commitWait := 17 })).ctx 2).job.steps.headD (p5 .idle)).readySteep.getD 0); let j := (s.ctx x).job; decide (j.steps = p :: rest) && decide (p.readySteep = some k) && decide (j.isLead = true) && decide (p.phase = .running) && decide (k + j.commitWait ≤ s.now)) = true ∧
  -- 15.1
  (let s : State := (jobS (jobJ 0 4 [{ p5 .running with readySteep := some 3 }] fun j => { j with commitWait := 18 })); let x : Nat := 2;
      let p : StepSt := (((jobS (jobJ 0 4 [{ p5 .running with readySteep := some 3 }] fun j => { j with commitWait := 18 })).ctx 2).job.steps.headD (p5 .idle)); let rest : List StepSt := ((jobS (jobJ 0 4 [{ p5 .running with readySteep := some 3 }] fun j => { j with commitWait := 18 })).ctx 2).job.steps.tail; let k : Nat := ((((jobS (jobJ 0 4 [{ p5 .running with readySteep := some 3 }] fun j => { j with commitWait := 18 })).ctx 2).job.steps.headD (p5 .idle)).readySteep.getD 0); let j := (s.ctx x).job; decide (j.steps = p :: rest) && decide (p.readySteep = some k) && decide (j.isLead = true) && decide (p.phase = .running) && decide (s.now < k + j.commitWait)) = true ∧
  ((∀ y, (up.ctx y).job.conserved) ∧ ∃ t, exec (.sealLate 2 7) up = .next t) :=
  ⟨by decide +kernel, by decide +kernel, by decide +kernel, by decide +kernel, by decide +kernel, by decide +kernel, by decide +kernel,
      by decide +kernel, by decide +kernel, by decide +kernel, by decide +kernel, by decide +kernel, by decide +kernel, by decide +kernel,
      by decide +kernel, by decide +kernel, by decide +kernel, by decide +kernel, by decide +kernel, by decide +kernel, by decide +kernel,
      by decide +kernel, by decide +kernel, by decide +kernel, by decide +kernel, by decide +kernel, by decide +kernel, by decide +kernel,
      by decide +kernel, by decide +kernel, by decide +kernel, by decide +kernel, by decide +kernel, by decide +kernel, by decide +kernel,
      by decide +kernel, by decide +kernel, by decide +kernel, by decide +kernel, ⟨fun _ => rfl, _, rfl⟩⟩

/-- The hypotheses of MembershipVotesExpelsAndScores can be met. -/
theorem witness_MembershipVotesExpelsAndScores :
  -- 0.0
  (let s : State := up; let l : Nat := 5; let b : Beat := (bt 7); decide (l < 48) && decide (b.count ≠ s.now + 1) &&
      decide (s.lateBeat b = false)) = true ∧
  -- 0.1
  (let s : State := ({ (mems id 7 8 9 11) with steep := { (mems id 7 8 9 11).steep with joined := true, phase := 2000 } } : State); let l : Nat := 5;
      let b : Beat := ({ bt 7 with count := 9 } : Beat); decide (l < 48) && decide (b.count ≠ s.now + 1) && decide (s.lateBeat b = true)) = true ∧
  -- 0.2
  (let s : State := (mems id 7 8 9 8); let l : Nat := 5; let b : Beat := (bt 7); decide (l < 48) && decide (b.count = s.now + 1)) = true ∧
  -- 0.3
  (let l : Nat := 48; decide (48 ≤ l)) = true ∧
  -- 1.0
  (let s : State := ((mems id 7 8 9 8).setLink 5 { (mems id 7 8 9 8).link 5 with state := .trained }); let l : Nat := 5; decide (l < 48) &&
      let counts : Prop := (s.link l).state = .trained ∨ ((s.link l).nbDnValid = true ∧ (s.link l).state ≠ .far ∧ (s.link l).far.on = false);
      decide (counts) && decide ((s.beat l).missed < s.now - 1 - (s.beat l).at_) && decide ((s.beat l).counted < s.now)) = true ∧
  -- 1.1
  (let s : State := (mems id 7 8 9 8); let l : Nat := 5; decide (l < 48) &&
      let counts : Prop := (s.link l).state = .trained ∨ ((s.link l).nbDnValid = true ∧ (s.link l).state ≠ .far ∧ (s.link l).far.on = false);
      decide (¬ counts ∨ s.now - 1 - (s.beat l).at_ ≤ (s.beat l).missed ∨ s.now ≤ (s.beat l).counted)) = true ∧
  -- 2.0
  (let s : State := stW42; let m : CommitMsg := (dm 20 (mkWord [(0,16,7),(16,6,7)])); let s' := s.tookMsg m 0x10; let g := s'.members;
      let dn := fld m.arg 15 0; let lost := fld m.arg 21 16;
      let vs := (g.votes.filter fun v => !(v.voter == m.src && v.target == dn)) ++ (if lost = 0 then [] else [({ voter := m.src, target := dn, lost := lost } : Vote)]); let sum := ((vs.filter fun v => v.target == dn).map fun v => v.lost).sum; let gone := dn ∈ g.expelled ∨ ∃ e ∈ g.pendingExpels, e.dn = dn; decide (s.isEarly m.epoch = false) && decide (s'.shuns m.src = false) && decide (s'.isMaster = true ∨ (s'.steep.deputyDn = s'.fabric.dn ∧ dn = s'.steep.masterDn)) && decide (¬ gone) && decide (g.lastLinks.get 0 dn < 2 * sum)) = true ∧
  -- 2.1
  (let s : State := stW42; let m : CommitMsg := (dm 20 (mkWord [(0,16,7),(16,6,1)])); let s' := s.tookMsg m 0x10; let g := s'.members;
      let dn := fld m.arg 15 0; let lost := fld m.arg 21 16;
      let vs := (g.votes.filter fun v => !(v.voter == m.src && v.target == dn)) ++ (if lost = 0 then [] else [({ voter := m.src, target := dn, lost := lost } : Vote)]); let sum := ((vs.filter fun v => v.target == dn).map fun v => v.lost).sum; let gone := dn ∈ g.expelled ∨ ∃ e ∈ g.pendingExpels, e.dn = dn; decide (s.isEarly m.epoch = false) && decide (s'.shuns m.src = false) && decide (s'.isMaster = true ∨ (s'.steep.deputyDn = s'.fabric.dn ∧ dn = s'.steep.masterDn)) && decide (gone ∨ 2 * sum ≤ g.lastLinks.get 0 dn)) = true ∧
  -- 2.2
  (let s : State := stW43; let m : CommitMsg := (dm 22 (mkWord [(0,16,8),(16,6,0)])); let s' := s.tookMsg m 0x10; let dn := fld m.arg 15 0;
      decide (s.isEarly m.epoch = false) && decide (s'.shuns m.src = false) && decide (s'.isMaster = false) &&
      decide (s'.steep.deputyDn ≠ s'.fabric.dn ∨ dn ≠ s'.steep.masterDn)) = true ∧
  -- 3.0
  (let s : State := stW42; let m : CommitMsg := (dm 20 (mkWord [(0,16,7),(16,4,2),(32,32,7)])); let s' := s.tookMsg m 0x11; let g := s'.members;
      let e : Expel := { dn := fld m.arg 15 0, reason := fld m.arg 19 16, mver := fld m.arg 63 32, at_ := s'.now };
      decide (s.isEarly m.epoch = false) && decide (s'.shuns m.src = false) && decide (e.dn ∉ g.expelled) &&
      ((g.pendingExpels).all fun p => decide (p.dn ≠ e.dn))) = true ∧
  -- 3.1
  (let s : State := stW43; let m : CommitMsg := (dm 20 (mkWord [(0,16,50),(16,4,2),(32,32,7)])); let s' := s.tookMsg m 0x11; let g := s'.members;
      let e : Expel := { dn := fld m.arg 15 0, reason := fld m.arg 19 16, mver := fld m.arg 63 32, at_ := s'.now };
      decide (s.isEarly m.epoch = false) && decide (s'.shuns m.src = false) && decide (e.dn ∈ g.expelled ∨ (∃ p ∈ g.pendingExpels,
      p.dn = e.dn))) = true ∧
  -- 4.0
  (let s : State := (cnt 20); let m : CommitMsg := ({ dm 7 (mkWord [(0, 16, 9)]) with epoch := 21 } : CommitMsg); let msg : Nat := 0x10;
      let c : Instr := (Instr.vote { dm 7 (mkWord [(0, 16, 9)]) with epoch := 21 }); decide ((msg, c) ∈ [(0x10, Instr.vote m), (0x11, .expel m),
      (0x14, .memberSync m), (0x12, .healthAsk m), (0x13, .healthReply m)]) && decide (s.isEarly m.epoch = true)) = true ∧
  -- 5.0
  (let s : State := stW44; let m : CommitMsg := (dm 22 (mkWord [(0,16,5),(16,8,99)])); decide (s.isEarly m.epoch = false) &&
      let s' := s.tookMsg m 0x14; decide (s'.isMaster = true)) = true ∧
  -- 5.1
  (let s : State := stW45; let m : CommitMsg := (dm 22 (mkWord [(0,16,5),(16,8,99)])); decide (s.isEarly m.epoch = false) &&
      let s' := s.tookMsg m 0x14; decide (s'.isMaster = false)) = true ∧
  -- 6.0
  (let s : State := (mems (fun g => { g with watching := [(5, 40), (6, 30), (7, 30), (4, 30)], grants := [], grantsStanding := [20], per256 := 1, candidate := true, modules := (List.range 4).map fun i => (i, []) }) 9 0 9 64); let m : CommitMsg := (dm 22 (mkWord [(0,16,9),(16,1,0)])); let s' := s.tookMsg m 0x12; let g := s'.members; let dn := fld m.arg 15 0; decide (s.isEarly m.epoch = false) && decide (s'.shuns m.src = false) && decide (s'.isMaster = true) && decide (dn ∉ g.grantsStanding) && decide (0 < s'.budgetLeft)) = true ∧
  -- 6.1
  (let s : State := stW44; let m : CommitMsg := (dm 22 (mkWord [(0,16,9),(16,1,0)])); let s' := s.tookMsg m 0x12; let g := s'.members;
      let dn := fld m.arg 15 0; decide (s.isEarly m.epoch = false) && decide (s'.shuns m.src = false) && decide (s'.isMaster = true) &&
      decide (dn ∉ g.grantsStanding) && decide (s'.budgetLeft = 0)) = true ∧
  -- 6.2
  (let s : State := stW45; let m : CommitMsg := (dm 22 (mkWord [(0,16,9),(16,1,0)])); let s' := s.tookMsg m 0x12; let g := s'.members;
      let dn := fld m.arg 15 0; decide (s.isEarly m.epoch = false) && decide (s'.shuns m.src = false) &&
      decide (s'.isMaster = false ∨ dn ∈ g.grantsStanding)) = true ∧
  -- 7.0
  (let s : State := stW46; let m : CommitMsg := (dm 7 (mkWord [(0, 16, 9), (16, 1, 1)])); let s' := s.tookMsg m 0x13;
      decide (s.isEarly m.epoch = false) && decide (s'.shuns m.src = false) && decide (fld m.arg 15 0 = s'.fabric.dn) &&
      decide (s'.members.candidate = true) && decide (bitAt m.arg 16 = true)) = true ∧
  -- 7.1
  (let s : State := stW46; let m : CommitMsg := (dm 7 (mkWord [(0, 16, 9)])); let s' := s.tookMsg m 0x13; decide (s.isEarly m.epoch = false) &&
      decide (s'.shuns m.src = false) && decide (fld m.arg 15 0 = s'.fabric.dn) && decide (s'.members.candidate = true) &&
      decide (bitAt m.arg 16 = false)) = true ∧
  -- 7.2
  (let s : State := stW46; let m : CommitMsg := (dm 7 (mkWord [(0, 16, 10)])); let s' := s.tookMsg m 0x13; decide (s.isEarly m.epoch = false) &&
      decide (s'.shuns m.src = false) && decide (fld m.arg 15 0 ≠ s'.fabric.dn ∨ s'.members.candidate = false)) = true ∧
  -- 8.0
  (let s : State := stW44; decide (s.now % 64 = 0)) = true ∧
  -- 8.1
  (let s : State := stW45; decide (s.now % 64 ≠ 0)) = true ∧
  -- 9.0
  (let s : State := (masterS [(10, 60)]); decide (s.isMaster = true) && decide (0 < s.budgetLeft) && decide (s.members.watching ≠ [])) = true ∧
  -- 9.1
  (let s : State := up; decide (s.isMaster = false ∨ s.budgetLeft = 0 ∨ s.members.watching = [])) = true :=
  by
  and_intros <;> decide +kernel

/-- The hypotheses of JobCommandsSetJobsAndMoveState can be met. -/
theorem witness_JobCommandsSetJobsAndMoveState :
  -- 0.0
  (let s : State := (withReq ({ (F (fun f => { f with dn := 9 }) up) with mem := { up.mem with space := up.mem.space.storeWords 0x40000 [mkWord [(0,16,9),(16,16,8),(32,16,7),(48,16,6)], mkWord [(0,16,0),(16,16,2),(32,16,1),(48,16,3)]] } }) (reqU 0 .module [(mkWord [(0,3,3),(3,1,0),(16,17,0),(33,17,4)]), (BitVec.ofNat 64 2097152), (mkWord [(0,17,1),(32,16,7)])]) 0x300); let r : Req := (reqU 0 .module [(mkWord [(0,3,3),(3,1,0),(16,17,0),(33,17,4)]), (BitVec.ofNat 64 2097152), (mkWord [(0,17,1),(32,16,7)])]); let u : UnitId := .module; let a : W64 := opW47; let b : W64 := (BitVec.ofNat 64 2097152); let w : W64 := (mkWord [(0,17,1),(32,16,7)]); decide (s.asked r 0x0300 false adminClass u = true) && decide (reqArgs r 0x0300 = [a, b, w]) && let n := fld a 49 33; let rank := fld a 32 16; let stride := fld w 16 0; let wait := fld w 47 32; decide (fld a 15 4 = 0) && decide (fld a 63 50 = 0) && decide (fld b 63 48 = 0) && decide (fld w 31 17 = 0) && decide (fld w 63 48 = 0) && decide (rank < n) && decide ((n = 1 ∧ stride = 0) ∨ (1 < n ∧ 0 < stride ∧ stride < n)) && decide (s.mem.space.syn = []) && decide (1 ≤ wait) && decide (wait ≤ 7)) = true ∧
  -- 0.1
  (let s : State := (withReq ({ (F (fun f => { f with dn := 9 }) up) with mem := { up.mem with space := up.mem.space.storeWords 0x40000 [mkWord [(0,16,9),(16,16,8),(32,16,7),(48,16,6)], mkWord [(0,16,0),(16,16,2),(32,16,1),(48,16,3)]] } }) (reqU 0 .module [(mkWord [(0,3,3),(3,1,0),(16,17,0),(33,17,4)]), (BitVec.ofNat 64 2097152), (mkWord [(0,17,1),(32,16,0)])]) 0x300); let r : Req := rqW48; let u : UnitId := .module; let a : W64 := opW47; let b : W64 := (BitVec.ofNat 64 2097152); let w : W64 := (mkWord [(0,17,1),(32,16,0)]); decide (s.asked r 0x0300 false adminClass u = true) && decide (reqArgs r 0x0300 = [a, b, w]) && let x := fld a 2 0; let n := fld a 49 33; let rank := fld a 32 16; let stride := fld w 16 0; let wait := fld w 47 32; let c := s.ctx x; decide (fld a 15 4 = 0) && decide (fld a 63 50 = 0) && decide (fld b 63 48 = 0) && decide (fld w 31 17 = 0) && decide (fld w 63 48 = 0) && decide (rank < n) && decide ((n = 1 ∧ stride = 0) ∨ (1 < n ∧ 0 < stride ∧ stride < n)) && decide (s.mem.space.syn = []) && decide (wait = 0 ∨ 8 ≤ wait) && decide (c.state = .free)) = true ∧
  -- 0.2
  (let s : State := (withReq ({ (F (fun f => { f with dn := 9 }) (ctxS 3 { ctx0 with slots := [(2, { streams := [strm] })] })) with mem := { up.mem with space := up.mem.space.storeWords 0x40000 [mkWord [(0,16,9),(16,16,8),(32,16,7),(48,16,6)], mkWord [(0,16,0),(16,16,2),(32,16,1),(48,16,3)]] } }) (reqU 0 .module [(mkWord [(0,3,3),(3,1,0),(16,17,0),(33,17,65536)]), (BitVec.ofNat 64 2097152), (mkWord [(0,17,1),(32,16,9)])]) 0x300); let r : Req := (reqU 0 .module [(mkWord [(0,3,3),(3,1,0),(16,17,0),(33,17,65536)]), (BitVec.ofNat 64 2097152), (mkWord [(0,17,1),(32,16,9)])]); let u : UnitId := .module; let a : W64 := (mkWord [(0,3,3),(3,1,0),(16,17,0),(33,17,65536)]); let b : W64 := (BitVec.ofNat 64 2097152); let w : W64 := (mkWord [(0,17,1),(32,16,9)]); decide (s.asked r 0x0300 false adminClass u = true) && decide (reqArgs r 0x0300 = [a, b, w]) && let x := fld a 2 0; let n := fld a 49 33; let rank := fld a 32 16; let stride := fld w 16 0; let wait := fld w 47 32; let c := s.ctx x; decide (fld a 15 4 = 0) && decide (fld a 63 50 = 0) && decide (fld b 63 48 = 0) && decide (fld w 31 17 = 0) && decide (fld w 63 48 = 0) && decide (rank < n) && decide ((n = 1 ∧ stride = 0) ∨ (1 < n ∧ 0 < stride ∧ stride < n)) && decide (s.mem.space.syn = []) && decide (wait = 0 ∨ 8 ≤ wait) && decide (c.state ≠ .free) && decide (c.fastSpan (fld b 47 0) (2 * n) = true) && decide (c.busy = true)) = true ∧
  -- 0.3
  (let s : State := (withReq ({ (F (fun f => { f with dn := 9 }) (ctxS 3 ctx0)) with mem := { up.mem with space := up.mem.space.storeWords 0x40000 [mkWord [(0,16,9),(16,16,8),(32,16,7),(48,16,6)], mkWord [(0,16,0),(16,16,2),(32,16,1),(48,16,3)]] } }) (reqU 0 .module [(mkWord [(0,3,3),(3,1,0),(16,17,1),(33,17,4)]), (BitVec.ofNat 64 2097152), (mkWord [(0,17,3),(32,16,8)])]) 0x300); let r : Req := (reqU 0 .module [(mkWord [(0,3,3),(3,1,0),(16,17,1),(33,17,4)]), (BitVec.ofNat 64 2097152), (mkWord [(0,17,3),(32,16,8)])]); let u : UnitId := .module; let a : W64 := (mkWord [(0,3,3),(3,1,0),(16,17,1),(33,17,4)]); let b : W64 := (BitVec.ofNat 64 2097152); let w : W64 := (mkWord [(0,17,3),(32,16,8)]); decide (s.asked r 0x0300 false adminClass u = true) && decide (reqArgs r 0x0300 = [a, b, w]) && let x := fld a 2 0; let n := fld a 49 33; let rank := fld a 32 16; let stride := fld w 16 0; let wait := fld w 47 32; let c := s.ctx x; let table := s.readTable (fld b 47 0) n; decide (fld a 15 4 = 0) && decide (fld a 63 50 = 0) && decide (fld b 63 48 = 0) && decide (fld w 31 17 = 0) && decide (fld w 63 48 = 0) && decide (rank < n) && decide ((n = 1 ∧ stride = 0) ∨ (1 < n ∧ 0 < stride ∧ stride < n)) && decide (s.mem.space.syn = []) && decide (wait = 0 ∨ 8 ≤ wait) && decide (c.state ≠ .free) && decide (c.fastSpan (fld b 47 0) (2 * n) = true) && decide (c.busy = false) && decide (bitAt a 3 = false) && decide (table.getD rank 0 ≠ s.fabric.dn)) = true ∧
  -- 0.4
  (let s : State := (withReq ({ (F (fun f => { f with dn := 9 }) (ctxS 3 ctx0)) with mem := { up.mem with space := up.mem.space.storeWords 0x40000 [mkWord [(0,16,9),(16,16,8),(32,16,7),(48,16,6)], mkWord [(0,16,0),(16,16,2),(32,16,1),(48,16,3)]] } }) (reqU 0 .module [(mkWord [(0,3,3),(3,1,0),(16,17,0),(33,17,4)]), (BitVec.ofNat 64 2097152), (mkWord [(0,17,1),(32,16,0)])]) 0x300); let r : Req := rqW48; let u : UnitId := .module; let a : W64 := opW47; let b : W64 := (BitVec.ofNat 64 2097152); let w : W64 := (mkWord [(0,17,1),(32,16,0)]); decide (s.asked r 0x0300 false adminClass u = true) && decide (reqArgs r 0x0300 = [a, b, w]) && let x := fld a 2 0; let n := fld a 49 33; let rank := fld a 32 16; let stride := fld w 16 0; let wait := fld w 47 32; let c := s.ctx x; let table := s.readTable (fld b 47 0) n; decide (fld a 15 4 = 0) && decide (fld a 63 50 = 0) && decide (fld b 63 48 = 0) && decide (fld w 31 17 = 0) && decide (fld w 63 48 = 0) && decide (rank < n) && decide ((n = 1 ∧ stride = 0) ∨ (1 < n ∧ 0 < stride ∧ stride < n)) && decide (s.mem.space.syn = []) && decide (wait = 0 ∨ 8 ≤ wait) && decide (c.state ≠ .free) && decide (c.fastSpan (fld b 47 0) (2 * n) = true) && decide (c.busy = false) && decide (bitAt a 3 = true ∨ table.getD rank 0 = s.fabric.dn)) = true ∧
  -- 1.0
  (let s : State := (withReq ({ (F (fun f => { f with dn := 9 }) (ctxS 3 { ctx0 with slots := [(2, { streams := [strm] })] })) with mem := { up.mem with space := up.mem.space.storeWords 0x40000 [mkWord [(0,16,9),(16,16,8),(32,16,7),(48,16,6)], mkWord [(0,16,0),(16,16,2),(32,16,1),(48,16,3)]] } }) (reqU 0 .module [(mkWord [(0,3,3),(16,17,4),(33,31,5)]), 0x200000#64, 9#64, 0#64]) 0x301); let r : Req := rqW49; let u : UnitId := .module; let a : W64 := (mkWord [(0,3,3),(16,17,4),(33,31,5)]); let b : W64 := 0x200000#64; let st : W64 := 9#64; let k : W64 := 0#64; decide (s.asked r 0x0301 false adminClass u = true) && decide (reqArgs r 0x0301 = [a, b, st, k]) && let x := fld a 2 0; let n := fld a 32 16; let c := s.ctx x; decide (fld a 15 3 = 0) && decide (n ≠ 0) && decide (k = 0#64 ∨ s.now < k.toNat) && decide (c.state ≠ .free) && decide (c.fastSpan b.toNat (2 * n) = true) && decide (s.mem.space.syn = []) && decide (c.busy = true)) = true ∧
  -- 1.1
  (let s : State := (withReq ({ (F (fun f => { f with dn := 9 }) (ctxS 3 ctx0)) with mem := { up.mem with space := up.mem.space.storeWords 0x40000 [mkWord [(0,16,9),(16,16,8),(32,16,7),(48,16,6)], mkWord [(0,16,0),(16,16,2),(32,16,1),(48,16,3)]] } }) (reqU 0 .module [(mkWord [(0,3,3),(16,17,4),(33,31,5)]), 0x200000#64, 9#64, 0#64]) 0x301); let r : Req := rqW49; let u : UnitId := .module; let a : W64 := (mkWord [(0,3,3),(16,17,4),(33,31,5)]); let b : W64 := 0x200000#64; let st : W64 := 9#64; let k : W64 := 0#64; decide (s.asked r 0x0301 false adminClass u = true) && decide (reqArgs r 0x0301 = [a, b, st, k]) && let x := fld a 2 0; let n := fld a 32 16; let c := s.ctx x; decide (fld a 15 3 = 0) && decide (n ≠ 0) && decide (k = 0#64 ∨ s.now < k.toNat) && decide (c.state ≠ .free) && decide (c.fastSpan b.toNat (2 * n) = true) && decide (s.mem.space.syn = []) && decide (c.busy = false)) = true ∧
  -- 2.0
  (let s : State := (withReq ({ up with mem := { up.mem with space := up.mem.space.storeWords 0x40000 [0x200008#64, 64#64, 0x210000#64, 4096#64] } }) (reqU 0 .module [(mkWord [(0,3,3),(4,4,0)]), 2228224#64, 0#64, 2097152#64]) 0x302); let r : Req := rqW50; let u : UnitId := .module; let a : W64 := (mkWord [(0,3,3),(4,4,0)]); let cap : W64 := 2228224#64; let bytes : W64 := 0#64; let tab : W64 := 2097152#64; decide (s.asked r 0x0302 false anyClass u = true) && decide (reqArgs r 0x0302 = [a, cap, bytes, tab]) && let x := fld a 2 0; decide (bitAt a 3 = false) && decide (fld a 63 8 = 0) && decide (cap.toNat % 8 = 0) && decide (tab.toNat % 8 = 0) && decide (s.mem.space.syn = []) && decide (s.ctxNamed r.mb x = false)) = true ∧
  -- 2.1
  (let s : State := (withReq ({ (ctxS 3 ctx0) with mem := { up.mem with space := up.mem.space.storeWords 0x40000 [0x200008#64, 64#64, 0x210000#64, 4096#64] } }) (reqU 0 .module [(mkWord [(0,3,3),(4,4,0)]), 2228224#64, 0#64, 2097152#64]) 0x302); let r : Req := rqW50; let u : UnitId := .module; let a : W64 := (mkWord [(0,3,3),(4,4,0)]); let cap : W64 := 2228224#64; let bytes : W64 := 0#64; let tab : W64 := 2097152#64; decide (s.asked r 0x0302 false anyClass u = true) && decide (reqArgs r 0x0302 = [a, cap, bytes, tab]) && let x := fld a 2 0; let c := s.ctx x; let spans := (List.range (fld a 7 4 + 1)).map fun i => ((s.mem.space.word (tab.toNat / 8 + 2 * i)).toNat, (s.mem.space.word (tab.toNat / 8 + 2 * i + 1)).toNat); decide (bitAt a 3 = false) && decide (fld a 63 8 = 0) && decide (cap.toNat % 8 = 0) && decide (tab.toNat % 8 = 0) && decide (s.mem.space.syn = []) && decide (s.ctxNamed r.mb x = true) && decide (c.fastSpan cap.toNat bytes.toNat = true) && decide (c.fastSpan tab.toNat (16 * (fld a 7 4 + 1)) = true) && decide (∀ p ∈ spans, c.fastSpan p.1 p.2 = true)) = true ∧
  -- 3.0
  (let s : State := (repQ (capW 0) { ctx0 with slots := [(3, { streams := [strm] })] }); let r : Req := rqW51; let u : UnitId := .module;
      let a : W64 := 3#64; let cap : W64 := 0x220000#64; let tr : W64 := 0x230000#64; decide (s.asked r 0x0303 false anyClass u = true) &&
      decide (reqArgs r 0x0303 = [a, cap, tr]) && let x := fld a 2 0; let c := s.ctx x; decide (fld a 63 3 = 0) && decide (cap.toNat % 8 = 0) &&
      decide (tr.toNat % 8 = 0) && decide (s.ctxNamed r.mb x = true) && decide (c.fastSpan cap.toNat 8 = true) && decide (s.mem.space.syn = []) &&
      decide (c.busy = true ∨ c.job.replay.isSome = true)) = true ∧
  -- 3.1
  (let s : State := (repQ ((capW 0).set 13 0x1000000#64)); let r : Req := rqW51; let u : UnitId := .module; let a : W64 := 3#64;
      let cap : W64 := 0x220000#64; let tr : W64 := 0x230000#64; decide (s.asked r 0x0303 false anyClass u = true) && decide (reqArgs r 0x0303 = [a,
      cap, tr]) && let x := fld a 2 0; let c := s.ctx x; let s' := s.taken r; let d := s'.captured cap.toNat; let base := c.fastBase * 0x200000;
      let inside : Prop := c.fastSpan tr.toNat (16 * d.trace.length) = true ∧ ∀ e ∈ d.spans, c.fastSpan (base + e.1) (8 * e.2.length) = true;
      decide (fld a 63 3 = 0) && decide (cap.toNat % 8 = 0) && decide (tr.toNat % 8 = 0) && decide (s.ctxNamed r.mb x = true) &&
      decide (c.fastSpan cap.toNat 8 = true) && decide (s.mem.space.syn = []) && decide (c.busy = false) && decide (c.job.replay = none) &&
      decide (¬ inside)) = true ∧
  -- 3.2
  (let s : State := (repQ (capW 0) ctx0 false); let r : Req := rqW51; let u : UnitId := .module; let a : W64 := 3#64; let cap : W64 := 0x220000#64;
      let tr : W64 := 0x230000#64; decide (s.asked r 0x0303 false anyClass u = true) && decide (reqArgs r 0x0303 = [a, cap, tr]) &&
      let x := fld a 2 0; let c := s.ctx x; let s' := s.taken r; let d := s'.captured cap.toNat; let base := c.fastBase * 0x200000;
      let inside : Prop := c.fastSpan tr.toNat (16 * d.trace.length) = true ∧ ∀ e ∈ d.spans, c.fastSpan (base + e.1) (8 * e.2.length) = true;
      let put := (s'.restoreSpans base d.spans).put (slotQueue x 0).1 (slotQueue x 0).2 (some x) Config.commandType.toNat d.stream;
      decide (fld a 63 3 = 0) && decide (cap.toNat % 8 = 0) && decide (tr.toNat % 8 = 0) && decide (s.ctxNamed r.mb x = true) &&
      decide (c.fastSpan cap.toNat 8 = true) && decide (s.mem.space.syn = []) && decide (c.busy = false) && decide (c.job.replay = none) &&
      decide (inside) && decide (put = none)) = true ∧
  -- 3.3
  (let s : State := (repQ (capW 0)); let r : Req := rqW51; let u : UnitId := .module; let a : W64 := 3#64; let cap : W64 := 0x220000#64;
      let tr : W64 := 0x230000#64; decide (s.asked r 0x0303 false anyClass u = true) && decide (reqArgs r 0x0303 = [a, cap, tr]) &&
      let x := fld a 2 0; let c := s.ctx x; let s' := s.taken r; let d := s'.captured cap.toNat; let base := c.fastBase * 0x200000;
      let inside : Prop := c.fastSpan tr.toNat (16 * d.trace.length) = true ∧ ∀ e ∈ d.spans, c.fastSpan (base + e.1) (8 * e.2.length) = true;
      let put := (s'.restoreSpans base d.spans).put (slotQueue x 0).1 (slotQueue x 0).2 (some x) Config.commandType.toNat d.stream;
      decide (fld a 63 3 = 0) && decide (cap.toNat % 8 = 0) && decide (tr.toNat % 8 = 0) && decide (s.ctxNamed r.mb x = true) &&
      decide (c.fastSpan cap.toNat 8 = true) && decide (s.mem.space.syn = []) && decide (c.busy = false) && decide (c.job.replay = none) &&
      decide (inside) && (match put with | some v => true | _ => false)) = true ∧
  -- 4.0
  (let s : State := (ctxS 3 { ctx0 with job := { replay := some { traceAddr := 4, version := 3, by_ := ⟨0,1,2⟩, mismatches := 3, first := 9 } } });
      let x : Nat := 3; (match (s.ctx x).job.replay with | some p => decide ((s.ctx x).busy = false) | _ => false)) = true ∧
  -- 4.1
  (let s : State := (ctxS 3 ctx0); let x : Nat := 3; decide ((s.ctx x).job.replay = none ∨ (s.ctx x).busy = true)) = true ∧
  -- 5.0
  (let s : State := (withReq ((fun (s : State) => { s with members := { s.members with modules := [(7, [0x2005]), (8, [0x2006])] } }) up) (reqU 0 .module ((mkWord [(0,3,3),(4,3,5)]) :: (pathWords [0x2009]))) 0x304); let r : Req := (reqU 0 .module ((mkWord [(0,3,3),(4,3,5)]) :: (pathWords [0x2009]))); let u : UnitId := .module; let a : W64 := (mkWord [(0,3,3),(4,3,5)]); let path : List W64 := (pathWords [0x2009]); decide (s.asked r 0x0304 false adminClass u = true) && decide (reqArgs r 0x0304 = a :: path) && let s' := s.taken r; decide (path ≠ []) && decide (bitAt a 3 = false) && decide (fld a 63 7 = 0) && decide (argPathOk path = true) && decide (s'.otherModule path = false)) = true ∧
  -- 5.1
  (let s : State := (withReq ((fun (s : State) => { s with members := { s.members with modules := [(7, [0x2005]), (8, [0x2006])] } }) (ctxS 3 { ctx0 with slots := [(2, { streams := [strm] })] })) (reqU 0 .module ((mkWord [(0,3,3),(4,3,5)]) :: (pathWords [0x2005]))) 0x304); let r : Req := rqW52; let u : UnitId := .module; let a : W64 := (mkWord [(0,3,3),(4,3,5)]); let path : List W64 := (pathWords [0x2005]); decide (s.asked r 0x0304 false adminClass u = true) && decide (reqArgs r 0x0304 = a :: path) && let x := fld a 2 0; let c := s.ctx x; let s' := s.taken r; decide (path ≠ []) && decide (bitAt a 3 = false) && decide (fld a 63 7 = 0) && decide (argPathOk path = true) && decide (s'.otherModule path = true) && decide (c.state ≠ .free) && decide (c.busy = true ∨ c.job.transfer.isSome = true)) = true ∧
  -- 5.2
  (let s : State := (withReq ((fun (s : State) => { s with members := { s.members with modules := [(7, [0x2005]), (8, [0x2006])] } }) (ctxS 3 ctx0)) (reqU 0 .module ((mkWord [(0,3,3),(4,3,5)]) :: (pathWords [0x2005]))) 0x304); let r : Req := rqW52; let u : UnitId := .module; let a : W64 := (mkWord [(0,3,3),(4,3,5)]); let path : List W64 := (pathWords [0x2005]); decide (s.asked r 0x0304 false adminClass u = true) && decide (reqArgs r 0x0304 = a :: path) && let x := fld a 2 0; let c := s.ctx x; let s' := s.taken r; decide (path ≠ []) && decide (bitAt a 3 = false) && decide (fld a 63 7 = 0) && decide (argPathOk path = true) && decide (s'.otherModule path = true) && decide (c.state ≠ .free) && decide (c.busy = false) && decide (c.job.transfer = none)) = true ∧
  -- 6.0
  (let s : State := (withReq ((fun (s : State) => { s with members := { s.members with modules := [(7, [0x2005]), (8, [0x2006])] } }) (ctxS 3 ctx0)) (reqU 0 .module ((mkWord [(0,3,3),(16,17,65)]) :: (pathWords [0x2005]))) 0x305); let r : Req := rqW53; let u : UnitId := .module; let a : W64 := (mkWord [(0,3,3),(16,17,65)]); let path : List W64 := (pathWords [0x2005]); decide (s.asked r 0x0305 false adminClass u = true) && decide (reqArgs r 0x0305 = a :: path) && let x := fld a 2 0; let c := s.ctx x; let s' := s.taken r; decide (path ≠ []) && decide (fld a 15 3 = 0) && decide (fld a 63 33 = 0) && decide (argPathOk path = true) && decide (s'.otherModule path = true) && decide (c.state ≠ .free) && decide (c.job.spare = false)) = true ∧
  -- 6.1
  (let s : State := (withReq ((fun (s : State) => { s with members := { s.members with modules := [(7, [0x2005]), (8, [0x2006])] } }) (ctxS 3 { ctx0 with job := { spare := true } })) (reqU 0 .module ((mkWord [(0,3,3),(16,17,65)]) :: (pathWords [0x2005]))) 0x305); let r : Req := rqW53; let u : UnitId := .module; let a : W64 := (mkWord [(0,3,3),(16,17,65)]); let path : List W64 := (pathWords [0x2005]); decide (s.asked r 0x0305 false adminClass u = true) && decide (reqArgs r 0x0305 = a :: path) && let x := fld a 2 0; let c := s.ctx x; let s' := s.taken r; decide (path ≠ []) && decide (fld a 15 3 = 0) && decide (fld a 63 33 = 0) && decide (argPathOk path = true) && decide (s'.otherModule path = true) && decide (c.state ≠ .free) && decide (c.job.spare = true) && decide (c.busy = false) && decide (c.job.transfer = none)) = true ∧
  -- 7.0
  (let s : State := (withReq ((fun (s : State) => { s with members := { s.members with modules := [(7, [0x2005]), (8, [0x2006])] } }) up) (reqU 0 .module ((mkWord [(0,3,3),(4,3,5),(8,16,77)]) :: 6#64 :: (pathWords [0x2005]))) 0x306); let r : Req := rqW54; let u : UnitId := .module; let a : W64 := (mkWord [(0,3,3),(4,3,5),(8,16,77)]); let b : W64 := 6#64; let path : List W64 := (pathWords [0x2005]); decide (s.asked r 0x0306 false adminClass u = true) && decide (reqArgs r 0x0306 = a :: b :: path) && let x := fld a 2 0; let c := s.ctx x; let s' := s.taken r; decide (path ≠ []) && decide (bitAt a 3 = false) && decide (bitAt a 7 = false) && decide (fld a 63 24 = 0) && decide (fld b 63 3 = 0) && decide (argPathOk path = true) && decide (s'.otherModule path = true) && decide (c.state = .free)) = true ∧
  -- 7.1
  (let s : State := (withReq ((fun (s : State) => { s with members := { s.members with modules := [(7, [0x2005]), (8, [0x2006])] } }) (ctxS 3 { ctx0 with job := { spare := true, transfer := some { kind := .join, by_ := none } } })) (reqU 0 .module ((mkWord [(0,3,3),(4,3,5),(8,16,77)]) :: 6#64 :: (pathWords [0x2005]))) 0x306); let r : Req := rqW54; let u : UnitId := .module; let a : W64 := (mkWord [(0,3,3),(4,3,5),(8,16,77)]); let b : W64 := 6#64; let path : List W64 := (pathWords [0x2005]); decide (s.asked r 0x0306 false adminClass u = true) && decide (reqArgs r 0x0306 = a :: b :: path) && let x := fld a 2 0; let c := s.ctx x; let s' := s.taken r; decide (path ≠ []) && decide (bitAt a 3 = false) && decide (bitAt a 7 = false) && decide (fld a 63 24 = 0) && decide (fld b 63 3 = 0) && decide (argPathOk path = true) && decide (s'.otherModule path = true) && decide (c.state ≠ .free) && decide (c.job.transfer.isSome = true)) = true ∧
  -- 7.2
  (let s : State := (withReq ((fun (s : State) => { s with members := { s.members with modules := [(7, [0x2005]), (8, [0x2006])] } }) (ctxS 3 ctx0)) (reqU 0 .module ((mkWord [(0,3,3),(4,3,5),(8,16,77)]) :: 6#64 :: (pathWords [0x2005]))) 0x306); let r : Req := rqW54; let u : UnitId := .module; let a : W64 := (mkWord [(0,3,3),(4,3,5),(8,16,77)]); let b : W64 := 6#64; let path : List W64 := (pathWords [0x2005]); decide (s.asked r 0x0306 false adminClass u = true) && decide (reqArgs r 0x0306 = a :: b :: path) && let x := fld a 2 0; let c := s.ctx x; let s' := s.taken r; decide (path ≠ []) && decide (bitAt a 3 = false) && decide (bitAt a 7 = false) && decide (fld a 63 24 = 0) && decide (fld b 63 3 = 0) && decide (argPathOk path = true) && decide (s'.otherModule path = true) && decide (c.state ≠ .free) && decide (c.job.transfer = none)) = true ∧
  -- 8.0
  (let s : State := (withReq (lk 5 (fun l => { l with state := .trained, nbDn := 50 }) (lk 6 (fun l => { l with state := .training, nbDn := 50 }) (lk 7 (fun l => { l with state := .trained, nbDn := 9, jobTraffic := true }) (Fl (fun f => { f with blend := { passedSinceExpulsion := true } }) (mems (fun g => { g with votedOut := false, expelled := [50, 9], mver := 4294967295 }) 9 0 9 20))))) (reqU 0 .module [9#64]) 0x307); let r : Req := (reqU 0 .module [9#64]); let u : UnitId := .module; let dn : Nat := 9; decide (s.asked r 0x0307 false adminClass u = true) && decide (dn < 65536) && decide (reqArgs r 0x0307 = [BitVec.ofNat 64 dn]) && let g := s.members; decide (dn = s.fabric.dn) && decide (g.votedOut = false)) = true ∧
  -- 8.1
  (let s : State := (withReq (lk 5 (fun l => { l with state := .trained, nbDn := 50 }) (lk 6 (fun l => { l with state := .training, nbDn := 50 }) (lk 7 (fun l => { l with state := .trained, nbDn := 9, jobTraffic := true }) (Fl (fun f => { f with blend := { passedSinceExpulsion := false } }) (mems (fun g => { g with votedOut := true, expelled := [50, 9], mver := 4294967295 }) 9 0 9 20))))) (reqU 0 .module [9#64]) 0x307); let r : Req := (reqU 0 .module [9#64]); let u : UnitId := .module; let dn : Nat := 9; decide (s.asked r 0x0307 false adminClass u = true) && decide (dn < 65536) && decide (reqArgs r 0x0307 = [BitVec.ofNat 64 dn]) && let g := s.members; decide (dn = s.fabric.dn) && decide (g.votedOut = true) && decide (s.faults.blend.passedSinceExpulsion = false)) = true ∧
  -- 8.2
  (let s : State := (withReq (lk 5 (fun l => { l with state := .trained, nbDn := 50 }) (lk 6 (fun l => { l with state := .training, nbDn := 50 }) (lk 7 (fun l => { l with state := .trained, nbDn := 9, jobTraffic := true }) (Fl (fun f => { f with blend := { passedSinceExpulsion := true } }) (mems (fun g => { g with votedOut := true, expelled := [50, 9], mver := 4294967295 }) 9 0 9 20))))) (reqU 0 .module [9#64]) 0x307); let r : Req := (reqU 0 .module [9#64]); let u : UnitId := .module; let dn : Nat := 9; decide (s.asked r 0x0307 false adminClass u = true) && decide (dn < 65536) && decide (reqArgs r 0x0307 = [BitVec.ofNat 64 dn]) && let g := s.members; decide (dn = s.fabric.dn) && decide (g.votedOut = true) && decide (s.faults.blend.passedSinceExpulsion = true)) = true ∧
  -- 8.3
  (let s : State := (withReq (lk 5 (fun l => { l with state := .trained, nbDn := 50 }) (lk 6 (fun l => { l with state := .training, nbDn := 50 }) (lk 7 (fun l => { l with state := .trained, nbDn := 9, jobTraffic := true }) (Fl (fun f => { f with blend := { passedSinceExpulsion := true } }) (mems (fun g => { g with votedOut := true, expelled := [50, 9], mver := 4294967295 }) 9 0 9 20))))) (reqU 0 .module [51#64]) 0x307); let r : Req := (reqU 0 .module [51#64]); let u : UnitId := .module; let dn : Nat := 51; decide (s.asked r 0x0307 false adminClass u = true) && decide (dn < 65536) && decide (reqArgs r 0x0307 = [BitVec.ofNat 64 dn]) && let g := s.members; decide (dn ≠ s.fabric.dn) && decide (dn ∉ g.expelled)) = true ∧
  -- 8.4
  (let s : State := (withReq (lk 5 (fun l => { l with state := .trained, nbDn := 50 }) (lk 6 (fun l => { l with state := .training, nbDn := 50 }) (lk 7 (fun l => { l with state := .trained, nbDn := 9, jobTraffic := true }) (Fl (fun f => { f with blend := { passedSinceExpulsion := true } }) (mems (fun g => { g with votedOut := true, expelled := [50, 9], mver := 4294967295 }) 9 0 9 20))))) (reqU 0 .module [50#64]) 0x307); let r : Req := (reqU 0 .module [50#64]); let u : UnitId := .module; let dn : Nat := 50; decide (s.asked r 0x0307 false adminClass u = true) && decide (dn < 65536) && decide (reqArgs r 0x0307 = [BitVec.ofNat 64 dn]) && let g := s.members; decide (dn ≠ s.fabric.dn) && decide (dn ∈ g.expelled)) = true ∧
  -- 9.0
  (let s : State := (withReq (cnt 12) (reqU 0 .module [BitVec.ofNat 64 (0 + 256 * 0)]) 0x308);
      let r : Req := (reqU 0 .module [BitVec.ofNat 64 (0 + 256 * 0)]); let u : UnitId := .module; let th : Nat := 0; let per : Nat := 0;
      decide (s.asked r 0x0308 false adminClass u = true) && decide (th < 256) && decide (per < 256) &&
      decide (reqArgs r 0x0308 = [BitVec.ofNat 64 (th + 256 * per)])) = true ∧
  -- 10.0
  (let s : State := (xfS ({ kind := .join, by_ := none, packets := 3, taken := 3 })); let x : Nat := 3;
      let t := ({ kind := .join, by_ := none, packets := 3, taken := 3 } : Transfer); decide ((s.ctx x).job.transfer = some t) &&
      decide (t.whole = true) && decide (t.kind = .join)) = true ∧
  -- 10.1
  (let s : State := (xfS ({ kind := .takeover, by_ := none, packets := 3, taken := 3 })); let x : Nat := 3;
      let t := ({ kind := .takeover, by_ := none, packets := 3, taken := 3 } : Transfer); decide ((s.ctx x).job.transfer = some t) &&
      decide (t.whole = true) && decide (t.kind = .takeover)) = true ∧
  -- 10.2
  (let s : State := (xfS ({ kind := .decantTarget, by_ := none, packets := 3, taken := 3 })); let x : Nat := 3;
      let t := ({ kind := .decantTarget, by_ := none, packets := 3, taken := 3 } : Transfer); decide ((s.ctx x).job.transfer = some t) &&
      decide (t.whole = true) && decide (t.kind = .decantTarget)) = true ∧
  -- 10.3
  (let s : State := (ctxS 3 ctx0); let x : Nat := 3; decide ((s.ctx x).job.transfer = none)) = true ∧
  -- 11.0
  (let s : State := up; let p : Pkt := opW55; decide (s.isEarly (fld p.route 63 48) = false) && decide (fld p.route 15 8 ≠ 4)) = true ∧
  -- 11.1
  (let s : State := up; let p : Pkt := opW55; decide (s.isEarly (fld p.route 63 48) = false) && decide (fld p.route 15 8 ≠ 5)) = true ∧
  -- 11.2
  (let s : State := up; let p : Pkt := opW55; decide (s.isEarly (fld p.route 63 48) = false) && decide (fld p.route 15 8 ≠ 3)) = true ∧
  -- 12.0
  (let s : State := up; let p : Pkt := { route := mkWord [(8,8,5),(32,16,8),(48,16,1)], body := [5#64] };
      let c : Instr := (.decantPacket { route := mkWord [(8,8,5),(32,16,8),(48,16,1)], body := [5#64] }); decide (c ∈ [Instr.mirrorPacket p,
      .decantPacket p, .infuserPacket p]) && decide (s.isEarly (fld p.route 63 48) = true)) = true ∧
  -- 13.0
  (let s : State := (xfS { ({ kind := .join, by_ := none, packets := 3, taken := 1, stream := 5, keys := [(3, 7)] } : Transfer) with keys := [(fld ((dpk 0 2).body.getD 0 0#64) 7 0, 7)] }); let p : Pkt := (dpk 0 2); let x : Nat := 3; let t : Transfer := ({ ({ kind := .join, by_ := none, packets := 3, taken := 1, stream := 5, keys := [(3, 7)] } : Transfer) with keys := [(fld ((dpk 0 2).body.getD 0 0#64) 7 0, 7)] } : Transfer); decide (s.isEarly (fld p.route 63 48) = false) && decide (fld p.route 15 8 = 5) && let s' := s.tookPacket 0x05 p.body; let w := p.body.getD 0 0#64; decide (s'.shuns (fld p.route 47 32) = false) && decide (fld w 10 8 = x) && decide ((s'.ctx x).job.transfer = some t) && decide (t.kind ≠ .decantSource) && let same : Prop := t.packets ≠ 0 ∧ t.stream = fld w 31 16; let key := (fld w 7 0, (p.body.getD 1 0#64).toNat); decide (same) && decide (key ∈ t.keys)) = true ∧
  -- 13.1
  (let s : State := (ctxS 3 { ctx0 with job := { jobJ 1 4 [] with transfer := some { kind := .join, by_ := none, packets := 0, taken := 0, stream := 0, bytes := 16 } } }); let p : Pkt := { route := mkWord [(8,8,5),(32,16,5)], body := [mkWord [(8,3,3),(16,16,5),(32,32,3)], (BitVec.ofNat 64 0)] ++ List.replicate 0 9#64 }; let x : Nat := 3; let t : Transfer := ((((ctxS 3 { ctx0 with job := { jobJ 1 4 [] with transfer := some { kind := .join, by_ := none, packets := 0, taken := 0, stream := 0, bytes := 16 } } })).ctx 3).job.transfer.getD { kind := .join, by_ := none }); decide (s.isEarly (fld p.route 63 48) = false) && decide (fld p.route 15 8 = 5) && let s' := s.tookPacket 0x05 p.body; let w := p.body.getD 0 0#64; decide (s'.shuns (fld p.route 47 32) = false) && decide (fld w 10 8 = x) && decide ((s'.ctx x).job.transfer = some t) && decide (t.kind ≠ .decantSource) && let same : Prop := t.packets ≠ 0 ∧ t.stream = fld w 31 16; let key := (fld w 7 0, (p.body.getD 1 0#64).toNat); decide (same → key ∉ t.keys)) = true ∧
  -- 14.0
  (let s : State := (jobS (jobJ 1 4 [p5 .running]));
      let p : Pkt := { route := mkWord [(8,8,4),(16,3,2),(32,16,102)], body := 0xFFFFFFFFFFFE#64 :: (List.range 1024).map fun i => if i < 5 then BitVec.ofNat 64 (i * 7) else 0#64 }; let x : Nat := 2; decide (s.isEarly (fld p.route 63 48) = false) && decide (fld p.route 15 8 = 4) && let s' := s.tookPacket 0x04 p.body; let w := p.body.getD 0 0#64; let src := fld p.route 47 32; decide (s'.shuns src = false) && decide (fld w 47 0 = 0xFFFFFFFFFFFE) && decide (s'.mirrorCtx (fld p.route 18 16) src Job.buddyDn = some x)) = true ∧
  -- 14.1
  (let s : State := (jobS (jobJ 1 4 [p5 .running]));
      let p : Pkt := { route := mkWord [(8,8,4),(16,3,5),(32,16,100)], body := (BitVec.ofNat 64 (ownBase + 0x40000000)) :: (List.range 1024).map fun i => if i < 5 then BitVec.ofNat 64 (i * 7) else 0#64 }; let x : Nat := 2; decide (s.isEarly (fld p.route 63 48) = false) && decide (fld p.route 15 8 = 4) && let s' := s.tookPacket 0x04 p.body; let w := p.body.getD 0 0#64; let src := fld p.route 47 32; decide (s'.shuns src = false) && decide (fld w 47 0 < 0xFFFFFFFF0000) && decide (s'.mirrorCtx (fld p.route 18 16) src Job.sourceDn = some x) && decide ((s'.ctx x).slowSpan (fld w 47 0 / 8192 * 8192) 8192 = true) && decide ((s'.ctx x).job.mirror.tag = fld w 63 48 → fld w 47 0 ∉ (s'.ctx x).job.mirror.seen) && decide (s'.fencedUnit (.caddy (caddyOf (fld w 47 0))) = false) && decide (p.body.length = 1025) && decide (s'.mem.space.syn = []) && decide (s'.mem.injArm = false)) = true ∧
  -- 14.2
  (let s : State := (jobS (jobJ 1 4 [p5 .running]));
      let p : Pkt := { route := mkWord [(8,8,4),(16,3,2),(32,16,105)], body := (BitVec.ofNat 64 (ownBase + 0x40000000)) :: (List.range 1024).map fun i => if i < 5 then BitVec.ofNat 64 (i * 7) else 0#64 }; decide (s.isEarly (fld p.route 63 48) = false) && decide (fld p.route 15 8 = 4) && let s' := s.tookPacket 0x04 p.body; let w := p.body.getD 0 0#64; let src := fld p.route 47 32; decide (s'.shuns src = false) && decide (s'.mirrorCtx (fld p.route 18 16) src Job.sourceDn = none) && decide (fld w 47 0 < 0xFFFFFFFF0000)) = true :=
  by
  and_intros <;> decide +kernel

/-- The hypotheses of BootMeasuresAndTrustCommandsAnswer can be met. -/
theorem witness_BootMeasuresAndTrustCommandsAnswer :
  -- 0.0
  (let s : State := ({ (({ (up) with trust := { (up).trust with stage := 1, bank := 1, staged := some ([1#8,0#8,236#8,0#8,9#8,0#8,0#8,0#8] ++ List.replicate 228 0#8) } } : State)) with power := { up.power with off := true } } : State); decide (s.host.resetHeld = true ∨ s.power.off = true ∨ s.power.refLost = true)) = true ∧
  -- 0.1
  (let s : State := stW56; let b : BootLoad := opW57; let g := s.trust; decide (s.host.resetHeld = false) && decide (s.power.off = false) &&
      decide (s.power.refLost = false) && decide (g.stage = 0) && decide (s.power.tripHold = false) &&
      decide (b.firstOk = true ∨ b.otherOk = true)) = true ∧
  -- 0.2
  (let s : State := stW56;
      let b : BootLoad := ({ firstOk := false, otherOk := false, seed := some [7#8], digests := [[1#8],[2#8],[3#8]], sigOk := true } : BootLoad);
      let g := s.trust; decide (s.host.resetHeld = false) && decide (s.power.off = false) && decide (s.power.refLost = false) &&
      decide (g.stage = 0) && decide (s.power.tripHold = false) && decide (b.firstOk = false) && decide (b.otherOk = false)) = true ∧
  -- 0.3
  (let s : State := ({ (up) with trust := { (up).trust with stage := 1, bank := 1, staged := some ([1#8,0#8,236#8,0#8,9#8,0#8,0#8,0#8] ++ List.replicate 228 0#8) } } : State); let g := s.trust; decide (s.host.resetHeld = false) && decide (s.power.off = false) && decide (s.power.refLost = false) && decide (g.stage = 1) && decide (s.mem.settled = false)) = true ∧
  -- 0.4
  (let s : State := (trained (bootS 1)); let b : BootLoad := (bl true false); let g := s.trust; decide (s.host.resetHeld = false) &&
      decide (s.power.off = false) && decide (s.power.refLost = false) && decide (g.stage = 1) && decide (s.mem.settled = true) &&
      decide (b.firstOk = true ∨ b.otherOk = true)) = true ∧
  -- 0.5
  (let s : State := (trained (bootS 1)); let b : BootLoad := (bl false false); let g := s.trust; decide (s.host.resetHeld = false) &&
      decide (s.power.off = false) && decide (s.power.refLost = false) && decide (g.stage = 1) && decide (s.mem.settled = true) &&
      decide (b.firstOk = false) && decide (b.otherOk = false)) = true ∧
  -- 0.6
  (let s : State := ({ (up) with trust := { (up).trust with stage := 2 } } : State); let g := s.trust; decide (s.host.resetHeld = false) &&
      decide (s.power.off = false) && decide (s.power.refLost = false) && decide (g.stage = 2)) = true ∧
  -- 1.0
  (let s : State := (K (H (fun h => { h with busMaster := [] }) (({ (up) with trust := { (up).trust with stage := 0x0F } } : State))) .module 0x0600 [1#64,2#64,3#64,4#64,0x1000#64]); let r : Req := rqW58; let u : UnitId := .module; let n0 : W64 := 1#64; let n1 : W64 := 2#64; let n2 : W64 := 3#64; let n3 : W64 := 4#64; let a : W64 := 0x1000#64; decide (s.asked r 0x0600 false anyClass u = true) && decide (reqArgs r 0x0600 = [n0, n1, n2, n3, a]) && decide (s.host.busMaster.contains (s.owner r.mb) = false)) = true ∧
  -- 1.1
  (let s : State := stW59; let r : Req := rqW58; let u : UnitId := .module; let n0 : W64 := 1#64; let n1 : W64 := 2#64; let n2 : W64 := 3#64;
      let n3 : W64 := 4#64; let a : W64 := 0x1000#64; decide (s.asked r 0x0600 false anyClass u = true) && decide (reqArgs r 0x0600 = [n0, n1, n2,
      n3, a]) && decide (s.host.busMaster.contains (s.owner r.mb) = true)) = true ∧
  -- 1.2
  (let s : State := stW59; let r : Req := rqW58; let u : UnitId := .module; let n0 : W64 := 1#64; let n1 : W64 := 2#64; let n2 : W64 := 3#64;
      let n3 : W64 := 4#64; let a : W64 := 0x1000#64; decide (s.asked r 0x0600 false anyClass u = true) && decide (reqArgs r 0x0600 = [n0, n1, n2,
      n3, a]) && let g := s.trust; decide (s.host.busMaster.contains (s.owner r.mb) = true) && decide (g.seed = none)) = true ∧
  -- 1.3
  (let s : State := stW60; let r : Req := rqW58; let u : UnitId := .module; let n0 : W64 := 1#64; let n1 : W64 := 2#64; let n2 : W64 := 3#64;
      let n3 : W64 := 4#64; let a : W64 := 0x1000#64; decide (s.asked r 0x0600 false anyClass u = true) && decide (reqArgs r 0x0600 = [n0, n1, n2,
      n3, a]) && let g := s.trust; decide (s.host.busMaster.contains (s.owner r.mb) = true) &&
      ((List.range (9)).all fun i => decide ((g.slot i).1.length = 64)) && decide (g.identity.length = 64)) = true ∧
  -- 1.4
  (let s : State := stW60; let r : Req := rqW58; let u : UnitId := .module; let n0 : W64 := 1#64; let n1 : W64 := 2#64; let n2 : W64 := 3#64;
      let n3 : W64 := 4#64; let a : W64 := 0x1000#64; decide (s.asked r 0x0600 false anyClass u = true) && decide (reqArgs r 0x0600 = [n0, n1, n2,
      n3, a]) && let g := s.trust; decide (s.host.busMaster.contains (s.owner r.mb) = true) && (([0, 1, 2, 3, 5, 7, 8, 9, 16, 17, 40,
      63] : List Nat).any fun i => ((List.range (9)).all fun i => decide ((g.slot i).1.length = 64)) && decide (g.identity.length = 64) &&
      decide (i < 9))) = true ∧
  -- 2.0
  (let s : State := (K (H (fun h => { h with busMaster := List.range 40 }) (({ (up) with trust := { (up).trust with stage := 0x0F } } : State))) .module 0x0601 [0#64,0x1000#64,5#64]); let r : Req := (reqU 0 .module [0#64,0x1000#64,5#64]); let u : UnitId := .module; let i : W64 := 0#64; let a : W64 := 0x1000#64; let n : W64 := 5#64; decide (s.asked r 0x0601 false anyClass u = true) && decide (reqArgs r 0x0601 = [i, a, n]) && decide (fld i 63 2 = 0) && decide (s.host.busMaster.contains (s.owner r.mb) = true)) = true ∧
  -- 3.0
  (let s : State := (K (H (fun h => { h with busMaster := [] }) (({ (up) with trust := { (up).trust with stage := 0x0F, bank := 0, nextBank := 0, banks := { cells := [(6,1#8),(0x4000007,2#8)] } } } : State))) .module 0x0605 [mkWord [(0, 1, 0), (32, 32, 5)], 0x1000#64, BitVec.ofNat 64 7]); let r : Req := (reqU 0 .module [mkWord [(0, 1, 0), (32, 32, 5)], 0x1000#64, BitVec.ofNat 64 7]); let u : UnitId := .module; let b : Nat := 0; let off : Nat := 5; let n : Nat := 7; let a : W64 := 0x1000#64; decide (s.asked r 0x0605 false adminClass u = true) && decide (b < 2) && decide (off < 2 ^ 32) && decide (n < 2 ^ 32) && decide (reqArgs r 0x0605 = [mkWord [(0, 1, b), (32, 32, off)], a, BitVec.ofNat 64 n]) && let g := s.trust; decide (b = g.bank ∨ b = g.nextBank)) = true ∧
  -- 3.1
  (let s : State := (K (H (fun h => { h with busMaster := List.range 40 }) (({ (up) with trust := { (up).trust with stage := 0x0F, seed := some (List.replicate 64 3#8), identity := List.replicate 64 5#8, slots := (List.range 9).map fun i => (i, (List.replicate 64 (BitVec.ofNat 8 i), i)), bank := 0, nextBank := 0, banks := { cells := [(6,1#8),(0x4000007,2#8)] } } } : State))) .module 0x0605 [mkWord [(0, 1, 1), (32, 32, 67108848)], 0x1000#64, BitVec.ofNat 64 17]); let r : Req := (reqU 0 .module [mkWord [(0, 1, 1), (32, 32, 67108848)], 0x1000#64, BitVec.ofNat 64 17]); let u : UnitId := .module; let b : Nat := 1; let off : Nat := 67108848; let n : Nat := 17; let a : W64 := 0x1000#64; decide (s.asked r 0x0605 false adminClass u = true) && decide (b < 2) && decide (off < 2 ^ 32) && decide (n < 2 ^ 32) && decide (reqArgs r 0x0605 = [mkWord [(0, 1, b), (32, 32, off)], a, BitVec.ofNat 64 n]) && let g := s.trust; decide (b ≠ g.bank) && decide (b ≠ g.nextBank) && decide (0x4000000 < off + n)) = true ∧
  -- 3.2
  (let s : State := (K (H (fun h => { h with busMaster := List.range 40 }) (({ (up) with trust := { (up).trust with stage := 0x0F, seed := some (List.replicate 64 3#8), identity := List.replicate 64 5#8, slots := (List.range 9).map fun i => (i, (List.replicate 64 (BitVec.ofNat 8 i), i)), bank := 0, nextBank := 0, banks := { cells := [(6,1#8),(0x4000007,2#8)] } } } : State))) .module 0x0605 [mkWord [(0, 1, 1), (32, 32, 5)], 0x1000#64, BitVec.ofNat 64 7]); let r : Req := (reqU 0 .module [mkWord [(0, 1, 1), (32, 32, 5)], 0x1000#64, BitVec.ofNat 64 7]); let u : UnitId := .module; let b : Nat := 1; let off : Nat := 5; let n : Nat := 7; let a : W64 := 0x1000#64; decide (s.asked r 0x0605 false adminClass u = true) && decide (b < 2) && decide (off < 2 ^ 32) && decide (n < 2 ^ 32) && decide (reqArgs r 0x0605 = [mkWord [(0, 1, b), (32, 32, off)], a, BitVec.ofNat 64 n]) && let g := s.trust; decide (b ≠ g.bank) && decide (b ≠ g.nextBank) && decide (off + n ≤ 0x4000000) && decide (s.host.busMaster.contains (s.owner r.mb) = true)) = true ∧
  -- 4.0
  (let s : State := (K (H (fun h => { h with busMaster := [] }) (({ (up) with trust := { (up).trust with stage := 0x0F, bank := 0, nextBank := 1, banks := { cells := [(6,1#8),(0x4000007,2#8)] } } } : State))) .module 0x0606 [BitVec.ofNat 64 0]); let r : Req := (reqU 0 .module [BitVec.ofNat 64 0]); let u : UnitId := .module; let b : Nat := 0; decide (s.asked r 0x0606 false adminClass u = true) && decide (b < 2) && decide (reqArgs r 0x0606 = [BitVec.ofNat 64 b])) = true ∧
  -- 5.0
  (let s : State := (K (H (fun h => { h with busMaster := List.range 40 }) (({ (up) with trust := { (up).trust with stage := 0x0F, bank := 0, nextBank := 1, banks := { cells := [(6,1#8),(0x4000007,2#8)] } } } : State))) .module 0x0607 [0x1000#64]); let r : Req := (reqU 0 .module [0x1000#64]); let u : UnitId := .module; let a : W64 := 0x1000#64; decide (s.asked r 0x0607 false adminClass u = true) && decide (reqArgs r 0x0607 = [a]) && decide (s.host.busMaster.contains (s.owner r.mb) = true)) = true ∧
  -- 5.1
  (let s : State := (K (H (fun h => { h with busMaster := [] }) (({ (up) with trust := { (up).trust with stage := 0x0F, bank := 0, nextBank := 1, banks := { cells := [(6,1#8),(0x4000007,2#8)] } } } : State))) .module 0x0607 [0x1000#64]); let r : Req := (reqU 0 .module [0x1000#64]); let u : UnitId := .module; let a : W64 := 0x1000#64; decide (s.asked r 0x0607 false adminClass u = true) && decide (reqArgs r 0x0607 = [a]) && decide (s.host.busMaster.contains (s.owner r.mb) = false)) = true ∧
  -- 6.0
  (let s : State := (withReq (H (fun h => { h with busMaster := [] }) (({ (up) with trust := { (up).trust with stage := 0x0F, keys := [] } } : State))) (reqU 0 .module []) 0x0603); let r : Req := (reqU 0 .module []); let u : UnitId := .module; decide (s.asked r 0x0603 false anyClass u = true) && decide (reqArgs r 0x0603 = [])) = true ∧
  -- 7.0
  (let s : State := (hostN (fun h => { h with vfEnable := true, numVfs := 8 }) (withReq up (reqU 8 .module [BitVec.ofNat 64 33554499]) 0x604));
      let r : Req := (reqU 8 .module [BitVec.ofNat 64 33554499]); let u : UnitId := .module; let h : Nat := 33554499;
      decide (s.asked r 0x0604 false anyClass u = true) && decide (h < 2 ^ 32) && decide (reqArgs r 0x0604 = [BitVec.ofNat 64 h]) &&
      decide (s.isAdmin r.mb = false) && decide (h / 0x1000000 ≠ 1 ∨ h / 0x200000 % 8 ≠ r.mb / 4)) = true ∧
  -- 7.1
  (let s : State := (withReq (H (fun h => { h with busMaster := [] }) (({ (up) with trust := { (up).trust with stage := 0x0F, keys := [] } } : State))) (reqU 0 .module [BitVec.ofNat 64 0]) 0x0604); let r : Req := (reqU 0 .module [BitVec.ofNat 64 0]); let u : UnitId := .module; let h : Nat := 0; decide (s.asked r 0x0604 false anyClass u = true) && decide (h < 2 ^ 32) && decide (reqArgs r 0x0604 = [BitVec.ofNat 64 h]) && decide (s.isAdmin r.mb = true ∨ (h / 0x1000000 = 1 ∧ h / 0x200000 % 8 = r.mb / 4)) && decide (s.trust.resolve h = none)) = true ∧
  -- 7.2
  (let s : State := (withReq (H (fun h => { h with busMaster := [] }) ((({ (up) with trust := { (up).trust with stage := 0x0F, seed := some (List.replicate 64 3#8), identity := List.replicate 64 5#8, slots := (List.range 9).map fun i => (i, (List.replicate 64 (BitVec.ofNat 8 i), i)), keys := [(17, { kind := 1, ctx := 2, gen := 5, key := keyW }), (3, { kind := 2, ctx := 0, gen := 1, key := keyW })] } } : State).setCtx 1 { ctx0 with models := [(2, { state := .ready, layers := 1, key := 0x01400151 })] }))) (reqU 0 .module [BitVec.ofNat 64 20971857]) 0x0604); let r : Req := (reqU 0 .module [BitVec.ofNat 64 20971857]); let u : UnitId := .module; let h : Nat := 20971857; decide (s.asked r 0x0604 false anyClass u = true) && decide (h < 2 ^ 32) && decide (reqArgs r 0x0604 = [BitVec.ofNat 64 h]) && decide (s.isAdmin r.mb = true ∨ (h / 0x1000000 = 1 ∧ h / 0x200000 % 8 = r.mb / 4)) && decide (s.trust.resolve h ≠ none) && decide (s.modelUses h = true)) = true ∧
  -- 7.3
  (let s : State := (withReq (H (fun h => { h with busMaster := [] }) (({ (up) with trust := { (up).trust with stage := 0x0F, keys := [(17, { kind := 1, ctx := 2, gen := 5, key := keyW }), (3, { kind := 2, ctx := 0, gen := 1, key := keyW })] } } : State))) (reqU 12 .module [BitVec.ofNat 64 20971857]) 0x0604); let r : Req := (reqU 12 .module [BitVec.ofNat 64 20971857]); let u : UnitId := .module; let h : Nat := 20971857; decide (s.asked r 0x0604 false anyClass u = true) && decide (h < 2 ^ 32) && decide (reqArgs r 0x0604 = [BitVec.ofNat 64 h]) && decide (s.isAdmin r.mb = true ∨ (h / 0x1000000 = 1 ∧ h / 0x200000 % 8 = r.mb / 4)) && (match s.trust.resolve h with | some (i, e) => decide (s.modelUses h = false) | _ => false)) = true ∧
  -- 9.0
  (let s : State := { up with trust := { up.trust with stage := 2 } }; let oob : Bool := false; let a : Nat := 1; let b : Nat := 2; let n : Nat := 3;
      let ns : List W64 := []; let key : List W64 := keyW; let d : KeyDelivery := { kind := 1, ctx := 2, key := keyW, reserved := 0 };
      let go : Bool := true; let c : Instr := (.spdmHeartbeat false 1); decide (c ∈ [Instr.spdmGetCertificate oob a b n, .spdmChallenge oob ns,
      .spdmGetMeasurements oob a ns, .spdmKeyExchange oob go, .spdmHeartbeat oob a, .spdmEndSession oob a, .keyDeliver oob a d,
      .ideKm oob a key go]) && decide (s.spdmUp oob = false)) = true ∧
  -- 10.0
  (let s : State := (K (H (fun h => { h with busMaster := [] }) (({ (up) with trust := { (up).trust with stage := 0x0F, reply := none } } : State))) .module 0x0602 [8#64,0x1000#64,0x2000#64,64#64]); let r : Req := rqW61; let u : UnitId := .module; let a : W64 := 8#64; let b : W64 := 0x1000#64; let d : W64 := 0x2000#64; let e : W64 := 64#64; decide (s.asked r 0x0602 false anyClass u = true) && decide (reqArgs r 0x0602 = [a, b, d, e]) && decide (fld a 63 16 = 0) && decide (fld e 63 16 = 0) && decide (s.trust.seed = none)) = true ∧
  -- 10.1
  (let s : State := (K (H (fun h => { h with busMaster := List.range 40 }) (({ (up) with trust := { (up).trust with stage := 0x0F, seed := some (List.replicate 64 3#8), identity := List.replicate 64 5#8, slots := (List.range 9).map fun i => (i, (List.replicate 64 (BitVec.ofNat 8 i), i)), reply := some [1#64,2#64,3#64] } } : State))) .module 0x0602 [8#64,0x1000#64,0x2000#64,64#64]); let r : Req := rqW61; let u : UnitId := .module; let a : W64 := 8#64; let b : W64 := 0x1000#64; let d : W64 := 0x2000#64; let e : W64 := 64#64; decide (s.asked r 0x0602 false anyClass u = true) && decide (reqArgs r 0x0602 = [a, b, d, e]) && decide (fld a 63 16 = 0) && decide (fld e 63 16 = 0) && decide (s.trust.seed ≠ none) && decide (s.host.busMaster.contains (s.owner r.mb) = true)) = true ∧
  -- 11.0
  (let s : State := (sessS 2); let oob : Bool := false; decide (s.spdmUp oob = true) && let i := 0; decide (i < 4)) = true ∧
  -- 11.1
  (let s : State := (sessS 2); let oob : Bool := false; decide (s.spdmUp oob = true)) = true ∧
  -- 11.2
  (let s : State := (sessS 2); let oob : Bool := false; decide (s.spdmUp oob = true) && let i := 3; decide (i < 9)) = true ∧
  -- 11.3
  (let s : State := (sessS 8); let oob : Bool := false; decide (s.spdmUp oob = true) && let g := s.trust;
      decide (g.seed = none ∨ 8 ≤ g.sessions.length)) = true ∧
  -- 11.4
  (let s : State := (sessS 2); let oob : Bool := false; decide (s.spdmUp oob = true) && let g := s.trust; decide (g.seed ≠ none) &&
      decide (g.sessions.length < 8)) = true ∧
  -- 11.5
  (let s : State := (sessS 2); let oob : Bool := false; decide (s.spdmUp oob = true) && let g := s.trust; let id := 9;
      ((g.sessions).all fun x => decide (x.id ≠ id))) = true ∧
  -- 11.6
  (let s : State := (sessS 2); let oob : Bool := false; decide (s.spdmUp oob = true) && let g := s.trust; let id := 1;
      ((g.sessions).any fun x => decide (x.id = id))) = true ∧
  -- 11.7
  (let s : State := (sessS 2); let oob : Bool := false; decide (s.spdmUp oob = true) && let g := s.trust; let id := 1;
      ((g.sessions).any fun x => decide (x.id = id))) = true ∧
  -- 11.8
  (let s : State := (let s := sessS 2; { s with trust := { s.trust with keys := (List.range 64).map fun i => (i, { kind := 1, ctx := 0, gen := 1, key := [] }) } }); let oob : Bool := false; decide (s.spdmUp oob = true) && let g := s.trust; let id := 1; ((g.sessions).any fun x => decide (x.id = id ∧ x.summary = true)) && let d := ({ kind := 1, ctx := 2, key := keyW, reserved := 0 } : KeyDelivery); decide ((d.kind = 1 ∧ d.ctx ≤ 7) ∨ (d.kind = 2 ∧ d.ctx = 0)) && decide (d.reserved = 0) && decide (d.key.length = 4) && decide (g.freeEntry = none)) = true ∧
  -- 11.9
  (let s : State := (sessS 2); let oob : Bool := false; decide (s.spdmUp oob = true) && let g := s.trust; let id := 1;
      ((g.sessions).any fun x => decide (x.id = id ∧ x.summary = true)) &&
      let d := ({ kind := 1, ctx := 2, key := keyW, reserved := 0 } : KeyDelivery); decide ((d.kind = 1 ∧ d.ctx ≤ 7) ∨ (d.kind = 2 ∧ d.ctx = 0)) &&
      decide (d.reserved = 0) && decide (d.key.length = 4) && let i := 0; decide (g.freeEntry = some i)) = true ∧
  -- 12.0
  (let s : State := ({ (({ (up) with trust := { (up).trust with stage := 0x0F, sessions := [{ id := 1, summary := true, oob := true, beat := 5 }, { id := 2, summary := false, oob := false, beat := 6 }], nextSession := 7 } } : State)) with steep := { up.steep with ticks := 6000000005 } } : State); let id : Nat := 1; ((s.trust.sessions).any fun x => decide (x.id = id ∧ x.beat + 6000000000 ≤ s.steep.ticks))) = true ∧
  -- 12.1
  (let s : State := ({ (({ (up) with trust := { (up).trust with stage := 0x0F, sessions := [{ id := 1, summary := true, oob := true, beat := 5 }, { id := 2, summary := false, oob := false, beat := 6 }], nextSession := 7 } } : State)) with steep := { up.steep with ticks := 5 } } : State); let id : Nat := 1; ((s.trust.sessions).all fun x => decide (x.id = id → s.steep.ticks < x.beat + 6000000000))) = true :=
  by
  and_intros <;> decide +kernel

/-- The hypotheses of ModelsLoadServeAndAreReplaced can be met. -/
theorem witness_ModelsLoadServeAndAreReplaced :
  -- 0.0
  (let s : State := (K (mS .empty 2 4096) .module 0x0500 [(mkWord [(0,3,2),(4,2,1),(6,1,1),(8,10,1),(32,32,5)]), 0x200000#64, 0x300000#64, 9#64]);
      let r : Req := rqW62; let u : UnitId := .module; let a : W64 := opW63; let tab : W64 := 0x200000#64; let stg : W64 := 0x300000#64;
      let nonce : W64 := 9#64; decide (s.asked r 0x0500 false anyClass u = true) && decide (reqArgs r 0x0500 = [a, tab, stg, nonce]) &&
      let x := fld a 2 0; let m := fld a 5 4; let c := s.ctx x;
      let md : Model := { state := .empty, streamed := bitAt a 6, layers := fld a 17 8, tableAddr := tab.toNat, stageAddr := stg.toNat, key := fld a 63 32, nonce := nonce.toNat }; decide (s.mem.space.syn = []) && decide (bitAt a 3 = false) && decide (bitAt a 7 = false) && decide (fld a 31 18 = 0) && decide (fld a 17 8 ≠ 0) && decide (tab.toNat % 8 = 0) && decide (stg.toNat % 8 = 0) && decide (s.ctxNamed r.mb x = true) && decide (c.fastSpan tab.toNat (16 * fld a 17 8) = true) && decide (c.fastSpan stg.toNat (2 * s.bufferBytes md) = true) && ((List.range (fld a 17 8)).all fun l => decide ((s.layerEntry md l).1 % 8 = 0 ∧ (s.layerEntry md l).2 % 4096 = 0 ∧ c.fastSpan (s.layerEntry md l).1 (s.layerEntry md l).2 = true)) && decide ((c.model m).state ≠ .free)) = true ∧
  -- 0.1
  (let s : State := (K (mS .free 2 4096) .module 0x0500 [(mkWord [(0,3,2),(4,2,2),(6,1,0),(8,10,2),(32,32,0)]), 0x200000#64, 0x300000#64, 9#64]);
      let r : Req := (reqU 0 .module [(mkWord [(0,3,2),(4,2,2),(6,1,0),(8,10,2),(32,32,0)]), 0x200000#64, 0x300000#64, 9#64]);
      let u : UnitId := .module; let a : W64 := (mkWord [(0,3,2),(4,2,2),(6,1,0),(8,10,2),(32,32,0)]); let tab : W64 := 0x200000#64;
      let stg : W64 := 0x300000#64; let nonce : W64 := 9#64; decide (s.asked r 0x0500 false anyClass u = true) && decide (reqArgs r 0x0500 = [a, tab,
      stg, nonce]) && let x := fld a 2 0; let m := fld a 5 4; let c := s.ctx x;
      let md : Model := { state := .empty, streamed := bitAt a 6, layers := fld a 17 8, tableAddr := tab.toNat, stageAddr := stg.toNat, key := fld a 63 32, nonce := nonce.toNat }; decide (s.mem.space.syn = []) && decide (bitAt a 3 = false) && decide (bitAt a 7 = false) && decide (fld a 31 18 = 0) && decide (fld a 17 8 ≠ 0) && decide (tab.toNat % 8 = 0) && decide (stg.toNat % 8 = 0) && decide (s.ctxNamed r.mb x = true) && decide (c.fastSpan tab.toNat (16 * fld a 17 8) = true) && decide (c.fastSpan stg.toNat (2 * s.bufferBytes md) = true) && ((List.range (fld a 17 8)).all fun l => decide ((s.layerEntry md l).1 % 8 = 0 ∧ (s.layerEntry md l).2 % 4096 = 0 ∧ c.fastSpan (s.layerEntry md l).1 (s.layerEntry md l).2 = true)) && decide ((c.model m).state = .free) && (decide (fld a 63 32 = 0) || (match s.trust.resolve (fld a 63 32) with | some (i, e) => decide (e.kind = 1 ∧ e.ctx = x) | _ => false))) = true ∧
  -- 0.2
  (let s : State := (K (mS .free 2 4096) .module 0x0500 [(mkWord [(0,3,2),(4,2,1),(6,1,1),(8,10,1),(32,32,5)]), 0x200000#64, 0x300000#64, 9#64]);
      let r : Req := rqW62; let u : UnitId := .module; let a : W64 := opW63; let tab : W64 := 0x200000#64; let stg : W64 := 0x300000#64;
      let nonce : W64 := 9#64; decide (s.asked r 0x0500 false anyClass u = true) && decide (reqArgs r 0x0500 = [a, tab, stg, nonce]) &&
      let x := fld a 2 0; let m := fld a 5 4; let c := s.ctx x;
      let md : Model := { state := .empty, streamed := bitAt a 6, layers := fld a 17 8, tableAddr := tab.toNat, stageAddr := stg.toNat, key := fld a 63 32, nonce := nonce.toNat }; decide (s.mem.space.syn = []) && decide (bitAt a 3 = false) && decide (bitAt a 7 = false) && decide (fld a 31 18 = 0) && decide (fld a 17 8 ≠ 0) && decide (tab.toNat % 8 = 0) && decide (stg.toNat % 8 = 0) && decide (s.ctxNamed r.mb x = true) && decide (c.fastSpan tab.toNat (16 * fld a 17 8) = true) && decide (c.fastSpan stg.toNat (2 * s.bufferBytes md) = true) && ((List.range (fld a 17 8)).all fun l => decide ((s.layerEntry md l).1 % 8 = 0 ∧ (s.layerEntry md l).2 % 4096 = 0 ∧ c.fastSpan (s.layerEntry md l).1 (s.layerEntry md l).2 = true)) && decide ((c.model m).state = .free) && decide (fld a 63 32 ≠ 0) && decide (s.trust.resolve (fld a 63 32) = none)) = true ∧
  -- 1.0
  (let s : State := (withReq ({ (mS .free 2 4096 (fun m => { m with passes := [(1, { version := 3, nextLayer := 0 })] }) fun c => { c with slots := [(3, { streams := [strm] })], models := c.models ++ [(0, md0 .ready 1)] }) with loads := [({ ctx := 2, slot := 3, model := 1, layer := 0, loadId := 7, stage := none, nonce := 0, chain := 0, started := 0, streamId := 1, shards := [] } : Load), { ({ ctx := 2, slot := 3, model := 1, layer := 0, loadId := 7, stage := none, nonce := 0, chain := 0, started := 0, streamId := 1, shards := [] } : Load) with model := 0 }] } : State) (reqU 0 .module [mkWord [(0,3,3),(4,2,1)]]) 0x0501); let r : Req := (reqU 0 .module [mkWord [(0,3,3),(4,2,1)]]); let u : UnitId := .module; let x : Nat := 3; let m : Nat := 1; decide (s.asked r 0x0501 false anyClass u = true) && decide (x < 8) && decide (m < 4) && decide (reqArgs r 0x0501 = [mkWord [(0, 3, x), (4, 2, m)]]) && decide (s.ctxNamed r.mb x = false)) = true ∧
  -- 1.1
  (let s : State := (withReq ({ (mS .free 2 4096 (fun m => { m with passes := [(1, { version := 3, nextLayer := 0 })] }) fun c => { c with slots := [(3, { streams := [strm] })], models := c.models ++ [(0, md0 .ready 1)] }) with loads := [({ ctx := 2, slot := 3, model := 1, layer := 0, loadId := 7, stage := none, nonce := 0, chain := 0, started := 0, streamId := 1, shards := [] } : Load), { ({ ctx := 2, slot := 3, model := 1, layer := 0, loadId := 7, stage := none, nonce := 0, chain := 0, started := 0, streamId := 1, shards := [] } : Load) with model := 0 }] } : State) (reqU 0 .module [mkWord [(0,3,2),(4,2,1)]]) 0x0501); let r : Req := (reqU 0 .module [mkWord [(0,3,2),(4,2,1)]]); let u : UnitId := .module; let x : Nat := 2; let m : Nat := 1; decide (s.asked r 0x0501 false anyClass u = true) && decide (x < 8) && decide (m < 4) && decide (reqArgs r 0x0501 = [mkWord [(0, 3, x), (4, 2, m)]]) && decide (s.ctxNamed r.mb x = true) && decide (((s.ctx x).model m).state = .free)) = true ∧
  -- 1.2
  (let s : State := (withReq ({ (mS .empty 2 4096 (fun m => { m with passes := [(1, { version := 3, nextLayer := 0 })] }) fun c => { c with slots := [(3, { streams := [strm] })], models := c.models ++ [(0, md0 .ready 1)] }) with loads := [({ ctx := 2, slot := 3, model := 1, layer := 0, loadId := 7, stage := none, nonce := 0, chain := 0, started := 0, streamId := 1, shards := [] } : Load), { ({ ctx := 2, slot := 3, model := 1, layer := 0, loadId := 7, stage := none, nonce := 0, chain := 0, started := 0, streamId := 1, shards := [] } : Load) with model := 0 }] } : State) (reqU 0 .module [mkWord [(0,3,2),(4,2,1)]]) 0x0501); let r : Req := (reqU 0 .module [mkWord [(0,3,2),(4,2,1)]]); let u : UnitId := .module; let x : Nat := 2; let m : Nat := 1; decide (s.asked r 0x0501 false anyClass u = true) && decide (x < 8) && decide (m < 4) && decide (reqArgs r 0x0501 = [mkWord [(0, 3, x), (4, 2, m)]]) && decide (s.ctxNamed r.mb x = true) && decide (((s.ctx x).model m).state ≠ .free)) = true ∧
  -- 2.0
  (let s : State := (fenceS (.iod 0) (ilS .empty 2 4096 (ilCmd 1 0 0 1) id)); let x : Nat := 2; let slot : Nat := 3;
      let cmd : List W64 := (ilCmd 1 0 0 1); let t : Stream := (ilStrm (ilCmd 1 0 0 1)); let rest : List Stream := [];
      decide (((s.ctx x).slot slot).streams = t :: rest) && decide (t.running.isSome = true) && decide (Cmd.op cmd = 0x60) &&
      decide (t.nextIn cmd = some 3) && decide (s.mem.space.syn = []) && decide (s.enginesFenced = true)) = true ∧
  -- 2.1
  (let s : State := stW64; let x : Nat := 2; let slot : Nat := 3; let cmd : List W64 := opW65; let t : Stream := smW66; let rest : List Stream := [];
      decide (((s.ctx x).slot slot).streams = t :: rest) && decide (t.running.isSome = true) && decide (Cmd.op cmd = 0x60) &&
      decide (t.nextIn cmd = some 3) && decide (s.mem.space.syn = []) && let w := Cmd.w cmd 0; let md := (s.ctx x).model (fld w 17 16);
      let l := fld w 31 22; let first := fld w 47 32; let count := fld w 63 48; let bytes := (s.layerEntry md l).2;
      decide (s.enginesFenced = false) && decide (md.state = .free ∨ md.layers ≤ l ∨ shardsIn bytes < first + count)) = true ∧
  -- 2.2
  (let s : State := stW64; let x : Nat := 2; let slot : Nat := 3; let cmd : List W64 := opW65; let t : Stream := smW66; let rest : List Stream := [];
      decide (((s.ctx x).slot slot).streams = t :: rest) && decide (t.running.isSome = true) && decide (Cmd.op cmd = 0x60) &&
      decide (t.nextIn cmd = some 3) && decide (s.mem.space.syn = []) && let w := Cmd.w cmd 0; let md := (s.ctx x).model (fld w 17 16);
      decide (s.enginesFenced = false) && decide (bitAt w 20 = false) && decide (md.state ≠ .empty) &&
      decide (md.state ≠ .ready ∨ md.passes ≠ [])) = true ∧
  -- 2.3
  (let s : State := (mS .empty 2 32 id fun c => { c with slots := [(3, { streams := [{ strm with todo := [(3, [mkWord [(0,8,0x60),(8,4,5),(16,2,1),(18,2,1),(20,1,0),(21,1,1),(22,10,0),(32,16,0),(48,16,1)], 5#64, 4096#64, mkWord [(32,32,77)], 9#64]), (3, mk77)], words := ([mkWord [(0, 8, 1), (8, 4, 2), (16, 16, 1), (32, 32, 9)], 5#64, mkWord [(0, 8, 2), (8, 4, 2), (16, 16, 1)], BitVec.ofNat 64 (5 + ([mkWord [(0,8,0x60),(8,4,5),(16,2,1),(18,2,1),(20,1,0),(21,1,1),(22,10,0),(32,16,0),(48,16,1)], 5#64, 4096#64, mkWord [(32,32,77)], 9#64]).length), mkWord [(0, 8, 3), (8, 4, 3), (16, 4, 3)], 0#64, 0#64] ++ [mkWord [(0,8,0x60),(8,4,5),(16,2,1),(18,2,1),(20,1,0),(21,1,1),(22,10,0),(32,16,0),(48,16,1)], 5#64, 4096#64, mkWord [(32,32,77)], 9#64]), slices := 1, running := some 0, started := true }] })] }); let x : Nat := 2; let slot : Nat := 3; let cmd : List W64 := [mkWord [(0,8,0x60),(8,4,5),(16,2,1),(18,2,1),(20,1,0),(21,1,1),(22,10,0),(32,16,0),(48,16,1)], 5#64, 4096#64, mkWord [(32,32,77)], 9#64]; let t : Stream := ({ strm with todo := [(3, [mkWord [(0,8,0x60),(8,4,5),(16,2,1),(18,2,1),(20,1,0),(21,1,1),(22,10,0),(32,16,0),(48,16,1)], 5#64, 4096#64, mkWord [(32,32,77)], 9#64]), (3, mk77)], words := ([mkWord [(0, 8, 1), (8, 4, 2), (16, 16, 1), (32, 32, 9)], 5#64, mkWord [(0, 8, 2), (8, 4, 2), (16, 16, 1)], BitVec.ofNat 64 (5 + ([mkWord [(0,8,0x60),(8,4,5),(16,2,1),(18,2,1),(20,1,0),(21,1,1),(22,10,0),(32,16,0),(48,16,1)], 5#64, 4096#64, mkWord [(32,32,77)], 9#64]).length), mkWord [(0, 8, 3), (8, 4, 3), (16, 4, 3)], 0#64, 0#64] ++ [mkWord [(0,8,0x60),(8,4,5),(16,2,1),(18,2,1),(20,1,0),(21,1,1),(22,10,0),(32,16,0),(48,16,1)], 5#64, 4096#64, mkWord [(32,32,77)], 9#64]), slices := 1, running := some 0, started := true }); let rest : List Stream := []; decide (((s.ctx x).slot slot).streams = t :: rest) && decide (t.running.isSome = true) && decide (Cmd.op cmd = 0x60) && decide (t.nextIn cmd = some 3) && decide (s.mem.space.syn = []) && let w := Cmd.w cmd 0; let md := (s.ctx x).model (fld w 17 16); let l := fld w 31 22; let first := fld w 47 32; let count := fld w 63 48; let bytes := (s.layerEntry md l).2; decide (s.enginesFenced = false) && decide (md.state ≠ .free) && decide (bitAt w 20 = true ∨ md.state = .empty ∨ (md.state = .ready ∧ md.passes = [])) && decide (l < md.layers) && decide (first + count ≤ shardsIn bytes) && decide (fld w 19 18 = 1)) = true ∧
  -- 2.4
  (let s : State := (mS .replacing 2 32 id fun c => { c with slots := [(3, { streams := [{ strm with todo := [(3, [mkWord [(0,8,0x60),(8,4,5),(16,2,1),(18,2,0),(20,1,1),(21,1,1),(22,10,0),(32,16,0),(48,16,0)], 5#64, 4096#64, mkWord [(32,32,77)], 9#64]), (3, mk77)], words := ([mkWord [(0, 8, 1), (8, 4, 2), (16, 16, 1), (32, 32, 9)], 5#64, mkWord [(0, 8, 2), (8, 4, 2), (16, 16, 1)], BitVec.ofNat 64 (5 + ([mkWord [(0,8,0x60),(8,4,5),(16,2,1),(18,2,0),(20,1,1),(21,1,1),(22,10,0),(32,16,0),(48,16,0)], 5#64, 4096#64, mkWord [(32,32,77)], 9#64]).length), mkWord [(0, 8, 3), (8, 4, 3), (16, 4, 3)], 0#64, 0#64] ++ [mkWord [(0,8,0x60),(8,4,5),(16,2,1),(18,2,0),(20,1,1),(21,1,1),(22,10,0),(32,16,0),(48,16,0)], 5#64, 4096#64, mkWord [(32,32,77)], 9#64]), slices := 1, running := some 0, started := true }] })] }); let x : Nat := 2; let slot : Nat := 3; let cmd : List W64 := [mkWord [(0,8,0x60),(8,4,5),(16,2,1),(18,2,0),(20,1,1),(21,1,1),(22,10,0),(32,16,0),(48,16,0)], 5#64, 4096#64, mkWord [(32,32,77)], 9#64]; let host : HostRead := (.ok []); let t : Stream := ({ strm with todo := [(3, [mkWord [(0,8,0x60),(8,4,5),(16,2,1),(18,2,0),(20,1,1),(21,1,1),(22,10,0),(32,16,0),(48,16,0)], 5#64, 4096#64, mkWord [(32,32,77)], 9#64]), (3, mk77)], words := ([mkWord [(0, 8, 1), (8, 4, 2), (16, 16, 1), (32, 32, 9)], 5#64, mkWord [(0, 8, 2), (8, 4, 2), (16, 16, 1)], BitVec.ofNat 64 (5 + ([mkWord [(0,8,0x60),(8,4,5),(16,2,1),(18,2,0),(20,1,1),(21,1,1),(22,10,0),(32,16,0),(48,16,0)], 5#64, 4096#64, mkWord [(32,32,77)], 9#64]).length), mkWord [(0, 8, 3), (8, 4, 3), (16, 4, 3)], 0#64, 0#64] ++ [mkWord [(0,8,0x60),(8,4,5),(16,2,1),(18,2,0),(20,1,1),(21,1,1),(22,10,0),(32,16,0),(48,16,0)], 5#64, 4096#64, mkWord [(32,32,77)], 9#64]), slices := 1, running := some 0, started := true }); let rest : List Stream := []; decide (((s.ctx x).slot slot).streams = t :: rest) && decide (t.running.isSome = true) && decide (Cmd.op cmd = 0x60) && decide (t.nextIn cmd = some 3) && decide (s.mem.space.syn = []) && let w := Cmd.w cmd 0; let md := (s.ctx x).model (fld w 17 16); let l := fld w 31 22; let first := fld w 47 32; let count := fld w 63 48; let bytes := (s.layerEntry md l).2; let n := min (4194304 * count) (bytes - 4194304 * first); let base := if bitAt w 20 = false then (s.layerEntry md l).1 else s.bufferAt md (fld w 21 21); decide (s.enginesFenced = false) && decide (md.state ≠ .free) && decide (bitAt w 20 = true ∨ md.state = .empty ∨ (md.state = .ready ∧ md.passes = [])) && decide (l < md.layers) && decide (first + count ≤ shardsIn bytes) && decide (fld w 19 18 = 0) && decide (s.host.busMaster.contains (s.owner (4 * x)) = true) && (match host with | .ok ws => decide (ws.length = n / 8) && decide (bytes % 8 = 0) && decide (base % 8 = 0) && decide (md.key = 0) && decide (s.mem.injArm = false) | _ => false)) = true ∧
  -- 2.5
  (let s : State := (mS .empty 2 0 id fun c => { c with slots := [(3, { streams := [{ strm with todo := [(3, [mkWord [(0,8,0x60),(8,4,5),(16,2,1),(18,2,2),(20,1,1),(21,1,1),(22,10,0),(32,16,0),(48,16,0)], 5#64, 4096#64, mkWord [(32,32,77)], 9#64]), (3, mk77)], words := ([mkWord [(0, 8, 1), (8, 4, 2), (16, 16, 1), (32, 32, 9)], 5#64, mkWord [(0, 8, 2), (8, 4, 2), (16, 16, 1)], BitVec.ofNat 64 (5 + ([mkWord [(0,8,0x60),(8,4,5),(16,2,1),(18,2,2),(20,1,1),(21,1,1),(22,10,0),(32,16,0),(48,16,0)], 5#64, 4096#64, mkWord [(32,32,77)], 9#64]).length), mkWord [(0, 8, 3), (8, 4, 3), (16, 4, 3)], 0#64, 0#64] ++ [mkWord [(0,8,0x60),(8,4,5),(16,2,1),(18,2,2),(20,1,1),(21,1,1),(22,10,0),(32,16,0),(48,16,0)], 5#64, 4096#64, mkWord [(32,32,77)], 9#64]), slices := 1, running := some 0, started := true }] })] }); let x : Nat := 2; let slot : Nat := 3; let cmd : List W64 := [mkWord [(0,8,0x60),(8,4,5),(16,2,1),(18,2,2),(20,1,1),(21,1,1),(22,10,0),(32,16,0),(48,16,0)], 5#64, 4096#64, mkWord [(32,32,77)], 9#64]; let t : Stream := ({ strm with todo := [(3, [mkWord [(0,8,0x60),(8,4,5),(16,2,1),(18,2,2),(20,1,1),(21,1,1),(22,10,0),(32,16,0),(48,16,0)], 5#64, 4096#64, mkWord [(32,32,77)], 9#64]), (3, mk77)], words := ([mkWord [(0, 8, 1), (8, 4, 2), (16, 16, 1), (32, 32, 9)], 5#64, mkWord [(0, 8, 2), (8, 4, 2), (16, 16, 1)], BitVec.ofNat 64 (5 + ([mkWord [(0,8,0x60),(8,4,5),(16,2,1),(18,2,2),(20,1,1),(21,1,1),(22,10,0),(32,16,0),(48,16,0)], 5#64, 4096#64, mkWord [(32,32,77)], 9#64]).length), mkWord [(0, 8, 3), (8, 4, 3), (16, 4, 3)], 0#64, 0#64] ++ [mkWord [(0,8,0x60),(8,4,5),(16,2,1),(18,2,2),(20,1,1),(21,1,1),(22,10,0),(32,16,0),(48,16,0)], 5#64, 4096#64, mkWord [(32,32,77)], 9#64]), slices := 1, running := some 0, started := true }); let rest : List Stream := []; decide (((s.ctx x).slot slot).streams = t :: rest) && decide (t.running.isSome = true) && decide (Cmd.op cmd = 0x60) && decide (t.nextIn cmd = some 3) && decide (s.mem.space.syn = []) && let w := Cmd.w cmd 0; let md := (s.ctx x).model (fld w 17 16); let l := fld w 31 22; let first := fld w 47 32; let count := fld w 63 48; let bytes := (s.layerEntry md l).2; let base := if bitAt w 20 = false then (s.layerEntry md l).1 else s.bufferAt md (fld w 21 21); decide (s.enginesFenced = false) && decide (md.state ≠ .free) && decide (bitAt w 20 = true ∨ md.state = .empty ∨ (md.state = .ready ∧ md.passes = [])) && decide (l < md.layers) && decide (first + count ≤ shardsIn bytes) && decide (fld w 19 18 = 2) && decide (bytes % 8 = 0) && decide (base % 8 = 0) && decide (md.key = 0) && decide (s.mem.injArm = false)) = true ∧
  -- 2.6
  (let s : State := (ilS .empty 2 4096 (ilCmd 0 0 0 1) id); let x : Nat := 2; let slot : Nat := 3; let cmd : List W64 := (ilCmd 0 0 0 1);
      let host : HostRead := (.fail 1); let t : Stream := (ilStrm (ilCmd 0 0 0 1)); let rest : List Stream := [];
      decide (((s.ctx x).slot slot).streams = t :: rest) && decide (t.running.isSome = true) && decide (Cmd.op cmd = 0x60) &&
      decide (t.nextIn cmd = some 3) && decide (s.mem.space.syn = []) && let w := Cmd.w cmd 0; let md := (s.ctx x).model (fld w 17 16);
      let l := fld w 31 22; let first := fld w 47 32; let count := fld w 63 48; let bytes := (s.layerEntry md l).2;
      decide (s.enginesFenced = false) && decide (md.state ≠ .free) && decide (bitAt w 20 = true ∨ md.state = .empty ∨ (md.state = .ready ∧
      md.passes = [])) && decide (l < md.layers) && decide (first + count ≤ shardsIn bytes) && let kind := 1; decide (fld w 19 18 = 0) &&
      decide (s.host.busMaster.contains (s.owner (4 * x)) = true) && decide (host = .fail kind)) = true ∧
  -- 2.7
  (let s : State := (hostN (fun h => { h with busMaster := [] }) (ilS .empty 2 4096 (ilCmd 0 0 0 1) id)); let x : Nat := 2; let slot : Nat := 3;
      let cmd : List W64 := (ilCmd 0 0 0 1); let t : Stream := (ilStrm (ilCmd 0 0 0 1)); let rest : List Stream := [];
      decide (((s.ctx x).slot slot).streams = t :: rest) && decide (t.running.isSome = true) && decide (Cmd.op cmd = 0x60) &&
      decide (t.nextIn cmd = some 3) && decide (s.mem.space.syn = []) && let w := Cmd.w cmd 0; let md := (s.ctx x).model (fld w 17 16);
      let l := fld w 31 22; let first := fld w 47 32; let count := fld w 63 48; let bytes := (s.layerEntry md l).2;
      decide (s.enginesFenced = false) && decide (md.state ≠ .free) && decide (bitAt w 20 = true ∨ md.state = .empty ∨ (md.state = .ready ∧
      md.passes = [])) && decide (l < md.layers) && decide (first + count ≤ shardsIn bytes) && decide (fld w 19 18 = 0) &&
      decide (s.host.busMaster.contains (s.owner (4 * x)) = false)) = true ∧
  -- 3.0
  (let s : State := (mS .free 2 32 (fun m => { m with streamed := true, passes := [] }) fun c => { c with slots := [(3, { streams := [({ strm with words := ([mkWord [(0, 8, 1), (8, 4, 2), (16, 16, 1), (32, 32, 9)], 5#64, mkWord [(0, 8, 2), (8, 4, 2), (16, 16, 1)], BitVec.ofNat 64 (5 + ([mkWord [(0,8,0x61),(8,4,1),(16,2,1),(18,8,4),(32,10,0),(42,10,1)]]).length), mkWord [(0, 8, 3), (8, 4, 3), (16, 4, 3)], 0#64, 0#64] ++ [mkWord [(0,8,0x61),(8,4,1),(16,2,1),(18,8,4),(32,10,0),(42,10,1)]]), slices := 1 } : Stream)] })] }); let x : Nat := 2; let slot : Nat := 3; let cmd : List W64 := opW67; let t : Stream := smW68; let rest : List Stream := []; decide (((s.ctx x).slot slot).streams = t :: rest) && decide (t.running = none) && decide (((s.ctx x).slot slot).held = false) && decide (Cmd.op cmd = 0x61) && decide (((t.slice t.done).any fun g => g.kind = 3 && g.cmds.contains cmd) = true) && let w := Cmd.w cmd 0; let m := fld w 17 16; let md := (s.ctx x).model m; decide (md.state = .free ∨ md.streamed = true)) = true ∧
  -- 3.1
  (let s : State := (mS .mixed 2 32 (fun m => { m with streamed := false, passes := [(4, { version := 3, nextLayer := 1 }), (5, { version := 2, nextLayer := 1 })] }) fun c => { c with slots := [(3, { streams := [({ strm with words := ([mkWord [(0, 8, 1), (8, 4, 2), (16, 16, 1), (32, 32, 9)], 5#64, mkWord [(0, 8, 2), (8, 4, 2), (16, 16, 1)], BitVec.ofNat 64 (5 + ([mkWord [(0,8,0x61),(8,4,1),(16,2,1),(18,8,4),(32,10,1),(42,10,2)]]).length), mkWord [(0, 8, 3), (8, 4, 3), (16, 4, 3)], 0#64, 0#64] ++ [mkWord [(0,8,0x61),(8,4,1),(16,2,1),(18,8,4),(32,10,1),(42,10,2)]]), slices := 1 } : Stream)] })] }); let x : Nat := 2; let slot : Nat := 3; let cmd : List W64 := [mkWord [(0,8,0x61),(8,4,1),(16,2,1),(18,8,4),(32,10,1),(42,10,2)]]; let t : Stream := ({ strm with words := ([mkWord [(0, 8, 1), (8, 4, 2), (16, 16, 1), (32, 32, 9)], 5#64, mkWord [(0, 8, 2), (8, 4, 2), (16, 16, 1)], BitVec.ofNat 64 (5 + ([mkWord [(0,8,0x61),(8,4,1),(16,2,1),(18,8,4),(32,10,1),(42,10,2)]]).length), mkWord [(0, 8, 3), (8, 4, 3), (16, 4, 3)], 0#64, 0#64] ++ [mkWord [(0,8,0x61),(8,4,1),(16,2,1),(18,8,4),(32,10,1),(42,10,2)]]), slices := 1 } : Stream); let rest : List Stream := []; decide (((s.ctx x).slot slot).streams = t :: rest) && decide (t.running = none) && decide (((s.ctx x).slot slot).held = false) && decide (Cmd.op cmd = 0x61) && decide (((t.slice t.done).any fun g => g.kind = 3 && g.cmds.contains cmd) = true) && let w := Cmd.w cmd 0; let m := fld w 17 16; let md := (s.ctx x).model m; decide (md.state ≠ .free) && decide (md.streamed = false) && decide (md.layers < fld w 41 32 + fld w 51 42)) = true ∧
  -- 3.2
  (let s : State := (mS .empty 2 32 (fun m => { m with streamed := false, passes := [(4, { version := 3, nextLayer := 0 })] }) fun c => { c with slots := [(3, { streams := [({ strm with words := ([mkWord [(0, 8, 1), (8, 4, 2), (16, 16, 1), (32, 32, 9)], 5#64, mkWord [(0, 8, 2), (8, 4, 2), (16, 16, 1)], BitVec.ofNat 64 (5 + ([mkWord [(0,8,0x61),(8,4,1),(16,2,1),(18,8,4),(32,10,1),(42,10,1)]]).length), mkWord [(0, 8, 3), (8, 4, 3), (16, 4, 3)], 0#64, 0#64] ++ [mkWord [(0,8,0x61),(8,4,1),(16,2,1),(18,8,4),(32,10,1),(42,10,1)]]), slices := 1 } : Stream)] })] }); let x : Nat := 2; let slot : Nat := 3; let cmd : List W64 := opW69; let t : Stream := smW70; let rest : List Stream := []; decide (((s.ctx x).slot slot).streams = t :: rest) && decide (t.running = none) && decide (((s.ctx x).slot slot).held = false) && decide (Cmd.op cmd = 0x61) && decide (((t.slice t.done).any fun g => g.kind = 3 && g.cmds.contains cmd) = true) && let w := Cmd.w cmd 0; let m := fld w 17 16; let md := (s.ctx x).model m; decide (md.state ≠ .free) && decide (md.streamed = false) && decide (fld w 41 32 + fld w 51 42 ≤ md.layers) && (match md.passes.find (fld w 25 18) with | some p => decide (p.aborted = false) && decide (p.nextLayer ≠ fld w 41 32) | _ => false)) = true ∧
  -- 3.3
  (let s : State := (mS .mixed 2 32 (fun m => { m with streamed := false, passes := [(4, { version := 3, nextLayer := 1 }), (5, { version := 2, nextLayer := 1 })] }) fun c => { c with slots := [(3, { streams := [({ strm with words := ([mkWord [(0, 8, 1), (8, 4, 2), (16, 16, 1), (32, 32, 9)], 5#64, mkWord [(0, 8, 2), (8, 4, 2), (16, 16, 1)], BitVec.ofNat 64 (5 + ([mkWord [(0,8,0x61),(8,4,1),(16,2,1),(18,8,4),(32,10,1),(42,10,1)]]).length), mkWord [(0, 8, 3), (8, 4, 3), (16, 4, 3)], 0#64, 0#64] ++ [mkWord [(0,8,0x61),(8,4,1),(16,2,1),(18,8,4),(32,10,1),(42,10,1)]]), slices := 1 } : Stream)] })] }); let x : Nat := 2; let slot : Nat := 3; let cmd : List W64 := opW69; let t : Stream := smW70; let rest : List Stream := []; decide (((s.ctx x).slot slot).streams = t :: rest) && decide (t.running = none) && decide (((s.ctx x).slot slot).held = false) && decide (Cmd.op cmd = 0x61) && decide (((t.slice t.done).any fun g => g.kind = 3 && g.cmds.contains cmd) = true) && let w := Cmd.w cmd 0; let m := fld w 17 16; let md := (s.ctx x).model m; decide (md.state ≠ .free) && decide (md.streamed = false) && decide (fld w 41 32 + fld w 51 42 ≤ md.layers) && (match md.passes.find (fld w 25 18) with | some p => decide (p.aborted = false) && decide (p.nextLayer = fld w 41 32) | _ => false)) = true ∧
  -- 3.4
  (let s : State := (igS .ready 2 32 (igCmd 4 0 1) (fun m => { m with passes := [(4, { version := 3, nextLayer := 0, aborted := true })] }));
      let x : Nat := 2; let slot : Nat := 3; let cmd : List W64 := (igCmd 4 0 1); let t : Stream := (igStrm (igCmd 4 0 1));
      let rest : List Stream := []; decide (((s.ctx x).slot slot).streams = t :: rest) && decide (t.running = none) &&
      decide (((s.ctx x).slot slot).held = false) && decide (Cmd.op cmd = 0x61) && decide (((t.slice t.done).any fun g => g.kind = 3 &&
      g.cmds.contains cmd) = true) && let w := Cmd.w cmd 0; let m := fld w 17 16; let md := (s.ctx x).model m; decide (md.state ≠ .free) &&
      decide (md.streamed = false) && decide (fld w 41 32 + fld w 51 42 ≤ md.layers) && let p := { version := 3, nextLayer := 0, aborted := true };
      decide (md.passes.find (fld w 25 18) = some p) && decide (p.aborted = true)) = true ∧
  -- 3.5
  (let s : State := (mS .empty 2 32 (fun m => { m with streamed := false, passes := [] }) fun c => { c with slots := [(3, { streams := [({ strm with words := ([mkWord [(0, 8, 1), (8, 4, 2), (16, 16, 1), (32, 32, 9)], 5#64, mkWord [(0, 8, 2), (8, 4, 2), (16, 16, 1)], BitVec.ofNat 64 (5 + ([mkWord [(0,8,0x61),(8,4,1),(16,2,1),(18,8,4),(32,10,1),(42,10,1)]]).length), mkWord [(0, 8, 3), (8, 4, 3), (16, 4, 3)], 0#64, 0#64] ++ [mkWord [(0,8,0x61),(8,4,1),(16,2,1),(18,8,4),(32,10,1),(42,10,1)]]), slices := 1 } : Stream)] })] }); let x : Nat := 2; let slot : Nat := 3; let cmd : List W64 := opW69; let t : Stream := smW70; let rest : List Stream := []; decide (((s.ctx x).slot slot).streams = t :: rest) && decide (t.running = none) && decide (((s.ctx x).slot slot).held = false) && decide (Cmd.op cmd = 0x61) && decide (((t.slice t.done).any fun g => g.kind = 3 && g.cmds.contains cmd) = true) && let w := Cmd.w cmd 0; let m := fld w 17 16; let md := (s.ctx x).model m; decide (md.state ≠ .free) && decide (md.streamed = false) && decide (fld w 41 32 + fld w 51 42 ≤ md.layers) && decide (md.passes.find (fld w 25 18) = none) && decide (fld w 41 32 ≠ 0)) = true ∧
  -- 3.6
  (let s : State := (mS .ready 2 32 (fun m => { m with streamed := false, passes := [] }) fun c => { c with slots := [(3, { streams := [({ strm with words := ([mkWord [(0, 8, 1), (8, 4, 2), (16, 16, 1), (32, 32, 9)], 5#64, mkWord [(0, 8, 2), (8, 4, 2), (16, 16, 1)], BitVec.ofNat 64 (5 + ([mkWord [(0,8,0x61),(8,4,1),(16,2,1),(18,8,4),(32,10,0),(42,10,1)]]).length), mkWord [(0, 8, 3), (8, 4, 3), (16, 4, 3)], 0#64, 0#64] ++ [mkWord [(0,8,0x61),(8,4,1),(16,2,1),(18,8,4),(32,10,0),(42,10,1)]]), slices := 1 } : Stream)] })] }); let x : Nat := 2; let slot : Nat := 3; let cmd : List W64 := opW67; let t : Stream := smW68; let rest : List Stream := []; decide (((s.ctx x).slot slot).streams = t :: rest) && decide (t.running = none) && decide (((s.ctx x).slot slot).held = false) && decide (Cmd.op cmd = 0x61) && decide (((t.slice t.done).any fun g => g.kind = 3 && g.cmds.contains cmd) = true) && let w := Cmd.w cmd 0; let m := fld w 17 16; let md := (s.ctx x).model m; decide (md.state ≠ .free) && decide (md.streamed = false) && decide (fld w 41 32 + fld w 51 42 ≤ md.layers) && decide (md.passes.find (fld w 25 18) = none) && decide (fld w 41 32 = 0)) = true ∧
  -- 4.0
  (let s : State := (mS .ready 2 32 id fun c => { c with slots := [(3, { streams := [({ strm with todo := [(3, [mkWord [(0,8,0x62),(8,4,1),(16,2,1),(18,8,4),(32,10,0),(42,10,0)]]), (3, mk77)], words := ([mkWord [(0, 8, 1), (8, 4, 2), (16, 16, 1), (32, 32, 9)], 5#64, mkWord [(0, 8, 2), (8, 4, 2), (16, 16, 1)], BitVec.ofNat 64 (5 + ([mkWord [(0,8,0x62),(8,4,1),(16,2,1),(18,8,4),(32,10,0),(42,10,0)]]).length), mkWord [(0, 8, 3), (8, 4, 3), (16, 4, 3)], 0#64, 0#64] ++ [mkWord [(0,8,0x62),(8,4,1),(16,2,1),(18,8,4),(32,10,0),(42,10,0)]]), slices := 1, running := some 0 } : Stream)] })] }); let x : Nat := 2; let slot : Nat := 3; let cmd : List W64 := opW71; let t : Stream := ({ strm with todo := [(3, [mkWord [(0,8,0x62),(8,4,1),(16,2,1),(18,8,4),(32,10,0),(42,10,0)]]), (3, mk77)], words := ([mkWord [(0, 8, 1), (8, 4, 2), (16, 16, 1), (32, 32, 9)], 5#64, mkWord [(0, 8, 2), (8, 4, 2), (16, 16, 1)], BitVec.ofNat 64 (5 + ([mkWord [(0,8,0x62),(8,4,1),(16,2,1),(18,8,4),(32,10,0),(42,10,0)]]).length), mkWord [(0, 8, 3), (8, 4, 3), (16, 4, 3)], 0#64, 0#64] ++ [mkWord [(0,8,0x62),(8,4,1),(16,2,1),(18,8,4),(32,10,0),(42,10,0)]]), slices := 1, running := some 0 } : Stream); let rest : List Stream := []; decide (((s.ctx x).slot slot).streams = t :: rest) && decide (t.running.isSome = true) && decide (Cmd.op cmd = 0x62) && decide (t.nextIn cmd = some 3)) = true ∧
  -- 4.1
  (let s : State := (mS .ready 2 32 id fun c => { c with slots := [(3, { streams := [({ strm with todo := [(3, [mkWord [(0,8,0x62),(8,4,1),(16,2,1),(18,8,4),(32,10,0),(42,10,0)]]), (3, mk77)], words := ([mkWord [(0, 8, 1), (8, 4, 2), (16, 16, 1), (32, 32, 9)], 5#64, mkWord [(0, 8, 2), (8, 4, 2), (16, 16, 1)], BitVec.ofNat 64 (5 + ([mkWord [(0,8,0x62),(8,4,1),(16,2,1),(18,8,4),(32,10,0),(42,10,0)]]).length), mkWord [(0, 8, 3), (8, 4, 3), (16, 4, 3)], 0#64, 0#64] ++ [mkWord [(0,8,0x62),(8,4,1),(16,2,1),(18,8,4),(32,10,0),(42,10,0)]]), slices := 1, running := none } : Stream)] })] }); let x : Nat := 2; let slot : Nat := 3; let cmd : List W64 := opW71; let t : Stream := ({ strm with todo := [(3, [mkWord [(0,8,0x62),(8,4,1),(16,2,1),(18,8,4),(32,10,0),(42,10,0)]]), (3, mk77)], words := ([mkWord [(0, 8, 1), (8, 4, 2), (16, 16, 1), (32, 32, 9)], 5#64, mkWord [(0, 8, 2), (8, 4, 2), (16, 16, 1)], BitVec.ofNat 64 (5 + ([mkWord [(0,8,0x62),(8,4,1),(16,2,1),(18,8,4),(32,10,0),(42,10,0)]]).length), mkWord [(0, 8, 3), (8, 4, 3), (16, 4, 3)], 0#64, 0#64] ++ [mkWord [(0,8,0x62),(8,4,1),(16,2,1),(18,8,4),(32,10,0),(42,10,0)]]), slices := 1, running := none } : Stream); let rest : List Stream := []; decide (((s.ctx x).slot slot).streams = t :: rest) && decide (t.running = none ∨ Cmd.op cmd ≠ 0x62 ∨ t.nextIn cmd ≠ some 3)) = true ∧
  -- 5.0
  (let s : State := (hostN (fun h => { h with vfEnable := true, numVfs := 8 }) (withReq (mS .ready 2 32) (reqU 4 .module rsW) 0x0502));
      let r : Req := (reqU 4 .module rsW); let u : UnitId := .module; let a : W64 := (rsW.getD 0 0#64); let src : W64 := 0x1000#64;
      let hst : W64 := 0#64; let nonce : W64 := 9#64; let e : W64 := 0#64; let code : Nat := 0x0502;
      let c : Instr := (.replaceStart (reqU 4 .module rsW)); let want : ModelState := .ready; decide ((code, c, want) ∈ [(0x0502,
      Instr.replaceStart r, ModelState.ready), (0x0503, .replaceResume r, .mixed), (0x0504, .replaceRollback r, .mixed)]) &&
      decide (s.asked r code false anyClass u = true) && decide (reqArgs r code = [a, src, hst, nonce, e]) && decide (s.mem.space.syn = []) &&
      let x := fld a 2 0; decide (bitAt a 3 = false) && decide (fld a 7 6 = 0) && decide (fld a 11 10 = 0) && decide (bitAt a 15 = false) &&
      decide (fld a 31 19 = 0) && decide (fld e 63 24 = 0) && decide (fld a 9 8 ≠ 3) && decide (s.ctxNamed r.mb x = false)) = true ∧
  -- 5.1
  (let s : State := (K (mS .free 2 32 (fun m => { m with front := 1, newVersion := 4, wave := none, passes := [(1, { version := 4, nextLayer := 0 }), (2, { version := 4, nextLayer := 1 }), (3, { version := 3, nextLayer := 1 })] }) fun c => { c with models := c.models ++ [(0, md0 .ready 1)] }) .module 1282 [(mkWord [(0,3,2),(4,2,1),(8,2,0),(16,3,2),(32,32,88)]), 0x200000#64, 0x5000#64, 9#64, 0x30201#64]); let r : Req := rqW72; let u : UnitId := .module; let a : W64 := opW73; let src : W64 := 0x200000#64; let hst : W64 := 0x5000#64; let nonce : W64 := 9#64; let e : W64 := 0x30201#64; let code : Nat := 1282; let c : Instr := (.replaceStart (reqU 0 .module [(mkWord [(0,3,2),(4,2,1),(8,2,0),(16,3,2),(32,32,88)]), 0x200000#64, 0x5000#64, 9#64, 0x30201#64])); let want : ModelState := .ready; decide ((code, c, want) ∈ [(0x0502, Instr.replaceStart r, ModelState.ready), (0x0503, .replaceResume r, .mixed), (0x0504, .replaceRollback r, .mixed)]) && decide (s.asked r code false anyClass u = true) && decide (reqArgs r code = [a, src, hst, nonce, e]) && decide (s.mem.space.syn = []) && let x := fld a 2 0; let m := fld a 5 4; let md := (s.ctx x).model m; decide (bitAt a 3 = false) && decide (fld a 7 6 = 0) && decide (fld a 11 10 = 0) && decide (bitAt a 15 = false) && decide (fld a 31 19 = 0) && decide (fld e 63 24 = 0) && decide (fld a 9 8 ≠ 3) && decide (s.ctxNamed r.mb x = true) && decide (fld a 9 8 = 2 → (s.ctx (fld a 18 16)).state ≠ .free ∧ (s.ctx (fld a 18 16)).jobId = (s.ctx x).jobId ∧ (s.ctx (fld a 18 16)).fastSpan src.toNat (s.layerOffset md md.layers) = true) && decide (md.state ≠ want ∨ md.streamed = true)) = true ∧
  -- 5.2
  (let s : State := stW74; let r : Req := rqW75; let u : UnitId := .module; let a : W64 := opW76; let src : W64 := 0x200000#64;
      let hst : W64 := 0x5000#64; let nonce : W64 := 9#64; let e : W64 := 0x30201#64; let code : Nat := 1282;
      let c : Instr := (.replaceStart (reqU 0 .module [(mkWord [(0,3,2),(4,2,1),(8,2,2),(16,3,2),(32,32,88)]), 0x200000#64, 0x5000#64, 9#64, 0x30201#64])); let want : ModelState := .ready; decide ((code, c, want) ∈ [(0x0502, Instr.replaceStart r, ModelState.ready), (0x0503, .replaceResume r, .mixed), (0x0504, .replaceRollback r, .mixed)]) && decide (s.asked r code false anyClass u = true) && decide (reqArgs r code = [a, src, hst, nonce, e]) && decide (s.mem.space.syn = []) && let x := fld a 2 0; let m := fld a 5 4; let md := (s.ctx x).model m; decide (bitAt a 3 = false) && decide (fld a 7 6 = 0) && decide (fld a 11 10 = 0) && decide (bitAt a 15 = false) && decide (fld a 31 19 = 0) && decide (fld e 63 24 = 0) && decide (fld a 9 8 ≠ 3) && decide (s.ctxNamed r.mb x = true) && decide (fld a 9 8 = 2 → (s.ctx (fld a 18 16)).state ≠ .free ∧ (s.ctx (fld a 18 16)).jobId = (s.ctx x).jobId ∧ (s.ctx (fld a 18 16)).fastSpan src.toNat (s.layerOffset md md.layers) = true) && decide (md.state = want) && decide (md.streamed = false)) = true ∧
  -- 5.3
  (let s : State := stW74; let r : Req := rqW75; let u : UnitId := .module; let a : W64 := opW76; let src : W64 := 0x200000#64;
      let hst : W64 := 0x5000#64; let nonce : W64 := 9#64; let e : W64 := 0x30201#64; let code : Nat := 1282;
      let c : Instr := (.replaceStart (reqU 0 .module [(mkWord [(0,3,2),(4,2,1),(8,2,2),(16,3,2),(32,32,88)]), 0x200000#64, 0x5000#64, 9#64, 0x30201#64])); let want : ModelState := .ready; decide ((code, c, want) ∈ [(0x0502, Instr.replaceStart r, ModelState.ready), (0x0503, .replaceResume r, .mixed), (0x0504, .replaceRollback r, .mixed)]) && decide (s.asked r code false anyClass u = true) && decide (reqArgs r code = [a, src, hst, nonce, e]) && decide (s.mem.space.syn = []) && let x := fld a 2 0; let m := fld a 5 4; let md := (s.ctx x).model m; decide (bitAt a 3 = false) && decide (fld a 7 6 = 0) && decide (fld a 11 10 = 0) && decide (bitAt a 15 = false) && decide (fld a 31 19 = 0) && decide (fld e 63 24 = 0) && decide (fld a 9 8 ≠ 3) && decide (s.ctxNamed r.mb x = true) && decide (fld a 9 8 = 2 → (s.ctx (fld a 18 16)).state ≠ .free ∧ (s.ctx (fld a 18 16)).jobId = (s.ctx x).jobId ∧ (s.ctx (fld a 18 16)).fastSpan src.toNat (s.layerOffset md md.layers) = true) && decide (md.state = want) && decide (md.streamed = false) && decide (code = 0x0502)) = true ∧
  -- 5.4
  (let s : State := (K (mS .mixed 2 32 (fun m => { m with front := 0, newVersion := 4, wave := (some (wv fun w => { w with shards := [{ layer := 0, index := 0, due := 3, upTries := 1 }], fetching := [0], fetched := 1 })), passes := [(1, { version := 4, nextLayer := 0 }), (2, { version := 4, nextLayer := 1 }), (3, { version := 3, nextLayer := 1 })] }) fun c => { c with models := c.models ++ [(0, md0 .ready 1)] }) .module 1283 [(mkWord [(0,3,2),(4,2,1),(8,2,0),(16,3,2),(32,32,88)]), 0x200000#64, 0x5000#64, 9#64, 0x30201#64]); let r : Req := rqW72; let u : UnitId := .module; let a : W64 := opW73; let src : W64 := 0x200000#64; let hst : W64 := 0x5000#64; let nonce : W64 := 9#64; let e : W64 := 0x30201#64; let code : Nat := 1283; let c : Instr := (.replaceResume (reqU 0 .module [(mkWord [(0,3,2),(4,2,1),(8,2,0),(16,3,2),(32,32,88)]), 0x200000#64, 0x5000#64, 9#64, 0x30201#64])); let want : ModelState := .mixed; decide ((code, c, want) ∈ [(0x0502, Instr.replaceStart r, ModelState.ready), (0x0503, .replaceResume r, .mixed), (0x0504, .replaceRollback r, .mixed)]) && decide (s.asked r code false anyClass u = true) && decide (reqArgs r code = [a, src, hst, nonce, e]) && decide (s.mem.space.syn = []) && let x := fld a 2 0; let m := fld a 5 4; let md := (s.ctx x).model m; decide (bitAt a 3 = false) && decide (fld a 7 6 = 0) && decide (fld a 11 10 = 0) && decide (bitAt a 15 = false) && decide (fld a 31 19 = 0) && decide (fld e 63 24 = 0) && decide (fld a 9 8 ≠ 3) && decide (s.ctxNamed r.mb x = true) && decide (fld a 9 8 = 2 → (s.ctx (fld a 18 16)).state ≠ .free ∧ (s.ctx (fld a 18 16)).jobId = (s.ctx x).jobId ∧ (s.ctx (fld a 18 16)).fastSpan src.toNat (s.layerOffset md md.layers) = true) && decide (md.state = want) && decide (md.streamed = false) && decide (code = 0x0503) && (match md.wave with | some old => true | _ => false)) = true ∧
  -- 5.5
  (let s : State := (K (mS .mixed 2 32 (fun m => { m with front := 0, newVersion := 4, wave := none, passes := [(1, { version := 4, nextLayer := 0 }), (2, { version := 4, nextLayer := 1 }), (3, { version := 3, nextLayer := 1 })] }) fun c => { c with models := c.models ++ [(0, md0 .ready 1)] }) .module 1284 [(mkWord [(0,3,2),(4,2,1),(8,2,1),(16,3,2),(32,32,88)]), 0x200000#64, 0x5000#64, 9#64, 0x30201#64]); let r : Req := (reqU 0 .module [(mkWord [(0,3,2),(4,2,1),(8,2,1),(16,3,2),(32,32,88)]), 0x200000#64, 0x5000#64, 9#64, 0x30201#64]); let u : UnitId := .module; let a : W64 := (mkWord [(0,3,2),(4,2,1),(8,2,1),(16,3,2),(32,32,88)]); let src : W64 := 0x200000#64; let hst : W64 := 0x5000#64; let nonce : W64 := 9#64; let e : W64 := 0x30201#64; let code : Nat := 1284; let c : Instr := (.replaceRollback (reqU 0 .module [(mkWord [(0,3,2),(4,2,1),(8,2,1),(16,3,2),(32,32,88)]), 0x200000#64, 0x5000#64, 9#64, 0x30201#64])); let want : ModelState := .mixed; decide ((code, c, want) ∈ [(0x0502, Instr.replaceStart r, ModelState.ready), (0x0503, .replaceResume r, .mixed), (0x0504, .replaceRollback r, .mixed)]) && decide (s.asked r code false anyClass u = true) && decide (reqArgs r code = [a, src, hst, nonce, e]) && decide (s.mem.space.syn = []) && let x := fld a 2 0; let m := fld a 5 4; let md := (s.ctx x).model m; decide (bitAt a 3 = false) && decide (fld a 7 6 = 0) && decide (fld a 11 10 = 0) && decide (bitAt a 15 = false) && decide (fld a 31 19 = 0) && decide (fld e 63 24 = 0) && decide (fld a 9 8 ≠ 3) && decide (s.ctxNamed r.mb x = true) && decide (fld a 9 8 = 2 → (s.ctx (fld a 18 16)).state ≠ .free ∧ (s.ctx (fld a 18 16)).jobId = (s.ctx x).jobId ∧ (s.ctx (fld a 18 16)).fastSpan src.toNat (s.layerOffset md md.layers) = true) && decide (md.state = want) && decide (md.streamed = false) && decide (code = 0x0504)) = true ∧
  -- 6.0
  (let s : State := (mS .replacing 3 32 fun m => { m with wave := some (wv fun w => { w with source := 1, shards := [{ layer := 0, index := 0, due := 1, complete := true }, ({ layer := 1, index := 0, due := 3, packets := [0], hostTries := 0 } : Shard)], fetching := [0,1], fetched := 2 }) }); let x : Nat := 2; let m : Nat := 1; let l : Nat := 1; let j : Nat := 0; let w : Wave := (wv fun w => { w with source := 1, shards := [{ layer := 0, index := 0, due := 1, complete := true }, ({ layer := 1, index := 0, due := 3, packets := [0], hostTries := 0 } : Shard)], fetching := [0,1], fetched := 2 }); let h : Shard := ({ layer := 1, index := 0, due := 3, packets := [0], hostTries := 0 } : Shard); let md := (s.ctx x).model m; decide (md.wave = some w) && decide ((w.shards.find? fun q => q.layer == l && q.index == j && !q.complete) = some h) && decide (w.source = 1) && decide (s.shardWhole md h = true) && decide (s.mem.space.syn = [])) = true ∧
  -- 6.1
  (let s : State := (mS .replacing 3 32 fun m => { m with wave := some (wv fun w => { w with source := 1, shards := [{ layer := 0, index := 0, due := 1, complete := true }, ({ layer := 1, index := 0, due := 3, packets := [], hostTries := 0 } : Shard)], fetching := [0,1], fetched := 2 }) }); let x : Nat := 2; let m : Nat := 1; let l : Nat := 1; let j : Nat := 0; let w : Wave := (wv fun w => { w with source := 1, shards := [{ layer := 0, index := 0, due := 1, complete := true }, ({ layer := 1, index := 0, due := 3, packets := [], hostTries := 0 } : Shard)], fetching := [0,1], fetched := 2 }); let h : Shard := opW77; let md := (s.ctx x).model m; decide (md.wave = some w) && decide ((w.shards.find? fun q => q.layer == l && q.index == j && !q.complete) = some h) && decide (w.source = 1) && decide (s.shardWhole md h = false) && decide (h.hostTries = 0)) = true ∧
  -- 6.2
  (let s : State := (mS .replacing 3 32 fun m => { m with wave := some (wv fun w => { w with source := 0, shards := [{ layer := 0, index := 0, due := 1, complete := true }, ({ layer := 1, index := 0, due := 3, packets := [], hostTries := 1 } : Shard)], fetching := [0,1], fetched := 2 }) }); let x : Nat := 2; let m : Nat := 1; let l : Nat := 1; let j : Nat := 0; let host : HostRead := (.ok [1#64,2#64,3#64,4#64]); let w : Wave := (wv fun w => { w with source := 0, shards := [{ layer := 0, index := 0, due := 1, complete := true }, ({ layer := 1, index := 0, due := 3, packets := [], hostTries := 1 } : Shard)], fetching := [0,1], fetched := 2 }); let h : Shard := ({ layer := 1, index := 0, due := 3, packets := [], hostTries := 1 } : Shard); let md := (s.ctx x).model m; decide (md.wave = some w) && decide ((w.shards.find? fun q => q.layer == l && q.index == j && !q.complete) = some h) && decide (w.source = 0) && decide (s.host.busMaster.contains (s.owner (4 * x)) = true) && (match host with | .ok ws => let n := shardBytes (s.layerEntry md l).2 j; decide (ws.length = n / 8) && decide (n % 8 = 0) && decide (s.bufferAt md l % 8 = 0) && decide (md.key = 0) && decide (s.mem.space.syn = []) && decide (s.mem.injArm = false) | _ => false)) = true ∧
  -- 6.3
  (let s : State := (mS .replacing 3 32 fun m => { m with wave := some (wv fun w => { w with source := 2, shards := [{ layer := 0, index := 0, due := 1, complete := true }, ({ layer := 1, index := 0, due := 3, packets := [], hostTries := 0 } : Shard)], fetching := [0,1], fetched := 2 }) }); let x : Nat := 2; let m : Nat := 1; let l : Nat := 1; let j : Nat := 0; let w : Wave := (wv fun w => { w with source := 2, shards := [{ layer := 0, index := 0, due := 1, complete := true }, ({ layer := 1, index := 0, due := 3, packets := [], hostTries := 0 } : Shard)], fetching := [0,1], fetched := 2 }); let h : Shard := opW77; let md := (s.ctx x).model m; decide (md.wave = some w) && decide ((w.shards.find? fun q => q.layer == l && q.index == j && !q.complete) = some h) && decide (w.source = 2) && let n := shardBytes (s.layerEntry md l).2 j; decide (n % 8 = 0) && decide (s.bufferAt md l % 8 = 0) && decide (md.key = 0) && decide (s.mem.space.syn = []) && decide (s.mem.injArm = false)) = true ∧
  -- 7.0
  (let s : State := ({ (mS .replacing 3 32 fun m => { m with wave := some (wv fun w => { w with source := 0, hostAddr := 0, shards := [({ layer := 1, index := 0, due := 3, upTries := 0, hostTries := 2 } : Shard)], fetching := [1], fetched := 2, upstream := some 9 }) }) with steep := { up.steep with count := 3 } } : State); let x : Nat := 2; let m : Nat := 1; let l : Nat := 1; let j : Nat := 0; let w : Wave := (wv fun w => { w with source := 0, hostAddr := 0, shards := [({ layer := 1, index := 0, due := 3, upTries := 0, hostTries := 2 } : Shard)], fetching := [1], fetched := 2, upstream := some 9 }); let h : Shard := ({ layer := 1, index := 0, due := 3, upTries := 0, hostTries := 2 } : Shard); let md := (s.ctx x).model m; decide (md.wave = some w) && decide ((w.shards.find? fun q => q.layer == l && q.index == j && !q.complete) = some h) && decide (md.state = .replacing) && decide (s.now < h.due + w.timeout)) = true ∧
  -- 7.1
  (let s : State := ({ (mS .replacing 3 32 fun m => { m with wave := some (wv fun w => { w with source := 0, hostAddr := 0, shards := [({ layer := 1, index := 0, due := 3, upTries := 0, hostTries := 0 } : Shard)], fetching := [1], fetched := 2, upstream := some 9 }) }) with steep := { up.steep with count := 6 } } : State); let x : Nat := 2; let m : Nat := 1; let l : Nat := 1; let j : Nat := 0; let w : Wave := (wv fun w => { w with source := 0, hostAddr := 0, shards := [({ layer := 1, index := 0, due := 3, upTries := 0, hostTries := 0 } : Shard)], fetching := [1], fetched := 2, upstream := some 9 }); let h : Shard := ({ layer := 1, index := 0, due := 3, upTries := 0, hostTries := 0 } : Shard); let md := (s.ctx x).model m; decide (md.wave = some w) && decide ((w.shards.find? fun q => q.layer == l && q.index == j && !q.complete) = some h) && decide (md.state = .replacing) && decide (h.due + w.timeout ≤ s.now) && decide ((w.source = 1 ∧ h.upTries < w.retryUp) ∨ ((w.source ≠ 1 ∨ w.hostAddr ≠ 0) ∧ h.hostTries < w.retryHost))) = true ∧
  -- 7.2
  (let s : State := ({ (mS .replacing 3 32 fun m => { m with wave := some (wv fun w => { w with source := 1, hostAddr := 0, shards := [({ layer := 1, index := 0, due := 3, upTries := 2, hostTries := 2 } : Shard)], fetching := [1], fetched := 2, upstream := some 9 }) }) with steep := { up.steep with count := 6 } } : State); let x : Nat := 2; let m : Nat := 1; let l : Nat := 1; let j : Nat := 0; let w : Wave := (wv fun w => { w with source := 1, hostAddr := 0, shards := [({ layer := 1, index := 0, due := 3, upTries := 2, hostTries := 2 } : Shard)], fetching := [1], fetched := 2, upstream := some 9 }); let h : Shard := ({ layer := 1, index := 0, due := 3, upTries := 2, hostTries := 2 } : Shard); let md := (s.ctx x).model m; decide (md.wave = some w) && decide ((w.shards.find? fun q => q.layer == l && q.index == j && !q.complete) = some h) && decide (md.state = .replacing) && decide (h.due + w.timeout ≤ s.now) && decide (w.source ≠ 1 ∨ w.retryUp ≤ h.upTries) && decide ((w.source = 1 ∧ w.hostAddr = 0) ∨ w.retryHost ≤ h.hostTries)) = true ∧
  -- 8.0
  (let s : State := ({ ((mS .replacing 3 32 fun m => { m with front := 0, newVersion := 4, wave := some (wv fun w => { w with rollback := true, copying := [0], shards := [{ layer := 0, index := 0, due := 3, complete := true }], fetching := [0], fetched := 2, origin := 2 }) })) with mem := { ((mS .replacing 3 32 fun m => { m with front := 0, newVersion := 4, wave := some (wv fun w => { w with rollback := true, copying := [0], shards := [{ layer := 0, index := 0, due := 3, complete := true }], fetching := [0], fetched := 2, origin := 2 }) })).mem with space := ((mS .replacing 3 32 fun m => { m with front := 0, newVersion := 4, wave := some (wv fun w => { w with rollback := true, copying := [0], shards := [{ layer := 0, index := 0, due := 3, complete := true }], fetching := [0], fetched := 2, origin := 2 }) })).mem.space.storeWords (0x300000/8) [11#64,12#64,13#64,14#64,15#64] } } : State); let x : Nat := 2; let m : Nat := 1; let l : Nat := 0; let rest : List Nat := []; let w : Wave := (wv fun w => { w with rollback := true, copying := [0], shards := [{ layer := 0, index := 0, due := 3, complete := true }], fetching := [0], fetched := 2, origin := 2 }); let md := (s.ctx x).model m; decide (md.wave = some w) && decide (w.copying = l :: rest)) = true ∧
  -- 9.0
  (let s : State := (mS .ready 2 32); let p : Pkt := ({ route := mkWord [(8, 8, 3), (32, 16, 5)], body := [joinWord, 0#64, 0#64, 0#64] } : Pkt);
      decide (s.isEarly (fld p.route 63 48) = false) && decide (fld p.route 15 8 = 3) && let s' := s.tookPacket 0x03 p.body;
      let h0 := p.body.getD 0 0#64; let src := fld p.route 47 32; decide (s'.shuns src = false) && decide (h0 = joinWord)) = true ∧
  -- 9.1
  (let s : State := { (mS .empty 3 32) with loads := [{ ctx := 2, slot := 3, model := 1, layer := 1, loadId := 77, stage := some 1, nonce := 0, chain := 0, started := 0, streamId := 5, source := 1, srcAddr := 0, shards := [{ layer := 1, index := 0, due := 0, packets := [0] }] }] }; let p : Pkt := { route := mkWord [(8,8,3),(32,16,9)], body := [mkWord [(0,2,1),(8,8,3),(16,10,1)], 77#64, 1#64, 2#64, 3#64, 4#64] }; decide (s.isEarly (fld p.route 63 48) = false) && decide (fld p.route 15 8 = 3) && let s' := s.tookPacket 0x03 p.body; let h0 := p.body.getD 0 0#64; let h1 := p.body.getD 1 0#64; let src := fld p.route 47 32; decide (s'.shuns src = false) && let n := fld h0 56 48; decide (h0 ≠ joinWord) && (match s'.loadFor h0 h1 with | some ld => ((ld.shards).any fun q => decide (q.layer = fld h0 25 16 ∧ q.index = fld h0 47 32 ∧ n ∈ q.packets)) | _ => false)) = true ∧
  -- 9.2
  (let s : State := ({ (mS .empty 2 8192) with loads := [({ ctx := 2, slot := 3, model := 1, layer := 0, loadId := 77, stage := none, nonce := 0, chain := 0, started := 0, streamId := 5, shards := [{ layer := 0, index := 0, due := 3 }] } : Load)] } : State); let p : Pkt := ({ route := mkWord [(8, 8, 3), (32, 16, 5)], body := [mkWord [(0, 2, 1), (8, 8, 3)], mkWord [(0, 32, 77)], 5#64] ++ List.replicate 1024 7#64 } : Pkt); decide (s.isEarly (fld p.route 63 48) = false) && decide (fld p.route 15 8 = 3) && let s' := s.tookPacket 0x03 p.body; let h0 := p.body.getD 0 0#64; let h1 := p.body.getD 1 0#64; let src := fld p.route 47 32; decide (s'.shuns src = false) && let n := fld h0 56 48; let ld := ({ ctx := 2, slot := 3, model := 1, layer := 0, loadId := 77, stage := none, nonce := 0, chain := 0, started := 0, streamId := 5, shards := [{ layer := 0, index := 0, due := 3 }] } : Load); decide (h0 ≠ joinWord) && decide (s'.loadFor h0 h1 = some ld) && let md := (s'.ctx ld.ctx).model ld.model; let a := (match ld.stage with | some b => s'.bufferAt md b | none => (s'.layerEntry md ld.layer).1) + 4194304 * fld h0 47 32 + 8192 * n; ((ld.shards).all fun q => decide (q.layer = fld h0 25 16 → q.index = fld h0 47 32 → n ∉ q.packets)) && decide (bitAt h0 2 = false) && decide (a % 8 = 0) && decide (s'.mem.injArm = false)) = true ∧
  -- 9.3
  (let s : State := stW78;
      let p : Pkt := ({ route := mkWord [(8,8,3),(32,16,9)], body := [mkWord [(0,2,1),(8,8,3),(16,10,1),(57,7,1)], 78#64, 1#64, 2#64, 3#64, 4#64] } : Pkt); decide (s.isEarly (fld p.route 63 48) = false) && decide (fld p.route 15 8 = 3) && let s' := s.tookPacket 0x03 p.body; let h0 := p.body.getD 0 0#64; let h1 := p.body.getD 1 0#64; let src := fld p.route 47 32; decide (s'.shuns src = false) && decide (h0 ≠ joinWord) && decide (s'.loadFor h0 h1 = none) && decide (s'.waveFor h0 h1 = none)) = true ∧
  -- 9.4
  (let s : State := (mS .replacing 3 32 fun m => { m with newVersion := 4, wave := some (wv fun w => { w with shards := [{ layer := 1, index := 0, due := 3, packets := [0] }], fetching := [1], fetched := 2 }) }); let p : Pkt := ({ route := mkWord [(8,8,3),(32,16,9)], body := [mkWord [(0,2,1),(8,8,4),(16,10,1),(57,7,1)], 77#64, 1#64, 2#64, 3#64, 4#64] } : Pkt); decide (s.isEarly (fld p.route 63 48) = false) && decide (fld p.route 15 8 = 3) && let s' := s.tookPacket 0x03 p.body; let h0 := p.body.getD 0 0#64; let h1 := p.body.getD 1 0#64; let src := fld p.route 47 32; decide (s'.shuns src = false) && let n := fld h0 56 48; decide (h0 ≠ joinWord) && decide (s'.loadFor h0 h1 = none) && (match s'.waveFor h0 h1 with | some (x, w) => ((w.shards).any fun q => decide (q.layer = fld h0 25 16 ∧ q.index = fld h0 47 32 ∧ n ∈ q.packets)) | _ => false)) = true ∧
  -- 9.5
  (let s : State := stW78;
      let p : Pkt := ({ route := mkWord [(8,8,3),(32,16,9)], body := [mkWord [(0,2,1),(8,8,4),(16,10,1),(57,7,2)], 77#64, 1#64, 2#64, 3#64, 4#64] } : Pkt); decide (s.isEarly (fld p.route 63 48) = false) && decide (fld p.route 15 8 = 3) && let s' := s.tookPacket 0x03 p.body; let h0 := p.body.getD 0 0#64; let h1 := p.body.getD 1 0#64; let src := fld p.route 47 32; decide (s'.shuns src = false) && let n := fld h0 56 48; decide (h0 ≠ joinWord) && decide (s'.loadFor h0 h1 = none) && (match s'.waveFor h0 h1 with | some (x, w) => let a := s'.bufferAt ((s'.ctx x).model (fld h0 1 0)) (fld h0 25 16) + 4194304 * fld h0 47 32 + 8192 * n; ((w.shards).all fun q => decide (q.layer = fld h0 25 16 → q.index = fld h0 47 32 → n ∉ q.packets)) && decide (bitAt h0 2 = false) && decide (a % 8 = 0) && decide (s'.mem.injArm = false) | _ => false)) = true ∧
  -- 10.0
  (let s : State := up; let p : Pkt := { route := mkWord [(8,8,7),(32,16,9)], body := [8#64, 5#64, 77#64] };
      decide (s.isEarly (fld p.route 63 48) = false) && decide (fld p.route 15 8 = 7) && decide (fld (p.body.getD 0 0#64) 7 0 = 8) &&
      decide (s.dark = false) && let s' := s.tookPacket 0x07 p.body; decide (s'.shuns (fld p.route 47 32) = false)) = true ∧
  -- 11.0
  (let s : State := (K (mS .ready 1 32 id fun c => { c with fastPages := 1000, kv := { slots := [(3,[1])], listAddr := 3 } }) .module 0x0505 [(mkWord [(0,3,2),(19,19,5),(38,19,7)]),100#64,0x200000#64]); let r : Req := rqW79; let u : UnitId := .module; let a : W64 := (mkWord [(0,3,2),(19,19,5),(38,19,7)]); let b : W64 := 100#64; let l : W64 := 0x200000#64; decide (s.asked r 0x0505 false anyClass u = true) && decide (reqArgs r 0x0505 = [a, b, l]) && let x := fld a 2 0; let c := s.ctx x; decide (fld a 18 3 = 0) && decide (fld a 63 57 = 0) && decide (fld b 63 19 = 0) && decide (s.ctxNamed r.mb x = true) && decide (c.fastSpan l.toNat (4096 * 2048) = true) && decide (fld a 37 19 + fld b 18 0 ≤ c.fastPages) && decide (c.kv.slots ≠ [])) = true ∧
  -- 11.1
  (let s : State := (K (mS .ready 1 32 id fun c => { c with fastPages := 1000, kv := { slots := [], listAddr := 3 } }) .module 0x0505 [(mkWord [(0,3,2),(19,19,5),(38,19,7)]),100#64,0x200000#64]); let r : Req := rqW79; let u : UnitId := .module; let a : W64 := (mkWord [(0,3,2),(19,19,5),(38,19,7)]); let b : W64 := 100#64; let l : W64 := 0x200000#64; decide (s.asked r 0x0505 false anyClass u = true) && decide (reqArgs r 0x0505 = [a, b, l]) && let x := fld a 2 0; let c := s.ctx x; decide (fld a 18 3 = 0) && decide (fld a 63 57 = 0) && decide (fld b 63 19 = 0) && decide (s.ctxNamed r.mb x = true) && decide (c.fastSpan l.toNat (4096 * 2048) = true) && decide (fld a 37 19 + fld b 18 0 ≤ c.fastPages) && decide (c.kv.slots = [])) = true ∧
  -- 12.0
  (let s : State := (K (mS .ready 1 32 id fun c => { c with kv := { configured := true, pool := 100, headroom := 7, slots := [(3,[1,2])], grows := [⟨3, 1, { mb := 0, tag := 0, code := 0 }⟩] } }) .module 1286 [mkWord [(0,3,2),(8,12,3),(20,10,5)]]); let r : Req := rqW80; let u : UnitId := .module; let x : Nat := 2; let slot : Nat := 3; let n : Nat := 5; let code : Nat := 1286; decide (x < 8) && decide (slot < 4096) && decide (n < 1024) && decide (s.asked r code false anyClass u = true) && decide (reqArgs r code = [mkWord [(0, 3, x), (8, 12, slot), (20, 10, n)]]) && decide (s.ctxNamed r.mb x = true) && let v := (s.ctx x).kv; decide (code = 0x0506) && decide (512 < n ∨ v.pool - v.headroom < n ∨ v.joinable slot = false)) = true ∧
  -- 12.1
  (let s : State := (K (mS .ready 1 32 id fun c => { c with kv := { configured := true, pool := 100, headroom := 7, slots := [(3,[1,2])], grows := [⟨3, 1, { mb := 0, tag := 0, code := 0 }⟩] } }) .module 1286 [mkWord [(0,3,2),(8,12,4),(20,10,0)]]); let r : Req := rqW81; let u : UnitId := .module; let x : Nat := 2; let slot : Nat := 4; let n : Nat := 0; let code : Nat := 1286; decide (x < 8) && decide (slot < 4096) && decide (n < 1024) && decide (s.asked r code false anyClass u = true) && decide (reqArgs r code = [mkWord [(0, 3, x), (8, 12, slot), (20, 10, n)]]) && decide (s.ctxNamed r.mb x = true) && let v := (s.ctx x).kv; decide (code = 0x0506) && decide (n ≤ 512) && decide (n ≤ v.pool - v.headroom) && decide (v.joinable slot = true)) = true ∧
  -- 12.2
  (let s : State := (K (mS .ready 1 32 id fun c => { c with kv := { configured := true, pool := 100, headroom := 7, slots := [(3,[1,2])], grows := [⟨3, 1, { mb := 0, tag := 0, code := 0 }⟩] } }) .module 1287 [mkWord [(0,3,2),(8,12,4),(20,10,0)]]); let r : Req := rqW81; let u : UnitId := .module; let x : Nat := 2; let slot : Nat := 4; let n : Nat := 0; let code : Nat := 1287; decide (x < 8) && decide (slot < 4096) && decide (n < 1024) && decide (s.asked r code false anyClass u = true) && decide (reqArgs r code = [mkWord [(0, 3, x), (8, 12, slot), (20, 10, n)]]) && decide (s.ctxNamed r.mb x = true) && let v := (s.ctx x).kv; decide (code = 0x0507) && let held := (v.slots.get [] slot).length + ((v.grows.filter fun g => g.slot == slot).map fun g => g.pages).sum; decide (512 < held + n ∨ v.slots.find slot = none)) = true ∧
  -- 12.3
  (let s : State := (K (mS .ready 1 32 id fun c => { c with kv := { configured := true, pool := 100, headroom := 7, slots := [(3,[1,2])], grows := [⟨3, 1, { mb := 0, tag := 0, code := 0 }⟩] } }) .module 1287 [mkWord [(0,3,2),(8,12,3),(20,10,5)]]); let r : Req := rqW80; let u : UnitId := .module; let x : Nat := 2; let slot : Nat := 3; let n : Nat := 5; let code : Nat := 1287; decide (x < 8) && decide (slot < 4096) && decide (n < 1024) && decide (s.asked r code false anyClass u = true) && decide (reqArgs r code = [mkWord [(0, 3, x), (8, 12, slot), (20, 10, n)]]) && decide (s.ctxNamed r.mb x = true) && let v := (s.ctx x).kv; decide (code = 0x0507) && let held := (v.slots.get [] slot).length + ((v.grows.filter fun g => g.slot == slot).map fun g => g.pages).sum; decide (held + n ≤ 512) && decide ((v.slots.find slot).isSome = true)) = true ∧
  -- 12.4
  (let s : State := (K (mS .ready 1 32 id fun c => { c with kv := { configured := true, pool := 100, headroom := 7, slots := [(3,[1,2])], grows := [⟨3, 1, { mb := 0, tag := 0, code := 0 }⟩] } }) .module 1288 [mkWord [(0,3,2),(8,12,3),(20,10,0)]]); let r : Req := (reqU 0 .module [mkWord [(0,3,2),(8,12,3),(20,10,0)]]); let u : UnitId := .module; let x : Nat := 2; let slot : Nat := 3; let n : Nat := 0; let code : Nat := 1288; decide (x < 8) && decide (slot < 4096) && decide (n < 1024) && decide (s.asked r code false anyClass u = true) && decide (reqArgs r code = [mkWord [(0, 3, x), (8, 12, slot), (20, 10, n)]]) && decide (s.ctxNamed r.mb x = true) && decide (code = 0x0508) && decide (n = 0)) = true :=
  by
  and_intros <;> decide +kernel

end Sys2Proof.Tests
end

section
/-! SUPPORT. Proofs/RegAccess.lean: what an access of a function that is served does: of the registers, of the request words
of a mailbox, and of an MSI-X entry's vector control. -/
namespace Sys2Proof.Machine

/-! ### Accesses of registers (R10 to R16) -/

/-- What has to hold for a function's accesses to reach the module (R773, R784, R785). -/
theorem State.serves_iff (s : State) (fn : Nat) :
    s.serves fn = true ↔ s.dark = false ∧ s.host.d3hot = false ∧ fn ≤ 8 ∧ s.host.fnOn fn = true ∧ s.host.flr.contains fn = false := by
  simp only [State.serves, Bool.and_eq_true, Bool.not_eq_true', decide_eq_true_eq, and_assoc]

section
variable {s : State} {a : Access} (beside : besideRegs a = false) (served : s.serves a.fn = true)
include beside served

/-- An access that reaches no register is recorded; a read of it reads zero (R16). -/
theorem State.access_of_reaches_none (none_reached : ((accessHalf a).bind fun _ => reaches a.fn (a.off / 8 * 8)) = none) (write : Bool) :
    s.access a write = (if write then s else { s with readData := 0#64 }).regAccess a.off := by
  have no_pair : ((accessHalf a).bind fun h => (reaches a.fn (a.off / 8 * 8)).map fun r => (h, r)) = none := by
    cases half : accessHalf a with
    | none => rfl
    | some h => simpa [half] using none_reached
  simp [State.access, beside, served, no_pair]

/-- An access that reaches a register writes its part of it, or reads it (R15). -/
theorem State.access_of_reaches_some {h : Half} {r : Reg} (half : accessHalf a = some h) (reached : reaches a.fn (a.off / 8 * 8) = some r)
    (write : Bool) :
    s.access a write = if write then s.regWrite a.fn a.off r h (placed h a.value) else s.readReg a.fn r h := by
  simp [State.access, beside, served, half, reached]

end

/-- REG_WRITE is the access as a write. -/
theorem exec_regWrite (a : Access) (s : State) : exec (.regWrite a) s = .next (s.access a true) := rfl

/-- RC_REGISTER_READ is the access as a read. -/
theorem exec_rcRegisterRead (a : Access) (s : State) : exec (.rcRegisterRead a) s = .next (s.access a false) := rfl

/-- UNMAPPED_ACCESS is that access where no register is reached, for a write and for a read (R16). -/
theorem exec_unmappedAccess_of_reaches_none {s : State} {a : Access} (beside : besideRegs a = false)
    (none_reached : ((accessHalf a).bind fun _ => reaches a.fn (a.off / 8 * 8)) = none) (write : Bool) :
    exec (.unmappedAccess a write) s = .next (s.access a write) := by
  change execUnmappedAccess a write s = _
  simp [execUnmappedAccess, beside, none_reached]

/-- A read of a register without a read of its own returns the part of its value; the whole of it clears what is RC (R11, R15). -/
theorem State.readReg_of_ne_steep (s : State) (fn : Nat) {r : Reg} (h : Half) (not_phase : r ≠ .steepPhase) (not_count : r ≠ .steepCount) :
    s.readReg fn r h =
      let q : State := { s with readData := halfOf h (s.regValue fn r) }
      if h = .full then q.regClear r else q := by
  unfold State.readReg
  split
  · exact absurd rfl not_phase
  · exact absurd rfl not_count
  · cases h <;> rfl

/-- The owner's access through a function that is served reaches the mailbox (R377). -/
theorem State.guardMailbox_of_serves {s : State} {fn mb : Nat} (served : s.serves fn = true) (in_range : mb < 32)
    (owned : s.owner mb = fn) (off : Nat) (act : State → State) : s.guardMailbox fn mb off act = act s := by
  obtain ⟨dark, d3hot, -, -, flr⟩ := (s.serves_iff fn).mp served
  have flr' : fn ∉ s.host.flr := by simpa using flr
  simp [State.guardMailbox, dark, d3hot, flr', owned, Nat.not_le.mpr in_range]

/-! ### MSI-X (R347, R774, R780, R782) -/

/-- A vector of a function's table belongs to that function (R780). -/
theorem vectorFn_firstVector_add {fn i : Nat} (in_table : i < vectorsOf fn) : vectorFn (firstVector fn + i) = fn := by
  unfold vectorFn firstVector
  by_cases physical : fn = 0
  · simp_all [vectorsOf]
  · have : i < 128 := by simpa [vectorsOf, physical] using in_table
    simp only [physical, if_false]
    split <;> omega

/-- A message of the vector that waits may go out: no mask holds it back and its function can send (R347, R782). -/
def HostIf.releases (h : HostIf) (v : Nat) : Bool :=
  !(h.holdsBack v) && h.fnOn (vectorFn v) && h.msixEnabled.contains (vectorFn v)

/-- An unmasked vector of a function that is on, has MSI-X enabled and is not masked may go out. -/
theorem HostIf.releases_iff (h : HostIf) (v : Nat) :
    h.releases v = true ↔
      v ∈ h.unmasked ∧ vectorFn v ∉ h.fnMasked ∧ h.fnOn (vectorFn v) = true ∧ vectorFn v ∈ h.msixEnabled := by
  simp [HostIf.releases, HostIf.holdsBack, and_assoc]

/-- Messages sent one after another stand in `out` in their order, and nothing else changes. -/
theorem forL_emit_msix (l : List Nat) (s : State) :
    forL l (fun v s => s.emit (.msix v)) s = { s with out := s.out ++ l.map Out.msix } := by
  induction l generalizing s with
  | nil => simp [forL]
  | cons v l ih =>
    exact (ih (s.emit (.msix v))).trans (by simp [State.emit])

/-- A release sends the waiting messages that may go out and keeps the others; it writes `out` and the waiting vectors only. -/
theorem State.msixRelease_eq (s : State) :
    s.msixRelease = { s with
      host := { s.host with msixPending := s.host.msixPending.filter fun v => !(s.host.releases v) }
      out := s.out ++ (s.host.msixPending.filter s.host.releases).map Out.msix } :=
  forL_emit_msix ..

/-- A waiting vector that may go out is sent by a release, and waits no longer. -/
theorem State.msixRelease_sends {s : State} {v : Nat} (waits : v ∈ s.host.msixPending) (free : s.host.releases v = true) :
    v ∉ s.msixRelease.host.msixPending ∧ .msix v ∈ s.msixRelease.out := by
  simp [State.msixRelease_eq, waits, free]

/-- The host interface after a write of an entry's data word with the mask bit 0: the data word is kept, the vector is unmasked. -/
def HostIf.unmaskEntry (h : HostIf) (v : Nat) (w : W64) : HostIf :=
  { h with msixTable := h.msixTable.set (2 * v + 1) (BitVec.ofNat 64 (fld w 31 0)), unmasked := (h.unmasked.filter fun e => e ≠ v) ++ [v] }

/-- A 64-bit write of an entry's second word with the mask bit 0 unmasks its vector and releases what waited (R347, R774). -/
theorem State.msixWrite_unmask (s : State) {fn i : Nat} {w : W64} (in_table : i < vectorsOf fn) (mask_clear : bitAt w 32 = false) :
    s.msixWrite fn (16 * i + 8) .full w = (s.updHost fun h => h.unmaskEntry (firstVector fn + i) w).msixRelease := by
  have entry : (16 * i + 8) / 16 = i := by omega
  simp [State.msixWrite, entry, Nat.not_le.mpr in_table, mergeHalf, mask_clear, HostIf.unmaskEntry]

/-- A 64-bit write of a served function at an aligned offset of BAR2/3 is a write of its MSI-X table (R774, R784). -/
theorem State.access_barTwo_write {s : State} {fn o : Nat} (served : s.serves fn = true) (in_barTwo : o < 2 ^ 32) (aligned : o % 8 = 0)
    (w : W64) : s.access { fn := fn, off := barTwo + o, width := 64, value := w } true = s.msixWrite fn o .full w := by
  have before_cfg : barTwo + o < cfgSpace := by simp only [barTwo, cfgSpace]; omega
  have off_aligned : (barTwo + o) % 8 = 0 := by simp only [barTwo]; omega
  have word : o / 8 * 8 = o := by omega
  simp [State.access, besideRegs, State.besideAccess, accessHalf, served, before_cfg, off_aligned, word, placed]

/-- Every entry of a function's table lies within BAR2/3. -/
theorem entry_lt_barTwo {fn i : Nat} (in_table : i < vectorsOf fn) : 16 * i + 8 < 2 ^ 32 := by
  unfold vectorsOf at in_table
  split at in_table <;> omega

/-! ### The obligation, part by part -/

/-- Where no register is reached, REG_WRITE, RC_REGISTER_READ and UNMAPPED_ACCESS record the offset and do no more (R16). -/
theorem exec_access_of_reaches_none {s : State} {a : Access} (beside : besideRegs a = false) (served : s.serves a.fn = true)
    (none_reached : ((accessHalf a).bind fun _ => reaches a.fn (a.off / 8 * 8)) = none) :
    exec (.regWrite a) s = .next (s.regAccess a.off) ∧
    exec (.rcRegisterRead a) s = .next ({ s with readData := 0#64 }.regAccess a.off) ∧
    exec (.unmappedAccess a true) s = .next (s.regAccess a.off) ∧
    exec (.unmappedAccess a false) s = .next ({ s with readData := 0#64 }.regAccess a.off) := by
  simp [exec_regWrite, exec_rcRegisterRead, exec_unmappedAccess_of_reaches_none beside none_reached,
    State.access_of_reaches_none beside served none_reached]

/-- REG_WRITE of a register that is reached writes the part of it. -/
theorem exec_regWrite_of_reaches_some {s : State} {a : Access} {h : Half} {r : Reg} (beside : besideRegs a = false)
    (served : s.serves a.fn = true) (half : accessHalf a = some h) (reached : reaches a.fn (a.off / 8 * 8) = some r) :
    exec (.regWrite a) s = .next (s.regWrite a.fn a.off r h (placed h a.value)) := by
  rw [exec_regWrite, State.access_of_reaches_some beside served half reached, if_pos rfl]

/-- RC_REGISTER_READ of a register that is reached returns the part of it, and clears what is RC when it reads the whole. -/
theorem exec_rcRegisterRead_of_reaches_some {s : State} {a : Access} {h : Half} {r : Reg} (beside : besideRegs a = false)
    (served : s.serves a.fn = true) (half : accessHalf a = some h) (reached : reaches a.fn (a.off / 8 * 8) = some r)
    (not_phase : r ≠ .steepPhase) (not_count : r ≠ .steepCount) :
    exec (.rcRegisterRead a) s =
      let q : State := { s with readData := halfOf h (s.regValue a.fn r) }
      .next (if h = .full then q.regClear r else q) := by
  rw [exec_rcRegisterRead, State.access_of_reaches_some beside served half reached, if_neg Bool.false_ne_true,
    s.readReg_of_ne_steep a.fn h not_phase not_count]

/-- REG_WRITE by a mailbox's owner writes the reached part of a request word (R371, R377). -/
theorem exec_regWrite_mbReqData {s : State} {a : Access} {h : Half} {mb i : Nat} (beside : besideRegs a = false)
    (served : s.serves a.fn = true) (half : accessHalf a = some h) (reached : reaches a.fn (a.off / 8 * 8) = some (.mbReqData mb i))
    (in_range : mb < 32) (owned : s.owner mb = a.fn) :
    exec (.regWrite a) s = .next (s.setMailbox mb { s.mailbox mb with
      request := (s.mailbox mb).request.set i (mergeHalf h ((s.mailbox mb).request.get 0#64 i) (placed h a.value)) }) := by
  have guarded := State.guardMailbox_of_serves served in_range owned (mbOff mb (8 * i)) fun s => s.writeRequest mb i h (placed h a.value)
  rw [exec_regWrite_of_reaches_some beside served half reached]
  exact congrArg _ guarded

/-- REG_WRITE that clears the mask bit of an MSI-X entry sends the message that waited for it, and no context or mailbox
changes (R347). -/
theorem exec_regWrite_msixUnmask {s : State} {fn i : Nat} {w : W64} (served : s.serves fn = true) (in_table : i < vectorsOf fn)
    (mask_clear : bitAt w 32 = false) (waits : firstVector fn + i ∈ s.host.msixPending) (enabled : fn ∈ s.host.msixEnabled)
    (not_masked : fn ∉ s.host.fnMasked) :
    ∃ u, exec (.regWrite { fn := fn, off := barTwo + (16 * i + 8), width := 64, value := w }) s = .next u ∧
      firstVector fn + i ∉ u.host.msixPending ∧ .msix (firstVector fn + i) ∈ u.out ∧ u.ctxs = s.ctxs ∧ u.mailboxes = s.mailboxes := by
  obtain ⟨-, -, -, on, -⟩ := (s.serves_iff fn).mp served
  let t := s.updHost fun h => h.unmaskEntry (firstVector fn + i) w
  have writes : exec (.regWrite { fn := fn, off := barTwo + (16 * i + 8), width := 64, value := w }) s = .next t.msixRelease := by
    rw [exec_regWrite, State.access_barTwo_write served (entry_lt_barTwo in_table) (by omega), s.msixWrite_unmask in_table mask_clear]
  have free : t.host.releases (firstVector fn + i) = true := by
    rw [HostIf.releases_iff, vectorFn_firstVector_add in_table]
    exact ⟨List.mem_append_right _ (List.mem_singleton_self _), not_masked, on, enabled⟩
  obtain ⟨waits_no_longer, sent⟩ := State.msixRelease_sends (s := t) waits free
  exact ⟨t.msixRelease, writes, waits_no_longer, sent, by rw [State.msixRelease_eq]; rfl, by rw [State.msixRelease_eq]; rfl⟩

/-- Settles O24: an access reaches a register or it does not, and each part is the lemma for what is reached. What a write does
to the W1C and read-only registers named is the arm of `State.regWrite` itself. -/
theorem registerAccessesReachTheirRegister : Obligations.RegisterAccessesReachTheirRegister := by
  refine ⟨fun s a => exec_access_of_reaches_none, fun s a h r beside served half reached => ?_, fun s fn off h w => ?_,
    fun s a h mb i => exec_regWrite_mbReqData, fun s fn i w => exec_regWrite_msixUnmask⟩
  · have read := exec_rcRegisterRead_of_reaches_some beside served half reached
    refine ⟨exec_regWrite_of_reaches_some beside served half reached, fun phase count part => ?_, fun phase count whole => ?_⟩
    · simpa [part] using read phase count
    · subst whole
      exact read phase count
  · refine ⟨rfl, rfl, rfl, fun _ => rfl, fun r read_only => ?_⟩
    simp only [List.mem_cons, List.not_mem_nil, or_false] at read_only
    obtain rfl | rfl | rfl | rfl := read_only <;> rfl

end Sys2Proof.Machine
end

section
/-! SUPPORT. Proofs/Standing.lean: what no ordinary command moves: the queue of waiting commands, the period and PHASE; the state operations of records,
mailboxes and links leave it. -/
namespace Sys2Proof.Machine

/-- What stands while an ordinary command runs: the waiting commands, the period in force, the next period and PHASE. -/
def State.standing (s : State) : List Instr × Nat × Nat × Nat := (s.pending, s.steep.currentQ, s.steep.nextQ, s.steep.phase)

/-- The outcome moves nothing of what stands. -/
def Stands (s : State) (o : Host.Outcome State Fault Refusal) : Prop := ∀ t, o = .next t → t.standing = s.standing

/-- A property that two states share when the same things stand in both. -/
def Lasting (P : State → Prop) : Prop := ∀ ⦃s t : State⦄, t.standing = s.standing → P s → P t

/-! ### Updates, branches and loops -/

/-- An update of the parts of the state other than the queue and the steep. -/
@[simp] theorem standing_mk (s : State) (early units faults mem cores caddies nextUpd pools mailboxes ctxs rotations switches
    composites fans nextFan
    kettleAnswer remoteEvents members host power trust fabric loads infMib infBytes infRetries infDuplicates queueStatus queueData
    readData out fresh) :
    State.standing { s with
      early, units, faults, mem, cores, caddies, nextUpd, pools, mailboxes, ctxs, rotations, switches, composites, fans,
      nextFan, kettleAnswer, remoteEvents, members, host, power, trust, fabric, loads, infMib, infBytes, infRetries, infDuplicates,
      queueStatus, queueData, readData, out, fresh } = s.standing := by
  simp only [State.standing]

/-- An update that also moves the steep, but neither its periods nor PHASE. -/
@[simp] theorem standing_mk_steep (s : State) (early units faults mem cores caddies nextUpd pools mailboxes ctxs rotations switches
    composites fans nextFan
    kettleAnswer remoteEvents members host power trust fabric loads infMib infBytes infRetries infDuplicates queueStatus queueData
    readData out fresh) (t : Steep) (current : t.currentQ = s.steep.currentQ)
    (next : t.nextQ = s.steep.nextQ) (phase : t.phase = s.steep.phase) :
    State.standing { s with
      steep := t, early, units, faults, mem, cores, caddies, nextUpd, pools, mailboxes, ctxs, rotations, switches, composites, fans,
      nextFan, kettleAnswer, remoteEvents, members, host, power, trust, fabric, loads, infMib, infBytes, infRetries, infDuplicates,
      queueStatus, queueData, readData, out, fresh } = s.standing := by
  simp only [State.standing, current, next, phase]

@[simp] theorem standing_ite (c : Prop) [Decidable c] (a b : State) :
    State.standing (if c then a else b) = if c then a.standing else b.standing := apply_ite ..

@[simp] theorem standing_fst_ite {α : Type} (c : Prop) [Decidable c] (a b : State × α) :
    State.standing (if c then a else b).1 = if c then a.1.standing else b.1.standing := by
  split <;> rfl

theorem standing_getD {o : Option State} {d : State} {x : List Instr × Nat × Nat × Nat}
    (given : ∀ t, o = some t → t.standing = x) (default : d.standing = x) : (o.getD d).standing = x := by
  cases o with
  | none => exact default
  | some t => exact given t rfl

@[simp] theorem standing_forL {α : Type} (l : List α) (f : α → State → State) (s : State)
    (h : ∀ a s, (f a s).standing = s.standing) : (forL l f s).standing = s.standing := by
  induction l generalizing s with
  | nil => rfl
  | cons a l ih => exact (ih (f a s)).trans (h a s)

@[simp] theorem standing_forN (n : Nat) (f : Nat → State → State) (s : State) (h : ∀ a s, (f a s).standing = s.standing) :
    (forN n f s).standing = s.standing := standing_forL _ f s h

theorem standing_of_forL {α : Type} {l : List α} {f : α → State → State} {s : State}
    (h : ∀ a s, (f a s).standing = s.standing) : (forL l f s).standing = s.standing := standing_forL l f s h

theorem standing_of_forN {n : Nat} {f : Nat → State → State} {s : State} (h : ∀ a s, (f a s).standing = s.standing) :
    (forN n f s).standing = s.standing := standing_forN n f s h

@[simp] theorem standing_of_foldl {α β : Type} {l : List α} {f : State × β → α → State × β} {p : State × β}
    (h : ∀ p a, (f p a).1.standing = p.1.standing) : (l.foldl f p).1.standing = p.1.standing := by
  induction l generalizing p with
  | nil => rfl
  | cons a l ih => exact ih.trans (h p a)

@[simp] theorem stands_ite (s : State) (c : Prop) [Decidable c] (a b : Host.Outcome State Fault Refusal) :
    Stands s (if c then a else b) ↔ if c then Stands s a else Stands s b := by
  split <;> rfl

@[simp] theorem stands_next (s t : State) : Stands s (.next t) ↔ t.standing = s.standing := by simp [Stands]

@[simp] theorem stands_fault (s : State) (f : Fault) : Stands s (.fault f) := by simp [Stands]

@[simp] theorem stands_refused (s : State) (r : Refusal) : Stands s (.refused r) := by simp [Stands]

/-! ### Ops.lean -/

@[simp] theorem State.setUnit_standing (s : State) (u : UnitId) (v : UnitSt) : (s.setUnit u v).standing = s.standing := by
  simp [State.setUnit]

@[simp] theorem State.setPool_standing (s : State) (p : Nat) (v : Pool) : (s.setPool p v).standing = s.standing := by
  simp [State.setPool]

@[simp] theorem State.setMailbox_standing (s : State) (n : Nat) (v : Mailbox) : (s.setMailbox n v).standing = s.standing := by
  simp [State.setMailbox]

@[simp] theorem State.setCtx_standing (s : State) (n : Nat) (v : Ctx) : (s.setCtx n v).standing = s.standing := by
  simp [State.setCtx]

@[simp] theorem State.updCtx_standing (s : State) (n : Nat) (f : Ctx → Ctx) : (s.updCtx n f).standing = s.standing := by
  simp [State.updCtx]

@[simp] theorem State.updJob_standing (s : State) (n : Nat) (f : Job → Job) : (s.updJob n f).standing = s.standing := by
  simp [State.updJob]

@[simp] theorem State.updQueue_standing (s : State) (p q : Nat) (f : Queue → Queue) :
    (s.updQueue p q f).standing = s.standing := by
  simp [State.updQueue]

@[simp] theorem State.updModel_standing (s : State) (n m : Nat) (f : Model → Model) :
    (s.updModel n m f).standing = s.standing := by
  simp [State.updModel]

@[simp] theorem State.emit_standing (s : State) (o : Out) : (s.emit o).standing = s.standing := by
  simp [State.emit]

@[simp] theorem State.msix_standing (s : State) (v : Nat) : (s.msix v).standing = s.standing := by
  simp [State.msix]

@[simp] theorem State.notify_standing (s : State) (sink : Sink) (w : W64) : (s.notify sink w).standing = s.standing := by
  unfold State.notify
  split <;> simp

theorem State.put_standing {s t : State} {pool qid : Nat} {ctx : Option Nat} {ty : Nat} {ws : List W64} (h : s.put pool qid ctx ty ws = some t) :
    t.standing = s.standing := by
  dsimp only [State.put] at h
  split at h
  · injection h with h
    simp [← h]
  · cases h

@[simp] theorem State.resetQueue_standing (s : State) (pool qid : Nat) : (s.resetQueue pool qid).standing = s.standing := by
  simp [State.resetQueue]

@[simp] theorem State.takeOldest_standing (s : State) (pool qid : Nat) : (s.takeOldest pool qid).standing = s.standing := by
  unfold State.takeOldest
  split <;> simp

@[simp] theorem State.storeTier_standing (s : State) (wa : Nat) (ws : List W64) :
    (s.storeTier wa ws).standing = s.standing := by
  unfold State.storeTier
  dsimp only
  split <;> simp

/-! ### Records.lean -/

@[simp] theorem roomLoop_standing (fuel : Nat) (fa : Bool) (need : Nat) (s : State) :
    (roomLoop fuel fa need s).standing = s.standing := by
  induction fuel generalizing s with
  | zero => rfl
  | succ fuel ih =>
    dsimp only [roomLoop]
    split
    · rfl
    · split
      · rfl
      · simp [ih]

@[simp] theorem State.writeRecord_standing (s : State) (r : RecSpec) : (s.writeRecord r).1.standing = s.standing := by
  unfold State.writeRecord
  extract_lets ws f hops f1 host s1 before s2 q sink f2 m s3 entry t3 f3 s4 s5 log t5 f5
  have h2 : s2.standing = s.standing := by simp [s2, s1]
  have h3 : s3.1.standing = s.standing := by
    unfold s3
    split
    · simpa using h2
    · next put =>
      rw [← h2, ← State.put_standing put]
      simp
  have h4 : s4.1.standing = s.standing := by simpa [s4] using h3
  split
  · simpa [t5, s5] using h4
  · exact h4

@[simp] theorem State.event_standing (s : State) (x : Nat) (e : Event) : (s.event x e).standing = s.standing := by
  dsimp only [State.event]
  split
  · next t put =>
    split at put
    · exact State.put_standing put
    · cases put
  · simp

@[simp] theorem State.tellLost_standing (s : State) : (s.tellLost).standing = s.standing := by
  simp [State.tellLost]

@[simp] theorem State.enter_standing (s : State) (r : RecSpec) : (s.enter r).standing = s.standing := by
  unfold State.enter
  dsimp only
  repeat' split
  all_goals simp

@[simp] theorem State.countEcc_standing (s : State) (place : Nat) (syn : Byte) :
    (s.countEcc place syn).standing = s.standing := by
  simp [State.countEcc]

@[simp] theorem State.wroteKettle_standing (s : State) : (s.wroteKettle).standing = s.standing := by
  simp [State.wroteKettle]

@[simp] theorem State.raise_standing (s : State) (r : RecSpec) : (s.raise r).standing = s.standing := by
  simp [State.raise]

@[simp] theorem State.regAccess_standing (s : State) (off : Nat) : (s.regAccess off).standing = s.standing := by
  simp [State.regAccess]

@[simp] theorem State.worst_standing (s : State) (n : Nat) : (s.worst n).standing = s.standing := by
  simp [State.worst]

@[simp] theorem State.raiseLimited_standing (s : State) (key : Nat × Nat) (steeps : Nat) (r : RecSpec) :
    (s.raiseLimited key steeps r).standing = s.standing := by
  unfold State.raiseLimited
  split <;> simp

theorem State.putCompletion_standing {s t : State} {mb : Nat} {ws : List W64} (h : s.putCompletion mb ws = some t) :
    t.standing = s.standing := by
  obtain ⟨u, put, rfl⟩ := Option.map_eq_some_iff.mp h
  simpa using State.put_standing put

@[simp] theorem State.settleRequest_standing (s : State) (mb : Nat) (ws : List W64) :
    (s.settleRequest mb ws).standing = s.standing := by
  dsimp only [State.settleRequest]
  split
  · simp
  · exact standing_getD (fun t written => by simpa using State.putCompletion_standing written) (by simp)

@[simp] theorem State.complete_standing (s : State) (mb code tag status : Nat) (reply : List W64) :
    (s.complete mb code tag status reply).standing = s.standing := by
  simp [State.complete]

@[simp] theorem State.secondCompletion_standing (s : State) (mb tag status : Nat) (ws : List W64) :
    (s.secondCompletion mb tag status ws).standing = s.standing := by
  dsimp only [State.secondCompletion]
  split
  · simp
  · split
    · exact standing_getD (fun t written => by simpa using State.putCompletion_standing written) (by simp)
    · simp

@[simp] theorem heldLoop_standing (fuel mb : Nat) (s : State) : (heldLoop fuel mb s).standing = s.standing := by
  induction fuel generalizing s with
  | zero => rfl
  | succ fuel ih =>
    dsimp only [heldLoop]
    split
    · rfl
    · split
      · rfl
      · split
        · next t written => simpa [ih] using State.putCompletion_standing written
        · rfl

@[simp] theorem dueLoop_standing (fuel mb : Nat) (s : State) : (dueLoop fuel mb s).standing = s.standing := by
  induction fuel generalizing s with
  | zero => rfl
  | succ fuel ih =>
    dsimp only [dueLoop]
    split
    · rfl
    · split
      · next t written => simpa [ih] using State.putCompletion_standing written
      · rfl

@[simp] theorem State.flushMailbox_standing (s : State) (mb : Nat) : (s.flushMailbox mb).standing = s.standing := by
  simp [State.flushMailbox]

@[simp] theorem State.cmdEvent_standing (s : State) (by_ : CmdRef) (ctx : Option Nat) (e : Event) :
    (s.cmdEvent by_ ctx e).standing = s.standing := by
  unfold State.cmdEvent
  split <;> simp

@[simp] theorem State.commandDone_standing (s : State) (by_ : CmdRef) (ctx : Option Nat) :
    (s.commandDone by_ ctx).standing = s.standing := by
  simp [State.commandDone]

/-! ### Inject.lean -/

@[simp] theorem State.setLink_standing (s : State) (n : Nat) (l : Link) : (s.setLink n l).standing = s.standing := by
  simp [State.setLink]

@[simp] theorem State.updLink_standing (s : State) (n : Nat) (f : Link → Link) : (s.updLink n f).standing = s.standing := by
  simp [State.updLink]

@[simp] theorem State.control_standing (s : State) (link kind : Nat) (nak : Bool) (vc count : Nat) (ws : List W64) :
    (s.control link kind nak vc count ws).standing = s.standing := by
  simp [State.control]

@[simp] theorem returnLoop_standing (fuel link vc n : Nat) (s : State) :
    (returnLoop fuel link vc n s).standing = s.standing := by
  induction fuel generalizing n s with
  | zero => rfl
  | succ fuel ih => simp [returnLoop, ih]

@[simp] theorem State.freedCells_standing (s : State) (link vc n : Nat) : (s.freedCells link vc n).standing = s.standing := by
  simp [State.freedCells]

@[simp] theorem State.freedIn_standing (s : State) (pool qid n : Nat) : (s.freedIn pool qid n).standing = s.standing := by
  simp [State.freedIn]

@[simp] theorem State.payWithheld_standing (s : State) (pool qid : Nat) : (s.payWithheld pool qid).standing = s.standing := by
  simp [State.payWithheld]

@[simp] theorem State.consume_standing (s : State) (pool qid seq : Nat) : (s.consume pool qid seq).standing = s.standing := by
  simp [State.consume]

@[simp] theorem State.holdEarly_standing (s : State) (m : EarlyMsg) : (s.holdEarly m).standing = s.standing := by
  simp [State.holdEarly]

@[simp] theorem State.routeLost_standing (s : State) (k : Route) (rset : Nat) :
    (s.routeLost k rset).standing = s.standing := by
  unfold State.routeLost
  split <;> simp

@[simp] theorem State.badPacket_standing (s : State) (link : Option Nat) : (s.badPacket link).standing = s.standing := by
  simp [State.badPacket]

@[simp] theorem State.hold_standing (s : State) (ctx : Option Nat) (ty vc : Nat) (ws : List W64) (ports : List Nat)
    (far : Bool) (src : Option (Nat × Nat × Nat)) :
    (s.hold ctx ty vc ws ports far src).standing = s.standing := by
  simp [State.hold]

@[simp] theorem State.inject_standing (s : State) (kind vc : Nat) (dst : List W64) (ctx : Option Nat) (rset : Nat)
    (body : List W64) :
    (s.inject kind vc dst ctx rset body).standing = s.standing := by
  unfold State.inject
  dsimp only
  split <;> simp

@[simp] theorem State.injectDn_standing (s : State) (kind vc dn : Nat) (ctx : Option Nat) (rset : Nat) (body : List W64) :
    (s.injectDn kind vc dn ctx rset body).standing = s.standing := by
  unfold State.injectDn
  split <;> simp

@[simp] theorem State.tookPacket_standing (s : State) (kind : Nat) (body : List W64) :
    (s.tookPacket kind body).standing = s.standing := by
  unfold State.tookPacket
  repeat' split
  all_goals simp

@[simp] theorem State.linkTo_standing (s : State) (link : Nat) (new : LinkState) :
    (s.linkTo link new).standing = s.standing := by
  unfold State.linkTo
  dsimp only
  split <;> simp

/-! ### Kettle.lean -/

@[simp] theorem State.doorbell_standing (s : State) (mb : Nat) (ws : List W64) :
    (s.doorbell mb ws).1.standing = s.standing := by
  dsimp only [State.doorbell]
  split
  · simp
  · split
    · simp
    · next t put => simpa using State.put_standing put

@[simp] theorem undefinedLoop_standing (fuel mb : Nat) (s : State) : (undefinedLoop fuel mb s).standing = s.standing := by
  induction fuel generalizing s with
  | zero => rfl
  | succ fuel ih =>
    dsimp only [undefinedLoop]
    split
    · rfl
    · split
      · rfl
      · simp [ih]

@[simp] theorem State.answerUndefined_standing (s : State) (mb : Nat) : (s.answerUndefined mb).standing = s.standing := by
  simp [State.answerUndefined]

@[simp] theorem State.guardMailbox_standing (s : State) (fn mb off : Nat) (act : State → State) (h : ∀ s, (act s).standing = s.standing) :
    (s.guardMailbox fn mb off act).standing = s.standing := by
  simp [State.guardMailbox, h]

@[simp] theorem execMbDoorbell_standing (fn mb : Nat) (v : W64) (s : State) : Stands s (execMbDoorbell fn mb v s) := by
  simp [execMbDoorbell]

@[simp] theorem execMbCompAck_standing (fn mb : Nat) (v : W64) (s : State) : Stands s (execMbCompAck fn mb v s) := by
  simp [execMbCompAck]

@[simp] theorem State.resetMailbox_standing (s : State) (mb : Nat) : (s.resetMailbox mb).standing = s.standing := by
  simp [State.resetMailbox]

@[simp] theorem State.mailboxSink_standing (s : State) (mb : Nat) : (s.mailboxSink mb).standing = s.standing := by
  simp [State.mailboxSink]

@[simp] theorem execMbCfgReset_standing (fn mb : Nat) (v : W64) (s : State) : Stands s (execMbCfgReset fn mb v s) := by
  unfold execMbCfgReset
  split <;> simp

@[simp] theorem done_standing (s : State) (status : Nat) : (done s status).1.standing = s.standing := by
  simp [done]

@[simp] theorem State.fanOut_standing (s : State) (ref : CmdRef) (composite : Bool) (members : List (List W64))
    (ws args : List W64) (own : Option (Nat × List W64)) :
    (s.fanOut ref composite members ws args own).standing = s.standing := by
  simp [State.fanOut]

@[simp] theorem State.askLead_standing (s : State) (ref : CmdRef) (lead : List W64) (ms : List (List W64)) (ws : List W64) :
    (s.askLead ref lead ms ws).standing = s.standing := by
  simp [State.askLead]

section
variable {P : State → Prop} (lasts : Lasting P) {body : KReq → State → KResult} (keeps : ∀ k s, P s → P (body k s).1)
include lasts keeps

theorem State.lead_keeps {s : State} (h : P s) (ref : CmdRef) (ms : List (List W64)) (ws args : List W64) :
    P (s.lead ref ms ws args body).1 := by
  unfold State.lead
  extract_lets req mine r t
  have r_keeps : P r.1 := by
    unfold r
    repeat' split
    exacts [h, h, h, keeps _ _ h]
  have t_keeps : P t := lasts (by simp [t]) r_keeps
  repeat' split
  · exact keeps _ _ h
  · exact lasts (by simp) t_keeps
  · exact t_keeps
  · exact t_keeps

theorem State.handle_keeps {s : State} (h : P s) (mb code : Nat) (ws : List W64) (ctxHop : Bool) (admin : UnitId → Bool) :
    P (s.handle mb code ws ctxHop admin body).1 := by
  unfold State.handle
  extract_lets word n tag path hops
  split
  · exact h
  · split
    · exact h
    · split
      · exact h
      · split
        · exact h
        · split
          · exact h
          · split
            · dsimp only
              split
              · split
                · exact State.lead_keeps lasts keeps h _ _ _ _
                · exact lasts (by simp) h
              · exact h
            · exact lasts (by simp) h
            · extract_lets isCtx
              split
              · exact h
              · exact keeps _ _ h

theorem State.kettle_keeps {s : State} (h : P s) (r : Req) (code : Nat) (ctxHop : Bool) (admin : UnitId → Bool) :
    P (s.kettle r code ctxHop admin body) := by
  unfold State.kettle
  extract_lets ws run res u rung
  have run_keeps (t : State) (ht : P t) : P (run t) := by
    have handled := State.handle_keeps lasts keeps (lasts (State.takeOldest_standing t 0 (0x100 + 2 * r.mb)) ht)
    unfold run
    extract_lets u res
    have res_keeps : P res.1 := by
      unfold res u
      split
      · exact lasts (by simp) ht
      · exact handled _ _ _ _ _
    split
    · exact res_keeps
    · exact lasts (by simp) res_keeps
  have res_keeps : P res.1 := by
    unfold res
    split
    · exact h
    · exact State.handle_keeps lasts keeps h _ _ _ _ _
  have rung_keeps : P rung.1 := lasts (by simp [rung]) h
  split
  · exact lasts (s := res.1) (by simp [u]) res_keeps
  · repeat' split
    exacts [h, rung_keeps, h, run_keeps _ h, run_keeps _ rung_keeps, rung_keeps]
end

@[simp] theorem State.kettle_standing (s : State) (r : Req) (code : Nat) (ctxHop : Bool) (admin : UnitId → Bool) (body : KReq → State → KResult)
    (h : ∀ k s, (body k s).1.standing = s.standing) : (s.kettle r code ctxHop admin body).standing = s.standing :=
  State.kettle_keeps (P := fun t => t.standing = s.standing) (fun _ _ same kept => same.trans kept) (fun k t kept => (h k t).trans kept) rfl ..

theorem Standing.kettle {r : Req} {code : Nat} {ctxHop : Bool} {admin : UnitId → Bool} {body : KReq → State → KResult} {s : State}
    (h : ∀ k s, (body k s).1.standing = s.standing) : Stands s (.next (s.kettle r code ctxHop admin body)) :=
  (stands_next ..).mpr (s.kettle_standing r code ctxHop admin body h)

@[simp] theorem State.dmaFault_standing (s : State) (ctx fn addr kind : Nat) (write : Bool) (code : Nat) :
    (s.dmaFault ctx fn addr kind write code).standing = s.standing := by
  simp [State.dmaFault]

@[simp] theorem State.dma_standing (s : State) (k : KReq) (host : HostRead) (addr : Nat) (write : Bool) (go : List W64 → KResult)
    (h : ∀ ws, (go ws).1.standing = s.standing) : (s.dma k host addr write go).1.standing = s.standing := by
  unfold State.dma
  split
  · simp
  · split <;> simp [h]

end Sys2Proof.Machine
end

section
/-! SUPPORT. Proofs/StandingJobs.lean: jobs, trust, contexts and streams leave the queue, the period and PHASE. -/
namespace Sys2Proof.Machine

/-! ### Commit.lean -/

@[simp] theorem State.jobMsg_standing (s : State) (x dn msg cause step arg : Nat) :
    (s.jobMsg x dn msg cause step arg).standing = s.standing := by
  simp [State.jobMsg]

@[simp] theorem State.domainMsg_standing (s : State) (dn msg : Nat) (arg : W64) :
    (s.domainMsg dn msg arg).standing = s.standing := by
  simp [State.domainMsg]

@[simp] theorem State.tookMsg_standing (s : State) (m : CommitMsg) (msg : Nat) : (s.tookMsg m msg).standing = s.standing := by
  simp [State.tookMsg]

@[simp] theorem State.taint_standing (s : State) (x : Nat) : (s.taint x).standing = s.standing := by
  simp [State.taint]

@[simp] theorem State.taintFrom_standing (s : State) (x from_ : Nat) : (s.taintFrom x from_).standing = s.standing := by
  simp [State.taintFrom]

@[simp] theorem goneLoop_standing (fuel x slot : Nat) (s : State) : (goneLoop fuel x slot s).standing = s.standing := by
  induction fuel generalizing s with
  | zero => rfl
  | succ fuel ih =>
    dsimp only [goneLoop]
    split
    · split <;> simp [ih]
    · rfl

@[simp] theorem State.dropOldest_standing (s : State) (x slot : Nat) : (s.dropOldest x slot).standing = s.standing := by
  simp [State.dropOldest]

@[simp] theorem State.startCapture_standing (s : State) (x : Nat) (t : Stream) :
    (s.startCapture x t).standing = s.standing := by
  unfold State.startCapture
  dsimp only
  split <;> simp

@[simp] theorem State.endCapture_standing (s : State) (x : Nat) : (s.endCapture x).standing = s.standing := by
  unfold State.endCapture
  split <;> simp

@[simp] theorem State.capturePayload_standing (s : State) (x : Nat) (ws : List W64) :
    (s.capturePayload x ws).standing = s.standing := by
  simp [State.capturePayload]

@[simp] theorem State.tracePass_standing (s : State) (x : Nat) (e : W64 × W64) : (s.tracePass x e).standing = s.standing := by
  unfold State.tracePass
  dsimp only
  split <;> simp

@[simp] theorem State.dropChains_standing (s : State) (x slot step : Nat) :
    (s.dropChains x slot step).standing = s.standing := by
  simp [State.dropChains]

@[simp] theorem State.endStream_standing (s : State) (x slot status : Nat) :
    (s.endStream x slot status).standing = s.standing := by
  unfold State.endStream
  split <;> simp

@[simp] theorem State.abortStreams_standing (s : State) (x n : Nat) : (s.abortStreams x n).standing = s.standing := by
  unfold State.abortStreams
  refine standing_of_forL fun a s => ?_
  split <;> simp

@[simp] theorem State.rewriteCopies_standing (s : State) (x : Nat) : (s.rewriteCopies x).standing = s.standing := by
  simp [State.rewriteCopies]

@[simp] theorem State.discardShadow_standing (s : State) (x n : Nat) : (s.discardShadow x n).standing = s.standing := by
  simp [State.discardShadow]

@[simp] theorem State.abortStep_standing (s : State) (x n cause : Nat) : (s.abortStep x n cause).standing = s.standing := by
  unfold State.abortStep
  split <;> simp

@[simp] theorem State.leadAbort_standing (s : State) (x n cause : Nat) : (s.leadAbort x n cause).standing = s.standing := by
  unfold State.leadAbort
  dsimp only
  split <;> simp

@[simp] theorem State.failStep_standing (s : State) (x n cause epoch : Nat) :
    (s.failStep x n cause epoch).standing = s.standing := by
  unfold State.failStep
  dsimp only
  split <;> simp

@[simp] theorem State.failEpoch_standing (s : State) (x cause epoch : Nat) :
    (s.failEpoch x cause epoch).standing = s.standing := by
  simp [State.failEpoch]

@[simp] theorem State.checkFailed_standing (s : State) (x from_ : Nat) : (s.checkFailed x from_).standing = s.standing := by
  simp [State.checkFailed]

@[simp] theorem State.ledgerAdd_standing (s : State) (x src epoch : Nat) :
    (s.ledgerAdd x src epoch).standing = s.standing := by
  simp [State.ledgerAdd]

@[simp] theorem State.dataLeft_standing (s : State) (x dn : Nat) : (s.dataLeft x dn).standing = s.standing := by
  unfold State.dataLeft
  dsimp only
  split <;> simp

@[simp] theorem execSeal_standing (m : CommitMsg) (s : State) : Stands s (execSeal m s) := by
  unfold execSeal
  dsimp only
  repeat' split
  all_goals simp

@[simp] theorem execEpochSeal_standing (ctx epoch : Nat) (s : State) : Stands s (execEpochSeal ctx epoch s) := by
  simp [execEpochSeal]

@[simp] theorem execSealLate_standing (ctx epoch : Nat) (s : State) : Stands s (execSealLate ctx epoch s) := by
  simp [execSealLate]

@[simp] theorem execSealMissing_standing (ctx src epoch : Nat) (s : State) : Stands s (execSealMissing ctx src epoch s) := by
  unfold execSealMissing
  split <;> simp

@[simp] theorem execStepFail_standing (m : CommitMsg) (s : State) : Stands s (execStepFail m s) := by
  unfold execStepFail
  dsimp only
  repeat' split
  all_goals simp

@[simp] theorem State.takeAbort_standing (s : State) (x step cause : Nat) :
    (s.takeAbort x step cause).standing = s.standing := by
  simp [State.takeAbort]

@[simp] theorem execAbort_standing (m : CommitMsg) (s : State) : Stands s (execAbort m s) := by
  unfold execAbort
  dsimp only
  repeat' split
  all_goals simp

@[simp] theorem State.leadCommit_standing (s : State) (x : Nat) (t : StepSt) : (s.leadCommit x t).standing = s.standing := by
  simp [State.leadCommit]

@[simp] theorem State.tryLead_standing (s : State) (x n : Nat) : (s.tryLead x n).standing = s.standing := by
  unfold State.tryLead
  dsimp only
  split <;> simp

@[simp] theorem execReadySend_standing (ctx : Nat) (s : State) : Stands s (execReadySend ctx s) := by
  unfold execReadySend
  dsimp only
  repeat' split
  all_goals simp

@[simp] theorem execReady_standing (m : CommitMsg) (s : State) : Stands s (execReady m s) := by
  unfold execReady
  dsimp only
  repeat' split
  all_goals simp

@[simp] theorem State.takeCommit_standing (s : State) (x step jver : Nat) :
    (s.takeCommit x step jver).standing = s.standing := by
  unfold State.takeCommit
  dsimp only
  split <;> simp

@[simp] theorem execCommit_standing (m : CommitMsg) (s : State) : Stands s (execCommit m s) := by
  unfold execCommit
  dsimp only
  repeat' split
  all_goals simp

@[simp] theorem execQuery_standing (m : CommitMsg) (s : State) : Stands s (execQuery m s) := by
  unfold execQuery
  dsimp only
  repeat' split
  all_goals simp

@[simp] theorem State.settleTakeover_standing (s : State) (x step : Nat) (committed : Bool) :
    (s.settleTakeover x step committed).standing = s.standing := by
  unfold State.settleTakeover
  dsimp only
  repeat' split
  all_goals simp

@[simp] theorem execDecision_standing (m : CommitMsg) (s : State) : Stands s (execDecision m s) := by
  unfold execDecision
  dsimp only
  repeat' split
  all_goals simp

@[simp] theorem execMirrorDone_standing (m : CommitMsg) (s : State) : Stands s (execMirrorDone m s) := by
  unfold execMirrorDone
  dsimp only
  repeat' split
  all_goals simp

@[simp] theorem execQueryTimeout_standing (ctx : Nat) (s : State) : Stands s (execQueryTimeout ctx s) := by
  unfold execQueryTimeout
  dsimp only
  split <;> simp

@[simp] theorem execCommitTimeout_standing (ctx : Nat) (s : State) : Stands s (execCommitTimeout ctx s) := by
  unfold execCommitTimeout
  dsimp only
  repeat' split
  all_goals simp

@[simp] theorem State.toMirror_standing (s : State) (x : Nat) (dn : Option Nat) (ws : List W64) :
    (s.toMirror x dn ws).standing = s.standing := by
  unfold State.toMirror
  split <;> simp

/-! ### Election.lean -/

@[simp] theorem State.deputise_standing (s : State) : (s.deputise).standing = s.standing := by
  simp [State.deputise]

@[simp] theorem State.elect_standing (s : State) : (s.elect).standing = s.standing := by
  unfold State.elect
  split <;> simp

@[simp] theorem State.leftDomain_standing (s : State) (dn : Nat) : (s.leftDomain dn).standing = s.standing := by
  simp [State.leftDomain]

@[simp] theorem State.heardMaster_standing (s : State) (dn count : Nat) : (s.heardMaster dn count).standing = s.standing := by
  simp [State.heardMaster]

/-! ### Membership.lean -/

@[simp] theorem State.setBeat_standing (s : State) (n : Nat) (b : LinkBeat) : (s.setBeat n b).standing = s.standing := by
  simp [State.setBeat]

@[simp] theorem State.expel_standing (s : State) (dn reason : Nat) : (s.expel dn reason).standing = s.standing := by
  simp [State.expel]

@[simp] theorem State.tally_standing (s : State) (voter target lost : Nat) :
    (s.tally voter target lost).standing = s.standing := by
  simp [State.tally]

@[simp] theorem State.vote_standing (s : State) (target lost : Nat) : (s.vote target lost).standing = s.standing := by
  simp [State.vote]

@[simp] theorem execHeartbeat_standing (link : Nat) (b : Beat) (s : State) : Stands s (execHeartbeat link b s) := by
  simp [execHeartbeat]

@[simp] theorem execHeartbeatMissed_standing (link : Nat) (s : State) : Stands s (execHeartbeatMissed link s) := by
  simp [execHeartbeatMissed]

@[simp] theorem execVote_standing (m : CommitMsg) (s : State) : Stands s (execVote m s) := by
  simp [execVote]

@[simp] theorem execExpel_standing (m : CommitMsg) (s : State) : Stands s (execExpel m s) := by
  simp [execExpel]

@[simp] theorem execMemberSync_standing (m : CommitMsg) (s : State) : Stands s (execMemberSync m s) := by
  simp [execMemberSync]

@[simp] theorem State.formScore_standing (s : State) : (s.formScore).standing = s.standing := by
  simp [State.formScore]

@[simp] theorem execHealthScoreForm_standing (s : State) : Stands s (execHealthScoreForm s) := by
  simp [execHealthScoreForm]

@[simp] theorem State.grant_standing (s : State) (dn : Nat) : (s.grant dn).standing = s.standing := by
  simp [State.grant]

@[simp] theorem execHealthAsk_standing (m : CommitMsg) (s : State) : Stands s (execHealthAsk m s) := by
  simp [execHealthAsk]

@[simp] theorem execHealthReply_standing (m : CommitMsg) (s : State) : Stands s (execHealthReply m s) := by
  simp [execHealthReply]

@[simp] theorem execHealthBudgetRoom_standing (s : State) : Stands s (execHealthBudgetRoom s) := by
  unfold execHealthBudgetRoom
  dsimp only
  repeat' split
  all_goals simp

/-! ### MemErrors.lean -/

@[simp] theorem State.setCore_standing (s : State) (k : Nat) (c : Core) : (s.setCore k c).standing = s.standing := by
  simp [State.setCore]

@[simp] theorem State.updCore_standing (s : State) (k : Nat) (f : Core → Core) : (s.updCore k f).standing = s.standing := by
  simp [State.updCore]

@[simp] theorem State.logUe_standing (s : State) (w : BadWord) (ctx : Option Nat) (scrub : Bool) :
    (s.logUe w ctx scrub).standing = s.standing := by
  simp [State.logUe]

@[simp] theorem State.rowCe_standing (s : State) (w : BadWord) : (s.rowCe w).standing = s.standing := by
  simp [State.rowCe]

@[simp] theorem State.farPoolUe_standing (s : State) (a : Nat) : (s.farPoolUe a).standing = s.standing := by
  unfold State.farPoolUe
  dsimp only
  repeat' split
  all_goals simp

@[simp] theorem State.badWord_standing (s : State) (w : BadWord) (ctx : Option Nat) (scrub : Bool) (opcode opRef : Nat) :
    (s.badWord w ctx scrub opcode opRef).standing = s.standing := by
  unfold State.badWord
  split
  · simp
  · dsimp only
    repeat' split
    all_goals simp

@[simp] theorem State.noteTier_standing (s : State) (wa n : Nat) (ctx : Option Nat) (scrub : Bool) (opcode opRef : Nat) :
    (s.noteTier wa n ctx scrub opcode opRef).standing = s.standing := by
  simp [State.noteTier]

@[simp] theorem State.noteBytes_standing (s : State) (a n : Nat) (ctx : Option Nat) (opcode opRef : Nat) :
    (s.noteBytes a n ctx opcode opRef).standing = s.standing := by
  simp [State.noteBytes]

@[simp] theorem State.noteCoreWords_standing (s : State) (k : Nat) (p : Nat → Bool) (ctx : Option Nat) (scrub : Bool)
    (opcode opRef : Nat) :
    (s.noteCoreWords k p ctx scrub opcode opRef).standing = s.standing := by
  simp [State.noteCoreWords]

@[simp] theorem State.noteCore_standing (s : State) (k wa n : Nat) (ctx : Option Nat) (scrub : Bool) (opcode opRef : Nat) :
    (s.noteCore k wa n ctx scrub opcode opRef).standing = s.standing := by
  simp [State.noteCore]

@[simp] theorem State.storeCore_standing (s : State) (k wa : Nat) (ws : List W64) :
    (s.storeCore k wa ws).standing = s.standing := by
  simp [State.storeCore]

@[simp] theorem State.storeCoreBytes_standing (s : State) (k a : Nat) (bs : List Byte) (ctx : Option Nat) :
    (s.storeCoreBytes k a bs ctx).standing = s.standing := by
  simp [State.storeCoreBytes]

@[simp] theorem State.storeTierBytes_standing (s : State) (a : Nat) (bs : List Byte) (ctx : Option Nat) :
    (s.storeTierBytes a bs ctx).standing = s.standing := by
  simp [State.storeTierBytes]

@[simp] theorem State.arrive_standing (s : State) (place : Nat) (ctx : Option Nat) (op ref addr : Nat) (w : Moving)
    (bits : List Nat) :
    (s.arrive place ctx op ref addr w bits).1.standing = s.standing := by
  simp [State.arrive]

@[simp] theorem State.arriveAll_standing (s : State) (place : Nat) (ctx : Option Nat) (op ref : Nat)
    (upset : List (Nat × Nat)) (ws : List (Nat × Moving)) :
    (s.arriveAll place ctx op ref upset ws).1.standing = s.standing := by
  unfold State.arriveAll
  refine standing_of_foldl fun r a => ?_
  simp

/-! ### JobCmds.lean -/

@[simp] theorem execJobConfig_standing (r : Req) (s : State) : Stands s (execJobConfig r s) := by
  simp [execJobConfig]

@[simp] theorem State.applyMembers_standing (s : State) (x : Nat) (g : StagedMembers) :
    (s.applyMembers x g).standing = s.standing := by
  simp [State.applyMembers]

@[simp] theorem execJobMembers_standing (r : Req) (s : State) : Stands s (execJobMembers r s) := by
  simp [execJobMembers]

@[simp] theorem execStepCapture_standing (r : Req) (s : State) : Stands s (execStepCapture r s) := by
  refine Standing.kettle fun k s => ?_
  dsimp only
  repeat' split
  all_goals simp

@[simp] theorem State.restoreSpans_standing (s : State) (base : Nat) (sp : List (Nat × List W64)) :
    (s.restoreSpans base sp).standing = s.standing := by
  simp [State.restoreSpans]

@[simp] theorem execStepReplay_standing (r : Req) (s : State) : Stands s (execStepReplay r s) := by
  unfold execStepReplay
  refine Standing.kettle fun k s => ?_
  dsimp only
  split
  · rfl
  · split
    · rfl
    · split
      · rfl
      · split
        · rfl
        · split
          · simp
          · split
            · simp
            · simp [State.put_standing ‹_›]

@[simp] theorem execReplayComplete_standing (ctx : Nat) (s : State) : Stands s (execReplayComplete ctx s) := by
  unfold execReplayComplete
  split <;> simp

@[simp] theorem State.askMove_standing (s : State) (k : KReq) (path : List W64) (x other chain rank parts : Nat) :
    (s.askMove k path x other chain rank parts).standing = s.standing := by
  simp [State.askMove]

@[simp] theorem execJobJoin_standing (r : Req) (s : State) : Stands s (execJobJoin r s) := by
  simp [execJobJoin]

@[simp] theorem execSpareTakeover_standing (r : Req) (s : State) : Stands s (execSpareTakeover r s) := by
  simp [execSpareTakeover]

@[simp] theorem execDecant_standing (r : Req) (s : State) : Stands s (execDecant r s) := by
  simp [execDecant]

@[simp] theorem execReadmit_standing (r : Req) (s : State) : Stands s (execReadmit r s) := by
  simp [execReadmit]

@[simp] theorem execHealthConfig_standing (r : Req) (s : State) : Stands s (execHealthConfig r s) := by
  simp [execHealthConfig]

/-! ### Reset.lean -/

@[simp] theorem execModuleResetTimeout_standing (s : State) : Stands s (execModuleResetTimeout s) := by
  simp [execModuleResetTimeout]

@[simp] theorem State.resetDone_standing (s : State) : (s.resetDone).standing = s.standing := by
  unfold State.resetDone
  split <;> simp

/-! ### Trust.lean -/

@[simp] theorem State.enableQueue_standing (s : State) (pool qid guarantee quota : Nat) (ctx : Option Nat) (sink : Sink)
    (from_ toward : Party) :
    (s.enableQueue pool qid guarantee quota ctx sink from_ toward).standing = s.standing := by
  simp [State.enableQueue]

@[simp] theorem State.enableMailbox_standing (s : State) (mb : Nat) : (s.enableMailbox mb).standing = s.standing := by
  simp [State.enableMailbox]

@[simp] theorem State.startQueues_standing (s : State) : (s.startQueues).standing = s.standing := by
  simp [State.startQueues]

@[simp] theorem execBootStageComplete_standing (b : BootLoad) (s : State) : Stands s (execBootStageComplete b s) := by
  simp [execBootStageComplete]

@[simp] theorem execAttestReport_standing (r : Req) (host : HostRead) (s : State) : Stands s (execAttestReport r host s) := by
  simp [execAttestReport]

@[simp] theorem execCertRead_standing (r : Req) (host : HostRead) (s : State) : Stands s (execCertRead r host s) := by
  simp [execCertRead]

@[simp] theorem execFwWrite_standing (r : Req) (host : HostRead) (s : State) : Stands s (execFwWrite r host s) := by
  simp [execFwWrite]

@[simp] theorem execFwActivate_standing (r : Req) (s : State) : Stands s (execFwActivate r s) := by
  simp [execFwActivate]

@[simp] theorem execConfigWrite_standing (r : Req) (host : HostRead) (s : State) : Stands s (execConfigWrite r host s) := by
  simp [execConfigWrite]

@[simp] theorem execKeyList_standing (r : Req) (s : State) : Stands s (execKeyList r s) := by
  simp [execKeyList]

@[simp] theorem execKeyDestroy_standing (r : Req) (s : State) : Stands s (execKeyDestroy r s) := by
  unfold execKeyDestroy
  refine Standing.kettle fun k s => ?_
  dsimp only
  repeat' split
  all_goals simp

@[simp] theorem State.spdmReply_standing (s : State) (oob : Bool) (kind : Nat) (ws : List W64) :
    (s.spdmReply oob kind ws).standing = s.standing := by
  simp [State.spdmReply]

@[simp] theorem execSpdmGetCertificate_standing (oob : Bool) (index offset len : Nat) (s : State) :
    Stands s (execSpdmGetCertificate oob index offset len s) := by
  simp [execSpdmGetCertificate]

@[simp] theorem execSpdmChallenge_standing (oob : Bool) (nonce : List W64) (s : State) :
    Stands s (execSpdmChallenge oob nonce s) := by
  simp [execSpdmChallenge]

@[simp] theorem execSpdmGetMeasurements_standing (oob : Bool) (index : Nat) (nonce : List W64) (s : State) :
    Stands s (execSpdmGetMeasurements oob index nonce s) := by
  simp [execSpdmGetMeasurements]

@[simp] theorem execSpdmKeyExchange_standing (oob all : Bool) (s : State) : Stands s (execSpdmKeyExchange oob all s) := by
  simp [execSpdmKeyExchange]

@[simp] theorem State.endSession_standing (s : State) (id : Nat) : (s.endSession id).standing = s.standing := by
  simp [State.endSession]

@[simp] theorem execSpdmHeartbeat_standing (oob : Bool) (session : Nat) (s : State) :
    Stands s (execSpdmHeartbeat oob session s) := by
  simp [execSpdmHeartbeat]

@[simp] theorem execSpdmEndSession_standing (oob : Bool) (session : Nat) (s : State) :
    Stands s (execSpdmEndSession oob session s) := by
  simp [execSpdmEndSession]

@[simp] theorem execSpdmSessionTimeout_standing (session : Nat) (s : State) : Stands s (execSpdmSessionTimeout session s) := by
  simp [execSpdmSessionTimeout]

@[simp] theorem execSpdmTransfer_standing (r : Req) (host : HostRead) (s : State) : Stands s (execSpdmTransfer r host s) := by
  simp [execSpdmTransfer]

@[simp] theorem State.deliverReply_standing (s : State) (oob : Bool) (status handle : Nat) :
    (s.deliverReply oob status handle).standing = s.standing := by
  simp [State.deliverReply]

@[simp] theorem execKeyDeliver_standing (oob : Bool) (session : Nat) (d : KeyDelivery) (s : State) :
    Stands s (execKeyDeliver oob session d s) := by
  unfold execKeyDeliver
  dsimp only
  repeat' split
  all_goals simp

@[simp] theorem execIdeKm_standing (oob : Bool) (session : Nat) (key : List W64) (go : Bool) (s : State) :
    Stands s (execIdeKm oob session key go s) := by
  simp [execIdeKm]

/-! ### Contexts.lean -/

@[simp] theorem execGetVersion_standing (r : Req) (s : State) : Stands s (execGetVersion r s) := by
  simp [execGetVersion]

@[simp] theorem execContextInfo_standing (r : Req) (s : State) : Stands s (execContextInfo r s) := by
  simp [execContextInfo]

@[simp] theorem execCompositeDeclare_standing (r : Req) (s : State) : Stands s (execCompositeDeclare r s) := by
  unfold execCompositeDeclare
  refine Standing.kettle fun k s => ?_
  split <;> simp

@[simp] theorem execCompositeDissolve_standing (r : Req) (s : State) : Stands s (execCompositeDissolve r s) := by
  simp [execCompositeDissolve]

@[simp] theorem execContextCreate_standing (r : Req) (s : State) : Stands s (execContextCreate r s) := by
  simp [execContextCreate]

@[simp] theorem State.resetCtxQueues_standing (s : State) (x : Nat) : (s.resetCtxQueues x).standing = s.standing := by
  simp [State.resetCtxQueues]

@[simp] theorem execContextDestroy_standing (r : Req) (s : State) : Stands s (execContextDestroy r s) := by
  refine Standing.kettle fun k s => ?_
  dsimp only
  repeat' split
  all_goals simp

@[simp] theorem execContextPartition_standing (r : Req) (s : State) : Stands s (execContextPartition r s) := by
  simp [execContextPartition]

@[simp] theorem execDieSchedule_standing (r : Req) (s : State) : Stands s (execDieSchedule r s) := by
  simp [execDieSchedule]

@[simp] theorem execStreamCancel_standing (r : Req) (s : State) : Stands s (execStreamCancel r s) := by
  unfold execStreamCancel
  refine Standing.kettle fun k s => ?_
  dsimp only
  repeat' split
  all_goals simp

@[simp] theorem execSlotResume_standing (r : Req) (s : State) : Stands s (execSlotResume r s) := by
  simp [execSlotResume]

@[simp] theorem execStageMap_standing (r : Req) (s : State) : Stands s (execStageMap r s) := by
  simp [execStageMap]

@[simp] theorem execInterferenceSet_standing (r : Req) (s : State) : Stands s (execInterferenceSet r s) := by
  simp [execInterferenceSet]

@[simp] theorem execInterferenceWindowEnd_standing (ctx : Nat) (s : State) : Stands s (execInterferenceWindowEnd ctx s) := by
  simp [execInterferenceWindowEnd]

/-! ### Streams.lean -/

@[simp] theorem State.giveStreams_standing (s : State) (x slot : Nat) (gs : List Section) :
    (s.giveStreams x slot gs).standing = s.standing := by
  simp [State.giveStreams]

@[simp] theorem State.updStream_standing (s : State) (x slot : Nat) (f : Stream → Stream) :
    (s.updStream x slot f).standing = s.standing := by
  simp [State.updStream]

@[simp] theorem State.failSlot_standing (s : State) (x slot status : Nat) :
    (s.failSlot x slot status).standing = s.standing := by
  simp [State.failSlot]

@[simp] theorem State.failOnCore_standing (s : State) (k : Nat) (ctx : Option Nat) (status : Nat) :
    (s.failOnCore k ctx status).standing = s.standing := by
  unfold State.failOnCore
  repeat' split
  all_goals simp

@[simp] theorem State.failWork_standing (s : State) (w : Work) (status : Nat) :
    (s.failWork w status).standing = s.standing := by
  unfold State.failWork
  split <;> simp

@[simp] theorem State.refuseWork_standing (s : State) (k : Nat) (w : Work) : (s.refuseWork k w).standing = s.standing := by
  simp [State.refuseWork]

@[simp] theorem State.takeWork_standing (s : State) (k : Nat) (cmd : Cmd) : (s.takeWork k cmd).standing = s.standing := by
  simp [State.takeWork]

theorem State.takeNext_standing {s u : State} {x slot op : Nat} {kinds : List Nat} {cmd : Cmd} {t : Stream}
    (h : s.takeNext x slot op kinds cmd = some (t, u)) : u.standing = s.standing := by
  unfold State.takeNext at h
  repeat' split at h
  all_goals simp at h
  simp [← h.2]

@[simp] theorem State.checkOpen_standing (s : State) (ctx : Option Nat) : (s.checkOpen ctx).standing = s.standing := by
  unfold State.checkOpen
  split <;> simp

@[simp] theorem State.checkClose_standing (s : State) (ctx : Option Nat) (from_ : Nat) :
    (s.checkClose ctx from_).standing = s.standing := by
  unfold State.checkClose
  split <;> simp

end Sys2Proof.Machine
end

section
/-! SUPPORT. Proofs/StandingLanes.lean: the lanes of the cores, the caddies and the queues leave the queue of commands, the period and PHASE. -/
namespace Sys2Proof.Machine

/-! ### Matrix.lean -/

@[simp] theorem State.strainerFail_standing (s : State) (k : Nat) (ctx : Option Nat) (op tileId pass : Nat)
    (cmp : Compared) (kind from_ : Nat) (injected : Bool) :
    (s.strainerFail k ctx op tileId pass cmp kind from_ injected).standing = s.standing := by
  unfold State.strainerFail
  dsimp only
  split <;> simp

@[simp] theorem State.compare_standing (s : State) (k : Nat) (t : Tile) (mt : Mt) :
    (s.compare k t mt).standing = s.standing := by
  simp [State.compare]

@[simp] theorem State.swapSets_standing (s : State) (k : Nat) (t : Tile) (mt : Mt) :
    (s.swapSets k t mt).standing = s.standing := by
  simp [State.swapSets]

@[simp] theorem State.takeTile_standing (s : State) (k op : Nat) (cmd : Cmd) :
    (s.takeTile k op cmd).standing = s.standing := by
  unfold State.takeTile
  repeat' split
  all_goals simp

@[simp] theorem execMtFwd_standing (core : Nat) (cmd : Cmd) (s : State) : Stands s (execMtFwd core cmd s) := by
  simp [execMtFwd]

@[simp] theorem execMtDgrad_standing (core : Nat) (cmd : Cmd) (s : State) : Stands s (execMtDgrad core cmd s) := by
  simp [execMtDgrad]

@[simp] theorem execMtWgrad_standing (core : Nat) (cmd : Cmd) (s : State) : Stands s (execMtWgrad core cmd s) := by
  simp [execMtWgrad]

@[simp] theorem State.noteSpans_standing (s : State) (k : Nat) (sp : List Span) (ctx : Option Nat) (op ref : Nat) :
    (s.noteSpans k sp ctx op ref).standing = s.standing := by
  simp [State.noteSpans]

@[simp] theorem State.readSet_standing (s : State) (k sel : Nat) (ctx : Option Nat) (op ref : Nat)
    (ups : List (Nat × Nat)) (cells : List W32) :
    (s.readSet k sel ctx op ref ups cells).1.standing = s.standing := by
  unfold State.readSet
  refine standing_of_foldl fun r a => ?_
  simp

@[simp] theorem State.settle_standing (s : State) (k : Nat) (t : Tile) (mt : Mt) :
    (s.settle k t mt).standing = s.standing := by
  simp [State.settle]

@[simp] theorem execPassSettleEnd_standing (core cycles : Nat) (upset : PassUpset) (s : State) :
    Stands s (execPassSettleEnd core cycles upset s) := by
  unfold execPassSettleEnd
  split <;> simp

/-! ### Pour.lean -/

@[simp] theorem State.refuseTile_standing (s : State) (k : Nat) (t : Tile) (status : Nat) :
    (s.refuseTile k t status).standing = s.standing := by
  simp [State.refuseTile]

@[simp] theorem execTileStart_standing (core : Nat) (s : State) : Stands s (execTileStart core s) := by
  unfold execTileStart
  dsimp only
  repeat' split
  all_goals simp

@[simp] theorem State.storeBits_standing (s : State) (k a n v : Nat) (ctx : Option Nat) :
    (s.storeBits k a n v ctx).standing = s.standing := by
  simp [State.storeBits]

@[simp] theorem State.measure_standing (s : State) (ctx : Option Nat) (tile block : Nat) :
    (s.measure ctx tile block).standing = s.standing := by
  unfold State.measure
  split <;> simp

@[simp] theorem State.countScale_standing (s : State) (ctx : Option Nat) (o : BlockOut) :
    (s.countScale ctx o).standing = s.standing := by
  unfold State.countScale
  split <;> simp

@[simp] theorem State.putBlock_standing (s : State) (k : Nat) (ctx : Option Nat) (f : Format) (e : Epi) (forward : Bool)
    (tile block bitAddr : Nat) (vs : List Val) (rnds : List Rnd) :
    (s.putBlock k ctx f e forward tile block bitAddr vs rnds).1.standing = s.standing := by
  unfold State.putBlock
  dsimp only
  repeat' split
  all_goals simp

@[simp] theorem State.pourRowMajor_standing (s : State) (k : Nat) (p : Pour) (t : Mt) (e : Epi) (f : Format)
    (rows : List (List W32)) :
    (s.pourRowMajor k p t e f rows).standing = s.standing := by
  simp [State.pourRowMajor]

@[simp] theorem State.pourBlocks_standing (s : State) (k : Nat) (p : Pour) (t : Mt) (e : Epi) (f : Format)
    (rows : List (List W32)) :
    (s.pourBlocks k p t e f rows).standing = s.standing := by
  simp [State.pourBlocks]

@[simp] theorem State.pourStats_standing (s : State) (k : Nat) (p : Pour) (t : Mt) (e : Epi) (rows : List (List W32)) :
    (s.pourStats k p t e rows).standing = s.standing := by
  simp [State.pourStats]

@[simp] theorem execPourComplete_standing (core : Nat) (bad : Bool) (upset : List (Nat × Nat)) (s : State) :
    Stands s (execPourComplete core bad upset s) := by
  unfold execPourComplete
  split
  · simp
  · next p _ =>
    extract_lets t e c rd s1 s2 rows s3 s4 s5 s6 limit s7 s8 s9 s10
    have h2 : s2.standing = s.standing := by simp [s2, s1, rd]
    have h3 : s3.standing = s.standing := by
      unfold s3
      split <;> simp [h2]
    have h4 : s4.standing = s.standing := by simp [s4, h3]
    have h7 : s7.standing = s5.standing := by simp [s7, s6]
    clear_value limit s7
    have h8 : s8.standing = s5.standing := by
      unfold s8
      split <;> simp [h7]
    have h10 : s10.standing = s5.standing := by simp [s10, s9, h8]
    clear_value s10 s9 s8 s6 s4 s3 rows s2 s1 rd
    have h5 : s5.standing = s.standing := by
      unfold s5
      split <;> simp [h4]
    split
    · split <;> simp [h10, h5]
    · simp [h10, h5]

@[simp] theorem execDeadlinePour_standing (core : Nat) (s : State) : Stands s (execDeadlinePour core s) := by
  unfold execDeadlinePour
  split <;> simp

@[simp] theorem State.strainerInject_standing (s : State) (k : Nat) (v : W64) :
    (s.strainerInject k v).standing = s.standing := by
  simp [State.strainerInject]

/-! ### Operands.lean -/

@[simp] theorem State.stopRun_standing (s : State) (k : Nat) (r : VRun) (code status kind pc addr : Nat) :
    (s.stopRun k r code status kind pc addr).standing = s.standing := by
  unfold State.stopRun
  dsimp only
  split <;> simp

@[simp] theorem State.vector_standing (s : State) (k : Nat) (w : W64) (op : Nat) (body : VIn → VOut) :
    (s.vector k w op body).standing = s.standing := by
  unfold State.vector
  dsimp only
  repeat' split
  all_goals simp

@[simp] theorem execVecRun_standing (core : Nat) (cmd : Cmd) (s : State) : Stands s (execVecRun core cmd s) := by
  unfold execVecRun
  dsimp only
  repeat' split
  all_goals simp

@[simp] theorem execVecRunComplete_standing (core cycles : Nat) (s : State) : Stands s (execVecRunComplete core cycles s) := by
  unfold execVecRunComplete
  split <;> simp

/-! ### Transfers.lean -/

@[simp] theorem State.moveRow_standing (s : State) (k : Nat) (x : XCmd) (ctx : Option Nat) (ref : Nat)
    (upset : List (Nat × Nat)) (r : Nat) :
    (s.moveRow k x ctx ref upset r).standing = s.standing := by
  simp [State.moveRow]

@[simp] theorem execXfer_standing (core : Nat) (cmd : Cmd) (upset : List (Nat × Nat)) (s : State) :
    Stands s (execXfer core cmd upset s) := by
  unfold execXfer
  split <;> simp

@[simp] theorem State.endLane_standing (s : State) (k op : Nat) : (s.endLane k op).standing = s.standing := by
  unfold State.endLane
  split <;> simp

@[simp] theorem execXferComplete_standing (core : Nat) (s : State) : Stands s (execXferComplete core s) := by
  simp [execXferComplete]

@[simp] theorem execGradGather_standing (core : Nat) (cmd : Cmd) (s : State) : Stands s (execGradGather core cmd s) := by
  unfold execGradGather
  split <;> simp

@[simp] theorem execGradGatherComplete_standing (core : Nat) (s : State) : Stands s (execGradGatherComplete core s) := by
  simp [execGradGatherComplete]

@[simp] theorem execScrubRead_standing (tier : Nat) (upset : List Nat) (s : State) : Stands s (execScrubRead tier upset s) := by
  simp [execScrubRead]

@[simp] theorem execRepairListAdd_standing (place row : Nat) (s : State) : Stands s (execRepairListAdd place row s) := by
  simp [execRepairListAdd]

@[simp] theorem State.eccInject_standing (s : State) (h : Half) (v : W64) : (s.eccInject h v).standing = s.standing := by
  simp [State.eccInject]

@[simp] theorem execEccInjectArm_standing (h : Half) (v : W64) (s : State) : Stands s (execEccInjectArm h v s) := by
  simp [execEccInjectArm]

@[simp] theorem execMemoryTrainingStepDone_standing (part : Nat) (ok : Bool) (s : State) :
    Stands s (execMemoryTrainingStepDone part ok s) := by
  simp [execMemoryTrainingStepDone]

@[simp] theorem execPeriodicCalibration_standing (stack package : Nat) (s : State) :
    Stands s (execPeriodicCalibration stack package s) := by
  simp [execPeriodicCalibration]

/-! ### Caddies.lean -/

@[simp] theorem State.setCaddy_standing (s : State) (n : Nat) (c : Caddy) : (s.setCaddy n c).standing = s.standing := by
  simp [State.setCaddy]

@[simp] theorem State.updCaddy_standing (s : State) (n : Nat) (f : Caddy → Caddy) :
    (s.updCaddy n f).standing = s.standing := by
  simp [State.updCaddy]

@[simp] theorem State.updUpd_standing (s : State) (x : Nat) (f : Upd → Upd) : (s.updUpd x f).standing = s.standing := by
  simp [State.updUpd]

@[simp] theorem State.storeBit_standing (s : State) (base n : Nat) (on : Bool) (ctx : Option Nat) :
    (s.storeBit base n on ctx).standing = s.standing := by
  simp [State.storeBit]

@[simp] theorem State.writeCopy_standing (s : State) (x : Nat) (u : UCmd) (t : Nat) (w : Mat) :
    (s.writeCopy x u t w).standing = s.standing := by
  unfold State.writeCopy
  dsimp only
  repeat' split
  all_goals simp

@[simp] theorem State.noteGranule_standing (s : State) (x op ref addr : Nat) :
    (s.noteGranule x op ref addr).standing = s.standing := by
  simp [State.noteGranule]

@[simp] theorem State.putGranules_standing (s : State) (gs : List (Nat × Mat)) :
    (s.putGranules gs).standing = s.standing := by
  simp [State.putGranules]

@[simp] theorem State.putTile_standing (s : State) (x : Nat) (u : UCmd) (dst t : Nat) (st : List Mat) (hs : List W64) :
    (s.putTile x u dst t st hs).standing = s.standing := by
  simp [State.putTile]

@[simp] theorem State.caddyRecord_standing (s : State) (c x code : Nat) (cls : Cls) (u : UCmd) (t : Nat) (a b : W64) :
    (s.caddyRecord c x code cls u t a b).standing = s.standing := by
  simp [State.caddyRecord]

@[simp] theorem State.keepTile_standing (s : State) (c : Nat) (j : CaddyJob) (u : UCmd) (sl dst t f ver : Nat) :
    (s.keepTile c j u sl dst t f ver).s.standing = s.standing := by
  simp [State.keepTile]

@[simp] theorem State.staleTile_standing (s : State) (c : Nat) (j : CaddyJob) (u : UCmd) (t : Nat) (h : W64) :
    (s.staleTile c j u t h).s.standing = s.standing := by
  simp [State.staleTile]

@[simp] theorem State.noteSkew_standing (s : State) (c : Nat) (j : CaddyJob) (u : UCmd) (t : Nat) (hs : List W64) :
    (s.noteSkew c j u t hs).1.standing = s.standing := by
  unfold State.noteSkew
  dsimp only
  split <;> simp

@[simp] theorem State.noteRoot_standing (s : State) (c : Nat) (j : CaddyJob) (u : UCmd) (t factor : Nat) (r : Root) :
    (s.noteRoot c j u t factor r).standing = s.standing := by
  simp [State.noteRoot]

@[simp] theorem State.stepTile_standing (s : State) (c : Nat) (j : CaddyJob) (u : UCmd) (sl dst t ver : Nat) :
    (s.stepTile c j u sl dst t ver).s.standing = s.standing := by
  unfold State.stepTile
  dsimp only
  repeat' split
  all_goals simp

@[simp] theorem State.initTile_standing (s : State) (j : CaddyJob) (u : UCmd) (dst t ver : Nat) :
    (s.initTile j u dst t ver).s.standing = s.standing := by
  simp [State.initTile]

@[simp] theorem State.carryTile_standing (s : State) (j : CaddyJob) (u : UCmd) (sl dst t ver : Nat) :
    (s.carryTile j u sl dst t ver).s.standing = s.standing := by
  simp [State.carryTile]

@[simp] theorem State.diffTile_standing (s : State) (u : UCmd) (sl t : Nat) :
    (s.diffTile u sl t).s.standing = s.standing := by
  simp [State.diffTile]

@[simp] theorem State.applyTile_standing (s : State) (c : Nat) (j : CaddyJob) (u : UCmd) (sl dst t ver : Nat) :
    (s.applyTile c j u sl dst t ver).s.standing = s.standing := by
  unfold State.applyTile
  dsimp only
  repeat' split
  all_goals simp

@[simp] theorem State.noteInit_standing (s : State) (x : Nat) (u : UCmd) (t : Nat) :
    (s.noteInit x u t).standing = s.standing := by
  simp [State.noteInit]

@[simp] theorem State.updTile_standing (s : State) (c : Nat) (j : CaddyJob) (t : Nat) :
    (s.updTile c j t).s.standing = s.standing := by
  unfold State.updTile
  extract_lets u v dst sl ver heads s1 s2 f s3 s4 skip w s5
  have h1 : s1.standing = s.standing := by simp [s1]
  have h2 : s2.standing = s.standing := by simp [s2, h1]
  have h3 : s3.standing = s.standing := by simp [s3, h2]
  have h4 : s4.standing = s.standing := by simp [s4, h3]
  have h5 : s5.standing = s.standing := by simp [s5, h4]
  repeat' split
  all_goals simp [h5]

@[simp] theorem State.sendGranules_standing (s : State) (x step : Nat) (gs : List Nat) :
    (s.sendGranules x step gs).standing = s.standing := by
  unfold State.sendGranules
  split <;> simp

@[simp] theorem State.sendMetadata_standing (s : State) (x step : Nat) : (s.sendMetadata x step).standing = s.standing := by
  unfold State.sendMetadata
  split <;> simp

@[simp] theorem State.reanchorWrite_standing (s : State) (x step : Nat) :
    (s.reanchorWrite x step).1.standing = s.standing := by
  simp [State.reanchorWrite]

@[simp] theorem State.updatePrepared_standing (s : State) (x step : Nat) :
    (s.updatePrepared x step).standing = s.standing := by
  simp [State.updatePrepared]

@[simp] theorem State.partDone_standing (s : State) (x step : Nat) : (s.partDone x step).standing = s.standing := by
  simp [State.partDone]

@[simp] theorem State.takeUpdate_standing (s : State) (x slot op : Nat) (cmd : Cmd) :
    (s.takeUpdate x slot op cmd).standing = s.standing := by
  unfold State.takeUpdate
  split
  · rfl
  · split
    · simpa using State.takeNext_standing ‹_›
    · refine (standing_forL _ _ _ fun a s => ?_).trans ?_
      · split <;> simp
      · simpa using State.takeNext_standing ‹_›

@[simp] theorem execUpdStep_standing (ctx slot : Nat) (cmd : Cmd) (s : State) : Stands s (execUpdStep ctx slot cmd s) := by
  simp [execUpdStep]

@[simp] theorem execUpdInit_standing (ctx slot : Nat) (cmd : Cmd) (s : State) : Stands s (execUpdInit ctx slot cmd s) := by
  simp [execUpdInit]

@[simp] theorem execUpdCarry_standing (ctx slot : Nat) (cmd : Cmd) (s : State) : Stands s (execUpdCarry ctx slot cmd s) := by
  simp [execUpdCarry]

@[simp] theorem execUpdCopy_standing (ctx slot : Nat) (cmd : Cmd) (s : State) : Stands s (execUpdCopy ctx slot cmd s) := by
  simp [execUpdCopy]

@[simp] theorem execUpdOuterDiff_standing (ctx slot : Nat) (cmd : Cmd) (s : State) :
    Stands s (execUpdOuterDiff ctx slot cmd s) := by
  simp [execUpdOuterDiff]

@[simp] theorem execUpdOuterApply_standing (ctx slot : Nat) (cmd : Cmd) (s : State) :
    Stands s (execUpdOuterApply ctx slot cmd s) := by
  simp [execUpdOuterApply]

@[simp] theorem execUpdRetire_standing (ctx slot : Nat) (cmd : Cmd) (s : State) : Stands s (execUpdRetire ctx slot cmd s) := by
  simp [execUpdRetire]

@[simp] theorem State.caddyPort_standing (s : State) (c x op ref : Nat) (reads : List Nat) (upset : List (Nat × Nat)) :
    (s.caddyPort c x op ref reads upset).1.standing = s.standing := by
  unfold State.caddyPort
  refine standing_of_foldl fun r a => ?_
  simp

@[simp] theorem State.portTile_standing (s : State) (c : Nat) (j : CaddyJob) (t : Nat) (upset : List (Nat × Nat)) :
    (s.portTile c j t upset).s.standing = s.standing := by
  unfold State.portTile
  dsimp only
  repeat' split
  all_goals simp

@[simp] theorem execCaddyTileDone_standing (caddy : Nat) (done : TileDone) (s : State) :
    Stands s (execCaddyTileDone caddy done s) := by
  unfold execCaddyTileDone
  split <;> simp

@[simp] theorem execDeadlineCaddy_standing (caddy : Nat) (s : State) : Stands s (execDeadlineCaddy caddy s) := by
  unfold execDeadlineCaddy
  split <;> simp

@[simp] theorem State.rewriteNow_standing (s : State) (x : Nat) : (s.rewriteNow x).standing = s.standing := by
  simp [State.rewriteNow]

/-! ### Gateway.lean -/

@[simp] theorem State.updOuter_standing (s : State) (x : Nat) (f : Outer → Outer) :
    (s.updOuter x f).standing = s.standing := by
  simp [State.updOuter]

@[simp] theorem State.toLead_standing (s : State) (g : OuterCfg) (kind : Nat) (ws : List W64) :
    (s.toLead g kind ws).standing = s.standing := by
  simp [State.toLead]

@[simp] theorem State.toPeer_standing (s : State) (x : Nat) (g : OuterCfg) (site kind : Nat) (ws : List W64) :
    (s.toPeer x g site kind ws).standing = s.standing := by
  simp [State.toPeer]

@[simp] theorem State.takeHave_standing (s : State) (x dn site round : Nat) (merge : Bool) :
    (s.takeHave x dn site round merge).standing = s.standing := by
  simp [State.takeHave]

@[simp] theorem State.tooLate_standing (s : State) (x site round : Nat) : (s.tooLate x site round).standing = s.standing := by
  simp [State.tooLate]

@[simp] theorem State.tellHave_standing (s : State) (x site round : Nat) (merge : Bool) :
    (s.tellHave x site round merge).standing = s.standing := by
  unfold State.tellHave
  split <;> simp

@[simp] theorem State.takeDiff_standing (s : State) (x : Nat) (g : OuterCfg) (body : List W64) :
    (s.takeDiff x g body).standing = s.standing := by
  simp [State.takeDiff]

@[simp] theorem State.takePlanes_standing (s : State) (x : Nat) (body : List W64) :
    (s.takePlanes x body).standing = s.standing := by
  simp [State.takePlanes]

@[simp] theorem State.gatewayTake_standing (s : State) (ws : List W64) : (s.gatewayTake ws).1.standing = s.standing := by
  unfold State.gatewayTake
  dsimp only
  repeat' split
  all_goals simp

/-! ### Queues.lean -/

@[simp] theorem State.answer_standing (s : State) (st : QStatus) (ws : List W64) :
    (s.answer st ws).standing = s.standing := by
  simp [State.answer]

@[simp] theorem State.rewind_standing (s : State) (pool qid port : Nat) (why : Cause) :
    (s.rewind pool qid port why).standing = s.standing := by
  unfold State.rewind
  dsimp only
  repeat' split
  all_goals simp

@[simp] theorem execQueueOpen_standing (pool qid port ty : Nat) (ctx : Option Nat) (s : State) :
    Stands s (execQueueOpen pool qid port ty ctx s) := by
  simp [execQueueOpen]

@[simp] theorem execQueueAppend_standing (pool qid port : Nat) (ws : List W64) (inputUe : Bool) (s : State) :
    Stands s (execQueueAppend pool qid port ws inputUe s) := by
  unfold execQueueAppend
  dsimp only
  repeat' split
  all_goals simp

@[simp] theorem execQueueCommit_standing (pool qid port : Nat) (s : State) : Stands s (execQueueCommit pool qid port s) := by
  unfold execQueueCommit
  dsimp only
  repeat' split
  all_goals simp

@[simp] theorem execQueueAbort_standing (pool qid port : Nat) (s : State) : Stands s (execQueueAbort pool qid port s) := by
  simp [execQueueAbort]

@[simp] theorem State.countPool_standing (s : State) (pool : Nat) (syn : Byte) :
    (s.countPool pool syn).standing = s.standing := by
  simp [State.countPool]

@[simp] theorem State.poolErrors_standing (s : State) (pool qid : Nat) (k : Packet) (from_ n : Nat) :
    (s.poolErrors pool qid k from_ n).standing = s.standing := by
  unfold State.poolErrors
  split <;> simp

@[simp] theorem State.follow_standing (s : State) (pool : Nat) (cs : List Nat) :
    (s.follow pool cs).1.standing = s.standing := by
  unfold State.follow
  refine standing_of_foldl fun r a => ?_
  split <;> simp

@[simp] theorem State.linkUe_standing (s : State) (pool qid : Nat) : (s.linkUe pool qid).standing = s.standing := by
  simp [State.linkUe]

@[simp] theorem State.along_standing (s : State) (pool qid : Nat) (cs : List Nat) (go : State → State) (h : ∀ s, (go s).standing = s.standing) :
    (s.along pool qid cs go).standing = s.standing := by
  simp [State.along, h]

@[simp] theorem execQueueRead_standing (pool qid n : Nat) (upset links : List (Nat × Nat)) (s : State) :
    Stands s (execQueueRead pool qid n upset links s) := by
  unfold execQueueRead
  dsimp only
  repeat' split
  all_goals simp

@[simp] theorem execQueueNext_standing (pool qid : Nat) (s : State) : Stands s (execQueueNext pool qid s) := by
  unfold execQueueNext
  dsimp only
  split <;> simp

@[simp] theorem execQueueMark_standing (pool qid m : Nat) (s : State) : Stands s (execQueueMark pool qid m s) := by
  simp [execQueueMark]

@[simp] theorem execQueueCursorRewind_standing (pool qid m : Nat) (s : State) :
    Stands s (execQueueCursorRewind pool qid m s) := by
  unfold execQueueCursorRewind
  split <;> simp

@[simp] theorem execQueueRelease_standing (pool qid n : Nat) (s : State) : Stands s (execQueueRelease pool qid n s) := by
  simp [execQueueRelease]

@[simp] theorem execQueuePurge_standing (pool qid seq : Nat) (s : State) : Stands s (execQueuePurge pool qid seq s) := by
  simp [execQueuePurge]

@[simp] theorem execProducerCellGrant_standing (pool qid port : Nat) (s : State) :
    Stands s (execProducerCellGrant pool qid port s) := by
  unfold execProducerCellGrant
  dsimp only
  repeat' split
  all_goals simp

@[simp] theorem execQueueNoCell_standing (pool qid port : Nat) (s : State) : Stands s (execQueueNoCell pool qid port s) := by
  unfold execQueueNoCell
  split <;> simp

@[simp] theorem State.endWaits_standing (s : State) : (s.endWaits).standing = s.standing := by
  unfold State.endWaits
  refine standing_of_forL fun a s => ?_
  simp

@[simp] theorem execQueueDrained_standing (pool qid : Nat) (s : State) : Stands s (execQueueDrained pool qid s) := by
  simp [execQueueDrained]

@[simp] theorem execPoolSweepComplete_standing (w : Sweep) (s : State) : Stands s (execPoolSweepComplete w s) := by
  simp [execPoolSweepComplete]

@[simp] theorem execHeldEventWrite_standing (ctx : Nat) (s : State) : Stands s (execHeldEventWrite ctx s) := by
  unfold execHeldEventWrite
  dsimp only
  split
  · simp
  · split
    · simpa using State.put_standing ‹_›
    · simp

end Sys2Proof.Machine
end

section
/-! SUPPORT. Proofs/StandingUnits.lean: fabric, units, ladder and power leave the queue of commands, the period and PHASE. -/
namespace Sys2Proof.Machine

/-! ### Fabric.lean -/

@[simp] theorem after_standing {o : Host.Outcome State Fault Refusal} {s : State} (h : Stands s o) :
    (after o s).standing = s.standing := by
  cases o with
  | next t => exact h t rfl
  | fault _ => rfl
  | refused _ => rfl

@[simp] theorem State.freeSource_standing (s : State) (t : TxPacket) : (s.freeSource t).standing = s.standing := by
  unfold State.freeSource
  split <;> simp

@[simp] theorem State.acked_standing (s : State) (link a : Nat) : (s.acked link a).standing = s.standing := by
  unfold State.acked
  dsimp only
  split <;> simp

@[simp] theorem State.creditReturn_standing (s : State) (link vc n : Nat) :
    (s.creditReturn link vc n).standing = s.standing := by
  simp [State.creditReturn]

@[simp] theorem State.replay_standing (s : State) (link : Nat) : (s.replay link).standing = s.standing := by
  simp [State.replay]

@[simp] theorem State.takeHeader_standing (s : State) (link : Nat) (f : Frame) :
    (s.takeHeader link f).standing = s.standing := by
  simp [State.takeHeader]

@[simp] theorem State.refuseFrame_standing (s : State) (link : Nat) : (s.refuseFrame link).standing = s.standing := by
  simp [State.refuseFrame]

@[simp] theorem State.routeReceived_standing (s : State) (link vc : Nat) :
    (s.routeReceived link vc).standing = s.standing := by
  unfold State.routeReceived
  dsimp only
  repeat' split
  all_goals simp

@[simp] theorem State.takeCell_standing (s : State) (link : Nat) (f : Frame) : (s.takeCell link f).standing = s.standing := by
  simp [State.takeCell]

@[simp] theorem execDataFrame_standing (link : Nat) (f : Frame) (s : State) : Stands s (execDataFrame link f s) := by
  simp [execDataFrame]

@[simp] theorem execIdle_standing (link : Nat) (f : Frame) (s : State) : Stands s (execIdle link f s) := by
  simp [execIdle]

@[simp] theorem State.setTraffic_standing (s : State) (link : Nat) : (s.setTraffic link).standing = s.standing := by
  simp [State.setTraffic]

@[simp] theorem State.learn_standing (s : State) (link : Nat) (p : List W64) : (s.learn link p).standing = s.standing := by
  simp [State.learn]

@[simp] theorem execDiscovery_standing (link : Nat) (f : Frame) (s : State) : Stands s (execDiscovery link f s) := by
  simp [execDiscovery]

@[simp] theorem execCreditInit_standing (link vc cells : Nat) (s : State) : Stands s (execCreditInit link vc cells s) := by
  simp [execCreditInit]

@[simp] theorem State.openLinkQueues_standing (s : State) (link : Nat) (alloc : W64) :
    (s.openLinkQueues link alloc).standing = s.standing := by
  simp [State.openLinkQueues]

@[simp] theorem State.trainingFrames_standing (s : State) (link : Nat) (alloc : W64) :
    (s.trainingFrames link alloc).standing = s.standing := by
  simp [State.trainingFrames]

@[simp] theorem execLinkTrainingDone_standing (link : Nat) (s : State) : Stands s (execLinkTrainingDone link s) := by
  simp [execLinkTrainingDone]

@[simp] theorem execLinkTrainingFailed_standing (link : Nat) (s : State) : Stands s (execLinkTrainingFailed link s) := by
  simp [execLinkTrainingFailed]

@[simp] theorem execPacketSend_standing (link : Nat) (s : State) : Stands s (execPacketSend link s) := by
  unfold execPacketSend
  dsimp only
  repeat' split
  all_goals simp

@[simp] theorem execCreditStall_standing (link vc : Nat) (s : State) : Stands s (execCreditStall link vc s) := by
  simp [execCreditStall]

@[simp] theorem execNakRepeat_standing (link : Nat) (s : State) : Stands s (execNakRepeat link s) := by
  simp [execNakRepeat]

@[simp] theorem execAckTimeoutReplay_standing (link : Nat) (s : State) : Stands s (execAckTimeoutReplay link s) := by
  simp [execAckTimeoutReplay]

@[simp] theorem State.resend_standing (s : State) (link : Nat) (t : TxPacket) :
    (s.resend link t).1.standing = s.standing := by
  simp [State.resend]

@[simp] theorem State.forgetLink_standing (s : State) (link : Nat) : (s.forgetLink link).standing = s.standing := by
  simp [State.forgetLink]

@[simp] theorem State.linkDown_standing (s : State) (link : Nat) : (s.linkDown link).standing = s.standing := by
  simp [State.linkDown]

@[simp] theorem execAckStall_standing (link : Nat) (s : State) : Stands s (execAckStall link s) := by
  simp [execAckStall]

@[simp] theorem execFrameReplayLimit_standing (link : Nat) (s : State) : Stands s (execFrameReplayLimit link s) := by
  simp [execFrameReplayLimit]

@[simp] theorem execCodewordLockLost_standing (link : Nat) (s : State) : Stands s (execCodewordLockLost link s) := by
  simp [execCodewordLockLost]

@[simp] theorem execFabricIdentity_standing (r : Req) (s : State) : Stands s (execFabricIdentity r s) := by
  unfold execFabricIdentity
  refine Standing.kettle fun k s => ?_
  dsimp only
  split <;> simp

@[simp] theorem execFabricNeighbours_standing (r : Req) (s : State) : Stands s (execFabricNeighbours r s) := by
  simp [execFabricNeighbours]

@[simp] theorem State.updRoute_standing (s : State) (n : Nat) (f : RouteSet → RouteSet) :
    (s.updRoute n f).standing = s.standing := by
  simp [State.updRoute]

@[simp] theorem execRouteLoad_standing (r : Req) (s : State) : Stands s (execRouteLoad r s) := by
  simp [execRouteLoad]

@[simp] theorem execRouteDepths_standing (r : Req) (s : State) : Stands s (execRouteDepths r s) := by
  simp [execRouteDepths]

@[simp] theorem execRouteCommit_standing (r : Req) (s : State) : Stands s (execRouteCommit r s) := by
  simp [execRouteCommit]

@[simp] theorem State.routeSwitch_standing (s : State) : (s.routeSwitch).standing = s.standing := by
  unfold State.routeSwitch
  dsimp only
  repeat' split
  all_goals simp

@[simp] theorem execRouteGenerationRetire_standing (s : State) : Stands s (execRouteGenerationRetire s) := by
  unfold execRouteGenerationRetire
  dsimp only
  simp
  refine standing_of_forL fun a s => ?_
  split <;> simp

@[simp] theorem execLinkAlloc_standing (r : Req) (s : State) : Stands s (execLinkAlloc r s) := by
  simp [execLinkAlloc]

@[simp] theorem execLinkRetrain_standing (r : Req) (s : State) : Stands s (execLinkRetrain r s) := by
  simp [execLinkRetrain]

@[simp] theorem execCollGroup_standing (r : Req) (s : State) : Stands s (execCollGroup r s) := by
  simp [execCollGroup]

@[simp] theorem execInfuseChain_standing (r : Req) (s : State) : Stands s (execInfuseChain r s) := by
  unfold execInfuseChain
  refine Standing.kettle fun k s => ?_
  split <;> simp

/-! ### Collect.lean -/

@[simp] theorem State.writePlane_standing (s : State) (ctx : Nat) (c : CCmd) (e0 n : Nat) (ws : List W64) :
    (s.writePlane ctx c e0 n ws).standing = s.standing := by
  simp [State.writePlane]

@[simp] theorem State.notePlane_standing (s : State) (x : Nat) (c : CCmd) (e0 n : Nat) :
    (s.notePlane x c e0 n).standing = s.standing := by
  simp [State.notePlane]

@[simp] theorem State.collSend_standing (s : State) (o : CollOp) (lane toward level phase offset src : Nat) (ws : List W64) :
    (s.collSend o lane toward level phase offset src ws).standing = s.standing := by
  simp [State.collSend]

@[simp] theorem CollSt.passOn_standing (p : CollSt) (u level : Nat) (ws : List W64) :
    (p.passOn u level ws).1.standing = p.1.standing := by
  simp [CollSt.passOn]

@[simp] theorem CollSt.ownStats_standing (p : CollSt) : (p.ownStats).1.standing = p.1.standing := by
  simp [CollSt.ownStats]

@[simp] theorem CollSt.final_standing (p : CollSt) (u : Nat) (ws : List W64) : (p.final u ws).1.standing = p.1.standing := by
  simp [CollSt.final]

@[simp] theorem CollSt.level2_standing (p : CollSt) (u : Nat) (z : List W32) : (p.level2 u z).1.standing = p.1.standing := by
  simp [CollSt.level2]

@[simp] theorem CollSt.runDone_standing (p : CollSt) (u : Nat) (z : List W32) :
    (p.runDone u z).1.standing = p.1.standing := by
  unfold CollSt.runDone
  dsimp only
  repeat' split
  all_goals simp

@[simp] theorem CollSt.level1_standing (p : CollSt) (u : Nat) (incoming : Option (List W32)) :
    (p.level1 u incoming).1.standing = p.1.standing := by
  simp [CollSt.level1]

@[simp] theorem CollSt.take_standing (p : CollSt) (h0 h1 : W64) (ws : List W64) :
    (p.take h0 h1 ws).1.standing = p.1.standing := by
  unfold CollSt.take
  dsimp only
  repeat' split
  all_goals simp

@[simp] theorem State.putOp_standing (s : State) (o : CollOp) : (s.putOp o).standing = s.standing := by
  simp [State.putOp]

@[simp] theorem State.takeColl_standing (s : State) (o : CollOp) (body : List W64) :
    (s.takeColl o body).standing = s.standing := by
  simp [State.takeColl]

@[simp] theorem execCollectivePacket_standing (p : Pkt) (s : State) : Stands s (execCollectivePacket p s) := by
  unfold execCollectivePacket
  dsimp only
  repeat' split
  all_goals simp

@[simp] theorem feedLoop_standing (fuel x : Nat) (s : State) : (feedLoop fuel x s).standing = s.standing := by
  induction fuel generalizing s with
  | zero => rfl
  | succ fuel ih =>
    dsimp only [feedLoop]
    repeat' split
    all_goals simp [ih]

@[simp] theorem CollSt.start_standing (p : CollSt) (stage : Option (List W64)) :
    (p.start stage).1.standing = p.1.standing := by
  unfold CollSt.start
  split
  · dsimp only
    split
    · refine standing_of_foldl fun r a => ?_
      simp
    · split
      · refine standing_of_foldl fun r a => ?_
        simp
      · split
        · split
          · rfl
          · refine standing_of_foldl fun r a => ?_
            simp
        · simp
  · dsimp only
    split
    · refine standing_of_foldl fun r a => ?_
      simp
    · split
      · refine standing_of_foldl fun r a => ?_
        simp
      · split
        · split
          · rfl
          · refine standing_of_foldl fun r a => ?_
            simp
        · repeat' split
          all_goals simp

@[simp] theorem State.startColl_standing (s : State) (x slot op : Nat) (cmd : Cmd) :
    (s.startColl x slot op cmd).standing = s.standing := by
  unfold State.startColl
  split
  · simp
  · split
    · simp [State.takeNext_standing ‹_›]
    · dsimp only
      split
      · rfl
      · split
        · simpa using State.takeNext_standing ‹_›
        · split <;> simpa using State.takeNext_standing ‹_›

@[simp] theorem execCollRs_standing (ctx slot : Nat) (cmd : Cmd) (s : State) : Stands s (execCollRs ctx slot cmd s) := by
  simp [execCollRs]

@[simp] theorem execCollAg_standing (ctx slot : Nat) (cmd : Cmd) (s : State) : Stands s (execCollAg ctx slot cmd s) := by
  simp [execCollAg]

@[simp] theorem execCollAr_standing (ctx slot : Nat) (cmd : Cmd) (s : State) : Stands s (execCollAr ctx slot cmd s) := by
  simp [execCollAr]

@[simp] theorem execCollCodecAr_standing (ctx slot : Nat) (cmd : Cmd) (s : State) :
    Stands s (execCollCodecAr ctx slot cmd s) := by
  simp [execCollCodecAr]

@[simp] theorem execCollBcast_standing (ctx slot : Nat) (cmd : Cmd) (s : State) : Stands s (execCollBcast ctx slot cmd s) := by
  simp [execCollBcast]

@[simp] theorem execCollBarrier_standing (ctx slot : Nat) (cmd : Cmd) (s : State) :
    Stands s (execCollBarrier ctx slot cmd s) := by
  simp [execCollBarrier]

@[simp] theorem execCollSend_standing (ctx slot : Nat) (cmd : Cmd) (s : State) : Stands s (execCollSend ctx slot cmd s) := by
  simp [execCollSend]

@[simp] theorem execCollRecv_standing (ctx slot : Nat) (cmd : Cmd) (s : State) : Stands s (execCollRecv ctx slot cmd s) := by
  simp [execCollRecv]

@[simp] theorem State.collOutputs_standing (s : State) (o : CollOp) : (s.collOutputs o).standing = s.standing := by
  simp [State.collOutputs]

@[simp] theorem State.endColl_standing (s : State) (o : CollOp) : (s.endColl o).standing = s.standing := by
  simp [State.endColl]

@[simp] theorem execCollectiveComplete_standing (ctx opId : Nat) (s : State) :
    Stands s (execCollectiveComplete ctx opId s) := by
  unfold execCollectiveComplete
  split <;> simp

@[simp] theorem execCollTimeout_standing (ctx opId : Nat) (s : State) : Stands s (execCollTimeout ctx opId s) := by
  unfold execCollTimeout
  split <;> simp

/-! ### ErrorLog.lean -/

@[simp] theorem execErrRead_standing (r : Req) (s : State) : Stands s (execErrRead r s) := by
  simp [execErrRead]

@[simp] theorem execErrClear_standing (r : Req) (s : State) : Stands s (execErrClear r s) := by
  simp [execErrClear]

@[simp] theorem execErrCrashLog_standing (r : Req) (s : State) : Stands s (execErrCrashLog r s) := by
  unfold execErrCrashLog
  refine Standing.kettle fun k s => ?_
  dsimp only
  repeat' split
  all_goals simp

@[simp] theorem execResetLimits_standing (r : Req) (s : State) : Stands s (execResetLimits r s) := by
  simp [execResetLimits]

@[simp] theorem execRecordsLost_standing (s : State) : Stands s (execRecordsLost s) := by
  simp [execRecordsLost]

@[simp] theorem execRecordAgeRelease_standing (s : State) : Stands s (execRecordAgeRelease s) := by
  simp [execRecordAgeRelease]

@[simp] theorem State.writeRepeats_standing (s : State) : (s.writeRepeats).standing = s.standing := by
  unfold State.writeRepeats
  refine standing_of_forL fun a s => ?_
  dsimp only
  split <;> simp

/-! ### KvPages.lean -/

@[simp] theorem execKvConfig_standing (r : Req) (s : State) : Stands s (execKvConfig r s) := by
  simp [execKvConfig]

@[simp] theorem execKvJoin_standing (r : Req) (s : State) : Stands s (execKvJoin r s) := by
  simp [execKvJoin]

@[simp] theorem execKvGrow_standing (r : Req) (s : State) : Stands s (execKvGrow r s) := by
  simp [execKvGrow]

@[simp] theorem execKvLeave_standing (r : Req) (s : State) : Stands s (execKvLeave r s) := by
  simp [execKvLeave]

@[simp] theorem State.writePageList_standing (s : State) (x slot : Nat) : (s.writePageList x slot).standing = s.standing := by
  simp [State.writePageList]

@[simp] theorem State.takeSlot_standing (s : State) (x slot n : Nat) (by_ : CmdRef) :
    (s.takeSlot x slot n by_).standing = s.standing := by
  simp [State.takeSlot]

@[simp] theorem joinLoop_standing (l : List KvAsk) (x : Nat) (s : State) : (joinLoop l x s).1.standing = s.standing := by
  induction l generalizing s with
  | nil => rfl
  | cons j rest ih =>
    dsimp only [joinLoop]
    split <;> simp [ih]

@[simp] theorem State.kvAdmit_standing (s : State) (x : Nat) : (s.kvAdmit x).standing = s.standing := by
  simp [State.kvAdmit]

/-! ### Units.lean -/

@[simp] theorem State.closeChecks_standing (s : State) (c : Core) : (s.closeChecks c).standing = s.standing := by
  simp [State.closeChecks]

@[simp] theorem State.abortCore_standing (s : State) (only : Option Nat) (k : Nat) :
    (s.abortCore only k).standing = s.standing := by
  simp [State.abortCore]

@[simp] theorem State.abortCaddy_standing (s : State) (c : Nat) : (s.abortCaddy c).standing = s.standing := by
  simp [State.abortCaddy]

@[simp] theorem State.abortLink_standing (s : State) (l : Nat) : (s.abortLink l).standing = s.standing := by
  simp [State.abortLink]

@[simp] theorem State.abortColls_standing (s : State) (f : Nat → Bool) : (s.abortColls f).standing = s.standing := by
  simp [State.abortColls]

@[simp] theorem State.abortLoads_standing (s : State) (f : Nat → Bool) : (s.abortLoads f).standing = s.standing := by
  simp [State.abortLoads]

@[simp] theorem State.abortMirror_standing (s : State) (f : Nat → Bool) : (s.abortMirror f).standing = s.standing := by
  simp [State.abortMirror]

@[simp] theorem State.abortShared_standing (s : State) (f : Nat → Bool) : (s.abortShared f).standing = s.standing := by
  simp [State.abortShared]

@[simp] theorem State.abortEngine_standing (s : State) (engine : Nat) : (s.abortEngine engine).standing = s.standing := by
  simp [State.abortEngine]

@[simp] theorem State.resetInfuserQueues_standing (s : State) : (s.resetInfuserQueues).standing = s.standing := by
  simp [State.resetInfuserQueues]

@[simp] theorem State.terminate_standing (s : State) (u : UnitId) : (s.terminate u).standing = s.standing := by
  unfold State.terminate
  split <;> simp

@[simp] theorem State.fence_standing (s : State) (u : UnitId) (m : FenceMode) : (s.fence u m).standing = s.standing := by
  simp [State.fence]

@[simp] theorem State.failStream_standing (s : State) (x slot status : Nat) :
    (s.failStream x slot status).standing = s.standing := by
  unfold State.failStream
  split <;> simp

@[simp] theorem State.fenceCtx_standing (s : State) (x : Nat) : (s.fenceCtx x).standing = s.standing := by
  unfold State.fenceCtx
  dsimp only
  split
  · rfl
  · refine (standing_forL _ _ _ fun a s => ?_).trans ?_
    · split <;> simp
    · simp

@[simp] theorem execFenceDrainComplete_standing (u : UnitId) (s : State) : Stands s (execFenceDrainComplete u s) := by
  unfold execFenceDrainComplete
  dsimp only
  repeat' split
  all_goals simp

@[simp] theorem execFenceTerminationsDone_standing (u : UnitId) (s : State) : Stands s (execFenceTerminationsDone u s) := by
  unfold execFenceTerminationsDone
  dsimp only
  repeat' split
  all_goals simp

@[simp] theorem execFenceEscalated_standing (u : UnitId) (s : State) : Stands s (execFenceEscalated u s) := by
  simp [execFenceEscalated]

@[simp] theorem execUnitFence_standing (r : Req) (s : State) : Stands s (execUnitFence r s) := by
  unfold execUnitFence
  refine Standing.kettle fun k s => ?_
  dsimp only
  repeat' split
  all_goals simp

@[simp] theorem State.enableCtx_standing (s : State) (k : KReq) (x : Nat) : (s.enableCtx k x).1.standing = s.standing := by
  unfold State.enableCtx
  dsimp only
  repeat' split
  all_goals simp

@[simp] theorem State.disableCtx_standing (s : State) (k : KReq) (x : Nat) : (s.disableCtx k x).1.standing = s.standing := by
  unfold State.disableCtx
  dsimp only
  repeat' split
  all_goals simp

@[simp] theorem execUnitEnable_standing (r : Req) (s : State) : Stands s (execUnitEnable r s) := by
  unfold execUnitEnable
  refine Standing.kettle fun k s => ?_
  dsimp only
  repeat' split
  all_goals simp

@[simp] theorem execUnitRelease_standing (r : Req) (s : State) : Stands s (execUnitRelease r s) := by
  unfold execUnitRelease
  refine Standing.kettle fun k s => ?_
  dsimp only
  repeat' split
  all_goals simp

@[simp] theorem execUnitDisable_standing (r : Req) (s : State) : Stands s (execUnitDisable r s) := by
  unfold execUnitDisable
  refine Standing.kettle fun k s => ?_
  dsimp only
  repeat' split
  all_goals simp

@[simp] theorem State.releaseUnit_standing (s : State) (u : UnitId) : (s.releaseUnit u).standing = s.standing := by
  unfold State.releaseUnit
  dsimp only
  repeat' split
  all_goals simp

@[simp] theorem execUnitQuery_standing (r : Req) (s : State) : Stands s (execUnitQuery r s) := by
  simp [execUnitQuery]

/-! ### Ladder.lean -/

@[simp] theorem State.sendReply_standing (s : State) (mb : Nat) (a : Nat × List W64) :
    (s.sendReply mb a).standing = s.standing := by
  simp [State.sendReply]

@[simp] theorem State.sendOut_standing (s : State) : (s.sendOut).standing = s.standing := by
  unfold State.sendOut
  refine standing_of_forL fun a s => ?_
  simp

@[simp] theorem State.answerNow_standing (s : State) (k : KReq) (st : Nat) : (s.answerNow k st).standing = s.standing := by
  simp [State.answerNow]

@[simp] theorem State.fenceForReset_standing (s : State) (u : UnitId) : (s.fenceForReset u).standing = s.standing := by
  simp [State.fenceForReset]

@[simp] theorem State.enterRung_standing (s : State) (u : UnitId) (code engine : Nat) :
    (s.enterRung u code engine).standing = s.standing := by
  unfold State.enterRung
  dsimp only
  repeat' split
  all_goals simp

@[simp] theorem State.resetDomain_standing (s : State) (u : UnitId) (code : Nat) :
    (s.resetDomain u code).standing = s.standing := by
  simp [State.resetDomain]

@[simp] theorem execResetRungComplete_standing (u : UnitId) (engine us : Nat) (s : State) :
    Stands s (execResetRungComplete u engine us s) := by
  unfold execResetRungComplete
  dsimp only
  repeat' split
  all_goals simp

@[simp] theorem State.countWatch_standing (s : State) : (s.countWatch).standing = s.standing := by
  simp [State.countWatch]

@[simp] theorem execKettleWatchdogExpiry_standing (s : State) : Stands s (execKettleWatchdogExpiry s) := by
  simp [execKettleWatchdogExpiry]

@[simp] theorem execBlendLoad_standing (r : Req) (host : HostRead) (s : State) : Stands s (execBlendLoad r host s) := by
  refine Standing.kettle fun k s => ?_
  dsimp only
  split
  · simp
  · split
    · simp
    · split
      · split
        · split
          · simp
          · split <;> simp
        · simp
      · refine State.dma_standing _ _ _ _ _ _ fun ws => ?_
        split
        · simp
        · split <;> simp

@[simp] theorem execBlendRun_standing (r : Req) (s : State) : Stands s (execBlendRun r s) := by
  simp [execBlendRun]

@[simp] theorem execBlendAbort_standing (r : Req) (s : State) : Stands s (execBlendAbort r s) := by
  simp [execBlendAbort]

@[simp] theorem State.endBlend_standing (s : State) (aborted : Bool) : (s.endBlend aborted).standing = s.standing := by
  unfold State.endBlend
  dsimp only
  split <;> simp

@[simp] theorem State.nextItem_standing (s : State) (u : UnitId) : (s.nextItem u).standing = s.standing := by
  unfold State.nextItem
  dsimp only
  split <;> simp

@[simp] theorem State.skipItem_standing (s : State) (u : UnitId) : (s.skipItem u).standing = s.standing := by
  simp [State.skipItem]

@[simp] theorem State.skipTaken_standing (s : State) : (s.skipTaken).standing = s.standing := by
  simp [State.skipTaken]

@[simp] theorem execBlendItemComplete_standing (u : UnitId) (pass : Bool) (s : State) :
    Stands s (execBlendItemComplete u pass s) := by
  simp [execBlendItemComplete]

@[simp] theorem execBlendItemSkip_standing (u : UnitId) (s : State) : Stands s (execBlendItemSkip u s) := by
  simp [execBlendItemSkip]

@[simp] theorem execMarginLow_standing (u : UnitId) (s : State) : Stands s (execMarginLow u s) := by
  simp [execMarginLow]

@[simp] theorem execMarginCritical_standing (region : Nat) (s : State) : Stands s (execMarginCritical region s) := by
  simp [execMarginCritical]

/-! ### Power.lean -/

@[simp] theorem State.updRegion_standing (s : State) (g : Nat) (f : Region → Region) :
    (s.updRegion g f).standing = s.standing := by
  simp [State.updRegion]

@[simp] theorem State.settleClocks_standing (s : State) : (s.settleClocks).standing = s.standing := by
  simp [State.settleClocks]

@[simp] theorem State.applySets_standing (s : State) : (s.applySets).standing = s.standing := by
  unfold State.applySets
  refine standing_of_forL fun a s => ?_
  simp

@[simp] theorem State.applyRestores_standing (s : State) : (s.applyRestores).standing = s.standing := by
  simp [State.applyRestores]

@[simp] theorem State.thermalSteps_standing (s : State) : (s.thermalSteps).standing = s.standing := by
  simp [State.thermalSteps]

@[simp] theorem State.powerSteps_standing (s : State) (e q : Nat) : (s.powerSteps e q).standing = s.standing := by
  unfold State.powerSteps
  dsimp only
  repeat' split
  all_goals simp

@[simp] theorem State.clockChange_standing (s : State) (q : Nat) : (s.clockChange q).standing = s.standing := by
  simp [State.clockChange]

@[simp] theorem State.closeMeter_standing (s : State) : (s.closeMeter).standing = s.standing := by
  simp [State.closeMeter]

@[simp] theorem execPowerSample_standing (p : PowerSample) (s : State) : Stands s (execPowerSample p s) := by
  simp [execPowerSample]

@[simp] theorem execThermalRelease_standing (region : Nat) (s : State) : Stands s (execThermalRelease region s) := by
  simp [execThermalRelease]

@[simp] theorem execPowerCapRelease_standing (s : State) : Stands s (execPowerCapRelease s) := by
  unfold execPowerCapRelease
  split <;> simp

@[simp] theorem execJunctionCritical_standing (region : Nat) (s : State) : Stands s (execJunctionCritical region s) := by
  simp [execJunctionCritical]

@[simp] theorem execJunctionTrip_standing (region : Nat) (s : State) : Stands s (execJunctionTrip region s) := by
  simp [execJunctionTrip]

@[simp] theorem execCoolantHot_standing (s : State) : Stands s (execCoolantHot s) := by
  simp [execCoolantHot]

@[simp] theorem execInputPowerRise_standing (s : State) : Stands s (execInputPowerRise s) := by
  simp [execInputPowerRise]

@[simp] theorem execInputSag_standing (s : State) : Stands s (execInputSag s) := by
  simp [execInputSag]

@[simp] theorem execInputLow_standing (s : State) : Stands s (execInputLow s) := by
  simp [execInputLow]

@[simp] theorem execInputHigh_standing (s : State) : Stands s (execInputHigh s) := by
  simp [execInputHigh]

@[simp] theorem execRefclkLoss_standing (s : State) : Stands s (execRefclkLoss s) := by
  simp [execRefclkLoss]

@[simp] theorem execRegionSet_standing (r : Req) (s : State) : Stands s (execRegionSet r s) := by
  simp [execRegionSet]

@[simp] theorem execPowerState_standing (r : Req) (s : State) : Stands s (execPowerState r s) := by
  simp [execPowerState]

end Sys2Proof.Machine
end

section
/-! SUPPORT. Proofs/StandingServing.lean: far links, outer steps, moves and serving leave the queue of commands, the period and PHASE. -/
namespace Sys2Proof.Machine

/-! ### Far.lean -/

@[simp] theorem State.updFar_standing (s : State) (link : Nat) (f : Far → Far) : (s.updFar link f).standing = s.standing := by
  simp [State.updFar]

@[simp] theorem State.farEmit_standing (s : State) (link : Nat) (h0 h1 : W64) (ctrl : Bool) (count : Nat)
    (payload : List W64) :
    (s.farEmit link h0 h1 ctrl count payload).standing = s.standing := by
  unfold State.farEmit
  dsimp only
  split <;> simp

@[simp] theorem State.farControl_standing (s : State) (link kind : Nat) (payload : List W64) :
    (s.farControl link kind payload).standing = s.standing := by
  simp [State.farControl]

@[simp] theorem State.farAckSend_standing (s : State) (link : Nat) : (s.farAckSend link).standing = s.standing := by
  simp [State.farAckSend]

@[simp] theorem execFarAckSend_standing (link : Nat) (s : State) : Stands s (execFarAckSend link s) := by
  simp [execFarAckSend]

@[simp] theorem State.farSendHeld_standing (s : State) (link : Nat) (h : FarHeld) :
    (s.farSendHeld link h).standing = s.standing := by
  simp [State.farSendHeld]

@[simp] theorem pumpLoop_standing (fuel link : Nat) (s : State) : (pumpLoop fuel link s).standing = s.standing := by
  induction fuel generalizing s with
  | zero => rfl
  | succ fuel ih =>
    dsimp only [pumpLoop]
    repeat' split
    all_goals simp [ih]

@[simp] theorem State.farPump_standing (s : State) (link : Nat) : (s.farPump link).standing = s.standing := by
  simp [State.farPump]

@[simp] theorem State.farReplay_standing (s : State) (link : Nat) : (s.farReplay link).standing = s.standing := by
  simp [State.farReplay]

@[simp] theorem execFarPacketEnter_standing (link : Nat) (s : State) : Stands s (execFarPacketEnter link s) := by
  unfold execFarPacketEnter
  dsimp only
  split <;> simp

@[simp] theorem State.farResize_standing (s : State) (link : Nat) : (s.farResize link).standing = s.standing := by
  simp [State.farResize]

@[simp] theorem State.farRestart_standing (s : State) (link : Nat) : (s.farRestart link).standing = s.standing := by
  simp [State.farRestart]

@[simp] theorem execFarAckStall_standing (link : Nat) (s : State) : Stands s (execFarAckStall link s) := by
  simp [execFarAckStall]

@[simp] theorem execFarRetrainTimeout_standing (link : Nat) (s : State) : Stands s (execFarRetrainTimeout link s) := by
  simp [execFarRetrainTimeout]

@[simp] theorem State.farRewind_standing (s : State) (link : Nat) : (s.farRewind link).standing = s.standing := by
  simp [State.farRewind]

@[simp] theorem State.farTrain_standing (s : State) (link : Nat) : (s.farTrain link).standing = s.standing := by
  simp [State.farTrain]

@[simp] theorem State.farMismatch_standing (s : State) (link : Nat) : (s.farMismatch link).standing = s.standing := by
  simp [State.farMismatch]

@[simp] theorem execFarTrainingDone_standing (link rtt : Nat) (s : State) : Stands s (execFarTrainingDone link rtt s) := by
  simp [execFarTrainingDone]

@[simp] theorem execFarCodewordLockLost_standing (link : Nat) (s : State) : Stands s (execFarCodewordLockLost link s) := by
  simp [execFarCodewordLockLost]

@[simp] theorem State.farRefuse_standing (s : State) (link : Nat) (hold : Bool) :
    (s.farRefuse link hold).standing = s.standing := by
  simp [State.farRefuse]

@[simp] theorem State.farTagFail_standing (s : State) (link : Nat) : (s.farTagFail link).standing = s.standing := by
  simp [State.farTagFail]

@[simp] theorem State.farTake_standing (s : State) (link kind : Nat) (f : FarFrame) :
    (s.farTake link kind f).1.standing = s.standing := by
  unfold State.farTake
  dsimp only
  repeat' split
  all_goals simp

@[simp] theorem State.farTakeCell_standing (s : State) (link : Nat) (sop eop : Bool) (ws : List W64) :
    (s.farTakeCell link sop eop ws).standing = s.standing := by
  have rewound (q : Nat × Nat) (h : Nat) (c : Option Nat) : Stands s (execQueueOpen q.1 q.2 0 h c (s.farRewind link)) := by
    intro t opened
    simpa using execQueueOpen_standing _ _ _ _ _ _ t opened
  simp [State.farTakeCell, rewound]

@[simp] theorem execFarDataFrame_standing (link : Nat) (f : FarFrame) (s : State) : Stands s (execFarDataFrame link f s) := by
  unfold execFarDataFrame
  dsimp only
  repeat' split
  all_goals simp

@[simp] theorem execFarIdle_standing (link : Nat) (f : FarFrame) (s : State) : Stands s (execFarIdle link f s) := by
  simp [execFarIdle]

@[simp] theorem execFarDiscovery_standing (link : Nat) (f : FarFrame) (s : State) : Stands s (execFarDiscovery link f s) := by
  unfold execFarDiscovery
  dsimp only
  split <;> simp

@[simp] theorem execFarAck_standing (link : Nat) (f : FarFrame) (s : State) : Stands s (execFarAck link f s) := by
  unfold execFarAck
  dsimp only
  split <;> simp

@[simp] theorem execFarHoldExpiry_standing (link : Nat) (s : State) : Stands s (execFarHoldExpiry link s) := by
  simp [execFarHoldExpiry]

@[simp] theorem execFarReplayTimeout_standing (link : Nat) (s : State) : Stands s (execFarReplayTimeout link s) := by
  simp [execFarReplayTimeout]

@[simp] theorem State.touchSeen_standing (s : State) (x dn site : Nat) (up : Bool) :
    (s.touchSeen x dn site up).standing = s.standing := by
  simp [State.touchSeen]

@[simp] theorem State.touchChange_standing (s : State) (x site : Nat) (up : Bool) :
    (s.touchChange x site up).standing = s.standing := by
  unfold State.touchChange
  split <;> simp

@[simp] theorem execFarAuth_standing (link : Nat) (s : State) : Stands s (execFarAuth link s) := by
  simp [execFarAuth]

@[simp] theorem execFarKeyAge_standing (link : Nat) (s : State) : Stands s (execFarKeyAge link s) := by
  unfold execFarKeyAge
  split <;> simp

@[simp] theorem execFarKeyLoad_standing (r : Req) (s : State) : Stands s (execFarKeyLoad r s) := by
  unfold execFarKeyLoad
  refine Standing.kettle fun k s => ?_
  dsimp only
  repeat' split
  all_goals simp

@[simp] theorem execFarKeySwitch_standing (r : Req) (s : State) : Stands s (execFarKeySwitch r s) := by
  simp [execFarKeySwitch]

@[simp] theorem execFarEnable_standing (r : Req) (s : State) : Stands s (execFarEnable r s) := by
  unfold execFarEnable
  refine Standing.kettle fun k s => ?_
  split <;> simp

@[simp] theorem State.farLeave_standing (s : State) (link : Nat) : (s.farLeave link).standing = s.standing := by
  simp [State.farLeave]

@[simp] theorem execFarDisable_standing (r : Req) (s : State) : Stands s (execFarDisable r s) := by
  simp [execFarDisable]

@[simp] theorem State.farTimes_standing (s : State) : (s.farTimes).standing = s.standing := by
  unfold State.farTimes
  refine standing_of_forL fun a s => ?_
  dsimp only
  repeat' split
  all_goals simp

@[simp] theorem State.farResizes_standing (s : State) : (s.farResizes).standing = s.standing := by
  simp [State.farResizes]

/-! ### Outer.lean -/

@[simp] theorem State.takeEstimate_standing (s : State) (x dn e : Nat) : (s.takeEstimate x dn e).standing = s.standing := by
  simp [State.takeEstimate]

@[simp] theorem execOuterConfig_standing (r : Req) (s : State) : Stands s (execOuterConfig r s) := by
  simp [execOuterConfig]

@[simp] theorem State.sendBlock_standing (s : State) (x : Nat) (g : OuterCfg) (d : OuterDiff) (step b : Nat) (ws : List W64) :
    (s.sendBlock x g d step b ws).standing = s.standing := by
  simp [State.sendBlock]

@[simp] theorem State.sendDiff_standing (s : State) (x : Nat) (g : OuterCfg) (d : OuterDiff) (step : Nat) :
    (s.sendDiff x g d step).standing = s.standing := by
  simp [State.sendDiff]

@[simp] theorem State.actOn_standing (s : State) (x : Nat) : (s.actOn x).standing = s.standing := by
  unfold State.actOn
  dsimp only
  split <;> simp

@[simp] theorem State.endRound_standing (s : State) (x step : Nat) (g : OuterCfg) (merge : Bool) :
    (s.endRound x step g merge).standing = s.standing := by
  simp [State.endRound]

@[simp] theorem State.takeDecide_standing (s : State) (x : Nat) (d : OuterDecision) :
    (s.takeDecide x d).standing = s.standing := by
  unfold State.takeDecide
  dsimp only
  repeat' split
  all_goals simp

@[simp] theorem State.sendDecide_standing (s : State) (x : Nat) (g : OuterCfg) (d : OuterDecision) :
    (s.sendDecide x g d).standing = s.standing := by
  simp [State.sendDecide]

@[simp] theorem execOuterDeadline_standing (ctx : Nat) (s : State) : Stands s (execOuterDeadline ctx s) := by
  unfold execOuterDeadline
  dsimp only
  split <;> simp

@[simp] theorem execOuterDecide_standing (m : OuterMsg) (s : State) : Stands s (execOuterDecide m s) := by
  unfold execOuterDecide
  dsimp only
  split <;> simp

@[simp] theorem execOuterSendDone_standing (ctx : Nat) (s : State) : Stands s (execOuterSendDone ctx s) := by
  simp [execOuterSendDone]

@[simp] theorem execOuterMergeDone_standing (ctx : Nat) (s : State) : Stands s (execOuterMergeDone ctx s) := by
  unfold execOuterMergeDone
  dsimp only
  split <;> simp

@[simp] theorem State.finishRound_standing (s : State) (x step : Nat) (g : OuterCfg) :
    (s.finishRound x step g).standing = s.standing := by
  unfold State.finishRound
  dsimp only
  split <;> simp

@[simp] theorem State.reanchorCommit_standing (s : State) (x step : Nat) :
    (s.reanchorCommit x step).standing = s.standing := by
  unfold State.reanchorCommit
  dsimp only
  repeat' split
  all_goals simp

@[simp] theorem State.outerCommit_standing (s : State) (x step : Nat) : (s.outerCommit x step).standing = s.standing := by
  unfold State.outerCommit
  dsimp only
  split <;> simp

@[simp] theorem State.mergeDue_standing (s : State) (x : Nat) (g : OuterCfg) : (s.mergeDue x g).standing = s.standing := by
  simp [State.mergeDue]

@[simp] theorem execOuterHave_standing (m : OuterMsg) (s : State) : Stands s (execOuterHave m s) := by
  unfold execOuterHave
  dsimp only
  repeat' split
  all_goals simp

@[simp] theorem execOuterResendRequest_standing (m : OuterMsg) (s : State) : Stands s (execOuterResendRequest m s) := by
  unfold execOuterResendRequest
  dsimp only
  repeat' split
  all_goals simp

@[simp] theorem State.startReanchor_standing (s : State) (x donor : Nat) (by_ : Option CmdRef) :
    (s.startReanchor x donor by_).standing = s.standing := by
  unfold State.startReanchor
  split <;> simp

@[simp] theorem State.settleHello_standing (s : State) (x : Nat) (g : OuterCfg) :
    (s.settleHello x g).standing = s.standing := by
  simp [State.settleHello]

@[simp] theorem State.touchAct_standing (s : State) (x : Nat) : (s.touchAct x).standing = s.standing := by
  unfold State.touchAct
  split <;> simp

@[simp] theorem execTouchReport_standing (m : OuterMsg) (s : State) : Stands s (execTouchReport m s) := by
  unfold execTouchReport
  dsimp only
  split <;> simp

@[simp] theorem State.askAgain_standing (s : State) (x site : Nat) : (s.askAgain x site).standing = s.standing := by
  unfold State.askAgain
  dsimp only
  split <;> simp

@[simp] theorem execFarRestartFrame_standing (link : Nat) (f : FarFrame) (s : State) :
    Stands s (execFarRestartFrame link f s) := by
  unfold execFarRestartFrame
  dsimp only
  split <;> simp

@[simp] theorem execFarTime_standing (link : Nat) (f : FarFrame) (s : State) : Stands s (execFarTime link f s) := by
  unfold execFarTime
  dsimp only
  repeat' split
  all_goals simp

@[simp] theorem execTouchExpiry_standing (ctx site : Nat) (s : State) : Stands s (execTouchExpiry ctx site s) := by
  unfold execTouchExpiry
  split <;> simp

@[simp] theorem execOuterHello_standing (m : OuterMsg) (s : State) : Stands s (execOuterHello m s) := by
  unfold execOuterHello
  dsimp only
  repeat' split
  all_goals simp

@[simp] theorem State.outerFrom_standing (s : State) (k : KReq) : (s.outerFrom k).1.standing = s.standing := by
  unfold State.outerFrom
  dsimp only
  repeat' split
  all_goals simp

@[simp] theorem execOuterJoin_standing (r : Req) (s : State) : Stands s (execOuterJoin r s) := by
  simp [execOuterJoin]

@[simp] theorem execOuterReanchor_standing (r : Req) (s : State) : Stands s (execOuterReanchor r s) := by
  simp [execOuterReanchor]

/-! ### Moves.lean -/

@[simp] theorem State.saveCore_standing (s : State) (x k : Nat) : (s.saveCore x k).standing = s.standing := by
  simp [State.saveCore]

@[simp] theorem State.restoreCore_standing (s : State) (x k : Nat) : (s.restoreCore x k).standing = s.standing := by
  simp [State.restoreCore]

@[simp] theorem State.noteSlow_standing (s : State) (x delta mask slot : Nat) (sets : List SetReg) :
    (s.noteSlow x delta mask slot sets).standing = s.standing := by
  simp [State.noteSlow]

@[simp] theorem State.sendPieces_standing (s : State) (x : Nat) (dst : List W64) (other : Nat) (ps : List Piece) :
    (s.sendPieces x dst other ps).standing = s.standing := by
  simp [State.sendPieces]

@[simp] theorem State.sendAlong_standing (s : State) (x chain : Nat) (ps : List Piece) :
    (s.sendAlong x chain ps).standing = s.standing := by
  simp [State.sendAlong]

@[simp] theorem State.sendPlanes_standing (s : State) (x site : Nat) : (s.sendPlanes x site).standing = s.standing := by
  unfold State.sendPlanes
  split <;> simp

@[simp] theorem State.moveAsked_standing (s : State) (code src : Nat) (ws : List W64) :
    (s.moveAsked code src ws).1.standing = s.standing := by
  unfold State.moveAsked
  dsimp only
  repeat' split
  all_goals simp

@[simp] theorem State.moveStates_standing (s : State) : (s.moveStates).standing = s.standing := by
  unfold State.moveStates
  refine standing_of_forL fun a s => ?_
  dsimp only
  split <;> simp

@[simp] theorem State.takePiece_standing (s : State) (x : Nat) (w key : W64) (ws : List W64) :
    (s.takePiece x w key ws).standing = s.standing := by
  unfold State.takePiece
  dsimp only
  split <;> simp

@[simp] theorem execDecantPacket_standing (p : Pkt) (s : State) : Stands s (execDecantPacket p s) := by
  simp [execDecantPacket]

@[simp] theorem State.takeJoin_standing (s : State) (body : List W64) : (s.takeJoin body).standing = s.standing := by
  unfold State.takeJoin
  dsimp only
  split <;> simp

@[simp] theorem State.settleState_standing (s : State) (x : Nat) (t : Transfer) :
    (s.settleState x t).standing = s.standing := by
  unfold State.settleState
  split <;> simp

@[simp] theorem execTakeoverComplete_standing (ctx : Nat) (s : State) : Stands s (execTakeoverComplete ctx s) := by
  unfold execTakeoverComplete
  dsimp only
  repeat' split
  all_goals simp

@[simp] theorem execJoinComplete_standing (ctx : Nat) (s : State) : Stands s (execJoinComplete ctx s) := by
  unfold execJoinComplete
  dsimp only
  repeat' split
  all_goals simp

@[simp] theorem execDecantComplete_standing (ctx : Nat) (s : State) : Stands s (execDecantComplete ctx s) := by
  unfold execDecantComplete
  split <;> simp

@[simp] theorem State.decantDone_standing (s : State) (x : Nat) (mib : W64) : (s.decantDone x mib).standing = s.standing := by
  unfold State.decantDone
  dsimp only
  repeat' split
  all_goals simp

@[simp] theorem State.moveAnswered_standing (s : State) (ref : CmdRef) (status : Nat) :
    (s.moveAnswered ref status).standing = s.standing := by
  unfold State.moveAnswered
  refine standing_of_forL fun a s => ?_
  split <;> simp

@[simp] theorem State.mirrorWhole_standing (s : State) (x src : Nat) : (s.mirrorWhole x src).standing = s.standing := by
  unfold State.mirrorWhole
  dsimp only
  split <;> simp

@[simp] theorem State.takeMirror_standing (s : State) (x src tag addr : Nat) (body : List W64) :
    (s.takeMirror x src tag addr body).standing = s.standing := by
  unfold State.takeMirror
  dsimp only
  repeat' split
  all_goals simp

@[simp] theorem State.answerRepair_standing (s : State) (x src g : Nat) : (s.answerRepair x src g).standing = s.standing := by
  simp [State.answerRepair]

@[simp] theorem State.takeRepair_standing (s : State) (x addr : Nat) (ws : List W64) :
    (s.takeRepair x addr ws).standing = s.standing := by
  simp [State.takeRepair]

@[simp] theorem State.readCommitted_standing (s : State) (job : W64) (step base off n : Nat) (ask : Bool) :
    (s.readCommitted job step base off n ask).1.standing = s.standing := by
  unfold State.readCommitted
  dsimp only
  repeat' split
  all_goals simp

@[simp] theorem execMirrorPacket_standing (p : Pkt) (s : State) : Stands s (execMirrorPacket p s) := by
  unfold execMirrorPacket
  dsimp only
  repeat' split
  all_goals simp

@[simp] theorem State.mirrorCommit_standing (s : State) (x step : Nat) : (s.mirrorCommit x step).standing = s.standing := by
  simp [State.mirrorCommit]

/-! ### Serving.lean -/

@[simp] theorem State.noteEntry_standing (s : State) (x : Nat) (md : Model) (l : Nat) :
    (s.noteEntry x md l).standing = s.standing := by
  simp [State.noteEntry]

@[simp] theorem State.forwardChain_standing (s : State) (x chain : Nat) (body : List W64) :
    (s.forwardChain x chain body).standing = s.standing := by
  simp [State.forwardChain]

@[simp] theorem State.infWrote_standing (s : State) (n : Nat) : (s.infWrote n).standing = s.standing := by
  simp [State.infWrote]

@[simp] theorem State.infWrite_standing (s : State) (addr : Nat) (ws : List W64) :
    (s.infWrite addr ws).standing = s.standing := by
  simp [State.infWrite]

@[simp] theorem State.writeShard_standing (s : State) (x m l j base nonce version loadId chain : Nat) (ws : List W64) :
    (s.writeShard x m l j base nonce version loadId chain ws).standing = s.standing := by
  simp [State.writeShard]

@[simp] theorem execModelDefine_standing (r : Req) (s : State) : Stands s (execModelDefine r s) := by
  refine Standing.kettle fun k s => ?_
  dsimp only
  repeat' split
  all_goals simp

@[simp] theorem execModelRelease_standing (r : Req) (s : State) : Stands s (execModelRelease r s) := by
  simp [execModelRelease]

@[simp] theorem State.placeLoaded_standing (s : State) (x m l : Nat) (js : List Nat) :
    (s.placeLoaded x m l js).standing = s.standing := by
  simp [State.placeLoaded]

@[simp] theorem execInfLoad_standing (ctx slot : Nat) (cmd : Cmd) (host : HostRead) (s : State) :
    Stands s (execInfLoad ctx slot cmd host s) := by
  unfold execInfLoad
  split
  · simp
  · split <;> simpa using State.takeNext_standing ‹_›

@[simp] theorem State.gate_standing (s : State) (x : Nat) (cmd : Cmd) : (s.gate x cmd).1.standing = s.standing := by
  unfold State.gate
  dsimp only
  repeat' split
  all_goals simp

@[simp] theorem State.gates_standing (s : State) (x : Nat) (gs : List Section) : (s.gates x gs).1.standing = s.standing := by
  unfold State.gates
  refine standing_of_foldl fun r a => ?_
  split <;> simp

@[simp] theorem execInfGate_standing (ctx slot : Nat) (cmd : Cmd) (s : State) : Stands s (execInfGate ctx slot cmd s) := by
  unfold execInfGate
  dsimp only
  repeat' split
  all_goals simp

@[simp] theorem execInfDrop_standing (ctx slot : Nat) (cmd : Cmd) (s : State) : Stands s (execInfDrop ctx slot cmd s) := by
  unfold execInfDrop
  split
  · simp
  · simpa using State.takeNext_standing ‹_›

@[simp] theorem State.passesOn_standing (s : State) (x : Nat) (t : Stream) : (s.passesOn x t).standing = s.standing := by
  simp [State.passesOn]

@[simp] theorem State.waveFetch_standing (s : State) (x m : Nat) : (s.waveFetch x m).standing = s.standing := by
  unfold State.waveFetch
  dsimp only
  repeat' split
  all_goals simp

@[simp] theorem State.waveCmd_standing (s : State) (k : KReq) (want : ModelState) (go : Nat → Nat → Model → Wave → State)
    (h : ∀ x m md w, (go x m md w).standing = s.standing) :
    (s.waveCmd k want go).1.standing = s.standing := by
  simp [State.waveCmd, h]

@[simp] theorem execReplaceStart_standing (r : Req) (s : State) : Stands s (execReplaceStart r s) := by
  simp [execReplaceStart]

@[simp] theorem execReplaceResume_standing (r : Req) (s : State) : Stands s (execReplaceResume r s) := by
  refine Standing.kettle fun k s => State.waveCmd_standing _ _ _ _ fun x m md w => ?_
  split <;> simp

@[simp] theorem State.endWave_standing (s : State) (x m : Nat) : (s.endWave x m).standing = s.standing := by
  unfold State.endWave
  dsimp only
  repeat' split
  all_goals simp

@[simp] theorem execReplaceRollback_standing (r : Req) (s : State) : Stands s (execReplaceRollback r s) := by
  refine Standing.kettle fun k s => State.waveCmd_standing _ _ _ _ fun x m md w => ?_
  dsimp only
  rw [standing_ite, State.endWave_standing, State.waveFetch_standing, ite_self]
  refine (standing_forN _ _ _ fun n s => ?_).trans (State.updModel_standing ..)
  split
  · split <;> simp
  · rfl

@[simp] theorem State.loadMoved_standing (s : State) (l l' : Load) : (s.loadMoved l l').standing = s.standing := by
  simp [State.loadMoved]

@[simp] theorem State.loadShard_standing (s : State) (l : Load) (shard : Nat) (host : HostRead) :
    (s.loadShard l shard host).standing = s.standing := by
  unfold State.loadShard
  dsimp only
  repeat' split
  all_goals simp

@[simp] theorem execShardComplete_standing (ctx model layer shard : Nat) (host : HostRead) (s : State) :
    Stands s (execShardComplete ctx model layer shard host s) := by
  unfold execShardComplete
  dsimp only
  repeat' split
  all_goals simp

@[simp] theorem State.mixModel_standing (s : State) (x m l j : Nat) : (s.mixModel x m l j).standing = s.standing := by
  simp [State.mixModel]

@[simp] theorem State.askUpstream_standing (s : State) (x : Nat) (up : Option Nat) (m version l j loadId : Nat) :
    (s.askUpstream x up m version l j loadId).standing = s.standing := by
  unfold State.askUpstream
  split <;> simp

@[simp] theorem execShardTimeout_standing (ctx model layer shard : Nat) (s : State) :
    Stands s (execShardTimeout ctx model layer shard s) := by
  unfold execShardTimeout
  dsimp only
  repeat' split
  all_goals simp

@[simp] theorem State.dropBadShards_standing (s : State) (x m : Nat) : (s.dropBadShards x m).standing = s.standing := by
  unfold State.dropBadShards
  dsimp only
  split <;> simp

@[simp] theorem State.modelBoundary_standing (s : State) (x m : Nat) : (s.modelBoundary x m).standing = s.standing := by
  simp [State.modelBoundary]

@[simp] theorem execLayerCopyDone_standing (ctx model : Nat) (s : State) : Stands s (execLayerCopyDone ctx model s) := by
  unfold execLayerCopyDone
  dsimp only
  repeat' split
  all_goals simp

@[simp] theorem State.answerShard_standing (s : State) (dn : Nat) (h0 h1 : W64) :
    (s.answerShard dn h0 h1).standing = s.standing := by
  unfold State.answerShard
  dsimp only
  split <;> simp

@[simp] theorem State.takeLoad_standing (s : State) (l : Load) (src : Nat) (h0 : W64) (body : List W64) :
    (s.takeLoad l src h0 body).standing = s.standing := by
  simp [State.takeLoad]

@[simp] theorem State.takeWave_standing (s : State) (x : Nat) (w : Wave) (src : Nat) (h0 : W64) (body : List W64) :
    (s.takeWave x w src h0 body).standing = s.standing := by
  simp [State.takeWave]

@[simp] theorem execInfuserPacket_standing (p : Pkt) (s : State) : Stands s (execInfuserPacket p s) := by
  unfold execInfuserPacket
  dsimp only
  repeat' split
  all_goals simp

/-! ### Submit.lean -/

@[simp] theorem State.admitStream_standing (s : State) (x slot : Nat) (a startAt : W64) (ws : List W64) :
    (s.admitStream x slot a startAt ws).1.standing = s.standing := by
  unfold State.admitStream
  dsimp only
  split
  · rfl
  · split <;> simpa using State.put_standing ‹_›

@[simp] theorem execStreamSubmit_standing (r : Req) (host : HostRead) (s : State) : Stands s (execStreamSubmit r host s) := by
  simp [execStreamSubmit]

/-! ### Slices.lean -/

@[simp] theorem execStream_standing (ctx slot : Nat) (cmd : Cmd) (s : State) : Stands s (execStream ctx slot cmd s) := by
  unfold execStream
  split <;> simp

@[simp] theorem execSlice_standing (_ctx _slot : Nat) (_cmd : Cmd) (s : State) : Stands s (execSlice _ctx _slot _cmd s) := by
  simp [execSlice]

@[simp] theorem execSectionCmd_standing (_ctx _slot : Nat) (_cmd : Cmd) (s : State) :
    Stands s (execSectionCmd _ctx _slot _cmd s) := by
  simp [execSectionCmd]

@[simp] theorem execLiterals_standing (ctx slot : Nat) (cmd : Cmd) (s : State) : Stands s (execLiterals ctx slot cmd s) := by
  unfold execLiterals
  split
  · simp
  · simpa using State.takeNext_standing ‹_›

@[simp] theorem execKeepLive_standing (ctx slot : Nat) (cmd : Cmd) (s : State) : Stands s (execKeepLive ctx slot cmd s) := by
  unfold execKeepLive
  split
  · simp
  · simpa using State.takeNext_standing ‹_›

@[simp] theorem execMark_standing (ctx slot : Nat) (cmd : Cmd) (s : State) : Stands s (execMark ctx slot cmd s) := by
  unfold execMark
  split
  · simp
  · simpa using State.takeNext_standing ‹_›

@[simp] theorem State.startSwitches_standing (s : State) (ws : List Switch) : (s.startSwitches ws).standing = s.standing := by
  unfold State.startSwitches
  refine (standing_forL _ _ _ fun a s => ?_).trans ?_
  · split <;> simp
  · refine standing_of_forL fun a s => ?_
    split <;> simp

@[simp] theorem State.wakeSwitches_standing (s : State) (x : Nat) : (s.wakeSwitches x).standing = s.standing := by
  simp [State.wakeSwitches]

@[simp] theorem State.readSaved_standing (s : State) (x k : Nat) (ups : List (Nat × Nat)) :
    (s.readSaved x k ups).standing = s.standing := by
  unfold State.readSaved
  dsimp only
  split <;> simp

@[simp] theorem execContextSwitchComplete_standing (e : SwitchEnd) (s : State) : Stands s (execContextSwitchComplete e s) := by
  unfold execContextSwitchComplete
  dsimp only
  repeat' split
  all_goals simp

@[simp] theorem State.startStream_standing (s : State) (x : Nat) (t : Stream) :
    (s.startStream x t).standing = s.standing := by
  unfold State.startStream
  dsimp only
  repeat' split
  all_goals simp

@[simp] theorem State.startUpdates_standing (s : State) (x : Nat) (t : Stream) :
    (s.startUpdates x t).standing = s.standing := by
  simp [State.startUpdates]

@[simp] theorem State.openSlice_standing (s : State) (x slot : Nat) (gs : List Section) :
    (s.openSlice x slot gs).standing = s.standing := by
  simp [State.openSlice]

@[simp] theorem State.issueSlot_standing (s : State) (x slot : Nat) (k : Taken) :
    (s.issueSlot x slot k).1.standing = s.standing := by
  unfold State.issueSlot
  dsimp only
  repeat' split
  all_goals simp

@[simp] theorem State.issueSlices_standing (s : State) : (s.issueSlices).standing = s.standing := by
  unfold State.issueSlices
  refine standing_of_foldl fun r a => ?_
  dsimp only
  split
  · rfl
  · dsimp only
    refine standing_of_foldl fun r a => ?_
    simp

@[simp] theorem State.clearAborted_standing (s : State) (x : Nat) : (s.clearAborted x).standing = s.standing := by
  simp [State.clearAborted]

@[simp] theorem State.settleStream_standing (s : State) (x slot : Nat) (t : Stream) :
    (s.settleStream x slot t).standing = s.standing := by
  unfold State.settleStream
  split <;> simp

@[simp] theorem execSliceComplete_standing (ctx slot cycles waited : Nat) (s : State) :
    Stands s (execSliceComplete ctx slot cycles waited s) := by
  unfold execSliceComplete
  dsimp only
  repeat' split
  all_goals simp

@[simp] theorem State.lateSlice_standing (s : State) (x slot : Nat) (uc : Bool) :
    (s.lateSlice x slot uc).1.standing = s.standing := by
  unfold State.lateSlice
  dsimp only
  repeat' split
  all_goals simp

@[simp] theorem execDeadlineSliceCe_standing (ctx slot : Nat) (s : State) : Stands s (execDeadlineSliceCe ctx slot s) := by
  simp [execDeadlineSliceCe]

@[simp] theorem State.fenceLate_standing (s : State) (x : Nat) : (s.fenceLate x).standing = s.standing := by
  unfold State.fenceLate
  simp
  refine standing_of_forL fun a s => ?_
  split <;> simp

@[simp] theorem execDeadlineSliceUc_standing (ctx slot : Nat) (s : State) : Stands s (execDeadlineSliceUc ctx slot s) := by
  simp [execDeadlineSliceUc]

@[simp] theorem State.noteLate_standing (s : State) (w : XferRef) : (s.noteLate w).standing = s.standing := by
  unfold State.noteLate
  split <;> simp

@[simp] theorem State.lateXfer_standing (s : State) (w : XferRef) (uc : Bool) :
    (s.lateXfer w uc).1.standing = s.standing := by
  unfold State.lateXfer
  split <;> simp

@[simp] theorem execDeadlineXferCe_standing (w : XferRef) (s : State) : Stands s (execDeadlineXferCe w s) := by
  simp [execDeadlineXferCe]

@[simp] theorem execDeadlineXferUc_standing (w : XferRef) (s : State) : Stands s (execDeadlineXferUc w s) := by
  unfold execDeadlineXferUc
  dsimp only
  split <;> simp

end Sys2Proof.Machine
end

section
/-! SUPPORT. Proofs/StandingTime.lean: time, the boundary, the host's registers and the vector rows leave the queue of commands, the period and PHASE. -/
namespace Sys2Proof.Machine

/-! ### Time.lean -/

@[simp] theorem execSteepSwitchAtWrite_standing (h : Half) (v : W64) (s : State) : Stands s (execSteepSwitchAtWrite h v s) := by
  simp [execSteepSwitchAtWrite]

@[simp] theorem execSteepPhaseRead_standing (h : Half) (s : State) : Stands s (execSteepPhaseRead h s) := by
  unfold execSteepPhaseRead
  dsimp only
  repeat' split
  all_goals simp

@[simp] theorem execSteepCountRead_standing (h : Half) (s : State) : Stands s (execSteepCountRead h s) := by
  simp [execSteepCountRead]

@[simp] theorem execSteepLatchRelease_standing (s : State) : Stands s (execSteepLatchRelease s) := by
  unfold execSteepLatchRelease
  split <;> simp

@[simp] theorem State.retime_standing (s : State) : (s.retime).standing = s.standing := by
  unfold State.retime
  dsimp only
  repeat' split
  all_goals simp

@[simp] theorem State.joinDomain_standing (s : State) (link : Nat) (w : TimingWord) :
    (s.joinDomain link w).standing = s.standing := by
  simp [State.joinDomain]

@[simp] theorem State.failTimed_standing (s : State) : (s.failTimed).standing = s.standing := by
  simp [State.failTimed]

@[simp] theorem State.checkLost_standing (s : State) : (s.checkLost).standing = s.standing := by
  simp [State.checkLost]

@[simp] theorem execTimeLostClear_standing (s : State) : Stands s (execTimeLostClear s) := by
  simp [execTimeLostClear]

@[simp] theorem execTimeHoldover_standing (s : State) : Stands s (execTimeHoldover s) := by
  simp [execTimeHoldover]

@[simp] theorem execDeadlineBoundary_standing (s : State) : Stands s (execDeadlineBoundary s) := by
  simp [execDeadlineBoundary]

@[simp] theorem execDeadlineAudit_standing (s : State) : Stands s (execDeadlineAudit s) := by
  unfold execDeadlineAudit
  dsimp only
  split <;> simp

@[simp] theorem State.snapshot_standing (s : State) (closed : Steep) : (s.snapshot closed).standing = s.standing := by
  simp [State.snapshot]

@[simp] theorem State.auditBad_standing (s : State) (cls : Cls) (unit : UnitId) (ctx : Option Nat) (word : W64) (diff : Int) :
    (s.auditBad cls unit ctx word diff).standing = s.standing := by
  simp [State.auditBad]

@[simp] theorem State.creditFault_standing (s : State) (links : List Nat) : (s.creditFault links).standing = s.standing := by
  simp [State.creditFault]

@[simp] theorem State.auditCredit_standing (s : State) (n : AuditSnap) : (s.auditCredit n).standing = s.standing := by
  simp [State.auditCredit]

@[simp] theorem State.auditPools_standing (s : State) (n : AuditSnap) : (s.auditPools n).standing = s.standing := by
  simp [State.auditPools]

@[simp] theorem State.auditTokens_standing (s : State) (n : AuditSnap) : (s.auditTokens n).standing = s.standing := by
  simp [State.auditTokens]

@[simp] theorem State.auditMailboxes_standing (s : State) (n : AuditSnap) : (s.auditMailboxes n).standing = s.standing := by
  simp [State.auditMailboxes]

@[simp] theorem State.auditEnergy_standing (s : State) (n : AuditSnap) : (s.auditEnergy n).1.standing = s.standing := by
  simp [State.auditEnergy]

@[simp] theorem State.auditFar_standing (s : State) (n : AuditSnap) : (s.auditFar n).standing = s.standing := by
  simp [State.auditFar]

@[simp] theorem execAuditComplete_standing (s : State) : Stands s (execAuditComplete s) := by
  unfold execAuditComplete
  split <;> simp

/-! ### Boundary.lean -/

@[simp] theorem State.beatOut_standing (s : State) : (s.beatOut).standing = s.standing := by
  simp [State.beatOut]

@[simp] theorem State.applyCommit_standing (s : State) (x step : Nat) : (s.applyCommit x step).standing = s.standing := by
  unfold State.applyCommit
  dsimp only
  repeat' split
  all_goals simp

@[simp] theorem State.applyCommits_standing (s : State) : (s.applyCommits).1.standing = s.standing := by
  unfold State.applyCommits
  refine standing_of_foldl fun r a => ?_
  split <;> simp

@[simp] theorem State.leaveTree_standing (s : State) (x dn reason : Nat) :
    (s.leaveTree x dn reason).standing = s.standing := by
  unfold State.leaveTree
  dsimp only
  repeat' split
  all_goals simp

@[simp] theorem State.applyExpel_standing (s : State) (e : Expel) : (s.applyExpel e).standing = s.standing := by
  simp [State.applyExpel]

@[simp] theorem State.healthExpels_standing (s : State) (done : List Nat) : (s.healthExpels done).standing = s.standing := by
  simp [State.healthExpels]

@[simp] theorem State.applyMembership_standing (s : State) (done : List Nat) :
    (s.applyMembership done).standing = s.standing := by
  unfold State.applyMembership
  dsimp only
  split
  · split
    · refine (standing_forL _ _ _ fun a s => ?_).trans ?_
      · split <;> simp
      · simp
    · split
      · simp
        refine (standing_forL _ _ _ fun a s => ?_).trans ?_
        · split <;> simp
        · simp
      · simp
        refine (standing_forL _ _ _ fun a s => ?_).trans ?_
        · split <;> simp
        · simp
  · refine (standing_forL _ _ _ fun a s => ?_).trans ?_
    · split <;> simp
    · simp

@[simp] theorem State.applyWindows_standing (s : State) : (s.applyWindows).standing = s.standing := by
  unfold State.applyWindows
  refine standing_of_forL fun a s => ?_
  dsimp only
  repeat' split
  all_goals simp

@[simp] theorem State.disarm_standing (s : State) (dies : List Nat) : (s.disarm dies).standing = s.standing := by
  simp [State.disarm]

@[simp] theorem State.switchDies_standing (s : State) : (s.switchDies).standing = s.standing := by
  simp [State.switchDies]

@[simp] theorem State.stopBlend_standing (s : State) : (s.stopBlend).standing = s.standing := by
  simp [State.stopBlend]

@[simp] theorem State.settleCtx_standing (s : State) (x : Nat) : (s.settleCtx x).standing = s.standing := by
  unfold State.settleCtx
  dsimp only
  repeat' split
  all_goals simp

@[simp] theorem State.settlePool_standing (s : State) (p : Nat) : (s.settlePool p).standing = s.standing := by
  simp [State.settlePool]

@[simp] theorem State.eventSink_standing (s : State) (x : Nat) : (s.eventSink x).standing = s.standing := by
  simp [State.eventSink]

@[simp] theorem State.releaseOne_standing (s : State) (u : UnitId) : (s.releaseOne u).standing = s.standing := by
  unfold State.releaseOne
  split <;> simp

@[simp] theorem State.release_standing (s : State) : (s.release).standing = s.standing := by
  simp [State.release]

@[simp] theorem State.sendEvents_standing (s : State) : (s.sendEvents).standing = s.standing := by
  simp [State.sendEvents]

@[simp] theorem State.mergeDeadlines_standing (s : State) : (s.mergeDeadlines).standing = s.standing := by
  unfold State.mergeDeadlines
  refine standing_of_forL fun a s => ?_
  split <;> simp

@[simp] theorem State.boundarySwitch_standing (s : State) (q : Nat) : (s.boundarySwitch q).standing = s.standing := by
  simp [State.boundarySwitch]

@[simp] theorem State.boundaryClose_standing (s : State) : (s.boundaryClose).standing = s.standing := by
  simp [State.boundaryClose]

/-! ### HostSide.lean -/

@[simp] theorem State.resetMailboxes_standing (s : State) (x : Nat) : (s.resetMailboxes x).standing = s.standing := by
  simp [State.resetMailboxes]

@[simp] theorem execFlrVf_standing (fn : Nat) (s : State) : Stands s (execFlrVf fn s) := by
  simp [execFlrVf]

@[simp] theorem State.hostReset_standing (s : State) : (s.hostReset).standing = s.standing := by
  simp [State.hostReset]

@[simp] theorem execFlrPf_standing (s : State) : Stands s (execFlrPf s) := by
  simp [execFlrPf]

@[simp] theorem execHotReset_standing (s : State) : Stands s (execHotReset s) := by
  simp [execHotReset]

@[simp] theorem execHostLinkReturn_standing (speed width : Nat) (flit : Bool) (s : State) :
    Stands s (execHostLinkReturn speed width flit s) := by
  simp [execHostLinkReturn]

@[simp] theorem execFlrComplete_standing (fn : Nat) (s : State) : Stands s (execFlrComplete fn s) := by
  simp [execFlrComplete]

@[simp] theorem execD3hotEntry_standing (s : State) : Stands s (execD3hotEntry s) := by
  simp [execD3hotEntry]

@[simp] theorem execD0Entry_standing (s : State) : Stands s (execD0Entry s) := by
  simp [execD0Entry]

@[simp] theorem execVfEnable_standing (num : Nat) (on : Bool) (s : State) : Stands s (execVfEnable num on s) := by
  simp [execVfEnable]

@[simp] theorem execHostDmaFault_standing (ctx fn addr kind : Nat) (write : Bool) (code : Nat) (s : State) :
    Stands s (execHostDmaFault ctx fn addr kind write code s) := by
  simp [execHostDmaFault]

@[simp] theorem execModResetNAssert_standing (s : State) : Stands s (execModResetNAssert s) := by
  simp [execModResetNAssert]

@[simp] theorem execPpsLost_standing (s : State) : Stands s (execPpsLost s) := by
  simp [execPpsLost]

@[simp] theorem execI3cSetdasa_standing (static_ addr : Nat) (s : State) : Stands s (execI3cSetdasa static_ addr s) := by
  simp [execI3cSetdasa]

@[simp] theorem execI3cEntdaa_standing (addr : Nat) (s : State) : Stands s (execI3cEntdaa addr s) := by
  simp [execI3cEntdaa]

@[simp] theorem execMctpSetEndpointId_standing (eid : Nat) (s : State) : Stands s (execMctpSetEndpointId eid s) := by
  simp [execMctpSetEndpointId]

@[simp] theorem execPldmGetSensorReading_standing (sensor : Nat) (s : State) :
    Stands s (execPldmGetSensorReading sensor s) := by
  simp [execPldmGetSensorReading]

@[simp] theorem execPldmSensorUpdate_standing (s : State) : Stands s (execPldmSensorUpdate s) := by
  simp [execPldmSensorUpdate]

@[simp] theorem execPldmEventsEnable_standing (s : State) : Stands s (execPldmEventsEnable s) := by
  simp [execPldmEventsEnable]

/-! ### Remote.lean -/

@[simp] theorem State.takeSite_standing (s : State) (src kind id : Nat) (ws : List W64) :
    (s.takeSite src kind id ws).standing = s.standing := by
  unfold State.takeSite
  split <;> simp

/-! ### Early.lean -/

@[simp] theorem takeMsg_standing (msg : Nat) (m : CommitMsg) (s : State) : (takeMsg msg m s).standing = s.standing := by
  dsimp only [takeMsg]
  split
  · next e found =>
    have listed := List.mem_of_find?_eq_some found
    simp only [List.mem_cons, List.not_mem_nil, or_false] at listed
    rcases listed with rfl | rfl | rfl | rfl | rfl | rfl | rfl | rfl | rfl | rfl | rfl | rfl | rfl <;> simp
  · rfl

/-! ### RegRead.lean -/

@[simp] theorem State.updFaults_standing (s : State) (f : Faults → Faults) : (s.updFaults f).standing = s.standing := by
  simp [State.updFaults]

@[simp] theorem State.updFabric_standing (s : State) (f : Fabric → Fabric) : (s.updFabric f).standing = s.standing := by
  simp [State.updFabric]

@[simp] theorem State.updSteep_standing (s : State) (f : Steep → Steep) (hc : (f s.steep).currentQ = s.steep.currentQ)
    (hn : (f s.steep).nextQ = s.steep.nextQ) (hp : (f s.steep).phase = s.steep.phase) : (s.updSteep f).standing = s.standing :=
  standing_mk_steep (current := hc) (next := hn) (phase := hp) ..

@[simp] theorem State.updHost_standing (s : State) (f : HostIf → HostIf) : (s.updHost f).standing = s.standing := by
  simp [State.updHost]

@[simp] theorem State.updPower_standing (s : State) (f : Power → Power) : (s.updPower f).standing = s.standing := by
  simp [State.updPower]

@[simp] theorem State.regClear_standing (s : State) (r : Reg) : (s.regClear r).standing = s.standing := by
  unfold State.regClear
  split <;> simp

/-! ### HostSpaces.lean -/

@[simp] theorem State.msixRelease_standing (s : State) : (s.msixRelease).standing = s.standing := by
  simp [State.msixRelease]

@[simp] theorem State.msixWrite_standing (s : State) (fn o : Nat) (hf : Half) (w : W64) :
    (s.msixWrite fn o hf w).standing = s.standing := by
  simp [State.msixWrite]

@[simp] theorem State.cfgWrite_standing (s : State) (fn d v : Nat) : (s.cfgWrite fn d v).standing = s.standing := by
  simp [State.cfgWrite]

@[simp] theorem State.besideAccess_standing (s : State) (a : Access) (served : Bool) (half : Option Half) (write : Bool) :
    (s.besideAccess a served half write).standing = s.standing := by
  unfold State.besideAccess
  dsimp only
  repeat' split
  all_goals simp

/-! ### Regs.lean -/

@[simp] theorem State.writeEventVector_standing (s : State) (fn x off : Nat) (w : W64) :
    (s.writeEventVector fn x off w).standing = s.standing := by
  unfold State.writeEventVector
  split <;> simp

@[simp] theorem State.writeRequest_standing (s : State) (mb w : Nat) (h : Half) (v : W64) :
    (s.writeRequest mb w h v).standing = s.standing := by
  simp [State.writeRequest]

@[simp] theorem State.writeMbCfg_standing (s : State) (fn mb : Nat) (h : Half) (w : W64) :
    (s.writeMbCfg fn mb h w).standing = s.standing := by
  cases h <;> simp [State.writeMbCfg]

@[simp] theorem State.readReg_standing (s : State) (fn : Nat) (r : Reg) (h : Half) :
    (s.readReg fn r h).standing = s.standing := by
  unfold State.readReg
  split
  · simp
  · simp
  · cases h <;> simp

@[simp] theorem execStrainerInjectArm_standing (core : Nat) (h : Half) (v : W64) (s : State) :
    Stands s (execStrainerInjectArm core h v s) := by
  simp [execStrainerInjectArm]

/-! ### VectorFp.lean -/

@[simp] theorem execVfadd_standing (core : Nat) (w : W64) (s : State) : Stands s (execVfadd core w s) := by
  simp [execVfadd]

@[simp] theorem execVfsub_standing (core : Nat) (w : W64) (s : State) : Stands s (execVfsub core w s) := by
  simp [execVfsub]

@[simp] theorem execVfmul_standing (core : Nat) (w : W64) (s : State) : Stands s (execVfmul core w s) := by
  simp [execVfmul]

@[simp] theorem execVfma_standing (core : Nat) (w : W64) (s : State) : Stands s (execVfma core w s) := by
  simp [execVfma]

@[simp] theorem execVfdiv_standing (core : Nat) (w : W64) (s : State) : Stands s (execVfdiv core w s) := by
  simp [execVfdiv]

@[simp] theorem execVfsqrt_standing (core : Nat) (w : W64) (s : State) : Stands s (execVfsqrt core w s) := by
  simp [execVfsqrt]

@[simp] theorem execVfrsqrt_standing (core : Nat) (w : W64) (s : State) : Stands s (execVfrsqrt core w s) := by
  simp [execVfrsqrt]

@[simp] theorem execVfmax_standing (core : Nat) (w : W64) (s : State) : Stands s (execVfmax core w s) := by
  simp [execVfmax]

@[simp] theorem execVfmin_standing (core : Nat) (w : W64) (s : State) : Stands s (execVfmin core w s) := by
  simp [execVfmin]

@[simp] theorem execVfabs_standing (core : Nat) (w : W64) (s : State) : Stands s (execVfabs core w s) := by
  simp [execVfabs]

@[simp] theorem execVfneg_standing (core : Nat) (w : W64) (s : State) : Stands s (execVfneg core w s) := by
  simp [execVfneg]

@[simp] theorem execVfexp_standing (core : Nat) (w : W64) (s : State) : Stands s (execVfexp core w s) := by
  simp [execVfexp]

@[simp] theorem execVflog_standing (core : Nat) (w : W64) (s : State) : Stands s (execVflog core w s) := by
  simp [execVflog]

@[simp] theorem execVftanh_standing (core : Nat) (w : W64) (s : State) : Stands s (execVftanh core w s) := by
  simp [execVftanh]

@[simp] theorem execVfsig_standing (core : Nat) (w : W64) (s : State) : Stands s (execVfsig core w s) := by
  simp [execVfsig]

@[simp] theorem execVfcmp_standing (core : Nat) (w : W64) (s : State) : Stands s (execVfcmp core w s) := by
  simp [execVfcmp]

@[simp] theorem execVbadd_standing (core : Nat) (w : W64) (s : State) : Stands s (execVbadd core w s) := by
  simp [execVbadd]

@[simp] theorem execVbmul_standing (core : Nat) (w : W64) (s : State) : Stands s (execVbmul core w s) := by
  simp [execVbmul]

@[simp] theorem execVbfma_standing (core : Nat) (w : W64) (s : State) : Stands s (execVbfma core w s) := by
  simp [execVbfma]

@[simp] theorem execVbpack_standing (core : Nat) (w : W64) (s : State) : Stands s (execVbpack core w s) := by
  simp [execVbpack]

@[simp] theorem execVcvt_standing (core : Nat) (w : W64) (s : State) : Stands s (execVcvt core w s) := by
  simp [execVcvt]

@[simp] theorem execVunpk_standing (core : Nat) (w : W64) (s : State) : Stands s (execVunpk core w s) := by
  simp [execVunpk]

@[simp] theorem execVpack_standing (core : Nat) (w : W64) (s : State) : Stands s (execVpack core w s) := by
  simp [execVpack]

/-! ### VectorInt.lean -/

@[simp] theorem execViadd_standing (core : Nat) (w : W64) (s : State) : Stands s (execViadd core w s) := by
  simp [execViadd]

@[simp] theorem execVisub_standing (core : Nat) (w : W64) (s : State) : Stands s (execVisub core w s) := by
  simp [execVisub]

@[simp] theorem execViadds_standing (core : Nat) (w : W64) (s : State) : Stands s (execViadds core w s) := by
  simp [execViadds]

@[simp] theorem execVisubs_standing (core : Nat) (w : W64) (s : State) : Stands s (execVisubs core w s) := by
  simp [execVisubs]

@[simp] theorem execVimul_standing (core : Nat) (w : W64) (s : State) : Stands s (execVimul core w s) := by
  simp [execVimul]

@[simp] theorem execVimuls_standing (core : Nat) (w : W64) (s : State) : Stands s (execVimuls core w s) := by
  simp [execVimuls]

@[simp] theorem execVimax_standing (core : Nat) (w : W64) (s : State) : Stands s (execVimax core w s) := by
  simp [execVimax]

@[simp] theorem execVimin_standing (core : Nat) (w : W64) (s : State) : Stands s (execVimin core w s) := by
  simp [execVimin]

@[simp] theorem execViabs_standing (core : Nat) (w : W64) (s : State) : Stands s (execViabs core w s) := by
  simp [execViabs]

@[simp] theorem execVshl_standing (core : Nat) (w : W64) (s : State) : Stands s (execVshl core w s) := by
  simp [execVshl]

@[simp] theorem execVshls_standing (core : Nat) (w : W64) (s : State) : Stands s (execVshls core w s) := by
  simp [execVshls]

@[simp] theorem execVshr_standing (core : Nat) (w : W64) (s : State) : Stands s (execVshr core w s) := by
  simp [execVshr]

@[simp] theorem execVsra_standing (core : Nat) (w : W64) (s : State) : Stands s (execVsra core w s) := by
  simp [execVsra]

@[simp] theorem execVsrar_standing (core : Nat) (w : W64) (s : State) : Stands s (execVsrar core w s) := by
  simp [execVsrar]

@[simp] theorem execVicmp_standing (core : Nat) (w : W64) (s : State) : Stands s (execVicmp core w s) := by
  simp [execVicmp]

/-! ### VectorRows.lean -/

@[simp] theorem execVfredsum_standing (core : Nat) (w : W64) (s : State) : Stands s (execVfredsum core w s) := by
  simp [execVfredsum]

@[simp] theorem execVfredmax_standing (core : Nat) (w : W64) (s : State) : Stands s (execVfredmax core w s) := by
  simp [execVfredmax]

@[simp] theorem execViredsum_standing (core : Nat) (w : W64) (s : State) : Stands s (execViredsum core w s) := by
  simp [execViredsum]

@[simp] theorem execVsmrst_standing (core : Nat) (w : W64) (s : State) : Stands s (execVsmrst core w s) := by
  simp [execVsmrst]

@[simp] theorem execVsmmax_standing (core : Nat) (w : W64) (s : State) : Stands s (execVsmmax core w s) := by
  simp [execVsmmax]

@[simp] theorem execVsmsum_standing (core : Nat) (w : W64) (s : State) : Stands s (execVsmsum core w s) := by
  simp [execVsmsum]

@[simp] theorem execVsmnrm_standing (core : Nat) (w : W64) (s : State) : Stands s (execVsmnrm core w s) := by
  simp [execVsmnrm]

@[simp] theorem execVxent_standing (core : Nat) (w : W64) (s : State) : Stands s (execVxent core w s) := by
  simp [execVxent]

@[simp] theorem execVnacc_standing (core : Nat) (w : W64) (s : State) : Stands s (execVnacc core w s) := by
  simp [execVnacc]

@[simp] theorem execVnfin_standing (core : Nat) (w : W64) (s : State) : Stands s (execVnfin core w s) := by
  simp [execVnfin]

@[simp] theorem execVfnorm_standing (core : Nat) (w : W64) (s : State) : Stands s (execVfnorm core w s) := by
  simp [execVfnorm]

/-! ### VectorScalar.lean -/

@[simp] theorem execNop_standing (core : Nat) (w : W64) (s : State) : Stands s (execNop core w s) := by
  simp [execNop]

@[simp] theorem execVsetvl_standing (core : Nat) (w : W64) (s : State) : Stands s (execVsetvl core w s) := by
  simp [execVsetvl]

@[simp] theorem execSli_standing (core : Nat) (w : W64) (s : State) : Stands s (execSli core w s) := by
  simp [execSli]

@[simp] theorem execSshli_standing (core : Nat) (w : W64) (s : State) : Stands s (execSshli core w s) := by
  simp [execSshli]

@[simp] theorem execSadd_standing (core : Nat) (w : W64) (s : State) : Stands s (execSadd core w s) := by
  simp [execSadd]

@[simp] theorem execSmul_standing (core : Nat) (w : W64) (s : State) : Stands s (execSmul core w s) := by
  simp [execSmul]

@[simp] theorem execSld_standing (core : Nat) (w : W64) (s : State) : Stands s (execSld core w s) := by
  simp [execSld]

@[simp] theorem execSst_standing (core : Nat) (w : W64) (s : State) : Stands s (execSst core w s) := by
  simp [execSst]

@[simp] theorem execVext_standing (core : Nat) (w : W64) (s : State) : Stands s (execVext core w s) := by
  simp [execVext]

@[simp] theorem execVbcst_standing (core : Nat) (w : W64) (s : State) : Stands s (execVbcst core w s) := by
  simp [execVbcst]

@[simp] theorem execVmset_standing (core : Nat) (w : W64) (s : State) : Stands s (execVmset core w s) := by
  simp [execVmset]

@[simp] theorem execVmget_standing (core : Nat) (w : W64) (s : State) : Stands s (execVmget core w s) := by
  simp [execVmget]

@[simp] theorem execVmop_standing (core : Nat) (w : W64) (s : State) : Stands s (execVmop core w s) := by
  simp [execVmop]

@[simp] theorem execVidx_standing (core : Nat) (w : W64) (s : State) : Stands s (execVidx core w s) := by
  simp [execVidx]

@[simp] theorem execSgetf_standing (core : Nat) (w : W64) (s : State) : Stands s (execSgetf core w s) := by
  simp [execSgetf]

@[simp] theorem execSclrf_standing (core : Nat) (w : W64) (s : State) : Stands s (execSclrf core w s) := by
  simp [execSclrf]

@[simp] theorem execVld_standing (core : Nat) (w : W64) (s : State) : Stands s (execVld core w s) := by
  simp [execVld]

@[simp] theorem execVst_standing (core : Nat) (w : W64) (s : State) : Stands s (execVst core w s) := by
  simp [execVst]

@[simp] theorem execVlds_standing (core : Nat) (w : W64) (s : State) : Stands s (execVlds core w s) := by
  simp [execVlds]

@[simp] theorem execVsts_standing (core : Nat) (w : W64) (s : State) : Stands s (execVsts core w s) := by
  simp [execVsts]

@[simp] theorem execVand_standing (core : Nat) (w : W64) (s : State) : Stands s (execVand core w s) := by
  simp [execVand]

@[simp] theorem execVor_standing (core : Nat) (w : W64) (s : State) : Stands s (execVor core w s) := by
  simp [execVor]

@[simp] theorem execVxor_standing (core : Nat) (w : W64) (s : State) : Stands s (execVxor core w s) := by
  simp [execVxor]

@[simp] theorem execVnot_standing (core : Nat) (w : W64) (s : State) : Stands s (execVnot core w s) := by
  simp [execVnot]

@[simp] theorem execVperm_standing (core : Nat) (w : W64) (s : State) : Stands s (execVperm core w s) := by
  simp [execVperm]

@[simp] theorem execVrot_standing (core : Nat) (w : W64) (s : State) : Stands s (execVrot core w s) := by
  simp [execVrot]

@[simp] theorem execVsel_standing (core : Nat) (w : W64) (s : State) : Stands s (execVsel core w s) := by
  simp [execVsel]

end Sys2Proof.Machine
end

section
/-! SUPPORT. Proofs/Steep.lean: every step keeps a legal period, a legal next period and a phase within the steep. -/
namespace Sys2Proof.Machine

/-- A next state that the outcome gives has a legal steep. -/
def StaysLegal (o : Host.Outcome State Fault Refusal) : Prop := ∀ t, o = .next t → t.steep.legal

@[simp] theorem staysLegal_next (t : State) : StaysLegal (.next t) ↔ t.steep.legal := by simp [StaysLegal]

theorem legal_lasting : Lasting fun s => s.steep.legal := by
  intro s t same legal
  simp only [State.standing, Prod.mk.injEq] at same
  obtain ⟨-, current, next, phase⟩ := same
  simpa [Steep.legal, current, next, phase] using legal

theorem Stands.legal {s : State} {o : Host.Outcome State Fault Refusal} (same : Stands s o) (legal : s.steep.legal) : StaysLegal o :=
  fun t next => legal_lasting (same t next) legal

theorem after_legal {s : State} {o : Host.Outcome State Fault Refusal} (h : StaysLegal o) (legal : s.steep.legal) : (after o s).steep.legal := by
  cases o with
  | next t => exact h t rfl
  | fault _ => exact legal
  | refused _ => exact legal

theorem forL_legal {α : Type} (l : List α) {f : α → State → State} (keeps : ∀ a s, s.steep.legal → (f a s).steep.legal) {s : State}
    (legal : s.steep.legal) : (forL l f s).steep.legal := by
  induction l generalizing s with
  | nil => exact legal
  | cons a l ih => exact ih (keeps a s legal)

theorem State.warmReset_legal (s : State) (service : Bool) : (s.warmReset service).steep.legal := by
  simp [State.warmReset, Steep.legal, periodLegal]

theorem State.coldReset_legal (s : State) : s.coldReset.steep.legal := by
  simp [State.coldReset, Steep.legal, periodLegal]

theorem State.bootUp_legal (s : State) : s.bootUp.steep.legal := by
  unfold State.bootUp
  split
  · exact s.coldReset_legal
  · exact s.warmReset_legal false

theorem State.moduleRung_legal (s : State) (service : Bool) : (s.moduleRung service).steep.legal := State.warmReset_legal ..

theorem State.startRung_legal {s : State} (legal : s.steep.legal) (u : UnitId) (code engine : Nat) (by_ : Option CmdRef) (ctx : Option Nat)
    (esc : Bool) : (s.startRung u code engine by_ ctx esc).steep.legal := by
  unfold State.startRung
  dsimp only
  split
  · exact legal
  · split
    · exact State.moduleRung_legal ..
    · exact legal_lasting (by simp) legal

theorem execFaWarmReset_legal {s : State} (legal : s.steep.legal) : StaysLegal (execFaWarmReset s) := by
  unfold execFaWarmReset
  split
  · exact (staysLegal_next _).mpr (s.moduleRung_legal false)
  · exact (staysLegal_next _).mpr legal

theorem execResetTimeout_legal {s : State} (legal : s.steep.legal) (u : UnitId) (engine : Nat) : StaysLegal (execResetTimeout u engine s) := by
  unfold execResetTimeout
  split
  · exact (staysLegal_next _).mpr legal
  · extract_lets faults s1 s2 up s3
    have raised : s2.steep.legal := legal_lasting (by simp [s2, s1]) legal
    split
    · exact (staysLegal_next _).mpr raised
    · exact (staysLegal_next _).mpr (State.startRung_legal raised ..)

theorem execFenceResetDue_legal {s : State} (legal : s.steep.legal) (u : UnitId) : StaysLegal (execFenceResetDue u s) := by
  unfold execFenceResetDue
  dsimp only
  repeat' split
  · exact (staysLegal_next _).mpr legal
  · exact (staysLegal_next _).mpr legal
  · exact (staysLegal_next _).mpr (State.startRung_legal legal ..)

theorem execUnitReset_legal {s : State} (legal : s.steep.legal) (r : Req) : StaysLegal (execUnitReset r s) := by
  refine (staysLegal_next _).mpr (State.kettle_keeps legal_lasting (fun k t legal => ?_) legal ..)
  repeat' split
  · exact legal
  · exact State.moduleRung_legal ..
  · exact State.startRung_legal legal ..

theorem execServiceRestore_legal {s : State} (legal : s.steep.legal) (r : Req) : StaysLegal (execServiceRestore r s) := by
  refine (staysLegal_next _).mpr (State.kettle_keeps legal_lasting (fun k t legal => ?_) legal ..)
  split
  · exact legal
  · exact State.moduleRung_legal ..

theorem execDomainPeriod_legal {s : State} (legal : s.steep.legal) (r : Req) : StaysLegal (execDomainPeriod r s) := by
  refine (staysLegal_next _).mpr (State.kettle_keeps legal_lasting (fun k t legal => ?_) legal ..)
  dsimp only
  split
  · exact legal
  · next accepted =>
    obtain ⟨current, -, phase⟩ := legal
    simp only [Bool.or_eq_true, decide_eq_true_eq, not_or] at accepted
    refine legal_lasting (s := { t with steep := { t.steep with
      nextQ := (k.arg 0).toNat, atCount := (k.arg 1).toNat, periodBy := some k.ref } }) (by simp) ⟨current, ?_, phase⟩
    constructor <;> dsimp only <;> omega

theorem execWatchdogExpiry_legal {s : State} (legal : s.steep.legal) (u : UnitId) (engine : Nat) : StaysLegal (execWatchdogExpiry u engine s) := by
  unfold execWatchdogExpiry
  extract_lets idle core faults
  split
  · exact (staysLegal_next _).mpr legal
  · next work _ =>
    extract_lets log s1 s2 s3
    have fenced : s2.steep.legal := by
      unfold s2
      split
      · exact legal_lasting (by simp [s1]) legal
      · exact legal
    have raised : s3.steep.legal := legal_lasting (by simp [s3]) fenced
    repeat' split
    · exact (staysLegal_next _).mpr legal
    · exact (staysLegal_next _).mpr raised
    · exact (staysLegal_next _).mpr legal
    · exact (staysLegal_next _).mpr (State.startRung_legal raised ..)
    · exact (staysLegal_next _).mpr (State.startRung_legal raised ..)

theorem execInputSagTimeout_legal {s : State} (legal : s.steep.legal) : StaysLegal (execInputSagTimeout s) := by
  unfold execInputSagTimeout
  split
  · exact (staysLegal_next _).mpr s.coldReset_legal
  · exact (staysLegal_next _).mpr legal

/-- A converter that turns off leaves the steep of a cold boot. -/
theorem powerOff_legal (s : State) : StaysLegal (.next s.powerOff) := (staysLegal_next _).mpr s.coldReset_legal

theorem execRefclkReturn_legal {s : State} (legal : s.steep.legal) : StaysLegal (execRefclkReturn s) := by
  unfold execRefclkReturn
  split
  · exact (staysLegal_next _).mpr legal
  · extract_lets power s1
    split
    · exact (staysLegal_next _).mpr legal
    · exact (staysLegal_next _).mpr s1.bootUp_legal

theorem execModResetNRelease_legal {s : State} (legal : s.steep.legal) : StaysLegal (execModResetNRelease s) := by
  unfold execModResetNRelease
  split
  · exact (staysLegal_next _).mpr legal
  · extract_lets host s1
    split
    · exact (staysLegal_next _).mpr legal
    · exact (staysLegal_next _).mpr s1.bootUp_legal

theorem execPowerStateDone_legal {s : State} (legal : s.steep.legal) : StaysLegal (execPowerStateDone s) := by
  unfold execPowerStateDone
  dsimp only
  split
  · exact (staysLegal_next _).mpr legal
  · split
    · exact (staysLegal_next _).mpr s.coldReset_legal
    · refine Stands.legal ?_ legal
      split <;> simp

theorem execSteepPeriodWrite_legal {s : State} (legal : s.steep.legal) (h : Half) (v : W64) : StaysLegal (execSteepPeriodWrite h v s) := by
  unfold execSteepPeriodWrite
  dsimp only
  split
  · exact (staysLegal_next _).mpr legal
  · split
    · exact (staysLegal_next _).mpr legal
    · split
      · exact (staysLegal_next _).mpr (legal_lasting (by simp) legal)
      · next taken =>
        obtain ⟨current, -, phase⟩ := legal
        simp only [Bool.or_eq_true, decide_eq_true_eq, not_or] at taken
        refine (staysLegal_next _).mpr ⟨current, ?_, phase⟩
        constructor <;> dsimp only <;> omega

theorem State.steer_legal {s : State} (legal : s.steep.legal) : s.steer.steep.legal := by
  obtain ⟨current, next, -⟩ := legal
  refine ⟨current, next, ?_⟩
  have positive : 1 ≤ s.steep.currentQ := current.1
  simp only [State.steer]
  omega

theorem execTiming_legal {s : State} (legal : s.steep.legal) (link : Nat) (w : TimingWord) : StaysLegal (execTiming link w s) := by
  unfold execTiming
  split
  · exact (staysLegal_next _).mpr legal
  · extract_lets same s1 s2 s3 st t s4 st4 s5 s6
    have timed : s4.steep.legal := legal_lasting (by simp [s4, st, s3, s2, s1]) legal
    have steered : s6.steep.legal := by
      unfold s6
      split
      · exact State.steer_legal (legal_lasting (by simp [s5, st4]) timed)
      · exact timed
    exact (staysLegal_next _).mpr (legal_lasting (by simp) steered)

theorem execPpsEdge_legal {s : State} (legal : s.steep.legal) : StaysLegal (execPpsEdge s) := by
  unfold execPpsEdge
  split
  · exact (staysLegal_next _).mpr legal
  · extract_lets period ph steer new
    obtain ⟨current, next, phase⟩ := legal
    have within : new < 25000 * s.steep.currentQ := by
      simp only [new, period, ph]
      split
      · exact phase
      · split <;> omega
    exact (staysLegal_next _).mpr ⟨current, next, within⟩

theorem State.switchPeriod_legal {s : State} (legal : s.steep.legal) (opens : s.steep.phase = 0) : s.switchPeriod.steep.legal := by
  unfold State.switchPeriod
  dsimp only
  split
  · exact legal
  · obtain ⟨-, next, -⟩ := legal
    have opened : s.steep.phase < 25000 * s.steep.nextQ := by
      have := next.1
      omega
    split
    · exact legal_lasting (s := { s with steep := { s.steep with currentQ := s.steep.nextQ } })
        ((State.commandDone_standing ..).trans rfl) ⟨next, next, opened⟩
    · exact ⟨next, next, opened⟩

theorem State.openSteep_legal {s : State} (legal : s.steep.legal) : s.openSteep.steep.legal := by
  unfold State.openSteep
  extract_lets s1 st calm s2 s3
  obtain ⟨current, next, -⟩ : s1.steep.legal := legal_lasting (by simp [s1]) legal
  have opened : s3.steep.legal := ⟨current, next, by have := current.1; simp only [s3, s2, st]; omega⟩
  exact legal_lasting (by simp) (State.switchPeriod_legal opened rfl)

theorem runFabric_stands {code : Nat} {r : Req} {s : State} {o : Host.Outcome State Fault Refusal} :
    runFabric code r s = some o → Stands s o := by
  unfold runFabric
  split <;> rintro ⟨⟩ <;> simp

theorem runJob_stands {code : Nat} {r : Req} {s : State} {o : Host.Outcome State Fault Refusal} :
    runJob code r s = some o → Stands s o := by
  unfold runJob
  split <;> rintro ⟨⟩ <;> simp

theorem runRest_stands {code : Nat} {r : Req} {s : State} {o : Host.Outcome State Fault Refusal} :
    runRest code r s = some o → Stands s o := by
  unfold runRest
  split <;> rintro ⟨⟩ <;> simp

section
variable {s : State} (legal : s.steep.legal)
include legal

theorem runUnit_legal {code : Nat} {r : Req} {o : Host.Outcome State Fault Refusal} : runUnit code r s = some o → StaysLegal o := by
  unfold runUnit
  split <;> rintro ⟨⟩
  case h_7 => exact execUnitReset_legal legal r
  case h_18 => exact execDomainPeriod_legal legal r
  all_goals exact Stands.legal (by simp) legal

theorem runFault_legal {code : Nat} {r : Req} {o : Host.Outcome State Fault Refusal} : runFault code r s = some o → StaysLegal o := by
  unfold runFault
  split <;> rintro ⟨⟩
  case h_5 => exact execServiceRestore_legal legal r
  all_goals exact Stands.legal (by simp) legal

theorem State.runRequest_legal (mb : Nat) (ws : List W64) : (s.runRequest mb ws).1.steep.legal := by
  unfold State.runRequest
  extract_lets w code r o
  cases found : o with
  | none => exact legal
  | some q =>
    simp only [o, Option.or_eq_some_iff, Option.or_eq_none_iff] at found
    have ran : StaysLegal q := by
      rcases found with ((h | ⟨-, h⟩) | ⟨-, h | ⟨-, h⟩⟩) | ⟨-, h⟩
      · exact runUnit_legal legal h
      · exact (runFabric_stands h).legal legal
      · exact (runJob_stands h).legal legal
      · exact runFault_legal legal h
      · exact (runRest_stands h).legal legal
    exact after_legal ran legal

theorem State.endFan_legal (f : Fan) : (s.endFan f).steep.legal := by
  unfold State.endFan
  extract_lets g s1 s2 s3
  split
  · exact State.moduleRung_legal ..
  · exact legal_lasting (by simp [s3, s2, s1]) legal

theorem State.takeLead_legal (mb : Nat) (ms : List (List W64)) (ws : List W64) : (s.takeLead mb ms ws).steep.legal := by
  unfold State.takeLead
  extract_lets w code args alone r s1
  have ran : r.1.steep.legal := by
    unfold r
    repeat' split
    exacts [legal, legal, legal, State.runRequest_legal legal ..]
  have asked : s1.steep.legal := legal_lasting (by simp [s1]) ran
  split
  · split
    · exact legal_lasting (by simp) ran
    · exact ran
  · split
    · split
      · exact State.endFan_legal asked _
      · exact asked
    · exact asked

theorem State.takeReply_legal (src id status : Nat) (ws : List W64) : (s.takeReply src id status ws).steep.legal := by
  unfold State.takeReply
  split
  · exact legal
  · dsimp only
    split
    · exact State.endFan_legal legal _
    · exact legal

theorem execCompositeMemberTimeout_legal (fan : Nat) : StaysLegal (execCompositeMemberTimeout fan s) := by
  unfold execCompositeMemberTimeout
  repeat' split
  · exact (staysLegal_next _).mpr legal
  · exact (staysLegal_next _).mpr legal
  · exact (staysLegal_next _).mpr (State.endFan_legal legal _)

theorem State.takeDomain_legal (code : Nat) (ws : List W64) : (s.takeDomain code ws).steep.legal := by
  unfold State.takeDomain
  extract_lets a b
  repeat' split
  · exact legal_lasting (by simp) legal
  · exact legal_lasting (by simp) legal
  · next refused _ =>
    obtain ⟨current, -, phase⟩ := legal
    simp only [Bool.or_eq_true, decide_eq_true_eq, not_or] at refused
    refine ⟨current, ?_, phase⟩
    constructor <;> dsimp only <;> omega
  · exact legal
  · exact legal
  · exact legal_lasting (by simp) legal
  · exact legal

theorem execKettlePacket_legal (p : Pkt) : StaysLegal (execKettlePacket p s) := by
  unfold execKettlePacket
  split
  · exact (staysLegal_next _).mpr (legal_lasting (by simp) legal)
  · extract_lets w ty kind src ws s1 again fabric s2 mb asked moved n read
    have taken : s2.steep.legal := legal_lasting (by simp [s2, s1]) legal
    clear_value ty kind src s2
    split
    · exact (staysLegal_next _).mpr legal
    · refine (staysLegal_next _).mpr ?_
      split
      · exact taken
      · split
        · split
          · exact legal_lasting (by simp [asked]) (State.runRequest_legal taken mb ws)
          · exact State.runRequest_legal taken mb ws
        · exact legal_lasting (by simp) taken
        · exact State.takeLead_legal taken ..
        · exact State.takeReply_legal taken ..
        · exact State.takeDomain_legal taken ..
        · exact legal_lasting (by simp [moved]) taken
        · exact legal_lasting (by simp) taken
        · exact legal_lasting (by simp [read]) taken
        · exact legal_lasting (by simp) taken
        · exact taken

theorem handOver_legal (e : EarlyMsg) : (handOver e s).steep.legal := by
  unfold handOver
  split
  · exact legal_lasting (by simp) legal
  · exact legal_lasting (by simp) legal
  · split
    · exact after_legal (execKettlePacket_legal legal _) legal
    · exact legal_lasting (by simp) legal

theorem State.takeEarly_legal : s.takeEarly.steep.legal := by
  unfold State.takeEarly
  exact forL_legal _ (fun e t held => handOver_legal held e.2) (s := { s with early := s.early.filter fun e => s.now < e.1 }) legal

theorem State.boundaryOpen_legal : s.boundaryOpen.steep.legal := by
  have opened : s.tellLost.openSteep.steep.legal := State.openSteep_legal (legal_lasting s.tellLost_standing legal)
  unfold State.boundaryOpen
  exact legal_lasting (by simp) opened

theorem execSteepBoundary_legal : StaysLegal (execSteepBoundary s) := by
  unfold execSteepBoundary
  split
  · exact (staysLegal_next _).mpr legal
  · exact (staysLegal_next _).mpr (State.takeEarly_legal (legal_lasting (by simp) (State.boundaryOpen_legal legal)))

theorem State.regWrite_legal (fn off : Nat) (r : Reg) (h : Half) (w : W64) : (s.regWrite fn off r h w).steep.legal := by
  unfold State.regWrite
  split
  · exact after_legal (execSteepPeriodWrite_legal legal h w) legal
  all_goals exact legal_lasting (by simp [Steep.clearAudit]) legal

theorem State.access_legal (a : Access) (write : Bool) : (s.access a write).steep.legal := by
  unfold State.access
  repeat' split
  · exact legal_lasting (by simp) legal
  · exact legal
  · exact legal_lasting (by simp) legal
  · exact legal_lasting (by simp) legal
  · exact State.regWrite_legal legal ..
  · exact legal_lasting (by simp) legal

theorem execUnmappedAccess_legal (a : Access) (write : Bool) : StaysLegal (execUnmappedAccess a write s) := by
  unfold execUnmappedAccess
  repeat' split
  · exact (staysLegal_next _).mpr legal
  · exact (staysLegal_next _).mpr (State.access_legal legal a write)
  · exact (staysLegal_next _).mpr legal

theorem State.tick_legal : s.tick.steep.legal := by
  unfold State.tick
  split
  · exact legal
  · obtain ⟨current, next, -⟩ := legal
    refine ⟨current, next, ?_⟩
    have := current.1
    dsimp only
    omega

end

/-- No command but the writes and events of the steep, a restart and what a kettle packet carries moves the period or PHASE. -/
theorem exec_legal {s : State} (legal : s.steep.legal) (c : Instr) : StaysLegal (exec c s) := by
  cases c
  case regWrite a => exact (staysLegal_next _).mpr (State.access_legal legal a true)
  case rcRegisterRead a => exact (staysLegal_next _).mpr (State.access_legal legal a false)
  case inputBelow40v => exact powerOff_legal s
  case inputOvervoltage => exact powerOff_legal s
  case railFault => exact powerOff_legal s
  case unmappedAccess a write => exact execUnmappedAccess_legal legal a write
  case steepPeriodWrite h v => exact execSteepPeriodWrite_legal legal h v
  case steepBoundary => exact execSteepBoundary_legal legal
  case timing link w => exact execTiming_legal legal link w
  case compositeMemberTimeout fan => exact execCompositeMemberTimeout_legal legal fan
  case fenceResetDue u => exact execFenceResetDue_legal legal u
  case unitReset r => exact execUnitReset_legal legal r
  case serviceRestore r => exact execServiceRestore_legal legal r
  case domainPeriod r => exact execDomainPeriod_legal legal r
  case kettlePacket p => exact execKettlePacket_legal legal p
  case resetTimeout u engine => exact execResetTimeout_legal legal u engine
  case faWarmReset => exact execFaWarmReset_legal legal
  case watchdogExpiry => exact execWatchdogExpiry_legal legal _ _
  case inputSagTimeout => exact execInputSagTimeout_legal legal
  case refclkReturn => exact execRefclkReturn_legal legal
  case powerStateDone => exact execPowerStateDone_legal legal
  case modResetNRelease => exact execModResetNRelease_legal legal
  case ppsEdge => exact execPpsEdge_legal legal
  all_goals
    refine Stands.legal ?_ legal
    unfold exec
    simp

/-- Settles O5: on an empty queue PHASE stops at the steep's last tick; a command leaves the period and PHASE as they
were or is one of those that `exec_legal` names. -/
theorem steepStaysLegalInEveryStep : Obligations.SteepStaysLegalInEveryStep := by
  intro s t legal next
  unfold step at next
  split at next
  · injection next with next
    exact next ▸ State.tick_legal legal
  next c rest _ => exact exec_legal (s := { s with pending := rest }) legal c t next

end Sys2Proof.Machine
end

section
/-! SUPPORT. Proofs/Running.lean: reports and the ends of work leave the steep, the power unit and the links. -/
namespace Sys2Proof.Machine

/-- What reports and the ends of work leave: the steep, the power unit and the links. -/
def State.running (s : State) : Steep × Power × Tbl Nat Link := (s.steep, s.power, s.fabric.links)

/-- An update that moves the links' fabric, but not the links, the steep or the power unit. -/
@[simp] theorem running_mk (s : State) (pending early units faults mem cores caddies nextUpd pools mailboxes ctxs rotations switches
    composites fans nextFan
    kettleAnswer remoteEvents members host trust loads infMib infBytes infRetries infDuplicates queueStatus queueData
    readData out fresh)
    (f : Fabric) (links : f.links = s.fabric.links) :
    State.running { s with
      fabric := f, pending, early, units, faults, mem, cores, caddies, nextUpd, pools, mailboxes, ctxs, rotations, switches, composites, fans,
      nextFan, kettleAnswer, remoteEvents, members, host, trust, loads, infMib, infBytes, infRetries, infDuplicates,
      queueStatus, queueData, readData, out, fresh } = s.running := by
  simp only [State.running, links]

@[simp] theorem running_ite (c : Prop) [Decidable c] (a b : State) :
    State.running (if c then a else b) = if c then a.running else b.running := apply_ite ..

@[simp] theorem running_fst_ite {α : Type} (c : Prop) [Decidable c] (a b : State × α) :
    State.running (if c then a else b).1 = if c then a.1.running else b.1.running := by
  split <;> rfl

theorem running_getD {o : Option State} {d : State} {x : Steep × Power × Tbl Nat Link}
    (given : ∀ t, o = some t → t.running = x) (default : d.running = x) : (o.getD d).running = x := by
  cases o with
  | none => exact default
  | some t => exact given t rfl

@[simp] theorem running_forL {α : Type} (l : List α) (f : α → State → State) (s : State)
    (h : ∀ a s, (f a s).running = s.running) : (forL l f s).running = s.running := by
  induction l generalizing s with
  | nil => rfl
  | cons a l ih => exact (ih (f a s)).trans (h a s)

@[simp] theorem running_forN (n : Nat) (f : Nat → State → State) (s : State) (h : ∀ a s, (f a s).running = s.running) :
    (forN n f s).running = s.running := running_forL _ f s h

theorem running_of_forL {α : Type} {l : List α} {f : α → State → State} {s : State}
    (h : ∀ a s, (f a s).running = s.running) : (forL l f s).running = s.running := running_forL l f s h

@[simp] theorem State.setPool_running (s : State) (p : Nat) (v : Pool) : (s.setPool p v).running = s.running := by
  simp [State.setPool]

@[simp] theorem State.setMailbox_running (s : State) (n : Nat) (v : Mailbox) : (s.setMailbox n v).running = s.running := by
  simp [State.setMailbox]

@[simp] theorem State.setCtx_running (s : State) (n : Nat) (v : Ctx) : (s.setCtx n v).running = s.running := by
  simp [State.setCtx]

@[simp] theorem State.updCtx_running (s : State) (n : Nat) (f : Ctx → Ctx) : (s.updCtx n f).running = s.running := by
  simp [State.updCtx]

@[simp] theorem State.updJob_running (s : State) (n : Nat) (f : Job → Job) : (s.updJob n f).running = s.running := by
  simp [State.updJob]

@[simp] theorem State.emit_running (s : State) (o : Out) : (s.emit o).running = s.running := by
  simp [State.emit]

@[simp] theorem State.msix_running (s : State) (v : Nat) : (s.msix v).running = s.running := by
  simp [State.msix]

@[simp] theorem State.notify_running (s : State) (sink : Sink) (w : W64) : (s.notify sink w).running = s.running := by
  unfold State.notify
  split <;> simp

theorem State.put_running {s t : State} {pool qid : Nat} {ctx : Option Nat} {ty : Nat} {ws : List W64} (h : s.put pool qid ctx ty ws = some t) :
    t.running = s.running := by
  dsimp only [State.put] at h
  split at h
  · injection h with h
    simp [← h]
  · cases h

@[simp] theorem State.takeOldest_running (s : State) (pool qid : Nat) : (s.takeOldest pool qid).running = s.running := by
  unfold State.takeOldest
  split <;> simp

@[simp] theorem State.storeTier_running (s : State) (wa : Nat) (ws : List W64) :
    (s.storeTier wa ws).running = s.running := by
  unfold State.storeTier
  dsimp only
  split <;> simp

@[simp] theorem roomLoop_running (fuel : Nat) (fa : Bool) (need : Nat) (s : State) :
    (roomLoop fuel fa need s).running = s.running := by
  induction fuel generalizing s with
  | zero => rfl
  | succ fuel ih =>
    dsimp only [roomLoop]
    split
    · rfl
    · split
      · rfl
      · simp [ih]

@[simp] theorem State.writeRecord_running (s : State) (r : RecSpec) : (s.writeRecord r).1.running = s.running := by
  unfold State.writeRecord
  extract_lets ws f hops f1 host s1 before s2 q sink f2 m s3 entry t3 f3 s4 s5 log t5 f5
  have h2 : s2.running = s.running := by simp [s2, s1]
  have h3 : s3.1.running = s.running := by
    unfold s3
    split
    · simpa using h2
    · next put =>
      rw [← h2, ← State.put_running put]
      simp
  have h4 : s4.1.running = s.running := by simpa [s4] using h3
  split
  · simpa [t5, s5] using h4
  · exact h4

@[simp] theorem State.event_running (s : State) (x : Nat) (e : Event) : (s.event x e).running = s.running := by
  dsimp only [State.event]
  split
  · next t put =>
    split at put
    · exact State.put_running put
    · cases put
  · simp

@[simp] theorem State.enter_running (s : State) (r : RecSpec) : (s.enter r).running = s.running := by
  unfold State.enter
  dsimp only
  repeat' split
  all_goals simp

@[simp] theorem State.countEcc_running (s : State) (place : Nat) (syn : Byte) :
    (s.countEcc place syn).running = s.running := by
  simp [State.countEcc]

@[simp] theorem State.wroteKettle_running (s : State) : (s.wroteKettle).running = s.running := by
  simp [State.wroteKettle]

@[simp] theorem State.raise_running (s : State) (r : RecSpec) : (s.raise r).running = s.running := by
  simp [State.raise]

@[simp] theorem State.raiseLimited_running (s : State) (key : Nat × Nat) (steeps : Nat) (r : RecSpec) :
    (s.raiseLimited key steeps r).running = s.running := by
  unfold State.raiseLimited
  split <;> simp

theorem State.putCompletion_running {s t : State} {mb : Nat} {ws : List W64} (h : s.putCompletion mb ws = some t) :
    t.running = s.running := by
  obtain ⟨u, put, rfl⟩ := Option.map_eq_some_iff.mp h
  simpa using State.put_running put

@[simp] theorem State.secondCompletion_running (s : State) (mb tag status : Nat) (ws : List W64) :
    (s.secondCompletion mb tag status ws).running = s.running := by
  dsimp only [State.secondCompletion]
  split
  · simp
  · split
    · exact running_getD (fun t written => by simpa using State.putCompletion_running written) (by simp)
    · simp

@[simp] theorem State.cmdEvent_running (s : State) (by_ : CmdRef) (ctx : Option Nat) (e : Event) :
    (s.cmdEvent by_ ctx e).running = s.running := by
  unfold State.cmdEvent
  split <;> simp

@[simp] theorem State.commandDone_running (s : State) (by_ : CmdRef) (ctx : Option Nat) :
    (s.commandDone by_ ctx).running = s.running := by
  simp [State.commandDone]

@[simp] theorem State.routeLost_running (s : State) (k : Route) (rset : Nat) :
    (s.routeLost k rset).running = s.running := by
  unfold State.routeLost
  split <;> simp

@[simp] theorem State.badPacket_running (s : State) (link : Option Nat) : (s.badPacket link).running = s.running := by
  simp [State.badPacket]

@[simp] theorem State.hold_running (s : State) (ctx : Option Nat) (ty vc : Nat) (ws : List W64) (ports : List Nat)
    (far : Bool) (src : Option (Nat × Nat × Nat)) :
    (s.hold ctx ty vc ws ports far src).running = s.running := by
  simp [State.hold]

@[simp] theorem State.inject_running (s : State) (kind vc : Nat) (dst : List W64) (ctx : Option Nat) (rset : Nat)
    (body : List W64) :
    (s.inject kind vc dst ctx rset body).running = s.running := by
  unfold State.inject
  dsimp only
  split <;> simp

@[simp] theorem State.injectDn_running (s : State) (kind vc dn : Nat) (ctx : Option Nat) (rset : Nat) (body : List W64) :
    (s.injectDn kind vc dn ctx rset body).running = s.running := by
  unfold State.injectDn
  split <;> simp

@[simp] theorem State.jobMsg_running (s : State) (x dn msg cause step arg : Nat) :
    (s.jobMsg x dn msg cause step arg).running = s.running := by
  simp [State.jobMsg]

@[simp] theorem goneLoop_running (fuel x slot : Nat) (s : State) : (goneLoop fuel x slot s).running = s.running := by
  induction fuel generalizing s with
  | zero => rfl
  | succ fuel ih =>
    dsimp only [goneLoop]
    split
    · split <;> simp [ih]
    · rfl

@[simp] theorem State.dropOldest_running (s : State) (x slot : Nat) : (s.dropOldest x slot).running = s.running := by
  simp [State.dropOldest]

@[simp] theorem State.endCapture_running (s : State) (x : Nat) : (s.endCapture x).running = s.running := by
  unfold State.endCapture
  split <;> simp

@[simp] theorem State.dropChains_running (s : State) (x slot step : Nat) :
    (s.dropChains x slot step).running = s.running := by
  simp [State.dropChains]

@[simp] theorem State.endStream_running (s : State) (x slot status : Nat) :
    (s.endStream x slot status).running = s.running := by
  unfold State.endStream
  split <;> simp

@[simp] theorem State.abortStreams_running (s : State) (x n : Nat) : (s.abortStreams x n).running = s.running := by
  unfold State.abortStreams
  refine running_of_forL fun a s => ?_
  split <;> simp

@[simp] theorem State.rewriteCopies_running (s : State) (x : Nat) : (s.rewriteCopies x).running = s.running := by
  simp [State.rewriteCopies]

@[simp] theorem State.discardShadow_running (s : State) (x n : Nat) : (s.discardShadow x n).running = s.running := by
  simp [State.discardShadow]

@[simp] theorem State.abortStep_running (s : State) (x n cause : Nat) : (s.abortStep x n cause).running = s.running := by
  unfold State.abortStep
  split <;> simp

@[simp] theorem State.leadAbort_running (s : State) (x n cause : Nat) : (s.leadAbort x n cause).running = s.running := by
  unfold State.leadAbort
  dsimp only
  split <;> simp

@[simp] theorem State.failStep_running (s : State) (x n cause epoch : Nat) :
    (s.failStep x n cause epoch).running = s.running := by
  unfold State.failStep
  dsimp only
  split <;> simp

@[simp] theorem State.writeRepeats_running (s : State) : (s.writeRepeats).running = s.running := by
  unfold State.writeRepeats
  refine running_of_forL fun a s => ?_
  dsimp only
  split <;> simp

@[simp] theorem State.countWatch_running (s : State) : (s.countWatch).running = s.running := by
  simp [State.countWatch]

@[simp] theorem State.failTimed_running (s : State) : (s.failTimed).running = s.running := by
  simp [State.failTimed]

end Sys2Proof.Machine
end

section
/-! SUPPORT. Proofs/Time.lean: ticks, the registers of the steep, timing words and audits. -/
namespace Sys2Proof.Machine

/-! ### What is read of a state whose steep, power and links stay -/

section
variable {s t : State} (same : t.running = s.running)
include same

theorem steep_of_running : t.steep = s.steep := (Prod.mk.inj same).1

theorem power_of_running : t.power = s.power := (Prod.mk.inj (Prod.mk.inj same).2).1

theorem link_of_running (n : Nat) : t.link n = s.link n := by
  have links : t.fabric.links = s.fabric.links := (Prod.mk.inj (Prod.mk.inj same).2).2
  unfold State.link
  rw [links]

end

@[simp] theorem State.raise_steep (s : State) (r : RecSpec) : (s.raise r).steep = s.steep := steep_of_running (s.raise_running r)

@[simp] theorem State.raise_power (s : State) (r : RecSpec) : (s.raise r).power = s.power := power_of_running (s.raise_running r)

@[simp] theorem State.raise_link (s : State) (r : RecSpec) (n : Nat) : (s.raise r).link n = s.link n :=
  link_of_running (s.raise_running r) n

/-! ### Ticks and the steep's registers (R43, R44, R47) -/

/-- Settles O2. -/
theorem idleStepCountsOneTick : Obligations.IdleStepCountsOneTick := by
  intro s idle
  have ticks : step s = .next s.tick := by simp [step, idle]
  refine ⟨fun dark => ?_, fun lit => ?_⟩
  · simp [ticks, State.tick, dark]
  · simp [ticks, State.tick, lit]

/-- Settles O25: NEXT_Q lies in the low half, so a write of the high half reaches nothing. -/
theorem steepPeriodIsTakenOrIgnored : Obligations.SteepPeriodIsTakenOrIgnored := by
  refine ⟨fun s fn => rfl, rfl, rfl, fun s h v lit low => ⟨fun least most => ?_, fun beyond => ?_⟩, fun s v => ?_⟩
  · have within : ¬ (fld v 5 0 = 0 ∨ 32 < fld v 5 0) := by omega
    cases h with
    | high => exact absurd rfl low
    | full => simp [exec, execSteepPeriodWrite, lit, within]
    | low => simp [exec, execSteepPeriodWrite, lit, within]
  · cases h with
    | high => exact absurd rfl low
    | full => simp [exec, execSteepPeriodWrite, lit, beyond, State.regAccess, Rec.regAccess]
    | low => simp [exec, execSteepPeriodWrite, lit, beyond, State.regAccess, Rec.regAccess]
  · simp [exec, execSteepPeriodWrite]

/-- The steep after the period's switch: changed once the counter has reached AT_COUNT (R44). -/
theorem State.switchPeriod_steep (s : State) : s.switchPeriod.steep = if s.steep.count < s.steep.atCount then s.steep else { s.steep with
    currentQ := s.steep.nextQ, atCount := 0xFFFFFFFFFFFFFFFF, periodBy := none
    pastQ := if s.steep.nextQ = s.steep.currentQ then s.steep.pastQ else (s.steep.count, s.steep.currentQ) :: s.steep.pastQ } := by
  unfold State.switchPeriod
  dsimp only
  split
  · rfl
  · split
    · exact steep_of_running (State.commandDone_running ..)
    · rfl

/-- A boundary's opened steep, before the period's switch (R46, R47). -/
def Steep.opened (t : Steep) : Steep :=
  { t with
    count := (t.count + 1) % 2 ^ 64, phase := 0, boundaryLate := false
    latch := t.latch.map fun (l : Nat × Nat) => (l.1, l.2 + 1)
    within2us := if t.lostStands && t.offsetNs.natAbs ≤ 2000 then t.within2us + 1 else 0
    metered := 0, charged := [], idleEnergy := 0 }

theorem State.openSteep_steep (s : State) : s.openSteep.steep =
    if s.steep.opened.count < s.steep.atCount then s.steep.opened else { s.steep.opened with
      currentQ := s.steep.nextQ, atCount := 0xFFFFFFFFFFFFFFFF, periodBy := none
      pastQ := if s.steep.nextQ = s.steep.currentQ then s.steep.pastQ else (s.steep.opened.count, s.steep.currentQ) :: s.steep.pastQ } := by
  unfold State.openSteep
  extract_lets closed st calm s1 s2
  have after_switch : s2.switchPeriod.countWatch.writeRepeats.steep = s2.switchPeriod.steep :=
    steep_of_running ((State.writeRepeats_running _).trans (State.countWatch_running _))
  rw [after_switch, State.switchPeriod_steep]
  rfl

/-- Settles O26. -/
theorem periodSwitchesAtItsCount : Obligations.PeriodSwitchesAtItsCount := by
  refine ⟨fun s below _ => ?_, fun s h v lit => ⟨fun ahead => ?_, fun behind => ?_⟩⟩
  · have counted : s.steep.opened.count = s.steep.count + 1 := Nat.mod_eq_of_lt below
    rw [State.openSteep_steep]
    refine ⟨?_, ?_, fun reached => ?_, fun before => ?_⟩
    · split <;> exact counted
    · split <;> rfl
    · rw [if_neg (by omega)]
      exact ⟨rfl, rfl⟩
    · rw [if_pos (by omega)]
      exact ⟨rfl, rfl⟩
  · simp [exec, execSteepSwitchAtWrite, lit, State.now, Nat.not_le.mpr ahead]
  · simp [exec, execSteepSwitchAtWrite, lit, State.now, behind, State.regAccess, Rec.regAccess]

/-- Settles O27. -/
theorem phaseReadLatchesTheCount : Obligations.PhaseReadLatchesTheCount := by
  refine ⟨fun s lit => ?_, fun s h lit half => ?_, fun s h c age lit latched => ?_, fun s h lit free => ?_, fun s => ?_,
    fun s c age latched old => ?_⟩
  · simp [exec, execSteepPhaseRead, lit, halfOf, State.now]
  · cases h with
    | full => exact absurd rfl half
    | low => simp [exec, execSteepPhaseRead, lit]
    | high => simp [exec, execSteepPhaseRead, lit]
  · simp [exec, execSteepCountRead, lit, latched, State.now]
  · simp [exec, execSteepCountRead, lit, free, State.now]
  · rw [State.openSteep_steep]
    split <;> rfl
  · simp [exec, execSteepLatchRelease, latched, Nat.not_lt.mpr old]

/-! ### Timing words (R45, R49, R51, R53) -/

/-- What a timing word leaves in the steep beside the steering: the count, the holdover and what each link told. -/
def Steep.heard (t : Steep) : Nat × Bool × Nat × Tbl Nat LinkTime := (t.count, t.holdover, t.lastTiming, t.linkTimes)

@[simp] theorem State.retime_heard (s : State) : s.retime.steep.heard = s.steep.heard := by
  unfold State.retime
  dsimp only
  split
  · rfl
  · split <;> rfl

theorem State.retime_links (s : State) : s.retime.fabric.links = s.fabric.links := by
  unfold State.retime
  dsimp only
  split
  · rfl
  · split <;> rfl

theorem State.joinDomain_links (s : State) (link : Nat) (w : TimingWord) (n : Nat) : (s.joinDomain link w).link n = s.link n := by
  unfold State.joinDomain
  dsimp only
  repeat' split
  · rfl
  · exact State.raise_link ..
  · rfl
  · rfl
  · rfl

theorem State.setTraffic_link (s : State) (link : Nat) :
    ∃ traffic, (s.setTraffic link).link link = { s.link link with jobTraffic := traffic } := by
  unfold State.setTraffic
  dsimp only
  split
  · exact ⟨_, (link_of_running (State.raiseLimited_running ..) link).trans (State.link_setLink ..)⟩
  · exact ⟨_, State.link_setLink ..⟩

theorem State.checkLost_heard (s : State) : s.checkLost.steep.heard = s.steep.heard := by
  unfold State.checkLost
  dsimp only
  split
  · rfl
  · rw [steep_of_running (State.failTimed_running _), State.raise_steep]
    rfl

theorem State.checkLost_link (s : State) (n : Nat) : s.checkLost.link n = s.link n := by
  unfold State.checkLost
  dsimp only
  split
  · rfl
  · exact (link_of_running (State.failTimed_running _) n).trans (State.raise_link ..)

theorem Tbl.find_set_self {κ α : Type} [DecidableEq κ] (t : Tbl κ α) (k : κ) (v : α) : (t.set k v).find k = some v := by
  induction t with
  | nil => simp [Tbl.set, Tbl.find]
  | cons e rest ih =>
    obtain ⟨l, old⟩ := e
    by_cases same : l = k
    · simp [Tbl.set, Tbl.find, same]
    · simpa [Tbl.set, Tbl.find, same] using ih

/-- A timing word's entry is made, holdover ends, and its link keeps what it measured. -/
theorem State.timed_taken {s : State} {link : Nat} (w : TimingWord) (wired : link < 48) (lit : s.dark = false)
    (trained : (s.link link).state = .trained) :
    ∃ u e, exec (.timing link w) s = .next u ∧ (u.link link).oneWayNs = w.delayNs ∧ (u.link link).rttNs = 2 * w.delayNs ∧
      (u.link link).periodOk = (w.periodQ == s.steep.currentQ) ∧ u.steep.holdover = false ∧ u.steep.lastTiming = u.steep.count ∧
      u.steep.linkTimes.find link = some e ∧ e.hops = w.hops ∧ e.offsetNs = w.offsetNs ∧ e.at_ = u.steep.count := by
  have taken : ¬ (decide (48 ≤ link) || s.dark || (s.link link).state != .trained) = true := by simp [lit, trained, wired]
  unfold exec
  dsimp only
  unfold execTiming
  rw [if_neg taken]
  extract_lets same s1 s2 s3 st t s4 s5 s6 s7
  obtain ⟨traffic, traffic_eq⟩ := State.setTraffic_link (s.updLink link fun l =>
    { l with oneWayNs := w.delayNs, rttNs := 2 * w.delayNs, periodOk := same }) link
  have link1 : s1.link link = { s.link link with
      oneWayNs := w.delayNs, rttNs := 2 * w.delayNs, periodOk := same, jobTraffic := traffic } := by
    rw [State.link_updLink] at traffic_eq
    exact traffic_eq
  have link2 : s2.link link = s1.link link := by
    unfold s2
    split
    · rfl
    · exact State.raise_link ..
  have link4 : s4.link link = s3.link link := congrArg (fun l : Tbl Nat Link => l.get {} link) (State.retime_links _)
  have heard4 : s4.steep.heard = (st.count, false, st.count, st.linkTimes.set link t) := State.retime_heard _
  have link7 : s7.link link = s4.link link := by
    unfold s7 s6
    repeat' split
    all_goals rfl
  have heard7 : s7.steep.heard = s4.steep.heard := by
    unfold s7 s6
    repeat' split
    all_goals rfl
  have link_end : s7.checkLost.link link = s1.link link := by
    rw [State.checkLost_link, link7, link4, ← link2]
    exact State.joinDomain_links ..
  have heard_end : s7.checkLost.steep.heard = (st.count, false, st.count, st.linkTimes.set link t) := by
    rw [State.checkLost_heard, heard7, heard4]
  obtain ⟨count, holdover, last, times⟩ : s7.checkLost.steep.count = st.count ∧ s7.checkLost.steep.holdover = false ∧
      s7.checkLost.steep.lastTiming = st.count ∧ s7.checkLost.steep.linkTimes = st.linkTimes.set link t := by
    simpa only [Steep.heard, Prod.mk.injEq] using heard_end
  refine ⟨s7.checkLost, t, rfl, ?_, ?_, ?_, holdover, last.trans count.symm, ?_, rfl, rfl, count.symm⟩
  · rw [link_end, link1]
  · rw [link_end, link1]
  · rw [link_end, link1]
  · rw [times]
    exact Tbl.find_set_self ..

/-- Settles O28. -/
theorem timingWordsSteerAndTimeConditions : Obligations.TimingWordsSteerAndTimeConditions := by
  refine ⟨fun s link w wired lit trained => State.timed_taken w wired lit trained, fun s stands calm => ?_, fun s free silent => ?_⟩
  · simp [exec, execTimeLostClear, stands, Nat.not_lt.mpr calm]
  · simp [exec, execTimeHoldover, free, State.now, Nat.not_lt.mpr silent, Rec.timeHoldover]

/-! ### Audits (R64, R74) -/

/-- A loop whose every turn leaves the state leaves it. -/
theorem forL_eq_self {α σ : Type} (l : List α) (f : α → σ → σ) (s : σ) (still : ∀ a ∈ l, f a s = s) : forL l f s = s := by
  induction l with
  | nil => rfl
  | cons a l ih =>
    have turn : f a s = s := still a List.mem_cons_self
    have rest : forL l f s = s := ih fun b held => still b (List.mem_cons_of_mem a held)
    simpa only [forL, List.foldl_cons, turn] using rest

section
variable {s : State} {n : AuditSnap}

theorem State.auditCredit_of_balanced (own : n.creditDiffs = []) (cross : ∀ b, s.steep.snapBefore = some b → s.crossDiffs b = []) :
    s.auditCredit n = s := by
  unfold State.auditCredit
  cases before : s.steep.snapBefore with
  | none => simp [own, forL, State.creditFault]
  | some b => simp [own, cross b before, forL, State.creditFault]

theorem State.auditPools_of_balanced (cells : ∀ p, p < 2 →
    (n.cells.getD p {}).free + (n.cells.getD p {}).queued + (n.cells.getD p {}).opened + (n.cells.getD p {}).held = 262144) :
    s.auditPools n = s :=
  forL_eq_self _ _ s fun p held => if_pos (cells p (List.mem_range.mp held))

theorem State.auditTokens_of_balanced (tokens : ∀ t ∈ n.tokens, t.2.1 = t.2.2.1 + t.2.2.2) : s.auditTokens n = s :=
  forL_eq_self _ _ s fun t held => if_pos (by
    have := tokens t held
    omega)

theorem State.auditMailboxes_of_balanced (mailboxes : ∀ m ∈ n.mailboxes, m.2.1 + m.2.2.1 + m.2.2.2 = 16) : s.auditMailboxes n = s :=
  forL_eq_self _ _ s fun m held => if_pos (mailboxes m held)

theorem State.auditEnergy_of_balanced (energy : n.charged.sum + n.idle = n.metered) : s.auditEnergy n = (s, n) :=
  if_pos (by rw [← List.sum_eq_foldl, energy])

theorem State.auditFar_of_balanced (far : ∀ f ∈ n.far, f.2.1 + f.2.2 = 1519104) : s.auditFar n = s :=
  forL_eq_self _ _ s fun f held => if_pos (far f held)

end

/-- Settles O30: each equation that holds leaves the state, so that only the snapshot's closing is left. -/
theorem balancedAuditFindsNothing : Obligations.BalancedAuditFindsNothing := by
  refine ⟨fun s n open_ own cross cells tokens mailboxes energy far => ?_, fun s n open_ fresh => ?_⟩
  · simp [exec, execAuditComplete, open_, State.auditCredit_of_balanced own cross, State.auditPools_of_balanced cells,
      State.auditTokens_of_balanced tokens, State.auditMailboxes_of_balanced mailboxes, State.auditEnergy_of_balanced energy,
      State.auditFar_of_balanced far]
  · simp [exec, execDeadlineAudit, open_, fresh, Rec.deadlineAudit]

end Sys2Proof.Machine
end

section
/-! SUPPORT. Proofs/Reports.lean: what a record and its event leave; the state right after reset, and samples of the meter. -/
namespace Sys2Proof.Machine

/-! ### What a report leaves (R663, R668, R676, R843) -/

/-- What a record and its event leave: everything but the record store, the host's alerts and vectors, the contexts' held events, what
goes out, the counters of memory errors, and the record and event queues of pool 0. -/
def State.beside (s : State) : State × (Fin 0x180 → Queue) :=
  ({ s with pools := [], ctxs := [], faults := {}, host := {}, out := [], mem := { s.mem with ecc := [], injArm := false } }, fun n => s.queue 0 n)

@[simp] theorem beside_mk (s : State) (ctxs faults host out) :
    State.beside { s with ctxs := ctxs, faults := faults, host := host, out := out } = s.beside := rfl

@[simp] theorem State.setCtx_beside (s : State) (x : Nat) (c : Ctx) : (s.setCtx x c).beside = s.beside := rfl

/-- A queue of pool 0 from 0x180 on is no mailbox's. -/
theorem State.setPool_beside (s : State) {p : Pool} (same : ∀ n, n < 0x180 → p.queue n = s.queue 0 n) : (s.setPool 0 p).beside = s.beside := by
  refine Prod.ext rfl (funext fun n => ?_)
  change (s.setPool 0 p).queue 0 n = s.queue 0 n
  rw [State.queue, State.pool_setPool, same n n.isLt]

@[simp] theorem State.msix_beside (s : State) (v : Nat) : (s.msix v).beside = s.beside := by
  unfold State.msix
  dsimp only
  repeat' split
  all_goals rfl

@[simp] theorem State.notify_beside (s : State) (sink : Sink) (w : W64) : (s.notify sink w).beside = s.beside := by
  cases sink with
  | none => rfl
  | kettle => rfl
  | engine n => rfl
  | msix v => exact State.msix_beside s v

/-- A put's state: the cells taken, the packet linked, the notice sent (R337, R346, R843). -/
theorem State.put_eq_some_iff {s t : State} {pool qid ty : Nat} {ctx : Option Nat} {ws : List W64} :
    s.put pool qid ctx ty ws = some t ↔
      ((s.queue pool qid).enabled = true ∧ (s.queue pool qid).fence = none ∧ (s.pool pool).mayTake qid (cellsFor ws.length) = true ∧
        0 < ws.length) ∧
      (s.setPool pool (((s.pool pool).take ((s.pool pool).pick pool (cellsFor ws.length))).setQueue qid
        ((s.queue pool qid).link ctx ty ws ((s.pool pool).pick pool (cellsFor ws.length))))).notify (s.queue pool qid).sink
        (noticeWord pool qid (s.queue pool qid).seqNext ws.length) = t := by
  unfold State.put
  simp only [State.queue, Option.ite_none_right_eq_some, Bool.and_eq_true, Option.isNone_iff_eq_none, decide_eq_true_eq,
    Option.some.injEq, and_assoc]

theorem State.put_beside {s t : State} {qid ty : Nat} {ctx : Option Nat} {ws : List W64} (apart : 0x180 ≤ qid)
    (put : s.put 0 qid ctx ty ws = some t) : t.beside = s.beside := by
  obtain ⟨-, rfl⟩ := State.put_eq_some_iff.mp put
  rw [State.notify_beside]
  exact s.setPool_beside fun n below => Pool.queue_setQueue_ne _ _ (by omega)

theorem Pool.purge_queue_ne (p : Pool) {qid n : Nat} (seq : Nat) (other : qid ≠ n) : (p.purge qid seq).queue n = p.queue n := by
  unfold Pool.purge
  dsimp only
  split
  · rfl
  · exact Pool.queue_setQueue_ne _ _ other

@[simp] theorem roomLoop_beside (fuel : Nat) (fa : Bool) (need : Nat) (s : State) : (roomLoop fuel fa need s).beside = s.beside := by
  induction fuel generalizing s with
  | zero => rfl
  | succ fuel ih =>
    dsimp only [roomLoop]
    split
    · rfl
    · split
      · rfl
      · rw [ih]
        exact s.setPool_beside fun n below => Pool.purge_queue_ne _ _ (by omega)

@[simp] theorem State.writeRecord_beside (s : State) (r : RecSpec) : (s.writeRecord r).1.beside = s.beside := by
  unfold State.writeRecord
  extract_lets ws f hops f1 host s1 before s2 q sink f2 m s3 entry t3 f3 s4 s5 log t5 f5
  have h2 : s2.beside = s.beside := roomLoop_beside ..
  have h3 : s3.1.beside = s.beside := by
    unfold s3
    split
    · exact h2
    · next put =>
      rw [← h2, ← State.put_beside (Nat.le_refl _) put]
      dsimp only
      split
      · exact State.msix_beside ..
      · rfl
  have h4 : s4.1.beside = s.beside := h3
  split
  · change (if s4.1.host.pldmEvents then _ else _ : State).beside = _
    split <;> exact h4
  · exact h4

@[simp] theorem State.event_beside (s : State) (x : Nat) (e : Event) : (s.event x e).beside = s.beside := by
  dsimp only [State.event]
  split
  · next put =>
    split at put
    · exact State.put_beside (by omega) put
    · cases put
  · split <;> rfl

@[simp] theorem State.enter_beside (s : State) (r : RecSpec) : (s.enter r).beside = s.beside := by
  unfold State.enter
  extract_lets path dup f w s1 f1 s2
  have h2 : s2.beside = s.beside := by
    unfold s2
    split
    · exact State.writeRecord_beside ..
    · exact State.writeRecord_beside ..
  split
  · rfl
  · split
    · split
      · exact h2
      · rw [State.event_beside, h2]
    · exact h2

@[simp] theorem State.wroteKettle_beside (s : State) : s.wroteKettle.beside = s.beside := by
  unfold State.wroteKettle
  dsimp only
  repeat' split
  · rfl
  · rfl
  · rfl
  · exact State.enter_beside ..

@[simp] theorem State.raise_beside (s : State) (r : RecSpec) : (s.raise r).beside = s.beside := by
  simp [State.raise]

section
variable {s t : State} (same : t.beside = s.beside)
include same

theorem space_of_beside : t.mem.space = s.mem.space := congrArg (fun b => b.1.mem.space) same
theorem mailbox_of_beside (n : Nat) : t.mailbox n = s.mailbox n := congrArg (fun b => b.1.mailbox n) same
theorem fans_of_beside : t.fans = s.fans := congrArg (fun b => b.1.fans) same
theorem queue_of_beside {n : Nat} (low : n < 0x180) : t.queue 0 n = s.queue 0 n := congrArg (fun b => b.2 ⟨n, low⟩) same

end

@[simp] theorem State.raise_space (s : State) (r : RecSpec) : (s.raise r).mem.space = s.mem.space := space_of_beside (s.raise_beside r)

/-! ### Right after reset -/

/-- Settles O6: every part has its default. -/
theorem resetStateMeetsTheInvariants : Obligations.ResetStateMeetsTheInvariants := by
  refine ⟨rfl, rfl, by simp [Steep.legal, periodLegal, State.reset], rfl, rfl, rfl,
    fun m => ⟨rfl, rfl, rfl⟩, fun x => ⟨rfl, rfl⟩, fun k => ⟨fun r i => ?_, fun r => ?_,
    fun r other => ?_, rfl, rfl, rfl⟩⟩
  · rfl
  · exact ite_self _
  · exact if_neg other

/-! ### Samples of the meter (R77, R799, R800) -/

/-- The charges of a sample, entered context by context: a context that is not listed keeps its charge. -/
theorem charges_get (own : Nat → Nat) (l : List Nat) (distinct : l.Nodup) (t : Tbl Nat Nat) (x : Nat) :
    ((l.map fun y => (y, own y)).foldl (fun t (c : Nat × Nat) => if c.2 = 0 then t else t.set c.1 (t.get 0 c.1 + c.2)) t).get 0 x =
      t.get 0 x + if x ∈ l then own x else 0 := by
  induction l generalizing t with
  | nil => rfl
  | cons y l ih =>
    obtain ⟨fresh, distinct⟩ := List.nodup_cons.mp distinct
    rw [List.map_cons, List.foldl_cons, ih distinct]
    by_cases same : x = y
    · subst same
      by_cases none : own x = 0
      · simp [none, fresh]
      · simp [none, fresh]
    · have kept : (if own y = 0 then t else t.set y (t.get 0 y + own y)).get 0 x = t.get 0 x := by
        split
        · rfl
        · exact Tbl.get_set_ne _ _ _ (Ne.symm same)
      simp [kept, same]

/-- Settles O36. -/
theorem samplesMeterEnergyExactly : Obligations.SamplesMeterEnergyExactly := by
  refine ⟨fun s p on => ?_, fun s p off => by simp [exec, execPowerSample, off]⟩
  intro raw e own
  unfold exec
  dsimp only
  unfold execPowerSample
  rw [if_neg (by simp [on])]
  extract_lets w charges sum st steep marginG marginL samples stackTemps f q metered
  have sum_eq : sum = ((List.range 8).map own).sum := by
    simp only [sum, charges, List.foldl_map, List.sum_eq_foldl]
    rfl
  obtain ⟨u, u_eq⟩ : ∃ u, u = if 3600 < w then metered.raise { code := Rec.powerPeak, cls := .ce } else metered := ⟨_, rfl⟩
  obtain ⟨steep_eq, power_eq, space_eq⟩ : u.steep = steep ∧ u.power = metered.power ∧ u.mem.space = s.mem.space := by
    rw [u_eq]
    split
    · exact ⟨State.raise_steep .., State.raise_power .., State.raise_space ..⟩
    · exact ⟨rfl, rfl, rfl⟩
  have regions (g : Nat) : u.region g = s.region g := by
    rw [State.region, power_eq]
    rfl
  refine ⟨u, by rw [u_eq], ?_⟩
  rw [steep_eq, power_eq, space_eq]
  refine ⟨rfl, rfl, Nat.div_add_mod raw 100000, fun x below => ?_, ?_, rfl, rfl, rfl, rfl, ?_, regions, rfl, rfl, fun low => ?_⟩
  · exact (charges_get own (List.range 8) List.nodup_range _ x).trans (by simp [below, st])
  · rw [← sum_eq]
  · simp [metered, w]
  · rw [u_eq, if_neg (Nat.not_lt.mpr low)]
    exact ⟨rfl, rfl, rfl, rfl, rfl⟩

end Sys2Proof.Machine
end

section
/-! SUPPORT. Proofs/Mailboxes.lean: doorbells, completions, resets and flushes of a mailbox, and the books that its tokens keep. -/
namespace Sys2Proof.Machine

/-! ### Tables -/

theorem Tbl.set_set_self {κ α : Type} [DecidableEq κ] (t : Tbl κ α) (k : κ) (v w : α) : (t.set k v).set k w = t.set k w := by
  induction t with
  | nil => simp [Tbl.set]
  | cons e rest ih =>
    obtain ⟨l, old⟩ := e
    by_cases same : l = k
    · simp [Tbl.set, same]
    · simp [Tbl.set, same, ih]

/-- A sum over a table whose listed entry is replaced by one that counts the same. -/
theorem Tbl.foldl_set {κ α β : Type} [DecidableEq κ] (t : Tbl κ α) (k : κ) (d v : α) (f : β → κ × α → β) (listed : t.get d k ≠ d)
    (same : ∀ n, f n (k, v) = f n (k, t.get d k)) (n : β) : (t.set k v).foldl f n = t.foldl f n := by
  induction t generalizing n with
  | nil => exact absurd rfl listed
  | cons e rest ih =>
    obtain ⟨l, old⟩ := e
    by_cases here : l = k
    · subst here
      have := same n
      simp only [Tbl.get, if_pos] at this
      simp [Tbl.set, this]
    · simp only [Tbl.get, here, if_false] at listed same
      simpa [Tbl.set, here] using ih listed same (f n (l, old))

/-! ### Notices, puts and takes (R337, R346, R350, R843) -/

section
variable (s : State) (sink : Sink) (w : W64)

/-- A notice writes the host's vectors and what goes out only. -/
theorem State.notify_eq : ∃ host out, s.notify sink w = { s with host := host, out := out } := by
  cases sink with
  | none => exact ⟨s.host, s.out, rfl⟩
  | kettle => exact ⟨s.host, _, rfl⟩
  | engine n => exact ⟨s.host, _, rfl⟩
  | msix v =>
    unfold State.notify State.msix
    dsimp only
    split
    · exact ⟨_, s.out, rfl⟩
    · split
      · split
        · exact ⟨s.host, s.out, rfl⟩
        · exact ⟨_, s.out, rfl⟩
      · exact ⟨s.host, _, rfl⟩

end

/-- What a put leaves: all but pool 0, the host's vectors and what goes out. -/
theorem State.put_eq {s t : State} {qid ty : Nat} {ctx : Option Nat} {ws : List W64} (put : s.put 0 qid ctx ty ws = some t) :
    ∃ host out, t = { s.setPool 0 (((s.pool 0).take ((s.pool 0).pick 0 (cellsFor ws.length))).setQueue qid
      ((s.queue 0 qid).link ctx ty ws ((s.pool 0).pick 0 (cellsFor ws.length)))) with host := host, out := out } := by
  obtain ⟨-, rfl⟩ := State.put_eq_some_iff.mp put
  exact State.notify_eq ..

theorem State.put_queue {s t : State} {qid ty : Nat} {ctx : Option Nat} {ws : List W64} (put : s.put 0 qid ctx ty ws = some t) :
    t.queue 0 qid = (s.queue 0 qid).link ctx ty ws ((s.pool 0).pick 0 (cellsFor ws.length)) := by
  obtain ⟨host, out, rfl⟩ := State.put_eq put
  change ((s.setPool 0 _).pool 0).queue qid = _
  rw [State.pool_setPool, Pool.queue_setQueue]

theorem State.put_queue_ne {s t : State} {qid ty n : Nat} {ctx : Option Nat} {ws : List W64} (put : s.put 0 qid ctx ty ws = some t)
    (other : qid ≠ n) : t.queue 0 n = s.queue 0 n := by
  obtain ⟨host, out, rfl⟩ := State.put_eq put
  change ((s.setPool 0 _).pool 0).queue n = _
  rw [State.pool_setPool, Pool.queue_setQueue_ne _ _ other]
  rfl

/-- The request or completion of a mailbox fits one cell. -/
theorem cellsFor_eq_one {n : Nat} (least : 1 ≤ n) (most : n ≤ 31) : cellsFor n = 1 := by
  unfold cellsFor cdiv
  omega

/-- A take of the oldest packet writes pools only. -/
theorem State.takeOldest_eq (s : State) (pool qid : Nat) : ∃ pools, s.takeOldest pool qid = { s with pools := pools } := by
  unfold State.takeOldest
  split
  · exact ⟨s.pools, rfl⟩
  · exact ⟨_, rfl⟩

@[simp] theorem State.takeOldest_mailbox (s : State) (pool qid n : Nat) : (s.takeOldest pool qid).mailbox n = s.mailbox n := by
  obtain ⟨pools, eq⟩ := s.takeOldest_eq pool qid
  rw [eq]
  rfl

theorem drop_length_takeWhile {α : Type} (p : α → Bool) (l : List α) : l.drop (l.takeWhile p).length = l.dropWhile p := by
  conv_lhs => arg 2; rw [← List.takeWhile_append_dropWhile (p := p) (l := l)]
  exact List.drop_left

/-- The packets that a consumer's taking of one leaves: those from the first that is not done. -/
theorem Pool.consume_packets (p : Pool) (qid seq : Nat) :
    ((p.consume qid seq).1.queue qid).packets =
      ((p.queue qid).packets.map fun k => if k.seq = seq then { k with done := true } else k).dropWhile fun k => k.done := by
  unfold Pool.consume Pool.release
  dsimp only
  rw [Pool.queue_setQueue]
  change (((p.setQueue qid _).setQueue qid _).queue qid).packets = _
  rw [Pool.queue_setQueue]
  exact drop_length_takeWhile ..

theorem Pool.consume_queue_ne (p : Pool) {qid n : Nat} (seq : Nat) (other : qid ≠ n) : (p.consume qid seq).1.queue n = p.queue n := by
  unfold Pool.consume Pool.release
  dsimp only
  exact (Pool.queue_setQueue_ne _ _ other).trans (Pool.queue_setQueue_ne _ _ other)

theorem State.takeOldest_queue_ne (s : State) {qid n : Nat} (other : qid ≠ n) : (s.takeOldest 0 qid).queue 0 n = s.queue 0 n := by
  unfold State.takeOldest
  split
  · rfl
  · rw [State.queue, State.pool_setPool, Pool.consume_queue_ne _ _ other]
    rfl

/-- A take shortens the queue by one packet at least. -/
theorem State.takeOldest_length {s : State} {qid : Nat} (held : (s.queue 0 qid).packets ≠ []) :
    ((s.takeOldest 0 qid).queue 0 qid).packets.length + 1 ≤ (s.queue 0 qid).packets.length := by
  unfold State.takeOldest
  split
  · next none => exact absurd none held
  · next k rest eq =>
    rw [State.queue, State.pool_setPool, Pool.consume_packets]
    change (List.dropWhile _ ((s.queue 0 qid).packets.map _)).length + 1 ≤ _
    rw [eq, List.map_cons, List.dropWhile_cons, if_pos (by simp), List.length_cons]
    have := (List.dropWhile_sublist (fun k : Packet => k.done) (l := rest.map fun q => if q.seq = k.seq then { q with done := true } else q)).length_le
    simpa using this

/-! ### The books of a mailbox (R370, R376) -/

/-- The requests that stand in a mailbox's queue. -/
def State.requests (s : State) (mb : Nat) : Nat := (s.queue 0 (0x100 + 2 * mb)).packets.length

/-- The tokens add up, and what is pending covers `k` requests, the completions that wait and those of a reset. -/
def Mailbox.covers (m : Mailbox) (k : Nat) : Prop := m.conserved ∧ k + m.due.length + m.resetTags.length ≤ m.pending

/-- Every mailbox covers the requests that stand in its queue, mailbox `mb` besides `k` that have left it. -/
def State.owes (s : State) (mb k : Nat) : Prop := ∀ n, n < 32 → (s.mailbox n).covers (s.requests n + if n = mb then k else 0)

theorem State.owes_zero_iff (s : State) (mb : Nat) : s.owes mb 0 ↔ ∀ n, n < 32 → (s.mailbox n).conserved ∧ s.backed n := by
  simp [State.owes, Mailbox.covers, State.backed, State.requests]

section
variable {s t : State} {mb : Nat}

/-- What touches one mailbox and its requests only keeps the books when it keeps those of that mailbox. -/
theorem State.owes_of_own {j k : Nat} (books : s.owes mb j) (others : ∀ n, n ≠ mb → t.mailbox n = s.mailbox n)
    (queues : ∀ n, n ≠ mb → t.requests n = s.requests n)
    (own : mb < 32 → (s.mailbox mb).covers (s.requests mb + j) → (t.mailbox mb).covers (t.requests mb + k)) : t.owes mb k := by
  intro n below
  by_cases here : n = mb
  · subst here
    have := own below (by simpa using books n below)
    simpa using this
  · have := books n below
    simp only [here, if_false] at this ⊢
    rw [others n here, queues n here]
    exact this

theorem State.owes_of_beside {k : Nat} (same : t.beside = s.beside) (books : s.owes mb k) : t.owes mb k := by
  intro n below
  have requests : t.requests n = s.requests n := by
    rw [State.requests, queue_of_beside same (by omega)]
    rfl
  rw [mailbox_of_beside same, requests]
  exact books n below

theorem State.setMailbox_requests (s : State) (mb n : Nat) (m : Mailbox) : (s.setMailbox mb m).requests n = s.requests n := rfl

theorem State.setMailbox_owes {j k : Nat} {m : Mailbox} (books : s.owes mb j)
    (own : (s.mailbox mb).covers (s.requests mb + j) → m.covers (s.requests mb + k)) : (s.setMailbox mb m).owes mb k := by
  refine State.owes_of_own books (fun n other => State.mailbox_setMailbox_ne _ _ (Ne.symm other)) (fun n _ => rfl) fun _ => ?_
  rw [State.mailbox_setMailbox]
  exact own

/-- A completion that is written counts as unread and leaves the requests. -/
theorem State.putCompletion_eq {ws : List W64} (put : s.putCompletion mb ws = some t) :
    t.mailbox mb = { s.mailbox mb with unread := (s.mailbox mb).unread + 1 } ∧ (∀ n, n ≠ mb → t.mailbox n = s.mailbox n) ∧
      ∀ n, t.requests n = s.requests n := by
  obtain ⟨u, linked, rfl⟩ := Option.map_eq_some_iff.mp put
  have mailboxes (n : Nat) : u.mailbox n = s.mailbox n := by
    obtain ⟨host, out, rfl⟩ := State.put_eq linked
    rfl
  refine ⟨?_, fun n other => ?_, fun n => ?_⟩
  · rw [State.mailbox_setMailbox, mailboxes]
  · rw [State.mailbox_setMailbox_ne _ _ (Ne.symm other), mailboxes]
  · change u.requests n = _
    rw [State.requests, State.put_queue_ne linked (by omega)]
    rfl

theorem State.putCompletion_owes {ws : List W64} {j k : Nat} {m : Mailbox} (books : s.owes mb j)
    (put : (s.setMailbox mb m).putCompletion mb ws = some t)
    (own : (s.mailbox mb).covers (s.requests mb + j) → Mailbox.covers { m with unread := m.unread + 1 } (s.requests mb + k)) : t.owes mb k := by
  obtain ⟨written, others, requests⟩ := State.putCompletion_eq put
  refine State.owes_of_own books (fun n other => ?_) (fun n _ => requests n) fun _ covered => ?_
  · rw [others n other, State.mailbox_setMailbox_ne _ _ (Ne.symm other)]
  · rw [written, State.mailbox_setMailbox, requests]
    exact own covered

/-- A request that has left its queue is completed, or its completion waits. -/
theorem State.complete_owes {k : Nat} (books : s.owes mb (k + 1)) (code tag status : Nat) (reply : List W64) :
    (s.complete mb code tag status reply).owes mb k := by
  unfold State.complete State.settleRequest
  extract_lets m wait
  have waits : wait.owes mb k := State.setMailbox_owes books fun ⟨adds, covers⟩ => ⟨adds, by
    simp only [m, List.length_append, List.length_singleton]
    omega⟩
  split
  · exact waits
  · cases put : (s.setMailbox mb { m with pending := m.pending - 1 }).putCompletion mb (s.completionWords code tag status reply) with
    | none => exact waits
    | some t =>
      refine State.putCompletion_owes books put fun ⟨adds, covers⟩ => ?_
      simp only [Mailbox.covers, Mailbox.conserved, m] at adds ⊢
      omega

theorem heldLoop_owes {k : Nat} (fuel : Nat) (books : s.owes mb k) : (heldLoop fuel mb s).owes mb k := by
  induction fuel generalizing s with
  | zero => exact books
  | succ fuel ih =>
    dsimp only [heldLoop]
    split
    · exact books
    · split
      · exact books
      · next free =>
        split
        · next put => exact ih (State.putCompletion_owes books put fun ⟨adds, covers⟩ => by
            simp only [Mailbox.covers, Mailbox.conserved] at adds ⊢
            omega)
        · exact books

theorem dueLoop_owes {k : Nat} (fuel : Nat) (books : s.owes mb k) : (dueLoop fuel mb s).owes mb k := by
  induction fuel generalizing s with
  | zero => exact books
  | succ fuel ih =>
    dsimp only [dueLoop]
    split
    · exact books
    · next due =>
      split
      · next put => exact ih (State.putCompletion_owes books put fun ⟨adds, covers⟩ => by
          simp only [Mailbox.covers, Mailbox.conserved, due, List.length_cons] at adds covers ⊢
          omega)
      · exact books

theorem State.flushMailbox_owes (books : s.owes mb 0) : (s.flushMailbox mb).owes mb 0 := by
  unfold State.flushMailbox
  extract_lets m s1 s2 m2
  have opened : (s.setMailbox mb { m with resetTags := [] }).owes mb m.resetTags.length :=
    State.setMailbox_owes books fun ⟨adds, covers⟩ => ⟨adds, by
      simp only [m, List.length_nil]
      omega⟩
  have completed (tags : List (Nat × Nat)) (u : State) (owed : u.owes mb tags.length) :
      (forL tags (fun r s => s.complete mb r.1 r.2 0x0017 []) u).owes mb 0 := by
    induction tags generalizing u with
    | nil => exact owed
    | cons r tags ih => exact ih _ (State.complete_owes owed _ _ _ _)
  have flushed : s2.owes mb 0 := heldLoop_owes _ (dueLoop_owes _ (completed _ _ opened))
  split
  · exact State.setMailbox_owes flushed id
  · exact flushed

theorem undefinedLoop_owes (fuel : Nat) (books : s.owes mb 0) : (undefinedLoop fuel mb s).owes mb 0 := by
  induction fuel generalizing s with
  | zero => exact books
  | succ fuel ih =>
    dsimp only [undefinedLoop]
    split
    · exact books
    · split
      · exact books
      · next held =>
        split
        · exact books
        · refine ih (State.complete_owes (k := 0) ?_ _ _ _ _)
          refine State.owes_of_own books (fun n _ => State.takeOldest_mailbox ..) (fun n other => ?_) fun _ covered => ?_
          · rw [State.requests, State.takeOldest_queue_ne _ (by omega)]
            rfl
          · have shorter : (s.takeOldest 0 (0x100 + 2 * mb)).requests mb + 1 ≤ s.requests mb :=
              State.takeOldest_length (by simp [held])
            obtain ⟨adds, covers⟩ := covered
            rw [State.takeOldest_mailbox]
            exact ⟨adds, by omega⟩

/-- A doorbell takes one token for the request that it commits, or none. -/
theorem State.doorbell_owes (books : s.owes mb 0) (ws : List W64) : (s.doorbell mb ws).1.owes mb 0 := by
  unfold State.doorbell
  extract_lets m refuse
  have refused : refuse.1.owes mb 0 := State.owes_of_beside (State.raise_beside ..) (State.setMailbox_owes books id)
  split
  · exact refused
  · next open_ =>
    split
    · exact refused
    · next t put =>
      have token : m.free ≠ 0 := by
        intro none
        apply open_
        have : s.shownFree mb = 0 := by
          unfold State.shownFree
          split
          · exact none
          · rfl
        simp [this]
      have same (n : Nat) : t.mailbox n = s.mailbox n := by
        obtain ⟨host, out, rfl⟩ := State.put_eq put
        rfl
      refine State.owes_of_own books (fun n other => ?_) (fun n other => ?_) fun _ covered => ?_
      · rw [State.mailbox_setMailbox_ne _ _ (Ne.symm other), same]
      · rw [State.setMailbox_requests, State.requests, State.put_queue_ne put (by omega)]
        rfl
      · have longer : t.requests mb = s.requests mb + 1 := by
          rw [State.requests, State.put_queue put]
          simp [Queue.link, State.requests]
        obtain ⟨adds, covers⟩ := covered
        rw [State.mailbox_setMailbox, State.setMailbox_requests, longer]
        have adds : m.free + m.pending + m.unread = 16 := adds
        have covers : s.requests mb + 0 + m.due.length + m.resetTags.length ≤ m.pending := covers
        exact ⟨by simp only [Mailbox.conserved]; omega, by dsimp only; omega⟩

end

/-- A guarded register leaves the state, records the access, or acts. -/
theorem State.guardMailbox_owes {s : State} (fn mb off : Nat) {act : State → State} (books : s.owes mb 0)
    (acts : mb < 32 → (act s).owes mb 0) : (s.guardMailbox fn mb off act).owes mb 0 := by
  have recorded : (s.regAccess off).owes mb 0 := State.owes_of_beside (State.raise_beside ..) books
  unfold State.guardMailbox
  split
  · exact books
  · split
    · exact recorded
    · split
      · exact recorded
      · split
        · exact books
        · exact acts (by omega)

theorem execMbDoorbell_owes {s t : State} {fn mb : Nat} {v : W64} (books : s.owes mb 0) (next : exec (.mbDoorbell fn mb v) s = .next t) :
    t.owes mb 0 := by
  injection next with next
  rw [← next]
  exact State.guardMailbox_owes _ _ _ books fun _ => undefinedLoop_owes _ (State.doorbell_owes books _)

theorem execMbCompAck_owes {s t : State} {fn mb : Nat} {v : W64} (books : s.owes mb 0) (next : exec (.mbCompAck fn mb v) s = .next t) :
    t.owes mb 0 := by
  injection next with next
  rw [← next]
  refine State.guardMailbox_owes _ _ _ books fun _ => ?_
  dsimp only
  split
  · exact books
  · next unread =>
    refine State.flushMailbox_owes (State.setMailbox_owes (j := 0) ?_ fun ⟨adds, covers⟩ => ?_)
    · refine State.owes_of_own books (fun n _ => State.takeOldest_mailbox ..) (fun n _ => ?_) fun _ covered => ?_
      · rw [State.requests, State.takeOldest_queue_ne _ (by omega)]
        rfl
      · rw [State.takeOldest_mailbox, State.requests, State.takeOldest_queue_ne _ (by omega)]
        exact covered
    · rw [State.takeOldest_mailbox] at adds covers
      have some_unread : (s.mailbox mb).unread ≠ 0 := by
        intro none
        exact unread (by simp [none])
      simp only [Mailbox.covers, Mailbox.conserved] at adds ⊢
      exact ⟨by omega, covers⟩

/-! ### Doorbells and completions that are taken (R371, R373, R375) -/

section
variable {s : State} {mb : Nat}

theorem State.guardMailbox_of_owner {fn : Nat} (lit : s.dark = false) (awake : s.host.d3hot = false) (below : mb < 32)
    (owned : s.owner mb = fn) (served : s.host.flr.contains fn = false) (off : Nat) (act : State → State) :
    s.guardMailbox fn mb off act = act s := by
  have served : fn ∉ s.host.flr := by simpa using served
  simp [State.guardMailbox, lit, awake, Nat.not_le.mpr below, owned, served]

theorem State.guardMailbox_of_other {fn : Nat} (lit : s.dark = false) (awake : s.host.d3hot = false) (below : mb < 32)
    (other : s.owner mb ≠ fn) (off : Nat) (act : State → State) : s.guardMailbox fn mb off act = s.regAccess off := by
  simp [State.guardMailbox, lit, awake, Nat.not_le.mpr below, other]

/-- What a doorbell that is taken leaves. -/
theorem State.doorbell_of_room {ws : List W64} (free : s.shownFree mb ≠ 0) (least : 1 ≤ ws.length) (most : ws.length ≤ 31)
    (opened : s.mailboxShut mb = false) (room : (s.pool 0).mayTake (0x100 + 2 * mb) 1 = true) :
    ∃ host out, s.doorbell mb ws =
      ({ (s.setPool 0 (((s.pool 0).take ((s.pool 0).pick 0 1)).setQueue (0x100 + 2 * mb)
          ((s.queue 0 (0x100 + 2 * mb)).link (some (mb / 4)) 1 ws ((s.pool 0).pick 0 1)))).setMailbox mb
          { s.mailbox mb with free := (s.mailbox mb).free - 1, pending := (s.mailbox mb).pending + 1 } with
        host := host, out := out }, true) := by
  have cells : cellsFor ws.length = 1 := cellsFor_eq_one least most
  have shut := opened
  simp only [State.mailboxShut, Bool.or_eq_false_iff, Option.isSome_eq_false_iff, Option.isNone_iff_eq_none, Bool.not_eq_false'] at shut
  obtain ⟨⟨-, fence⟩, enabled⟩ := shut
  have put := State.put_eq_some_iff (s := s) (pool := 0) (qid := 0x100 + 2 * mb) (ty := 1) (ctx := some (mb / 4)) (ws := ws) |>.mpr
    ⟨⟨enabled, fence, by rw [cells]; exact room, least⟩, rfl⟩
  obtain ⟨host, out, eq⟩ := State.put_eq put
  refine ⟨host, out, ?_⟩
  unfold State.doorbell
  rw [if_neg (by simp [free, opened, Nat.not_lt.mpr most, List.ne_nil_of_length_pos least]), put, eq, cells]
  rfl

/-- A doorbell without a token, without words, without a cell, or on a mailbox that is shut is refused. -/
theorem State.doorbell_refused {ws : List W64} (most : ws.length ≤ 31) (refused : s.shownFree mb = 0 ∨ ws.length = 0 ∨
    s.mailboxShut mb = true ∨ (s.pool 0).mayTake (0x100 + 2 * mb) 1 = false) :
    s.doorbell mb ws = ((s.setMailbox mb { s.mailbox mb with doorbellError := true }).raise {
      code := Rec.mailboxDoorbell, cls := .ce, a := BitVec.ofNat 64 mb }, false) := by
  unfold State.doorbell
  dsimp only
  split
  · rfl
  · next opened =>
    simp only [Bool.or_eq_true, decide_eq_true_eq, not_or, Bool.not_eq_true] at opened
    obtain ⟨⟨⟨free, least⟩, -⟩, shut⟩ := opened
    have noRoom : (s.pool 0).mayTake (0x100 + 2 * mb) (cellsFor ws.length) = false := by
      rw [cellsFor_eq_one (by omega) most]
      simpa [free, least, shut] using refused
    have none : s.put 0 (0x100 + 2 * mb) (some (mb / 4)) 0x01 ws = none := by
      refine Option.eq_none_iff_forall_ne_some.mpr fun t put => ?_
      obtain ⟨⟨-, -, room, -⟩, -⟩ := State.put_eq_some_iff.mp put
      simp [noRoom] at room
    rw [none]

/-- A request of a defined code, or one behind which the mailbox waits for other modules, is left to the kettle. -/
theorem undefinedLoop_of_keeps {k : Packet} {rest : List Packet} (oldest : (s.queue 0 (0x100 + 2 * mb)).packets = k :: rest)
    (keeps : s.keepsOldest mb k.words) (fuel : Nat) : undefinedLoop fuel mb s = s := by
  cases fuel with
  | zero => rfl
  | succ fuel =>
    dsimp only [undefinedLoop]
    obtain waits | defined := keeps
    · rw [if_pos waits]
    · rw [oldest]
      dsimp only
      rw [if_pos defined, ite_self]

theorem undefinedLoop_of_empty (empty : (s.queue 0 (0x100 + 2 * mb)).packets = []) (fuel : Nat) : undefinedLoop fuel mb s = s := by
  cases fuel with
  | zero => rfl
  | succ fuel =>
    dsimp only [undefinedLoop]
    rw [empty]
    exact ite_self _

/-- A completion that its queue takes. -/
theorem State.complete_of_room {reply : List W64} (few : reply.length ≤ 29) (due : (s.mailbox mb).due = [])
    (room : (s.pool 0).mayTake (0x101 + 2 * mb) 1 = true) (enabled : (s.queue 0 (0x101 + 2 * mb)).enabled = true)
    (fence : (s.queue 0 (0x101 + 2 * mb)).fence = none) (code tag status : Nat) :
    ∃ t, s.complete mb code tag status reply = t ∧
      t.mailbox mb = { s.mailbox mb with pending := (s.mailbox mb).pending - 1, unread := (s.mailbox mb).unread + 1 } ∧
      (t.queue 0 (0x101 + 2 * mb)).packets.map (fun k => k.words) =
        (s.queue 0 (0x101 + 2 * mb)).packets.map (fun k => k.words) ++ [s.completionWords code tag status reply] ∧
      t.queue 0 (0x100 + 2 * mb) = s.queue 0 (0x100 + 2 * mb) := by
  have length : (s.completionWords code tag status reply).length = reply.length + 2 := rfl
  have cells : cellsFor (s.completionWords code tag status reply).length = 1 := cellsFor_eq_one (by omega) (by omega)
  let u := s.setMailbox mb { s.mailbox mb with pending := (s.mailbox mb).pending - 1 }
  obtain ⟨v, put⟩ : ∃ v, u.put 0 (0x101 + 2 * mb) (some (mb / 4)) Config.completionType.toNat
      (s.completionWords code tag status reply) = some v :=
    ⟨_, State.put_eq_some_iff.mpr ⟨⟨enabled, fence, by rw [cells]; exact room, by omega⟩, rfl⟩⟩
  have written : u.putCompletion mb (s.completionWords code tag status reply) =
      some (v.setMailbox mb { v.mailbox mb with unread := (v.mailbox mb).unread + 1 }) := Option.map_eq_some_iff.mpr ⟨v, put, rfl⟩
  obtain ⟨mailbox, -, -⟩ := State.putCompletion_eq written
  have linked : v.queue 0 (0x101 + 2 * mb) = _ := State.put_queue put
  have requests : v.queue 0 (0x100 + 2 * mb) = u.queue 0 (0x100 + 2 * mb) := State.put_queue_ne put (by omega)
  have completed : s.complete mb code tag status reply = v.setMailbox mb { v.mailbox mb with unread := (v.mailbox mb).unread + 1 } := by
    unfold State.complete State.settleRequest
    rw [if_neg (by simp [due])]
    exact congrArg (fun o : Option State => o.getD _) written
  refine ⟨_, completed, ?_, ?_, requests⟩
  · rw [mailbox, State.mailbox_setMailbox]
  · change (v.queue 0 (0x101 + 2 * mb)).packets.map _ = _
    rw [linked]
    exact List.map_append

end

/-! ### A request that is completed at once (R382, R841) -/

@[simp] theorem Pool.pick_one_length (p : Pool) (pool : Nat) : (p.pick pool 1).length = 1 := by simp [Pool.pick]

section
variable {p : Pool} {qid ty : Nat} (ctx : Option Nat) (ws : List W64)

/-- A pool after one packet of one cell has been committed to an empty queue and taken from it. -/
def Pool.passed (p : Pool) (qid ty : Nat) (ctx : Option Nat) (ws : List W64) : Pool :=
  (((p.take (p.pick 0 1)).setQueue qid ((p.queue qid).link ctx ty ws (p.pick 0 1))).consume qid (p.queue qid).seqNext).1

theorem Pool.passed_queue_ne {n : Nat} (other : qid ≠ n) : (p.passed qid ty ctx ws).queue n = p.queue n :=
  (Pool.consume_queue_ne _ _ other).trans (Pool.queue_setQueue_ne _ _ other)

theorem Pool.passed_packets (empty : (p.queue qid).packets = []) : ((p.passed qid ty ctx ws).queue qid).packets = [] := by
  rw [Pool.passed, Pool.consume_packets, Pool.queue_setQueue]
  simp [Queue.link, empty]

/-- The cell returns, and the queue holds, owes and guarantees what it did. -/
theorem Pool.passed_eq (empty : (p.queue qid).packets = []) : ∃ q : Queue, (p.passed qid ty ctx ws).queues = p.queues.set qid q ∧
    (p.passed qid ty ctx ws).free = p.free - 1 + 1 ∧ q.enabled = (p.queue qid).enabled ∧ q.guarantee = (p.queue qid).guarantee ∧
    q.cells = (p.queue qid).cells := by
  refine ⟨(p.passed qid ty ctx ws).queue qid, ?_⟩
  unfold Pool.passed Pool.consume Pool.release
  simp only [Pool.queue_setQueue]
  rw [Pool.queue] at empty
  change ((p.queues.set qid _).set qid _).set qid _ = p.queues.set qid (Pool.queue (Pool.setQueue _ _ _) _) ∧ _
  rw [Tbl.set_set_self, Tbl.set_set_self]
  simp [Queue.link, empty, Pool.take, Pool.setQueue, Pool.queue, sumCells, Packet.cells, Queue.cells, Queue.openCells]

theorem Pool.passed_mayTake {n : Nat} (other : qid ≠ n) (empty : (p.queue qid).packets = []) (enabled : (p.queue qid).enabled = true)
    (some_free : 1 ≤ p.free) : (p.passed qid ty ctx ws).mayTake n 1 = p.mayTake n 1 := by
  obtain ⟨q, queues, free, enabled', guarantee, cells⟩ := Pool.passed_eq (p := p) (qid := qid) (ty := ty) ctx ws empty
  have listed : p.queues.get {} qid ≠ ({} : Queue) := by
    intro default
    rw [Pool.queue, default] at enabled
    exact absurd enabled Bool.false_ne_true
  have owed : (p.passed qid ty ctx ws).owed n = p.owed n := by
    unfold Pool.owed
    rw [queues]
    refine Tbl.foldl_set _ _ {} _ _ listed (fun m => ?_) 0
    dsimp only
    rw [enabled', guarantee, cells]
    rfl
  unfold Pool.mayTake
  rw [Pool.passed_queue_ne _ _ other, owed, free, Nat.sub_add_cancel some_free]

end

/-- A pool of whose cells a queue may take one has a free cell. -/
theorem Pool.free_of_mayTake {p : Pool} {qid : Nat} (room : p.mayTake qid 1 = true) : 1 ≤ p.free := by
  simp only [Pool.mayTake, Bool.or_eq_true, Bool.and_eq_true, decide_eq_true_eq] at room
  omega

section
variable {s : State} {mb : Nat}

/-- An undefined request that is rung into an empty mailbox is completed with RESERVED_ENCODING before the doorbell ends. -/
theorem State.answerUndefined_of_undefined {ws : List W64} (free : s.shownFree mb ≠ 0) (least : 1 ≤ ws.length) (most : ws.length ≤ 31)
    (opened : s.mailboxShut mb = false) (room : (s.pool 0).mayTake (0x100 + 2 * mb) 1 = true)
    (empty : (s.queue 0 (0x100 + 2 * mb)).packets = []) (due : (s.mailbox mb).due = []) (alone : s.waitsFan mb = false)
    (undefined : definedCodes.contains (fld (ws.getD 0 0#64) 15 0) = false) (roomC : (s.pool 0).mayTake (0x101 + 2 * mb) 1 = true)
    (enabledC : (s.queue 0 (0x101 + 2 * mb)).enabled = true) (fenceC : (s.queue 0 (0x101 + 2 * mb)).fence = none) :
    let t := (s.doorbell mb ws).1.answerUndefined mb
    (t.queue 0 (0x100 + 2 * mb)).packets = [] ∧
      t.mailbox mb = { s.mailbox mb with free := (s.mailbox mb).free - 1, unread := (s.mailbox mb).unread + 1 } ∧
      (t.queue 0 (0x101 + 2 * mb)).packets.map (fun k => k.words) = (s.queue 0 (0x101 + 2 * mb)).packets.map (fun k => k.words) ++
        [s.completionWords (fld (ws.getD 0 0#64) 15 0) (fld (ws.getD 0 0#64) 31 16) 0x0010 []] := by
  have enabled : (s.queue 0 (0x100 + 2 * mb)).enabled = true := by
    simp only [State.mailboxShut, Bool.or_eq_false_iff, Bool.not_eq_false'] at opened
    exact opened.2
  obtain ⟨host, out, rung⟩ := State.doorbell_of_room free least most opened room
  intro t
  let u := { (s.setPool 0 (((s.pool 0).take ((s.pool 0).pick 0 1)).setQueue (0x100 + 2 * mb)
    ((s.queue 0 (0x100 + 2 * mb)).link (some (mb / 4)) 1 ws ((s.pool 0).pick 0 1)))).setMailbox mb
    { s.mailbox mb with free := (s.mailbox mb).free - 1, pending := (s.mailbox mb).pending + 1 } with host := host, out := out }
  have pool : u.pool 0 = ((s.pool 0).take ((s.pool 0).pick 0 1)).setQueue (0x100 + 2 * mb)
      ((s.queue 0 (0x100 + 2 * mb)).link (some (mb / 4)) 1 ws ((s.pool 0).pick 0 1)) := State.pool_setPool ..
  have mailbox : u.mailbox mb = { s.mailbox mb with free := (s.mailbox mb).free - 1, pending := (s.mailbox mb).pending + 1 } :=
    State.mailbox_setMailbox ..
  have queue : u.queue 0 (0x100 + 2 * mb) = (s.queue 0 (0x100 + 2 * mb)).link (some (mb / 4)) 1 ws ((s.pool 0).pick 0 1) := by
    rw [State.queue, pool, Pool.queue_setQueue]
  have oldest : (u.queue 0 (0x100 + 2 * mb)).packets =
      [{ seq := (s.queue 0 (0x100 + 2 * mb)).seqNext, ctx := some (mb / 4), ty := 1, words := ws, chain := (s.pool 0).pick 0 1 }] := by
    rw [queue]
    simp [Queue.link, empty]
  let v := u.takeOldest 0 (0x100 + 2 * mb)
  have poolV : v.pool 0 = (s.pool 0).passed (0x100 + 2 * mb) 1 (some (mb / 4)) ws := by
    unfold v State.takeOldest
    rw [oldest]
    dsimp only
    rw [State.pool_setPool, pool]
    rfl
  have queueV (n : Nat) : v.queue 0 n = ((s.pool 0).passed (0x100 + 2 * mb) 1 (some (mb / 4)) ws).queue n := by rw [State.queue, poolV]
  have mailboxV : v.mailbox mb = u.mailbox mb := State.takeOldest_mailbox ..
  have completionV : v.queue 0 (0x101 + 2 * mb) = s.queue 0 (0x101 + 2 * mb) :=
    (queueV _).trans (Pool.passed_queue_ne _ _ (by omega))
  obtain ⟨w, completed, mailboxW, words, requests⟩ := State.complete_of_room (s := v) (mb := mb) (reply := []) (Nat.zero_le _)
    (by rw [mailboxV, mailbox]; exact due)
    (by
      rw [poolV, Pool.passed_mayTake _ _ (by omega) empty enabled (Pool.free_of_mayTake room)]
      exact roomC)
    (by rw [completionV]; exact enabledC) (by rw [completionV]; exact fenceC)
    (fld (ws.getD 0 0#64) 15 0) (fld (ws.getD 0 0#64) 31 16) St.reserved
  have emptyW : (w.queue 0 (0x100 + 2 * mb)).packets = [] := by
    rw [requests, queueV]
    exact Pool.passed_packets _ _ empty
  have aloneU : u.waitsFan mb = false := alone
  have end_eq : t = w := by
    have from_u : t = undefinedLoop 16 mb u := congrArg (fun d : State × Bool => d.1.answerUndefined mb) rung
    rw [from_u, undefinedLoop, if_neg (by simpa using aloneU), oldest]
    dsimp only
    rw [if_neg (by simpa using undefined), completed, undefinedLoop_of_empty emptyW]
  rw [end_eq]
  refine ⟨emptyW, ?_, ?_⟩
  · rw [mailboxW, mailboxV, mailbox, Nat.add_sub_cancel]
  · have now : v.now = s.now := by
      obtain ⟨pools, taken⟩ := u.takeOldest_eq 0 (0x100 + 2 * mb)
      change (u.takeOldest 0 (0x100 + 2 * mb)).now = u.now
      rw [taken]
      rfl
    rw [words, completionV]
    simp only [State.completionWords, now, St.reserved]

end

/-! ### Resets, flushes, and what other modules ask (R45, R376, R24) -/

@[simp] theorem returnLoop_steep (fuel link vc n : Nat) (s : State) : (returnLoop fuel link vc n s).steep = s.steep := by
  induction fuel generalizing n s with
  | zero => rfl
  | succ fuel ih =>
    dsimp only [returnLoop]
    split
    · rfl
    · rw [ih]
      rfl

theorem State.freedIn_steep (s : State) (pool qid n : Nat) : (s.freedIn pool qid n).steep = s.steep := by
  unfold State.freedIn State.freedCells
  repeat' split
  · rfl
  · rfl
  · rfl
  · exact returnLoop_steep ..

theorem State.tookPacket_steep (s : State) (kind : Nat) (body : List W64) : (s.tookPacket kind body).steep = s.steep := by
  unfold State.tookPacket
  repeat' split
  · rfl
  · rfl
  · exact State.freedIn_steep ..

section
variable {s : State} {mb : Nat}

theorem State.setMailbox_self_of_set {m : Mailbox} (s : State) (mb : Nat) : (s.setMailbox mb m).setMailbox mb m = s.setMailbox mb m := by
  unfold State.setMailbox
  simp [Tbl.set_set_self]

/-- A mailbox of which nothing waits is left by a flush. -/
theorem State.flushMailbox_of_calm {m : Mailbox} (held : m.heldEvents = []) (due : m.due = []) (tags : m.resetTags = [])
    (calm : m.resetting = false) : (s.setMailbox mb m).flushMailbox mb = s.setMailbox mb m := by
  have same : { m with resetTags := [] } = m := by rw [← tags]
  unfold State.flushMailbox
  simp only [State.mailbox_setMailbox, tags, same, State.setMailbox_self_of_set]
  simp [forL, dueLoop, heldLoop, due, held, calm]

/-- The one completion of a reset is written, and the reset ends (R376). -/
theorem State.flushMailbox_of_reset {code tag : Nat} (tags : (s.mailbox mb).resetTags = [(code, tag)]) (resetting : (s.mailbox mb).resetting = true)
    (due : (s.mailbox mb).due = []) (held : (s.mailbox mb).heldEvents = []) (room : (s.pool 0).mayTake (0x101 + 2 * mb) 1 = true)
    (enabled : (s.queue 0 (0x101 + 2 * mb)).enabled = true) (fence : (s.queue 0 (0x101 + 2 * mb)).fence = none) :
    let t := s.flushMailbox mb
    t.mailbox mb = { s.mailbox mb with
      pending := (s.mailbox mb).pending - 1, unread := (s.mailbox mb).unread + 1, resetTags := [], resetting := false } ∧
    (t.queue 0 (0x101 + 2 * mb)).packets.map (fun k => k.words) = (s.queue 0 (0x101 + 2 * mb)).packets.map (fun k => k.words) ++
      [s.completionWords code tag 0x0017 []] := by
  let u := s.setMailbox mb { s.mailbox mb with resetTags := [] }
  have mailboxU : u.mailbox mb = { s.mailbox mb with resetTags := [] } := State.mailbox_setMailbox ..
  obtain ⟨w, completed, mailboxW, words, -⟩ := State.complete_of_room (s := u) (mb := mb) (reply := []) (Nat.zero_le _)
    (by rw [mailboxU]; exact due) room enabled fence code tag 0x0017
  have ended : s.flushMailbox mb = w.setMailbox mb { w.mailbox mb with resetting := false } := by
    have dueW : (w.mailbox mb).due = [] := by rw [mailboxW, mailboxU]; exact due
    have heldW : (w.mailbox mb).heldEvents = [] := by rw [mailboxW, mailboxU]; exact held
    have resettingW : (w.mailbox mb).resetting = true := by rw [mailboxW, mailboxU]; exact resetting
    have completes : forL [(code, tag)] (fun r s => s.complete mb r.1 r.2 0x0017 []) u = w := completed
    unfold State.flushMailbox
    dsimp only
    rw [tags, completes]
    simp [dueLoop, heldLoop, dueW, heldW, resettingW]
  rw [ended]
  refine ⟨?_, words⟩
  rw [State.mailbox_setMailbox, mailboxW, mailboxU]

theorem State.resetQueue_queue (s : State) (qid : Nat) : ((s.resetQueue 0 qid).queue 0 qid).packets = [] := by
  change (((s.setPool 0 ((s.pool 0).resetQueue qid)).pool 0).queue qid).packets = []
  rw [State.pool_setPool, Pool.resetQueue]
  change (((s.pool 0).setQueue qid _).queue qid).packets = []
  rw [Pool.queue_setQueue]

theorem State.resetQueue_queue_ne (s : State) {qid n : Nat} (other : qid ≠ n) : (s.resetQueue 0 qid).queue 0 n = s.queue 0 n := by
  change ((s.setPool 0 ((s.pool 0).resetQueue qid)).pool 0).queue n = _
  rw [State.pool_setPool, Pool.resetQueue]
  exact Pool.queue_setQueue_ne _ _ other

/-- A reset empties both queues of the mailbox. -/
theorem State.resetMailbox_queues (s : State) (mb : Nat) :
    ((s.resetMailbox mb).queue 0 (0x100 + 2 * mb)).packets = [] ∧ ((s.resetMailbox mb).queue 0 (0x101 + 2 * mb)).packets = [] := by
  have completions := (s.resetQueue 0 (0x100 + 2 * mb)).resetQueue_queue (0x101 + 2 * mb)
  have requests := (congrArg Queue.packets ((s.resetQueue 0 (0x100 + 2 * mb)).resetQueue_queue_ne (qid := 0x101 + 2 * mb)
    (n := 0x100 + 2 * mb) (by omega))).trans (s.resetQueue_queue (0x100 + 2 * mb))
  exact ⟨requests, completions⟩

/-- A mailbox with nothing else to write gets a completion for each request that stood in its queue. -/
theorem State.resetMailbox_mailbox (due : (s.mailbox mb).due = []) (tags : (s.mailbox mb).resetTags = [])
    (alone : ∀ f ∈ s.fans, f.cmd.mb ≠ mb) (most : (s.queue 0 (0x100 + 2 * mb)).packets.length ≤ 16) :
    (s.resetMailbox mb).mailbox mb =
      { s.mailbox mb with
        free := 16 - (s.queue 0 (0x100 + 2 * mb)).packets.length, pending := (s.queue 0 (0x100 + 2 * mb)).packets.length
        unread := 0, heldEvents := [], due := [], resetting := !(s.queue 0 (0x100 + 2 * mb)).packets.isEmpty
        resetTags := (s.queue 0 (0x100 + 2 * mb)).packets.map fun k =>
          (fld (k.words.getD 0 0#64) 15 0, fld (k.words.getD 0 0#64) 31 16) } := by
  have fans : (s.fans.filter fun f => f.cmd.mb == mb) = [] := by simpa [List.filter_eq_nil_iff] using alone
  unfold State.resetMailbox
  rw [State.mailbox_setMailbox]
  simp [due, tags, fans, List.take_of_length_le, most]

/-- A domain command with a legal period and a count ahead is taken (R44, R45). -/
theorem State.kettlePacket_domain {p : Pkt} {q at_ : Nat} (lit : s.dark = false) (kettle : fld p.route 15 8 = 7)
    (timely : s.isEarly (fld p.route 63 48) = false) (body : p.body = [mkWord [(0, 8, 3), (16, 16, 0x0030)], BitVec.ofNat 64 q, BitVec.ofNat 64 at_])
    (known : (s.tookPacket 7 p.body).shuns (fld p.route 47 32) = false) (legal : periodLegal q) (ahead : s.now < at_) (word : at_ < 2 ^ 64) :
    exec (.kettlePacket p) s = .next { s.tookPacket 7 p.body with
      steep := { (s.tookPacket 7 p.body).steep with nextQ := q, atCount := at_ } } := by
  have type : fld (p.body.getD 0 0#64) 7 0 = 3 := by
    rw [body]
    exact (by decide : fld (mkWord [(0, 8, 3), (16, 16, 0x0030)]) 7 0 = 3)
  have code : fld (p.body.getD 0 0#64) 31 16 = 0x0030 := by
    rw [body]
    exact (by decide : fld (mkWord [(0, 8, 3), (16, 16, 0x0030)]) 31 16 = 0x0030)
  have rest : p.body.drop 1 = [BitVec.ofNat 64 q, BitVec.ofNat 64 at_] := by rw [body]; rfl
  obtain ⟨least, most⟩ := legal
  have period : (BitVec.ofNat 64 q).toNat = q := by simp; omega
  have count : (BitVec.ofNat 64 at_).toNat = at_ := by simp; omega
  have now : (s.tookPacket 7 p.body).now = s.now := congrArg Steep.count (State.tookPacket_steep ..)
  have taken : (s.tookPacket 7 p.body).takeDomain 0x0030 [BitVec.ofNat 64 q, BitVec.ofNat 64 at_] = { s.tookPacket 7 p.body with
      steep := { (s.tookPacket 7 p.body).steep with nextQ := q, atCount := at_ } } := by
    have inRange : ¬ (q = 0 ∨ 32 < q) := by omega
    simp [State.takeDomain, period, count, now, inRange, Nat.not_le.mpr ahead]
  unfold exec
  dsimp only
  unfold execKettlePacket
  simp only [timely, Bool.false_eq_true, if_false, kettle, lit, type, code, rest]
  simp [known, taken]

/-- A fan that is over completes its request with what was gathered (R24). -/
theorem State.fan_ended {n : Nat} {f : Fan} (found : (s.fans.find? fun f => f.id == n) = some f) (asked : f.request ≠ [])
    (near : f.cmd.mb < 256) (other : f.cmd.code ≠ 0x0007) (late : f.started + f.wait ≤ s.now) :
    exec (.compositeMemberTimeout n) s = .next (({ s with fans := s.fans.filter fun q => q.id ≠ f.id }.complete f.cmd.mb f.cmd.code f.cmd.tag
      f.gather.1 f.gather.2).answerUndefined f.cmd.mb) := by
  have stays (t : State) : f.resetsLead t = false := by simp [Fan.resetsLead, other]
  simp [exec, execCompositeMemberTimeout, found, Nat.not_lt.mpr late, State.endFan, asked, Nat.not_le.mpr near, stays]

end

theorem State.bufferWords_head (s : State) (mb : Nat) {n : Nat} (least : 1 ≤ n) :
    (s.bufferWords mb n).getD 0 0#64 = (s.mailbox mb).request.get 0#64 0 := by
  obtain ⟨k, rfl⟩ : ∃ k, n = k + 1 := ⟨n - 1, by omega⟩
  simp [State.bufferWords]

/-- The oldest request stays, so a doorbell's request waits behind it as the one packet that it adds (R371, R373). -/
theorem State.doorbell_keeps {s : State} {mb : Nat} {ws : List W64} (free : s.shownFree mb ≠ 0) (least : 1 ≤ ws.length) (most : ws.length ≤ 31)
    (opened : s.mailboxShut mb = false) (room : (s.pool 0).mayTake (0x100 + 2 * mb) 1 = true)
    (keeps : s.keepsOldest mb (((s.queue 0 (0x100 + 2 * mb)).packets.map fun k => k.words).getD 0 ws)) :
    ∃ t, (s.doorbell mb ws).1.answerUndefined mb = t ∧
      t.mailbox mb = { s.mailbox mb with free := (s.mailbox mb).free - 1, pending := (s.mailbox mb).pending + 1 } ∧
      (t.queue 0 (0x100 + 2 * mb)).packets = (s.queue 0 (0x100 + 2 * mb)).packets ++ [{
        seq := (s.queue 0 (0x100 + 2 * mb)).seqNext, ctx := some (mb / 4), ty := 1, words := ws, chain := (s.pool 0).pick 0 1 }] := by
  obtain ⟨host, out, rung⟩ := State.doorbell_of_room free least most opened room
  rw [rung]
  let u := { (s.setPool 0 (((s.pool 0).take ((s.pool 0).pick 0 1)).setQueue (0x100 + 2 * mb)
    ((s.queue 0 (0x100 + 2 * mb)).link (some (mb / 4)) 1 ws ((s.pool 0).pick 0 1)))).setMailbox mb
    { s.mailbox mb with free := (s.mailbox mb).free - 1, pending := (s.mailbox mb).pending + 1 } with host := host, out := out }
  have packets : (u.queue 0 (0x100 + 2 * mb)).packets = (s.queue 0 (0x100 + 2 * mb)).packets ++ [{
      seq := (s.queue 0 (0x100 + 2 * mb)).seqNext, ctx := some (mb / 4), ty := 1, words := ws, chain := (s.pool 0).pick 0 1 }] := by
    have pool : u.pool 0 = _ := State.pool_setPool ..
    rw [State.queue, pool, Pool.queue_setQueue]
    rfl
  have still : u.answerUndefined mb = u := by
    cases held : (s.queue 0 (0x100 + 2 * mb)).packets with
    | nil =>
      rw [held] at packets keeps
      exact undefinedLoop_of_keeps (s := u) packets keeps 16
    | cons k rest =>
      rw [held] at packets keeps
      exact undefinedLoop_of_keeps (s := u) packets keeps 16
  exact ⟨u, still, State.mailbox_setMailbox .., packets⟩

/-- The vector that MB_CFG takes, of the physical function or of one of its own (R377). -/
theorem vectorIn_of_range {fn v : Nat} (range : fn = 0 ∨ v ≤ 127) :
    vectorIn fn v = some (if fn = 0 then v else 1024 + 128 * (fn - 1) + v) := by
  unfold vectorIn
  split
  · rfl
  · rw [if_pos (by omega)]

/-- A reset asked for with MB_CFG, which takes its vector first: a completion is due to each request that was pending (R376, R377). -/
theorem State.resetMailbox_of_taken {s : State} {mb : Nat} (enable : Bool) (vector : Nat) (due : (s.mailbox mb).due = [])
    (tags : (s.mailbox mb).resetTags = []) (most : (s.queue 0 (0x100 + 2 * mb)).packets.length ≤ 16) (alone : ∀ f ∈ s.fans, f.cmd.mb ≠ mb) :
    let t := ((s.setMailbox mb { s.mailbox mb with vectorEn := enable, vector := vector }).mailboxSink mb).resetMailbox mb
    let q := s.queue 0 (0x100 + 2 * mb)
    (t.mailbox mb).free = 16 - q.packets.length ∧ (t.mailbox mb).pending = q.packets.length ∧ (t.mailbox mb).unread = 0 ∧
    (t.mailbox mb).heldEvents = [] ∧ (t.mailbox mb).resetting = !q.packets.isEmpty ∧
    (t.mailbox mb).resetTags = q.packets.map (fun k => (fld (k.words.getD 0 0#64) 15 0, fld (k.words.getD 0 0#64) 31 16)) ∧
    (t.queue 0 (0x100 + 2 * mb)).packets = [] ∧ (t.queue 0 (0x101 + 2 * mb)).packets = [] := by
  let u := (s.setMailbox mb { s.mailbox mb with vectorEn := enable, vector := vector }).mailboxSink mb
  have mailbox : u.mailbox mb = { s.mailbox mb with vectorEn := enable, vector := vector } := State.mailbox_setMailbox ..
  have queue : u.queue 0 (0x100 + 2 * mb) = s.queue 0 (0x100 + 2 * mb) := by
    change ((State.updQueue _ 0 (0x101 + 2 * mb) _).pool 0).queue (0x100 + 2 * mb) = _
    rw [State.updQueue, State.pool_setPool]
    exact Pool.queue_setQueue_ne _ _ (by omega)
  have emptied := State.resetMailbox_mailbox (s := u) (by rw [mailbox]; exact due) (by rw [mailbox]; exact tags) alone
    (by rw [queue]; exact most)
  rw [queue] at emptied
  dsimp only
  rw [emptied]
  exact ⟨rfl, rfl, rfl, rfl, rfl, rfl, State.resetMailbox_queues u mb⟩

/-- Settles O46. -/
theorem mailboxesTakeRequestsAndReturnTokens : Obligations.MailboxesTakeRequestsAndReturnTokens := by
  refine ⟨fun s fn mb v lit awake below owned served => ?_, fun s fn mb v lit awake below other => ?_,
    fun s mb code tag _ tags resetting due held room enabled fence => State.flushMailbox_of_reset tags resetting due held room enabled fence,
    fun s t fn mb v books next => ?_, fun s p q at_ lit kettle timely body known legal ahead word =>
      State.kettlePacket_domain lit kettle timely body known legal ahead word,
    fun s n f found => ⟨fun asked near code late => State.fan_ended found asked near code late, fun early => ?_⟩⟩
  · intro n m q
    have words (n : Nat) : (s.bufferWords mb n).length = n := by simp [State.bufferWords]
    have few : n ≤ 31 := by
      have : n < 2 ^ 5 := Nat.mod_lt _ (by decide)
      omega
    have doorbell : exec (.mbDoorbell fn mb v) s = .next ((s.doorbell mb (s.bufferWords mb n)).1.answerUndefined mb) :=
      congrArg Host.Outcome.next (State.guardMailbox_of_owner lit awake below owned served ..)
    have ack : exec (.mbCompAck fn mb v) s = .next _ :=
      congrArg Host.Outcome.next (State.guardMailbox_of_owner lit awake below owned served ..)
    have cfg : exec (.mbCfgReset fn mb v) s = .next _ :=
      congrArg Host.Outcome.next (State.guardMailbox_of_owner lit awake below owned served ..)
    rw [doorbell, ack, cfg]
    refine ⟨fun free least _ opened room keeps => ?_, fun refused => ?_,
      fun free least _ opened room empty due alone undefined roomC enabledC fenceC => ?_, fun released unread held due tags calm => ?_,
      fun nothing => ?_, fun vector => ?_⟩
    · obtain ⟨t, kept, mailbox, packets⟩ := State.doorbell_keeps (ws := s.bufferWords mb n) free
        (by rwa [words]) (by rwa [words]) opened room keeps
      exact ⟨t, congrArg Host.Outcome.next kept, mailbox, packets⟩
    · rw [State.doorbell_refused (ws := s.bufferWords mb n) (by rwa [words]) (by rwa [words])]
      rfl
    · have head := s.bufferWords_head mb least
      obtain ⟨requests, mailbox, completion⟩ := State.answerUndefined_of_undefined (ws := s.bufferWords mb n) free
        (by rwa [words]) (by rwa [words]) opened room empty due alone (by rwa [head]) roomC enabledC fenceC
      exact ⟨_, s.bufferWords mb n, rfl, requests, mailbox, completion, rfl⟩
    · have some_unread : (s.mailbox mb).unread ≠ 0 := Nat.pos_iff_ne_zero.mp unread
      simp only [released, some_unread, Bool.not_true, decide_false, Bool.or_self, Bool.false_eq_true, if_false]
      exact congrArg Host.Outcome.next (State.flushMailbox_of_calm held due tags calm)
    · refine congrArg Host.Outcome.next (if_pos ?_)
      simpa using nothing
    · intro vec s1
      rw [vectorIn_of_range vector]
      refine ⟨fun plain => congrArg Host.Outcome.next (if_neg (by simp [plain])), fun reset => ?_⟩
      have resets : (if bitAt v 32 = true then s1.resetMailbox mb else s1) = s1.resetMailbox mb := if_pos reset
      exact ⟨congrArg Host.Outcome.next resets, fun due tags most alone =>
        ⟨_, congrArg Host.Outcome.next resets, State.resetMailbox_of_taken (bitAt v 16) vec due tags most alone⟩⟩
  · exact ⟨congrArg Host.Outcome.next (State.guardMailbox_of_other lit awake below other ..),
      congrArg Host.Outcome.next (State.guardMailbox_of_other lit awake below other ..),
      congrArg Host.Outcome.next (State.guardMailbox_of_other lit awake below other ..)⟩
  · rw [← State.owes_zero_iff _ mb] at books ⊢
    obtain next | next := next
    · exact execMbDoorbell_owes books next
    · exact execMbCompAck_owes books next
  · simp [exec, execCompositeMemberTimeout, found, early]

end Sys2Proof.Machine
end

section
/-! SUPPORT. Proofs/Lanes.lean: deadlines of late work, fences that end, and the matrix lane. -/
namespace Sys2Proof.Machine

/-! ### Deadlines of slices, transfers, pours and caddies (R63, R64, R65, R231, R715) -/

theorem satN_add_zero {n : Nat} (below : n < 2 ^ 16) : satN 16 (n + 0) = n := if_pos below

section
variable {s : State}

theorem State.lateSlice_of_overrun {x slot n : Nat} {t : Stream} {ts : List Stream} (running : ((s.ctx x).slot slot).streams = t :: ts)
    (since : t.running = some n) {uc : Bool} (raised : t.overruns = b2n uc) (late : n + 1 + b2n uc ≤ s.steep.count) :
    s.lateSlice x slot uc = (({ (s.updStream x slot fun t => { t with overruns := t.overruns + 1 }) with steep := { s.steep with
        sliceCe := if uc then s.steep.sliceCe else satN 16 (s.steep.sliceCe + 1)
        sliceUc := if uc then satN 16 (s.steep.sliceUc + 1) else s.steep.sliceUc } } : State).raise {
      code := 0x0106, cls := if uc then .uc else .ce, ctx := some x, opRef := t.id
      a := BitVec.ofNat 64 (s.lateBy (n + 1)), b := BitVec.ofNat 64 (s.lateBy n) }, true) := by
  have due : ¬ (decide (t.overruns ≠ b2n uc) || decide (s.now < n + 1 + b2n uc)) = true := by
    simp [raised, State.now, Nat.not_lt.mpr late]
  unfold State.lateSlice
  simp only [running, since]
  rw [if_neg due]
  rfl

theorem State.lateXfer_of_overrun {w : XferRef} {l : Late} (found : s.lateOf w = some l) {uc : Bool} (raised : l.raised = b2n uc)
    (late : l.started + 1 + b2n uc ≤ s.steep.count) :
    s.lateXfer w uc = (({ s.noteLate w with steep := { s.steep with otherDeadlines := satN 16 (s.steep.otherDeadlines + 1) } } : State).raise {
      code := 0x0107, cls := if uc then .uc else .ce, unit := l.unit, ctx := l.ctx, opcode := l.opcode, opRef := l.opRef
      a := BitVec.ofNat 64 (s.lateBy (l.started + 1)), b := BitVec.ofNat 64 (s.steep.ticks - l.tick) }, l.ctx) := by
  have due : ¬ (decide (l.raised ≠ b2n uc) || decide (s.now < l.started + 1 + b2n uc)) = true := by
    simp [raised, State.now, Nat.not_lt.mpr late]
  unfold State.lateXfer
  simp only [found]
  rw [if_neg due]
  cases w <;> rfl

/-- The UC record of a late transfer fences its context, unless the transfer is a load. -/
theorem execDeadlineXferUc_eq {w : XferRef} {t : State} {x : Nat} (late : s.lateXfer w true = (t, some x)) :
    execDeadlineXferUc w s = .next (match w with | .load _ _ => t | _ => t.fenceLate x) := by
  unfold execDeadlineXferUc
  rw [late]
  cases w <;> rfl

end

/-- Settles O31. -/
theorem lateWorkRaisesItsDeadlineRecords : Obligations.LateWorkRaisesItsDeadlineRecords := by
  refine ⟨fun s x slot n t ts running since => ?_, fun s w l found => ?_, fun s k p pours last fresh passed => ?_, fun s c j oldest => ?_⟩
  · intro late ce uc
    refine ⟨fun first due => ?_, fun second due => ?_⟩
    · have raised : s.lateSlice x slot false = (late 1 0 .ce, true) := by
        rw [State.lateSlice_of_overrun running since (uc := false) first due]
        simp only [late, satN_add_zero uc]
        rfl
      have arm : exec (.deadlineSliceCe x slot) s = .next (s.lateSlice x slot false).1 := rfl
      rw [arm, raised]
    · have raised : s.lateSlice x slot true = (late 0 1 .uc, true) := by
        rw [State.lateSlice_of_overrun running since (uc := true) second due]
        simp only [late, satN_add_zero ce]
        rfl
      have arm : exec (.deadlineSliceUc x slot) s = .next (if (s.lateSlice x slot true).2 then (s.lateSlice x slot true).1.fenceLate x
          else (s.lateSlice x slot true).1) := rfl
      rw [arm, raised, if_pos rfl]
  · intro late
    refine ⟨fun first due => ?_, fun x second due ctx other => ?_, fun y id second due load => ?_⟩
    · have arm : exec (.deadlineXferCe w) s = .next (s.lateXfer w false).1 := rfl
      rw [arm, State.lateXfer_of_overrun found (uc := false) first due]
      rfl
    · have raised : s.lateXfer w true = (late .uc, some x) := ctx ▸ State.lateXfer_of_overrun found (uc := true) second due
      have arm : exec (.deadlineXferUc w) s = execDeadlineXferUc w s := rfl
      rw [arm, execDeadlineXferUc_eq raised]
      cases w with
      | core k => rfl
      | coll y op => rfl
      | load y id => exact absurd rfl (other y id)
    · have raised : s.lateXfer w true = (late .uc, l.ctx) := State.lateXfer_of_overrun found (uc := true) second due
      subst load
      have arm : exec (.deadlineXferUc (.load y id)) s = .next (s.lateXfer (.load y id) true).1 := rfl
      rw [arm, raised]
  · have passed : ¬ s.now ≤ p.lastMac := Nat.not_le.mpr passed
    have due : ¬ (!p.last || p.late || decide (s.now ≤ p.lastMac)) = true := by simp [last, fresh, passed]
    unfold exec
    dsimp only
    unfold execDeadlinePour
    simp only [pours]
    rw [if_neg due]
    rfl
  · intro u s1
    let v := (s1.caddyRecord c j.ctx 0x0109 .uc u ((u.nextTile c j.next).getD u.first) (BitVec.ofNat 64 (s.lateBy (j.started + 1)))
      (BitVec.ofNat 64 (s.steep.ticks - j.tick))).updUpd j.ctx fun v => { v with bad := true }
    have now : v.now = s.steep.count := by
      change (State.raise s1 _).steep.count = _
      rw [State.raise_steep]
    have arm : exec (.deadlineCaddy c) s = .next ((v.failStep j.ctx u.step CauseOf.caddy v.now).discardShadow j.ctx u.step) := by
      unfold exec
      dsimp only
      unfold execDeadlineCaddy
      have oldest : ((s.caddy c).jobs.find? fun j => !j.late && decide (j.started < s.now)) = some j := oldest
      rw [oldest]
      rfl
    rw [arm, now]

/-! ### Fences that end (R35, R36, R37, R38) -/

/-- Settles O32. -/
theorem drainEscalatesAfterTwoSteeps : Obligations.DrainEscalatesAfterTwoSteeps := by
  intro s u draining unfinished late
  simp [exec, execFenceEscalated, draining, unfinished, State.now, Nat.not_lt.mpr late, Rec.fenceEscalated]

/-- The terminations of a unit that is no context complete its error-mode fence, unless a rung covers it. -/
theorem exec_fenceTerminationsDone_of_unit {s : State} {u : UnitId} (unit_ : ∀ x, u ≠ .ctx x) (error : (s.unit u).fence = some .err)
    (unfinished : (s.unit u).complete = false) (uncovered : ∀ r ∈ s.faults.rungs, covers r.unit u = false) :
    exec (.fenceTerminationsDone u) s = match (s.unit u).disableBy with
      | some by_ => .next ((s.setUnit u { s.unit u with complete := true, disableBy := none }).commandDone by_ none)
      | none => .next (s.setUnit u { s.unit u with complete := true, disableBy := none }) := by
  have done : ¬ (!((s.unit u).fence == some .err) || (s.unit u).complete || s.faults.rungs.any (fun r => covers r.unit u)) = true := by
    simpa [error, unfinished] using uncovered
  unfold exec
  dsimp only
  unfold execFenceTerminationsDone
  split
  · next x => exact absurd rfl (unit_ x)
  · exact if_neg done

/-- Settles O33. -/
theorem fencesCompleteWhenNothingIsLeft : Obligations.FencesCompleteWhenNothingIsLeft := by
  refine ⟨fun s u draining unfinished nothing => ⟨fun quiet => ?_, fun by_ waits => ?_⟩,
    fun s u unit_ error unfinished uncovered => ⟨fun quiet => ?_, fun by_ waits => ?_⟩, fun s x fenced => ?_,
    fun s u error unfinished late unfenced => ?_⟩
  · simp [exec, execFenceDrainComplete, draining, unfinished, nothing, quiet]
  · simp [exec, execFenceDrainComplete, draining, unfinished, nothing, waits]
  · rw [exec_fenceTerminationsDone_of_unit unit_ error unfinished uncovered, quiet]
  · rw [exec_fenceTerminationsDone_of_unit unit_ error unfinished uncovered, waits]
  · simp [exec, execFenceTerminationsDone, fenced, State.updCtx]
  · have noCtx : ((List.range 8).find? fun x => (s.ctx x).state == .fenced && (s.ctx x).terminating &&
        decide ((s.ctx x).fencedAt < s.now) && (coresUnder u).any fun k => Nat.testBit (s.ctx x).dieMask (k / 64)) = none := by
      rw [List.find?_eq_none]
      intro x below
      simp [unfenced x (List.mem_range.mp below)]
    have late : decide ((s.unit u).fencedAt < s.now) = true := decide_eq_true late
    simp [exec, execFenceResetDue, error, unfinished, late, noCtx]

/-! ### The matrix lane takes and starts tiles (R149, R155, R170, R204) -/

section
variable {s : State} {k : Nat}

/-- No word of a clean core store is found in error. -/
theorem State.noteSpans_of_clean (clean : (s.core k).store.syn = []) (sp : List Span) (ctx : Option Nat) (op ref : Nat) :
    s.noteSpans k sp ctx op ref = s := by
  refine forL_eq_self _ _ s fun a _ => ?_
  split
  · rfl
  · simp [State.noteCore, State.noteCoreWords, clean, forL]

theorem State.takeTile_of_due {op : Nat} {cmd : Cmd} {w : Work} (opcode : cmd.op = op) (free : (s.core k).tile = none)
    (next : s.due k cmd = some w) : s.takeTile k op cmd = if s.fencedUnit (.core k) then s.refuseWork k w
      else (s.takeWork k cmd).updCore k fun c => { c with tile := some { cmd := cmd, ctx := w.ctx, slot := w.slot } } := by
  unfold State.takeTile
  rw [if_neg (by simp [opcode, free]), next]

/-- The HELD set's chain that a tile command continues. -/
def Core.openChain (c : Core) (t : Tile) : Option Chain :=
  match c.chain with
  | some h => if c.live.state == SetState.held && (h.tileId == (mtOf t.cmd).tileId && h.step == (mtOf t.cmd).step && h.ctx == t.ctx)
      then some h else none
  | none => none

theorem Core.openChain_of_own {c : Core} {t : Tile} {h : Chain} (held : c.live.state = .held) (chain : c.chain = some h)
    (tile : h.tileId = (mtOf t.cmd).tileId) (step : h.step = (mtOf t.cmd).step) (ctx : h.ctx = t.ctx) : c.openChain t = some h := by
  simp [Core.openChain, chain, held, tile, step, ctx]

theorem Core.openChain_of_empty {c : Core} (t : Tile) (empty : c.live.state = .empty) : c.openChain t = none := by
  cases chain : c.chain with
  | none => simp [Core.openChain, chain]
  | some h => simp [Core.openChain, chain, empty]

theorem Core.openChain_of_other {c : Core} {t : Tile} (other : c.live.state = .held → ∀ h, c.chain = some h →
    h.tileId ≠ (mtOf t.cmd).tileId ∨ h.step ≠ (mtOf t.cmd).step ∨ h.ctx ≠ t.ctx) : c.openChain t = none := by
  unfold Core.openChain
  split
  · next h chain =>
    refine if_neg fun own => ?_
    simp only [Bool.and_eq_true, beq_iff_eq] at own
    obtain ⟨held, ⟨tile, step⟩, ctx⟩ := own
    obtain wrong | wrong | wrong := other held h chain
    · exact wrong tile
    · exact wrong step
    · exact wrong ctx
  · rfl

/-- The epilogue descriptor of a command that pours. -/
def Core.epilogueOf (c : Core) (t : Tile) : List W64 := if (mtOf t.cmd).pour then c.store.words (mtOf t.cmd).epi 6 else []

/-- The first pass of a tile starts on a set that holds `base`, which counts `kBase` of `kTotal` (R149, R155). -/
def State.started (s : State) (k : Nat) (t : Tile) (kBase kTotal : Nat) (base : Lines) : State :=
  (s.updCore k fun c => { c.setLive { c.live with state := .live } with
    tile := some { t with
      started := true, pass := 0, repeats := 0, desc := (s.core k).epilogueOf t, kBase := kBase, kTotal := kTotal, base := base
      begun := s.now, passAt := s.now } }).checkOpen t.ctx

/-- A tile whose descriptor fails a check is refused with its status; else the pass starts (R219). -/
def State.startChecked (s : State) (k : Nat) (t : Tile) (kBase kTotal : Nat) (base : Lines) : Host.Outcome State Fault Refusal :=
  match (if (mtOf t.cmd).pour then (epiOf ((s.core k).epilogueOf t)).check (mtOf t.cmd) else none) with
  | some st => .next (s.refuseTile k t st)
  | none => .next (s.started k t kBase kTotal base)

theorem State.startChecked_of_passing {t : Tile}
    (passes : (mtOf t.cmd).pour = true → (epiOf ((s.core k).epilogueOf t)).check (mtOf t.cmd) = none) (kBase kTotal : Nat) (base : Lines) :
    s.startChecked k t kBase kTotal base = .next (s.started k t kBase kTotal base) := by
  have no_status : (if (mtOf t.cmd).pour then (epiOf ((s.core k).epilogueOf t)).check (mtOf t.cmd) else none) = none := by
    split
    · next pours => exact passes pours
    · rfl
  rw [State.startChecked, no_status]

theorem State.startChecked_of_failing {t : Tile} {st : Nat} (pours : (mtOf t.cmd).pour = true)
    (fails : (epiOf ((s.core k).epilogueOf t)).check (mtOf t.cmd) = some st) (kBase kTotal : Nat) (base : Lines) :
    s.startChecked k t kBase kTotal base = .next (s.refuseTile k t st) := by
  rw [State.startChecked, if_pos pours, fails]

/-- What TILE_START does with a tile that has not started and that no earlier command hinders. -/
theorem exec_tileStart {t : Tile} (tile : (s.core k).tile = some t) (fresh : t.started = false)
    (first : ((s.core k).work.find? fun w => w.phase == .taken && Cmd.isTile w.cmd).any (s.core k).waits = false) :
    exec (.tileStart k) s =
      if (mtOf t.cmd).accum && ((s.core k).openChain t).isNone then .next (s.refuseTile k t St.chainBroken)
      else if !(mtOf t.cmd).accum && (s.core k).live.state != SetState.empty then .next s
      else
        let u := if (mtOf t.cmd).pour then s.noteSpans k [(8 * (mtOf t.cmd).epi, 48)] t.ctx (mtOf t.cmd).op (mtOf t.cmd).tileId else s
        match (s.core k).openChain t with
        | some h => u.startChecked k t h.k h.kChain h.pred
        | none => u.startChecked k t 0 (if (mtOf t.cmd).kChain = 0 then (mtOf t.cmd).k else (mtOf t.cmd).kChain) {} := by
  have go : ¬ (t.started || ((s.core k).work.find? fun w => w.phase == .taken && Cmd.isTile w.cmd).any (s.core k).waits) = true := by
    simp [fresh, first]
  unfold exec
  dsimp only
  unfold execTileStart
  simp only [tile]
  rw [if_neg go]
  unfold Core.openChain
  cases (s.core k).chain with
  | none => rfl
  | some h =>
    by_cases own : ((s.core k).live.state == SetState.held &&
        (h.tileId == (mtOf t.cmd).tileId && h.step == (mtOf t.cmd).step && h.ctx == t.ctx)) = true
    · simp only [own, if_true]
      rfl
    · simp only [own]
      rfl

end

/-- Settles O16. -/
theorem matrixLaneTakesAndStartsTiles : Obligations.MatrixLaneTakesAndStartsTiles := by
  refine ⟨fun s k op cmd w c row opcode free next => ?_, fun s k t tile fresh clean first => ?_⟩
  · have arm : exec (c k cmd) s = .next (s.takeTile k op cmd) := by
      obtain ⟨rfl, rfl⟩ | ⟨rfl, rfl⟩ | ⟨rfl, rfl⟩ := row <;> rfl
    rw [arm, State.takeTile_of_due opcode free next]
    exact ⟨fun open_ => by rw [open_]; rfl, fun fenced => by rw [if_pos fenced]⟩
  · intro mt desc start
    have noted : (if (mtOf t.cmd).pour then s.noteSpans k [(8 * (mtOf t.cmd).epi, 48)] t.ctx (mtOf t.cmd).op (mtOf t.cmd).tileId else s) = s := by
      rw [State.noteSpans_of_clean clean, ite_self]
    rw [exec_tileStart tile fresh first, noted]
    dsimp only
    refine ⟨fun begins empty => ?_, fun h continues held chain tileId step ctx => ?_, fun continues other => ?_⟩
    · rw [Core.openChain_of_empty t empty, begins, empty]
      exact ⟨fun passes => State.startChecked_of_passing passes .., fun st pours fails => State.startChecked_of_failing pours fails ..⟩
    · rw [Core.openChain_of_own held chain tileId step ctx, continues]
      exact ⟨fun passes => State.startChecked_of_passing passes .., fun st pours fails => State.startChecked_of_failing pours fails ..⟩
    · rw [Core.openChain_of_other other, continues]
      rfl

end Sys2Proof.Machine
end

section
/-! SUPPORT. Proofs/Requests.lean: a request that the kettle takes, and the unit commands. -/
namespace Sys2Proof.Machine

/-! ### A request that the kettle takes (R373, R378, R379, R841) -/

/-- The state when the request has left its queue differs in its pools only. -/
theorem State.taken_eq (s : State) (r : Req) : ∃ pools, s.taken r = { s with pools := pools } := State.takeOldest_eq ..

/-- What `State.asked` says, part by part. -/
structure Asked (s : State) (r : Req) (code : Nat) (ctxHop : Bool) (admin : UnitId → Bool) (u : UnitId) : Prop where
  booted : s.trust.stage = 0x0F
  awake : s.host.d3hot = false
  lit : s.dark = false
  mailbox : r.mb < 32
  served : s.host.flr.contains (s.owner r.mb) = false
  alone : s.waitsFan r.mb = false
  oldest : ((s.queue 0 (0x100 + 2 * r.mb)).packets.head?.map fun k => k.words) = some (reqWords r code)
  word0 : fld (reqHead r code) 63 35 = 0
  path : fld (reqHead r code) 34 32 ≤ 4
  long : 1 + fld (reqHead r code) 34 32 ≤ (reqWords r code).length
  form : pathWordsOk (reqPath r code) = true
  named : s.resolve (reqHops r code) = some (.unit u)
  allowed : s.mayName r.mb (.unit u) = true
  class_ : (!(admin u) || s.isAdmin r.mb) = true
  hop : ctxHop = true ∨ ∀ x, u ≠ .ctx x

theorem State.asked_parts {s : State} {r : Req} {code : Nat} {ctxHop : Bool} {admin : UnitId → Bool} {u : UnitId} :
    s.asked r code ctxHop admin u = true → Asked s r code ctxHop admin u := by
  intro asked
  unfold State.asked at asked
  simp only [Bool.and_eq_true, beq_iff_eq, decide_eq_true_eq, Bool.not_eq_true', and_assoc] at asked
  obtain ⟨booted, awake, lit, mailbox, served, alone, oldest, word0, path, long, form, named, allowed, class_, hop⟩ := asked
  refine ⟨booted, awake, lit, mailbox, served, alone, oldest, word0, path, long, form, named, allowed, class_, ?_⟩
  cases u <;> simp_all

/-- A path that names a unit of this module is in the order of R29. -/
theorem State.parsePath_of_resolve {s : State} {hops : List Nat} {u : UnitId} (named : s.resolve hops = some (.unit u)) :
    ∃ p, parsePath hops = some p ∧ p.below = u := by
  unfold State.resolve at named
  split at named
  · cases named
  · next p parsed =>
    refine ⟨p, parsed, ?_⟩
    dsimp only at named
    repeat' split at named
    all_goals simp at named
    all_goals exact named

section
variable {s : State} {r : Req} {code : Nat} {ctxHop : Bool} {admin : UnitId → Bool} {u : UnitId}
  (asked : s.asked r code ctxHop admin u = true) (body : KReq → State → KResult)
include asked

/-- The checks of R841 pass, so the request reaches its meaning. -/
theorem State.handle_of_asked : (s.taken r).handle r.mb code (reqWords r code) ctxHop admin body = body (reqOf r code u) (s.taken r) := by
  obtain ⟨booted, awake, lit, mailbox, served, alone, oldest, word0, path, long, form, named, allowed, class_, hop⟩ := State.asked_parts asked
  obtain ⟨p, parsed, below⟩ := State.parsePath_of_resolve named
  obtain ⟨pools, taken⟩ := s.taken_eq r
  have admitted : ¬ (admin p.below && !(s.taken r).isAdmin r.mb) = true := by
    rw [below, taken]
    change ¬ (admin u && !s.isAdmin r.mb) = true
    simp only [Bool.or_eq_true, Bool.not_eq_true'] at class_
    obtain any | physical := class_
    · simp [any]
    · simp [physical]
  have named : (s.taken r).resolve (reqHops r code) = some (.unit u) := by rw [taken]; exact named
  have allowed : (s.taken r).mayName r.mb (.unit u) = true := by rw [taken]; exact allowed
  unfold State.handle
  dsimp only
  have wellFormed : ¬ (decide (fld (reqHead r code) 63 35 ≠ 0) || decide (4 < fld (reqHead r code) 34 32) ||
      decide ((reqWords r code).length < 1 + fld (reqHead r code) 34 32) || !pathWordsOk (reqPath r code)) = true := by
    simp [word0, Nat.not_lt.mpr path, Nat.not_lt.mpr long, form]
  refine (if_neg wellFormed).trans ?_
  change (match parsePath (reqHops r code) with | none => _ | some p => _) = _
  rw [parsed]
  refine (if_neg admitted).trans ?_
  change (match (s.taken r).resolve (reqHops r code) with | none => _ | some t => _) = _
  rw [named]
  refine (if_neg (by simp [allowed])).trans (if_neg ?_)
  obtain any | unit_ := hop
  · simp [any]
  · cases u with
    | ctx x => exact absurd rfl (unit_ x)
    | _ => simp

/-- The request leaves its queue, its meaning acts, and the completion that the meaning gives follows (R373, R374). -/
theorem State.kettle_of_asked : s.kettle r code ctxHop admin body = match (body (reqOf r code u) (s.taken r)).2 with
    | none => (body (reqOf r code u) (s.taken r)).1
    | some (st, reply) =>
      ((body (reqOf r code u) (s.taken r)).1.complete r.mb code (reqTag r code) st reply).answerUndefined r.mb := by
  have handled := State.handle_of_asked asked body
  obtain ⟨booted, awake, lit, mailbox, served, alone, oldest, -⟩ := State.asked_parts asked
  obtain ⟨k, packets, words⟩ : ∃ k, (s.queue 0 (0x100 + 2 * r.mb)).packets.head? = some k ∧ k.words = reqWords r code := by
    simpa using oldest
  obtain ⟨pools, taken⟩ := s.taken_eq r
  have booted' : (s.taken r).trust.stage = 0x0F := by rw [taken]; exact booted
  obtain ⟨rest, packets⟩ := List.head?_eq_some_iff.mp packets
  unfold State.kettle
  dsimp only
  rw [if_neg (by omega), if_neg (by simpa [awake, lit, Nat.not_le.mpr mailbox] using served), packets]
  dsimp only
  rw [if_neg (by simp [words]), if_neg (by simp [alone])]
  have stage : decide ((s.takeOldest 0 (0x100 + 2 * r.mb)).trust.stage = 0xFE) = false := by
    change decide ((s.taken r).trust.stage = 0xFE) = false
    rw [booted']
    rfl
  have handled : (s.takeOldest 0 (0x100 + 2 * r.mb)).handle r.mb code (reqWords r code) ctxHop admin body = _ := handled
  simp only [stage, Bool.false_and, Bool.false_eq_true, if_false, handled]
  rfl

/-- A meaning that answers: the request completes with its status and words. -/
theorem exec_of_asked {t : State} {st : Nat} {reply : List W64} (answers : body (reqOf r code u) (s.taken r) = (t, some (st, reply))) :
    Host.Outcome.next (s.kettle r code ctxHop admin body) = answered r code st reply t := by
  rw [State.kettle_of_asked asked body, answers]
  rfl

end

/-! ### What the taking of a request leaves -/

section
variable (s : State) (r : Req)

@[simp] theorem State.taken_unit (u : UnitId) : (s.taken r).unit u = s.unit u := by
  obtain ⟨pools, taken⟩ := s.taken_eq r
  rw [taken]
  rfl

@[simp] theorem State.taken_ustate (u : UnitId) : (s.taken r).ustate u = s.ustate u := by
  obtain ⟨pools, taken⟩ := s.taken_eq r
  rw [taken]
  rfl

@[simp] theorem State.taken_ctx (x : Nat) : (s.taken r).ctx x = s.ctx x := by
  obtain ⟨pools, taken⟩ := s.taken_eq r
  rw [taken]
  rfl

@[simp] theorem State.taken_faults : (s.taken r).faults = s.faults := by
  obtain ⟨pools, taken⟩ := s.taken_eq r
  rw [taken]

@[simp] theorem State.taken_members : (s.taken r).members = s.members := by
  obtain ⟨pools, taken⟩ := s.taken_eq r
  rw [taken]

@[simp] theorem State.taken_now : (s.taken r).now = s.now := by
  obtain ⟨pools, taken⟩ := s.taken_eq r
  rw [taken]
  rfl

end

/-! ### UNIT_QUERY, UNIT_FENCE, UNIT_RELEASE, UNIT_ENABLE and UNIT_DISABLE (R384, R386, R387, R839, R840) -/

section
variable {s : State} {r : Req} {u : UnitId}

theorem exec_unitRelease_of_asked (asked : s.asked r 0x0004 true anyClass u = true) (args : reqArgs r 0x0004 = []) (unit_ : ∀ x, u ≠ .ctx x)
    (shutdown : (s.unit u).shutdown = false) (pending : (s.unit u).pendingEnable = none) :
    (s.ustate u = .fenced → (s.unit u).accepted = none → exec (.unitRelease r) s = answered r 0x0004 St.accepted []
      ((s.taken r).setUnit u { s.unit u with accepted := some { by_ := some (reqOf r 0x0004 u).ref, enable := false } })) ∧
    (s.ustate u = .draining ∨ s.ustate u = .resetting → exec (.unitRelease r) s = answered r 0x0004 St.pending []
      ((s.taken r).setUnit u { s.unit u with pendingEnable := some { by_ := some (reqOf r 0x0004 u).ref, enable := false } })) := by
  refine ⟨fun fenced accepted => exec_of_asked asked _ ?_, fun state => exec_of_asked asked _ ?_⟩
  · cases u with
    | ctx x => exact absurd rfl (unit_ x)
    | _ => simp [reqOf, args, fenced, shutdown, pending, accepted, done]
  · cases u with
    | ctx x => exact absurd rfl (unit_ x)
    | _ => obtain state | state := state <;> simp [reqOf, args, state, shutdown, pending, done]

theorem exec_unitEnable_of_asked (asked : s.asked r 0x0005 true enableClass u = true) (args : reqArgs r 0x0005 = []) (unit_ : ∀ x, u ≠ .ctx x)
    (pending : (s.unit u).pendingEnable = none) :
    (s.ustate u = .fenced → (s.unit u).accepted = none → exec (.unitEnable r) s = answered r 0x0005 St.accepted []
      ((s.taken r).setUnit u { s.unit u with accepted := some { by_ := some (reqOf r 0x0005 u).ref, enable := true } })) ∧
    (s.ustate u = .draining ∨ s.ustate u = .resetting → exec (.unitEnable r) s = answered r 0x0005 St.pending []
      ((s.taken r).setUnit u { s.unit u with pendingEnable := some { by_ := some (reqOf r 0x0005 u).ref, enable := true } })) := by
  refine ⟨fun fenced accepted => exec_of_asked asked _ ?_, fun state => exec_of_asked asked _ ?_⟩
  · cases u with
    | ctx x => exact absurd rfl (unit_ x)
    | _ => simp [reqOf, args, fenced, pending, accepted, done]
  · cases u with
    | ctx x => exact absurd rfl (unit_ x)
    | _ => obtain state | state := state <;> simp [reqOf, args, state, pending, done]

theorem exec_unitDisable_of_asked (asked : s.asked r 0x0006 true enableClass u = true) (args : reqArgs r 0x0006 = []) (unit_ : ∀ x, u ≠ .ctx x)
    (active : s.ustate u = .active) : exec (.unitDisable r) s = answered r 0x0006 St.accepted []
      (let t := (s.taken r).fence u .drain; t.setUnit u { t.unit u with shutdown := true, disableBy := some (reqOf r 0x0006 u).ref }) := by
  refine exec_of_asked asked _ ?_
  cases u with
  | ctx x => exact absurd rfl (unit_ x)
  | _ => simp [reqOf, args, active, done]

end

/-- Settles O34. -/
theorem kettleAnswersUnitCommands : Obligations.KettleAnswersUnitCommands := by
  refine ⟨fun s r u asked args => exec_of_asked asked _ ?_, fun s r u err asked args state => exec_of_asked asked _ ?_,
    fun s r u asked args unit_ shutdown pending => exec_unitRelease_of_asked asked args unit_ shutdown pending,
    fun s r u asked args unit_ pending => exec_unitEnable_of_asked asked args unit_ pending,
    fun s r u asked args unit_ active => exec_unitDisable_of_asked asked args unit_ active,
    fun s r x asked args stopped due voted => exec_of_asked asked _ ?_, fun s r x asked args active => exec_of_asked asked _ ?_⟩
  · simp [reqOf, args]
  · have mode : bitAt (if err then 1#64 else 0#64) 0 = err := by cases err <;> rfl
    have word : fld (if err then 1#64 else 0#64) 63 1 = 0 := by cases err <;> rfl
    obtain state | state := state <;> simp [reqOf, KReq.arg, args, state, mode, word, done]
  · simp [reqOf, args, State.enableCtx, stopped, due, voted, done, State.updCtx]
  · simp [reqOf, args, State.disableCtx, active, done, State.updCtx]

end Sys2Proof.Machine
end

section
/-! SUPPORT. Proofs/Faults.lean: error records, the reset ladder and its watchdogs, and a domain period under an armed injection. -/
namespace Sys2Proof.Machine

/-! ### Records of errors: read, cleared, aged (R667, R673, R674, R676, R690, R693) -/

@[simp] theorem State.taken_mayRead (s : State) (r : Req) (mb : Nat) (m : RecMeta) : (s.taken r).mayRead mb m = s.mayRead mb m := by
  obtain ⟨pools, taken⟩ := s.taken_eq r
  rw [taken]
  rfl

/-- A word below a power of two has nothing above it. -/
theorem fld_eq_zero_of_lt {w : W64} {hi lo : Nat} (small : w.toNat < 2 ^ lo) : fld w hi lo = 0 := by
  simp [fld, Nat.div_eq_of_lt small]

theorem fld_eq_toNat_of_lt {w : W64} {hi : Nat} (small : w.toNat < 2 ^ (hi + 1)) : fld w hi 0 = w.toNat := by
  simp [fld, Nat.mod_eq_of_lt small]

section
variable {s : State} {r : Req} {u : UnitId} {a : W64}

theorem exec_errRead_of_asked (asked : s.asked r 0x0400 false anyClass u = true) (args : reqArgs r 0x0400 = [a]) (small : a.toNat < 2 ^ 32) :
    let all := s.faults.records.filter fun m => (hopsOf u).isPrefixOf m.path && s.mayRead r.mb m && decide (a.toNat ≤ m.seq)
    exec (.errRead r) s = answered r 0x0400 St.ok (BitVec.ofNat 64 (match all.drop 2 with | m :: _ => m.seq | [] => 0) ::
      ((all.take 2).map fun m => lengthSlot m.seq m.ctx 0x20 m.words.length :: m.words).flatten) (s.taken r) := by
  refine exec_of_asked asked _ ?_
  simp [reqOf, args, KReq.arg, fld_eq_zero_of_lt (hi := 63) small, fld_eq_toNat_of_lt (hi := 31) small, underPath] <;> rfl

theorem exec_errClear_of_asked (asked : s.asked r 0x0401 false anyClass u = true) (args : reqArgs r 0x0401 = [a]) (small : a.toNat < 2 ^ 33) :
    let hit (m : RecMeta) : Bool := m.cls == .uc && m.clearedAt.isNone && (hopsOf u).isPrefixOf m.path && s.mayRead r.mb m &&
      (if bitAt a 32 then decide (m.seq ≤ fld a 31 0) else m.seq == fld a 31 0)
    let t := s.taken r
    (∃ m ∈ s.faults.records, hit m = true) →
    exec (.errClear r) s = answered r 0x0401 St.ok [BitVec.ofNat 64 (s.faults.records.filter hit).length]
      ({ t with faults := { t.faults with
        records := s.faults.records.map fun m => if hit m then { m with clearedAt := some s.steep.count } else m } } : State) := by
  intro hit t found
  have some_ : (s.faults.records.filter hit).length ≠ 0 := by
    obtain ⟨m, mem, hits⟩ := found
    exact List.length_pos_of_mem (List.mem_filter.mpr ⟨mem, hits⟩) |>.ne'
  refine exec_of_asked asked _ ?_
  have same : (fun m : RecMeta => m.cls == .uc && m.clearedAt.isNone && underPath u m.path && (s.taken r).mayRead r.mb m &&
      (if bitAt a 32 then decide (m.seq ≤ fld a 31 0) else m.seq == fld a 31 0)) = hit := by
    funext m
    simp [hit, underPath]
  simp only [reqOf, args, KReq.arg, List.length_singleton, List.getD_cons_zero, fld_eq_zero_of_lt (hi := 63) small, same,
    State.taken_faults, State.taken_now]
  simp [some_, t, State.now]
  intro m _
  simp [hit, underPath, and_assoc]

end

/-- Settles O40, each command by its meaning once the request is taken. -/
theorem errorRecordCommandsReadClearAndAge : Obligations.ErrorRecordCommandsReadClearAndAge := by
  refine ⟨fun s r u a asked args small => exec_errRead_of_asked asked args small,
    fun s r u a asked args small => exec_errClear_of_asked asked args small,
    fun s r i e asked args index found => exec_of_asked asked _ ?_, fun s r a asked args small limits => exec_of_asked asked _ ?_,
    fun s lost room => ?_, fun s => ⟨_, rfl, rfl, rfl, rfl⟩⟩
  · have small : (BitVec.ofNat 64 i).toNat < 2 ^ 6 := by simp; omega
    have word : (BitVec.ofNat 64 i).toNat = i := by simp; omega
    simp [reqOf, args, KReq.arg, fld_eq_zero_of_lt (hi := 63) small, fld_eq_toNat_of_lt (hi := 5) small,
      -BitVec.toNat_ofNat, word, Nat.not_lt.mpr index, found]
  · have ranged : ((List.range 7).map fun i => fld a (8 * i + 7) (8 * i)).contains 0 = false := by
      simpa [eq_comm] using limits
    simp [reqOf, args, KReq.arg, fld_eq_zero_of_lt (hi := 63) small, done]
    exact fun i range zero => absurd zero (limits i range)
  · exact if_neg (by simp [lost, room])

/-! ### Resets asked for, done or late, and watchdogs (R681 to R692) -/

section
variable {s : State} {r : Req} {u : UnitId}

/-- The Module rung's request completes before the module resets (R688). -/
theorem State.answerNow_of_mailbox {k : KReq} (st : Nat) (local_ : k.mb < 256) : s.answerNow k st = s.complete k.mb k.code k.tag st [] :=
  if_neg (by omega)

theorem exec_unitReset_of_asked (asked : s.asked r 0x0007 false anyClass u = true) (args : reqArgs r 0x0007 = []) (rung : rungOf u ≠ 6) :
    exec (.unitReset r) s = answered r 0x0007 St.accepted [] ((s.taken r).startRung u (rungOf u) 0
      (some (reqOf r 0x0007 u).ref) none false) := by
  refine exec_of_asked asked _ ?_
  have args : (reqOf r 0x0007 u).args = [] := args
  have unit_ : (reqOf r 0x0007 u).unit = u := rfl
  simp [args, unit_, rung, done]

theorem exec_unitReset_of_module (asked : s.asked r 0x0007 false anyClass u = true) (args : reqArgs r 0x0007 = []) (rung : rungOf u = 6) :
    exec (.unitReset r) s = .next (((s.taken r).complete r.mb 0x0007 (reqTag r 0x0007) St.ok []).moduleRung false) := by
  have mailbox := (State.asked_parts asked).mailbox
  have args : (reqOf r 0x0007 u).args = [] := args
  have unit_ : (reqOf r 0x0007 u).unit = u := rfl
  have arm : exec (.unitReset r) s = execUnitReset r s := rfl
  rw [arm, execUnitReset, State.kettle_of_asked asked]
  simp only [args, unit_, rung, List.isEmpty_nil, Bool.not_true, Bool.false_eq_true, if_false, if_true]
  rw [State.answerNow_of_mailbox _ (show (reqOf r 0x0007 u).mb < 256 from by change r.mb < 256; omega)]
  rfl

theorem exec_serviceRestore_of_asked (asked : s.asked r 0x0404 false adminClass .module = true) (args : reqArgs r 0x0404 = []) :
    exec (.serviceRestore r) s = .next (((s.taken r).complete r.mb 0x0404 (reqTag r 0x0404) St.ok []).moduleRung true) := by
  have mailbox := (State.asked_parts asked).mailbox
  have args : (reqOf r 0x0404 .module).args = [] := args
  have arm : exec (.serviceRestore r) s = execServiceRestore r s := rfl
  rw [arm, execServiceRestore, State.kettle_of_asked asked]
  simp only [args, List.isEmpty_nil, Bool.not_true, Bool.false_eq_true, if_false]
  rw [State.answerNow_of_mailbox _ (show (reqOf r 0x0404 .module).mb < 256 from by change r.mb < 256; omega)]
  rfl

end

theorem State.moduleRung_of_unfenced {s : State} (service : Bool) (open_ : (s.unit .module).fence ≠ some .err) :
    s.moduleRung service = (s.fence .module .err).warmReset service := by
  rw [State.moduleRung, if_neg (by simpa using open_)]

section
variable {s : State} {u : UnitId} {engine us : Nat} {r : Rung}
  (found : (s.faults.rungs.find? fun r => r.unit == u && r.engine == engine) = some r)
include found

theorem execResetRungComplete_of_rung :
    let s1 := ({ s with faults := { s.faults with
      rungs := s.faults.rungs.filter fun q => !(q.unit == u && q.engine == engine), resets := satN 32 (s.faults.resets + 1) } } :
        State).resetDomain u r.code
    let s2 := if r.code = 1 then s1 else { s1 with members := { s1.members with unscored := u :: s1.members.unscored.filter fun v => v != u } }
    let s3 := if (s2.unit u).fence.isSome && r.code ≠ 1 then
      (match (s2.unit u).disableBy with
        | some c => (s2.setUnit u { s2.unit u with complete := true, disableBy := none }).commandDone c none
        | none => s2.setUnit u { s2.unit u with complete := true, disableBy := none }) else s2
    let e : Event := { kind := 0x0401, detail := mkWord [(0, 4, r.code), (4, 1, b2n r.escalated), (32, 32, us)] }
    let told := forL r.askers (fun c s => s.cmdEvent c none e) s3
    execResetRungComplete u engine us s = match r.ctx with | some x => .next (told.event x e) | none => .next told := by
  unfold execResetRungComplete
  rw [found] <;> rfl

theorem execResetTimeout_of_rung :
    let t := ({ s with faults := { s.faults with
        rungs := s.faults.rungs.filter fun q => !(q.unit == u && q.engine == engine), timeouts := satN 16 (s.faults.timeouts + 1) } } :
          State).raise {
          code := 0x0902, cls := .ce, unit := u, ctx := r.ctx, a := BitVec.ofNat 64 r.code }
    execResetTimeout u engine s = if r.code = 0 then .next t else .next (
      let up := rungAbove u r.code
      let t := t.startRung up.1 up.2 0 r.requester r.ctx true
      { t with faults := { t.faults with
        rungs := t.faults.rungs.map fun q => if covers q.unit up.1 then { q with joined := q.joined ++ r.joined } else q } }) := by
  unfold execResetTimeout
  rw [found]
  rfl

end

/-- A core engine without progress for 2 steeps: its record, its context fenced, its engine's rung (R681 to R683). -/
theorem execWatchdogExpiry_of_idle {s : State} {k engine x begun op ref : Nat}
    (work : s.engineWork (.core k) engine = some (some x, begun, op, ref))
    (core : engine ≤ 3) (idle : 2 ≤ s.idleSteeps (.core k) engine) :
    execWatchdogExpiry (.core k) engine s = .next ((((({ s with faults := { s.faults with
        watchdogLog := mkWord [(0, 9, k), (10, 1, 1), (11, 3, x), (24, 8, engine), (32, 32, s.steep.count)]
        watch := s.faults.watch.filter fun d => !(d.unit == .core k && d.engine == engine) } } : State).fenceCtx x).raise {
      code := 0x0900, cls := .uc, unit := .core k, ctx := some x, opcode := op, opRef := ref
      a := mkWord [(0, 8, engine), (8, 8, satN 8 (s.idleSteeps (.core k) engine))] })).startRung (.core k) 1 engine none (some x) false) := by
  have queue : engine ≠ 8 := by omega
  have caddy : engine ≠ 4 := by omega
  unfold execWatchdogExpiry
  rw [work]
  simp only [queue, caddy, if_false, Nat.not_lt.mpr idle]
  rfl

/-- Settles O41, each reset by the equation of its event. -/
theorem resetLadderAndWatchdogs : Obligations.ResetLadderAndWatchdogs := by
  refine ⟨fun s r u asked args => ⟨exec_unitReset_of_asked asked args, exec_unitReset_of_module asked args⟩,
    fun s r asked args => exec_serviceRestore_of_asked asked args, fun s service open_ => State.moduleRung_of_unfenced service open_,
    fun s u engine us r found => ?_, fun s k engine x begun op ref work core idle => execWatchdogExpiry_of_idle work core idle, fun s => ?_⟩
  · have complete := execResetRungComplete_of_rung (us := us) found
    have late := execResetTimeout_of_rung found
    refine ⟨fun x ctx => ?_, fun ctx => ?_, fun code => late.trans (if_neg code), fun code => late.trans (if_pos code)⟩
    · exact complete.trans (by rw [ctx] <;> rfl)
    · exact complete.trans (by rw [ctx] <;> rfl)
  · exact ⟨fun idle => if_neg (Nat.not_lt.mpr idle), fun idle => if_pos idle, fun due => if_pos due,
      fun due stage cold => if_neg (by simp [stage, cold, Option.isSome_iff_ne_none.mp due])⟩

/-! ### A completion leaves the memory unit (R370, R375) -/

@[simp] theorem State.notify_mem (s : State) (sink : Sink) (w : W64) : (s.notify sink w).mem = s.mem := by
  cases sink with
  | msix v =>
    change (s.msix v).mem = s.mem
    unfold State.msix
    dsimp only
    repeat' split
    all_goals rfl
  | _ => rfl

theorem State.put_mem {s t : State} {pool qid ty : Nat} {ctx : Option Nat} {ws : List W64} (put : s.put pool qid ctx ty ws = some t) :
    t.mem = s.mem := by
  obtain ⟨-, rfl⟩ := State.put_eq_some_iff.mp put
  simp

@[simp] theorem State.takeOldest_mem (s : State) (pool qid : Nat) : (s.takeOldest pool qid).mem = s.mem := by
  obtain ⟨pools, taken⟩ := s.takeOldest_eq pool qid
  rw [taken]

theorem State.putCompletion_mem {s t : State} {mb : Nat} {ws : List W64} (written : s.putCompletion mb ws = some t) : t.mem = s.mem := by
  obtain ⟨u, put, rfl⟩ := Option.map_eq_some_iff.mp written
  have kept := State.put_mem put
  exact kept

@[simp] theorem State.complete_mem (s : State) (mb code tag status : Nat) (reply : List W64) :
    (s.complete mb code tag status reply).mem = s.mem := by
  simp only [State.complete, State.settleRequest]
  split
  · rfl
  · cases written : State.putCompletion _ mb (s.completionWords code tag status reply) with
    | none => rfl
    | some t =>
      have kept := State.putCompletion_mem written
      exact kept

@[simp] theorem undefinedLoop_mem (fuel mb : Nat) (s : State) : (undefinedLoop fuel mb s).mem = s.mem := by
  induction fuel generalizing s with
  | zero => rfl
  | succ fuel ih =>
    unfold undefinedLoop
    dsimp only
    split
    · rfl
    · split
      · rfl
      · split
        · rfl
        · rw [ih]
          simp

/-- Two answers that agree come from states with one memory unit. -/
theorem mem_eq_of_answered_eq {r : Req} {code st st' : Nat} {reply reply' : List W64} {s t : State}
    (same : answered r code st reply s = answered r code st' reply' t) : s.mem = t.mem := by
  injection same with same
  simpa [State.answerUndefined] using congrArg State.mem same

/-! ### DOMAIN_PERIOD while an injection waits for the error records (R45, R329) -/

/-- A DOMAIN_PERIOD of period 8 at count 40. -/
def periodRequest : Req := { mb := 0, top := 0#48, rest := [8#64, 40#64] }

/-- A booted module that knows another module of its domain, to which no route leads, with an injection armed at place 37. -/
def injectionArmed : State :=
  ({ State.reset with
      trust := { stage := 0x0F }
      members := { modules := [(5, [0x2005])] }
      mem := { State.reset.mem with injArm := true, injPlace := 37 } } : State).updQueue 0 0x100 fun q =>
    { q with packets := [{ seq := 0, ctx := some 0, ty := 1, words := reqWords periodRequest 0x0030 }] }

/-- The state that answers the command: the packet to the other module meets no route, the record of that is written, and the armed
injection strikes it. -/
def injectionStruck : State :=
  let s := injectionArmed.taken periodRequest
  State.inject { s with steep := { s.steep with nextQ := 8, atCount := 40, periodBy := some ⟨0, 0, 0x0030⟩ } }
    0x07 7 (pathWords [0x2005]) none 0 [domainWord 0x0030, 8#64, 40#64]

theorem injectionArmed_asked : injectionArmed.asked periodRequest 0x0030 false adminClass .module = true := by decide

theorem injectionStruck_disarmed : injectionStruck.mem.injArm = false := by decide

theorem exec_domainPeriod_injectionArmed :
    exec (.domainPeriod periodRequest) injectionArmed = answered periodRequest 0x0030 St.accepted [] injectionStruck :=
  exec_of_asked injectionArmed_asked _ rfl

/-- Refutes O48 in its DOMAIN_PERIOD clause: that the memory unit stays is false where an injection is armed for the next word of
the error records (place 37 of R328) and a module of the domain has no route, since the record of the missing route takes it. -/
theorem not_streamsStagesAndCompositesByCommand : ¬ Obligations.StreamsStagesAndCompositesByCommand := by
  intro claimed
  obtain ⟨-, -, -, -, -, -, period, -⟩ := claimed
  obtain ⟨u, run, -, kept, -⟩ := period injectionArmed periodRequest 8 40 injectionArmed_asked
    ⟨by decide, by decide⟩ (by decide) (by decide) rfl
  have struck : u.mem = injectionStruck.mem := mem_eq_of_answered_eq (run.symm.trans exec_domainPeriod_injectionArmed)
  have armed : injectionStruck.mem.injArm = true := by
    rw [← struck, kept]
    rfl
  rw [injectionStruck_disarmed] at armed
  cases armed

end Sys2Proof.Machine
end

section
/-! SUPPORT. Proofs/PassEnd.lean: the end of a pass: predictions that hold, the comparison, and what the settled sums become. -/
namespace Sys2Proof.Machine

/-! ### Predictions of the strainer (R176 to R179) -/

theorem addLists_length (a b : List Nat) : (addLists a b).length = max a.length b.length := by
  simp [addLists]

/-- Zeros add nothing to a list of their length. -/
theorem addLists_zeros {n : Nat} {l : List Nat} (long : l.length = n) : addLists (List.replicate n 0) l = l := by
  subst long
  refine List.ext_getElem (by simp [addLists]) fun i _ inside => ?_
  simp [addLists, inside]

/-- A list of 128 sums keeps its length under rows of at most 128. -/
theorem length_foldl_addLists (rows : List (List Nat)) (start : List Nat) (narrow : ∀ r ∈ rows, r.length ≤ start.length) :
    (rows.foldl addLists start).length = start.length := by
  induction rows generalizing start with
  | nil => rfl
  | cons r rest ih =>
    have first : (addLists start r).length = start.length := by
      rw [addLists_length, max_eq_left (narrow r List.mem_cons_self)]
    rw [List.foldl_cons, ih, first]
    exact fun q inRest => first ▸ narrow q (List.mem_cons_of_mem _ inRest)

/-- The form of what lines hold: 64 rows and 128 columns, residues in their ranges (R176). -/
structure Lines.Wf (l : Lines) : Prop where
  rows : l.rows.length = 64
  cols : l.cols.length = 128
  rowBad : l.rowBad.length = 64
  colBad : l.colBad.length = 128
  rowRange : ∀ e ∈ l.rows, e < 255
  colRange : ∀ e ∈ l.cols, e < 127

theorem Lines.of_wf (cells : List W32) : (Lines.of cells).Wf := by
  have down (f : W32 → Nat) : (((List.range 64).map (setRow cells)).foldl (fun s r => addLists s (r.map f)) (List.replicate 128 0)).length = 128 := by
    have narrow := length_foldl_addLists (((List.range 64).map (setRow cells)).map (·.map f)) (List.replicate 128 0)
      (by simp [setRow])
    simpa only [List.foldl_map, List.length_replicate] using narrow
  refine ⟨by simp [Lines.of], ?_, by simp [Lines.of], by simpa only [Lines.of] using down cellBad, ?_, ?_⟩
  · simp only [Lines.of, List.length_map]
    exact down _
  · simp only [Lines.of, List.forall_mem_map]
    exact fun r _ => Nat.mod_lt _ (by decide)
  · simp only [Lines.of, List.forall_mem_map]
    exact fun r _ => Nat.mod_lt _ (by decide)

/-- What the accumulators hold, less itself, is nothing. -/
theorem Lines.less_self {l : Lines} (wf : l.Wf) : l.less l = {} := by
  have zeros (f : Nat × Nat → Nat) (nothing : ∀ e, f (e, e) = 0) (a : List Nat) (n : Nat) (long : a.length = n) :
      (a.zip a).map f = List.replicate n 0 := by
    subst long
    refine List.ext_getElem (by simp) fun i _ _ => by simp [nothing]
  unfold Lines.less
  rw [zeros _ (by intro e; omega) _ 64 wf.rows, zeros _ (by intro e; omega) _ 128 wf.cols,
    zeros _ (by intro e; omega) _ 64 wf.rowBad, zeros _ (by intro e; omega) _ 128 wf.colBad]

/-- Predictions that start from nothing are what the operands give. -/
theorem Lines.zero_add {l : Lines} (wf : l.Wf) : ({} : Lines).add l = l := by
  have same (n : Nat) (m : Nat) (a : List Nat) (long : a.length = n) (range : ∀ e ∈ a, e < m) :
      ((List.replicate n 0).zip a).map (fun e => (e.1 + e.2) % m) = a := by
    subst long
    refine List.ext_getElem (by simp) fun i _ inside => ?_
    simp [Nat.mod_eq_of_lt (range _ (List.getElem_mem inside))]
  unfold Lines.add
  rw [same 64 255 _ wf.rows wf.rowRange, same 128 127 _ wf.cols wf.colRange, addLists_zeros wf.rowBad, addLists_zeros wf.colBad]

/-- Lines that agree compare clean. -/
theorem Lines.compare_self_clean (l : Lines) : (l.compare l).clean = true := by
  have same (a : List Nat) : differ a a = [] := by simp [differ]
  simp [Lines.compare, Compared.clean, same]

/-! ### Accumulator sets of a core (R203, R204) -/

@[simp] theorem Core.live_setLive (c : Core) (a : AccSet) : (c.setLive a).live = a := by
  unfold Core.setLive Core.live
  split <;> simp_all

@[simp] theorem Core.shadow_setLive (c : Core) (a : AccSet) : (c.setLive a).shadow = c.shadow := by
  unfold Core.setLive Core.shadow
  split <;> simp_all

@[simp] theorem Core.setLive_select (c : Core) (a : AccSet) : (c.setLive a).select = c.select := by
  unfold Core.setLive
  split <;> rfl

@[simp] theorem Core.setLive_store (c : Core) (a : AccSet) : (c.setLive a).store = c.store := by
  unfold Core.setLive
  split <;> rfl

@[simp] theorem Core.setLive_fail (c : Core) (a : AccSet) : (c.setLive a).fail = c.fail := by
  unfold Core.setLive
  split <;> rfl

@[simp] theorem Core.setLive_injArm (c : Core) (a : AccSet) : (c.setLive a).injArm = c.injArm := by
  unfold Core.setLive
  split <;> rfl

@[simp] theorem Core.setLive_pour (c : Core) (a : AccSet) : (c.setLive a).pour = c.pour := by
  unfold Core.setLive
  split <;> rfl

theorem Core.setLive_live (c : Core) : c.setLive c.live = c := by
  unfold Core.setLive Core.live
  split <;> rfl

/-- The swap of a core's sets: the settled set becomes ACC-S and pours (R204). -/
def Core.swapped (c : Core) (p : Pour) : Core :=
  let c := c.setLive { c.live with state := .pouring }
  { c with select := 1 - c.select, pour := some p, chain := none }

/-- What a swap makes of core `c`: the settled sums pour as `p`, from the other physical set than before (R204). -/
structure Core.Swaps (c : Core) (p : Pour) (d : Core) : Prop where
  shadow : d.shadow = { c.live with state := .pouring }
  select : d.select = 1 - c.select
  pour : d.pour = some p
  store : d.store = c.store
  fail : d.fail = c.fail

theorem Core.swaps_swapped (c : Core) (p : Pour) : c.Swaps p (c.swapped p) := by
  refine ⟨?_, congrArg (1 - ·) (Core.setLive_select ..), rfl, Core.setLive_store .., Core.setLive_fail ..⟩
  by_cases first : c.select = 0
  · simp [Core.swapped, Core.shadow, Core.setLive, first]
  · have inverted : 1 - c.select = 0 := by omega
    simp [Core.swapped, Core.shadow, Core.setLive, first, inverted]

/-- What the set that is live now becomes does not touch the pour. -/
theorem Core.Swaps.setLive {c d : Core} {p : Pour} (swaps : c.Swaps p d) (a : AccSet) : c.Swaps p (d.setLive a) :=
  ⟨(Core.shadow_setLive ..).trans swaps.shadow, (Core.setLive_select ..).trans swaps.select, (Core.setLive_pour ..).trans swaps.pour,
    (Core.setLive_store ..).trans swaps.store, (Core.setLive_fail ..).trans swaps.fail⟩

/-- Nor do the lane's tile and the stream's commands. -/
theorem Core.Swaps.setTile {c d : Core} {p : Pour} (swaps : c.Swaps p d) (tile : Option Tile) (work : List Work) :
    c.Swaps p { d with tile := tile, work := work } :=
  ⟨swaps.shadow, swaps.select, swaps.pour, swaps.store, swaps.fail⟩

@[simp] theorem State.checkOpen_core (s : State) (ctx : Option Nat) (k : Nat) : (s.checkOpen ctx).core k = s.core k := by
  unfold State.checkOpen
  split <;> rfl

@[simp] theorem State.checkClose_core (s : State) (ctx : Option Nat) (from_ k : Nat) : (s.checkClose ctx from_).core k = s.core k := by
  unfold State.checkClose
  split <;> rfl

/-! ### The comparison and what follows it (R179, R204, R205) -/

section
variable {s : State} {k : Nat} {t : Tile}

/-- Without an armed injection, sums that stand as predicted pass the comparison: no core changes and nothing is recorded. -/
theorem State.compare_of_predicted (mt : Mt) (unarmed : (s.core k).injArm = false) (predicted : t.want = Lines.of (s.core k).live.cells) :
    s.compare k t mt = s.setCore k (s.core k) := by
  have kept : ({ s.core k with injArm := false } : Core).setLive (s.core k).live = s.core k := by
    rw [← unarmed]
    exact Core.setLive_live _
  unfold State.compare
  simp only [unarmed, Bool.false_eq_true, if_false, ← predicted, Lines.compare_self_clean, if_true]
  exact congrArg (s.setCore k) kept

/-- A command that does not pour leaves its sums HELD, with its chain moved on, and the lane free (R168, R179, R204). -/
theorem State.settle_core_of_held {mt : Mt} (holds : mt.pour = false) (unarmed : (s.core k).injArm = false)
    (predicted : t.want = Lines.of (s.core k).live.cells) :
    (s.settle k t mt).core k = { (s.core k).setLive { (s.core k).live with state := .held } with
      tile := none
      chain := some {
        tileId := mt.tileId, step := mt.step, ctx := t.ctx, slot := t.slot, k := t.kBase + mt.k, kChain := t.kTotal, pred := t.want }
      work := dropWork true .taken (s.core k).work } := by
  simp [State.settle, holds, State.compare_of_predicted mt unarmed predicted]

/-- A command that pours into the EMPTY set makes its own set the one that pours, and the other the live one (R204). -/
theorem State.settle_core_of_pour {mt : Mt} (pours : mt.pour = true) (empty : (s.core k).shadow.state = .empty)
    (unarmed : (s.core k).injArm = false) (predicted : t.want = Lines.of (s.core k).live.cells) :
    (s.core k).Swaps {
        cmd := t.cmd, ctx := t.ctx, desc := t.desc, pass := t.pass, repeats := t.repeats, last := t.pass + 1 = mt.passes
        started := s.now, begun := t.passAt, tick := s.steep.ticks, lastMac := t.lastMac } ((s.settle k t mt).core k) := by
  have swapped : s.settle k t mt = s.swapSets k t mt := by simp [State.settle, pours, empty]
  have swaps := Core.swaps_swapped (s.core k) {
    cmd := t.cmd, ctx := t.ctx, desc := t.desc, pass := t.pass, repeats := t.repeats, last := t.pass + 1 = mt.passes
    started := s.now, begun := t.passAt, tick := s.steep.ticks, lastMac := t.lastMac }
  rw [swapped]
  unfold State.swapSets
  rw [State.compare_of_predicted mt unarmed predicted]
  by_cases last : t.pass + 1 = mt.passes
  · simp only [last, decide_true, if_true, State.core_setCore] at swaps ⊢
    exact swaps.setTile none _
  · simp only [last, decide_false, if_false, State.checkOpen_core, State.core_setCore] at swaps ⊢
    exact (swaps.setLive _).setTile _ _

/-- The core as it counts the cycles and MACs of a run (R210). -/
def Core.counted (c : Core) (cycles macs : Nat) : Core :=
  { c with mxCycles := satN 64 (c.mxCycles + cycles), cellMacs := satN 64 (c.cellMacs + macs) }

/-- The core when the sums of a run of `t`, of which `beyond` overflowed, stand in ACC-L (R205, R210). -/
def Core.summed (c : Core) (t : Tile) (sums : List W32) (beyond : Nat) : Core :=
  { c.setLive { c.live with cells := sums } with
    tile := some t
    overflows := if beyond = 0 then c.overflows else satN 16 (c.overflows + 1)
    longPasses := if 16384 < t.kTotal then satN 16 (c.longPasses + 1) else c.longPasses }

/-- A tile whose run gave `sums` at steep `now`: its predictions, which start from what the set held, are those of the sums (R177). -/
def Tile.predicted (t : Tile) (sums : List W32) (now : Nat) : Tile := { t with base := {}, want := Lines.of sums, lastMac := now }

section
variable (c : Core) (t : Tile) (sums : List W32) (beyond : Nat)

theorem Core.summed_live : (c.summed t sums beyond).live = { c.live with cells := sums } := Core.live_setLive ..
theorem Core.summed_shadow : (c.summed t sums beyond).shadow = c.shadow := Core.shadow_setLive ..
theorem Core.summed_select : (c.summed t sums beyond).select = c.select := Core.setLive_select ..
theorem Core.summed_store : (c.summed t sums beyond).store = c.store := Core.setLive_store ..
theorem Core.summed_fail : (c.summed t sums beyond).fail = c.fail := Core.setLive_fail ..
theorem Core.summed_injArm : (c.summed t sums beyond).injArm = c.injArm := Core.setLive_injArm ..

end

section
variable {cycles : Nat} (tile : (s.core k).tile = some t) (started : t.started = true) (runs : t.stalled = false)
  (clean : (s.core k).store.syn = []) (base : t.base = Lines.of (s.core k).live.cells)
include tile started runs clean base

/-- What PASS_SETTLE_END does with a run in which no word is in error and whose predictions start from what the set held (R177, R214). -/
theorem exec_passSettleEnd_of_clean :
    exec (.passSettleEnd k cycles ⟨[], []⟩) s =
      let mt := mtOf t.cmd
      let res := passCells mt (s.core k).store t.kBase t.kTotal t.pass t.repeats (s.core k).live.cells
      let beyond := (res.filter (·.2)).length
      let s1 := s.updCore k fun c => c.counted cycles (mt.rowsOf t.pass * mt.colsOf t.pass * mt.k)
      if 0 < beyond && (!mt.accum && mt.pour) && t.repeats < 2 then
        .next (s1.updCore k fun c => { c.setLive { state := .live } with
          tile := some { t with repeats := t.repeats + 1, base := {} }, repeated := satN 16 (c.repeated + 1) })
      else
        let t := t.predicted (res.map (·.1)) s.now
        let s2 := s1.updCore k fun c => c.summed t (res.map (·.1)) beyond
        .next (State.settle (if beyond = 0 then s2 else s2.raise {
          code := Rec.accOverflow, cls := .ce, unit := .core k, ctx := t.ctx, opcode := mt.op, opRef := mt.tileId
          a := BitVec.ofNat 64 t.pass, b := BitVec.ofNat 64 beyond }) k t mt) := by
  have noted (p : Nat → Bool) (op ref : Nat) : s.noteCoreWords k p t.ctx false op ref = s := by
    simp [State.noteCoreWords, clean, forL]
  have read (sel op ref : Nat) (cells : List W32) : s.readSet k sel t.ctx op ref [] cells = (s, cells) := rfl
  have nothing : t.base.less (Lines.of (s.core k).live.cells) = {} := by rw [base, Lines.less_self (Lines.of_wf _)]
  unfold exec
  dsimp only
  unfold execPassSettleEnd
  simp only [tile]
  rw [if_neg (by simp [started, runs])]
  simp only [noted, read, nothing, Tile.predict, Lines.zero_add (Lines.of_wf _), List.foldl_nil]
  rfl

/-- A run without an overflow settles with its sums in ACC-L. -/
theorem exec_passSettleEnd_of_exact
    (exact_ : ∀ p ∈ passCells (mtOf t.cmd) (s.core k).store t.kBase t.kTotal t.pass t.repeats (s.core k).live.cells, p.2 = false) :
    exec (.passSettleEnd k cycles ⟨[], []⟩) s =
      let mt := mtOf t.cmd
      let sums := (passCells mt (s.core k).store t.kBase t.kTotal t.pass t.repeats (s.core k).live.cells).map (·.1)
      .next (((s.updCore k fun c => c.counted cycles (mt.rowsOf t.pass * mt.colsOf t.pass * mt.k)).updCore k fun c =>
        c.summed (t.predicted sums s.now) sums 0).settle k (t.predicted sums s.now) mt) := by
  have none_beyond : (passCells (mtOf t.cmd) (s.core k).store t.kBase t.kTotal t.pass t.repeats (s.core k).live.cells).filter (·.2) = [] :=
    List.filter_eq_nil_iff.mpr fun p cell => by simp [exact_ p cell]
  rw [exec_passSettleEnd_of_clean tile started runs clean base]
  simp only [none_beyond, List.length_nil, lt_irrefl, decide_false, Bool.false_and, Bool.false_eq_true, if_false, if_true]

/-- A run of one command that overflowed and has repeats left starts again (R214). -/
theorem exec_passSettleEnd_of_overflow
    (overflowed : ∃ p ∈ passCells (mtOf t.cmd) (s.core k).store t.kBase t.kTotal t.pass t.repeats (s.core k).live.cells, p.2 = true)
    (alone : (mtOf t.cmd).accum = false) (pours : (mtOf t.cmd).pour = true) (left : t.repeats < 2) :
    exec (.passSettleEnd k cycles ⟨[], []⟩) s =
      .next ((s.updCore k fun c => c.counted cycles ((mtOf t.cmd).rowsOf t.pass * (mtOf t.cmd).colsOf t.pass * (mtOf t.cmd).k)).updCore k
        fun c => { c.setLive { state := .live } with
          tile := some { t with repeats := t.repeats + 1, base := {} }, repeated := satN 16 (c.repeated + 1) }) := by
  have beyond : 0 < ((passCells (mtOf t.cmd) (s.core k).store t.kBase t.kTotal t.pass t.repeats (s.core k).live.cells).filter (·.2)).length := by
    obtain ⟨p, cell, infinite⟩ := overflowed
    exact List.length_pos_of_mem (List.mem_filter.mpr ⟨cell, infinite⟩)
  rw [exec_passSettleEnd_of_clean tile started runs clean base]
  simp only [beyond, alone, pours, left, decide_true, Bool.not_false, Bool.and_true, if_true]

end

end

/-- Settles O17: a run without an overflow settles by `State.settle_core_of_held` or `State.settle_core_of_pour`, since its predictions
are those of its own sums. -/
theorem passSettlesIntoHeldPouringOrRepeat : Obligations.PassSettlesIntoHeldPouringOrRepeat := by
  intro s k cycles t tile started runs clean unarmed base mt res
  let s2 := (s.updCore k fun c => c.counted cycles (mt.rowsOf t.pass * mt.colsOf t.pass * mt.k)).updCore k fun c =>
    c.summed (t.predicted (res.map (·.1)) s.now) (res.map (·.1)) 0
  have core : s2.core k = ((s.core k).counted cycles (mt.rowsOf t.pass * mt.colsOf t.pass * mt.k)).summed
      (t.predicted (res.map (·.1)) s.now) (res.map (·.1)) 0 := by simp [s2]
  have unarmed2 : (s2.core k).injArm = false := by rw [core, Core.summed_injArm]; exact unarmed
  have predicted : (t.predicted (res.map (·.1)) s.now).want = Lines.of (s2.core k).live.cells := by rw [core, Core.summed_live]; rfl
  have live : (s2.core k).live.cells = res.map (·.1) := by rw [core, Core.summed_live]
  have shadow : (s2.core k).shadow = (s.core k).shadow := (congrArg Core.shadow core).trans (Core.summed_shadow ..)
  have select : (s2.core k).select = (s.core k).select := (congrArg Core.select core).trans (Core.summed_select ..)
  have store : (s2.core k).store = (s.core k).store := (congrArg Core.store core).trans (Core.summed_store ..)
  have fail : (s2.core k).fail = (s.core k).fail := (congrArg Core.fail core).trans (Core.summed_fail ..)
  refine ⟨fun exact_ holds => ?_, fun exact_ pours empty => ?_, fun overflowed alone pours left => ?_⟩
  · refine ⟨_, exec_passSettleEnd_of_exact tile started runs clean base exact_, ?_⟩
    rw [State.settle_core_of_held holds unarmed2 predicted]
    exact ⟨(Core.live_setLive ..).trans (congrArg (AccSet.mk .held) live), rfl, rfl, (Core.shadow_setLive ..).trans shadow,
      (Core.setLive_store ..).trans store, (Core.setLive_fail ..).trans fail⟩
  · have swaps := State.settle_core_of_pour pours (by rw [shadow, empty]) unarmed2 predicted
    exact ⟨_, exec_passSettleEnd_of_exact tile started runs clean base exact_, swaps.shadow.trans (congrArg (AccSet.mk .pouring) live),
      swaps.select.trans (congrArg (1 - ·) select), swaps.pour, swaps.store.trans store, swaps.fail.trans fail⟩
  · refine ⟨_, exec_passSettleEnd_of_overflow tile started runs clean base overflowed alone pours left, ?_⟩
    rw [State.core_updCore, State.core_updCore]
    exact ⟨rfl, Core.live_setLive .., rfl, Core.setLive_store ..⟩

end Sys2Proof.Machine
end

section
/-! SUPPORT. Proofs/VectorRuns.lean: where a vector run starts, stops and ends. -/
namespace Sys2Proof.Machine

/-! ### VEC_RUN (R252 to R255) -/

/-- The cost of a program is the sum of its instructions' costs (R255). -/
theorem foldl_vecCost (ws : List W64) : ws.foldl (fun n w => n + vecCost w) 0 = (ws.map vecCost).sum := by
  rw [List.sum_eq_foldl, List.foldl_map]

/-- The first reserved instruction of a program, and what costs more than declared, decide what VEC_RUN of a lane that takes it does. -/
theorem exec_vecRun_of_taken {s : State} {k : Nat} {cmd : Cmd} {d : Work} (opcode : cmd.op = 0x18) (takes : s.laneTakes k cmd = some d)
    (unfenced : s.fencedUnit (.core k) = false) (clean : (s.core k).store.syn = []) :
    let v := vcmdOf cmd
    let prog := (s.core k).store.words v.addr v.len
    let cost (ws : List W64) : Nat := (ws.map vecCost).sum
    let r : VRun := { cmd := cmd, ctx := d.ctx, prog := prog, taken := s.now }
    exec (.vecRun k cmd) s = match prog.findIdx? fun w => !(vfOf w).ok with
      | some i => .next ((s.takeWork k cmd).stopRun k r Rec.vectorEncoding St.vectorEncoding 1 i 0)
      | none =>
        if v.proCost < cost (prog.take v.pro) || v.bodyCost < cost (prog.drop v.pro) then
          .next ((s.takeWork k cmd).stopRun k r Rec.vectorCost St.vectorCost 2 0 0)
        else .next ((s.takeWork k cmd).updCore k fun c => { c with vrun := some r.enter, vxStopped := false }) := by
  have store : ((s.takeWork k cmd).core k).store = (s.core k).store := by simp [State.takeWork]
  have noted (sp : List Span) (op ref : Nat) : (s.takeWork k cmd).noteSpans k sp d.ctx op ref = s.takeWork k cmd :=
    State.noteSpans_of_clean (store ▸ clean) sp _ _ _
  unfold exec
  dsimp only
  unfold execVecRun
  simp only [takes, opcode, unfenced, noted, store, foldl_vecCost]
  rfl

/-! ### Accesses outside the spans of a run (R256) -/

/-- An instruction that stands next and whose access R256 refuses stops the run at its place. -/
theorem State.vector_of_stop {s : State} {k op a : Nat} {w : W64} {r : VRun} {body : VIn → VOut} (next : s.runsNext k w op r)
    (stops : (body (s.vin k w r)).stop = some a) :
    s.vector k w op body = s.stopRun k r Rec.vectorSpan St.vectorSpan 3 r.pc a := by
  obtain ⟨runs, going, place, opcode⟩ := next
  have due : ¬ (r.ended || decide (r.prog.getD r.pc 0#64 ≠ w) || decide (fld w 7 0 ≠ op)) = true := by
    rw [place]
    simp [going, opcode]
  unfold State.vector
  simp only [runs]
  rw [if_neg due]
  have stops : (body { f := vfOf w, run := r, vec := (s.core k).vec, mem := (s.core k).store }).stop = some a := stops
  simp only [stops]

section
variable {x : VIn} {addr : Nat → Nat} {i : Nat}

/-- The first lane of a gather outside the spans stops it. -/
theorem VIn.gather_stop (first : (x.lanes.find? fun j => !((vcmdOf x.run.cmd).mayRead (addr j) 4)) = some i) :
    (x.gather addr).stop = some (addr i) := by
  unfold VIn.gather
  simp only [first]

/-- The first lane of a scatter outside the spans stops it. -/
theorem VIn.scatter_stop (reg : Nat) (first : (x.lanes.find? fun j => !((vcmdOf x.run.cmd).mayWrite (addr j) 4)) = some i) :
    (x.scatter reg addr).stop = some (addr i) := by
  unfold VIn.scatter
  simp only [first]

end

/-- VEC_RUN_COMPLETE of a run that has ended frees the lane (R253, R258). -/
theorem exec_vecRunComplete_of_ended {s : State} {k cycles : Nat} {r : VRun} (runs : (s.core k).vrun = some r) (ended : r.ended = true) :
    exec (.vecRunComplete k cycles) s = .next (s.updCore k fun c => { c with
      vrun := none, vxCycles := satN 64 (c.vxCycles + cycles), work := dropWork false .taken c.work }) := by
  unfold exec
  dsimp only
  unfold execVecRunComplete
  simp [runs, ended]

/-- Settles O19: the first reserved instruction or the cost decides how a run starts, the first access outside the spans where it stops. -/
theorem vectorRunsStartStopAndEnd : Obligations.VectorRunsStartStopAndEnd := by
  refine ⟨fun s k cmd d opcode takes unfenced clean => ?_, fun s k cycles r => exec_vecRunComplete_of_ended,
    fun s k i w r next outside => congrArg Host.Outcome.next (State.vector_of_stop next (VIn.gather_stop outside)),
    fun s k i w r next outside => congrArg Host.Outcome.next (State.vector_of_stop next (VIn.gather_stop outside)),
    fun s k i w r next outside => congrArg Host.Outcome.next (State.vector_of_stop next (VIn.scatter_stop _ outside)),
    fun s k i w r next outside => congrArg Host.Outcome.next (State.vector_of_stop next (VIn.scatter_stop _ outside)),
    fun s k w r next outside => congrArg Host.Outcome.next (State.vector_of_stop next ?_),
    fun s k w r next outside => congrArg Host.Outcome.next (State.vector_of_stop next ?_)⟩
  · intro v prog cost r
    rw [exec_vecRun_of_taken opcode takes unfenced clean]
    dsimp only
    have exceeds : (decide (v.proCost < cost (prog.take v.pro)) || decide (v.bodyCost < cost (prog.drop v.pro))) = true ↔
        v.proCost < cost (prog.take v.pro) ∨ v.bodyCost < cost (prog.drop v.pro) := by rw [Bool.or_eq_true, decide_eq_true_iff, decide_eq_true_iff]
    have defined (encoded : ∀ w ∈ prog, (vfOf w).ok = true) : (prog.findIdx? fun w => !(vfOf w).ok) = none :=
      List.findIdx?_eq_none_iff.mpr fun w inside => by simp [encoded w inside]
    refine ⟨fun encoded prologue body => ?_, fun i first => ?_, fun encoded dear => ?_⟩
    · rw [defined encoded]
      exact if_neg (mt exceeds.mp (not_or.mpr ⟨Nat.not_lt.mpr prologue, Nat.not_lt.mpr body⟩))
    · rw [first]
    · rw [defined encoded]
      exact if_pos (exceeds.mpr dear)
  · have outside : ¬ (vcmdOf (s.vin k w r).run.cmd).mayRead (s.vin k w r).scalarAddr 8 = true := by simpa [State.vin] using outside
    simp [outside]
  · have outside : ¬ (vcmdOf (s.vin k w r).run.cmd).mayWrite (s.vin k w r).scalarAddr 8 = true := by simpa [State.vin] using outside
    simp [outside]

end Sys2Proof.Machine
end

section
/-! SUPPORT. Proofs/Maintenance.lean: injections, the repair list, memory training and calibration. -/
namespace Sys2Proof.Machine

/-! ### A report leaves the module in or out of service (R663, R668, R676) -/

@[simp] theorem State.msix_faults (s : State) (v : Nat) : (s.msix v).faults = s.faults := by
  unfold State.msix
  dsimp only
  repeat' split
  all_goals rfl

@[simp] theorem State.notify_faults (s : State) (sink : Sink) (w : W64) : (s.notify sink w).faults = s.faults := by
  cases sink with
  | msix v => exact State.msix_faults s v
  | _ => rfl

theorem State.put_faults {s t : State} {pool qid ty : Nat} {ctx : Option Nat} {ws : List W64} (put : s.put pool qid ctx ty ws = some t) :
    t.faults = s.faults := by
  obtain ⟨-, rfl⟩ := State.put_eq_some_iff.mp put
  exact State.notify_faults ..

theorem roomLoop_outOfService (fuel : Nat) (fa : Bool) (need : Nat) (s : State) :
    (roomLoop fuel fa need s).faults.outOfService = s.faults.outOfService := by
  induction fuel generalizing s with
  | zero => rfl
  | succ fuel ih =>
    dsimp only [roomLoop]
    split
    · rfl
    · split
      · rfl
      · exact ih _

theorem State.writeRecord_outOfService (s : State) (r : RecSpec) :
    (s.writeRecord r).1.faults.outOfService = s.faults.outOfService := by
  unfold State.writeRecord
  extract_lets ws f hops f1 host s1 before s2 q sink f2 m s3 entry t3 f3 s4 s5 log t5 f5
  have h1 : s1.faults.outOfService = s.faults.outOfService := by
    change f1.outOfService = _
    unfold f1
    split <;> rfl
  have h2 : s2.faults.outOfService = s.faults.outOfService := (roomLoop_outOfService ..).trans h1
  have h3 : s3.1.faults.outOfService = s.faults.outOfService := by
    unfold s3
    split
    · exact h2
    · next put =>
      rw [← h2, ← State.put_faults put]
      dsimp only
      split
      · rw [State.msix_faults]
      · rfl
  have h4 : s4.1.faults.outOfService = s.faults.outOfService := h3
  split
  · change (if s4.1.host.pldmEvents then _ else _ : State).faults.outOfService = _
    split <;> exact h4
  · exact h4

@[simp] theorem State.event_faults (s : State) (x : Nat) (e : Event) : (s.event x e).faults = s.faults := by
  dsimp only [State.event]
  split
  · next put =>
    split at put
    · exact State.put_faults put
    · cases put
  · split <;> rfl

theorem State.enter_outOfService (s : State) (r : RecSpec) : (s.enter r).faults.outOfService = s.faults.outOfService := by
  unfold State.enter
  extract_lets path dup f w s1 f1 s2
  have h2 : s2.faults.outOfService = s.faults.outOfService := by
    unfold s2
    split <;> exact State.writeRecord_outOfService ..
  split
  · rfl
  · split
    · split
      · exact h2
      · rw [State.event_faults, h2]
    · exact h2

theorem State.wroteKettle_outOfService (s : State) : s.wroteKettle.faults.outOfService = s.faults.outOfService := by
  unfold State.wroteKettle
  dsimp only
  repeat' split
  · rfl
  · rfl
  · rfl
  · exact State.enter_outOfService ..

theorem State.raise_outOfService (s : State) (r : RecSpec) : (s.raise r).faults.outOfService = s.faults.outOfService :=
  (State.wroteKettle_outOfService _).trans (State.enter_outOfService _ _)

section
variable {s t : State} (same : t.beside = s.beside)
include same

theorem trainings_of_beside : t.mem.trainings = s.mem.trainings := congrArg (fun b => b.1.mem.trainings) same
theorem trainFail_of_beside : t.mem.trainFail = s.mem.trainFail := congrArg (fun b => b.1.mem.trainFail) same

end

/-! ### Injections (R189, R190, R329) -/

/-- A write of ECC_INJECT while no context is resident is taken whole. -/
theorem exec_eccInjectArm_of_free {s : State} {v : W64} (lit : s.dark = false) (free : ∀ x, x < 8 → (s.ctx x).state = .free)
    (bitA : fld v 14 8 < 72) (bitB : bitAt v 23 = true → fld v 22 16 < 72) :
    exec (.eccInjectArm .full v) s = .next { s with mem := { s.mem with
      injPlace := fld v 29 24, injDouble := bitAt v 23, injBitB := fld v 22 16, injBitA := fld v 14 8, injArm := s.mem.injArm || bitAt v 0 } } := by
  have empty : ((List.range 8).any fun x => decide ((s.ctx x).state ≠ .free)) = false := by
    rw [List.any_eq_false]
    intro x below
    simp [free x (List.mem_range.mp below)]
  have inWord : ¬ (decide (72 ≤ fld v 14 8) || (bitAt v 23 && decide (72 ≤ fld v 22 16))) = true := by
    simpa [Nat.not_le.mpr bitA] using bitB
  unfold exec
  dsimp only
  unfold execEccInjectArm State.eccInject
  simp only [lit, Bool.false_eq_true, if_false, mergeHalf, empty, Bool.and_false]
  exact congrArg Host.Outcome.next (if_neg inWord)

/-- STRAINER_INJECT takes its cell and bit, and ARM while no context holds the die. -/
theorem exec_strainerInjectArm_of_free {s : State} {k : Nat} {h : Half} {v : W64} (below : k < 512) (lit : s.dark = false) (low : h ≠ .high)
    (free : bitAt v 0 = true → s.coreCtx k = none) :
    exec (.strainerInjectArm k h v) s = .next (s.setCore k { s.core k with
      injRow := fld v 21 16, injCol := fld v 14 8, injBit := fld v 7 3, injArm := (s.core k).injArm || bitAt v 0 }) := by
  have low : hasLow h = true := by cases h <;> simp_all [hasLow]
  have arm : exec (.strainerInjectArm k h v) s = .next (s.strainerInject k v) := by
    unfold exec
    dsimp only
    unfold execStrainerInjectArm
    simp [lit, low, Nat.not_le.mpr below]
  rw [arm]
  cases armed : bitAt v 0 with
  | false => simp [State.strainerInject, armed]
  | true => simp [State.strainerInject, armed, free armed]

/-! ### The repair list, training and calibration (R322, R323, R325, R326) -/

theorem exec_repairListAdd_of_room {s : State} {place row : Nat} {r : RowCe} (listed : r ∈ s.mem.rowCes) (atPlace : r.place = place)
    (atRow : r.row = row) (often : 3 ≤ (r.steeps.filter fun n => s.now < n + s.hourSteeps).length)
    (fresh : s.mem.repair.contains (place, row) = false) (room : (s.mem.repair.filter fun e => e.1 == place).length < 64) :
    exec (.repairListAdd place row) s = .next { s with mem := { s.mem with repair := s.mem.repair ++ [(place, row)] } } := by
  have due : (s.mem.rowCes.any fun r => (r.place == place && r.row == row) &&
      decide (3 ≤ (r.steeps.filter fun n => s.now < n + s.hourSteeps).length)) = true :=
    List.any_eq_true.mpr ⟨r, listed, by simp only [atPlace, atRow, often, beq_self_eq_true, decide_true, Bool.and_self]⟩
  unfold exec
  dsimp only
  unfold execRepairListAdd
  simp only [due, fresh, Nat.not_le.mpr room, Bool.not_true, Bool.or_self, Bool.false_eq_true, if_false]

/-- The end of a step leaves what is noted of the trainings. -/
@[simp] theorem MemUnit.trained_trainings (m : MemUnit) (part phase : Nat) : (m.trained part phase).trainings = m.trainings := by
  unfold MemUnit.trained
  repeat' split
  all_goals rfl

section
variable {s : State} {part : Nat} (known : part < 24) (unready : (s.mem.trainings.get {} part).ready = false)
  (training : (s.mem.trainings.get {} part).phase ≠ 0)
include known unready training

/-- What the end of a training step does to a part that is training. -/
theorem exec_memoryTrainingStepDone_of_training (tries : (s.mem.trainings.get {} part).tries < 3) (ok : Bool) :
    exec (.memoryTrainingStepDone part ok) s =
      let t := s.mem.trainings.get {} part
      let put (m : MemUnit) (t : Training) : State := { s with mem := { m with trainings := m.trainings.set part t } }
      if ok then .next (put (s.mem.trained part t.phase) { t with phase := t.after part, tries := 0, ready := t.after part = 0xF })
      else if t.tries + 1 < 3 then .next (put s.mem { t with tries := t.tries + 1 })
      else
        let u := put { s.mem with trainFail := true } { t with tries := 3 }
        .next (({ u with faults := { u.faults with outOfService := true }, host := { u.host with alertOos := true } } : State).raise {
          code := Rec.memTrainFail, cls := .fa, unit := { place := part, addr := 0, syn := 0#8 : BadWord }.unit
          a := BitVec.ofNat 64 part }) := by
  unfold exec
  dsimp only
  unfold execMemoryTrainingStepDone
  exact if_neg (by simp [unready, training, Nat.not_le.mpr known, Nat.not_le.mpr tries])

/-- The third failure of a step takes the module out of service. -/
theorem exec_memoryTrainingStepDone_of_last_failure (last : (s.mem.trainings.get {} part).tries = 2) :
    ∃ u, exec (.memoryTrainingStepDone part false) s = .next u ∧ u.faults.outOfService = true ∧ u.mem.trainFail = true ∧
      u.mem.trainings = s.mem.trainings.set part { s.mem.trainings.get {} part with tries := 3 } := by
  rw [exec_memoryTrainingStepDone_of_training known unready training (by omega)]
  dsimp only
  rw [if_neg (by decide), if_neg (by omega)]
  exact ⟨_, rfl, State.raise_outOfService _ _, trainFail_of_beside (State.raise_beside _ _), trainings_of_beside (State.raise_beside _ _)⟩

end

/-- Another key keeps its entry, or its absence. -/
theorem Tbl.find_set_ne {κ α : Type} [DecidableEq κ] (t : Tbl κ α) {k l : κ} (v : α) (other : k ≠ l) : (t.set k v).find l = t.find l := by
  induction t with
  | nil => simp [Tbl.set, Tbl.find, other]
  | cons e r ih =>
    obtain ⟨k', v'⟩ := e
    by_cases here : k' = k
    · subst here
      simp [Tbl.set, Tbl.find, other]
    · by_cases there : k' = l
      · subst there
        simp [Tbl.set, Tbl.find, here]
      · simpa [Tbl.set, Tbl.find, here, there] using ih

theorem Tbl.find_set {κ α : Type} [DecidableEq κ] (t : Tbl κ α) (k l : κ) (v : α) :
    (t.set k v).find l = if l = k then some v else t.find l := by
  split
  · next same => rw [same, Tbl.find_set_self]
  · next other => exact Tbl.find_set_ne t v (Ne.symm other)

/-- A part that may calibrate notes the present steep. -/
def State.marked (s : State) (c : Tbl Nat Nat) (i : Nat) : Tbl Nat Nat := if s.mayCalibrate i then c.set i s.now else c

theorem State.marked_find (s : State) (c : Tbl Nat Nat) (i j : Nat) :
    (s.marked c i).find j = if j = i ∧ s.mayCalibrate i = true then some s.now else c.find j := by
  unfold State.marked
  cases may : s.mayCalibrate i <;> simp [Tbl.find_set]

theorem exec_periodicCalibration_of_known {s : State} {stack package : Nat} (knownStack : stack < 16) (knownPackage : package < 8) :
    exec (.periodicCalibration stack package) s =
      .next { s with mem := { s.mem with calibrated := s.marked (s.marked s.mem.calibrated stack) (16 + package) } } := by
  unfold exec
  dsimp only
  unfold execPeriodicCalibration
  simp only [knownStack, knownPackage, decide_true, Bool.true_and]
  rfl

/-- Settles O23, each row by its equation. -/
theorem memoryMaintenanceCommands : Obligations.MemoryMaintenanceCommands := by
  refine ⟨fun s v => exec_eccInjectArm_of_free, fun s k h v => exec_strainerInjectArm_of_free,
    fun s place row r => exec_repairListAdd_of_room, fun s part known => ?_, fun s stack package knownStack knownPackage => ?_⟩
  · intro g unready training tries
    have ends := exec_memoryTrainingStepDone_of_training known unready training tries
    refine ⟨?_, fun more => ?_, exec_memoryTrainingStepDone_of_last_failure known unready training⟩
    · rw [ends]
      simp only [if_true, MemUnit.trained_trainings]
      rfl
    · rw [ends]
      exact (if_neg (by decide)).trans (if_pos (Nat.succ_lt_succ more))
  · refine ⟨_, exec_periodicCalibration_of_known knownStack knownPackage, fun i => ?_⟩
    rw [State.marked_find, State.marked_find]
    by_cases package_ : i = 16 + package
    · have other : 16 + package ≠ stack := by omega
      simp [package_, other]
    · by_cases stack_ : i = stack
      · subst stack_
        simp [package_]
      · simp [package_, stack_]

end Sys2Proof.Machine
end

section
/-! SUPPORT. Proofs/Streams.lean: submission of a stream, its control commands, and the end of a context switch. -/
namespace Sys2Proof.Machine

/-! ### What a put leaves of the contexts (R337, R843) -/

@[simp] theorem State.notify_ctxs (s : State) (sink : Sink) (w : W64) : (s.notify sink w).ctxs = s.ctxs := by
  cases sink with
  | msix v =>
    change (s.msix v).ctxs = s.ctxs
    unfold State.msix
    dsimp only
    repeat' split
    all_goals rfl
  | _ => rfl

theorem State.put_ctxs {s t : State} {pool qid ty : Nat} {ctx : Option Nat} {ws : List W64} (put : s.put pool qid ctx ty ws = some t) :
    t.ctxs = s.ctxs := by
  obtain ⟨-, rfl⟩ := State.put_eq_some_iff.mp put
  exact State.notify_ctxs ..

theorem State.put_ctx {s t : State} {pool qid ty : Nat} {ctx : Option Nat} {ws : List W64} (put : s.put pool qid ctx ty ws = some t)
    (x : Nat) : t.ctx x = s.ctx x := congrArg (fun c : Tbl Nat Ctx => c.get {} x) (State.put_ctxs put)

/-! ### STREAM_SUBMIT (R389 to R391, R842) -/

section
variable {s v : State} {x slot : Nat} {a start : W64} {ws : List W64}

theorem State.admitStream_of_full
    (full : s.put (slotQueue x slot).1 (slotQueue x slot).2 (some x) Config.commandType.toNat ws = none) :
    s.admitStream x slot a start ws = (s, some (St.noResource, [])) := by
  unfold State.admitStream
  simp only [full]
  rfl

section
variable (put : s.put (slotQueue x slot).1 (slotQueue x slot).2 (some x) Config.commandType.toNat ws = some v)
include put

/-- A copied stream that passes its checks stands at its slot's end, and the answer names it. -/
theorem State.admitStream_of_passing (passes : v.streamCheck x ws = none)
    (short : ((slicesOf ws).any fun g => (v.sliceEstimate x g).2) = false) :
    ∃ us, s.admitStream x slot a start ws =
      (v.setCtx x (({ v.ctx x with nextStream := ((v.ctx x).nextStream + 1) % 2 ^ 32 } : Ctx).setSlot slot { (v.ctx x).slot slot with
        streams := ((v.ctx x).slot slot).streams ++ [{
          id := (v.ctx x).nextStream, tag := fld (ws.getD 0 0#64) 63 32, step := (ws.getD 1 0#64).toNat
          startAt := start.toNat, sliceEvents := bitAt a 5, words := ws, slices := (slicesOf ws).length }] }),
        some (St.ok, [mkWord [(0, 32, (v.ctx x).nextStream), (32, 32, us)]])) := by
  unfold State.admitStream
  simp only [put, passes, List.any_map, Function.comp_def, short, Bool.false_eq_true, if_false]
  exact ⟨_, rfl⟩

/-- One that fails a check, or whose estimate is too long, is released again. -/
theorem State.admitStream_of_failing {st : Nat} (fails : v.streamCheck x ws = some st ∨ (v.streamCheck x ws = none ∧
      ((slicesOf ws).any fun g => (v.sliceEstimate x g).2) = true ∧ st = St.sliceTooLong)) :
    s.admitStream x slot a start ws = (v.consume (slotQueue x slot).1 (slotQueue x slot).2
      (s.queue (slotQueue x slot).1 (slotQueue x slot).2).seqNext, some (st, [])) := by
  unfold State.admitStream
  obtain fails | ⟨passes, long, rfl⟩ := fails
  · simp only [put, fails]
    rfl
  · simp only [put, passes, List.any_map, Function.comp_def, long, if_true]
    rfl

end
end

/-- What STREAM_SUBMIT does once its argument words are well formed (R390, R842). -/
def State.submit (s : State) (x slot n : Nat) (a b start : W64) (k : KReq) (host : HostRead) : KResult :=
  if (s.ctx x).state == .free then done s St.badContext
  else if ((s.ctx x).slot slot).held then done s St.slotHeld
  else if (s.ctx x).state == .draining || (s.ctx x).state == .fenced || s.fencedUnit (.ctx x) then done s St.unitFenced
  else if bitAt a 4 then
    (if !((s.ctx x).fastSpan b.toNat (8 * n)) then done s St.memoryRange
     else (s.noteTier (b.toNat / 8) n (some x) false 0 0).admitStream x slot a start (s.mem.space.words (b.toNat / 8) n))
  else s.dma k host b.toNat false fun ws => s.admitStream x slot a start (ws.take n)

section
variable {s : State} {r : Req} {u : UnitId} {a b start : W64} {host : HostRead} (asked : s.asked r 0x0020 false anyClass u = true)
  (args : reqArgs r 0x0020 = [a, b, start])
include asked args

theorem exec_streamSubmit_of_wellFormed (low : fld a 31 6 = 0) (high : fld a 63 48 = 0) (long : 2 ≤ fld a 47 32)
    (address : bitAt a 4 = true → fld b 63 48 = 0 ∧ b.toNat % 8 = 0) {t : State} {st : Nat} {reply : List W64}
    (answers : (s.taken r).submit (r.mb / 4) (fld a 3 0) (fld a 47 32) a b start (reqOf r 0x0020 u) host = (t, some (st, reply))) :
    exec (.streamSubmit r host) s = answered r 0x0020 st reply t := by
  have mailbox : r.mb % 32 / 4 = r.mb / 4 := by rw [Nat.mod_eq_of_lt (State.asked_parts asked).mailbox]
  refine exec_of_asked asked _ ?_
  rw [← answers, ← mailbox]
  have wellFormed : ¬ (decide ((reqOf r 0x0020 u).args.length ≠ 3) || decide (fld a 31 6 ≠ 0) || decide (fld a 63 48 ≠ 0) ||
      decide (fld a 47 32 < 2) || (bitAt a 4 && (decide (fld b 63 48 ≠ 0) || decide (b.toNat % 8 ≠ 0)))) = true := by
    cases local_ : bitAt a 4 with
    | false => simp [reqOf, args, low, high, Nat.not_lt.mpr long]
    | true => simp [reqOf, args, low, high, Nat.not_lt.mpr long, address local_]
  have words : (reqOf r 0x0020 u).arg 0 = a ∧ (reqOf r 0x0020 u).arg 1 = b ∧ (reqOf r 0x0020 u).arg 2 = start := by
    simp [KReq.arg, reqOf, args]
  obtain ⟨word0, word1, word2⟩ := words
  simp only [word0, word1, word2]
  exact if_neg wellFormed

end

section
variable {s : State} {x slot n : Nat} {a b start : W64} {k : KReq} {host : HostRead}

/-- A FREE context, then a held slot, then a fenced context refuse a stream (R842). -/
theorem State.submit_of_free (free : (s.ctx x).state = .free) :
    s.submit x slot n a b start k host = (s, some (St.badContext, [])) := by
  simp [State.submit, free, done]

theorem State.submit_of_held (known : (s.ctx x).state ≠ .free) (held : ((s.ctx x).slot slot).held = true) :
    s.submit x slot n a b start k host = (s, some (St.slotHeld, [])) := by
  simp [State.submit, known, held, done]

theorem State.submit_of_fenced (fenced : (s.ctx x).state = .fenced ∨ (s.ctx x).state = .draining)
    (unheld : ((s.ctx x).slot slot).held = false) : s.submit x slot n a b start k host = (s, some (St.unitFenced, [])) := by
  obtain fenced | fenced := fenced <;> simp [State.submit, fenced, unheld, done]

/-- The words of a stream come whole from module memory, or from the host through a function that may read it. -/
def State.gives (s : State) (x n : Nat) (a b : W64) (k : KReq) (host : HostRead) (ws : List W64) : Prop :=
  (bitAt a 4 = true ∧ (s.ctx x).fastSpan b.toNat (8 * n) = true ∧ s.mem.space.syn = [] ∧ ws = s.mem.space.words (b.toNat / 8) n) ∨
    (bitAt a 4 = false ∧ k.mb < 256 ∧ s.host.busMaster.contains (s.owner k.mb) = true ∧ host = .ok ws ∧ ws.length = n)

theorem State.noteTier_of_clean (clean : s.mem.space.syn = []) (wa n : Nat) (ctx : Option Nat) (scrub : Bool) (op ref : Nat) :
    s.noteTier wa n ctx scrub op ref = s := by
  simp [State.noteTier, clean, forL]

theorem State.submit_of_open {ws : List W64} (open_ : (s.ctx x).state = .stopped ∨ (s.ctx x).state = .active)
    (unheld : ((s.ctx x).slot slot).held = false) (unfenced : s.fencedUnit (.ctx x) = false) (given : s.gives x n a b k host ws) :
    s.submit x slot n a b start k host = s.admitStream x slot a start ws := by
  have taken : s.submit x slot n a b start k host = if bitAt a 4 then
      (if !((s.ctx x).fastSpan b.toNat (8 * n)) then done s St.memoryRange
       else (s.noteTier (b.toNat / 8) n (some x) false 0 0).admitStream x slot a start (s.mem.space.words (b.toNat / 8) n))
      else s.dma k host b.toNat false fun ws => s.admitStream x slot a start (ws.take n) := by
    obtain state | state := open_ <;> simp [State.submit, state, unheld, unfenced]
  rw [taken]
  obtain ⟨local_, span, clean, rfl⟩ | ⟨remote, mailbox, busMaster, rfl, rfl⟩ := given
  · simp [local_, span, State.noteTier_of_clean clean]
  · have may : ¬ (decide (256 ≤ k.mb) || !(s.host.busMaster.contains (s.owner k.mb))) = true := by
      rw [busMaster]
      simpa using mailbox
    rw [if_neg (by simp [remote])]
    unfold State.dma
    rw [if_neg may]
    dsimp only
    rw [List.take_length]

end

/-! ### Stream-control commands (R393, R398, R399) -/

theorem Ctx.setSlot_setSlot (c : Ctx) (n : Nat) (v w : Slot) : (c.setSlot n v).setSlot n w = c.setSlot n w :=
  congrArg (fun t => { c with slots := t }) (Tbl.set_set_self ..)

@[simp] theorem Ctx.slot_setSlot (c : Ctx) (n : Nat) (v : Slot) : (c.setSlot n v).slot n = v := Tbl.get_set_self ..

theorem State.updCtx_updCtx (s : State) (n : Nat) (f g : Ctx → Ctx) : (s.updCtx n f).updCtx n g = s.updCtx n fun c => g (f c) := by
  have twice (t : Tbl Nat Ctx) (v w : Ctx) : ({ ({ s with ctxs := t.set n v } : State) with ctxs := (t.set n v).set n w } : State) =
      { s with ctxs := t.set n w } := by rw [Tbl.set_set_self]
  unfold State.updCtx
  rw [State.ctx_setCtx]
  exact twice ..

/-- A context whose oldest stream of a slot is `t`, with others behind it. -/
def State.headed (s : State) (x slot : Nat) (t : Stream) (rest : List Stream) : State :=
  s.updCtx x fun c => c.setSlot slot { c.slot slot with streams := t :: rest }

section
variable {s : State} {x slot : Nat} {t : Stream} {rest : List Stream}

theorem State.updStream_of_head (streams : ((s.ctx x).slot slot).streams = t :: rest) (f : Stream → Stream) :
    s.updStream x slot f = s.headed x slot (f t) rest := by
  unfold State.updStream State.headed State.updCtx
  dsimp only
  rw [streams]
  rfl

@[simp] theorem State.headed_streams : (((s.headed x slot t rest).ctx x).slot slot).streams = t :: rest := by
  simp [State.headed]

theorem State.headed_headed (t' : Stream) : (s.headed x slot t rest).headed x slot t' rest = s.headed x slot t' rest := by
  simp only [State.headed, State.updCtx_updCtx, Ctx.slot_setSlot, Ctx.setSlot_setSlot]

/-- The command that stands next in its section of the running slice is taken. -/
theorem State.takeNext_of_next {op kind : Nat} {kinds : List Nat} {cmd : Cmd} (streams : ((s.ctx x).slot slot).streams = t :: rest)
    (runs : t.running.isSome = true) (next : t.nextIn cmd = some kind) (opcode : cmd.op = op) (may : kind ∈ kinds) :
    s.takeNext x slot op kinds cmd = some (t, s.headed x slot (t.took kind cmd) rest) := by
  rw [← State.updStream_of_head streams fun t => t.took kind cmd]
  unfold State.takeNext
  simp [streams, next, runs, opcode, may]

/-- A section's kind is one of the four. -/
theorem Stream.nextIn_mem {cmd : Cmd} {kind : Nat} (next : t.nextIn cmd = some kind) : kind ∈ [0, 1, 2, 3] :=
  List.mem_of_find?_eq_some (l := List.range 4) next

theorem exec_stream_of_head {cmd : Cmd} (streams : ((s.ctx x).slot slot).streams = t :: rest) (opcode : cmd.op = 1)
    (head : cmd = t.words.take 2) (first : t.done = 0) :
    exec (.stream x slot cmd) s = .next (s.headed x slot { t with
      slices := fld (cmd.w 0) 31 16, tag := fld (cmd.w 0) 63 32, step := (cmd.w 1).toNat } rest) := by
  rw [← State.updStream_of_head streams fun t => { t with
    slices := fld (cmd.w 0) 31 16, tag := fld (cmd.w 0) 63 32, step := (cmd.w 1).toNat }]
  unfold exec
  dsimp only
  unfold execStream
  simp only [streams]
  exact if_neg (by simp [opcode, ← head, first])

/-- The 14 slots are the halves of the seven words, low half first. -/
theorem literalsOf_halves (cmd : Cmd) : (literalsOf cmd).length = 14 ∧ ∀ j, j < 7 →
    (literalsOf cmd)[2 * j]? = some (lo32 (cmd.w (j + 1))) ∧ (literalsOf cmd)[2 * j + 1]? = some (hi32 (cmd.w (j + 1))) := by
  refine ⟨rfl, fun j below => ?_⟩
  interval_cases j <;> exact ⟨rfl, rfl⟩

section
variable {cmd : Cmd} {kind : Nat} (streams : ((s.ctx x).slot slot).streams = t :: rest) (runs : t.running.isSome = true)
  (next : t.nextIn cmd = some kind)
include streams runs next

theorem exec_literals_of_next (opcode : cmd.op = 4) :
    exec (.literals x slot cmd) s = .next (s.headed x slot { t.took kind cmd with literals := some (literalsOf cmd) } rest) := by
  have took := State.takeNext_of_next streams runs next opcode (Stream.nextIn_mem next)
  unfold exec
  dsimp only
  unfold execLiterals
  simp only [took, State.updStream_of_head State.headed_streams, State.headed_headed]

theorem exec_mark_of_next (opcode : cmd.op = 6) :
    exec (.mark x slot cmd) s = .next (s.headed x slot { t.took kind cmd with marks := t.marks ++ [fld (cmd.w 0) 63 32] } rest) := by
  have took := State.takeNext_of_next streams runs next opcode (Stream.nextIn_mem next)
  unfold exec
  dsimp only
  unfold execMark
  simp only [took, State.updStream_of_head State.headed_streams, State.headed_headed]
  rfl

/-- The cores of the sections of the running slice that hold a command. -/
def Stream.coresWith (t : Stream) (cmd : Cmd) (mask : Nat) : List Nat :=
  ((t.slice t.done).filter fun g => g.cmds.contains cmd).flatMap fun g => g.cores mask

theorem exec_keepLive_of_next (opcode : cmd.op = 5) (core : kind = 0) :
    exec (.keepLive x slot cmd) s = .next ((s.headed x slot (t.took 0 cmd) rest).updCtx x fun c => { c with
      keepLive := forL (t.coresWith cmd (s.ctx x).dieMask) (fun k l => l.set k (fld (cmd.w 1) 22 0)) c.keepLive }) := by
  subst core
  have took := State.takeNext_of_next streams runs next opcode (kinds := [0]) (List.mem_singleton.mpr rfl)
  have mask : ((s.headed x slot (t.took 0 cmd) rest).ctx x).dieMask = (s.ctx x).dieMask := by simp [State.headed, Ctx.setSlot]
  unfold exec
  dsimp only
  unfold execKeepLive
  simp only [took, mask]
  rfl

end
end

/-- One value set under many keys stands under each of them, and other keys keep their entry. -/
theorem Tbl.find_forL_set {κ α : Type} [DecidableEq κ] (ks : List κ) (t : Tbl κ α) (v : α) (k : κ) :
    Tbl.find (forL ks (fun k t => Tbl.set t k v) t) k = if k ∈ ks then some v else t.find k := by
  induction ks generalizing t with
  | nil => simp [forL]
  | cons a ks ih =>
    change Tbl.find (forL ks _ (Tbl.set t a v)) k = _
    rw [ih, Tbl.find_set]
    by_cases inside : k ∈ ks
    · simp [inside]
    · simp [inside]

theorem Stream.mem_coresWith {t : Stream} {cmd : Cmd} {mask k : Nat} : k ∈ t.coresWith cmd mask ↔
    ((t.slice t.done).any fun g => g.cmds.contains cmd && (g.cores mask).contains k) = true := by
  simp [Stream.coresWith, and_assoc]

/-! ### The end of a context switch (R417, R419) -/

/-- What a core's restore leaves: the contexts and the switches, and other cores. -/
@[simp] theorem State.restoreCore_ctx (s : State) (x k y : Nat) : (s.restoreCore x k).ctx y = s.ctx y := rfl
@[simp] theorem State.restoreCore_switches (s : State) (x k : Nat) : (s.restoreCore x k).switches = s.switches := rfl

theorem State.restoreCore_core_ne (s : State) (x : Nat) {k j : Nat} (other : k ≠ j) : (s.restoreCore x k).core j = s.core j :=
  State.core_updCore_ne _ _ other

/-- The core stands as its context left it. -/
theorem State.restoreCore_core (s : State) (x k : Nat) :
    ((s.restoreCore x k).core k).store = ((s.ctx x).images.get {} k).live ∧ ((s.restoreCore x k).core k).vec = ((s.ctx x).images.get {} k).vec := by
  unfold State.restoreCore
  dsimp only
  rw [State.core_updCore]
  exact ⟨rfl, rfl⟩

/-- Restores of cores one after another: the contexts and the switches stay, each core named stands as its context left it, and no
other core changes. -/
theorem State.forL_restoreCore (x : Nat) (ks : List Nat) (s : State) :
    let t := forL ks (fun k s => s.restoreCore x k) s
    t.switches = s.switches ∧ (∀ y, t.ctx y = s.ctx y) ∧ (∀ j, j ∉ ks → t.core j = s.core j) ∧
      ∀ k ∈ ks, (t.core k).store = ((s.ctx x).images.get {} k).live ∧ (t.core k).vec = ((s.ctx x).images.get {} k).vec := by
  induction ks generalizing s with
  | nil => exact ⟨rfl, fun y => rfl, fun j _ => rfl, fun k inside => absurd inside List.not_mem_nil⟩
  | cons a ks ih =>
    obtain ⟨switches, ctxs, others, restored⟩ := ih (s.restoreCore x a)
    refine ⟨switches, ctxs, fun j outside => ?_, fun k inside => ?_⟩
    · obtain ⟨other, outside⟩ := not_or.mp (mt List.mem_cons.mpr outside)
      exact (others j outside).trans (State.restoreCore_core_ne s x (Ne.symm other))
    · by_cases later : k ∈ ks
      · exact restored k later
      · obtain rfl : k = a := (List.mem_cons.mp inside).resolve_right later
        have once := State.restoreCore_core s x k
        have kept := others k later
        exact ⟨(congrArg Core.store kept).trans once.1, (congrArg Core.vec kept).trans once.2⟩

/-- The 64 cores of a die are restored. -/
def State.restoreDie (s : State) (x die : Nat) : State := forN 64 (fun i s => s.restoreCore x (64 * die + i)) s

theorem State.restoreDie_eq (s : State) (x die : Nat) :
    s.restoreDie x die = forL ((List.range 64).map (64 * die + ·)) (fun k s => s.restoreCore x k) s := by
  simp only [State.restoreDie, forN, forL, List.foldl_map]

/-- A context is free of the switch once none of its switches runs (R419). -/
def State.switched (s : State) (x : Nat) : State :=
  if s.switches.any fun v => !v.waiting && (v.to_ == x || v.from_ == some x) then s else s.updCtx x fun c => { c with switching := false }

/-- The incoming context is free of its switches, and told of their end. -/
def State.tellSwitch (s : State) (w : Switch) : State :=
  let s := s.switched w.to_
  if s.switches.any fun v => !v.waiting && v.to_ == w.to_ then s
  else s.event w.to_ { kind := 0x0006, detail := BitVec.ofNat 64 w.ns }

/-- The end of a die's switch once its cores are restored. -/
def State.endSwitch (s : State) (die : Nat) (w : Switch) : State :=
  let s := { s with switches := s.switches.filter fun v => v.die != die }
  (match w.from_ with
    | some x => s.switched x
    | none => s).tellSwitch w

/-- What the save of the outgoing context's sets finds (R837). -/
def State.readUpset (s : State) (die : Nat) (w : Switch) (upset : List (Nat × Nat)) : State :=
  match w.from_ with
  | some x => forL ((upset.map fun (u : Nat × Nat) => u.1 / 4096 % 64).eraseDups) (fun i (s : State) => s.readSaved x (64 * die + i)
      ((upset.filter fun u => u.1 / 4096 % 64 = i).map fun u => (u.1 % 4096, u.2))) s
  | none => s

theorem State.readUpset_of_sound (s : State) (die : Nat) {w : Switch} {upset : List (Nat × Nat)} (sound : upset = [] ∨ w.from_ = none) :
    s.readUpset die w upset = s := by
  unfold State.readUpset
  obtain rfl | quiet := sound
  · cases w.from_ <;> rfl
  · rw [quiet]

theorem State.switched_of_waiting {s : State} (waiting : ∀ v ∈ s.switches, v.waiting = true) (x : Nat) :
    s.switched x = s.updCtx x fun c => { c with switching := false } := by
  refine if_neg ?_
  rw [Bool.not_eq_true, List.any_eq_false]
  intro v listed
  simp [waiting v listed]

theorem State.tellSwitch_of_waiting {s : State} (waiting : ∀ v ∈ s.switches, v.waiting = true) (w : Switch) :
    s.tellSwitch w = (s.updCtx w.to_ fun c => { c with switching := false }).event w.to_ { kind := 0x0006, detail := BitVec.ofNat 64 w.ns } := by
  have none_runs : (s.switches.any fun v => !v.waiting && v.to_ == w.to_) = false := by
    rw [List.any_eq_false]
    intro v listed
    simp [waiting v listed]
  unfold State.tellSwitch
  rw [State.switched_of_waiting waiting]
  exact if_neg (ne_true_of_eq_false none_runs)

/-- Where every other switch waits, the switch is over for both contexts. -/
theorem State.endSwitch_of_waiting {s : State} {die : Nat} (waiting : ∀ v ∈ s.switches, v.die ≠ die → v.waiting = true) (w : Switch) :
    s.endSwitch die w =
      let s2 : State := { s with switches := s.switches.filter fun v => v.die != die }
      let s3 := match w.from_ with
        | some x => s2.updCtx x fun c => { c with switching := false }
        | none => s2
      (s3.updCtx w.to_ fun c => { c with switching := false }).event w.to_ { kind := 0x0006, detail := BitVec.ofNat 64 w.ns } := by
  let s2 : State := { s with switches := s.switches.filter fun v => v.die != die }
  have rest : ∀ v ∈ s2.switches, v.waiting = true := by
    intro v left
    obtain ⟨listed, other⟩ := List.mem_filter.mp left
    exact waiting v listed (bne_iff_ne.mp other)
  unfold State.endSwitch
  dsimp only
  cases w.from_ with
  | none => exact State.tellSwitch_of_waiting rest w
  | some x =>
    exact (congrArg (·.tellSwitch w) (State.switched_of_waiting rest x)).trans (State.tellSwitch_of_waiting
      (s := s2.updCtx x fun c => { c with switching := false }) rest w)

theorem exec_contextSwitchComplete_of_found {s : State} {die : Nat} {w : Switch}
    (found : (s.switches.find? fun w => w.die == die && !w.waiting) = some w) (upset : List (Nat × Nat)) :
    exec (.contextSwitchComplete ⟨die, upset⟩) s = .next (((s.readUpset die w upset).restoreDie w.to_ die).endSwitch die w) := by
  unfold exec
  dsimp only
  unfold execContextSwitchComplete
  simp only [found]
  exact (apply_ite Host.Outcome.next ..).symm

end Sys2Proof.Machine
end

section
/-! SUPPORT. Proofs/Courses.lean: what reports, packets and memory accesses of the module leave of the streams and the cores. -/
namespace Sys2Proof.Machine

/-! ### The course of the streams -/

/-- What a context's streams have come to: its slots, the cycles they took, and whether the scale history is valid. -/
def Ctx.course (c : Ctx) : Tbl Nat Slot × Nat × Nat × Bool := (c.slots, c.cyclesHeld, c.cyclesWaited, c.historyValid)

def State.courses (s : State) (x : Nat) : Tbl Nat Slot × Nat × Nat × Bool := (s.ctx x).course

/-- The courses of all contexts, and the cores. -/
def State.work (s : State) : (Nat → Tbl Nat Slot × Nat × Nat × Bool) × Tbl Nat Core := (s.courses, s.cores)

/-- With them the words of the tiers, and the marks of those that injections changed. -/
def State.track (s : State) : ((Nat → Tbl Nat Slot × Nat × Nat × Bool) × Tbl Nat Core) × Mem × List (Nat × Nat) :=
  (s.work, s.mem.space, s.mem.injected)

theorem work_of_track {s t : State} (same : t.track = s.track) : t.work = s.work := congrArg Prod.fst same
theorem space_of_track {s t : State} (same : t.track = s.track) : t.mem.space = s.mem.space := congrArg (fun p => p.2.1) same

section
variable {s t : State} (same : t.work = s.work)
include same

theorem cores_of_work : t.cores = s.cores := congrArg Prod.snd same
theorem core_of_work (k : Nat) : t.core k = s.core k := congrArg (fun c : Tbl Nat Core => c.get {} k) (cores_of_work same)
theorem course_of_work (x : Nat) : (t.ctx x).course = (s.ctx x).course := congrFun (congrArg Prod.fst same) x
theorem slot_of_work (x n : Nat) : (t.ctx x).slot n = (s.ctx x).slot n :=
  congrArg (fun c : Tbl Nat Slot × Nat × Nat × Bool => c.1.get {} n) (course_of_work same x)

end

theorem courses_of_ctxs {s t : State} (same : t.ctxs = s.ctxs) : t.courses = s.courses :=
  congrArg (fun (c : Tbl Nat Ctx) (x : Nat) => (c.get {} x).course) same

theorem track_of_beside {s t : State} (beside : t.beside = s.beside) (courses : t.courses = s.courses) : t.track = s.track := by
  have rest : (t.cores, t.mem.space, t.mem.injected) = (s.cores, s.mem.space, s.mem.injected) :=
    congrArg (fun b => (b.1.cores, b.1.mem.space, b.1.mem.injected)) beside
  exact congrArg₂ (fun c (r : Tbl Nat Core × Mem × List (Nat × Nat)) => ((c, r.1), r.2)) courses rest

theorem State.setCtx_courses (s : State) {x : Nat} {c : Ctx} (same : c.course = (s.ctx x).course) : (s.setCtx x c).courses = s.courses := by
  refine funext fun y => ?_
  unfold State.courses
  by_cases here : x = y
  · rw [← here, State.ctx_setCtx, same]
  · rw [State.ctx_setCtx_ne _ _ here]

/-- A change of a context beside its course. -/
theorem State.updCtx_track (s : State) (x : Nat) {f : Ctx → Ctx} (same : ∀ c, (f c).course = c.course) : (s.updCtx x f).track = s.track :=
  congrArg (fun c => ((c, s.cores), s.mem.space, s.mem.injected)) (s.setCtx_courses (same _))

theorem State.updJob_track (s : State) (x : Nat) (f : Job → Job) : (s.updJob x f).track = s.track := s.updCtx_track x fun _ => rfl
theorem State.updModel_track (s : State) (x m : Nat) (f : Model → Model) : (s.updModel x m f).track = s.track := s.updCtx_track x fun _ => rfl
theorem State.updUpd_track (s : State) (x : Nat) (f : Upd → Upd) : (s.updUpd x f).track = s.track := s.updCtx_track x fun _ => rfl

theorem forL_track {α : Type} {f : α → State → State} (each : ∀ a s, (f a s).track = s.track) (l : List α) (s : State) :
    (forL l f s).track = s.track := by
  induction l generalizing s with
  | nil => rfl
  | cons a l ih => exact (ih (f a s)).trans (each a s)

/-! ### Reports (R663, R668, R676, R843) -/

theorem roomLoop_ctxs (fuel : Nat) (fa : Bool) (need : Nat) (s : State) : (roomLoop fuel fa need s).ctxs = s.ctxs := by
  induction fuel generalizing s with
  | zero => rfl
  | succ fuel ih =>
    dsimp only [roomLoop]
    split
    · rfl
    · split
      · rfl
      · exact ih _

theorem State.writeRecord_ctxs (s : State) (r : RecSpec) : (s.writeRecord r).1.ctxs = s.ctxs := by
  unfold State.writeRecord
  extract_lets ws f hops f1 host s1 before s2 q sink f2 m s3 entry t3 f3 s4 s5 log t5 f5
  have h2 : s2.ctxs = s.ctxs := roomLoop_ctxs ..
  have h3 : s3.1.ctxs = s.ctxs := by
    unfold s3
    split
    · exact h2
    · next put =>
      rw [← h2, ← State.put_ctxs put]
      dsimp only
      split
      · exact State.notify_ctxs (sink := .msix _) (w := 0#64) ..
      · rfl
  have h4 : s4.1.ctxs = s.ctxs := h3
  split
  · change (if s4.1.host.pldmEvents then _ else _ : State).ctxs = _
    split <;> exact h4
  · exact h4

theorem State.event_track (s : State) (x : Nat) (e : Event) : (s.event x e).track = s.track := by
  refine track_of_beside (s.event_beside x e) ?_
  dsimp only [State.event]
  split
  · next put =>
    split at put
    · exact courses_of_ctxs (State.put_ctxs put)
    · cases put
  · split <;> exact s.setCtx_courses rfl

theorem State.enter_courses (s : State) (r : RecSpec) : (s.enter r).courses = s.courses := by
  unfold State.enter
  extract_lets path dup f w s1 f1 s2
  have h2 : s2.courses = s.courses := by
    unfold s2
    split <;> exact courses_of_ctxs (s.writeRecord_ctxs r)
  split
  · rfl
  · split
    · split
      · exact h2
      · exact (congrArg Prod.fst (work_of_track (State.event_track ..))).trans h2
    · exact h2

theorem State.wroteKettle_courses (s : State) : s.wroteKettle.courses = s.courses := by
  unfold State.wroteKettle
  dsimp only
  repeat' split
  · rfl
  · rfl
  · rfl
  · exact State.enter_courses ..

theorem State.raise_track (s : State) (r : RecSpec) : (s.raise r).track = s.track :=
  track_of_beside (s.raise_beside r) ((State.wroteKettle_courses _).trans (s.enter_courses r))

theorem State.raiseLimited_track (s : State) (key : Nat × Nat) (steeps : Nat) (r : RecSpec) :
    (s.raiseLimited key steeps r).track = s.track := by
  unfold State.raiseLimited
  split
  · split
    · rfl
    · exact State.raise_track ..
  · exact State.raise_track ..

/-! ### Packets that leave (R499 to R508) -/

theorem State.routeLost_track (s : State) (k : Route) (rset : Nat) : (s.routeLost k rset).track = s.track := by
  unfold State.routeLost
  dsimp only
  split
  · exact State.raiseLimited_track ..
  · exact State.raiseLimited_track ..
  · exact State.raiseLimited_track ..
  · rfl

theorem State.inject_track (s : State) (kind vc : Nat) (dst : List W64) (ctx : Option Nat) (rset : Nat) (body : List W64) :
    (s.inject kind vc dst ctx rset body).track = s.track := by
  unfold State.inject
  dsimp only
  split
  · rfl
  · split
    · exact State.raiseLimited_track ..
    · rfl
  · exact State.routeLost_track ..

theorem State.injectDn_track (s : State) (kind vc dn : Nat) (ctx : Option Nat) (rset : Nat) (body : List W64) :
    (s.injectDn kind vc dn ctx rset body).track = s.track := by
  unfold State.injectDn
  split
  · exact State.inject_track ..
  · rfl

/-! ### Words in error of the tiers (R310 to R317, R329) -/

/-- Each word of the tiers that has a syndrome is listed once, and an uncorrectable one is marked as an injection's. -/
structure State.UpsetsMarked (s : State) : Prop where
  once : (s.mem.space.syn.map Prod.fst).Nodup
  marked : ∀ e ∈ s.mem.space.syn, eccOf e.2 = .ue → (placeOf (8 * e.1), e.1) ∈ s.mem.injected

theorem State.upsetsMarked_of_clean {s : State} (clean : s.mem.space.syn = []) : s.UpsetsMarked := by
  refine ⟨?_, ?_⟩ <;> simp [clean]

/-- `t` follows from `s` without a UE but an injection's: the streams and the cores stay. -/
structure Quiet (s t : State) : Prop where
  keeps : s.UpsetsMarked → t.UpsetsMarked ∧ t.work = s.work

theorem Quiet.refl (s : State) : Quiet s s := ⟨fun marked => ⟨marked, rfl⟩⟩

theorem Quiet.trans {s t u : State} (first : Quiet s t) (then_ : Quiet t u) : Quiet s u := by
  refine ⟨fun marked => ?_⟩
  obtain ⟨marked, same⟩ := first.keeps marked
  obtain ⟨marked, same'⟩ := then_.keeps marked
  exact ⟨marked, same'.trans same⟩

theorem Quiet.of_track {s t : State} (same : t.track = s.track) : Quiet s t := by
  have mem : (t.mem.space, t.mem.injected) = (s.mem.space, s.mem.injected) := congrArg Prod.snd same
  obtain ⟨space, injected⟩ := Prod.mk.inj mem
  refine ⟨fun marked => ⟨⟨?_, ?_⟩, work_of_track same⟩⟩
  · rw [space]
    exact marked.once
  · rw [space, injected]
    exact marked.marked

theorem Quiet.forL {α : Type} {f : α → State → State} (each : ∀ a s, Quiet s (f a s)) (l : List α) (s : State) :
    Quiet s (Machine.forL l f s) := by
  induction l generalizing s with
  | nil => exact Quiet.refl s
  | cons a l ih => exact (each a s).trans (ih (f a s))

theorem Quiet.forN {f : Nat → State → State} (each : ∀ i s, Quiet s (f i s)) (n : Nat) (s : State) : Quiet s (Machine.forN n f s) :=
  Quiet.forL each (List.range n) s

/-! #### Stored words -/

theorem Mem.setBytes_syn (m : Mem) (a : Nat) (bs : List Byte) : (m.setBytes a bs).syn = m.syn := by
  induction bs generalizing m a with
  | nil => rfl
  | cons b bs ih => exact ih ..

/-- Stored words have no syndrome; other words keep theirs. -/
theorem Mem.storeWords_syn (m : Mem) (wa : Nat) (ws : List W64) :
    (m.storeWords wa ws).syn = m.syn.filter fun e => !(decide (wa ≤ e.1) && decide (e.1 < wa + ws.length)) := by
  induction ws generalizing m wa with
  | nil =>
    symm
    rw [Mem.storeWords, List.filter_eq_self]
    intro e _
    simp only [List.length_nil, Bool.not_eq_true', Bool.and_eq_false_iff, decide_eq_false_iff_not]
    omega
  | cons w ws ih =>
    have dropped : (m.store wa w).syn = m.syn.filter fun e => decide (e.1 ≠ wa) :=
      congrArg (fun t : Tbl Nat Byte => t.drop wa) (Mem.setBytes_syn ..)
    rw [Mem.storeWords, ih, dropped, List.filter_filter]
    refine List.filter_congr fun e _ => ?_
    rw [Bool.eq_iff_iff]
    simp only [List.length_cons, Bool.and_eq_true, Bool.not_eq_true', Bool.and_eq_false_iff, decide_eq_false_iff_not, decide_eq_true_eq]
    omega

theorem Tbl.keys_set {κ α : Type} [DecidableEq κ] (t : Tbl κ α) (k : κ) (v : α) (once : (t.map Prod.fst).Nodup) :
    ((t.set k v).map Prod.fst).Nodup ∧ ∀ e ∈ t.set k v, e ∈ t ∨ e.1 = k := by
  induction t with
  | nil => simp [Tbl.set]
  | cons d t ih =>
    obtain ⟨k', v'⟩ := d
    obtain ⟨fresh, once⟩ := List.nodup_cons.mp once
    obtain ⟨keys, entries⟩ := ih once
    by_cases here : k' = k
    · subst here
      simp only [Tbl.set, if_true]
      refine ⟨List.nodup_cons.mpr ⟨fresh, once⟩, fun e inside => ?_⟩
      obtain rfl | later := List.mem_cons.mp inside
      · exact .inr rfl
      · exact .inl (List.mem_cons_of_mem _ later)
    · simp only [Tbl.set, here, if_false]
      refine ⟨List.nodup_cons.mpr ⟨fun listed => ?_, keys⟩, fun e inside => ?_⟩
      · obtain ⟨e, inside, key⟩ := List.mem_map.mp listed
        obtain old | new := entries e inside
        · exact fresh (List.mem_map.mpr ⟨e, old, key⟩)
        · exact here (key.symm.trans new)
      · obtain rfl | later := List.mem_cons.mp inside
        · exact .inl List.mem_cons_self
        · exact (entries e later).imp_left (List.mem_cons_of_mem _)

theorem nodup_keys_filter {α : Type} {t : Tbl Nat α} (p : Nat × α → Bool) (once : (t.map Prod.fst).Nodup) :
    ((t.filter p).map Prod.fst).Nodup := (List.filter_sublist.map Prod.fst).nodup once

/-- A word whose bits turn over is listed once; others stay. -/
theorem Mem.flip_syn (m : Mem) (wa bit : Nat) (once : (m.syn.map Prod.fst).Nodup) :
    ((m.flip wa bit).syn.map Prod.fst).Nodup ∧ ∀ e ∈ (m.flip wa bit).syn, e ∈ m.syn ∨ e.1 = wa := by
  have set (m' : Mem) (v : Byte) (same : m'.syn = m.syn) :
      ((m'.setSyn wa v).syn.map Prod.fst).Nodup ∧ ∀ e ∈ (m'.setSyn wa v).syn, e ∈ m.syn ∨ e.1 = wa := by
    unfold Mem.setSyn
    rw [same]
    dsimp only
    split
    · exact ⟨nodup_keys_filter _ once, fun e inside => .inl (List.mem_of_mem_filter inside)⟩
    · exact Tbl.keys_set _ _ _ once
  unfold Mem.flip
  refine set _ _ ?_
  split
  · exact Mem.setBytes_syn ..
  · rfl

theorem MemUnit.invert_syn (u : MemUnit) (m : Mem) (wa : Nat) (once : (m.syn.map Prod.fst).Nodup) :
    ((u.invert m wa).syn.map Prod.fst).Nodup ∧ ∀ e ∈ (u.invert m wa).syn, e ∈ m.syn ∨ e.1 = wa := by
  have first := Mem.flip_syn m wa u.injBitA once
  unfold MemUnit.invert
  dsimp only
  split
  · obtain ⟨keys, entries⟩ := Mem.flip_syn (m.flip wa u.injBitA) wa u.injBitB first.1
    exact ⟨keys, fun e inside => (entries e inside).elim (first.2 e) .inr⟩
  · exact first

/-- A store into a tier: what an armed injection turns over there is marked. -/
theorem State.storeTier_quiet (s : State) (wa : Nat) (ws : List W64) : Quiet s (s.storeTier wa ws) := by
  refine ⟨fun marked => ?_⟩
  have syn := s.mem.space.storeWords_syn wa ws
  have once : ((s.mem.space.storeWords wa ws).syn.map Prod.fst).Nodup := syn ▸ nodup_keys_filter _ marked.once
  have kept : ∀ e ∈ (s.mem.space.storeWords wa ws).syn, eccOf e.2 = .ue → (placeOf (8 * e.1), e.1) ∈
      s.mem.injected.filter fun e => decide (64 ≤ e.1) || !(decide (wa ≤ e.2) && decide (e.2 < wa + ws.length)) := by
    intro e inside ue
    rw [syn] at inside
    obtain ⟨listed, outside⟩ := List.mem_filter.mp inside
    exact List.mem_filter.mpr ⟨marked.marked e listed ue, by rw [outside, Bool.or_true]⟩
  unfold State.storeTier
  dsimp only
  split
  · next i hit =>
    have atPlace : placeOf (8 * (wa + i)) = s.mem.injPlace := by
      split at hit
      · exact beq_iff_eq.mp (List.find?_some (p := fun i => placeOf (8 * (wa + i)) == s.mem.injPlace) hit)
      · cases hit
    obtain ⟨keys, entries⟩ := s.mem.invert_syn _ (wa + i) once
    refine ⟨⟨keys, fun e inside ue => ?_⟩, rfl⟩
    obtain old | new := entries e inside
    · exact List.mem_append_left _ (kept e old ue)
    · exact List.mem_append_right _ (by rw [new, atPlace]; exact List.mem_singleton.mpr rfl)
  · exact ⟨⟨once, kept⟩, rfl⟩

/-! #### Words read -/

/-- A word in error that is correctable, or an injection's, is counted and recorded, and no more. -/
theorem State.badWord_track {s : State} {w : BadWord} (harmless : eccOf w.syn = .ue → w.injected = true) (ctx : Option Nat) (scrub : Bool)
    (op ref : Nat) : (s.badWord w ctx scrub op ref).track = s.track := by
  unfold State.badWord
  dsimp only
  by_cases injected : w.injected = true
  · rw [if_pos injected]
    exact State.raiseLimited_track ..
  · have fixed : (!(eccOf w.syn == .ue)) = true := by
      rw [Bool.not_eq_true', beq_eq_false_iff_ne]
      exact fun ue => injected (harmless ue)
    rw [if_neg injected, if_pos fixed]
    refine (State.raiseLimited_track ..).trans ?_
    unfold State.rowCe
    split <;> rfl

/-- A read word is stored again without its syndrome, or stays. -/
theorem Mem.writeBack_syn (m : Mem) (wa : Nat) :
    (m.writeBack wa).syn = m.syn ∨ (m.writeBack wa).syn = m.syn.filter fun e => decide (e.1 ≠ wa) := by
  unfold Mem.writeBack
  split
  · exact .inl rfl
  · exact .inr (congrArg (fun t : Tbl Nat Byte => t.drop wa) (Mem.setBytes_syn ..))

/-- What a read finds of one listed word of a tier (R312 to R316). -/
def State.noteWord (s : State) (ctx : Option Nat) (scrub : Bool) (op ref : Nat) (e : Nat × Byte) : State :=
  let a := 8 * e.1
  let w : BadWord := { place := placeOf a, addr := a, syn := e.2, injected := s.mem.injected.contains (placeOf a, e.1) }
  let s := s.badWord w ctx scrub op ref
  let m := s.mem.unmark (placeOf a, e.1) e.2
  { s with mem := { m with space := m.space.writeBack e.1 } }

theorem State.noteTier_eq (s : State) (wa n : Nat) (ctx : Option Nat) (scrub : Bool) (op ref : Nat) :
    s.noteTier wa n ctx scrub op ref =
      forL (s.mem.space.syn.filter fun e => wa ≤ e.1 && e.1 < wa + n) (fun e s => s.noteWord ctx scrub op ref e) s := rfl

/-- A mark stays where its word is not corrected. -/
theorem MemUnit.mem_unmark {u : MemUnit} {key mark : Nat × Nat} {syn : Byte} (listed : mark ∈ u.injected)
    (stays : eccOf syn = .ue ∨ mark ≠ key) : mark ∈ (u.unmark key syn).injected := by
  unfold MemUnit.unmark
  split
  · exact listed
  · next fixed =>
    refine List.mem_filter.mpr ⟨listed, decide_eq_true (stays.resolve_left fun ue => fixed ?_)⟩
    rw [ue]
    rfl

/-- The word read is dealt with, and the words listed beside it stay. -/
theorem State.noteWord_quiet {s : State} (marked : s.UpsetsMarked) {e : Nat × Byte} (listed : e ∈ s.mem.space.syn) (ctx : Option Nat)
    (scrub : Bool) (op ref : Nat) :
    let t := s.noteWord ctx scrub op ref e
    t.UpsetsMarked ∧ t.work = s.work ∧ ∀ d ∈ s.mem.space.syn, d.1 ≠ e.1 → d ∈ t.mem.space.syn := by
  intro t
  let w : BadWord := { place := placeOf (8 * e.1), addr := 8 * e.1, syn := e.2, injected := s.mem.injected.contains (placeOf (8 * e.1), e.1) }
  let u := s.badWord w ctx scrub op ref
  have track : u.track = s.track := State.badWord_track (fun ue => List.contains_iff_mem.mpr (marked.marked e listed ue)) ..
  have same : u.work = s.work := work_of_track track
  have unmarked : (u.mem.unmark (placeOf (8 * e.1), e.1) e.2).space = s.mem.space := by
    rw [← space_of_track track]
    unfold MemUnit.unmark
    split <;> rfl
  have injected : u.mem.injected = s.mem.injected := congrArg (fun p => p.2.2) track
  have syn : t.mem.space.syn = (s.mem.space.writeBack e.1).syn := congrArg (fun m : Mem => (m.writeBack e.1).syn) unmarked
  have left : ∀ d ∈ t.mem.space.syn, d ∈ s.mem.space.syn := by
    intro d inside
    rw [syn] at inside
    obtain same | dropped := s.mem.space.writeBack_syn e.1
    · exact same ▸ inside
    · exact List.mem_of_mem_filter (dropped ▸ inside)
  refine ⟨⟨?_, fun d inside ue => ?_⟩, same, fun d inside other => ?_⟩
  · obtain same | dropped := s.mem.space.writeBack_syn e.1
    · rw [syn, same]
      exact marked.once
    · rw [syn, dropped]
      exact nodup_keys_filter _ marked.once
  · refine MemUnit.mem_unmark (u := u.mem) (injected ▸ marked.marked d (left d inside) ue) ?_
    by_cases here : d.1 = e.1
    · exact .inl (List.inj_on_of_nodup_map marked.once (left d inside) listed here ▸ ue)
    · exact .inr fun same => here (congrArg Prod.snd same)
  · obtain same | dropped := s.mem.space.writeBack_syn e.1
    · rw [syn, same]
      exact inside
    · rw [syn, dropped]
      exact List.mem_filter.mpr ⟨inside, decide_eq_true other⟩

/-- Reading words of a tier. -/
theorem State.noteTier_quiet (s : State) (wa n : Nat) (ctx : Option Nat) (scrub : Bool) (op ref : Nat) :
    Quiet s (s.noteTier wa n ctx scrub op ref) := by
  refine ⟨fun marked => ?_⟩
  rw [State.noteTier_eq]
  generalize found : (s.mem.space.syn.filter fun e => decide (wa ≤ e.1) && decide (e.1 < wa + n)) = l
  have inside : ∀ e ∈ l, e ∈ s.mem.space.syn := fun e listed => List.mem_of_mem_filter (found ▸ listed)
  have once : (l.map Prod.fst).Nodup := found ▸ nodup_keys_filter _ marked.once
  clear found
  induction l generalizing s with
  | nil => exact ⟨marked, rfl⟩
  | cons e l ih =>
    obtain ⟨fresh, once⟩ := List.nodup_cons.mp once
    obtain ⟨marked', same, kept⟩ := State.noteWord_quiet marked (inside e List.mem_cons_self) ctx scrub op ref
    obtain ⟨marked'', same'⟩ := ih _ marked' (fun d listed => kept d (inside d (List.mem_cons_of_mem _ listed)) fun here =>
      fresh (List.mem_map.mpr ⟨d, listed, here⟩)) once
    exact ⟨marked'', same'.trans same⟩

/-! ### The mirror engine's sending side, and captures (R461, R585, R620, R639) -/

theorem State.putGranules_quiet (s : State) (gs : List (Nat × Mat)) : Quiet s (s.putGranules gs) :=
  Quiet.forL (fun _ s => s.storeTier_quiet _ _) gs s

theorem State.sendGranules_quiet (s : State) (x step : Nat) (gs : List Nat) : Quiet s (s.sendGranules x step gs) := by
  unfold State.sendGranules
  split
  · exact Quiet.refl s
  · refine Quiet.trans (Quiet.forL (fun _ s => Quiet.forN (fun _ s => ?_) _ s) _ s) (Quiet.of_track (State.updJob_track ..))
    exact (s.noteTier_quiet ..).trans (Quiet.of_track (State.injectDn_track ..))

theorem State.sendMetadata_quiet (s : State) (x step : Nat) : Quiet s (s.sendMetadata x step) := by
  unfold State.sendMetadata
  dsimp only
  split
  · exact Quiet.refl s
  · exact Quiet.trans (Quiet.forN (fun _ s => Quiet.of_track (State.injectDn_track ..)) _ s) (Quiet.of_track (State.updJob_track ..))

theorem State.reanchorWrite_quiet (s : State) (x step : Nat) : Quiet s (s.reanchorWrite x step).1 := by
  unfold State.reanchorWrite
  dsimp only
  split
  · exact Quiet.refl s
  · refine Quiet.trans (Quiet.forL (fun _ s => ?_) _ s) (Quiet.of_track (State.updCtx_track _ _ fun _ => rfl))
    have plane (f : Nat → Nat) (g : Nat → List W64) (s : State) : Quiet s (forN 8 (fun c s => s.storeTier (f c) (g c)) s) :=
      Quiet.forN (fun _ s => s.storeTier_quiet _ _) _ s
    exact ((((plane _ _ s).trans (plane _ _ _)).trans (plane _ _ _)).trans (State.putGranules_quiet ..)).trans (State.storeTier_quiet ..)

theorem State.updatePrepared_quiet (s : State) (x step : Nat) : Quiet s (s.updatePrepared x step) := by
  unfold State.updatePrepared
  extract_lets v m w s1 s2 s3 s4 s5
  split
  · exact Quiet.refl s
  · have h1 : Quiet s s1 := (s.reanchorWrite_quiet x step).trans (State.sendGranules_quiet ..)
    have h2 : Quiet s s2 := by
      unfold s2
      split
      · exact h1.trans (State.sendGranules_quiet ..)
      · exact h1
    exact (((h2.trans (State.sendGranules_quiet ..)).trans (State.sendMetadata_quiet ..)).trans
      (Quiet.of_track (State.updUpd_track ..))).trans (Quiet.of_track (State.updJob_track ..))

theorem State.endCapture_quiet (s : State) (x : Nat) : Quiet s (s.endCapture x) := by
  unfold State.endCapture
  split
  · exact Quiet.refl s
  · split
    · exact Quiet.refl s
    · exact ((s.storeTier_quiet _ _).trans (Quiet.of_track (State.updJob_track ..))).trans (Quiet.of_track (State.event_track ..))

end Sys2Proof.Machine
end

section
/-! SUPPORT. Proofs/SliceEnd.lean: the end of a slice, of a stream, and the switches that it lets start. -/
namespace Sys2Proof.Machine

/-! ### Switches that a slice's end lets start (R209, R417, R419) -/

/-- No word of a core store is in error. -/
def State.CoresClean (s : State) : Prop := ∀ k, (s.core k).store.syn = []

theorem State.CoresClean.of_work {s t : State} (clean : s.CoresClean) (same : t.work = s.work) : t.CoresClean := fun k =>
  (congrArg (fun c : Core => c.store.syn) (core_of_work same k)).trans (clean k)

theorem forL_work {α : Type} {f : α → State → State} (each : ∀ a s, s.CoresClean → (f a s).work = s.work) (l : List α) {s : State}
    (clean : s.CoresClean) : (forL l f s).work = s.work := by
  induction l generalizing s with
  | nil => rfl
  | cons a l ih => exact (ih (clean.of_work (each a s clean))).trans (each a s clean)

theorem State.updCtx_work (s : State) (x : Nat) {f : Ctx → Ctx} (same : ∀ c, (f c).course = c.course) : (s.updCtx x f).work = s.work :=
  work_of_track (s.updCtx_track x same)

theorem State.updCtx_switching_work (s : State) (x : Nat) : (s.updCtx x fun c => { c with switching := true }).work = s.work :=
  s.updCtx_work x fun _ => rfl

/-- What a switch saves of a core leaves the core. -/
theorem State.saveCore_work {s : State} (clean : s.CoresClean) (x k : Nat) : (s.saveCore x k).work = s.work := by
  have noted (n : Nat) : s.noteCore k 0 n (some x) false 0 0 = s := by
    simp [State.noteCore, State.noteCoreWords, clean k, forL]
  unfold State.saveCore
  simp only [noted]
  exact State.updCtx_work _ _ fun _ => rfl

theorem State.startSwitches_work {s : State} (clean : s.CoresClean) (ws : List Switch) : (s.startSwitches ws).work = s.work := by
  unfold State.startSwitches
  extract_lets cores out in_ ns s1 begun s2
  have saved : s1.work = s.work := by
    refine forL_work (fun w s clean => ?_) ws clean
    split
    · exact forL_work (fun k s clean => State.saveCore_work clean _ k) _ clean
    · rfl
  have marked : s2.work = s.work := saved
  refine (forL_work (fun w s _ => ?_) ws (clean.of_work marked)).trans marked
  dsimp only
  split
  · exact (State.updCtx_switching_work ..).trans (State.updCtx_switching_work ..)
  · exact State.updCtx_switching_work ..

theorem State.wakeSwitches_work {s : State} (clean : s.CoresClean) (x : Nat) : (s.wakeSwitches x).work = s.work := by
  unfold State.wakeSwitches
  dsimp only
  split
  · rfl
  · split
    · rfl
    · exact State.startSwitches_work clean _

/-! ### The end of a stream (R402, R403, R406) -/

/-- Cancelled streams at the head of a slot leave it. -/
theorem goneLoop_slot {fuel x slot : Nat} {s : State} (enough : ((s.ctx x).slot slot).streams.length ≤ fuel) :
    let t := goneLoop fuel x slot s
    (t.ctx x).slot slot = { (s.ctx x).slot slot with streams := ((s.ctx x).slot slot).streams.dropWhile fun t => t.gone } ∧
      t.cores = s.cores ∧ t.mem = s.mem := by
  induction fuel generalizing s with
  | zero =>
    have empty : ((s.ctx x).slot slot).streams = [] := List.length_eq_zero_iff.mp (Nat.le_zero.mp enough)
    refine ⟨?_, rfl, rfl⟩
    rw [empty, List.dropWhile_nil, ← empty]
    rfl
  | succ fuel ih =>
    dsimp only [goneLoop]
    split
    · next t rest streams =>
      cases gone : t.gone with
      | false =>
        rw [if_neg Bool.false_ne_true, streams, List.dropWhile_cons_of_neg (by simp [gone]), ← streams]
        exact ⟨rfl, rfl, rfl⟩
      | true =>
        rw [if_pos rfl, streams, List.dropWhile_cons_of_pos gone]
        let u := s.updCtx x fun c => c.setSlot slot { (s.ctx x).slot slot with streams := rest }
        obtain ⟨pools, taken⟩ := u.takeOldest_eq (slotQueue x slot).1 (slotQueue x slot).2
        have left : ((u.ctx x).slot slot) = { (s.ctx x).slot slot with streams := rest } := by simp [u]
        have shorter : ((u.ctx x).slot slot).streams.length ≤ fuel := by
          rw [left]
          rw [streams] at enough
          exact Nat.le_of_succ_le_succ enough
        have gone' := ih (s := { u with pools := pools }) shorter
        have left' : (({ u with pools := pools } : State).ctx x).slot slot = { (s.ctx x).slot slot with streams := rest } := left
        rw [left'] at gone'
        have taken : (s.updCtx x fun c => c.setSlot slot { (s.ctx x).slot slot with streams := rest }).takeOldest (slotQueue x slot).1
          (slotQueue x slot).2 = { u with pools := pools } := taken
        rw [taken]
        exact gone'
    · next streams =>
      rw [streams, List.dropWhile_nil, ← streams]
      exact ⟨rfl, rfl, rfl⟩

theorem State.dropOldest_slot (s : State) (x slot : Nat) :
    ((s.dropOldest x slot).ctx x).slot slot =
        { (s.ctx x).slot slot with streams := ((s.ctx x).slot slot).streams.dropWhile fun t => t.gone } ∧
      (s.dropOldest x slot).cores = s.cores ∧ (s.dropOldest x slot).mem = s.mem := by
  obtain ⟨pools, taken⟩ := s.takeOldest_eq (slotQueue x slot).1 (slotQueue x slot).2
  unfold State.dropOldest
  dsimp only
  rw [taken]
  exact goneLoop_slot (s := { s with pools := pools }) (Nat.le_refl _)

/-- A slot whose oldest stream has left with status OK: the scale history of its context is valid (R402, R406). -/
def State.streamLeft (s : State) (x slot : Nat) (t : Stream) (rest : List Stream) : State :=
  let u := (s.updCtx x fun c => c.setSlot slot { held := ((s.ctx x).slot slot).held, streams := rest }).dropOldest x slot
  u.updCtx x fun c => { c with
    historyValid := true
    job := c.job.updStep t.step fun p => { p with streamOk := true, lastEpoch := some u.now } }

section
variable {s : State} {x slot : Nat} {t : Stream} {rest : List Stream}

theorem State.streamLeft_slot : ((s.streamLeft x slot t rest).ctx x).slot slot =
    { held := ((s.ctx x).slot slot).held, streams := rest.dropWhile fun t => t.gone } := by
  have left := ((s.updCtx x fun c => c.setSlot slot { held := ((s.ctx x).slot slot).held, streams := rest }).dropOldest_slot x slot).1
  rw [State.ctx_updCtx, Ctx.slot_setSlot] at left
  unfold State.streamLeft
  dsimp only
  rw [State.ctx_updCtx]
  exact left

theorem State.streamLeft_historyValid : ((s.streamLeft x slot t rest).ctx x).historyValid = true := by
  unfold State.streamLeft
  dsimp only
  rw [State.ctx_updCtx]

theorem State.streamLeft_cores : (s.streamLeft x slot t rest).cores = s.cores := (State.dropOldest_slot ..).2.1
theorem State.streamLeft_mem : (s.streamLeft x slot t rest).mem = s.mem := (State.dropOldest_slot ..).2.2

/-- STREAM_DONE of a stream that ends OK, and the capture that ran with it. -/
theorem State.endStream_of_ok (streams : ((s.ctx x).slot slot).streams = t :: rest) :
    s.endStream x slot St.ok =
      let u := (s.streamLeft x slot t rest).event x {
        kind := 0x0001, status := St.ok, slice := t.done, stream := t.id, value := t.tag, detail := BitVec.ofNat 64 t.done }
      if ((u.ctx x).job.capture.map fun k => k.holds t) == some true then u.endCapture x else u := by
  have free : (((s.ctx x).slot slot).held || !endsFree St.ok) = ((s.ctx x).slot slot).held := by simp [endsFree]
  unfold State.endStream
  simp only [streams, free, if_true]
  rfl

theorem State.endStream_quiet (streams : ((s.ctx x).slot slot).streams = t :: rest) :
    Quiet (s.streamLeft x slot t rest) (s.endStream x slot St.ok) := by
  rw [State.endStream_of_ok streams]
  dsimp only
  split
  · exact (Quiet.of_track (State.event_track ..)).trans (State.endCapture_quiet ..)
  · exact Quiet.of_track (State.event_track ..)

/-- A stream whose last slice has completed leaves its slot with status OK. -/
theorem State.settleStream_quiet (streams : ((s.ctx x).slot slot).streams = t :: rest) (sound : t.failed = none) (whole : t.aborted = false)
    (kept : t.cancelled = false) (last : t.done = t.slices) : Quiet (s.streamLeft x slot t rest) (s.settleStream x slot t) := by
  have ended := State.endStream_quiet streams
  unfold State.settleStream
  simp only [sound, whole, kept, last, Bool.false_eq_true, if_false, if_true]
  split
  · exact ended.trans (Quiet.of_track (State.updCtx_track _ _ fun _ => rfl))
  · split
    · exact ended
    · exact ended.trans (State.updatePrepared_quiet ..)

/-- A stream with slices left goes on. -/
theorem State.settleStream_of_more (sound : t.failed = none) (whole : t.aborted = false) (kept : t.cancelled = false)
    (more : t.done ≠ t.slices) : s.settleStream x slot t = s := by
  simp [State.settleStream, sound, whole, kept, more]

end

/-! ### The end of a slice (R172, R405, R423) -/

/-- The stream when a slice of it has completed. -/
def Stream.sliced (t : Stream) (cycles : Nat) : Stream :=
  { t with done := t.done + 1, running := none, overruns := 0, marks := [], drops := [], cycles := max t.cycles cycles }

/-- The state when a slice is counted, its events are written and its passes have moved on. -/
def State.sliceCounted (s : State) (x cycles waited begun : Nat) (t : Stream) : State :=
  let s := if t.overruns = 0 then s else s.worst (begun + 1)
  let s := s.updCtx x fun c => { c with cyclesHeld := c.cyclesHeld + cycles, cyclesWaited := c.cyclesWaited + waited }
  let s := if t.sliceEvents then
      s.event x { kind := 0x0002, slice := t.done, stream := t.id, value := t.tag, detail := BitVec.ofNat 64 cycles } else s
  let s := forL t.marks (fun v s => s.event x { kind := 0x0003, slice := t.done, stream := t.id, value := v }) s
  s.passesOn x t

theorem State.passesOn_track (s : State) (x : Nat) (t : Stream) : (s.passesOn x t).track = s.track := by
  unfold State.passesOn
  exact (forL_track (fun _ s => State.updModel_track ..) _ _).trans (forL_track (fun _ s => State.updModel_track ..) _ _)

/-- The slice counts in its context's cycles. -/
theorem State.sliceCounted_track (s : State) (x cycles waited begun : Nat) (t : Stream) :
    (s.sliceCounted x cycles waited begun t).track =
      (s.updCtx x fun c => { c with cyclesHeld := c.cyclesHeld + cycles, cyclesWaited := c.cyclesWaited + waited }).track := by
  unfold State.sliceCounted
  extract_lets s1 s2 s3 s4
  have h2 : s2.track = (s.updCtx x fun c => { c with cyclesHeld := c.cyclesHeld + cycles, cyclesWaited := c.cyclesWaited + waited }).track := by
    unfold s2 s1
    split <;> rfl
  have h3 : s3.track = s2.track := by
    unfold s3
    split
    · exact State.event_track ..
    · rfl
  have h4 : s4.track = s3.track := forL_track (fun _ s => State.event_track ..) _ _
  rw [State.passesOn_track, h4, h3, h2]

theorem exec_sliceComplete_of_idle {s : State} {x slot cycles waited begun : Nat} {t : Stream} {rest : List Stream}
    (streams : ((s.ctx x).slot slot).streams = t :: rest) (runs : t.running = some begun) (idle : s.sliceBusy x slot t = false) :
    exec (.sliceComplete x slot cycles waited) s = .next (((((s.sliceCounted x cycles waited begun t).updStream x slot fun _ =>
      t.sliced cycles).settleStream x slot (t.sliced cycles))).wakeSwitches x) := by
  unfold exec
  dsimp only
  unfold execSliceComplete
  simp only [streams, runs, idle]
  rfl

section
variable {s : State} {x slot cycles waited begun : Nat} {t : Stream} {rest : List Stream}
  (streams : ((s.ctx x).slot slot).streams = t :: rest) (cores : s.CoresClean)
include streams

/-- The completed slice stands at the head of its slot, and nothing else of its context's course has changed but the cycles. -/
theorem State.sliceCounted_headed :
    let u := (s.sliceCounted x cycles waited begun t).updStream x slot fun _ => t.sliced cycles
    ((u.ctx x).slot slot) = { (s.ctx x).slot slot with streams := t.sliced cycles :: rest } ∧
      (u.ctx x).cyclesHeld = (s.ctx x).cyclesHeld + cycles ∧ (u.ctx x).cyclesWaited = (s.ctx x).cyclesWaited + waited ∧
      u.cores = s.cores ∧ u.mem.space = s.mem.space := by
  intro u
  have track := s.sliceCounted_track x cycles waited begun t
  have course := course_of_work (work_of_track track) x
  rw [State.ctx_updCtx] at course
  have slot_ : ((s.sliceCounted x cycles waited begun t).ctx x).slot slot = (s.ctx x).slot slot :=
    congrArg (fun c : Tbl Nat Slot × Nat × Nat × Bool => c.1.get {} slot) course
  have headed : u = (s.sliceCounted x cycles waited begun t).headed x slot (t.sliced cycles) rest :=
    State.updStream_of_head (by rw [slot_, streams]) _
  have cores := cores_of_work (work_of_track track)
  have space := space_of_track track
  rw [headed]
  refine ⟨?_, ?_, ?_, cores, space⟩
  · unfold State.headed
    rw [State.ctx_updCtx, Ctx.slot_setSlot, slot_]
  · unfold State.headed
    rw [State.ctx_updCtx]
    exact congrArg (fun c : Tbl Nat Slot × Nat × Nat × Bool => c.2.1) course
  · unfold State.headed
    rw [State.ctx_updCtx]
    exact congrArg (fun c : Tbl Nat Slot × Nat × Nat × Bool => c.2.2.1) course

variable (runs : t.running = some begun) (idle : s.sliceBusy x slot t = false) (sound : t.failed = none) (whole : t.aborted = false)
  (kept : t.cancelled = false)
include cores runs idle sound whole kept

/-- SLICE_COMPLETE of a stream with slices left counts the slice and its cycles. -/
theorem exec_sliceComplete_of_more (more : t.done + 1 ≠ t.slices) :
    ∃ u, exec (.sliceComplete x slot cycles waited) s = .next u ∧ ((u.ctx x).slot slot).streams = t.sliced cycles :: rest ∧
      (u.ctx x).cyclesHeld = (s.ctx x).cyclesHeld + cycles ∧ (u.ctx x).cyclesWaited = (s.ctx x).cyclesWaited + waited := by
  obtain ⟨slot_, held, waits, sameCores, -⟩ := State.sliceCounted_headed (cycles := cycles) (waited := waited) (begun := begun) streams
  refine ⟨_, exec_sliceComplete_of_idle streams runs idle, ?_⟩
  rw [State.settleStream_of_more (t := t.sliced cycles) sound whole kept more]
  have clean : ((s.sliceCounted x cycles waited begun t).updStream x slot fun _ => t.sliced cycles).CoresClean := fun k =>
    (congrArg (fun c : Tbl Nat Core => (c.get {} k).store.syn) sameCores).trans (cores k)
  have woken := State.wakeSwitches_work clean x
  have course := course_of_work woken x
  refine ⟨?_, ?_, ?_⟩
  · rw [slot_of_work woken, slot_]
  · exact (congrArg (fun c : Tbl Nat Slot × Nat × Nat × Bool => c.2.1) course).trans held
  · exact (congrArg (fun c : Tbl Nat Slot × Nat × Nat × Bool => c.2.2.1) course).trans waits

/-- SLICE_COMPLETE of a stream's last slice ends it with status OK. -/
theorem exec_sliceComplete_of_last (tiers : s.mem.space.syn = []) (last : t.done + 1 = t.slices) :
    ∃ u, exec (.sliceComplete x slot cycles waited) s = .next u ∧ ((u.ctx x).slot slot).streams = rest.dropWhile (fun t => t.gone) ∧
      ((u.ctx x).slot slot).held = ((s.ctx x).slot slot).held ∧ (u.ctx x).historyValid = true := by
  obtain ⟨slot_, -, -, sameCores, space⟩ := State.sliceCounted_headed (cycles := cycles) (waited := waited) (begun := begun) streams
  let v := (s.sliceCounted x cycles waited begun t).updStream x slot fun _ => t.sliced cycles
  have streams' : ((v.ctx x).slot slot).streams = t.sliced cycles :: rest := congrArg Slot.streams slot_
  let left := v.streamLeft x slot (t.sliced cycles) rest
  have marked : left.UpsetsMarked := State.upsetsMarked_of_clean
    ((congrArg (fun m : MemUnit => m.space.syn) State.streamLeft_mem).trans ((congrArg Mem.syn space).trans tiers))
  have settled := ((State.settleStream_quiet (t := t.sliced cycles) streams' sound whole kept last).keeps marked).2
  have clean : (v.settleStream x slot (t.sliced cycles)).CoresClean := fun k =>
    (congrArg (fun c : Tbl Nat Core => (c.get {} k).store.syn)
      ((cores_of_work settled).trans (State.streamLeft_cores.trans sameCores))).trans (cores k)
  have woken := (State.wakeSwitches_work clean x).trans settled
  have held : ((v.ctx x).slot slot).held = ((s.ctx x).slot slot).held := (congrArg Slot.held slot_).trans rfl
  have slotLeft := (slot_of_work woken x slot).trans State.streamLeft_slot
  refine ⟨_, exec_sliceComplete_of_idle streams runs idle, congrArg Slot.streams slotLeft, ?_, ?_⟩
  · exact (congrArg Slot.held slotLeft).trans held
  · exact (congrArg (fun c : Tbl Nat Slot × Nat × Nat × Bool => c.2.2.2) (course_of_work woken x)).trans State.streamLeft_historyValid

end

/-! ### STREAM_SUBMIT and KEEP_LIVE of a command as it came (R390, R399, R842) -/

section
variable {s : State} {r : Req} {u : UnitId} {a b start : W64} {host : HostRead} (asked : s.asked r 0x0020 false anyClass u = true)
  (args : reqArgs r 0x0020 = [a, b, start]) (low : fld a 31 6 = 0) (high : fld a 63 48 = 0) (long : 2 ≤ fld a 47 32)
include asked args low high long

theorem exec_streamSubmit_of_refused (remote : bitAt a 4 = false) :
    ((s.ctx (r.mb / 4)).state = .free → exec (.streamSubmit r host) s = answered r 0x0020 St.badContext [] (s.taken r)) ∧
    ((s.ctx (r.mb / 4)).state ≠ .free → ((s.ctx (r.mb / 4)).slot (fld a 3 0)).held = true →
      exec (.streamSubmit r host) s = answered r 0x0020 St.slotHeld [] (s.taken r)) ∧
    ((s.ctx (r.mb / 4)).state = .fenced ∨ (s.ctx (r.mb / 4)).state = .draining → ((s.ctx (r.mb / 4)).slot (fld a 3 0)).held = false →
      exec (.streamSubmit r host) s = answered r 0x0020 St.unitFenced [] (s.taken r)) := by
  have refuses {st : Nat} := exec_streamSubmit_of_wellFormed (host := host) (t := s.taken r) (st := st) (reply := []) asked args low high long
    (by simp [remote])
  refine ⟨fun free => ?_, fun known held => ?_, fun fenced unheld => ?_⟩
  · exact refuses (State.submit_of_free (by simpa using free))
  · exact refuses (State.submit_of_held (by simpa using known) (by simpa using held))
  · exact refuses (State.submit_of_fenced (by simpa using fenced) (by simpa using unheld))

theorem exec_streamSubmit_of_given {ws : List W64} (open_ : (s.ctx (r.mb / 4)).state = .stopped ∨ (s.ctx (r.mb / 4)).state = .active)
    (unfenced : s.fencedUnit (.ctx (r.mb / 4)) = false) (address : bitAt a 4 = true → fld b 63 48 = 0 ∧ b.toNat % 8 = 0)
    (given : (s.taken r).gives (r.mb / 4) (fld a 47 32) a b (reqOf r 0x0020 u) host ws)
    (unheld : ((s.ctx (r.mb / 4)).slot (fld a 3 0)).held = false) {t : State} {st : Nat} {reply : List W64}
    (admits : (s.taken r).admitStream (r.mb / 4) (fld a 3 0) a start ws = (t, some (st, reply))) :
    exec (.streamSubmit r host) s = answered r 0x0020 st reply t := by
  have fences : (s.taken r).fencedUnit (.ctx (r.mb / 4)) = s.fencedUnit (.ctx (r.mb / 4)) := by
    obtain ⟨pools, taken⟩ := s.taken_eq r
    rw [taken]
    rfl
  refine exec_streamSubmit_of_wellFormed asked args low high long address ?_
  rw [State.submit_of_open (by simpa using open_) (by simpa using unheld) (fences.trans unfenced) given, admits]

end

/-- A taken request leaves the words that its stream comes from. -/
theorem State.taken_gives {s : State} {r : Req} {x n code : Nat} {u : UnitId} {a b : W64} {host : HostRead} {ws : List W64} (mailbox : r.mb < 32)
    (given : (bitAt a 4 = true ∧ (s.ctx x).fastSpan b.toNat (8 * n) = true ∧ s.mem.space.syn = [] ∧
        ws = s.mem.space.words (b.toNat / 8) n) ∨
      (bitAt a 4 = false ∧ s.host.busMaster.contains (s.owner r.mb) = true ∧ host = .ok ws ∧ ws.length = n)) :
    (s.taken r).gives x n a b (reqOf r code u) host ws := by
  have inside : r.mb < 256 := by omega
  obtain ⟨pools, taken⟩ := s.taken_eq r
  rw [taken]
  exact given.imp_right fun ⟨remote, source⟩ => ⟨remote, inside, source⟩

/-- KEEP_LIVE sets the bytes of each core of its section, and nothing of other cores, contexts or of the cores themselves. -/
theorem exec_keepLive_of_next_effect {s : State} {x slot kind : Nat} {cmd : Cmd} {t : Stream} {rest : List Stream}
    (streams : ((s.ctx x).slot slot).streams = t :: rest) (runs : t.running.isSome = true) (next : t.nextIn cmd = some kind)
    (opcode : cmd.op = 5) (core : kind = 0) :
    ∃ u, exec (.keepLive x slot cmd) s = .next u ∧ (∀ k, (u.ctx x).keepLive.find k =
        if ((t.slice t.done).any fun g => g.cmds.contains cmd && (g.cores (s.ctx x).dieMask).contains k) = true
          then some (fld (cmd.w 1) 22 0) else (s.ctx x).keepLive.find k) ∧
      (∀ y, y ≠ x → u.ctx y = s.ctx y) ∧ u.cores = s.cores ∧ ((u.ctx x).slot slot).streams = t.took 0 cmd :: rest := by
  have streams_ := State.headed_streams (s := s) (x := x) (slot := slot) (t := t.took 0 cmd) (rest := rest)
  have lives : ((s.headed x slot (t.took 0 cmd) rest).ctx x).keepLive = (s.ctx x).keepLive := by simp [State.headed, Ctx.setSlot]
  refine ⟨_, exec_keepLive_of_next streams runs next opcode core, fun k => ?_, fun y other => ?_, rfl, ?_⟩
  · rw [State.ctx_updCtx]
    dsimp only
    rw [Tbl.find_forL_set, lives]
    exact if_congr Stream.mem_coresWith rfl rfl
  · rw [State.ctx_updCtx_ne _ _ other.symm]
    exact State.ctx_updCtx_ne _ _ other.symm
  · rw [State.ctx_updCtx]
    exact streams_

/-! ### The obligation -/

/-- Settles O49. STREAM_SUBMIT by `State.submit`, the control commands by the head of their slot; no report, packet or capture of a slice's
end touches the streams, since a UE met there is an injection's. -/
theorem streamsAreCheckedQueuedAndRun : Obligations.StreamsAreCheckedQueuedAndRun := by
  refine ⟨?_, ?_, fun s x slot cmd => ⟨rfl, rfl⟩, ?_, ?_, ?_⟩
  · intro s r u a b start ws host asked args x slot n c low high long given open_ unfenced
    have address (local_ : bitAt a 4 = true) : fld b 63 48 = 0 ∧ b.toNat % 8 = 0 := by
      obtain ⟨-, top, aligned, -⟩ | ⟨remote, -⟩ := given
      · exact ⟨top, aligned⟩
      · exact absurd local_ (by simp [remote])
    have gives : (s.taken r).gives x n a b (reqOf r 0x0020 u) host ws := State.taken_gives (State.asked_parts asked).mailbox
      (given.imp_left fun ⟨local_, top, aligned, source⟩ => ⟨local_, source⟩)
    have admits := fun (unheld : (c.slot slot).held = false) {t : State} {st : Nat} {reply : List W64} =>
      exec_streamSubmit_of_given (t := t) (st := st) (reply := reply) asked args low high long open_ unfenced address gives unheld
    refine ⟨fun held => ?_, fun unheld v put => ⟨fun passes short => ?_, fun st fails => ?_⟩, fun unheld full => ?_⟩
    · have known : c.state ≠ .free := by
        obtain state | state := open_ <;> simp [c, x, state]
      exact exec_streamSubmit_of_wellFormed asked args low high long address
        (State.submit_of_held (by simpa using known) (by simpa using held))
    · obtain ⟨us, admitted⟩ := State.admitStream_of_passing (a := a) (start := start) put passes short
      have kept : v.ctx x = c := (State.put_ctx put x).trans (State.taken_ctx s r x)
      refine ⟨us, ?_⟩
      rw [← kept]
      exact admits unheld admitted
    · exact admits unheld (State.admitStream_of_failing put fails)
    · exact admits unheld (State.admitStream_of_full full)
  · intro s r u a b start host asked args low high long remote
    exact exec_streamSubmit_of_refused asked args low high long remote
  · intro s x slot cmd t rest streams to_
    refine ⟨exec_stream_of_head streams, fun kind runs next => ⟨fun opcode => ?_, fun opcode => ?_, fun opcode core => ?_⟩⟩
    · exact ⟨literalsOf cmd, exec_literals_of_next streams runs next opcode, literalsOf_halves cmd⟩
    · exact exec_mark_of_next streams runs next opcode
    · exact exec_keepLive_of_next_effect streams runs next opcode core
  · intro s x slot cycles waited begun t rest streams runs idle sound whole kept cores tiers
    exact ⟨exec_sliceComplete_of_more streams cores runs idle sound whole kept,
      exec_sliceComplete_of_last streams cores runs idle sound whole kept tiers⟩
  · intro s die w found waiting s1 s2 s3
    obtain ⟨switches, -, others, restored⟩ := State.forL_restoreCore w.to_ ((List.range 64).map (64 * die + ·)) s
    rw [← State.restoreDie_eq] at switches others restored
    refine ⟨fun upset => ⟨_, exec_contextSwitchComplete_of_found found upset⟩, fun upset sound => ?_, fun k outside => ?_, fun i below => ?_⟩
    · rw [exec_contextSwitchComplete_of_found found upset, State.readUpset_of_sound s die sound,
        State.endSwitch_of_waiting (by rw [switches]; exact waiting), switches]
      rfl
    · exact others k (by simp; omega)
    · exact restored _ (List.mem_map.mpr ⟨i, List.mem_range.mpr below, rfl⟩)

end Sys2Proof.Machine
end

section
/-! SUPPORT. Proofs/StoredWords.lean: what a reader finds of stored words, and what storing into a core or a tier leaves. -/
namespace Sys2Proof.Machine

/-! ### Loops -/

theorem forN_succ {σ : Type} (n : Nat) (f : Nat → σ → σ) (s : σ) : forN (n + 1) f s = f n (forN n f s) := by
  simp [forN, List.range_succ]

/-! ### Words and their bytes (R7) -/

/-- The bytes of a number, least significant first, spell it. -/
theorem leNat_bytes (n v : Nat) : leNat ((List.range n).map fun i => BitVec.ofNat 8 (v / 2 ^ (8 * i))) = v % 2 ^ (8 * n) := by
  induction n generalizing v with
  | zero => simp [leNat, Nat.mod_one]
  | succ n ih =>
    have later : ((fun i => BitVec.ofNat 8 (v / 2 ^ (8 * i))) ∘ Nat.succ) = fun i => BitVec.ofNat 8 (v / 256 / 2 ^ (8 * i)) := by
      funext i
      have split : 2 ^ (8 * (i + 1)) = 256 * 2 ^ (8 * i) := by rw [Nat.mul_succ, pow_add]; omega
      simp only [Function.comp_apply, Nat.succ_eq_add_one, split, Nat.div_div_eq_div_mul]
    have split : 2 ^ (8 * (n + 1)) = 256 * 2 ^ (8 * n) := by rw [Nat.mul_succ, pow_add]; omega
    rw [List.range_succ_eq_map, List.map_cons, List.map_map, later, leNat, ih, split, Nat.mod_mul]
    simp

theorem bytesWord_wordBytes (w : W64) : bytesWord (wordBytes w) = w := by
  unfold bytesWord wordBytes
  rw [leNat_bytes, Nat.mod_eq_of_lt w.isLt, BitVec.ofNat_toNat, BitVec.setWidth_eq]

theorem wordBytes_length (w : W64) : (wordBytes w).length = 8 := by simp [wordBytes]

/-! ### Memory (R310, R312, R315) -/

theorem Mem.byte_setBytes_in (m : Mem) (a : Nat) (bs : List Byte) (i : Nat) (inside : i < bs.length) :
    (m.setBytes a bs).byte (a + i) = bs[i] := by
  induction bs generalizing m a i with
  | nil => simp at inside
  | cons b rest ih =>
    cases i with
    | zero =>
      rw [Mem.setBytes, Mem.byte_setBytes_out _ _ _ _ (by omega)]
      exact Mem.byte_setByte_self ..
    | succ i =>
      rw [Mem.setBytes, show a + (i + 1) = a + 1 + i by omega, ih _ _ _ (by simpa using inside)]
      rfl

theorem Mem.raw_store_self (m : Mem) (wa : Nat) (v : W64) : (m.store wa v).raw wa = v := by
  have bytes : (List.range 8).map (fun i => (m.store wa v).byte (8 * wa + i)) = wordBytes v := by
    refine List.ext_getElem (by simp [wordBytes]) fun i _ inside => ?_
    simpa [Mem.store] using Mem.byte_setBytes_in m (8 * wa) (wordBytes v) i inside
  rw [Mem.raw, bytes, bytesWord_wordBytes]

theorem Mem.raw_congr {m m' : Mem} {wa : Nat} (same : ∀ i, i < 8 → m'.byte (8 * wa + i) = m.byte (8 * wa + i)) : m'.raw wa = m.raw wa :=
  congrArg bytesWord (List.map_congr_left fun i below => same i (List.mem_range.mp below))

/-- Stored words keep the words outside the run. -/
theorem Mem.raw_storeWords_out (m : Mem) (wa : Nat) (ws : List W64) {a : Nat} (outside : a < wa ∨ wa + ws.length ≤ a) :
    (m.storeWords wa ws).raw a = m.raw a :=
  Mem.raw_congr fun i below => Mem.byte_storeWords_out m wa ws _ (by omega)

theorem Mem.raw_storeWords_in (m : Mem) (wa : Nat) (ws : List W64) (i : Nat) (inside : i < ws.length) :
    (m.storeWords wa ws).raw (wa + i) = ws[i] := by
  induction ws generalizing m wa i with
  | nil => simp at inside
  | cons w rest ih =>
    cases i with
    | zero =>
      rw [Mem.storeWords, add_zero, Mem.raw_storeWords_out (m.store wa w) (wa + 1) rest (.inl (by omega)), Mem.raw_store_self]
      rfl
    | succ i =>
      rw [Mem.storeWords, show wa + (i + 1) = wa + 1 + i by omega, ih _ _ _ (by simpa using inside)]
      rfl

/-- A word without a syndrome is read as it is stored. -/
theorem Mem.word_of_clean {m : Mem} (clean : m.syn = []) (wa : Nat) : m.word wa = m.raw wa := by
  have none_ : m.syndrome wa = 0#8 := by rw [Mem.syndrome, clean, Tbl.get_nil]
  rw [Mem.word, none_]
  rfl

theorem Mem.storeWords_clean {m : Mem} (clean : m.syn = []) (wa : Nat) (ws : List W64) : (m.storeWords wa ws).syn = [] := by
  rw [Mem.storeWords_syn, clean, List.filter_nil]

/-- A word without a syndrome leaves its memory as it is read (R314). -/
theorem Mem.leave_of_clean {m : Mem} (clean : m.syn = []) (wa : Nat) : m.leave wa = (m.word wa, 0#8) := by
  have none_ : m.syndrome wa = 0#8 := by rw [Mem.syndrome, clean, Tbl.get_nil]
  rw [Mem.leave, none_]
  rfl

/-- Words that arrive without a syndrome leave none. -/
theorem Mem.carry_of_clean (m : Mem) (wa : Nat) (ws : List Moving) (clean : ∀ w ∈ ws, w.2 = 0#8) : m.carry wa ws = m := by
  refine forL_eq_self _ _ m fun i below => ?_
  have inside : i < ws.length := List.mem_range.mp below
  have none_ : (ws.getD i (0#64, 0#8)).2 = 0#8 := by
    rw [List.getD_eq_getElem _ _ inside]
    exact clean _ (List.getElem_mem inside)
  exact if_pos none_

/-! ### Rows of words -/

/-- `n` rows of words stored in rising order, row r at word address `at_ r`. -/
def Mem.storeRows (m : Mem) (at_ : Nat → Nat) (rows : Nat → List W64) (n : Nat) : Mem := forN n (fun r m => m.storeWords (at_ r) (rows r)) m

section
variable (m : Mem) (at_ : Nat → Nat) (rows : Nat → List W64)

theorem Mem.storeRows_succ (n : Nat) : m.storeRows at_ rows (n + 1) = (m.storeRows at_ rows n).storeWords (at_ n) (rows n) := forN_succ ..

theorem Mem.storeRows_clean (clean : m.syn = []) (n : Nat) : (m.storeRows at_ rows n).syn = [] := by
  induction n with
  | zero => exact clean
  | succ n ih => rw [Mem.storeRows_succ, Mem.storeWords_clean ih]

theorem Mem.byte_storeRows_out (n b : Nat) (outside : ∀ r, r < n → b < 8 * at_ r ∨ 8 * (at_ r + (rows r).length) ≤ b) :
    (m.storeRows at_ rows n).byte b = m.byte b := by
  induction n with
  | zero => rfl
  | succ n ih =>
    rw [Mem.storeRows_succ, Mem.byte_storeWords_out _ _ _ _ (outside n (Nat.lt_succ_self n))]
    exact ih fun r below => outside r (Nat.lt_succ_of_lt below)

/-- Rows that do not overlap each keep their words. -/
theorem Mem.word_storeRows_in (clean : m.syn = []) {n : Nat} (apart : ∀ q r, q < r → r < n → at_ q + (rows q).length ≤ at_ r) {r i : Nat}
    (row : r < n) (inside : i < (rows r).length) : (m.storeRows at_ rows n).word (at_ r + i) = (rows r)[i] := by
  rw [Mem.word_of_clean (Mem.storeRows_clean _ _ _ clean _)]
  induction n with
  | zero => omega
  | succ n ih =>
    rw [Mem.storeRows_succ]
    obtain earlier | rfl := Nat.lt_succ_iff_lt_or_eq.mp row
    · have before := apart r n earlier (Nat.lt_succ_self n)
      rw [Mem.raw_storeWords_out _ _ _ (by omega)]
      exact ih (fun q r order below => apart q r order (Nat.lt_succ_of_lt below)) earlier
    · exact Mem.raw_storeWords_in _ _ _ _ inside

end

/-! ### Stores of a core, and words on their way, without an error (R313, R314, R329) -/

/-- `t` follows from `s` by stores into core `k` and the tiers, which now hold `store` and `space`: the rest of the core and the other
cores stay, and no injection is armed. -/
structure State.Moved (s t : State) (k : Nat) (store space : Mem) : Prop where
  core : t.core k = { s.core k with store := store }
  others : ∀ j, j ≠ k → t.core j = s.core j
  space : t.mem.space = space
  unarmed : t.mem.injArm = false

theorem State.Moved.trans {s t u : State} {k : Nat} {store space store' space' : Mem} (first : s.Moved t k store space)
    (then_ : t.Moved u k store' space') : s.Moved u k store' space' :=
  ⟨by rw [then_.core, first.core], fun j other => (then_.others j other).trans (first.others j other), then_.space, then_.unarmed⟩

/-- The marks of words that injections changed are beside what moves. -/
theorem State.Moved.marked {s t : State} {k : Nat} {store space : Mem} (moved : s.Moved t k store space) (marks : List (Nat × Nat)) :
    s.Moved { t with mem := { t.mem with injected := marks } } k store space :=
  ⟨moved.core, moved.others, moved.space, moved.unarmed⟩

theorem State.Moved.store {s t : State} {k : Nat} {store space : Mem} (moved : s.Moved t k store space) : (t.core k).store = store := by
  rw [moved.core]

section
variable {s : State} (unarmed : s.mem.injArm = false)
include unarmed

theorem State.moved_refl (k : Nat) : s.Moved s k (s.core k).store s.mem.space := ⟨rfl, fun _ _ => rfl, rfl, unarmed⟩

theorem State.storeCore_moved (k wa : Nat) (ws : List W64) :
    s.Moved (s.storeCore k wa ws) k ((s.core k).store.storeWords wa ws) s.mem.space := by
  unfold State.storeCore
  simp only [unarmed, Bool.false_and, Bool.false_eq_true, if_false]
  exact ⟨State.core_updCore .., fun j other => State.core_updCore_ne _ _ other.symm, rfl, rfl⟩

theorem State.storeTier_moved (k wa : Nat) (ws : List W64) :
    s.Moved (s.storeTier wa ws) k (s.core k).store (s.mem.space.storeWords wa ws) := by
  unfold State.storeTier
  simp only [unarmed, Bool.false_eq_true, if_false]
  exact ⟨rfl, fun _ _ => rfl, rfl, rfl⟩

/-- Without an upset or an armed injection, words arrive as they left. -/
theorem State.arriveAll_of_unarmed (place : Nat) (ctx : Option Nat) (op ref : Nat) (ws : List (Nat × Moving)) :
    s.arriveAll place ctx op ref [] ws = (s, ws.map (·.2)) := by
  have arrives (l : List (Nat × Nat × Moving)) (got : List Moving) :
      l.foldl (fun (acc : State × List Moving) w =>
        let a := acc.1.arrive place ctx op ref w.2.1 w.2.2 ((([] : List (Nat × Nat)).filter fun u => u.1 == w.1).map (·.2))
        (a.1, acc.2 ++ [a.2])) (s, got) = (s, got ++ l.map (·.2.2)) := by
    induction l generalizing got with
    | nil => simp
    | cons w l ih =>
      have arrive : s.arrive place ctx op ref w.2.1 w.2.2 ((([] : List (Nat × Nat)).filter fun u => u.1 == w.1).map (·.2)) = (s, w.2.2) := by
        simp [State.arrive, MemUnit.injBits, unarmed]
      rw [List.foldl_cons]
      simp only [arrive]
      rw [ih, List.map_cons, List.append_assoc, List.singleton_append]
  have words : ((List.range ws.length).zip ws).map (fun w => w.2.2) = ws.map (·.2) := by
    have second : ((List.range ws.length).zip ws).map (·.2) = ws := List.map_snd_zip (by simp)
    exact (List.map_map ..).symm.trans (congrArg (List.map (·.2)) second)
  unfold State.arriveAll
  rw [arrives, words, List.nil_append]

end

/-- Reading words of a clean core store finds nothing. -/
theorem State.noteCore_of_clean {s : State} {k : Nat} (clean : (s.core k).store.syn = []) (wa n : Nat) (ctx : Option Nat) (scrub : Bool)
    (op ref : Nat) : s.noteCore k wa n ctx scrub op ref = s := by
  simp [State.noteCore, State.noteCoreWords, clean, forL]

end Sys2Proof.Machine
end

section
/-! SUPPORT. Proofs/Transfers.lean: rows between a core store and the tiers, the gather of gradient uses, and the lane they hold. -/
namespace Sys2Proof.Machine

/-! ### Words on their way, and one row of them (R302, R313, R314) -/

/-- Words on their way, none of them in error. -/
def movingOf (ws : List W64) : List Moving := ws.map fun w => (w, 0#8)

theorem movingOf_words (ws : List W64) : (movingOf ws).map (·.1) = ws := by
  simp [movingOf, Function.comp_def]

theorem Mem.carry_movingOf (m : Mem) (wa : Nat) (ws : List W64) : m.carry wa (movingOf ws) = m :=
  Mem.carry_of_clean m wa _ fun w listed => by
    obtain ⟨v, -, rfl⟩ := List.mem_map.mp listed
    rfl

theorem Mem.leave_words {m : Mem} (clean : m.syn = []) (wa n : Nat) :
    (List.range n).map (fun i => m.leave (wa + i)) = movingOf (m.words wa n) := by
  simp only [Mem.leave_of_clean clean, movingOf, Mem.words, List.map_map, Function.comp_def]

theorem zip_movingOf (f : Nat → Nat) (m : Mem) (wa n : Nat) :
    (((List.range n).map f).zip (movingOf (m.words wa n))).map (·.2) = movingOf (m.words wa n) :=
  List.map_snd_zip (by simp [movingOf, Mem.words])

section
variable {s : State} {k : Nat} {x : XCmd} (unarmed : s.mem.injArm = false)
include unarmed

/-- A row into the core: its words as the tier holds them. -/
theorem State.moveRow_in (into : x.dir ≠ 1) (clean : s.mem.space.syn = []) (ctx : Option Nat) (ref r : Nat) :
    s.Moved (s.moveRow k x ctx ref [] r) k
      ((s.core k).store.storeWords (x.row r).2 (s.mem.space.words (x.row r).1 x.rowWords)) s.mem.space := by
  have stored := State.storeCore_moved unarmed k (x.row r).2 (s.mem.space.words (x.row r).1 x.rowWords)
  unfold State.moveRow
  simp only [ne_eq, into, not_false_eq_true, if_true, State.noteTier_of_clean clean, Mem.leave_words clean, List.filter_nil,
    List.map_nil, State.arriveAll_of_unarmed unarmed, zip_movingOf, movingOf_words, Mem.carry_movingOf]
  refine State.Moved.marked (stored.trans ⟨?_, fun j other => State.core_updCore_ne _ _ other.symm, stored.space, stored.unarmed⟩) _
  rw [State.core_updCore, stored.core]

/-- A row out of the core: its words as the core store holds them. -/
theorem State.moveRow_out (out : x.dir = 1) (clean : (s.core k).store.syn = []) (ctx : Option Nat) (ref r : Nat) :
    s.Moved (s.moveRow k x ctx ref [] r) k (s.core k).store
      (s.mem.space.storeWords (x.row r).1 ((s.core k).store.words (x.row r).2 x.rowWords)) := by
  have stored := State.storeTier_moved unarmed k (x.row r).1 ((s.core k).store.words (x.row r).2 x.rowWords)
  unfold State.moveRow
  simp only [ne_eq, out, not_true_eq_false, if_false, State.noteCore_of_clean clean, Mem.leave_words clean,
    List.filter_nil, List.map_nil, State.arriveAll_of_unarmed unarmed, zip_movingOf, movingOf_words, Mem.carry_movingOf]
  exact State.Moved.marked ⟨stored.core, stored.others, stored.space, stored.unarmed⟩ _

/-! ### All rows (R302, R303) -/

theorem State.moveRows_in (into : x.dir ≠ 1) (clean : s.mem.space.syn = []) (ctx : Option Nat) (ref n : Nat) :
    s.Moved (forN n (fun r t => t.moveRow k x ctx ref [] r) s) k
      ((s.core k).store.storeRows (fun r => (x.row r).2) (fun r => s.mem.space.words (x.row r).1 x.rowWords) n) s.mem.space := by
  induction n with
  | zero => exact State.moved_refl unarmed k
  | succ n ih =>
    rw [forN_succ, Mem.storeRows_succ]
    have row := State.moveRow_in ih.unarmed into (k := k) (by rw [ih.space]; exact clean) ctx ref n
    rw [ih.space, ih.core] at row
    exact ih.trans row

theorem State.moveRows_out (out : x.dir = 1) (clean : (s.core k).store.syn = []) (ctx : Option Nat) (ref n : Nat) :
    s.Moved (forN n (fun r t => t.moveRow k x ctx ref [] r) s) k (s.core k).store
      (s.mem.space.storeRows (fun r => (x.row r).1) (fun r => (s.core k).store.words (x.row r).2 x.rowWords) n) := by
  induction n with
  | zero => exact State.moved_refl unarmed k
  | succ n ih =>
    rw [forN_succ, Mem.storeRows_succ]
    have row := State.moveRow_out ih.unarmed out (k := k) (by rw [ih.core]; exact clean) ctx ref n
    rw [ih.space, ih.core] at row
    exact ih.trans row

end

/-! ### The form of a transfer that R303 lets through -/

theorem Mem.words_length (m : Mem) (wa n : Nat) : (m.words wa n).length = n := by simp [Mem.words]

/-- Pitch by pitch, rows of at most a pitch lie apart. -/
theorem rows_apart {n pitch len : Nat} (fits : 1 < n → len ≤ pitch) {q r : Nat} (order : q < r) (below : r < n) (base : Nat) :
    base + q * pitch + len ≤ base + r * pitch := by
  have fit := fits (by omega)
  have next : (q + 1) * pitch ≤ r * pitch := Nat.mul_le_mul_right pitch order
  rw [Nat.succ_mul] at next
  omega

/-- A transfer in whole words whose rows lie apart at both ends. -/
structure XCmd.Even (x : XCmd) : Prop where
  bytes : x.rowBytes = 8 * x.rowWords
  tier : ∀ r, x.mem + r * x.memPitch = 8 * (x.row r).1
  tierApart : ∀ q r, q < r → r < x.rows → (x.row q).1 + x.rowWords ≤ (x.row r).1
  coreApart : ∀ q r, q < r → r < x.rows → (x.row q).2 + x.rowWords ≤ (x.row r).2

theorem XCmd.even_of_not_bad {x : XCmd} (good : x.bad = false) : x.Even := by
  simp only [XCmd.bad, Bool.or_eq_false_iff, Bool.and_eq_false_iff, decide_eq_false_iff_not, not_not, not_lt] at good
  obtain ⟨⟨⟨⟨⟨⟨-, mem⟩, pitch⟩, bytes⟩, -⟩, -⟩, apart⟩ := good
  have words : x.rowBytes = 8 * x.rowWords := by unfold XCmd.rowWords; omega
  have tier (r : Nat) : x.mem + r * x.memPitch = 8 * (x.row r).1 := by
    have whole : 8 ∣ x.mem + r * x.memPitch := Nat.dvd_add (Nat.dvd_of_mod_eq_zero mem) ((Nat.dvd_of_mod_eq_zero pitch).mul_left r)
    exact (Nat.mul_div_cancel' whole).symm
  refine ⟨words, tier, fun q r order below => ?_, fun q r order below => ?_⟩
  · have bytes := rows_apart (len := x.rowBytes) (pitch := x.memPitch) (fun many => by omega) order below x.mem
    rw [tier, tier] at bytes
    omega
  · exact rows_apart (fun many => by omega) order below x.cs

/-! ### The lane (R149, R170, R201, R305) -/

/-- Core `k` takes `cmd` into its vector lane, for a transfer or a gather. -/
def State.takeLane (s : State) (k : Nat) (cmd : Cmd) (ctx : Option Nat) : State :=
  (s.takeWork k cmd).updCore k fun c => { c with xfer := some { cmd := cmd, ctx := ctx, taken := s.now, tick := s.steep.ticks } }

section
variable {s : State} {k : Nat} {cmd : Cmd} {d : Work}

theorem State.takeLane_core (ctx : Option Nat) : (s.takeLane k cmd ctx).core k =
    { s.core k with
      work := Machine.takeWork cmd (s.streamOf k cmd), xfer := some { cmd := cmd, ctx := ctx, taken := s.now, tick := s.steep.ticks } } := by
  simp [State.takeLane, State.takeWork]

theorem State.takeLane_core_ne (ctx : Option Nat) {j : Nat} (other : j ≠ k) : (s.takeLane k cmd ctx).core j = s.core j :=
  (State.core_updCore_ne _ _ other.symm).trans (State.core_updCore_ne _ _ other.symm)

theorem State.takeLane_store (ctx : Option Nat) : ((s.takeLane k cmd ctx).core k).store = (s.core k).store := by rw [State.takeLane_core]

/-- What moves once the lane is taken moves from the store of the core as it stood. -/
theorem State.Moved.after_takeLane {u : State} {ctx : Option Nat} {store space : Mem} (moved : (s.takeLane k cmd ctx).Moved u k store space) :
    (u.core k).xfer = some { cmd := cmd, ctx := ctx, taken := s.now, tick := s.steep.ticks } ∧ (u.core k).store = store ∧
      (∀ j, j ≠ k → u.core j = s.core j) ∧ u.mem.space = space :=
  ⟨by rw [moved.core, State.takeLane_core], moved.store, fun j other => (moved.others j other).trans (State.takeLane_core_ne ctx other),
    moved.space⟩

section
variable (takes : s.laneTakes k cmd = some d) (unfenced : s.fencedUnit (.core k) = false)
include takes unfenced

theorem exec_xfer_of_taken (opcode : cmd.op = 0x19) (good : (xcmdOf cmd).bad = false)
    (tier : spanOk (xcmdOf cmd).tierSpan.1 (xcmdOf cmd).tierSpan.2 = true) (core : (xcmdOf cmd).csSpan.beyond = false)
    (window : ∃ y, d.ctx = some y ∧ (xcmdOf cmd).inWindow (s.ctx y) = true) (ups : List (Nat × Nat)) :
    exec (.xfer k cmd ups) s = .next (forN (xcmdOf cmd).rows
      (fun r t => t.moveRow k (xcmdOf cmd) d.ctx (s.streamIdOf k d.ctx) ups r) (s.takeLane k cmd d.ctx)) := by
  obtain ⟨y, ctx, inside⟩ := window
  have own : (d.ctx.map fun y => (xcmdOf cmd).inWindow ((s.takeLane k cmd d.ctx).ctx y)) = some true :=
    (congrArg (Option.map _) ctx).trans (congrArg some inside)
  unfold exec
  dsimp only
  unfold execXfer
  unfold State.takeLane at own ⊢
  simp [takes, opcode, good, unfenced, tier, core, own]

theorem exec_xfer_of_noMemory (opcode : cmd.op = 0x19) (good : (xcmdOf cmd).bad = false)
    (tier : spanOk (xcmdOf cmd).tierSpan.1 (xcmdOf cmd).tierSpan.2 = false) (ups : List (Nat × Nat)) :
    exec (.xfer k cmd ups) s = .fault (.noMemory (xcmdOf cmd).mem) := by
  unfold exec
  dsimp only
  unfold execXfer
  simp [takes, opcode, good, unfenced, tier]

/-- The gathered sum of element e, with every NaN as the module writes it (R201, R225). -/
def GCmd.gathered (g : GCmd) (m : Mem) (e : Nat) : Nat := if (Fmts.fp32.decode (g.sum m e)).isNan then nan32.toNat else g.sum m e

theorem exec_gradGather_of_taken (opcode : cmd.op = 0x1C) (good : (gcmdOf cmd).bad = false) (source : (gcmdOf cmd).srcSpan.beyond = false)
    (target : (gcmdOf cmd).dstSpan.beyond = false) (clean : (s.core k).store.syn = []) :
    let g := gcmdOf cmd
    exec (.gradGather k cmd) s = .next ((s.takeLane k cmd d.ctx).storeCore k g.dst (packWords (if g.fmt = 6 then 32 else 16)
      ((List.range g.count).map fun e => if g.fmt = 6 then g.gathered (s.core k).store e
        else (Fmts.bf16.encodeIeee .nearest (Fmts.fp32.decode (g.gathered (s.core k).store e))).1))) := by
  have store := State.takeLane_store (s := s) (k := k) (cmd := cmd) d.ctx
  have noted (sp : List Span) (op ref : Nat) : (s.takeLane k cmd d.ctx).noteSpans k sp d.ctx op ref = s.takeLane k cmd d.ctx :=
    State.noteSpans_of_clean (store ▸ clean) sp _ _ _
  unfold exec
  dsimp only
  unfold execGradGather
  unfold State.takeLane at noted store ⊢
  simp only [takes, opcode, good, unfenced, source, target, noted, store]
  rfl

theorem exec_gradGather_of_noMemory (opcode : cmd.op = 0x1C) (good : (gcmdOf cmd).bad = false)
    (beyond : (gcmdOf cmd).srcSpan.beyond = true ∨ (gcmdOf cmd).dstSpan.beyond = true) :
    exec (.gradGather k cmd) s = .fault (.noMemory (8 * (gcmdOf cmd).src)) := by
  unfold exec
  dsimp only
  unfold execGradGather
  simp [takes, opcode, good, unfenced, beyond]

end

/-- A command of the lane that has completed frees it. -/
theorem State.endLane_of_held {x : XRun} {op : Nat} (held : (s.core k).xfer = some x) (opcode : Cmd.op x.cmd = op) :
    s.endLane k op = (if x.overruns = 0 then s else s.worst (x.taken + 1)).updCore k fun d => { d with
      xfer := none, work := dropWork false .taken d.work } := by
  unfold State.endLane
  simp only [held]
  rw [if_neg (not_not.mpr opcode)]

end

/-- Rows that lie apart hold, once stored, the words they come from; every other byte stays. -/
theorem Mem.storeRows_words {m source : Mem} (clean : m.syn = []) {at_ from_ : Nat → Nat} {n len : Nat}
    (apart : ∀ q r, q < r → r < n → at_ q + len ≤ at_ r) :
    let after := m.storeRows at_ (fun r => source.words (from_ r) len) n
    (∀ r i, r < n → i < len → after.word (at_ r + i) = source.word (from_ r + i)) ∧
    (∀ b, (∀ r, r < n → ¬ within (8 * at_ r) (8 * len) b) → after.byte b = m.byte b) := by
  refine ⟨fun r i row inside => ?_, fun b outside => ?_⟩
  · rw [Mem.word_storeRows_in _ _ _ clean (by simpa only [Mem.words_length] using apart) row (by rwa [Mem.words_length])]
    simp [Mem.words]
  · refine Mem.byte_storeRows_out _ _ _ _ _ fun r row => ?_
    have beside := outside r row
    rw [Mem.words_length]
    omega

/-! ### The obligation -/

/-- Settles O20. An XFER by `State.moveRows_in` and `State.moveRows_out`: the rows of a transfer that R303 lets through lie apart, so that
each keeps the words it was given. -/
theorem transfersMoveRowsWordForWord : Obligations.TransfersMoveRowsWordForWord := by
  refine ⟨?_, ?_, ?_, fun s k cmd d ups takes unfenced => ⟨fun opcode good tier => ?_, fun opcode good beyond => ?_⟩⟩
  · intro s k cmd d opcode good takes unfenced tier core window tiers store unarmed x
    have even : x.Even := XCmd.even_of_not_bad good
    have taken := State.takeLane_store (s := s) (k := k) (cmd := cmd) d.ctx
    have run := exec_xfer_of_taken takes unfenced opcode good tier core window []
    by_cases out : x.dir = 1
    · have moved := State.moveRows_out (s := s.takeLane k cmd d.ctx) (k := k) unarmed out (by rw [taken]; exact store) d.ctx
        (s.streamIdOf k d.ctx) x.rows
      obtain ⟨lane, kept, others, space⟩ := moved.after_takeLane
      obtain ⟨words, bytes⟩ := Mem.storeRows_words (m := s.mem.space) (source := (s.core k).store) (from_ := fun r => (x.row r).2) tiers
        even.tierApart
      refine ⟨_, run, lane, others, fun into => absurd out into, fun _ => ⟨kept.trans taken, ?_⟩⟩
      rw [space, taken]
      exact ⟨words, fun b outside => bytes b (by simpa only [even.tier, even.bytes] using outside)⟩
    · have moved := State.moveRows_in (s := s.takeLane k cmd d.ctx) (k := k) unarmed out tiers d.ctx (s.streamIdOf k d.ctx) x.rows
      obtain ⟨lane, rows, others, space⟩ := moved.after_takeLane
      obtain ⟨words, bytes⟩ := Mem.storeRows_words (m := (s.core k).store) (source := s.mem.space) (from_ := fun r => (x.row r).1) store
        even.coreApart
      refine ⟨_, run, lane, others, fun _ => ⟨space, ?_⟩, fun out_ => absurd out_ out⟩
      rw [rows, taken]
      exact ⟨words, fun b outside => bytes b (by rw [← even.bytes]; exact outside)⟩
  · intro s k cmd d opcode good takes unfenced source target clean unarmed g sum
    have moved := State.storeCore_moved (s := s.takeLane k cmd d.ctx) unarmed k g.dst (packWords (if g.fmt = 6 then 32 else 16)
      ((List.range g.count).map fun e => if g.fmt = 6 then g.gathered (s.core k).store e
        else (Fmts.bf16.encodeIeee .nearest (Fmts.fp32.decode (g.gathered (s.core k).store e))).1))
    rw [State.takeLane_store] at moved
    obtain ⟨lane, stored, others, space⟩ := moved.after_takeLane
    exact ⟨_, exec_gradGather_of_taken takes unfenced opcode good source target clean, lane, stored, others, space⟩
  · intro s k x op c row held opcode
    have arm : exec (c k) s = .next (s.endLane k op) := by obtain ⟨rfl, rfl⟩ | ⟨rfl, rfl⟩ := row <;> rfl
    rw [arm, State.endLane_of_held held opcode]
  · exact exec_xfer_of_noMemory takes unfenced opcode good tier ups
  · exact exec_gradGather_of_noMemory takes unfenced opcode good beyond

end Sys2Proof.Machine
end

section
/-! SUPPORT. Proofs/Pours.lean: what a pour without an error writes and leaves of its core, and the end of the pour. -/
namespace Sys2Proof.Machine

/-! ### What the writes of a pour leave (R223 to R228, R232) -/

/-- No word of core `k`'s store is in error, and no injection is armed. -/
structure State.Sound (s : State) (k : Nat) : Prop where
  clean : (s.core k).store.syn = []
  unarmed : s.mem.injArm = false

/-- A core without what the writes of a pour change: its store, its statistics and the block at its scale's limit. -/
def Core.besidePour (c : Core) : Core := { c with store := {}, stats := [], limitBlock := none }

/-- `t` follows from `s` by writes of a pour of core `k`: from sound words, they are sound again, and the rest of the core stays. -/
structure Pours (k : Nat) (s t : State) : Prop where
  keeps : s.Sound k → t.Sound k ∧ (t.core k).besidePour = (s.core k).besidePour

namespace Pours

variable {k : Nat} {s t u : State}

theorem refl (s : State) : Pours k s s := ⟨fun sound => ⟨sound, rfl⟩⟩

theorem trans (first : Pours k s t) (then_ : Pours k t u) : Pours k s u := by
  refine ⟨fun sound => ?_⟩
  obtain ⟨sound, same⟩ := first.keeps sound
  obtain ⟨sound, same'⟩ := then_.keeps sound
  exact ⟨sound, same'.trans same⟩

theorem of_same (cores : t.cores = s.cores) (mem : t.mem = s.mem) : Pours k s t := by
  have core : t.core k = s.core k := congrArg (fun c : Tbl Nat Core => c.get {} k) cores
  exact ⟨fun sound => ⟨⟨by rw [core]; exact sound.clean, by rw [mem]; exact sound.unarmed⟩, congrArg Core.besidePour core⟩⟩

/-- A change of the core's statistics or of the block at its scale's limit. -/
theorem of_updCore (s : State) {f : Core → Core} (beside : ∀ c, (f c).besidePour = c.besidePour) (store : ∀ c, (f c).store = c.store) :
    Pours k s (s.updCore k f) := by
  refine ⟨fun sound => ⟨⟨?_, sound.unarmed⟩, ?_⟩⟩
  · rw [State.core_updCore, store]
    exact sound.clean
  · rw [State.core_updCore, beside]

theorem forL {α : Type} {f : α → State → State} (each : ∀ a s, Pours k s (f a s)) (l : List α) (s : State) :
    Pours k s (Machine.forL l f s) := by
  induction l generalizing s with
  | nil => exact refl s
  | cons a l ih => exact (each a s).trans (ih (f a s))

theorem forN {f : Nat → State → State} (each : ∀ i s, Pours k s (f i s)) (n : Nat) (s : State) : Pours k s (Machine.forN n f s) :=
  forL each (List.range n) s

theorem noteCore (s : State) (wa n : Nat) (ctx : Option Nat) (scrub : Bool) (op ref : Nat) : Pours k s (s.noteCore k wa n ctx scrub op ref) :=
  ⟨fun sound => by rw [State.noteCore_of_clean sound.clean]; exact ⟨sound, rfl⟩⟩

theorem noteSpans (s : State) (sp : List Span) (ctx : Option Nat) (op ref : Nat) : Pours k s (s.noteSpans k sp ctx op ref) :=
  ⟨fun sound => by rw [State.noteSpans_of_clean sound.clean]; exact ⟨sound, rfl⟩⟩

theorem storeCore (s : State) (wa : Nat) (ws : List W64) : Pours k s (s.storeCore k wa ws) := by
  refine ⟨fun sound => ?_⟩
  have moved := State.storeCore_moved sound.unarmed k wa ws
  exact ⟨⟨by rw [moved.store, Mem.storeWords_clean sound.clean], moved.unarmed⟩, by rw [moved.core]; rfl⟩

theorem storeCoreBytes (s : State) (a : Nat) (bs : List Byte) (ctx : Option Nat) : Pours k s (s.storeCoreBytes k a bs ctx) := by
  unfold State.storeCoreBytes
  extract_lets w0 n s1 s2 store
  have first : Pours k s s1 := by
    unfold s1
    split
    · exact noteCore ..
    · exact refl s
  have last : Pours k s1 s2 := by
    unfold s2
    split
    · exact noteCore ..
    · exact refl s1
  split
  · exact refl s
  · exact (first.trans last).trans (storeCore ..)

theorem storeBits (s : State) (a n v : Nat) (ctx : Option Nat) : Pours k s (s.storeBits k a n v ctx) := by
  unfold State.storeBits
  split
  · exact refl s
  · exact storeCoreBytes ..

theorem measure (s : State) (ctx : Option Nat) (tile block : Nat) : Pours k s (s.measure ctx tile block) := by
  unfold State.measure
  split <;> exact of_same rfl rfl

theorem countScale (s : State) (ctx : Option Nat) (o : BlockOut) : Pours k s (s.countScale ctx o) := by
  unfold State.countScale
  split <;> exact of_same rfl rfl

theorem putBlock (s : State) (ctx : Option Nat) (f : Format) (e : Epi) (forward : Bool) (tile block bitAddr : Nat) (vs : List Val)
    (rnds : List Rnd) : Pours k s (s.putBlock k ctx f e forward tile block bitAddr vs rnds).1 := by
  unfold State.putBlock
  extract_lets ha s1 o s2 s3 s4 s5 s6
  have noted : Pours k s s1 := by
    unfold s1
    split
    · exact refl s
    · exact noteSpans ..
  have recorded : Pours k s2 s3 := by
    unfold s3
    split
    · exact (storeBits ..).trans (measure ..)
    · exact refl s2
  have limited : Pours k s5 s6 := by
    unfold s6
    split
    · exact of_updCore s5 (fun _ => rfl) fun _ => rfl
    · exact refl s5
  exact (((noted.trans (storeBits ..)).trans recorded).trans ((storeBits ..).trans (countScale ..))).trans limited

theorem pourRowMajor (s : State) (p : Pour) (t : Mt) (e : Epi) (f : Format) (rows : List (List W32)) :
    Pours k s (s.pourRowMajor k p t e f rows) := by
  refine forL (fun row s => ?_) _ s
  dsimp only
  split
  · exact forN (fun b s => (putBlock ..).trans (storeBits ..)) _ s
  · exact (storeBits ..).trans (countScale ..)

theorem pourBlocks (s : State) (p : Pour) (t : Mt) (e : Epi) (f : Format) (rows : List (List W32)) :
    Pours k s (s.pourBlocks k p t e f rows) := by
  refine forN (fun u s => ?_) _ s
  dsimp only
  refine Pours.trans ?_ (storeBits ..)
  split
  · exact putBlock ..
  · exact (storeBits ..).trans (countScale ..)

theorem pourStats (s : State) (p : Pour) (t : Mt) (e : Epi) (rows : List (List W32)) : Pours k s (s.pourStats k p t e rows) := by
  unfold State.pourStats
  split
  · exact refl s
  · refine forL (fun row s => ?_) _ s
    extract_lets m key old r s1 done
    have counted : Pours k s s1 := of_updCore s (fun _ => rfl) fun _ => rfl
    split
    · exact counted.trans (storeCore ..)
    · exact counted

end Pours

/-! ### The end of a pour (R116, R204, R620) -/

@[simp] theorem Core.shadow_setShadow (c : Core) (a : AccSet) : (c.setShadow a).shadow = a := by
  unfold Core.setShadow Core.shadow
  split <;> simp_all

@[simp] theorem Core.live_setShadow (c : Core) (a : AccSet) : (c.setShadow a).live = c.live := by
  unfold Core.setShadow Core.live
  split <;> simp_all

@[simp] theorem Core.setShadow_store (c : Core) (a : AccSet) : (c.setShadow a).store = c.store := by
  unfold Core.setShadow
  split <;> rfl

@[simp] theorem Core.setShadow_vec (c : Core) (a : AccSet) : (c.setShadow a).vec = c.vec := by
  unfold Core.setShadow
  split <;> rfl

@[simp] theorem Core.setShadow_tile (c : Core) (a : AccSet) : (c.setShadow a).tile = c.tile := by
  unfold Core.setShadow
  split <;> rfl

/-- The core when its pour `p` is over: the set that poured is EMPTY (R204). -/
def Core.poured (c : Core) (p : Pour) : Core :=
  { c.setShadow {} with pour := none, work := if p.last then dropWork true .pouring c.work else c.work }

@[simp] theorem State.storeTier_cores (s : State) (wa : Nat) (ws : List W64) : (s.storeTier wa ws).cores = s.cores := by
  unfold State.storeTier
  dsimp only
  split <;> rfl

theorem State.tracePass_cores (s : State) (x : Nat) (e : W64 × W64) : (s.tracePass x e).cores = s.cores := by
  unfold State.tracePass
  dsimp only
  split
  · rfl
  · split
    · exact State.storeTier_cores ..
    · rfl

theorem State.raise_core (s : State) (r : RecSpec) (k : Nat) : (s.raise r).core k = s.core k :=
  core_of_work (work_of_track (s.raise_track r)) k

/-- A tile's last pour records the lowest block whose scale stood at its limit (R116). -/
def State.scaleLimited (s : State) (k : Nat) (p : Pour) (t : Mt) (limit : Option Nat) : State :=
  match limit with
  | some b => if p.last then s.raise {
      code := Rec.scaleLimit, cls := .ce, unit := .core k, ctx := p.ctx, opcode := t.op, opRef := t.tileId, a := BitVec.ofNat 64 b, ownLimit := true }
    else s
  | none => s

theorem State.scaleLimited_core (s : State) (k : Nat) (p : Pour) (t : Mt) (limit : Option Nat) (j : Nat) :
    (s.scaleLimited k p t limit).core j = s.core j := by
  unfold State.scaleLimited
  split
  · split
    · exact State.raise_core ..
    · rfl
  · rfl

/-- A pass's outputs enter the trace of its context (R620). -/
def State.tracePour (s : State) (k : Nat) (p : Pour) (rows : List (List W32)) : State :=
  let t := mtOf p.cmd
  let e := epiOf p.desc
  match p.ctx, formatOf e.outFmt with
  | some x, some f => s.tracePass x (mkWord [(0, 32, t.tileId), (32, 32, p.pass)],
      crc64 ((passWords (s.core k).store t e f p.pass rows.length (rows.headD []).length).flatMap wordBytes))
  | _, _ => s

theorem State.tracePour_core (s : State) (k : Nat) (p : Pour) (rows : List (List W32)) (j : Nat) :
    (s.tracePour k p rows).core j = s.core j := by
  unfold State.tracePour
  dsimp only
  split
  · exact congrArg (fun c : Tbl Nat Core => c.get {} j) (State.tracePass_cores ..)
  · rfl

/-- What follows the writes of a pass: the trace, the EMPTY set, the record of a scale at its limit, the check that is closed, and the
overrun of a late pour. -/
def State.endPour (s : State) (k : Nat) (p : Pour) (rows : List (List W32)) : State :=
  let s := s.tracePour k p rows
  let limit := (s.core k).limitBlock
  let s := s.updCore k fun c => c.poured p
  let s := (s.scaleLimited k p (mtOf p.cmd) limit).checkClose p.ctx p.begun
  if p.late then s.worst (p.lastMac + 1) else s

theorem State.endPour_core (s : State) (k : Nat) (p : Pour) (rows : List (List W32)) :
    (s.endPour k p rows).core k = (s.core k).poured p := by
  unfold State.endPour
  extract_lets s1 limit s2 s3
  have closed : s3.core k = (s.core k).poured p := by
    rw [State.checkClose_core, State.scaleLimited_core, State.core_updCore, State.tracePour_core]
  split <;> exact closed

/-! ### POUR_COMPLETE of a pour without an error (R204, R222 to R233) -/

/-- The state from which a pass's outputs are written: the first pass of a tile starts its statistics. -/
def State.pourBase (s : State) (k : Nat) (p : Pour) : State :=
  if p.pass = 0 then s.updCore k fun c => { c with stats := [], limitBlock := none } else s

theorem State.pourBase_pours (s : State) (k : Nat) (p : Pour) : Pours k s (s.pourBase k p) := by
  unfold State.pourBase
  split
  · exact Pours.of_updCore s (fun _ => rfl) fun _ => rfl
  · exact Pours.refl s

theorem State.pourBase_store (s : State) (k : Nat) (p : Pour) : ((s.pourBase k p).core k).store = (s.core k).store := by
  unfold State.pourBase
  split
  · rw [State.core_updCore]
  · rfl

/-- The outputs of a pass in the layout of its descriptor, and its statistics (R226, R227, R232). -/
def State.pourOutputs (s : State) (k : Nat) (p : Pour) (rows : List (List W32)) : State :=
  let t := mtOf p.cmd
  let e := epiOf p.desc
  let s := match formatOf e.outFmt with
    | none => s
    | some f => if e.blocks then s.pourBlocks k p t e f rows else s.pourRowMajor k p t e f rows
  s.pourStats k p t e rows

theorem State.pourOutputs_pours (s : State) (k : Nat) (p : Pour) (rows : List (List W32)) : Pours k s (s.pourOutputs k p rows) := by
  unfold State.pourOutputs
  extract_lets t e s1
  have written : Pours k s s1 := by
    unfold s1
    split
    · exact Pours.refl s
    · split
      · exact Pours.pourBlocks ..
      · exact Pours.pourRowMajor ..
  exact written.trans (Pours.pourStats ..)

section
variable {s : State} {k : Nat} {p : Pour} (pours : (s.core k).pour = some p) (clean : (s.core k).store.syn = [])
include pours clean

/-- A pass whose check holds and none of whose words is upset writes its outputs, and then its pour ends; a stalled pass behind it is swapped. -/
theorem exec_pourComplete_of_clean :
    let rows := pourRows (s.core k).store (s.core k).shadow.cells (mtOf p.cmd) (epiOf p.desc) p.pass p.repeats
    let u := ((s.pourBase k p).pourOutputs k p rows).endPour k p rows
    exec (.pourComplete k false []) s = match (u.core k).tile with
      | some w => if w.stalled then .next (u.swapSets k { w with stalled := false } (mtOf w.cmd)) else .next u
      | none => .next u := by
  have noted (sp : List Span) (op ref : Nat) : s.noteSpans k sp p.ctx op ref = s := State.noteSpans_of_clean clean sp _ _ _
  have read (sel op ref : Nat) (cells : List W32) : s.readSet k sel p.ctx op ref [] cells = (s, cells) := rfl
  have store := State.pourBase_store s k p
  intro rows
  unfold exec
  dsimp only
  unfold execPourComplete
  simp only [pours, noted, read]
  unfold State.pourBase at store ⊢
  rw [store]
  rfl

/-- With no pass behind it, the core is as the outputs leave it, with its pour over. -/
theorem exec_pourComplete_of_alone (unarmed : s.mem.injArm = false) (alone : (s.core k).tile = none) :
    let rows := pourRows (s.core k).store (s.core k).shadow.cells (mtOf p.cmd) (epiOf p.desc) p.pass p.repeats
    ∃ (u : State) (d : Core), exec (.pourComplete k false []) s = .next u ∧ u.core k = d.poured p ∧ d.besidePour = (s.core k).besidePour ∧
      d.store = (((s.pourBase k p).pourOutputs k p rows).core k).store := by
  intro rows
  obtain ⟨-, same⟩ := ((s.pourBase_pours k p).trans (State.pourOutputs_pours _ k p rows)).keeps ⟨clean, unarmed⟩
  have ended := State.endPour_core ((s.pourBase k p).pourOutputs k p rows) k p rows
  have free : ((((s.pourBase k p).pourOutputs k p rows).endPour k p rows).core k).tile = none := by
    rw [ended]
    exact (Core.setShadow_tile ..).trans ((congrArg Core.tile same).trans alone)
  refine ⟨_, _, ?_, ended, same, rfl⟩
  rw [exec_pourComplete_of_clean pours clean, free]

end

/-- Settles O18: the writes of a pour leave the rest of its core (`Pours`), and its end frees the set. -/
theorem pourWritesOutputsAndEmptiesSet : Obligations.PourWritesOutputsAndEmptiesSet := by
  intro s k p f pours clean unarmed format alone t e s0 rows s1
  have outputs : s1 = (s.pourBase k p).pourOutputs k p rows := by
    unfold State.pourOutputs
    dsimp only
    rw [format]
    rfl
  obtain ⟨u, d, run, ended, same, store⟩ := exec_pourComplete_of_alone pours clean unarmed alone
  refine ⟨u, run, ?_⟩
  rw [ended, outputs]
  exact ⟨rfl, Core.shadow_setShadow .., (Core.setShadow_store ..).trans store,
    (Core.live_setShadow ..).trans (congrArg Core.live same :), (Core.setShadow_vec ..).trans (congrArg Core.vec same :)⟩

end Sys2Proof.Machine
end

section
/-! SUPPORT. Proofs/VectorRows.lean: what an instruction that stands next in a run leaves, by the form of its row: independent lanes, mask
bits, one register. -/
namespace Sys2Proof.Machine

/-! ### Masks and flags (R244, R249) -/

/-- The sum that `maskOf` forms, over the first `n` lanes: its bits are the lanes' own. -/
theorem testBit_foldl_bits (g : Nat → Bool) (n : Nat) :
    let v := (List.range n).foldl (fun v i => if g i then v + 2 ^ i else v) 0
    v < 2 ^ n ∧ ∀ i, i < n → Nat.testBit v i = g i := by
  induction n with
  | zero => simp
  | succ n ih =>
    obtain ⟨small, bits⟩ := ih
    rw [List.range_succ, List.foldl_append]
    generalize (List.range n).foldl (fun v i => if g i then v + 2 ^ i else v) 0 = v at small bits
    simp only [List.foldl_cons, List.foldl_nil]
    have below (i : Nat) (less : i < n) : Nat.testBit (if g n then v + 2 ^ n else v) i = g i := by
      split
      · rw [Nat.add_comm, Nat.testBit_two_pow_add_gt less, bits i less]
      · exact bits i less
    have top : Nat.testBit (if g n then v + 2 ^ n else v) n = g n := by
      split
      next set => rw [Nat.add_comm, Nat.testBit_two_pow_add_eq, Nat.testBit_lt_two_pow small, set]; rfl
      next clear => rw [Nat.testBit_lt_two_pow small]; simpa using clear
    refine ⟨by rw [pow_succ]; split <;> omega, fun i less => ?_⟩
    obtain less | rfl := Nat.lt_succ_iff_lt_or_eq.mp less
    · exact below i less
    · exact top

theorem bitAt_maskOf (g : Nat → Bool) {i : Nat} (lane : i < 64) : bitAt (maskOf g) i = g i := by
  obtain ⟨small, bits⟩ := testBit_foldl_bits g 64
  rw [bitAt, BitVec.getLsbD, maskOf, BitVec.toNat_ofNat, Nat.mod_eq_of_lt small, bits i lane]

/-- A flag stands in a union when it stands in one of its parts. -/
theorem testBit_foldl_or (l : List Nat) (a b : Nat) :
    Nat.testBit (l.foldl (fun a b => a ||| b) a) b = (Nat.testBit a b || l.any fun f => Nat.testBit f b) := by
  induction l generalizing a with
  | nil => simp
  | cons f l ih => rw [List.foldl_cons, ih, Nat.testBit_or, List.any_cons, Bool.or_assoc]

/-! ### Vector registers (R243, R244): reads after writes -/

namespace VecState

variable (v : VecState) (r : Nat)

theorem lane_setV_self (g : Nat → W32) {i : Nat} (lane : i < 64) : (v.setV r g).lane r i = g i := by
  simp [setV, VecState.lane, lane]

theorem lane_setV_ne (g : Nat → W32) (i : Nat) {r q : Nat} (other : r ≠ q) : (v.setV r g).lane q i = v.lane q i := by
  simp [setV, VecState.lane, Tbl.get_set_ne _ _ _ other]

theorem mreg_setM_self (m : W64) {r : Nat} (named : r ≠ 0) : (v.setM r m).mreg r = m := by
  simp [setM, mreg, named]

theorem mreg_setM_ne (m : W64) {r q : Nat} (other : r ≠ q) : (v.setM r m).mreg q = v.mreg q := by
  unfold setM
  split
  · rfl
  · exact congrArg (if q = 0 then BitVec.allOnes 64 else ·) (Tbl.get_set_ne _ _ _ other)

/-- A write of a mask register is beside the other registers. -/
theorem setM_beside (m : W64) : (v.setM r m).v = v.v ∧ (v.setM r m).sc = v.sc ∧ (v.setM r m).vl = v.vl ∧ (v.setM r m).flags = v.flags := by
  unfold setM
  split <;> exact ⟨rfl, rfl, rfl, rfl⟩

end VecState

/-! ### What an instruction's flags change (R249, R250) -/

namespace VIn

variable (x : VIn) (o : VOut)

/-- Flags change VFLAGS and a mask register only. -/
theorem flagged_beside : (x.flagged o).v = o.vec.v ∧ (x.flagged o).sc = o.vec.sc ∧ (x.flagged o).vl = o.vec.vl ∧
    (x.flagged o).flags = o.lanes.foldl (fun a b => a ||| b) o.vec.flags := by
  unfold flagged
  dsimp only
  split
  · exact VecState.setM_beside ..
  · exact ⟨rfl, rfl, rfl, rfl⟩

theorem flagged_lane (r i : Nat) : (x.flagged o).lane r i = o.vec.lane r i := by
  obtain ⟨vectors, -⟩ := x.flagged_beside o
  rw [VecState.lane, vectors]
  rfl

/-- A mask register that is not FM, and any without FE, stays. -/
theorem flagged_mreg_of_beside {q : Nat} (beside : q ≠ x.f.fm ∨ x.f.fe = false) : (x.flagged o).mreg q = o.vec.mreg q := by
  unfold flagged
  dsimp only
  split
  next enabled =>
    rw [VecState.mreg_setM_ne _ _ (beside.resolve_right (by simp [enabled])).symm]
    rfl
  · rfl

/-- With FE, FM holds for each lane whether it raised a flag. -/
theorem flagged_mreg_fm (enabled : x.f.fe = true) (named : x.f.fm ≠ 0) {i : Nat} (lane : i < 64) :
    bitAt ((x.flagged o).mreg x.f.fm) i = decide (o.lanes.getD i 0 ≠ 0) := by
  unfold flagged
  dsimp only
  rw [if_pos enabled, VecState.mreg_setM_self _ _ named, bitAt_maskOf _ lane]

/-- Flags raised lane by lane, on registers whose VFLAGS and masks are those before. -/
theorem flagsResult_flagged (fl : Nat → Nat) (flags : o.vec.flags = x.vec.flags) (masks : o.vec.m = x.vec.m)
    (lanes : o.lanes = (List.range 64).map fl) : FlagsResult x (x.flagged o) fl := by
  refine ⟨fun b => ?_, fun q beside => ?_, fun enabled named i lane => ?_⟩
  · obtain ⟨-, -, -, gathered⟩ := x.flagged_beside o
    rw [gathered, testBit_foldl_or, flags, lanes, List.any_map]
    rfl
  · rw [x.flagged_mreg_of_beside o beside, VecState.mreg, masks]
    rfl
  · rw [x.flagged_mreg_fm o enabled named lane, lanes]
    simp [lane]

/-- What an instruction of independent lanes leaves of the registers (R246, R247). -/
theorem laneResult_each (g : Nat → W32 × Nat) : LaneResult x (x.flagged (x.each g)) g := by
  obtain ⟨-, scalars, length, -⟩ := x.flagged_beside (x.each g)
  refine ⟨fun i lane => ?_, fun q i other => ?_, scalars, length, x.flagsResult_flagged _ _ rfl rfl rfl⟩
  · rw [flagged_lane, each, putLanes, VecState.lane_setV_self _ _ _ lane]
    simp only [and_comm, Bool.and_eq_true, decide_eq_true_eq]
  · rw [flagged_lane, each, putLanes, VecState.lane_setV_ne _ _ _ other.symm]

end VIn

/-! ### An instruction that stands next (R253, R264) -/

section
variable {s : State} {k op : Nat} {w : W64} {r : VRun} {body : VIn → VOut} {o : VOut} (next : s.runsNext k w op r)
  (does : body (s.vin k w r) = o) (unstopped : o.stop = none)
include next does unstopped

/-- An instruction that stands next and is not stopped: its reads, its registers, its stores. -/
theorem State.vector_of_next :
    s.vector k w op body = forL o.writes (fun p s => s.storeCoreBytes k p.1 p.2 r.ctx)
      ((forL o.reads (fun wa s => s.noteCore k wa 1 r.ctx false 0x18 (vcmdOf r.cmd).tileId) s).vecMoved k r ((s.vin k w r).flagged o)) := by
  obtain ⟨runs, going, place, opcode⟩ := next
  have due : ¬ (r.ended || decide (r.prog.getD r.pc 0#64 ≠ w) || decide (fld w 7 0 ≠ op)) = true := by
    rw [place]
    simp [going, opcode]
  have does : body { f := vfOf w, run := r, vec := (s.core k).vec, mem := (s.core k).store } = o := does
  unfold State.vector
  simp only [runs]
  rw [if_neg due]
  simp only [does, unstopped]
  rfl

/-- One that stores nothing, with no word in error, moves the run on with its registers. -/
theorem State.vector_of_loads (clean : (s.core k).store.syn = []) (silent : o.writes = []) :
    s.vector k w op body = s.vecMoved k r ((s.vin k w r).flagged o) := by
  have noted : forL o.reads (fun wa s => s.noteCore k wa 1 r.ctx false 0x18 (vcmdOf r.cmd).tileId) s = s :=
    forL_eq_self _ _ s fun wa _ => State.noteCore_of_clean clean ..
  rw [State.vector_of_next next does unstopped, silent, noted]
  rfl

/-- One that reads no word of the store moves the run on with its registers and then stores. -/
theorem State.vector_of_stores (blind : o.reads = []) :
    s.vector k w op body = forL o.writes (fun p s => s.storeCoreBytes k p.1 p.2 r.ctx) (s.vecMoved k r ((s.vin k w r).flagged o)) := by
  rw [State.vector_of_next next does unstopped, blind]
  rfl

end

/-! ### Rows by the form of their body -/

section
variable {c : Nat → W64 → Instr} {op : Nat}

/-- Rows of independent lanes. -/
theorem laneRow_of_each {g : VIn → Nat → W32 × Nat} (arm : ∀ k w s, exec (c k w) s = .next (s.vector k w op fun x => x.each (g x))) :
    LaneRow c op g := by
  intro s k w r next
  refine ⟨_, ?_, (s.vin k w r).laneResult_each _⟩
  rw [arm, State.vector_of_stores next rfl rfl rfl]
  rfl

theorem LaneRow.congr {g g' : VIn → Nat → W32 × Nat} (row : LaneRow c op g) (same : ∀ x i, g x i = g' x i) : LaneRow c op g' :=
  (funext fun x => funext (same x) : g = g') ▸ row

/-- Rows that set the bits of a mask register. -/
theorem compareRow_of_eachBit {g : VIn → Nat → Bool} (arm : ∀ k w s, exec (c k w) s = .next (s.vector k w op fun x => x.eachBit (g x))) :
    CompareRow c op g := by
  intro s k w r next
  let x := s.vin k w r
  let o := x.eachBit (g x)
  obtain ⟨vectors, scalars, length, gathered⟩ := x.flagged_beside o
  obtain ⟨vectors', scalars', length', gathered'⟩ := VecState.setM_beside x.vec x.f.vd (maskOf fun i =>
    if x.active i then g x i else if i < x.vec.vl && x.f.zero then false else bitAt (x.vec.mreg x.f.vd) i)
  refine ⟨x.flagged o, ?_, scalars.trans scalars', length.trans length', vectors.trans vectors', gathered.trans gathered',
    fun q other beside => ?_, fun named beside i lane => ?_⟩
  · rw [arm, State.vector_of_stores next rfl rfl rfl]
    rfl
  · rw [x.flagged_mreg_of_beside o beside]
    exact VecState.mreg_setM_ne _ _ other.symm
  · rw [x.flagged_mreg_of_beside o beside]
    refine (congrArg (bitAt · i) (VecState.mreg_setM_self _ _ named)).trans ((bitAt_maskOf _ lane).trans ?_)
    simp only [x, and_comm, Bool.and_eq_true, decide_eq_true_eq]
    rfl

/-- Rows without lane results, loads or stores. -/
theorem plainRow_of_body {body : VIn → VOut} {g : VIn → VecState} {fl : VIn → List Nat}
    (arm : ∀ k w s, exec (c k w) s = .next (s.vector k w op body)) (does : ∀ x, body x = { vec := g x, lanes := fl x }) :
    PlainRow c op g fl := by
  intro s k w r next
  rw [arm, State.vector_of_stores next (does _) rfl rfl]
  rfl

end

/-! ### The rows (R263 to R290) -/

/-- To turn the sign bit is to add it, where 32 bits are kept. -/
theorem xor_signBit (v : W32) : v ^^^ 0x80000000#32 = BitVec.ofNat 32 (v.toNat + 2 ^ 31) := by
  have sign : 0x80000000#32 = BitVec.twoPow 32 31 := rfl
  refine BitVec.eq_of_getLsbD_eq fun i below => ?_
  rw [sign, BitVec.getLsbD_xor, BitVec.getLsbD_twoPow, BitVec.getLsbD_ofNat, Nat.add_comm]
  obtain low | rfl := Nat.lt_succ_iff_lt_or_eq.mp below
  · rw [Nat.testBit_two_pow_add_gt low]
    simp [low.ne', below, BitVec.getLsbD]
  · rw [Nat.testBit_two_pow_add_eq]
    simp [BitVec.getLsbD]

/-- Settles O7: each arm applies its row's operation to independent lanes; VFNEG adds the sign bit that its row turns. -/
theorem vectorFp32LanesCompute : Obligations.VectorFp32LanesCompute := by
  refine ⟨?_, ?_, ?_, ?_, ?_, ?_, ?_, ?_, ?_, ?_, LaneRow.congr (laneRow_of_each fun _ _ _ => rfl) fun x i => ?vfneg, ?_, ?_, ?_, ?_⟩
  case vfneg =>
    rw [xor_signBit]
    rfl
  all_goals exact laneRow_of_each fun _ _ _ => rfl

/-- Settles O8: each arm applies its row's operation to the elements of independent lanes. -/
theorem vectorBf16AndConversionLanes : Obligations.VectorBf16AndConversionLanes := by
  refine ⟨?_, ?_, ?_, ?_, ?_⟩
  all_goals exact laneRow_of_each fun _ _ _ => rfl

/-- Settles O9: each arm wraps or saturates the elements of independent lanes. -/
theorem vectorIntegerLanesCompute : Obligations.VectorIntegerLanesCompute := by
  unfold Obligations.VectorIntegerLanesCompute
  refine ⟨?_, ?_, ?_, ?_, ?_, ?_, ?_, ?_, ?_, ?_, ?_, ?_, ?_, ?_⟩
  all_goals exact laneRow_of_each fun _ _ _ => rfl

/-- Settles O10: each arm computes or chooses the values of independent lanes. -/
theorem vectorLogicAndPermutationLanes : Obligations.VectorLogicAndPermutationLanes := by
  refine ⟨?_, ?_, ?_, ?_, ?_, ?_, ?_, ?_, ?_, ?_⟩
  all_goals exact laneRow_of_each fun _ _ _ => rfl

/-- Settles O11: both arms set the bits of a mask register. -/
theorem vectorComparisonsSetMaskBits : Obligations.VectorComparisonsSetMaskBits := by
  refine ⟨?_, ?_⟩
  all_goals exact compareRow_of_eachBit fun _ _ _ => rfl

/-- Settles O12: each arm writes one register; VEXT asks whether its lane lies below VL, VMOP for its relation. -/
theorem vectorScalarRowsWriteOneRegister : Obligations.VectorScalarRowsWriteOneRegister := by
  refine ⟨?_, ?_, ?_, ?_, ?_, ?_, plainRow_of_body (fun _ _ _ => rfl) fun x => ?vext, ?_, ?_,
    plainRow_of_body (fun _ _ _ => rfl) fun x => ?vmop, ?_, ?_, fun v y => ⟨rfl, rfl, rfl, rfl⟩⟩
  case vext =>
    dsimp only
    split <;> rfl
  case vmop =>
    dsimp only
    match x.f.imm with
    | 0 | 1 | 2 | _ + 3 => rfl
  all_goals exact plainRow_of_body (fun _ _ _ => rfl) fun _ => rfl

/-- Settles O13: each arm writes its scalars from the active lanes; the rows that ask for a NaN, a masked row or an empty chunk answer alike
in each case. -/
theorem vectorReductionsAndRowState : Obligations.VectorReductionsAndRowState := by
  refine ⟨plainRow_of_body (fun _ _ _ => rfl) fun x => ?vfredsum, ?_, ?_, ?_, ?_, plainRow_of_body (fun _ _ _ => rfl) fun x => ?vsmsum,
    plainRow_of_body (fun _ _ _ => rfl) fun x => ?vsmnrm, ?_, ?_, plainRow_of_body (fun _ _ _ => rfl) fun x => ?vnfin⟩
  case vfredsum =>
    dsimp only
    by_cases nan : (Fmts.fp32.decode (sumOr0 (x.leaves x.a)).1).isNan = true
    all_goals
      simp only [nan]
      split <;> rfl
  case vsmsum =>
    dsimp only
    cases sumTree (x.leaves fun i => (smOf x.vec x.f.vd).term (x.a i)) <;> rfl
  case vsmnrm =>
    dsimp only
    by_cases nan : (smOf x.vec x.f.vd).nan = true
    · simp only [nan]
      rfl
    by_cases masked : (smOf x.vec x.f.vd).masked = true
    all_goals
      simp only [nan, masked]
      rfl
  case vnfin =>
    dsimp only
    by_cases nonfin : (nOf x.vec x.f.vd).nonfin = true
    · simp only [nonfin]
      rfl
    by_cases empty : (nOf x.vec x.f.vd).count = 0
    all_goals
      simp only [nonfin, empty]
      rfl
  all_goals exact plainRow_of_body (fun _ _ _ => rfl) fun _ => rfl

end Sys2Proof.Machine
end

section
/-! SUPPORT. Proofs/VectorAccess.lean: what the loads of a run read of a clean core store, and the bytes that its stores write. -/
namespace Sys2Proof.Machine

/-! ### Bytes of a store (R7, R315) -/

theorem leNat_lt (bs : List Byte) : leNat bs < 2 ^ (8 * bs.length) := by
  induction bs with
  | nil => simp [leNat]
  | cons b bs ih =>
    have low := b.isLt
    rw [leNat, List.length_cons, Nat.mul_succ, pow_add]
    omega

/-- A byte of the number that bytes spell. -/
theorem leNat_byte (bs : List Byte) (i : Nat) : BitVec.ofNat 8 (leNat bs / 2 ^ (8 * i)) = bs.getD i 0#8 := by
  induction bs generalizing i with
  | nil => simp [leNat]
  | cons b bs ih =>
    cases i with
    | zero => exact BitVec.eq_of_toNat_eq (by simpa [leNat] using b.isLt)
    | succ i =>
      have rest : (b.toNat + 256 * leNat bs) / 2 ^ (8 * (i + 1)) = leNat bs / 2 ^ (8 * i) := by
        have low := b.isLt
        rw [Nat.mul_succ, Nat.add_comm (8 * i), pow_add, ← Nat.div_div_eq_div_mul]
        congr 1
        omega
      rw [leNat, rest, ih, List.getD_cons_succ]

/-- A byte of a word that eight bytes make. -/
theorem wordBytes_bytesWord (bs : List Byte) (whole : bs.length = 8) (i : Nat) (inside : i < 8) :
    (wordBytes (bytesWord bs)).getD i 0#8 = bs.getD i 0#8 := by
  have small : leNat bs < 2 ^ 64 := by simpa [whole] using leNat_lt bs
  rw [← leNat_byte bs i, wordBytes, bytesWord, BitVec.toNat_ofNat, Nat.mod_eq_of_lt small]
  simp [inside]

namespace Mem

variable {m : Mem}

/-- A byte of memory as a byte of its word. -/
theorem byte_of_raw (m : Mem) (wa i : Nat) (inside : i < 8) : m.byte (8 * wa + i) = (wordBytes (m.raw wa)).getD i 0#8 := by
  rw [raw, wordBytes_bytesWord _ (by simp) i inside]
  simp [inside]

theorem byte_of_word (clean : m.syn = []) (wa i : Nat) (inside : i < 8) : (wordBytes (m.word wa)).getD i 0#8 = m.byte (8 * wa + i) := by
  rw [word_of_clean clean, byte_of_raw _ _ _ inside]

/-- A word written in part holds the bytes written and keeps the others. -/
theorem byte_mergeBytes (clean : m.syn = []) (wa off : Nat) (bs : List Byte) (i : Nat) (inside : i < 8) :
    (wordBytes (mergeBytes m wa off bs)).getD i 0#8 =
      if within off bs.length (8 * wa + i) then bs.getD (8 * wa + i - off) 0#8 else m.byte (8 * wa + i) := by
  rw [mergeBytes, wordBytes_bytesWord _ (by simp) i inside, ← byte_of_word clean wa i inside]
  simp [inside]

/-- Bytes written word by word. -/
theorem byte_merged (clean : m.syn = []) {a n : Nat} {bs : List Byte} (upTo : a + bs.length ≤ 8 * (a / 8 + n)) (b : Nat) :
    (m.storeWords (a / 8) ((List.range n).map fun i => mergeBytes m (a / 8 + i) a bs)).byte b =
      if within a bs.length b then bs.getD (b - a) 0#8 else m.byte b := by
  by_cases touched : a / 8 ≤ b / 8 ∧ b / 8 < a / 8 + n
  · obtain ⟨i, word⟩ : ∃ i, b / 8 = a / 8 + i := ⟨b / 8 - a / 8, by omega⟩
    have place : b = 8 * (a / 8 + i) + b % 8 := by omega
    have run : i < ((List.range n).map fun i => mergeBytes m (a / 8 + i) a bs).length := by simp; omega
    rw [place, byte_of_raw _ _ _ (Nat.mod_lt b (by decide)), raw_storeWords_in _ _ _ _ run, List.getElem_map, List.getElem_range,
      byte_mergeBytes clean _ _ _ _ (Nat.mod_lt b (by decide))]
  · rw [byte_storeWords_out _ _ _ _ (by simp; omega), if_neg (by omega)]

end Mem

/-- The byte at `b` after stores of the runs `l`, one after the other, where `old` stood. -/
def byteAfter (l : List (Nat × List Byte)) (old : Byte) (b : Nat) : Byte :=
  forL l (fun p v => if within p.1 p.2.length b then p.2.getD (b - p.1) 0#8 else v) old

theorem byteAfter_of_outside {l : List (Nat × List Byte)} {b : Nat} (outside : ∀ p ∈ l, ¬ within p.1 p.2.length b) (old : Byte) :
    byteAfter l old b = old :=
  forL_eq_self _ _ _ fun p listed => if_neg (outside p listed)

/-- The last run that covers a byte gives it. -/
theorem byteAfter_of_last {before after : List (Nat × List Byte)} {p : Nat × List Byte} {b : Nat} (covers : within p.1 p.2.length b)
    (last : ∀ q ∈ after, ¬ within q.1 q.2.length b) (old : Byte) : byteAfter (before ++ p :: after) old b = p.2.getD (b - p.1) 0#8 := by
  have final : byteAfter (before ++ p :: after) old b = byteAfter after (if within p.1 p.2.length b then p.2.getD (b - p.1) 0#8 else
      byteAfter before old b) b := by simp only [byteAfter, forL, List.foldl_append, List.foldl_cons]
  rw [final, byteAfter_of_outside last, if_pos covers]

/-- A store into a clean core writes its bytes and no other. -/
theorem State.storeCoreBytes_moved {s : State} {k : Nat} (clean : (s.core k).store.syn = []) (unarmed : s.mem.injArm = false) (a : Nat)
    (bs : List Byte) (ctx : Option Nat) :
    ∃ store, s.Moved (s.storeCoreBytes k a bs ctx) k store s.mem.space ∧ store.syn = [] ∧
      ∀ b, store.byte b = if within a bs.length b then bs.getD (b - a) 0#8 else (s.core k).store.byte b := by
  by_cases none_ : bs = []
  · subst none_
    refine ⟨(s.core k).store, State.moved_refl unarmed k, clean, fun b => ?_⟩
    exact (if_neg fun covers => absurd covers.2 (Nat.not_lt.mpr covers.1)).symm
  · have some_ : 0 < bs.length := List.length_pos_of_ne_nil none_
    refine ⟨_, ?_, Mem.storeWords_clean clean _ _, Mem.byte_merged clean (n := (a + bs.length - 1) / 8 + 1 - a / 8) (by omega)⟩
    have noted (wa : Nat) : s.noteCore k wa 1 ctx false 0 0 = s := State.noteCore_of_clean clean ..
    unfold State.storeCoreBytes
    simp only [List.isEmpty_iff, none_, noted, ite_self, if_false]
    exact State.storeCore_moved unarmed k _ _

/-- Stores into a clean core, one after the other. -/
theorem State.storeAll_moved {s : State} {k : Nat} (clean : (s.core k).store.syn = []) (unarmed : s.mem.injArm = false) (ctx : Option Nat)
    (l : List (Nat × List Byte)) :
    ∃ store, s.Moved (forL l (fun p s => s.storeCoreBytes k p.1 p.2 ctx) s) k store s.mem.space ∧
      ∀ b, store.byte b = byteAfter l ((s.core k).store.byte b) b := by
  induction l generalizing s with
  | nil => exact ⟨_, State.moved_refl unarmed k, fun _ => rfl⟩
  | cons p l ih =>
    obtain ⟨store, first, sound, bytes⟩ := State.storeCoreBytes_moved clean unarmed p.1 p.2 ctx
    obtain ⟨store', rest, bytes'⟩ := ih (s := s.storeCoreBytes k p.1 p.2 ctx) (by rw [first.store, sound]) first.unarmed
    rw [first.space] at rest
    refine ⟨store', first.trans rest, fun b => ?_⟩
    rw [bytes', first.store, bytes]
    rfl

/-! ### Active lanes (R246, R247) -/

namespace VIn

variable (x : VIn)

theorem mem_lanes {i : Nat} : i ∈ x.lanes ↔ i < 64 ∧ x.active i = true := by simp [lanes]

/-- Lanes stand in rising order. -/
theorem lanes_rising : x.lanes.Pairwise (· < ·) := List.pairwise_lt_range.sublist List.filter_sublist

/-- No active lane is refused where all are allowed. -/
theorem lanes_find?_none {allows : Nat → Bool} (all : ∀ i, i < 64 → x.active i = true → allows i = true) :
    (x.lanes.find? fun i => !(allows i)) = none := by
  refine List.find?_eq_none.mpr fun i listed => ?_
  obtain ⟨lane, active⟩ := x.mem_lanes.mp listed
  simp [all i lane active]

/-- A gather whose accesses all lie in the spans (R256). -/
theorem gather_of_inside {addr : Nat → Nat}
    (inside : ∀ i, i < 64 → x.active i = true → (vcmdOf x.run.cmd).mayRead (addr i) 4 = true) :
    x.gather addr = { x.each fun i => (x.mem.lane32 (addr i), 0) with reads := (x.lanes.map fun i => addr i / 8).eraseDups } := by
  have allowed := x.lanes_find?_none inside
  unfold gather
  simp only [allowed]

/-- A scatter whose accesses all lie in the write span (R256). -/
theorem scatter_of_inside {addr : Nat → Nat} (reg : Nat)
    (inside : ∀ i, i < 64 → x.active i = true → (vcmdOf x.run.cmd).mayWrite (addr i) 4 = true) :
    x.scatter reg addr = { vec := x.vec, writes := x.lanes.map fun i => (addr i, laneBytes (x.vec.lane reg i)) } := by
  have allowed := x.lanes_find?_none inside
  unfold scatter
  simp only [allowed]

end VIn

/-! ### Loads (R256, R262, R274) -/

/-- Loads of a lane each, whose accesses lie in the spans. -/
theorem gatherRow_of_gather {c : Nat → W64 → Instr} {op : Nat} {addr : VIn → Nat → Nat}
    (arm : ∀ k w s, exec (c k w) s = .next (s.vector k w op fun x => x.gather (addr x))) : GatherRow c op addr := by
  intro s k w r next clean inside
  refine ⟨_, ?_, (s.vin k w r).laneResult_each _⟩
  rw [arm, State.vector_of_loads next ((s.vin k w r).gather_of_inside inside) rfl clean rfl]
  rfl

namespace VIn

variable (x : VIn)

/-- The address of the scale of lane i of VUNPK (R274). -/
def unpackScale (i : Nat) : Nat := ((x.vec.s x.f.vb).toNat + (x.f.imm + i) / 32) % 2 ^ 64

/-- The accesses of lane i of VUNPK: its element and, for a block-scaled format, its scale. -/
def unpackSpans (i : Nat) : List (Nat × Nat) :=
  planeSpan (vecAddr (x.vec.s x.f.va).toNat) (vecFormat x.f.fmt).bits (x.f.imm + i) 1 ::
    (if (vecFormat x.f.fmt).scaled then [(x.unpackScale i, 1)] else [])

/-- The value of lane i of VUNPK. -/
def unpacked (i : Nat) : Val :=
  let c := x.mem.element (vecAddr (x.vec.s x.f.va).toNat) (vecFormat x.f.fmt).bits (x.f.imm + i)
  if (vecFormat x.f.fmt).scaled then (vecFormat x.f.fmt).scaledValue (x.mem.readByte (x.unpackScale i)) c else (vecFormat x.f.fmt).value c

/-- The accesses of VUNPK lie in the spans when those of each active lane do (R256). -/
theorem unpackSpans_allowed {v : VCmd} (inside : ∀ i, i < 64 → x.active i = true → ∀ p ∈ x.unpackSpans i, v.mayRead p.1 p.2 = true) :
    ((x.lanes.flatMap x.unpackSpans).find? fun p => !(v.mayRead p.1 p.2)) = none := by
  refine List.find?_eq_none.mpr fun p named => ?_
  obtain ⟨i, active, span⟩ := List.mem_flatMap.mp named
  obtain ⟨lane, active⟩ := x.mem_lanes.mp active
  simp [inside i lane active p span]

end VIn

/-- VUNPK whose accesses all lie in the spans. -/
theorem exec_vunpk_of_inside {s : State} {k : Nat} {w : W64} {r : VRun} (next : s.runsNext k w 0x14 r) (clean : (s.core k).store.syn = [])
    (inside : ∀ i, i < 64 → (s.vin k w r).active i = true → ∀ p ∈ (s.vin k w r).unpackSpans i, (vcmdOf r.cmd).mayRead p.1 p.2 = true) :
    exec (.vunpk k w) s = .next (s.vecMoved k r ((s.vin k w r).flagged
      ((s.vin k w r).each fun i => laneRes (Fmts.fp32.encodeIeee .nearest ((s.vin k w r).unpacked i))))) := by
  have allowed := (s.vin k w r).unpackSpans_allowed inside
  refine congrArg Host.Outcome.next (State.vector_of_loads next (o := {
    (s.vin k w r).each fun i => laneRes (Fmts.fp32.encodeIeee .nearest ((s.vin k w r).unpacked i)) with
    reads := (((s.vin k w r).lanes.flatMap (s.vin k w r).unpackSpans).flatMap fun p => [p.1 / 8, (p.1 + p.2 - 1) / 8]).eraseDups })
    ?_ rfl clean rfl)
  dsimp only
  split
  next outside => exact absurd (outside.symm.trans allowed) nofun
  · rfl

/-- Settles O14: the allowed accesses of a clean store leave only the registers to write, lane by lane or one scalar. -/
theorem vectorLoadsReadTheNamedWords : Obligations.VectorLoadsReadTheNamedWords := by
  refine ⟨gatherRow_of_gather fun _ _ _ => rfl, gatherRow_of_gather fun _ _ _ => rfl, fun s k w r next clean => ?_,
    fun s k w r next clean => ?_⟩
  · intro x f base sc inside
    refine ⟨_, exec_vunpk_of_inside next clean fun i lane active p span => ?_, x.laneResult_each _⟩
    obtain ⟨code, scale⟩ := inside i lane active
    obtain rfl | span := List.mem_cons.mp span
    · exact code
    · split at span
      next scaled =>
        obtain rfl := List.mem_singleton.mp span
        exact scale scaled
      · simp at span
  · intro x a inside
    exact congrArg Host.Outcome.next (State.vector_of_loads (o := { vec := x.vec.setS x.f.vd (x.mem.word (a / 8)), reads := [a / 8] })
      next (if_pos inside) rfl clean rfl)

/-! ### Stores (R256, R262, R315) -/

@[simp] theorem State.vecMoved_core (s : State) (k : Nat) (r : VRun) (v : VecState) :
    (s.vecMoved k r v).core k = { s.core k with vec := v, vrun := some r.next } := State.core_updCore ..

theorem State.vecMoved_core_ne (s : State) {k j : Nat} (r : VRun) (v : VecState) (other : j ≠ k) : (s.vecMoved k r v).core j = s.core j :=
  State.core_updCore_ne _ _ other.symm

/-- `t` follows from `s` by an instruction of run `r` that leaves core `k` the registers `v` and stores the runs `l` of bytes, one after
the other: the other cores and the tiers stay. -/
structure State.Stores (s t : State) (k : Nat) (r : VRun) (v : VecState) (l : List (Nat × List Byte)) : Prop where
  vec : (t.core k).vec = v
  run : (t.core k).vrun = some r.next
  space : t.mem.space = s.mem.space
  others : ∀ j, j ≠ k → t.core j = s.core j
  byte : ∀ b, (t.core k).store.byte b = byteAfter l ((s.core k).store.byte b) b

/-- An instruction that only stores, with no word in error and no injection armed. -/
theorem State.vector_stores {s : State} {k op : Nat} {w : W64} {r : VRun} {body : VIn → VOut} {l : List (Nat × List Byte)}
    (next : s.runsNext k w op r) (clean : (s.core k).store.syn = []) (unarmed : s.mem.injArm = false)
    (does : body (s.vin k w r) = { vec := (s.core k).vec, writes := l }) :
    s.Stores (s.vector k w op body) k r ((s.vin k w r).flagged { vec := (s.core k).vec }) l := by
  have ran : s.vector k w op body = forL l (fun p s => s.storeCoreBytes k p.1 p.2 r.ctx)
      (s.vecMoved k r ((s.vin k w r).flagged { vec := (s.core k).vec })) := State.vector_of_stores next does rfl rfl
  rw [ran]
  obtain ⟨store, moved, bytes⟩ := State.storeAll_moved
    (s := s.vecMoved k r ((s.vin k w r).flagged { vec := (s.core k).vec })) (k := k) (by rw [vecMoved_core]; exact clean) unarmed r.ctx l
  refine ⟨by rw [moved.core, vecMoved_core], by rw [moved.core, vecMoved_core], moved.space, fun j other => ?_, fun b => ?_⟩
  · rw [moved.others j other, vecMoved_core_ne _ _ _ other]
  · rw [moved.store, bytes, vecMoved_core]

theorem vecAddr_aligned (a : Int) : vecAddr a % 4 = 0 := by
  unfold vecAddr
  omega

theorem laneBytes_length (v : W32) : (laneBytes v).length = 4 := by simp [laneBytes]

theorem laneBytes_getD (v : W32) {n : Nat} (inside : n < 4) : (laneBytes v).getD n 0#8 = BitVec.ofNat 8 (v.toNat / 2 ^ (8 * n)) := by
  simp [laneBytes, inside]

theorem wordBytes_getD (v : W64) {n : Nat} (inside : n < 8) : (wordBytes v).getD n 0#8 = BitVec.ofNat 8 (v.toNat / 2 ^ (8 * n)) := by
  simp [wordBytes, inside]

/-- The bytes of the highest active lane at an address stand there after a scatter. -/
theorem VIn.byteAfter_of_lane (x : VIn) {addr : Nat → Nat} {val : Nat → W32} (aligned : ∀ i, addr i % 4 = 0) {i n : Nat} (lane : i < 64)
    (active : x.active i = true) (highest : ∀ j, i < j → j < 64 → x.active j = true → addr j ≠ addr i) (inside : n < 4) (old : Byte) :
    byteAfter (x.lanes.map fun i => (addr i, laneBytes (val i))) old (addr i + n) = BitVec.ofNat 8 ((val i).toNat / 2 ^ (8 * n)) := by
  obtain ⟨before, after, split⟩ := List.append_of_mem (x.mem_lanes.mpr ⟨lane, active⟩)
  have rising := x.lanes_rising
  rw [split, List.pairwise_append, List.pairwise_cons] at rising
  obtain ⟨-, ⟨higher, -⟩, -⟩ := rising
  rw [split, List.map_append, List.map_cons, byteAfter_of_last ⟨by simp, by simp [laneBytes_length, inside]⟩, Nat.add_sub_cancel_left,
    laneBytes_getD _ inside]
  intro q listed
  obtain ⟨j, later, rfl⟩ := List.mem_map.mp listed
  obtain ⟨lane', active'⟩ := x.mem_lanes.mp (split ▸ List.mem_append_right _ (List.mem_cons_of_mem _ later) : j ∈ x.lanes)
  have apart := highest j (higher j later) lane' active'
  have here := aligned i
  have there := aligned j
  rw [laneBytes_length]
  dsimp only [within]
  omega

/-- Stores of a lane each, at aligned addresses in the write span. -/
theorem scatterRow_of_scatter {c : Nat → W64 → Instr} {op : Nat} {addr : VIn → Nat → Nat} (aligned : ∀ x i, addr x i % 4 = 0)
    (arm : ∀ k w s, exec (c k w) s = .next (s.vector k w op fun x => x.scatter x.f.va (addr x))) : ScatterRow c op addr := by
  intro s k w r next clean unarmed inside
  let x := s.vin k w r
  have stores := State.vector_stores (body := fun x => x.scatter x.f.va (addr x)) next clean unarmed (x.scatter_of_inside x.f.va inside)
  refine ⟨_, arm k w s, stores.vec, stores.run, stores.space, stores.others, fun b outside => ?_, fun i lane active highest n low => ?_⟩
  · rw [stores.byte]
    refine byteAfter_of_outside (fun p listed => ?_) _
    obtain ⟨i, active, rfl⟩ := List.mem_map.mp listed
    obtain ⟨lane, active⟩ := x.mem_lanes.mp active
    rw [laneBytes_length]
    exact outside i lane active
  · rw [stores.byte]
    exact x.byteAfter_of_lane (aligned x) lane active highest low _

/-- Settles O15: the stores of an instruction write their runs of bytes one after the other, so the last run that covers a byte gives it. -/
theorem vectorStoresWriteOnlyTheirBytes : Obligations.VectorStoresWriteOnlyTheirBytes := by
  refine ⟨scatterRow_of_scatter (fun x i => vecAddr_aligned _) fun _ _ _ => rfl,
    scatterRow_of_scatter (fun x i => vecAddr_aligned _) fun _ _ _ => rfl,
    fun s k w r next clean unarmed => ?_, fun s k w r next => ?_⟩
  · intro x a inside
    obtain ⟨t, ran, stores⟩ : ∃ t, exec (.sst k w) s = .next t ∧
        s.Stores t k r (x.flagged { vec := x.vec }) [(a, wordBytes (x.vec.s x.f.vd))] :=
      ⟨_, rfl, State.vector_stores next clean unarmed (if_pos inside)⟩
    refine ⟨t, ran, stores.vec, stores.run, stores.space, stores.others, fun b outside => ?_, fun n low => ?_⟩
    · rw [stores.byte]
      refine byteAfter_of_outside (fun p listed => ?_) _
      rw [List.mem_singleton.mp listed, wordBytes_length]
      exact outside
    · rw [stores.byte, ← List.nil_append [_], byteAfter_of_last ⟨by simp, by simp [wordBytes_length, low]⟩ (by simp),
        Nat.add_sub_cancel_left, wordBytes_getD _ low]
  · intro x f base blocks codes scales inside
    have allowed : ((codes ++ scales).find? fun p => !((vcmdOf r.cmd).mayWrite p.1 p.2.length)) = none :=
      List.find?_eq_none.mpr fun p listed => by simp [inside p listed]
    refine congrArg Host.Outcome.next (State.vector_of_stores next (o := {
      vec := x.vec, lanes := blocks.flatMap fun b => b.2.2.2, writes := codes ++ scales }) ?_ rfl rfl)
    dsimp only
    split
    next outside => exact absurd (outside.symm.trans allowed) nofun
    · rfl

end Sys2Proof.Machine
end

section
/-! SUPPORT. Proofs/CheckCodes.lean: the check code is linear, so a bit turned over shows its own column (R310, R311, R312). -/
namespace Sys2Proof.Machine

/-! ### The check bits are linear (R311) -/

/-- One step of the sum: the column of bit i, where the bit is set. -/
theorem checkStep_xor (v w : W64) (a b : Byte) (i : Nat) :
    (if (v ^^^ w).getLsbD i then (a ^^^ b) ^^^ BitVec.ofNat 8 (hcol i) else a ^^^ b) =
      (if v.getLsbD i then a ^^^ BitVec.ofNat 8 (hcol i) else a) ^^^ (if w.getLsbD i then b ^^^ BitVec.ofNat 8 (hcol i) else b) := by
  generalize BitVec.ofNat 8 (hcol i) = c
  rw [BitVec.getLsbD_xor]
  have twice : a ^^^ c ^^^ (b ^^^ c) = a ^^^ b := by
    rw [BitVec.xor_assoc, BitVec.xor_comm c, BitVec.xor_assoc, BitVec.xor_self, BitVec.xor_zero]
  cases v.getLsbD i <;> cases w.getLsbD i <;> simp only [Bool.xor_self, Bool.xor_false, Bool.false_xor, if_true, if_false, twice, Bool.false_eq_true]
  · exact BitVec.xor_assoc ..
  · rw [BitVec.xor_assoc, BitVec.xor_comm b, BitVec.xor_assoc]

/-- The check bits of a sum are the sum of the check bits. -/
theorem checkBits_xor (v w : W64) : checkBits (v ^^^ w) = checkBits v ^^^ checkBits w := by
  have fold (l : List Nat) (a b : Byte) :
      l.foldl (fun c i => if (v ^^^ w).getLsbD i then c ^^^ BitVec.ofNat 8 (hcol i) else c) (a ^^^ b) =
        l.foldl (fun c i => if v.getLsbD i then c ^^^ BitVec.ofNat 8 (hcol i) else c) a ^^^
          l.foldl (fun c i => if w.getLsbD i then c ^^^ BitVec.ofNat 8 (hcol i) else c) b := by
    induction l generalizing a b with
    | nil => rfl
    | cons i l ih => simp only [List.foldl_cons, checkStep_xor, ih]
  exact fold _ 0#8 0#8

/-- A word of one bit has the column of that bit. -/
theorem checkBits_bit : ∀ i, i < 64 → checkBits (BitVec.ofNat 64 (2 ^ i)) = BitVec.ofNat 8 (hcol i) := by decide +kernel

/-! ### One bit turned over -/

theorem Mem.raw_flip (m : Mem) (wa bit : Nat) :
    (m.flip wa bit).raw wa = if bit < 64 then m.raw wa ^^^ BitVec.ofNat 64 (2 ^ bit) else m.raw wa := by
  unfold Mem.flip
  split
  · exact Mem.raw_store_self m wa _
  · rfl

@[simp] theorem Mem.syndrome_setSyn (m : Mem) (wa : Nat) (v : Byte) : (m.setSyn wa v).syndrome wa = v := by
  unfold Mem.setSyn Mem.syndrome
  by_cases clear : v = 0#8
  · rw [if_pos clear, clear]
    induction m.syn with
    | nil => rfl
    | cons e t ih =>
      by_cases here : e.1 = wa
      · rw [Tbl.drop, List.filter_cons_of_neg (by simp [here])]
        exact ih
      · rw [Tbl.drop, List.filter_cons_of_pos (by simp [here]), Tbl.get, if_neg here]
        exact ih
  · rw [if_neg clear]
    exact Tbl.get_set_self ..

theorem Mem.syndrome_flip (m : Mem) (wa bit : Nat) : (m.flip wa bit).syndrome wa = m.syndrome wa ^^^ flipSyn bit := by
  unfold Mem.flip
  dsimp only
  exact Mem.syndrome_setSyn ..

/-- The check bits of the word before and after tell the column of the bit turned over. -/
theorem Mem.checkBits_flip (m : Mem) (wa bit : Nat) :
    checkBits (m.raw wa) ^^^ checkBits ((m.flip wa bit).raw wa) ^^^ (if bit < 64 then 0#8 else BitVec.ofNat 8 (2 ^ (bit - 64))) =
      flipSyn bit := by
  rw [Mem.raw_flip]
  unfold flipSyn
  by_cases data : bit < 64
  · simp only [if_pos data, checkBits_xor, checkBits_bit bit data, BitVec.xor_zero]
    rw [← BitVec.xor_assoc, BitVec.xor_self, BitVec.zero_xor]
  · simp only [if_neg data, BitVec.xor_self, BitVec.zero_xor]

/-- Settles O21: the decisions are those of 256 syndromes; that a turned bit gives its column is the linearity of the check bits. -/
theorem singleBitErrorsCorrectedDoubleFound : Obligations.SingleBitErrorsCorrectedDoubleFound := by
  have dataBits : ∀ i, i < 64 → eccOf (BitVec.ofNat 8 (hcol i)) = .dataBit i := by decide +kernel
  have checkBits_ : ∀ j, j < 8 → eccOf (BitVec.ofNat 8 (2 ^ j)) = .checkBit := by decide +kernel
  refine ⟨rfl, fun i low => ⟨dataBits i low, fun w => ?_⟩, fun j low => ⟨checkBits_ j low, fun w => ?_⟩, by decide +kernel, by decide +kernel,
    fun m wa bit _ clean => ?_⟩
  · rw [eccFix, dataBits i low]
  · rw [eccFix, checkBits_ j low]
  · rw [Mem.syndrome_flip, Mem.checkBits_flip, clean, BitVec.zero_xor]

end Sys2Proof.Machine
end

section
/-! SUPPORT. Proofs/Patrol.lean: records leave the memory unit but for the word that an injection struck; a patrol read of one word (R316, R320, R328). -/
namespace Sys2Proof.Machine
@[simp] theorem roomLoop_mem (fuel : Nat) (fa : Bool) (need : Nat) (s : State) : (roomLoop fuel fa need s).mem = s.mem := by
  induction fuel generalizing s with
  | zero => rfl
  | succ fuel ih =>
    dsimp only [roomLoop]
    split
    · rfl
    · split
      · rfl
      · simp [ih]

@[simp] theorem State.msix_mem (s : State) (v : Nat) : (s.msix v).mem = s.mem := State.notify_mem s (.msix v) 0#64

@[simp] theorem State.writeRecord_mem (s : State) (r : RecSpec) : (s.writeRecord r).1.mem = s.mem := by
  unfold State.writeRecord
  extract_lets ws f hops f1 host s1 before s2 q sink f2 m s3 entry t3 f3 s4 s5 log t5 f5
  have h2 : s2.mem = s.mem := by simp [s2, s1]
  have h3 : s3.1.mem = s.mem := by
    unfold s3
    split
    · exact h2
    · next put =>
      rw [← h2, ← State.put_mem put]
      dsimp only
      split
      · exact State.msix_mem ..
      · rfl
  have h4 : s4.1.mem = s.mem := h3
  split
  · change (if s4.1.host.pldmEvents then _ else _ : State).mem = _
    split <;> exact h4
  · exact h4

@[simp] theorem State.event_mem (s : State) (x : Nat) (e : Event) : (s.event x e).mem = s.mem := by
  dsimp only [State.event]
  split
  · next put =>
    split at put
    · exact State.put_mem put
    · cases put
  · split <;> rfl

@[simp] theorem State.enter_mem (s : State) (r : RecSpec) : (s.enter r).mem = s.mem := by
  unfold State.enter
  extract_lets path dup f w s1 f1 s2
  have h2 : s2.mem = s.mem := by
    unfold s2
    split <;> exact s.writeRecord_mem r
  split
  · rfl
  · split
    · split
      · exact h2
      · rw [State.event_mem, h2]
    · exact h2

/-! ### What a word in error that can be corrected does (R312, R316, R317, R328) -/

/-- Only the place that the kettle's own writes count at can count more by a record. -/
theorem State.raise_ecc (s : State) (r : RecSpec) {place : Nat} (other : place ≠ 37) :
    (s.raise r).mem.ecc.get {} place = s.mem.ecc.get {} place := by
  have kettle (t : State) : t.wroteKettle.mem.ecc.get {} place = t.mem.ecc.get {} place := by
    unfold State.wroteKettle
    extract_lets bits m t1 syn t2
    have counted : t2.mem.ecc.get {} place = t.mem.ecc.get {} place := Tbl.get_set_ne _ _ _ (Ne.symm other)
    split
    · rfl
    split
    · rfl
    split
    · exact counted
    · rw [State.enter_mem]
      exact counted
  rw [State.raise, kettle, State.enter_mem]

section
variable (s : State) (key : Nat × Nat) (steeps : Nat) (r : RecSpec)

theorem State.raiseLimited_beside : (s.raiseLimited key steeps r).beside = s.beside := by
  unfold State.raiseLimited
  split
  · split
    · rfl
    · exact State.raise_beside ..
  · exact State.raise_beside ..

theorem State.raiseLimited_ecc {place : Nat} (other : place ≠ 37) :
    (s.raiseLimited key steeps r).mem.ecc.get {} place = s.mem.ecc.get {} place := by
  unfold State.raiseLimited
  split
  · split
    · rfl
    · exact State.raise_ecc _ _ other
  · exact State.raise_ecc _ _ other

end

theorem State.rowCe_mem (s : State) (w : BadWord) : ∃ rows, (s.rowCe w).mem = { s.mem with rowCes := rows } := by
  unfold State.rowCe
  split
  · exact ⟨_, rfl⟩
  · exact ⟨_, rfl⟩

/-- A word that can be corrected is counted at its place; the tiers and the patrol stay. -/
theorem State.badWord_of_ce (s : State) (w : BadWord) (ctx : Option Nat) (scrub : Bool) (opcode opRef : Nat) (ce : eccOf w.syn ≠ .ue)
    (place : w.place ≠ 37) :
    (s.badWord w ctx scrub opcode opRef).mem.space = s.mem.space ∧ (s.badWord w ctx scrub opcode opRef).mem.patrol = s.mem.patrol ∧
      ((s.badWord w ctx scrub opcode opRef).mem.ecc.get {} w.place).ce = satN 32 ((s.mem.ecc.get {} w.place).ce + 1) := by
  have counted : ((s.countEcc w.place w.syn).mem.ecc.get {} w.place).ce = satN 32 ((s.mem.ecc.get {} w.place).ce + 1) := by
    simp [State.countEcc, ce]
  have patrol (t : State) (key : Nat × Nat) (steeps : Nat) (r : RecSpec) : (t.raiseLimited key steeps r).mem.patrol = t.mem.patrol :=
    congrArg (fun b => b.1.mem.patrol) (t.raiseLimited_beside key steeps r)
  have space (t : State) (key : Nat × Nat) (steeps : Nat) (r : RecSpec) : (t.raiseLimited key steeps r).mem.space = t.mem.space :=
    space_of_beside (t.raiseLimited_beside key steeps r)
  unfold State.badWord
  extract_lets ue s1 spec
  split
  · rw [space, patrol, State.raiseLimited_ecc _ _ _ _ place]
    exact ⟨rfl, rfl, counted⟩
  · rw [if_pos (by simp [ue, ce]), space, patrol, State.raiseLimited_ecc _ _ _ _ place]
    obtain ⟨rows, entered⟩ := s1.rowCe_mem w
    rw [entered]
    exact ⟨rfl, rfl, counted⟩

/-! ### The patrol (R320, R321) -/

theorem placeOf_lt (a : Nat) : placeOf a < 24 := by
  unfold placeOf
  split <;> omega

/-- One bit turned over is found and can be corrected. -/
theorem flipSyn_correctable : ∀ bit, bit < 72 → flipSyn bit ≠ 0#8 ∧ eccOf (flipSyn bit) ≠ .ue := by decide +kernel

/-- Correcting the turned bit gives the word that stood before. -/
theorem eccFix_flipSyn (w : W64) {bit : Nat} (low : bit < 72) :
    eccFix (flipSyn bit) (if bit < 64 then w ^^^ BitVec.ofNat 64 (2 ^ bit) else w) = w := by
  have decided : eccOf (flipSyn bit) = if bit < 64 then .dataBit bit else .checkBit := by
    have all : ∀ bit, bit < 72 → eccOf (flipSyn bit) = if bit < 64 then .dataBit bit else .checkBit := by decide +kernel
    exact all bit low
  rw [eccFix, decided]
  by_cases data : bit < 64
  · simp only [if_pos data, BitVec.xor_assoc, BitVec.xor_self, BitVec.xor_zero]
  · simp only [if_neg data]

section
variable {m : Mem} (clean : m.syn = []) (wa : Nat) {bit : Nat} (low : bit < 72)
include clean low

theorem Mem.syn_flip_of_clean : (m.flip wa bit).syn = [(wa, flipSyn bit)] := by
  have none_ : m.syndrome wa = 0#8 := by rw [Mem.syndrome, clean, Tbl.get_nil]
  have listed (n : Mem) (none' : n.syn = []) : (n.setSyn wa (flipSyn bit)).syn = [(wa, flipSyn bit)] := by
    rw [Mem.setSyn, if_neg (flipSyn_correctable bit low).1, none']
    rfl
  rw [Mem.flip, none_, BitVec.zero_xor]
  refine listed _ ?_
  split
  · exact (Mem.setBytes_syn ..).trans clean
  · exact clean

theorem Mem.word_flip_of_clean : (m.flip wa bit).word wa = m.raw wa := by
  have none_ : m.syndrome wa = 0#8 := by rw [Mem.syndrome, clean, Tbl.get_nil]
  rw [Mem.word, Mem.syndrome_flip, Mem.raw_flip, none_, BitVec.zero_xor, eccFix_flipSyn _ low]

/-- The word goes back as it was. -/
theorem Mem.writeBack_flip_of_clean : (m.flip wa bit).writeBack wa = (m.flip wa bit).store wa (m.raw wa) := by
  have none_ : m.syndrome wa = 0#8 := by rw [Mem.syndrome, clean, Tbl.get_nil]
  obtain ⟨turned, correctable⟩ := flipSyn_correctable bit low
  rw [Mem.writeBack, Mem.syndrome_flip, none_, BitVec.zero_xor, if_neg (by simp [turned, correctable]), Mem.word_flip_of_clean clean wa low]

end

theorem MemUnit.unmark_beside_injected (u : MemUnit) (key : Nat × Nat) (syn : Byte) :
    ∃ marks, u.unmark key syn = { u with injected := marks } := by
  unfold MemUnit.unmark
  split
  · exact ⟨_, rfl⟩
  · exact ⟨_, rfl⟩

/-- A patrol read of a word with one bit turned over counts it at its place and stores the word as it was. -/
theorem State.noteTier_of_turned {s : State} {m : Mem} {wa bit : Nat} (turned : s.mem.space = m.flip wa bit) (clean : m.syn = []) (low : bit < 72)
    (ctx : Option Nat) (scrub : Bool) (opcode opRef : Nat) :
    (s.noteTier wa 1 ctx scrub opcode opRef).mem.space = (m.flip wa bit).store wa (m.raw wa) ∧
      (s.noteTier wa 1 ctx scrub opcode opRef).mem.patrol = s.mem.patrol ∧
      ((s.noteTier wa 1 ctx scrub opcode opRef).mem.ecc.get {} (placeOf (8 * wa))).ce =
        satN 32 ((s.mem.ecc.get {} (placeOf (8 * wa))).ce + 1) := by
  have found : (s.mem.space.syn.filter fun e => decide (wa ≤ e.1) && decide (e.1 < wa + 1)) = [(wa, flipSyn bit)] := by
    rw [turned, Mem.syn_flip_of_clean clean wa low]
    simp
  obtain ⟨space, patrol, counted⟩ := s.badWord_of_ce
    { place := placeOf (8 * wa), addr := 8 * wa, syn := flipSyn bit, injected := s.mem.injected.contains (placeOf (8 * wa), wa) }
    ctx scrub opcode opRef (flipSyn_correctable bit low).2 (by have := placeOf_lt (8 * wa); dsimp only; omega)
  rw [State.noteTier, found]
  dsimp only [forL, List.foldl]
  obtain ⟨marks, unmarked⟩ := MemUnit.unmark_beside_injected (s.badWord
    { place := placeOf (8 * wa), addr := 8 * wa, syn := flipSyn bit, injected := s.mem.injected.contains (placeOf (8 * wa), wa) }
    ctx scrub opcode opRef).mem (placeOf (8 * wa), wa) (flipSyn bit)
  rw [unmarked]
  dsimp only
  rw [space, turned, Mem.writeBack_flip_of_clean clean wa low]
  exact ⟨rfl, patrol, counted⟩

@[simp] theorem MemUnit.stepPatrol_space (u : MemUnit) (tier : Nat) : (u.stepPatrol tier).space = u.space := by
  unfold MemUnit.stepPatrol
  dsimp only
  split <;> rfl

@[simp] theorem MemUnit.stepPatrol_ecc (u : MemUnit) (tier : Nat) : (u.stepPatrol tier).ecc = u.ecc := by
  unfold MemUnit.stepPatrol
  dsimp only
  split <;> rfl

/-- The word of the tier that the patrol reads next. -/
def State.patrolWord (s : State) (tier : Nat) : Nat :=
  if tier = 0 then s.mem.patrol.get 0 tier else ownBase / 8 + s.mem.patrol.get 0 tier

/-- A patrol read of a tier reads its word, with what turned over in it at rest. -/
theorem execScrubRead_of_tier (s : State) {tier : Nat} (low : tier < 2) (upset : List Nat) :
    execScrubRead tier upset s = .next ((if (upset.filter (· < 72)).isEmpty then { s with mem := s.mem.stepPatrol tier }
      else { s with mem := { s.mem.stepPatrol tier with space := s.mem.space.flips (s.patrolWord tier) (upset.filter (· < 72)) } } : State).noteTier
        (s.patrolWord tier) 1 none true 0 0) := by
  unfold execScrubRead State.patrolWord
  rw [if_neg (by omega)]
  dsimp only
  rw [if_neg (by omega), MemUnit.stepPatrol_space]

/-- Settles O22: the patrol finds what `State.noteTier` and `State.noteCore` find in one word. -/
theorem patrolCorrectsOneTurnedBit : Obligations.PatrolCorrectsOneTurnedBit := by
  refine ⟨fun s tier low clean => ?_, fun s clean => ?_, fun s tier bit tierLow low clean => ?_⟩
  · refine (execScrubRead_of_tier s low []).trans (congrArg Host.Outcome.next (State.noteTier_of_clean ?_ ..))
    exact (congrArg Mem.syn (s.mem.stepPatrol_space tier)).trans clean
  · exact congrArg Host.Outcome.next (State.noteCore_of_clean (s := { s with mem := s.mem.stepPatrol 2 }) clean ..)
  · have bits : [bit].filter (· < 72) = [bit] := by simp [low]
    obtain ⟨space, patrol, counted⟩ := State.noteTier_of_turned (ctx := none) (scrub := true) (opcode := 0) (opRef := 0)
      (s := { s with mem := { s.mem.stepPatrol tier with space := s.mem.space.flip (s.patrolWord tier) bit } })
      rfl clean low
    refine ⟨_, (execScrubRead_of_tier s tierLow [bit]).trans (by rw [bits]; rfl), ?_, ?_, ?_, patrol⟩
    · exact (congrArg (fun m => m.raw (s.patrolWord tier)) space).trans (Mem.raw_store_self ..)
    · exact (congrArg (fun m => m.syndrome (s.patrolWord tier)) space).trans (Mem.syndrome_setSyn ..)
    · rw [MemUnit.stepPatrol_ecc] at counted
      exact counted

end Sys2Proof.Machine
end

section
/-! SUPPORT. Proofs/Space.lean: the operations, rows and events that write no word of the tiers. -/
namespace Sys2Proof.Machine

@[simp] theorem space_ite (c : Prop) [Decidable c] (a b : State) :
    (if c then a else b).mem.space = if c then a.mem.space else b.mem.space := by
  split <;> rfl

@[simp] theorem space_fst_ite {α : Type} (c : Prop) [Decidable c] (a b : State × α) :
    (if c then a else b).1.mem.space = if c then a.1.mem.space else b.1.mem.space := by
  split <;> rfl

theorem space_getD {o : Option State} {d : State} {x : Mem} (given : ∀ t, o = some t → t.mem.space = x) (default : d.mem.space = x) :
    (o.getD d).mem.space = x := by
  cases o with
  | none => exact default
  | some t => exact given t rfl

@[simp] theorem space_forL {α : Type} (l : List α) (f : α → State → State) (s : State)
    (h : ∀ a s, (f a s).mem.space = s.mem.space) : (forL l f s).mem.space = s.mem.space := by
  induction l generalizing s with
  | nil => rfl
  | cons a l ih => exact (ih (f a s)).trans (h a s)

@[simp] theorem space_forN (n : Nat) (f : Nat → State → State) (s : State) (h : ∀ a s, (f a s).mem.space = s.mem.space) :
    (forN n f s).mem.space = s.mem.space := space_forL _ f s h

theorem space_of_forL {α : Type} {l : List α} {f : α → State → State} {s : State}
    (h : ∀ a s, (f a s).mem.space = s.mem.space) : (forL l f s).mem.space = s.mem.space := space_forL l f s h

theorem space_of_forN {n : Nat} {f : Nat → State → State} {s : State} (h : ∀ a s, (f a s).mem.space = s.mem.space) :
    (forN n f s).mem.space = s.mem.space := space_forN n f s h

@[simp] theorem space_of_foldl {α β : Type} {l : List α} {f : State × β → α → State × β} {p : State × β}
    (h : ∀ p a, (f p a).1.mem.space = p.1.mem.space) : (l.foldl f p).1.mem.space = p.1.mem.space := by
  induction l generalizing p with
  | nil => rfl
  | cons a l ih => exact ih.trans (h p a)

/-- The outcome writes no word of the tiers. -/
def KeepsSpace (s : State) (o : Host.Outcome State Fault Refusal) : Prop := ∀ t, o = .next t → t.mem.space = s.mem.space

@[simp] theorem keepsSpace_ite (s : State) (c : Prop) [Decidable c] (a b : Host.Outcome State Fault Refusal) :
    KeepsSpace s (if c then a else b) ↔ if c then KeepsSpace s a else KeepsSpace s b := by
  split <;> rfl

@[simp] theorem keepsSpace_next (s t : State) : KeepsSpace s (.next t) ↔ t.mem.space = s.mem.space := by simp [KeepsSpace]

@[simp] theorem keepsSpace_fault (s : State) (f : Fault) : KeepsSpace s (.fault f) := by simp [KeepsSpace]

@[simp] theorem keepsSpace_refused (s : State) (r : Refusal) : KeepsSpace s (.refused r) := by simp [KeepsSpace]

theorem State.put_space {s t : State} {pool qid : Nat} {ctx : Option Nat} {ty : Nat} {ws : List W64} (put : s.put pool qid ctx ty ws = some t) :
    t.mem.space = s.mem.space := congrArg MemUnit.space (State.put_mem put)

@[simp] theorem State.resetQueue_space (s : State) (pool qid : Nat) : (s.resetQueue pool qid).mem.space = s.mem.space := by rfl

@[simp] theorem State.tellLost_space (s : State) : (s.tellLost).mem.space = s.mem.space := by
  simp [State.tellLost]

@[simp] theorem State.countEcc_space (s : State) (place : Nat) (syn : Byte) :
    (s.countEcc place syn).mem.space = s.mem.space := by rfl

@[simp] theorem State.wroteKettle_space (s : State) : (s.wroteKettle).mem.space = s.mem.space := by
  simp [State.wroteKettle]

@[simp] theorem State.regAccess_space (s : State) (off : Nat) : (s.regAccess off).mem.space = s.mem.space := by
  simp [State.regAccess]

@[simp] theorem State.worst_space (s : State) (n : Nat) : (s.worst n).mem.space = s.mem.space := by rfl

@[simp] theorem State.raiseLimited_space (s : State) (key : Nat × Nat) (steeps : Nat) (r : RecSpec) :
    (s.raiseLimited key steeps r).mem.space = s.mem.space := by
  unfold State.raiseLimited
  split <;> simp

theorem State.putCompletion_space {s t : State} {mb : Nat} {ws : List W64} (h : s.putCompletion mb ws = some t) :
    t.mem.space = s.mem.space := by
  obtain ⟨u, put, rfl⟩ := Option.map_eq_some_iff.mp h
  simpa using State.put_space put

@[simp] theorem State.settleRequest_space (s : State) (mb : Nat) (ws : List W64) :
    (s.settleRequest mb ws).mem.space = s.mem.space := by
  dsimp only [State.settleRequest]
  split
  · simp
  · exact space_getD (fun t written => by simpa using State.putCompletion_space written) (by simp)

@[simp] theorem State.secondCompletion_space (s : State) (mb tag status : Nat) (ws : List W64) :
    (s.secondCompletion mb tag status ws).mem.space = s.mem.space := by
  dsimp only [State.secondCompletion]
  split
  · simp
  · split
    · exact space_getD (fun t written => by simpa using State.putCompletion_space written) (by simp)
    · simp

@[simp] theorem heldLoop_space (fuel mb : Nat) (s : State) : (heldLoop fuel mb s).mem.space = s.mem.space := by
  induction fuel generalizing s with
  | zero => rfl
  | succ fuel ih =>
    dsimp only [heldLoop]
    split
    · rfl
    · split
      · rfl
      · split
        · next t written => simpa [ih] using State.putCompletion_space written
        · rfl

@[simp] theorem dueLoop_space (fuel mb : Nat) (s : State) : (dueLoop fuel mb s).mem.space = s.mem.space := by
  induction fuel generalizing s with
  | zero => rfl
  | succ fuel ih =>
    dsimp only [dueLoop]
    split
    · rfl
    · split
      · next t written => simpa [ih] using State.putCompletion_space written
      · rfl

@[simp] theorem State.flushMailbox_space (s : State) (mb : Nat) : (s.flushMailbox mb).mem.space = s.mem.space := by
  simp [State.flushMailbox]

@[simp] theorem State.cmdEvent_space (s : State) (by_ : CmdRef) (ctx : Option Nat) (e : Event) :
    (s.cmdEvent by_ ctx e).mem.space = s.mem.space := by
  unfold State.cmdEvent
  split <;> simp

@[simp] theorem State.commandDone_space (s : State) (by_ : CmdRef) (ctx : Option Nat) :
    (s.commandDone by_ ctx).mem.space = s.mem.space := by
  simp [State.commandDone]

@[simp] theorem State.control_space (s : State) (link kind : Nat) (nak : Bool) (vc count : Nat) (ws : List W64) :
    (s.control link kind nak vc count ws).mem.space = s.mem.space := by rfl

@[simp] theorem returnLoop_space (fuel link vc n : Nat) (s : State) :
    (returnLoop fuel link vc n s).mem.space = s.mem.space := by
  induction fuel generalizing n s with
  | zero => rfl
  | succ fuel ih => simp [returnLoop, ih]

@[simp] theorem State.freedCells_space (s : State) (link vc n : Nat) : (s.freedCells link vc n).mem.space = s.mem.space := by
  simp [State.freedCells]

@[simp] theorem State.freedIn_space (s : State) (pool qid n : Nat) : (s.freedIn pool qid n).mem.space = s.mem.space := by
  simp [State.freedIn]

@[simp] theorem State.payWithheld_space (s : State) (pool qid : Nat) : (s.payWithheld pool qid).mem.space = s.mem.space := by
  simp [State.payWithheld]

@[simp] theorem State.consume_space (s : State) (pool qid seq : Nat) : (s.consume pool qid seq).mem.space = s.mem.space := by
  simp [State.consume]

@[simp] theorem State.holdEarly_space (s : State) (m : EarlyMsg) : (s.holdEarly m).mem.space = s.mem.space := by rfl

@[simp] theorem State.routeLost_space (s : State) (k : Route) (rset : Nat) :
    (s.routeLost k rset).mem.space = s.mem.space := by
  unfold State.routeLost
  split <;> simp

@[simp] theorem State.badPacket_space (s : State) (link : Option Nat) : (s.badPacket link).mem.space = s.mem.space := by
  simp [State.badPacket]

@[simp] theorem State.hold_space (s : State) (ctx : Option Nat) (ty vc : Nat) (ws : List W64) (ports : List Nat)
    (far : Bool) (src : Option (Nat × Nat × Nat)) :
    (s.hold ctx ty vc ws ports far src).mem.space = s.mem.space := by rfl

@[simp] theorem State.inject_space (s : State) (kind vc : Nat) (dst : List W64) (ctx : Option Nat) (rset : Nat)
    (body : List W64) :
    (s.inject kind vc dst ctx rset body).mem.space = s.mem.space := by
  unfold State.inject
  dsimp only
  split <;> simp

@[simp] theorem State.injectDn_space (s : State) (kind vc dn : Nat) (ctx : Option Nat) (rset : Nat) (body : List W64) :
    (s.injectDn kind vc dn ctx rset body).mem.space = s.mem.space := by
  unfold State.injectDn
  split <;> simp

@[simp] theorem State.tookPacket_space (s : State) (kind : Nat) (body : List W64) :
    (s.tookPacket kind body).mem.space = s.mem.space := by
  unfold State.tookPacket
  repeat' split
  all_goals simp

@[simp] theorem State.linkTo_space (s : State) (link : Nat) (new : LinkState) :
    (s.linkTo link new).mem.space = s.mem.space := by
  unfold State.linkTo
  dsimp only
  split <;> simp

@[simp] theorem State.doorbell_space (s : State) (mb : Nat) (ws : List W64) :
    (s.doorbell mb ws).1.mem.space = s.mem.space := by
  dsimp only [State.doorbell]
  split
  · simp
  · split
    · simp
    · next t put => simpa using State.put_space put

@[simp] theorem State.answerUndefined_space (s : State) (mb : Nat) : (s.answerUndefined mb).mem.space = s.mem.space := by
  simp [State.answerUndefined]

@[simp] theorem State.guardMailbox_space (s : State) (fn mb off : Nat) (act : State → State) (h : ∀ s, (act s).mem.space = s.mem.space) :
    (s.guardMailbox fn mb off act).mem.space = s.mem.space := by
  simp [State.guardMailbox, h]

@[simp] theorem execMbDoorbell_space (fn mb : Nat) (v : W64) (s : State) : KeepsSpace s (execMbDoorbell fn mb v s) := by
  simp [execMbDoorbell]

@[simp] theorem execMbCompAck_space (fn mb : Nat) (v : W64) (s : State) : KeepsSpace s (execMbCompAck fn mb v s) := by
  simp [execMbCompAck]

@[simp] theorem State.resetMailbox_space (s : State) (mb : Nat) : (s.resetMailbox mb).mem.space = s.mem.space := by rfl

@[simp] theorem State.mailboxSink_space (s : State) (mb : Nat) : (s.mailboxSink mb).mem.space = s.mem.space := by rfl

@[simp] theorem execMbCfgReset_space (fn mb : Nat) (v : W64) (s : State) : KeepsSpace s (execMbCfgReset fn mb v s) := by
  unfold execMbCfgReset
  split <;> simp

@[simp] theorem done_space (s : State) (status : Nat) : (done s status).1.mem.space = s.mem.space := by rfl

@[simp] theorem State.fanOut_space (s : State) (ref : CmdRef) (composite : Bool) (members : List (List W64))
    (ws args : List W64) (own : Option (Nat × List W64)) :
    (s.fanOut ref composite members ws args own).mem.space = s.mem.space := by
  simp [State.fanOut]

@[simp] theorem State.askLead_space (s : State) (ref : CmdRef) (lead : List W64) (ms : List (List W64)) (ws : List W64) :
    (s.askLead ref lead ms ws).mem.space = s.mem.space := by
  simp [State.askLead]

theorem State.lead_space {P : Mem → Prop} {body : KReq → State → KResult} (keeps : ∀ k s, P s.mem.space → P (body k s).1.mem.space)
    {s : State} (h : P s.mem.space) (ref : CmdRef) (ms : List (List W64)) (ws args : List W64) : P (s.lead ref ms ws args body).1.mem.space := by
  unfold State.lead
  extract_lets req mine r t
  have ran : P r.1.mem.space := by
    unfold r
    repeat' split
    exacts [h, h, h, keeps _ _ h]
  have told : P t.mem.space := by simpa [t] using ran
  repeat' split
  exacts [keeps _ _ h, told, told, told]

theorem State.handle_space {P : Mem → Prop} {body : KReq → State → KResult} (keeps : ∀ k s, P s.mem.space → P (body k s).1.mem.space)
    {s : State} (h : P s.mem.space) (mb code : Nat) (ws : List W64) (ctxHop : Bool) (admin : UnitId → Bool) :
    P (s.handle mb code ws ctxHop admin body).1.mem.space := by
  unfold State.handle
  extract_lets word n tag path hops
  split
  · exact h
  split
  · exact h
  split
  · exact h
  split
  · exact h
  split
  · exact h
  split
  · dsimp only
    split
    · split
      · exact State.lead_space keeps h ..
      · simpa using h
    · exact h
  · simpa using h
  · extract_lets isCtx
    split
    · exact h
    · exact keeps _ _ h

theorem State.kettle_space {P : Mem → Prop} {body : KReq → State → KResult} (keeps : ∀ k s, P s.mem.space → P (body k s).1.mem.space)
    {s : State} (h : P s.mem.space) (r : Req) (code : Nat) (ctxHop : Bool) (admin : UnitId → Bool) :
    P (s.kettle r code ctxHop admin body).mem.space := by
  unfold State.kettle
  extract_lets ws run res u rung
  have handled (t : State) (ht : P t.mem.space) : P (t.handle r.mb code ws ctxHop admin body).1.mem.space :=
    State.handle_space keeps ht ..
  have run_keeps (t : State) (ht : P t.mem.space) : P (run t).mem.space := by
    unfold run
    extract_lets u res
    have taken : P u.mem.space := by simpa [u] using ht
    have res_keeps : P res.1.mem.space := by
      unfold res
      split
      · exact taken
      · exact handled u taken
    split
    · exact res_keeps
    · simpa using res_keeps
  have rung_keeps : P rung.1.mem.space := by simpa [rung] using h
  split
  · change P res.1.mem.space
    unfold res
    split
    · exact h
    · exact handled s h
  · repeat' split
    exacts [h, rung_keeps, h, run_keeps _ h, run_keeps _ rung_keeps, rung_keeps]

theorem KeepsSpace.kettle {r : Req} {code : Nat} {ctxHop : Bool} {admin : UnitId → Bool} {body : KReq → State → KResult} {s : State}
    (h : ∀ k s, (body k s).1.mem.space = s.mem.space) : KeepsSpace s (.next (s.kettle r code ctxHop admin body)) :=
  (keepsSpace_next ..).mpr (State.kettle_space (P := fun m => m = s.mem.space) (fun k t same => (h k t).trans same) rfl ..)

@[simp] theorem keepsSpace_kettle (s : State) (r : Req) (code : Nat) (ctxHop : Bool) (admin : UnitId → Bool) (body : KReq → State → KResult)
    (h : ∀ k s, (body k s).1.mem.space = s.mem.space) : (s.kettle r code ctxHop admin body).mem.space = s.mem.space :=
  (keepsSpace_next ..).mp (KeepsSpace.kettle h)

@[simp] theorem State.dmaFault_space (s : State) (ctx fn addr kind : Nat) (write : Bool) (code : Nat) :
    (s.dmaFault ctx fn addr kind write code).mem.space = s.mem.space := by
  simp [State.dmaFault]

@[simp] theorem State.dma_space (s : State) (k : KReq) (host : HostRead) (addr : Nat) (write : Bool) (go : List W64 → KResult)
    (h : ∀ ws, (go ws).1.mem.space = s.mem.space) : (s.dma k host addr write go).1.mem.space = s.mem.space := by
  unfold State.dma
  split
  · simp
  · split <;> simp [h]

@[simp] theorem State.jobMsg_space (s : State) (x dn msg cause step arg : Nat) :
    (s.jobMsg x dn msg cause step arg).mem.space = s.mem.space := by
  simp [State.jobMsg]

@[simp] theorem State.domainMsg_space (s : State) (dn msg : Nat) (arg : W64) :
    (s.domainMsg dn msg arg).mem.space = s.mem.space := by
  simp [State.domainMsg]

@[simp] theorem State.tookMsg_space (s : State) (m : CommitMsg) (msg : Nat) : (s.tookMsg m msg).mem.space = s.mem.space := by
  simp [State.tookMsg]

@[simp] theorem State.taint_space (s : State) (x : Nat) : (s.taint x).mem.space = s.mem.space := by rfl

@[simp] theorem State.taintFrom_space (s : State) (x from_ : Nat) : (s.taintFrom x from_).mem.space = s.mem.space :=
  space_of_forL fun _ _ => rfl

@[simp] theorem goneLoop_space (fuel x slot : Nat) (s : State) : (goneLoop fuel x slot s).mem.space = s.mem.space := by
  induction fuel generalizing s with
  | zero => rfl
  | succ fuel ih =>
    dsimp only [goneLoop]
    split
    · split <;> simp [ih]
    · rfl

@[simp] theorem State.dropOldest_space (s : State) (x slot : Nat) : (s.dropOldest x slot).mem.space = s.mem.space := by
  simp [State.dropOldest]

@[simp] theorem State.startCapture_space (s : State) (x : Nat) (t : Stream) :
    (s.startCapture x t).mem.space = s.mem.space := by
  unfold State.startCapture
  dsimp only
  split <;> simp

@[simp] theorem State.capturePayload_space (s : State) (x : Nat) (ws : List W64) :
    (s.capturePayload x ws).mem.space = s.mem.space := by rfl

@[simp] theorem State.dropChains_space (s : State) (x slot step : Nat) :
    (s.dropChains x slot step).mem.space = s.mem.space := by rfl

@[simp] theorem State.rewriteCopies_space (s : State) (x : Nat) : (s.rewriteCopies x).mem.space = s.mem.space := by rfl

@[simp] theorem State.discardShadow_space (s : State) (x n : Nat) : (s.discardShadow x n).mem.space = s.mem.space := by rfl

@[simp] theorem State.dataLeft_space (s : State) (x dn : Nat) : (s.dataLeft x dn).mem.space = s.mem.space := by
  unfold State.dataLeft
  dsimp only
  split <;> simp

@[simp] theorem execSeal_space (m : CommitMsg) (s : State) : KeepsSpace s (execSeal m s) := by
  unfold execSeal
  dsimp only
  repeat' split
  all_goals simp

@[simp] theorem execEpochSeal_space (ctx epoch : Nat) (s : State) : KeepsSpace s (execEpochSeal ctx epoch s) := by
  simp [execEpochSeal]

@[simp] theorem State.leadCommit_space (s : State) (x : Nat) (t : StepSt) : (s.leadCommit x t).mem.space = s.mem.space := by
  simp [State.leadCommit]

@[simp] theorem State.tryLead_space (s : State) (x n : Nat) : (s.tryLead x n).mem.space = s.mem.space := by
  unfold State.tryLead
  dsimp only
  split <;> simp

@[simp] theorem execReadySend_space (ctx : Nat) (s : State) : KeepsSpace s (execReadySend ctx s) := by
  unfold execReadySend
  dsimp only
  repeat' split
  all_goals simp

@[simp] theorem execReady_space (m : CommitMsg) (s : State) : KeepsSpace s (execReady m s) := by
  unfold execReady
  dsimp only
  repeat' split
  all_goals simp

@[simp] theorem State.takeCommit_space (s : State) (x step jver : Nat) :
    (s.takeCommit x step jver).mem.space = s.mem.space := by
  unfold State.takeCommit
  dsimp only
  split <;> simp

@[simp] theorem execCommit_space (m : CommitMsg) (s : State) : KeepsSpace s (execCommit m s) := by
  unfold execCommit
  dsimp only
  repeat' split
  all_goals simp

@[simp] theorem execQuery_space (m : CommitMsg) (s : State) : KeepsSpace s (execQuery m s) := by
  unfold execQuery
  dsimp only
  repeat' split
  all_goals simp

@[simp] theorem execMirrorDone_space (m : CommitMsg) (s : State) : KeepsSpace s (execMirrorDone m s) := by
  unfold execMirrorDone
  dsimp only
  repeat' split
  all_goals simp

@[simp] theorem execQueryTimeout_space (ctx : Nat) (s : State) : KeepsSpace s (execQueryTimeout ctx s) := by
  unfold execQueryTimeout
  dsimp only
  split <;> simp

@[simp] theorem State.toMirror_space (s : State) (x : Nat) (dn : Option Nat) (ws : List W64) :
    (s.toMirror x dn ws).mem.space = s.mem.space := by
  unfold State.toMirror
  split <;> simp

@[simp] theorem State.deputise_space (s : State) : (s.deputise).mem.space = s.mem.space := by rfl

@[simp] theorem State.elect_space (s : State) : (s.elect).mem.space = s.mem.space := by
  unfold State.elect
  split <;> rfl

@[simp] theorem State.leftDomain_space (s : State) (dn : Nat) : (s.leftDomain dn).mem.space = s.mem.space := by
  simp [State.leftDomain]

@[simp] theorem State.heardMaster_space (s : State) (dn count : Nat) : (s.heardMaster dn count).mem.space = s.mem.space := by
  simp [State.heardMaster]

@[simp] theorem State.setBeat_space (s : State) (n : Nat) (b : LinkBeat) : (s.setBeat n b).mem.space = s.mem.space := by rfl

@[simp] theorem State.expel_space (s : State) (dn reason : Nat) : (s.expel dn reason).mem.space = s.mem.space := by
  simp [State.expel]

@[simp] theorem State.tally_space (s : State) (voter target lost : Nat) :
    (s.tally voter target lost).mem.space = s.mem.space := by
  simp [State.tally]

@[simp] theorem State.vote_space (s : State) (target lost : Nat) : (s.vote target lost).mem.space = s.mem.space := by
  simp [State.vote]

@[simp] theorem execHeartbeat_space (link : Nat) (b : Beat) (s : State) : KeepsSpace s (execHeartbeat link b s) := by
  simp [execHeartbeat]

@[simp] theorem execHeartbeatMissed_space (link : Nat) (s : State) : KeepsSpace s (execHeartbeatMissed link s) := by
  simp [execHeartbeatMissed]

@[simp] theorem execVote_space (m : CommitMsg) (s : State) : KeepsSpace s (execVote m s) := by
  simp [execVote]

@[simp] theorem execExpel_space (m : CommitMsg) (s : State) : KeepsSpace s (execExpel m s) := by
  simp [execExpel]

@[simp] theorem execMemberSync_space (m : CommitMsg) (s : State) : KeepsSpace s (execMemberSync m s) := by
  simp [execMemberSync]

@[simp] theorem State.formScore_space (s : State) : (s.formScore).mem.space = s.mem.space := by
  simp [State.formScore]

@[simp] theorem execHealthScoreForm_space (s : State) : KeepsSpace s (execHealthScoreForm s) := by
  simp [execHealthScoreForm]

@[simp] theorem State.grant_space (s : State) (dn : Nat) : (s.grant dn).mem.space = s.mem.space := by
  simp [State.grant]

@[simp] theorem execHealthAsk_space (m : CommitMsg) (s : State) : KeepsSpace s (execHealthAsk m s) := by
  simp [execHealthAsk]

@[simp] theorem execHealthReply_space (m : CommitMsg) (s : State) : KeepsSpace s (execHealthReply m s) := by
  simp [execHealthReply]

@[simp] theorem execHealthBudgetRoom_space (s : State) : KeepsSpace s (execHealthBudgetRoom s) := by
  unfold execHealthBudgetRoom
  dsimp only
  repeat' split
  all_goals simp

/-- The log of a UE stands beside the words of the tiers. -/
theorem ueLog_space (s : State) (w : W64) : ({ s with mem := { s.mem with ueLog := w } } : State).mem.space = s.mem.space := rfl

@[simp] theorem State.logUe_space (s : State) (w : BadWord) (ctx : Option Nat) (scrub : Bool) :
    (s.logUe w ctx scrub).mem.space = s.mem.space := by
  unfold State.logUe
  split
  · rfl
  · exact ueLog_space s _

@[simp] theorem State.rowCe_space (s : State) (w : BadWord) : (s.rowCe w).mem.space = s.mem.space := by
  simp [State.rowCe]

@[simp] theorem State.farPoolUe_space (s : State) (a : Nat) : (s.farPoolUe a).mem.space = s.mem.space := by
  unfold State.farPoolUe
  extract_lets base
  clear_value base
  split
  · rfl
  · split <;> rfl

@[simp] theorem State.storeCore_space (s : State) (k wa : Nat) (ws : List W64) :
    (s.storeCore k wa ws).mem.space = s.mem.space := by
  simp [State.storeCore]

@[simp] theorem State.applyMembers_space (s : State) (x : Nat) (g : StagedMembers) :
    (s.applyMembers x g).mem.space = s.mem.space := by
  simp [State.applyMembers]

@[simp] theorem execReplayComplete_space (ctx : Nat) (s : State) : KeepsSpace s (execReplayComplete ctx s) := by
  unfold execReplayComplete
  split <;> simp

@[simp] theorem State.askMove_space (s : State) (k : KReq) (path : List W64) (x other chain rank parts : Nat) :
    (s.askMove k path x other chain rank parts).mem.space = s.mem.space := by
  simp [State.askMove]

@[simp] theorem execJobJoin_space (r : Req) (s : State) : KeepsSpace s (execJobJoin r s) := by
  simp [execJobJoin]

@[simp] theorem execSpareTakeover_space (r : Req) (s : State) : KeepsSpace s (execSpareTakeover r s) := by
  simp [execSpareTakeover]

@[simp] theorem execDecant_space (r : Req) (s : State) : KeepsSpace s (execDecant r s) := by
  simp [execDecant]

@[simp] theorem execReadmit_space (r : Req) (s : State) : KeepsSpace s (execReadmit r s) := by
  simp [execReadmit]

@[simp] theorem execHealthConfig_space (r : Req) (s : State) : KeepsSpace s (execHealthConfig r s) := by
  simp [execHealthConfig]

@[simp] theorem execModuleResetTimeout_space (s : State) : KeepsSpace s (execModuleResetTimeout s) := by
  simp [execModuleResetTimeout]

@[simp] theorem State.resetDone_space (s : State) : (s.resetDone).mem.space = s.mem.space := by
  unfold State.resetDone
  split <;> simp

@[simp] theorem State.enableQueue_space (s : State) (pool qid guarantee quota : Nat) (ctx : Option Nat) (sink : Sink)
    (from_ toward : Party) :
    (s.enableQueue pool qid guarantee quota ctx sink from_ toward).mem.space = s.mem.space := by rfl

@[simp] theorem State.enableMailbox_space (s : State) (mb : Nat) : (s.enableMailbox mb).mem.space = s.mem.space := by rfl

@[simp] theorem State.startQueues_space (s : State) : (s.startQueues).mem.space = s.mem.space := by rfl

@[simp] theorem train_space (m : MemUnit) (ph : Nat) : (m.train ph).space = m.space := rfl

@[simp] theorem coresGone_space (m : MemUnit) : m.coresGone.space = m.space := rfl

@[simp] theorem execBootStageComplete_space (b : BootLoad) (s : State) : KeepsSpace s (execBootStageComplete b s) := by
  unfold execBootStageComplete
  dsimp only
  split
  · simp
  split
  · refine (keepsSpace_next ..).mpr ?_
    split <;> simp [apply_ite MemUnit.space]
  split
  · refine (keepsSpace_next ..).mpr ?_
    split <;> simp
  split
  · simp
  · simp

@[simp] theorem execAttestReport_space (r : Req) (host : HostRead) (s : State) : KeepsSpace s (execAttestReport r host s) := by
  simp [execAttestReport]

@[simp] theorem execCertRead_space (r : Req) (host : HostRead) (s : State) : KeepsSpace s (execCertRead r host s) := by
  refine KeepsSpace.kettle fun k s => ?_
  dsimp only
  split
  · rfl
  · exact State.dma_space _ _ _ _ _ _ fun _ => rfl

@[simp] theorem execFwWrite_space (r : Req) (host : HostRead) (s : State) : KeepsSpace s (execFwWrite r host s) := by
  simp [execFwWrite]

@[simp] theorem execFwActivate_space (r : Req) (s : State) : KeepsSpace s (execFwActivate r s) := by
  simp [execFwActivate]

@[simp] theorem execConfigWrite_space (r : Req) (host : HostRead) (s : State) : KeepsSpace s (execConfigWrite r host s) := by
  simp [execConfigWrite]

@[simp] theorem execKeyList_space (r : Req) (s : State) : KeepsSpace s (execKeyList r s) := by
  simp [execKeyList]

@[simp] theorem execKeyDestroy_space (r : Req) (s : State) : KeepsSpace s (execKeyDestroy r s) := by
  unfold execKeyDestroy
  refine KeepsSpace.kettle fun k s => ?_
  dsimp only
  repeat' split
  all_goals simp

@[simp] theorem State.spdmReply_space (s : State) (oob : Bool) (kind : Nat) (ws : List W64) :
    (s.spdmReply oob kind ws).mem.space = s.mem.space := by
  simp [State.spdmReply]

@[simp] theorem execSpdmGetCertificate_space (oob : Bool) (index offset len : Nat) (s : State) :
    KeepsSpace s (execSpdmGetCertificate oob index offset len s) := by
  simp [execSpdmGetCertificate]

@[simp] theorem execSpdmChallenge_space (oob : Bool) (nonce : List W64) (s : State) :
    KeepsSpace s (execSpdmChallenge oob nonce s) := by
  simp [execSpdmChallenge]

@[simp] theorem execSpdmGetMeasurements_space (oob : Bool) (index : Nat) (nonce : List W64) (s : State) :
    KeepsSpace s (execSpdmGetMeasurements oob index nonce s) := by
  simp [execSpdmGetMeasurements]

@[simp] theorem execSpdmKeyExchange_space (oob all : Bool) (s : State) : KeepsSpace s (execSpdmKeyExchange oob all s) := by
  simp [execSpdmKeyExchange]

@[simp] theorem State.endSession_space (s : State) (id : Nat) : (s.endSession id).mem.space = s.mem.space := by rfl

@[simp] theorem execSpdmHeartbeat_space (oob : Bool) (session : Nat) (s : State) :
    KeepsSpace s (execSpdmHeartbeat oob session s) := by
  simp [execSpdmHeartbeat]

@[simp] theorem execSpdmEndSession_space (oob : Bool) (session : Nat) (s : State) :
    KeepsSpace s (execSpdmEndSession oob session s) := by
  simp [execSpdmEndSession]

@[simp] theorem execSpdmSessionTimeout_space (session : Nat) (s : State) : KeepsSpace s (execSpdmSessionTimeout session s) := by
  simp [execSpdmSessionTimeout]

@[simp] theorem execSpdmTransfer_space (r : Req) (host : HostRead) (s : State) : KeepsSpace s (execSpdmTransfer r host s) := by
  refine KeepsSpace.kettle fun k s => ?_
  dsimp only
  split
  · rfl
  · split
    · rfl
    · exact State.dma_space _ _ _ _ _ _ fun _ => rfl

@[simp] theorem State.deliverReply_space (s : State) (oob : Bool) (status handle : Nat) :
    (s.deliverReply oob status handle).mem.space = s.mem.space := by
  simp [State.deliverReply]

@[simp] theorem execKeyDeliver_space (oob : Bool) (session : Nat) (d : KeyDelivery) (s : State) :
    KeepsSpace s (execKeyDeliver oob session d s) := by
  unfold execKeyDeliver
  dsimp only
  repeat' split
  all_goals simp

@[simp] theorem execIdeKm_space (oob : Bool) (session : Nat) (key : List W64) (go : Bool) (s : State) :
    KeepsSpace s (execIdeKm oob session key go s) := by
  simp [execIdeKm]

@[simp] theorem execGetVersion_space (r : Req) (s : State) : KeepsSpace s (execGetVersion r s) := by
  simp [execGetVersion]

@[simp] theorem execContextInfo_space (r : Req) (s : State) : KeepsSpace s (execContextInfo r s) := by
  simp [execContextInfo]

@[simp] theorem execCompositeDeclare_space (r : Req) (s : State) : KeepsSpace s (execCompositeDeclare r s) := by
  unfold execCompositeDeclare
  refine KeepsSpace.kettle fun k s => ?_
  split <;> simp

@[simp] theorem execCompositeDissolve_space (r : Req) (s : State) : KeepsSpace s (execCompositeDissolve r s) := by
  simp [execCompositeDissolve]

@[simp] theorem execContextCreate_space (r : Req) (s : State) : KeepsSpace s (execContextCreate r s) := by
  simp [execContextCreate]

@[simp] theorem State.resetCtxQueues_space (s : State) (x : Nat) : (s.resetCtxQueues x).mem.space = s.mem.space := by rfl

@[simp] theorem execContextDestroy_space (r : Req) (s : State) : KeepsSpace s (execContextDestroy r s) := by
  refine KeepsSpace.kettle fun k s => ?_
  extract_lets x c s1 s2 s3 s4 s5
  have s3_space : s3.mem.space = s.mem.space := s.resetCtxQueues_space x
  have s4_space : s4.mem.space = s.mem.space := by
    unfold s4
    split
    · rw [State.complete_mem, s3_space]
    · exact s3_space
  have s5_space : s5.mem.space = s.mem.space := by
    rw [← s4_space]
    exact space_of_forN fun j s => s.resetMailbox_space (4 * x + j)
  split
  · rfl
  split
  · rfl
  split <;> exact s5_space

@[simp] theorem execContextPartition_space (r : Req) (s : State) : KeepsSpace s (execContextPartition r s) := by
  simp [execContextPartition]

@[simp] theorem execDieSchedule_space (r : Req) (s : State) : KeepsSpace s (execDieSchedule r s) := by
  simp [execDieSchedule]

@[simp] theorem execSlotResume_space (r : Req) (s : State) : KeepsSpace s (execSlotResume r s) := by
  simp [execSlotResume]

@[simp] theorem execStageMap_space (r : Req) (s : State) : KeepsSpace s (execStageMap r s) := by
  simp [execStageMap]

@[simp] theorem execInterferenceSet_space (r : Req) (s : State) : KeepsSpace s (execInterferenceSet r s) := by
  simp [execInterferenceSet]

@[simp] theorem execInterferenceWindowEnd_space (ctx : Nat) (s : State) : KeepsSpace s (execInterferenceWindowEnd ctx s) := by
  simp [execInterferenceWindowEnd]

@[simp] theorem State.giveStreams_space (s : State) (x slot : Nat) (gs : List Section) :
    (s.giveStreams x slot gs).mem.space = s.mem.space :=
  space_of_forL fun _ _ => space_of_forL fun _ _ => rfl

@[simp] theorem State.updStream_space (s : State) (x slot : Nat) (f : Stream → Stream) :
    (s.updStream x slot f).mem.space = s.mem.space := by rfl

@[simp] theorem State.failSlot_space (s : State) (x slot status : Nat) :
    (s.failSlot x slot status).mem.space = s.mem.space := by rfl

@[simp] theorem State.failOnCore_space (s : State) (k : Nat) (ctx : Option Nat) (status : Nat) :
    (s.failOnCore k ctx status).mem.space = s.mem.space := by
  unfold State.failOnCore
  repeat' split
  all_goals simp

@[simp] theorem State.failWork_space (s : State) (w : Work) (status : Nat) :
    (s.failWork w status).mem.space = s.mem.space := by
  unfold State.failWork
  split <;> rfl

@[simp] theorem State.refuseWork_space (s : State) (k : Nat) (w : Work) : (s.refuseWork k w).mem.space = s.mem.space := by
  simp [State.refuseWork]

@[simp] theorem State.takeWork_space (s : State) (k : Nat) (cmd : Cmd) : (s.takeWork k cmd).mem.space = s.mem.space := by rfl

theorem State.takeNext_space {s u : State} {x slot op : Nat} {kinds : List Nat} {cmd : Cmd} {t : Stream}
    (h : s.takeNext x slot op kinds cmd = some (t, u)) : u.mem.space = s.mem.space := by
  unfold State.takeNext at h
  repeat' split at h
  all_goals simp at h
  simp [← h.2]

@[simp] theorem State.checkOpen_space (s : State) (ctx : Option Nat) : (s.checkOpen ctx).mem.space = s.mem.space := by
  unfold State.checkOpen
  split <;> rfl

@[simp] theorem State.checkClose_space (s : State) (ctx : Option Nat) (from_ : Nat) :
    (s.checkClose ctx from_).mem.space = s.mem.space := by
  unfold State.checkClose
  split <;> rfl

@[simp] theorem State.takeTile_space (s : State) (k op : Nat) (cmd : Cmd) :
    (s.takeTile k op cmd).mem.space = s.mem.space := by
  unfold State.takeTile
  repeat' split
  all_goals simp

@[simp] theorem execMtFwd_space (core : Nat) (cmd : Cmd) (s : State) : KeepsSpace s (execMtFwd core cmd s) := by
  simp [execMtFwd]

@[simp] theorem execMtDgrad_space (core : Nat) (cmd : Cmd) (s : State) : KeepsSpace s (execMtDgrad core cmd s) := by
  simp [execMtDgrad]

@[simp] theorem execMtWgrad_space (core : Nat) (cmd : Cmd) (s : State) : KeepsSpace s (execMtWgrad core cmd s) := by
  simp [execMtWgrad]

@[simp] theorem State.refuseTile_space (s : State) (k : Nat) (t : Tile) (status : Nat) :
    (s.refuseTile k t status).mem.space = s.mem.space := by
  simp [State.refuseTile]

@[simp] theorem State.measure_space (s : State) (ctx : Option Nat) (tile block : Nat) :
    (s.measure ctx tile block).mem.space = s.mem.space := by
  unfold State.measure
  split <;> rfl

@[simp] theorem State.countScale_space (s : State) (ctx : Option Nat) (o : BlockOut) :
    (s.countScale ctx o).mem.space = s.mem.space := by
  unfold State.countScale
  split <;> rfl

@[simp] theorem State.pourStats_space (s : State) (k : Nat) (p : Pour) (t : Mt) (e : Epi) (rows : List (List W32)) :
    (s.pourStats k p t e rows).mem.space = s.mem.space := by
  simp [State.pourStats]

@[simp] theorem execDeadlinePour_space (core : Nat) (s : State) : KeepsSpace s (execDeadlinePour core s) := by
  unfold execDeadlinePour
  split <;> simp

@[simp] theorem State.strainerInject_space (s : State) (k : Nat) (v : W64) :
    (s.strainerInject k v).mem.space = s.mem.space := by
  simp [State.strainerInject]

@[simp] theorem State.stopRun_space (s : State) (k : Nat) (r : VRun) (code status kind pc addr : Nat) :
    (s.stopRun k r code status kind pc addr).mem.space = s.mem.space := by
  unfold State.stopRun
  dsimp only
  split <;> simp

@[simp] theorem execVecRunComplete_space (core cycles : Nat) (s : State) : KeepsSpace s (execVecRunComplete core cycles s) := by
  unfold execVecRunComplete
  split <;> simp

@[simp] theorem State.endLane_space (s : State) (k op : Nat) : (s.endLane k op).mem.space = s.mem.space := by
  unfold State.endLane
  split <;> simp

@[simp] theorem execXferComplete_space (core : Nat) (s : State) : KeepsSpace s (execXferComplete core s) := by
  simp [execXferComplete]

@[simp] theorem execGradGatherComplete_space (core : Nat) (s : State) : KeepsSpace s (execGradGatherComplete core s) := by
  simp [execGradGatherComplete]

@[simp] theorem execRepairListAdd_space (place row : Nat) (s : State) : KeepsSpace s (execRepairListAdd place row s) := by
  simp [execRepairListAdd]

@[simp] theorem State.eccInject_space (s : State) (h : Half) (v : W64) : (s.eccInject h v).mem.space = s.mem.space := by
  simp [State.eccInject]

@[simp] theorem execEccInjectArm_space (h : Half) (v : W64) (s : State) : KeepsSpace s (execEccInjectArm h v s) := by
  simp [execEccInjectArm]

@[simp] theorem execPeriodicCalibration_space (stack package : Nat) (s : State) :
    KeepsSpace s (execPeriodicCalibration stack package s) := by
  simp [execPeriodicCalibration]

@[simp] theorem State.setCaddy_space (s : State) (n : Nat) (c : Caddy) : (s.setCaddy n c).mem.space = s.mem.space := by rfl

@[simp] theorem State.caddyRecord_space (s : State) (c x code : Nat) (cls : Cls) (u : UCmd) (t : Nat) (a b : W64) :
    (s.caddyRecord c x code cls u t a b).mem.space = s.mem.space := by
  simp [State.caddyRecord]

@[simp] theorem State.noteSkew_space (s : State) (c : Nat) (j : CaddyJob) (u : UCmd) (t : Nat) (hs : List W64) :
    (s.noteSkew c j u t hs).1.mem.space = s.mem.space := by
  unfold State.noteSkew
  dsimp only
  split <;> simp

@[simp] theorem State.noteRoot_space (s : State) (c : Nat) (j : CaddyJob) (u : UCmd) (t factor : Nat) (r : Root) :
    (s.noteRoot c j u t factor r).mem.space = s.mem.space := by
  simp [State.noteRoot]

@[simp] theorem State.sendMetadata_space (s : State) (x step : Nat) : (s.sendMetadata x step).mem.space = s.mem.space := by
  unfold State.sendMetadata
  split <;> simp

@[simp] theorem State.updOuter_space (s : State) (x : Nat) (f : Outer → Outer) :
    (s.updOuter x f).mem.space = s.mem.space := by rfl

@[simp] theorem State.toLead_space (s : State) (g : OuterCfg) (kind : Nat) (ws : List W64) :
    (s.toLead g kind ws).mem.space = s.mem.space := by
  simp [State.toLead]

@[simp] theorem State.toPeer_space (s : State) (x : Nat) (g : OuterCfg) (site kind : Nat) (ws : List W64) :
    (s.toPeer x g site kind ws).mem.space = s.mem.space := by
  simp [State.toPeer]

@[simp] theorem State.takeHave_space (s : State) (x dn site round : Nat) (merge : Bool) :
    (s.takeHave x dn site round merge).mem.space = s.mem.space := by rfl

@[simp] theorem State.tooLate_space (s : State) (x site round : Nat) : (s.tooLate x site round).mem.space = s.mem.space := by
  simp [State.tooLate]

@[simp] theorem State.tellHave_space (s : State) (x site round : Nat) (merge : Bool) :
    (s.tellHave x site round merge).mem.space = s.mem.space := by
  unfold State.tellHave
  split <;> simp

@[simp] theorem State.takeDiff_space (s : State) (x : Nat) (g : OuterCfg) (body : List W64) :
    (s.takeDiff x g body).mem.space = s.mem.space := by
  simp [State.takeDiff]

@[simp] theorem State.takePlanes_space (s : State) (x : Nat) (body : List W64) :
    (s.takePlanes x body).mem.space = s.mem.space := by rfl

@[simp] theorem State.gatewayTake_space (s : State) (ws : List W64) : (s.gatewayTake ws).1.mem.space = s.mem.space := by
  unfold State.gatewayTake
  dsimp only
  repeat' split
  all_goals simp

@[simp] theorem State.rewind_space (s : State) (pool qid port : Nat) (why : Cause) :
    (s.rewind pool qid port why).mem.space = s.mem.space := by
  unfold State.rewind
  dsimp only
  repeat' split
  all_goals simp

@[simp] theorem execQueueOpen_space (pool qid port ty : Nat) (ctx : Option Nat) (s : State) :
    KeepsSpace s (execQueueOpen pool qid port ty ctx s) := by
  simp [execQueueOpen]

@[simp] theorem execQueueAppend_space (pool qid port : Nat) (ws : List W64) (inputUe : Bool) (s : State) :
    KeepsSpace s (execQueueAppend pool qid port ws inputUe s) := by
  unfold execQueueAppend
  dsimp only
  repeat' split
  all_goals simp

@[simp] theorem execQueueCommit_space (pool qid port : Nat) (s : State) : KeepsSpace s (execQueueCommit pool qid port s) := by
  unfold execQueueCommit
  dsimp only
  repeat' split
  all_goals simp

@[simp] theorem execQueueAbort_space (pool qid port : Nat) (s : State) : KeepsSpace s (execQueueAbort pool qid port s) := by
  simp [execQueueAbort]

@[simp] theorem State.countPool_space (s : State) (pool : Nat) (syn : Byte) :
    (s.countPool pool syn).mem.space = s.mem.space := by rfl

@[simp] theorem State.follow_space (s : State) (pool : Nat) (cs : List Nat) :
    (s.follow pool cs).1.mem.space = s.mem.space := by
  unfold State.follow
  refine space_of_foldl fun r a => ?_
  split <;> simp

@[simp] theorem State.linkUe_space (s : State) (pool qid : Nat) : (s.linkUe pool qid).mem.space = s.mem.space := by
  simp [State.linkUe]

@[simp] theorem State.along_space (s : State) (pool qid : Nat) (cs : List Nat) (go : State → State) (h : ∀ s, (go s).mem.space = s.mem.space) :
    (s.along pool qid cs go).mem.space = s.mem.space := by
  simp [State.along, h]

@[simp] theorem execQueueNext_space (pool qid : Nat) (s : State) : KeepsSpace s (execQueueNext pool qid s) := by
  unfold execQueueNext
  dsimp only
  split
  · simp
  · split
    · simp
    · exact (keepsSpace_next ..).mpr (State.along_space _ _ _ _ _ fun _ => rfl)

@[simp] theorem execQueueMark_space (pool qid m : Nat) (s : State) : KeepsSpace s (execQueueMark pool qid m s) := by
  simp [execQueueMark]

@[simp] theorem execQueueCursorRewind_space (pool qid m : Nat) (s : State) :
    KeepsSpace s (execQueueCursorRewind pool qid m s) := by
  unfold execQueueCursorRewind
  split <;> simp

@[simp] theorem execQueueRelease_space (pool qid n : Nat) (s : State) : KeepsSpace s (execQueueRelease pool qid n s) := by
  simp [execQueueRelease]

@[simp] theorem execQueuePurge_space (pool qid seq : Nat) (s : State) : KeepsSpace s (execQueuePurge pool qid seq s) := by
  unfold execQueuePurge
  dsimp only
  split
  · simp
  · exact (keepsSpace_next ..).mpr (State.along_space _ _ _ _ _ fun _ => rfl)

@[simp] theorem execProducerCellGrant_space (pool qid port : Nat) (s : State) :
    KeepsSpace s (execProducerCellGrant pool qid port s) := by
  unfold execProducerCellGrant
  dsimp only
  repeat' split
  all_goals simp

@[simp] theorem execQueueNoCell_space (pool qid port : Nat) (s : State) : KeepsSpace s (execQueueNoCell pool qid port s) := by
  unfold execQueueNoCell
  split <;> simp

@[simp] theorem State.endWaits_space (s : State) : (s.endWaits).mem.space = s.mem.space := by
  unfold State.endWaits
  refine space_of_forL fun a s => ?_
  simp

@[simp] theorem execQueueDrained_space (pool qid : Nat) (s : State) : KeepsSpace s (execQueueDrained pool qid s) := by
  simp [execQueueDrained]

@[simp] theorem execPoolSweepComplete_space (w : Sweep) (s : State) : KeepsSpace s (execPoolSweepComplete w s) := by
  simp [execPoolSweepComplete]

@[simp] theorem execHeldEventWrite_space (ctx : Nat) (s : State) : KeepsSpace s (execHeldEventWrite ctx s) := by
  unfold execHeldEventWrite
  dsimp only
  split
  · simp
  · split
    · simpa using State.put_space ‹_›
    · simp

@[simp] theorem after_space {o : Host.Outcome State Fault Refusal} {s : State} (h : KeepsSpace s o) :
    (after o s).mem.space = s.mem.space := by
  cases o with
  | next t => exact h t rfl
  | fault _ => rfl
  | refused _ => rfl

@[simp] theorem State.freeSource_space (s : State) (t : TxPacket) : (s.freeSource t).mem.space = s.mem.space := by
  unfold State.freeSource
  split <;> simp

@[simp] theorem State.acked_space (s : State) (link a : Nat) : (s.acked link a).mem.space = s.mem.space := by
  unfold State.acked
  dsimp only
  split <;> simp

@[simp] theorem State.creditReturn_space (s : State) (link vc n : Nat) :
    (s.creditReturn link vc n).mem.space = s.mem.space := by
  simp [State.creditReturn]

@[simp] theorem State.replay_space (s : State) (link : Nat) : (s.replay link).mem.space = s.mem.space := by
  unfold State.replay
  extract_lets l t
  split
  · rfl
  · have t_space : t.mem.space = s.mem.space := space_of_forL fun _ _ => rfl
    exact t_space

@[simp] theorem State.takeHeader_space (s : State) (link : Nat) (f : Frame) :
    (s.takeHeader link f).mem.space = s.mem.space := by
  simp [State.takeHeader]

@[simp] theorem State.refuseFrame_space (s : State) (link : Nat) : (s.refuseFrame link).mem.space = s.mem.space := by
  simp [State.refuseFrame]

@[simp] theorem State.routeReceived_space (s : State) (link vc : Nat) :
    (s.routeReceived link vc).mem.space = s.mem.space := by
  unfold State.routeReceived
  dsimp only
  repeat' split
  all_goals simp

@[simp] theorem execIdle_space (link : Nat) (f : Frame) (s : State) : KeepsSpace s (execIdle link f s) := by
  simp [execIdle]

@[simp] theorem State.setTraffic_space (s : State) (link : Nat) : (s.setTraffic link).mem.space = s.mem.space := by
  simp [State.setTraffic]

@[simp] theorem State.learn_space (s : State) (link : Nat) (p : List W64) : (s.learn link p).mem.space = s.mem.space := by
  simp [State.learn]

@[simp] theorem execDiscovery_space (link : Nat) (f : Frame) (s : State) : KeepsSpace s (execDiscovery link f s) := by
  simp [execDiscovery]

@[simp] theorem execCreditInit_space (link vc cells : Nat) (s : State) : KeepsSpace s (execCreditInit link vc cells s) := by
  simp [execCreditInit]

@[simp] theorem State.openLinkQueues_space (s : State) (link : Nat) (alloc : W64) :
    (s.openLinkQueues link alloc).mem.space = s.mem.space := by rfl

@[simp] theorem State.trainingFrames_space (s : State) (link : Nat) (alloc : W64) :
    (s.trainingFrames link alloc).mem.space = s.mem.space := by rfl

@[simp] theorem execLinkTrainingDone_space (link : Nat) (s : State) : KeepsSpace s (execLinkTrainingDone link s) := by
  simp [execLinkTrainingDone]

@[simp] theorem execLinkTrainingFailed_space (link : Nat) (s : State) : KeepsSpace s (execLinkTrainingFailed link s) := by
  simp [execLinkTrainingFailed]

@[simp] theorem execPacketSend_space (link : Nat) (s : State) : KeepsSpace s (execPacketSend link s) := by
  unfold execPacketSend
  split
  · simp
  · split
    · simp
    · extract_lets l fs l1 l2 s1 s2
      split
      · simp
      · exact (keepsSpace_next ..).mpr (space_of_forL fun _ _ => rfl)

@[simp] theorem execCreditStall_space (link vc : Nat) (s : State) : KeepsSpace s (execCreditStall link vc s) := by
  simp [execCreditStall]

@[simp] theorem execNakRepeat_space (link : Nat) (s : State) : KeepsSpace s (execNakRepeat link s) := by
  simp [execNakRepeat]

@[simp] theorem execAckTimeoutReplay_space (link : Nat) (s : State) : KeepsSpace s (execAckTimeoutReplay link s) := by
  simp [execAckTimeoutReplay]

@[simp] theorem State.resend_space (s : State) (link : Nat) (t : TxPacket) :
    (s.resend link t).1.mem.space = s.mem.space := by
  simp [State.resend]

@[simp] theorem State.forgetLink_space (s : State) (link : Nat) : (s.forgetLink link).mem.space = s.mem.space := by rfl

@[simp] theorem State.linkDown_space (s : State) (link : Nat) : (s.linkDown link).mem.space = s.mem.space := by
  simp [State.linkDown]

@[simp] theorem execAckStall_space (link : Nat) (s : State) : KeepsSpace s (execAckStall link s) := by
  simp [execAckStall]

@[simp] theorem execFrameReplayLimit_space (link : Nat) (s : State) : KeepsSpace s (execFrameReplayLimit link s) := by
  simp [execFrameReplayLimit]

@[simp] theorem execCodewordLockLost_space (link : Nat) (s : State) : KeepsSpace s (execCodewordLockLost link s) := by
  simp [execCodewordLockLost]

@[simp] theorem execFabricIdentity_space (r : Req) (s : State) : KeepsSpace s (execFabricIdentity r s) := by
  unfold execFabricIdentity
  refine KeepsSpace.kettle fun k s => ?_
  dsimp only
  split <;> simp

@[simp] theorem execFabricNeighbours_space (r : Req) (s : State) : KeepsSpace s (execFabricNeighbours r s) := by
  simp [execFabricNeighbours]

@[simp] theorem State.updRoute_space (s : State) (n : Nat) (f : RouteSet → RouteSet) :
    (s.updRoute n f).mem.space = s.mem.space := by rfl

@[simp] theorem execRouteLoad_space (r : Req) (s : State) : KeepsSpace s (execRouteLoad r s) := by
  simp [execRouteLoad]

@[simp] theorem execRouteDepths_space (r : Req) (s : State) : KeepsSpace s (execRouteDepths r s) := by
  simp [execRouteDepths]

@[simp] theorem execRouteCommit_space (r : Req) (s : State) : KeepsSpace s (execRouteCommit r s) := by
  simp [execRouteCommit]

@[simp] theorem State.routeSwitch_space (s : State) : (s.routeSwitch).mem.space = s.mem.space := by
  unfold State.routeSwitch
  dsimp only
  repeat' split
  all_goals simp

@[simp] theorem execRouteGenerationRetire_space (s : State) : KeepsSpace s (execRouteGenerationRetire s) := by
  unfold execRouteGenerationRetire
  dsimp only
  simp
  refine space_of_forL fun a s => ?_
  split <;> simp

@[simp] theorem execLinkAlloc_space (r : Req) (s : State) : KeepsSpace s (execLinkAlloc r s) := by
  simp [execLinkAlloc]

@[simp] theorem execLinkRetrain_space (r : Req) (s : State) : KeepsSpace s (execLinkRetrain r s) := by
  simp [execLinkRetrain]

@[simp] theorem execInfuseChain_space (r : Req) (s : State) : KeepsSpace s (execInfuseChain r s) := by
  unfold execInfuseChain
  refine KeepsSpace.kettle fun k s => ?_
  split <;> simp

@[simp] theorem State.collSend_space (s : State) (o : CollOp) (lane toward level phase offset src : Nat) (ws : List W64) :
    (s.collSend o lane toward level phase offset src ws).mem.space = s.mem.space := by
  simp [State.collSend]

@[simp] theorem CollSt.passOn_space (p : CollSt) (u level : Nat) (ws : List W64) :
    (p.passOn u level ws).1.mem.space = p.1.mem.space := by
  simp [CollSt.passOn]

@[simp] theorem State.putOp_space (s : State) (o : CollOp) : (s.putOp o).mem.space = s.mem.space := by rfl

@[simp] theorem State.endColl_space (s : State) (o : CollOp) : (s.endColl o).mem.space = s.mem.space := by rfl

@[simp] theorem execCollTimeout_space (ctx opId : Nat) (s : State) : KeepsSpace s (execCollTimeout ctx opId s) := by
  unfold execCollTimeout
  split <;> simp

@[simp] theorem execErrRead_space (r : Req) (s : State) : KeepsSpace s (execErrRead r s) := by
  simp [execErrRead]

@[simp] theorem execErrClear_space (r : Req) (s : State) : KeepsSpace s (execErrClear r s) := by
  simp [execErrClear]

@[simp] theorem execErrCrashLog_space (r : Req) (s : State) : KeepsSpace s (execErrCrashLog r s) := by
  unfold execErrCrashLog
  refine KeepsSpace.kettle fun k s => ?_
  dsimp only
  repeat' split
  all_goals simp

@[simp] theorem execResetLimits_space (r : Req) (s : State) : KeepsSpace s (execResetLimits r s) := by
  simp [execResetLimits]

@[simp] theorem execRecordsLost_space (s : State) : KeepsSpace s (execRecordsLost s) := by
  simp [execRecordsLost]

@[simp] theorem execRecordAgeRelease_space (s : State) : KeepsSpace s (execRecordAgeRelease s) := by
  simp [execRecordAgeRelease]

@[simp] theorem State.writeRepeats_space (s : State) : (s.writeRepeats).mem.space = s.mem.space := by
  unfold State.writeRepeats
  refine space_of_forL fun a s => ?_
  dsimp only
  split <;> simp

@[simp] theorem execKvConfig_space (r : Req) (s : State) : KeepsSpace s (execKvConfig r s) := by
  simp [execKvConfig]

@[simp] theorem execKvJoin_space (r : Req) (s : State) : KeepsSpace s (execKvJoin r s) := by
  simp [execKvJoin]

@[simp] theorem execKvGrow_space (r : Req) (s : State) : KeepsSpace s (execKvGrow r s) := by
  simp [execKvGrow]

@[simp] theorem execKvLeave_space (r : Req) (s : State) : KeepsSpace s (execKvLeave r s) := by
  simp [execKvLeave]

@[simp] theorem State.closeChecks_space (s : State) (c : Core) : (s.closeChecks c).mem.space = s.mem.space := by
  simp [State.closeChecks]

@[simp] theorem State.abortCore_space (s : State) (only : Option Nat) (k : Nat) :
    (s.abortCore only k).mem.space = s.mem.space := by
  simp [State.abortCore]

@[simp] theorem State.abortCaddy_space (s : State) (c : Nat) : (s.abortCaddy c).mem.space = s.mem.space := by
  simp [State.abortCaddy]

@[simp] theorem State.abortLink_space (s : State) (l : Nat) : (s.abortLink l).mem.space = s.mem.space := by
  simp [State.abortLink]

@[simp] theorem State.abortColls_space (s : State) (f : Nat → Bool) : (s.abortColls f).mem.space = s.mem.space := by
  simp [State.abortColls]

@[simp] theorem State.abortLoads_space (s : State) (f : Nat → Bool) : (s.abortLoads f).mem.space = s.mem.space := by
  simp [State.abortLoads]

@[simp] theorem State.resetInfuserQueues_space (s : State) : (s.resetInfuserQueues).mem.space = s.mem.space := by rfl

@[simp] theorem execFenceDrainComplete_space (u : UnitId) (s : State) : KeepsSpace s (execFenceDrainComplete u s) := by
  unfold execFenceDrainComplete
  dsimp only
  repeat' split
  all_goals simp

@[simp] theorem execFenceTerminationsDone_space (u : UnitId) (s : State) : KeepsSpace s (execFenceTerminationsDone u s) := by
  unfold execFenceTerminationsDone
  dsimp only
  repeat' split
  all_goals simp

@[simp] theorem State.enableCtx_space (s : State) (k : KReq) (x : Nat) : (s.enableCtx k x).1.mem.space = s.mem.space := by
  unfold State.enableCtx
  dsimp only
  repeat' split
  all_goals simp

@[simp] theorem State.disableCtx_space (s : State) (k : KReq) (x : Nat) : (s.disableCtx k x).1.mem.space = s.mem.space := by
  unfold State.disableCtx
  dsimp only
  repeat' split
  all_goals simp

@[simp] theorem execUnitEnable_space (r : Req) (s : State) : KeepsSpace s (execUnitEnable r s) := by
  unfold execUnitEnable
  refine KeepsSpace.kettle fun k s => ?_
  dsimp only
  repeat' split
  all_goals simp

@[simp] theorem execUnitRelease_space (r : Req) (s : State) : KeepsSpace s (execUnitRelease r s) := by
  unfold execUnitRelease
  refine KeepsSpace.kettle fun k s => ?_
  dsimp only
  repeat' split
  all_goals simp

@[simp] theorem State.releaseUnit_space (s : State) (u : UnitId) : (s.releaseUnit u).mem.space = s.mem.space := by
  unfold State.releaseUnit
  dsimp only
  repeat' split
  all_goals simp

@[simp] theorem execUnitQuery_space (r : Req) (s : State) : KeepsSpace s (execUnitQuery r s) := by
  simp [execUnitQuery]

@[simp] theorem State.sendReply_space (s : State) (mb : Nat) (a : Nat × List W64) :
    (s.sendReply mb a).mem.space = s.mem.space := by
  simp [State.sendReply]

@[simp] theorem State.sendOut_space (s : State) : (s.sendOut).mem.space = s.mem.space := by
  unfold State.sendOut
  refine space_of_forL fun a s => ?_
  simp

@[simp] theorem State.answerNow_space (s : State) (k : KReq) (st : Nat) : (s.answerNow k st).mem.space = s.mem.space := by
  simp [State.answerNow]

@[simp] theorem State.resetDomain_space (s : State) (u : UnitId) (code : Nat) :
    (s.resetDomain u code).mem.space = s.mem.space := by
  simp [State.resetDomain]

@[simp] theorem execResetRungComplete_space (u : UnitId) (engine us : Nat) (s : State) :
    KeepsSpace s (execResetRungComplete u engine us s) := by
  unfold execResetRungComplete
  dsimp only
  repeat' split
  all_goals simp

@[simp] theorem State.countWatch_space (s : State) : (s.countWatch).mem.space = s.mem.space := by rfl

@[simp] theorem execKettleWatchdogExpiry_space (s : State) : KeepsSpace s (execKettleWatchdogExpiry s) := by
  simp [execKettleWatchdogExpiry]

@[simp] theorem execBlendRun_space (r : Req) (s : State) : KeepsSpace s (execBlendRun r s) := by
  simp [execBlendRun]

@[simp] theorem execBlendAbort_space (r : Req) (s : State) : KeepsSpace s (execBlendAbort r s) := by
  simp [execBlendAbort]

@[simp] theorem State.endBlend_space (s : State) (aborted : Bool) : (s.endBlend aborted).mem.space = s.mem.space := by
  unfold State.endBlend
  dsimp only
  split <;> simp

@[simp] theorem State.nextItem_space (s : State) (u : UnitId) : (s.nextItem u).mem.space = s.mem.space := by
  unfold State.nextItem
  dsimp only
  split <;> simp

@[simp] theorem State.skipItem_space (s : State) (u : UnitId) : (s.skipItem u).mem.space = s.mem.space := by
  simp [State.skipItem]

@[simp] theorem State.skipTaken_space (s : State) : (s.skipTaken).mem.space = s.mem.space := by
  simp [State.skipTaken]

@[simp] theorem execBlendItemComplete_space (u : UnitId) (pass : Bool) (s : State) :
    KeepsSpace s (execBlendItemComplete u pass s) := by
  simp [execBlendItemComplete]

@[simp] theorem execBlendItemSkip_space (u : UnitId) (s : State) : KeepsSpace s (execBlendItemSkip u s) := by
  simp [execBlendItemSkip]

@[simp] theorem execMarginLow_space (u : UnitId) (s : State) : KeepsSpace s (execMarginLow u s) := by
  simp [execMarginLow]

@[simp] theorem execMarginCritical_space (region : Nat) (s : State) : KeepsSpace s (execMarginCritical region s) := by
  simp [execMarginCritical]

@[simp] theorem State.settleClocks_space (s : State) : (s.settleClocks).mem.space = s.mem.space := by
  simp [State.settleClocks]

@[simp] theorem State.applySets_space (s : State) : s.applySets.mem.space = s.mem.space := by
  have each (l : List (List Nat × Nat × CmdRef)) (f : State → List Nat × Nat × CmdRef → State)
      (h : ∀ s e, (f s e).mem.space = s.mem.space) (s : State) : (l.foldl f s).mem.space = s.mem.space := by
    induction l generalizing s with
    | nil => rfl
    | cons e l ih => exact (ih _).trans (h s e)
  refine each _ _ (fun s e => ?_) _
  have set_ := space_of_forL (l := e.1.filter fun g => !(s.dieLate (g / 4))) (s := s)
    (f := fun g s => s.updRegion g fun r => { r with set_ := e.2.1, margin := 0, marginDue := 0 }) fun _ _ => rfl
  dsimp only
  split
  · rw [State.commandDone_space, set_]
  · exact set_

@[simp] theorem State.applyRestores_space (s : State) : (s.applyRestores).mem.space = s.mem.space := by rfl

@[simp] theorem State.thermalSteps_space (s : State) : (s.thermalSteps).mem.space = s.mem.space := by
  simp [State.thermalSteps]

@[simp] theorem State.powerSteps_space (s : State) (e q : Nat) : (s.powerSteps e q).mem.space = s.mem.space := by
  unfold State.powerSteps
  dsimp only
  repeat' split
  all_goals simp

@[simp] theorem State.clockChange_space (s : State) (q : Nat) : (s.clockChange q).mem.space = s.mem.space := by
  unfold State.clockChange
  extract_lets p e back t
  have t_space : t.mem.space = s.mem.space := by
    unfold t
    dsimp only
    split <;> rfl
  rw [State.settleClocks_space, State.powerSteps_space, State.thermalSteps_space, State.applySets_space, State.applyRestores_space, t_space]

@[simp] theorem State.closeMeter_space (s : State) : (s.closeMeter).mem.space = s.mem.space := by rfl

@[simp] theorem execPowerSample_space (p : PowerSample) (s : State) : KeepsSpace s (execPowerSample p s) := by
  simp [execPowerSample]

@[simp] theorem execThermalRelease_space (region : Nat) (s : State) : KeepsSpace s (execThermalRelease region s) := by
  simp [execThermalRelease]

@[simp] theorem execPowerCapRelease_space (s : State) : KeepsSpace s (execPowerCapRelease s) := by
  unfold execPowerCapRelease
  split <;> simp

@[simp] theorem execJunctionCritical_space (region : Nat) (s : State) : KeepsSpace s (execJunctionCritical region s) := by
  simp [execJunctionCritical]

@[simp] theorem execJunctionTrip_space (region : Nat) (s : State) : KeepsSpace s (execJunctionTrip region s) := by
  simp [execJunctionTrip]

@[simp] theorem execCoolantHot_space (s : State) : KeepsSpace s (execCoolantHot s) := by
  simp [execCoolantHot]

@[simp] theorem execInputPowerRise_space (s : State) : KeepsSpace s (execInputPowerRise s) := by
  simp [execInputPowerRise]

@[simp] theorem execInputSag_space (s : State) : KeepsSpace s (execInputSag s) := by
  simp [execInputSag]

@[simp] theorem execInputLow_space (s : State) : KeepsSpace s (execInputLow s) := by
  simp [execInputLow]

@[simp] theorem execInputHigh_space (s : State) : KeepsSpace s (execInputHigh s) := by
  simp [execInputHigh]

@[simp] theorem execRefclkLoss_space (s : State) : KeepsSpace s (execRefclkLoss s) := by
  simp [execRefclkLoss]

@[simp] theorem execRegionSet_space (r : Req) (s : State) : KeepsSpace s (execRegionSet r s) := by
  simp [execRegionSet]

@[simp] theorem execPowerState_space (r : Req) (s : State) : KeepsSpace s (execPowerState r s) := by
  simp [execPowerState]

@[simp] theorem State.updFar_space (s : State) (link : Nat) (f : Far → Far) : (s.updFar link f).mem.space = s.mem.space := by rfl

@[simp] theorem State.farEmit_space (s : State) (link : Nat) (h0 h1 : W64) (ctrl : Bool) (count : Nat)
    (payload : List W64) :
    (s.farEmit link h0 h1 ctrl count payload).mem.space = s.mem.space := by
  unfold State.farEmit
  dsimp only
  split <;> simp

@[simp] theorem State.farControl_space (s : State) (link kind : Nat) (payload : List W64) :
    (s.farControl link kind payload).mem.space = s.mem.space := by
  simp [State.farControl]

@[simp] theorem State.farAckSend_space (s : State) (link : Nat) : (s.farAckSend link).mem.space = s.mem.space := by
  simp [State.farAckSend]

@[simp] theorem execFarAckSend_space (link : Nat) (s : State) : KeepsSpace s (execFarAckSend link s) := by
  simp [execFarAckSend]

@[simp] theorem State.farSendHeld_space (s : State) (link : Nat) (h : FarHeld) :
    (s.farSendHeld link h).mem.space = s.mem.space := by
  simp [State.farSendHeld]

@[simp] theorem pumpLoop_space (fuel link : Nat) (s : State) : (pumpLoop fuel link s).mem.space = s.mem.space := by
  induction fuel generalizing s with
  | zero => rfl
  | succ fuel ih =>
    dsimp only [pumpLoop]
    repeat' split
    all_goals simp [ih]

@[simp] theorem State.farPump_space (s : State) (link : Nat) : (s.farPump link).mem.space = s.mem.space := by
  simp [State.farPump]

@[simp] theorem State.farReplay_space (s : State) (link : Nat) : (s.farReplay link).mem.space = s.mem.space := by
  simp [State.farReplay]

@[simp] theorem execFarPacketEnter_space (link : Nat) (s : State) : KeepsSpace s (execFarPacketEnter link s) := by
  unfold execFarPacketEnter
  dsimp only
  split <;> simp

@[simp] theorem State.farResize_space (s : State) (link : Nat) : (s.farResize link).mem.space = s.mem.space := by
  simp [State.farResize]

@[simp] theorem State.farRestart_space (s : State) (link : Nat) : (s.farRestart link).mem.space = s.mem.space := by
  simp [State.farRestart]

@[simp] theorem execFarAckStall_space (link : Nat) (s : State) : KeepsSpace s (execFarAckStall link s) := by
  simp [execFarAckStall]

@[simp] theorem execFarRetrainTimeout_space (link : Nat) (s : State) : KeepsSpace s (execFarRetrainTimeout link s) := by
  simp [execFarRetrainTimeout]

@[simp] theorem State.farRewind_space (s : State) (link : Nat) : (s.farRewind link).mem.space = s.mem.space := by
  simp [State.farRewind]

@[simp] theorem State.farTrain_space (s : State) (link : Nat) : (s.farTrain link).mem.space = s.mem.space := by
  simp [State.farTrain]

@[simp] theorem State.farMismatch_space (s : State) (link : Nat) : (s.farMismatch link).mem.space = s.mem.space := by
  simp [State.farMismatch]

@[simp] theorem execFarTrainingDone_space (link rtt : Nat) (s : State) : KeepsSpace s (execFarTrainingDone link rtt s) := by
  simp [execFarTrainingDone]

@[simp] theorem execFarCodewordLockLost_space (link : Nat) (s : State) : KeepsSpace s (execFarCodewordLockLost link s) := by
  simp [execFarCodewordLockLost]

@[simp] theorem State.farRefuse_space (s : State) (link : Nat) (hold : Bool) :
    (s.farRefuse link hold).mem.space = s.mem.space := by
  simp [State.farRefuse]

@[simp] theorem State.farTagFail_space (s : State) (link : Nat) : (s.farTagFail link).mem.space = s.mem.space := by rfl

@[simp] theorem State.farTake_space (s : State) (link kind : Nat) (f : FarFrame) :
    (s.farTake link kind f).1.mem.space = s.mem.space := by
  unfold State.farTake
  dsimp only
  repeat' split
  all_goals simp

@[simp] theorem State.farTakeCell_space (s : State) (link : Nat) (sop eop : Bool) (ws : List W64) :
    (s.farTakeCell link sop eop ws).mem.space = s.mem.space := by
  have rewound (q : Nat × Nat) (h : Nat) (c : Option Nat) : KeepsSpace s (execQueueOpen q.1 q.2 0 h c (s.farRewind link)) := by
    intro t opened
    simpa using execQueueOpen_space _ _ _ _ _ _ t opened
  simp [State.farTakeCell, rewound]

@[simp] theorem execFarDataFrame_space (link : Nat) (f : FarFrame) (s : State) : KeepsSpace s (execFarDataFrame link f s) := by
  unfold execFarDataFrame
  dsimp only
  repeat' split
  all_goals simp

@[simp] theorem execFarIdle_space (link : Nat) (f : FarFrame) (s : State) : KeepsSpace s (execFarIdle link f s) := by
  simp [execFarIdle]

@[simp] theorem execFarDiscovery_space (link : Nat) (f : FarFrame) (s : State) : KeepsSpace s (execFarDiscovery link f s) := by
  unfold execFarDiscovery
  dsimp only
  split <;> simp

@[simp] theorem execFarAck_space (link : Nat) (f : FarFrame) (s : State) : KeepsSpace s (execFarAck link f s) := by
  unfold execFarAck
  dsimp only
  split <;> simp

@[simp] theorem execFarHoldExpiry_space (link : Nat) (s : State) : KeepsSpace s (execFarHoldExpiry link s) := by
  simp [execFarHoldExpiry]

@[simp] theorem execFarReplayTimeout_space (link : Nat) (s : State) : KeepsSpace s (execFarReplayTimeout link s) := by
  simp [execFarReplayTimeout]

@[simp] theorem State.touchSeen_space (s : State) (x dn site : Nat) (up : Bool) :
    (s.touchSeen x dn site up).mem.space = s.mem.space := by
  simp [State.touchSeen]

@[simp] theorem State.touchChange_space (s : State) (x site : Nat) (up : Bool) :
    (s.touchChange x site up).mem.space = s.mem.space := by
  unfold State.touchChange
  split <;> simp

@[simp] theorem execFarAuth_space (link : Nat) (s : State) : KeepsSpace s (execFarAuth link s) := by
  simp [execFarAuth]

@[simp] theorem execFarKeyAge_space (link : Nat) (s : State) : KeepsSpace s (execFarKeyAge link s) := by
  unfold execFarKeyAge
  split <;> simp

@[simp] theorem execFarKeyLoad_space (r : Req) (s : State) : KeepsSpace s (execFarKeyLoad r s) := by
  unfold execFarKeyLoad
  refine KeepsSpace.kettle fun k s => ?_
  dsimp only
  repeat' split
  all_goals simp

@[simp] theorem execFarKeySwitch_space (r : Req) (s : State) : KeepsSpace s (execFarKeySwitch r s) := by
  simp [execFarKeySwitch]

@[simp] theorem execFarEnable_space (r : Req) (s : State) : KeepsSpace s (execFarEnable r s) := by
  unfold execFarEnable
  refine KeepsSpace.kettle fun k s => ?_
  split <;> simp

@[simp] theorem State.farLeave_space (s : State) (link : Nat) : (s.farLeave link).mem.space = s.mem.space := by
  simp [State.farLeave]

@[simp] theorem execFarDisable_space (r : Req) (s : State) : KeepsSpace s (execFarDisable r s) := by
  simp [execFarDisable]

@[simp] theorem State.farTimes_space (s : State) : s.farTimes.mem.space = s.mem.space := by
  unfold State.farTimes
  refine space_of_forN fun n s => ?_
  extract_lets f s1 s2 s3
  have s1_space : s1.mem.space = s.mem.space := by
    unfold s1
    repeat' split
    all_goals simp
  have s2_space : s2.mem.space = s.mem.space := by
    unfold s2
    split <;> simp [s1_space]
  have s3_space : s3.mem.space = s.mem.space := by
    unfold s3
    split <;> simp [s2_space]
  split <;> simp [s3_space]

@[simp] theorem State.farResizes_space (s : State) : (s.farResizes).mem.space = s.mem.space := by
  simp [State.farResizes]

@[simp] theorem State.takeEstimate_space (s : State) (x dn e : Nat) : (s.takeEstimate x dn e).mem.space = s.mem.space := by rfl

@[simp] theorem State.sendBlock_space (s : State) (x : Nat) (g : OuterCfg) (d : OuterDiff) (step b : Nat) (ws : List W64) :
    (s.sendBlock x g d step b ws).mem.space = s.mem.space := by
  simp [State.sendBlock]

@[simp] theorem State.sendDiff_space (s : State) (x : Nat) (g : OuterCfg) (d : OuterDiff) (step : Nat) :
    (s.sendDiff x g d step).mem.space = s.mem.space := by
  simp [State.sendDiff]

@[simp] theorem State.actOn_space (s : State) (x : Nat) : (s.actOn x).mem.space = s.mem.space := by
  unfold State.actOn
  dsimp only
  split <;> simp

@[simp] theorem State.takeDecide_space (s : State) (x : Nat) (d : OuterDecision) :
    (s.takeDecide x d).mem.space = s.mem.space := by
  unfold State.takeDecide
  dsimp only
  repeat' split
  all_goals simp

@[simp] theorem State.sendDecide_space (s : State) (x : Nat) (g : OuterCfg) (d : OuterDecision) :
    (s.sendDecide x g d).mem.space = s.mem.space := by
  simp [State.sendDecide]

@[simp] theorem execOuterDeadline_space (ctx : Nat) (s : State) : KeepsSpace s (execOuterDeadline ctx s) := by
  unfold execOuterDeadline
  dsimp only
  split <;> simp

@[simp] theorem execOuterDecide_space (m : OuterMsg) (s : State) : KeepsSpace s (execOuterDecide m s) := by
  unfold execOuterDecide
  dsimp only
  split <;> simp

@[simp] theorem execOuterSendDone_space (ctx : Nat) (s : State) : KeepsSpace s (execOuterSendDone ctx s) := by
  simp [execOuterSendDone]

@[simp] theorem State.finishRound_space (s : State) (x step : Nat) (g : OuterCfg) :
    (s.finishRound x step g).mem.space = s.mem.space := by
  unfold State.finishRound
  dsimp only
  split <;> simp

@[simp] theorem State.reanchorCommit_space (s : State) (x step : Nat) :
    (s.reanchorCommit x step).mem.space = s.mem.space := by
  unfold State.reanchorCommit
  dsimp only
  repeat' split
  all_goals simp

@[simp] theorem State.mergeDue_space (s : State) (x : Nat) (g : OuterCfg) : (s.mergeDue x g).mem.space = s.mem.space := by
  simp [State.mergeDue]

@[simp] theorem execOuterHave_space (m : OuterMsg) (s : State) : KeepsSpace s (execOuterHave m s) := by
  unfold execOuterHave
  dsimp only
  repeat' split
  all_goals simp

@[simp] theorem execOuterResendRequest_space (m : OuterMsg) (s : State) : KeepsSpace s (execOuterResendRequest m s) := by
  unfold execOuterResendRequest
  dsimp only
  repeat' split
  all_goals simp

@[simp] theorem State.startReanchor_space (s : State) (x donor : Nat) (by_ : Option CmdRef) :
    (s.startReanchor x donor by_).mem.space = s.mem.space := by
  unfold State.startReanchor
  split <;> simp

@[simp] theorem State.settleHello_space (s : State) (x : Nat) (g : OuterCfg) :
    (s.settleHello x g).mem.space = s.mem.space := by
  simp [State.settleHello]

@[simp] theorem State.touchAct_space (s : State) (x : Nat) : (s.touchAct x).mem.space = s.mem.space := by
  unfold State.touchAct
  split <;> simp

@[simp] theorem execTouchReport_space (m : OuterMsg) (s : State) : KeepsSpace s (execTouchReport m s) := by
  unfold execTouchReport
  dsimp only
  split <;> simp

@[simp] theorem State.askAgain_space (s : State) (x site : Nat) : (s.askAgain x site).mem.space = s.mem.space := by
  unfold State.askAgain
  dsimp only
  split <;> simp

@[simp] theorem execFarRestartFrame_space (link : Nat) (f : FarFrame) (s : State) :
    KeepsSpace s (execFarRestartFrame link f s) := by
  unfold execFarRestartFrame
  dsimp only
  split <;> simp

@[simp] theorem execFarTime_space (link : Nat) (f : FarFrame) (s : State) : KeepsSpace s (execFarTime link f s) := by
  unfold execFarTime
  dsimp only
  repeat' split
  all_goals simp

@[simp] theorem execTouchExpiry_space (ctx site : Nat) (s : State) : KeepsSpace s (execTouchExpiry ctx site s) := by
  unfold execTouchExpiry
  split <;> simp

@[simp] theorem execOuterHello_space (m : OuterMsg) (s : State) : KeepsSpace s (execOuterHello m s) := by
  unfold execOuterHello
  dsimp only
  repeat' split
  all_goals simp

@[simp] theorem State.outerFrom_space (s : State) (k : KReq) : (s.outerFrom k).1.mem.space = s.mem.space := by
  unfold State.outerFrom
  dsimp only
  repeat' split
  all_goals simp

@[simp] theorem execOuterJoin_space (r : Req) (s : State) : KeepsSpace s (execOuterJoin r s) := by
  simp [execOuterJoin]

@[simp] theorem execOuterReanchor_space (r : Req) (s : State) : KeepsSpace s (execOuterReanchor r s) := by
  simp [execOuterReanchor]

@[simp] theorem State.restoreCore_space (s : State) (x k : Nat) : (s.restoreCore x k).mem.space = s.mem.space := by rfl

@[simp] theorem State.sendPieces_space (s : State) (x : Nat) (dst : List W64) (other : Nat) (ps : List Piece) :
    (s.sendPieces x dst other ps).mem.space = s.mem.space := by
  simp [State.sendPieces]

@[simp] theorem State.sendAlong_space (s : State) (x chain : Nat) (ps : List Piece) :
    (s.sendAlong x chain ps).mem.space = s.mem.space := by
  simp [State.sendAlong]

@[simp] theorem State.settleState_space (s : State) (x : Nat) (t : Transfer) :
    (s.settleState x t).mem.space = s.mem.space := by
  unfold State.settleState
  split <;> simp

@[simp] theorem execTakeoverComplete_space (ctx : Nat) (s : State) : KeepsSpace s (execTakeoverComplete ctx s) := by
  unfold execTakeoverComplete
  dsimp only
  repeat' split
  all_goals simp

@[simp] theorem execJoinComplete_space (ctx : Nat) (s : State) : KeepsSpace s (execJoinComplete ctx s) := by
  unfold execJoinComplete
  dsimp only
  repeat' split
  all_goals simp

@[simp] theorem execDecantComplete_space (ctx : Nat) (s : State) : KeepsSpace s (execDecantComplete ctx s) := by
  unfold execDecantComplete
  split <;> simp

@[simp] theorem State.decantDone_space (s : State) (x : Nat) (mib : W64) : (s.decantDone x mib).mem.space = s.mem.space := by
  unfold State.decantDone
  dsimp only
  repeat' split
  all_goals simp

@[simp] theorem State.moveAnswered_space (s : State) (ref : CmdRef) (status : Nat) :
    (s.moveAnswered ref status).mem.space = s.mem.space := by
  unfold State.moveAnswered
  refine space_of_forL fun a s => ?_
  split <;> simp

@[simp] theorem State.mirrorWhole_space (s : State) (x src : Nat) : (s.mirrorWhole x src).mem.space = s.mem.space := by
  unfold State.mirrorWhole
  dsimp only
  split <;> simp

@[simp] theorem State.mirrorCommit_space (s : State) (x step : Nat) : (s.mirrorCommit x step).mem.space = s.mem.space := by rfl

@[simp] theorem State.forwardChain_space (s : State) (x chain : Nat) (body : List W64) :
    (s.forwardChain x chain body).mem.space = s.mem.space := by
  simp [State.forwardChain]

@[simp] theorem State.infWrote_space (s : State) (n : Nat) : (s.infWrote n).mem.space = s.mem.space := by rfl

@[simp] theorem execModelRelease_space (r : Req) (s : State) : KeepsSpace s (execModelRelease r s) := by
  simp [execModelRelease]

@[simp] theorem State.placeLoaded_space (s : State) (x m l : Nat) (js : List Nat) :
    (s.placeLoaded x m l js).mem.space = s.mem.space := by
  simp [State.placeLoaded]

@[simp] theorem State.gate_space (s : State) (x : Nat) (cmd : Cmd) : (s.gate x cmd).1.mem.space = s.mem.space := by
  unfold State.gate
  dsimp only
  repeat' split
  all_goals simp

@[simp] theorem State.gates_space (s : State) (x : Nat) (gs : List Section) : (s.gates x gs).1.mem.space = s.mem.space := by
  unfold State.gates
  refine space_of_foldl fun r a => ?_
  split <;> simp

@[simp] theorem execInfDrop_space (ctx slot : Nat) (cmd : Cmd) (s : State) : KeepsSpace s (execInfDrop ctx slot cmd s) := by
  unfold execInfDrop
  split
  · simp
  · simpa using State.takeNext_space ‹_›

@[simp] theorem State.passesOn_space (s : State) (x : Nat) (t : Stream) : (s.passesOn x t).mem.space = s.mem.space := by
  unfold State.passesOn
  extract_lets gs s1
  have s1_space : s1.mem.space = s.mem.space := space_of_forL fun _ _ => rfl
  rw [← s1_space]
  exact space_of_forL fun _ _ => rfl

@[simp] theorem State.waveCmd_space (s : State) (k : KReq) (want : ModelState) (go : Nat → Nat → Model → Wave → State)
    (h : ∀ x m md w, (go x m md w).mem.space = s.mem.space) :
    (s.waveCmd k want go).1.mem.space = s.mem.space := by
  simp [State.waveCmd, h]

@[simp] theorem State.endWave_space (s : State) (x m : Nat) : (s.endWave x m).mem.space = s.mem.space := by
  unfold State.endWave
  dsimp only
  repeat' split
  all_goals simp

@[simp] theorem State.loadMoved_space (s : State) (l l' : Load) : (s.loadMoved l l').mem.space = s.mem.space := by
  simp [State.loadMoved]

@[simp] theorem State.mixModel_space (s : State) (x m l j : Nat) : (s.mixModel x m l j).mem.space = s.mem.space := by
  simp [State.mixModel]

@[simp] theorem State.askUpstream_space (s : State) (x : Nat) (up : Option Nat) (m version l j loadId : Nat) :
    (s.askUpstream x up m version l j loadId).mem.space = s.mem.space := by
  unfold State.askUpstream
  split <;> simp

@[simp] theorem execShardTimeout_space (ctx model layer shard : Nat) (s : State) :
    KeepsSpace s (execShardTimeout ctx model layer shard s) := by
  unfold execShardTimeout
  dsimp only
  repeat' split
  all_goals simp

@[simp] theorem State.admitStream_space (s : State) (x slot : Nat) (a startAt : W64) (ws : List W64) :
    (s.admitStream x slot a startAt ws).1.mem.space = s.mem.space := by
  unfold State.admitStream
  dsimp only
  split
  · rfl
  · split <;> simpa using State.put_space ‹_›

@[simp] theorem execStream_space (ctx slot : Nat) (cmd : Cmd) (s : State) : KeepsSpace s (execStream ctx slot cmd s) := by
  unfold execStream
  split <;> simp

@[simp] theorem execSlice_space (_ctx _slot : Nat) (_cmd : Cmd) (s : State) : KeepsSpace s (execSlice _ctx _slot _cmd s) := by
  simp [execSlice]

@[simp] theorem execSectionCmd_space (_ctx _slot : Nat) (_cmd : Cmd) (s : State) :
    KeepsSpace s (execSectionCmd _ctx _slot _cmd s) := by
  simp [execSectionCmd]

@[simp] theorem execLiterals_space (ctx slot : Nat) (cmd : Cmd) (s : State) : KeepsSpace s (execLiterals ctx slot cmd s) := by
  unfold execLiterals
  split
  · simp
  · simpa using State.takeNext_space ‹_›

@[simp] theorem execKeepLive_space (ctx slot : Nat) (cmd : Cmd) (s : State) : KeepsSpace s (execKeepLive ctx slot cmd s) := by
  unfold execKeepLive
  split
  · simp
  · simpa using State.takeNext_space ‹_›

@[simp] theorem execMark_space (ctx slot : Nat) (cmd : Cmd) (s : State) : KeepsSpace s (execMark ctx slot cmd s) := by
  unfold execMark
  split
  · simp
  · simpa using State.takeNext_space ‹_›

@[simp] theorem State.startUpdates_space (s : State) (x : Nat) (t : Stream) :
    (s.startUpdates x t).mem.space = s.mem.space := by
  simp [State.startUpdates]

@[simp] theorem State.openSlice_space (s : State) (x slot : Nat) (gs : List Section) :
    (s.openSlice x slot gs).mem.space = s.mem.space := by rfl

@[simp] theorem State.clearAborted_space (s : State) (x : Nat) : (s.clearAborted x).mem.space = s.mem.space := by
  simp [State.clearAborted]

@[simp] theorem State.lateSlice_space (s : State) (x slot : Nat) (uc : Bool) :
    (s.lateSlice x slot uc).1.mem.space = s.mem.space := by
  unfold State.lateSlice
  dsimp only
  repeat' split
  all_goals simp

@[simp] theorem execDeadlineSliceCe_space (ctx slot : Nat) (s : State) : KeepsSpace s (execDeadlineSliceCe ctx slot s) := by
  simp [execDeadlineSliceCe]

@[simp] theorem State.noteLate_space (s : State) (w : XferRef) : (s.noteLate w).mem.space = s.mem.space := by
  unfold State.noteLate
  split <;> rfl

@[simp] theorem State.lateXfer_space (s : State) (w : XferRef) (uc : Bool) :
    (s.lateXfer w uc).1.mem.space = s.mem.space := by
  unfold State.lateXfer
  split <;> simp

@[simp] theorem execDeadlineXferCe_space (w : XferRef) (s : State) : KeepsSpace s (execDeadlineXferCe w s) := by
  simp [execDeadlineXferCe]

@[simp] theorem execSteepSwitchAtWrite_space (h : Half) (v : W64) (s : State) : KeepsSpace s (execSteepSwitchAtWrite h v s) := by
  simp [execSteepSwitchAtWrite]

@[simp] theorem execSteepPhaseRead_space (h : Half) (s : State) : KeepsSpace s (execSteepPhaseRead h s) := by
  unfold execSteepPhaseRead
  dsimp only
  repeat' split
  all_goals simp

@[simp] theorem execSteepCountRead_space (h : Half) (s : State) : KeepsSpace s (execSteepCountRead h s) := by
  simp [execSteepCountRead]

@[simp] theorem execSteepLatchRelease_space (s : State) : KeepsSpace s (execSteepLatchRelease s) := by
  unfold execSteepLatchRelease
  split <;> simp

@[simp] theorem State.retime_space (s : State) : (s.retime).mem.space = s.mem.space := by
  unfold State.retime
  dsimp only
  repeat' split
  all_goals simp

@[simp] theorem State.joinDomain_space (s : State) (link : Nat) (w : TimingWord) :
    (s.joinDomain link w).mem.space = s.mem.space := by
  simp [State.joinDomain]

@[simp] theorem execTimeLostClear_space (s : State) : KeepsSpace s (execTimeLostClear s) := by
  simp [execTimeLostClear]

@[simp] theorem execTimeHoldover_space (s : State) : KeepsSpace s (execTimeHoldover s) := by
  simp [execTimeHoldover]

@[simp] theorem execDeadlineBoundary_space (s : State) : KeepsSpace s (execDeadlineBoundary s) := by
  simp [execDeadlineBoundary]

@[simp] theorem execDeadlineAudit_space (s : State) : KeepsSpace s (execDeadlineAudit s) := by
  unfold execDeadlineAudit
  dsimp only
  split <;> simp

@[simp] theorem State.snapshot_space (s : State) (closed : Steep) : (s.snapshot closed).mem.space = s.mem.space := by
  unfold State.snapshot
  extract_lets before old members far a s1 s2
  have s1_space : s1.mem.space = s.mem.space := space_of_forN fun _ _ => rfl
  have s2_space : s2.mem.space = s1.mem.space := space_of_forL fun _ _ => rfl
  exact s2_space.trans s1_space

@[simp] theorem State.auditBad_space (s : State) (cls : Cls) (unit : UnitId) (ctx : Option Nat) (word : W64) (diff : Int) :
    (s.auditBad cls unit ctx word diff).mem.space = s.mem.space := by
  simp [State.auditBad]

@[simp] theorem State.creditFault_space (s : State) (links : List Nat) : (s.creditFault links).mem.space = s.mem.space := by
  simp [State.creditFault]

@[simp] theorem State.auditCredit_space (s : State) (n : AuditSnap) : (s.auditCredit n).mem.space = s.mem.space := by
  simp [State.auditCredit]

@[simp] theorem State.auditPools_space (s : State) (n : AuditSnap) : (s.auditPools n).mem.space = s.mem.space := by
  simp [State.auditPools]

@[simp] theorem State.auditMailboxes_space (s : State) (n : AuditSnap) : (s.auditMailboxes n).mem.space = s.mem.space := by
  simp [State.auditMailboxes]

@[simp] theorem State.auditEnergy_space (s : State) (n : AuditSnap) : (s.auditEnergy n).1.mem.space = s.mem.space := by
  simp [State.auditEnergy]

@[simp] theorem State.auditFar_space (s : State) (n : AuditSnap) : (s.auditFar n).mem.space = s.mem.space := by
  simp [State.auditFar]

@[simp] theorem State.beatOut_space (s : State) : (s.beatOut).mem.space = s.mem.space := by
  simp [State.beatOut]

@[simp] theorem State.healthExpels_space (s : State) (done : List Nat) : (s.healthExpels done).mem.space = s.mem.space := by
  simp [State.healthExpels]

@[simp] theorem State.applyWindows_space (s : State) : s.applyWindows.mem.space = s.mem.space := by
  unfold State.applyWindows
  refine space_of_forN fun x s => ?_
  extract_lets u
  have u_space : u.mem.space = s.mem.space := by
    unfold u
    split <;> rfl
  clear_value u
  split
  · rw [State.commandDone_space, State.updCtx_mem, u_space]
  · exact u_space

@[simp] theorem State.disarm_space (s : State) (dies : List Nat) : (s.disarm dies).mem.space = s.mem.space := by rfl

@[simp] theorem State.stopBlend_space (s : State) : (s.stopBlend).mem.space = s.mem.space := by
  simp [State.stopBlend]

@[simp] theorem State.settleCtx_space (s : State) (x : Nat) : (s.settleCtx x).mem.space = s.mem.space := by
  unfold State.settleCtx
  dsimp only
  repeat' split
  all_goals simp

@[simp] theorem State.settlePool_space (s : State) (p : Nat) : (s.settlePool p).mem.space = s.mem.space := by
  simp [State.settlePool]

@[simp] theorem State.eventSink_space (s : State) (x : Nat) : (s.eventSink x).mem.space = s.mem.space := by
  simp [State.eventSink]

@[simp] theorem State.releaseOne_space (s : State) (u : UnitId) : (s.releaseOne u).mem.space = s.mem.space := by
  unfold State.releaseOne
  split <;> simp

@[simp] theorem State.sendEvents_space (s : State) : (s.sendEvents).mem.space = s.mem.space := by
  simp [State.sendEvents]

@[simp] theorem State.mergeDeadlines_space (s : State) : (s.mergeDeadlines).mem.space = s.mem.space := by
  unfold State.mergeDeadlines
  refine space_of_forL fun a s => ?_
  split <;> simp

@[simp] theorem State.resetMailboxes_space (s : State) (x : Nat) : (s.resetMailboxes x).mem.space = s.mem.space := by rfl

@[simp] theorem execHostLinkReturn_space (speed width : Nat) (flit : Bool) (s : State) :
    KeepsSpace s (execHostLinkReturn speed width flit s) := by
  simp [execHostLinkReturn]

@[simp] theorem execFlrComplete_space (fn : Nat) (s : State) : KeepsSpace s (execFlrComplete fn s) := by
  simp [execFlrComplete]

@[simp] theorem execD3hotEntry_space (s : State) : KeepsSpace s (execD3hotEntry s) := by
  simp [execD3hotEntry]

@[simp] theorem execD0Entry_space (s : State) : KeepsSpace s (execD0Entry s) := by
  simp [execD0Entry]

@[simp] theorem execVfEnable_space (num : Nat) (on : Bool) (s : State) : KeepsSpace s (execVfEnable num on s) := by
  simp [execVfEnable]

@[simp] theorem execHostDmaFault_space (ctx fn addr kind : Nat) (write : Bool) (code : Nat) (s : State) :
    KeepsSpace s (execHostDmaFault ctx fn addr kind write code s) := by
  simp [execHostDmaFault]

@[simp] theorem execModResetNAssert_space (s : State) : KeepsSpace s (execModResetNAssert s) := by
  simp [execModResetNAssert]

@[simp] theorem execPpsLost_space (s : State) : KeepsSpace s (execPpsLost s) := by
  simp [execPpsLost]

@[simp] theorem execI3cSetdasa_space (static_ addr : Nat) (s : State) : KeepsSpace s (execI3cSetdasa static_ addr s) := by
  simp [execI3cSetdasa]

@[simp] theorem execI3cEntdaa_space (addr : Nat) (s : State) : KeepsSpace s (execI3cEntdaa addr s) := by
  simp [execI3cEntdaa]

@[simp] theorem execMctpSetEndpointId_space (eid : Nat) (s : State) : KeepsSpace s (execMctpSetEndpointId eid s) := by
  simp [execMctpSetEndpointId]

@[simp] theorem execPldmGetSensorReading_space (sensor : Nat) (s : State) :
    KeepsSpace s (execPldmGetSensorReading sensor s) := by
  simp [execPldmGetSensorReading]

@[simp] theorem execPldmSensorUpdate_space (s : State) : KeepsSpace s (execPldmSensorUpdate s) := by
  unfold execPldmSensorUpdate
  dsimp only
  repeat' split
  · simp
  · exact (keepsSpace_next ..).mpr (space_of_forL fun _ _ => rfl)
  · simp

@[simp] theorem execPldmEventsEnable_space (s : State) : KeepsSpace s (execPldmEventsEnable s) := by
  simp [execPldmEventsEnable]

@[simp] theorem State.takeSite_space (s : State) (src kind id : Nat) (ws : List W64) :
    (s.takeSite src kind id ws).mem.space = s.mem.space := by
  unfold State.takeSite
  split <;> simp

@[simp] theorem State.updFaults_space (s : State) (f : Faults → Faults) : (s.updFaults f).mem.space = s.mem.space := by rfl

@[simp] theorem State.updFabric_space (s : State) (f : Fabric → Fabric) : (s.updFabric f).mem.space = s.mem.space := by rfl

@[simp] theorem State.updSteep_space (s : State) (f : Steep → Steep) : (s.updSteep f).mem.space = s.mem.space := by rfl

@[simp] theorem State.updHost_space (s : State) (f : HostIf → HostIf) : (s.updHost f).mem.space = s.mem.space := by rfl

@[simp] theorem State.updPower_space (s : State) (f : Power → Power) : (s.updPower f).mem.space = s.mem.space := by rfl

@[simp] theorem State.regClear_space (s : State) (r : Reg) : (s.regClear r).mem.space = s.mem.space := by
  unfold State.regClear
  split <;> simp

@[simp] theorem State.msixRelease_space (s : State) : s.msixRelease.mem.space = s.mem.space :=
  space_of_forL fun _ _ => rfl

@[simp] theorem State.msixWrite_space (s : State) (fn o : Nat) (hf : Half) (w : W64) :
    (s.msixWrite fn o hf w).mem.space = s.mem.space := by
  simp [State.msixWrite]

@[simp] theorem State.cfgWrite_space (s : State) (fn d v : Nat) : (s.cfgWrite fn d v).mem.space = s.mem.space := by
  simp [State.cfgWrite]

@[simp] theorem State.besideAccess_space (s : State) (a : Access) (served : Bool) (half : Option Half) (write : Bool) :
    (s.besideAccess a served half write).mem.space = s.mem.space := by
  unfold State.besideAccess
  dsimp only
  repeat' split
  all_goals simp

@[simp] theorem State.writeEventVector_space (s : State) (fn x off : Nat) (w : W64) :
    (s.writeEventVector fn x off w).mem.space = s.mem.space := by
  unfold State.writeEventVector
  split <;> simp

@[simp] theorem State.writeRequest_space (s : State) (mb w : Nat) (h : Half) (v : W64) :
    (s.writeRequest mb w h v).mem.space = s.mem.space := by rfl

@[simp] theorem State.writeMbCfg_space (s : State) (fn mb : Nat) (h : Half) (w : W64) :
    (s.writeMbCfg fn mb h w).mem.space = s.mem.space := by
  unfold State.writeMbCfg
  split <;> simp

@[simp] theorem State.readReg_space (s : State) (fn : Nat) (r : Reg) (h : Half) :
    (s.readReg fn r h).mem.space = s.mem.space := by
  unfold State.readReg
  split
  · simp
  · simp
  · cases h <;> simp

@[simp] theorem execStrainerInjectArm_space (core : Nat) (h : Half) (v : W64) (s : State) :
    KeepsSpace s (execStrainerInjectArm core h v s) := by
  simp [execStrainerInjectArm]

end Sys2Proof.Machine
end

section
/-! SUPPORT. Proofs/MemoryForm.lean: those that write the tiers keep their one form, an address listed once, rising, and no zero byte. -/
namespace Sys2Proof.Machine

/-! ### The form of the memory -/

@[simp] theorem wf_ite (c : Prop) [Decidable c] (a b : Mem) : (if c then a else b).wf = if c then a.wf else b.wf := apply_ite ..

@[simp] theorem wf_forL {α : Type} (l : List α) (f : α → State → State) (s : State)
    (h : ∀ a s, s.mem.space.wf = true → (f a s).mem.space.wf = true) (wf : s.mem.space.wf = true) : (forL l f s).mem.space.wf = true := by
  induction l generalizing s with
  | nil => exact wf
  | cons a l ih => exact ih (f a s) (h a s wf)

@[simp] theorem wf_forN (n : Nat) (f : Nat → State → State) (s : State) (h : ∀ a s, s.mem.space.wf = true → (f a s).mem.space.wf = true)
    (wf : s.mem.space.wf = true) : (forN n f s).mem.space.wf = true := wf_forL _ f s h wf

theorem wf_of_forL {α : Type} {l : List α} {f : α → State → State} {s : State}
    (h : ∀ a s, s.mem.space.wf = true → (f a s).mem.space.wf = true) (wf : s.mem.space.wf = true) : (forL l f s).mem.space.wf = true :=
  wf_forL l f s h wf

theorem wf_of_forN {n : Nat} {f : Nat → State → State} {s : State} (h : ∀ a s, s.mem.space.wf = true → (f a s).mem.space.wf = true)
    (wf : s.mem.space.wf = true) : (forN n f s).mem.space.wf = true := wf_forN n f s h wf

theorem wf_of_foldl {α β : Type} {l : List α} {f : State × β → α → State × β} {p : State × β}
    (h : ∀ p a, p.1.mem.space.wf = true → (f p a).1.mem.space.wf = true) (wf : p.1.mem.space.wf = true) :
    (l.foldl f p).1.mem.space.wf = true := by
  induction l generalizing p with
  | nil => exact wf
  | cons a l ih => exact ih (h p a wf)

theorem wf_of_forL_fst {α β : Type} {l : List α} {f : α → State × β → State × β} {p : State × β}
    (h : ∀ a p, p.1.mem.space.wf = true → (f a p).1.mem.space.wf = true) (wf : p.1.mem.space.wf = true) :
    (forL l f p).1.mem.space.wf = true := by
  induction l generalizing p with
  | nil => exact wf
  | cons a l ih => exact ih (h a p wf)

@[simp] theorem Mem.wf_writeBack (m : Mem) (wa : Nat) (wf : m.wf = true) : (m.writeBack wa).wf = true := by
  simp [Mem.writeBack, wf]

@[simp] theorem MemUnit.wf_invert (u : MemUnit) (m : Mem) (wa : Nat) (wf : m.wf = true) : (u.invert m wa).wf = true := by
  simp [MemUnit.invert, wf]

theorem Mem.wf_forL {α : Type} (l : List α) (f : α → Mem → Mem) (m : Mem) (h : ∀ a m, m.wf = true → (f a m).wf = true) (wf : m.wf = true) :
    (forL l f m).wf = true := by
  induction l generalizing m with
  | nil => exact wf
  | cons a l ih => exact ih (f a m) (h a m wf)

@[simp] theorem Mem.wf_garble (m : Mem) (ws : List (Nat × List Nat)) (wf : m.wf = true) : (m.garble ws).wf = true :=
  Mem.wf_forL _ _ _ (fun _ m wf => m.wf_setBytes _ _ wf) wf

@[simp] theorem Mem.wf_carry (m : Mem) (wa : Nat) (ws : List Moving) (wf : m.wf = true) : (m.carry wa ws).wf = true := by
  refine Mem.wf_forL _ _ _ (fun i m wf => ?_) wf
  simp [wf]

@[simp] theorem Mem.wf_slowOnly (m : Mem) (wf : m.wf = true) : m.slowOnly.wf = true := cellsWf_filter _ _ _ wf

@[simp] theorem MemUnit.wf_trained (u : MemUnit) (part phase : Nat) (wf : u.space.wf = true) : (u.trained part phase).space.wf = true := by
  unfold MemUnit.trained
  split
  · exact wf
  · split
    · exact cellsWf_filter _ _ _ wf
    · exact wf

@[simp] theorem MemUnit.unmark_space (u : MemUnit) (key : Nat × Nat) (syn : Byte) : (u.unmark key syn).space = u.space := by
  unfold MemUnit.unmark
  split <;> rfl

/-- A next state that the outcome gives has its memory in the one form. -/
def StaysWf (o : Host.Outcome State Fault Refusal) : Prop := ∀ t, o = .next t → t.mem.space.wf = true

@[simp] theorem staysWf_ite (c : Prop) [Decidable c] (a b : Host.Outcome State Fault Refusal) :
    StaysWf (if c then a else b) ↔ if c then StaysWf a else StaysWf b := by
  split <;> rfl

@[simp] theorem staysWf_next (t : State) : StaysWf (.next t) ↔ t.mem.space.wf = true := by simp [StaysWf]

@[simp] theorem staysWf_fault (f : Fault) : StaysWf (.fault f) := by simp [StaysWf]

@[simp] theorem staysWf_refused (r : Refusal) : StaysWf (.refused r) := by simp [StaysWf]

theorem KeepsSpace.staysWf {s : State} {o : Host.Outcome State Fault Refusal} (same : KeepsSpace s o) (wf : s.mem.space.wf = true) : StaysWf o :=
  fun t next => (congrArg Mem.wf (same t next)).trans wf

theorem StaysWf.kettle {r : Req} {code : Nat} {ctxHop : Bool} {admin : UnitId → Bool} {body : KReq → State → KResult} {s : State}
    (keeps : ∀ k s, s.mem.space.wf = true → (body k s).1.mem.space.wf = true) (wf : s.mem.space.wf = true) :
    StaysWf (.next (s.kettle r code ctxHop admin body)) :=
  (staysWf_next _).mpr (State.kettle_space (P := fun m => m.wf = true) keeps wf ..)

theorem State.along_wf (s : State) (pool qid : Nat) (cs : List Nat) (go : State → State)
    (h : ∀ s, s.mem.space.wf = true → (go s).mem.space.wf = true) (wf : s.mem.space.wf = true) : (s.along pool qid cs go).mem.space.wf = true := by
  unfold State.along
  dsimp only
  split <;> simp [h, wf]

theorem State.dma_wf (s : State) (k : KReq) (host : HostRead) (addr : Nat) (write : Bool) (go : List W64 → KResult)
    (h : ∀ ws, (go ws).1.mem.space.wf = true) (wf : s.mem.space.wf = true) : (s.dma k host addr write go).1.mem.space.wf = true := by
  unfold State.dma
  repeat' split
  · exact wf
  · simp [wf]
  · exact h _

theorem State.waveCmd_wf (s : State) (k : KReq) (want : ModelState) (go : Nat → Nat → Model → Wave → State)
    (h : ∀ x m md w, (go x m md w).mem.space.wf = true) (wf : s.mem.space.wf = true) : (s.waveCmd k want go).1.mem.space.wf = true := by
  unfold State.waveCmd
  dsimp only
  repeat' split
  · exact wf
  · exact wf
  · exact h ..

theorem wf_after {o : Host.Outcome State Fault Refusal} {s : State} (h : StaysWf o) (wf : s.mem.space.wf = true) :
    (after o s).mem.space.wf = true := by
  cases o with
  | next t => exact h t rfl
  | fault _ => exact wf
  | refused _ => exact wf

@[simp] theorem State.storeTier_wf (s : State) (wa : Nat) (ws : List W64) (wf : s.mem.space.wf = true) :
    (s.storeTier wa ws).mem.space.wf = true := by
  unfold State.storeTier
  dsimp only
  split
  · exact MemUnit.wf_invert _ _ _ (Mem.wf_storeWords _ _ _ wf)
  · exact Mem.wf_storeWords _ _ _ wf

@[simp] theorem State.endCapture_wf (s : State) (x : Nat) (wf : s.mem.space.wf = true) : (s.endCapture x).mem.space.wf = true := by
  unfold State.endCapture
  split <;> simp [wf]

@[simp] theorem State.tracePass_wf (s : State) (x : Nat) (e : W64 × W64) (wf : s.mem.space.wf = true) :
    (s.tracePass x e).mem.space.wf = true := by
  unfold State.tracePass
  dsimp only
  repeat' split
  all_goals simp [wf]

@[simp] theorem State.endStream_wf (s : State) (x slot status : Nat) (wf : s.mem.space.wf = true) :
    (s.endStream x slot status).mem.space.wf = true := by
  unfold State.endStream
  split <;> simp [wf]

@[simp] theorem State.abortStreams_wf (s : State) (x n : Nat) (wf : s.mem.space.wf = true) : (s.abortStreams x n).mem.space.wf = true := by
  unfold State.abortStreams
  refine wf_of_forN (fun slot s wf => ?_) wf
  dsimp only
  repeat' split
  all_goals simp [wf]

@[simp] theorem State.abortStep_wf (s : State) (x n cause : Nat) (wf : s.mem.space.wf = true) :
    (s.abortStep x n cause).mem.space.wf = true := by
  unfold State.abortStep
  split <;> simp [wf]

@[simp] theorem State.leadAbort_wf (s : State) (x n cause : Nat) (wf : s.mem.space.wf = true) :
    (s.leadAbort x n cause).mem.space.wf = true := by
  unfold State.leadAbort
  dsimp only
  repeat' split
  all_goals simp [wf]

@[simp] theorem State.failStep_wf (s : State) (x n cause epoch : Nat) (wf : s.mem.space.wf = true) :
    (s.failStep x n cause epoch).mem.space.wf = true := by
  unfold State.failStep
  dsimp only
  repeat' split
  all_goals simp [wf]

@[simp] theorem State.failEpoch_wf (s : State) (x cause epoch : Nat) (wf : s.mem.space.wf = true) :
    (s.failEpoch x cause epoch).mem.space.wf = true := by
  simp +contextual [State.failEpoch, wf]

@[simp] theorem State.checkFailed_wf (s : State) (x from_ : Nat) (wf : s.mem.space.wf = true) :
    (s.checkFailed x from_).mem.space.wf = true := by
  simp +contextual [State.checkFailed, wf]

@[simp] theorem State.ledgerAdd_wf (s : State) (x src epoch : Nat) (wf : s.mem.space.wf = true) :
    (s.ledgerAdd x src epoch).mem.space.wf = true := by
  simp [State.ledgerAdd, wf]

@[simp] theorem execSealLate_wf (ctx epoch : Nat) (s : State) (wf : s.mem.space.wf = true) : StaysWf (execSealLate ctx epoch s) := by
  simp [execSealLate, wf]

@[simp] theorem execSealMissing_wf (ctx src epoch : Nat) (s : State) (wf : s.mem.space.wf = true) :
    StaysWf (execSealMissing ctx src epoch s) := by
  unfold execSealMissing
  split <;> simp [wf]

@[simp] theorem execStepFail_wf (m : CommitMsg) (s : State) (wf : s.mem.space.wf = true) : StaysWf (execStepFail m s) := by
  unfold execStepFail
  dsimp only
  repeat' split
  all_goals simp [wf]

@[simp] theorem State.takeAbort_wf (s : State) (x step cause : Nat) (wf : s.mem.space.wf = true) :
    (s.takeAbort x step cause).mem.space.wf = true := by
  simp [State.takeAbort, wf]

@[simp] theorem execAbort_wf (m : CommitMsg) (s : State) (wf : s.mem.space.wf = true) : StaysWf (execAbort m s) := by
  unfold execAbort
  dsimp only
  repeat' split
  all_goals simp [wf]

@[simp] theorem State.settleTakeover_wf (s : State) (x step : Nat) (committed : Bool) (wf : s.mem.space.wf = true) :
    (s.settleTakeover x step committed).mem.space.wf = true := by
  unfold State.settleTakeover
  dsimp only
  repeat' split
  all_goals simp [wf]

@[simp] theorem execDecision_wf (m : CommitMsg) (s : State) (wf : s.mem.space.wf = true) : StaysWf (execDecision m s) := by
  unfold execDecision
  dsimp only
  repeat' split
  all_goals simp [wf]

@[simp] theorem execCommitTimeout_wf (ctx : Nat) (s : State) (wf : s.mem.space.wf = true) : StaysWf (execCommitTimeout ctx s) := by
  unfold execCommitTimeout
  dsimp only
  repeat' split
  all_goals simp [wf]

/-- What a word in error changes of the tiers is what the steps that it fails write when they end. -/
@[simp] theorem State.badWord_wf (s : State) (w : BadWord) (ctx : Option Nat) (scrub : Bool) (opcode opRef : Nat)
    (wf : s.mem.space.wf = true) : (s.badWord w ctx scrub opcode opRef).mem.space.wf = true := by
  unfold State.badWord
  extract_lets ue s1 spec owner once slow s2 g own s3 m s4 s5
  have s1_wf : s1.mem.space.wf = true := wf
  have s2_wf : s2.mem.space.wf = true := by simp [s2, s1_wf]
  have s3_wf : s3.mem.space.wf = true := by simp [s3, s1_wf]
  have s4_wf : s4.mem.space.wf = true := by
    unfold s4
    split <;> exact s3_wf
  have s5_wf : s5.mem.space.wf = true := by
    unfold s5
    split <;> simp [s4_wf]
  clear_value s1 s2 s3 s5 spec once slow g own
  split
  · simp [s1_wf]
  split
  · simp [s1_wf]
  split
  · split <;> simp [s2_wf]
  split
  · split
    · simp [s1_wf]
    · exact wf_of_forL (fun t s wf => State.failStep_wf _ _ _ _ _ wf) (by simp [s1_wf])
  split
  · simp [s1_wf]
  split
  · exact State.checkFailed_wf _ _ _ s5_wf
  · exact s5_wf

@[simp] theorem State.noteTier_wf (s : State) (wa n : Nat) (ctx : Option Nat) (scrub : Bool) (opcode opRef : Nat)
    (wf : s.mem.space.wf = true) : (s.noteTier wa n ctx scrub opcode opRef).mem.space.wf = true := by
  unfold State.noteTier
  refine wf_of_forL (fun e s wf => ?_) wf
  refine Mem.wf_writeBack _ _ ?_
  rw [MemUnit.unmark_space]
  exact State.badWord_wf _ _ _ _ _ _ wf

@[simp] theorem State.noteBytes_wf (s : State) (a n : Nat) (ctx : Option Nat) (opcode opRef : Nat) (wf : s.mem.space.wf = true) :
    (s.noteBytes a n ctx opcode opRef).mem.space.wf = true := by
  simp [State.noteBytes, wf]

@[simp] theorem State.noteCoreWords_wf (s : State) (k : Nat) (p : Nat → Bool) (ctx : Option Nat) (scrub : Bool) (opcode opRef : Nat)
    (wf : s.mem.space.wf = true) : (s.noteCoreWords k p ctx scrub opcode opRef).mem.space.wf = true := by
  unfold State.noteCoreWords
  refine wf_of_forL (fun e s wf => ?_) wf
  dsimp only
  rw [State.updCore_mem, MemUnit.unmark_space]
  exact State.badWord_wf _ _ _ _ _ _ wf

@[simp] theorem State.noteCore_wf (s : State) (k wa n : Nat) (ctx : Option Nat) (scrub : Bool) (opcode opRef : Nat) (wf : s.mem.space.wf = true) :
    (s.noteCore k wa n ctx scrub opcode opRef).mem.space.wf = true := by
  simp [State.noteCore, wf]

@[simp] theorem State.storeCoreBytes_wf (s : State) (k a : Nat) (bs : List Byte) (ctx : Option Nat) (wf : s.mem.space.wf = true) :
    (s.storeCoreBytes k a bs ctx).mem.space.wf = true := by
  simp [State.storeCoreBytes, wf]

@[simp] theorem State.storeTierBytes_wf (s : State) (a : Nat) (bs : List Byte) (ctx : Option Nat) (wf : s.mem.space.wf = true) :
    (s.storeTierBytes a bs ctx).mem.space.wf = true := by
  simp [State.storeTierBytes, wf]

@[simp] theorem State.arrive_wf (s : State) (place : Nat) (ctx : Option Nat) (op ref addr : Nat) (w : Moving)
    (bits : List Nat) (wf : s.mem.space.wf = true) :
    (s.arrive place ctx op ref addr w bits).1.mem.space.wf = true := by
  simp [State.arrive, wf]

@[simp] theorem State.arriveAll_wf (s : State) (place : Nat) (ctx : Option Nat) (op ref : Nat) (upset : List (Nat × Nat))
    (ws : List (Nat × Moving)) (wf : s.mem.space.wf = true) : (s.arriveAll place ctx op ref upset ws).1.mem.space.wf = true := by
  unfold State.arriveAll
  exact wf_of_foldl (fun p w wf => State.arrive_wf _ _ _ _ _ _ _ _ wf) wf

@[simp] theorem execJobConfig_wf (r : Req) (s : State) (wf : s.mem.space.wf = true) : StaysWf (execJobConfig r s) := by
  refine StaysWf.kettle (fun k s wf => ?_) wf
  repeat' split
  all_goals simp [wf]

@[simp] theorem execJobMembers_wf (r : Req) (s : State) (wf : s.mem.space.wf = true) : StaysWf (execJobMembers r s) := by
  refine StaysWf.kettle (fun k s wf => ?_) wf
  repeat' split
  all_goals simp [wf]

@[simp] theorem execStepCapture_wf (r : Req) (s : State) (wf : s.mem.space.wf = true) : StaysWf (execStepCapture r s) := by
  refine StaysWf.kettle (fun k s wf => ?_) wf
  dsimp only
  repeat' split
  all_goals simp [wf]

@[simp] theorem State.restoreSpans_wf (s : State) (base : Nat) (sp : List (Nat × List W64)) (wf : s.mem.space.wf = true) :
    (s.restoreSpans base sp).mem.space.wf = true := by
  simp +contextual [State.restoreSpans, wf]

@[simp] theorem execStepReplay_wf (r : Req) (s : State) (wf : s.mem.space.wf = true) : StaysWf (execStepReplay r s) := by
  refine StaysWf.kettle (fun k s wf => ?_) wf
  dsimp only
  repeat' split
  case h_2 put => simp [State.put_space put, wf]
  all_goals simp [wf]

@[simp] theorem execStreamCancel_wf (r : Req) (s : State) (wf : s.mem.space.wf = true) : StaysWf (execStreamCancel r s) := by
  refine StaysWf.kettle (fun k s wf => ?_) wf
  dsimp only
  repeat' split
  all_goals simp [wf]

@[simp] theorem State.strainerFail_wf (s : State) (k : Nat) (ctx : Option Nat) (op tileId pass : Nat)
    (cmp : Compared) (kind from_ : Nat) (injected : Bool) (wf : s.mem.space.wf = true) :
    (s.strainerFail k ctx op tileId pass cmp kind from_ injected).mem.space.wf = true := by
  unfold State.strainerFail
  repeat' split
  all_goals simp [wf]

@[simp] theorem State.compare_wf (s : State) (k : Nat) (t : Tile) (mt : Mt) (wf : s.mem.space.wf = true) :
    (s.compare k t mt).mem.space.wf = true := by
  simp [State.compare, wf]

@[simp] theorem State.swapSets_wf (s : State) (k : Nat) (t : Tile) (mt : Mt) (wf : s.mem.space.wf = true) :
    (s.swapSets k t mt).mem.space.wf = true := by
  simp [State.swapSets, wf]

@[simp] theorem State.noteSpans_wf (s : State) (k : Nat) (sp : List Span) (ctx : Option Nat) (op ref : Nat) (wf : s.mem.space.wf = true) :
    (s.noteSpans k sp ctx op ref).mem.space.wf = true := by
  simp +contextual [State.noteSpans, wf]

@[simp] theorem State.readSet_wf (s : State) (k sel : Nat) (ctx : Option Nat) (op ref : Nat)
    (ups : List (Nat × Nat)) (cells : List W32) (wf : s.mem.space.wf = true) :
    (s.readSet k sel ctx op ref ups cells).1.mem.space.wf = true :=  by
  unfold State.readSet
  refine wf_of_foldl (fun r a wf => ?_) wf
  simp [wf]

@[simp] theorem State.settle_wf (s : State) (k : Nat) (t : Tile) (mt : Mt) (wf : s.mem.space.wf = true) :
    (s.settle k t mt).mem.space.wf = true := by
  simp [State.settle, wf]

@[simp] theorem execPassSettleEnd_wf (core cycles : Nat) (upset : PassUpset) (s : State) (wf : s.mem.space.wf = true) :
    StaysWf (execPassSettleEnd core cycles upset s) := by
  unfold execPassSettleEnd
  split
  · simp [wf]
  split
  · simp [wf]
  extract_lets mt s1 c rd s2 u res beyond single macs s3 exact_ v s4 s5
  have s2_wf : s2.mem.space.wf = true := State.readSet_wf _ _ _ _ _ _ _ _ (State.noteCoreWords_wf _ _ _ _ _ _ _ wf)
  have s5_wf : s5.mem.space.wf = true := by
    unfold s5
    split
    · exact s2_wf
    · rw [State.raise_space]
      exact s2_wf
  split
  · exact (staysWf_next _).mpr s2_wf
  · exact (staysWf_next _).mpr (State.settle_wf _ _ _ _ s5_wf)

@[simp] theorem execTileStart_wf (core : Nat) (s : State) (wf : s.mem.space.wf = true) : StaysWf (execTileStart core s) := by
  unfold execTileStart
  dsimp only
  repeat' split
  all_goals simp [wf]

@[simp] theorem State.storeBits_wf (s : State) (k a n v : Nat) (ctx : Option Nat) (wf : s.mem.space.wf = true) :
    (s.storeBits k a n v ctx).mem.space.wf = true := by
  simp [State.storeBits, wf]

@[simp] theorem State.putBlock_wf (s : State) (k : Nat) (ctx : Option Nat) (f : Format) (e : Epi) (forward : Bool) (tile block bitAddr : Nat)
    (vs : List Val) (rnds : List Rnd) (wf : s.mem.space.wf = true) :
    (s.putBlock k ctx f e forward tile block bitAddr vs rnds).1.mem.space.wf = true := by
  unfold State.putBlock
  extract_lets ha s1 o s2 s3 s4 s5 s6
  have s1_wf : s1.mem.space.wf = true := by
    unfold s1
    split <;> simp [wf]
  have s2_wf : s2.mem.space.wf = true := by simp [s2, s1_wf]
  have s3_wf : s3.mem.space.wf = true := by
    unfold s3
    split <;> simp [s2_wf]
  have s5_wf : s5.mem.space.wf = true := by simp [s5, s4, s3_wf]
  change s6.mem.space.wf = true
  unfold s6
  split <;> exact s5_wf

@[simp] theorem State.pourRowMajor_wf (s : State) (k : Nat) (p : Pour) (t : Mt) (e : Epi) (f : Format) (rows : List (List W32))
    (wf : s.mem.space.wf = true) : (s.pourRowMajor k p t e f rows).mem.space.wf = true := by
  unfold State.pourRowMajor
  refine wf_of_forL (fun row s wf => ?_) wf
  dsimp only
  split
  · exact wf_of_forN (fun b s wf => State.storeBits_wf _ _ _ _ _ _ (State.putBlock_wf _ _ _ _ _ _ _ _ _ _ _ wf)) wf
  · simp [wf]

@[simp] theorem State.pourBlocks_wf (s : State) (k : Nat) (p : Pour) (t : Mt) (e : Epi) (f : Format)
    (rows : List (List W32)) (wf : s.mem.space.wf = true) :
    (s.pourBlocks k p t e f rows).mem.space.wf = true := by
  unfold State.pourBlocks
  refine wf_of_forL (fun a s wf => ?_) wf
  simp [wf]

@[simp] theorem execPourComplete_wf (core : Nat) (bad : Bool) (upset : List (Nat × Nat)) (s : State) (wf : s.mem.space.wf = true) :
    StaysWf (execPourComplete core bad upset s) := by
  unfold execPourComplete
  split
  · exact (staysWf_next _).mpr wf
  · extract_lets t e c rd s1 s2 rows s3 s4 s5 s6 limit s7 s8 s9 s10
    have s1_wf : s1.mem.space.wf = true := State.noteSpans_wf _ _ _ _ _ _ (State.readSet_wf _ _ _ _ _ _ _ _ wf)
    have s2_wf : s2.mem.space.wf = true := by
      unfold s2
      split <;> simp [s1_wf]
    have s3_wf : s3.mem.space.wf = true := by
      unfold s3
      repeat' split
      all_goals simp [s2_wf]
    have s4_wf : s4.mem.space.wf = true := by simp [s4, s3_wf]
    have s5_wf : s5.mem.space.wf = true := by
      unfold s5
      split <;> simp [s4_wf]
    have s6_wf : s6.mem.space.wf = true := by
      unfold s6
      split <;> simp [s5_wf]
    have s7_wf : s7.mem.space.wf = true := s6_wf
    clear_value s7 limit
    have s8_wf : s8.mem.space.wf = true := by
      unfold s8
      split
      · split
        · rw [State.raise_space]
          exact s7_wf
        · exact s7_wf
      · exact s7_wf
    have s9_wf : s9.mem.space.wf = true := by simp [s9, s8_wf]
    have s10_wf : s10.mem.space.wf = true := by
      unfold s10
      split <;> simp [s9_wf]
    clear_value s10
    repeat' split
    all_goals simp [s10_wf]

@[simp] theorem State.vector_wf (s : State) (k : Nat) (w : W64) (op : Nat) (body : VIn → VOut) (wf : s.mem.space.wf = true) :
    (s.vector k w op body).mem.space.wf = true := by
  unfold State.vector
  dsimp only
  repeat' split
  · exact wf
  · exact wf
  · simp [wf]
  · refine wf_of_forL (fun p s wf => State.storeCoreBytes_wf _ _ _ _ _ wf) ?_
    exact wf_of_forL (fun wa s wf => State.noteCore_wf _ _ _ _ _ _ _ _ wf) wf

@[simp] theorem execVecRun_wf (core : Nat) (cmd : Cmd) (s : State) (wf : s.mem.space.wf = true) : StaysWf (execVecRun core cmd s) := by
  unfold execVecRun
  dsimp only
  repeat' split
  all_goals simp [wf]

@[simp] theorem State.moveRow_wf (s : State) (k : Nat) (x : XCmd) (ctx : Option Nat) (ref : Nat) (upset : List (Nat × Nat)) (r : Nat)
    (wf : s.mem.space.wf = true) : (s.moveRow k x ctx ref upset r).mem.space.wf = true := by
  unfold State.moveRow
  extract_lets n p fromTier ws s1 from_ ups got s2 data tierMark marked s3 sp m s4
  have s1_wf : s1.mem.space.wf = true := by
    unfold s1
    split <;> simp [wf]
  have s2_wf : s2.mem.space.wf = true := State.arriveAll_wf _ _ _ _ _ _ _ s1_wf
  have s3_wf : s3.mem.space.wf = true := State.storeTier_wf _ _ _ s2_wf
  change s4.mem.space.wf = true
  unfold s4
  split
  · simp [s2_wf]
  · exact Mem.wf_carry _ _ _ s3_wf

@[simp] theorem execXfer_wf (core : Nat) (cmd : Cmd) (upset : List (Nat × Nat)) (s : State) (wf : s.mem.space.wf = true) :
    StaysWf (execXfer core cmd upset s) := by
  unfold execXfer
  split
  · simp [wf]
  · extract_lets x ctx ref s1
    have s1_wf : s1.mem.space.wf = true := by simp [s1, wf]
    have moved : (forN x.rows (fun r s => s.moveRow core x ctx ref upset r) s1).mem.space.wf = true :=
      wf_of_forN (fun r s wf => State.moveRow_wf _ _ _ _ _ _ _ wf) s1_wf
    repeat' split
    all_goals simp [wf, s1_wf, moved]

@[simp] theorem execGradGather_wf (core : Nat) (cmd : Cmd) (s : State) (wf : s.mem.space.wf = true) :
    StaysWf (execGradGather core cmd s) := by
  unfold execGradGather
  split <;> simp [wf]

@[simp] theorem execScrubRead_wf (tier : Nat) (upset : List Nat) (s : State) (wf : s.mem.space.wf = true) : StaysWf (execScrubRead tier upset s) := by
  unfold execScrubRead
  dsimp only
  repeat' split
  all_goals simp [wf]

@[simp] theorem execMemoryTrainingStepDone_wf (part : Nat) (ok : Bool) (s : State) (wf : s.mem.space.wf = true) :
    StaysWf (execMemoryTrainingStepDone part ok s) :=  by
  simp [wf, execMemoryTrainingStepDone]

@[simp] theorem State.storeBit_wf (s : State) (base n : Nat) (on : Bool) (ctx : Option Nat) (wf : s.mem.space.wf = true) :
    (s.storeBit base n on ctx).mem.space.wf = true := by
  simp [State.storeBit, wf]

@[simp] theorem State.writeCopy_wf (s : State) (x : Nat) (u : UCmd) (t : Nat) (w : Mat) (wf : s.mem.space.wf = true) :
    (s.writeCopy x u t w).mem.space.wf = true := by
  unfold State.writeCopy
  split
  · exact wf
  · refine wf_of_forN (fun i s wf => ?_) wf
    dsimp only
    split
    · exact State.storeTierBytes_wf _ _ _ _ wf
    · split
      · exact wf
      · refine wf_of_forN (fun blk s wf => ?_) wf
        rw [State.countScale_space]
        exact State.storeBit_wf _ _ _ _ _ (State.storeTierBytes_wf _ _ _ _ (State.storeTierBytes_wf _ _ _ _ wf))

@[simp] theorem State.noteGranule_wf (s : State) (x op ref addr : Nat) (wf : s.mem.space.wf = true) :
    (s.noteGranule x op ref addr).mem.space.wf = true := by
  simp [State.noteGranule, wf]

@[simp] theorem State.putGranules_wf (s : State) (gs : List (Nat × Mat)) (wf : s.mem.space.wf = true) :
    (s.putGranules gs).mem.space.wf = true := by
  simp +contextual [State.putGranules, wf]

@[simp] theorem State.putTile_wf (s : State) (x : Nat) (u : UCmd) (dst t : Nat) (st : List Mat) (hs : List W64) (wf : s.mem.space.wf = true) :
    (s.putTile x u dst t st hs).mem.space.wf = true := by
  unfold State.putTile
  extract_lets gs s1
  have s1_wf : s1.mem.space.wf = true := State.storeTier_wf _ _ _ (State.putGranules_wf _ _ wf)
  split
  · exact State.writeCopy_wf _ _ _ _ _ s1_wf
  · exact s1_wf

@[simp] theorem State.keepTile_wf (s : State) (c : Nat) (j : CaddyJob) (u : UCmd) (sl dst t f ver : Nat) (wf : s.mem.space.wf = true) :
    (s.keepTile c j u sl dst t f ver).s.mem.space.wf = true := by
  simp [State.keepTile, wf]

@[simp] theorem State.staleTile_wf (s : State) (c : Nat) (j : CaddyJob) (u : UCmd) (t : Nat) (h : W64) (wf : s.mem.space.wf = true) :
    (s.staleTile c j u t h).s.mem.space.wf = true := by
  simp [State.staleTile, wf]

@[simp] theorem State.stepTile_wf (s : State) (c : Nat) (j : CaddyJob) (u : UCmd) (sl dst t ver : Nat) (wf : s.mem.space.wf = true) :
    (s.stepTile c j u sl dst t ver).s.mem.space.wf = true := by
  unfold State.stepTile
  dsimp only
  repeat' split
  all_goals simp [wf]

@[simp] theorem State.initTile_wf (s : State) (j : CaddyJob) (u : UCmd) (dst t ver : Nat) (wf : s.mem.space.wf = true) :
    (s.initTile j u dst t ver).s.mem.space.wf = true := by
  simp [State.initTile, wf]

@[simp] theorem State.carryTile_wf (s : State) (j : CaddyJob) (u : UCmd) (sl dst t ver : Nat) (wf : s.mem.space.wf = true) :
    (s.carryTile j u sl dst t ver).s.mem.space.wf = true := by
  simp [State.carryTile, wf]

@[simp] theorem State.diffTile_wf (s : State) (u : UCmd) (sl t : Nat) (wf : s.mem.space.wf = true) :
    (s.diffTile u sl t).s.mem.space.wf = true := by
  unfold State.diffTile
  extract_lets m st d n w cs s1 h
  have s1_wf : s1.mem.space.wf = true := by
    unfold s1
    refine wf_of_forN (fun b s wf => ?_) wf
    exact State.storeTier_wf _ _ _ wf
  clear_value s1 h n
  exact State.storeTier_wf _ _ _ s1_wf

@[simp] theorem State.applyTile_wf (s : State) (c : Nat) (j : CaddyJob) (u : UCmd) (sl dst t ver : Nat) (wf : s.mem.space.wf = true) :
    (s.applyTile c j u sl dst t ver).s.mem.space.wf = true := by
  unfold State.applyTile
  dsimp only
  repeat' split
  all_goals simp [wf]

@[simp] theorem State.noteInit_wf (s : State) (x : Nat) (u : UCmd) (t : Nat) (wf : s.mem.space.wf = true) :
    (s.noteInit x u t).mem.space.wf = true := by
  simp +contextual [State.noteInit, wf]

@[simp] theorem State.updTile_wf (s : State) (c : Nat) (j : CaddyJob) (t : Nat) (wf : s.mem.space.wf = true) :
    (s.updTile c j t).s.mem.space.wf = true := by
  unfold State.updTile
  extract_lets u v dst sl ver heads s1 s2 f s3 s4 skip w s5
  have s1_wf : s1.mem.space.wf = true := wf_of_forL (fun g s wf => State.noteGranule_wf _ _ _ _ _ wf) wf
  have s2_wf : s2.mem.space.wf = true := by
    unfold s2
    split <;> simp [s1_wf]
  have s3_wf : s3.mem.space.wf = true := by
    unfold s3
    split
    · exact wf_of_forN (fun i s wf => State.noteGranule_wf _ _ _ _ _ wf) s2_wf
    · exact s2_wf
  have s4_wf : s4.mem.space.wf = true := by
    unfold s4
    split <;> simp [s3_wf]
  have s5_wf : s5.mem.space.wf = true := by
    unfold s5
    split <;> simp [s4_wf]
  clear_value s5
  repeat' split
  all_goals simp [s5_wf]

@[simp] theorem State.sendGranules_wf (s : State) (x step : Nat) (gs : List Nat) (wf : s.mem.space.wf = true) :
    (s.sendGranules x step gs).mem.space.wf = true := by
  unfold State.sendGranules
  split
  · exact wf
  · refine wf_of_forL (fun e s wf => wf_of_forN (fun i s wf => ?_) wf) wf
    exact (congrArg Mem.wf (State.injectDn_space ..)).trans (State.noteTier_wf _ _ _ _ _ _ _ wf)

@[simp] theorem State.reanchorWrite_wf (s : State) (x step : Nat) (wf : s.mem.space.wf = true) :
    (s.reanchorWrite x step).1.mem.space.wf = true := by
  unfold State.reanchorWrite
  dsimp only
  split
  · exact wf
  · refine wf_of_forL (fun p s wf => State.storeTier_wf _ _ _ (State.putGranules_wf _ _ ?_)) wf
    have put {f : Nat → State → State} (stores : ∀ c s, s.mem.space.wf = true → (f c s).mem.space.wf = true) {s : State}
        (wf : s.mem.space.wf = true) : (forN 8 f s).mem.space.wf = true := wf_of_forN stores wf
    exact put (fun c s wf => State.storeTier_wf _ _ _ wf) (put (fun c s wf => State.storeTier_wf _ _ _ wf)
      (put (fun c s wf => State.storeTier_wf _ _ _ wf) wf))

@[simp] theorem State.updatePrepared_wf (s : State) (x step : Nat) (wf : s.mem.space.wf = true) :
    (s.updatePrepared x step).mem.space.wf = true := by
  unfold State.updatePrepared
  extract_lets v m w s1 s2 s3 s4 s5
  have s1_wf : s1.mem.space.wf = true := State.sendGranules_wf _ _ _ _ (State.reanchorWrite_wf _ _ _ wf)
  have s2_wf : s2.mem.space.wf = true := by
    unfold s2
    split <;> simp [s1_wf]
  have s5_wf : s5.mem.space.wf = true := by simp [s5, s4, s3, s2_wf]
  split
  · exact wf
  · exact s5_wf

@[simp] theorem State.partDone_wf (s : State) (x step : Nat) (wf : s.mem.space.wf = true) :
    (s.partDone x step).mem.space.wf = true := by
  simp [State.partDone, wf]

@[simp] theorem State.takeUpdate_wf (s : State) (x slot op : Nat) (cmd : Cmd) (wf : s.mem.space.wf = true) :
    (s.takeUpdate x slot op cmd).mem.space.wf = true := by
  unfold State.takeUpdate
  split
  · exact wf
  · next taken =>
    have taken_space := State.takeNext_space taken
    dsimp only
    split
    · simp [taken_space, wf]
    · refine wf_of_forN (fun c s wf => ?_) ?_
      · split <;> simp [wf]
      · simp [taken_space, wf]

@[simp] theorem execUpdStep_wf (ctx slot : Nat) (cmd : Cmd) (s : State) (wf : s.mem.space.wf = true) :
    StaysWf (execUpdStep ctx slot cmd s) := by
  simp [execUpdStep, wf]

@[simp] theorem execUpdInit_wf (ctx slot : Nat) (cmd : Cmd) (s : State) (wf : s.mem.space.wf = true) :
    StaysWf (execUpdInit ctx slot cmd s) := by
  simp [execUpdInit, wf]

@[simp] theorem execUpdCarry_wf (ctx slot : Nat) (cmd : Cmd) (s : State) (wf : s.mem.space.wf = true) :
    StaysWf (execUpdCarry ctx slot cmd s) := by
  simp [execUpdCarry, wf]

@[simp] theorem execUpdCopy_wf (ctx slot : Nat) (cmd : Cmd) (s : State) (wf : s.mem.space.wf = true) :
    StaysWf (execUpdCopy ctx slot cmd s) := by
  simp [execUpdCopy, wf]

@[simp] theorem execUpdOuterDiff_wf (ctx slot : Nat) (cmd : Cmd) (s : State) (wf : s.mem.space.wf = true) :
    StaysWf (execUpdOuterDiff ctx slot cmd s) := by
  simp [execUpdOuterDiff, wf]

@[simp] theorem execUpdOuterApply_wf (ctx slot : Nat) (cmd : Cmd) (s : State) (wf : s.mem.space.wf = true) :
    StaysWf (execUpdOuterApply ctx slot cmd s) := by
  simp [execUpdOuterApply, wf]

@[simp] theorem execUpdRetire_wf (ctx slot : Nat) (cmd : Cmd) (s : State) (wf : s.mem.space.wf = true) :
    StaysWf (execUpdRetire ctx slot cmd s) := by
  simp [execUpdRetire, wf]

@[simp] theorem State.caddyPort_wf (s : State) (c x op ref : Nat) (reads : List Nat) (upset : List (Nat × Nat)) (wf : s.mem.space.wf = true) :
    (s.caddyPort c x op ref reads upset).1.mem.space.wf = true :=  by
  unfold State.caddyPort
  refine wf_of_foldl (fun r a wf => ?_) wf
  simp [wf]

@[simp] theorem State.portTile_wf (s : State) (c : Nat) (j : CaddyJob) (t : Nat) (upset : List (Nat × Nat)) (wf : s.mem.space.wf = true) :
    (s.portTile c j t upset).s.mem.space.wf = true := by
  unfold State.portTile
  extract_lets u v p s1
  have s1_wf : s1.mem.space.wf = true := State.caddyPort_wf _ _ _ _ _ _ _ wf
  split
  · exact State.updTile_wf _ _ _ _ s1_wf
  · exact Mem.wf_garble _ _ (State.updTile_wf _ _ _ _ (Mem.wf_garble _ _ s1_wf))

@[simp] theorem execCaddyTileDone_wf (caddy : Nat) (done : TileDone) (s : State) (wf : s.mem.space.wf = true) :
    StaysWf (execCaddyTileDone caddy done s) := by
  unfold execCaddyTileDone
  split
  · exact (staysWf_next _).mpr wf
  · next j t _ =>
    extract_lets u o s1 s2 s3 more s4 s5
    have s1_wf : s1.mem.space.wf = true := State.portTile_wf _ _ _ _ _ wf
    have s2_wf : s2.mem.space.wf = true := by
      unfold s2
      split <;> exact s1_wf
    have s3_wf : s3.mem.space.wf = true := by
      unfold s3
      split <;> simp [s2_wf]
    have s4_wf : s4.mem.space.wf = true := by
      unfold s4
      split <;> simp [s3_wf]
    have s5_wf : s5.mem.space.wf = true := s4_wf
    split
    · exact (staysWf_next _).mpr s5_wf
    · exact (staysWf_next _).mpr (by simp [s5_wf])

@[simp] theorem execDeadlineCaddy_wf (caddy : Nat) (s : State) (wf : s.mem.space.wf = true) : StaysWf (execDeadlineCaddy caddy s) :=  by
  unfold execDeadlineCaddy
  split <;> simp [wf]

@[simp] theorem State.rewriteNow_wf (s : State) (x : Nat) (wf : s.mem.space.wf = true) : (s.rewriteNow x).mem.space.wf = true := by
  unfold State.rewriteNow
  dsimp only
  split
  · exact wf
  · refine wf_of_forL (fun cmd s wf => wf_of_forN (fun i s wf => ?_) wf) wf
    split
    · exact State.writeCopy_wf _ _ _ _ _ (State.noteGranule_wf _ _ _ _ _ wf)
    · exact wf

@[simp] theorem State.poolErrors_wf (s : State) (pool qid : Nat) (k : Packet) (from_ n : Nat) (wf : s.mem.space.wf = true) :
    (s.poolErrors pool qid k from_ n).mem.space.wf = true := by
  unfold State.poolErrors
  refine wf_of_forL (fun a s wf => ?_) wf
  dsimp only
  repeat' split
  all_goals simp [wf]

@[simp] theorem execQueueRead_wf (pool qid n : Nat) (upset links : List (Nat × Nat)) (s : State) (wf : s.mem.space.wf = true) :
    StaysWf (execQueueRead pool qid n upset links s) := by
  unfold execQueueRead
  dsimp only
  split
  · exact (staysWf_next _).mpr wf
  · split
    · exact (staysWf_next _).mpr wf
    · split
      · exact (staysWf_next _).mpr wf
      · exact (staysWf_next _).mpr (State.along_wf _ _ _ _ _ (fun s wf => State.poolErrors_wf _ _ _ _ _ _ wf) wf)

@[simp] theorem State.takeCell_wf (s : State) (link : Nat) (f : Frame) (wf : s.mem.space.wf = true) :
    (s.takeCell link f).mem.space.wf = true := by
  simp [State.takeCell, wf]

@[simp] theorem execDataFrame_wf (link : Nat) (f : Frame) (s : State) (wf : s.mem.space.wf = true) :
    StaysWf (execDataFrame link f s) := by
  simp [execDataFrame, wf]

@[simp] theorem execCollGroup_wf (r : Req) (s : State) (wf : s.mem.space.wf = true) : StaysWf (execCollGroup r s) := by
  refine StaysWf.kettle (fun k s wf => ?_) wf
  repeat' split
  all_goals simp [wf]

@[simp] theorem State.writePlane_wf (s : State) (ctx : Nat) (c : CCmd) (e0 n : Nat) (ws : List W64) (wf : s.mem.space.wf = true) :
    (s.writePlane ctx c e0 n ws).mem.space.wf = true := by
  unfold State.writePlane
  dsimp only
  split
  · exact wf_of_forN (fun b s wf => State.storeTierBytes_wf _ _ _ _ (State.storeTierBytes_wf _ _ _ _ wf)) wf
  · exact State.storeTierBytes_wf _ _ _ _ wf

@[simp] theorem State.notePlane_wf (s : State) (x : Nat) (c : CCmd) (e0 n : Nat) (wf : s.mem.space.wf = true) :
    (s.notePlane x c e0 n).mem.space.wf = true := by
  simp [State.notePlane, wf]

@[simp] theorem CollSt.ownStats_wf (p : CollSt) (wf : p.1.mem.space.wf = true) : (p.ownStats).1.mem.space.wf = true := by
  simp +contextual [CollSt.ownStats, wf]

@[simp] theorem CollSt.final_wf (p : CollSt) (u : Nat) (ws : List W64) (wf : p.1.mem.space.wf = true) :
    (p.final u ws).1.mem.space.wf = true := by
  simp [CollSt.final, wf]

@[simp] theorem CollSt.level2_wf (p : CollSt) (u : Nat) (z : List W32) (wf : p.1.mem.space.wf = true) :
    (p.level2 u z).1.mem.space.wf = true := by
  simp [CollSt.level2, wf]

@[simp] theorem CollSt.runDone_wf (p : CollSt) (u : Nat) (z : List W32) (wf : p.1.mem.space.wf = true) :
    (p.runDone u z).1.mem.space.wf = true := by
  unfold CollSt.runDone
  dsimp only
  repeat' split
  all_goals simp [wf]

@[simp] theorem CollSt.level1_wf (p : CollSt) (u : Nat) (incoming : Option (List W32)) (wf : p.1.mem.space.wf = true) :
    (p.level1 u incoming).1.mem.space.wf = true := by
  simp [CollSt.level1, wf]

@[simp] theorem CollSt.take_wf (p : CollSt) (h0 h1 : W64) (ws : List W64) (wf : p.1.mem.space.wf = true) :
    (p.take h0 h1 ws).1.mem.space.wf = true := by
  unfold CollSt.take
  dsimp only
  repeat' split
  all_goals simp [wf]

@[simp] theorem State.takeColl_wf (s : State) (o : CollOp) (body : List W64) (wf : s.mem.space.wf = true) :
    (s.takeColl o body).mem.space.wf = true := by
  simp [State.takeColl, wf]

@[simp] theorem execCollectivePacket_wf (p : Pkt) (s : State) (wf : s.mem.space.wf = true) : StaysWf (execCollectivePacket p s) :=  by
  unfold execCollectivePacket
  dsimp only
  repeat' split
  all_goals simp [wf]

@[simp] theorem feedLoop_wf (fuel x : Nat) (s : State) (wf : s.mem.space.wf = true) : (feedLoop fuel x s).mem.space.wf = true := by
  induction fuel generalizing s with
  | zero => exact wf
  | succ fuel ih =>
    dsimp only [feedLoop]
    split
    · exact wf
    · split
      · exact wf
      · split
        · exact wf
        · exact ih _ (State.takeColl_wf _ _ _ wf)

@[simp] theorem CollSt.start_wf (p : CollSt) (stage : Option (List W64)) (wf : p.1.mem.space.wf = true) :
    (p.start stage).1.mem.space.wf = true := by
  unfold CollSt.start
  dsimp only
  split
  · refine wf_of_forL_fst (fun u p wf => ?_) wf
    split
    · exact CollSt.level1_wf _ _ _ wf
    · exact wf
  split
  · exact wf_of_forL_fst (fun u p wf => CollSt.final_wf _ _ _ (State.notePlane_wf _ _ _ _ _ wf)) wf
  split
  · split
    · exact wf
    · refine wf_of_forL_fst (fun u p wf => ?_) wf
      dsimp only
      split
      · exact State.notePlane_wf _ _ _ _ _ wf
      · rw [State.collSend_space]
        exact State.notePlane_wf _ _ _ _ _ wf
  split
  · repeat' split
    all_goals simp [wf]
  split
  · split
    · exact wf
    · split
      · exact wf
      · split
        · rw [State.dataLeft_space]
          refine wf_of_forL (fun u s wf => ?_) wf
          rw [State.inject_space]
          exact State.notePlane_wf _ _ _ _ _ wf
        · refine wf_of_forL (fun u s wf => ?_) wf
          rw [State.inject_space]
          exact State.notePlane_wf _ _ _ _ _ wf
  · exact wf

@[simp] theorem State.startColl_wf (s : State) (x slot op : Nat) (cmd : Cmd) (wf : s.mem.space.wf = true) :
    (s.startColl x slot op cmd).mem.space.wf = true := by
  unfold State.startColl
  dsimp only
  split
  · exact wf
  · split
    · exact wf
    · next t taken cmd_taken =>
      have taken_wf : taken.mem.space.wf = true := (congrArg Mem.wf (State.takeNext_space cmd_taken)).trans wf
      split
      · exact taken_wf
      · split
        · exact taken_wf
        · split
          · exact feedLoop_wf _ _ _ (CollSt.ownStats_wf _ (CollSt.start_wf _ _ taken_wf))
          · exact CollSt.ownStats_wf _ (CollSt.start_wf _ _ taken_wf)

@[simp] theorem execCollRs_wf (ctx slot : Nat) (cmd : Cmd) (s : State) (wf : s.mem.space.wf = true) :
    StaysWf (execCollRs ctx slot cmd s) := by
  simp [execCollRs, wf]

@[simp] theorem execCollAg_wf (ctx slot : Nat) (cmd : Cmd) (s : State) (wf : s.mem.space.wf = true) :
    StaysWf (execCollAg ctx slot cmd s) := by
  simp [execCollAg, wf]

@[simp] theorem execCollAr_wf (ctx slot : Nat) (cmd : Cmd) (s : State) (wf : s.mem.space.wf = true) :
    StaysWf (execCollAr ctx slot cmd s) := by
  simp [execCollAr, wf]

@[simp] theorem execCollCodecAr_wf (ctx slot : Nat) (cmd : Cmd) (s : State) (wf : s.mem.space.wf = true) :
    StaysWf (execCollCodecAr ctx slot cmd s) := by
  simp [execCollCodecAr, wf]

@[simp] theorem execCollBcast_wf (ctx slot : Nat) (cmd : Cmd) (s : State) (wf : s.mem.space.wf = true) :
    StaysWf (execCollBcast ctx slot cmd s) := by
  simp [execCollBcast, wf]

@[simp] theorem execCollBarrier_wf (ctx slot : Nat) (cmd : Cmd) (s : State) (wf : s.mem.space.wf = true) :
    StaysWf (execCollBarrier ctx slot cmd s) := by
  simp [execCollBarrier, wf]

@[simp] theorem execCollSend_wf (ctx slot : Nat) (cmd : Cmd) (s : State) (wf : s.mem.space.wf = true) :
    StaysWf (execCollSend ctx slot cmd s) := by
  simp [execCollSend, wf]

@[simp] theorem execCollRecv_wf (ctx slot : Nat) (cmd : Cmd) (s : State) (wf : s.mem.space.wf = true) :
    StaysWf (execCollRecv ctx slot cmd s) := by
  simp [execCollRecv, wf]

@[simp] theorem State.collOutputs_wf (s : State) (o : CollOp) (wf : s.mem.space.wf = true) : (s.collOutputs o).mem.space.wf = true := by
  unfold State.collOutputs
  extract_lets us s1 s2
  have s1_wf : s1.mem.space.wf = true := wf_of_forL (fun u s wf => State.writePlane_wf _ _ _ _ _ _ wf) wf
  have s2_wf : s2.mem.space.wf = true := wf_of_forL (fun e s wf => State.storeTierBytes_wf _ _ _ _ wf) s1_wf
  split
  · exact State.storeTierBytes_wf _ _ _ _ s2_wf
  · exact s2_wf

@[simp] theorem execCollectiveComplete_wf (ctx opId : Nat) (s : State) (wf : s.mem.space.wf = true) :
    StaysWf (execCollectiveComplete ctx opId s) :=  by
  unfold execCollectiveComplete
  split <;> simp [wf]

@[simp] theorem State.writePageList_wf (s : State) (x slot : Nat) (wf : s.mem.space.wf = true) :
    (s.writePageList x slot).mem.space.wf = true := by
  simp [State.writePageList, wf]

@[simp] theorem State.takeSlot_wf (s : State) (x slot n : Nat) (by_ : CmdRef) (wf : s.mem.space.wf = true) :
    (s.takeSlot x slot n by_).mem.space.wf = true := by
  simp [State.takeSlot, wf]

@[simp] theorem joinLoop_wf (asks : List KvAsk) (x : Nat) (s : State) (wf : s.mem.space.wf = true) :
    (joinLoop asks x s).1.mem.space.wf = true := by
  induction asks generalizing s with
  | nil => exact wf
  | cons j rest ih =>
    dsimp only [joinLoop]
    split
    · exact ih _ (State.takeSlot_wf _ _ _ _ _ wf)
    · exact wf

@[simp] theorem State.kvAdmit_wf (s : State) (x : Nat) (wf : s.mem.space.wf = true) : (s.kvAdmit x).mem.space.wf = true := by
  unfold State.kvAdmit
  extract_lets v s1 r j
  split
  · exact wf
  · refine joinLoop_wf _ _ _ (wf_of_foldl (fun acc a wf => ?_) ((congrArg Mem.wf (space_of_forL fun a s => ?_)).trans wf))
    · dsimp only
      split
      · exact State.takeSlot_wf _ _ _ _ _ wf
      · rw [State.raise_space]
        exact wf
    · rw [State.commandDone_space]
      rfl

@[simp] theorem State.abortMirror_wf (s : State) (f : Nat → Bool) (wf : s.mem.space.wf = true) : (s.abortMirror f).mem.space.wf = true := by
  unfold State.abortMirror
  refine wf_of_forL (fun x s wf => ?_) wf
  dsimp only
  rw [State.taint_space, State.updJob_mem]
  exact wf_of_forL (fun t s wf => State.failStep_wf _ _ _ _ _ wf) wf

@[simp] theorem State.abortShared_wf (s : State) (f : Nat → Bool) (wf : s.mem.space.wf = true) :
    (s.abortShared f).mem.space.wf = true := by
  simp [State.abortShared, wf]

@[simp] theorem State.abortEngine_wf (s : State) (engine : Nat) (wf : s.mem.space.wf = true) :
    (s.abortEngine engine).mem.space.wf = true := by
  simp [State.abortEngine, wf]

@[simp] theorem State.terminate_wf (s : State) (u : UnitId) (wf : s.mem.space.wf = true) : (s.terminate u).mem.space.wf = true := by
  unfold State.terminate
  split <;> simp [wf]

@[simp] theorem State.fence_wf (s : State) (u : UnitId) (m : FenceMode) (wf : s.mem.space.wf = true) :
    (s.fence u m).mem.space.wf = true := by
  simp [State.fence, wf]

@[simp] theorem State.failStream_wf (s : State) (x slot status : Nat) (wf : s.mem.space.wf = true) :
    (s.failStream x slot status).mem.space.wf = true := by
  unfold State.failStream
  split <;> simp [wf]

@[simp] theorem State.fenceCtx_wf (s : State) (x : Nat) (wf : s.mem.space.wf = true) : (s.fenceCtx x).mem.space.wf = true := by
  unfold State.fenceCtx
  extract_lets c s1 s2 s3 s4 drop s5
  have s1_wf : s1.mem.space.wf = true := wf
  clear_value s1
  have s2_wf : s2.mem.space.wf = true := (congrArg Mem.wf (space_of_forL fun k s => s.abortCore_space ..)).trans s1_wf
  have s3_wf : s3.mem.space.wf = true := State.abortShared_wf _ _ s2_wf
  clear_value s3
  have s4_wf : s4.mem.space.wf = true := (congrArg Mem.wf (space_of_forL fun j s => s.taintFrom_space ..)).trans s3_wf
  have s5_wf : s5.mem.space.wf = true := by
    unfold s5
    rw [State.discardShadow_space]
    exact s4_wf
  clear_value s5
  split
  · exact wf
  · refine wf_of_forN (fun slot s wf => ?_) s5_wf
    split
    · split
      · rw [State.updStream_space]
        exact State.failStream_wf _ _ _ _ wf
      · exact wf
    · exact wf

@[simp] theorem execFenceEscalated_wf (u : UnitId) (s : State) (wf : s.mem.space.wf = true) : StaysWf (execFenceEscalated u s) := by
  simp [execFenceEscalated, wf]

@[simp] theorem execUnitFence_wf (r : Req) (s : State) (wf : s.mem.space.wf = true) : StaysWf (execUnitFence r s) := by
  refine StaysWf.kettle (fun k s wf => ?_) wf
  repeat' split
  all_goals simp [wf]

@[simp] theorem execUnitDisable_wf (r : Req) (s : State) (wf : s.mem.space.wf = true) : StaysWf (execUnitDisable r s) := by
  refine StaysWf.kettle (fun k s wf => ?_) wf
  repeat' split
  all_goals simp [wf]

@[simp] theorem State.fenceForReset_wf (s : State) (u : UnitId) (wf : s.mem.space.wf = true) :
    (s.fenceForReset u).mem.space.wf = true := by
  simp [State.fenceForReset, wf]

@[simp] theorem State.enterRung_wf (s : State) (u : UnitId) (code engine : Nat) (wf : s.mem.space.wf = true) :
    (s.enterRung u code engine).mem.space.wf = true := by
  unfold State.enterRung
  dsimp only
  repeat' split
  all_goals simp [wf]

@[simp] theorem execBlendLoad_wf (r : Req) (host : HostRead) (s : State) (wf : s.mem.space.wf = true) :
    StaysWf (execBlendLoad r host s) := by
  refine StaysWf.kettle (fun k s wf => ?_) wf
  extract_lets addr n load
  have load_wf (s : State) (ws : List W64) (wf : s.mem.space.wf = true) : (load s ws).1.mem.space.wf = true := by
    unfold load
    dsimp only
    split
    · exact wf
    · split
      · exact wf
      · exact State.storeTier_wf _ _ _ wf
  split
  · exact wf
  split
  · exact wf
  split
  · split
    · exact load_wf _ _ (State.noteBytes_wf _ _ _ _ _ _ wf)
    · exact wf
  · exact State.dma_wf _ _ _ _ _ _ (fun ws => load_wf _ _ wf) wf

@[simp] theorem execOuterConfig_wf (r : Req) (s : State) (wf : s.mem.space.wf = true) : StaysWf (execOuterConfig r s) := by
  refine StaysWf.kettle (fun k s wf => ?_) wf
  repeat' split
  all_goals simp [wf]

@[simp] theorem State.endRound_wf (s : State) (x step : Nat) (g : OuterCfg) (merge : Bool) (wf : s.mem.space.wf = true) :
    (s.endRound x step g merge).mem.space.wf = true := by
  unfold State.endRound
  extract_lets o zs es s1 s2 s3 d s4
  have s3_wf : s3.mem.space.wf = true :=
    wf_of_forN (fun b s wf => State.storeTierBytes_wf _ _ _ _ wf) (State.noteBytes_wf _ _ _ _ _ _ (State.noteBytes_wf _ _ _ _ _ _ wf))
  clear_value s3
  split
  · rw [State.sendDiff_space]
    exact s3_wf
  · rw [State.actOn_space]
    exact s3_wf

@[simp] theorem execOuterMergeDone_wf (ctx : Nat) (s : State) (wf : s.mem.space.wf = true) : StaysWf (execOuterMergeDone ctx s) := by
  unfold execOuterMergeDone
  dsimp only
  split
  · split
    · exact (staysWf_next _).mpr wf
    · exact (staysWf_next _).mpr (wf_of_forN (fun b s wf => State.storeTierBytes_wf _ _ _ _ (State.storeTierBytes_wf _ _ _ _ wf)) wf)
  · exact (staysWf_next _).mpr wf

@[simp] theorem State.outerCommit_wf (s : State) (x step : Nat) (wf : s.mem.space.wf = true) :
    (s.outerCommit x step).mem.space.wf = true := by
  unfold State.outerCommit
  dsimp only
  repeat' split
  all_goals simp [wf]

@[simp] theorem State.saveCore_wf (s : State) (x k : Nat) (wf : s.mem.space.wf = true) : (s.saveCore x k).mem.space.wf = true := by
  simp [State.saveCore, wf]

@[simp] theorem State.noteSlow_wf (s : State) (x delta mask slot : Nat) (sets : List SetReg) (wf : s.mem.space.wf = true) :
    (s.noteSlow x delta mask slot sets).mem.space.wf = true := by
  simp +contextual [State.noteSlow, wf]

@[simp] theorem State.sendPlanes_wf (s : State) (x site : Nat) (wf : s.mem.space.wf = true) :
    (s.sendPlanes x site).mem.space.wf = true := by
  unfold State.sendPlanes
  split
  · exact wf
  · refine wf_of_forL (fun e s wf => ?_) wf
    dsimp only
    rw [State.toPeer_space]
    exact State.noteTier_wf _ _ _ _ _ _ _ wf

@[simp] theorem State.moveAsked_wf (s : State) (code src : Nat) (ws : List W64) (wf : s.mem.space.wf = true) :
    (s.moveAsked code src ws).1.mem.space.wf = true := by
  unfold State.moveAsked
  dsimp only
  repeat' split
  all_goals simp [wf]

@[simp] theorem State.moveStates_wf (s : State) (wf : s.mem.space.wf = true) : (s.moveStates).mem.space.wf = true := by
  unfold State.moveStates
  refine wf_of_forN ?_ wf
  intro x s wf
  extract_lets c ps s1 s2 s3 s4
  have s2_wf : s2.mem.space.wf = true := by
    unfold s2
    split
    · exact wf
    · rw [State.updJob_mem, space_of_forL fun ch s => s.sendAlong_space ..]
      exact State.noteSlow_wf _ _ _ _ _ _ wf
  clear_value s2
  have s3_wf : s3.mem.space.wf = true := by
    unfold s3
    rw [State.updCtx_mem]
    refine wf_of_forL ?_ s2_wf
    intro j s wf
    exact State.sendPlanes_wf _ _ _ wf
  have s4_wf : s4.mem.space.wf = true := s3_wf
  clear_value s3 s4 c
  split
  · next t _ =>
    extract_lets s5 s6 slow fast cores ps2 ps3
    have s5_wf : s5.mem.space.wf = true := by
      unfold s5
      split
      · exact State.noteSlow_wf _ _ _ _ _ _ s4_wf
      · exact s4_wf
    have s6_wf : s6.mem.space.wf = true := by
      unfold s6
      split
      · exact State.noteBytes_wf _ _ _ _ _ _ s5_wf
      · exact s5_wf
    clear_value s6 ps3
    split
    · exact s3_wf
    · rw [State.updJob_mem, State.sendPieces_space]
      exact s6_wf
  · exact s3_wf

@[simp] theorem State.takePiece_wf (s : State) (x : Nat) (w key : W64) (ws : List W64) (wf : s.mem.space.wf = true) :
    (s.takePiece x w key ws).mem.space.wf = true := by
  unfold State.takePiece
  dsimp only
  repeat' split
  all_goals simp [wf]

@[simp] theorem execDecantPacket_wf (p : Pkt) (s : State) (wf : s.mem.space.wf = true) : StaysWf (execDecantPacket p s) := by
  simp [execDecantPacket, wf]

@[simp] theorem State.takeJoin_wf (s : State) (body : List W64) (wf : s.mem.space.wf = true) :
    (s.takeJoin body).mem.space.wf = true := by
  unfold State.takeJoin
  dsimp only
  repeat' split
  all_goals simp [wf]

@[simp] theorem State.takeMirror_wf (s : State) (x src tag addr : Nat) (body : List W64) (wf : s.mem.space.wf = true) :
    (s.takeMirror x src tag addr body).mem.space.wf = true := by
  unfold State.takeMirror
  dsimp only
  repeat' split
  all_goals simp [wf]

@[simp] theorem State.answerRepair_wf (s : State) (x src g : Nat) (wf : s.mem.space.wf = true) :
    (s.answerRepair x src g).mem.space.wf = true := by
  simp +contextual [State.answerRepair, wf]

@[simp] theorem State.takeRepair_wf (s : State) (x addr : Nat) (ws : List W64) (wf : s.mem.space.wf = true) :
    (s.takeRepair x addr ws).mem.space.wf = true := by
  unfold State.takeRepair
  split <;> simp [wf]

@[simp] theorem State.readCommitted_wf (s : State) (job : W64) (step base off n : Nat) (ask : Bool) (wf : s.mem.space.wf = true) :
    (s.readCommitted job step base off n ask).1.mem.space.wf = true := by
  unfold State.readCommitted
  dsimp only
  repeat' split
  all_goals simp [wf]

@[simp] theorem execMirrorPacket_wf (p : Pkt) (s : State) (wf : s.mem.space.wf = true) : StaysWf (execMirrorPacket p s) := by
  unfold execMirrorPacket
  dsimp only
  repeat' split
  all_goals simp [wf]

@[simp] theorem State.noteEntry_wf (s : State) (x : Nat) (md : Model) (l : Nat) (wf : s.mem.space.wf = true) :
    (s.noteEntry x md l).mem.space.wf = true := by
  simp [State.noteEntry, wf]

@[simp] theorem State.infWrite_wf (s : State) (addr : Nat) (ws : List W64) (wf : s.mem.space.wf = true) :
    (s.infWrite addr ws).mem.space.wf = true := by
  simp [State.infWrite, wf]

@[simp] theorem State.writeShard_wf (s : State) (x m l j base nonce version loadId chain : Nat) (ws : List W64) (wf : s.mem.space.wf = true) :
    (s.writeShard x m l j base nonce version loadId chain ws).mem.space.wf = true := by
  simp +contextual [State.writeShard, wf]

@[simp] theorem execModelDefine_wf (r : Req) (s : State) (wf : s.mem.space.wf = true) : StaysWf (execModelDefine r s) := by
  refine StaysWf.kettle (fun k s wf => ?_) wf
  dsimp only
  repeat' split
  all_goals simp +contextual [wf]

@[simp] theorem execInfLoad_wf (ctx slot : Nat) (cmd : Cmd) (host : HostRead) (s : State) (wf : s.mem.space.wf = true) :
    StaysWf (execInfLoad ctx slot cmd host s) := by
  unfold execInfLoad
  split
  · exact (staysWf_next _).mpr wf
  · next t taken cmd_taken =>
    have taken_wf : taken.mem.space.wf = true := (congrArg Mem.wf (State.takeNext_space cmd_taken)).trans wf
    extract_lets w0 m md source l first count bytes src chain loadId nonce inPlace base ok s1 js off n put ld
    have s1_wf : s1.mem.space.wf = true := State.noteEntry_wf _ _ _ _ taken_wf
    have put_wf (s : State) (ws : List W64) (wf : s.mem.space.wf = true) : (put s ws).mem.space.wf = true := by
      have written : (forL js (fun j s => s.writeShard ctx m l j base nonce md.oldVersion loadId chain
          ((ws.drop (524288 * (j - first))).take (shardBytes bytes j / 8))) s).mem.space.wf = true :=
        wf_of_forL (fun j s wf => State.writeShard_wf _ _ _ _ _ _ _ _ _ _ _ wf) wf
      unfold put
      dsimp only
      split
      · rw [State.placeLoaded_space]
        exact written
      · exact written
    split
    · exact (staysWf_next _).mpr s1_wf
    split
    · exact (staysWf_next _).mpr s1_wf
    split
    · exact (staysWf_next _).mpr s1_wf
    split
    · exact (staysWf_next _).mpr (put_wf _ _ (State.noteTier_wf _ _ _ _ _ _ _ s1_wf))
    split
    · exact (staysWf_next _).mpr s1_wf
    split
    · exact (staysWf_next _).mpr ((congrArg Mem.wf (State.dmaFault_space ..)).trans s1_wf)
    · exact (staysWf_next _).mpr (put_wf _ _ s1_wf)

@[simp] theorem execInfGate_wf (ctx slot : Nat) (cmd : Cmd) (s : State) (wf : s.mem.space.wf = true) :
    StaysWf (execInfGate ctx slot cmd s) := by
  unfold execInfGate
  dsimp only
  repeat' split
  all_goals simp [wf]

@[simp] theorem State.waveFetch_wf (s : State) (x m : Nat) (wf : s.mem.space.wf = true) : (s.waveFetch x m).mem.space.wf = true := by
  unfold State.waveFetch
  dsimp only
  repeat' split
  all_goals simp [wf]

@[simp] theorem execReplaceStart_wf (r : Req) (s : State) (wf : s.mem.space.wf = true) : StaysWf (execReplaceStart r s) :=
  StaysWf.kettle (fun _ _ wf => State.waveCmd_wf _ _ _ _ (fun _ _ _ _ => State.waveFetch_wf _ _ _ wf) wf) wf

@[simp] theorem execReplaceResume_wf (r : Req) (s : State) (wf : s.mem.space.wf = true) : StaysWf (execReplaceResume r s) := by
  refine StaysWf.kettle (fun k s wf => State.waveCmd_wf _ _ _ _ (fun x m md w => ?_) wf) wf
  split
  · exact wf
  · exact State.waveFetch_wf _ _ _ wf

@[simp] theorem execReplaceRollback_wf (r : Req) (s : State) (wf : s.mem.space.wf = true) : StaysWf (execReplaceRollback r s) := by
  refine StaysWf.kettle (fun k s wf => State.waveCmd_wf _ _ _ _ (fun x m md w => ?_) wf) wf
  extract_lets turn gone s1 s2
  have s1_wf : s1.mem.space.wf = true := wf
  clear_value s1
  have s2_wf : s2.mem.space.wf = true := by
    unfold s2
    refine wf_of_forN ?_ s1_wf
    intro slot s wf
    dsimp only
    split
    · split
      · exact (congrArg Mem.wf (State.failSlot_space ..)).trans wf
      · exact wf
    · exact wf
  clear_value s2
  split
  · rw [State.endWave_space]
    exact s2_wf
  · exact State.waveFetch_wf _ _ _ s2_wf

@[simp] theorem State.loadShard_wf (s : State) (l : Load) (shard : Nat) (host : HostRead) (wf : s.mem.space.wf = true) :
    (s.loadShard l shard host).mem.space.wf = true := by
  unfold State.loadShard
  repeat' split
  all_goals simp [wf]

@[simp] theorem execShardComplete_wf (ctx model layer shard : Nat) (host : HostRead) (s : State) (wf : s.mem.space.wf = true) :
    StaysWf (execShardComplete ctx model layer shard host s) := by
  unfold execShardComplete
  extract_lets md mine bytes n off whole
  split
  · split
    · exact (staysWf_next _).mpr (State.loadShard_wf _ _ _ _ wf)
    · exact (staysWf_next _).mpr wf
  · next w h _ =>
    extract_lets ver put addr
    have whole_wf (s : State) (wf : s.mem.space.wf = true) : StaysWf (whole s) := (staysWf_next _).mpr (State.waveFetch_wf _ _ _ wf)
    have put_wf (s : State) (ws : List W64) (wf : s.mem.space.wf = true) : (put s ws).mem.space.wf = true :=
      State.writeShard_wf _ _ _ _ _ _ _ _ _ _ _ wf
    split
    · exact whole_wf _ wf
    split
    · exact whole_wf _ (put_wf _ _ (State.noteTier_wf _ _ _ _ _ _ _ wf))
    split
    · split
      · exact (staysWf_next _).mpr wf
      · split
        · exact (staysWf_next _).mpr ((congrArg Mem.wf (State.dmaFault_space ..)).trans wf)
        · exact whole_wf _ (put_wf _ _ wf)
    · exact (staysWf_next _).mpr wf

@[simp] theorem State.dropBadShards_wf (s : State) (x m : Nat) (wf : s.mem.space.wf = true) :
    (s.dropBadShards x m).mem.space.wf = true := by
  unfold State.dropBadShards
  dsimp only
  split
  · exact wf
  · exact wf_of_forL (fun h s wf => State.noteTier_wf _ _ _ _ _ _ _ wf) wf

@[simp] theorem State.modelBoundary_wf (s : State) (x m : Nat) (wf : s.mem.space.wf = true) :
    (s.modelBoundary x m).mem.space.wf = true := by
  simp [State.modelBoundary, wf]

@[simp] theorem execLayerCopyDone_wf (ctx model : Nat) (s : State) (wf : s.mem.space.wf = true) :
    StaysWf (execLayerCopyDone ctx model s) := by
  unfold execLayerCopyDone
  dsimp only
  split
  · exact (staysWf_next _).mpr wf
  · split
    · exact (staysWf_next _).mpr wf
    · next w _ _ l rest _ =>
      have written : (((s.noteEntry ctx ((s.ctx ctx).model model) l).noteTier (s.bufferAt ((s.ctx ctx).model model) l / 8)
          ((s.layerEntry ((s.ctx ctx).model model) l).2 / 8) (some ctx) false 0x60 w.loadId).infWrite (s.layerEntry ((s.ctx ctx).model model) l).1
          (s.mem.space.words (s.bufferAt ((s.ctx ctx).model model) l / 8) ((s.layerEntry ((s.ctx ctx).model model) l).2 / 8))).mem.space.wf = true :=
        State.infWrite_wf _ _ _ (State.noteTier_wf _ _ _ _ _ _ _ (State.noteEntry_wf _ _ _ _ wf))
      simp [written]

@[simp] theorem State.answerShard_wf (s : State) (dn : Nat) (h0 h1 : W64) (wf : s.mem.space.wf = true) :
    (s.answerShard dn h0 h1).mem.space.wf = true := by
  unfold State.answerShard
  dsimp only
  repeat' split
  all_goals simp [wf]

@[simp] theorem State.takeLoad_wf (s : State) (l : Load) (src : Nat) (h0 : W64) (body : List W64) (wf : s.mem.space.wf = true) :
    (s.takeLoad l src h0 body).mem.space.wf = true := by
  simp [State.takeLoad, wf]

@[simp] theorem State.takeWave_wf (s : State) (x : Nat) (w : Wave) (src : Nat) (h0 : W64) (body : List W64) (wf : s.mem.space.wf = true) :
    (s.takeWave x w src h0 body).mem.space.wf = true := by
  simp [State.takeWave, wf]

@[simp] theorem execInfuserPacket_wf (p : Pkt) (s : State) (wf : s.mem.space.wf = true) : StaysWf (execInfuserPacket p s) :=  by
  unfold execInfuserPacket
  dsimp only
  repeat' split
  all_goals simp [wf]

@[simp] theorem execStreamSubmit_wf (r : Req) (host : HostRead) (s : State) (wf : s.mem.space.wf = true) :
    StaysWf (execStreamSubmit r host s) := by
  refine StaysWf.kettle (fun k s wf => ?_) wf
  repeat' split
  all_goals simp [wf]

@[simp] theorem State.startSwitches_wf (s : State) (ws : List Switch) (wf : s.mem.space.wf = true) :
    (s.startSwitches ws).mem.space.wf = true := by
  unfold State.startSwitches
  dsimp only
  refine (congrArg Mem.wf (space_of_forL fun w s => ?_)).trans (wf_of_forL (fun w s wf => ?_) wf)
  · split <;> rfl
  · split
    · exact wf_of_forL (fun k s wf => State.saveCore_wf _ _ _ wf) wf
    · exact wf

@[simp] theorem State.wakeSwitches_wf (s : State) (x : Nat) (wf : s.mem.space.wf = true) : (s.wakeSwitches x).mem.space.wf = true := by
  simp [State.wakeSwitches, wf]

@[simp] theorem State.readSaved_wf (s : State) (x k : Nat) (ups : List (Nat × Nat)) (wf : s.mem.space.wf = true) :
    (s.readSaved x k ups).mem.space.wf = true := by
  unfold State.readSaved
  dsimp only
  repeat' split
  all_goals simp [wf]

@[simp] theorem execContextSwitchComplete_wf (e : SwitchEnd) (s : State) (wf : s.mem.space.wf = true) :
    StaysWf (execContextSwitchComplete e s) := by
  unfold execContextSwitchComplete
  extract_lets die hit cores idle
  have idle_space (s : State) (x : Nat) : (idle s x).mem.space = s.mem.space := by
    unfold idle
    split <;> rfl
  split
  · exact (staysWf_next _).mpr wf
  · next w _ =>
    extract_lets s1 s2 s3 s4 s5
    clear_value idle
    have s1_wf : s1.mem.space.wf = true := by
      unfold s1
      split
      · exact wf_of_forL (fun k s wf => State.readSaved_wf _ _ _ _ wf) wf
      · exact wf
    have s3_wf : s3.mem.space.wf = true := (congrArg Mem.wf (space_of_forN fun k s => s.restoreCore_space ..)).trans s1_wf
    have s4_wf : s4.mem.space.wf = true := by
      unfold s4
      split
      · rw [idle_space]
        exact s3_wf
      · exact s3_wf
    have s5_wf : s5.mem.space.wf = true := (congrArg Mem.wf (idle_space ..)).trans s4_wf
    split
    · exact (staysWf_next _).mpr s5_wf
    · exact (staysWf_next _).mpr (by simp [s5_wf])

@[simp] theorem State.startStream_wf (s : State) (x : Nat) (t : Stream) (wf : s.mem.space.wf = true) :
    (s.startStream x t).mem.space.wf = true := by
  unfold State.startStream
  extract_lets s1 s2 p
  have s1_wf : s1.mem.space.wf = true := State.rewriteNow_wf _ _ wf
  clear_value s1
  have s2_wf : s2.mem.space.wf = true := by
    unfold s2
    split
    · split
      · exact s1_wf
      · rw [State.startCapture_space]
        exact wf_of_forL (fun p s wf => State.noteBytes_wf _ _ _ _ _ _ wf) s1_wf
    · exact s1_wf
  repeat' split
  · exact s1_wf
  · exact s2_wf
  · exact s2_wf

@[simp] theorem State.issueSlot_wf (s : State) (x slot : Nat) (k : Taken) (wf : s.mem.space.wf = true) :
    (s.issueSlot x slot k).1.mem.space.wf = true := by
  unfold State.issueSlot
  dsimp only
  repeat' split
  all_goals simp [wf]

@[simp] theorem State.issueSlices_wf (s : State) (wf : s.mem.space.wf = true) : (s.issueSlices).mem.space.wf = true :=  by
  unfold State.issueSlices
  refine wf_of_foldl (fun r a wf => ?_) wf
  dsimp only
  split
  · exact wf
  · dsimp only
    refine wf_of_foldl (fun r a wf => ?_) wf
    simp [wf]

@[simp] theorem State.settleStream_wf (s : State) (x slot : Nat) (t : Stream) (wf : s.mem.space.wf = true) :
    (s.settleStream x slot t).mem.space.wf = true := by
  unfold State.settleStream
  split <;> simp [wf]

@[simp] theorem execSliceComplete_wf (ctx slot cycles waited : Nat) (s : State) (wf : s.mem.space.wf = true) :
    StaysWf (execSliceComplete ctx slot cycles waited s) := by
  unfold execSliceComplete
  split
  · exact (staysWf_next _).mpr wf
  · next t _ _ =>
    split
    · exact (staysWf_next _).mpr wf
    · split
      · exact (staysWf_next _).mpr wf
      · extract_lets s1 s2 s3 s4 s5 t' s6
        have s1_wf : s1.mem.space.wf = true := by
          unfold s1
          split <;> simp [wf]
        have s3_wf : s3.mem.space.wf = true := by
          unfold s3
          split <;> simp [s2, s1_wf]
        have s4_wf : s4.mem.space.wf = true := (congrArg Mem.wf (space_of_forL fun v s => by rw [State.event_mem])).trans s3_wf
        have s6_wf : s6.mem.space.wf = true := by simp [s6, s5, s4_wf]
        exact (staysWf_next _).mpr (State.wakeSwitches_wf _ _ (State.settleStream_wf _ _ _ _ s6_wf))

@[simp] theorem State.fenceLate_wf (s : State) (x : Nat) (wf : s.mem.space.wf = true) : (s.fenceLate x).mem.space.wf = true := by
  unfold State.fenceLate
  refine State.fenceCtx_wf _ _ ((congrArg Mem.wf (space_of_forN fun slot s => ?_)).trans wf)
  split
  · split <;> rfl
  · rfl

@[simp] theorem execDeadlineSliceUc_wf (ctx slot : Nat) (s : State) (wf : s.mem.space.wf = true) :
    StaysWf (execDeadlineSliceUc ctx slot s) := by
  simp [execDeadlineSliceUc, wf]

@[simp] theorem execDeadlineXferUc_wf (w : XferRef) (s : State) (wf : s.mem.space.wf = true) : StaysWf (execDeadlineXferUc w s) := by
  unfold execDeadlineXferUc
  dsimp only
  repeat' split
  all_goals simp [wf]

@[simp] theorem State.failTimed_wf (s : State) (wf : s.mem.space.wf = true) : s.failTimed.mem.space.wf = true := by
  unfold State.failTimed
  refine wf_of_forN ?_ wf
  intro x s wf
  refine wf_of_forL ?_ wf
  intro t s wf
  exact State.failStep_wf _ _ _ _ _ wf

@[simp] theorem State.checkLost_wf (s : State) (wf : s.mem.space.wf = true) : (s.checkLost).mem.space.wf = true := by
  simp [State.checkLost, wf]

@[simp] theorem State.auditTokens_wf (s : State) (n : AuditSnap) (wf : s.mem.space.wf = true) : (s.auditTokens n).mem.space.wf = true := by
  unfold State.auditTokens
  refine wf_of_forL (fun t s wf => ?_) wf
  dsimp only
  split
  · exact wf
  · rw [State.updJob_mem]
    refine wf_of_forL (fun p s wf => State.failStep_wf _ _ _ _ _ wf) ?_
    exact (congrArg Mem.wf (State.auditBad_space ..)).trans wf

@[simp] theorem execAuditComplete_wf (s : State) (wf : s.mem.space.wf = true) : StaysWf (execAuditComplete s) :=  by
  unfold execAuditComplete
  split <;> simp [wf]

@[simp] theorem State.applyCommit_wf (s : State) (x step : Nat) (wf : s.mem.space.wf = true) :
    (s.applyCommit x step).mem.space.wf = true := by
  unfold State.applyCommit
  dsimp only
  repeat' split
  all_goals simp [wf]

@[simp] theorem State.applyCommits_wf (s : State) (wf : s.mem.space.wf = true) : (s.applyCommits).1.mem.space.wf = true :=  by
  unfold State.applyCommits
  refine wf_of_foldl (fun r a wf => ?_) wf
  split <;> simp [wf]

@[simp] theorem State.leaveTree_wf (s : State) (x dn reason : Nat) (wf : s.mem.space.wf = true) :
    (s.leaveTree x dn reason).mem.space.wf = true := by
  unfold State.leaveTree
  extract_lets j was s1 s2 j2 s3
  have s2_wf : s2.mem.space.wf = true := by simp [s2, s1, wf]
  have s3_wf : s3.mem.space.wf = true := s2_wf
  clear_value s2 j2 s3
  repeat' split
  · exact wf
  · exact wf_of_forL (fun t s wf => State.leadAbort_wf _ _ _ _ wf) s2_wf
  · exact s2_wf
  · exact State.settleTakeover_wf _ _ _ _ s2_wf
  · exact s2_wf
  · exact State.settleTakeover_wf _ _ _ _ ((congrArg Mem.wf (space_of_forL fun r s => s.jobMsg_space ..)).trans s3_wf)

@[simp] theorem State.applyExpel_wf (s : State) (e : Expel) (wf : s.mem.space.wf = true) : (s.applyExpel e).mem.space.wf = true := by
  unfold State.applyExpel
  extract_lets m own faults blend s1 cut fabric s2 s3 s4
  have s2_wf : s2.mem.space.wf = true := wf
  clear_value s2
  have s3_wf : s3.mem.space.wf = true := wf_of_forN (fun x s wf => State.leaveTree_wf _ _ _ _ wf) s2_wf
  have s4_wf : s4.mem.space.wf = true := by
    unfold s4
    split
    · refine wf_of_forN (fun x s wf => ?_) s3_wf
      split
      · exact State.fenceCtx_wf _ _ wf
      · exact wf
    · exact s3_wf
  exact (congrArg Mem.wf (State.leftDomain_space ..)).trans s4_wf

@[simp] theorem State.applyMembership_wf (s : State) (done : List Nat) (wf : s.mem.space.wf = true) :
    (s.applyMembership done).mem.space.wf = true := by
  unfold State.applyMembership
  extract_lets s1 s2 s3
  have s1_wf : s1.mem.space.wf = true := (congrArg Mem.wf (State.healthExpels_space ..)).trans wf
  have s2_wf : s2.mem.space.wf = true := wf_of_forL (fun e s wf => State.applyExpel_wf _ _ wf) s1_wf
  have s3_wf : s3.mem.space.wf = true := by
    unfold s3
    clear_value s2
    refine wf_of_forN ?_ s2_wf
    intro x s wf
    split
    · split <;> simp [wf]
    · exact wf
  clear_value s3
  split
  · split
    · exact s3_wf
    · dsimp only
      split
      · rw [State.commandDone_space]
        exact s3_wf
      · exact s3_wf
  · exact s3_wf

@[simp] theorem State.switchDies_wf (s : State) (wf : s.mem.space.wf = true) : s.switchDies.mem.space.wf = true := by
  unfold State.switchDies
  extract_lets olds starts s1 s2 news s3 s4 s5 wait go s6
  have s1_wf : s1.mem.space.wf = true := wf
  clear_value s1
  have s2_wf : s2.mem.space.wf = true := by
    unfold s2
    rw [space_of_forL fun by_ s => s.commandDone_space ..]
    exact s1_wf
  have s3_wf : s3.mem.space.wf = true := by
    unfold s3
    clear_value s2
    refine wf_of_forL ?_ s2_wf
    intro w s wf
    exact wf_after (execContextSwitchComplete_wf _ _ wf) wf
  have s4_wf : s4.mem.space.wf = true := s3_wf
  have s5_wf : s5.mem.space.wf = true := by
    unfold s5
    rw [State.disarm_space]
    exact s4_wf
  have s6_wf : s6.mem.space.wf = true := s5_wf
  clear_value s6
  split
  · exact s6_wf
  · exact State.startSwitches_wf _ _ s6_wf

@[simp] theorem State.release_wf (s : State) (wf : s.mem.space.wf = true) : s.release.mem.space.wf = true := by
  unfold State.release
  extract_lets s1 s2 s3
  have s1_wf : s1.mem.space.wf = true := by
    unfold s1
    rw [space_of_forL fun u s => s.releaseOne_space ..]
    exact wf
  have s2_wf : s2.mem.space.wf = true := by
    unfold s2
    rw [space_of_forN fun p s => s.settlePool_space ..]
    exact s1_wf
  clear_value s2
  have s3_wf : s3.mem.space.wf = true := by
    unfold s3
    refine wf_of_forN ?_ s2_wf
    intro x s wf
    rw [State.eventSink_space]
    refine wf_of_forN ?_ ((congrArg Mem.wf (State.settleCtx_space ..)).trans wf)
    intro m s wf
    split
    · exact State.modelBoundary_wf _ _ _ wf
    · exact wf
  exact State.moveStates_wf _ s3_wf

@[simp] theorem State.boundarySwitch_wf (s : State) (q : Nat) (wf : s.mem.space.wf = true) :
    (s.boundarySwitch q).mem.space.wf = true := by
  simp [State.boundarySwitch, wf]

@[simp] theorem State.boundaryClose_wf (s : State) (wf : s.mem.space.wf = true) : s.boundaryClose.mem.space.wf = true := by
  unfold State.boundaryClose
  extract_lets s1 s2 s3
  have s1_wf : s1.mem.space.wf = true := by
    unfold s1
    refine wf_of_forN ?_ wf
    intro x s wf
    exact State.kvAdmit_wf _ _ wf
  clear_value s1
  have s2_wf : s2.mem.space.wf = true := by simp [s2, s1_wf]
  clear_value s2
  have s3_wf : s3.mem.space.wf = true := by simp [s3, s2_wf]
  clear_value s3
  rw [space_of_forN fun m s => s.flushMailbox_space ..]
  exact s3_wf

@[simp] theorem execFlrVf_wf (fn : Nat) (s : State) (wf : s.mem.space.wf = true) : StaysWf (execFlrVf fn s) :=  by
  simp [wf, execFlrVf]

@[simp] theorem State.hostReset_wf (s : State) (wf : s.mem.space.wf = true) : (s.hostReset).mem.space.wf = true := by
  simp +contextual [State.hostReset, wf]

@[simp] theorem execFlrPf_wf (s : State) (wf : s.mem.space.wf = true) : StaysWf (execFlrPf s) :=  by
  simp [wf, execFlrPf]

@[simp] theorem execHotReset_wf (s : State) (wf : s.mem.space.wf = true) : StaysWf (execHotReset s) :=  by
  simp [wf, execHotReset]

@[simp] theorem takeMsg_wf (msg : Nat) (m : CommitMsg) (s : State) (wf : s.mem.space.wf = true) : (takeMsg msg m s).mem.space.wf = true := by
  dsimp only [takeMsg]
  split
  · next e found =>
    have listed := List.mem_of_find?_eq_some found
    simp only [List.mem_cons, List.not_mem_nil, or_false] at listed
    refine wf_after ?_ wf
    rcases listed with rfl | rfl | rfl | rfl | rfl | rfl | rfl | rfl | rfl | rfl | rfl | rfl | rfl
    case' inr.inl | inr.inr.inr.inr.inl | inr.inr.inr.inr.inr.inr.inl => simp [wf]
    all_goals exact KeepsSpace.staysWf (by simp) wf
  · exact wf

@[simp] theorem execVfadd_wf (core : Nat) (w : W64) (s : State) (wf : s.mem.space.wf = true) : StaysWf (execVfadd core w s) := by
  simp [execVfadd, wf]

@[simp] theorem execVfsub_wf (core : Nat) (w : W64) (s : State) (wf : s.mem.space.wf = true) : StaysWf (execVfsub core w s) := by
  simp [execVfsub, wf]

@[simp] theorem execVfmul_wf (core : Nat) (w : W64) (s : State) (wf : s.mem.space.wf = true) : StaysWf (execVfmul core w s) := by
  simp [execVfmul, wf]

@[simp] theorem execVfma_wf (core : Nat) (w : W64) (s : State) (wf : s.mem.space.wf = true) : StaysWf (execVfma core w s) := by
  simp [execVfma, wf]

@[simp] theorem execVfdiv_wf (core : Nat) (w : W64) (s : State) (wf : s.mem.space.wf = true) : StaysWf (execVfdiv core w s) := by
  simp [execVfdiv, wf]

@[simp] theorem execVfsqrt_wf (core : Nat) (w : W64) (s : State) (wf : s.mem.space.wf = true) : StaysWf (execVfsqrt core w s) := by
  simp [execVfsqrt, wf]

@[simp] theorem execVfrsqrt_wf (core : Nat) (w : W64) (s : State) (wf : s.mem.space.wf = true) : StaysWf (execVfrsqrt core w s) := by
  simp [execVfrsqrt, wf]

@[simp] theorem execVfmax_wf (core : Nat) (w : W64) (s : State) (wf : s.mem.space.wf = true) : StaysWf (execVfmax core w s) := by
  simp [execVfmax, wf]

@[simp] theorem execVfmin_wf (core : Nat) (w : W64) (s : State) (wf : s.mem.space.wf = true) : StaysWf (execVfmin core w s) := by
  simp [execVfmin, wf]

@[simp] theorem execVfabs_wf (core : Nat) (w : W64) (s : State) (wf : s.mem.space.wf = true) : StaysWf (execVfabs core w s) := by
  simp [execVfabs, wf]

@[simp] theorem execVfneg_wf (core : Nat) (w : W64) (s : State) (wf : s.mem.space.wf = true) : StaysWf (execVfneg core w s) := by
  simp [execVfneg, wf]

@[simp] theorem execVfexp_wf (core : Nat) (w : W64) (s : State) (wf : s.mem.space.wf = true) : StaysWf (execVfexp core w s) := by
  simp [execVfexp, wf]

@[simp] theorem execVflog_wf (core : Nat) (w : W64) (s : State) (wf : s.mem.space.wf = true) : StaysWf (execVflog core w s) := by
  simp [execVflog, wf]

@[simp] theorem execVftanh_wf (core : Nat) (w : W64) (s : State) (wf : s.mem.space.wf = true) : StaysWf (execVftanh core w s) := by
  simp [execVftanh, wf]

@[simp] theorem execVfsig_wf (core : Nat) (w : W64) (s : State) (wf : s.mem.space.wf = true) : StaysWf (execVfsig core w s) := by
  simp [execVfsig, wf]

@[simp] theorem execVfcmp_wf (core : Nat) (w : W64) (s : State) (wf : s.mem.space.wf = true) : StaysWf (execVfcmp core w s) := by
  simp [execVfcmp, wf]

@[simp] theorem execVbadd_wf (core : Nat) (w : W64) (s : State) (wf : s.mem.space.wf = true) : StaysWf (execVbadd core w s) := by
  simp [execVbadd, wf]

@[simp] theorem execVbmul_wf (core : Nat) (w : W64) (s : State) (wf : s.mem.space.wf = true) : StaysWf (execVbmul core w s) := by
  simp [execVbmul, wf]

@[simp] theorem execVbfma_wf (core : Nat) (w : W64) (s : State) (wf : s.mem.space.wf = true) : StaysWf (execVbfma core w s) := by
  simp [execVbfma, wf]

@[simp] theorem execVbpack_wf (core : Nat) (w : W64) (s : State) (wf : s.mem.space.wf = true) : StaysWf (execVbpack core w s) := by
  simp [execVbpack, wf]

@[simp] theorem execVcvt_wf (core : Nat) (w : W64) (s : State) (wf : s.mem.space.wf = true) : StaysWf (execVcvt core w s) := by
  simp [execVcvt, wf]

@[simp] theorem execVunpk_wf (core : Nat) (w : W64) (s : State) (wf : s.mem.space.wf = true) : StaysWf (execVunpk core w s) := by
  simp [execVunpk, wf]

@[simp] theorem execVpack_wf (core : Nat) (w : W64) (s : State) (wf : s.mem.space.wf = true) : StaysWf (execVpack core w s) := by
  simp [execVpack, wf]

@[simp] theorem execViadd_wf (core : Nat) (w : W64) (s : State) (wf : s.mem.space.wf = true) : StaysWf (execViadd core w s) := by
  simp [execViadd, wf]

@[simp] theorem execVisub_wf (core : Nat) (w : W64) (s : State) (wf : s.mem.space.wf = true) : StaysWf (execVisub core w s) := by
  simp [execVisub, wf]

@[simp] theorem execViadds_wf (core : Nat) (w : W64) (s : State) (wf : s.mem.space.wf = true) : StaysWf (execViadds core w s) := by
  simp [execViadds, wf]

@[simp] theorem execVisubs_wf (core : Nat) (w : W64) (s : State) (wf : s.mem.space.wf = true) : StaysWf (execVisubs core w s) := by
  simp [execVisubs, wf]

@[simp] theorem execVimul_wf (core : Nat) (w : W64) (s : State) (wf : s.mem.space.wf = true) : StaysWf (execVimul core w s) := by
  simp [execVimul, wf]

@[simp] theorem execVimuls_wf (core : Nat) (w : W64) (s : State) (wf : s.mem.space.wf = true) : StaysWf (execVimuls core w s) := by
  simp [execVimuls, wf]

@[simp] theorem execVimax_wf (core : Nat) (w : W64) (s : State) (wf : s.mem.space.wf = true) : StaysWf (execVimax core w s) := by
  simp [execVimax, wf]

@[simp] theorem execVimin_wf (core : Nat) (w : W64) (s : State) (wf : s.mem.space.wf = true) : StaysWf (execVimin core w s) := by
  simp [execVimin, wf]

@[simp] theorem execViabs_wf (core : Nat) (w : W64) (s : State) (wf : s.mem.space.wf = true) : StaysWf (execViabs core w s) := by
  simp [execViabs, wf]

@[simp] theorem execVshl_wf (core : Nat) (w : W64) (s : State) (wf : s.mem.space.wf = true) : StaysWf (execVshl core w s) := by
  simp [execVshl, wf]

@[simp] theorem execVshls_wf (core : Nat) (w : W64) (s : State) (wf : s.mem.space.wf = true) : StaysWf (execVshls core w s) := by
  simp [execVshls, wf]

@[simp] theorem execVshr_wf (core : Nat) (w : W64) (s : State) (wf : s.mem.space.wf = true) : StaysWf (execVshr core w s) := by
  simp [execVshr, wf]

@[simp] theorem execVsra_wf (core : Nat) (w : W64) (s : State) (wf : s.mem.space.wf = true) : StaysWf (execVsra core w s) := by
  simp [execVsra, wf]

@[simp] theorem execVsrar_wf (core : Nat) (w : W64) (s : State) (wf : s.mem.space.wf = true) : StaysWf (execVsrar core w s) := by
  simp [execVsrar, wf]

@[simp] theorem execVicmp_wf (core : Nat) (w : W64) (s : State) (wf : s.mem.space.wf = true) : StaysWf (execVicmp core w s) := by
  simp [execVicmp, wf]

@[simp] theorem execVfredsum_wf (core : Nat) (w : W64) (s : State) (wf : s.mem.space.wf = true) : StaysWf (execVfredsum core w s) := by
  simp [execVfredsum, wf]

@[simp] theorem execVfredmax_wf (core : Nat) (w : W64) (s : State) (wf : s.mem.space.wf = true) : StaysWf (execVfredmax core w s) := by
  simp [execVfredmax, wf]

@[simp] theorem execViredsum_wf (core : Nat) (w : W64) (s : State) (wf : s.mem.space.wf = true) : StaysWf (execViredsum core w s) := by
  simp [execViredsum, wf]

@[simp] theorem execVsmrst_wf (core : Nat) (w : W64) (s : State) (wf : s.mem.space.wf = true) : StaysWf (execVsmrst core w s) := by
  simp [execVsmrst, wf]

@[simp] theorem execVsmmax_wf (core : Nat) (w : W64) (s : State) (wf : s.mem.space.wf = true) : StaysWf (execVsmmax core w s) := by
  simp [execVsmmax, wf]

@[simp] theorem execVsmsum_wf (core : Nat) (w : W64) (s : State) (wf : s.mem.space.wf = true) : StaysWf (execVsmsum core w s) := by
  simp [execVsmsum, wf]

@[simp] theorem execVsmnrm_wf (core : Nat) (w : W64) (s : State) (wf : s.mem.space.wf = true) : StaysWf (execVsmnrm core w s) := by
  simp [execVsmnrm, wf]

@[simp] theorem execVxent_wf (core : Nat) (w : W64) (s : State) (wf : s.mem.space.wf = true) : StaysWf (execVxent core w s) := by
  simp [execVxent, wf]

@[simp] theorem execVnacc_wf (core : Nat) (w : W64) (s : State) (wf : s.mem.space.wf = true) : StaysWf (execVnacc core w s) := by
  simp [execVnacc, wf]

@[simp] theorem execVnfin_wf (core : Nat) (w : W64) (s : State) (wf : s.mem.space.wf = true) : StaysWf (execVnfin core w s) := by
  simp [execVnfin, wf]

@[simp] theorem execVfnorm_wf (core : Nat) (w : W64) (s : State) (wf : s.mem.space.wf = true) : StaysWf (execVfnorm core w s) := by
  simp [execVfnorm, wf]

@[simp] theorem execNop_wf (core : Nat) (w : W64) (s : State) (wf : s.mem.space.wf = true) : StaysWf (execNop core w s) := by
  simp [execNop, wf]

@[simp] theorem execVsetvl_wf (core : Nat) (w : W64) (s : State) (wf : s.mem.space.wf = true) : StaysWf (execVsetvl core w s) := by
  simp [execVsetvl, wf]

@[simp] theorem execSli_wf (core : Nat) (w : W64) (s : State) (wf : s.mem.space.wf = true) : StaysWf (execSli core w s) := by
  simp [execSli, wf]

@[simp] theorem execSshli_wf (core : Nat) (w : W64) (s : State) (wf : s.mem.space.wf = true) : StaysWf (execSshli core w s) := by
  simp [execSshli, wf]

@[simp] theorem execSadd_wf (core : Nat) (w : W64) (s : State) (wf : s.mem.space.wf = true) : StaysWf (execSadd core w s) := by
  simp [execSadd, wf]

@[simp] theorem execSmul_wf (core : Nat) (w : W64) (s : State) (wf : s.mem.space.wf = true) : StaysWf (execSmul core w s) := by
  simp [execSmul, wf]

@[simp] theorem execSld_wf (core : Nat) (w : W64) (s : State) (wf : s.mem.space.wf = true) : StaysWf (execSld core w s) := by
  simp [execSld, wf]

@[simp] theorem execSst_wf (core : Nat) (w : W64) (s : State) (wf : s.mem.space.wf = true) : StaysWf (execSst core w s) := by
  simp [execSst, wf]

@[simp] theorem execVext_wf (core : Nat) (w : W64) (s : State) (wf : s.mem.space.wf = true) : StaysWf (execVext core w s) := by
  simp [execVext, wf]

@[simp] theorem execVbcst_wf (core : Nat) (w : W64) (s : State) (wf : s.mem.space.wf = true) : StaysWf (execVbcst core w s) := by
  simp [execVbcst, wf]

@[simp] theorem execVmset_wf (core : Nat) (w : W64) (s : State) (wf : s.mem.space.wf = true) : StaysWf (execVmset core w s) := by
  simp [execVmset, wf]

@[simp] theorem execVmget_wf (core : Nat) (w : W64) (s : State) (wf : s.mem.space.wf = true) : StaysWf (execVmget core w s) := by
  simp [execVmget, wf]

@[simp] theorem execVmop_wf (core : Nat) (w : W64) (s : State) (wf : s.mem.space.wf = true) : StaysWf (execVmop core w s) := by
  simp [execVmop, wf]

@[simp] theorem execVidx_wf (core : Nat) (w : W64) (s : State) (wf : s.mem.space.wf = true) : StaysWf (execVidx core w s) := by
  simp [execVidx, wf]

@[simp] theorem execSgetf_wf (core : Nat) (w : W64) (s : State) (wf : s.mem.space.wf = true) : StaysWf (execSgetf core w s) := by
  simp [execSgetf, wf]

@[simp] theorem execSclrf_wf (core : Nat) (w : W64) (s : State) (wf : s.mem.space.wf = true) : StaysWf (execSclrf core w s) := by
  simp [execSclrf, wf]

@[simp] theorem execVld_wf (core : Nat) (w : W64) (s : State) (wf : s.mem.space.wf = true) : StaysWf (execVld core w s) := by
  simp [execVld, wf]

@[simp] theorem execVst_wf (core : Nat) (w : W64) (s : State) (wf : s.mem.space.wf = true) : StaysWf (execVst core w s) := by
  simp [execVst, wf]

@[simp] theorem execVlds_wf (core : Nat) (w : W64) (s : State) (wf : s.mem.space.wf = true) : StaysWf (execVlds core w s) := by
  simp [execVlds, wf]

@[simp] theorem execVsts_wf (core : Nat) (w : W64) (s : State) (wf : s.mem.space.wf = true) : StaysWf (execVsts core w s) := by
  simp [execVsts, wf]

@[simp] theorem execVand_wf (core : Nat) (w : W64) (s : State) (wf : s.mem.space.wf = true) : StaysWf (execVand core w s) := by
  simp [execVand, wf]

@[simp] theorem execVor_wf (core : Nat) (w : W64) (s : State) (wf : s.mem.space.wf = true) : StaysWf (execVor core w s) := by
  simp [execVor, wf]

@[simp] theorem execVxor_wf (core : Nat) (w : W64) (s : State) (wf : s.mem.space.wf = true) : StaysWf (execVxor core w s) := by
  simp [execVxor, wf]

@[simp] theorem execVnot_wf (core : Nat) (w : W64) (s : State) (wf : s.mem.space.wf = true) : StaysWf (execVnot core w s) := by
  simp [execVnot, wf]

@[simp] theorem execVperm_wf (core : Nat) (w : W64) (s : State) (wf : s.mem.space.wf = true) : StaysWf (execVperm core w s) := by
  simp [execVperm, wf]

@[simp] theorem execVrot_wf (core : Nat) (w : W64) (s : State) (wf : s.mem.space.wf = true) : StaysWf (execVrot core w s) := by
  simp [execVrot, wf]

@[simp] theorem execVsel_wf (core : Nat) (w : W64) (s : State) (wf : s.mem.space.wf = true) : StaysWf (execVsel core w s) := by
  simp [execVsel, wf]

end Sys2Proof.Machine
end

section
/-! SUPPORT. Proofs/MemoryFormStep.lean: resets, kettle requests, packets and the boundary keep the form, so every step does. -/
namespace Sys2Proof.Machine

theorem State.coldReset_wf (s : State) : s.coldReset.mem.space.wf = true := rfl

theorem State.warmReset_wf (s : State) (service : Bool) (wf : s.mem.space.wf = true) : (s.warmReset service).mem.space.wf = true :=
  Mem.wf_slowOnly _ wf

theorem State.bootUp_wf (s : State) (wf : s.mem.space.wf = true) : s.bootUp.mem.space.wf = true := by
  unfold State.bootUp
  split
  · exact s.coldReset_wf
  · exact s.warmReset_wf false wf

theorem State.moduleRung_wf (s : State) (service : Bool) (wf : s.mem.space.wf = true) : (s.moduleRung service).mem.space.wf = true := by
  refine State.warmReset_wf _ _ ?_
  split
  · exact wf
  · exact State.fence_wf _ _ _ wf

theorem State.startRung_wf (s : State) (u : UnitId) (code engine : Nat) (by_ : Option CmdRef) (ctx : Option Nat) (esc : Bool)
    (wf : s.mem.space.wf = true) : (s.startRung u code engine by_ ctx esc).mem.space.wf = true := by
  unfold State.startRung
  dsimp only
  split
  · exact wf
  · split
    · exact State.moduleRung_wf _ _ wf
    · exact State.enterRung_wf _ _ _ _ wf

theorem execFaWarmReset_wf (s : State) (wf : s.mem.space.wf = true) : StaysWf (execFaWarmReset s) := by
  unfold execFaWarmReset
  split
  · exact (staysWf_next _).mpr (s.moduleRung_wf false wf)
  · exact (staysWf_next _).mpr wf

theorem execResetTimeout_wf (u : UnitId) (engine : Nat) (s : State) (wf : s.mem.space.wf = true) : StaysWf (execResetTimeout u engine s) := by
  unfold execResetTimeout
  split
  · exact (staysWf_next _).mpr wf
  · extract_lets faults s1 s2 up s3
    have raised : s2.mem.space.wf = true := by simp [s2, s1, wf]
    split
    · exact (staysWf_next _).mpr raised
    · exact (staysWf_next _).mpr (State.startRung_wf _ _ _ _ _ _ _ raised)

theorem execFenceResetDue_wf (u : UnitId) (s : State) (wf : s.mem.space.wf = true) : StaysWf (execFenceResetDue u s) := by
  unfold execFenceResetDue
  dsimp only
  repeat' split
  · exact (staysWf_next _).mpr wf
  · exact (staysWf_next _).mpr wf
  · exact (staysWf_next _).mpr (State.startRung_wf _ _ _ _ _ _ _ wf)

theorem execUnitReset_wf (r : Req) (s : State) (wf : s.mem.space.wf = true) : StaysWf (execUnitReset r s) := by
  refine StaysWf.kettle (fun k s wf => ?_) wf
  repeat' split
  · exact wf
  · exact State.moduleRung_wf _ _ ((congrArg Mem.wf (State.answerNow_space ..)).trans wf)
  · exact State.startRung_wf _ _ _ _ _ _ _ wf

theorem execServiceRestore_wf (r : Req) (s : State) (wf : s.mem.space.wf = true) : StaysWf (execServiceRestore r s) := by
  refine StaysWf.kettle (fun k s wf => ?_) wf
  split
  · exact wf
  · exact State.moduleRung_wf _ _ ((congrArg Mem.wf (State.answerNow_space ..)).trans wf)

@[simp] theorem execDomainPeriod_space (r : Req) (s : State) : KeepsSpace s (execDomainPeriod r s) := by
  refine KeepsSpace.kettle fun k s => ?_
  dsimp only
  split
  · rfl
  · exact space_of_forL fun e s => by simp

theorem execWatchdogExpiry_wf (u : UnitId) (engine : Nat) (s : State) (wf : s.mem.space.wf = true) : StaysWf (execWatchdogExpiry u engine s) := by
  unfold execWatchdogExpiry
  extract_lets idle core faults
  split
  · exact (staysWf_next _).mpr wf
  · next work _ =>
    extract_lets log s1 s2 s3
    have s1_wf : s1.mem.space.wf = true := wf
    have fenced : s2.mem.space.wf = true := by
      unfold s2
      split
      · exact State.fenceCtx_wf _ _ s1_wf
      · exact s1_wf
    have raised : s3.mem.space.wf = true := (congrArg Mem.wf (State.raise_space ..)).trans fenced
    repeat' split
    · exact (staysWf_next _).mpr wf
    · exact (staysWf_next _).mpr raised
    · exact (staysWf_next _).mpr wf
    · exact (staysWf_next _).mpr (State.startRung_wf _ _ _ _ _ _ _ raised)
    · exact (staysWf_next _).mpr (State.startRung_wf _ _ _ _ _ _ _ raised)

theorem execInputSagTimeout_wf (s : State) (wf : s.mem.space.wf = true) : StaysWf (execInputSagTimeout s) := by
  unfold execInputSagTimeout
  split
  · exact (staysWf_next _).mpr s.coldReset_wf
  · exact (staysWf_next _).mpr wf

theorem powerOff_wf (s : State) : StaysWf (.next s.powerOff) := (staysWf_next _).mpr s.coldReset_wf

theorem execRefclkReturn_wf (s : State) (wf : s.mem.space.wf = true) : StaysWf (execRefclkReturn s) := by
  unfold execRefclkReturn
  split
  · exact (staysWf_next _).mpr wf
  · extract_lets power s1
    split
    · exact (staysWf_next _).mpr wf
    · exact (staysWf_next _).mpr (s1.bootUp_wf wf)

theorem execModResetNRelease_wf (s : State) (wf : s.mem.space.wf = true) : StaysWf (execModResetNRelease s) := by
  unfold execModResetNRelease
  split
  · exact (staysWf_next _).mpr wf
  · extract_lets host s1
    split
    · exact (staysWf_next _).mpr wf
    · exact (staysWf_next _).mpr (s1.bootUp_wf wf)

theorem execPowerStateDone_wf (s : State) (wf : s.mem.space.wf = true) : StaysWf (execPowerStateDone s) := by
  unfold execPowerStateDone
  extract_lets p off offPower gate gated forget mem s1 power s2
  have gated_wf : gated.mem.space.wf = true := by
    unfold gated
    split <;> exact wf
  have s1_wf : s1.mem.space.wf = true := by
    unfold s1
    split
    · exact Mem.wf_slowOnly _ gated_wf
    · exact gated_wf
  have s2_wf : s2.mem.space.wf = true := s1_wf
  repeat' split
  · exact (staysWf_next _).mpr wf
  · exact (staysWf_next _).mpr s.coldReset_wf
  · exact (staysWf_next _).mpr ((congrArg Mem.wf (State.commandDone_space ..)).trans s2_wf)
  · exact (staysWf_next _).mpr s2_wf

@[simp] theorem execSteepPeriodWrite_space (h : Half) (v : W64) (s : State) : KeepsSpace s (execSteepPeriodWrite h v s) := by
  unfold execSteepPeriodWrite
  dsimp only
  repeat' split
  all_goals simp

@[simp] theorem State.steer_space (s : State) : s.steer.mem.space = s.mem.space := by rfl

theorem execTiming_wf (link : Nat) (w : TimingWord) (s : State) (wf : s.mem.space.wf = true) : StaysWf (execTiming link w s) := by
  unfold execTiming
  split
  · exact (staysWf_next _).mpr wf
  · extract_lets same s1 s2 s3 st t s4 st4 s5 s6
    have s2_wf : s2.mem.space.wf = true := by
      unfold s2
      split <;> simp [s1, wf]
    have timed : s4.mem.space.wf = true := by simp [s4, s3, s2_wf]
    have steered : s6.mem.space.wf = true := by
      unfold s6
      split
      · unfold s5
        rw [State.steer_space]
        split <;> exact timed
      · exact timed
    exact (staysWf_next _).mpr (State.checkLost_wf _ steered)

@[simp] theorem execPpsEdge_space (s : State) : KeepsSpace s (execPpsEdge s) := by
  unfold execPpsEdge
  split <;> simp

@[simp] theorem State.switchPeriod_space (s : State) : s.switchPeriod.mem.space = s.mem.space := by
  unfold State.switchPeriod
  dsimp only
  repeat' split
  all_goals simp

@[simp] theorem State.openSteep_space (s : State) : s.openSteep.mem.space = s.mem.space := by
  simp [State.openSteep]

theorem runUnit_wf {code : Nat} {r : Req} {s : State} {o : Host.Outcome State Fault Refusal} (wf : s.mem.space.wf = true) :
    runUnit code r s = some o → StaysWf o := by
  unfold runUnit
  split <;> rintro ⟨⟩
  case h_7 => exact execUnitReset_wf r s wf
  case h_3 | h_6 | h_13 | h_14 => simp [wf]
  all_goals exact KeepsSpace.staysWf (by simp) wf

theorem runFabric_wf {code : Nat} {r : Req} {s : State} {o : Host.Outcome State Fault Refusal} (wf : s.mem.space.wf = true) :
    runFabric code r s = some o → StaysWf o := by
  unfold runFabric
  split <;> rintro ⟨⟩
  case h_8 | h_14 => simp [wf]
  all_goals exact KeepsSpace.staysWf (by simp) wf

theorem runJob_wf {code : Nat} {r : Req} {s : State} {o : Host.Outcome State Fault Refusal} (wf : s.mem.space.wf = true) :
    runJob code r s = some o → StaysWf o := by
  unfold runJob
  split <;> rintro ⟨⟩
  case h_1 | h_2 | h_3 | h_4 => simp [wf]
  all_goals exact KeepsSpace.staysWf (by simp) wf

theorem runFault_wf {code : Nat} {r : Req} {s : State} {o : Host.Outcome State Fault Refusal} (wf : s.mem.space.wf = true) :
    runFault code r s = some o → StaysWf o := by
  unfold runFault
  split <;> rintro ⟨⟩
  case h_5 => exact execServiceRestore_wf r s wf
  case h_6 => simp [wf]
  all_goals exact KeepsSpace.staysWf (by simp) wf

theorem runRest_wf {code : Nat} {r : Req} {s : State} {o : Host.Outcome State Fault Refusal} (wf : s.mem.space.wf = true) :
    runRest code r s = some o → StaysWf o := by
  unfold runRest
  split <;> rintro ⟨⟩
  case h_1 | h_3 | h_4 | h_5 => simp [wf]
  all_goals exact KeepsSpace.staysWf (by simp) wf

section
variable {s : State} (wf : s.mem.space.wf = true)
include wf

theorem State.runRequest_wf (mb : Nat) (ws : List W64) : (s.runRequest mb ws).1.mem.space.wf = true := by
  unfold State.runRequest
  extract_lets w code r o
  cases found : o with
  | none => exact wf
  | some q =>
    simp only [o, Option.or_eq_some_iff, Option.or_eq_none_iff] at found
    have ran : StaysWf q := by
      rcases found with ((h | ⟨-, h⟩) | ⟨-, h | ⟨-, h⟩⟩) | ⟨-, h⟩
      · exact runUnit_wf wf h
      · exact runFabric_wf wf h
      · exact runJob_wf wf h
      · exact runFault_wf wf h
      · exact runRest_wf wf h
    exact wf_after ran wf

theorem State.endFan_wf (f : Fan) : (s.endFan f).mem.space.wf = true := by
  unfold State.endFan
  extract_lets g s1 s2 s3
  have s2_wf : s2.mem.space.wf = true := by
    unfold s2
    split <;> simp [s1, wf]
  have s3_wf : s3.mem.space.wf = true := by
    unfold s3
    split <;> simp [s2_wf]
  split
  · exact State.moduleRung_wf _ _ ((congrArg Mem.wf (State.sendOut_space _)).trans s3_wf)
  · exact s3_wf

theorem State.takeLead_wf (mb : Nat) (ms : List (List W64)) (ws : List W64) : (s.takeLead mb ms ws).mem.space.wf = true := by
  unfold State.takeLead
  extract_lets w code args alone r s1
  have ran : r.1.mem.space.wf = true := by
    unfold r
    repeat' split
    exacts [wf, wf, wf, State.runRequest_wf wf ..]
  have asked : s1.mem.space.wf = true := by simp [s1, ran]
  split
  · split
    · simp [ran]
    · exact ran
  · split
    · split
      · exact State.endFan_wf asked _
      · exact asked
    · exact asked

theorem State.takeReply_wf (src id status : Nat) (ws : List W64) : (s.takeReply src id status ws).mem.space.wf = true := by
  unfold State.takeReply
  split
  · exact wf
  · dsimp only
    split
    · exact State.endFan_wf wf _
    · exact wf

theorem execCompositeMemberTimeout_wf (fan : Nat) : StaysWf (execCompositeMemberTimeout fan s) := by
  unfold execCompositeMemberTimeout
  repeat' split
  · exact (staysWf_next _).mpr wf
  · exact (staysWf_next _).mpr wf
  · exact (staysWf_next _).mpr (State.endFan_wf wf _)

omit wf in
@[simp] theorem State.takeDomain_space (code : Nat) (ws : List W64) : (s.takeDomain code ws).mem.space = s.mem.space := by
  unfold State.takeDomain
  dsimp only
  repeat' split
  all_goals simp

theorem execKettlePacket_wf (p : Pkt) : StaysWf (execKettlePacket p s) := by
  unfold execKettlePacket
  split
  · exact (staysWf_next _).mpr ((congrArg Mem.wf (State.holdEarly_space ..)).trans wf)
  · extract_lets w ty kind src ws s1 again fabric s2 mb asked moved n read
    have taken : s2.mem.space.wf = true := by
      have s1_wf : s1.mem.space.wf = true := (congrArg Mem.wf (State.tookPacket_space ..)).trans wf
      unfold s2
      split <;> exact s1_wf
    clear_value ty kind src s2
    split
    · exact (staysWf_next _).mpr wf
    · refine (staysWf_next _).mpr ?_
      split
      · exact taken
      · split
        · split
          · exact (congrArg Mem.wf (State.sendReply_space ..)).trans (State.runRequest_wf taken mb ws)
          · exact State.runRequest_wf taken mb ws
        · exact State.answerShard_wf _ _ _ _ taken
        · exact State.takeLead_wf taken ..
        · exact State.takeReply_wf taken ..
        · exact (congrArg Mem.wf (State.takeDomain_space ..)).trans taken
        · exact (congrArg Mem.wf (State.injectDn_space ..)).trans (State.moveAsked_wf _ _ _ _ taken)
        · exact (congrArg Mem.wf (State.secondCompletion_space ..)).trans taken
        · exact (congrArg Mem.wf (State.injectDn_space ..)).trans (State.readCommitted_wf _ _ _ _ _ _ _ taken)
        · exact (congrArg Mem.wf (State.takeSite_space ..)).trans taken
        · exact taken

theorem handOver_wf (e : EarlyMsg) : (handOver e s).mem.space.wf = true := by
  unfold handOver
  repeat' split
  · exact wf_after (KeepsSpace.staysWf (execHeartbeat_space _ _ _) wf) wf
  · exact takeMsg_wf _ _ _ wf
  · exact wf_after (execKettlePacket_wf wf _) wf
  · exact wf_after (execInfuserPacket_wf _ _ wf) wf
  · exact wf_after (execMirrorPacket_wf _ _ wf) wf
  · exact wf_after (execDecantPacket_wf _ _ wf) wf
  · exact wf_after (execCollectivePacket_wf _ _ wf) wf

theorem State.takeEarly_wf : s.takeEarly.mem.space.wf = true := by
  unfold State.takeEarly
  refine wf_of_forL ?_ wf
  intro e s wf
  exact handOver_wf wf e.2

theorem State.boundaryOpen_wf : s.boundaryOpen.mem.space.wf = true := by
  unfold State.boundaryOpen
  dsimp only
  rw [State.routeSwitch_space]
  refine State.applyMembership_wf _ _ (State.applyCommits_wf _ ?_)
  simp [wf]

theorem execSteepBoundary_wf : StaysWf (execSteepBoundary s) := by
  unfold execSteepBoundary
  split
  · exact (staysWf_next _).mpr wf
  · exact (staysWf_next _).mpr (State.takeEarly_wf (State.boundaryClose_wf _ (State.boundarySwitch_wf _ _ (State.boundaryOpen_wf wf))))

omit wf in
@[simp] theorem State.regWrite_space (fn off : Nat) (r : Reg) (h : Half) (w : W64) : (s.regWrite fn off r h w).mem.space = s.mem.space := by
  unfold State.regWrite
  split
  case h_17 => exact State.guardMailbox_space _ _ _ _ _ fun _ => rfl
  all_goals simp

omit wf in
@[simp] theorem State.access_space (a : Access) (write : Bool) : (s.access a write).mem.space = s.mem.space := by
  unfold State.access
  repeat' split
  all_goals simp

omit wf in
@[simp] theorem execUnmappedAccess_space (a : Access) (write : Bool) : KeepsSpace s (execUnmappedAccess a write s) := by
  unfold execUnmappedAccess
  repeat' split
  all_goals simp

end

@[simp] theorem execRegWrite_space (a : Access) (s : State) : KeepsSpace s (execRegWrite a s) := by
  simp [execRegWrite]

@[simp] theorem execRcRegisterRead_space (a : Access) (s : State) : KeepsSpace s (execRcRegisterRead a s) := by
  simp [execRcRegisterRead]

@[simp] theorem State.tick_space (s : State) : s.tick.mem.space = s.mem.space := by
  unfold State.tick
  split <;> rfl

/-- A command that writes no word of the tiers keeps their form; each of the rest writes it through the stores and resets of this file. -/
theorem exec_wf {s : State} (wf : s.mem.space.wf = true) (c : Instr) : StaysWf (exec c s) := by
  cases c
  case inputBelow40v => exact powerOff_wf s
  case inputOvervoltage => exact powerOff_wf s
  case railFault => exact powerOff_wf s
  case inputSagTimeout => exact execInputSagTimeout_wf s wf
  case refclkReturn => exact execRefclkReturn_wf s wf
  case powerStateDone => exact execPowerStateDone_wf s wf
  case modResetNRelease => exact execModResetNRelease_wf s wf
  case steepBoundary => exact execSteepBoundary_wf wf
  case timing link w => exact execTiming_wf link w s wf
  case compositeMemberTimeout fan => exact execCompositeMemberTimeout_wf wf fan
  case fenceResetDue u => exact execFenceResetDue_wf u s wf
  case unitReset r => exact execUnitReset_wf r s wf
  case serviceRestore r => exact execServiceRestore_wf r s wf
  case kettlePacket p => exact execKettlePacket_wf wf p
  case resetTimeout u engine => exact execResetTimeout_wf u engine s wf
  case faWarmReset => exact execFaWarmReset_wf s wf
  case watchdogExpiry => exact execWatchdogExpiry_wf _ _ s wf
  case
    fenceEscalated | deadlineSliceUc | deadlineXferUc | deadlineCaddy | auditComplete | tileStart | passSettleEnd | pourComplete |
    sliceComplete | gradGather | vecRun | nop | vsetvl | sli | sshli | sadd | smul | sld | sst | vext | vbcst | vmset | vmget | vmop |
    vidx | sgetf | sclrf | vld | vst | vlds | vsts | vunpk | vpack | vcvt | vfadd | vfsub | vfmul | vfma | vfdiv | vfsqrt | vfrsqrt |
    vfmax | vfmin | vfabs | vfneg | vfexp | vflog | vftanh | vfsig | vfcmp | vbadd | vbmul | vbfma | vbpack | viadd | visub | viadds |
    visubs | vimul | vimuls | vimax | vimin | viabs | vshl | vshls | vshr | vsra | vsrar | vicmp | vand | vor | vxor | vnot | vperm |
    vrot | vsel | vfredsum | vfredmax | viredsum | vsmrst | vsmmax | vsmsum | vsmnrm | vxent | vnacc | vnfin | vfnorm | xfer |
    scrubRead | memoryTrainingStepDone | queueRead | unitFence | unitDisable | streamSubmit | streamCancel | contextSwitchComplete |
    updStep | updInit | updCarry | updCopy | updOuterDiff | updOuterApply | updRetire | caddyTileDone | collGroup | dataFrame | collRs |
    collAg | collAr | collCodecAr | collBcast | collBarrier | collSend | collRecv | collectivePacket | collectiveComplete |
    infuserPacket | mirrorPacket | decantPacket | outerConfig | outerMergeDone | sealLate | sealMissing | stepFail | abort | decision |
    commitTimeout | jobConfig | jobMembers | stepCapture | stepReplay | blendLoad | infLoad | infGate | shardComplete | layerCopyDone |
    modelDefine | replaceStart | replaceResume | replaceRollback | flrVf | flrPf | hotReset =>
    unfold exec
    simp [wf]
  all_goals
    refine KeepsSpace.staysWf ?_ wf
    unfold exec
    simp

/-- Settles O4: a command moves no word of the tiers or writes it through the stores, which keep the form. -/
theorem memoryFormKeptByEveryStep : Obligations.MemoryFormKeptByEveryStep := by
  intro s t wf next
  unfold step at next
  split at next
  · injection next with next
    exact next ▸ (congrArg Mem.wf s.tick_space).trans wf
  next c rest _ => exact exec_wf (s := { s with pending := rest }) wf c t next

end Sys2Proof.Machine
end

section
/-! SUPPORT. Proofs/InputPower.lean: input power, converters and the reference clock (R791, R797, R806 to R808). -/
namespace Sys2Proof.Machine

/-- What a converter that turned off leaves of `s` (R797): flash, the repair list, the crash log and what waits at the
ports; all else stands as at a cold start. -/
def State.offOf (s u : State) : Prop :=
  u.power.off = true ∧ u.power.pwrgd = false ∧ u.power.cold = true ∧ u.power.sag = false ∧ u.dark = true ∧
  u.mem.space.cells = [] ∧ u.mem.space.syn = [] ∧ u.mem.repair = s.mem.repair ∧ u.trust.banks = s.trust.banks ∧ u.faults.crashLog = s.faults.crashLog ∧
  u.faults.records = [] ∧ u.steep.count = 0 ∧ (∀ x, (u.ctx x).state = .free) ∧ (∀ m, (u.mailbox m).conserved) ∧ (∀ v, (u.unit v).fence = none) ∧
  (∀ k, (u.core k).store.cells = [] ∧ (u.core k).tile = none) ∧ u.host.resetHeld = s.host.resetHeld ∧ u.out = s.out ∧ u.pending = s.pending

theorem State.powerOff_offOf (s : State) : s.offOf s.powerOff := by
  have dark : s.powerOff.dark = true := by simp [State.powerOff, State.dark]
  exact ⟨rfl, rfl, rfl, rfl, dark, rfl, rfl, rfl, rfl, rfl, rfl, rfl, fun _ => rfl, fun _ => rfl, fun _ => rfl, fun _ => ⟨rfl, rfl⟩, rfl, rfl, rfl⟩

theorem execInputPowerRise_eq (s : State) :
    (s.power.off = true → s.host.resetHeld = true → execInputPowerRise s = .next { s with power := { s.power with
      off := false, pwrgd := true, cold := true } }) ∧
    (s.power.off = false ∨ s.host.resetHeld = false → execInputPowerRise s = .next s) := by
  constructor
  · intro off held
    simp [execInputPowerRise, off, held]
  · intro running
    simp only [execInputPowerRise, Bool.or_eq_true, Bool.not_eq_true', running, if_true]

theorem execInputLow_eq (s : State) :
    (s.power.sag = true → execInputLow s = .next ({ s with power := { s.power with inputLow := true } }.raise { code := 0x0D01, cls := .uc })) ∧
    (s.power.sag = false → execInputLow s = .next s) := by
  constructor <;> intro sag <;> simp only [execInputLow, sag, Bool.not_true, Bool.not_false, Bool.false_eq_true, if_true, if_false]
  rfl

theorem execInputSagTimeout_eq (s : State) :
    (s.power.sag = true → ∃ u, execInputSagTimeout s = .next u ∧ s.offOf u) ∧ (s.power.sag = false → execInputSagTimeout s = .next s) :=
  ⟨fun sag => ⟨s.powerOff, if_pos sag, s.powerOff_offOf⟩, fun sag => if_neg (by simp [sag])⟩

theorem execInputHigh_eq (s : State) :
    (s.power.off = false → (∀ t, s.power.lastHigh = some t → t + 60 ≤ s.seconds) →
      execInputHigh s = .next ({ s with power := { s.power with lastHigh := some s.seconds } }.raise { code := 0x0D00, cls := .ce })) ∧
    (∀ t, s.power.lastHigh = some t → s.seconds < t + 60 → execInputHigh s = .next s) := by
  unfold execInputHigh
  constructor
  · intro on due
    cases last : s.power.lastHigh with
    | none => simp only [on, Bool.not_true, Bool.or_self, Bool.false_eq_true, if_false]; rfl
    | some t =>
      simp only [on, due t last, decide_true, Bool.not_true, Bool.or_self, Bool.false_eq_true, if_false]; rfl
  · intro t last early
    simp [last, early]

theorem execRefclkLoss_eq (s : State) :
    (s.power.off = false → execRefclkLoss s = .next { s with power := { s.power with refLost := true }, host := { s.host with flr := [] } }) ∧
    (s.power.off = true → execRefclkLoss s = .next s) :=
  ⟨fun on => if_neg (by simp [on]), fun off => if_pos off⟩

theorem execRefclkReturn_eq (s : State) :
    (s.power.refLost = true → s.host.resetHeld = false →
      execRefclkReturn s = .next ({ s with power := { s.power with refLost := false } } : State).bootUp) ∧
    (s.power.refLost = true → s.host.resetHeld = true →
      execRefclkReturn s = .next { s with power := { s.power with refLost := false } }) ∧
    (s.power.refLost = false → execRefclkReturn s = .next s) := by
  refine ⟨fun lost free => ?_, fun lost held => ?_, fun kept => ?_⟩
  · simp [execRefclkReturn, lost, free]
  · simp [execRefclkReturn, lost, held]
  · simp [execRefclkReturn, kept]

/-- Settles O35: each event by its own equation; the four that turn the converters off by `State.powerOff_offOf`. -/
theorem inputPowerAndClockEvents : Obligations.InputPowerAndClockEvents :=
  ⟨execInputPowerRise_eq, fun _ => rfl, execInputLow_eq, execInputSagTimeout_eq, fun s => ⟨s.powerOff, rfl, s.powerOff_offOf⟩,
    fun s => ⟨s.powerOff, rfl, s.powerOff_offOf⟩, fun s => ⟨s.powerOff, rfl, s.powerOff_offOf⟩, execInputHigh_eq, execRefclkLoss_eq,
    execRefclkReturn_eq⟩

end Sys2Proof.Machine
end

section
/-! SUPPORT. Proofs/HostResets.lean: the states of the contexts under aborts and fences; resets of the host's functions and of the module. -/
namespace Sys2Proof.Machine

/-! ### The states of the contexts -/

/-- The state of each context. -/
def State.fates (s : State) (x : Nat) : CtxState := (s.ctx x).state

theorem fates_of_ctxs {s t : State} (same : t.ctxs = s.ctxs) : t.fates = s.fates :=
  congrArg (fun (c : Tbl Nat Ctx) (x : Nat) => (c.get {} x).state) same

theorem State.setCtx_fates (s : State) {x : Nat} {c : Ctx} (same : c.state = (s.ctx x).state) : (s.setCtx x c).fates = s.fates := by
  refine funext fun y => ?_
  unfold State.fates
  by_cases here : x = y
  · rw [← here, State.ctx_setCtx, same]
  · rw [State.ctx_setCtx_ne _ _ here]

theorem State.setCtx_fates_eq (s : State) (x : Nat) (c : Ctx) : (s.setCtx x c).fates = fun y => if y = x then c.state else s.fates y := by
  funext y
  unfold State.fates
  by_cases here : y = x
  · rw [here, State.ctx_setCtx, if_pos rfl]
  · rw [State.ctx_setCtx_ne _ _ (Ne.symm here), if_neg here]

theorem State.updCtx_fates (s : State) (x : Nat) {f : Ctx → Ctx} (same : ∀ c, (f c).state = c.state) : (s.updCtx x f).fates = s.fates :=
  s.setCtx_fates (same _)

@[simp] theorem State.updJob_fates (s : State) (x : Nat) (f : Job → Job) : (s.updJob x f).fates = s.fates := s.updCtx_fates x fun _ => rfl

@[simp] theorem State.updStream_fates (s : State) (x slot : Nat) (f : Stream → Stream) : (s.updStream x slot f).fates = s.fates :=
  s.updCtx_fates x fun _ => rfl

theorem fates_forL {α : Type} {f : α → State → State} (each : ∀ a s, (f a s).fates = s.fates) (l : List α) (s : State) :
    (forL l f s).fates = s.fates := by
  induction l generalizing s with
  | nil => rfl
  | cons a l ih => exact (ih (f a s)).trans (each a s)

@[simp] theorem State.event_fates (s : State) (x : Nat) (e : Event) : (s.event x e).fates = s.fates := by
  dsimp only [State.event]
  split
  · next put =>
    split at put
    · exact fates_of_ctxs (State.put_ctxs put)
    · cases put
  · split <;> exact s.setCtx_fates rfl

@[simp] theorem State.enter_fates (s : State) (r : RecSpec) : (s.enter r).fates = s.fates := by
  unfold State.enter
  extract_lets path dup f w s1 f1 s2
  have written : s2.fates = s.fates := by
    unfold s2
    split <;> exact fates_of_ctxs (s.writeRecord_ctxs r)
  clear_value s2
  split
  · rfl
  · split
    · split
      · exact written
      · exact (State.event_fates ..).trans written
    · exact written

@[simp] theorem State.raise_fates (s : State) (r : RecSpec) : (s.raise r).fates = s.fates := by
  refine Eq.trans ?_ (s.enter_fates r)
  unfold State.raise State.wroteKettle
  dsimp only
  repeat' split
  · rfl
  · rfl
  · rfl
  · exact State.enter_fates ..

@[simp] theorem State.raiseLimited_fates (s : State) (key : Nat × Nat) (steeps : Nat) (r : RecSpec) :
    (s.raiseLimited key steeps r).fates = s.fates := by
  unfold State.raiseLimited
  repeat' split
  · rfl
  · exact State.raise_fates ..
  · exact State.raise_fates ..

@[simp] theorem State.routeLost_fates (s : State) (k : Route) (rset : Nat) : (s.routeLost k rset).fates = s.fates := by
  unfold State.routeLost
  dsimp only
  split
  · exact State.raiseLimited_fates ..
  · exact State.raiseLimited_fates ..
  · exact State.raiseLimited_fates ..
  · rfl

@[simp] theorem State.inject_fates (s : State) (kind vc : Nat) (dst : List W64) (ctx : Option Nat) (rset : Nat) (body : List W64) :
    (s.inject kind vc dst ctx rset body).fates = s.fates := by
  unfold State.inject
  dsimp only
  split
  · rfl
  · split
    · exact State.raiseLimited_fates ..
    · rfl
  · exact State.routeLost_fates ..

@[simp] theorem State.injectDn_fates (s : State) (kind vc dn : Nat) (ctx : Option Nat) (rset : Nat) (body : List W64) :
    (s.injectDn kind vc dn ctx rset body).fates = s.fates := by
  unfold State.injectDn
  split
  · exact State.inject_fates ..
  · rfl

@[simp] theorem State.jobMsg_fates (s : State) (x dn msg cause step arg : Nat) : (s.jobMsg x dn msg cause step arg).fates = s.fates :=
  State.injectDn_fates ..

@[simp] theorem State.takeOldest_fates (s : State) (pool qid : Nat) : (s.takeOldest pool qid).fates = s.fates := by
  unfold State.takeOldest
  split <;> rfl

@[simp] theorem goneLoop_fates (fuel x slot : Nat) (s : State) : (goneLoop fuel x slot s).fates = s.fates := by
  induction fuel generalizing s with
  | zero => rfl
  | succ fuel ih =>
    dsimp only [goneLoop]
    repeat' split
    · exact (ih _).trans ((State.takeOldest_fates ..).trans (s.updCtx_fates x fun _ => rfl))
    · rfl
    · rfl

theorem State.putCompletion_ctxs {s t : State} {mb : Nat} {ws : List W64} (written : s.putCompletion mb ws = some t) : t.ctxs = s.ctxs := by
  obtain ⟨u, put, rfl⟩ := Option.map_eq_some_iff.mp written
  exact (State.put_ctxs put : u.ctxs = s.ctxs)

@[simp] theorem State.secondCompletion_fates (s : State) (mb tag status : Nat) (ws : List W64) :
    (s.secondCompletion mb tag status ws).fates = s.fates := by
  unfold State.secondCompletion
  dsimp only
  repeat' split
  · rfl
  · cases written : (s.setMailbox mb { s.mailbox mb with free := (s.mailbox mb).free - 1 }).putCompletion mb (s.completionWords 0xFFFF tag status ws) with
    | none => rfl
    | some t => exact fates_of_ctxs ((State.putCompletion_ctxs written).trans (s.setMailbox_ctxs ..))
  · rfl

@[simp] theorem State.storeTier_fates (s : State) (wa : Nat) (ws : List W64) : (s.storeTier wa ws).fates = s.fates := by
  unfold State.storeTier
  dsimp only
  split <;> rfl

@[simp] theorem State.endCapture_fates (s : State) (x : Nat) : (s.endCapture x).fates = s.fates := by
  unfold State.endCapture
  split
  · rfl
  · split
    · rfl
    · exact (State.event_fates ..).trans ((State.updJob_fates ..).trans (State.storeTier_fates ..))

@[simp] theorem State.endStream_fates (s : State) (x slot status : Nat) : (s.endStream x slot status).fates = s.fates := by
  unfold State.endStream
  split
  · rfl
  · extract_lets held s1 s2 s3 s4
    have s2_fates : s2.fates = s.fates :=
      (goneLoop_fates ..).trans ((State.takeOldest_fates ..).trans (s.updCtx_fates x fun _ => rfl))
    have s3_fates : s3.fates = s.fates := by
      unfold s3
      split
      · refine (s2.updCtx_fates x ?_).trans s2_fates
        exact fun _ => rfl
      · refine Eq.trans (State.updCtx_fates _ x ?_) s2_fates
        exact fun _ => rfl
    have s4_fates : s4.fates = s.fates := (State.event_fates ..).trans s3_fates
    split
    · exact (State.endCapture_fates ..).trans s4_fates
    · exact s4_fates

@[simp] theorem State.abortStreams_fates (s : State) (x n : Nat) : (s.abortStreams x n).fates = s.fates := by
  refine fates_forL (fun slot s => ?_) ..
  dsimp only
  repeat' split
  · exact s.updCtx_fates x fun _ => rfl
  · exact State.endStream_fates ..
  · rfl
  · rfl

@[simp] theorem State.discardShadow_fates (s : State) (x n : Nat) : (s.discardShadow x n).fates = s.fates :=
  State.updCtx_fates _ x fun _ => rfl

@[simp] theorem State.abortStep_fates (s : State) (x n cause : Nat) : (s.abortStep x n cause).fates = s.fates := by
  unfold State.abortStep
  split
  · rfl
  · split
    · rfl
    · extract_lets s1 s2 s3 s4 s5 busy
      have s5_fates : s5.fates = s.fates := by
        refine (State.abortStreams_fates ..).trans ((State.event_fates ..).trans ((State.discardShadow_fates ..).trans ?_))
        refine (State.updCtx_fates _ x ?_).trans ((State.updCtx_fates _ x ?_).trans (s.updJob_fates ..))
        · exact fun _ => rfl
        · exact fun _ => rfl
      split
      · exact s5_fates
      · exact (State.updJob_fates ..).trans s5_fates

@[simp] theorem State.leadAbort_fates (s : State) (x n cause : Nat) : (s.leadAbort x n cause).fates = s.fates := by
  unfold State.leadAbort
  dsimp only
  repeat' split
  · rfl
  · rfl
  · exact (State.abortStep_fates ..).trans ((State.updJob_fates ..).trans (fates_forL (fun r s => s.jobMsg_fates ..) ..))

@[simp] theorem State.failStep_fates (s : State) (x n cause epoch : Nat) : (s.failStep x n cause epoch).fates = s.fates := by
  unfold State.failStep
  extract_lets j out breach own s1 s2
  have s2_fates : s2.fates = s.fates := by
    unfold s2
    split
    · exact (fates_forL (fun d s => s.jobMsg_fates ..) ..).trans (s.updJob_fates ..)
    · exact s.updJob_fates ..
  repeat' split
  · rfl
  · rfl
  · exact (State.leadAbort_fates ..).trans s2_fates
  · exact (State.abortStep_fates ..).trans ((State.jobMsg_fates ..).trans s2_fates)

@[simp] theorem State.failStream_fates (s : State) (x slot status : Nat) : (s.failStream x slot status).fates = s.fates := by
  unfold State.failStream
  split
  · exact (State.failStep_fates ..).trans (State.endStream_fates ..)
  · rfl

@[simp] theorem State.taintFrom_fates (s : State) (x from_ : Nat) : (s.taintFrom x from_).fates = s.fates :=
  fates_forL (fun n s => s.updJob_fates ..) ..

@[simp] theorem State.failSlot_fates (s : State) (x slot status : Nat) : (s.failSlot x slot status).fates = s.fates := s.updStream_fates ..

@[simp] theorem State.abortColls_fates (s : State) (f : Nat → Bool) : (s.abortColls f).fates = s.fates :=
  fates_forL (f := fun (o : CollOp) s => ((s.endColl o).failSlot o.ctx o.slot St.fencedAbort).taintFrom o.ctx o.started)
    (fun o s => (State.taintFrom_fates ..).trans (State.failSlot_fates ..)) ..

@[simp] theorem State.abortLoads_fates (s : State) (f : Nat → Bool) : (s.abortLoads f).fates = s.fates :=
  fates_forL (f := fun (l : Load) s => (s.failSlot l.ctx l.slot St.fencedAbort).taintFrom l.ctx l.started)
    (fun l s => (State.taintFrom_fates ..).trans (State.failSlot_fates ..)) ..

@[simp] theorem State.abortMirror_fates (s : State) (f : Nat → Bool) : (s.abortMirror f).fates = s.fates := by
  refine fates_forL (fun x s => ?_) ..
  exact (State.updJob_fates ..).trans ((State.updJob_fates ..).trans (fates_forL (fun t s => s.failStep_fates ..) ..))

@[simp] theorem State.abortShared_fates (s : State) (f : Nat → Bool) : (s.abortShared f).fates = s.fates := by
  simp [State.abortShared]

@[simp] theorem State.closeChecks_fates (s : State) (c : Core) : (s.closeChecks c).fates = s.fates := by
  refine fates_forL (fun e s => ?_) ..
  cases e.1 with
  | none => rfl
  | some x => exact s.updJob_fates ..

@[simp] theorem State.failOnCore_fates (s : State) (k : Nat) (ctx : Option Nat) (status : Nat) : (s.failOnCore k ctx status).fates = s.fates := by
  unfold State.failOnCore
  repeat' split
  · rfl
  · exact State.failSlot_fates ..
  · rfl

@[simp] theorem State.abortCore_fates (s : State) (only : Option Nat) (k : Nat) : (s.abortCore only k).fates = s.fates := by
  unfold State.abortCore
  extract_lets c ctxs mine cleared s1 s2
  have s1_fates : s1.fates = s.fates := State.closeChecks_fates ..
  have s2_fates : s2.fates = s.fates := by
    unfold s2
    split
    · exact s1_fates
    · exact (fates_forL (fun x s => (State.taintFrom_fates ..).trans (State.failOnCore_fates ..)) ..).trans s1_fates
  split
  · rfl
  · refine (fates_forL (fun w s => ?_) ..).trans s2_fates
    unfold State.failWork
    split
    · exact State.failSlot_fates ..
    · rfl

/-- A fence of a context that is not FREE makes it FENCED; no other changes. -/
theorem State.fenceCtx_fates (s : State) (x : Nat) :
    (s.fenceCtx x).fates = fun y => if y = x ∧ s.fates x ≠ .free then .fenced else s.fates y := by
  unfold State.fenceCtx
  extract_lets c s1 s2 s3 s4 drop s5
  have s1_fates : s1.fates = fun y => if y = x then .fenced else s.fates y := s.setCtx_fates_eq x _
  clear_value s1
  have s2_fates : s2.fates = s1.fates := fates_forL (fun k s => s.abortCore_fates ..) ..
  have s3_fates : s3.fates = s1.fates := (State.abortShared_fates ..).trans s2_fates
  clear_value s3
  have s4_fates : s4.fates = s1.fates := (fates_forL (fun (j : CaddyJob) s => s.taintFrom_fates x j.started) ..).trans s3_fates
  have s5_fates : s5.fates = s1.fates := (State.discardShadow_fates ..).trans s4_fates
  clear_value s5
  split
  · next ended =>
    have stands : s.fates x = .free ∨ s.fates x = .fenced := by simpa [State.fates, c] using ended
    funext y
    split
    · next fenced =>
      obtain ⟨rfl, used⟩ := fenced
      exact stands.resolve_left used
    · rfl
  · next running =>
    have used : s.fates x ≠ .free := by
      intro free
      have free : (s.ctx x).state = .free := free
      exact running (by simp [c, free])
    refine Eq.trans ?_ (s1_fates.trans (by simp [used]))
    refine (fates_forL (fun slot s => ?_) ..).trans s5_fates
    repeat' split
    · exact (State.updStream_fates ..).trans (State.failStream_fates ..)
    · rfl
    · rfl

/-! ### Function level resets and the hot reset (R773, R778, R779) -/

theorem State.fences_fates (l : List Nat) (s : State) :
    (forL l (fun x s => s.fenceCtx x) s).fates = fun y => if y ∈ l ∧ s.fates y ≠ .free then .fenced else s.fates y := by
  induction l generalizing s with
  | nil => simp [forL]
  | cons x l ih =>
    refine (ih (s.fenceCtx x)).trans (funext fun y => ?_)
    simp only [State.fenceCtx_fates, List.mem_cons]
    by_cases here : y = x <;> by_cases free : s.fates y = .free <;> simp_all

theorem State.resetMailbox_ctxs (s : State) (mb : Nat) : (s.resetMailbox mb).ctxs = s.ctxs := by
  unfold State.resetMailbox
  dsimp only
  rw [State.setMailbox_ctxs]
  rfl

theorem State.resetMailboxes_fates (s : State) (x : Nat) : (s.resetMailboxes x).fates = s.fates := by
  unfold State.resetMailboxes
  exact fates_forL (fun j s => fates_of_ctxs (s.resetMailbox_ctxs _)) ..

theorem State.hostReset_fates (s : State) : s.hostReset.fates = fun y => if y < 8 ∧ s.fates y ≠ .free then .fenced else s.fates y := by
  unfold State.hostReset
  extract_lets fenced cleared
  have fenced_fates : fenced.fates = fun y => if y < 8 ∧ s.fates y ≠ .free then .fenced else s.fates y :=
    (State.fences_fates (List.range 8) s).trans (by simp only [List.mem_range])
  clear_value fenced
  have cleared_fates : cleared.fates = fenced.fates := fates_forL (fun x s => s.resetMailboxes_fates x) ..
  clear_value cleared
  refine Eq.trans ?_ (cleared_fates.trans fenced_fates)
  rfl

theorem State.hostReset_ends (s : State) {x : Nat} (below : x < 8) :
    (s.hostReset.ctx x).state = .free ∨ (s.hostReset.ctx x).state = .fenced := by
  change s.hostReset.fates x = .free ∨ s.hostReset.fates x = .fenced
  rw [State.hostReset_fates]
  by_cases free : s.fates x = .free <;> simp [below, free]

/-! ### The warm module reset (R324, R675, R791) -/

theorem Tbl.get_map {κ α β : Type} [DecidableEq κ] (t : Tbl κ α) (f : α → β) (d : α) (k : κ) :
    Tbl.get (t.map fun e => (e.1, f e.2)) (f d) k = f (t.get d k) := by
  induction t with
  | nil => rfl
  | cons e t ih =>
    obtain ⟨key, v⟩ := e
    simp only [List.map_cons, Tbl.get]
    split
    · rfl
    · exact ih

theorem cellAt_filter (p : Nat → Bool) (cells : List Host.Cell) (a : Nat) :
    cellAt (cells.filter fun c => p c.1) a = if p a then cellAt cells a else 0#8 := by
  induction cells with
  | nil => simp [cellAt]
  | cons c cells ih =>
    obtain ⟨at_, b⟩ := c
    by_cases here : at_ = a
    · subst here
      by_cases kept : p at_ <;> simp [cellAt, ih, kept]
    · by_cases kept : p at_ <;> simp [cellAt, ih, kept, here]

theorem Mem.slowOnly_byte (m : Mem) (a : Nat) : m.slowOnly.byte a = if ownBase ≤ a then m.byte a else 0#8 := by
  simpa [Mem.byte, Mem.slowOnly] using cellAt_filter (fun a => decide (ownBase ≤ a)) m.cells a

theorem State.warmReset_region (s : State) (service : Bool) (g : Nat) : (s.warmReset service).region g = (s.region g).restored :=
  Tbl.get_map s.power.regions Region.restored {} g

theorem State.warmReset_ctx (s : State) (service : Bool) (x : Nat) : (s.warmReset service).ctx x = { jobs := (s.ctx x).jobs } :=
  Tbl.get_map s.ctxs (fun c : Ctx => ({ jobs := c.jobs } : Ctx)) {} x

/-- What a warm module reset keeps and clears. -/
theorem State.warmReset_keeps (s : State) (service : Bool) : let t := s.warmReset service
    (∀ a, ownBase ≤ a → t.mem.space.byte a = s.mem.space.byte a) ∧ (∀ a, a < ownBase → t.mem.space.byte a = 0#8) ∧
    t.steep.count = s.steep.count ∧ t.steep.currentQ = 4 ∧ t.steep.nextQ = 4 ∧ t.pending = s.pending ∧ t.trust.banks = s.trust.banks ∧
    t.faults.limits = s.faults.limits ∧ (∀ g, (t.region g).set_ = (s.region g).set_) ∧ t.power.tripSeen = s.power.tripSeen ∧
    t.host.alertFa = s.host.alertFa ∧ (∀ x, (t.ctx x).state = .free) ∧
    (∀ m, (t.mailbox m).free = 16 ∧ (t.mailbox m).pending = 0) ∧ (∀ u, (t.unit u).fence = none) ∧
    (∀ k, (t.core k).store.cells = [] ∧ (t.core k).vec.vl = 64 ∧ (t.core k).tile = none) := by
  refine ⟨fun a slow => (s.mem.space.slowOnly_byte a).trans (if_pos slow),
    fun a fast => (s.mem.space.slowOnly_byte a).trans (if_neg (Nat.not_le.mpr fast)), rfl, rfl, rfl, rfl, rfl, rfl, fun g => ?_, rfl, rfl, fun x => ?_,
    fun _ => ⟨rfl, rfl⟩, fun _ => rfl, fun _ => ⟨rfl, rfl, rfl⟩⟩
  · rw [State.warmReset_region]
    rfl
  · rw [State.warmReset_ctx]

/-! ### The events of the host interface -/

theorem execFlrVf_eq {s : State} {fn : Nat} (vf : 1 ≤ fn) (last : fn ≤ 8) (lit : s.dark = false) :
    let t := (s.fenceCtx (fn - 1)).resetMailboxes (fn - 1)
    execFlrVf fn s = .next { t with host := { t.host.clearFn fn with
      flr := if t.host.flr.contains fn then t.host.flr else t.host.flr ++ [fn], flrs := satN 16 (t.host.flrs + 1) } } := by
  have served : ¬(decide (fn = 0) || decide (8 < fn) || s.dark) = true := by
    simp only [lit, Bool.or_false, Bool.or_eq_true, decide_eq_true_eq]
    omega
  exact if_neg served

theorem execHostLinkReturn_eq {s : State} {speed width : Nat} (flit : Bool) (lit : s.dark = false) (least : 1 ≤ speed) (most : speed ≤ 7)
    (wide : width ∈ [1, 2, 4, 8, 16]) : execHostLinkReturn speed width flit s = .next { s with host := { s.host with
      linkDown := false, speed := speed, width := width, flit := flit } } := by
  refine if_neg ?_
  simp only [lit, List.contains_iff_mem.mpr wide, Bool.false_or, Bool.not_true, Bool.or_false, Bool.or_eq_true, decide_eq_true_eq]
  omega

theorem execFlrComplete_eq {s : State} {fn : Nat} (up : fn ≠ 0 ∨ s.host.linkDown = false) :
    execFlrComplete fn s = .next { s with host := { s.host with flr := s.host.flr.filter fun f => f ≠ fn } } := by
  refine if_neg ?_
  rcases up with vf | up
  · simp [vf]
  · simp [up]

theorem execHostDmaFault_eq {s : State} {ctx fn addr kind code : Nat} {write : Bool} (named : ctx < 8) (served : fn ≤ 8) (least : 1 ≤ kind)
    (most : kind ≤ 4) : execHostDmaFault ctx fn addr kind write code s = .next (({ s with host := { s.host with
      dmaErrors := satN 16 (s.host.dmaErrors + 1) } }).raise {
        code := 0x0C00, cls := .uc, ctx := some ctx, a := BitVec.ofNat 64 addr
        b := mkWord [(0, 4, fn), (4, 4, kind), (8, 1, b2n write), (16, 16, code)] }) := by
  refine if_neg ?_
  simp only [Bool.or_eq_true, decide_eq_true_eq]
  omega

theorem execModResetNRelease_eq {s : State} (held : s.host.resetHeld = true) :
    (s.power.off = false → s.power.refLost = false →
      execModResetNRelease s = .next ({ s with host := { s.host with resetHeld := false } } : State).bootUp) ∧
    (s.power.off = true ∨ s.power.refLost = true →
      execModResetNRelease s = .next { s with host := { s.host with resetHeld := false } }) := by
  refine ⟨fun on clocked => ?_, fun held_down => ?_⟩
  · simp [execModResetNRelease, held, on, clocked]
  · simp [execModResetNRelease, held, held_down]

/-- Settles O38: each event by its own equation; the contexts after a reset of the physical function by
`State.hostReset_ends`, the warm module reset by `State.warmReset_keeps`. -/
theorem hostFunctionsAndResetSignals : Obligations.HostFunctionsAndResetSignals := by
  refine ⟨fun s fn vf last lit => execFlrVf_eq vf last lit, fun s lit => ?_, fun s speed width flit => execHostLinkReturn_eq flit,
    fun s fn => execFlrComplete_eq, fun s => ⟨rfl, rfl, rfl⟩, fun s num on few => if_neg (Nat.not_lt.mpr few),
    fun s ctx fn addr kind code write => execHostDmaFault_eq, fun s => execModResetNRelease_eq, State.warmReset_keeps⟩
  have flr : exec .flrPf s = _ := if_neg (by simp [lit])
  have hot : exec .hotReset s = _ := if_neg (by simp [lit])
  exact ⟨rfl, rfl, rfl, rfl, rfl, rfl, rfl, rfl, fun x => s.hostReset_ends, flr, hot⟩

end Sys2Proof.Machine
end

section
/-! SUPPORT. Proofs/Contexts.lean: fields of operand words; the commands of contexts and die schedules (R300, R407 to R426). -/
namespace Sys2Proof.Machine

/-! ### Fields of a word that is made of fields -/

theorem fld_or (a b : W64) (hi lo : Nat) : fld (a ||| b) hi lo = fld a hi lo ||| fld b hi lo := by
  refine Nat.eq_of_testBit_eq fun i => ?_
  simp only [fld, BitVec.toNat_or, Nat.testBit_mod_two_pow, Nat.testBit_div_two_pow, Nat.testBit_or]
  cases decide (i < hi + 1 - lo) <;> simp

@[simp] theorem fld_mkWord_nil (hi lo : Nat) : fld (mkWord []) hi lo = 0 := by simp [fld, mkWord]

/-- A part of a word below or above a field leaves the field. -/
@[simp] theorem fld_mkWord_apart {lo width v hi at_ : Nat} {rest : List (Nat × Nat × Nat)} (apart : lo + width ≤ at_ ∨ hi < lo) :
    fld (mkWord ((lo, width, v) :: rest)) hi at_ = fld (mkWord rest) hi at_ := by
  rw [mkWord, fld_or]
  suffices beside : fld (BitVec.ofNat 64 (v % 2 ^ width * 2 ^ lo)) hi at_ = 0 by rw [beside, Nat.zero_or]
  refine Nat.eq_of_testBit_eq fun i => ?_
  simp only [fld, BitVec.toNat_ofNat, Nat.testBit_mod_two_pow, Nat.testBit_div_two_pow, Nat.testBit_mul_two_pow, Nat.zero_testBit,
    Bool.and_eq_false_iff, decide_eq_false_iff_not]
  omega

@[simp] theorem fld_mkWord_part {lo width v hi : Nat} {rest : List (Nat × Nat × Nat)} (top : hi + 1 = lo + width) (fits : lo + width ≤ 64) :
    fld (mkWord ((lo, width, v) :: rest)) hi lo = v % 2 ^ width ||| fld (mkWord rest) hi lo := by
  rw [mkWord, fld_or]
  congr 1
  refine Nat.eq_of_testBit_eq fun i => ?_
  simp only [fld, BitVec.toNat_ofNat, Nat.testBit_mod_two_pow, Nat.testBit_div_two_pow, Nat.testBit_mul_two_pow, top, Nat.add_sub_cancel_left,
    Nat.add_sub_cancel, Nat.le_add_left, decide_true, Bool.true_and]
  by_cases below : i < width
  · simp [below, show i + lo < 64 by omega]
  · simp [below]

theorem fld_ofNat_low {n hi : Nat} (below : n < 2 ^ (hi + 1)) (top : hi < 64) : fld (BitVec.ofNat 64 n) hi 0 = n := by
  have word : n < 2 ^ 64 := Nat.lt_of_lt_of_le below (Nat.pow_le_pow_right (by decide) top)
  simp only [fld, BitVec.toNat_ofNat, Nat.pow_zero, Nat.div_one, Nat.sub_zero, Nat.mod_eq_of_lt word, Nat.mod_eq_of_lt below]

theorem fld_ofNat_high {n hi lo : Nat} (below : n < 2 ^ lo) : fld (BitVec.ofNat 64 n) hi lo = 0 := by
  have word : n % 2 ^ 64 < 2 ^ lo := Nat.lt_of_le_of_lt (Nat.mod_le _ _) below
  simp only [fld, BitVec.toNat_ofNat, Nat.div_eq_of_lt word, Nat.zero_mod]

/-! ### Contexts and die schedules (R300, R407 to R426) -/

section
variable (s : State) (r : Req)

@[simp] theorem State.taken_isAdmin (mb : Nat) : (s.taken r).isAdmin mb = s.isAdmin mb := by
  obtain ⟨pools, taken⟩ := s.taken_eq r
  rw [taken]
  rfl

@[simp] theorem State.taken_ctxStateWord (x : Nat) : (s.taken r).ctxStateWord x = s.ctxStateWord x := by
  obtain ⟨pools, taken⟩ := s.taken_eq r
  rw [taken]
  rfl

@[simp] theorem State.taken_windowsOk (x fb fp sb sg : Nat) : (s.taken r).windowsOk x fb fp sb sg = s.windowsOk x fb fp sb sg := by
  obtain ⟨pools, taken⟩ := s.taken_eq r
  rw [taken]
  rfl

@[simp] theorem State.taken_dieConflict (x mask : Nat) : (s.taken r).dieConflict x mask = s.dieConflict x mask := by
  obtain ⟨pools, taken⟩ := s.taken_eq r
  rw [taken]
  rfl

@[simp] theorem State.taken_rotation (d : Nat) : (s.taken r).rotation d = s.rotation d := by
  obtain ⟨pools, taken⟩ := s.taken_eq r
  rw [taken]
  rfl

@[simp] theorem State.taken_rotations : (s.taken r).rotations = s.rotations := by
  obtain ⟨pools, taken⟩ := s.taken_eq r
  rw [taken]

@[simp] theorem State.taken_scheduleClash (d : Nat) (es : List (Nat × Nat)) : (s.taken r).scheduleClash d es = s.scheduleClash d es := by
  obtain ⟨pools, taken⟩ := s.taken_eq r
  rw [taken]
  rfl

@[simp] theorem State.taken_saveAreaShort (es : List (Nat × Nat)) : (s.taken r).saveAreaShort es = s.saveAreaShort es := by
  obtain ⟨pools, taken⟩ := s.taken_eq r
  rw [taken]
  rfl

end

section
variable {s : State} {r : Req}

theorem exec_contextInfo_of_asked {u : UnitId} {x : Nat} (asked : s.asked r 0x0014 false anyClass u = true) (below : x < 8)
    (args : reqArgs r 0x0014 = [BitVec.ofNat 64 x]) :
    exec (.contextInfo r) s = if s.isAdmin r.mb = true ∨ r.mb / 4 = x then
        answered r 0x0014 St.ok [s.ctxStateWord x, (s.ctx x).windowWord] (s.taken r)
      else answered r 0x0014 St.badContext [] (s.taken r) := by
  have named : fld (BitVec.ofNat 64 x) 2 0 = x := fld_ofNat_low below (by decide)
  have rest : fld (BitVec.ofNat 64 x) 63 3 = 0 := fld_ofNat_high below
  split
  · next own =>
    refine exec_of_asked asked _ ?_
    obtain physical | own := own
    · simp [reqOf, KReq.arg, args, named, rest, physical]
    · simp [reqOf, KReq.arg, args, named, rest, own]
  · next other =>
    refine exec_of_asked asked _ ?_
    obtain ⟨guest, apart⟩ := not_or.mp other
    simp [reqOf, KReq.arg, args, named, rest, guest, apart, done]

/-- The operand words of CONTEXT_CREATE (R407). -/
def createWord (x mask fp fb sg : Nat) : W64 := mkWord [(0, 3, x), (8, 8, mask), (16, 19, fp), (35, 19, fb), (54, 10, sg)]

/-- The context that CONTEXT_CREATE makes of a FREE one (R407, R408): its windows come with the next boundary. -/
def Ctx.created (c : Ctx) (mask fb fp sb sg : Nat) (job : W64) : Ctx := {
  state := .stopped, dieMask := mask, fastBase := c.fastBase, fastPages := c.fastPages, slowBase := c.slowBase
  slowGib := c.slowGib, windowDue := some (fb, fp, sb, sg), jobId := job, jobs := (c.jobs + 1) % 2 ^ 32
  held := c.held, ratio := c.ratio, window := c.window
  eventVectorEn := c.eventVectorEn, eventVector := c.eventVector }

theorem exec_contextCreate_of_asked {x mask fp fb sg sb : Nat} {job : W64} (asked : s.asked r 0x0010 false adminClass .module = true) (below : x < 8)
    (dies : mask < 256) (some_ : 0 < mask) (fastPages : fp < 2 ^ 19) (fastBase : fb < 2 ^ 19) (slowGib : sg ≤ 512) (slowBase : sb < 512)
    (args : reqArgs r 0x0010 = [createWord x mask fp fb sg, BitVec.ofNat 64 sb, job])
    (serving : s.faults.outOfService = false) :
    ((s.ctx x).state = .free → s.windowsOk x fb fp sb sg = true → s.dieConflict x mask = false →
      ∃ c : Ctx, exec (.contextCreate r) s = answered r 0x0010 St.ok [] ((s.taken r).setCtx x c) ∧
        c.state = .stopped ∧ c.dieMask = mask ∧ c.windowDue = some (fb, fp, sb, sg) ∧ c.jobId = job ∧
        c.jobs = ((s.ctx x).jobs + 1) % 2 ^ 32 ∧ c.slots = [] ∧ c.due = none ∧
        (c.fastBase, c.fastPages, c.slowBase, c.slowGib) = ((s.ctx x).fastBase, (s.ctx x).fastPages, (s.ctx x).slowBase, (s.ctx x).slowGib)) ∧
    ((s.ctx x).state ≠ .free → exec (.contextCreate r) s = answered r 0x0010 St.badContext [] (s.taken r)) ∧
    ((s.ctx x).state = .free → s.windowsOk x fb fp sb sg = false →
      exec (.contextCreate r) s = answered r 0x0010 St.noResource [] (s.taken r)) ∧
    ((s.ctx x).state = .free → s.windowsOk x fb fp sb sg = true → s.dieConflict x mask = true →
      exec (.contextCreate r) s = answered r 0x0010 St.scheduleConflict [] (s.taken r)) := by
  have fields : fld (createWord x mask fp fb sg) 2 0 = x ∧ fld (createWord x mask fp fb sg) 15 8 = mask ∧
      fld (createWord x mask fp fb sg) 34 16 = fp ∧ fld (createWord x mask fp fb sg) 53 35 = fb ∧ fld (createWord x mask fp fb sg) 63 54 = sg ∧
      fld (createWord x mask fp fb sg) 7 3 = 0 := by
    simp only [createWord]
    simp
    omega
  obtain ⟨name, mask_, pages, base, gib, zero⟩ := fields
  have slow : fld (BitVec.ofNat 64 sb) 8 0 = sb := fld_ofNat_low slowBase (by decide)
  have slow_rest : fld (BitVec.ofNat 64 sb) 63 9 = 0 := fld_ofNat_high slowBase
  have legal : ¬ mask = 0 := by omega
  have short : ¬ 512 < sg := by omega
  refine ⟨fun free apart alone => ⟨(s.ctx x).created mask fb fp sb sg job, exec_of_asked asked _ ?_, ?_⟩, fun used => exec_of_asked asked _ ?_, fun free clash => exec_of_asked asked _ ?_,
    fun free apart clash => exec_of_asked asked _ ?_⟩
  · simp [reqOf, KReq.arg, args, name, mask_, pages, base, gib, zero, slow, slow_rest, legal, short, serving, free, apart, alone, done, Ctx.created]
  · exact ⟨rfl, rfl, rfl, rfl, rfl, rfl, rfl, rfl⟩
  · simp [reqOf, KReq.arg, args, name, mask_, pages, base, gib, zero, slow, slow_rest, legal, short, serving, used, done]
  · simp [reqOf, KReq.arg, args, name, mask_, pages, base, gib, zero, slow, slow_rest, legal, short, serving, free, clash, done]
  · simp [reqOf, KReq.arg, args, name, mask_, pages, base, gib, zero, slow, slow_rest, legal, short, serving, free, apart, clash, done]

theorem exec_contextPartition_of_asked {x mask : Nat} (asked : s.asked r 0x0012 false adminClass .module = true) (below : x < 8)
    (dies : mask < 256) (some_ : 0 < mask) (args : reqArgs r 0x0012 = [mkWord [(0, 3, x), (8, 8, mask)]]) (used : (s.ctx x).state ≠ .free) :
    ((s.ctx x).busy = false → s.dieConflict x mask = false → (∀ d, (s.rotation d).entries = []) →
      exec (.contextPartition r) s = answered r 0x0012 St.accepted [] ((s.taken r).updCtx x fun c => { c with
        maskDue := some (mask, (reqOf r 0x0012 .module).ref) })) ∧
    ((s.ctx x).busy = true → exec (.contextPartition r) s = answered r 0x0012 St.busy [] (s.taken r)) ∧
    ((s.ctx x).busy = false → s.dieConflict x mask = true →
      exec (.contextPartition r) s = answered r 0x0012 St.scheduleConflict [] (s.taken r)) := by
  have name : x % 8 = x := Nat.mod_eq_of_lt below
  have mask_ : mask % 256 = mask := Nat.mod_eq_of_lt dies
  have legal : ¬ mask = 0 := by omega
  refine ⟨fun idle alone whole => exec_of_asked asked _ ?_, fun busy => exec_of_asked asked _ ?_, fun idle clash => exec_of_asked asked _ ?_⟩
  · simp [reqOf, KReq.arg, args, name, mask_, legal, used, idle, alone, whole, done]
  · simp [reqOf, KReq.arg, args, name, mask_, legal, used, busy, done]
  · simp [reqOf, KReq.arg, args, name, mask_, legal, used, idle, clash, done]

/-- The operand words of DIE_SCHEDULE for entries of a context and a count of steeps (R300). -/
theorem scheduleEntries {es : List (Nat × Nat)} (legal : ∀ e ∈ es, e.1 < 8 ∧ 0 < e.2 ∧ e.2 < 256) :
    ((es.map fun e => mkWord [(0, 3, e.1), (8, 8, e.2)]).map fun w => (fld w 2 0, fld w 15 8)) = es ∧
    (es.map fun e => mkWord [(0, 3, e.1), (8, 8, e.2)]).any (fun w => fld w 7 3 ≠ 0 || fld w 63 16 ≠ 0 || fld w 15 8 = 0) = false := by
  induction es with
  | nil => exact ⟨rfl, rfl⟩
  | cons e es ih =>
    obtain ⟨entries, clear⟩ := ih fun f listed => legal f (List.mem_cons_of_mem _ listed)
    obtain ⟨named, some_, few⟩ := legal e List.mem_cons_self
    have count : ¬ e.2 = 0 := by omega
    simp only [List.map_cons, entries, List.any_cons, clear]
    simp [Nat.mod_eq_of_lt named, Nat.mod_eq_of_lt few, count]

theorem exec_dieSchedule_of_asked {d : Nat} {es : List (Nat × Nat)} (asked : s.asked r 0x0013 false adminClass .module = true) (below : d < 8)
    (some_ : es ≠ []) (few : es.length ≤ 8) (legal : ∀ e ∈ es, e.1 < 8 ∧ 0 < e.2 ∧ e.2 < 256)
    (args : reqArgs r 0x0013 = mkWord [(0, 3, d), (8, 4, es.length)] :: es.map (fun e => mkWord [(0, 3, e.1), (8, 8, e.2)]))
    (used : ∀ e ∈ es, (s.ctx e.1).state ≠ .free) :
    ((∀ e ∈ es, Nat.testBit (s.ctx e.1).dieMask d = true) → s.scheduleClash d es = false → s.saveAreaShort es = false →
      exec (.dieSchedule r) s = answered r 0x0013 St.accepted [] { s.taken r with
        rotations := s.rotations.set d { s.rotation d with due := some (es, (reqOf r 0x0013 .module).ref) } }) ∧
    ((∃ e ∈ es, Nat.testBit (s.ctx e.1).dieMask d = false) ∨ s.scheduleClash d es = true →
      exec (.dieSchedule r) s = answered r 0x0013 St.scheduleConflict [] (s.taken r)) ∧
    ((∀ e ∈ es, Nat.testBit (s.ctx e.1).dieMask d = true) → s.scheduleClash d es = false → s.saveAreaShort es = true →
      exec (.dieSchedule r) s = answered r 0x0013 St.noResource [] (s.taken r)) := by
  obtain ⟨entries, clear⟩ := scheduleEntries legal
  have name : d % 8 = d := Nat.mod_eq_of_lt below
  have count : es.length % 16 = es.length := Nat.mod_eq_of_lt (by omega)
  have positive : ¬ es.length = 0 := by simpa using some_
  have most : ¬ 8 < es.length := by omega
  have held : es.any (fun e => (s.ctx e.1).state == .free) = false := by simpa using used
  have exec_eq (t : State) (st : Nat) (rest : (if es.any (fun e => !(Nat.testBit (s.ctx e.1).dieMask d)) then done (s.taken r) St.scheduleConflict
      else if s.scheduleClash d es then done (s.taken r) St.scheduleConflict
      else if s.saveAreaShort es then done (s.taken r) St.noResource
      else done { s.taken r with
        rotations := s.rotations.set d { s.rotation d with due := some (es, (reqOf r 0x0013 .module).ref) } } St.accepted) = (t, some (st, []))) :
      exec (.dieSchedule r) s = answered r 0x0013 st [] t := by
    refine exec_of_asked asked _ (Eq.trans ?_ rest)
    have word : fld (mkWord [(0, 3, d), (8, 4, es.length)]) 2 0 = d := by simp [name]
    simp only [reqOf, KReq.arg, args, List.getD_cons_zero, List.drop_succ_cons, List.drop_zero, entries, clear, word, State.taken_ctx,
      State.taken_rotation, State.taken_rotations]
    simp [count, positive, most, held]
  refine ⟨fun shared apart long => exec_eq _ _ ?_, fun clash => exec_eq _ _ ?_, fun shared apart short => exec_eq _ _ ?_⟩
  · have all : es.any (fun e => !(Nat.testBit (s.ctx e.1).dieMask d)) = false := by simpa using shared
    simp [all, apart, long, done]
  · obtain missing | clash := clash
    · have some_ : es.any (fun e => !(Nat.testBit (s.ctx e.1).dieMask d)) = true := by simpa using missing
      simp [some_, done]
    · simp [clash, done]
  · have all : es.any (fun e => !(Nat.testBit (s.ctx e.1).dieMask d)) = false := by simpa using shared
    simp [all, apart, short, done]

end

/-! ### CONTEXT_DESTROY (R410, R411) -/

/-- What the requests and completions of mailboxes leave: the contexts, the memory unit, the slots' queues and all of pool 1. -/
def State.aside (s : State) : Tbl Nat Ctx × MemUnit × (Nat → Queue) × Pool := (s.ctxs, s.mem, fun n => s.queue 0 (0x140 + n), s.pool 1)

theorem State.aside_mk {s t : State} (ctxs : t.ctxs = s.ctxs) (mem : t.mem = s.mem) (queues : ∀ n, t.queue 0 (0x140 + n) = s.queue 0 (0x140 + n))
    (pool : t.pool 1 = s.pool 1) : t.aside = s.aside := by
  simp only [State.aside, ctxs, mem, queues, pool]

theorem State.takeOldest_aside (s : State) {qid : Nat} (mailbox : qid < 0x140) : (s.takeOldest 0 qid).aside = s.aside := by
  refine State.aside_mk ?_ (s.takeOldest_mem ..) (fun n => s.takeOldest_queue_ne (by omega)) ?_
  · obtain ⟨pools, taken⟩ := s.takeOldest_eq 0 qid
    rw [taken]
  · unfold State.takeOldest
    split
    · rfl
    · exact State.pool_setPool_ne _ _ (by decide)

theorem State.put_aside {s t : State} {qid ty : Nat} {ctx : Option Nat} {ws : List W64} (mailbox : qid < 0x140)
    (put : s.put 0 qid ctx ty ws = some t) : t.aside = s.aside := by
  refine State.aside_mk (State.put_ctxs put) (State.put_mem put) (fun n => State.put_queue_ne put (by omega)) ?_
  obtain ⟨host, out, rfl⟩ := State.put_eq put
  exact State.pool_setPool_ne (n := 0) (m := 1) s _ (by decide)

theorem State.complete_aside (s : State) {mb : Nat} (mailbox : mb < 32) (code tag status : Nat) (reply : List W64) :
    (s.complete mb code tag status reply).aside = s.aside := by
  simp only [State.complete, State.settleRequest]
  split
  · rfl
  · cases written : State.putCompletion _ mb (s.completionWords code tag status reply) with
    | none => rfl
    | some t =>
      obtain ⟨u, put, rfl⟩ := Option.map_eq_some_iff.mp written
      have kept := State.put_aside (by omega) put
      exact kept

theorem undefinedLoop_aside (fuel : Nat) {mb : Nat} (mailbox : mb < 32) (s : State) : (undefinedLoop fuel mb s).aside = s.aside := by
  induction fuel generalizing s with
  | zero => rfl
  | succ fuel ih =>
    unfold undefinedLoop
    dsimp only
    repeat' split
    · rfl
    · rfl
    · rfl
    · exact (ih _).trans ((State.complete_aside _ mailbox ..).trans (s.takeOldest_aside (by omega)))

/-- A reset queue is empty, and no other changes. -/
theorem State.resetQueue_packets (s : State) (pool qid pool' qid' : Nat) : ((s.resetQueue pool qid).queue pool' qid').packets =
    if pool' = pool ∧ qid' = qid then [] else (s.queue pool' qid').packets := by
  change (((s.setPool pool ((s.pool pool).resetQueue qid)).pool pool').queue qid').packets = _
  by_cases pools : pool' = pool
  · subst pools
    rw [State.pool_setPool]
    by_cases queues : qid' = qid
    · subst queues
      rw [if_pos ⟨rfl, rfl⟩]
      exact congrArg Queue.packets (Pool.queue_setQueue ..)
    · rw [if_neg fun both => queues both.2]
      exact congrArg Queue.packets (Pool.queue_setQueue_ne _ _ (Ne.symm queues))
  · rw [State.pool_setPool_ne _ _ (Ne.symm pools), if_neg fun both => pools both.1]
    rfl

theorem State.resetQueue_aside (s : State) {qid : Nat} (mailbox : qid < 0x140) : (s.resetQueue 0 qid).aside = s.aside :=
  State.aside_mk rfl rfl (fun n => s.resetQueue_queue_ne (by omega)) (State.pool_setPool_ne s _ (by decide))

theorem State.resetMailbox_aside (s : State) {mb : Nat} (mailbox : mb < 32) : (s.resetMailbox mb).aside = s.aside := by
  unfold State.resetMailbox
  extract_lets m reqs fanned unwritten queues fans all
  have queues_aside : queues.aside = s.aside := (State.resetQueue_aside _ (by omega)).trans (s.resetQueue_aside (by omega))
  exact queues_aside

theorem aside_forL {α : Type} {l : List α} {f : α → State → State} (each : ∀ a ∈ l, ∀ s, (f a s).aside = s.aside) (s : State) :
    (forL l f s).aside = s.aside := by
  induction l generalizing s with
  | nil => rfl
  | cons a l ih => exact (ih (fun b listed => each b (List.mem_cons_of_mem _ listed)) _).trans (each a List.mem_cons_self s)

/-- Each slot queue of the context is reset in turn, so all are empty after it. -/
theorem State.resetCtxQueues_packets (s : State) (x : Nat) {slot : Nat} (below : slot < 16) :
    ((s.resetCtxQueues x).queue (slotQueue x slot).1 (slotQueue x slot).2).packets = [] := by
  have reset (l : List Nat) (s : State) (due : slot ∈ l ∨ (s.queue (slotQueue x slot).1 (slotQueue x slot).2).packets = []) :
      ((forL l (fun slot s => s.resetQueue (slotQueue x slot).1 (slotQueue x slot).2) s).queue (slotQueue x slot).1 (slotQueue x slot).2).packets = [] := by
    induction l generalizing s with
    | nil => exact due.resolve_left List.not_mem_nil
    | cons a l ih =>
      refine ih _ ?_
      rw [State.resetQueue_packets]
      obtain listed | empty := due
      · obtain rfl | later := List.mem_cons.mp listed
        · simp
        · exact .inl later
      · simp [empty]
  unfold State.resetCtxQueues
  dsimp only
  rw [State.resetQueue_packets]
  split
  · rfl
  · exact reset _ s (.inl (List.mem_range.mpr below))

theorem ctxs_of_aside {s t : State} (same : t.aside = s.aside) : t.ctxs = s.ctxs := congrArg Prod.fst same
theorem mem_of_aside {s t : State} (same : t.aside = s.aside) : t.mem = s.mem := congrArg (fun a => a.2.1) same
theorem slotQueue_of_aside {s t : State} (same : t.aside = s.aside) (x slot : Nat) :
    t.queue (slotQueue x slot).1 (slotQueue x slot).2 = s.queue (slotQueue x slot).1 (slotQueue x slot).2 := by
  have pool := congrArg (fun a => a.2.2.2) same
  unfold slotQueue
  split
  · have queues := congrFun (congrArg (fun a => a.2.2.1) same) (8 * x + slot)
    simpa [State.aside, Nat.add_assoc] using queues
  · exact congrArg (fun p : Pool => p.queue _) pool

theorem State.resetQueue_ctxs (s : State) (pool qid : Nat) : (s.resetQueue pool qid).ctxs = s.ctxs := rfl

theorem State.resetQueue_mem (s : State) (pool qid : Nat) : (s.resetQueue pool qid).mem = s.mem := rfl

theorem State.resetCtxQueues_ctxs (s : State) (x : Nat) : (s.resetCtxQueues x).ctxs = s.ctxs := by
  unfold State.resetCtxQueues
  dsimp only
  rw [State.resetQueue_ctxs, forN]
  induction List.range 16 generalizing s with
  | nil => rfl
  | cons a l ih => exact (ih _).trans (s.resetQueue_ctxs ..)

theorem State.resetCtxQueues_mem (s : State) (x : Nat) : (s.resetCtxQueues x).mem = s.mem := by
  unfold State.resetCtxQueues
  dsimp only
  rw [State.resetQueue_mem, forN]
  induction List.range 16 generalizing s with
  | nil => rfl
  | cons a l ih => exact (ih _).trans (s.resetQueue_mem ..)

/-- The context that CONTEXT_DESTROY leaves FREE: its windows go with the next boundary. -/
def Ctx.destroyed (c : Ctx) : Ctx := {
  fastBase := c.fastBase, fastPages := c.fastPages, slowBase := c.slowBase, slowGib := c.slowGib
  windowDue := some (0, 0, 0, 0), jobs := c.jobs, ratio := c.ratio, window := c.window
  eventVectorEn := c.eventVectorEn, eventVector := c.eventVector }

/-- Context `x` becomes `c`, and its runs, loads and keys go. -/
def State.withoutCtx (t : State) (x : Nat) (c : Ctx) : State :=
  let t := t.setCtx x c
  { t with
    rotations := t.rotations.map fun (e : Nat × Rotation) => (e.1, e.2.forget x)
    loads := t.loads.filter fun l => l.ctx ≠ x
    trust := t.trust.dropCtxKeys x }

theorem State.withoutCtx_ctx (t : State) (x y : Nat) (c : Ctx) : (t.withoutCtx x c).ctx y = if y = x then c else t.ctx y := by
  change (t.setCtx x c).ctx y = _
  split
  · next here => rw [here, State.ctx_setCtx]
  · next apart => exact State.ctx_setCtx_ne _ _ (Ne.symm apart)

theorem State.withoutCtx_mem (t : State) (x : Nat) (c : Ctx) : (t.withoutCtx x c).mem = t.mem := rfl

theorem State.withoutCtx_queue (t : State) (x : Nat) (c : Ctx) (pool qid : Nat) : (t.withoutCtx x c).queue pool qid = t.queue pool qid := rfl

/-- The state in which CONTEXT_DESTROY of context `x` answers, its own mailboxes aside. -/
def State.destroyed (s : State) (x : Nat) : State := (s.resetCtxQueues x).withoutCtx x (s.ctx x).destroyed

theorem State.destroyed_ctx (s : State) (x y : Nat) : (s.destroyed x).ctx y = if y = x then (s.ctx x).destroyed else s.ctx y := by
  have others : (s.resetCtxQueues x).ctx y = s.ctx y := congrArg (fun c : Tbl Nat Ctx => c.get {} y) (s.resetCtxQueues_ctxs x)
  rw [State.destroyed, State.withoutCtx_ctx, others]

theorem State.destroyed_mem (s : State) (x : Nat) : (s.destroyed x).mem = s.mem := by
  rw [State.destroyed, State.withoutCtx_mem, State.resetCtxQueues_mem]

theorem State.destroyed_slotQueue (s : State) (x slot : Nat) :
    (s.destroyed x).queue (slotQueue x slot).1 (slotQueue x slot).2 = (s.resetCtxQueues x).queue (slotQueue x slot).1 (slotQueue x slot).2 := by
  rw [State.destroyed, State.withoutCtx_queue]

/-- A meaning that has answered by itself: nothing follows. -/
theorem exec_of_asked_silent {s t : State} {r : Req} {code : Nat} {ctxHop : Bool} {admin : UnitId → Bool} {u : UnitId}
    (asked : s.asked r code ctxHop admin u = true) (body : KReq → State → KResult) (answers : body (reqOf r code u) (s.taken r) = (t, none)) :
    Host.Outcome.next (s.kettle r code ctxHop admin body) = (.next t : Host.Outcome State Fault Refusal) := by
  rw [State.kettle_of_asked asked body, answers]

/-- The answer and the reset of the context's mailboxes leave the contexts, the memory and the slots' queues as they are. -/
theorem exec_contextDestroy_aside {s : State} {r : Req} {x : Nat} (asked : s.asked r 0x0011 false adminClass .module = true) (below : x < 8)
    (args : reqArgs r 0x0011 = [BitVec.ofNat 64 x]) (stopped : (s.ctx x).state = .stopped) :
    ∃ t, exec (.contextDestroy r) s = .next t ∧ t.aside = ((s.taken r).destroyed x).aside := by
  have mailbox : r.mb < 32 := (State.asked_parts asked).mailbox
  have named : fld (BitVec.ofNat 64 x) 2 0 = x := fld_ofNat_low below (by decide)
  have rest : fld (BitVec.ofNat 64 x) 63 3 = 0 := fld_ofNat_high below
  have mailboxes (t : State) : (forN 4 (fun j s => s.resetMailbox (4 * x + j)) t).aside = t.aside :=
    aside_forL (fun j listed s => s.resetMailbox_aside (by have := List.mem_range.mp listed; omega)) t
  by_cases own : r.mb / 4 = x
  · refine ⟨forN 4 (fun j s => s.resetMailbox (4 * x + j)) (((s.taken r).destroyed x).complete r.mb 0x0011 (reqTag r 0x0011) St.ok []),
      exec_of_asked_silent asked _ ?_, ?_⟩
    · simp only [reqOf, KReq.arg, args, List.getD_cons_zero, List.length_singleton, named, rest, State.taken_ctx, stopped, own, ne_eq, not_true_eq_false,
        decide_false, Bool.or_false, bne_self_eq_false, Bool.false_eq_true, if_false, if_true]
      simp only [State.destroyed, State.withoutCtx, Ctx.destroyed, State.taken_ctx]
    · exact (mailboxes _).trans (State.complete_aside _ mailbox ..)
  · refine ⟨((forN 4 (fun j s => s.resetMailbox (4 * x + j)) ((s.taken r).destroyed x)).complete r.mb 0x0011 (reqTag r 0x0011) St.ok
      []).answerUndefined r.mb, exec_of_asked asked _ ?_, ?_⟩
    · simp only [reqOf, KReq.arg, args, List.getD_cons_zero, List.length_singleton, named, rest, State.taken_ctx, stopped, own, ne_eq, not_true_eq_false,
        decide_false, Bool.or_false, bne_self_eq_false, Bool.false_eq_true, if_false, done]
      simp only [State.destroyed, State.withoutCtx, Ctx.destroyed, State.taken_ctx]
    · exact (undefinedLoop_aside _ mailbox _).trans ((State.complete_aside _ mailbox ..).trans (mailboxes _))

theorem exec_contextDestroy_of_asked {s : State} {r : Req} {x : Nat} (asked : s.asked r 0x0011 false adminClass .module = true) (below : x < 8)
    (args : reqArgs r 0x0011 = [BitVec.ofNat 64 x]) :
    ((s.ctx x).state = .stopped → ∃ t, exec (.contextDestroy r) s = .next t ∧
      (t.ctx x).state = .free ∧ (t.ctx x).dieMask = 0 ∧ (t.ctx x).slots = [] ∧ (t.ctx x).windowDue = some (0, 0, 0, 0) ∧
      ((t.ctx x).fastBase, (t.ctx x).fastPages) = ((s.ctx x).fastBase, (s.ctx x).fastPages) ∧ (∀ y, y ≠ x → t.ctx y = s.ctx y) ∧
      (∀ sl, sl < 16 → (t.queue (slotQueue x sl).1 (slotQueue x sl).2).packets = []) ∧ t.mem = s.mem) ∧
    ((s.ctx x).state ≠ .stopped → exec (.contextDestroy r) s = answered r 0x0011 St.badContext [] (s.taken r)) := by
  have named : fld (BitVec.ofNat 64 x) 2 0 = x := fld_ofNat_low below (by decide)
  have rest : fld (BitVec.ofNat 64 x) 63 3 = 0 := fld_ofNat_high below
  refine ⟨fun stopped => ?_, fun other => exec_of_asked asked _ ?_⟩
  · obtain ⟨t, run, aside⟩ := exec_contextDestroy_aside asked below args stopped
    have ctxs (y : Nat) : t.ctx y = if y = x then (s.ctx x).destroyed else s.ctx y := by
      have same : t.ctx y = ((s.taken r).destroyed x).ctx y := congrArg (fun c : Tbl Nat Ctx => c.get {} y) (ctxs_of_aside aside)
      rw [same, State.destroyed_ctx, State.taken_ctx, State.taken_ctx]
    have own : t.ctx x = (s.ctx x).destroyed := (ctxs x).trans (if_pos rfl)
    refine ⟨t, run, ?_, ?_, ?_, ?_, ?_, fun y apart => (ctxs y).trans (if_neg apart), fun slot listed => ?_, ?_⟩
    · rw [own]; rfl
    · rw [own]; rfl
    · rw [own]; rfl
    · rw [own]; rfl
    · rw [own]; rfl
    · rw [slotQueue_of_aside aside, State.destroyed_slotQueue]
      exact (s.taken r).resetCtxQueues_packets x listed
    · exact (mem_of_aside aside).trans (((s.taken r).destroyed_mem x).trans (s.takeOldest_mem ..))
  · simp [reqOf, KReq.arg, args, named, rest, other, done]

/-- Settles O47: each command by its own equation; CONTEXT_DESTROY by what its answers leave (`State.aside`). -/
theorem contextsAreCreatedPartitionedAndDestroyed : Obligations.ContextsAreCreatedPartitionedAndDestroyed := by
  refine ⟨fun s r u asked args => exec_of_asked asked _ ?_, fun s r u x asked => exec_contextInfo_of_asked asked,
    fun s r x mask fp fb sg sb job asked => exec_contextCreate_of_asked asked, fun s r x asked => exec_contextDestroy_of_asked asked,
    fun s r x mask asked => exec_contextPartition_of_asked asked, fun s r d es asked => exec_dieSchedule_of_asked asked⟩
  simp [reqOf, args]

end Sys2Proof.Machine
end

section
/-! SUPPORT. Proofs/Wires.lean: what far links' rules read of a link, and the operations that leave it. -/
namespace Sys2Proof.Machine

/-! ### What the wires carry -/

/-- A far link's state without its keys and its next control count: an emitted frame moves those two alone. -/
def Far.aside (f : Far) : Far := { f with keys := [], ctlCount := 0 }

/-- What a link's rules for far links read of it: its far-link state, its state and its neighbour. -/
def Link.line (l : Link) : Far × LinkState × Nat := (l.far.aside, l.state, l.nbDn)

/-- Every link's line and the buffers that far links hold. -/
def State.wires (s : State) : (Nat → Far × LinkState × Nat) × List (Nat × Nat) := (fun n => (s.link n).line, s.mem.farBuffers)

/-- The outcome leaves the wires. -/
def Spares (s : State) (o : Host.Outcome State Fault Refusal) : Prop := ∀ t, o = .next t → t.wires = s.wires

theorem State.line_of_wires {s t : State} (same : t.wires = s.wires) (n : Nat) : (t.link n).line = (s.link n).line :=
  congrFun (congrArg Prod.fst same) n

theorem State.farBuffers_of_wires {s t : State} (same : t.wires = s.wires) : t.mem.farBuffers = s.mem.farBuffers := congrArg Prod.snd same

/-! ### Updates, branches and loops -/

/-- An update that moves neither the links nor the far buffers, the power unit nor the root of trust. -/
@[simp] theorem wires_mk (s : State) (pending early steep units faults cores caddies nextUpd pools mailboxes ctxs rotations switches
    composites fans nextFan kettleAnswer remoteEvents members host loads infMib infBytes infRetries infDuplicates queueStatus queueData
    readData out fresh) (f : Fabric) (m : MemUnit) (links : f.links = s.fabric.links) (buffers : m.farBuffers = s.mem.farBuffers) :
    State.wires { s with
      fabric := f, mem := m, pending, early, steep, units, faults, cores, caddies, nextUpd, pools, mailboxes, ctxs, rotations, switches, composites,
      fans, nextFan, kettleAnswer, remoteEvents, members, host, loads, infMib, infBytes, infRetries, infDuplicates,
      queueStatus, queueData, readData, out, fresh } = s.wires := by
  simp only [State.wires, State.link, links, buffers]

@[simp] theorem wires_ite (c : Prop) [Decidable c] (a b : State) :
    State.wires (if c then a else b) = if c then a.wires else b.wires := apply_ite ..

@[simp] theorem wires_fst_ite {α : Type} (c : Prop) [Decidable c] (a b : State × α) :
    State.wires (if c then a else b).1 = if c then a.1.wires else b.1.wires := by
  split <;> rfl

theorem wires_getD {o : Option State} {d s : State} (given : ∀ t, o = some t → t.wires = s.wires) (default : d.wires = s.wires) :
    (o.getD d).wires = s.wires := by
  cases o with
  | none => exact default
  | some t => exact given t rfl

@[simp] theorem wires_forL {α : Type} (l : List α) (f : α → State → State) (s : State)
    (h : ∀ a s, (f a s).wires = s.wires) : (forL l f s).wires = s.wires := by
  induction l generalizing s with
  | nil => rfl
  | cons a l ih => exact (ih (f a s)).trans (h a s)

@[simp] theorem wires_forN (n : Nat) (f : Nat → State → State) (s : State) (h : ∀ a s, (f a s).wires = s.wires) :
    (forN n f s).wires = s.wires := wires_forL _ f s h

@[simp] theorem wires_foldl {α β : Type} (l : List α) (f : State × β → α → State × β) (p : State × β)
    (h : ∀ p a, (f p a).1.wires = p.1.wires) : (l.foldl f p).1.wires = p.1.wires := by
  induction l generalizing p with
  | nil => rfl
  | cons a l ih => exact (ih (f p a)).trans (h p a)

@[simp] theorem spares_ite (s : State) (c : Prop) [Decidable c] (a b : Host.Outcome State Fault Refusal) :
    Spares s (if c then a else b) ↔ if c then Spares s a else Spares s b := by
  split <;> rfl

@[simp] theorem spares_next (s t : State) : Spares s (.next t) ↔ t.wires = s.wires := by simp [Spares]

theorem State.updLink_wires {s : State} {n : Nat} {f : Link → Link} (same : (f (s.link n)).line = (s.link n).line) : (s.updLink n f).wires = s.wires := by
  refine Prod.ext (funext fun m => ?_) rfl
  by_cases other : n = m
  · subst other
    simpa [State.wires] using same
  · simp [State.wires, State.link_updLink_ne _ _ other]

/-! ### State operations -/

@[simp] theorem State.setPool_wires (s : State) (p : Nat) (v : Pool) : (s.setPool p v).wires = s.wires := by
  simp [State.setPool]

@[simp] theorem State.setMailbox_wires (s : State) (n : Nat) (v : Mailbox) : (s.setMailbox n v).wires = s.wires := by
  simp [State.setMailbox]

@[simp] theorem State.setCtx_wires (s : State) (n : Nat) (v : Ctx) : (s.setCtx n v).wires = s.wires := by
  simp [State.setCtx]

@[simp] theorem State.updCtx_wires (s : State) (n : Nat) (f : Ctx → Ctx) : (s.updCtx n f).wires = s.wires := by
  simp [State.updCtx]

@[simp] theorem State.updQueue_wires (s : State) (p q : Nat) (f : Queue → Queue) :
    (s.updQueue p q f).wires = s.wires := by
  simp [State.updQueue]

@[simp] theorem State.emit_wires (s : State) (o : Out) : (s.emit o).wires = s.wires := by
  simp [State.emit]

@[simp] theorem State.msix_wires (s : State) (v : Nat) : (s.msix v).wires = s.wires := by
  simp [State.msix]

@[simp] theorem State.notify_wires (s : State) (sink : Sink) (w : W64) : (s.notify sink w).wires = s.wires := by
  unfold State.notify
  split <;> simp

theorem State.put_wires {s t : State} {pool qid : Nat} {ctx : Option Nat} {ty : Nat} {ws : List W64} (h : s.put pool qid ctx ty ws = some t) :
    t.wires = s.wires := by
  dsimp only [State.put] at h
  split at h
  · injection h with h
    simp [← h]
  · cases h

@[simp] theorem State.takeOldest_wires (s : State) (pool qid : Nat) : (s.takeOldest pool qid).wires = s.wires := by
  unfold State.takeOldest
  split <;> simp

@[simp] theorem roomLoop_wires (fuel : Nat) (fa : Bool) (need : Nat) (s : State) :
    (roomLoop fuel fa need s).wires = s.wires := by
  induction fuel generalizing s with
  | zero => rfl
  | succ fuel ih =>
    dsimp only [roomLoop]
    split
    · rfl
    · split
      · rfl
      · simp [ih]

@[simp] theorem State.writeRecord_wires (s : State) (r : RecSpec) : (s.writeRecord r).1.wires = s.wires := by
  unfold State.writeRecord
  extract_lets ws f hops f1 host s1 before s2 q sink f2 m s3 entry t3 f3 s4 s5 log t5 f5
  have h2 : s2.wires = s.wires := by simp [s2, s1]
  have h3 : s3.1.wires = s.wires := by
    unfold s3
    split
    · simpa using h2
    · next put =>
      rw [← h2, ← State.put_wires put]
      simp
  have h4 : s4.1.wires = s.wires := by simpa [s4] using h3
  split
  · simpa [t5, s5] using h4
  · exact h4

@[simp] theorem State.event_wires (s : State) (x : Nat) (e : Event) : (s.event x e).wires = s.wires := by
  dsimp only [State.event]
  split
  · next t put =>
    split at put
    · exact State.put_wires put
    · cases put
  · simp

@[simp] theorem State.enter_wires (s : State) (r : RecSpec) : (s.enter r).wires = s.wires := by
  unfold State.enter
  dsimp only
  repeat' split
  all_goals simp

@[simp] theorem State.countEcc_wires (s : State) (place : Nat) (syn : Byte) :
    (s.countEcc place syn).wires = s.wires := by
  simp [State.countEcc]

@[simp] theorem State.wroteKettle_wires (s : State) : (s.wroteKettle).wires = s.wires := by
  simp [State.wroteKettle]

@[simp] theorem State.raise_wires (s : State) (r : RecSpec) : (s.raise r).wires = s.wires := by
  simp [State.raise]

@[simp] theorem State.raiseLimited_wires (s : State) (key : Nat × Nat) (steeps : Nat) (r : RecSpec) :
    (s.raiseLimited key steeps r).wires = s.wires := by
  unfold State.raiseLimited
  split <;> simp

theorem State.putCompletion_wires {s t : State} {mb : Nat} {ws : List W64} (h : s.putCompletion mb ws = some t) :
    t.wires = s.wires := by
  obtain ⟨u, put, rfl⟩ := Option.map_eq_some_iff.mp h
  simpa using State.put_wires put

@[simp] theorem State.settleRequest_wires (s : State) (mb : Nat) (ws : List W64) :
    (s.settleRequest mb ws).wires = s.wires := by
  dsimp only [State.settleRequest]
  split
  · simp
  · exact wires_getD (fun t written => by simpa using State.putCompletion_wires written) (by simp)

@[simp] theorem State.complete_wires (s : State) (mb code tag status : Nat) (reply : List W64) :
    (s.complete mb code tag status reply).wires = s.wires := by
  simp [State.complete]

@[simp] theorem State.secondCompletion_wires (s : State) (mb tag status : Nat) (ws : List W64) :
    (s.secondCompletion mb tag status ws).wires = s.wires := by
  dsimp only [State.secondCompletion]
  split
  · simp
  · split
    · exact wires_getD (fun t written => by simpa using State.putCompletion_wires written) (by simp)
    · simp

@[simp] theorem State.control_wires (s : State) (link kind : Nat) (nak : Bool) (vc count : Nat) (ws : List W64) :
    (s.control link kind nak vc count ws).wires = s.wires := by
  simp [State.control]

@[simp] theorem returnLoop_wires (fuel link vc n : Nat) (s : State) :
    (returnLoop fuel link vc n s).wires = s.wires := by
  induction fuel generalizing n s with
  | zero => rfl
  | succ fuel ih => simp [returnLoop, ih]

@[simp] theorem State.freedCells_wires (s : State) (link vc n : Nat) : (s.freedCells link vc n).wires = s.wires := by
  unfold State.freedCells
  split
  · rfl
  · exact (returnLoop_wires ..).trans (State.updLink_wires rfl)

@[simp] theorem State.freedIn_wires (s : State) (pool qid n : Nat) : (s.freedIn pool qid n).wires = s.wires := by
  simp [State.freedIn]

@[simp] theorem State.consume_wires (s : State) (pool qid seq : Nat) : (s.consume pool qid seq).wires = s.wires := by
  simp [State.consume]

@[simp] theorem State.routeLost_wires (s : State) (k : Route) (rset : Nat) :
    (s.routeLost k rset).wires = s.wires := by
  unfold State.routeLost
  split <;> simp

@[simp] theorem State.badPacket_wires (s : State) (link : Option Nat) : (s.badPacket link).wires = s.wires := by
  simp [State.badPacket]

@[simp] theorem State.hold_wires (s : State) (ctx : Option Nat) (ty vc : Nat) (ws : List W64) (ports : List Nat)
    (far : Bool) (src : Option (Nat × Nat × Nat)) :
    (s.hold ctx ty vc ws ports far src).wires = s.wires := by
  simp [State.hold]

@[simp] theorem State.inject_wires (s : State) (kind vc : Nat) (dst : List W64) (ctx : Option Nat) (rset : Nat)
    (body : List W64) :
    (s.inject kind vc dst ctx rset body).wires = s.wires := by
  unfold State.inject
  dsimp only
  split <;> simp

@[simp] theorem State.injectDn_wires (s : State) (kind vc dn : Nat) (ctx : Option Nat) (rset : Nat) (body : List W64) :
    (s.injectDn kind vc dn ctx rset body).wires = s.wires := by
  unfold State.injectDn
  split <;> simp

@[simp] theorem State.doorbell_wires (s : State) (mb : Nat) (ws : List W64) :
    (s.doorbell mb ws).1.wires = s.wires := by
  dsimp only [State.doorbell]
  split
  · simp
  · split
    · simp
    · next t put => simpa using State.put_wires put

@[simp] theorem undefinedLoop_wires (fuel mb : Nat) (s : State) : (undefinedLoop fuel mb s).wires = s.wires := by
  induction fuel generalizing s with
  | zero => rfl
  | succ fuel ih =>
    dsimp only [undefinedLoop]
    split
    · rfl
    · split
      · rfl
      · simp [ih]

@[simp] theorem State.answerUndefined_wires (s : State) (mb : Nat) : (s.answerUndefined mb).wires = s.wires := by
  simp [State.answerUndefined]

@[simp] theorem State.fanOut_wires (s : State) (ref : CmdRef) (composite : Bool) (members : List (List W64))
    (ws args : List W64) (own : Option (Nat × List W64)) :
    (s.fanOut ref composite members ws args own).wires = s.wires := by
  simp [State.fanOut]

@[simp] theorem State.askLead_wires (s : State) (ref : CmdRef) (lead : List W64) (ms : List (List W64)) (ws : List W64) :
    (s.askLead ref lead ms ws).wires = s.wires := by
  simp [State.askLead]

@[simp] theorem State.deputise_wires (s : State) : (s.deputise).wires = s.wires := by
  simp [State.deputise]

@[simp] theorem State.elect_wires (s : State) : (s.elect).wires = s.wires := by
  unfold State.elect
  split <;> simp

@[simp] theorem State.updOuter_wires (s : State) (x : Nat) (f : Outer → Outer) :
    (s.updOuter x f).wires = s.wires := by
  simp [State.updOuter]

@[simp] theorem State.toLead_wires (s : State) (g : OuterCfg) (kind : Nat) (ws : List W64) :
    (s.toLead g kind ws).wires = s.wires := by
  simp [State.toLead]

@[simp] theorem State.toPeer_wires (s : State) (x : Nat) (g : OuterCfg) (site kind : Nat) (ws : List W64) :
    (s.toPeer x g site kind ws).wires = s.wires := by
  simp [State.toPeer]

@[simp] theorem State.takeHave_wires (s : State) (x dn site round : Nat) (merge : Bool) :
    (s.takeHave x dn site round merge).wires = s.wires := by
  simp [State.takeHave]

@[simp] theorem State.tooLate_wires (s : State) (x site round : Nat) : (s.tooLate x site round).wires = s.wires := by
  simp [State.tooLate]

@[simp] theorem State.tellHave_wires (s : State) (x site round : Nat) (merge : Bool) :
    (s.tellHave x site round merge).wires = s.wires := by
  unfold State.tellHave
  split <;> simp

@[simp] theorem State.takeDiff_wires (s : State) (x : Nat) (g : OuterCfg) (body : List W64) :
    (s.takeDiff x g body).wires = s.wires := by
  simp [State.takeDiff]

@[simp] theorem State.takePlanes_wires (s : State) (x : Nat) (body : List W64) :
    (s.takePlanes x body).wires = s.wires := by
  simp [State.takePlanes]

@[simp] theorem State.gatewayTake_wires (s : State) (ws : List W64) : (s.gatewayTake ws).1.wires = s.wires := by
  unfold State.gatewayTake
  dsimp only
  repeat' split
  all_goals simp

@[simp] theorem State.answer_wires (s : State) (st : QStatus) (ws : List W64) :
    (s.answer st ws).wires = s.wires := by
  simp [State.answer]

@[simp] theorem State.rewind_wires (s : State) (pool qid port : Nat) (why : Cause) :
    (s.rewind pool qid port why).wires = s.wires := by
  unfold State.rewind
  dsimp only
  repeat' split
  all_goals simp

@[simp] theorem execQueueOpen_wires (pool qid port ty : Nat) (ctx : Option Nat) (s : State) :
    Spares s (execQueueOpen pool qid port ty ctx s) := by
  simp [execQueueOpen]

@[simp] theorem execQueueAppend_wires (pool qid port : Nat) (ws : List W64) (inputUe : Bool) (s : State) :
    Spares s (execQueueAppend pool qid port ws inputUe s) := by
  unfold execQueueAppend
  dsimp only
  repeat' split
  all_goals simp

@[simp] theorem execQueueCommit_wires (pool qid port : Nat) (s : State) : Spares s (execQueueCommit pool qid port s) := by
  unfold execQueueCommit
  dsimp only
  repeat' split
  all_goals simp

@[simp] theorem after_wires {o : Host.Outcome State Fault Refusal} {s : State} (h : Spares s o) :
    (after o s).wires = s.wires := by
  cases o with
  | next t => exact h t rfl
  | fault _ => rfl
  | refused _ => rfl

@[simp] theorem State.freeSource_wires (s : State) (t : TxPacket) : (s.freeSource t).wires = s.wires := by
  unfold State.freeSource
  split <;> simp

@[simp] theorem State.routeReceived_wires (s : State) (link vc : Nat) :
    (s.routeReceived link vc).wires = s.wires := by
  unfold State.routeReceived
  dsimp only
  repeat' split
  all_goals simp

@[simp] theorem State.openLinkQueues_wires (s : State) (link : Nat) (alloc : W64) :
    (s.openLinkQueues link alloc).wires = s.wires := by
  simp [State.openLinkQueues]

@[simp] theorem State.resend_wires (s : State) (link : Nat) (t : TxPacket) :
    (s.resend link t).1.wires = s.wires := by
  simp [State.resend]

@[simp] theorem State.forgetLink_wires (s : State) (link : Nat) : (s.forgetLink link).wires = s.wires := by
  simp [State.forgetLink]

@[simp] theorem State.farEmit_wires (s : State) (link : Nat) (h0 h1 : W64) (ctrl : Bool) (count : Nat) (payload : List W64) :
    (s.farEmit link h0 h1 ctrl count payload).wires = s.wires := by
  unfold State.farEmit
  dsimp only
  split
  · rfl
  · exact (State.emit_wires ..).trans (State.updLink_wires rfl)

@[simp] theorem State.farControl_wires (s : State) (link kind : Nat) (payload : List W64) : (s.farControl link kind payload).wires = s.wires :=
  (State.farEmit_wires ..).trans (State.updLink_wires rfl)

@[simp] theorem State.farSendHeld_wires (s : State) (link : Nat) (h : FarHeld) :
    (s.farSendHeld link h).wires = s.wires := by
  simp only [State.farSendHeld, State.farEmit_wires]

@[simp] theorem State.farReplay_wires (s : State) (link : Nat) : (s.farReplay link).wires = s.wires := by
  simp [State.farReplay]

@[simp] theorem State.farRewind_wires (s : State) (link : Nat) : (s.farRewind link).wires = s.wires := by
  simp [State.farRewind]

@[simp] theorem State.farTakeCell_wires (s : State) (link : Nat) (sop eop : Bool) (ws : List W64) :
    (s.farTakeCell link sop eop ws).wires = s.wires := by
  have rewound (q : Nat × Nat) (h : Nat) (c : Option Nat) : Spares s (execQueueOpen q.1 q.2 0 h c (s.farRewind link)) := by
    intro t opened
    simpa using execQueueOpen_wires _ _ _ _ _ _ t opened
  simp [State.farTakeCell, rewound]

@[simp] theorem State.touchSeen_wires (s : State) (x dn site : Nat) (up : Bool) :
    (s.touchSeen x dn site up).wires = s.wires := by
  simp [State.touchSeen]

@[simp] theorem State.touchChange_wires (s : State) (x site : Nat) (up : Bool) :
    (s.touchChange x site up).wires = s.wires := by
  unfold State.touchChange
  split <;> simp

@[simp] theorem State.actOn_wires (s : State) (x : Nat) : (s.actOn x).wires = s.wires := by
  unfold State.actOn
  dsimp only
  split <;> simp

@[simp] theorem State.takeDecide_wires (s : State) (x : Nat) (d : OuterDecision) :
    (s.takeDecide x d).wires = s.wires := by
  unfold State.takeDecide
  dsimp only
  repeat' split
  all_goals simp

@[simp] theorem State.sendDecide_wires (s : State) (x : Nat) (g : OuterCfg) (d : OuterDecision) :
    (s.sendDecide x g d).wires = s.wires := by
  simp [State.sendDecide]

@[simp] theorem State.startReanchor_wires (s : State) (x donor : Nat) (by_ : Option CmdRef) :
    (s.startReanchor x donor by_).wires = s.wires := by
  unfold State.startReanchor
  split <;> simp

@[simp] theorem State.settleHello_wires (s : State) (x : Nat) (g : OuterCfg) :
    (s.settleHello x g).wires = s.wires := by
  simp [State.settleHello]

@[simp] theorem State.touchAct_wires (s : State) (x : Nat) : (s.touchAct x).wires = s.wires := by
  unfold State.touchAct
  split <;> simp

@[simp] theorem State.askAgain_wires (s : State) (x site : Nat) : (s.askAgain x site).wires = s.wires := by
  unfold State.askAgain
  dsimp only
  split <;> simp

end Sys2Proof.Machine
end

section
/-! SUPPORT. Proofs/FarSlots.lean: what the operations of far links do to a link, and its free and held slots (R544 to R566). -/
namespace Sys2Proof.Machine

/-! ### Changes of one link -/

@[simp] theorem State.link_updFar (s : State) (n : Nat) (g : Far → Far) : (s.updFar n g).link n = { s.link n with far := g (s.link n).far } :=
  State.link_updLink ..

@[simp] theorem State.updFar_farBuffers (s : State) (n : Nat) (g : Far → Far) : (s.updFar n g).mem.farBuffers = s.mem.farBuffers := by rfl

/-- Training of a link moves its line as `Link.toward` says, and nothing else of the wires. -/
theorem State.linkTo_wires (s : State) (n : Nat) (new : LinkState) : (s.linkTo n new).wires = (s.setLink n ((s.link n).toward new)).wires := by
  unfold State.linkTo
  extract_lets l e t
  have told : t.wires = (s.setLink n ((s.link n).toward new)).wires := wires_forL _ _ _ fun x t => t.event_wires x e
  split
  · rw [← told]
    split
    · exact (State.secondCompletion_wires ..).trans (State.updLink_wires rfl)
    · rfl
  · exact told

theorem State.line_linkTo (s : State) (n : Nat) (new : LinkState) : ((s.linkTo n new).link n).line = ((s.link n).toward new).line := by
  simpa using State.line_of_wires (s.linkTo_wires n new) n

theorem State.farAckSend_wires (s : State) (n : Nat) : (s.farAckSend n).wires = (s.updFar n fun f => { f with sinceAck := 0 }).wires := by
  simp [State.farAckSend]

theorem State.learn_wires (s : State) (n : Nat) (p : List W64) :
    (s.learn n p).wires = (s.updLink n fun l => { l with nbDn := fld (p.getD 0 0#64) 15 0 }).wires := by
  have same (f : Link → Link) (line : ∀ l, (f l).line = (l.far.aside, l.state, fld (p.getD 0 0#64) 15 0)) :
      (s.updLink n f).wires = (s.updLink n fun l => { l with nbDn := fld (p.getD 0 0#64) 15 0 }).wires := by
    refine Prod.ext (funext fun m => ?_) rfl
    by_cases other : n = m
    · subst other
      change ((s.updLink n f).link n).line = ((s.updLink n _).link n).line
      rw [State.link_updLink, State.link_updLink]
      exact line _
    · simp [State.wires, State.link_updLink_ne _ _ other]
  unfold State.learn
  dsimp only
  split
  · rw [State.elect_wires, wires_mk (links := rfl) (buffers := rfl)]
    exact same _ fun _ => rfl
  · exact same _ fun _ => rfl

/-! ### Held frames as the window's loop leaves them -/

/-- A held frame whether or not it has been sent. -/
def FarHeld.calm (h : FarHeld) : FarHeld := { h with sent := false }

/-- A link's line whether or not its held frames have been sent. -/
def Link.calm (l : Link) : Far × LinkState := ({ l.far.aside with held := l.far.held.map FarHeld.calm }, l.state)

theorem Link.calm_of_line {l m : Link} (same : l.line = m.line) : l.calm = m.calm :=
  congrArg (fun q : Far × LinkState × Nat => (({ q.1 with held := q.1.held.map FarHeld.calm }, q.2.1) : Far × LinkState)) same

theorem Link.held_counts_of_calm {l m : Link} (same : l.calm = m.calm) : l.far.held.map FarHeld.count = m.far.held.map FarHeld.count := by
  simpa [Link.calm, FarHeld.calm, Function.comp_def] using congrArg (fun q : Far × LinkState => q.1.held.map FarHeld.count) same

theorem Link.held_length_of_calm {l m : Link} (same : l.calm = m.calm) : l.far.held.length = m.far.held.length := by
  simpa using congrArg List.length (Link.held_counts_of_calm same)

theorem pumpLoop_calm (fuel n : Nat) (s : State) (m : Nat) : ((pumpLoop fuel n s).link m).calm = (s.link m).calm := by
  induction fuel generalizing s with
  | zero => rfl
  | succ fuel ih =>
    dsimp only [pumpLoop]
    split
    · rfl
    · split
      · rfl
      · next h _ =>
        refine (ih _).trans ?_
        have sent := (Link.calm_of_line (State.line_of_wires (s.farSendHeld_wires n h) m))
        rw [← sent]
        by_cases other : n = m
        · subst other
          simp only [State.link_updFar, Link.calm, Far.aside, List.map_map, Prod.mk.injEq, Far.mk.injEq, and_true, true_and]
          refine List.map_congr_left fun q _ => ?_
          simp only [Function.comp_apply, cond_eq_ite]
          split <;> rfl
        · rw [State.updFar, State.link_updLink_ne _ _ other]

theorem State.farPump_calm (s : State) (n m : Nat) : ((s.farPump n).link m).calm = (s.link m).calm := pumpLoop_calm ..

/-! ### Free and held slots (R557) -/

/-- Of every far link free and held slots are the buffer's slots. -/
def State.farTidy (s : State) : Prop := ∀ l, (s.link l).far.conserved

theorem State.farTidy_of_calm {s t : State} (same : ∀ l, (t.link l).calm = (s.link l).calm) (h : s.farTidy) : t.farTidy := by
  intro l
  have held := Link.held_length_of_calm (same l)
  have free : (t.link l).far.freeSlots = (s.link l).far.freeSlots := congrArg (fun q => q.1.freeSlots) (same l)
  rw [Far.conserved, free, held]
  exact h l

theorem State.farTidy_of_wires {s t : State} (same : t.wires = s.wires) (h : s.farTidy) : t.farTidy :=
  State.farTidy_of_calm (fun l => Link.calm_of_line (State.line_of_wires same l)) h

theorem State.farTidy_updLink {s : State} {n : Nat} {f : Link → Link} (h : s.farTidy) (kept : (f (s.link n)).far.conserved) : (s.updLink n f).farTidy := by
  intro m
  by_cases other : n = m
  · subst other
    simpa using kept
  · rw [State.link_updLink_ne _ _ other]
    exact h m

theorem State.farTidy_updFar {s : State} {n : Nat} {g : Far → Far} (h : s.farTidy) (kept : (g (s.link n).far).conserved) : (s.updFar n g).farTidy :=
  State.farTidy_updLink h kept

theorem State.farTidy_linkTo {s : State} (h : s.farTidy) (n : Nat) (new : LinkState) : (s.linkTo n new).farTidy := by
  refine State.farTidy_of_wires (s.linkTo_wires n new) (State.farTidy_updLink (f := fun l => l.toward new) h ?_)
  unfold Link.toward
  dsimp only
  split <;> exact h n

theorem State.farTidy_farPump {s : State} (h : s.farTidy) (n : Nat) : (s.farPump n).farTidy := State.farTidy_of_calm (s.farPump_calm n) h

theorem State.farTidy_farReplay {s : State} (h : s.farTidy) (n : Nat) : (s.farReplay n).farTidy := State.farTidy_of_wires (s.farReplay_wires n) h

theorem State.farTidy_farControl {s : State} (h : s.farTidy) (n kind : Nat) (ws : List W64) : (s.farControl n kind ws).farTidy :=
  State.farTidy_of_wires (s.farControl_wires n kind ws) h

theorem State.farTidy_raise {s : State} (h : s.farTidy) (r : RecSpec) : (s.raise r).farTidy := State.farTidy_of_wires (s.raise_wires r) h

theorem State.farTidy_farRewind {s : State} (h : s.farTidy) (n : Nat) : (s.farRewind n).farTidy := State.farTidy_of_wires (s.farRewind_wires n) h

theorem State.farTidy_farAckSend {s : State} (h : s.farTidy) (n : Nat) : (s.farAckSend n).farTidy :=
  State.farTidy_of_wires (s.farAckSend_wires n) (State.farTidy_updFar h (h n))

theorem State.farTidy_farRefuse {s : State} (h : s.farTidy) (n : Nat) (hold : Bool) : (s.farRefuse n hold).farTidy := by
  unfold State.farRefuse
  split
  · exact h
  · exact State.farTidy_farAckSend (State.farTidy_updFar h (h n)) n

theorem State.farTidy_farTagFail {s : State} (h : s.farTidy) (n : Nat) : (s.farTagFail n).farTidy := State.farTidy_updFar h (h n)

theorem State.farTidy_farTrain {s : State} (h : s.farTidy) (n : Nat) : (s.farTrain n).farTidy :=
  State.farTidy_farControl (State.farTidy_linkTo (State.farTidy_updFar h (h n)) n .training) n 0x04 _

theorem State.farTidy_farMismatch {s : State} (h : s.farTidy) (n : Nat) : (s.farMismatch n).farTidy :=
  State.farTidy_raise (State.farTidy_linkTo (State.farTidy_updFar h (h n)) n .failed) _

theorem State.farTidy_farRestart {s : State} (h : s.farTidy) (n : Nat) : (s.farRestart n).farTidy := by
  unfold State.farRestart
  extract_lets f lost t u
  have emptied : t.farTidy := State.farTidy_updFar h (by simpa [Far.conserved] using h n)
  split
  · exact State.farTidy_farControl (State.farTidy_raise emptied _) n 0x12 _
  · exact State.farTidy_raise emptied _

theorem State.farTidy_linkDown {s : State} (h : s.farTidy) (n : Nat) : (s.linkDown n).farTidy := by
  unfold State.linkDown
  extract_lets lost s1 s2 s3 s4 r s5
  have t1 : s1.farTidy := State.farTidy_linkTo h n .down
  have rewound : s2.wires = s1.wires := by simp [s2]
  clear_value s2
  have t2 : s2.farTidy := State.farTidy_of_wires rewound t1
  have t4 : s4.farTidy := State.farTidy_of_wires (s3.forgetLink_wires n) (State.farTidy_updLink t2 (t2 n))
  have t5 : s5.farTidy := by
    refine State.farTidy_of_wires ?_ t4
    have resent : r.1.wires = s4.wires := wires_foldl _ _ _ fun p a => p.1.resend_wires n a
    unfold s5
    split <;> simpa using resent
  exact State.farTidy_linkTo (State.farTidy_raise t5 _) n .training

/-! ### Management commands -/

section
variable {body : KReq → State → KResult} (keeps : ∀ k s, s.farTidy → (body k s).1.farTidy)
include keeps

theorem State.farTidy_lead {s : State} (h : s.farTidy) (ref : CmdRef) (ms : List (List W64)) (ws args : List W64) :
    (s.lead ref ms ws args body).1.farTidy := by
  unfold State.lead
  extract_lets req mine r t
  have ran : r.1.farTidy := by
    unfold r
    repeat' split
    exacts [h, h, h, keeps _ _ h]
  have told : t.farTidy := State.farTidy_of_wires (by simp [t]) ran
  repeat' split
  exacts [keeps _ _ h, State.farTidy_of_wires (by simp) told, told, told]

theorem State.farTidy_handle {s : State} (h : s.farTidy) (mb code : Nat) (ws : List W64) (ctxHop : Bool) (admin : UnitId → Bool) :
    (s.handle mb code ws ctxHop admin body).1.farTidy := by
  unfold State.handle
  extract_lets word n tag path hops
  split
  · exact h
  split
  · exact h
  split
  · exact h
  split
  · exact h
  split
  · exact h
  split
  · dsimp only
    split
    · split
      · exact State.farTidy_lead keeps h _ _ _ _
      · exact State.farTidy_of_wires (State.askLead_wires ..) h
    · exact h
  · exact State.farTidy_of_wires (State.fanOut_wires ..) h
  · extract_lets isCtx
    split
    · exact h
    · exact keeps _ _ h

theorem State.farTidy_kettle {s : State} (h : s.farTidy) (r : Req) (code : Nat) (ctxHop : Bool) (admin : UnitId → Bool) :
    (s.kettle r code ctxHop admin body).farTidy := by
  unfold State.kettle
  extract_lets ws run res u rung
  have handled (t : State) (ht : t.farTidy) : (t.handle r.mb code ws ctxHop admin body).1.farTidy := State.farTidy_handle keeps ht _ _ _ _ _
  have run_keeps (t : State) (ht : t.farTidy) : (run t).farTidy := by
    unfold run
    extract_lets u res
    have taken : u.farTidy := State.farTidy_of_wires (State.takeOldest_wires ..) ht
    have res_keeps : res.1.farTidy := by
      unfold res
      split
      · exact taken
      · exact handled u taken
    split
    · exact res_keeps
    · exact State.farTidy_of_wires (by simp) res_keeps
  have rung_keeps : rung.1.farTidy := State.farTidy_of_wires (State.doorbell_wires ..) h
  split
  · change res.1.farTidy
    unfold res
    split
    · exact h
    · exact handled s h
  · repeat' split
    exacts [h, rung_keeps, h, run_keeps _ h, run_keeps _ rung_keeps, rung_keeps]

end

/-! ### Commands of far links -/

theorem State.farTidy_farTake {s : State} (h : s.farTidy) (n kind : Nat) (f : FarFrame) : (s.farTake n kind f).1.farTidy := by
  unfold State.farTake
  extract_lets l live t count
  have t_tidy : t.farTidy := State.farTidy_updLink h (h n)
  split
  · exact h
  · split
    · exact State.farTidy_farTagFail t_tidy n
    · split
      · exact t_tidy
      · exact State.farTidy_updFar t_tidy (t_tidy n)

theorem State.farTidy_farTakeCell {s : State} (h : s.farTidy) (n : Nat) (sop eop : Bool) (ws : List W64) : (s.farTakeCell n sop eop ws).farTidy :=
  State.farTidy_of_wires (s.farTakeCell_wires n sop eop ws) h

theorem State.farTidy_farLeave {s : State} (h : s.farTidy) (n : Nat) : (s.farLeave n).farTidy := by
  unfold State.farLeave
  extract_lets s1 src s2 s3
  have t1 : s1.farTidy := by
    unfold s1
    split
    · exact h
    · exact State.farTidy_farRestart h n
  exact State.farTidy_linkTo (State.farTidy_updFar (State.farTidy_farRewind (s := s2) t1 n) (by simp [Far.conserved])) n .training

/-- A next state of the outcome keeps the slots of every far link. -/
def EndsTidy (o : Host.Outcome State Fault Refusal) : Prop := ∀ t, o = .next t → t.farTidy

theorem endsTidy_next {t : State} (h : t.farTidy) : EndsTidy (.next t) := by
  intro u next
  injection next with next
  exact next ▸ h

section
variable {s : State} (h : s.farTidy)
include h

theorem execFarTrainingDone_tidy (n rtt : Nat) : EndsTidy (execFarTrainingDone n rtt s) := by
  unfold execFarTrainingDone
  extract_lets l s1 s2 s3
  have t2 : s2.farTidy := State.farTidy_linkTo (State.farTidy_updFar h (h n)) n .far
  split
  · exact endsTidy_next h
  split
  · exact endsTidy_next (State.farTidy_farMismatch h n)
  · refine endsTidy_next (State.farTidy_farPump ?_ n)
    unfold s3
    split
    · exact State.farTidy_farControl t2 n 0x12 _
    · exact State.farTidy_farReplay t2 n

theorem execFarDataFrame_tidy (n : Nat) (f : FarFrame) : EndsTidy (execFarDataFrame n f s) := by
  unfold execFarDataFrame
  extract_lets l s1 count len
  have t1 : s1.farTidy := State.farTidy_updLink h (h n)
  split
  · exact endsTidy_next h
  split
  · exact endsTidy_next (State.farTidy_farRefuse (State.farTidy_farTagFail t1 n) n false)
  · extract_lets s2 s3
    split
    · exact endsTidy_next (State.farTidy_farRefuse t1 n false)
    split
    · exact endsTidy_next (State.farTidy_farAckSend t1 n)
    split
    · exact endsTidy_next (State.farTidy_farRefuse t1 n false)
    split
    · have rewound := State.farTidy_farRewind t1 n
      exact endsTidy_next (State.farTidy_farRefuse (State.farTidy_updFar rewound (rewound n)) n true)
    · have taken : s2.farTidy := State.farTidy_farTakeCell t1 n _ _ _
      have moved : s3.farTidy := State.farTidy_updFar taken (taken n)
      split
      · exact endsTidy_next (State.farTidy_farAckSend moved n)
      · exact endsTidy_next moved

theorem execFarIdle_tidy (n : Nat) (f : FarFrame) : EndsTidy (execFarIdle n f s) := endsTidy_next (State.farTidy_farTake h n 0x01 f)

theorem execFarDiscovery_tidy (n : Nat) (f : FarFrame) : EndsTidy (execFarDiscovery n f s) := by
  unfold execFarDiscovery
  extract_lets r
  have taken : r.1.farTidy := State.farTidy_farTake h n 0x04 f
  split
  · exact endsTidy_next taken
  · next p _ =>
    extract_lets s1
    have learnt : (r.1.learn n p).farTidy := State.farTidy_of_wires (r.1.learn_wires n p) (State.farTidy_updLink taken (taken n))
    have found : s1.farTidy := State.farTidy_updFar learnt (learnt n)
    split
    · exact endsTidy_next found
    · exact endsTidy_next (State.farTidy_farMismatch found n)

theorem execFarTime_tidy (n : Nat) (f : FarFrame) : EndsTidy (execFarTime n f s) := by
  unfold execFarTime
  split
  · exact endsTidy_next h
  extract_lets r s1
  have taken : r.1.farTidy := State.farTidy_farTake h n 0x10 f
  split
  · exact endsTidy_next taken
  · extract_lets w site period rtt there beyond first s2 s3
    have timed : s2.farTidy := State.farTidy_updFar taken (taken n)
    have raised : s3.wires = s2.wires := by simp [s3]
    clear_value s3
    exact endsTidy_next (State.farTidy_of_wires (by simp [raised]) timed)

theorem execFarAck_tidy (n : Nat) (f : FarFrame) : EndsTidy (execFarAck n f s) := by
  unfold execFarAck
  extract_lets r
  have taken : r.1.farTidy := State.farTidy_farTake h n 0x11 f
  split
  · exact endsTidy_next taken
  · extract_lets w next s1 s2
    have freed : s1.farTidy := by
      refine State.farTidy_updFar taken ?_
      have slots := taken n
      have fewer := List.length_filter_le (fun h : FarHeld => decide (next ≤ h.count)) (r.1.link n).far.held
      simp only [Far.conserved] at slots ⊢
      omega
    refine endsTidy_next (State.farTidy_farPump ?_ n)
    unfold s2
    split
    · exact State.farTidy_farReplay freed n
    · exact freed

theorem execFarRestartFrame_tidy (n : Nat) (f : FarFrame) : EndsTidy (execFarRestartFrame n f s) := by
  unfold execFarRestartFrame
  extract_lets r
  have taken : r.1.farTidy := State.farTidy_farTake h n 0x12 f
  split
  · exact endsTidy_next taken
  · extract_lets count s1
    split
    · exact endsTidy_next (State.farTidy_farAckSend taken n)
    · have rewound := State.farTidy_farRewind taken n
      have moved : s1.farTidy := State.farTidy_farAckSend (State.farTidy_updFar rewound (rewound n)) n
      exact endsTidy_next (State.farTidy_of_wires (by simp) moved)

theorem execFarAckSend_tidy (n : Nat) : EndsTidy (execFarAckSend n s) := by
  unfold execFarAckSend
  repeat' split
  exacts [endsTidy_next h, endsTidy_next (State.farTidy_farAckSend h n), endsTidy_next (State.farTidy_farControl h n 0x04 _), endsTidy_next h]

theorem execFarHoldExpiry_tidy (n : Nat) : EndsTidy (execFarHoldExpiry n s) := by
  unfold execFarHoldExpiry
  split
  · exact endsTidy_next h
  · exact endsTidy_next (State.farTidy_farReplay (State.farTidy_updFar h (h n)) n)

theorem execFarReplayTimeout_tidy (n : Nat) : EndsTidy (execFarReplayTimeout n s) := by
  unfold execFarReplayTimeout
  split
  · exact endsTidy_next h
  · exact endsTidy_next (State.farTidy_farReplay h n)

theorem execFarAckStall_tidy (n : Nat) : EndsTidy (execFarAckStall n s) := by
  unfold execFarAckStall
  dsimp only
  split
  · exact endsTidy_next h
  · exact endsTidy_next (State.farTidy_farRestart h n)

theorem execFarCodewordLockLost_tidy (n : Nat) : EndsTidy (execFarCodewordLockLost n s) := by
  unfold execFarCodewordLockLost
  split
  · exact endsTidy_next h
  · have rewound := State.farTidy_farRewind h n
    exact endsTidy_next (State.farTidy_farTrain (State.farTidy_updFar rewound (rewound n)) n)

theorem execFarRetrainTimeout_tidy (n : Nat) : EndsTidy (execFarRetrainTimeout n s) := by
  unfold execFarRetrainTimeout
  dsimp only
  split
  · exact endsTidy_next h
  · exact endsTidy_next (State.farTidy_farRestart h n)

theorem execFarAuth_tidy (n : Nat) : EndsTidy (execFarAuth n s) := by
  unfold execFarAuth
  split
  · exact endsTidy_next h
  · exact endsTidy_next (State.farTidy_raise (State.farTidy_updFar h (h n)) _)

theorem execFarKeyAge_tidy (n : Nat) : EndsTidy (execFarKeyAge n s) := by
  unfold execFarKeyAge
  split
  · exact endsTidy_next h
  · exact endsTidy_next (State.farTidy_raise (State.farTidy_updFar h (h n)) _)

end

/-! ### A packet enters (R557) -/

theorem chunksOf_length {α : Type} {n : Nat} (some_ : n ≠ 0) (l : List α) : (chunksOf n l).length = cdiv l.length n := by
  simp [chunksOf, some_]

theorem hopped_length (ws : List W64) : (hopped ws).length = ws.length := by
  cases ws with
  | nil => rfl
  | cons w r => simp only [hopped, List.length_cons]

theorem farFrames_length (t : TxPacket) (id count : Nat) : (farFrames t id count).length = t.cells := by
  unfold farFrames
  extract_lets cells
  rw [List.length_map, List.length_range, chunksOf_length (by decide), List.length_cons, hopped_length, TxPacket.cells, cellsFor]

/-- The packet goes out by the link, whose buffer has a slot for each of its frames. -/
theorem State.slots_of_port {s : State} {t : TxPacket} {n : Nat}
    (mine : (t.far && (t.ports.find? fun p => s.usable t p && t.cells ≤ (s.link p).far.freeSlots) == some n) = true) :
    t.cells ≤ (s.link n).far.freeSlots := by
  simp only [Bool.and_eq_true, beq_iff_eq] at mine
  have fits := List.find?_some mine.2
  simpa using (Bool.and_eq_true_iff.mp fits).2

/-! ### FAR_ENABLE (R544) -/

/-- The module once FAR_ENABLE of link n has taken buffer b: a trained link is taken down, its receive queues take the far link's allocation and the
link trains towards the site. -/
def State.farEnabled (s : State) (n b site : Nat) (by_ : CmdRef) : State :=
  let l := s.link n
  let s := if l.state == .trained then s.linkDown n else s
  let s := { s with mem := { s.mem with farBuffers := s.mem.farBuffers ++ [(b, n)] } }
  let s := (s.updLink n fun l => { l with alloc := farAlloc, retrainBy := some by_ }).openLinkQueues n farAlloc
  let slot := if (l.far.keys.find l.far.sendSlot).isSome then l.far.sendSlot else 1 - l.far.sendSlot
  let s := s.updFar n fun f => { f with on := true, site := site, sendSlot := slot, held := [], freeSlots := 1519104, lastTime := none }
  s.farTrain n

theorem execFarEnable_eq (r : Req) (s : State) : execFarEnable r s = .next (s.kettle r 0x0200 false adminClass fun k s =>
    let a := k.arg 0
    let n := fld a 5 0
    if k.args.length ≠ 1 || fld a 7 6 ≠ 0 || fld a 63 12 ≠ 0 || 47 < n then done s St.reserved
    else if (s.link n).far.on then done s St.noEffect
    else match s.freeBuffer with
      | none => done s St.farlinkNoBuffer
      | some b =>
        if (s.link n).far.keys.isEmpty then done s St.farNoKey
        else if 262144 < max (s.poolGuarantees n farAlloc) (s.poolGuarantees n (s.link n).allocNext) then done s St.noResource
        else done (s.farEnabled n b (fld a 11 8) k.ref) St.accepted) := rfl

theorem State.farTidy_farEnabled {s : State} (h : s.farTidy) (n b site : Nat) (by_ : CmdRef) : (s.farEnabled n b site by_).farTidy := by
  unfold State.farEnabled
  extract_lets l s1 src s2 s3 slot s4
  have t1 : s1.farTidy := by
    unfold s1
    split
    · exact State.farTidy_linkDown h n
    · exact h
  have t3 : s3.farTidy := State.farTidy_of_wires (State.openLinkQueues_wires ..) (State.farTidy_updLink (s := s2) t1 (t1 n))
  clear_value s3
  have t4 : s4.farTidy := State.farTidy_updFar t3 (by simp [Far.conserved])
  exact State.farTidy_farTrain t4 n

section
variable {s : State} (h : s.farTidy)
include h

theorem execFarPacketEnter_tidy (n : Nat) : EndsTidy (execFarPacketEnter n s) := by
  unfold execFarPacketEnter
  extract_lets l mine
  split
  · exact endsTidy_next h
  · next t found =>
    extract_lets fs s1 fabric s2
    have t1 : s1.farTidy := by
      refine State.farTidy_updFar h ?_
      have slots := h n
      have own : mine t = true := List.find?_some found
      have fits := State.slots_of_port own
      have frames : fs.length = t.cells := farFrames_length ..
      simp only [Far.conserved, List.length_append] at slots ⊢
      omega
    have t2 : s2.farTidy := t1
    exact endsTidy_next (State.farTidy_farPump (State.farTidy_of_wires (State.freeSource_wires ..) t2) n)

theorem execFarDisable_tidy (r : Req) : EndsTidy (execFarDisable r s) := by
  refine endsTidy_next (State.farTidy_kettle (fun k s h => ?_) h _ _ _ _)
  dsimp only
  repeat' split
  exacts [h, h, State.farTidy_farLeave h _]

theorem execFarEnable_tidy (r : Req) : EndsTidy (execFarEnable r s) := by
  rw [execFarEnable_eq]
  refine endsTidy_next (State.farTidy_kettle (fun k s h => ?_) h _ _ _ _)
  dsimp only
  repeat' split
  exacts [h, h, h, h, h, State.farTidy_farEnabled h _ _ _ _]

end

end Sys2Proof.Machine
end

section
/-! SUPPORT. Proofs/FarLinks.lean: the commands of far links (R544 to R566). -/
namespace Sys2Proof.Machine

/-! ### Of every far link free and held slots stay the buffer's (R557) -/

theorem exec_tidy {s : State} (h : s.farTidy) {c : Instr} {l : Nat} {f : FarFrame} {n : Nat} {r : Req}
    (listed : c ∈ [Instr.farTrainingDone l n, .farDataFrame l f, .farIdle l f, .farDiscovery l f, .farTime l f, .farAck l f, .farRestartFrame l f,
      .farAckSend l, .farHoldExpiry l, .farReplayTimeout l, .farAckStall l, .farCodewordLockLost l, .farRetrainTimeout l, .farAuth l, .farKeyAge l,
      .farPacketEnter l, .farEnable r, .farDisable r]) : EndsTidy (exec c s) := by
  simp only [List.mem_cons, List.not_mem_nil, or_false] at listed
  obtain rfl | rfl | rfl | rfl | rfl | rfl | rfl | rfl | rfl | rfl | rfl | rfl | rfl | rfl | rfl | rfl | rfl | rfl := listed
  exacts [execFarTrainingDone_tidy h l n, execFarDataFrame_tidy h l f, execFarIdle_tidy h l f, execFarDiscovery_tidy h l f, execFarTime_tidy h l f,
    execFarAck_tidy h l f, execFarRestartFrame_tidy h l f, execFarAckSend_tidy h l, execFarHoldExpiry_tidy h l, execFarReplayTimeout_tidy h l,
    execFarAckStall_tidy h l, execFarCodewordLockLost_tidy h l, execFarRetrainTimeout_tidy h l, execFarAuth_tidy h l, execFarKeyAge_tidy h l,
    execFarPacketEnter_tidy h l, execFarEnable_tidy h r, execFarDisable_tidy h r]

/-! ### What the taking of a request leaves -/

/-- A consumer's taking of a packet replaces the queue's entry by one that is enabled and guaranteed as before. -/
theorem Pool.consume_queues (p : Pool) (qid seq : Nat) : ∃ q : Queue, (p.consume qid seq).1.queues = p.queues.set qid q ∧
    q.enabled = (p.queue qid).enabled ∧ q.guarantee = (p.queue qid).guarantee := by
  unfold Pool.consume Pool.release
  dsimp only
  refine ⟨_, Tbl.set_set_self .., ?_, ?_⟩
  · change ((Pool.setQueue p qid _).queue qid).enabled = _
    rw [Pool.queue_setQueue]
  · change ((Pool.setQueue p qid _).queue qid).guarantee = _
    rw [Pool.queue_setQueue]

section
variable (s : State) (r : Req)

theorem State.taken_queues (p : Nat) : ((s.taken r).pool p).queues = (s.pool p).queues ∨
    ∃ qid q, ((s.taken r).pool p).queues = (s.pool p).queues.set qid q ∧
    (s.queue p qid).packets ≠ [] ∧ q.enabled = (s.queue p qid).enabled ∧ q.guarantee = (s.queue p qid).guarantee := by
  unfold State.taken State.takeOldest
  split
  · exact .inl rfl
  · next k rest held =>
    by_cases other : 0 = p
    · subst other
      obtain ⟨q, queues, enabled, guarantee⟩ := (s.pool 0).consume_queues (0x100 + 2 * r.mb) k.seq
      exact .inr ⟨_, q, by rw [State.pool_setPool, queues], by simp [held], enabled, guarantee⟩
    · exact .inl (by rw [State.pool_setPool_ne _ _ other])

theorem State.taken_queue_room (p n : Nat) : ((s.taken r).queue p n).enabled = (s.queue p n).enabled ∧
    ((s.taken r).queue p n).guarantee = (s.queue p n).guarantee := by
  simp only [State.queue, Pool.queue]
  obtain same | ⟨qid, q, queues, -, enabled, guarantee⟩ := s.taken_queues r p
  · rw [same]
    exact ⟨rfl, rfl⟩
  · rw [queues, Tbl.get_set]
    split
    · next own => exact own ▸ ⟨enabled, guarantee⟩
    · exact ⟨rfl, rfl⟩

theorem State.taken_sum (p : Nat) {f : Nat → Nat × Queue → Nat}
    (same : ∀ n k (q q' : Queue), q.enabled = q'.enabled → q.guarantee = q'.guarantee → f n (k, q) = f n (k, q')) :
    ((s.taken r).pool p).queues.foldl f 0 = (s.pool p).queues.foldl f 0 := by
  obtain unmoved | ⟨qid, q, queues, held, enabled, guarantee⟩ := s.taken_queues r p
  · rw [unmoved]
  · rw [queues]
    refine Tbl.foldl_set _ _ {} _ _ (fun default => held ?_) (fun n => same n qid _ _ enabled guarantee) 0
    rw [State.queue, Pool.queue, default]

@[simp] theorem State.taken_link (n : Nat) : (s.taken r).link n = s.link n := by
  obtain ⟨pools, taken⟩ := s.taken_eq r
  rw [taken]
  rfl

@[simp] theorem State.taken_trust : (s.taken r).trust = s.trust := by
  obtain ⟨pools, taken⟩ := s.taken_eq r
  rw [taken]

@[simp] theorem State.taken_mem : (s.taken r).mem = s.mem := s.takeOldest_mem ..

@[simp] theorem State.taken_freeBuffer : (s.taken r).freeBuffer = s.freeBuffer := by simp only [State.freeBuffer, State.taken_trust, State.taken_mem]

@[simp] theorem State.taken_linkGuarantees (n : Nat) : (s.taken r).linkGuarantees n = s.linkGuarantees n := by
  have room (p q : Nat) := s.taken_queue_room r p q
  simp only [State.linkGuarantees, (room _ _).1, (room _ _).2]

@[simp] theorem State.taken_poolGuarantees (n : Nat) (alloc : W64) : (s.taken r).poolGuarantees n alloc = s.poolGuarantees n alloc := by
  have others := s.taken_sum r (n / 24) (f := fun n e => if 0xC0 ≤ e.1 && e.2.enabled then n + e.2.guarantee else n)
    fun _ _ _ _ enabled guarantee => by simp only [enabled, guarantee]
  simp only [State.poolGuarantees, State.taken_linkGuarantees, State.taken_link, others]

end

/-! ### FAR_ENABLE, FAR_DISABLE, FAR_KEY_LOAD and FAR_KEY_SWITCH (R544, R547, R550) -/

theorem State.farTrain_line (s : State) (n : Nat) : ((s.farTrain n).link n).line =
    ({ s.link n with state := .training, far := { (s.link n).far with
      state := 1, discovered := false, nak := false, nakHold := false, holding := false,
      rxCount := if (s.link n).far.on then (s.link n).far.rxStart else (s.link n).far.rxCount } } : Link).line := by
  refine (State.line_of_wires (State.farControl_wires ..) n).trans ((State.line_linkTo ..).trans ?_)
  rw [State.link_updFar]
  cases on : (s.link n).far.on <;> simp [Link.toward, on]

theorem State.linkTo_farBuffers (s : State) (n : Nat) (new : LinkState) : (s.linkTo n new).mem.farBuffers = s.mem.farBuffers :=
  State.farBuffers_of_wires (s := s.setLink n ((s.link n).toward new)) (s.linkTo_wires n new)

theorem State.farTrain_farBuffers (s : State) (n : Nat) : (s.farTrain n).mem.farBuffers = s.mem.farBuffers :=
  (State.farBuffers_of_wires (State.farControl_wires ..)).trans (State.linkTo_farBuffers ..)

section
variable {s : State} {r : Req} {n : Nat}

theorem exec_farEnable_eq (r : Req) (s : State) : exec (.farEnable r) s = execFarEnable r s := rfl

theorem exec_farEnable_of_asked {site : Nat} (asked : s.asked r 0x0200 false adminClass .module = true) (below : n < 48) (known : site < 16)
    (args : reqArgs r 0x0200 = [mkWord [(0, 6, n), (8, 4, site)]]) :
    let f := (s.link n).far
    (∀ b, f.on = false → s.freeBuffer = some b → f.keys ≠ [] →
      s.poolGuarantees n farAlloc ≤ 262144 → s.poolGuarantees n (s.link n).allocNext ≤ 262144 →
      exec (.farEnable r) s = answered r 0x0200 St.accepted [] ((s.taken r).farEnabled n b site (reqOf r 0x0200 .module).ref)) ∧
    (f.on = false → s.freeBuffer ≠ none → f.keys ≠ [] → 262144 < s.poolGuarantees n farAlloc ∨ 262144 < s.poolGuarantees n (s.link n).allocNext →
      exec (.farEnable r) s = answered r 0x0200 St.noResource [] (s.taken r)) ∧
    (f.on = true → exec (.farEnable r) s = answered r 0x0200 St.noEffect [] (s.taken r)) ∧
    (f.on = false → s.freeBuffer = none → exec (.farEnable r) s = answered r 0x0200 St.farlinkNoBuffer [] (s.taken r)) ∧
    (f.on = false → s.freeBuffer ≠ none → f.keys = [] → exec (.farEnable r) s = answered r 0x0200 St.farNoKey [] (s.taken r)) := by
  have named : n % 64 = n := Nat.mod_eq_of_lt (by omega)
  have site_ : site % 16 = site := Nat.mod_eq_of_lt known
  have legal : ¬ 47 < n := by omega
  refine ⟨fun b off buffer keys main next => ?_, fun off buffer keys beyond => ?_, fun on => ?_, fun off none_ => ?_, fun off buffer keys => ?_⟩
  all_goals rw [exec_farEnable_eq, execFarEnable_eq]; refine exec_of_asked asked _ ?_
  · simp [reqOf, KReq.arg, args, named, site_, legal, off, buffer, keys, main, next, done, KReq.ref]
  · obtain ⟨b, buffer⟩ := Option.ne_none_iff_exists'.mp buffer
    have beyond : 262144 < max (s.poolGuarantees n farAlloc) (s.poolGuarantees n (s.link n).allocNext) := lt_max_iff.mpr beyond
    simp [reqOf, KReq.arg, args, named, legal, off, buffer, keys, beyond, done, -lt_sup_iff]
  · simp [reqOf, KReq.arg, args, named, legal, on, done]
  · simp [reqOf, KReq.arg, args, named, legal, off, none_, done]
  · obtain ⟨b, buffer⟩ := Option.ne_none_iff_exists'.mp buffer
    simp [reqOf, KReq.arg, args, named, legal, off, buffer, keys, done]

end

section
variable (s : State) (n : Nat)

theorem State.farRestart_farBuffers : (s.farRestart n).mem.farBuffers = s.mem.farBuffers := by
  unfold State.farRestart
  extract_lets f lost t u
  have raised : u.mem.farBuffers = t.mem.farBuffers := State.farBuffers_of_wires (State.raise_wires t _)
  split
  · exact (State.farBuffers_of_wires (State.farControl_wires ..)).trans raised
  · exact raised

theorem State.linkDown_farBuffers : (s.linkDown n).mem.farBuffers = s.mem.farBuffers := by
  unfold State.linkDown
  extract_lets lost s1 s2 s3 s4 r s5
  have taken : s1.mem.farBuffers = s.mem.farBuffers := s.linkTo_farBuffers n .down
  have rewound : s2.wires = s1.wires := by simp [s2]
  clear_value s2
  have forgotten : s4.mem.farBuffers = s2.mem.farBuffers := State.farBuffers_of_wires (s := s3) (s3.forgetLink_wires n)
  have resent : r.1.wires = s4.wires := wires_foldl _ _ _ fun p a => p.1.resend_wires n a
  have dropped : s5.wires = s4.wires := by
    unfold s5
    split <;> simpa using resent
  calc ((s5.raise _).linkTo n .training).mem.farBuffers = (s5.raise _).mem.farBuffers := State.linkTo_farBuffers ..
    _ = s5.mem.farBuffers := State.farBuffers_of_wires (State.raise_wires ..)
    _ = s4.mem.farBuffers := State.farBuffers_of_wires dropped
    _ = s2.mem.farBuffers := forgotten
    _ = s1.mem.farBuffers := State.farBuffers_of_wires rewound
    _ = s.mem.farBuffers := taken

/-- FAR_ENABLE's effect on the link and the buffers (R544). -/
theorem State.farEnabled_effect (b site : Nat) (by_ : CmdRef) : let u := s.farEnabled n b site by_
    (u.link n).far.on = true ∧ (u.link n).far.site = site ∧ (u.link n).far.held = [] ∧ (u.link n).far.freeSlots = 1519104 ∧
      (u.link n).state = .training ∧ u.mem.farBuffers = s.mem.farBuffers ++ [(b, n)] := by
  unfold State.farEnabled
  extract_lets l s1 src s2 s3 slot s4
  have s1_buffers : s1.mem.farBuffers = s.mem.farBuffers := by
    unfold s1
    split
    · exact s.linkDown_farBuffers n
    · rfl
  have opened : s3.wires = s2.wires := (State.openLinkQueues_wires ..).trans (State.updLink_wires rfl)
  clear_value s3
  have own : (s4.link n).far = { (s3.link n).far with on := true, site := site, sendSlot := slot, held := [], freeSlots := 1519104, lastTime := none } := by
    rw [State.link_updFar]
  have buffers : s4.mem.farBuffers = s.mem.farBuffers ++ [(b, n)] := calc
    s4.mem.farBuffers = s3.mem.farBuffers := s3.updFar_farBuffers n _
    _ = s2.mem.farBuffers := State.farBuffers_of_wires opened
    _ = s.mem.farBuffers ++ [(b, n)] := congrArg (· ++ [(b, n)]) s1_buffers
  clear_value s4
  have line := s4.farTrain_line n
  refine ⟨?_, ?_, ?_, ?_, congrArg (fun q => q.2.1) line, ?_⟩
  · exact (congrArg (fun q => q.1.on) line).trans (congrArg Far.on own)
  · exact (congrArg (fun q => q.1.site) line).trans (congrArg Far.site own)
  · exact (congrArg (fun q => q.1.held) line).trans (congrArg Far.held own)
  · exact (congrArg (fun q => q.1.freeSlots) line).trans (congrArg Far.freeSlots own)
  · exact (s4.farTrain_farBuffers n).trans buffers

/-- FAR_DISABLE's effect on the link and the buffers (R544). -/
theorem State.farLeave_effect : let u := s.farLeave n
    (u.link n).far.on = false ∧ (u.link n).far.held = [] ∧ (u.link n).state = .training ∧
      u.mem.farBuffers = s.mem.farBuffers.filter fun e => e.2 ≠ n := by
  unfold State.farLeave
  extract_lets s1 src s2 s3
  have s1_buffers : s1.mem.farBuffers = s.mem.farBuffers := by
    unfold s1
    split
    · rfl
    · exact s.farRestart_farBuffers n
  have rewound : (s2.farRewind n).mem.farBuffers = s2.mem.farBuffers := State.farBuffers_of_wires (s2.farRewind_wires n)
  have off : (s3.link n).far.on = false := by rw [State.link_updFar]
  have empty : (s3.link n).far.held = [] := by rw [State.link_updFar]
  have buffers : s3.mem.farBuffers = s.mem.farBuffers.filter fun e => e.2 ≠ n :=
    rewound.trans (congrArg (List.filter fun e => e.2 ≠ n) s1_buffers)
  clear_value s3
  have line := s3.line_linkTo n .training
  have toward : ((s3.link n).toward .training).far = (s3.link n).far := by simp [Link.toward, off]
  refine ⟨?_, ?_, congrArg (fun q => q.2.1) line, ?_⟩
  · exact (congrArg (fun q => q.1.on) line).trans ((congrArg Far.on toward).trans off)
  · exact (congrArg (fun q => q.1.held) line).trans ((congrArg Far.held toward).trans empty)
  · exact (s3.linkTo_farBuffers n .training).trans buffers

end

theorem exec_farDisable_of_asked {s : State} {r : Req} {n : Nat} (asked : s.asked r 0x0201 false adminClass .module = true) (below : n < 48)
    (args : reqArgs r 0x0201 = [BitVec.ofNat 64 n]) :
    ((s.link n).far.on = true → exec (.farDisable r) s = answered r 0x0201 St.accepted [] ((s.taken r).farLeave n)) ∧
    ((s.link n).far.on = false → exec (.farDisable r) s = answered r 0x0201 St.noEffect [] (s.taken r)) := by
  have named : (BitVec.ofNat 64 n).toNat = n := Nat.mod_eq_of_lt (by omega)
  have legal : ¬ 47 < n := by omega
  refine ⟨fun on => exec_of_asked asked _ ?_, fun off => exec_of_asked asked _ ?_⟩
  · simp only [reqOf, KReq.arg, args, List.getD_cons_zero, named]
    simp [legal, on, done]
  · simp only [reqOf, KReq.arg, args, List.getD_cons_zero, named]
    simp [legal, off, done]

theorem b2n_bitAt (w : W64) (i : Nat) : b2n (bitAt w i) = fld w i i := by
  simp only [b2n, bitAt, fld, BitVec.getLsbD, Nat.testBit_eq_decide_div_mod_eq, decide_eq_true_eq, Nat.add_sub_cancel_left, Nat.pow_one]
  split <;> omega

/-- The operand word of FAR_KEY_LOAD and FAR_KEY_SWITCH for a link and a key slot (R547). -/
theorem fld_keyWord {n slot : Nat} (below : n < 48) (key : slot < 2) : let a := mkWord [(0, 6, n), (8, 1, slot)]
    fld a 5 0 = n ∧ b2n (bitAt a 8) = slot ∧ fld a 7 6 = 0 ∧ fld a 63 9 = 0 := by
  intro a
  rw [b2n_bitAt]
  simp [a]
  omega

theorem exec_farKeyLoad_of_asked {s : State} {r : Req} {n slot handle salt i : Nat} {e : KeyEntry}
    (asked : s.asked r 0x0202 false adminClass .module = true) (below : n < 48) (key : slot < 2) (handle_ : handle < 2 ^ 32) (salt_ : salt < 2 ^ 32)
    (known : s.trust.resolve handle = some (i, e))
    (args : reqArgs r 0x0202 = [mkWord [(0, 6, n), (8, 1, slot)], mkWord [(0, 32, handle), (32, 32, salt)]]) :
    (e.kind = 2 → (s.link n).sendsWith slot = false →
      (∀ q k, (s.link n).far.keys.find slot = some q → q.accepted = some k → k + 16 ≤ s.now) →
      exec (.farKeyLoad r) s = answered r 0x0202 St.ok [] ((s.taken r).updFar n fun f => { f with
        keys := f.keys.set slot { handle := handle, salt := salt, key := e.key } })) ∧
    (e.kind ≠ 2 → exec (.farKeyLoad r) s = answered r 0x0202 St.keyUnknown [] (s.taken r)) ∧
    (e.kind = 2 → (s.link n).sendsWith slot = true → exec (.farKeyLoad r) s = answered r 0x0202 St.farKeyBusy [] (s.taken r)) := by
  obtain ⟨link, slot_, zero, rest⟩ := fld_keyWord below key
  have legal : ¬ 47 < n := by omega
  have low : fld (mkWord [(0, 32, handle), (32, 32, salt)]) 31 0 = handle := by simpa using Nat.mod_eq_of_lt handle_
  have high : fld (mkWord [(0, 32, handle), (32, 32, salt)]) 63 32 = salt := by simpa using Nat.mod_eq_of_lt salt_
  refine ⟨fun far idle unused => exec_of_asked asked _ ?_, fun other => exec_of_asked asked _ ?_, fun far sends => exec_of_asked asked _ ?_⟩
  all_goals simp only [reqOf, KReq.arg, args, List.getD_cons_zero, List.getD_cons_succ, link, slot_, zero, rest, low, high, State.taken_link,
    State.taken_trust, known]
  · cases found : (s.link n).far.keys.find slot with
    | none => simp [legal, far, idle, done]
    | some q =>
      cases taken : q.accepted with
      | none => simp [legal, far, idle, done, taken]
      | some k => simp [legal, far, idle, done, taken, unused q k found taken]
  · simp [legal, other, done]
  · simp [legal, far, sends, done]

theorem exec_farKeySwitch_of_asked {s : State} {r : Req} {n slot at_ : Nat} (asked : s.asked r 0x0203 false adminClass .module = true) (below : n < 48)
    (key : slot < 2) (later : s.now < at_) (word : at_ < 2 ^ 64)
    (args : reqArgs r 0x0203 = [mkWord [(0, 6, n), (8, 1, slot)], BitVec.ofNat 64 at_]) :
    exec (.farKeySwitch r) s = if ((s.link n).far.keys.find slot).isSome then
        answered r 0x0203 St.accepted [] ((s.taken r).updFar n fun f => { f with switch := some (slot, at_, (reqOf r 0x0203 .module).ref) })
      else answered r 0x0203 St.farNoKey [] (s.taken r) := by
  obtain ⟨link, slot_, zero, rest⟩ := fld_keyWord below key
  have legal : ¬ 47 < n := by omega
  have time : (BitVec.ofNat 64 at_).toNat = at_ := Nat.mod_eq_of_lt word
  have due : ¬ at_ ≤ s.now := by omega
  split
  · next loaded =>
    refine exec_of_asked asked _ ?_
    simp only [reqOf, KReq.arg, args, List.getD_cons_zero, List.getD_cons_succ, link, slot_, zero, rest, time, State.taken_link, State.taken_now]
    simp [legal, due, Option.isSome_iff_ne_none.mp loaded, done, KReq.ref]
  · next missing =>
    refine exec_of_asked asked _ ?_
    simp only [reqOf, KReq.arg, args, List.getD_cons_zero, List.getD_cons_succ, link, slot_, zero, rest, time, State.taken_link, State.taken_now]
    simp [legal, due, Option.not_isSome_iff_eq_none.mp missing, done]

/-! ### The end of training (R552, R554) -/

section
variable {s : State} {n : Nat}

theorem execFarTrainingDone_of_known {rtt : Nat} (below : n < 48) (on : (s.link n).far.on = true) (training : (s.link n).state = .training)
    (discovered : (s.link n).far.discovered = true) (known : s.farSiteOk n = true) : ∃ t, execFarTrainingDone n rtt s = .next t ∧
      (t.link n).state = .far ∧ (t.link n).far.rtt = rtt ∧ (t.link n).far.rttRef = rtt ∧ (t.link n).far.w = farWindow rtt ∧
      (t.link n).far.held.map FarHeld.count = (s.link n).far.held.map FarHeld.count := by
  unfold execFarTrainingDone
  extract_lets l s1 s2 s3
  rw [if_neg (by simp [l, on, training, discovered, below]), if_neg (by simp [known])]
  have answered : s3.wires = s2.wires := by
    unfold s3
    split
    · exact State.farControl_wires ..
    · exact State.farReplay_wires ..
  have line : (s3.link n).line = ((s1.link n).toward .far).line := (State.line_of_wires answered n).trans (s1.line_linkTo n .far)
  have calm := (s3.farPump_calm n n).trans (Link.calm_of_line line)
  have toward : ((s1.link n).toward .far).far = (s1.link n).far := by simp [Link.toward]
  refine ⟨_, rfl, congrArg Prod.snd calm, ?_, ?_, ?_, (Link.held_counts_of_calm calm).trans ?_⟩
  · exact (congrArg (fun q => q.1.rtt) calm).trans (show ((s1.link n).toward .far).far.rtt = rtt by rw [toward, State.link_updFar])
  · exact (congrArg (fun q => q.1.rttRef) calm).trans (show ((s1.link n).toward .far).far.rttRef = rtt by rw [toward, State.link_updFar])
  · exact (congrArg (fun q => q.1.w) calm).trans (show ((s1.link n).toward .far).far.w = farWindow rtt by rw [toward, State.link_updFar])
  · rw [toward, State.link_updFar]

theorem execFarTrainingDone_of_stranger {rtt : Nat} (below : n < 48) (on : (s.link n).far.on = true) (training : (s.link n).state = .training)
    (discovered : (s.link n).far.discovered = true) (stranger : s.farSiteOk n = false) : ∃ t, execFarTrainingDone n rtt s = .next t ∧
      (t.link n).state = .failed ∧ (t.link n).far.state = 0 := by
  have line : ((s.farMismatch n).link n).line = (((s.updFar n fun f => { f with state := 0 }).link n).toward .failed).line :=
    (State.line_of_wires (State.raise_wires ..) n).trans (State.line_linkTo ..)
  refine ⟨s.farMismatch n, ?_, congrArg (fun q => q.2.1) line, (congrArg (fun q => q.1.state) line).trans (by simp [Link.line, Far.aside, Link.toward])⟩
  unfold execFarTrainingDone
  extract_lets l s1 s2 s3
  rw [if_neg (by simp [l, on, training, discovered, below]), if_pos (by simp [stranger])]

end

/-! ### Frames received (R555, R560, R562, R564) -/

/-- A change of the link that leaves its far-link state leaves what a frame opens to. -/
theorem State.farOpen_updLink (s : State) (n : Nat) (g : Link → Link) (f : FarFrame) (far : (g (s.link n)).far = (s.link n).far) :
    (s.updLink n g).farOpen n f = s.farOpen n f := by
  simp only [State.farOpen, State.farHigh, State.link_updLink, far]
  rfl

theorem State.farAckSend_line (s : State) (n : Nat) :
    ((s.farAckSend n).link n).line = ({ s.link n with far := { (s.link n).far with sinceAck := 0 } } : Link).line := by
  refine (State.line_of_wires (s.farAckSend_wires n) n).trans ?_
  rw [State.link_updFar]

/-- A refused frame leaves NAK set and the counts as they were (R560). -/
theorem State.farRefuse_effect (s : State) (n : Nat) (hold : Bool) : let r := ((s.farRefuse n hold).link n).far
    r.nak = true ∧ r.rxCount = (s.link n).far.rxCount ∧ r.authFails = (s.link n).far.authFails := by
  unfold State.farRefuse
  split
  · next nak => exact ⟨nak, rfl, rfl⟩
  · have line := (s.updFar n fun f => { f with nak := true, nakHold := hold }).farAckSend_line n
    rw [State.link_updFar] at line
    exact ⟨congrArg (fun q => q.1.nak) line, congrArg (fun q => q.1.rxCount) line, congrArg (fun q => q.1.authFails) line⟩

/-- The link with a frame's corrected and lost symbols counted. -/
def State.farHeard (s : State) (n : Nat) (f : FarFrame) : State :=
  s.updLink n fun l => { l with fecSymbols := satN 32 (l.fecSymbols + f.symbols), fecUncorr := satN 16 (l.fecUncorr + f.lost) }

theorem State.farHeard_open (s : State) (n : Nat) (f : FarFrame) : (s.farHeard n f).farOpen n f = s.farOpen n f := s.farOpen_updLink n _ f rfl

/-- A control frame that opens moves the control count on and marks its key as used (R555). -/
def State.farTaken (s : State) (n : Nat) (f : FarFrame) : State :=
  (s.farHeard n f).updFar n fun r => { r with
    rxCtl := max r.rxCtl ((s.link n).far.countOf f)
    keys := r.keys.set (farSlot f) { (r.keys.get { handle := 0, salt := 0, key := [] } (farSlot f)) with accepted := some (s.farHeard n f).now } }

section
variable {s : State} {n : Nat} {f : FarFrame} {p : List W64}

theorem State.farTake_of_open {kind : Nat} (below : n < 48) (up : (s.link n).state = .far) (opened : s.farOpen n f = some p) (whole : f.uncorr = false)
    (ctrl : farCtrl f = true) (kind_ : farKind f = kind) : s.farTake n kind f = (s.farTaken n f, some p) := by
  unfold State.farTake
  extract_lets l live t count
  have opened : t.farOpen n f = some p := (s.farHeard_open n f).trans opened
  rw [if_neg (by simp [live, l, up, below, ctrl, kind_]), opened]
  dsimp only
  rw [if_neg (by simp [whole])]
  rfl

theorem State.farTaken_line (s : State) (n : Nat) (f : FarFrame) : ((s.farTaken n f).link n).line =
    ({ s.link n with far := { (s.link n).far with rxCtl := max (s.link n).far.rxCtl ((s.link n).far.countOf f) } } : Link).line := by
  rw [State.farTaken, State.link_updFar, State.farHeard, State.link_updLink]
  rfl

theorem execFarDataFrame_of_failed (below : n < 48) (up : (s.link n).state = .far) (data : farCtrl f = false) (failed : s.farOpen n f = none) :
    ∃ t, execFarDataFrame n f s = .next t ∧ (t.link n).far.rxCount = (s.link n).far.rxCount ∧
      (t.link n).far.authFails = satN 16 ((s.link n).far.authFails + 1) ∧ (t.link n).far.nak = true := by
  unfold execFarDataFrame
  extract_lets l s1 count len
  have failed : s1.farOpen n f = none := (s.farHeard_open n f).trans failed
  rw [if_neg (by simp [l, up, below, data]), failed]
  obtain ⟨nak, rxCount, authFails⟩ := (s1.farTagFail n).farRefuse_effect n false
  have own : ((s1.farTagFail n).link n).far = { (s.link n).far with
      authFails := satN 16 ((s.link n).far.authFails + 1), tagFails := (s.link n).far.tagFails + 1 } := by
    rw [State.farTagFail, State.link_updFar]
    simp [s1]
  exact ⟨_, rfl, rxCount.trans (by rw [own]), authFails.trans (by rw [own]), nak⟩

theorem execFarDataFrame_of_next (below : n < 48) (up : (s.link n).state = .far) (opened : s.farOpen n f = some p) (whole : f.uncorr = false)
    (data : farCtrl f = false) (kind : farKind f = 0) (least : 1 ≤ fld (farH0 f) 41 36) (most : fld (farH0 f) 41 36 ≤ 32)
    (expected : (s.link n).far.countOf f = (s.link n).far.rxCount) (room : (s.pool (n / 24)).mayTake (linkQueue n 6).2 1 = true) :
    ∃ t, execFarDataFrame n f s = .next t ∧ (t.link n).far.rxCount = (s.link n).far.rxCount + 1 ∧ (t.link n).far.nak = false := by
  unfold execFarDataFrame
  extract_lets l s1 count len
  have opened : s1.farOpen n f = some p := (s.farHeard_open n f).trans opened
  have room : (s1.pool (n / 24)).mayTake (linkQueue n 6).2 1 = true := room
  have counted : count = l.far.rxCount := expected
  rw [if_neg (by simp [l, up, below, data]), opened]
  dsimp only
  rw [if_neg (by simp [len, whole, kind]; omega), if_neg (by omega), if_neg (by omega), if_neg (by simp [room])]
  set s3 : State := State.updFar _ n _ with taken
  have own : (s3.link n).far.rxCount = l.far.rxCount + 1 ∧ (s3.link n).far.nak = false := by
    rw [taken, State.link_updFar, counted]
    exact ⟨rfl, rfl⟩
  split
  · have line := s3.farAckSend_line n
    exact ⟨_, rfl, (congrArg (fun q => q.1.rxCount) line).trans own.1, (congrArg (fun q => q.1.nak) line).trans own.2⟩
  · exact ⟨_, rfl, own⟩

theorem execFarIdle_of_open (below : n < 48) (up : (s.link n).state = .far) (opened : s.farOpen n f = some p) (whole : f.uncorr = false)
    (ctrl : farCtrl f = true) (kind : farKind f = 0x01) : ∃ t, execFarIdle n f s = .next t ∧
      (t.link n).far.rxCtl = max (s.link n).far.rxCtl ((s.link n).far.countOf f) := by
  rw [execFarIdle, State.farTake_of_open below up opened whole ctrl kind]
  exact ⟨_, rfl, congrArg (fun q => q.1.rxCtl) (s.farTaken_line n f)⟩

theorem State.farMismatch_line (s : State) (n : Nat) : ((s.farMismatch n).link n).line =
    ({ s.link n with state := .failed, far := { (s.link n).far with state := 0 } } : Link).line := by
  refine (State.line_of_wires (State.raise_wires ..) n).trans ((State.line_linkTo ..).trans ?_)
  rw [State.link_updFar]
  simp [Link.toward]

theorem execFarDiscovery_of_open (below : n < 48) (up : (s.link n).state = .far) (opened : s.farOpen n f = some p) (whole : f.uncorr = false)
    (ctrl : farCtrl f = true) (kind : farKind f = 0x04) : ∃ t, execFarDiscovery n f s = .next t ∧
      (t.link n).far.discovered = true ∧ (t.link n).nbDn = fld (p.getD 0 0#64) 15 0 := by
  rw [execFarDiscovery, State.farTake_of_open below up opened whole ctrl kind]
  dsimp only
  set s1 : State := ((s.farTaken n f).learn n p).updFar n fun q => { q with discovered := true } with found
  have own : (s1.link n).far.discovered = true := by rw [found, State.link_updFar]
  have neighbour : (s1.link n).nbDn = fld (p.getD 0 0#64) 15 0 := by
    have line := State.line_of_wires ((s.farTaken n f).learn_wires n p) n
    rw [State.link_updLink] at line
    rw [found, State.link_updFar]
    exact congrArg (fun q => q.2.2) line
  split
  · exact ⟨_, rfl, own, neighbour⟩
  · have line := s1.farMismatch_line n
    exact ⟨_, rfl, (congrArg (fun q => q.1.discovered) line).trans own, (congrArg (fun q => q.2.2) line).trans neighbour⟩

theorem execFarTime_of_open (below : n < 48) (up : (s.link n).state = .far) (opened : s.farOpen n f = some p) (whole : f.uncorr = false)
    (ctrl : farCtrl f = true) (kind : farKind f = 0x10) : ∃ t, execFarTime n f s = .next t ∧
      (t.link n).far.lastTime = some s.now ∧ (t.link n).far.lastStamp = (p.getD 3 0#64).toNat ∧
      (t.link n).far.rtt = (if (p.getD 4 0#64).toNat = 0 then (s.link n).far.rtt
        else s.steep.ticks - (p.getD 4 0#64).toNat - (p.getD 5 0#64).toNat) := by
  unfold execFarTime
  rw [if_neg (by simp [up]), State.farTake_of_open below up opened whole ctrl kind]
  extract_lets r s1
  split
  · next lost => exact absurd lost (Option.some_ne_none p)
  next q read =>
  obtain rfl : p = q := Option.some.inj read
  extract_lets w site period rtt there beyond first s2 s3
  have raised : s3.wires = s2.wires := by simp [s3]
  clear_value s3
  have told : State.wires (forN 8 (fun x s => (s.touchChange x site true).touchAct x) s3) = s2.wires := by simp [raised]
  generalize forN 8 _ s3 = last at told ⊢
  have line := State.line_of_wires told n
  have before : ((s.farTaken n f).link n).far.rtt = (s.link n).far.rtt := congrArg (fun q => q.1.rtt) (s.farTaken_line n f)
  refine ⟨_, rfl, (congrArg (fun q => q.1.lastTime) line).trans ?_, (congrArg (fun q => q.1.lastStamp) line).trans ?_,
    (congrArg (fun q => q.1.rtt) line).trans ?_⟩
  · show (s2.link n).far.lastTime = some s.now
    rw [State.link_updFar]
    rfl
  · show (s2.link n).far.lastStamp = (p.getD 3 0#64).toNat
    rw [State.link_updFar]
  · show (s2.link n).far.rtt = _
    rw [State.link_updFar, ← before]
    rfl

theorem execFarAck_of_open (below : n < 48) (up : (s.link n).state = .far) (opened : s.farOpen n f = some p) (whole : f.uncorr = false)
    (ctrl : farCtrl f = true) (kind : farKind f = 0x11) : ∃ t, execFarAck n f s = .next t ∧ (t.link n).far.held.map FarHeld.count =
      ((s.link n).far.held.map FarHeld.count).filter fun k => nearCount (s.link n).far.txCount (fld (p.getD 0 0#64) 31 0) + 1 ≤ k := by
  unfold execFarAck
  rw [State.farTake_of_open below up opened whole ctrl kind]
  extract_lets r
  split
  · next lost => exact absurd lost (Option.some_ne_none p)
  next q read =>
  obtain rfl : p = q := Option.some.inj read
  extract_lets w next s1 s2
  have replayed : s2.wires = s1.wires := by
    unfold s2
    split
    · exact State.farReplay_wires ..
    · rfl
  have before := s.farTaken_line n f
  have sent : ((s.farTaken n f).link n).far.txCount = (s.link n).far.txCount := congrArg (fun q => q.1.txCount) before
  have held : ((s.farTaken n f).link n).far.held = (s.link n).far.held := congrArg (fun q => q.1.held) before
  have calm := (s2.farPump_calm n n).trans (Link.calm_of_line (State.line_of_wires replayed n))
  have own : (s1.link n).far.held = (s.link n).far.held.filter fun h => next ≤ h.count := by rw [State.link_updFar, ← held]
  refine ⟨_, rfl, (Link.held_counts_of_calm calm).trans ?_⟩
  rw [own, ← sent, List.filter_map]
  rfl

theorem execFarRestartFrame_of_open (below : n < 48) (up : (s.link n).state = .far) (opened : s.farOpen n f = some p) (whole : f.uncorr = false)
    (ctrl : farCtrl f = true) (kind : farKind f = 0x12) (ahead : (s.link n).far.rxCount < fld (p.getD 0 0#64) 31 0 * 2 ^ 32) :
    ∃ t, execFarRestartFrame n f s = .next t ∧ (t.link n).far.rxCount = fld (p.getD 0 0#64) 31 0 * 2 ^ 32 ∧
      (t.link n).far.rxStart = fld (p.getD 0 0#64) 31 0 * 2 ^ 32 := by
  unfold execFarRestartFrame
  rw [State.farTake_of_open below up opened whole ctrl kind]
  extract_lets r
  split
  · next lost => exact absurd lost (Option.some_ne_none p)
  next q read =>
  obtain rfl : p = q := Option.some.inj read
  extract_lets count s1
  have before : ((s.farTaken n f).link n).far.rxCount = (s.link n).far.rxCount := congrArg (fun q => q.1.rxCount) (s.farTaken_line n f)
  have read : ¬ count ≤ (r.1.link n).far.rxCount := Nat.not_le.mpr (before.trans_lt ahead)
  rw [if_neg read]
  have asked : State.wires (forN 8 (fun x s => s.askAgain x (s.link n).far.site) s1) = s1.wires := by simp
  generalize forN 8 _ s1 = last at asked ⊢
  have line := (State.line_of_wires asked n).trans (State.farAckSend_line ..)
  refine ⟨_, rfl, (congrArg (fun q => q.1.rxCount) line).trans ?_, (congrArg (fun q => q.1.rxStart) line).trans ?_⟩
  · show (State.link (State.updFar _ n _) n).far.rxCount = count
    rw [State.link_updFar]
  · show (State.link (State.updFar _ n _) n).far.rxStart = count
    rw [State.link_updFar]

end

/-! ### Control frames and replays (R555, R561) -/

section
variable (s : State) (n : Nat)

@[simp] theorem State.link_emit (o : Out) : (s.emit o).link n = s.link n := by rfl

theorem State.farEmit_ctlCount (h0 h1 : W64) (ctrl : Bool) (count : Nat) (payload : List W64) :
    ((s.farEmit n h0 h1 ctrl count payload).link n).far.ctlCount = (s.link n).far.ctlCount := by
  unfold State.farEmit
  dsimp only
  split
  · rfl
  · rw [State.link_emit, State.link_updFar]

theorem State.farControl_ctlCount (kind : Nat) (payload : List W64) :
    ((s.farControl n kind payload).link n).far.ctlCount = (s.link n).far.ctlCount + 1 := by
  rw [State.farControl, State.farEmit_ctlCount, State.link_updFar]

theorem State.farAckSend_ctlCount : ((s.farAckSend n).link n).far.ctlCount = (s.link n).far.ctlCount + if (s.link n).far.restartDue then 2 else 1 := by
  unfold State.farAckSend
  extract_lets f t
  have first : (t.link n).far.ctlCount = (s.link n).far.ctlCount + 1 := by rw [State.farControl_ctlCount, State.link_updFar]
  split
  · rw [State.farControl_ctlCount, first]
  · exact first

end

/-- The link has a key to send with. -/
def State.farKeyed (s : State) (n : Nat) : Prop := ((s.link n).far.keys.find (s.link n).far.sendSlot).isSome = true

/-- A held frame that is sent is one frame out, and the link keeps its key. -/
theorem State.farSendHeld_keyed {s : State} {n : Nat} (keyed : s.farKeyed n) (h : FarHeld) :
    (s.farSendHeld n h).farKeyed n ∧ (s.farSendHeld n h).out.length = s.out.length + 1 := by
  obtain ⟨k, found⟩ := Option.isSome_iff_exists.mp keyed
  unfold State.farSendHeld State.farEmit
  dsimp only
  rw [found]
  dsimp only
  refine ⟨?_, List.length_append ..⟩
  rw [State.farKeyed, State.link_emit, State.link_updFar, Tbl.find_set_self]
  rfl

theorem farReplay_out_length (hs : List FarHeld) {s : State} {n : Nat} (keyed : s.farKeyed n) :
    (forL hs (fun h s => s.farSendHeld n h) s).out.length = s.out.length + hs.length := by
  induction hs generalizing s with
  | nil => rfl
  | cons h hs ih =>
    obtain ⟨keyed, sent⟩ := State.farSendHeld_keyed keyed h
    refine (ih keyed).trans ?_
    rw [sent, List.length_cons]
    omega

section
variable {s : State} {n : Nat}

theorem execFarAckSend_of_far (below : n < 48) (up : (s.link n).state = .far) : ∃ t, execFarAckSend n s = .next t ∧
    (t.link n).far.sinceAck = 0 ∧ (t.link n).far.ctlCount = (s.link n).far.ctlCount + (if (s.link n).far.restartDue then 2 else 1) := by
  refine ⟨s.farAckSend n, ?_, congrArg (fun q => q.1.sinceAck) (s.farAckSend_line n), s.farAckSend_ctlCount n⟩
  rw [execFarAckSend, if_neg (by omega), if_pos (by simp [up])]

theorem execFarHoldExpiry_of_holding (below : n < 48) (holding : (s.link n).far.holding = true) : ∃ t, execFarHoldExpiry n s = .next t ∧
    (t.link n).far.holding = false ∧ (t.link n).far.held = (s.link n).far.held := by
  have line := State.line_of_wires (State.farReplay_wires (s.updFar n fun f => { f with holding := false }) n) n
  rw [State.link_updFar] at line
  refine ⟨_, ?_, congrArg (fun q => q.1.holding) line, congrArg (fun q => q.1.held) line⟩
  rw [execFarHoldExpiry, if_neg (by simp [below, holding])]

theorem execFarReplayTimeout_of_far (below : n < 48) (up : (s.link n).state = .far) (open_ : (s.link n).far.holding = false) (keyed : s.farKeyed n) :
    ∃ t, execFarReplayTimeout n s = .next t ∧ t.out.length = s.out.length + ((s.link n).far.held.filter FarHeld.sent).length ∧
      (t.link n).far.held = (s.link n).far.held := by
  refine ⟨s.farReplay n, ?_, farReplay_out_length _ keyed, congrArg (fun q => q.1.held) (State.line_of_wires (s.farReplay_wires n) n)⟩
  rw [execFarReplayTimeout, if_neg (by simp [below, up, open_])]

/-! ### Far restarts and lost locks (R563, R564) -/

/-- A far link's state after a far restart: what it held is lost and the count goes on from the next multiple of 2^32 (R564). -/
def Far.restarted (f : Far) : Far := { f with
  held := [], freeSlots := f.freeSlots + f.held.length, txCount := (f.txCount / 2 ^ 32 + 1) * 2 ^ 32, restartDue := true, holding := false
  state := if f.state = 2 then 3 else f.state, restarts := satN 16 (f.restarts + 1) }

theorem State.farRestart_line (s : State) (n : Nat) : ((s.farRestart n).link n).line = Link.line { s.link n with far := (s.link n).far.restarted } := by
  have kept : (s.farRestart n).wires = (s.updFar n Far.restarted).wires := by
    unfold State.farRestart
    extract_lets f lost t u
    have raised : u.wires = (s.updFar n Far.restarted).wires := State.raise_wires ..
    split
    · exact (State.farControl_wires ..).trans raised
    · exact raised
  rw [State.line_of_wires kept n, State.link_updFar]

theorem exec_farRestart_of_stall {c : Instr} (below : n < 48)
    (stalled : (c = .farAckStall n ∧ (s.link n).state = .far ∧ (s.link n).far.held ≠ []) ∨
      (c = .farRetrainTimeout n ∧ (s.link n).far.on = true ∧ (s.link n).state = .training)) : exec c s = .next (s.farRestart n) := by
  obtain ⟨rfl, up, held⟩ | ⟨rfl, on, training⟩ := stalled
  · change execFarAckStall n s = _
    unfold execFarAckStall
    extract_lets l
    rw [if_neg (by simp [l, below, up, held])]
  · change execFarRetrainTimeout n s = _
    unfold execFarRetrainTimeout
    extract_lets l
    rw [if_neg (by simp [l, below, on, training])]

theorem execFarCodewordLockLost_of_far (below : n < 48) (up : (s.link n).state = .far) : ∃ t, execFarCodewordLockLost n s = .next t ∧
    (t.link n).state = .training ∧ (t.link n).far.held = (s.link n).far.held ∧ (t.link n).far.txCount = (s.link n).far.txCount ∧
      (t.link n).far.rxCount = (s.link n).far.rxStart := by
  have rewound := State.line_of_wires (s.farRewind_wires n) n
  rw [execFarCodewordLockLost, if_neg (by simp [below, up])]
  generalize s.farRewind n = u at rewound ⊢
  have line := State.farTrain_line (u.updFar n fun f => { f with rxCount := f.rxStart }) n
  rw [State.link_updFar] at line
  refine ⟨_, rfl, congrArg (fun q => q.2.1) line, (congrArg (fun q => q.1.held) line).trans (congrArg (fun q => q.1.held) rewound),
    (congrArg (fun q => q.1.txCount) line).trans (congrArg (fun q => q.1.txCount) rewound), (congrArg (fun q => q.1.rxCount) line).trans ?_⟩
  exact (ite_self _).trans (congrArg (fun q => q.1.rxStart) rewound)

/-! ### A packet enters (R557) -/

theorem returnLoop_waiting (fuel link vc n : Nat) (s : State) : (returnLoop fuel link vc n s).fabric.waiting = s.fabric.waiting := by
  induction fuel generalizing n s with
  | zero => rfl
  | succ fuel ih =>
    dsimp only [returnLoop]
    split
    · rfl
    · exact ih ..

theorem State.freeSource_waiting (s : State) (t : TxPacket) : (s.freeSource t).fabric.waiting = s.fabric.waiting := by
  unfold State.freeSource
  split
  · rfl
  · unfold State.consume State.freedIn State.freedCells
    dsimp only
    repeat' split
    exacts [rfl, rfl, rfl, returnLoop_waiting ..]

theorem State.farSendHeld_waiting (s : State) (n : Nat) (h : FarHeld) : (s.farSendHeld n h).fabric.waiting = s.fabric.waiting := by
  unfold State.farSendHeld State.farEmit
  dsimp only
  split <;> rfl

theorem pumpLoop_waiting (fuel n : Nat) (s : State) : (pumpLoop fuel n s).fabric.waiting = s.fabric.waiting := by
  induction fuel generalizing s with
  | zero => rfl
  | succ fuel ih =>
    dsimp only [pumpLoop]
    split
    · rfl
    · split
      · rfl
      · exact (ih _).trans (State.farSendHeld_waiting ..)

theorem execFarPacketEnter_of_fits {p : TxPacket} (found : (s.fabric.waiting.find? fun t => t.far &&
      (t.ports.find? fun p => s.usable t p && t.cells ≤ (s.link p).far.freeSlots) == some n) = some p) :
    ∃ t, execFarPacketEnter n s = .next t ∧ (t.link n).far.held.length = (s.link n).far.held.length + p.cells ∧
      (t.link n).far.freeSlots = (s.link n).far.freeSlots - p.cells ∧ (t.link n).far.txCount = (s.link n).far.txCount + p.cells ∧
      t.fabric.waiting = s.fabric.waiting.filter fun u => u.id ≠ p.id := by
  unfold execFarPacketEnter
  extract_lets l mine
  split
  · next missing => exact absurd (found.symm.trans missing) (Option.some_ne_none p)
  next q some_ =>
  obtain rfl : p = q := Option.some.inj (found.symm.trans some_)
  extract_lets fs s1 fabric s2
  have frames : fs.length = p.cells := farFrames_length ..
  have own : (s2.link n).far = { (s.link n).far with
      held := (s.link n).far.held ++ fs, freeSlots := (s.link n).far.freeSlots - fs.length, txCount := (s.link n).far.txCount + fs.length
      nextPacket := (s.link n).far.nextPacket + 1 } := by
    have moved : s2.link n = s1.link n := rfl
    rw [moved, State.link_updFar]
  have calm := ((s2.freeSource p).farPump_calm n n).trans (Link.calm_of_line (State.line_of_wires (s2.freeSource_wires p) n))
  refine ⟨_, rfl, (Link.held_length_of_calm calm).trans ?_, (congrArg (fun q => q.1.freeSlots) calm).trans ?_,
    (congrArg (fun q => q.1.txCount) calm).trans ?_, (pumpLoop_waiting ..).trans (s2.freeSource_waiting p)⟩
  · rw [own, List.length_append, frames]
  · change (s2.link n).far.freeSlots = _
    rw [own, frames]
  · change (s2.link n).far.txCount = _
    rw [own, frames]

end

/-- Settles O54: each command by what its frames leave of the link's line; free and held slots by `exec_tidy`. -/
theorem farLinksSealHoldReplayAndRestart : Obligations.FarLinksSealHoldReplayAndRestart := by
  refine ⟨fun s t c ⟨l, f, n, r, listed⟩ h next => exec_tidy h listed t next, fun s r n site asked below known args => ?_,
    fun s r n asked below args => ?_, fun s r n slot handle salt i e asked below key handle_ salt_ known args =>
      exec_farKeyLoad_of_asked asked below key handle_ salt_ known args,
    fun s r n slot at_ asked below key later word args => exec_farKeySwitch_of_asked asked below key later word args,
    fun s l rtt below on training discovered => ⟨execFarTrainingDone_of_known below on training discovered,
      execFarTrainingDone_of_stranger below on training discovered⟩,
    fun s l f below up => ⟨execFarDataFrame_of_failed below up, fun p opened => ?_⟩, fun s l below => ?_⟩
  · obtain ⟨enabled, refused⟩ := exec_farEnable_of_asked asked below known args
    refine ⟨fun b off buffer keys main next => ⟨_, enabled b off buffer keys main next, ?_⟩, refused⟩
    simpa using (s.taken r).farEnabled_effect n b site (reqOf r 0x0200 .module).ref
  · obtain ⟨disabled, refused⟩ := exec_farDisable_of_asked asked below args
    refine ⟨fun on => ⟨_, disabled on, ?_⟩, refused⟩
    simpa using (s.taken r).farLeave_effect n
  · intro whole
    refine ⟨execFarDataFrame_of_next below up opened whole, execFarIdle_of_open below up opened whole,
      fun ctrl kind _ _ => execFarDiscovery_of_open below up opened whole ctrl kind, execFarTime_of_open below up opened whole,
      execFarAck_of_open below up opened whole, execFarRestartFrame_of_open below up opened whole⟩
  · refine ⟨execFarAckSend_of_far below, execFarHoldExpiry_of_holding below, execFarReplayTimeout_of_far below, fun c stalled => ?_,
      execFarCodewordLockLost_of_far below, fun many => ?_, fun e found => ?_, fun p found => execFarPacketEnter_of_fits found⟩
    · have line := s.farRestart_line l
      exact ⟨_, exec_farRestart_of_stall below stalled, congrArg (fun q => q.1.held) line, congrArg (fun q => q.1.txCount) line,
        congrArg (fun q => q.1.restartDue) line, congrArg (fun q => q.1.restarts) line⟩
    · change execFarAuth l s = _
      rw [execFarAuth, if_neg (by simp [below, many])]
      rfl
    · change execFarKeyAge l s = _
      rw [execFarKeyAge, found]
      rfl

end Sys2Proof.Machine
end

section
/-! SUPPORT. Proofs/Pools.lean: the cells of a pool, free or in its queues' packets, and the operations that move them (R331 to R364). -/
namespace Sys2Proof.Machine

/-! ### Tables -/

section
variable {κ α : Type} [DecidableEq κ] (t : Tbl κ α) (k : κ) (d v : α)

theorem Tbl.get_eq_getD_find : t.get d k = (t.find k).getD d := by
  induction t with
  | nil => rfl
  | cons e t ih =>
    obtain ⟨l, w⟩ := e
    by_cases here : l = k
    · simp [Tbl.get, Tbl.find, here]
    · simpa [Tbl.get, Tbl.find, here] using ih

theorem Tbl.mem_of_find {t : Tbl κ α} {k : κ} {v : α} (found : t.find k = some v) : (k, v) ∈ t := by
  obtain ⟨e, first, rfl⟩ := Option.map_eq_some_iff.mp found
  have key : e.1 = k := by simpa using List.find?_some first
  exact key ▸ List.mem_of_find?_eq_some first

theorem Tbl.eq_or_mem_of_mem_set {e : κ × α} (inside : e ∈ t.set k v) : e = (k, v) ∨ e ∈ t := by
  induction t with
  | nil => exact .inl (List.mem_singleton.mp inside)
  | cons c t ih =>
    obtain ⟨l, w⟩ := c
    by_cases here : l = k
    · subst here
      simp only [Tbl.set, if_true, List.mem_cons] at inside
      exact inside.imp_right (List.mem_cons_of_mem _)
    · simp only [Tbl.set, here, if_false, List.mem_cons] at inside ⊢
      obtain first | later := inside
      · exact .inr (.inl first)
      · exact (ih later).imp_right .inr

/-- A measure summed over a table after an entry is put. -/
theorem Tbl.sum_set (f : α → Nat) :
    ((t.set k v).map fun e => f e.2).sum + (t.find k).elim 0 f = (t.map fun e => f e.2).sum + f v := by
  induction t with
  | nil => simp [Tbl.set]
  | cons e t ih =>
    obtain ⟨l, w⟩ := e
    by_cases here : l = k
    · simp [Tbl.set, Tbl.find, here]
      omega
    · simp [Tbl.set, Tbl.find, here] at ih ⊢
      omega

theorem Tbl.drop_of_find_none {t : Tbl κ α} {k : κ} (absent : t.find k = none) : t.drop k = t := by
  simpa [Tbl.find, Tbl.drop] using absent

/-- A measure summed over a table, one of whose entries is dropped. -/
theorem Tbl.sum_drop {t : Tbl κ α} {k : κ} {v : α} (f : α → Nat) (once : (t.map Prod.fst).Nodup) (found : t.find k = some v) :
    ((t.drop k).map fun e => f e.2).sum + f v = (t.map fun e => f e.2).sum := by
  induction t with
  | nil => cases found
  | cons e t ih =>
    obtain ⟨l, w⟩ := e
    obtain ⟨fresh, once⟩ := List.nodup_cons.mp once
    by_cases here : l = k
    · subst here
      obtain rfl : w = v := by simpa [Tbl.find] using found
      have absent : Tbl.find t l = none := by
        cases there : Tbl.find t l with
        | none => rfl
        | some u => exact absurd (List.mem_map_of_mem (f := Prod.fst) (Tbl.mem_of_find there)) fresh
      have rest : Tbl.drop ((l, w) :: t) l = t := by simpa [Tbl.drop] using Tbl.drop_of_find_none absent
      rw [rest]
      simp
      omega
    · have := ih once (by simpa [Tbl.find, here] using found)
      simp [Tbl.drop, here] at this ⊢
      omega

end

theorem foldl_add_eq_sum {α : Type} (l : List α) (f : α → Nat) : l.foldl (fun n a => n + f a) 0 = (l.map f).sum := by
  rw [List.sum_eq_foldl, List.foldl_map]

/-! ### Cells of packets, queues and pools (R332, R342, R360) -/

theorem sumCells_eq_sum (ps : List Packet) : sumCells ps = (ps.map Packet.cells).sum := foldl_add_eq_sum ..

@[simp] theorem sumCells_nil : sumCells [] = 0 := rfl

@[simp] theorem sumCells_cons (k : Packet) (ps : List Packet) : sumCells (k :: ps) = k.cells + sumCells ps := by simp [sumCells_eq_sum]

@[simp] theorem sumCells_append (ps ks : List Packet) : sumCells (ps ++ ks) = sumCells ps + sumCells ks := by simp [sumCells_eq_sum]

theorem sumCells_take_add_drop (ps : List Packet) (n : Nat) : sumCells (ps.take n) + sumCells (ps.drop n) = sumCells ps := by
  rw [← sumCells_append, List.take_append_drop]

theorem Queue.openCells_eq_sum (q : Queue) : q.openCells = (q.ports.map fun e => e.2.cells).sum := foldl_add_eq_sum ..

theorem Pool.sum_eq_sum (p : Pool) (f : Queue → Nat) : p.sum f = (p.queues.map fun e => f e.2).sum := foldl_add_eq_sum ..

/-- What the cursor has passed and what it has not are all packets (R349). -/
theorem Queue.cells_eq_parts (q : Queue) : q.cells = q.queuedCells + q.openCells + q.heldCells := by
  have := sumCells_take_add_drop q.packets (q.cursor - q.base)
  simp only [Queue.cells, Queue.queuedCells, Queue.heldCells, Queue.heldPackets, Queue.queuedPackets]
  omega

theorem Queue.cells_of_same {q r : Queue} (ports : r.ports = q.ports) (packets : r.packets = q.packets) : r.cells = q.cells := by
  simp only [Queue.cells, Queue.openCells, ports, packets]

/-- A port's open packet is put in the place of the one it had. -/
theorem Queue.openCells_setPort {q r : Queue} {port : Nat} {o : OpenPacket} (ports : r.ports = q.ports.set port o) :
    r.openCells + (q.ports.find port).elim 0 OpenPacket.cells = q.openCells + o.cells := by
  rw [Queue.openCells_eq_sum, Queue.openCells_eq_sum, ports]
  exact Tbl.sum_set ..

/-- Every cell of the pool is free or in one packet, and its tables keep one entry for each key (R360). -/
def Pool.tidy (p : Pool) : Prop := p.conserved ∧ (p.queues.map fun e => e.1).Nodup ∧ ∀ e ∈ p.queues, e.2.tidy

theorem Queue.tidy_of_ports {q r : Queue} (h : q.tidy) (ports : r.ports = q.ports) : r.tidy := by
  unfold Queue.tidy
  rwa [ports]

theorem Queue.tidy_setPort {q r : Queue} {port : Nat} {o : OpenPacket} (h : q.tidy)
    (waits : o.started = false → o.words = [] ∧ o.chain = []) (ports : r.ports = q.ports.set port o) : r.tidy := by
  obtain ⟨once, empty⟩ := h
  refine ⟨?_, fun e inside => ?_⟩
  · rw [ports]
    exact (Tbl.keys_set q.ports port o once).1
  · rw [ports] at inside
    obtain rfl | old := Tbl.eq_or_mem_of_mem_set _ _ _ inside
    · exact waits
    · exact empty e old

theorem Queue.tidy_dropPort {q r : Queue} {port : Nat} (h : q.tidy) (ports : r.ports = q.ports.drop port) : r.tidy := by
  obtain ⟨once, empty⟩ := h
  refine ⟨?_, fun e inside => empty e ?_⟩
  · rw [ports]
    exact nodup_keys_filter _ once
  · rw [ports] at inside
    exact List.mem_of_mem_filter inside

/-- A port's open packet leaves the port with its cells. -/
theorem Queue.tidy.openCells_dropPort {q r : Queue} {port : Nat} {o : OpenPacket} (h : q.tidy) (found : q.ports.find port = some o)
    (ports : r.ports = q.ports.drop port) : r.openCells + o.cells = q.openCells := by
  rw [Queue.openCells_eq_sum, Queue.openCells_eq_sum, ports]
  exact Tbl.sum_drop _ h.1 found

theorem Queue.tidy_nil {q : Queue} (none_open : q.ports = []) : q.tidy := by simp [Queue.tidy, none_open]

theorem Pool.tidy.queue {p : Pool} (h : p.tidy) (qid : Nat) : (p.queue qid).tidy := by
  rw [Pool.queue, Tbl.get_eq_getD_find]
  cases found : p.queues.find qid with
  | none => exact Queue.tidy_nil rfl
  | some q => exact h.2.2 _ (Tbl.mem_of_find found)

theorem Pool.sum_of_set {p p' : Pool} {qid : Nat} {q : Queue} (queues : p'.queues = p.queues.set qid q) :
    p'.sum Queue.cells + (p.queue qid).cells = p.sum Queue.cells + q.cells := by
  have total := Tbl.sum_set p.queues qid q Queue.cells
  rw [Pool.sum_eq_sum, Pool.sum_eq_sum, queues, Pool.queue, Tbl.get_eq_getD_find]
  cases found : p.queues.find qid <;> rw [found] at total <;> exact total

/-- A pool stays tidy when one queue changes and cells go between it and the free list. -/
theorem Pool.tidy_of_set {p p' : Pool} {qid : Nat} {q : Queue} (h : p.tidy) (queues : p'.queues = p.queues.set qid q)
    (cells : p'.free + q.cells = p.free + (p.queue qid).cells) (tidy : q.tidy) : p'.tidy := by
  obtain ⟨sum, once, each⟩ := h
  have total := Pool.sum_of_set queues
  refine ⟨?_, ?_, fun e inside => ?_⟩
  · simp only [Pool.conserved] at sum ⊢
    omega
  · rw [queues]
    exact (Tbl.keys_set p.queues qid q once).1
  · rw [queues] at inside
    obtain rfl | old := Tbl.eq_or_mem_of_mem_set _ _ _ inside
    · exact tidy
    · exact each e old

theorem Pool.tidy_of_same {p p' : Pool} (h : p.tidy) (queues : p'.queues = p.queues) (free : p'.free = p.free) : p'.tidy := by
  unfold Pool.tidy Pool.conserved Pool.sum
  rwa [queues, free]

/-! ### Taking cells (R337, R343) -/

@[simp] theorem Pool.pick_length (p : Pool) (pool n : Nat) : (p.pick pool n).length = n := by
  induction n with
  | zero => rfl
  | succ n ih => simpa [Pool.pick, List.range_succ, List.foldl_append] using ih

theorem Pool.le_free_of_mayTake {p : Pool} {qid n : Nat} (room : p.mayTake qid n = true) : n ≤ p.free := by
  simp only [Pool.mayTake, Bool.or_eq_true, Bool.and_eq_true, decide_eq_true_eq] at room
  omega

@[simp] theorem Pool.mayTake_zero (p : Pool) (qid : Nat) : p.mayTake qid 0 = true := by simp [Pool.mayTake]

/-- Cells that are taken go into one queue. -/
theorem Pool.tidy_take_setQueue {p : Pool} {qid : Nat} {q : Queue} {cs : List Nat} (h : p.tidy) (enough : cs.length ≤ p.free)
    (cells : q.cells = (p.queue qid).cells + cs.length) (tidy : q.tidy) : ((p.take cs).setQueue qid q).tidy := by
  refine Pool.tidy_of_set (q := q) h rfl ?_ tidy
  change p.free - cs.length + _ = _
  omega

/-! ### Packets that come and go (R338, R348, R350, R358) -/

/-- Cells have gone between the free list and the committed packets of queue `qid`. -/
structure Pool.Trades (qid : Nat) (p p' : Pool) : Prop where
  queues : p'.queues = p.queues.set qid (p'.queue qid)
  cells : p'.free + (p'.queue qid).cells = p.free + (p.queue qid).cells
  ports : (p'.queue qid).ports = (p.queue qid).ports
  fence : (p'.queue qid).fence = (p.queue qid).fence
  sweep : (p'.sweepDue, p'.sweeping, p'.resetQueues) = (p.sweepDue, p.sweeping, p.resetQueues)

section
variable {qid : Nat} {p p' : Pool}

theorem Pool.Trades.tidy (trade : p.Trades qid p') (h : p.tidy) : p'.tidy :=
  Pool.tidy_of_set h trade.queues trade.cells (Queue.tidy_of_ports (h.queue qid) trade.ports)

theorem Pool.Trades.queue_ne (trade : p.Trades qid p') {n : Nat} (other : qid ≠ n) : p'.queue n = p.queue n := by
  rw [Pool.queue, trade.queues]
  exact Tbl.get_set_ne _ _ _ other

/-- A queue that is replaced, with its cells and the free list's in balance. -/
theorem Pool.trades_setQueue {q : Queue} (queues : p'.queues = p.queues.set qid q)
    (cells : p'.free + sumCells q.packets = p.free + sumCells (p.queue qid).packets)
    (same : (q.ports, q.fence) = ((p.queue qid).ports, (p.queue qid).fence))
    (sweep : (p'.sweepDue, p'.sweeping, p'.resetQueues) = (p.sweepDue, p.sweeping, p.resetQueues)) : p.Trades qid p' := by
  obtain ⟨ports, fence⟩ := Prod.mk.inj same
  have entry : p'.queue qid = q := by
    rw [Pool.queue, queues]
    exact Tbl.get_set_self ..
  refine ⟨entry ▸ queues, ?_, entry ▸ ports, entry ▸ fence, sweep⟩
  have opened : q.openCells = (p.queue qid).openCells := by rw [Queue.openCells, Queue.openCells, ports]
  rw [entry, Queue.cells, Queue.cells, opened]
  omega

/-- A packet is committed with cells that are taken for it. -/
theorem Pool.trades_take_link (p : Pool) (qid : Nat) (ctx : Option Nat) (ty : Nat) (ws : List W64) {cs : List Nat} (enough : cs.length ≤ p.free) :
    p.Trades qid ((p.take cs).setQueue qid ((p.queue qid).link ctx ty ws cs)) := by
  refine Pool.trades_setQueue rfl ?_ rfl rfl
  change p.free - cs.length + sumCells ((p.queue qid).packets ++ _) = _
  rw [sumCells_append]
  simp only [sumCells_cons, sumCells_nil, Packet.cells]
  omega

theorem Pool.trades_release (p : Pool) (qid n : Nat) : p.Trades qid (p.release qid n) := by
  refine Pool.trades_setQueue rfl ?_ rfl rfl
  have parts := sumCells_take_add_drop (p.queue qid).packets n
  change p.free + sumCells ((p.queue qid).packets.take n) + sumCells ((p.queue qid).packets.drop n) = _
  omega

theorem Pool.purge_eq_or_trades (p : Pool) (qid seq : Nat) : p.purge qid seq = p ∨ p.Trades qid (p.purge qid seq) := by
  unfold Pool.purge
  dsimp only
  split
  · exact .inl rfl
  · next i _ =>
    refine .inr (Pool.trades_setQueue rfl ?_ rfl rfl)
    have parts := sumCells_take_add_drop (p.queue qid).packets i
    have first := sumCells_take_add_drop ((p.queue qid).packets.drop i) 1
    rw [List.drop_drop] at first
    change p.free + sumCells (((p.queue qid).packets.drop i).take 1) +
      sumCells ((p.queue qid).packets.take i ++ (p.queue qid).packets.drop (i + 1)) = _
    rw [sumCells_append]
    omega

theorem Pool.Trades.trans {p'' : Pool} (first : p.Trades qid p') (second : p'.Trades qid p'') : p.Trades qid p'' := by
  refine ⟨?_, second.cells.trans first.cells, second.ports.trans first.ports, second.fence.trans first.fence, second.sweep.trans first.sweep⟩
  rw [second.queues, first.queues]
  exact Tbl.set_set_self ..

theorem Pool.trades_consume (p : Pool) (qid seq : Nat) : p.Trades qid (p.consume qid seq).1 := by
  unfold Pool.consume
  extract_lets q ps n marked
  refine .trans (p' := marked) (Pool.trades_setQueue rfl ?_ rfl rfl) (Pool.trades_release ..)
  change p.free + sumCells ((p.queue qid).packets.map _) = _
  rw [sumCells_eq_sum, sumCells_eq_sum, List.map_map]
  congr 2
  refine List.map_congr_left fun k _ => ?_
  dsimp only [Function.comp_apply]
  split <;> rfl

theorem Pool.tidy_resetQueue (h : p.tidy) (qid : Nat) : (p.resetQueue qid).tidy := by
  refine Pool.tidy_of_set h rfl ?_ (Queue.tidy_nil rfl)
  change p.free + (p.queue qid).cells + 0 = _
  omega

end

/-! ### The pools of a state -/

/-- Every pool of the table is tidy. -/
structure PoolsTidy (pools : Tbl Nat Pool) : Prop where
  pool : ∀ p, (pools.get {} p).tidy

theorem State.poolsTidy_iff (s : State) : s.poolsTidy ↔ PoolsTidy s.pools := ⟨fun h => ⟨h⟩, fun h => h.pool⟩

section
variable {s : State} (h : PoolsTidy s.pools) {pool qid : Nat}
include h

theorem PoolsTidy.queue (pool qid : Nat) : (s.queue pool qid).tidy := Pool.tidy.queue (h.pool pool) qid

theorem State.setPool_tidy {p : Pool} (tidy : p.tidy) : PoolsTidy (s.setPool pool p).pools := ⟨fun m => by
  change ((s.setPool pool p).pool m).tidy
  by_cases here : pool = m
  · subst here
    rwa [State.pool_setPool]
  · rw [State.pool_setPool_ne _ _ here]
    exact h.pool m⟩

/-- A change of one queue that leaves its packets and ports. -/
theorem State.updQueue_tidy {f : Queue → Queue} (same : ∀ q, (f q).ports = q.ports ∧ (f q).cells = q.cells) :
    PoolsTidy (s.updQueue pool qid f).pools := by
  obtain ⟨ports, cells⟩ := same (s.queue pool qid)
  exact State.setPool_tidy h (Pool.tidy_of_set (h.pool pool) rfl (congrArg _ cells) (Queue.tidy_of_ports (h.queue pool qid) ports))

theorem State.answer_tidy (st : QStatus) (ws : List W64) : PoolsTidy (s.answer st ws).pools := h

end

end Sys2Proof.Machine
end

section
/-! SUPPORT. Proofs/PoolsKept.lean: reports, failed steps, freed cells and resets leave every pool's cells accounted for (R360). -/
namespace Sys2Proof.Machine

/-! ### Notices and puts (R346, R843) -/

section
variable (s : State)

@[simp] theorem State.notify_pools (sink : Sink) (w : W64) : (s.notify sink w).pools = s.pools := by
  obtain ⟨host, out, eq⟩ := s.notify_eq sink w
  rw [eq]

@[simp] theorem State.msix_pools (v : Nat) : (s.msix v).pools = s.pools := s.notify_pools (.msix v) 0#64

end

/-- A put takes its cells and commits its packet (R338, R843). -/
theorem State.put_trades {s t : State} {pool qid ty : Nat} {ctx : Option Nat} {ws : List W64} (put : s.put pool qid ctx ty ws = some t) :
    ∃ p, (s.pool pool).Trades qid p ∧ t.pools = (s.setPool pool p).pools := by
  obtain ⟨⟨_, _, room, _⟩, rfl⟩ := State.put_eq_some_iff.mp put
  exact ⟨_, Pool.trades_take_link _ _ _ _ _ (by simpa using Pool.le_free_of_mayTake room), State.notify_pools ..⟩

theorem State.put_tidy {s t : State} {pool qid ty : Nat} {ctx : Option Nat} {ws : List W64} (put : s.put pool qid ctx ty ws = some t)
    (h : PoolsTidy s.pools) : PoolsTidy t.pools := by
  obtain ⟨p, trade, pools⟩ := State.put_trades put
  exact pools ▸ State.setPool_tidy h (trade.tidy (h.pool pool))

/-! ### Records and events (R663, R668, R676, R843) -/

/-- What records and events may do to the pools: packets of the record and the event queues come and go. -/
structure Filed (after before : Tbl Nat Pool) : Prop where
  tidy : PoolsTidy before → PoolsTidy after
  fence : ∀ p q, ((after.get {} p).queue q).fence = ((before.get {} p).queue q).fence
  sweep : ∀ p, ((after.get {} p).sweepDue, (after.get {} p).sweeping, (after.get {} p).resetQueues) =
    ((before.get {} p).sweepDue, (before.get {} p).sweeping, (before.get {} p).resetQueues)
  rest : ∀ p q, p ≠ 0 ∨ q < 0x180 → (after.get {} p).queue q = (before.get {} p).queue q

namespace Filed
variable {s t : State}

theorem refl (a : Tbl Nat Pool) : Filed a a := ⟨id, fun _ _ => rfl, fun _ => rfl, fun _ _ _ => rfl⟩

theorem trans {a b c : Tbl Nat Pool} (second : Filed c b) (first : Filed b a) : Filed c a :=
  ⟨fun h => second.tidy (first.tidy h), fun p q => (second.fence p q).trans (first.fence p q), fun p => (second.sweep p).trans (first.sweep p),
    fun p q low => (second.rest p q low).trans (first.rest p q low)⟩

/-- Pool 0 alone is replaced. -/
theorem of_pool {p : Pool} (tidy : (s.pool 0).tidy → p.tidy) (fence : ∀ q, (p.queue q).fence = (s.queue 0 q).fence)
    (sweep : (p.sweepDue, p.sweeping, p.resetQueues) = ((s.pool 0).sweepDue, (s.pool 0).sweeping, (s.pool 0).resetQueues))
    (rest : ∀ q, q < 0x180 → p.queue q = s.queue 0 q) : Filed (s.setPool 0 p).pools s.pools := by
  have own : (s.setPool 0 p).pools.get {} 0 = p := s.pool_setPool 0 p
  have other {n : Nat} (there : 0 ≠ n) : (s.setPool 0 p).pools.get {} n = s.pools.get {} n := s.pool_setPool_ne p there
  refine ⟨fun h => State.setPool_tidy h (tidy (h.pool 0)), fun n q => ?_, fun n => ?_, fun n q low => ?_⟩
  · by_cases here : 0 = n
    · subst here
      rw [own]
      exact fence q
    · rw [other here]
  · by_cases here : 0 = n
    · subst here
      rw [own]
      exact sweep
    · rw [other here]
  · by_cases here : 0 = n
    · subst here
      rw [own]
      exact rest q (by omega)
    · rw [other here]

theorem of_trade {qid : Nat} {p : Pool} (high : 0x180 ≤ qid) (trade : (s.pool 0).Trades qid p) : Filed (s.setPool 0 p).pools s.pools := by
  refine of_pool trade.tidy (fun q => ?_) trade.sweep (fun q low => trade.queue_ne (by omega))
  by_cases own : qid = q
  · subst own
    exact trade.fence
  · rw [trade.queue_ne own]
    rfl

theorem of_put {qid ty : Nat} {ctx : Option Nat} {ws : List W64} (high : 0x180 ≤ qid)
    (put : s.put 0 qid ctx ty ws = some t) : Filed t.pools s.pools := by
  obtain ⟨p, trade, pools⟩ := State.put_trades put
  exact pools ▸ of_trade high trade

theorem purge (s : State) (seq : Nat) : Filed (s.setPool 0 ((s.pool 0).purge 0x180 seq)).pools s.pools := by
  obtain same | trade := (s.pool 0).purge_eq_or_trades 0x180 seq
  · rw [same]
    exact of_pool id (fun _ => rfl) rfl (fun _ _ => rfl)
  · exact of_trade (Nat.le_refl _) trade

end Filed

theorem roomLoop_filed (fuel : Nat) (fa : Bool) (need : Nat) (s : State) : Filed (roomLoop fuel fa need s).pools s.pools := by
  induction fuel generalizing s with
  | zero => exact .refl _
  | succ fuel ih =>
    dsimp only [roomLoop]
    split
    · exact .refl _
    · split
      · exact .refl _
      · exact .trans (ih _) (Filed.purge s _)

theorem State.writeRecord_filed (s : State) (r : RecSpec) : Filed (s.writeRecord r).1.pools s.pools := by
  unfold State.writeRecord
  extract_lets ws f hops f1 host s1 before s2 q sink f2 m s3 entry t3 f3 s4 s5 log t5 f5
  have room : Filed s2.pools s.pools := roomLoop_filed ..
  have filed : Filed s3.1.pools s.pools := by
    unfold s3
    split
    · exact room
    · next t put =>
      have linked : Filed t.pools s2.pools := .of_put (Nat.le_refl _) put
      refine .trans (b := s2.pools) ?_ room
      dsimp only
      split
      · rw [State.msix_pools]
        exact linked
      · exact linked
  have told : s5.1.pools = s3.1.pools := by
    change (if s4.1.host.pldmEvents then _ else _ : State).pools = _
    split <;> rfl
  split
  · exact told ▸ filed
  · exact filed

theorem State.event_filed (s : State) (x : Nat) (e : Event) : Filed (s.event x e).pools s.pools := by
  dsimp only [State.event]
  split
  · next put =>
    split at put
    · exact .of_put (by omega) put
    · cases put
  · split <;> exact .refl _

theorem State.enter_filed (s : State) (r : RecSpec) : Filed (s.enter r).pools s.pools := by
  unfold State.enter
  extract_lets path dup f w s1 f1 s2
  have written : Filed s2.pools s.pools := by
    unfold s2
    split <;> exact State.writeRecord_filed ..
  split
  · exact .refl _
  · split
    · split
      · exact written
      · exact .trans (State.event_filed ..) written
    · exact written

theorem State.wroteKettle_filed (s : State) : Filed s.wroteKettle.pools s.pools := by
  unfold State.wroteKettle
  dsimp only
  repeat' split
  · exact .refl _
  · exact .refl _
  · exact .refl _
  · exact State.enter_filed ..

theorem State.raise_filed (s : State) (r : RecSpec) : Filed (s.raise r).pools s.pools := .trans (State.wroteKettle_filed _) (s.enter_filed r)

/-! ### What keeps the pools tidy -/

theorem tidy_forL {α : Type} {f : α → State → State} (each : ∀ a s, PoolsTidy s.pools → PoolsTidy (f a s).pools) (l : List α) {s : State}
    (h : PoolsTidy s.pools) : PoolsTidy (forL l f s).pools := by
  induction l generalizing s with
  | nil => exact h
  | cons a l ih => exact ih (each a s h)

theorem tidy_getD {o : Option State} {d : State} (given : ∀ t, o = some t → PoolsTidy t.pools) (default : PoolsTidy d.pools) :
    PoolsTidy (o.getD d).pools := by
  cases o with
  | none => exact default
  | some t => exact given t rfl

section
variable {s : State} (h : PoolsTidy s.pools)
include h

theorem State.event_tidy (x : Nat) (e : Event) : PoolsTidy (s.event x e).pools := (s.event_filed x e).tidy h
theorem State.raise_tidy (r : RecSpec) : PoolsTidy (s.raise r).pools := (s.raise_filed r).tidy h

theorem State.raiseLimited_tidy (key : Nat × Nat) (steeps : Nat) (r : RecSpec) : PoolsTidy (s.raiseLimited key steeps r).pools := by
  have marked (f : Faults) : PoolsTidy ({ s with faults := f } : State).pools := h
  unfold State.raiseLimited
  split
  · split
    · exact h
    · exact State.raise_tidy (marked _) _
  · exact State.raise_tidy (marked _) _

/-! ### Packets that leave (R499 to R508) -/

theorem State.badPacket_tidy (link : Option Nat) : PoolsTidy (s.badPacket link).pools := State.raiseLimited_tidy h ..

theorem State.routeLost_tidy (k : Route) (rset : Nat) : PoolsTidy (s.routeLost k rset).pools := by
  have counted (f : Fabric) : PoolsTidy ({ s with fabric := f } : State).pools := h
  cases k with
  | loop => exact State.raiseLimited_tidy (counted _) ..
  | miss => exact State.raiseLimited_tidy (counted _) ..
  | stale => exact State.raiseLimited_tidy (counted _) ..
  | deliver => exact h
  | ports _ _ => exact h

theorem State.inject_tidy (kind vc : Nat) (dst : List W64) (ctx : Option Nat) (rset : Nat) (body : List W64) :
    PoolsTidy (s.inject kind vc dst ctx rset body).pools := by
  unfold State.inject
  dsimp only
  split
  · exact h
  · split
    · exact State.badPacket_tidy h _
    · exact h
  · exact State.routeLost_tidy h ..

theorem State.injectDn_tidy (kind vc dn : Nat) (ctx : Option Nat) (rset : Nat) (body : List W64) :
    PoolsTidy (s.injectDn kind vc dn ctx rset body).pools := by
  unfold State.injectDn
  split
  · exact State.inject_tidy h ..
  · exact h

theorem State.jobMsg_tidy (x dn msg cause step arg : Nat) : PoolsTidy (s.jobMsg x dn msg cause step arg).pools := State.injectDn_tidy h ..

/-! ### Completions (R370, R375, R404) -/

theorem State.putCompletion_tidy {t : State} {mb : Nat} {ws : List W64} (put : s.putCompletion mb ws = some t) : PoolsTidy t.pools := by
  obtain ⟨u, packet, rfl⟩ := Option.map_eq_some_iff.mp put
  have written : PoolsTidy u.pools := State.put_tidy packet h
  exact written

theorem State.secondCompletion_tidy (mb tag status : Nat) (ws : List W64) : PoolsTidy (s.secondCompletion mb tag status ws).pools := by
  dsimp only [State.secondCompletion]
  split
  · exact h
  · split
    · exact tidy_getD (fun t put => State.putCompletion_tidy (s := s.setMailbox _ _) h put) h
    · exact h

theorem State.cmdEvent_tidy (by_ : CmdRef) (ctx : Option Nat) (e : Event) : PoolsTidy (s.cmdEvent by_ ctx e).pools := by
  unfold State.cmdEvent
  dsimp only
  split
  · exact State.event_tidy h ..
  · exact State.secondCompletion_tidy h ..

/-! ### The end of a stream (R402, R620) -/

theorem State.takeOldest_tidy (pool qid : Nat) : PoolsTidy (s.takeOldest pool qid).pools := by
  unfold State.takeOldest
  split
  · exact h
  · exact State.setPool_tidy h ((Pool.trades_consume ..).tidy (h.pool pool))

omit h in
theorem goneLoop_tidy (fuel x slot : Nat) {s : State} (h : PoolsTidy s.pools) : PoolsTidy (goneLoop fuel x slot s).pools := by
  induction fuel generalizing s with
  | zero => exact h
  | succ fuel ih =>
    dsimp only [goneLoop]
    split
    · split
      · exact ih (State.takeOldest_tidy (s := s.updCtx _ _) h ..)
      · exact h
    · exact h

theorem State.dropOldest_tidy (x slot : Nat) : PoolsTidy (s.dropOldest x slot).pools := goneLoop_tidy _ _ _ (State.takeOldest_tidy h ..)

omit h in
@[simp] theorem State.storeTier_pools (s : State) (wa : Nat) (ws : List W64) : (s.storeTier wa ws).pools = s.pools := by
  unfold State.storeTier
  dsimp only
  split <;> rfl

theorem State.endCapture_tidy (x : Nat) : PoolsTidy (s.endCapture x).pools := by
  unfold State.endCapture
  split
  · exact h
  · split
    · exact h
    · refine State.cmdEvent_tidy ?_ ..
      change PoolsTidy (s.storeTier ..).pools
      rwa [State.storeTier_pools]

theorem State.endStream_tidy (x slot status : Nat) : PoolsTidy (s.endStream x slot status).pools := by
  unfold State.endStream
  split
  · exact h
  · extract_lets held s1 s2 s3 s4
    have dropped : PoolsTidy s2.pools := State.dropOldest_tidy (s := s1) h ..
    have ended : PoolsTidy s3.pools := by
      unfold s3
      split <;> exact dropped
    have told : PoolsTidy s4.pools := State.event_tidy ended ..
    split
    · exact State.endCapture_tidy told _
    · exact told

/-! ### Failed steps (R603 to R607) -/

theorem State.abortStreams_tidy (x n : Nat) : PoolsTidy (s.abortStreams x n).pools := by
  refine tidy_forL (fun slot s h => ?_) _ h
  dsimp only
  split
  · split
    · split
      · exact h
      · exact State.endStream_tidy h ..
    · exact h
  · exact h

theorem State.abortStep_tidy (x n cause : Nat) : PoolsTidy (s.abortStep x n cause).pools := by
  unfold State.abortStep
  split
  · exact h
  · split
    · exact h
    · extract_lets s1 s2 s3 s4 s5 busy
      have told : PoolsTidy s4.pools := State.event_tidy (s := s3) h ..
      have ended : PoolsTidy s5.pools := State.abortStreams_tidy told ..
      clear_value s5
      split <;> exact ended

theorem State.leadAbort_tidy (x n cause : Nat) : PoolsTidy (s.leadAbort x n cause).pools := by
  unfold State.leadAbort
  extract_lets j s1 s2
  have told : PoolsTidy s1.pools := tidy_forL (fun r s h => State.jobMsg_tidy h ..) _ h
  split
  · exact h
  · split
    · exact h
    · exact State.abortStep_tidy (s := s2) told ..

theorem State.failStep_tidy (x n cause epoch : Nat) : PoolsTidy (s.failStep x n cause epoch).pools := by
  unfold State.failStep
  extract_lets j out breach own s1 s2
  have told : PoolsTidy s2.pools := by
    unfold s2
    split
    · exact tidy_forL (fun d s h => State.jobMsg_tidy h ..) _ (s := s1) h
    · exact h
  split
  · exact h
  · split
    · exact h
    · split
      · exact State.leadAbort_tidy told ..
      · exact State.abortStep_tidy (State.jobMsg_tidy told ..) ..

theorem State.checkFailed_tidy (x from_ : Nat) : PoolsTidy (s.checkFailed x from_).pools := by
  have marked : PoolsTidy (s.taintFrom x from_).pools :=
    tidy_forL (f := fun n s => s.updJob x fun j => j.updEpoch n fun e => { e with dirty := true }) (fun n s h => h) _ h
  exact tidy_forL (fun n s h => tidy_forL (fun t s h => State.failStep_tidy h ..) _ h) _ marked

end

/-! ### Freed cells, rewinds and resets of queues (R340, R358, R483) -/

@[simp] theorem returnLoop_pools (fuel link vc n : Nat) (s : State) : (returnLoop fuel link vc n s).pools = s.pools := by
  induction fuel generalizing n s with
  | zero => rfl
  | succ fuel ih =>
    unfold returnLoop
    split
    · rfl
    · exact ih ..

@[simp] theorem State.freedCells_pools (s : State) (link vc n : Nat) : (s.freedCells link vc n).pools = s.pools := by
  unfold State.freedCells
  split
  · rfl
  · exact returnLoop_pools ..

/-- Freed cells return credits, or are counted as withheld in the queue (R359, R483). -/
theorem State.freedIn_pools (s : State) (pool qid n : Nat) : (s.freedIn pool qid n).pools = s.pools ∨
    (s.freedIn pool qid n).pools = (s.updQueue pool qid fun q => { q with withheld := q.withheld + n }).pools := by
  unfold State.freedIn
  split
  · exact .inl rfl
  · split
    · exact .inr rfl
    · exact .inl (State.freedCells_pools ..)

/-- The pool after a port's open packet is rewound: its cells are free (R340). -/
def Pool.rewound (p : Pool) (qid port : Nat) (o : OpenPacket) : Pool :=
  { p.setQueue qid { p.queue qid with
      ports := (p.queue qid).ports.drop port, badPackets := satN 16 ((p.queue qid).badPackets + 1) } with free := p.free + o.cells }

theorem Pool.rewound_tidy {p : Pool} {qid port : Nat} {o : OpenPacket} (h : p.tidy) (found : (p.queue qid).ports.find port = some o) :
    (p.rewound qid port o).tidy := by
  have opened : ({ p.queue qid with ports := (p.queue qid).ports.drop port } : Queue).openCells + o.cells = (p.queue qid).openCells :=
    (h.queue qid).openCells_dropPort found rfl
  refine Pool.tidy_of_set h rfl ?_ (Queue.tidy_dropPort (h.queue qid) rfl)
  change p.free + o.cells + (({ p.queue qid with ports := (p.queue qid).ports.drop port } : Queue).openCells + sumCells (p.queue qid).packets) =
    p.free + ((p.queue qid).openCells + sumCells (p.queue qid).packets)
  omega

section
variable {s : State} (h : PoolsTidy s.pools)
include h

theorem State.freedIn_tidy (pool qid n : Nat) : PoolsTidy (s.freedIn pool qid n).pools := by
  obtain same | withheld := s.freedIn_pools pool qid n
  · exact same ▸ h
  · exact withheld ▸ State.updQueue_tidy h fun _ => ⟨rfl, rfl⟩

theorem State.rewind_tidy (pool qid port : Nat) (why : Cause) : PoolsTidy (s.rewind pool qid port why).pools := by
  unfold State.rewind
  extract_lets p q
  split
  · exact h
  next o found =>
  extract_lets s1 spec
  have rewound : PoolsTidy s1.pools :=
    State.freedIn_tidy (s := s.setPool pool (p.rewound qid port o)) (State.setPool_tidy h (Pool.rewound_tidy (h.pool pool) found)) ..
  cases why with
  | producer => exact rewound
  | fence => exact rewound
  | noCell => exact State.raiseLimited_tidy rewound ..
  | inputUe => exact State.raise_tidy rewound _
  | tooLong => exact State.raise_tidy rewound _
  | empty => exact State.raise_tidy rewound _

theorem State.resetQueue_tidy (pool qid : Nat) : PoolsTidy (s.resetQueue pool qid).pools :=
  State.setPool_tidy h (Pool.tidy_resetQueue (h.pool pool) qid)

end

end Sys2Proof.Machine
end

section
/-! SUPPORT. Proofs/QueueCells.lean: every queue operation leaves the cells of the pools accounted for (R337 to R364). -/
namespace Sys2Proof.Machine

/-! ### Producers (R337 to R344) -/

theorem Queue.cells_setPort {q r : Queue} {port : Nat} {o : OpenPacket} (ports : r.ports = q.ports.set port o) (packets : r.packets = q.packets) :
    r.cells + (q.ports.find port).elim 0 OpenPacket.cells = q.cells + o.cells := by
  have opened := Queue.openCells_setPort ports
  rw [Queue.cells, Queue.cells, packets]
  omega

/-- Cells are taken for the open packet of a port. -/
theorem Pool.tidy_takePort {p : Pool} {qid port : Nat} {o : OpenPacket} {q : Queue} {cs : List Nat} (h : p.tidy) (enough : cs.length ≤ p.free)
    (ports : q.ports = (p.queue qid).ports.set port o) (packets : q.packets = (p.queue qid).packets)
    (waits : o.started = false → o.words = [] ∧ o.chain = [])
    (cells : o.cells = ((p.queue qid).ports.find port).elim 0 OpenPacket.cells + cs.length) : ((p.take cs).setQueue qid q).tidy := by
  refine Pool.tidy_take_setQueue h enough ?_ (Queue.tidy_setPort (h.queue qid) waits ports)
  have moved := Queue.cells_setPort ports packets
  omega

@[simp] theorem Pool.mayTake_most (p : Pool) (qid n : Nat) : p.mayTake qid (p.most qid n) = true := by
  induction n with
  | zero => exact p.mayTake_zero qid
  | succ n ih =>
    unfold Pool.most
    split
    · assumption
    · exact ih

/-- The cells taken for an APPEND go into the packet of its port. -/
theorem appendWords_tidy {p : Pool} {pool qid port : Nat} {o : OpenPacket} {ws : List W64} {now : Nat} (h : p.tidy)
    (found : (p.queue qid).ports.find port = some o) (started : o.started = true) : (appendWords p pool qid port o ws now).1.tidy := by
  refine Pool.tidy_takePort h ?_ rfl rfl (fun waiting => absurd (started.symm.trans waiting) Bool.noConfusion) ?_
  · exact (Pool.pick_length ..).trans_le (Pool.le_free_of_mayTake (p.mayTake_most ..))
  · rw [found]
    exact List.length_append

/-- What an outcome goes on with has tidy pools. -/
def TidyNext (o : Host.Outcome State Fault Refusal) : Prop := ∀ t, o = .next t → PoolsTidy t.pools

theorem TidyNext.next {t : State} (h : PoolsTidy t.pools) : TidyNext (.next t) := fun _ same => by
  cases same
  exact h

theorem TidyNext.answer {t : State} {st : QStatus} {ws : List W64} (h : PoolsTidy t.pools) : TidyNext (.next (t.answer st ws)) := .next h

section
variable {s : State} (h : PoolsTidy s.pools) {pool qid port : Nat}
include h

theorem execQueueOpen_tidy {ty : Nat} {ctx : Option Nat} : TidyNext (execQueueOpen pool qid port ty ctx s) := by
  have tidy := h.queue pool qid
  unfold execQueueOpen
  extract_lets p q cs q1 q2
  split
  · exact .next h
  split
  · exact .next h
  next free =>
  have absent : q.ports.find port = none := by simpa using free
  split
  · next room =>
    refine .next (State.setPool_tidy h (Pool.tidy_takePort (h.pool pool) ?_ rfl rfl nofun ?_))
    · exact (Pool.pick_length ..).trans_le (Pool.le_free_of_mayTake room)
    · rw [absent]
      exact (Nat.zero_add _).symm
  · refine .next (State.setPool_tidy h (Pool.tidy_of_set (h.pool pool) rfl (congrArg _ ?_) (Queue.tidy_setPort tidy (fun _ => ⟨rfl, rfl⟩) rfl)))
    have moved := Queue.cells_setPort (q := q) (r := q2) rfl rfl
    rw [absent] at moved
    exact moved

theorem execQueueAppend_tidy {ws : List W64} {ue : Bool} : TidyNext (execQueueAppend pool qid port ws ue s) := by
  unfold execQueueAppend
  extract_lets p q
  split
  · exact .next h
  split
  · exact .next h
  next o found =>
  split
  · exact .next h
  next ready =>
  split
  · have counted : PoolsTidy (s.setPool pool { p with ue := satN 16 (p.ue + 1) }).pools := State.setPool_tidy h (Pool.tidy_of_same (h.pool pool) rfl rfl)
    exact .next (State.rewind_tidy counted ..)
  · split
    · exact .next (State.rewind_tidy h ..)
    · have started : o.started = true := by
        cases is : o.started <;> simp_all
      exact .next (State.setPool_tidy h (appendWords_tidy (h.pool pool) found started))

theorem execQueueCommit_tidy : TidyNext (execQueueCommit pool qid port s) := by
  have tidy := h.queue pool qid
  unfold execQueueCommit
  extract_lets p q seq
  split
  · exact .next h
  split
  · exact .next h
  next o found =>
  extract_lets linked
  split
  · exact .next h
  split
  · exact .next (State.rewind_tidy h ..)
  refine .next ?_
  change PoolsTidy (State.notify _ _ _).pools
  rw [State.notify_pools]
  refine State.setPool_tidy h (Pool.tidy_of_set (h.pool pool) rfl (congrArg _ ?_) (Queue.tidy_dropPort tidy rfl))
  have opened := tidy.openCells_dropPort (r := linked) found rfl
  change linked.openCells + sumCells (q.packets ++ [_]) = q.openCells + sumCells q.packets
  rw [sumCells_append, sumCells_cons, sumCells_nil]
  have : q.openCells = linked.openCells + o.cells := opened.symm
  simp only [Packet.cells, this, OpenPacket.cells]
  omega

theorem execQueueAbort_tidy : TidyNext (execQueueAbort pool qid port s) := by
  unfold execQueueAbort
  split
  · exact .next h
  split
  · exact .next h
  · exact .next (State.rewind_tidy h ..)

theorem execProducerCellGrant_tidy : TidyNext (execProducerCellGrant pool qid port s) := by
  have tidy := h.queue pool qid
  unfold execProducerCellGrant
  extract_lets p q cs
  split
  · exact .next h
  next o found =>
  split
  · exact .next h
  next may =>
  have room : p.mayTake qid 1 = true := by
    cases is : p.mayTake qid 1 <;> simp_all
  split
  · next waits =>
    obtain ⟨-, empty⟩ := tidy.2 _ (Tbl.mem_of_find found) (by simpa using waits)
    refine .next (State.setPool_tidy h (Pool.tidy_takePort (h.pool pool) ?_ rfl rfl nofun ?_))
    · exact (Pool.pick_length ..).trans_le (Pool.le_free_of_mayTake room)
    · rw [found]
      change cs.length = o.chain.length + cs.length
      rw [empty, List.length_nil, Nat.zero_add]
  next started =>
  split
  · exact .next h
  · exact .next (State.setPool_tidy h (appendWords_tidy (h.pool pool) found (by simpa using started)))

theorem State.settle_tidy : PoolsTidy (s.updQueue pool qid Queue.settle).pools := by
  have same (q : Queue) : q.settle.ports = q.ports ∧ q.settle.packets = q.packets := by
    unfold Queue.settle
    split <;> exact ⟨rfl, rfl⟩
  exact State.updQueue_tidy h fun q => ⟨(same q).1, Queue.cells_of_same (same q).1 (same q).2⟩

theorem execQueueNoCell_tidy : TidyNext (execQueueNoCell pool qid port s) := by
  unfold execQueueNoCell
  split
  · split
    · exact .next (State.settle_tidy (State.rewind_tidy h ..))
    · exact .next h
  · exact .next h

theorem execQueueDrained_tidy : TidyNext (execQueueDrained pool qid s) := .next (State.settle_tidy h)

end

/-! ### Consumers (R348 to R355) -/

theorem Packet.upset_chain (k : Packet) (ups : List (Nat × Nat)) : (k.upset ups).chain = k.chain := by
  unfold Packet.upset
  induction ups generalizing k with
  | nil => rfl
  | cons u ups ih => exact ih _

/-- A packet that keeps its chain keeps the queue's cells. -/
theorem sumCells_updAt {ps : List Packet} {i : Nat} {f : Packet → Packet} (same : ∀ k, ps[i]? = some k → (f k).cells = k.cells) :
    sumCells (updAt ps i f) = sumCells ps := by
  induction ps generalizing i with
  | nil => rfl
  | cons k ps ih =>
    cases i with
    | zero => simp [updAt, same k rfl]
    | succ i => simp [updAt, ih same]

theorem Pool.upsetLinks_eq (p : Pool) (chain : List Nat) (ups : List (Nat × Nat)) : ∃ links, p.upsetLinks chain ups = { p with links := links } := by
  unfold Pool.upsetLinks
  induction ups generalizing p with
  | nil => exact ⟨_, rfl⟩
  | cons u ups ih =>
    rw [List.foldl_cons]
    split
    · exact ih p
    · obtain ⟨links, eq⟩ := ih { p with links := _ }
      exact ⟨links, eq⟩

section
variable {s : State} (h : PoolsTidy s.pools) {pool qid : Nat}
include h

theorem State.countPool_tidy (syn : Byte) : PoolsTidy (s.countPool pool syn).pools :=
  State.setPool_tidy h (Pool.tidy_of_same (h.pool pool) rfl rfl)

theorem State.poolErrors_tidy (k : Packet) (from_ n : Nat) : PoolsTidy (s.poolErrors pool qid k from_ n).pools := by
  refine tidy_forL (fun e s h => ?_) _ h
  have counted : PoolsTidy (s.countPool pool e.2).pools := State.countPool_tidy h _
  dsimp only
  split
  · exact State.raiseLimited_tidy counted ..
  · split
    · exact State.checkFailed_tidy (State.raise_tidy counted _) ..
    · exact State.raise_tidy counted _

theorem State.follow_tidy (cs : List Nat) : PoolsTidy (s.follow pool cs).1.pools := by
  unfold State.follow
  generalize false = met
  induction cs generalizing s met with
  | nil => exact h
  | cons c cs ih =>
    rw [List.foldl_cons]
    split
    · exact ih h _
    · next syn _ =>
      have counted : PoolsTidy (s.countPool pool syn).pools := State.countPool_tidy h _
      dsimp only
      split
      · exact ih counted _
      · refine ih (s := (s.countPool pool syn).setPool pool _) (State.setPool_tidy counted ?_) _
        exact Pool.tidy_of_same (counted.pool pool) rfl rfl

theorem State.linkUe_tidy : PoolsTidy (s.linkUe pool qid).pools := by
  unfold State.linkUe
  extract_lets s1 s2 p s3
  have fenced : PoolsTidy s1.pools := State.updQueue_tidy h fun _ => ⟨rfl, rfl⟩
  have rewound : PoolsTidy s2.pools := tidy_forL (fun port s h => State.rewind_tidy h ..) _ fenced
  have asked : PoolsTidy s3.pools := State.setPool_tidy rewound (Pool.tidy_of_same (rewound.pool pool) rfl rfl)
  exact State.raise_tidy asked _

theorem State.along_tidy {cs : List Nat} {go : State → State} (each : ∀ t, PoolsTidy t.pools → PoolsTidy (go t).pools) :
    PoolsTidy (s.along pool qid cs go).pools := by
  unfold State.along
  extract_lets r
  split
  · exact State.linkUe_tidy (State.follow_tidy h cs)
  · exact each _ (State.follow_tidy h cs)

theorem execQueueRead_tidy {n : Nat} {upset links : List (Nat × Nat)} : TidyNext (execQueueRead pool qid n upset links s) := by
  unfold execQueueRead
  extract_lets q0 at_
  split
  · exact .next h
  split
  · exact .next h
  next k0 oldest =>
  extract_lets k s1 last out read fix
  have chain : k.chain = k0.chain := Packet.upset_chain ..
  have upset : PoolsTidy s1.pools := by
    refine State.setPool_tidy h ?_
    obtain ⟨_, eq⟩ := Pool.upsetLinks_eq ((s.pool pool).setQueue qid { q0 with packets := updAt q0.packets at_ fun _ => k }) k.chain
      (links.filter fun u => u.2 < 72)
    rw [eq]
    refine Pool.tidy_of_set (h.pool pool) rfl (congrArg _ ?_) (Queue.tidy_of_ports (h.queue pool qid) rfl)
    refine congrArg (q0.openCells + ·) (sumCells_updAt fun l found => ?_)
    obtain rfl : k0 = l := Option.some.inj (oldest.symm.trans found)
    exact congrArg List.length chain
  split
  · exact .next upset
  refine .next (State.along_tidy upset fun t tidy => State.answer_tidy ?_ ..)
  exact State.updQueue_tidy (State.poolErrors_tidy tidy ..) fun q => ⟨rfl, congrArg (q.openCells + ·) (sumCells_updAt fun _ _ => rfl)⟩

theorem execQueueNext_tidy : TidyNext (execQueueNext pool qid s) := by
  unfold execQueueNext
  extract_lets q
  split
  · exact .next h
  split
  · exact .next h
  · refine .next (State.along_tidy h fun t tidy => State.answer_tidy ?_ ..)
    exact State.updQueue_tidy tidy fun _ => ⟨rfl, rfl⟩

theorem execQueueMark_tidy {m : Nat} : TidyNext (execQueueMark pool qid m s) := by
  unfold execQueueMark
  split
  · exact .next h
  · exact .answer (State.updQueue_tidy h fun _ => ⟨rfl, rfl⟩)

theorem execQueueCursorRewind_tidy {m : Nat} : TidyNext (execQueueCursorRewind pool qid m s) := by
  unfold execQueueCursorRewind
  split
  · exact .next h
  · exact .answer (State.updQueue_tidy h fun _ => ⟨rfl, rfl⟩)

theorem execQueueRelease_tidy {n : Nat} : TidyNext (execQueueRelease pool qid n s) := by
  unfold execQueueRelease
  extract_lets q
  split
  · exact .next h
  · exact .next (State.along_tidy h fun t tidy =>
      State.freedIn_tidy (State.setPool_tidy tidy ((Pool.trades_release ..).tidy (tidy.pool pool))) ..)

theorem execQueuePurge_tidy {seq : Nat} : TidyNext (execQueuePurge pool qid seq s) := by
  unfold execQueuePurge
  extract_lets q
  split
  · exact .next h
  · exact .next (State.along_tidy h fun t tidy => (Filed.purge t seq).tidy tidy)

theorem execHeldEventWrite_tidy {x : Nat} : TidyNext (execHeldEventWrite x s) := by
  unfold execHeldEventWrite
  extract_lets c
  split
  · exact .next h
  · split
    · next put =>
      have written := State.put_tidy put h
      exact .next written
    · exact .next h

end

/-! ### Sweeps (R362 to R364) -/

/-- A queue after a sweep: the packets that the sweep reaches, its cursor and marks among them (R363). -/
def Pool.swept (p : Pool) (q : Queue) : Queue :=
  let ps := p.reached q.packets
  { q with packets := ps, cursor := min q.cursor (q.base + ps.length), marks := q.marks.filter fun e => e.2.1 < q.base + ps.length }

theorem Pool.sumCells_reached_le (p : Pool) (ps : List Packet) : sumCells (p.reached ps) ≤ sumCells ps := by
  induction ps with
  | nil => exact Nat.le_refl _
  | cons k ps ih =>
    unfold Pool.reached
    split
    · simp [Packet.cells]
    · simpa using ih

theorem Pool.swept_cells_le (p : Pool) (q : Queue) : (p.swept q).cells ≤ q.cells := Nat.add_le_add_left (p.sumCells_reached_le _) _

/-- Every cell that no chain of the queues holds is free. -/
theorem Pool.conserved_of_snapshot {p : Pool} (most : p.sum Queue.cells ≤ 262144)
    (free : p.free = 262144 - (p.snapshot.queued + p.snapshot.opened + p.snapshot.held)) : p.conserved := by
  have parts : p.sum Queue.cells = p.snapshot.queued + p.snapshot.opened + p.snapshot.held := by
    simp only [Pool.snapshot, Pool.sum_eq_sum, ← List.sum_map_add, ← Queue.cells_eq_parts]
  unfold Pool.conserved
  omega

theorem execPoolSweepComplete_tidy {s : State} (h : PoolsTidy s.pools) (w : Sweep) : TidyNext (execPoolSweepComplete w s) := by
  unfold execPoolSweepComplete
  extract_lets pool p0 pairs qs s1 p cut p1 snap free p2 s2
  split
  · exact .next h
  have reset : PoolsTidy s1.pools := tidy_forL (fun q s h => State.resetQueue_tidy h ..) _ h
  have counted : p2.tidy := by
    obtain ⟨sum, once, each⟩ := reset.pool pool
    have swept : p2.queues = p.queues.map fun e => (e.1, p.swept e.2) := rfl
    refine ⟨Pool.conserved_of_snapshot ?_ rfl, ?_, fun e inside => ?_⟩
    · have less : p2.sum Queue.cells ≤ p.sum Queue.cells := by
        rw [Pool.sum_eq_sum, Pool.sum_eq_sum, swept, List.map_map]
        exact List.sum_le_sum fun e _ => p.swept_cells_le e.2
      have total : p.free + p.sum Queue.cells = 262144 := sum
      omega
    · rw [swept, List.map_map]
      exact once
    · rw [swept] at inside
      obtain ⟨e, old, rfl⟩ := List.mem_map.mp inside
      exact Queue.tidy_of_ports (each e old) rfl
  exact .next (tidy_forL (fun e s h => State.raise_tidy h _) _ (State.setPool_tidy reset counted))

/-! ### The obligation -/

/-- Settles O45: each operation moves cells between the free list and one queue, or leaves both; its reports go to the record and event
queues by the same moves. -/
theorem queueOperationsConserveCells : Obligations.QueueOperationsConserveCells := by
  unfold Obligations.QueueOperationsConserveCells
  intro s t c tidy listed next
  have h := s.poolsTidy_iff.mp tidy
  refine t.poolsTidy_iff.mpr ?_
  obtain ⟨pool, qid, port, ⟨ty, ctx, rfl⟩ | ⟨ws, ue, rfl⟩ | rfl | rfl | rfl | rfl | ⟨n, ups, links, rfl⟩ | rfl | ⟨m, rfl | rfl⟩ | ⟨n, rfl⟩ |
    ⟨seq, rfl⟩ | rfl | ⟨crossed, rfl⟩ | rfl⟩ := listed
  · exact execQueueOpen_tidy h t next
  · exact execQueueAppend_tidy h t next
  · exact execQueueCommit_tidy h t next
  · exact execQueueAbort_tidy h t next
  · exact execProducerCellGrant_tidy h t next
  · exact execQueueNoCell_tidy h t next
  · exact execQueueRead_tidy h t next
  · exact execQueueNext_tidy h t next
  · exact execQueueMark_tidy h t next
  · exact execQueueCursorRewind_tidy h t next
  · exact execQueueRelease_tidy h t next
  · exact execQueuePurge_tidy h t next
  · exact execQueueDrained_tidy h t next
  · exact execPoolSweepComplete_tidy h _ t next
  · exact execHeldEventWrite_tidy h t next

end Sys2Proof.Machine
end

section
/-! SUPPORT. Proofs/Producers.lean: what each operation of a producer does to its open packet (R335 to R346). -/
namespace Sys2Proof.Machine

/-! ### Cells for an APPEND (R336, R343, R344) -/

theorem Pool.most_of_mayTake {p : Pool} {qid n : Nat} (room : p.mayTake qid n = true) : p.most qid n = n := by
  cases n with
  | zero => rfl
  | succ n => exact if_pos room

/-- The most that may be taken is less than what may not, and the next cell may not be taken. -/
theorem Pool.most_of_short {p : Pool} {qid n : Nat} (short : p.mayTake qid n = false) :
    p.most qid n < n ∧ p.mayTake qid (p.most qid n + 1) = false := by
  induction n with
  | zero => simp at short
  | succ n ih =>
    have less : p.most qid (n + 1) = p.most qid n := if_neg (by simp [short])
    rw [less]
    cases room : p.mayTake qid n with
    | true =>
      rw [Pool.most_of_mayTake room]
      exact ⟨Nat.lt_succ_self n, short⟩
    | false =>
      obtain ⟨below, next⟩ := ih room
      exact ⟨Nat.lt_succ_of_lt below, next⟩

/-- The cells that a packet needs hold its length slot and its words. -/
theorem lt_cellsFor (w : Nat) : w < 32 * cellsFor w := by
  unfold cellsFor cdiv
  omega

/-- Fewer cells hold fewer words. -/
theorem cells_le_of_lt_cellsFor {c w : Nat} (fewer : c < cellsFor w) : 32 * c ≤ w := by
  unfold cellsFor cdiv at fewer
  omega

section
variable {p : Pool} {pool qid port : Nat} {o : OpenPacket} {ws : List W64} {now : Nat}

/-- Every word is written where the cells that it needs may be taken (R337). -/
theorem appendWords_of_room (room : p.mayTake qid (cellsFor (o.words.length + ws.length) - o.cells) = true) :
    let cs := p.pick pool (cellsFor (o.words.length + ws.length) - o.cells)
    appendWords p pool qid port o ws now = ((p.take cs).setQueue qid { p.queue qid with
      ports := (p.queue qid).ports.set port { o with words := o.words ++ ws, chain := o.chain ++ cs, waiting := none } }, true) := by
  intro cs
  have enough := lt_cellsFor (o.words.length + ws.length)
  have fits : ws.length ≤ 32 * (o.cells + cs.length) - 1 - o.words.length := by
    rw [Pool.pick_length]
    omega
  simp only [appendWords, Pool.most_of_mayTake room]
  rw [List.take_of_length_le fits, List.drop_of_length_le fits]
  simp [cs]

/-- Where too few cells may be taken, the words that those hold are written and the rest waits (R344). -/
theorem appendWords_of_short (some_words : ws ≠ []) (waiting : o.waiting = none)
    (short : p.mayTake qid (cellsFor (o.words.length + ws.length) - o.cells) = false) :
    let cs := p.pick pool (p.most qid (cellsFor (o.words.length + ws.length) - o.cells))
    let room := 32 * (o.cells + cs.length) - 1 - o.words.length
    appendWords p pool qid port o ws now = ((p.take cs).setQueue qid { p.queue qid with
      ports := (p.queue qid).ports.set port { o with
        words := o.words ++ ws.take room, chain := o.chain ++ cs, waiting := some (ws.drop room), since := now }
      waits := satN 16 ((p.queue qid).waits + 1) }, false) := by
  intro cs room
  obtain ⟨fewer, -⟩ := Pool.most_of_short short
  have beyond : room < ws.length := by
    have held : 32 * (o.cells + cs.length) ≤ o.words.length + ws.length := cells_le_of_lt_cellsFor (by
      rw [Pool.pick_length]
      omega)
    have := List.length_pos_iff.mpr some_words
    omega
  have left : (ws.drop room).isEmpty = false := by simpa using beyond
  simp only [appendWords]
  rw [left]
  simp [waiting, cs, room]

end

/-! ### Operations that are refused (R337, R343, R357) -/

section
variable {s : State} {pool qid port : Nat}

theorem exec_queueOpen_of_fenced {ty : Nat} {ctx : Option Nat} (fenced : (s.queue pool qid).fence ≠ none) :
    exec (.queueOpen pool qid port ty ctx) s = .next (s.answer .queueFenced []) := by
  change execQueueOpen pool qid port ty ctx s = _
  exact if_pos (by simpa using .inr (Option.isSome_iff_ne_none.mpr fenced))

section
variable (failed : (s.queue pool qid).fence = some .err)
include failed

theorem exec_queueAppend_of_error {ws : List W64} {ue : Bool} :
    exec (.queueAppend pool qid port ws ue) s = .next (s.answer .queueFenced []) := by
  change execQueueAppend pool qid port ws ue s = _
  exact if_pos (by simpa using .inr failed)

theorem exec_queueCommit_of_error : exec (.queueCommit pool qid port) s = .next (s.answer .queueFenced []) := by
  change execQueueCommit pool qid port s = _
  exact if_pos (by simpa using .inr failed)

theorem exec_queueAbort_of_error : exec (.queueAbort pool qid port) s = .next (s.answer .queueFenced []) := by
  change execQueueAbort pool qid port s = _
  exact if_pos (by simpa using .inr failed)

end

/-! ### OPEN (R337, R344) -/

section
variable {ty : Nat} {ctx : Option Nat} (known : queueOk pool qid = true) (low : port < 8)
  (enabled : (s.queue pool qid).enabled = true) (unfenced : (s.queue pool qid).fence = none)
include known low enabled unfenced

theorem exec_queueOpen_of_ready : exec (.queueOpen pool qid port ty ctx) s =
    if ((s.queue pool qid).ports.find port).isSome then .next (s.answer .portBusy [])
    else if (s.pool pool).mayTake qid 1 then
      .next ((s.setPool pool (((s.pool pool).take ((s.pool pool).pick pool 1)).setQueue qid { s.queue pool qid with
        ports := (s.queue pool qid).ports.set port { ty := ty % 256, ctx := ctx, chain := (s.pool pool).pick pool 1 } })).answer .ok [])
    else .next ((s.setPool pool ((s.pool pool).setQueue qid { s.queue pool qid with
      ports := (s.queue pool qid).ports.set port { ty := ty % 256, ctx := ctx, started := false, since := s.now }
      waits := satN 16 ((s.queue pool qid).waits + 1) })).answer .wait []) := by
  have goes : ¬ (!queueOk pool qid || decide (8 ≤ port) || !(s.queue pool qid).enabled || (s.queue pool qid).fence.isSome) = true := by
    simp [known, low, enabled, unfenced]
  change execQueueOpen pool qid port ty ctx s = _
  exact if_neg goes

end

/-! ### APPEND and COMMIT (R337 to R340) -/

section
variable {o : OpenPacket} (known : queueOk pool qid = true) (enabled : (s.queue pool qid).enabled = true)
  (unfailed : (s.queue pool qid).fence ≠ some .err) (found : (s.queue pool qid).ports.find port = some o)
  (started : o.started = true) (ready : o.waiting = none)
include known enabled unfailed found started ready

theorem exec_queueAppend_of_ready (ws : List W64) (ue : Bool) : exec (.queueAppend pool qid port ws ue) s =
    if ue then .next (((s.setPool pool { s.pool pool with ue := satN 16 ((s.pool pool).ue + 1) }).rewind pool qid port .inputUe).answer
      (.rewound .inputUe) [])
    else if 65535 < o.words.length + ws.length then .next ((s.rewind pool qid port .tooLong).answer (.rewound .tooLong) [])
    else .next ((s.setPool pool (appendWords (s.pool pool) pool qid port o ws s.now).1).answer
      (if (appendWords (s.pool pool) pool qid port o ws s.now).2 then .ok else .wait) []) := by
  have goes : ¬ (!queueOk pool qid || !(s.queue pool qid).enabled || (s.queue pool qid).fence == some .err) = true := by
    simp [known, enabled, unfailed]
  have goes_on : ¬ (!o.started || o.waiting.isSome) = true := by simp [started, ready]
  change execQueueAppend pool qid port ws ue s = _
  unfold execQueueAppend
  extract_lets p q
  refine (if_neg goes).trans ?_
  rw [show q.ports.find port = some o from found]
  exact if_neg goes_on

theorem exec_queueCommit_of_ready : exec (.queueCommit pool qid port) s =
    if o.words.isEmpty then .next ((s.rewind pool qid port .empty).answer (.rewound .empty) [])
    else .next (((s.setPool pool ((s.pool pool).setQueue qid (({ s.queue pool qid with
      ports := (s.queue pool qid).ports.drop port } : Queue).link o.ctx o.ty o.words o.chain))).notify (s.queue pool qid).sink
        (noticeWord pool qid (s.queue pool qid).seqNext o.words.length)).answer .ok []) := by
  have goes : ¬ (!queueOk pool qid || !(s.queue pool qid).enabled || (s.queue pool qid).fence == some .err) = true := by
    simp [known, enabled, unfailed]
  have goes_on : ¬ (!o.started || o.waiting.isSome) = true := by simp [started, ready]
  change execQueueCommit pool qid port s = _
  unfold execQueueCommit
  extract_lets p q seq
  refine (if_neg goes).trans ?_
  rw [show q.ports.find port = some o from found]
  exact if_neg goes_on

end

/-! ### ABORT, late grants and NO_CELL (R340, R343, R344) -/

section
variable {o : OpenPacket} (found : (s.queue pool qid).ports.find port = some o)
include found

theorem State.rewind_producer_of_found : s.rewind pool qid port .producer =
    ((s.setPool pool ((s.pool pool).rewound qid port o)).freedIn pool qid o.cells).emit (.rewound pool qid port (s.queue pool qid).producer .producer) := by
  unfold State.rewind
  extract_lets p q
  rw [show q.ports.find port = some o from found]
  rfl

theorem exec_queueAbort_of_ready (known : queueOk pool qid = true) (unfailed : (s.queue pool qid).fence ≠ some .err) :
    exec (.queueAbort pool qid port) s = .next ((s.rewind pool qid port .producer).answer (.rewound .producer) []) := by
  have goes : ¬ (!queueOk pool qid || (s.queue pool qid).fence == some .err) = true := by simp [known, unfailed]
  change execQueueAbort pool qid port s = _
  exact (if_neg goes).trans (if_neg (by simp [found]))

section
variable (room : (s.pool pool).mayTake qid 1 = true) (open_ : s.now ≤ o.since)
include room open_

theorem exec_producerCellGrant_of_open (waits : o.started = false) : exec (.producerCellGrant pool qid port) s =
    .next ((s.setPool pool (((s.pool pool).take ((s.pool pool).pick pool 1)).setQueue qid { s.queue pool qid with
      ports := (s.queue pool qid).ports.set port { o with started := true, chain := (s.pool pool).pick pool 1 } })).answer .ok []) := by
  have goes : ¬ (!(s.pool pool).mayTake qid 1 || decide (o.since < s.now)) = true := by simp [room, open_]
  change execProducerCellGrant pool qid port s = _
  unfold execProducerCellGrant
  extract_lets p q cs
  rw [show q.ports.find port = some o from found]
  exact (if_neg goes).trans (if_pos (by simp [waits]))

theorem exec_producerCellGrant_of_append {ws : List W64} (started : o.started = true) (waits : o.waiting = some ws) :
    exec (.producerCellGrant pool qid port) s = .next ((s.setPool pool (appendWords (s.pool pool) pool qid port o ws o.since).1).answer
      (if (appendWords (s.pool pool) pool qid port o ws o.since).2 then .ok else .wait) []) := by
  have goes : ¬ (!(s.pool pool).mayTake qid 1 || decide (o.since < s.now)) = true := by simp [room, open_]
  change execProducerCellGrant pool qid port s = _
  unfold execProducerCellGrant
  extract_lets p q cs
  rw [show q.ports.find port = some o from found]
  refine (if_neg goes).trans ((if_neg (by simp [started])).trans ?_)
  rw [waits]

end

theorem exec_queueNoCell_of_waits (waits : o.started = false ∨ o.waiting ≠ none) (late : o.since < s.now) :
    exec (.queueNoCell pool qid port) s = .next ((s.rewind pool qid port .noCell).updQueue pool qid Queue.settle) := by
  have due : (o.waits && decide (o.since < s.now)) = true := by
    simpa [OpenPacket.waits, late, Option.isSome_iff_ne_none] using waits
  change execQueueNoCell pool qid port s = _
  unfold execQueueNoCell
  rw [found]
  exact if_pos due

end

end

/-- A queue that drains is fenced when its last open packet is gone (R356). -/
theorem Queue.settle_of_drained {q : Queue} (drains : q.fence = some .drain) (closed : q.ports = []) : q.settle = { q with fenced := true } :=
  if_pos (by simp [drains, closed])

theorem exec_queueDrained_of_drained {s : State} {pool qid : Nat} (drains : (s.queue pool qid).fence = some .drain)
    (closed : (s.queue pool qid).ports = []) :
    exec (.queueDrained pool qid) s = .next (s.updQueue pool qid fun q => { q with fenced := true }) := by
  change Host.Outcome.next (s.updQueue pool qid Queue.settle) = _
  simp only [State.updQueue, Queue.settle_of_drained drains closed]

/-! ### The obligation -/

/-- Settles O43, each operation by its equation. -/
theorem producersOpenAppendCommitAndEnd : Obligations.ProducersOpenAppendCommitAndEnd := by
  unfold Obligations.ProducersOpenAppendCommitAndEnd
  refine ⟨fun s pool qid port ty ctx known low byte enabled unfenced => ?_, fun s pool qid port ty ctx ws ue known => ?_,
    fun s pool qid port ws o known enabled unfailed found started ready => ?_, fun s pool qid port o known unfailed found => ?_,
    fun s pool qid port o found => ?_, fun s pool qid drains closed => ?_⟩
  · have opened := exec_queueOpen_of_ready (ctx := ctx) (ty := ty) known low enabled unfenced
    rw [Nat.mod_eq_of_lt byte] at opened
    have idle (free : (s.queue pool qid).ports.find port = none) : ¬ ((s.queue pool qid).ports.find port).isSome = true := by simp [free]
    refine ⟨fun free room => ?_, fun free short => ?_, fun busy => ?_⟩
    · exact opened.trans ((if_neg (idle free)).trans (if_pos room))
    · exact opened.trans ((if_neg (idle free)).trans (if_neg (by simp [short])))
    · exact opened.trans (if_pos (Option.isSome_iff_ne_none.mpr busy))
  · exact ⟨exec_queueOpen_of_fenced, fun failed =>
      ⟨exec_queueAppend_of_error failed, exec_queueCommit_of_error failed, exec_queueAbort_of_error failed⟩⟩
  · have appended := exec_queueAppend_of_ready known enabled unfailed found started ready ws
    have committed := exec_queueCommit_of_ready known enabled unfailed found started ready
    refine ⟨fun fits room => ?_, fun fits some_words short => ?_, fun long => ?_, ?_, fun some_words => ?_, fun empty => ?_⟩
    · refine (appended false).trans ((if_neg Bool.false_ne_true).trans ((if_neg (Nat.not_lt.mpr fits)).trans ?_))
      rw [appendWords_of_room room]
      obtain ⟨ty, ctx, words, began, waiting, since, chain⟩ := o
      cases ready
      rfl
    · refine ⟨(Pool.most_of_short short).1, Pool.mayTake_most .., (Pool.most_of_short short).2, ?_⟩
      refine (appended false).trans ((if_neg Bool.false_ne_true).trans ((if_neg (Nat.not_lt.mpr fits)).trans ?_))
      rw [appendWords_of_short some_words ready short]
      rfl
    · exact (appended false).trans ((if_neg Bool.false_ne_true).trans (if_pos long))
    · exact (appended true).trans (if_pos rfl)
    · exact committed.trans (if_neg (by simpa using some_words))
    · exact committed.trans (if_pos (by simp [empty]))
  · rw [exec_queueAbort_of_ready found known unfailed, State.rewind_producer_of_found found]
    rfl
  · refine ⟨fun waits room open_ => exec_producerCellGrant_of_open found room open_ waits,
      fun ws started waits needed room open_ => ?_, exec_queueNoCell_of_waits found⟩
    rw [exec_producerCellGrant_of_append found room open_ started waits, appendWords_of_room needed]
    rfl
  · exact exec_queueDrained_of_drained drains closed

end Sys2Proof.Machine
end

section
/-! SUPPORT. Proofs/Consumers.lean: reads, cursors, releases, purges and sweeps of packets, and held events (R348 to R364, R406). -/
namespace Sys2Proof.Machine

/-! ### Tables and lists -/

/-- An entry that is listed is put back. -/
theorem Tbl.set_get_self {κ α : Type} [DecidableEq κ] {t : Tbl κ α} {k : κ} {d : α} (listed : t.get d k ≠ d) : t.set k (t.get d k) = t := by
  induction t with
  | nil => exact absurd rfl listed
  | cons e t ih =>
    obtain ⟨l, v⟩ := e
    by_cases here : l = k
    · simp [Tbl.set, Tbl.get, here]
    · simp only [Tbl.get, here, if_false] at listed ⊢
      simp [Tbl.set, here, ih listed]

theorem Tbl.get_drop_ne {κ α : Type} [DecidableEq κ] (t : Tbl κ α) (d : α) {k l : κ} (other : k ≠ l) : (t.drop k).get d l = t.get d l := by
  induction t with
  | nil => rfl
  | cons e t ih =>
    obtain ⟨m, v⟩ := e
    by_cases here : m = k
    · subst here
      simpa [Tbl.drop, Tbl.get, other] using ih
    · have kept : Tbl.drop ((m, v) :: t) k = (m, v) :: Tbl.drop t k := by simp [Tbl.drop, here]
      rw [kept, Tbl.get, Tbl.get, ih]

theorem updAt_eq_self {α : Type} {l : List α} {i : Nat} {f : α → α} (same : ∀ a, l[i]? = some a → f a = a) : updAt l i f = l := by
  induction l generalizing i with
  | nil => rfl
  | cons a l ih =>
    cases i with
    | zero => simp [updAt, same a rfl]
    | succ i => simp [updAt, ih same]

section
variable (s : State) (pool qid : Nat)

@[simp] theorem State.queue_updQueue (f : Queue → Queue) : (s.updQueue pool qid f).queue pool qid = f (s.queue pool qid) := by
  rw [State.queue, State.updQueue, State.pool_setPool, Pool.queue_setQueue]

@[simp] theorem State.answer_pool (st : QStatus) (ws : List W64) : (s.answer st ws).pool pool = s.pool pool := rfl
@[simp] theorem State.answer_queue (st : QStatus) (ws : List W64) : (s.answer st ws).queue pool qid = s.queue pool qid := rfl

/-- A change of one queue leaves every pool's free list. -/
theorem State.updQueue_free (f : Queue → Queue) (p : Nat) : ((s.updQueue pool qid f).pool p).free = (s.pool p).free := by
  by_cases here : pool = p
  · subst here
    rw [State.updQueue, State.pool_setPool]
    rfl
  · rw [State.updQueue, State.pool_setPool_ne _ _ here]

end

/-! ### Chains and their link entries (R331, R355) -/

section
variable {s : State} {pool qid : Nat}

theorem State.follow_of_clean (clean : (s.pool pool).links = []) (cs : List Nat) : s.follow pool cs = (s, false) := by
  unfold State.follow
  induction cs with
  | nil => rfl
  | cons c cs ih => rwa [List.foldl_cons, show (s.pool pool).links.find c = none by rw [clean]; rfl]

theorem State.along_of_clean (clean : (s.pool pool).links = []) (cs : List Nat) (go : State → State) : s.along pool qid cs go = go s := by
  rw [State.along, State.follow_of_clean clean]
  rfl

/-- Once met, an uncorrectable entry stays met. -/
theorem foldl_met {f : State × Bool → Nat → State × Bool} (stays : ∀ r c, r.2 = true → (f r c).2 = true) (cs : List Nat) {r : State × Bool}
    (met : r.2 = true) : (cs.foldl f r).2 = true := by
  induction cs generalizing r with
  | nil => exact met
  | cons c cs ih => exact ih (stays r c met)

/-- A chain with an uncorrectable link entry is found broken, whatever entries stand before that one. -/
theorem State.follow_of_ue {c : Nat} {cs : List Nat} (inside : c ∈ cs) (bad : eccOf ((s.pool pool).links.get 0#8 c) = .ue) :
    (s.follow pool cs).2 = true := by
  unfold State.follow
  generalize start : false = met
  clear start
  induction cs generalizing s met with
  | nil => cases inside
  | cons d cs ih =>
    rw [List.foldl_cons]
    have linked : (s.pool pool).links.get 0#8 d = ((s.pool pool).links.find d).getD 0#8 := Tbl.get_eq_getD_find ..
    split
    · next none_ =>
      have other : c ≠ d := by
        rintro rfl
        rw [linked, show (s.pool pool).links.find c = none from none_] at bad
        cases bad
      exact ih (List.mem_of_ne_of_mem other inside) bad met
    next syn some_ =>
    rw [show (s.pool pool).links.find d = some syn from some_] at linked
    have counted : ((s.countPool pool syn).pool pool).links = (s.pool pool).links := by
      rw [State.countPool, State.pool_setPool]
    dsimp only
    split
    · refine foldl_met (fun r c met => ?_) cs rfl
      split
      · exact met
      · split
        · rfl
        · exact met
    next mild =>
    have other : c ≠ d := by
      rintro rfl
      rw [linked] at bad
      exact mild (beq_iff_eq.mpr bad)
    refine ih (s := (s.countPool pool syn).setPool pool _) (List.mem_of_ne_of_mem other inside) ?_ met
    rw [State.pool_setPool]
    change eccOf (Tbl.get (Tbl.drop ((s.countPool pool syn).pool pool).links d) 0#8 c) = .ue
    rwa [counted, Tbl.get_drop_ne _ _ (Ne.symm other)]

theorem State.along_of_ue {c : Nat} {cs : List Nat} (inside : c ∈ cs) (bad : eccOf ((s.pool pool).links.get 0#8 c) = .ue) (go : State → State) :
    s.along pool qid cs go = (s.follow pool cs).1.linkUe pool qid := if_pos (State.follow_of_ue inside bad)

/-- A rewind by a fence leaves the queue's fence. -/
theorem State.rewind_fence_fence (s : State) (pool qid port : Nat) :
    ((s.rewind pool qid port .fence).queue pool qid).fence = (s.queue pool qid).fence := by
  unfold State.rewind
  extract_lets p q
  split
  · rfl
  next o found =>
  extract_lets s1 spec
  have after : (s.setPool pool (p.rewound qid port o)).queue pool qid = (p.rewound qid port o).queue qid := by
    rw [State.queue, State.pool_setPool]
  have kept : ((s.setPool pool (p.rewound qid port o)).queue pool qid).fence = (s.queue pool qid).fence := by
    rw [after]
    change ((p.setQueue qid _).queue qid).fence = _
    rw [Pool.queue_setQueue]
    rfl
  have queues {a b : State} (same : a.pools = b.pools) : a.queue pool qid = b.queue pool qid := by rw [State.queue, State.pool, same]; rfl
  obtain same | withheld := (s.setPool pool (p.rewound qid port o)).freedIn_pools pool qid o.cells
  · exact (congrArg Queue.fence (queues (a := s1) same)).trans kept
  · refine (congrArg Queue.fence (queues (a := s1) withheld)).trans ?_
    rw [State.queue_updQueue]
    exact kept

/-- QUEUE_LINK_UE fences its queue in error mode and asks for a sweep (R355). -/
theorem State.linkUe_fenced (s : State) (pool qid : Nat) : (s.linkUe pool qid).queueStatus = .queueFenced ∧
    ((s.linkUe pool qid).queue pool qid).fence = some .err ∧ ((s.linkUe pool qid).pool pool).sweepDue = true := by
  unfold State.linkUe
  extract_lets s1 s2 p s3
  have rewound (ports : List Nat) (t : State) :
      ((forL ports (fun port s => s.rewind pool qid port .fence) t).queue pool qid).fence = (t.queue pool qid).fence := by
    induction ports generalizing t with
    | nil => rfl
    | cons port ports ih => exact (ih _).trans (State.rewind_fence_fence ..)
  have fenced : (s3.queue pool qid).fence = some .err := by
    have same : s3.queue pool qid = s2.queue pool qid := by
      rw [State.queue, State.pool_setPool]
      rfl
    rw [same, rewound, State.queue_updQueue]
  have asked : (s3.pool pool).sweepDue = true := by rw [State.pool_setPool]
  have filed := s3.raise_filed { code := Rec.queueLinkUe, cls := .uc, unit := .iod pool, a := BitVec.ofNat 64 qid }
  exact ⟨rfl, (filed.fence pool qid).trans fenced, (congrArg Prod.fst (filed.sweep pool)).trans asked⟩

end

/-! ### READ (R348, R353, R355) -/

/-- The cursor's packet after a READ of its words from `from_` up to `last`: what was read is written back corrected (R353). -/
def Packet.readBack (k : Packet) (from_ last : Nat) : Packet :=
  let read (i : Nat) : Bool := from_ ≤ i && i < last
  { k with
    words := (List.range k.words.length).map fun i => if read (i + 1) then k.deliver (i + 1) else k.words.getD i 0#64
    syn := k.syn.filter fun e => !(read e.1) || eccOf e.2 == .ue }

/-- What a READ does once its link entries let it: words of packet `k`, the cursor's of `q`, up to `last` are delivered, and the cursor's
offset advances (R348). -/
def State.readOut (q : Queue) (k : Packet) (pool qid last : Nat) (s : State) : State :=
  let out := (List.range (last - q.offset)).map fun i => k.deliver (q.offset + i)
  ((s.poolErrors pool qid k q.offset out.length).updQueue pool qid fun r => { r with
    offset := last, packets := updAt r.packets (q.cursor - q.base) fun k => k.readBack q.offset last }).answer .ok out

section
variable {k : Packet} (clean : k.syn = [])
include clean

theorem Packet.deliver_of_clean (n : Nat) : k.deliver n = (lengthSlot k.seq k.ctx k.ty k.words.length :: k.words).getD n 0#64 := by
  have cell (i j : Nat) (low : j < 32) : (k.cellWords i).getD j 0#64 =
      (lengthSlot k.seq k.ctx k.ty k.words.length :: k.words).getD (32 * i + j) 0#64 := by
    unfold Packet.cellWords
    generalize lengthSlot k.seq k.ctx k.ty k.words.length :: k.words = ws
    simp only [List.getD_eq_getElem?_getD, List.getElem?_append, List.getElem?_replicate, List.getElem?_take_of_lt low, List.getElem?_drop,
      List.length_take, List.length_drop]
    split
    · rfl
    · rw [List.getElem?_eq_none (by omega)]
      split <;> rfl
  rw [Packet.deliver, clean]
  change (k.cellWords (n / 32)).getD (n % 32) 0#64 = _
  rw [cell _ _ (Nat.mod_lt _ (by decide)), Nat.div_add_mod]

theorem Packet.readBack_of_clean (from_ last : Nat) : k.readBack from_ last = k := by
  have words : (k.readBack from_ last).words = k.words := by
    refine List.ext_getElem (by simp [Packet.readBack]) fun i _ low => ?_
    have word : k.words.getD i 0#64 = k.words[i] := by simp [low]
    have delivered : k.deliver (i + 1) = k.words[i] := by
      rw [Packet.deliver_of_clean clean]
      exact word
    simp only [Packet.readBack, List.getElem_map, List.getElem_range, delivered, word, ite_self]
  have syn : (k.readBack from_ last).syn = k.syn := by
    rw [Packet.readBack, clean]
    rfl
  exact congrArg₂ (fun words syn => { k with words := words, syn := syn }) words syn

/-- The words from an offset on, length slot first. -/
theorem Packet.map_deliver_of_clean (from_ n : Nat) :
    (List.range (min (from_ + n) (k.words.length + 1) - from_)).map (fun i => k.deliver (from_ + i)) =
      ((lengthSlot k.seq k.ctx k.ty k.words.length :: k.words).drop from_).take n := by
  simp only [Packet.deliver_of_clean clean]
  generalize slots : lengthSlot k.seq k.ctx k.ty k.words.length :: k.words = ws
  have total : ws.length = k.words.length + 1 := by rw [← slots, List.length_cons]
  refine List.ext_getElem (by simp [total]; omega) fun i below _ => ?_
  have inside : from_ + i < ws.length := by
    rw [List.length_map, List.length_range] at below
    omega
  simp [inside]

end

section
variable {s : State} {pool qid : Nat} {k : Packet} (known : queueOk pool qid = true)
include known

section
variable (found : (s.queue pool qid).packets[(s.queue pool qid).cursor - (s.queue pool qid).base]? = some k)
include found

theorem exec_queueRead_of_found (n : Nat) : exec (.queueRead pool qid n [] []) s =
    if min ((s.queue pool qid).offset + n) (k.words.length + 1) ≤ (s.queue pool qid).offset then .next (s.answer .atEnd [])
    else .next (s.along pool qid (k.chain.take ((min ((s.queue pool qid).offset + n) (k.words.length + 1) - 1) / 32))
      (State.readOut (s.queue pool qid) k pool qid (min ((s.queue pool qid).offset + n) (k.words.length + 1)))) := by
  have listed : s.queue pool qid ≠ {} := fun default => by
    rw [default] at found
    cases found
  have queue_back : (s.pool pool).setQueue qid (s.queue pool qid) = s.pool pool :=
    congrArg (fun queues => { s.pool pool with queues := queues }) (Tbl.set_get_self listed)
  have pool_back : s.setPool pool (s.pool pool) = s := by
    refine congrArg (fun pools => { s with pools := pools }) (Tbl.set_get_self fun default => listed ?_)
    rw [State.queue, State.pool, default]
    rfl
  change execQueueRead pool qid n [] [] s = _
  unfold execQueueRead
  extract_lets q at_
  refine (if_neg (by simp [known])).trans ?_
  rw [show q.packets[at_]? = some k from found]
  have same : updAt q.packets at_ (fun _ => k) = q.packets := updAt_eq_self fun a there => Option.some.inj (found.symm.trans there)
  have kept : s.setPool pool (((s.pool pool).setQueue qid { q with packets := updAt q.packets at_ fun _ => k }).upsetLinks k.chain []) = s := by
    rw [same]
    exact (congrArg (s.setPool pool) queue_back).trans pool_back
  exact congrArg (fun s => if min (q.offset + n) (k.words.length + 1) ≤ q.offset then Host.Outcome.next (s.answer .atEnd [])
    else .next (s.along pool qid (k.chain.take ((min (q.offset + n) (k.words.length + 1) - 1) / 32))
      (State.readOut q k pool qid (min (q.offset + n) (k.words.length + 1))))) kept

theorem exec_queueRead_of_end (at_end : (s.queue pool qid).offset = k.words.length + 1) (n : Nat) :
    exec (.queueRead pool qid n [] []) s = .next (s.answer .atEnd []) :=
  (exec_queueRead_of_found known found n).trans (if_pos (by omega))

section
variable {n : Nat} (some_words : 0 < n) (before : (s.queue pool qid).offset ≤ k.words.length)
include some_words before

theorem exec_queueRead_of_before : exec (.queueRead pool qid n [] []) s =
    .next (s.along pool qid (k.chain.take ((min ((s.queue pool qid).offset + n) (k.words.length + 1) - 1) / 32))
      (State.readOut (s.queue pool qid) k pool qid (min ((s.queue pool qid).offset + n) (k.words.length + 1)))) :=
  (exec_queueRead_of_found known found n).trans (if_neg (by omega))

/-- Clean words come out, and nothing but the cursor's offset changes. -/
theorem exec_queueRead_of_clean (clean : k.syn = []) (links : (s.pool pool).links = []) : exec (.queueRead pool qid n [] []) s =
    .next ((s.updQueue pool qid fun q => { q with offset := min (q.offset + n) (k.words.length + 1) }).answer .ok
      (((lengthSlot k.seq k.ctx k.ty k.words.length :: k.words).drop (s.queue pool qid).offset).take n)) := by
  have silent (m : Nat) : s.poolErrors pool qid k (s.queue pool qid).offset m = s := by
    rw [State.poolErrors, clean]
    rfl
  have same (last : Nat) : updAt (s.queue pool qid).packets ((s.queue pool qid).cursor - (s.queue pool qid).base)
      (fun k => k.readBack (s.queue pool qid).offset last) = (s.queue pool qid).packets := updAt_eq_self fun a there => by
    obtain rfl : k = a := Option.some.inj (found.symm.trans there)
    exact Packet.readBack_of_clean clean ..
  rw [exec_queueRead_of_before known found some_words before, State.along_of_clean links, State.readOut, silent, Packet.map_deliver_of_clean clean]
  simp only [State.updQueue, same]

theorem exec_queueRead_of_ue {i c : Nat} (reached : i < (min ((s.queue pool qid).offset + n) (k.words.length + 1) - 1) / 32)
    (cell : k.chain[i]? = some c) (bad : eccOf ((s.pool pool).links.get 0#8 c) = .ue) :
    ∃ u : State, exec (.queueRead pool qid n [] []) s = .next (u.linkUe pool qid) := by
  have inside : c ∈ k.chain.take ((min ((s.queue pool qid).offset + n) (k.words.length + 1) - 1) / 32) :=
    List.mem_of_getElem? ((List.getElem?_take_of_lt reached).trans cell)
  exact ⟨_, (exec_queueRead_of_before known found some_words before).trans (congrArg Host.Outcome.next (State.along_of_ue inside bad _))⟩

end

end

theorem exec_queueRead_of_none (none_ : (s.queue pool qid).packets[(s.queue pool qid).cursor - (s.queue pool qid).base]? = none) (n : Nat) :
    exec (.queueRead pool qid n [] []) s = .next (s.answer .empty []) := by
  change execQueueRead pool qid n [] [] s = _
  unfold execQueueRead
  extract_lets q at_
  refine (if_neg (by simp [known])).trans ?_
  rw [show q.packets[at_]? = none from none_]

/-! ### NEXT, MARK and REWIND (R348, R349) -/

theorem exec_queueNext_of_found (found : (s.queue pool qid).packets[(s.queue pool qid).cursor - (s.queue pool qid).base]? = some k)
    (links : (s.pool pool).links = []) : exec (.queueNext pool qid) s =
      .next ((s.updQueue pool qid fun q => { q with cursor := q.cursor + 1, offset := 0 }).answer .ok []) := by
  change execQueueNext pool qid s = _
  unfold execQueueNext
  extract_lets q
  rw [show q.packets[q.cursor - q.base]? = some k from found]
  exact (if_neg (by simp [known])).trans (congrArg Host.Outcome.next (State.along_of_clean links ..))

theorem exec_queueMark_of_known {m : Nat} (low : m < 4) : exec (.queueMark pool qid m) s =
    .next ((s.updQueue pool qid fun q => { q with marks := q.marks.set m (q.cursor, q.offset) }).answer .ok []) :=
  if_neg (by simp [known, low])

/-! ### RELEASE (R348, R350, R351) -/

theorem exec_queueRelease_of_behind {n : Nat} (behind : n ≤ (s.queue pool qid).cursor - (s.queue pool qid).base)
    (held : n ≤ (s.queue pool qid).packets.length) (links : (s.pool pool).links = []) : exec (.queueRelease pool qid n) s =
      .next (((s.setPool pool ((s.pool pool).release qid n)).freedIn pool qid (sumCells ((s.queue pool qid).packets.take n))).answer .ok []) := by
  change execQueueRelease pool qid n s = _
  unfold execQueueRelease
  extract_lets q
  have goes : ¬ (!queueOk pool qid || decide (q.cursor - q.base < n) || decide (q.packets.length < n)) = true := by
    simp [known, q, behind, held]
  exact (if_neg goes).trans (congrArg Host.Outcome.next (State.along_of_clean links ..))

end

section
variable {s : State} {pool qid : Nat}

theorem exec_queueNext_of_none (none_ : (s.queue pool qid).packets[(s.queue pool qid).cursor - (s.queue pool qid).base]? = none) :
    exec (.queueNext pool qid) s = .next (s.answer .empty []) := by
  change execQueueNext pool qid s = _
  unfold execQueueNext
  extract_lets q
  rw [show q.packets[q.cursor - q.base]? = none from none_]

theorem exec_queueCursorRewind_of_marked {m c o : Nat} (marked : (s.queue pool qid).marks.find m = some (c, o)) :
    exec (.queueCursorRewind pool qid m) s = .next ((s.updQueue pool qid fun q => { q with cursor := c, offset := o }).answer .ok []) := by
  change execQueueCursorRewind pool qid m s = _
  rw [execQueueCursorRewind, marked]

theorem exec_queueCursorRewind_of_gone {m : Nat} (gone : (s.queue pool qid).marks.find m = none) :
    exec (.queueCursorRewind pool qid m) s = .next (s.answer .markGone []) := by
  change execQueueCursorRewind pool qid m s = _
  rw [execQueueCursorRewind, gone]

theorem exec_queueRelease_of_short {n : Nat} (short : (s.queue pool qid).cursor - (s.queue pool qid).base < n ∨ (s.queue pool qid).packets.length < n) :
    exec (.queueRelease pool qid n) s = .next (s.answer .releaseRange []) := by
  change execQueueRelease pool qid n s = _
  unfold execQueueRelease
  extract_lets q
  have refused : (!queueOk pool qid || decide (q.cursor - q.base < n) || decide (q.packets.length < n)) = true := by
    simp only [Bool.or_eq_true, decide_eq_true_eq, or_assoc]
    exact .inr short
  exact if_pos refused

/-! ### PURGE (R348) -/

theorem exec_queuePurge_of_refused {seq : Nat} (refused : (∀ k ∈ (s.queue 0 0x180).packets, k.seq ≠ seq) ∨ pool ≠ 0 ∨ qid ≠ 0x180) :
    exec (.queuePurge pool qid seq) s = .next (s.answer .purgeRange []) := by
  change execQueuePurge pool qid seq s = _
  unfold execQueuePurge
  extract_lets q
  refine if_pos ?_
  simp only [Bool.or_eq_true, decide_eq_true_eq, Bool.not_eq_true', List.any_eq_false, beq_iff_eq]
  by_cases other : pool ≠ 0 ∨ qid ≠ 0x180
  · exact .inl other
  · obtain ⟨rfl, rfl⟩ : pool = 0 ∧ qid = 0x180 := by omega
    exact .inr (refused.resolve_right other)

/-- The packet at place `i` is the first with its SEQ. -/
theorem Pool.purge_of_first {p : Pool} {seq i : Nat} {k : Packet} (found : (p.queue qid).packets[i]? = some k) (own : k.seq = seq)
    (first : ∀ j < i, ∀ k', (p.queue qid).packets[j]? = some k' → k'.seq ≠ seq) :
    ((p.purge qid seq).queue qid).packets = (p.queue qid).packets.take i ++ (p.queue qid).packets.drop (i + 1) ∧
    (p.purge qid seq).free = p.free + k.cells ∧
    ((p.purge qid seq).queue qid).cursor = if (p.queue qid).base + i < (p.queue qid).cursor then (p.queue qid).cursor - 1 else (p.queue qid).cursor := by
  obtain ⟨below, here⟩ := List.getElem?_eq_some_iff.mp found
  have place : ((p.queue qid).packets.findIdx? fun k => k.seq == seq) = some i := by
    refine List.findIdx?_eq_some_iff_getElem.mpr ⟨below, by simp [here, own], fun j before => ?_⟩
    simpa using first j before _ (List.getElem?_eq_getElem (by omega))
  have cells : sumCells (((p.queue qid).packets.drop i).take 1) = k.cells := by
    rw [List.drop_eq_getElem_cons below, here]
    simp
  unfold Pool.purge
  extract_lets q
  rw [place]
  refine ⟨?_, congrArg (p.free + ·) cells, ?_⟩
  · change ((p.setQueue qid _).queue qid).packets = _
    rw [Pool.queue_setQueue]
  · change ((p.setQueue qid _).queue qid).cursor = _
    rw [Pool.queue_setQueue]

theorem exec_queuePurge_of_found {seq : Nat} (found : ∃ k ∈ (s.queue 0 0x180).packets, k.seq = seq) (links : (s.pool 0).links = []) :
    exec (.queuePurge 0 0x180 seq) s = .next (({ s.setPool 0 ((s.pool 0).purge 0x180 seq) with
      faults := { s.faults with records := s.faults.records.filter fun r => r.seq ≠ seq } } : State).answer .ok []) := by
  change execQueuePurge 0 0x180 seq s = _
  unfold execQueuePurge
  extract_lets q
  refine (if_neg ?_).trans (congrArg Host.Outcome.next (State.along_of_clean links ..))
  obtain ⟨k, inside, own⟩ := found
  simpa using ⟨k, inside, own⟩

end

end Sys2Proof.Machine
end

section
/-! SUPPORT. Proofs/Sweeps.lean: sweeps of a pool, events that the kettle held, and the consumers' obligation (R362 to R364, R406). -/
namespace Sys2Proof.Machine

/-! ### Queues that a sweep resets (R358, R364) -/

section
variable (p : Pool) {qid n : Nat}

theorem Pool.resetQueue_queue (qid : Nat) : ((p.resetQueue qid).queue qid).packets = [] ∧ ((p.resetQueue qid).queue qid).ports = [] := by
  unfold Pool.resetQueue
  extract_lets q fence q' p'
  have entry : p'.queue qid = q' := Pool.queue_setQueue ..
  exact ⟨congrArg Queue.packets entry, congrArg Queue.ports entry⟩

theorem Pool.resetQueue_queue_ne (other : qid ≠ n) : (p.resetQueue qid).queue n = p.queue n := Pool.queue_setQueue_ne _ _ other

end

theorem State.resetQueue_pool (s : State) (pool qid : Nat) : (s.resetQueue pool qid).pool pool = (s.pool pool).resetQueue qid := State.pool_setPool ..

/-! ### The sweep (R362 to R364) -/

/-- A pool after a sweep that has reset `resets` queues, at steep `now`: what no chain reaches is free (R363, R364). -/
def Pool.afterSweep (p : Pool) (resets now : Nat) : Pool :=
  let r := { p with queues := p.queues.map fun (e : Nat × Queue) => (e.1, p.swept e.2) }
  let free := 262144 - (r.snapshot.queued + r.snapshot.opened + r.snapshot.held)
  { r with
    free := free, recovered := satN 16 (free - p.free), resetQueues := satN 16 resets
    sweepSteep := now % 2 ^ 32, sweeping := false, releaseDue := true }

theorem Pool.afterSweep_queue (p : Pool) (resets now qid : Nat) : (p.afterSweep resets now).queue qid = p.swept (p.queue qid) :=
  Tbl.get_map p.queues p.swept {} qid

/-- A queue that holds nothing holds nothing after the sweep. -/
theorem Pool.afterSweep_queue_of_empty {p : Pool} {qid : Nat} (empty : (p.queue qid).packets = [] ∧ (p.queue qid).ports = []) (resets now : Nat) :
    ((p.afterSweep resets now).queue qid).packets = [] ∧ ((p.afterSweep resets now).queue qid).ports = [] := by
  obtain ⟨packets, ports⟩ := empty
  rw [Pool.afterSweep_queue]
  refine ⟨?_, ports⟩
  change p.reached (p.queue qid).packets = []
  rw [packets]
  rfl

section
variable {s : State} {pool : Nat} (sweeping : (s.pool pool).sweeping = true)
include sweeping

theorem exec_poolSweepComplete_of_uncrossed :
    exec (.poolSweepComplete ⟨pool, []⟩) s = .next (s.setPool pool ((s.pool pool).afterSweep 0 s.now)) := by
  change execPoolSweepComplete ⟨pool, []⟩ s = _
  exact if_neg (by simp [sweeping])

/-- Both queues of a crossed pair are reset before the recount, and the pair is recorded. -/
theorem exec_poolSweepComplete_of_crossed {a b : Nat} (apart : a ≠ b) (first : 0 < ((s.pool pool).queue a).cells)
    (second : 0 < ((s.pool pool).queue b).cells) :
    exec (.poolSweepComplete ⟨pool, [(a, b)]⟩) s =
      .next ((((s.resetQueue pool a).resetQueue pool b).setPool pool
        ((((s.pool pool).resetQueue a).resetQueue b).afterSweep 2 s.now)).raise {
          code := Rec.queueCrosslink, cls := .uc, unit := .iod pool, a := BitVec.ofNat 64 a, b := BitVec.ofNat 64 b }) := by
  have pairs : ([(a, b)].filter fun e => decide (e.1 ≠ e.2) && decide (0 < ((s.pool pool).queue e.1).cells) &&
      decide (0 < ((s.pool pool).queue e.2).cells)) = [(a, b)] := by simp [apart, first, second]
  have queues : (([(a, b)] : List (Nat × Nat)).flatMap fun e => [e.1, e.2]).eraseDups = [a, b] := by
    simp [List.eraseDups_cons, Ne.symm apart]
  have reset : ((s.resetQueue pool a).resetQueue pool b).pool pool = ((s.pool pool).resetQueue a).resetQueue b := by
    rw [State.resetQueue_pool, State.resetQueue_pool]
  change execPoolSweepComplete ⟨pool, [(a, b)]⟩ s = _
  unfold execPoolSweepComplete
  refine (if_neg (by simp [sweeping])).trans ?_
  dsimp only
  rw [pairs, queues]
  change Host.Outcome.next ((((s.resetQueue pool a).resetQueue pool b).setPool pool
    ((((s.resetQueue pool a).resetQueue pool b).pool pool).afterSweep 2 s.now)).raise _) = _
  rw [reset]

end

/-! ### Events that the kettle holds (R406, R843) -/

theorem exec_heldEventWrite_of_room {s : State} {x : Nat} {e : Event} {rest : List Event} (held : (s.ctx x).held = e :: rest)
    (enabled : (s.queue 0 (0x181 + x)).enabled = true) (unfenced : (s.queue 0 (0x181 + x)).fence = none)
    (room : (s.pool 0).mayTake (0x181 + x) (cellsFor (s.eventWords e).length) = true) :
    ∃ u, s.put 0 (0x181 + x) (some x) Config.eventType.toNat (s.eventWords e) = some u ∧
      exec (.heldEventWrite x) s = .next (u.updCtx x fun c => { c with held := rest }) := by
  refine ⟨_, State.put_eq_some_iff.mpr ⟨⟨enabled, unfenced, room, Nat.succ_pos 3⟩, rfl⟩, ?_⟩
  change execHeldEventWrite x s = _
  unfold execHeldEventWrite
  extract_lets c
  rw [show c.held = e :: rest from held]
  dsimp only
  rw [State.put_eq_some_iff.mpr ⟨⟨enabled, unfenced, room, Nat.succ_pos 3⟩, rfl⟩]

/-! ### The obligation -/

/-- Settles O44, each operation by its equation; an uncorrectable link entry by `State.linkUe_fenced`, and the record of a crossed pair by
what records leave of the pools (`Filed`). -/
theorem consumersReadMarkAndRelease : Obligations.ConsumersReadMarkAndRelease := by
  unfold Obligations.ConsumersReadMarkAndRelease
  refine ⟨fun s pool qid n k known found some_words before => ⟨fun clean links => ?_, fun i c reached cell bad => ?_⟩,
    fun s pool qid n k known => ⟨fun found at_end => ?_, fun none_ => ?_⟩,
    fun s pool qid known => ⟨fun below above links => ?_, fun beyond => ?_, fun m low => exec_queueMark_of_known known low⟩,
    fun s pool qid m => ⟨fun c o marked => exec_queueCursorRewind_of_marked marked, exec_queueCursorRewind_of_gone⟩,
    fun s pool qid n known => ⟨fun behind held links => ?_, exec_queueRelease_of_short⟩,
    fun s seq => ⟨fun i k found own first links => ?_, fun pool qid refused => exec_queuePurge_of_refused refused⟩,
    fun s pool sweeping => ?_, fun s pool a b sweeping apart first second => ?_, fun s x e rest held enabled unfenced room => ?_⟩
  · refine ⟨_, exec_queueRead_of_clean known found some_words before clean links, rfl, rfl, ?_, fun p => ?_, rfl⟩
    · rw [State.answer_queue, State.queue_updQueue]
    · rw [State.answer_pool, State.updQueue_free]
  · obtain ⟨u, read⟩ := exec_queueRead_of_ue known found some_words before reached cell bad
    exact ⟨_, read, u.linkUe_fenced pool qid⟩
  · exact ⟨_, exec_queueRead_of_end known found at_end n, rfl, rfl, rfl⟩
  · exact ⟨_, exec_queueRead_of_none known none_ n, rfl, rfl, rfl⟩
  · exact exec_queueNext_of_found known (List.getElem?_eq_getElem (by omega)) links
  · exact exec_queueNext_of_none (List.getElem?_eq_none (by omega))
  · rw [exec_queueRelease_of_behind known behind held links, Pool.release, Nat.min_eq_left held]
    rfl
  · have inside : ∃ k ∈ (s.queue 0 0x180).packets, k.seq = seq := ⟨k, List.mem_of_getElem? found, own⟩
    obtain ⟨packets, free, cursor⟩ := Pool.purge_of_first found own first
    have pool : (s.setPool 0 ((s.pool 0).purge 0x180 seq)).pool 0 = (s.pool 0).purge 0x180 seq := State.pool_setPool ..
    exact ⟨_, exec_queuePurge_of_found inside links, rfl, (congrArg (fun p => (Pool.queue p 0x180).packets) pool).trans packets,
      (congrArg Pool.free pool).trans free, rfl, (congrArg (fun p => (Pool.queue p 0x180).cursor) pool).trans cursor⟩
  · refine ⟨_, exec_poolSweepComplete_of_uncrossed sweeping, ?_⟩
    simp only [State.queue, State.pool_setPool, Pool.afterSweep_queue]
    exact ⟨fun _ => ⟨rfl, rfl⟩, rfl, rfl, rfl, rfl, rfl, rfl, rfl⟩
  · refine ⟨_, exec_poolSweepComplete_of_crossed sweeping apart first second, ?_⟩
    generalize swept : (((s.pool pool).resetQueue a).resetQueue b).afterSweep 2 s.now = p
    have filed := (((s.resetQueue pool a).resetQueue pool b).setPool pool p).raise_filed {
      code := Rec.queueCrosslink, cls := .uc, unit := .iod pool, a := BitVec.ofNat 64 a, b := BitVec.ofNat 64 b }
    have own : (((s.resetQueue pool a).resetQueue pool b).setPool pool p).pool pool = p := State.pool_setPool ..
    have flags := (filed.sweep pool).trans (congrArg (fun p : Pool => (p.sweepDue, p.sweeping, p.resetQueues)) own)
    refine ⟨(congrArg (fun f => f.2.2) flags).trans (by rw [← swept]; rfl), (congrArg (fun f => f.2.1) flags).trans (by rw [← swept]; rfl),
      fun q listed low => ?_⟩
    have empty : ((((s.pool pool).resetQueue a).resetQueue b).queue q).packets = [] ∧
        ((((s.pool pool).resetQueue a).resetQueue b).queue q).ports = [] := by
      obtain rfl | rfl := listed
      · rw [Pool.resetQueue_queue_ne _ (Ne.symm apart)]
        exact Pool.resetQueue_queue ..
      · exact Pool.resetQueue_queue ..
    have kept := (filed.rest pool q low).trans (congrArg (fun p => Pool.queue p q) own)
    rw [State.queue, State.pool, kept, ← swept]
    exact Pool.afterSweep_queue_of_empty empty ..
  · obtain ⟨u, put, written⟩ := exec_heldEventWrite_of_room held enabled unfenced room
    refine ⟨_, written, ?_, ?_⟩
    · rw [State.ctx_updCtx]
    · exact (congrArg Queue.packets (State.put_queue put)).trans rfl

end Sys2Proof.Machine
end
